-- ==== Sys2Proof/Word.lean ====
section
/-! DEFINITION. The words of the machine, the names of its operand fields, and the records that the
events of the opcode table carry (messages of the host, sensor readings, power outcomes). Plain data only. -/

namespace Sys2Proof

/-- A byte of storage (R10). -/
abbrev Byte := BitVec 8
/-- A 32-bit word: an instruction (R13) or an FP32 value. -/
abbrev Word := BitVec 32
/-- A 64-bit doubleword: an x or f register, a status register (R39, R46). -/
abbrev DWord := BitVec 64
/-- A 5-bit field that names an x or f register (R14). -/
abbrev Reg := BitVec 5
/-- A 5-bit field that names a vector register (R14). -/
abbrev VReg := BitVec 5
/-- A 4-bit field that names a predicate (R14). -/
abbrev PReg := BitVec 4
/-- A 3-bit field that names a condition bit (R14). -/
abbrev CReg := BitVec 3
/-- A 4-bit field that names a handle register (R290). -/
abbrev HReg := BitVec 4
/-- A 2-bit field that names an accumulator (R201). -/
abbrev ZReg := BitVec 2

/-- The form field of a V word: which file the second source comes from (R19). -/
inductive Form where
  | vv | vx | vf | vi
  deriving DecidableEq, Repr

/-- The format field of OPF and FMAF words: FP32, FP64, FP16, BF16 (R23, R30). -/
inductive FFmt where
  | s | d | h | b
  deriving DecidableEq, Repr

/-- The combine mode of a compare (R18). -/
inductive Combine where
  | set | and | or | xor
  deriving DecidableEq, Repr

/-- The width of a plain vector access: 8, 16, 32 or 64 bits (R20). -/
inductive EW where
  | e8 | e16 | e32 | e64
  deriving DecidableEq, Repr

/-- Which of the three status writes a word is (R389). -/
inductive StatusOp where
  | swr | sset | sclr
  deriving DecidableEq, Repr

/-- The header of a Derpor message (R402). -/
structure DerporHeader where
  stamp : Nat
  src : BitVec 16
  ctx : Nat
  queue : BitVec 4
  reserved : BitVec 26
  op : BitVec 4
  cls : BitVec 4
  deriving DecidableEq, Repr

/-- The 64-byte body of a DEFINE as eight doublewords (R404). -/
structure DefineRequest where
  d0 : DWord
  d1 : DWord
  d2 : DWord
  d3 : DWord
  d4 : DWord
  d5 : DWord
  d6 : DWord
  d7 : DWord
  deriving DecidableEq, Repr

/-- The answer of a target to a remote request: cause 0, or a cause code and an address (R409). -/
structure RemoteAnswer where
  cause : BitVec 8
  address : DWord
  deriving DecidableEq, Repr

/-- The body of a gang LAUNCH (R421), with the position of this package in its list of endpoints: the command block is its bytes 0
to 47 as six doublewords. -/
structure GangRequest where
  gangId : Nat
  members : Nat
  position : Nat
  timeout : Nat
  block : List DWord
  endpoints : List Nat
  deriving DecidableEq, Repr

/-- What a message that UET failed to deliver was (R401). -/
inductive LostMessage where
  | operation (op : Nat)
  | message (index : Nat)
  | gangClass
  deriving DecidableEq, Repr

/-- A sensor reading that crossed a limit, in tenths of a degree (R457). -/
structure ThermalReading where
  inlet : Bool
  die : Nat
  bay : Nat
  tenths : Nat
  deriving DecidableEq, Repr

/-- What one patrol pass finds: an uncorrectable line, or a row with a count of corrected errors (R453, R455). -/
inductive PatrolFind where
  | uncorrectable (line : Nat)
  | correctedRow (row count : Nat)
  deriving DecidableEq, Repr

/-- What phases 1 to 7 of power-up found (R439 to R442, R455): the usable dies, slices and ports, the cores and lanes that
failed, and the calibration results by die. -/
structure BringUp where
  dies : BitVec 9
  slices : BitVec 18
  ethernet : BitVec 8
  cxl : BitVec 8
  failedCores : List Nat
  failedLanes : List Nat
  calibration : List (List Byte)
  deriving DecidableEq, Repr

/-- A kind of array with its own code, in the order of R452. -/
inductive ArrayKind where
  | stack | sram | core | cache | mram
  deriving DecidableEq, Repr

/-- A firmware or control-store image with its mode, version, payload and signature, and the public root under which the
signature verifies, or none (R445). DESIGN CHOICE, safe: assumption 8 of the log. -/
structure MramImage where
  controlStore : Option (BitVec 2)
  version : Nat
  payload : List Byte
  signature : List Byte
  signer : Option (List Byte)
  deriving DecidableEq, Repr

/-- A record of MRAM (R443). -/
inductive MramRecord where
  | bankA | bankB | controlStore | config | repair | counters | identity | events
  deriving DecidableEq, Repr

/-- A soft error (R452, R453): bits of memory, a line that an array cannot correct, a message or a stage record in queue memory, a
core array, a cache entry of a core or of a bay, a copy of an MRAM record, or an array whose code corrected it. -/
inductive Upset where
  | memory (address : Nat) (flip : Byte)
  | uncorrectableLine (kind : ArrayKind) (line : Nat) (core : Option Nat)
  | message (ctx queue index : Nat)
  | stageRecord (launch bay stage index : Nat)
  | register (ctx : Nat) (core : Nat)
  | cache (core : Nat) (fetch : Bool) (entry : Nat)
  | bayCache (bay entry : Nat)
  | mram (die : Nat) (record : MramRecord) (second : Bool)
  | corrected (kind : ArrayKind)
  deriving DecidableEq, Repr

/-- A write of MRAM that a loss of power cuts (R442, R444): an image, the next signature index, or a repair entry. -/
inductive MramWrite where
  | image (image : MramImage)
  | signatureIndex
  | repair (core : Nat)
  deriving DecidableEq, Repr

/-- A cut write: its die, what it writes, and whether its first copy was whole. -/
structure MramCut where
  die : Nat
  write : MramWrite
  firstDone : Bool
  deriving DecidableEq, Repr

/-- The number of one bits of a word. -/
def popCount {w : Nat} (x : BitVec w) : Nat :=
  ((List.range w).filter fun i => x.getLsbD i).length

/-- The truth of a bit as a 64-bit word. -/
def boolWord (b : Bool) : DWord := if b then 1 else 0

/-- `n` bytes of a value, little-endian (R10). -/
def toBytes (n : Nat) (x : Nat) : List Byte :=
  (List.range n).map fun i => BitVec.ofNat 8 (x / 256 ^ i)

/-- The value of little-endian bytes (R10). -/
def ofBytes : List Byte → Nat
  | [] => 0
  | b :: bs => b.toNat + 256 * ofBytes bs

/-- Bits `lo` to `lo + n - 1` of a number. -/
def bits (x lo n : Nat) : Nat := x / 2 ^ lo % 2 ^ n

/-- Bits `lo` to `lo + n - 1` of a doubleword, as a number. -/
def field (x : DWord) (lo n : Nat) : Nat := bits x.toNat lo n

end Sys2Proof
end

