-- ==== Sys2Proof/Config.lean ====
section
/-! DEFINITION. What the spec leaves open: free values, as opaque constants applied to the counter `State.tick` or to
the operands they depend on. Nothing in Lean can evaluate one, so a statement that mentions one holds whatever it is. -/

namespace Sys2Proof.Config

/-- How much more than one the stamp of the next ordering step exceeds the last (R264 fixes only the order). -/
opaque stampGap : Nat → Nat

/-- Where LTIME and TRAPTIME lie within the bounds of R265 and R385. -/
opaque timeSlack : Nat → Nat

/-- Whether the bytes that a partial publish covers in a quarantined line are written (R451 leaves it open).
DESIGN CHOICE, safe: assumption 7 of the log. -/
opaque partialPublishWrites : Nat → Bool

/-- The SHAKE256 digest of 32 bytes (R447). DESIGN CHOICE, safe: assumption 8 of the log. -/
opaque shake256 : List Byte → List Byte

/-- The identity signature of a private seed under a next-signature index over a digest (R446, R447). -/
opaque identitySign : List Byte → Nat → List Byte → List Byte

/-- The private seed of the package's identity, made at manufacture (R443, R446). -/
opaque identitySeed : List Byte

/-- The identity public root in MRAM (R443). -/
opaque identityRoot : List Byte

/-- Benulty's public root for firmware images (R443, R445). -/
opaque firmwareRoot : List Byte

/-- Benulty's public root for control-store images (R443, R445). -/
opaque controlRoot : List Byte

/-- The serial number of the package (R443). -/
opaque serialNumber : DWord

/-- The firmware image with which the package left the factory. -/
opaque factoryFirmware : List Byte

/-- The control-store image of a mode with which the package left the factory. -/
opaque factoryControl : Nat → List Byte

/-- The bytes of a signature of an image of the factory. -/
opaque factorySignature : Nat → Byte

/-- The unstated result of an instruction on an operand for which the spec states none. DESIGN CHOICE, safe: assumption 9 of the log. -/
opaque freeValue : Nat → DWord

end Sys2Proof.Config
end

