-- ==== Sys2Proof/Syntax.lean ====
section
/-! DEFINITION. The instructions: one constructor per row of the opcode table: the words with operands in the
order of the table (those of opcodes OP and LUI after the others), the events, and what has no arguments. The arguments of a word are its fields, most significant first (R14 to R23);
the arguments of an event say whose step it is and what came from outside. -/

namespace Sys2Proof

/-- The instructions and events of the Yalram G9. -/
inductive Instr where
  /-- ADDI (R83): Adds a sign-extended immediate to x[rs1]. -/
  | addi (imm : BitVec 12) (rs1 rd : Reg)
  /-- SLLI (R83): Shifts x[rs1] left by an immediate amount. -/
  | slli (sh : BitVec 6) (rs1 rd : Reg)
  /-- SRLI (R83): Shifts x[rs1] right logically by an immediate amount. -/
  | srli (sh : BitVec 6) (rs1 rd : Reg)
  /-- SRAI (R83): Shifts x[rs1] right arithmetically by an immediate amount. -/
  | srai (sh : BitVec 6) (rs1 rd : Reg)
  /-- ANDI (R83): Bitwise AND with a sign-extended immediate. -/
  | andi (imm : BitVec 12) (rs1 rd : Reg)
  /-- ORI (R83): Bitwise OR with a sign-extended immediate. -/
  | ori (imm : BitVec 12) (rs1 rd : Reg)
  /-- XORI (R83): Bitwise XOR with a sign-extended immediate. -/
  | xori (imm : BitVec 12) (rs1 rd : Reg)
  /-- AUIPC (R85): Writes the word address plus the upper immediate into rd. -/
  | auipc (imm : BitVec 20) (rd : Reg)
  /-- CEQ (R87): Combines x[rs1] = x[rs2] into condition bit cd. -/
  | ceq (rs2 rs1 : Reg) (mode : Combine) (cd : CReg)
  /-- CNE (R87): Combines x[rs1] != x[rs2] into condition bit cd. -/
  | cne (rs2 rs1 : Reg) (mode : Combine) (cd : CReg)
  /-- CLT (R87): Combines a signed less-than into condition bit cd. -/
  | clt (rs2 rs1 : Reg) (mode : Combine) (cd : CReg)
  /-- CGE (R87): Combines a signed greater-or-equal into condition bit cd. -/
  | cge (rs2 rs1 : Reg) (mode : Combine) (cd : CReg)
  /-- CLTU (R87): Combines an unsigned less-than into condition bit cd. -/
  | cltu (rs2 rs1 : Reg) (mode : Combine) (cd : CReg)
  /-- CGEU (R87): Combines an unsigned greater-or-equal into condition bit cd. -/
  | cgeu (rs2 rs1 : Reg) (mode : Combine) (cd : CReg)
  /-- CCMB (R88): Combines the AND of two possibly inverted condition bits into cd. -/
  | ccmb (mode : Combine) (cd : CReg) (nb : Bool) (cb : CReg) (na : Bool) (ca : CReg)
  /-- CRDX (R89): Writes the eight condition bits into x[rd]. -/
  | crdx (rd : Reg)
  /-- CWRX (R89): Writes c1 to c7 from bits [7:1] of x[rs1]. -/
  | cwrx (rs1 : Reg)
  /-- CEQI (R87): Combines x[rs1] = imm into condition bit cd. -/
  | ceqi (imm : BitVec 12) (rs1 : Reg) (mode : Combine) (cd : CReg)
  /-- CNEI (R87): Combines x[rs1] != imm into condition bit cd. -/
  | cnei (imm : BitVec 12) (rs1 : Reg) (mode : Combine) (cd : CReg)
  /-- CLTI (R87): Combines a signed less-than against imm into cd. -/
  | clti (imm : BitVec 12) (rs1 : Reg) (mode : Combine) (cd : CReg)
  /-- CGEI (R87): Combines a signed greater-or-equal against imm into cd. -/
  | cgei (imm : BitVec 12) (rs1 : Reg) (mode : Combine) (cd : CReg)
  /-- CLTUI (R87): Combines an unsigned less-than against imm into cd. -/
  | cltui (imm : BitVec 12) (rs1 : Reg) (mode : Combine) (cd : CReg)
  /-- CGEUI (R87): Combines an unsigned greater-or-equal against imm into cd. -/
  | cgeui (imm : BitVec 12) (rs1 : Reg) (mode : Combine) (cd : CReg)
  /-- CBITI (R87): Combines bit imm[5:0] of x[rs1] into cd. -/
  | cbiti (bit : BitVec 6) (rs1 : Reg) (mode : Combine) (cd : CReg)
  /-- BC (R90): Branches when the condition bit is set. -/
  | bc (cond : BitVec 3) (off : BitVec 19)
  /-- BCN (R90): Branches when the condition bit is clear. -/
  | bcn (cond : BitVec 3) (off : BitVec 19)
  /-- JAL (R91): Writes the return address and jumps by a PC-relative offset. -/
  | jal (rd : Reg) (off : BitVec 19)
  /-- JALR (R91): Jumps to x[rs1] + imm, writing the return address, faulting on misalignment. -/
  | jalr (imm : BitVec 12) (rs1 rd : Reg)
  /-- LOOP (R93): Sets up a hardware loop over the following body words, or skips it. -/
  | loop (imm : BitVec 12) (rs1 : Reg)
  /-- PREF (R106): Requests the line holding EA into L1 or L2 without faulting. -/
  | pref (imm : BitVec 12) (rs1 : Reg) (lvl : BitVec 2)
  /-- LFETCH (R229): Ends a vector-thread block and names each lane's next block. -/
  | lfetch (imm : BitVec 12) (rs1 : Reg) (vi : VReg)
  /-- FADD (R98): Scalar FP add rounded once by FRM. -/
  | fadd (fmt : FFmt) (rs2 rs1 rd : Reg)
  /-- FSUB (R98): Scalar FP subtract rounded once by FRM. -/
  | fsub (fmt : FFmt) (rs2 rs1 rd : Reg)
  /-- FMUL (R98): Scalar FP multiply rounded once by FRM. -/
  | fmul (fmt : FFmt) (rs2 rs1 rd : Reg)
  /-- FDIV (R98): Scalar FP divide rounded once by FRM. -/
  | fdiv (fmt : FFmt) (rs2 rs1 rd : Reg)
  /-- FSQRT (R98): Scalar FP square root rounded once by FRM. -/
  | fsqrt (fmt : FFmt) (rs1 rd : Reg)
  /-- FMIN (R98): Scalar FP minimum with -0 below +0 and NaN handling. -/
  | fmin (fmt : FFmt) (rs2 rs1 rd : Reg)
  /-- FMAX (R98): Scalar FP maximum with -0 below +0 and NaN handling. -/
  | fmax (fmt : FFmt) (rs2 rs1 rd : Reg)
  /-- FSGNJ (R99): Copies a with the sign of b. -/
  | fsgnj (fmt : FFmt) (rs2 rs1 rd : Reg)
  /-- FSGNJN (R99): Copies a with the inverted sign of b. -/
  | fsgnjn (fmt : FFmt) (rs2 rs1 rd : Reg)
  /-- FSGNJX (R99): Copies a with the XOR of both signs. -/
  | fsgnjx (fmt : FFmt) (rs2 rs1 rd : Reg)
  /-- FCVT (R100): Converts between FP formats and integers as selected by rs2. -/
  | fcvt (fmt : FFmt) (sel : BitVec 5) (rs1 rd : Reg)
  /-- FMVXF (R99): Moves the fmt-wide low bits of an f register into x[rd]. -/
  | fmvxf (fmt : FFmt) (rs1 rd : Reg)
  /-- FMVFX (R99): Moves the fmt-wide low bits of x[rs1] into an f register. -/
  | fmvfx (fmt : FFmt) (rs1 rd : Reg)
  /-- FCLASS (R99): Writes a one-hot class mask of an FP value. -/
  | fclass (fmt : FFmt) (rs1 rd : Reg)
  /-- FCEQ (R101): Combines FP equality into condition bit cd. -/
  | fceq (fmt : FFmt) (rs2 rs1 : Reg) (mode : Combine) (cd : CReg)
  /-- FCLT (R101): Combines FP less-than into condition bit cd. -/
  | fclt (fmt : FFmt) (rs2 rs1 : Reg) (mode : Combine) (cd : CReg)
  /-- FCLE (R101): Combines FP less-or-equal into condition bit cd. -/
  | fcle (fmt : FFmt) (rs2 rs1 : Reg) (mode : Combine) (cd : CReg)
  /-- FMADD (R102): Fused a*b + c rounded once. -/
  | fmadd (rs3 : Reg) (fmt : FFmt) (rs2 rs1 rd : Reg)
  /-- FMSUB (R102): Fused a*b - c rounded once. -/
  | fmsub (rs3 : Reg) (fmt : FFmt) (rs2 rs1 rd : Reg)
  /-- FNMADD (R102): Fused -(a*b) - c rounded once. -/
  | fnmadd (rs3 : Reg) (fmt : FFmt) (rs2 rs1 rd : Reg)
  /-- FNMSUB (R102): Fused -(a*b) + c rounded once. -/
  | fnmsub (rs3 : Reg) (fmt : FFmt) (rs2 rs1 rd : Reg)
  /-- LB (R103): Loads a sign-extended byte as one scalar step. -/
  | lb (imm : BitVec 12) (rs1 rd : Reg)
  /-- LH (R103): Loads a sign-extended halfword. -/
  | lh (imm : BitVec 12) (rs1 rd : Reg)
  /-- LW (R103): Loads a sign-extended word. -/
  | lw (imm : BitVec 12) (rs1 rd : Reg)
  /-- LD (R103): Loads a doubleword; with rd = x0 it is a non-faulting prefetch hint. -/
  | ld (imm : BitVec 12) (rs1 rd : Reg)
  /-- LBU (R103): Loads a zero-extended byte. -/
  | lbu (imm : BitVec 12) (rs1 rd : Reg)
  /-- LHU (R103): Loads a zero-extended halfword. -/
  | lhu (imm : BitVec 12) (rs1 rd : Reg)
  /-- LWU (R103): Loads a zero-extended word. -/
  | lwu (imm : BitVec 12) (rs1 rd : Reg)
  /-- FLH (R103): Loads a halfword into an f register. -/
  | flh (imm : BitVec 12) (rs1 rd : Reg)
  /-- FLW (R103): Loads a word into an f register. -/
  | flw (imm : BitVec 12) (rs1 rd : Reg)
  /-- FLD (R103): Loads a doubleword into an f register. -/
  | fld (imm : BitVec 12) (rs1 rd : Reg)
  /-- SB (R103): Stores the low byte of x[rs2]. -/
  | sb (rs2 rs1 : Reg) (imm : BitVec 12)
  /-- SH (R103): Stores the low halfword of x[rs2]. -/
  | sh (rs2 rs1 : Reg) (imm : BitVec 12)
  /-- SW (R103): Stores the low word of x[rs2]. -/
  | sw (rs2 rs1 : Reg) (imm : BitVec 12)
  /-- SD (R103): Stores the doubleword x[rs2]. -/
  | sd (rs2 rs1 : Reg) (imm : BitVec 12)
  /-- FSH (R103): Stores the low halfword of an f register. -/
  | fsh (rs2 rs1 : Reg) (imm : BitVec 12)
  /-- FSW (R103): Stores the low word of an f register. -/
  | fsw (rs2 rs1 : Reg) (imm : BitVec 12)
  /-- FSD (R103): Stores an f register as a doubleword. -/
  | fsd (rs2 rs1 : Reg) (imm : BitVec 12)
  /-- AMOADD (R108): Atomically adds x[rs2] to memory and returns the old value. -/
  | amoadd (rs2 rs1 : Reg) (dw : Bool) (rd : Reg)
  /-- AMOSWAP (R108): Atomically swaps x[rs2] with memory. -/
  | amoswap (rs2 rs1 : Reg) (dw : Bool) (rd : Reg)
  /-- AMOCAS (R108): Atomically compares memory with x[rd] and swaps in x[rs2] if equal. -/
  | amocas (rs2 rs1 : Reg) (dw : Bool) (rd : Reg)
  /-- AMOMIN (R108): Atomic signed minimum. -/
  | amomin (rs2 rs1 : Reg) (dw : Bool) (rd : Reg)
  /-- AMOMAX (R108): Atomic signed maximum. -/
  | amomax (rs2 rs1 : Reg) (dw : Bool) (rd : Reg)
  /-- AMOMINU (R108): Atomic unsigned minimum. -/
  | amominu (rs2 rs1 : Reg) (dw : Bool) (rd : Reg)
  /-- AMOMAXU (R108): Atomic unsigned maximum. -/
  | amomaxu (rs2 rs1 : Reg) (dw : Bool) (rd : Reg)
  /-- AMOAND (R108): Atomic bitwise AND. -/
  | amoand (rs2 rs1 : Reg) (dw : Bool) (rd : Reg)
  /-- AMOOR (R108): Atomic bitwise OR. -/
  | amoor (rs2 rs1 : Reg) (dw : Bool) (rd : Reg)
  /-- AMOXOR (R108): Atomic bitwise XOR. -/
  | amoxor (rs2 rs1 : Reg) (dw : Bool) (rd : Reg)
  /-- ATCINV (R380): Waits for translated accesses and removes cached translations of a page or the whole context. -/
  | atcinv (rs1 : Reg)
  /-- SRD (R389): Reads a status register into x[rd]. -/
  | srd (reg : BitVec 12) (rd : Reg)
  /-- SWR (R389): Writes x[rs1] into a status register without behaviour of its own. -/
  | swr (reg : BitVec 12) (rs1 : Reg)
  /-- SSET (R389): ORs x[rs1] into a status register. -/
  | sset (reg : BitVec 12) (rs1 : Reg)
  /-- SCLR (R389): Clears the bits of x[rs1] in a status register. -/
  | sclr (reg : BitVec 12) (rs1 : Reg)
  /-- VSETVL (R113): Sets VL and VTYPE from x[rs1] and the type in x[rs2]. -/
  | vsetvl (rs2 rs1 rd : Reg)
  /-- VSETVLI (R113): Sets VL and VTYPE from x[rs1] and an immediate type. -/
  | vsetvli (req : BitVec 11) (rs1 rd : Reg)
  /-- MODET (R192): Enters tile mode, taking the tile unit and zeroing the accumulators. -/
  | modet (req : BitVec 11)
  /-- GDECL (R187): Declares a register's grades, trapping or zeroing offending components. -/
  | gdecl (mask : BitVec 5) (vd : VReg)
  /-- GTAG (R188): Reads a vector register's grade tag into x[rd]. -/
  | gtag (vs : VReg) (rd : Reg)
  /-- VBLK (R225): Starts vector-thread mode, making each lane below VL run from a block address. -/
  | vblk (imm : BitVec 12) (rs1 : Reg)
  /-- VADD (R121): Vector integer add. -/
  | vadd (p : PReg) (form : Form) (vs2 : VReg) (s1 : Reg) (vd : VReg)
  /-- VSUB (R121): Vector integer subtract. -/
  | vsub (p : PReg) (form : Form) (vs2 : VReg) (s1 : Reg) (vd : VReg)
  /-- VMUL (R121): Vector integer multiply, low half. -/
  | vmul (p : PReg) (form : Form) (vs2 : VReg) (s1 : Reg) (vd : VReg)
  /-- VMULH (R121): Vector signed multiply, high half. -/
  | vmulh (p : PReg) (form : Form) (vs2 : VReg) (s1 : Reg) (vd : VReg)
  /-- VMULHU (R121): Vector unsigned multiply, high half. -/
  | vmulhu (p : PReg) (form : Form) (vs2 : VReg) (s1 : Reg) (vd : VReg)
  /-- VMACC (R121): Vector integer multiply-accumulate. -/
  | vmacc (p : PReg) (form : Form) (vs2 : VReg) (s1 : Reg) (vd : VReg)
  /-- VAND (R121): Vector bitwise AND. -/
  | vand (p : PReg) (form : Form) (vs2 : VReg) (s1 : Reg) (vd : VReg)
  /-- VOR (R121): Vector bitwise OR. -/
  | vor (p : PReg) (form : Form) (vs2 : VReg) (s1 : Reg) (vd : VReg)
  /-- VXOR (R121): Vector bitwise XOR. -/
  | vxor (p : PReg) (form : Form) (vs2 : VReg) (s1 : Reg) (vd : VReg)
  /-- VSLL (R121): Vector shift left. -/
  | vsll (p : PReg) (form : Form) (vs2 : VReg) (s1 : Reg) (vd : VReg)
  /-- VSRL (R121): Vector logical shift right. -/
  | vsrl (p : PReg) (form : Form) (vs2 : VReg) (s1 : Reg) (vd : VReg)
  /-- VSRA (R121): Vector arithmetic shift right. -/
  | vsra (p : PReg) (form : Form) (vs2 : VReg) (s1 : Reg) (vd : VReg)
  /-- VMIN (R121): Vector signed minimum. -/
  | vmin (p : PReg) (form : Form) (vs2 : VReg) (s1 : Reg) (vd : VReg)
  /-- VMAX (R121): Vector signed maximum. -/
  | vmax (p : PReg) (form : Form) (vs2 : VReg) (s1 : Reg) (vd : VReg)
  /-- VMINU (R121): Vector unsigned minimum. -/
  | vminu (p : PReg) (form : Form) (vs2 : VReg) (s1 : Reg) (vd : VReg)
  /-- VMAXU (R121): Vector unsigned maximum. -/
  | vmaxu (p : PReg) (form : Form) (vs2 : VReg) (s1 : Reg) (vd : VReg)
  /-- VFADD (R122): Vector FP add. -/
  | vfadd (p : PReg) (form : Form) (vs2 : VReg) (s1 : Reg) (vd : VReg)
  /-- VFSUB (R122): Vector FP subtract. -/
  | vfsub (p : PReg) (form : Form) (vs2 : VReg) (s1 : Reg) (vd : VReg)
  /-- VFMUL (R122): Vector FP multiply. -/
  | vfmul (p : PReg) (form : Form) (vs2 : VReg) (s1 : Reg) (vd : VReg)
  /-- VFDIV (R122): Vector FP divide. -/
  | vfdiv (p : PReg) (form : Form) (vs2 : VReg) (s1 : Reg) (vd : VReg)
  /-- VFSQRT (R122): Vector FP square root. -/
  | vfsqrt (p : PReg) (vs2 vd : VReg)
  /-- VFMACC (R122): Vector fused vd + a*b. -/
  | vfmacc (p : PReg) (form : Form) (vs2 : VReg) (s1 : Reg) (vd : VReg)
  /-- VFNMSAC (R122): Vector fused vd - a*b. -/
  | vfnmsac (p : PReg) (form : Form) (vs2 : VReg) (s1 : Reg) (vd : VReg)
  /-- VFMIN (R122): Vector FP minimum. -/
  | vfmin (p : PReg) (form : Form) (vs2 : VReg) (s1 : Reg) (vd : VReg)
  /-- VFMAX (R122): Vector FP maximum. -/
  | vfmax (p : PReg) (form : Form) (vs2 : VReg) (s1 : Reg) (vd : VReg)
  /-- VFCVT (R127): Converts vector elements from the source type coded in vs1 to VTYPE. -/
  | vfcvt (p : PReg) (vs2 : VReg) (code : Reg) (vd : VReg)
  /-- VFSGNJ (R122): Vector sign injection by bit move. -/
  | vfsgnj (p : PReg) (form : Form) (vs2 : VReg) (s1 : Reg) (vd : VReg)
  /-- VFRSQRTE (R123): Vector reciprocal square-root estimate to 8 bits. -/
  | vfrsqrte (p : PReg) (vs2 vd : VReg)
  /-- VFCLASS (R122): Vector FP class mask. -/
  | vfclass (p : PReg) (vs2 vd : VReg)
  /-- VMIX (R124): Applies the mixing function to each element and key. -/
  | vmix (p : PReg) (form : Form) (vs2 : VReg) (s1 : Reg) (vd : VReg)
  /-- VFDOT4 (R125): Fused four-term BF16 dot product accumulated into FP32. -/
  | vfdot4 (p : PReg) (form : Form) (vs2 : VReg) (s1 : Reg) (vd : VReg)
  /-- VFMERGE (R126): Selects b or a per element by the predicate. -/
  | vfmerge (p : PReg) (form : Form) (vs2 : VReg) (s1 : Reg) (vd : VReg)
  /-- VSTEP (R133): Writes b + i into each active element. -/
  | vstep (p : PReg) (form : Form) (s1 : Reg) (vd : VReg)
  /-- VXCH (R133): Exchanges elements by XOR of the index. -/
  | vxch (p : PReg) (form : Form) (vs2 : VReg) (s1 : Reg) (vd : VReg)
  /-- VSLIDEUP (R133): Slides elements up by an offset. -/
  | vslideup (p : PReg) (form : Form) (vs2 : VReg) (s1 : Reg) (vd : VReg)
  /-- VSLIDEDN (R133): Slides elements down by an offset. -/
  | vslidedn (p : PReg) (form : Form) (vs2 : VReg) (s1 : Reg) (vd : VReg)
  /-- VGATHER (R133): Gathers elements by index. -/
  | vgather (p : PReg) (form : Form) (vs2 : VReg) (s1 : Reg) (vd : VReg)
  /-- VCOMPRESS (R133): Packs predicate-selected elements to the front. -/
  | vcompress (p : PReg) (vs2 vd : VReg)
  /-- VCONF (R134): Writes the last earlier active element with an equal value. -/
  | vconf (p : PReg) (vs2 vd : VReg)
  /-- VREDS (R136): Tree-sum reduction into vd[0]. -/
  | vreds (p : PReg) (form : Form) (vs2 : VReg) (s1 : Reg) (vd : VReg)
  /-- VFREDO (R137): Ordered FP sum rounded per addition, restartable through VRSI and VRSS. -/
  | vfredo (p : PReg) (form : Form) (vs2 : VReg) (s1 : Reg) (vd : VReg)
  /-- VREDMIN (R136): Tree minimum reduction into vd[0]. -/
  | vredmin (p : PReg) (form : Form) (vs2 : VReg) (s1 : Reg) (vd : VReg)
  /-- VREDMAX (R136): Tree maximum reduction into vd[0]. -/
  | vredmax (p : PReg) (form : Form) (vs2 : VReg) (s1 : Reg) (vd : VReg)
  /-- VMVXS (R135): Moves one vector element into x[rd], holding the scalar stream until commit. -/
  | vmvxs (form : Form) (vs2 : VReg) (s1 rd : Reg)
  /-- VMVSX (R135): Moves a scalar into element 0. -/
  | vmvsx (form : Form) (s1 : Reg) (vd : VReg)
  /-- VPOPC (R135): Counts set predicate bits into x[rd]. -/
  | vpopc (p ps2 : PReg) (rd : Reg)
  /-- VFIRST (R135): Finds the first set predicate bit into x[rd]. -/
  | vfirst (p ps2 : PReg) (rd : Reg)
  /-- PAND (R131): Predicate AND. -/
  | pand (p ps2 ps1 pd : PReg)
  /-- POR (R131): Predicate OR. -/
  | por (p ps2 ps1 pd : PReg)
  /-- PXOR (R131): Predicate XOR. -/
  | pxor (p ps2 ps1 pd : PReg)
  /-- PANDN (R131): Predicate AND NOT. -/
  | pandn (p ps2 ps1 pd : PReg)
  /-- PNOT (R131): Predicate NOT. -/
  | pnot (p ps2 pd : PReg)
  /-- PSET (R131): Sets predicate bits below VL. -/
  | pset (p pd : PReg)
  /-- PCLR (R131): Clears predicate bits below VL. -/
  | pclr (p pd : PReg)
  /-- VCMPEQ (R132): Vector integer equality into a predicate. -/
  | vcmpeq (p : PReg) (form : Form) (vs2 : VReg) (s1 : Reg) (pd : PReg)
  /-- VCMPNE (R132): Vector integer inequality into a predicate. -/
  | vcmpne (p : PReg) (form : Form) (vs2 : VReg) (s1 : Reg) (pd : PReg)
  /-- VCMPLT (R132): Vector signed less-than into a predicate. -/
  | vcmplt (p : PReg) (form : Form) (vs2 : VReg) (s1 : Reg) (pd : PReg)
  /-- VCMPLTU (R132): Vector unsigned less-than into a predicate. -/
  | vcmpltu (p : PReg) (form : Form) (vs2 : VReg) (s1 : Reg) (pd : PReg)
  /-- VCMPGE (R132): Vector signed greater-or-equal into a predicate. -/
  | vcmpge (p : PReg) (form : Form) (vs2 : VReg) (s1 : Reg) (pd : PReg)
  /-- VFCMPEQ (R132): Vector FP equality into a predicate. -/
  | vfcmpeq (p : PReg) (form : Form) (vs2 : VReg) (s1 : Reg) (pd : PReg)
  /-- VFCMPLT (R132): Vector FP less-than into a predicate. -/
  | vfcmplt (p : PReg) (form : Form) (vs2 : VReg) (s1 : Reg) (pd : PReg)
  /-- VFCMPLE (R132): Vector FP less-or-equal into a predicate. -/
  | vfcmple (p : PReg) (form : Form) (vs2 : VReg) (s1 : Reg) (pd : PReg)
  /-- PMERGE (R131): Selects predicate bits of ps1 or ps2 by the governing predicate. -/
  | pmerge (p ps2 ps1 pd : PReg)
  /-- VLD (R147): Unit-stride vector load, first-fault on later elements. -/
  | vld (p : PReg) (rs1 : Reg) (w : EW) (vd : VReg)
  /-- VLDS (R147): Strided vector load. -/
  | vlds (p : PReg) (rs2 rs1 : Reg) (w : EW) (vd : VReg)
  /-- VLDX (R147): Indexed vector load. -/
  | vldx (p : PReg) (vs2 : VReg) (rs1 : Reg) (w : EW) (vd : VReg)
  /-- VLDF (R153): Unit decoding load from a format region. -/
  | vldf (p : PReg) (rs1 : Reg) (vd : VReg)
  /-- VLDF_S (R153): Strided decoding load from a format region. -/
  | vldfS (p : PReg) (rs2 rs1 : Reg) (vd : VReg)
  /-- VLDF_X (R153): Indexed decoding load from a format region. -/
  | vldfX (p : PReg) (vs2 : VReg) (rs1 : Reg) (vd : VReg)
  /-- VLDR (R155): Unit raw load of whole blocks with their scale pairs. -/
  | vldr (p : PReg) (rs1 : Reg) (vd : VReg)
  /-- VLDR_S (R155): Strided raw block load. -/
  | vldrS (p : PReg) (rs2 rs1 : Reg) (vd : VReg)
  /-- VLDR_X (R155): Indexed raw block load. -/
  | vldrX (p : PReg) (vs2 : VReg) (rs1 : Reg) (vd : VReg)
  /-- VLDG (R156): Unit load of whole multivectors. -/
  | vldg (p : PReg) (rs1 : Reg) (vd : VReg)
  /-- VLDG_S (R156): Strided load of whole multivectors. -/
  | vldgS (p : PReg) (rs2 rs1 : Reg) (vd : VReg)
  /-- VLDG_X (R156): Indexed load of whole multivectors. -/
  | vldgX (p : PReg) (vs2 : VReg) (rs1 : Reg) (vd : VReg)
  /-- VLD_P (R148): Loads predicate bits byte by byte. -/
  | vldP (rs1 : Reg) (pd : PReg)
  /-- TEXS (R163): Samples a texture through a descriptor with nearest or bilinear filtering. -/
  | texs (p : PReg) (vs2 : VReg) (rs1 : Reg) (vd : VReg)
  /-- VST (R147): Unit-stride vector store, precise per element. -/
  | vst (p : PReg) (rs1 : Reg) (w : EW) (vs3 : VReg)
  /-- VSTS (R147): Strided vector store. -/
  | vsts (p : PReg) (rs2 rs1 : Reg) (w : EW) (vs3 : VReg)
  /-- VSTX (R147): Indexed vector store. -/
  | vstx (p : PReg) (vs2 : VReg) (rs1 : Reg) (w : EW) (vs3 : VReg)
  /-- VST_F (R154): Unit encoding store into a format region. -/
  | vstF (p : PReg) (rs1 : Reg) (vs3 : VReg)
  /-- VSTS_F (R154): Strided encoding store into a format region. -/
  | vstsF (p : PReg) (rs2 rs1 : Reg) (vs3 : VReg)
  /-- VSTX_F (R154): Indexed encoding store into a format region. -/
  | vstxF (p : PReg) (vs2 : VReg) (rs1 : Reg) (vs3 : VReg)
  /-- VSTR (R155): Unit raw store of whole blocks. -/
  | vstr (p : PReg) (rs1 : Reg) (vs3 : VReg)
  /-- VSTR_S (R155): Strided raw block store. -/
  | vstrS (p : PReg) (rs2 rs1 : Reg) (vs3 : VReg)
  /-- VSTR_X (R155): Indexed raw block store. -/
  | vstrX (p : PReg) (vs2 : VReg) (rs1 : Reg) (vs3 : VReg)
  /-- VSTG (R156): Unit store of whole multivectors. -/
  | vstg (p : PReg) (rs1 : Reg) (vs3 : VReg)
  /-- VSTG_S (R156): Strided store of whole multivectors. -/
  | vstgS (p : PReg) (rs2 rs1 : Reg) (vs3 : VReg)
  /-- VSTG_X (R156): Indexed store of whole multivectors. -/
  | vstgX (p : PReg) (vs2 : VReg) (rs1 : Reg) (vs3 : VReg)
  /-- VST_P (R148): Stores predicate bits byte by byte. -/
  | vstP (rs1 : Reg) (ps : PReg)
  /-- VSCADD (R159): Posted indexed scatter-add of each active element. -/
  | vscadd (p : PReg) (vs2 : VReg) (rs1 : Reg) (w : EW) (vs3 : VReg)
  /-- VSTC (R160): Posted indexed scatter store keeping the highest element per address. -/
  | vstc (p : PReg) (vs2 : VReg) (rs1 : Reg) (vs3 : VReg)
  /-- GP (R177): Geometric product of two multivectors. -/
  | gp (p : PReg) (vs2 vs1 : VReg) (neg inv rev : Bool) (vd : VReg)
  /-- GWEDGE (R177): Outer product of two multivectors. -/
  | gwedge (p : PReg) (vs2 vs1 : VReg) (neg inv rev : Bool) (vd : VReg)
  /-- GJOIN (R177): Regressive product through the dual. -/
  | gjoin (p : PReg) (vs2 vs1 : VReg) (neg inv rev : Bool) (vd : VReg)
  /-- GLDOT (R177): Left contraction of two multivectors. -/
  | gldot (p : PReg) (vs2 vs1 : VReg) (neg inv rev : Bool) (vd : VReg)
  /-- GSAND (R178): Sandwich product V X ~V restricted to X's grades. -/
  | gsand (p : PReg) (vs2 vs1 : VReg) (neg inv rev : Bool) (vd : VReg)
  /-- GCOMM (R177): Commutator product of two multivectors. -/
  | gcomm (p : PReg) (vs2 vs1 : VReg) (neg inv rev : Bool) (vd : VReg)
  /-- GPROJ (R179): Copies components of grades in a mask, zeroing the rest. -/
  | gproj (p : PReg) (mask : BitVec 5) (vs1 : VReg) (neg rev : Bool) (vd : VReg)
  /-- GREV (R180): Writes the reverse of a multivector. -/
  | grev (p : PReg) (vs1 : VReg) (neg rev : Bool) (vd : VReg)
  /-- GINVOL (R180): Writes the grade involution of a multivector. -/
  | ginvol (p : PReg) (vs1 : VReg) (neg rev : Bool) (vd : VReg)
  /-- GDUAL (R180): Writes the dual of a multivector. -/
  | gdual (p : PReg) (vs1 : VReg) (neg rev : Bool) (vd : VReg)
  /-- GNORMSQ (R181): Writes the squared Euclidean norm into component 0. -/
  | gnormsq (p : PReg) (vs1 : VReg) (neg rev : Bool) (vd : VReg)
  /-- GNORM (R181): Writes the Euclidean norm into component 0. -/
  | gnorm (p : PReg) (vs1 : VReg) (neg rev : Bool) (vd : VReg)
  /-- GNORMZ (R181): Writes the ideal norm into component 0. -/
  | gnormz (p : PReg) (vs1 : VReg) (neg rev : Bool) (vd : VReg)
  /-- GEXP (R183): Writes the motor exponential of a bivector. -/
  | gexp (p : PReg) (vs1 : VReg) (neg rev : Bool) (vd : VReg)
  /-- GLOG (R184): Writes the bivector logarithm of a motor. -/
  | glog (p : PReg) (vs1 : VReg) (neg rev : Bool) (vd : VReg)
  /-- GSQRT (R185): Writes the square root of a motor. -/
  | gsqrt (p : PReg) (vs1 : VReg) (neg rev : Bool) (vd : VReg)
  /-- GINV (R182): Writes the inverse of a blade or versor. -/
  | ginv (p : PReg) (vs1 : VReg) (neg rev : Bool) (vd : VReg)
  /-- TZERO (R207): Zeroes an accumulator. -/
  | tzero (z : ZReg)
  /-- TOPA (R202): Outer product of two operand registers into an accumulator. -/
  | topa (set neg : Bool) (vb va : VReg) (z : ZReg)
  /-- TOPAS (R204): K-step outer products streamed from two handles into an accumulator. -/
  | topas (set neg : Bool) (hb ha : HReg) (z : ZReg)
  /-- TDRAIN (R210): Drains an accumulator row into a vector register and starts its chain. -/
  | tdrain (n : BitVec 3) (z : ZReg) (rs1 : Reg) (vd : VReg)
  /-- TLDZ (R208): Loads an accumulator from memory. -/
  | tldz (rs2 rs1 : Reg) (z : ZReg)
  /-- TSTZ (R209): Stores an accumulator to memory. -/
  | tstz (rs2 rs1 : Reg) (z : ZReg)
  /-- TSHAPE (R197): Sets the tile shape M, N and K. -/
  | tshape (rs2 rs1 : Reg)
  /-- TFETCH (R303): Fills an operand register from a handle's window. -/
  | tfetch (hs : HReg) (rs1 : Reg) (va : VReg)
  /-- HLDH (R292): Loads a handle descriptor from memory. -/
  | hldh (rs1 : Reg) (hd : HReg)
  /-- HSTH (R292): Stores a handle descriptor to memory. -/
  | hsth (hs : HReg) (rs1 : Reg)
  /-- HLD (R302): Loads VL layered elements through a handle. -/
  | hld (hs : HReg) (rs1 : Reg) (vd : VReg)
  /-- HST (R305): Stores VL elements through a handle as a posted, published operation. -/
  | hst (hs : HReg) (vs3 : VReg) (rd : Reg)
  /-- HST_TRY (R308): Handle store that reports sparse overflow in a condition bit. -/
  | hstTry (cd : CReg) (hs : HReg) (vs3 : VReg) (rd : Reg)
  /-- HITER (R294): Advances a handle's cursor to the next stored entry. -/
  | hiter (hs : HReg) (rd : Reg)
  /-- HATTACH (R299): Appends a layer to an amendment list in one attach step. -/
  | hattach (rs2 rs1 rd : Reg)
  /-- HDETACH (R300): Removes a layer from an amendment list. -/
  | hdetach (rs2 rs1 rd : Reg)
  /-- HINFO (R293): Reads descriptor fields, entry count or list count. -/
  | hinfo (hs : HReg) (sel : BitVec 5) (rd : Reg)
  /-- FORK_COPY (R274): Issues a copy-engine operation from a command block. -/
  | forkCopy (explicit : Bool) (rs1 rd : Reg)
  /-- FORK_FOLD (R310): Issues a fold of an amendment list into its base. -/
  | forkFold (explicit : Bool) (rs1 rd : Reg)
  /-- FORK_BLEND (R362): Issues a splat-compositing operation over one tile. -/
  | forkBlend (explicit : Bool) (rs1 rd : Reg)
  /-- FORK_MARCH (R360): Issues a batch of mesh walk queries. -/
  | forkMarch (explicit : Bool) (rs1 rd : Reg)
  /-- RDV (R281): Waits for named token slots and reports failed ones. -/
  | rdv (rs1 rd : Reg)
  /-- CPY (R276): Issues a one-row copy from registers. -/
  | cpy (explicit : Bool) (rs2 rs1 rd : Reg)
  /-- CWAIT (R281): Waits for a token and returns its status word. -/
  | cwait (rs2 rs1 rd : Reg)
  /-- CWAIT_R (R281): Waits for a token and returns its result. -/
  | cwaitR (rs2 rs1 rd : Reg)
  /-- CTEST (R281): Sets a condition bit if a token is stale or reached. -/
  | ctest (rs1 : Reg) (cd : CReg)
  /-- PUBLISH (R280): Publishes the shadows of named ready slots at one step. -/
  | publish (rs1 rd : Reg)
  /-- PUBLISH_DISCARD (R280): Discards the shadows of named ready slots at one step. -/
  | publishDiscard (rs1 rd : Reg)
  /-- MSEND (R285): Sends a message to a gang member's queue. -/
  | msend (len : BitVec 4) (rs2 rs1 rd : Reg)
  /-- MRECV (R286): Takes the oldest message of a queue, parking while empty. -/
  | mrecv (rs2 rs1 rd : Reg)
  /-- MRECV_TRY (R286): Takes the oldest message or returns 0 if the queue is empty. -/
  | mrecvTry (rs2 rs1 rd : Reg)
  /-- LAUNCH (R412): Hands a command block to the package's launch sequencer. -/
  | launch (rs1 rd : Reg)
  /-- EMIT (R321): Pushes a record to a successor stage, blocking while full. -/
  | emit (rs2 rs1 : Reg)
  /-- EMIT_TRY (R321): Pushes a record or reports a full queue in a condition bit. -/
  | emitTry (cd : CReg) (rs2 rs1 : Reg)
  /-- TAKE (R322): Releases the held record and takes the next one chosen by the scheduler. -/
  | take (rs1 : Reg) (cd : CReg)
  /-- RCAST (R353): Casts an array of rays into the bay's mesh marcher. -/
  | rcast (rs2 rs1 rd : Reg)
  /-- RRESUME (R355): Returns a parked ray to the marcher with a hit decision. -/
  | rresume (rs2 rs1 rd : Reg)
  /-- RQUERY (R356): Reads a ray's cell, sequence and status. -/
  | rquery (rs1 rd : Reg)
  /-- BARV (R333): Arrives at a named barrier after draining earlier accesses. -/
  | barv (level : BitVec 3) (rs1 rd : Reg)
  /-- BWAIT (R334): Waits until a barrier's phase differs from the given one. -/
  | bwait (level : BitVec 3) (rs2 rs1 : Reg)
  /-- BSET (R332): Sets a barrier's expected count. -/
  | bset (level : BitVec 3) (rs2 rs1 : Reg)
  /-- IFENCE (R236): Invalidates instruction lines of a range within a scope. -/
  | ifence (scope : BitVec 3) (rs2 rs1 : Reg)
  /-- DFENCE (R251): Orders every earlier access before every later access at a scope. -/
  | dfence (scope : BitVec 3)
  /-- PARK (R261): Parks the thread while a doubleword holds the expected value. -/
  | park (rs2 rs1 rd : Reg)
  /-- WAKE (R262): Selects up to n threads parked on an address. -/
  | wake (scope : BitVec 3) (rs2 rs1 rd : Reg)
  /-- ADD (R83): Adds two x registers modulo 2^64 into rd. -/
  | add (rs2 rs1 rd : Reg)
  /-- SUB (R83): Subtracts x[rs2] from x[rs1] modulo 2^64 into rd. -/
  | sub (rs2 rs1 rd : Reg)
  /-- MUL (R83): Writes the low 64 bits of the product of two x registers. -/
  | mul (rs2 rs1 rd : Reg)
  /-- MULH (R83): Writes the high 64 bits of the signed 128-bit product. -/
  | mulh (rs2 rs1 rd : Reg)
  /-- MULHU (R83): Writes the high 64 bits of the unsigned 128-bit product. -/
  | mulhu (rs2 rs1 rd : Reg)
  /-- DIV (R84): Signed division rounded toward zero, never trapping. -/
  | div (rs2 rs1 rd : Reg)
  /-- DIVU (R84): Unsigned division, all ones on division by zero. -/
  | divu (rs2 rs1 rd : Reg)
  /-- REM (R84): Signed remainder with the sign of the dividend. -/
  | rem (rs2 rs1 rd : Reg)
  /-- REMU (R84): Unsigned remainder, the dividend on division by zero. -/
  | remu (rs2 rs1 rd : Reg)
  /-- SLL (R83): Shifts x[rs1] left by x[rs2][5:0]. -/
  | sll (rs2 rs1 rd : Reg)
  /-- SRL (R83): Shifts x[rs1] right logically by x[rs2][5:0]. -/
  | srl (rs2 rs1 rd : Reg)
  /-- SRA (R83): Shifts x[rs1] right arithmetically by x[rs2][5:0]. -/
  | sra (rs2 rs1 rd : Reg)
  /-- AND (R83): Bitwise AND of two x registers. -/
  | and_ (rs2 rs1 rd : Reg)
  /-- OR (R83): Bitwise OR of two x registers. -/
  | or_ (rs2 rs1 rd : Reg)
  /-- XOR (R83): Bitwise XOR of two x registers. -/
  | xor_ (rs2 rs1 rd : Reg)
  /-- MIN (R83): Signed minimum of two x registers. -/
  | min_ (rs2 rs1 rd : Reg)
  /-- MAX (R83): Signed maximum of two x registers. -/
  | max_ (rs2 rs1 rd : Reg)
  /-- MINU (R83): Unsigned minimum of two x registers. -/
  | minu (rs2 rs1 rd : Reg)
  /-- MAXU (R83): Unsigned maximum of two x registers. -/
  | maxu (rs2 rs1 rd : Reg)
  /-- ANDN (R83): Writes x[rs1] AND NOT x[rs2]. -/
  | andn (rs2 rs1 rd : Reg)
  /-- CLZ (R83): Counts leading zero bits of x[rs1]. -/
  | clz (rs1 rd : Reg)
  /-- CTZ (R83): Counts trailing zero bits of x[rs1]. -/
  | ctz (rs1 rd : Reg)
  /-- CPOP (R83): Counts one bits of x[rs1]. -/
  | cpop (rs1 rd : Reg)
  /-- SEXTB (R83): Sign-extends the low byte of x[rs1]. -/
  | sextb (rs1 rd : Reg)
  /-- SEXTH (R83): Sign-extends the low halfword of x[rs1]. -/
  | sexth (rs1 rd : Reg)
  /-- ZEXTH (R83): Zero-extends the low halfword of x[rs1]. -/
  | zexth (rs1 rd : Reg)
  /-- LUI (R85): Writes the sign-extended upper immediate into rd. -/
  | lui (imm : BitVec 20) (rd : Reg)
  /-- READ_VECTOR_STATUS (R49): An SRD of VL, VTYPE, VRSI, VRSS or FFLAGS holds until earlier vector words commit. -/
  | readVectorStatus (reg : BitVec 12) (rd : Reg)
  /-- READ_TSHAPE (R196): An SRD of TSHAPE holds until earlier vector-side words commit. -/
  | readTshape (rd : Reg)
  /-- WRITE_VECTOR_STATUS (R49): A write of VRSI, VRSS or FFLAGS waits for earlier vector commits then writes. -/
  | writeVectorStatus (kind : StatusOp) (reg : BitVec 12) (rs1 : Reg)
  /-- WRITE_FRM (R46): A write of FRM leaves it unchanged for values 5 to 7. -/
  | writeFrm (kind : StatusOp) (rs1 : Reg)
  /-- WRITE_LOOP_REGISTERS (R95): A write of LCOUNT, LSTART or LEND changes the active hardware loop at its next check. -/
  | writeLoopRegisters (kind : StatusOp) (reg : BitVec 12) (rs1 : Reg)
  /-- WRITE_PTBASE (R370): Waits for the context's affected accesses, then switches the page table and invalidates translations. -/
  | writePtbase (kind : StatusOp) (rs1 : Reg)
  /-- WRITE_SPBASE (R370): Waits for accesses and scratchpad copies, then moves the scratchpad window and invalidates translations. -/
  | writeSpbase (kind : StatusOp) (rs1 : Reg)
  /-- WRITE_FRTBASE (R370): Moves the format region table and acts as an ATCINV of the context. -/
  | writeFrtbase (kind : StatusOp) (rs1 : Reg)
  /-- WRITE_MARCHSEL (R370): Waits for marcher operations to finish, then switches the marcher mode. -/
  | writeMarchsel (kind : StatusOp) (rs1 : Reg)
  /-- WRITE_DIGEST_CONTROL (R433): A write of DIGLOG or DIGCTL sets digest logging for later segments, refusing MODE 3. -/
  | writeDigestControl (kind : StatusOp) (reg : BitVec 12) (rs1 : Reg)
  /-- TILE_ACQUIRE (R193): A waiting MODET or restored thread takes the freed tile unit in arrival order. -/
  | tileAcquire (pos : Nat)
  /-- LANE_GROUP_ISSUE (R228): Issues the next group of ready lanes sharing a block address and runs the block. -/
  | laneGroupIssue (pos : Nat)
  /-- TOPAS_READ (R205): The tile fetch port performs all panel reads of a TOPAS in one step after pinning. -/
  | topasRead (pos : Nat)
  /-- CWAIT_TIMEOUT (R281): The cycle limit of a waiting CWAIT expires. -/
  | cwaitTimeout (pos : Nat)
  /-- PARK_REREAD (R261): A parked thread re-reads its doubleword after a write or a WAKE selection. -/
  | parkReread (pos : Nat)
  /-- WFE_WAKE (R392): An event sets EV and completes a parked WFE. -/
  | wfeWake (pos : Nat)
  /-- VECTOR_ADMIT (R50): The escapement admits the next queued vector word into its slot. -/
  | vectorAdmit (pos : Nat)
  /-- VECTOR_COMMIT (R220): A vector-side word completes its effect and commits in queue order. -/
  | vectorCommit (pos : Nat)
  /-- VECTOR_ELEMENT_STEP (R145): The machine performs the next element of the head vector access. -/
  | vectorElementStep (pos : Nat)
  /-- POST_STEP (R157): A checked posted operation moves from the queue head into the posted set. -/
  | postStep (pos : Nat)
  /-- POSTED_ELEMENT_STEP (R240): The machine performs one element of a posted operation. -/
  | postedElementStep (pos op elem : Nat)
  /-- ENGINE_ACCESS_STEP (R275): An engine performs a source read or other access of its own. -/
  | engineAccessStep (op : Nat)
  /-- ENGINE_WRITE_STEP (R245): An engine writes bytes into its shadow. -/
  | engineWriteStep (op : Nat)
  /-- SCOREBOARD_TAKE (R258): A waiting scratchpad copy takes a freed range-scoreboard entry. -/
  | scoreboardTake (op : Nat)
  /-- COPY_RETIRE (R258): A scratchpad copy lands all its writes and frees its entry. -/
  | copyRetire (op : Nat)
  /-- AUTOMATIC_PUBLISH (R278): After its last engine write, an operation publishes its shadow at one step. -/
  | automaticPublish (op : Nat)
  /-- READY_STEP (R278): An explicit operation finishes its shadow and records ready. -/
  | readyStep (op : Nat)
  /-- FINAL_STEP (R278): The engine writes STATUS and RESULT and the token becomes final. -/
  | finalStep (op : Nat)
  /-- FOLD_READ (R310): The fold engine reads descriptor, list, layers and base and sets FOLD. -/
  | foldRead (op : Nat)
  /-- FOLD_PUBLISH (R310): Publishes the folded base and removes the folded layers in one step. -/
  | foldPublish (op : Nat)
  /-- BLEND_TILE (R362): Sorts splats and composites a 16x16 tile into a shadow. -/
  | blendTile (op : Nat)
  /-- RAY_ADMISSION (R353): The marcher reads the ray records and admits new rays, holding or parking them. -/
  | rayAdmission (op : Nat)
  /-- MARCH_STEP (R345): A held ray crosses one cell and pushes a segment record. -/
  | marchStep (op ray : Nat)
  /-- BVH_STEP (R350): A held ray visits one node or triangle of the hierarchy. -/
  | bvhStep (op ray : Nat)
  /-- RAY_READMIT (R348): The marcher re-admits a parked ray when room frees. -/
  | rayReadmit (op ray : Nat)
  /-- RAY_RESUME (R355): A ray returned by RRESUME acts on its decision and continues. -/
  | rayResume (op ray : Nat)
  /-- HIT_RECORD_PUSH (R351): The marcher pushes a full or final hit record to its stage. -/
  | hitRecordPush (op stage : Nat)
  /-- WALK_QUERY (R360): A walk locates the cell containing a point and writes its query. -/
  | walkQuery (op query : Nat)
  /-- SCHEDULER_DECISION (R324): The bay stage scheduler chooses a stage or end for a parked slot after a push or release. -/
  | schedulerDecision (pos : Nat)
  /-- EMIT_UNBLOCK (R321): A blocked EMIT pushes once a take frees an entry for it. -/
  | emitUnblock (pos : Nat)
  /-- BWAIT_COMPLETE (R334): A parked BWAIT completes after the barrier's phase changes. -/
  | bwaitComplete (pos : Nat)
  /-- MRECV_DEQUEUE (R286): A parked MRECV removes a message after a delivery. -/
  | mrecvDequeue (pos : Nat)
  /-- MESSAGE_DELIVERY (R285): The target machine writes a message into a queue when it has room. -/
  | messageDelivery (msg : Nat)
  /-- HOST_MESSAGE (R406): A class-1 message from the host is delivered to a context queue. -/
  | hostMessage (header : DerporHeader) (payload : List Byte)
  /-- FRAME_FAULT (R367): An encode engine or display head ends a frame on a fault. -/
  | frameFault (ctx : Nat) (unit number : BitVec 8) (cause : BitVec 16) (address : DWord)
  /-- DEFINE (R404): Defines a context, its queues and barriers, or refuses it. -/
  | define_ (req : DefineRequest)
  /-- RESIDE (R405): Makes a context resident, starting its dispatcher the first time. -/
  | reside (ctx : Nat)
  /-- EVICT (R405): Makes a context not resident by pre-emption. -/
  | evict (ctx : Nat)
  /-- STOP_CONTEXT (R405): Ends a context with the stopped cause and frees its resources. -/
  | stopContext (ctx : Nat)
  /-- GRANT (R419): Grants a partition a private or shared pool extent. -/
  | grant (part : Nat) (base size : Nat) (shared : Bool)
  /-- RELEASE (R419): Withdraws a pool extent after invalidating translations. -/
  | release_ (part : Nat) (base size : Nat)
  /-- REMOTE_WRITE_REQUEST (R409): A remote write is translated, shadowed, published and acknowledged. -/
  | remoteWriteRequest (ctx stamp : Nat) (address : DWord) (body : List Byte)
  /-- REMOTE_READ_REQUEST (R409): A remote read is performed line by line and answered. -/
  | remoteReadRequest (ctx : Nat) (address : DWord) (length : Nat)
  /-- REMOTE_WRITE_ACK (R414): The target's acknowledgement completes a KIND 1 launch token. -/
  | remoteWriteAck (op : Nat) (answer : RemoteAnswer)
  /-- REMOTE_READ_RESPONSE (R414): A remote read response is written to a shadow and published. -/
  | remoteReadResponse (op : Nat) (answer : RemoteAnswer) (body : List Byte)
  /-- PIPELINE_LAUNCH (R413): Once slots are free, the sequencer places root records and binds pipeline threads. -/
  | pipelineLaunch (op : Nat)
  /-- REMOTE_WRITE_LAUNCH (R414): A KIND 1 launch reads local bytes and sends a remote write. -/
  | remoteWriteLaunch (op : Nat)
  /-- REMOTE_READ_LAUNCH (R414): A KIND 2 launch requests a remote read. -/
  | remoteReadLaunch (op : Nat)
  /-- PARAMETER_COMMIT (R415): Writes a new version into a parameter block header at one step. -/
  | parameterCommit (ctx : Nat) (header version : DWord)
  /-- GANG_LAUNCH (R421): A member sets its PKGID, starts the launch and sends ACKs. -/
  | gangLaunch (ctx : Nat) (gang : GangRequest)
  /-- GANG_ACK (R422): A member's ACK arrives, releasing delayed gang traffic when all are in. -/
  | gangAck (ctx member : Nat)
  /-- GANG_TIMEOUT_CHECK (R423): At TIMEOUT after start a member checks its ACKs and aborts if one is missing. -/
  | gangTimeoutCheck (ctx : Nat)
  /-- GANG_ABORT (R423): A received ABORT ends the gang context. -/
  | gangAbort (ctx : Nat)
  /-- GANG_ARRIVE (R335): A gang barrier arrival message is received; the release follows when all counts are met. -/
  | gangArrive (ctx member barrier stamp : Nat)
  /-- DELIVERY_FAILURE (R401): UET exhausts its retry limit for a message. -/
  | deliveryFailure (ctx : Nat) (lost : LostMessage)
  /-- CXL_HOST_WRITE (R255): Another host's write enters the machine as a back-invalidation arrives. -/
  | cxlHostWrite (address : Nat) (body : List Byte)
  /-- ATTESTATION_CHALLENGE (R447): The regulator answers a challenge with a signed quote. -/
  | attestationChallenge (nonce : List Byte) (ctx : Nat)
  /-- PREEMPT (R394): The regulator stops a context's threads and saves their images. -/
  | preempt (ctx : Nat)
  /-- RESTORE (R397): A context image is reloaded into its cores and resumes. -/
  | restore (ctx : Nat)
  /-- POWER_SAMPLE (R456): Every 50 us the power manager samples power and throttles or ends deterministic contexts. -/
  | powerSample (watts : Nat) (hot : List Nat)
  /-- THERMAL_EVENT (R457): A sensor reading crosses a thermal limit and throttles or stops the package. -/
  | thermalEvent (reading : ThermalReading)
  /-- PATROL_SCRUB (R453): The regulator reads and corrects the memory stack every 24 hours. -/
  | patrolScrub (die : Nat) (finds : List PatrolFind)
  /-- POWER_ON (R439): Power is applied and the package runs phases 1 to 8 to READY. -/
  | powerOn (outcome : BringUp)
  /-- SLICE_REASSIGN (R365): The regulator moves a slice to another partition after scrubbing it. -/
  | sliceReassign (slice : Nat) (part : Option Nat)
  /-- ILLEGAL_WORD (R35): Decoding a word that names no instruction raises the illegal-instruction trap precisely at that word. -/
  | illegalWord (w : Word)
  /-- SOFT_ERROR (R453): A soft error changes stored bits of an array, leaving a line or register whose code or check value no longer matches. -/
  | softError (upset : Upset)
  /-- QUARTER_POWER_GATE (R55): The regulator clears or sets a LANECAP bit, power-gating an idle quarter and losing its register slices, or powering it back on so that they read zero. -/
  | quarterPowerGate (core : Nat) (on : BitVec 4)
  /-- NEW_IMAGE_TO_INACTIVE_BANK (R445): Through the management channel, a new firmware or control-store image is written into the inactive MRAM bank, to take effect at the next power-up. -/
  | newImageToInactiveBank (die : Nat) (image : MramImage)
  /-- STOP (R229): Ends a vector-thread block and stops the lane. -/
  | stop
  /-- SCALL (R390): Raises the system-call cause at its own word. -/
  | scall
  /-- SBRK (R390): Raises the breakpoint cause at its own word. -/
  | sbrk
  /-- SRET (R391): Returns from a trap, optionally skipping or recapturing the held vector entry. -/
  | sret
  /-- WFE (R392): Clears EV, parking the thread until an event sets it if it is clear. -/
  | wfe
  /-- HALT (R393): Waits for the vector side and posted set, then ends the thread. -/
  | halt
  /-- MODEV (R194): Leaves tile mode and releases the tile unit. -/
  | modev
  /-- VJOIN (R233): Holds the scalar stream until every earlier VBLK has committed. -/
  | vjoin
  /-- FSV (R248): Orders earlier scalar accesses before later vector accesses. -/
  | fsv
  /-- FVS (R249): Orders earlier vector accesses before later scalar accesses. -/
  | fvs
  /-- FVV (R250): Orders posted operations before later vector accesses. -/
  | fvv
  /-- ISYNC (R237): Discards fetched words and refetches after scalar completion. -/
  | isync
  /-- THERMAL_RESTART (R457): All junctions fall below 85 C and the arithmetic clock restarts. -/
  | thermalRestart
  /-- TELEMETRY_REPORT (R458): Once a second the package sends its counters. -/
  | telemetryReport
  /-- LOSS_OF_POWER (R442): The package loses power, lowering READY and cutting any MRAM write or identity-index write in progress. -/
  | lossOfPower
  deriving DecidableEq, Repr

end Sys2Proof
end

