-- ==== Sys2Proof/Machine/State.lean ====
section
/-! DEFINITION. The state of the package as plain data, the ways in which a step can stop, and the state at READY
(R439). One thread slot, its core, its bay and its context are in focus; all others stand in lists by number. -/

namespace Sys2Proof.Machine

/-- Why a step of the machine cannot be taken. -/
inductive Fault where
  /-- Raised by `step` alone: the schedule is empty, the thread in focus is idle, and nothing is in progress. The machine
  has no step to take (R215, R241). Safe: nothing is claimed of what follows. -/
  | idle
  deriving DecidableEq, Repr

/-- Why an instruction has no meaning. -/
inductive Refusal where
  /-- Raised by an arm of `exec` that has no meaning yet. Safe: nothing is claimed of the instruction. -/
  | notModelled (mnemonic : String)
  deriving DecidableEq, Repr

/-- Sparse storage: keys strictly rising, no zero entry; an absent key reads zero. -/
abbrev Sparse (w : Nat) := List (Nat × BitVec w)

/-- A tensor descriptor as eight doublewords, doubleword 0 lowest (R287). -/
structure Handle where
  d0 : DWord := 0
  d1 : DWord := 0
  d2 : DWord := 0
  d3 : DWord := 0
  d4 : DWord := 0
  d5 : DWord := 0
  d6 : DWord := 0
  d7 : DWord := 0
  deriving DecidableEq, Repr

/-- A slot of a thread's token table (R267, R269). STATE 0 marks a free slot. -/
structure Token where
  st : BitVec 4 := 0
  gen : BitVec 48 := 1
  stamp : BitVec 48 := 0
  cause : BitVec 8 := 0
  result : DWord := 0
  deriving DecidableEq, Repr

/-- The state of a virtual lane of a VBLK (R225, R229, R230). -/
inductive LaneState where
  | stopped | running | faulted
  deriving DecidableEq, Repr

/-- A virtual lane: its state, next address, and after a fault its cause and value (R225, R230, R231). -/
structure Lane where
  st : LaneState := .stopped
  next : DWord := 0
  cause : BitVec 8 := 0
  val : DWord := 0
  deriving DecidableEq, Repr

/-- What an earlier chain word left in a register: its width in bits, and whether it holds bf16 values (R211). -/
structure ChainWidth where
  reg : VReg
  width : Nat
  bf16 : Bool
  deriving DecidableEq, Repr

/-- The place of a word in a drain chain: words that follow it, N, and the widths that hold before it (R211, R212). -/
structure ChainPlace where
  left : Nat
  n : Nat
  flush : BitVec 2
  widths : List ChainWidth
  stored : Bool
  deriving DecidableEq, Repr

/-- A byte of a shadow, with the bits that the publish changes: a scale pair or a code need not fill its bytes (R77); of a handle
store, the log of the size of the page through which it was translated (R380). -/
structure Put where
  va : DWord
  pa : Nat
  byte : BitVec 8
  mask : BitVec 8
  page : Nat := 0
  deriving DecidableEq, Repr

/-- A posted element: its index, its address and physical address, its value, and the log of the size of the page through which
it was translated (R157, R380); of a handle store, the bytes that it writes into the shadow (R306). -/
structure PostedElem where
  idx : Nat
  va : DWord
  pa : Nat
  val : DWord
  page : Nat := 0
  puts : List Put := []
  deriving DecidableEq, Repr

/-- A value that a load has read: the register (above 31 a predicate), the element width, the element and the value. -/
structure Loaded where
  reg : Nat
  sew : Nat
  idx : Nat
  val : Nat
  deriving DecidableEq, Repr

/-- How a block of a VBLK ends (R229). -/
inductive BlockEnd where
  | fetch (imm : BitVec 12) (rs1 : Reg) (vi : VReg)
  | stop
  deriving DecidableEq, Repr

/-- A vector-side word with its captured operands, and how far it has come (R48, R218, R219, R221, R291): `prog` counts the
elements, items or groups that are done; `got` holds what a load has read, `elems` the checked elements of a posted word,
`taps` the taps read of a texture element, refused ones as none, `flags` the flags raised so far, and `seq` the scalar accesses
that stand before an FSV. -/
structure VWord where
  addr : DWord
  instr : Instr
  a : DWord := 0
  b : DWord := 0
  frm : BitVec 3 := 0
  gmode : Bool := false
  sthresh : Word := 0
  lbypass : DWord := 0
  h1 : Handle := {}
  h2 : Handle := {}
  xs : List DWord := []
  prog : Nat := 0
  admitted : Bool := false
  slot : Option Nat := none
  chain : Option ChainPlace := none
  flags : BitVec 6 := 0
  got : List Loaded := []
  elems : List PostedElem := []
  checked : Bool := false
  seq : Nat := 0
  taps : List (Option (List Byte)) := []
  deriving DecidableEq, Repr

/-- A group of virtual lanes that runs its block (R228 to R230, R232): the lanes at the block, the lanes that have faulted
in it, the words that have not run, the end of the block, the flags raised so far, and the word that runs with the lanes
over which it began. -/
structure GroupRun where
  alive : List Nat
  lost : List (Nat × Lane) := []
  words : List (DWord × Instr)
  last : BlockEnd
  flags : BitVec 6 := 0
  dom : List Nat := []
  word : Option VWord := none
  deriving DecidableEq, Repr

/-- An entry of the vector queue (R218): a word, and for a VBLK its lanes and the group that runs (R225, R228). -/
structure VEntry extends VWord where
  lanes : List Lane := []
  group : Option GroupRun := none
  deriving DecidableEq, Repr

/-- What a posted operation does at each element (R159, R160, R306). -/
inductive PostedKind where
  | addInt | addFloat | store | handle
  deriving DecidableEq, Repr

/-- A posted operation (R157, R158, R306): elements not yet performed, captured modes, flags so far, a handle store's token. -/
structure PostedOp where
  id : Nat
  kind : PostedKind
  bytes : Nat
  bf16 : Bool
  frm : BitVec 3
  flush : BitVec 2
  elems : List PostedElem
  flags : BitVec 6 := 0
  slot : Option Nat := none
  gen : BitVec 48 := 0
  shadow : List Put := []
  deriving DecidableEq, Repr

/-- The operations of an AMO (R108). -/
inductive AmoOp where
  | add | swap | cas | min | max | minu | maxu | and | or | xor
  deriving DecidableEq, Repr

/-- What a step of the scalar access queue does (R103, R108, R244): a load into an x register sign-extended from its width or
not, a load into an f register, a store, an AMO; an IFENCE of every address or of a range (R236), the selection of a WAKE (R262),
the write of an HSTH (R292), the read of an RQUERY (R356), and the read and write of an RRESUME with its decision (R355). -/
inductive ScalarKind where
  | loadX (rd : Reg) (signed : Bool)
  | loadF (rd : Reg)
  | store
  | amo (op : AmoOp) (rd : Reg)
  | ifence (scope : BitVec 3) (all : Bool)
  | wake (scope : BitVec 3) (rd : Reg)
  | handle (h : Handle)
  | query (rd : Reg)
  | resume (d : DWord) (rd : Reg)
  deriving DecidableEq, Repr

/-- An access of the scalar access queue (R107, R239): what it does, its width, address and checked physical address, its
value or AMO operand, the value that an AMO compares with, the log of the size of its page (R380), and where its bytes cross a
line, the physical address and length of the later pieces, with the bytes of the first. -/
structure ScalarAcc where
  kind : ScalarKind
  bytes : Nat
  va : DWord
  pa : Nat
  val : DWord := 0
  expect : DWord := 0
  page : Nat := 0
  more : List (Nat × Nat) := []
  deriving DecidableEq, Repr

/-- The words that wait in the scalar stream (R222, R261, R281, R286, R321, R322, R334, R392). -/
inductive WaitKind where
  | hold | park | emit | take | cwait | wfe | mrecv | bwait | engine
  deriving DecidableEq, Repr

/-- What a waiting word waits for: address, further operand, destinations, when it began, cycles left, and the operands
that it has read. -/
structure WaitRec where
  kind : WaitKind
  addr : DWord := 0
  arg : DWord := 0
  rd : Reg := 0
  cd : CReg := 0
  since : Nat := 0
  cycles : DWord := 0
  words : List DWord := []
  deriving DecidableEq, Repr

/-- The record that a thread of a pipeline holds: its stage and its node of the task tree (R318, R427). -/
structure HeldRecord where
  stage : Nat
  node : Nat
  deriving DecidableEq, Repr

/-- A thread of a pipeline: the launch, its bay, and the stage it is reserved for, or none if shared (R316). -/
structure Binding where
  launch : Nat
  bay : Nat
  stage : Option Nat
  deriving DecidableEq, Repr

/-- A copy of an instruction word that is held ahead of its use: context, virtual and physical address (R236 to R238). -/
structure FetchCopy where
  ctx : Nat
  va : DWord
  pa : Nat
  word : Word
  deriving DecidableEq, Repr

/-- A thread slot (R39, R46, R215, R382, R395). -/
structure Thread where
  live : Bool := false
  ctx : Nat := 0
  quarters : BitVec 4 := 0
  x : Vector DWord 32 := Vector.replicate 32 0
  f : Vector DWord 32 := Vector.replicate 32 0
  c : BitVec 8 := 1
  h : Vector Handle 16 := Vector.replicate 16 {}
  pc : DWord := 0
  level : Bool := false
  v : Vector (Sparse 32) 32 := Vector.replicate 32 []
  p : Vector (Sparse 128) 16 := Vector.replicate 16 []
  tags : Vector (BitVec 11) 32 := Vector.replicate 32 0x7FF
  vl : BitVec 14 := 0
  vtype : DWord := 0x80000000
  dvl : BitVec 14 := 0
  dvtype : DWord := 0x80000000
  vrsi : DWord := 0
  vrss : DWord := 0
  fflags : BitVec 6 := 0
  frm : BitVec 3 := 0
  gmode : Bool := false
  tshape : DWord := 0x16060
  dtshape : DWord := 0x16060
  lcount : DWord := 0
  lstart : DWord := 0
  lend : DWord := 0
  lbypass : DWord := 0x100000
  sthresh : Word := 0x3B800000
  taskix : DWord := 0
  digest : DWord := 0
  stageid : BitVec 16 := 0
  fgbase : DWord := 0
  trapcause : DWord := 0
  trapval : DWord := 0
  trappc : DWord := 0
  trapspc : DWord := 0
  traptime : DWord := 0
  trapstat : DWord := 0
  traplane : DWord := 0
  trapscr : DWord := 0
  tile : Bool := false
  tileSave : List (Sparse 32) := []
  chain : Option ChainPlace := none
  tokens : Vector Token 64 := Vector.replicate 64 {}
  queue : List VEntry := []
  scalars : List ScalarAcc := []
  scalarCount : Nat := 0
  posted : List PostedOp := []
  ev : Bool := false
  wait : Option WaitRec := none
  woken : Bool := false
  held : Option HeldRecord := none
  pipe : Option Binding := none
  node : Nat := 0
  children : Nat := 0
  lastStamp : Nat := 0
  lastVector : Nat := 0
  ahead : List FetchCopy := []
  deriving DecidableEq, Repr

/-- A cached translation: context, virtual page, log of its size, leaf, region entry (R376). -/
structure TlbEntry where
  ctx : Nat
  page : Nat
  size : Nat
  leaf : DWord
  region : List DWord
  deriving DecidableEq, Repr

/-- A walk in flight on the walkers of a die (R377): its context, 64 KiB page, the level and table that it reads next, the
bays whose misses it serves, and the address of the miss that started it. -/
structure WalkRec where
  die : Nat
  ctx : Nat
  page : Nat
  level : Nat
  table : Nat
  bays : List Nat
  va : Nat := 0
  deriving DecidableEq, Repr

/-- An entry of the range scoreboard: the copy that holds it, and the byte range (R258). -/
structure ScoreEntry where
  op : Nat
  base : Nat
  size : Nat
  deriving DecidableEq, Repr

/-- A core (R2, R39, R54, R55, R192, R193, R382, R455). The accumulators key element (r, c) as 96 r + c; `icache` holds the
copies of its instruction cache and block buffers, and `uncorrectable` the seconds at which it met uncorrectable errors. -/
structure CoreState where
  rowcap : Nat := 16
  tilecapK : Nat := 96
  tilecapZn : Nat := 4
  spcap : Nat := 0
  lanecap : BitVec 4 := 0xF
  z : Vector (Sparse 32) 4 := Vector.replicate 4 []
  tileOwner : Option Nat := none
  tileWaiters : List Nat := []
  scoreboard : List ScoreEntry := []
  tlb : List TlbEntry := []
  icache : List FetchCopy := []
  failed : Bool := false
  uncorrectable : List Nat := []
  deriving DecidableEq, Repr

/-- A bay (R2, R376, R457): its translation cache and its junction temperature in tenths of a degree. -/
structure BayState where
  tlb : List TlbEntry := []
  tenths : Nat := 0
  deriving DecidableEq, Repr

/-- A message in a queue, oldest first in its list (R284, R286). `check` is its check value, as its difference from the CRC-32C
of its bytes (R448); `quarantined` says that a mismatch has been reported (R450). -/
structure Message where
  src : BitVec 16
  cls : BitVec 4
  stamp : BitVec 32
  payload : List Byte
  check : Word := 0
  quarantined : Bool := false
  deriving DecidableEq, Repr

/-- A named barrier (R330). DEDUCED, safe: assumption 19 of the log. -/
structure Barrier where
  expect : Nat := 0
  arrived : Nat := 0
  phase : BitVec 16 := 0
  level : Nat := 0
  deriving DecidableEq, Repr

/-- A gang context's launch (R421 to R423): the missing-ACK check is due while `checked` is false. `endpoints` are those of the
members in PKGID order (R403). -/
structure Gang where
  gangId : Nat
  members : Nat
  timeout : Nat
  acks : List Nat
  checked : Bool
  arrivals : List (Nat × Nat)
  endpoints : List Nat := []
  deriving DecidableEq, Repr

/-- A node of the task tree: its parent, child number, key, and digest when it has ended (R427, R428, R436). -/
structure TaskNode where
  id : Nat
  parent : Nat
  c : Nat
  key : DWord
  digest : DWord
  deriving DecidableEq, Repr

/-- A held scatter-add element (R430, R437): launch, node, posting order, element and where it adds. -/
structure HeldAdd where
  launch : Nat
  node : Nat
  seq : Nat
  idx : Nat
  va : DWord
  pa : Nat
  val : DWord
  bytes : Nat
  bf16 : Bool
  frm : BitVec 3
  flush : BitVec 2
  deriving DecidableEq, Repr

/-- A context (R366, R369, R382, R394, R403, R404, R433). `away` are the cores on which a resident context is pre-empted, and `host` is
the endpoint that sent its DEFINE. -/
structure Context where
  defined : Bool := false
  resident : Bool := false
  started : Bool := false
  ended : Bool := false
  det : Bool := false
  part : Nat := 0
  ptbase : DWord := 0
  frtbase : DWord := 0
  spbase : DWord := 0x0000FFFFFFE00000
  marchsel : BitVec 2 := 0
  trapvec : DWord := 0
  latclass : Nat := 0
  diglog : DWord := 0
  digctl : DWord := 0
  pkgid : Nat := 0
  start : DWord := 0
  qcap : List Nat := []
  bars : List Nat := []
  slots : Nat := 0
  body : List DWord := []
  host : Nat := 0
  queues : List (Nat × List Message) := []
  barriers : List (Nat × Barrier) := []
  gang : Option Gang := none
  images : List (Nat × Thread) := []
  away : List Nat := []
  nodes : List TaskNode := []
  adds : List HeldAdd := []
  deriving DecidableEq, Repr

/-- A record in a stage queue: its bytes, key, node, whether its pushing segment has committed, the slot that pushed it, and its
check value as a difference (R314, R321, R431, R448). -/
structure StageRecord where
  bytes : List Byte
  key : DWord
  node : Nat
  takeable : Bool
  byPos : Nat
  check : Word := 0
  quarantined : Bool := false
  deriving DecidableEq, Repr

/-- A pipeline in one bay: its launch, context, descriptor, stage queues, decisions that passed each stage over, and how many pushes
and releases the bay has seen (R312 to R325). -/
structure Pipe where
  launch : Nat
  ctx : Nat
  bay : Nat
  desc : List DWord
  queues : List (Nat × List StageRecord) := []
  passed : List (Nat × Nat) := []
  moves : Nat := 0
  deriving DecidableEq, Repr

/-- The kinds of engine operations (R270, R276, R285, R353, R359, R409, R412). -/
inductive EngineKind where
  | copy | fold | blend | walk | rcast | message | pipeline | remoteWrite | remoteRead | inboundWrite | inboundRead
  deriving DecidableEq, Repr

/-- How far an operation is (R271, R278). -/
inductive EnginePhase where
  | queued | running | written | ready | published | done
  deriving DecidableEq, Repr

/-- A ray of an RCAST operation: record address, status, whether it parked at admission, its live record, whether it is
within a leaf, its decision, and how often it has parked for a hit (R342, R343, R350, R353, R355, R427). -/
structure Ray where
  idx : Nat
  addr : DWord
  status : BitVec 4
  atAdmission : Bool := false
  d : Handle := {}
  inLeaf : Bool := false
  decision : Option DWord := none
  pushed : Nat := 0
  cause : BitVec 8 := 0
  deriving DecidableEq, Repr

/-- An entry gathered for a hit record, with the number of its ray's park (R351, R427). -/
structure HitEntry where
  stage : Nat
  kind : Nat
  ray : DWord
  rayIdx : Nat
  prim : Nat
  t : Word
  n : Nat
  deriving DecidableEq, Repr

/-- An operation in progress (R271, R272, R277, R285, R353, R412): `home` is the slot that issued it, also when the
issuing thread has ended; `parts` are the checked pieces of its destination: address, physical address, length (R277, R380). -/
structure EngineOp where
  id : Nat
  kind : EngineKind
  issuer : Nat
  home : Nat := 0
  ctx : Nat
  level : Bool
  slot : Nat := 0
  gen : BitVec 48 := 0
  explicit : Bool := false
  block : Option DWord := none
  words : List DWord := []
  phase : EnginePhase := .queued
  progress : Nat := 0
  buf : List Byte := []
  shadow : List Put := []
  parts : List (Nat × Nat × Nat) := []
  cause : BitVec 8 := 0
  addr : DWord := 0
  result : DWord := 0
  flags : BitVec 6 := 0
  node : Nat := 0
  key : DWord := 0
  launch : Nat := 0
  stage : Option Nat := none
  rays : List Ray := []
  hits : List HitEntry := []
  deriving DecidableEq, Repr

/-- A doubleword on which a thread is parked (R261): who, where, since which stamp, and whether a write or a WAKE has come. -/
structure ParkRec where
  pos : Nat
  ctx : Nat
  va : DWord
  pa : Nat
  since : Nat
  poked : Bool := false
  woken : Bool := false
  deriving DecidableEq, Repr

/-- A message on its way to a queue of this package (R285, R448). -/
structure Transit where
  op : Nat
  ctx : Nat
  queue : Nat
  src : BitVec 16
  sent : Nat
  payload : List Byte
  check : Word := 0
  deriving DecidableEq, Repr

/-- The body of a Derpor message that the package sends (R402, R409, R415, R421, R447). -/
inductive Outgoing where
  | message (member op : Nat) (payload : List Byte)
  | remoteWrite (member op : Nat) (address : DWord) (body : List Byte)
  | remoteRead (member op : Nat) (address : DWord) (length : Nat)
  | writeAck (cause : BitVec 8) (address : DWord) (stamp : Nat)
  | readResponse (cause : BitVec 8) (address : DWord) (body : List Byte)
  | commitAck (cause : BitVec 8) (stamp : Nat)
  | gangAck
  | gangArrive (barrier : Nat)
  | gangAbort
  | quote (body signature : List Byte)
  deriving DecidableEq, Repr

/-- What leaves the package: a Derpor message with its header (R402), or a poisoned line for the pool with its CXL port
(R418, R450). -/
inductive Sent where
  | derpor (header : DerporHeader) (body : Outgoing)
  | cxlPoison (port line : Nat)
  deriving DecidableEq, Repr

/-- The body of a REPORT to the management endpoint, or of the FAIL of a gang (R408, R423, R440, R450, R457, R458). -/
inductive Report where
  | finished (ctx : Nat)
  | ended (ctx : Nat) (cause : BitVec 8) (pc val time : DWord)
  | refused (op reason : Nat)
  | queueFull (ctx queue : Nat)
  | gangFailure (ctx gangId : Nat) (missing : List Nat)
  | ready (slices ethernet cxl version : Nat)
  | integrity (ctx kind : Nat) (va pa : Nat)
  | telemetry (counters : List Nat)
  | thermalStop (inlet : Bool) (die bay tenths : Nat)
  deriving DecidableEq, Repr

/-- An extent of the pool granted to a partition (R381, R419). -/
structure Extent where
  part : Nat
  base : Nat
  size : Nat
  shared : Bool
  deriving DecidableEq, Repr

/-- An HDM decoder: base, size, ways, granularity and the ports it interleaves (R418). -/
structure HdmDecoder where
  base : Nat
  size : Nat
  ways : Nat
  granularity : Nat
  ports : List Nat
  deriving DecidableEq, Repr

/-- An entry of the repair map (R455). -/
inductive Repair where
  | core (core : Nat)
  | row (die row : Nat)
  | lane (link : Nat)
  deriving DecidableEq, Repr

/-- One of the two copies of an MRAM record: its sequence number, its CRC-32C as its difference from that of its bytes, and its
value (R444). -/
structure MramCopy (α : Type) where
  seq : Nat := 0
  crc : Word := 0
  val : α
  deriving DecidableEq, Repr

/-- An MRAM record as its two copies (R444). -/
structure Record (α : Type) where
  a : MramCopy α
  b : MramCopy α
  deriving DecidableEq, Repr

/-- A record with both copies alike. -/
def Record.of {α : Type} (v : α) : Record α := { a := { val := v }, b := { val := v } }

/-- The record that boot takes: the copy with the higher sequence number whose CRC holds (R444). -/
def Record.read {α : Type} (r : Record α) : Option α :=
  if r.a.crc = 0 ∧ (r.b.crc ≠ 0 ∨ r.b.seq ≤ r.a.seq) then some r.a.val
  else if r.b.crc = 0 then some r.b.val
  else none

/-- The sequence number of the next write. -/
def Record.nextSeq {α : Type} (r : Record α) : Nat := max r.a.seq r.b.seq + 1

/-- A completed write: both copies (R444). -/
def Record.write {α : Type} (r : Record α) (v : α) : Record α :=
  { a := { seq := r.nextSeq, val := v }, b := { seq := r.nextSeq, val := v } }

/-- A write that a loss of power cuts (R444): the copy that was being written is no valid one, and the copy after it is as before.
The copy that boot would take is written last. -/
def Record.cut {α : Type} (r : Record α) (v : α) (firstDone : Bool) : Record α :=
  let new : MramCopy α := { seq := r.nextSeq, crc := if firstDone then 0 else 1, val := v }
  let torn := fun (c : MramCopy α) => if firstDone then { c with crc := 1 } else c
  if r.a.crc = 0 ∧ (r.b.crc ≠ 0 ∨ r.b.seq ≤ r.a.seq) then { a := torn r.a, b := new } else { a := new, b := torn r.b }

/-- The configuration of MRAM: Benulty's public roots, the serial number, the power limit in watts, and the thermal limits in
tenths of a degree (R443, R445, R456, R457). -/
structure MramConfig where
  firmwareRoot : List Byte := Config.firmwareRoot
  controlRoot : List Byte := Config.controlRoot
  serial : DWord := Config.serialNumber
  powerLimit : Nat := 4500
  hotJunction : Nat := 950
  stopJunction : Nat := 1050
  stopInlet : Nat := 500
  restartJunction : Nat := 850
  deriving DecidableEq, Repr

/-- The repair map and the calibration results (R443, R455). -/
structure RepairMap where
  repairs : List Repair := []
  calibration : List Byte := []
  deriving DecidableEq, Repr

/-- The rollback counters (R443, R445). -/
structure Counters where
  firmware : Nat := 0
  control : Nat := 0
  deriving DecidableEq, Repr

/-- The identity of the package (R443, R446). -/
structure Identity where
  seed : List Byte := Config.identitySeed
  root : List Byte := Config.identityRoot
  next : Nat := 0
  deriving DecidableEq, Repr

/-- An entry of the event log: an integrity event with its context, consumer and addresses, a line found by the patrol, or a
thermal event (R443, R450, R453, R457). -/
inductive MramEvent where
  | integrity (ctx kind va pa stamp : Nat)
  | patrol (line stamp : Nat)
  | thermal (inlet : Bool) (die bay tenths stamp : Nat)
  deriving DecidableEq, Repr

/-- An image of the factory, signed by Benulty. DESIGN CHOICE, unsafe: assumption 77 of the log. -/
def factoryImage (control : Option (BitVec 2)) : MramImage :=
  { controlStore := control, version := 0
    payload := match control with | some k => Config.factoryControl k.toNat | none => Config.factoryFirmware
    signature := (List.range 18469).map Config.factorySignature
    signer := some (if control.isSome then Config.controlRoot else Config.firmwareRoot) }

/-- The MRAM of a die (R443), each record as two copies (R444); the identity is held on die 0 alone.
DESIGN CHOICE, unsafe: assumption 2 of the log. -/
structure Mram where
  bankA : Record (Option MramImage) := .of (some (factoryImage none))
  bankB : Record (Option MramImage) := .of none
  control : Record (List (Nat × MramImage)) := .of ((List.range 3).map fun k => (k, factoryImage (some (BitVec.ofNat 2 k))))
  config : Record MramConfig := .of {}
  repair : Record RepairMap := .of {}
  counters : Record Counters := .of {}
  identity : Record (Option Identity) := .of none
  events : Record (List MramEvent) := .of []
  deriving DecidableEq, Repr

/-- What a die runs since its last power-up: its firmware image, whether it came from bank B, and the control-store images that
were loaded (R442, R445, R447). -/
structure Boot where
  image : Option MramImage := some (factoryImage none)
  bankB : Bool := false
  control : List (Nat × MramImage) := (List.range 3).map fun k => (k, factoryImage (some (BitVec.ofNat 2 k)))
  deriving DecidableEq, Repr

/-- A video-encode engine or a virtual display head (R2, R4, R367): the context it is assigned to, whether a frame is in progress,
and the bytes of the frame that it has read. -/
structure FrameUnit where
  ctx : Option Nat := none
  active : Bool := false
  frame : List Byte := []
  deriving DecidableEq, Repr

/-- The telemetry counters (R458); CORR and UNCORR count for each kind of array of R452. -/
structure Telemetry where
  drops : Nat := 0
  faultpass : Nat := 0
  absent : Nat := 0
  corr : List (ArrayKind × Nat) := [(.stack, 0), (.sram, 0), (.core, 0), (.cache, 0), (.mram, 0)]
  uncorr : List (ArrayKind × Nat) := [(.stack, 0), (.sram, 0), (.core, 0), (.cache, 0), (.mram, 0)]
  quar : Nat := 0
  notice : Nat := 0
  throttle : Nat := 0
  power : Nat := 0
  junction : Nat := 0
  inlet : Nat := 0
  deriving DecidableEq, Repr

/-- A segment of a task of a deterministic context (R429 to R431, R433, R435): its number, whether a commit point has
closed it, its shadow with the virtual address of each line, held integer and floating-point adds, whether it can be rolled
back, whether it has failed a check, DIGLOG and DIGCTL as it began, and its checkpoint with the accumulators. -/
structure Segment where
  number : Nat := 1
  shadow : List (Nat × BitVec 8) := []
  adds : List HeldAdd := []
  floats : List HeldAdd := []
  recoverable : Bool := true
  lines : List (Nat × DWord) := []
  failed : Bool := false
  closed : Bool := false
  diglog : DWord := 0
  digctl : DWord := 0
  checkpoint : Thread := {}
  tiles : List (Sparse 32) := []
  deriving DecidableEq, Repr

/-- The choices that the machine may make freely (R222, R241, R376, R377, R238). They are the model's own data. -/
structure Choices where
  runAhead : Bool := false
  useCached : Bool := false
  fillCache : Bool := false
  staleFetch : Bool := false
  keepFetched : Bool := false
  deferScalar : Bool := false
  deriving DecidableEq, Repr

/-- What the schedule may hold: a turn of a thread slot; an event of the opcode table; a Derpor message with the endpoint that it
comes from and its header, whose event is dropped where R403 drops the message; and the steps that are no rows of the table. These are the scalar step of a
thread slot, which performs the head of its scalar access queue (R240); an element group of an entry behind the head of a
vector queue (R221); the start and the table reads of a walk (R377); a copy of an instruction line taken into a core's
instruction cache (R238); a dirty pool line that leaves for the pool (R449), and a poisoned line that the pool delivers (R417);
the programming of an HDM decoder (R418); the assignment of a frame unit, the start of its frame, its reads and the
frame's end (R367); the pre-emption of a context on some of its cores (R394); and a loss of power that cuts a write of
MRAM (R444). -/
inductive Action where
  | turn (pos : Nat) (ch : Choices)
  | event (i : Instr)
  | derpor (sender : Nat) (header : DerporHeader) (i : Instr)
  | scalar (pos : Nat)
  | ahead (pos entry : Nat)
  | walkStart (pos va : Nat)
  | walkRead (walk : Nat)
  | fetchLine (pos va : Nat)
  | poolWrite (line ctx : Nat) (va : DWord)
  | poisoned (line : Nat)
  | hdm (index : Nat) (decoder : HdmDecoder)
  | assignUnit (unit : Nat) (ctx : Option Nat)
  | frameStart (unit : Nat)
  | frameRead (unit va length : Nat)
  | frameEnd (unit : Nat)
  | preemptOn (ctx : Nat) (cores : List Nat)
  | powerCut (cut : MramCut)
  deriving DecidableEq, Repr

/-- The package (R1, R2) with the thread slot whose turn it is in focus. DESIGN CHOICE, safe: assumption 3 of the log. -/
structure State where
  pos : Nat := 0
  t : Thread := {}
  core : CoreState := {}
  bay : BayState := {}
  ctx : Context := {}
  threads : List (Nat × Thread) := []
  cores : List (Nat × CoreState) := []
  bays : List (Nat × BayState) := []
  ctxs : List (Nat × Context) := []
  mem : List Host.Cell := []
  chk : Sparse 32 := []
  quar : List Nat := []
  stamp : Nat := 0
  tick : Nat := 0
  ops : List EngineOp := []
  nextOp : Nat := 0
  parks : List ParkRec := []
  walks : List WalkRec := []
  pipes : List Pipe := []
  segs : List (Nat × Segment) := []
  net : List Transit := []
  out : List Sent := []
  reports : List (DerporHeader × Report) := []
  management : Nat := 0
  owners : List (Nat × Nat) := []
  extents : List Extent := []
  hdm : List (Nat × HdmDecoder) := []
  units : List (Nat × FrameUnit) := []
  powered : Bool := true
  ready : Bool := true
  stopped : Bool := false
  usableSlices : BitVec 18 := 0x3FFFF
  usableEthernet : BitVec 8 := 0xFF
  usableCxl : BitVec 8 := 0xFF
  clocks : List (Nat × Nat) := []
  calm : Nat := 0
  mram : List (Nat × Mram) := []
  booted : List (Nat × Boot) := []
  inlets : List (Nat × Nat) := []
  seconds : Nat := 0
  telemetry : Telemetry := {}
  sched : List Action := []
  ch : Choices := {}
  deriving DecidableEq, Repr

/-- The header of the REPORT of kind 5 at READY (R402, R440). -/
def readyHeader : DerporHeader := { stamp := 0, src := 0, ctx := 0, queue := 0, reserved := 0, op := 6, cls := 0 }

/-- The package when READY is raised (R439 phase 8, R440): memory zero, no context, the ready REPORT sent.
DESIGN CHOICE, unsafe: assumption 1 of the log. -/
def State.reset : State := { reports := [(readyHeader, .ready 0x3FFFF 0xFF 0xFF 0)] }

end Sys2Proof.Machine
end

