-- ==== Sys2Proof/Machine/Sparse.lean ====
section
/-! DEFINITION. Storage in canonical form: lists keyed by number in rising order, with no entry equal to what an absent
key reads as. Memory, vector registers, predicates, accumulators and check values all use it. -/

namespace Sys2Proof.Machine

/-- The value at a key; an absent key reads zero (R242, R439 phase 6). DESIGN CHOICE, unsafe: assumption 4 of the log. -/
def sget {w : Nat} : Sparse w → Nat → BitVec w
  | [], _ => 0
  | (j, v) :: r, k => if j = k then v else sget r k

/-- Insertion before the first greater key. -/
def sinsert {w : Nat} (k : Nat) (v : BitVec w) : Sparse w → Sparse w
  | [] => [(k, v)]
  | (j, u) :: r => if k < j then (k, v) :: (j, u) :: r else (j, u) :: sinsert k v r

/-- The list without a key. -/
def sdrop {w : Nat} (k : Nat) : Sparse w → Sparse w
  | [] => []
  | (j, u) :: r => if j = k then sdrop k r else (j, u) :: sdrop k r

/-- The list with a value at a key; a zero removes the entry. -/
def sset {w : Nat} (m : Sparse w) (k : Nat) (v : BitVec w) : Sparse w :=
  if v = 0 then sdrop k m else sinsert k v (sdrop k m)

/-- Keys rise strictly and no entry is zero. -/
def Sparse.wf {w : Nat} : Sparse w → Bool
  | [] => true
  | [(_, v)] => v != 0
  | (j, v) :: (k, u) :: r => v != 0 && decide (j < k) && Sparse.wf ((k, u) :: r)

/-- The canonical form of memory (R10, R242): bytes by rising address, no zero byte listed. -/
def Memory.wf (m : List Host.Cell) : Bool := Sparse.wf (w := 8) m

/-- `n` bytes of memory from an address. -/
def bytesAt (m : List Host.Cell) (a n : Nat) : List Byte :=
  (List.range n).map fun i => sget (w := 8) m (a + i)

/-- Memory with bytes written from an address. -/
def putBytes : List Host.Cell → Nat → List Byte → List Host.Cell
  | m, _, [] => m
  | m, a, b :: bs => putBytes (sset (w := 8) m a b) (a + 1) bs

/-- The record with a number, or the given record where the list has none. -/
def kget {α : Type} (d : α) : List (Nat × α) → Nat → α
  | [], _ => d
  | (j, v) :: r, k => if j = k then v else kget d r k

/-- The list with a record at a number, in rising order. -/
def kset {α : Type} (k : Nat) (v : α) : List (Nat × α) → List (Nat × α)
  | [] => [(k, v)]
  | (j, u) :: r => if j < k then (j, u) :: kset k v r else if j = k then (k, v) :: r else (k, v) :: (j, u) :: r

/-- The list without the record at a number. -/
def kdrop {α : Type} (k : Nat) (l : List (Nat × α)) : List (Nat × α) := l.filter fun e => e.1 != k

end Sys2Proof.Machine
end

