-- ==== Sys2Proof/Machine/Ops.lean ====
section
/-! DEFINITION. The operations that every meaning shares: registers, focus, how an instruction ends, completing with
the hardware-loop check, ordering steps, ending a context, taking a trap and returning from one. -/

namespace Sys2Proof.Machine

/-! ### Registers -/

/-- x[r]; x0 reads zero (R39). -/
def Thread.readX (t : Thread) (r : Reg) : DWord := if r = 0 then 0 else t.x[r.toNat]'r.isLt

/-- Write x[r]; a write to x0 is discarded (R39). -/
def Thread.writeX (t : Thread) (r : Reg) (v : DWord) : Thread :=
  if r = 0 then t else { t with x := t.x.set r.toNat v r.isLt }

/-- f[r], all 64 bits (R39). -/
def Thread.readF (t : Thread) (r : Reg) : DWord := t.f[r.toNat]'r.isLt

/-- Write f[r], all 64 bits (R39). -/
def Thread.writeF (t : Thread) (r : Reg) (v : DWord) : Thread := { t with f := t.f.set r.toNat v r.isLt }

/-- Condition bit r; c0 reads one (R39). -/
def Thread.readC (t : Thread) (r : CReg) : Bool := if r = 0 then true else t.c.getLsbD r.toNat

/-- A byte with one bit replaced. -/
def setBit8 (c : BitVec 8) (i : Nat) (b : Bool) : BitVec 8 :=
  if b then c ||| ((1 : BitVec 8) <<< i) else c &&& ~~~((1 : BitVec 8) <<< i)

/-- Write condition bit r; a write to c0 is discarded (R39). -/
def Thread.writeC (t : Thread) (r : CReg) (b : Bool) : Thread :=
  if r = 0 then t else { t with c := setBit8 t.c r.toNat b }

/-- Handle register r (R287). -/
def Thread.readH (t : Thread) (r : HReg) : Handle := t.h[r.toNat]'r.isLt

/-- Write handle register r. -/
def Thread.writeH (t : Thread) (r : HReg) (v : Handle) : Thread := { t with h := t.h.set r.toNat v r.isLt }

/-- The words of vector register r (R41). -/
def Thread.readV (t : Thread) (r : VReg) : Sparse 32 := t.v[r.toNat]'r.isLt

/-- Replace the words of vector register r. -/
def Thread.writeV (t : Thread) (r : VReg) (v : Sparse 32) : Thread := { t with v := t.v.set r.toNat v r.isLt }

/-- The grade tag of vector register r (R45). -/
def Thread.readTag (t : Thread) (r : VReg) : BitVec 11 := t.tags[r.toNat]'r.isLt

/-- Replace the grade tag of vector register r. -/
def Thread.writeTag (t : Thread) (r : VReg) (v : BitVec 11) : Thread :=
  { t with tags := t.tags.set r.toNat v r.isLt }

/-- The slot-th token of the table (R267). -/
def Thread.token (t : Thread) (k : Nat) : Token := if h : k < 64 then t.tokens[k] else {}

/-- Replace a token of the table. -/
def Thread.setToken (t : Thread) (k : Nat) (v : Token) : Thread :=
  if h : k < 64 then { t with tokens := t.tokens.set k v } else t

/-- A change of the thread in focus. -/
def State.onThread (f : Thread → Thread) (s : State) : State := { s with t := f s.t }

/-- OR flags into FFLAGS of the thread in focus (R63). -/
def State.orFlags (s : State) (fl : BitVec 6) : State := { s with t := { s.t with fflags := s.t.fflags ||| fl } }

/-- The lanes of the thread's partition: 24 per quarter (R40). -/
def Thread.lanes (t : Thread) : Nat := 24 * popCount t.quarters

/-! ### Focus -/

/-- The core of a thread slot (R2). -/
def coreOf (pos : Nat) : Nat := pos / 4
/-- The bay of a thread slot (R2). -/
def bayOf (pos : Nat) : Nat := pos / 32
/-- The die of a thread slot (R2). DESIGN CHOICE, unsafe: assumption 85 of the log. -/
def dieOf (pos : Nat) : Nat := pos / 512
/-- The slice of a thread slot: half a die (R4). -/
def sliceOf (pos : Nat) : Nat := pos / 256
/-- The thread slots of the package (R5). -/
def slotCount : Nat := 4608

/-- The thread in a slot. -/
def State.threadAt (s : State) (p : Nat) : Thread := if p = s.pos then s.t else kget {} s.threads p

/-- Replace the thread in a slot, with the context number it has. -/
def State.setThread (s : State) (p : Nat) (t : Thread) : State :=
  if p = s.pos then { s with t := t } else { s with threads := kset p t s.threads }

/-- A core of the package. -/
def State.coreAt (s : State) (k : Nat) : CoreState := if k = coreOf s.pos then s.core else kget {} s.cores k

/-- Replace a core of the package. -/
def State.setCore (s : State) (k : Nat) (c : CoreState) : State :=
  if k = coreOf s.pos then { s with core := c } else { s with cores := kset k c s.cores }

/-- A bay of the package. -/
def State.bayAt (s : State) (k : Nat) : BayState := if k = bayOf s.pos then s.bay else kget {} s.bays k

/-- Replace a bay of the package. -/
def State.setBay (s : State) (k : Nat) (b : BayState) : State :=
  if k = bayOf s.pos then { s with bay := b } else { s with bays := kset k b s.bays }

/-- A context of the package. -/
def State.ctxAt (s : State) (n : Nat) : Context := if n = s.t.ctx then s.ctx else kget {} s.ctxs n

/-- Replace a context of the package. -/
def State.setCtx (s : State) (n : Nat) (c : Context) : State :=
  if n = s.t.ctx then { s with ctx := c } else { s with ctxs := kset n c s.ctxs }

/-- Bring a thread slot into focus. -/
def State.focus (s : State) (p : Nat) : State :=
  if p = s.pos then s else
  let ts := kset s.pos s.t s.threads
  let cs := kset (coreOf s.pos) s.core s.cores
  let bs := kset (bayOf s.pos) s.bay s.bays
  let xs := kset s.t.ctx s.ctx s.ctxs
  let t := kget {} ts p
  { s with
    pos := p, t := t, core := kget {} cs (coreOf p), bay := kget {} bs (bayOf p), ctx := kget {} xs t.ctx,
    threads := kdrop p ts, cores := kdrop (coreOf p) cs, bays := kdrop (bayOf p) bs, ctxs := kdrop t.ctx xs }

/-- Place a thread of any context in a slot, keeping the context in focus that of the thread in focus. -/
def State.placeThread (s : State) (p : Nat) (t : Thread) : State :=
  if p = s.pos then
    let xs := kset s.t.ctx s.ctx s.ctxs
    { s with t := t, ctxs := kdrop t.ctx xs, ctx := kget {} xs t.ctx }
  else { s with threads := kset p t s.threads }

/-- A step of another slot's, after which the focus returns. -/
def State.during (s : State) (p : Nat) (f : State → State) : State := (f (s.focus p)).focus s.pos

/-- A change of every thread. -/
def State.mapThreads (s : State) (f : Nat → Thread → Thread) : State :=
  { s with t := f s.pos s.t, threads := s.threads.map fun e => (e.1, f e.1 e.2) }

/-- Every slot with its thread, that in focus first. -/
def State.allThreads (s : State) : List (Nat × Thread) :=
  (s.pos, s.t) :: s.threads.filter fun e => e.1 != s.pos

/-- Every context with its number, that in focus first. -/
def State.allCtxs (s : State) : List (Nat × Context) :=
  (s.t.ctx, s.ctx) :: s.ctxs.filter fun e => e.1 != s.t.ctx

/-- Every core with its number, that in focus first. -/
def State.allCores (s : State) : List (Nat × CoreState) :=
  (coreOf s.pos, s.core) :: s.cores.filter fun e => e.1 != coreOf s.pos

/-- A change of every core. -/
def State.mapCores (s : State) (f : Nat → CoreState → CoreState) : State :=
  { s with core := f (coreOf s.pos) s.core, cores := s.cores.map fun e => (e.1, f e.1 e.2) }

/-- A change of every bay. -/
def State.mapBays (s : State) (f : Nat → BayState → BayState) : State :=
  { s with bay := f (bayOf s.pos) s.bay, bays := s.bays.map fun e => (e.1, f e.1 e.2) }

/-! ### Ordering steps -/

/-- One step of the ordering machine: the next stamp (R264). How far it advances is free. DESIGN CHOICE, safe: assumption 5 of the log. -/
def State.order (s : State) : State :=
  { s with stamp := s.stamp + 1 + Config.stampGap s.tick, tick := s.tick + 1 }

/-- One step of the thread in focus: it carries the next stamp (R264, R265). -/
def State.orderThread (s : State) : State :=
  let s := s.order
  { s with t := { s.t with lastStamp := s.stamp } }

/-- One step of the vector side of the thread in focus (R240, R264). -/
def State.orderVector (s : State) : State :=
  let s := s.order
  { s with t := { s.t with lastVector := s.stamp } }

/-- The 64-bit value of a stamp. -/
def stampWord (n : Nat) : DWord := BitVec.ofNat 64 n

/-- The mixing function of R124. -/
def mix (a k : Word) : Word :=
  let y := a ^^^ k
  let y := y ^^^ (y >>> 15)
  let y := y * 0x2C1B3C6D
  let y := y ^^^ (y >>> 12)
  let y := y * 0x297A2D39
  y ^^^ (y >>> 15)

/-- The logical index of child c of a node (R428). -/
def taskKey (p : DWord) (c : Word) : DWord :=
  let lo := mix (p.setWidth 32 ^^^ c) ((p >>> 32).setWidth 32)
  let hi := mix ((p >>> 32).setWidth 32) (lo ^^^ 0x9E3779B9)
  (hi ++ lo).setWidth 64

/-- DIGEST with the byte b written at address a folded in (R432). DEDUCED, safe: assumption 17 of the log. -/
def foldDigest (d a : DWord) (b : Byte) : DWord :=
  let alo : Word := a.setWidth 32
  let ahi : Word := (a >>> 32).setWidth 32
  let b32 : Word := b.setWidth 32
  let lo : Word := d.setWidth 32 + mix alo (mix ahi b32)
  let hi : Word := (d >>> 32).setWidth 32 + mix ahi (mix alo (b32 + 256))
  (hi ++ lo).setWidth 64

/-- DIGEST with bytes written from an address folded in (R432). -/
def foldDigests : DWord → DWord → List Byte → DWord
  | d, _, [] => d
  | d, a, b :: bs => foldDigests (foldDigest d a b) (a + 1) bs

/-! ### Causes and reports -/

/-- The cause codes (R384). -/
abbrev Cause := BitVec 8

namespace cause
abbrev illegal : Cause := 1
abbrev privilege : Cause := 2
abbrev misalignedFetch : Cause := 3
abbrev misaligned : Cause := 4
abbrev translation : Cause := 5
abbrev permission : Cause := 6
abbrev integrity : Cause := 7
abbrev formatRegion : Cause := 8
abbrev grade : Cause := 9
abbrev tokenFull : Cause := 10
abbrev engine : Cause := 11
abbrev destination : Cause := 12
abbrev listFull : Cause := 13
abbrev amendment : Cause := 14
abbrev overflow : Cause := 15
abbrev pipeline : Cause := 16
abbrev barrier : Cause := 17
abbrev call : Cause := 18
abbrev break_ : Cause := 19
abbrev digest : Cause := 32
abbrev power : Cause := 33
abbrev gang : Cause := 34
abbrev double : Cause := 35
abbrev stopped : Cause := 36
end cause

/-- The context that a REPORT is about, where there is one. -/
def Report.ctx : Report → Option Nat
  | .finished n | .ended n _ _ _ _ | .queueFull n _ | .gangFailure n _ _ | .integrity n _ _ _ => some n
  | .refused _ _ | .ready _ _ _ _ | .telemetry _ | .thermalStop _ _ _ _ => none

/-- The class and the operation of a REPORT: management, or the FAIL of a gang (R403, R423). -/
def Report.kind : Report → BitVec 4 × BitVec 4
  | .gangFailure _ _ _ => (4, 4)
  | _ => (0, 6)

/-- The header of a REPORT (R402): its STAMP is that of its event (R408, R459). One that is about no context names context 0.
DESIGN CHOICE, unsafe: assumption 117 of the log. -/
def State.reportHeader (s : State) (r : Report) : DerporHeader :=
  { stamp := s.stamp, src := match r.ctx with | some n => BitVec.ofNat 16 (s.ctxAt n).pkgid | none => 0
    ctx := r.ctx.getD 0, queue := 0, reserved := 0, op := r.kind.2, cls := r.kind.1 }

/-- Send a REPORT (R402, R408). -/
def State.report (s : State) (r : Report) : State := { s with reports := s.reports ++ [(s.reportHeader r, r)] }

/-- The class and the operation of a message that the package sends (R403). -/
def Outgoing.kind : Outgoing → BitVec 4 × BitVec 4
  | .message _ _ _ => (1, 0)
  | .remoteRead _ _ _ _ => (2, 0)
  | .readResponse _ _ _ => (2, 1)
  | .remoteWrite _ _ _ _ => (3, 0)
  | .writeAck _ _ _ => (3, 1)
  | .gangAck => (4, 1)
  | .gangArrive _ => (4, 2)
  | .gangAbort => (4, 3)
  | .quote _ _ => (5, 1)
  | .commitAck _ _ => (6, 1)

/-- The header of a message that the package sends for a context (R402): its STAMP is the logical time of the send step. -/
def State.header (s : State) (ctx queue : Nat) (m : Outgoing) : DerporHeader :=
  { stamp := s.stamp, src := BitVec.ofNat 16 (s.ctxAt ctx).pkgid, ctx := ctx, queue := BitVec.ofNat 4 queue, reserved := 0
    op := m.kind.2, cls := m.kind.1 }

/-- A Derpor message leaves the package, to a queue where its class has one (R402). -/
def State.send (s : State) (ctx queue : Nat) (m : Outgoing) : State :=
  { s with out := s.out ++ [.derpor (s.header ctx queue m) m] }

/-- What a die runs since its last power-up (R445). -/
def State.bootOf (s : State) (die : Nat) : Boot := kget {} s.booted die

/-- The modes whose control-store image is loaded (R370, R445): those of die 0. DESIGN CHOICE, unsafe: assumption 77 of the log. -/
def State.loadedModes (s : State) : List Nat := (s.bootOf 0).control.map fun e => e.1

/-- The version of the firmware that runs (R440, R447). -/
def State.firmware (s : State) : Nat := match (s.bootOf 0).image with | some i => i.version | none => 0

/-- Count a dropped message (R403, R458). -/
def State.drop (s : State) : State := { s with telemetry := { s.telemetry with drops := s.telemetry.drops + 1 } }

/-! ### How an instruction ends -/

/-- Why an instruction does not complete: it meets a cause with its value, or it waits. -/
inductive Stop where
  | trap (cause : Cause) (val : DWord)
  | wait (w : WaitRec)
  deriving DecidableEq, Repr

/-- A computation that an instruction makes on the state: a result, or a stop with the state at it. -/
abbrev Run (α : Type) := Except (Stop × State) α

/-- Meet a cause. -/
def raise {α : Type} (s : State) (c : Cause) (v : DWord) : Run α := .error (.trap c v, s)

/-- The word waits, and starts again at its next turn. -/
def hold {α : Type} (s : State) : Run α := .error (.wait { kind := .hold }, s)

/-- The check of R94 on completing at address a with next address n: the loop count and where to go on. -/
def loopCheck (t : Thread) (n : DWord) : DWord × DWord :=
  if t.lcount ≠ 0 ∧ t.pc = t.lend ∧ n = t.pc + 4 then
    if t.lcount.toNat > 1 then (t.lcount - 1, t.lstart) else (0, n)
  else (t.lcount, n)

/-- The word at the program counter completes with next address n (R94). DEDUCED, unsafe: assumption 91 of the log. -/
def State.complete (s : State) (n : DWord) : State :=
  { s with t := { s.t with lcount := (loopCheck s.t n).1, pc := (loopCheck s.t n).2, wait := none } }

/-- The word at the program counter completes and execution goes on at the next word. -/
def State.advance (s : State) : State := s.complete (s.t.pc + 4)

/-! ### Copies and the range scoreboard (R258, R274, R275) -/

/-- The physical address of the scratchpad of a core for a context (R257). -/
def scratchBase (core ctx : Nat) : Nat := 2 ^ 62 + (ctx * 1152 + core) * 2 ^ 21

/-- Two operations stand in one engine's queue (R272, R273, R353). -/
def sameEngine (k : EngineKind) (home : Nat) (o : EngineOp) : Bool :=
  match k with
  | .copy => o.kind == .copy && coreOf o.home == coreOf home
  | .fold => o.kind == .fold && bayOf o.home == bayOf home
  | .blend => o.kind == .blend && bayOf o.home == bayOf home
  | .walk | .rcast => (o.kind == .walk || o.kind == .rcast) && bayOf o.home == bayOf home
  | _ => false

/-- A word of the command block. -/
def EngineOp.word (o : EngineOp) (k : Nat) : DWord := o.words.getD k 0

/-- LEN of a copy. -/
def EngineOp.len (o : EngineOp) : Nat := (o.word 2).toNat
/-- ROWS of a copy. -/
def EngineOp.rows (o : EngineOp) : Nat := field (o.word 3) 0 32
/-- PAT of a copy. -/
def EngineOp.pat (o : EngineOp) : Bool := (o.word 3).getLsbD 32
/-- The source address of row r. -/
def EngineOp.srcRow (o : EngineOp) (r : Nat) : Nat := (o.word 0 + BitVec.ofNat 64 r * o.word 4).toNat
/-- The destination address of row r. -/
def EngineOp.dstRow (o : EngineOp) (r : Nat) : Nat := (o.word 1 + BitVec.ofNat 64 r * o.word 5).toNat
/-- Nothing is to be copied (R275). -/
def EngineOp.empty (o : EngineOp) : Bool := o.len == 0 || o.rows == 0

/-- Where a row of a copy lies: in the scratchpad window, outside it, or across its edge. -/
def rowPlace (sp d n : Nat) : Nat :=
  if sp ≤ d ∧ d + n ≤ sp + 2 ^ 21 then 1 else if d + n ≤ sp ∨ sp + 2 ^ 21 ≤ d then 0 else 2

/-- Every row of a copy lies in the scratchpad window. -/
def EngineOp.toScratch (o : EngineOp) (sp : Nat) : Bool :=
  !o.empty && (List.range o.rows).all fun r => rowPlace sp (o.dstRow r) o.len == 1

/-- The engine refuses a copy (R275). DEDUCED, unsafe: assumption 47 of the log. -/
def EngineOp.badCopy (o : EngineOp) (sp : Nat) : Bool :=
  field (o.word 3) 33 31 != 0 || decide (2 ^ 28 < o.len * o.rows) ||
    (!o.empty && ((List.range o.rows).any (fun r => rowPlace sp (o.dstRow r) o.len == 2)
      || (o.toScratch sp && o.explicit)
      || ((List.range o.rows).any (fun r => rowPlace sp (o.dstRow r) o.len == 1) && !o.toScratch sp)))

/-- SPBASE of an operation's context. -/
def State.windowOf (s : State) (o : EngineOp) : Nat := (s.ctxAt o.ctx).spbase.toNat

/-- A valid copy into the scratchpad, which takes an entry of the scoreboard (R258). -/
def State.scratchCopy (s : State) (o : EngineOp) : Bool :=
  o.kind == .copy && o.toScratch (s.windowOf o) && !o.badCopy (s.windowOf o)

/-- The scoreboard entry of a copy: from the lowest to the highest byte of its destination (R258). DEDUCED, safe: assumption 15 of the log. -/
def State.scoreOf (s : State) (o : EngineOp) : ScoreEntry :=
  let ds := (List.range o.rows).map o.dstRow
  let lo := ds.foldl min (o.dstRow 0)
  let hi := ds.foldl max (o.dstRow 0) + o.len
  { op := o.id, base := scratchBase (coreOf o.home) o.ctx + (lo - s.windowOf o), size := hi - lo }

/-- The copy holds its entry. -/
def State.hasScore (s : State) (o : EngineOp) : Bool := (s.coreAt (coreOf o.home)).scoreboard.any fun e => e.op == o.id

/-- An earlier copy of the core waits for an entry (R258: in issue order). -/
def State.earlierScore (s : State) (o : EngineOp) : Bool :=
  s.ops.any fun p => decide (p.id < o.id) && sameEngine .copy o.home p && s.scratchCopy p && !s.hasScore p

/-- A scratchpad copy takes an entry of its core's scoreboard, where one is free (R258). -/
def State.takeScore (s : State) (o : EngineOp) : State :=
  let c := s.coreAt (coreOf o.home)
  if s.scratchCopy o && !s.hasScore o && decide (c.scoreboard.length < 16) && !s.earlierScore o then
    s.setCore (coreOf o.home) { c with scoreboard := c.scoreboard ++ [s.scoreOf o] }
  else s

/-- The copies of a core that wait take the entries of its scoreboard that are free, in issue order (R258). -/
def State.takeScores (s : State) (core : Nat) : State :=
  s.ops.foldl (fun s o => if o.kind == .copy && coreOf o.home == core then s.takeScore o else s) s

/-- Every waiting copy takes an entry where one is free (R258). -/
def State.allScores (s : State) : State := s.ops.foldl State.takeScore s

/-- The context holds a bay: it is resident, and some core of the bay has not been taken from it (R358, R394). -/
def Context.holdsBay (c : Context) (bay : Nat) : Bool :=
  c.resident && !(List.range 8).all fun k => c.away.contains (8 * bay + k)

/-! ### Ending a thread and a context -/

/-- An idle slot; it keeps the number of the context it last served. -/
def idleThread (t : Thread) : Thread := { ({} : Thread) with ctx := t.ctx }

/-- The tile unit without a slot: its owner if it owns it, and its place among the waiters (R193, R393). -/
def CoreState.releaseTile (c : CoreState) (slot : Nat) : CoreState :=
  let c := { c with tileWaiters := c.tileWaiters.filter fun w => w != slot }
  if c.tileOwner = some slot then { c with tileOwner := none, z := Vector.replicate 4 [] } else c

/-- Every thread of a context leaves its slot, with what its core holds for it; cached translations and fetched copies of the
context (R377), and segments kept for its threads that are switched out, go as well. -/
def State.clearThreads (s : State) (n : Nat) : State :=
  let gone := (s.allThreads.filter fun e => e.2.live && e.2.ctx == n).map fun e => e.1
  let s := s.mapThreads fun _ t => if t.live && t.ctx == n then idleThread t else t
  let ops := (s.ops.filter fun o => o.ctx == n).map fun o => o.id
  let s := s.mapCores fun k c =>
    let c := gone.foldl (fun c p => if coreOf p = k then c.releaseTile (p % 4) else c) c
    { c with
      scoreboard := c.scoreboard.filter fun e => !ops.contains e.op
      tlb := c.tlb.filter fun e => e.ctx != n
      icache := c.icache.filter fun e => e.ctx != n }
  let s := s.mapBays fun _ b => { b with tlb := b.tlb.filter fun e => e.ctx != n }
  { s with parks := s.parks.filter (fun k => k.ctx != n), walks := s.walks.filter (fun w => w.ctx != n), segs := s.segs.filter fun e => !gone.contains e.1 && e.1 / slotCount != n + 1 }

/-- End a context with a cause (R390): its threads stop, its operations discard their shadows, its queues and
pipelines are discarded, and the regulator reports. Under `stopped` its definition goes as well (R405, R457).
DEDUCED, unsafe: assumption 12 of the log. -/
def State.endContext (s : State) (n : Nat) (c : Cause) (pc val time : DWord) : State :=
  let s := s.clearThreads n
  let x := s.ctxAt n
  let x := { x with
    ended := true, resident := false, queues := [], images := [], away := [], adds := [], nodes := [], gang := none,
    defined := x.defined && c != cause.stopped }
  let s := s.setCtx n x
  let s := { s with
    ops := s.ops.filter (fun o => o.ctx != n), pipes := s.pipes.filter (fun p => p.ctx != n),
    net := s.net.filter (fun m => m.ctx != n)
    units := s.units.map fun (u : Nat × FrameUnit) => (u.1, if u.2.ctx = some n then {} else u.2) }
  s.allScores.report (.ended n c pc val time)

/-! ### Taking a trap and returning from one -/

/-- What a trap records: cause, value, trap point, where the scalar stream resumes, whether the trap point is a queue
entry, the faulting lane and its word's address, and whether a fault group was written (R382, R385). -/
structure TrapInfo where
  cause : Cause
  val : DWord
  pc : DWord
  spc : DWord
  vside : Bool
  lane : Option (Nat × DWord)
  group : Bool
  deriving DecidableEq, Repr

/-- TRAPSTAT.INTRAP (R382). -/
def Thread.inTrap (t : Thread) : Bool := t.trapstat.getLsbD 1

/-- The logical time that a thread reads: at or after its last step and not after the next (R265). How far is free.
DESIGN CHOICE, safe: assumption 6 of the log. -/
def State.timeOf (s : State) (t : Thread) : DWord :=
  stampWord (t.lastStamp + Config.timeSlack s.tick % (s.stamp + 2 - t.lastStamp))

/-- TRAPTIME (R385): at or after every step the thread has performed. How far is free. -/
def State.trapTime (s : State) (t : Thread) : DWord :=
  let m := max t.lastStamp t.lastVector
  stampWord (m + Config.timeSlack s.tick % (s.stamp + 2 - m))

/-- TRAPCAUSE (R382). -/
def TrapInfo.causeWord (i : TrapInfo) : DWord :=
  i.cause.setWidth 64 ||| (if i.vside then 0x100 else 0) ||| (if i.lane.isSome then 0x200 else 0)
    ||| (if i.group then 0x400 else 0)

/-- TRAPLANE (R382). -/
def TrapInfo.laneWord (i : TrapInfo) : DWord :=
  match i.lane with
  | none => 0
  | some (n, a) => (a <<< 16) ||| BitVec.ofNat 64 (n % 2 ^ 14)

/-- The slot is no longer parked, and its PARK starts again with its woken mark as given (R261). -/
def State.unpark (s : State) (woken : Bool) : State :=
  { s with t := { s.t with woken := woken }, parks := s.parks.filter fun k => k.pos != s.pos }

/-- The woken mark that the image of a thread keeps: a WAKE has selected it (R263). -/
def State.wokenMark (s : State) : Bool := s.t.woken || s.parks.any fun k => k.pos == s.pos && k.woken

/-- Trap entry (R385): double-trap inside a handler, the context's end where no handler is enabled, and otherwise the
saved registers, level 1 and the handler's address. The vector queue keeps its entries. -/
def State.takeTrap (s : State) (i : TrapInfo) : State :=
  if s.t.inTrap then s.endContext s.t.ctx cause.double i.pc (i.cause.setWidth 64) (s.trapTime s.t)
  else if !s.ctx.trapvec.getLsbD 0 then s.endContext s.t.ctx i.cause i.pc i.val (s.trapTime s.t)
  else
    let s := s.unpark false
    { s with
      tick := s.tick + 1
      t := { s.t with
        trapcause := i.causeWord, trapval := i.val, trappc := i.pc, trapspc := i.spc, traplane := i.laneWord,
        traptime := s.trapTime s.t, trapstat := (if s.t.level then 1 else 0) ||| 2, level := true, wait := none,
        pc := s.ctx.trapvec &&& 0xFFFFFFFFFFFC } }

/-- The trap of a scalar word at its own address; SCALL and SBRK resume behind it (R385). -/
def scalarTrap (s : State) (c : Cause) (v : DWord) : TrapInfo :=
  { cause := c, val := v, pc := s.t.pc,
    spc := if c = cause.call ∨ c = cause.break_ then s.t.pc + 4 else s.t.pc,
    vside := false, lane := none, group := false }

/-- How a scalar word ends: completed, with its trap taken, or waiting. -/
def finish (r : Run State) : Host.Outcome State Fault Refusal :=
  match r with
  | .ok s => .next s
  | .error (.trap c v, s) => .next (s.takeTrap (scalarTrap s c v))
  | .error (.wait w, s) => .next { s with t := { s.t with wait := some w } }

/-- Return from a trap (R391) to the state before the held entries resume: level, TRAPSTAT and the program counter; SRET completes
with TRAPSPC as its next address (R94). -/
def State.leaveTrap (s : State) : State :=
  let n := loopCheck s.t s.t.trapspc
  { s with t := { s.t with
      level := s.t.trapstat.getLsbD 0, trapstat := s.t.trapstat &&& 1, lcount := n.1, pc := n.2, wait := none } }

end Sys2Proof.Machine
end

