-- ==== Sys2Proof/Machine/Flags.lean ====
section
/-! DEFINITION. Numbers, rounding and flags (R56 to R68): exact values as rationals, round_once, fused sums, the sign of
zero, conversions, comparisons, minimum and maximum, classes. Every flag computation of a floating-point word is here. -/

namespace Sys2Proof.Machine

/-! ### Flags (R46): GV, NV, DZ, OF, UF, NX -/

/-- The numeric flags. -/
abbrev Flags := BitVec 6
/-- GV. -/
abbrev flagGV : Flags := 0x20
/-- NV. -/
abbrev flagNV : Flags := 0x10
/-- DZ. -/
abbrev flagDZ : Flags := 0x08
/-- OF and NX. -/
abbrev flagOF : Flags := 0x05
/-- UF and NX. -/
abbrev flagUF : Flags := 0x03
/-- NX. -/
abbrev flagNX : Flags := 0x01

/-! ### Formats and values (R57) -/

/-- A binary format: exponent bits and fraction bits. -/
structure Fmt where
  eb : Nat
  mb : Nat
  deriving DecidableEq, Repr

/-- FP64. -/
def f64 : Fmt := ⟨11, 52⟩
/-- FP32. -/
def f32 : Fmt := ⟨8, 23⟩
/-- FP16. -/
def f16 : Fmt := ⟨5, 10⟩
/-- BF16. -/
def bf16 : Fmt := ⟨8, 7⟩

/-- The exponent bias. -/
def Fmt.bias (f : Fmt) : Nat := 2 ^ (f.eb - 1) - 1
/-- The width in bits. -/
def Fmt.width (f : Fmt) : Nat := 1 + f.eb + f.mb
/-- The exponent field of infinities and NaNs. -/
def Fmt.emax (f : Fmt) : Nat := 2 ^ f.eb - 1

/-- The exact value of a floating-point operand. -/
inductive FVal where
  | nan (signalling : Bool)
  | inf (neg : Bool)
  | num (neg : Bool) (q : Rat)
  deriving DecidableEq, Repr

/-- 2^e for an integer exponent. -/
def pow2 (e : Int) : Rat := if e ≥ 0 then ((2 ^ e.toNat : Nat) : Rat) else 1 / ((2 ^ (-e).toNat : Nat) : Rat)

/-- The value of a bit pattern (R57). -/
def Fmt.value (f : Fmt) (b : Nat) : FVal :=
  let neg := bits b (f.eb + f.mb) 1 == 1
  let e := bits b f.mb f.eb
  let m := bits b 0 f.mb
  if e = f.emax then (if m = 0 then .inf neg else .nan (bits m (f.mb - 1) 1 == 0))
  else
    let q : Rat := if e = 0 then m * pow2 (1 - f.bias - f.mb) else (2 ^ f.mb + m : Nat) * pow2 ((e : Int) - f.bias - f.mb)
    .num neg (if neg then -q else q)

/-- Reading an input under a flush setting: with 0b10 a subnormal is a zero of its own sign (R60). -/
def Fmt.read (f : Fmt) (fl : BitVec 2) (b : Nat) : FVal :=
  match f.value b with
  | .num neg q => if fl = 2 ∧ bits b f.mb f.eb = 0 then .num neg 0 else .num neg q
  | v => v

/-- The canonical NaN (R57, R61). -/
def Fmt.nan (f : Fmt) : Nat := f.emax * 2 ^ f.mb + 2 ^ (f.mb - 1)
/-- An infinity. -/
def Fmt.inf (f : Fmt) (neg : Bool) : Nat := (if neg then 2 ^ (f.eb + f.mb) else 0) + f.emax * 2 ^ f.mb
/-- A zero. -/
def Fmt.zero (f : Fmt) (neg : Bool) : Nat := if neg then 2 ^ (f.eb + f.mb) else 0
/-- The largest finite magnitude. -/
def Fmt.maxFinite (f : Fmt) (neg : Bool) : Nat := (if neg then 2 ^ (f.eb + f.mb) else 0) + f.emax * 2 ^ f.mb - 1

/-! ### Rounding (R58, R59) -/

/-- A non-negative rational rounded to an integer by a mode, for a value of the given sign. -/
def roundNat (rm : BitVec 3) (neg : Bool) (q : Rat) : Nat :=
  let n := q.num.toNat / q.den
  let r := q - (n : Rat)
  let up :=
    if r = 0 then false
    else match rm.toNat with
      | 0 => decide (r > 1 / 2) || (decide (r = 1 / 2) && n % 2 == 1)
      | 1 => false
      | 2 => neg
      | 3 => !neg
      | _ => decide (r ≥ 1 / 2)
  if up then n + 1 else n

/-- The exponent of a positive rational: the e with 2^e ≤ q < 2^(e+1). -/
def ilog2 (q : Rat) : Int :=
  let e : Int := (Nat.log2 q.num.toNat : Int) - Nat.log2 q.den
  if pow2 e ≤ q then e else e - 1

/-- overflow_result (R59). -/
def Fmt.overflow (f : Fmt) (rm : BitVec 3) (neg : Bool) : Nat :=
  match rm.toNat with
  | 1 => f.maxFinite neg
  | 2 => if neg then f.inf true else f.maxFinite false
  | 3 => if neg then f.maxFinite true else f.inf false
  | _ => f.inf neg

/-- The bit pattern of a magnitude m·2^g on the format's grid. -/
def Fmt.pack (f : Fmt) (neg : Bool) (m : Nat) (g : Int) : Nat :=
  let s := if neg then 2 ^ (f.eb + f.mb) else 0
  if m < 2 ^ f.mb then s + m
  else
    let (m, g) := if m ≥ 2 ^ (f.mb + 1) then (m / 2, g + 1) else (m, g)
    s + (g + f.mb + f.bias).toNat * 2 ^ f.mb + (m - 2 ^ f.mb)

/-- round_once of a non-zero exact value (R59). -/
def Fmt.roundNum (f : Fmt) (rm : BitVec 3) (fl : BitVec 2) (v : Rat) : Nat × Flags :=
  let neg := decide (v < 0)
  let a := if v < 0 then -v else v
  let g := ilog2 a - f.mb
  let m := roundNat rm neg (a * pow2 (-g))
  let r := (m : Rat) * pow2 g
  let gmin : Int := 1 - f.bias - f.mb
  if r ≥ pow2 ((f.emax : Int) - f.bias) then (f.overflow rm neg, flagOF)
  else if r < pow2 (1 - f.bias) then
    if fl ≠ 0 then (f.zero neg, flagUF)
    else
      let m := roundNat rm neg (a * pow2 (-gmin))
      (f.pack neg m gmin, if (m : Rat) * pow2 gmin = a then 0 else flagUF)
  else (f.pack neg m g, if r = a then 0 else flagNX)

/-- round_once (R59), with the sign of an exact zero. -/
def Fmt.round (f : Fmt) (rm : BitVec 3) (fl : BitVec 2) (zs : Bool) (v : FVal) : Nat × Flags :=
  match v with
  | .nan _ => (f.nan, 0)
  | .inf neg => (f.inf neg, 0)
  | .num _ q => if q = 0 then (f.zero zs, 0) else f.roundNum rm fl q

/-- The sign of a value (of a zero, its own). -/
def FVal.neg : FVal → Bool
  | .nan _ => false
  | .inf n => n
  | .num n _ => n

/-- A value with its sign changed. -/
def FVal.negate : FVal → FVal
  | .nan s => .nan s
  | .inf n => .inf (!n)
  | .num n q => .num (!n) (-q)

/-- NV for a signalling NaN (R62). -/
def FVal.nv : FVal → Flags
  | .nan true => flagNV
  | _ => 0

/-- A value is a NaN. -/
def FVal.isNan : FVal → Bool
  | .nan _ => true
  | _ => false

/-- A value is +∞ or −∞ of a sign. -/
def FVal.isInf (neg : Bool) : FVal → Bool
  | .inf n => n == neg
  | _ => false

/-- The number of a finite value; zero otherwise. -/
def FVal.rat : FVal → Rat
  | .num _ q => q
  | _ => 0

/-- An exact product as one term (R61, R62, R64). -/
def FVal.mul (a b : FVal) : FVal × Flags :=
  let nv := a.nv ||| b.nv
  match a, b with
  | .nan _, _ => (.nan false, nv)
  | _, .nan _ => (.nan false, nv)
  | .inf m, .inf n => (.inf (m != n), nv)
  | .inf m, .num n q => if q = 0 then (.nan false, nv ||| flagNV) else (.inf (m != n), nv)
  | .num m q, .inf n => if q = 0 then (.nan false, nv ||| flagNV) else (.inf (m != n), nv)
  | .num m p, .num n q => (.num (m != n) (p * q), nv)

/-- zero_sign (R64): every term a negative zero, or RDN. -/
def zeroSign (rm : BitVec 3) (terms : List FVal) : Bool := rm == 2 || terms.all fun t => t.neg && t.rat == 0

/-- The exact value of a sum of terms with the flags that forming it raises (R61, R62, R65). A sum that holds a quiet NaN and
infinities of both signs raises no NV, which R62 leaves open. DEDUCED, unsafe: assumption 106 of the log. -/
def exactSum (terms : List FVal) : FVal × Flags :=
  let nv := terms.foldl (fun f t => f ||| t.nv) 0
  if terms.any FVal.isNan then (.nan false, nv)
  else if terms.any (FVal.isInf true) && terms.any (FVal.isInf false) then (.nan false, nv ||| flagNV)
  else if terms.any (FVal.isInf true) then (.inf true, nv)
  else if terms.any (FVal.isInf false) then (.inf false, nv)
  else (.num false (terms.foldl (fun q t => q + t.rat) 0), nv)

/-- A fused sum rounded once (R65), where forming the terms raised `pre`. -/
def Fmt.sum (f : Fmt) (rm : BitVec 3) (fl : BitVec 2) (pre : Flags) (terms : List FVal) : Nat × Flags :=
  let (v, nv) := exactSum terms
  let (r, fx) := f.round rm fl (zeroSign rm terms) v
  (r, pre ||| nv ||| fx)

/-- a × b rounded once; the sign of an exact zero is the XOR of the signs (R64). -/
def Fmt.mul (f : Fmt) (rm : BitVec 3) (fl : BitVec 2) (a b : FVal) : Nat × Flags :=
  let (v, nv) := a.mul b
  let (r, fx) := f.round rm fl (a.neg != b.neg) v
  (r, nv ||| fx)

/-- a × b + c as one fused sum (R65). -/
def Fmt.fma (f : Fmt) (rm : BitVec 3) (fl : BitVec 2) (a b c : FVal) : Nat × Flags :=
  let (p, nv) := a.mul b
  f.sum rm fl nv [p, c]

/-- a / b rounded once (R62). An infinity over zero raises no DZ. DEDUCED, unsafe: assumption 118 of the log. -/
def Fmt.div (f : Fmt) (rm : BitVec 3) (fl : BitVec 2) (a b : FVal) : Nat × Flags :=
  let nv := a.nv ||| b.nv
  match a, b with
  | .nan _, _ => (f.nan, nv)
  | _, .nan _ => (f.nan, nv)
  | .inf _, .inf _ => (f.nan, flagNV)
  | .inf m, .num n _ => (f.inf (m != n), 0)
  | .num m _, .inf n => (f.zero (m != n), 0)
  | .num m p, .num n q =>
    if q = 0 then (if p = 0 then (f.nan, flagNV) else (f.inf (m != n), flagDZ))
    else if p = 0 then (f.zero (m != n), 0)
    else f.roundNum rm fl (p / q)

/-- The integer square root, bit by bit from 2^b down. -/
def isqrtFrom (n : Nat) : Nat → Nat → Nat
  | 0, r => r
  | b + 1, r => isqrtFrom n b (if (r + 2 ^ b) * (r + 2 ^ b) ≤ n then r + 2 ^ b else r)

/-- The integer square root. -/
def isqrt (n : Nat) : Nat := isqrtFrom n (Nat.log2 n / 2 + 1) 0

/-- A rational that every rounding treats as the square root of q: the root itself, or the middle of the step of
2^(−k) that holds it (R58, R98). -/
def sqrtNear (q : Rat) : Rat :=
  let k := 80 + Nat.log2 q.den
  let n := q.num.toNat * 4 ^ k / q.den
  let r := isqrt n
  if r * r = n ∧ q.num.toNat * 4 ^ k % q.den = 0 then (r : Rat) / (2 ^ k : Nat)
  else (2 * r + 1 : Nat) / (2 ^ (k + 1) : Nat)

/-- √a rounded once; √(−0) = −0 (R62, R98). -/
def Fmt.sqrt (f : Fmt) (rm : BitVec 3) (fl : BitVec 2) (a : FVal) : Nat × Flags :=
  match a with
  | .nan s => (f.nan, (FVal.nan s).nv)
  | .inf neg => if neg then (f.nan, flagNV) else (f.inf false, 0)
  | .num neg q =>
    if q = 0 then (f.zero neg, 0)
    else if q < 0 then (f.nan, flagNV)
    else f.roundNum rm fl (sqrtNear q)

/-! ### Comparison, minimum, maximum, class, sign (R98, R99, R101) -/

/-- a < b for values that are no NaN, with −0 = +0. -/
def FVal.lt (a b : FVal) : Bool :=
  match a, b with
  | .inf true, .inf true => false
  | .inf true, _ => true
  | .inf false, _ => false
  | .num _ _, .inf n => !n
  | .num _ p, .num _ q => decide (p < q)
  | _, _ => false

/-- a = b for values that are no NaN, with −0 = +0. -/
def FVal.eq (a b : FVal) : Bool :=
  match a, b with
  | .inf m, .inf n => m == n
  | .num _ p, .num _ q => decide (p = q)
  | _, _ => false

/-- The truth of FCEQ (0), FCLT (1) or FCLE (2), and NV (R101). -/
def fpCompare (k : Nat) (a b : FVal) : Bool × Flags :=
  if a.isNan || b.isNan then (false, if k = 0 then a.nv ||| b.nv else flagNV)
  else (match k with
    | 0 => a.eq b
    | 1 => a.lt b
    | _ => a.lt b || a.eq b, 0)

/-- FMIN (false) or FMAX (true) of two bit patterns that read as a and b: −0 below +0, one NaN gives the other operand (R98). -/
def Fmt.minMax (f : Fmt) (max : Bool) (pa pb : Nat) (a b : FVal) : Nat × Flags :=
  let nv := a.nv ||| b.nv
  if a.isNan && b.isNan then (f.nan, nv)
  else if a.isNan then (pb, nv)
  else if b.isNan then (pa, nv)
  else
    let less := a.lt b || (a.eq b && a.neg && !b.neg)
    (if less != max then pa else pb, nv)

/-- The sign bit of a pattern. -/
def Fmt.signOf (f : Fmt) (b : Nat) : Bool := bits b (f.eb + f.mb) 1 == 1

/-- A pattern with its sign replaced (R99). -/
def Fmt.withSign (f : Fmt) (b : Nat) (neg : Bool) : Nat := b % 2 ^ (f.eb + f.mb) + f.zero neg

/-- The class mask of a pattern (R99). -/
def Fmt.classMask (f : Fmt) (b : Nat) : Nat :=
  let neg := f.signOf b
  let sub := bits b f.mb f.eb == 0
  match f.value b with
  | .inf true => 1
  | .inf false => 128
  | .nan true => 256
  | .nan false => 512
  | .num _ q =>
    if q = 0 then (if neg then 8 else 16)
    else if sub then (if neg then 4 else 32)
    else if neg then 2 else 64

/-! ### Conversions (R67, R68) -/

/-- The exact value of a finite number rounded to an integer by a mode. -/
def roundInt (rm : BitVec 3) (q : Rat) : Int :=
  if q < 0 then -(roundNat rm true (-q) : Int) else roundNat rm false q

/-- FP to an integer of a width, saturating (R67): the value's low bits and the flags. -/
def toInteger (rm : BitVec 3) (signed : Bool) (w : Nat) (v : FVal) : Int × Flags :=
  let hi : Int := if signed then 2 ^ (w - 1) - 1 else 2 ^ w - 1
  let lo : Int := if signed then -(2 ^ (w - 1)) else 0
  match v with
  | .nan _ => (hi, flagNV)
  | .inf neg => (if neg then lo else hi, flagNV)
  | .num _ q =>
    let r := roundInt rm q
    if r > hi then (hi, flagNV) else if r < lo then (lo, flagNV)
    else (r, if (r : Rat) = q then 0 else flagNX)

/-- An integer to FP: its exact value rounded once, an exact zero +0 (R68). -/
def Fmt.ofInteger (f : Fmt) (rm : BitVec 3) (fl : BitVec 2) (n : Int) : Nat × Flags :=
  f.round rm fl false (.num false n)

/-- Into an IEEE format by round_once, zeros keeping their sign, NaNs canonical (R59, R68). -/
def Fmt.convert (f : Fmt) (rm : BitVec 3) (fl : BitVec 2) (v : FVal) : Nat × Flags :=
  let (r, fx) := f.round rm fl v.neg v
  (r, v.nv ||| fx)

/-- Every value of g is a value of f. -/
def Fmt.widens (g f : Fmt) : Bool := decide (g.eb ≤ f.eb) && decide (g.mb ≤ f.mb)

/-- From one IEEE format into another (R68): a widening conversion is exact, so that no flush setting touches its result; any
other is round_once. -/
def Fmt.convertTo (g f : Fmt) (rm : BitVec 3) (fl : BitVec 2) (v : FVal) : Nat × Flags :=
  f.convert rm (if g.widens f then 0 else fl) v

end Sys2Proof.Machine

namespace Sys2Proof

/-- The format that a scalar format field names (R23, R97). -/
def FFmt.fmt : FFmt → Machine.Fmt
  | .s => Machine.f32
  | .d => Machine.f64
  | .h => Machine.f16
  | .b => Machine.bf16

end Sys2Proof
end

