-- ==== Sys2Proof/Machine/Elementary.lean ====
section
/-! DEFINITION. Real functions to any precision, for the words whose result is round_once of an exact real value (R183 to
R186, R362): intervals of rationals with a guaranteed error, and the rounding that repeats with more precision until both
ends round alike. -/

namespace Sys2Proof.Machine

/-- An interval of rationals that holds a real value. -/
structure Ival where
  lo : Rat
  hi : Rat
  deriving DecidableEq, Repr

/-- The interval of one rational. -/
def Ival.point (q : Rat) : Ival := ⟨q, q⟩

/-- The sum of two intervals. -/
def Ival.add (a b : Ival) : Ival := ⟨a.lo + b.lo, a.hi + b.hi⟩

/-- An interval scaled by a rational. -/
def Ival.scale (q : Rat) (a : Ival) : Ival := if 0 ≤ q then ⟨q * a.lo, q * a.hi⟩ else ⟨q * a.hi, q * a.lo⟩

/-- The product of two intervals. -/
def Ival.mul (a b : Ival) : Ival :=
  let l := [a.lo * b.lo, a.lo * b.hi, a.hi * b.lo, a.hi * b.hi]
  ⟨l.foldl min (a.lo * b.lo), l.foldl max (a.lo * b.lo)⟩

/-- An interval with its ends moved outward to multiples of 2⁻ᵖ. -/
def Ival.coarse (p : Nat) (a : Ival) : Ival :=
  ⟨((a.lo * pow2 p).floor : Rat) * pow2 (-p), ((a.hi * pow2 p).ceil : Rat) * pow2 (-p)⟩

/-- A fixed-point number with an error of at most 2³² units. -/
def Ival.around (p : Nat) (n : Int) : Ival := ⟨((n - 2 ^ 32 : Int) : Rat) * pow2 (-p), ((n + 2 ^ 32 : Int) : Rat) * pow2 (-p)⟩

/-- A fixed-point product. -/
def fxMul (p : Nat) (a b : Int) : Int := a * b / 2 ^ p

/-- Σ t_k with t_0 given and t_(k+1) = −t_k · x / d(k), in fixed point. -/
def fxSeries (p : Nat) (x : Int) (d : Nat → Int) : Nat → Nat → Int → Int → Int
  | 0, _, _, acc => acc
  | n + 1, k, t, acc =>
    let t' := -(fxMul p t x) / d k
    fxSeries p x d n (k + 1) t' (acc + t')

/-- cos √l and (sin √l)/√l for 0 ≤ l ≤ 1 in fixed point, by their series in l. -/
def fxSmall (p : Nat) (x : Int) : Int × Int :=
  let n := p / 4 + 8
  (fxSeries p x (fun k => ((2 * k + 1) * (2 * k + 2) : Nat)) n 0 (2 ^ p) (2 ^ p),
    fxSeries p x (fun k => ((2 * k + 2) * (2 * k + 3) : Nat)) n 0 (2 ^ p) (2 ^ p))

/-- The pair for 4ⁿ · l from that for l: cos 2u = 2 cos²u − 1, sin 2u / 2u = (sin u / u) cos u. -/
def fxDouble (p : Nat) : Nat → Int × Int → Int × Int
  | 0, r => r
  | n + 1, r => fxDouble p n (2 * fxMul p r.1 r.1 - 2 ^ p, fxMul p r.2 r.1)

/-- The halvings that bring l to at most 1. -/
def quarterings (l : Rat) : Nat := if l ≤ 1 then 0 else ((ilog2 l + 2) / 2).toNat

/-- cos √l and (sin √l)/√l at a rational l ≥ 0, to p bits (R183). -/
def cosSinc (p : Nat) (l : Rat) : Ival × Ival :=
  let k := quarterings l
  let q := p + 4 * k + 64
  let r := fxDouble q k (fxSmall q ((l * pow2 ((q : Int) - 2 * k)).floor))
  (⟨((r.1 : Rat) - pow2 ((q : Int) - p)) * pow2 (-q), ((r.1 : Rat) + pow2 ((q : Int) - p)) * pow2 (-q)⟩,
    ⟨((r.2 : Rat) - pow2 ((q : Int) - p)) * pow2 (-q), ((r.2 : Rat) + pow2 ((q : Int) - p)) * pow2 (-q)⟩)

/-- (cos √l − (sin √l)/√l)/l at a rational l ≥ 0, to p bits: by its series where l is small (R183). -/
def cosSincSlope (p : Nat) (l : Rat) : Ival :=
  if l < 1 / 16 then
    let q := p + 64
    -- Σ (−1)^(k+1) l^k (2k+2)/(2k+3)!; the term ratio is −l · (2k+4)/((2k+2)(2k+4)(2k+5)) = −l/((2k+2)(2k+5))
    let x := (l * pow2 q).floor
    let t0 := -(2 ^ q / 3 : Int)
    Ival.around q (fxSeries q x (fun k => ((2 * k + 2) * (2 * k + 5) : Nat)) (q / 4 + 8) 0 t0 t0)
  else
    let r := cosSinc (p + 8) l
    (r.1.add (r.2.scale (-1))).scale (1 / l)

/-- Σ t_k with t_0 = 1 and t_(k+1) = t_k · z · 2(k+1)/(2k+3), in fixed point. -/
def fxArcsin (p : Nat) (z : Int) : Nat → Nat → Int → Int → Int
  | 0, _, _, acc => acc
  | n + 1, k, t, acc =>
    let t' := fxMul p t z * (2 * (k + 1) : Nat) / (2 * k + 3 : Nat)
    fxArcsin p z n (k + 1) t' (acc + t')

/-- cos(θ/2) from cos θ, in fixed point, n times, with the product of the results. -/
def fxHalve (p : Nat) : Nat → Int → Int → Int × Int
  | 0, c, m => (c, m)
  | n + 1, c, m =>
    let c' : Int := isqrt ((2 ^ p + c) * 2 ^ (p - 1)).toNat
    fxHalve p n c' (fxMul p m c')

/-- acos(q)/√(1 − q²) at a rational −1 < q < 1, to p bits (R184): six half angles, and the series of arcsin. -/
def acosRatio (p : Nat) (q : Rat) : Ival :=
  let w := p + 96
  let c0 := (q * pow2 w).floor
  let r := fxHalve w 6 c0 (2 ^ w)
  let z := 2 ^ w - fxMul w r.1 r.1
  let b := fxArcsin w z (w / 7 + 8) 0 (2 ^ w) (2 ^ w)
  let v := b * r.1 / r.2
  ⟨((v : Rat) - pow2 ((w : Int) - p)) * pow2 (-w), ((v : Rat) + pow2 ((w : Int) - p)) * pow2 (-w)⟩

/-- The nearest multiple of half a unit in the last place of a format, for a value that lies within any error of it; below the
least normal number half a unit of the precision that tininess is decided with (R59). -/
def Fmt.snap (f : Fmt) (q : Rat) : Rat :=
  if q = 0 then 0
  else
    let g := max (ilog2 (if q < 0 then -q else q) - f.mb - 1) (1 - f.bias - f.mb - 2)
    ((q * pow2 (-g) + 1 / 2).floor : Rat) * pow2 g

/-- An interval rounded, if both of its ends round alike and it holds no multiple of half a unit in the last place, which the
value might be exactly (R59). -/
def Fmt.roundIval (f : Fmt) (rm : BitVec 3) (fl : BitVec 2) (a : Ival) : Option (Nat × Flags) :=
  let x := f.snap ((a.lo + a.hi) / 2)
  if a.lo = a.hi then some (f.round rm fl (rm == 2) (.num false a.lo))
  else if (a.lo ≤ 0 ∧ 0 ≤ a.hi) ∨ (a.lo ≤ x ∧ x ≤ a.hi) then none
  else
    let l := f.roundNum rm fl a.lo
    let h := f.roundNum rm fl a.hi
    if l = h then some l else none

/-- round_once of a real value given to any precision (R59, R186). Past the last precision the value is taken to be the
multiple of half a unit in the last place that it lies next to. DEDUCED, unsafe: assumption 10 of the log. -/
def Fmt.roundReal (f : Fmt) (rm : BitVec 3) (fl : BitVec 2) (v : Nat → Ival) : List Nat → Nat × Flags
  | [] =>
    let a := v 2600
    f.round rm fl (rm == 2) (.num false (f.snap ((a.lo + a.hi) / 2)))
  | p :: ps =>
    match f.roundIval rm fl (v p) with
    | some r => r
    | none => Fmt.roundReal f rm fl v ps

/-- The precisions that are tried. -/
def precisions : List Nat := [160, 640, 2560]

end Sys2Proof.Machine
end

