-- ==== Sys2Proof/Machine/Formats.lean ====
section
/-! DEFINITION. Block formats B8, B6 and B4 (R69 to R75): scales, codes, decode_block and encode_block. -/

namespace Sys2Proof.Machine

/-- A block format: bits of an element, of its exponent and of its fraction, and the value bias (R71). -/
structure BFmt where
  width : Nat
  eb : Nat
  mb : Nat
  bias : Nat
  deriving DecidableEq, Repr

/-- B8 (R71). -/
def b8 : BFmt := ⟨8, 3, 3, 3⟩
/-- B6 (R71). -/
def b6 : BFmt := ⟨6, 2, 2, 1⟩
/-- B4 (R71). -/
def b4 : BFmt := ⟨4, 1, 1, 1⟩

/-- The bytes of a block of 48 elements in memory (R74). -/
def BFmt.blockBytes (f : BFmt) : Nat := 6 * f.width

/-- The selector bit of a code (R71). -/
def BFmt.sel (f : BFmt) (code : Nat) : Nat := bits code (f.width - 1) 1
/-- The sign of a code (R71). -/
def BFmt.sign (f : BFmt) (code : Nat) : Bool := bits code (f.width - 2) 1 == 1

/-- The magnitude of the element with exponent and fraction bits k (R71). -/
def BFmt.mag (f : BFmt) (k : Nat) : Rat :=
  let e := k / 2 ^ f.mb
  let m := k % 2 ^ f.mb
  if e = 0 then (m : Rat) / (2 ^ f.mb : Nat) * pow2 (1 - f.bias)
  else (1 + (m : Rat) / (2 ^ f.mb : Nat)) * pow2 ((e : Int) - f.bias)

/-- The largest exponent and fraction bits. -/
def BFmt.top (f : BFmt) : Nat := 2 ^ (f.eb + f.mb) - 1

/-- The largest magnitude, maxf (R71). -/
def BFmt.maxf (f : BFmt) : Rat := f.mag f.top

/-- The value of a 10-bit scale that is neither zero nor NaN (R69). -/
def scaleValue (sc : Nat) : Rat := (1 + (bits sc 0 2 : Rat) / 4) * pow2 ((bits sc 2 8 : Int) - 127)

/-- decode_block (R72): the exact value of a code under a scale pair; a NaN raises nothing. -/
def BFmt.decode (f : BFmt) (code pair : Nat) : FVal :=
  let sc := if f.sel code = 0 then bits pair 10 10 else bits pair 0 10
  let neg := f.sign code
  if bits sc 2 8 = 255 then .nan false
  else if bits sc 2 8 = 0 then .num neg 0
  else
    let q := scaleValue sc * f.mag (code % 2 ^ (f.eb + f.mb))
    .num neg (if neg then -q else q)

/-- The smallest scale whose value is at least q, or the zero scale of 0; above the range, the largest (R69, R75). -/
def scaleAbove (q : Rat) : Nat :=
  if q = 0 then 0
  else if q ≤ pow2 (-126) then 4
  else
    let e := ilog2 q
    let m : Nat := ((List.range 4).find? fun (m : Nat) => decide (q ≤ (1 + (m : Rat) / 4) * pow2 e)).getD 4
    min (((e + 127).toNat * 4) + m) (254 * 4 + 3)

/-- The value of a scale; the zero scale is 0. -/
def scaleOf (sc : Nat) : Rat := if bits sc 2 8 = 0 then 0 else scaleValue sc

/-- The element nearest a magnitude on the format's grid, ties to even, at most maxf (R75). -/
def BFmt.nearest (f : BFmt) (q : Rat) : Nat :=
  let below := ((List.range (f.top + 1)).filter fun k => decide (f.mag k ≤ q)).length - 1
  if below = f.top then f.top
  else
    let lo := q - f.mag below
    let hi := f.mag (below + 1) - q
    if lo < hi then below else if hi < lo then below + 1 else if below % 2 = 0 then below else below + 1

/-- The element of a magnitude against a scale: nearest the quotient, or 0 under the zero scale (R75). -/
def BFmt.against (f : BFmt) (sc : Nat) (q : Rat) : Nat := if scaleOf sc = 0 then 0 else f.nearest (q / scaleOf sc)

/-- The absolute value of a rational. -/
def ratAbs (q : Rat) : Rat := if q < 0 then -q else q

/-- One element of a block under its scales: the code and the flags (R75). -/
def BFmt.encodeElem (f : BFmt) (a b : Nat) (neg : Bool) (q : Rat) : Nat × Flags :=
  let x := ratAbs q
  let ca := f.against a x
  let cb := f.against b x
  let va := scaleOf a * f.mag ca
  let vb := scaleOf b * f.mag cb
  let useB := decide (ratAbs (x - vb) < ratAbs (x - va))
  let k := if useB then cb else ca
  let v := if useB then vb else va
  let code := k + (if neg then 2 ^ (f.width - 2) else 0) + (if useB then 2 ^ (f.width - 1) else 0)
  (code, (if v = x then 0 else flagNX) ||| (if x > scaleOf a * f.maxf then 0x04 else 0))

/-- encode_block (R75) of up to 48 values, each with its sign: the scale pair, the 48 codes, the flags. Missing values
are +0. -/
def BFmt.encode (f : BFmt) (xs : List (FVal × Bool)) : Nat × List Nat × Flags :=
  let xs := xs ++ List.replicate (48 - xs.length) (.num false 0, false)
  if xs.any fun x => x.1.isNan || x.1.isInf true || x.1.isInf false then
    (255 * 4 * 1024 + 255 * 4, xs.map fun x => if x.2 then 2 ^ (f.width - 2) else 0, flagNV)
  else
    let amax := xs.foldl (fun m x => max m (ratAbs x.1.rat)) 0
    let a := scaleAbove (amax / f.maxf)
    let lim := scaleOf a * f.maxf / 8
    let bmax := xs.foldl (fun m x => if ratAbs x.1.rat < lim then max m (ratAbs x.1.rat) else m) 0
    let b := scaleAbove (bmax / f.maxf)
    let r := xs.map fun x => f.encodeElem a b x.2 x.1.rat
    (a * 1024 + b, r.map fun x => x.1, r.foldl (fun g x => g ||| x.2) 0)

/-- The code of element q in the bytes of a block (R74). -/
def BFmt.codeIn (f : BFmt) (block : List Byte) (q : Nat) : Nat := bits (ofBytes block) (q * f.width) f.width

/-- The bytes of a block of codes (R74). -/
def BFmt.blockOf (f : BFmt) (codes : List Nat) : List Byte :=
  toBytes f.blockBytes (codes.foldr (fun c n => c % 2 ^ f.width + 2 ^ f.width * n) 0)

end Sys2Proof.Machine
end

