-- ==== Sys2Proof/WellFormed.lean ====
section
/-! DEFINITION. Which words the field rules admit beyond their selectors and reserved zeros (R30 to R34 and the
description of each instruction): the checks that depend on the word alone. -/

namespace Sys2Proof

/-- The form is one that the instruction's description admits (R31, R119). -/
def formIn (f : Form) (l : List Form) : Bool := l.contains f

/-- LOOP's immediate is a multiple of 4 from 4 to 2044 (R93). -/
def loopImmOk (imm : BitVec 12) : Bool :=
  imm.toNat % 4 == 0 && decide (4 ≤ imm.toNat) && decide (imm.toNat ≤ 2044)

/-- The code of a scalar format (R23). -/
def ffmtCode : FFmt → Nat
  | .s => 0
  | .d => 1
  | .h => 2
  | .b => 3

/-- FCVT's conversion selector is listed, and an FP source differs from fmt (R100). -/
def fcvtSelOk (fmt : FFmt) (sel : BitVec 5) : Bool :=
  let k := sel.toNat
  (decide (k < 4) && k != ffmtCode fmt) || (decide (4 ≤ k) && decide (k ≤ 11)) || (decide (24 ≤ k) && decide (k ≤ 27))

/-- The numbers that name a status register (R46, R369, R382, R433). -/
def statusNamed (r : BitVec 12) : Bool :=
  let n := r.toNat
  decide (n ≤ 0x016) || (decide (0x100 ≤ n) && decide (n ≤ 0x105)) || (decide (0x110 ≤ n) && decide (n ≤ 0x118))
    || (decide (0x120 ≤ n) && decide (n ≤ 0x124)) || n == 0x130 || n == 0x131

/-- The numbers that name a register that is not read-only (R34, R46, R369, R382, R433). -/
def statusWritable (r : BitVec 12) : Bool :=
  [0x003, 0x004, 0x005, 0x006, 0x007, 0x009, 0x00A, 0x00B, 0x00C, 0x016, 0x101, 0x102, 0x103, 0x104, 0x105,
    0x110, 0x114, 0x116, 0x118, 0x130, 0x131].contains r.toNat

/-- The tile types f32, bf16, b8, b6 and b4, with FLUSH not 0b11 and BS 0b00 (R191). -/
def tileTypeOk (req : BitVec 11) : Bool :=
  let n := req.toNat
  [0x12, 0x19, 0x20, 0x28, 0x34].contains (n % 128) && n / 128 % 4 != 3 && n / 512 == 0

/-- A barrier level is core, bay, die, package or gang (R331). -/
def levelOk (l : BitVec 3) : Bool := decide (1 ≤ l.toNat) && decide (l.toNat ≤ 5)

/-- The instruction is a word whose fields its description admits. An event is no word. -/
def Instr.wellFormed : Instr → Bool

  | .add _ _ _ => true
  | .sub _ _ _ => true
  | .mul _ _ _ => true
  | .mulh _ _ _ => true
  | .mulhu _ _ _ => true
  | .div _ _ _ => true
  | .divu _ _ _ => true
  | .rem _ _ _ => true
  | .remu _ _ _ => true
  | .sll _ _ _ => true
  | .srl _ _ _ => true
  | .sra _ _ _ => true
  | .and_ _ _ _ => true
  | .or_ _ _ _ => true
  | .xor_ _ _ _ => true
  | .min_ _ _ _ => true
  | .max_ _ _ _ => true
  | .minu _ _ _ => true
  | .maxu _ _ _ => true
  | .andn _ _ _ => true
  | .clz _ _ => true
  | .ctz _ _ => true
  | .cpop _ _ => true
  | .sextb _ _ => true
  | .sexth _ _ => true
  | .zexth _ _ => true
  | .addi _ _ _ => true
  | .slli _ _ _ => true
  | .srli _ _ _ => true
  | .srai _ _ _ => true
  | .andi _ _ _ => true
  | .ori _ _ _ => true
  | .xori _ _ _ => true
  | .lui _ _ => true
  | .auipc _ _ => true
  | .ceq _ _ _ _ => true
  | .cne _ _ _ _ => true
  | .clt _ _ _ _ => true
  | .cge _ _ _ _ => true
  | .cltu _ _ _ _ => true
  | .cgeu _ _ _ _ => true
  | .ccmb _ _ _ _ _ _ => true
  | .crdx _ => true
  | .cwrx _ => true
  | .ceqi _ _ _ _ => true
  | .cnei _ _ _ _ => true
  | .clti _ _ _ _ => true
  | .cgei _ _ _ _ => true
  | .cltui _ _ _ _ => true
  | .cgeui _ _ _ _ => true
  | .cbiti _ _ _ _ => true
  | .bc _ _ => true
  | .bcn _ _ => true
  | .jal _ _ => true
  | .jalr _ _ _ => true
  | .loop imm _ => loopImmOk imm
  | .pref _ _ lvl => lvl != 3
  | .lfetch _ _ _ => true
  | .stop => true
  | .fadd _ _ _ _ => true
  | .fsub _ _ _ _ => true
  | .fmul _ _ _ _ => true
  | .fdiv _ _ _ _ => true
  | .fsqrt _ _ _ => true
  | .fmin _ _ _ _ => true
  | .fmax _ _ _ _ => true
  | .fsgnj _ _ _ _ => true
  | .fsgnjn _ _ _ _ => true
  | .fsgnjx _ _ _ _ => true
  | .fcvt fmt sel _ _ => fcvtSelOk fmt sel
  | .fmvxf _ _ _ => true
  | .fmvfx _ _ _ => true
  | .fclass _ _ _ => true
  | .fceq _ _ _ _ _ => true
  | .fclt _ _ _ _ _ => true
  | .fcle _ _ _ _ _ => true
  | .fmadd _ _ _ _ _ => true
  | .fmsub _ _ _ _ _ => true
  | .fnmadd _ _ _ _ _ => true
  | .fnmsub _ _ _ _ _ => true
  | .lb _ _ _ => true
  | .lh _ _ _ => true
  | .lw _ _ _ => true
  | .ld _ _ _ => true
  | .lbu _ _ _ => true
  | .lhu _ _ _ => true
  | .lwu _ _ _ => true
  | .flh _ _ _ => true
  | .flw _ _ _ => true
  | .fld _ _ _ => true
  | .sb _ _ _ => true
  | .sh _ _ _ => true
  | .sw _ _ _ => true
  | .sd _ _ _ => true
  | .fsh _ _ _ => true
  | .fsw _ _ _ => true
  | .fsd _ _ _ => true
  | .amoadd _ _ _ _ => true
  | .amoswap _ _ _ _ => true
  | .amocas _ _ _ _ => true
  | .amomin _ _ _ _ => true
  | .amomax _ _ _ _ => true
  | .amominu _ _ _ _ => true
  | .amomaxu _ _ _ _ => true
  | .amoand _ _ _ _ => true
  | .amoor _ _ _ _ => true
  | .amoxor _ _ _ _ => true
  | .scall => true
  | .sbrk => true
  | .sret => true
  | .wfe => true
  | .halt => true
  | .atcinv _ => true
  | .srd reg _ => statusNamed reg
  | .swr reg _ => statusWritable reg
  | .sset reg _ => statusWritable reg
  | .sclr reg _ => statusWritable reg
  | .readVectorStatus _ _ => false
  | .readTshape _ => false
  | .writeVectorStatus _ _ _ => false
  | .writeFrm _ _ => false
  | .writeLoopRegisters _ _ _ => false
  | .writePtbase _ _ => false
  | .writeSpbase _ _ => false
  | .writeFrtbase _ _ => false
  | .writeMarchsel _ _ => false
  | .writeDigestControl _ _ _ => false
  | .vsetvl _ _ _ => true
  | .vsetvli _ _ _ => true
  | .modet req => tileTypeOk req
  | .tileAcquire _ => false
  | .modev => true
  | .gdecl _ _ => true
  | .gtag _ _ => true
  | .vblk _ _ => true
  | .vjoin => true
  | .laneGroupIssue _ => false
  | .vadd _ form _ _ _ => formIn form [.vv, .vx, .vi]
  | .vsub _ form _ _ _ => formIn form [.vv, .vx, .vi]
  | .vmul _ form _ _ _ => formIn form [.vv, .vx, .vi]
  | .vmulh _ form _ _ _ => formIn form [.vv, .vx]
  | .vmulhu _ form _ _ _ => formIn form [.vv, .vx]
  | .vmacc _ form _ _ _ => formIn form [.vv, .vx, .vi]
  | .vand _ form _ _ _ => formIn form [.vv, .vx, .vi]
  | .vor _ form _ _ _ => formIn form [.vv, .vx, .vi]
  | .vxor _ form _ _ _ => formIn form [.vv, .vx, .vi]
  | .vsll _ form _ _ _ => formIn form [.vv, .vx, .vi]
  | .vsrl _ form _ _ _ => formIn form [.vv, .vx, .vi]
  | .vsra _ form _ _ _ => formIn form [.vv, .vx, .vi]
  | .vmin _ form _ _ _ => formIn form [.vv, .vx, .vi]
  | .vmax _ form _ _ _ => formIn form [.vv, .vx, .vi]
  | .vminu _ form _ _ _ => formIn form [.vv, .vx, .vi]
  | .vmaxu _ form _ _ _ => formIn form [.vv, .vx, .vi]
  | .vfadd _ form _ _ _ => formIn form [.vv, .vf]
  | .vfsub _ form _ _ _ => formIn form [.vv, .vf]
  | .vfmul _ form _ _ _ => formIn form [.vv, .vf]
  | .vfdiv _ form _ _ _ => formIn form [.vv, .vf]
  | .vfsqrt _ _ _ => true
  | .vfmacc _ form _ _ _ => formIn form [.vv, .vf]
  | .vfnmsac _ form _ _ _ => formIn form [.vv, .vf]
  | .vfmin _ form _ _ _ => formIn form [.vv, .vf]
  | .vfmax _ form _ _ _ => formIn form [.vv, .vf]
  | .vfcvt _ _ code _ => code.toNat % 16 != 15
  | .vfsgnj _ form _ _ _ => formIn form [.vv, .vf]
  | .vfrsqrte _ _ _ => true
  | .vfclass _ _ _ => true
  | .vmix _ form _ _ _ => formIn form [.vv, .vx, .vi]
  | .vfdot4 _ form vs2 s1 _ => formIn form [.vv, .vf] && vs2.toNat % 2 == 0 && (form != .vv || s1.toNat % 2 == 0)
  | .vfmerge _ _ _ _ _ => true
  | .vstep _ form _ _ => formIn form [.vx, .vi]
  | .vxch _ form _ _ _ => formIn form [.vx, .vi]
  | .vslideup _ form _ _ _ => formIn form [.vx, .vi]
  | .vslidedn _ form _ _ _ => formIn form [.vx, .vi]
  | .vgather _ form _ _ _ => formIn form [.vv, .vx, .vi]
  | .vcompress _ _ _ => true
  | .vconf _ _ _ => true
  | .vreds _ form _ _ _ => formIn form [.vv, .vx, .vf]
  | .vfredo _ form _ _ _ => formIn form [.vv, .vf]
  | .vredmin _ form _ _ _ => formIn form [.vv, .vx, .vf]
  | .vredmax _ form _ _ _ => formIn form [.vv, .vx, .vf]
  | .vmvxs form _ s1 _ => formIn form [.vv, .vx, .vi] && (form != .vv || s1 == 0)
  | .vmvsx form _ _ => formIn form [.vx, .vf]
  | .vpopc _ _ _ => true
  | .vfirst _ _ _ => true
  | .pand _ _ _ pd => pd != 0
  | .por _ _ _ pd => pd != 0
  | .pxor _ _ _ pd => pd != 0
  | .pandn _ _ _ pd => pd != 0
  | .pnot _ _ pd => pd != 0
  | .pset _ pd => pd != 0
  | .pclr _ pd => pd != 0
  | .vcmpeq _ form _ _ pd => pd != 0 && formIn form [.vv, .vx, .vi]
  | .vcmpne _ form _ _ pd => pd != 0 && formIn form [.vv, .vx, .vi]
  | .vcmplt _ form _ _ pd => pd != 0 && formIn form [.vv, .vx, .vi]
  | .vcmpltu _ form _ _ pd => pd != 0 && formIn form [.vv, .vx, .vi]
  | .vcmpge _ form _ _ pd => pd != 0 && formIn form [.vv, .vx, .vi]
  | .vfcmpeq _ form _ _ pd => pd != 0 && formIn form [.vv, .vf]
  | .vfcmplt _ form _ _ pd => pd != 0 && formIn form [.vv, .vf]
  | .vfcmple _ form _ _ pd => pd != 0 && formIn form [.vv, .vf]
  | .pmerge _ _ _ pd => pd != 0
  | .vld _ _ _ _ => true
  | .vlds _ _ _ _ _ => true
  | .vldx _ _ _ _ _ => true
  | .vldf _ _ _ => true
  | .vldfS _ _ _ _ => true
  | .vldfX _ _ _ _ => true
  | .vldr _ _ _ => true
  | .vldrS _ _ _ _ => true
  | .vldrX _ _ _ _ => true
  | .vldg _ _ _ => true
  | .vldgS _ _ _ _ => true
  | .vldgX _ _ _ _ => true
  | .vldP _ pd => pd != 0
  | .texs _ _ _ _ => true
  | .vst _ _ _ _ => true
  | .vsts _ _ _ _ _ => true
  | .vstx _ _ _ _ _ => true
  | .vstF _ _ _ => true
  | .vstsF _ _ _ _ => true
  | .vstxF _ _ _ _ => true
  | .vstr _ _ _ => true
  | .vstrS _ _ _ _ => true
  | .vstrX _ _ _ _ => true
  | .vstg _ _ _ => true
  | .vstgS _ _ _ _ => true
  | .vstgX _ _ _ _ => true
  | .vstP _ _ => true
  | .vscadd _ _ _ w _ => w != .e8
  | .vstc _ _ _ _ => true
  | .gp _ _ _ _ _ _ _ => true
  | .gwedge _ _ _ _ _ _ _ => true
  | .gjoin _ _ _ _ _ _ _ => true
  | .gldot _ _ _ _ _ _ _ => true
  | .gsand _ _ _ _ _ _ _ => true
  | .gcomm _ _ _ _ _ _ _ => true
  | .gproj _ _ _ _ _ _ => true
  | .grev _ _ _ _ _ => true
  | .ginvol _ _ _ _ _ => true
  | .gdual _ _ _ _ _ => true
  | .gnormsq _ _ _ _ _ => true
  | .gnorm _ _ _ _ _ => true
  | .gnormz _ _ _ _ _ => true
  | .gexp _ _ _ _ _ => true
  | .glog _ _ _ _ _ => true
  | .gsqrt _ _ _ _ _ => true
  | .ginv _ _ _ _ _ => true
  | .tzero _ => true
  | .topa _ _ _ _ _ => true
  | .topas _ _ _ _ _ => true
  | .topasRead _ => false
  | .tdrain n _ _ _ => decide (n.toNat ≤ 4)
  | .tldz _ _ _ => true
  | .tstz _ _ _ => true
  | .tshape _ _ => true
  | .tfetch _ _ _ => true
  | .hldh _ _ => true
  | .hsth _ _ => true
  | .hld _ _ _ => true
  | .hst _ _ _ => true
  | .hstTry _ _ _ _ => true
  | .hiter _ _ => true
  | .hattach _ _ _ => true
  | .hdetach _ _ _ => true
  | .hinfo _ sel _ => decide (sel.toNat ≤ 9)
  | .forkCopy _ _ _ => true
  | .forkFold _ _ _ => true
  | .forkBlend _ _ _ => true
  | .forkMarch _ _ _ => true
  | .rdv _ _ => true
  | .cpy _ _ _ _ => true
  | .cwait _ _ _ => true
  | .cwaitR _ _ _ => true
  | .cwaitTimeout _ => false
  | .ctest _ _ => true
  | .publish _ _ => true
  | .publishDiscard _ _ => true
  | .msend _ _ _ _ => true
  | .mrecv _ _ _ => true
  | .mrecvTry _ _ _ => true
  | .launch _ _ => true
  | .emit _ _ => true
  | .emitTry _ _ _ => true
  | .take _ _ => true
  | .rcast _ _ _ => true
  | .rresume _ _ _ => true
  | .rquery _ _ => true
  | .fsv => true
  | .fvs => true
  | .fvv => true
  | .barv level _ _ => levelOk level
  | .bwait level _ _ => levelOk level
  | .bset level _ _ => levelOk level
  | .ifence scope _ _ => decide (scope.toNat ≤ 4)
  | .isync => true
  | .dfence scope => scope != 7
  | .park _ _ _ => true
  | .parkReread _ => false
  | .wake scope _ _ _ => decide (1 ≤ scope.toNat ∧ scope.toNat ≤ 4)
  | .wfeWake _ => false
  | .vectorAdmit _ => false
  | .vectorCommit _ => false
  | .vectorElementStep _ => false
  | .postStep _ => false
  | .postedElementStep _ _ _ => false
  | .engineAccessStep _ => false
  | .engineWriteStep _ => false
  | .scoreboardTake _ => false
  | .copyRetire _ => false
  | .automaticPublish _ => false
  | .readyStep _ => false
  | .finalStep _ => false
  | .foldRead _ => false
  | .foldPublish _ => false
  | .blendTile _ => false
  | .rayAdmission _ => false
  | .marchStep _ _ => false
  | .bvhStep _ _ => false
  | .rayReadmit _ _ => false
  | .rayResume _ _ => false
  | .hitRecordPush _ _ => false
  | .walkQuery _ _ => false
  | .schedulerDecision _ => false
  | .emitUnblock _ => false
  | .bwaitComplete _ => false
  | .mrecvDequeue _ => false
  | .messageDelivery _ => false
  | .hostMessage _ _ => false
  | .frameFault _ _ _ _ _ => false
  | .define_ _ => false
  | .reside _ => false
  | .evict _ => false
  | .stopContext _ => false
  | .grant _ _ _ _ => false
  | .release_ _ _ _ => false
  | .remoteWriteRequest _ _ _ _ => false
  | .remoteReadRequest _ _ _ => false
  | .remoteWriteAck _ _ => false
  | .remoteReadResponse _ _ _ => false
  | .pipelineLaunch _ => false
  | .remoteWriteLaunch _ => false
  | .remoteReadLaunch _ => false
  | .parameterCommit _ _ _ => false
  | .gangLaunch _ _ => false
  | .gangAck _ _ => false
  | .gangTimeoutCheck _ => false
  | .gangAbort _ => false
  | .gangArrive _ _ _ _ => false
  | .deliveryFailure _ _ => false
  | .cxlHostWrite _ _ => false
  | .attestationChallenge _ _ => false
  | .preempt _ => false
  | .restore _ => false
  | .powerSample _ _ => false
  | .thermalEvent _ => false
  | .thermalRestart => false
  | .telemetryReport => false
  | .patrolScrub _ _ => false
  | .powerOn _ => false
  | .sliceReassign _ _ => false
  | .illegalWord _ => false
  | .lossOfPower => false
  | .softError _ => false
  | .quarterPowerGate _ _ => false
  | .newImageToInactiveBank _ _ => false

end Sys2Proof
end

