-- ==== Sys2Proof/Decode.lean ====
section
/-! DEFINITION. The decoder, total on any word, and after it the encoder, both from the opcode map and the encoding
tables of 01_instruction_words.md and the chapters of the instructions. -/

namespace Sys2Proof

/-- Why a word is no instruction (R33). -/
inductive DecodeError where
  /-- Bits [1:0] are not 0b11. -/
  | notAnInstruction
  /-- The major opcode is 0x3F, 0x7B or 0x7F (R24). -/
  | illegalOpcode
  /-- The selector is one that the tables leave out, or a reserved field is not zero (R25, R31). -/
  | noSuchWord
  /-- A field holds a value that the instruction's description does not admitWord (R30, R31). -/
  | fieldRefused
  deriving DecidableEq, Repr

/-- Bits `lo` to `lo + n - 1` of a word. -/
def fld (w lo n : Nat) : Nat := w / 2 ^ lo % 2 ^ n

/-- The form field (R19). -/
def formOf : Nat → Form
  | 0 => .vv
  | 1 => .vx
  | 2 => .vf
  | _ => .vi

/-- The scalar format field (R23). -/
def ffmtOf : Nat → FFmt
  | 0 => .s
  | 1 => .d
  | 2 => .h
  | _ => .b

/-- The combine mode field (R18). -/
def combineOf : Nat → Combine
  | 0 => .set
  | 1 => .and
  | 2 => .or
  | _ => .xor

/-- The width field of a plain access (R20). -/
def ewOf : Nat → EW
  | 0 => .e8
  | 1 => .e16
  | 2 => .e32
  | _ => .e64

/-- A one-bit field. -/
def boolOf (n : Nat) : Bool := n == 1

/-- A candidate is an instruction when its fields are admitted. -/
def admitWord (i : Instr) : Except DecodeError Instr := if i.wellFormed then .ok i else .error .fieldRefused


/-- The words of major opcode 0x03 (R24 to R31). -/
def decodeLd (w : Nat) : Except DecodeError Instr :=
  if fld w 12 3 = 0 then admitWord (.lb (.ofNat 12 (fld w 20 12)) (.ofNat 5 (fld w 15 5)) (.ofNat 5 (fld w 7 5))) else
  if fld w 12 3 = 1 then admitWord (.lh (.ofNat 12 (fld w 20 12)) (.ofNat 5 (fld w 15 5)) (.ofNat 5 (fld w 7 5))) else
  if fld w 12 3 = 2 then admitWord (.lw (.ofNat 12 (fld w 20 12)) (.ofNat 5 (fld w 15 5)) (.ofNat 5 (fld w 7 5))) else
  if fld w 12 3 = 3 then admitWord (.ld (.ofNat 12 (fld w 20 12)) (.ofNat 5 (fld w 15 5)) (.ofNat 5 (fld w 7 5))) else
  if fld w 12 3 = 4 then admitWord (.lbu (.ofNat 12 (fld w 20 12)) (.ofNat 5 (fld w 15 5)) (.ofNat 5 (fld w 7 5))) else
  if fld w 12 3 = 5 then admitWord (.lhu (.ofNat 12 (fld w 20 12)) (.ofNat 5 (fld w 15 5)) (.ofNat 5 (fld w 7 5))) else
  if fld w 12 3 = 6 then admitWord (.lwu (.ofNat 12 (fld w 20 12)) (.ofNat 5 (fld w 15 5)) (.ofNat 5 (fld w 7 5))) else
  .error .noSuchWord

/-- The words of major opcode 0x07 (R24 to R31). -/
def decodeLdf (w : Nat) : Except DecodeError Instr :=
  if fld w 12 3 = 0 then admitWord (.flh (.ofNat 12 (fld w 20 12)) (.ofNat 5 (fld w 15 5)) (.ofNat 5 (fld w 7 5))) else
  if fld w 12 3 = 1 then admitWord (.flw (.ofNat 12 (fld w 20 12)) (.ofNat 5 (fld w 15 5)) (.ofNat 5 (fld w 7 5))) else
  if fld w 12 3 = 2 then admitWord (.fld (.ofNat 12 (fld w 20 12)) (.ofNat 5 (fld w 15 5)) (.ofNat 5 (fld w 7 5))) else
  .error .noSuchWord

/-- The words of major opcode 0x0B (R24 to R31). -/
def decodeTensor (w : Nat) : Except DecodeError Instr :=
  if fld w 9 3 = 0 ∧ fld w 12 3 = 0 ∧ fld w 15 5 = 0 ∧ fld w 20 5 = 0 ∧ fld w 25 2 = 0 ∧ fld w 27 5 = 0 then admitWord (.tzero (.ofNat 2 (fld w 7 2))) else
  if fld w 9 3 = 0 ∧ fld w 12 3 = 1 ∧ fld w 27 5 = 0 then admitWord (.topa (boolOf (fld w 26 1)) (boolOf (fld w 25 1)) (.ofNat 5 (fld w 20 5)) (.ofNat 5 (fld w 15 5)) (.ofNat 2 (fld w 7 2))) else
  if fld w 9 3 = 0 ∧ fld w 12 3 = 2 ∧ fld w 19 1 = 0 ∧ fld w 24 1 = 0 ∧ fld w 27 5 = 0 then admitWord (.topas (boolOf (fld w 26 1)) (boolOf (fld w 25 1)) (.ofNat 4 (fld w 20 4)) (.ofNat 4 (fld w 15 4)) (.ofNat 2 (fld w 7 2))) else
  if fld w 12 3 = 3 ∧ fld w 22 3 = 0 ∧ fld w 28 4 = 0 then admitWord (.tdrain (.ofNat 3 (fld w 25 3)) (.ofNat 2 (fld w 20 2)) (.ofNat 5 (fld w 15 5)) (.ofNat 5 (fld w 7 5))) else
  if fld w 9 3 = 0 ∧ fld w 12 3 = 4 ∧ fld w 25 2 = 0 ∧ fld w 27 5 = 0 then admitWord (.tldz (.ofNat 5 (fld w 20 5)) (.ofNat 5 (fld w 15 5)) (.ofNat 2 (fld w 7 2))) else
  if fld w 9 3 = 0 ∧ fld w 12 3 = 5 ∧ fld w 25 2 = 0 ∧ fld w 27 5 = 0 then admitWord (.tstz (.ofNat 5 (fld w 20 5)) (.ofNat 5 (fld w 15 5)) (.ofNat 2 (fld w 7 2))) else
  if fld w 7 5 = 0 ∧ fld w 12 3 = 6 ∧ fld w 25 2 = 0 ∧ fld w 27 5 = 0 then admitWord (.tshape (.ofNat 5 (fld w 20 5)) (.ofNat 5 (fld w 15 5))) else
  if fld w 12 3 = 7 ∧ fld w 24 1 = 0 ∧ fld w 25 2 = 0 ∧ fld w 27 5 = 0 then admitWord (.tfetch (.ofNat 4 (fld w 20 4)) (.ofNat 5 (fld w 15 5)) (.ofNat 5 (fld w 7 5))) else
  if fld w 11 1 = 0 ∧ fld w 12 3 = 0 ∧ fld w 20 5 = 0 ∧ fld w 25 2 = 0 ∧ fld w 27 5 = 8 then admitWord (.hldh (.ofNat 5 (fld w 15 5)) (.ofNat 4 (fld w 7 4))) else
  if fld w 7 5 = 0 ∧ fld w 12 3 = 1 ∧ fld w 24 1 = 0 ∧ fld w 25 2 = 0 ∧ fld w 27 5 = 8 then admitWord (.hsth (.ofNat 4 (fld w 20 4)) (.ofNat 5 (fld w 15 5))) else
  if fld w 12 3 = 2 ∧ fld w 24 1 = 0 ∧ fld w 25 2 = 0 ∧ fld w 27 5 = 8 then admitWord (.hld (.ofNat 4 (fld w 20 4)) (.ofNat 5 (fld w 15 5)) (.ofNat 5 (fld w 7 5))) else
  if fld w 12 3 = 3 ∧ fld w 24 1 = 0 ∧ fld w 25 2 = 0 ∧ fld w 27 5 = 8 then admitWord (.hst (.ofNat 4 (fld w 20 4)) (.ofNat 5 (fld w 15 5)) (.ofNat 5 (fld w 7 5))) else
  if fld w 12 3 = 3 ∧ fld w 24 1 = 0 ∧ fld w 25 1 = 1 ∧ fld w 29 3 = 2 then admitWord (.hstTry (.ofNat 3 (fld w 26 3)) (.ofNat 4 (fld w 20 4)) (.ofNat 5 (fld w 15 5)) (.ofNat 5 (fld w 7 5))) else
  if fld w 12 3 = 4 ∧ fld w 15 5 = 0 ∧ fld w 24 1 = 0 ∧ fld w 25 2 = 0 ∧ fld w 27 5 = 8 then admitWord (.hiter (.ofNat 4 (fld w 20 4)) (.ofNat 5 (fld w 7 5))) else
  if fld w 12 3 = 5 ∧ fld w 25 2 = 0 ∧ fld w 27 5 = 8 then admitWord (.hattach (.ofNat 5 (fld w 20 5)) (.ofNat 5 (fld w 15 5)) (.ofNat 5 (fld w 7 5))) else
  if fld w 12 3 = 6 ∧ fld w 25 2 = 0 ∧ fld w 27 5 = 8 then admitWord (.hdetach (.ofNat 5 (fld w 20 5)) (.ofNat 5 (fld w 15 5)) (.ofNat 5 (fld w 7 5))) else
  if fld w 12 3 = 7 ∧ fld w 24 1 = 0 ∧ fld w 25 2 = 0 ∧ fld w 27 5 = 8 then admitWord (.hinfo (.ofNat 4 (fld w 20 4)) (.ofNat 5 (fld w 15 5)) (.ofNat 5 (fld w 7 5))) else
  .error .noSuchWord

/-- The words of major opcode 0x0F (R24 to R31). -/
def decodeMisc (w : Nat) : Except DecodeError Instr :=
  if fld w 7 5 = 0 ∧ fld w 12 3 = 0 then admitWord (.loop (.ofNat 12 (fld w 20 12)) (.ofNat 5 (fld w 15 5))) else
  if fld w 9 3 = 0 ∧ fld w 12 3 = 1 then admitWord (.pref (.ofNat 12 (fld w 20 12)) (.ofNat 5 (fld w 15 5)) (.ofNat 2 (fld w 7 2))) else
  if fld w 12 3 = 2 then admitWord (.lfetch (.ofNat 12 (fld w 20 12)) (.ofNat 5 (fld w 15 5)) (.ofNat 5 (fld w 7 5))) else
  if fld w 7 5 = 0 ∧ fld w 12 3 = 3 ∧ fld w 15 5 = 0 ∧ fld w 20 5 = 0 ∧ fld w 25 2 = 0 ∧ fld w 27 5 = 0 then admitWord .stop else
  .error .noSuchWord

/-- The words of major opcode 0x13 (R24 to R31). -/
def decodeOpi (w : Nat) : Except DecodeError Instr :=
  if fld w 12 3 = 0 then admitWord (.addi (.ofNat 12 (fld w 20 12)) (.ofNat 5 (fld w 15 5)) (.ofNat 5 (fld w 7 5))) else
  if fld w 12 3 = 1 ∧ fld w 26 1 = 0 ∧ fld w 27 5 = 0 then admitWord (.slli (.ofNat 6 (fld w 20 6)) (.ofNat 5 (fld w 15 5)) (.ofNat 5 (fld w 7 5))) else
  if fld w 12 3 = 2 ∧ fld w 26 1 = 0 ∧ fld w 27 5 = 0 then admitWord (.srli (.ofNat 6 (fld w 20 6)) (.ofNat 5 (fld w 15 5)) (.ofNat 5 (fld w 7 5))) else
  if fld w 12 3 = 3 ∧ fld w 26 1 = 0 ∧ fld w 27 5 = 0 then admitWord (.srai (.ofNat 6 (fld w 20 6)) (.ofNat 5 (fld w 15 5)) (.ofNat 5 (fld w 7 5))) else
  if fld w 12 3 = 4 then admitWord (.andi (.ofNat 12 (fld w 20 12)) (.ofNat 5 (fld w 15 5)) (.ofNat 5 (fld w 7 5))) else
  if fld w 12 3 = 5 then admitWord (.ori (.ofNat 12 (fld w 20 12)) (.ofNat 5 (fld w 15 5)) (.ofNat 5 (fld w 7 5))) else
  if fld w 12 3 = 6 then admitWord (.xori (.ofNat 12 (fld w 20 12)) (.ofNat 5 (fld w 15 5)) (.ofNat 5 (fld w 7 5))) else
  .error .noSuchWord

/-- The words of major opcode 0x17 (R24 to R31). -/
def decodeAuipc (w : Nat) : Except DecodeError Instr :=
  admitWord (.auipc (.ofNat 20 (fld w 12 20)) (.ofNat 5 (fld w 7 5)))

/-- The words of major opcode 0x1B (R24 to R31). -/
def decodeCmpi (w : Nat) : Except DecodeError Instr :=
  if fld w 12 3 = 0 then admitWord (.ceqi (.ofNat 12 (fld w 20 12)) (.ofNat 5 (fld w 15 5)) (combineOf (fld w 10 2)) (.ofNat 3 (fld w 7 3))) else
  if fld w 12 3 = 1 then admitWord (.cnei (.ofNat 12 (fld w 20 12)) (.ofNat 5 (fld w 15 5)) (combineOf (fld w 10 2)) (.ofNat 3 (fld w 7 3))) else
  if fld w 12 3 = 2 then admitWord (.clti (.ofNat 12 (fld w 20 12)) (.ofNat 5 (fld w 15 5)) (combineOf (fld w 10 2)) (.ofNat 3 (fld w 7 3))) else
  if fld w 12 3 = 3 then admitWord (.cgei (.ofNat 12 (fld w 20 12)) (.ofNat 5 (fld w 15 5)) (combineOf (fld w 10 2)) (.ofNat 3 (fld w 7 3))) else
  if fld w 12 3 = 4 then admitWord (.cltui (.ofNat 12 (fld w 20 12)) (.ofNat 5 (fld w 15 5)) (combineOf (fld w 10 2)) (.ofNat 3 (fld w 7 3))) else
  if fld w 12 3 = 5 then admitWord (.cgeui (.ofNat 12 (fld w 20 12)) (.ofNat 5 (fld w 15 5)) (combineOf (fld w 10 2)) (.ofNat 3 (fld w 7 3))) else
  if fld w 12 3 = 6 ∧ fld w 26 1 = 0 ∧ fld w 27 5 = 0 then admitWord (.cbiti (.ofNat 6 (fld w 20 6)) (.ofNat 5 (fld w 15 5)) (combineOf (fld w 10 2)) (.ofNat 3 (fld w 7 3))) else
  .error .noSuchWord

/-- The words of major opcode 0x1F (R24 to R31). -/
def decodeVopi (w : Nat) : Except DecodeError Instr :=
  if fld w 12 3 = 0 ∧ fld w 25 1 = 0 then admitWord (.vadd (.ofNat 4 (fld w 28 4)) (formOf (fld w 26 2)) (.ofNat 5 (fld w 20 5)) (.ofNat 5 (fld w 15 5)) (.ofNat 5 (fld w 7 5))) else
  if fld w 12 3 = 1 ∧ fld w 25 1 = 0 then admitWord (.vsub (.ofNat 4 (fld w 28 4)) (formOf (fld w 26 2)) (.ofNat 5 (fld w 20 5)) (.ofNat 5 (fld w 15 5)) (.ofNat 5 (fld w 7 5))) else
  if fld w 12 3 = 2 ∧ fld w 25 1 = 0 then admitWord (.vmul (.ofNat 4 (fld w 28 4)) (formOf (fld w 26 2)) (.ofNat 5 (fld w 20 5)) (.ofNat 5 (fld w 15 5)) (.ofNat 5 (fld w 7 5))) else
  if fld w 12 3 = 3 ∧ fld w 25 1 = 0 then admitWord (.vmulh (.ofNat 4 (fld w 28 4)) (formOf (fld w 26 2)) (.ofNat 5 (fld w 20 5)) (.ofNat 5 (fld w 15 5)) (.ofNat 5 (fld w 7 5))) else
  if fld w 12 3 = 4 ∧ fld w 25 1 = 0 then admitWord (.vmulhu (.ofNat 4 (fld w 28 4)) (formOf (fld w 26 2)) (.ofNat 5 (fld w 20 5)) (.ofNat 5 (fld w 15 5)) (.ofNat 5 (fld w 7 5))) else
  if fld w 12 3 = 5 ∧ fld w 25 1 = 0 then admitWord (.vmacc (.ofNat 4 (fld w 28 4)) (formOf (fld w 26 2)) (.ofNat 5 (fld w 20 5)) (.ofNat 5 (fld w 15 5)) (.ofNat 5 (fld w 7 5))) else
  if fld w 12 3 = 6 ∧ fld w 25 1 = 0 then admitWord (.vand (.ofNat 4 (fld w 28 4)) (formOf (fld w 26 2)) (.ofNat 5 (fld w 20 5)) (.ofNat 5 (fld w 15 5)) (.ofNat 5 (fld w 7 5))) else
  if fld w 12 3 = 7 ∧ fld w 25 1 = 0 then admitWord (.vor (.ofNat 4 (fld w 28 4)) (formOf (fld w 26 2)) (.ofNat 5 (fld w 20 5)) (.ofNat 5 (fld w 15 5)) (.ofNat 5 (fld w 7 5))) else
  if fld w 12 3 = 0 ∧ fld w 25 1 = 1 then admitWord (.vxor (.ofNat 4 (fld w 28 4)) (formOf (fld w 26 2)) (.ofNat 5 (fld w 20 5)) (.ofNat 5 (fld w 15 5)) (.ofNat 5 (fld w 7 5))) else
  if fld w 12 3 = 1 ∧ fld w 25 1 = 1 then admitWord (.vsll (.ofNat 4 (fld w 28 4)) (formOf (fld w 26 2)) (.ofNat 5 (fld w 20 5)) (.ofNat 5 (fld w 15 5)) (.ofNat 5 (fld w 7 5))) else
  if fld w 12 3 = 2 ∧ fld w 25 1 = 1 then admitWord (.vsrl (.ofNat 4 (fld w 28 4)) (formOf (fld w 26 2)) (.ofNat 5 (fld w 20 5)) (.ofNat 5 (fld w 15 5)) (.ofNat 5 (fld w 7 5))) else
  if fld w 12 3 = 3 ∧ fld w 25 1 = 1 then admitWord (.vsra (.ofNat 4 (fld w 28 4)) (formOf (fld w 26 2)) (.ofNat 5 (fld w 20 5)) (.ofNat 5 (fld w 15 5)) (.ofNat 5 (fld w 7 5))) else
  if fld w 12 3 = 4 ∧ fld w 25 1 = 1 then admitWord (.vmin (.ofNat 4 (fld w 28 4)) (formOf (fld w 26 2)) (.ofNat 5 (fld w 20 5)) (.ofNat 5 (fld w 15 5)) (.ofNat 5 (fld w 7 5))) else
  if fld w 12 3 = 5 ∧ fld w 25 1 = 1 then admitWord (.vmax (.ofNat 4 (fld w 28 4)) (formOf (fld w 26 2)) (.ofNat 5 (fld w 20 5)) (.ofNat 5 (fld w 15 5)) (.ofNat 5 (fld w 7 5))) else
  if fld w 12 3 = 6 ∧ fld w 25 1 = 1 then admitWord (.vminu (.ofNat 4 (fld w 28 4)) (formOf (fld w 26 2)) (.ofNat 5 (fld w 20 5)) (.ofNat 5 (fld w 15 5)) (.ofNat 5 (fld w 7 5))) else
  if fld w 12 3 = 7 ∧ fld w 25 1 = 1 then admitWord (.vmaxu (.ofNat 4 (fld w 28 4)) (formOf (fld w 26 2)) (.ofNat 5 (fld w 20 5)) (.ofNat 5 (fld w 15 5)) (.ofNat 5 (fld w 7 5))) else
  .error .noSuchWord

/-- The words of major opcode 0x23 (R24 to R31). -/
def decodeSt (w : Nat) : Except DecodeError Instr :=
  if fld w 12 3 = 0 then admitWord (.sb (.ofNat 5 (fld w 20 5)) (.ofNat 5 (fld w 15 5)) (.ofNat 12 (fld w 25 7 * 32 + fld w 7 5))) else
  if fld w 12 3 = 1 then admitWord (.sh (.ofNat 5 (fld w 20 5)) (.ofNat 5 (fld w 15 5)) (.ofNat 12 (fld w 25 7 * 32 + fld w 7 5))) else
  if fld w 12 3 = 2 then admitWord (.sw (.ofNat 5 (fld w 20 5)) (.ofNat 5 (fld w 15 5)) (.ofNat 12 (fld w 25 7 * 32 + fld w 7 5))) else
  if fld w 12 3 = 3 then admitWord (.sd (.ofNat 5 (fld w 20 5)) (.ofNat 5 (fld w 15 5)) (.ofNat 12 (fld w 25 7 * 32 + fld w 7 5))) else
  .error .noSuchWord

/-- The words of major opcode 0x27 (R24 to R31). -/
def decodeStf (w : Nat) : Except DecodeError Instr :=
  if fld w 12 3 = 0 then admitWord (.fsh (.ofNat 5 (fld w 20 5)) (.ofNat 5 (fld w 15 5)) (.ofNat 12 (fld w 25 7 * 32 + fld w 7 5))) else
  if fld w 12 3 = 1 then admitWord (.fsw (.ofNat 5 (fld w 20 5)) (.ofNat 5 (fld w 15 5)) (.ofNat 12 (fld w 25 7 * 32 + fld w 7 5))) else
  if fld w 12 3 = 2 then admitWord (.fsd (.ofNat 5 (fld w 20 5)) (.ofNat 5 (fld w 15 5)) (.ofNat 12 (fld w 25 7 * 32 + fld w 7 5))) else
  .error .noSuchWord

/-- The words of major opcode 0x2B (R24 to R31). -/
def decodeMessage (w : Nat) : Except DecodeError Instr :=
  if fld w 12 3 = 0 ∧ fld w 20 5 = 0 ∧ fld w 25 2 = 0 ∧ fld w 27 1 = 0 ∧ fld w 29 3 = 0 then admitWord (.forkCopy (boolOf (fld w 28 1)) (.ofNat 5 (fld w 15 5)) (.ofNat 5 (fld w 7 5))) else
  if fld w 12 3 = 0 ∧ fld w 20 5 = 0 ∧ fld w 25 2 = 1 ∧ fld w 27 1 = 0 ∧ fld w 29 3 = 0 then admitWord (.forkFold (boolOf (fld w 28 1)) (.ofNat 5 (fld w 15 5)) (.ofNat 5 (fld w 7 5))) else
  if fld w 12 3 = 0 ∧ fld w 20 5 = 0 ∧ fld w 25 2 = 2 ∧ fld w 27 1 = 0 ∧ fld w 29 3 = 0 then admitWord (.forkBlend (boolOf (fld w 28 1)) (.ofNat 5 (fld w 15 5)) (.ofNat 5 (fld w 7 5))) else
  if fld w 12 3 = 0 ∧ fld w 20 5 = 0 ∧ fld w 25 2 = 3 ∧ fld w 27 1 = 0 ∧ fld w 29 3 = 0 then admitWord (.forkMarch (boolOf (fld w 28 1)) (.ofNat 5 (fld w 15 5)) (.ofNat 5 (fld w 7 5))) else
  if fld w 12 3 = 1 ∧ fld w 20 5 = 0 ∧ fld w 25 2 = 0 ∧ fld w 27 5 = 0 then admitWord (.rdv (.ofNat 5 (fld w 15 5)) (.ofNat 5 (fld w 7 5))) else
  if fld w 12 3 = 2 ∧ fld w 26 1 = 0 ∧ fld w 27 5 = 0 then admitWord (.cpy (boolOf (fld w 25 1)) (.ofNat 5 (fld w 20 5)) (.ofNat 5 (fld w 15 5)) (.ofNat 5 (fld w 7 5))) else
  if fld w 12 3 = 3 ∧ fld w 25 2 = 0 ∧ fld w 27 5 = 0 then admitWord (.cwait (.ofNat 5 (fld w 20 5)) (.ofNat 5 (fld w 15 5)) (.ofNat 5 (fld w 7 5))) else
  if fld w 12 3 = 3 ∧ fld w 25 2 = 1 ∧ fld w 27 5 = 0 then admitWord (.cwaitR (.ofNat 5 (fld w 20 5)) (.ofNat 5 (fld w 15 5)) (.ofNat 5 (fld w 7 5))) else
  if fld w 10 2 = 0 ∧ fld w 12 3 = 4 ∧ fld w 20 5 = 0 ∧ fld w 25 2 = 0 ∧ fld w 27 5 = 0 then admitWord (.ctest (.ofNat 5 (fld w 15 5)) (.ofNat 3 (fld w 7 3))) else
  if fld w 12 3 = 5 ∧ fld w 20 5 = 0 ∧ fld w 25 2 = 0 ∧ fld w 27 5 = 0 then admitWord (.publish (.ofNat 5 (fld w 15 5)) (.ofNat 5 (fld w 7 5))) else
  if fld w 12 3 = 5 ∧ fld w 20 5 = 0 ∧ fld w 25 2 = 1 ∧ fld w 27 5 = 0 then admitWord (.publishDiscard (.ofNat 5 (fld w 15 5)) (.ofNat 5 (fld w 7 5))) else
  if fld w 12 3 = 6 ∧ fld w 29 3 = 0 then admitWord (.msend (.ofNat 4 (fld w 25 4)) (.ofNat 5 (fld w 20 5)) (.ofNat 5 (fld w 15 5)) (.ofNat 5 (fld w 7 5))) else
  if fld w 12 3 = 7 ∧ fld w 25 2 = 0 ∧ fld w 27 5 = 0 then admitWord (.mrecv (.ofNat 5 (fld w 20 5)) (.ofNat 5 (fld w 15 5)) (.ofNat 5 (fld w 7 5))) else
  if fld w 12 3 = 7 ∧ fld w 25 2 = 1 ∧ fld w 27 5 = 0 then admitWord (.mrecvTry (.ofNat 5 (fld w 20 5)) (.ofNat 5 (fld w 15 5)) (.ofNat 5 (fld w 7 5))) else
  if fld w 12 3 = 0 ∧ fld w 20 5 = 0 ∧ fld w 25 2 = 0 ∧ fld w 27 5 = 8 then admitWord (.launch (.ofNat 5 (fld w 15 5)) (.ofNat 5 (fld w 7 5))) else
  if fld w 7 5 = 0 ∧ fld w 12 3 = 1 ∧ fld w 25 2 = 0 ∧ fld w 27 5 = 8 then admitWord (.emit (.ofNat 5 (fld w 20 5)) (.ofNat 5 (fld w 15 5))) else
  if fld w 7 5 = 0 ∧ fld w 12 3 = 1 ∧ fld w 25 1 = 1 ∧ fld w 29 3 = 2 then admitWord (.emitTry (.ofNat 3 (fld w 26 3)) (.ofNat 5 (fld w 20 5)) (.ofNat 5 (fld w 15 5))) else
  if fld w 10 2 = 0 ∧ fld w 12 3 = 2 ∧ fld w 20 5 = 0 ∧ fld w 25 2 = 0 ∧ fld w 27 5 = 8 then admitWord (.take (.ofNat 5 (fld w 15 5)) (.ofNat 3 (fld w 7 3))) else
  if fld w 12 3 = 3 ∧ fld w 25 2 = 0 ∧ fld w 27 5 = 8 then admitWord (.rcast (.ofNat 5 (fld w 20 5)) (.ofNat 5 (fld w 15 5)) (.ofNat 5 (fld w 7 5))) else
  if fld w 12 3 = 4 ∧ fld w 25 2 = 0 ∧ fld w 27 5 = 8 then admitWord (.rresume (.ofNat 5 (fld w 20 5)) (.ofNat 5 (fld w 15 5)) (.ofNat 5 (fld w 7 5))) else
  if fld w 12 3 = 5 ∧ fld w 20 5 = 0 ∧ fld w 25 2 = 0 ∧ fld w 27 5 = 8 then admitWord (.rquery (.ofNat 5 (fld w 15 5)) (.ofNat 5 (fld w 7 5))) else
  .error .noSuchWord

/-- The words of major opcode 0x2F (R24 to R31). -/
def decodeAmo (w : Nat) : Except DecodeError Instr :=
  if fld w 13 2 = 1 ∧ fld w 25 2 = 0 ∧ fld w 27 5 = 0 then admitWord (.amoadd (.ofNat 5 (fld w 20 5)) (.ofNat 5 (fld w 15 5)) (boolOf (fld w 12 1)) (.ofNat 5 (fld w 7 5))) else
  if fld w 13 2 = 1 ∧ fld w 25 2 = 0 ∧ fld w 27 5 = 1 then admitWord (.amoswap (.ofNat 5 (fld w 20 5)) (.ofNat 5 (fld w 15 5)) (boolOf (fld w 12 1)) (.ofNat 5 (fld w 7 5))) else
  if fld w 13 2 = 1 ∧ fld w 25 2 = 0 ∧ fld w 27 5 = 2 then admitWord (.amocas (.ofNat 5 (fld w 20 5)) (.ofNat 5 (fld w 15 5)) (boolOf (fld w 12 1)) (.ofNat 5 (fld w 7 5))) else
  if fld w 13 2 = 1 ∧ fld w 25 2 = 0 ∧ fld w 27 5 = 3 then admitWord (.amomin (.ofNat 5 (fld w 20 5)) (.ofNat 5 (fld w 15 5)) (boolOf (fld w 12 1)) (.ofNat 5 (fld w 7 5))) else
  if fld w 13 2 = 1 ∧ fld w 25 2 = 0 ∧ fld w 27 5 = 4 then admitWord (.amomax (.ofNat 5 (fld w 20 5)) (.ofNat 5 (fld w 15 5)) (boolOf (fld w 12 1)) (.ofNat 5 (fld w 7 5))) else
  if fld w 13 2 = 1 ∧ fld w 25 2 = 0 ∧ fld w 27 5 = 5 then admitWord (.amominu (.ofNat 5 (fld w 20 5)) (.ofNat 5 (fld w 15 5)) (boolOf (fld w 12 1)) (.ofNat 5 (fld w 7 5))) else
  if fld w 13 2 = 1 ∧ fld w 25 2 = 0 ∧ fld w 27 5 = 6 then admitWord (.amomaxu (.ofNat 5 (fld w 20 5)) (.ofNat 5 (fld w 15 5)) (boolOf (fld w 12 1)) (.ofNat 5 (fld w 7 5))) else
  if fld w 13 2 = 1 ∧ fld w 25 2 = 0 ∧ fld w 27 5 = 7 then admitWord (.amoand (.ofNat 5 (fld w 20 5)) (.ofNat 5 (fld w 15 5)) (boolOf (fld w 12 1)) (.ofNat 5 (fld w 7 5))) else
  if fld w 13 2 = 1 ∧ fld w 25 2 = 0 ∧ fld w 27 5 = 8 then admitWord (.amoor (.ofNat 5 (fld w 20 5)) (.ofNat 5 (fld w 15 5)) (boolOf (fld w 12 1)) (.ofNat 5 (fld w 7 5))) else
  if fld w 13 2 = 1 ∧ fld w 25 2 = 0 ∧ fld w 27 5 = 9 then admitWord (.amoxor (.ofNat 5 (fld w 20 5)) (.ofNat 5 (fld w 15 5)) (boolOf (fld w 12 1)) (.ofNat 5 (fld w 7 5))) else
  .error .noSuchWord

/-- The words of major opcode 0x33 (R24 to R31). -/
noncomputable def decodeOp (w : Nat) : Except DecodeError Instr :=
  if fld w 12 3 = 0 ∧ fld w 25 2 = 0 ∧ fld w 27 5 = 0 then admitWord (.add (.ofNat 5 (fld w 20 5)) (.ofNat 5 (fld w 15 5)) (.ofNat 5 (fld w 7 5))) else
  if fld w 12 3 = 1 ∧ fld w 25 2 = 0 ∧ fld w 27 5 = 0 then admitWord (.sub (.ofNat 5 (fld w 20 5)) (.ofNat 5 (fld w 15 5)) (.ofNat 5 (fld w 7 5))) else
  if fld w 12 3 = 2 ∧ fld w 25 2 = 0 ∧ fld w 27 5 = 0 then admitWord (.mul (.ofNat 5 (fld w 20 5)) (.ofNat 5 (fld w 15 5)) (.ofNat 5 (fld w 7 5))) else
  if fld w 12 3 = 3 ∧ fld w 25 2 = 0 ∧ fld w 27 5 = 0 then admitWord (.mulh (.ofNat 5 (fld w 20 5)) (.ofNat 5 (fld w 15 5)) (.ofNat 5 (fld w 7 5))) else
  if fld w 12 3 = 4 ∧ fld w 25 2 = 0 ∧ fld w 27 5 = 0 then admitWord (.mulhu (.ofNat 5 (fld w 20 5)) (.ofNat 5 (fld w 15 5)) (.ofNat 5 (fld w 7 5))) else
  if fld w 12 3 = 5 ∧ fld w 25 2 = 0 ∧ fld w 27 5 = 0 then admitWord (.div (.ofNat 5 (fld w 20 5)) (.ofNat 5 (fld w 15 5)) (.ofNat 5 (fld w 7 5))) else
  if fld w 12 3 = 6 ∧ fld w 25 2 = 0 ∧ fld w 27 5 = 0 then admitWord (.divu (.ofNat 5 (fld w 20 5)) (.ofNat 5 (fld w 15 5)) (.ofNat 5 (fld w 7 5))) else
  if fld w 12 3 = 7 ∧ fld w 25 2 = 0 ∧ fld w 27 5 = 0 then admitWord (.rem (.ofNat 5 (fld w 20 5)) (.ofNat 5 (fld w 15 5)) (.ofNat 5 (fld w 7 5))) else
  if fld w 12 3 = 0 ∧ fld w 25 2 = 1 ∧ fld w 27 5 = 0 then admitWord (.remu (.ofNat 5 (fld w 20 5)) (.ofNat 5 (fld w 15 5)) (.ofNat 5 (fld w 7 5))) else
  if fld w 12 3 = 1 ∧ fld w 25 2 = 1 ∧ fld w 27 5 = 0 then admitWord (.sll (.ofNat 5 (fld w 20 5)) (.ofNat 5 (fld w 15 5)) (.ofNat 5 (fld w 7 5))) else
  if fld w 12 3 = 2 ∧ fld w 25 2 = 1 ∧ fld w 27 5 = 0 then admitWord (.srl (.ofNat 5 (fld w 20 5)) (.ofNat 5 (fld w 15 5)) (.ofNat 5 (fld w 7 5))) else
  if fld w 12 3 = 3 ∧ fld w 25 2 = 1 ∧ fld w 27 5 = 0 then admitWord (.sra (.ofNat 5 (fld w 20 5)) (.ofNat 5 (fld w 15 5)) (.ofNat 5 (fld w 7 5))) else
  if fld w 12 3 = 4 ∧ fld w 25 2 = 1 ∧ fld w 27 5 = 0 then admitWord (.and_ (.ofNat 5 (fld w 20 5)) (.ofNat 5 (fld w 15 5)) (.ofNat 5 (fld w 7 5))) else
  if fld w 12 3 = 5 ∧ fld w 25 2 = 1 ∧ fld w 27 5 = 0 then admitWord (.or_ (.ofNat 5 (fld w 20 5)) (.ofNat 5 (fld w 15 5)) (.ofNat 5 (fld w 7 5))) else
  if fld w 12 3 = 6 ∧ fld w 25 2 = 1 ∧ fld w 27 5 = 0 then admitWord (.xor_ (.ofNat 5 (fld w 20 5)) (.ofNat 5 (fld w 15 5)) (.ofNat 5 (fld w 7 5))) else
  if fld w 12 3 = 7 ∧ fld w 25 2 = 1 ∧ fld w 27 5 = 0 then admitWord (.min_ (.ofNat 5 (fld w 20 5)) (.ofNat 5 (fld w 15 5)) (.ofNat 5 (fld w 7 5))) else
  if fld w 12 3 = 0 ∧ fld w 25 2 = 2 ∧ fld w 27 5 = 0 then admitWord (.max_ (.ofNat 5 (fld w 20 5)) (.ofNat 5 (fld w 15 5)) (.ofNat 5 (fld w 7 5))) else
  if fld w 12 3 = 1 ∧ fld w 25 2 = 2 ∧ fld w 27 5 = 0 then admitWord (.minu (.ofNat 5 (fld w 20 5)) (.ofNat 5 (fld w 15 5)) (.ofNat 5 (fld w 7 5))) else
  if fld w 12 3 = 2 ∧ fld w 25 2 = 2 ∧ fld w 27 5 = 0 then admitWord (.maxu (.ofNat 5 (fld w 20 5)) (.ofNat 5 (fld w 15 5)) (.ofNat 5 (fld w 7 5))) else
  if fld w 12 3 = 3 ∧ fld w 25 2 = 2 ∧ fld w 27 5 = 0 then admitWord (.andn (.ofNat 5 (fld w 20 5)) (.ofNat 5 (fld w 15 5)) (.ofNat 5 (fld w 7 5))) else
  if fld w 12 3 = 4 ∧ fld w 20 5 = 0 ∧ fld w 25 2 = 2 ∧ fld w 27 5 = 0 then admitWord (.clz (.ofNat 5 (fld w 15 5)) (.ofNat 5 (fld w 7 5))) else
  if fld w 12 3 = 5 ∧ fld w 20 5 = 0 ∧ fld w 25 2 = 2 ∧ fld w 27 5 = 0 then admitWord (.ctz (.ofNat 5 (fld w 15 5)) (.ofNat 5 (fld w 7 5))) else
  if fld w 12 3 = 6 ∧ fld w 20 5 = 0 ∧ fld w 25 2 = 2 ∧ fld w 27 5 = 0 then admitWord (.cpop (.ofNat 5 (fld w 15 5)) (.ofNat 5 (fld w 7 5))) else
  if fld w 12 3 = 7 ∧ fld w 20 5 = 0 ∧ fld w 25 2 = 2 ∧ fld w 27 5 = 0 then admitWord (.sextb (.ofNat 5 (fld w 15 5)) (.ofNat 5 (fld w 7 5))) else
  if fld w 12 3 = 0 ∧ fld w 20 5 = 0 ∧ fld w 25 2 = 3 ∧ fld w 27 5 = 0 then admitWord (.sexth (.ofNat 5 (fld w 15 5)) (.ofNat 5 (fld w 7 5))) else
  if fld w 12 3 = 1 ∧ fld w 20 5 = 0 ∧ fld w 25 2 = 3 ∧ fld w 27 5 = 0 then admitWord (.zexth (.ofNat 5 (fld w 15 5)) (.ofNat 5 (fld w 7 5))) else
  .error .noSuchWord

/-- The words of major opcode 0x37 (R24 to R31). -/
noncomputable def decodeLui (w : Nat) : Except DecodeError Instr :=
  admitWord (.lui (.ofNat 20 (fld w 12 20)) (.ofNat 5 (fld w 7 5)))

/-- The words of major opcode 0x3B (R24 to R31). -/
def decodeCmp (w : Nat) : Except DecodeError Instr :=
  if fld w 12 3 = 0 ∧ fld w 25 2 = 0 ∧ fld w 27 5 = 0 then admitWord (.ceq (.ofNat 5 (fld w 20 5)) (.ofNat 5 (fld w 15 5)) (combineOf (fld w 10 2)) (.ofNat 3 (fld w 7 3))) else
  if fld w 12 3 = 1 ∧ fld w 25 2 = 0 ∧ fld w 27 5 = 0 then admitWord (.cne (.ofNat 5 (fld w 20 5)) (.ofNat 5 (fld w 15 5)) (combineOf (fld w 10 2)) (.ofNat 3 (fld w 7 3))) else
  if fld w 12 3 = 2 ∧ fld w 25 2 = 0 ∧ fld w 27 5 = 0 then admitWord (.clt (.ofNat 5 (fld w 20 5)) (.ofNat 5 (fld w 15 5)) (combineOf (fld w 10 2)) (.ofNat 3 (fld w 7 3))) else
  if fld w 12 3 = 3 ∧ fld w 25 2 = 0 ∧ fld w 27 5 = 0 then admitWord (.cge (.ofNat 5 (fld w 20 5)) (.ofNat 5 (fld w 15 5)) (combineOf (fld w 10 2)) (.ofNat 3 (fld w 7 3))) else
  if fld w 12 3 = 4 ∧ fld w 25 2 = 0 ∧ fld w 27 5 = 0 then admitWord (.cltu (.ofNat 5 (fld w 20 5)) (.ofNat 5 (fld w 15 5)) (combineOf (fld w 10 2)) (.ofNat 3 (fld w 7 3))) else
  if fld w 12 3 = 5 ∧ fld w 25 2 = 0 ∧ fld w 27 5 = 0 then admitWord (.cgeu (.ofNat 5 (fld w 20 5)) (.ofNat 5 (fld w 15 5)) (combineOf (fld w 10 2)) (.ofNat 3 (fld w 7 3))) else
  if fld w 12 3 = 6 ∧ fld w 19 1 = 0 ∧ fld w 24 1 = 0 ∧ fld w 25 2 = 0 ∧ fld w 27 5 = 0 then admitWord (.ccmb (combineOf (fld w 10 2)) (.ofNat 3 (fld w 7 3)) (boolOf (fld w 23 1)) (.ofNat 3 (fld w 20 3)) (boolOf (fld w 18 1)) (.ofNat 3 (fld w 15 3))) else
  if fld w 12 3 = 7 ∧ fld w 15 5 = 0 ∧ fld w 20 5 = 0 ∧ fld w 25 2 = 0 ∧ fld w 27 5 = 0 then admitWord (.crdx (.ofNat 5 (fld w 7 5))) else
  if fld w 7 5 = 0 ∧ fld w 12 3 = 0 ∧ fld w 20 5 = 0 ∧ fld w 25 2 = 1 ∧ fld w 27 5 = 0 then admitWord (.cwrx (.ofNat 5 (fld w 15 5))) else
  .error .noSuchWord

/-- The words of major opcode 0x43 (R24 to R31). -/
def decodeFmaf (w : Nat) : Except DecodeError Instr :=
  if fld w 12 3 = 0 then admitWord (.fmadd (.ofNat 5 (fld w 27 5)) (ffmtOf (fld w 25 2)) (.ofNat 5 (fld w 20 5)) (.ofNat 5 (fld w 15 5)) (.ofNat 5 (fld w 7 5))) else
  if fld w 12 3 = 1 then admitWord (.fmsub (.ofNat 5 (fld w 27 5)) (ffmtOf (fld w 25 2)) (.ofNat 5 (fld w 20 5)) (.ofNat 5 (fld w 15 5)) (.ofNat 5 (fld w 7 5))) else
  if fld w 12 3 = 2 then admitWord (.fnmadd (.ofNat 5 (fld w 27 5)) (ffmtOf (fld w 25 2)) (.ofNat 5 (fld w 20 5)) (.ofNat 5 (fld w 15 5)) (.ofNat 5 (fld w 7 5))) else
  if fld w 12 3 = 3 then admitWord (.fnmsub (.ofNat 5 (fld w 27 5)) (ffmtOf (fld w 25 2)) (.ofNat 5 (fld w 20 5)) (.ofNat 5 (fld w 15 5)) (.ofNat 5 (fld w 7 5))) else
  .error .noSuchWord

/-- The words of major opcode 0x47 (R24 to R31). -/
def decodeVcfg (w : Nat) : Except DecodeError Instr :=
  if fld w 12 3 = 0 ∧ fld w 25 2 = 0 ∧ fld w 27 5 = 0 then admitWord (.vsetvl (.ofNat 5 (fld w 20 5)) (.ofNat 5 (fld w 15 5)) (.ofNat 5 (fld w 7 5))) else
  if fld w 12 3 = 1 ∧ fld w 31 1 = 0 then admitWord (.vsetvli (.ofNat 11 (fld w 20 11)) (.ofNat 5 (fld w 15 5)) (.ofNat 5 (fld w 7 5))) else
  if fld w 7 5 = 0 ∧ fld w 12 3 = 2 ∧ fld w 15 5 = 0 ∧ fld w 31 1 = 0 then admitWord (.modet (.ofNat 11 (fld w 20 11))) else
  if fld w 7 5 = 0 ∧ fld w 12 3 = 3 ∧ fld w 15 5 = 0 ∧ fld w 20 5 = 0 ∧ fld w 25 2 = 0 ∧ fld w 27 5 = 0 then admitWord .modev else
  if fld w 12 3 = 4 ∧ fld w 15 5 = 0 ∧ fld w 25 2 = 0 ∧ fld w 27 5 = 0 then admitWord (.gdecl (.ofNat 5 (fld w 20 5)) (.ofNat 5 (fld w 7 5))) else
  if fld w 12 3 = 5 ∧ fld w 20 5 = 0 ∧ fld w 25 2 = 0 ∧ fld w 27 5 = 0 then admitWord (.gtag (.ofNat 5 (fld w 15 5)) (.ofNat 5 (fld w 7 5))) else
  if fld w 7 5 = 0 ∧ fld w 12 3 = 6 then admitWord (.vblk (.ofNat 12 (fld w 20 12)) (.ofNat 5 (fld w 15 5))) else
  if fld w 7 5 = 0 ∧ fld w 12 3 = 7 ∧ fld w 15 5 = 0 ∧ fld w 20 5 = 0 ∧ fld w 25 2 = 0 ∧ fld w 27 5 = 0 then admitWord .vjoin else
  .error .noSuchWord

/-- The words of major opcode 0x4B (R24 to R31). -/
def decodeVld (w : Nat) : Except DecodeError Instr :=
  if fld w 14 1 = 0 ∧ fld w 20 5 = 0 ∧ fld w 25 2 = 0 ∧ fld w 27 1 = 0 then admitWord (.vld (.ofNat 4 (fld w 28 4)) (.ofNat 5 (fld w 15 5)) (ewOf (fld w 12 2)) (.ofNat 5 (fld w 7 5))) else
  if fld w 14 1 = 0 ∧ fld w 25 2 = 2 ∧ fld w 27 1 = 0 then admitWord (.vlds (.ofNat 4 (fld w 28 4)) (.ofNat 5 (fld w 20 5)) (.ofNat 5 (fld w 15 5)) (ewOf (fld w 12 2)) (.ofNat 5 (fld w 7 5))) else
  if fld w 14 1 = 0 ∧ fld w 25 2 = 0 ∧ fld w 27 1 = 1 then admitWord (.vldx (.ofNat 4 (fld w 28 4)) (.ofNat 5 (fld w 20 5)) (.ofNat 5 (fld w 15 5)) (ewOf (fld w 12 2)) (.ofNat 5 (fld w 7 5))) else
  if fld w 12 3 = 4 ∧ fld w 20 5 = 0 ∧ fld w 25 2 = 0 ∧ fld w 27 1 = 0 then admitWord (.vldf (.ofNat 4 (fld w 28 4)) (.ofNat 5 (fld w 15 5)) (.ofNat 5 (fld w 7 5))) else
  if fld w 12 3 = 4 ∧ fld w 25 2 = 2 ∧ fld w 27 1 = 0 then admitWord (.vldfS (.ofNat 4 (fld w 28 4)) (.ofNat 5 (fld w 20 5)) (.ofNat 5 (fld w 15 5)) (.ofNat 5 (fld w 7 5))) else
  if fld w 12 3 = 4 ∧ fld w 25 2 = 0 ∧ fld w 27 1 = 1 then admitWord (.vldfX (.ofNat 4 (fld w 28 4)) (.ofNat 5 (fld w 20 5)) (.ofNat 5 (fld w 15 5)) (.ofNat 5 (fld w 7 5))) else
  if fld w 12 3 = 4 ∧ fld w 20 5 = 0 ∧ fld w 25 2 = 1 ∧ fld w 27 1 = 0 then admitWord (.vldr (.ofNat 4 (fld w 28 4)) (.ofNat 5 (fld w 15 5)) (.ofNat 5 (fld w 7 5))) else
  if fld w 12 3 = 4 ∧ fld w 25 2 = 3 ∧ fld w 27 1 = 0 then admitWord (.vldrS (.ofNat 4 (fld w 28 4)) (.ofNat 5 (fld w 20 5)) (.ofNat 5 (fld w 15 5)) (.ofNat 5 (fld w 7 5))) else
  if fld w 12 3 = 4 ∧ fld w 25 2 = 1 ∧ fld w 27 1 = 1 then admitWord (.vldrX (.ofNat 4 (fld w 28 4)) (.ofNat 5 (fld w 20 5)) (.ofNat 5 (fld w 15 5)) (.ofNat 5 (fld w 7 5))) else
  if fld w 12 3 = 5 ∧ fld w 20 5 = 0 ∧ fld w 25 2 = 0 ∧ fld w 27 1 = 0 then admitWord (.vldg (.ofNat 4 (fld w 28 4)) (.ofNat 5 (fld w 15 5)) (.ofNat 5 (fld w 7 5))) else
  if fld w 12 3 = 5 ∧ fld w 25 2 = 2 ∧ fld w 27 1 = 0 then admitWord (.vldgS (.ofNat 4 (fld w 28 4)) (.ofNat 5 (fld w 20 5)) (.ofNat 5 (fld w 15 5)) (.ofNat 5 (fld w 7 5))) else
  if fld w 12 3 = 5 ∧ fld w 25 2 = 0 ∧ fld w 27 1 = 1 then admitWord (.vldgX (.ofNat 4 (fld w 28 4)) (.ofNat 5 (fld w 20 5)) (.ofNat 5 (fld w 15 5)) (.ofNat 5 (fld w 7 5))) else
  if fld w 11 1 = 0 ∧ fld w 12 3 = 0 ∧ fld w 20 5 = 0 ∧ fld w 25 2 = 2 ∧ fld w 27 5 = 1 then admitWord (.vldP (.ofNat 5 (fld w 15 5)) (.ofNat 4 (fld w 7 4))) else
  if fld w 12 3 = 6 ∧ fld w 25 2 = 2 ∧ fld w 27 1 = 1 then admitWord (.texs (.ofNat 4 (fld w 28 4)) (.ofNat 5 (fld w 20 5)) (.ofNat 5 (fld w 15 5)) (.ofNat 5 (fld w 7 5))) else
  .error .noSuchWord

/-- The words of major opcode 0x4F (R24 to R31). -/
def decodeVst (w : Nat) : Except DecodeError Instr :=
  if fld w 14 1 = 0 ∧ fld w 20 5 = 0 ∧ fld w 25 2 = 0 ∧ fld w 27 1 = 0 then admitWord (.vst (.ofNat 4 (fld w 28 4)) (.ofNat 5 (fld w 15 5)) (ewOf (fld w 12 2)) (.ofNat 5 (fld w 7 5))) else
  if fld w 14 1 = 0 ∧ fld w 25 2 = 2 ∧ fld w 27 1 = 0 then admitWord (.vsts (.ofNat 4 (fld w 28 4)) (.ofNat 5 (fld w 20 5)) (.ofNat 5 (fld w 15 5)) (ewOf (fld w 12 2)) (.ofNat 5 (fld w 7 5))) else
  if fld w 14 1 = 0 ∧ fld w 25 2 = 0 ∧ fld w 27 1 = 1 then admitWord (.vstx (.ofNat 4 (fld w 28 4)) (.ofNat 5 (fld w 20 5)) (.ofNat 5 (fld w 15 5)) (ewOf (fld w 12 2)) (.ofNat 5 (fld w 7 5))) else
  if fld w 12 3 = 4 ∧ fld w 20 5 = 0 ∧ fld w 25 2 = 0 ∧ fld w 27 1 = 0 then admitWord (.vstF (.ofNat 4 (fld w 28 4)) (.ofNat 5 (fld w 15 5)) (.ofNat 5 (fld w 7 5))) else
  if fld w 12 3 = 4 ∧ fld w 25 2 = 2 ∧ fld w 27 1 = 0 then admitWord (.vstsF (.ofNat 4 (fld w 28 4)) (.ofNat 5 (fld w 20 5)) (.ofNat 5 (fld w 15 5)) (.ofNat 5 (fld w 7 5))) else
  if fld w 12 3 = 4 ∧ fld w 25 2 = 0 ∧ fld w 27 1 = 1 then admitWord (.vstxF (.ofNat 4 (fld w 28 4)) (.ofNat 5 (fld w 20 5)) (.ofNat 5 (fld w 15 5)) (.ofNat 5 (fld w 7 5))) else
  if fld w 12 3 = 4 ∧ fld w 20 5 = 0 ∧ fld w 25 2 = 1 ∧ fld w 27 1 = 0 then admitWord (.vstr (.ofNat 4 (fld w 28 4)) (.ofNat 5 (fld w 15 5)) (.ofNat 5 (fld w 7 5))) else
  if fld w 12 3 = 4 ∧ fld w 25 2 = 3 ∧ fld w 27 1 = 0 then admitWord (.vstrS (.ofNat 4 (fld w 28 4)) (.ofNat 5 (fld w 20 5)) (.ofNat 5 (fld w 15 5)) (.ofNat 5 (fld w 7 5))) else
  if fld w 12 3 = 4 ∧ fld w 25 2 = 1 ∧ fld w 27 1 = 1 then admitWord (.vstrX (.ofNat 4 (fld w 28 4)) (.ofNat 5 (fld w 20 5)) (.ofNat 5 (fld w 15 5)) (.ofNat 5 (fld w 7 5))) else
  if fld w 12 3 = 5 ∧ fld w 20 5 = 0 ∧ fld w 25 2 = 0 ∧ fld w 27 1 = 0 then admitWord (.vstg (.ofNat 4 (fld w 28 4)) (.ofNat 5 (fld w 15 5)) (.ofNat 5 (fld w 7 5))) else
  if fld w 12 3 = 5 ∧ fld w 25 2 = 2 ∧ fld w 27 1 = 0 then admitWord (.vstgS (.ofNat 4 (fld w 28 4)) (.ofNat 5 (fld w 20 5)) (.ofNat 5 (fld w 15 5)) (.ofNat 5 (fld w 7 5))) else
  if fld w 12 3 = 5 ∧ fld w 25 2 = 0 ∧ fld w 27 1 = 1 then admitWord (.vstgX (.ofNat 4 (fld w 28 4)) (.ofNat 5 (fld w 20 5)) (.ofNat 5 (fld w 15 5)) (.ofNat 5 (fld w 7 5))) else
  if fld w 11 1 = 0 ∧ fld w 12 3 = 0 ∧ fld w 20 5 = 0 ∧ fld w 25 2 = 2 ∧ fld w 27 5 = 1 then admitWord (.vstP (.ofNat 5 (fld w 15 5)) (.ofNat 4 (fld w 7 4))) else
  if fld w 14 1 = 0 ∧ fld w 25 2 = 2 ∧ fld w 27 1 = 1 then admitWord (.vscadd (.ofNat 4 (fld w 28 4)) (.ofNat 5 (fld w 20 5)) (.ofNat 5 (fld w 15 5)) (ewOf (fld w 12 2)) (.ofNat 5 (fld w 7 5))) else
  if fld w 12 3 = 6 ∧ fld w 25 2 = 2 ∧ fld w 27 1 = 1 then admitWord (.vstc (.ofNat 4 (fld w 28 4)) (.ofNat 5 (fld w 20 5)) (.ofNat 5 (fld w 15 5)) (.ofNat 5 (fld w 7 5))) else
  .error .noSuchWord

/-- The words of major opcode 0x53 (R24 to R31). -/
def decodeOpf (w : Nat) : Except DecodeError Instr :=
  if fld w 12 3 = 0 ∧ fld w 27 5 = 0 then admitWord (.fadd (ffmtOf (fld w 25 2)) (.ofNat 5 (fld w 20 5)) (.ofNat 5 (fld w 15 5)) (.ofNat 5 (fld w 7 5))) else
  if fld w 12 3 = 0 ∧ fld w 27 5 = 1 then admitWord (.fsub (ffmtOf (fld w 25 2)) (.ofNat 5 (fld w 20 5)) (.ofNat 5 (fld w 15 5)) (.ofNat 5 (fld w 7 5))) else
  if fld w 12 3 = 0 ∧ fld w 27 5 = 2 then admitWord (.fmul (ffmtOf (fld w 25 2)) (.ofNat 5 (fld w 20 5)) (.ofNat 5 (fld w 15 5)) (.ofNat 5 (fld w 7 5))) else
  if fld w 12 3 = 0 ∧ fld w 27 5 = 3 then admitWord (.fdiv (ffmtOf (fld w 25 2)) (.ofNat 5 (fld w 20 5)) (.ofNat 5 (fld w 15 5)) (.ofNat 5 (fld w 7 5))) else
  if fld w 12 3 = 0 ∧ fld w 20 5 = 0 ∧ fld w 27 5 = 4 then admitWord (.fsqrt (ffmtOf (fld w 25 2)) (.ofNat 5 (fld w 15 5)) (.ofNat 5 (fld w 7 5))) else
  if fld w 12 3 = 0 ∧ fld w 27 5 = 5 then admitWord (.fmin (ffmtOf (fld w 25 2)) (.ofNat 5 (fld w 20 5)) (.ofNat 5 (fld w 15 5)) (.ofNat 5 (fld w 7 5))) else
  if fld w 12 3 = 0 ∧ fld w 27 5 = 6 then admitWord (.fmax (ffmtOf (fld w 25 2)) (.ofNat 5 (fld w 20 5)) (.ofNat 5 (fld w 15 5)) (.ofNat 5 (fld w 7 5))) else
  if fld w 12 3 = 0 ∧ fld w 27 5 = 7 then admitWord (.fsgnj (ffmtOf (fld w 25 2)) (.ofNat 5 (fld w 20 5)) (.ofNat 5 (fld w 15 5)) (.ofNat 5 (fld w 7 5))) else
  if fld w 12 3 = 0 ∧ fld w 27 5 = 8 then admitWord (.fsgnjn (ffmtOf (fld w 25 2)) (.ofNat 5 (fld w 20 5)) (.ofNat 5 (fld w 15 5)) (.ofNat 5 (fld w 7 5))) else
  if fld w 12 3 = 0 ∧ fld w 27 5 = 9 then admitWord (.fsgnjx (ffmtOf (fld w 25 2)) (.ofNat 5 (fld w 20 5)) (.ofNat 5 (fld w 15 5)) (.ofNat 5 (fld w 7 5))) else
  if fld w 12 3 = 0 ∧ fld w 27 5 = 10 then admitWord (.fcvt (ffmtOf (fld w 25 2)) (.ofNat 5 (fld w 20 5)) (.ofNat 5 (fld w 15 5)) (.ofNat 5 (fld w 7 5))) else
  if fld w 12 3 = 0 ∧ fld w 20 5 = 0 ∧ fld w 27 5 = 11 then admitWord (.fmvxf (ffmtOf (fld w 25 2)) (.ofNat 5 (fld w 15 5)) (.ofNat 5 (fld w 7 5))) else
  if fld w 12 3 = 0 ∧ fld w 20 5 = 0 ∧ fld w 27 5 = 12 then admitWord (.fmvfx (ffmtOf (fld w 25 2)) (.ofNat 5 (fld w 15 5)) (.ofNat 5 (fld w 7 5))) else
  if fld w 12 3 = 0 ∧ fld w 20 5 = 0 ∧ fld w 27 5 = 13 then admitWord (.fclass (ffmtOf (fld w 25 2)) (.ofNat 5 (fld w 15 5)) (.ofNat 5 (fld w 7 5))) else
  if fld w 12 3 = 0 ∧ fld w 27 5 = 14 then admitWord (.fceq (ffmtOf (fld w 25 2)) (.ofNat 5 (fld w 20 5)) (.ofNat 5 (fld w 15 5)) (combineOf (fld w 10 2)) (.ofNat 3 (fld w 7 3))) else
  if fld w 12 3 = 0 ∧ fld w 27 5 = 15 then admitWord (.fclt (ffmtOf (fld w 25 2)) (.ofNat 5 (fld w 20 5)) (.ofNat 5 (fld w 15 5)) (combineOf (fld w 10 2)) (.ofNat 3 (fld w 7 3))) else
  if fld w 12 3 = 0 ∧ fld w 27 5 = 16 then admitWord (.fcle (ffmtOf (fld w 25 2)) (.ofNat 5 (fld w 20 5)) (.ofNat 5 (fld w 15 5)) (combineOf (fld w 10 2)) (.ofNat 3 (fld w 7 3))) else
  .error .noSuchWord

/-- The words of major opcode 0x57 (R24 to R31). -/
def decodeVopf (w : Nat) : Except DecodeError Instr :=
  if fld w 12 3 = 0 ∧ fld w 25 1 = 0 then admitWord (.vfadd (.ofNat 4 (fld w 28 4)) (formOf (fld w 26 2)) (.ofNat 5 (fld w 20 5)) (.ofNat 5 (fld w 15 5)) (.ofNat 5 (fld w 7 5))) else
  if fld w 12 3 = 1 ∧ fld w 25 1 = 0 then admitWord (.vfsub (.ofNat 4 (fld w 28 4)) (formOf (fld w 26 2)) (.ofNat 5 (fld w 20 5)) (.ofNat 5 (fld w 15 5)) (.ofNat 5 (fld w 7 5))) else
  if fld w 12 3 = 2 ∧ fld w 25 1 = 0 then admitWord (.vfmul (.ofNat 4 (fld w 28 4)) (formOf (fld w 26 2)) (.ofNat 5 (fld w 20 5)) (.ofNat 5 (fld w 15 5)) (.ofNat 5 (fld w 7 5))) else
  if fld w 12 3 = 3 ∧ fld w 25 1 = 0 then admitWord (.vfdiv (.ofNat 4 (fld w 28 4)) (formOf (fld w 26 2)) (.ofNat 5 (fld w 20 5)) (.ofNat 5 (fld w 15 5)) (.ofNat 5 (fld w 7 5))) else
  if fld w 12 3 = 4 ∧ fld w 15 5 = 0 ∧ fld w 25 2 = 0 ∧ fld w 27 1 = 0 then admitWord (.vfsqrt (.ofNat 4 (fld w 28 4)) (.ofNat 5 (fld w 20 5)) (.ofNat 5 (fld w 7 5))) else
  if fld w 12 3 = 5 ∧ fld w 25 1 = 0 then admitWord (.vfmacc (.ofNat 4 (fld w 28 4)) (formOf (fld w 26 2)) (.ofNat 5 (fld w 20 5)) (.ofNat 5 (fld w 15 5)) (.ofNat 5 (fld w 7 5))) else
  if fld w 12 3 = 6 ∧ fld w 25 1 = 0 then admitWord (.vfnmsac (.ofNat 4 (fld w 28 4)) (formOf (fld w 26 2)) (.ofNat 5 (fld w 20 5)) (.ofNat 5 (fld w 15 5)) (.ofNat 5 (fld w 7 5))) else
  if fld w 12 3 = 7 ∧ fld w 25 1 = 0 then admitWord (.vfmin (.ofNat 4 (fld w 28 4)) (formOf (fld w 26 2)) (.ofNat 5 (fld w 20 5)) (.ofNat 5 (fld w 15 5)) (.ofNat 5 (fld w 7 5))) else
  if fld w 12 3 = 0 ∧ fld w 25 1 = 1 then admitWord (.vfmax (.ofNat 4 (fld w 28 4)) (formOf (fld w 26 2)) (.ofNat 5 (fld w 20 5)) (.ofNat 5 (fld w 15 5)) (.ofNat 5 (fld w 7 5))) else
  if fld w 12 3 = 1 ∧ fld w 25 2 = 1 ∧ fld w 27 1 = 0 then admitWord (.vfcvt (.ofNat 4 (fld w 28 4)) (.ofNat 5 (fld w 20 5)) (.ofNat 5 (fld w 15 5)) (.ofNat 5 (fld w 7 5))) else
  if fld w 12 3 = 2 ∧ fld w 25 1 = 1 then admitWord (.vfsgnj (.ofNat 4 (fld w 28 4)) (formOf (fld w 26 2)) (.ofNat 5 (fld w 20 5)) (.ofNat 5 (fld w 15 5)) (.ofNat 5 (fld w 7 5))) else
  if fld w 12 3 = 3 ∧ fld w 15 5 = 0 ∧ fld w 25 2 = 1 ∧ fld w 27 1 = 0 then admitWord (.vfrsqrte (.ofNat 4 (fld w 28 4)) (.ofNat 5 (fld w 20 5)) (.ofNat 5 (fld w 7 5))) else
  if fld w 12 3 = 4 ∧ fld w 15 5 = 0 ∧ fld w 25 2 = 1 ∧ fld w 27 1 = 0 then admitWord (.vfclass (.ofNat 4 (fld w 28 4)) (.ofNat 5 (fld w 20 5)) (.ofNat 5 (fld w 7 5))) else
  if fld w 12 3 = 5 ∧ fld w 25 1 = 1 then admitWord (.vmix (.ofNat 4 (fld w 28 4)) (formOf (fld w 26 2)) (.ofNat 5 (fld w 20 5)) (.ofNat 5 (fld w 15 5)) (.ofNat 5 (fld w 7 5))) else
  if fld w 12 3 = 6 ∧ fld w 25 1 = 1 then admitWord (.vfdot4 (.ofNat 4 (fld w 28 4)) (formOf (fld w 26 2)) (.ofNat 5 (fld w 20 5)) (.ofNat 5 (fld w 15 5)) (.ofNat 5 (fld w 7 5))) else
  if fld w 12 3 = 7 ∧ fld w 25 1 = 1 then admitWord (.vfmerge (.ofNat 4 (fld w 28 4)) (formOf (fld w 26 2)) (.ofNat 5 (fld w 20 5)) (.ofNat 5 (fld w 15 5)) (.ofNat 5 (fld w 7 5))) else
  .error .noSuchWord

/-- The words of major opcode 0x5B (R24 to R31). -/
def decodeSync (w : Nat) : Except DecodeError Instr :=
  if fld w 7 5 = 0 ∧ fld w 12 3 = 0 ∧ fld w 15 5 = 0 ∧ fld w 20 5 = 0 ∧ fld w 25 2 = 0 ∧ fld w 27 5 = 0 then admitWord .fsv else
  if fld w 7 5 = 0 ∧ fld w 12 3 = 1 ∧ fld w 15 5 = 0 ∧ fld w 20 5 = 0 ∧ fld w 25 2 = 0 ∧ fld w 27 5 = 0 then admitWord .fvs else
  if fld w 7 5 = 0 ∧ fld w 12 3 = 2 ∧ fld w 15 5 = 0 ∧ fld w 20 5 = 0 ∧ fld w 25 2 = 0 ∧ fld w 27 5 = 0 then admitWord .fvv else
  if fld w 12 3 = 3 ∧ fld w 20 5 = 0 ∧ fld w 28 4 = 0 then admitWord (.barv (.ofNat 3 (fld w 25 3)) (.ofNat 5 (fld w 15 5)) (.ofNat 5 (fld w 7 5))) else
  if fld w 7 5 = 0 ∧ fld w 12 3 = 4 ∧ fld w 28 4 = 0 then admitWord (.bwait (.ofNat 3 (fld w 25 3)) (.ofNat 5 (fld w 20 5)) (.ofNat 5 (fld w 15 5))) else
  if fld w 7 5 = 0 ∧ fld w 12 3 = 5 ∧ fld w 28 4 = 0 then admitWord (.bset (.ofNat 3 (fld w 25 3)) (.ofNat 5 (fld w 20 5)) (.ofNat 5 (fld w 15 5))) else
  if fld w 7 5 = 0 ∧ fld w 12 3 = 6 ∧ fld w 28 4 = 0 then admitWord (.ifence (.ofNat 3 (fld w 25 3)) (.ofNat 5 (fld w 20 5)) (.ofNat 5 (fld w 15 5))) else
  if fld w 7 5 = 0 ∧ fld w 12 3 = 7 ∧ fld w 15 5 = 0 ∧ fld w 20 5 = 0 ∧ fld w 25 2 = 0 ∧ fld w 27 5 = 0 then admitWord .isync else
  if fld w 7 5 = 0 ∧ fld w 12 3 = 0 ∧ fld w 15 5 = 0 ∧ fld w 20 5 = 0 ∧ fld w 28 4 = 4 then admitWord (.dfence (.ofNat 3 (fld w 25 3))) else
  if fld w 12 3 = 1 ∧ fld w 25 2 = 0 ∧ fld w 27 5 = 8 then admitWord (.park (.ofNat 5 (fld w 20 5)) (.ofNat 5 (fld w 15 5)) (.ofNat 5 (fld w 7 5))) else
  if fld w 12 3 = 2 ∧ fld w 28 4 = 4 then admitWord (.wake (.ofNat 3 (fld w 25 3)) (.ofNat 5 (fld w 20 5)) (.ofNat 5 (fld w 15 5)) (.ofNat 5 (fld w 7 5))) else
  .error .noSuchWord

/-- The words of major opcode 0x5F (R24 to R31). -/
def decodeVperm (w : Nat) : Except DecodeError Instr :=
  if fld w 12 3 = 0 ∧ fld w 20 5 = 0 ∧ fld w 25 1 = 0 then admitWord (.vstep (.ofNat 4 (fld w 28 4)) (formOf (fld w 26 2)) (.ofNat 5 (fld w 15 5)) (.ofNat 5 (fld w 7 5))) else
  if fld w 12 3 = 1 ∧ fld w 25 1 = 0 then admitWord (.vxch (.ofNat 4 (fld w 28 4)) (formOf (fld w 26 2)) (.ofNat 5 (fld w 20 5)) (.ofNat 5 (fld w 15 5)) (.ofNat 5 (fld w 7 5))) else
  if fld w 12 3 = 2 ∧ fld w 25 1 = 0 then admitWord (.vslideup (.ofNat 4 (fld w 28 4)) (formOf (fld w 26 2)) (.ofNat 5 (fld w 20 5)) (.ofNat 5 (fld w 15 5)) (.ofNat 5 (fld w 7 5))) else
  if fld w 12 3 = 3 ∧ fld w 25 1 = 0 then admitWord (.vslidedn (.ofNat 4 (fld w 28 4)) (formOf (fld w 26 2)) (.ofNat 5 (fld w 20 5)) (.ofNat 5 (fld w 15 5)) (.ofNat 5 (fld w 7 5))) else
  if fld w 12 3 = 4 ∧ fld w 25 1 = 0 then admitWord (.vgather (.ofNat 4 (fld w 28 4)) (formOf (fld w 26 2)) (.ofNat 5 (fld w 20 5)) (.ofNat 5 (fld w 15 5)) (.ofNat 5 (fld w 7 5))) else
  if fld w 12 3 = 5 ∧ fld w 15 5 = 0 ∧ fld w 25 2 = 0 ∧ fld w 27 1 = 0 then admitWord (.vcompress (.ofNat 4 (fld w 28 4)) (.ofNat 5 (fld w 20 5)) (.ofNat 5 (fld w 7 5))) else
  if fld w 12 3 = 6 ∧ fld w 15 5 = 0 ∧ fld w 25 2 = 0 ∧ fld w 27 1 = 0 then admitWord (.vconf (.ofNat 4 (fld w 28 4)) (.ofNat 5 (fld w 20 5)) (.ofNat 5 (fld w 7 5))) else
  if fld w 12 3 = 7 ∧ fld w 25 1 = 0 then admitWord (.vreds (.ofNat 4 (fld w 28 4)) (formOf (fld w 26 2)) (.ofNat 5 (fld w 20 5)) (.ofNat 5 (fld w 15 5)) (.ofNat 5 (fld w 7 5))) else
  if fld w 12 3 = 0 ∧ fld w 25 1 = 1 then admitWord (.vfredo (.ofNat 4 (fld w 28 4)) (formOf (fld w 26 2)) (.ofNat 5 (fld w 20 5)) (.ofNat 5 (fld w 15 5)) (.ofNat 5 (fld w 7 5))) else
  if fld w 12 3 = 1 ∧ fld w 25 1 = 1 then admitWord (.vredmin (.ofNat 4 (fld w 28 4)) (formOf (fld w 26 2)) (.ofNat 5 (fld w 20 5)) (.ofNat 5 (fld w 15 5)) (.ofNat 5 (fld w 7 5))) else
  if fld w 12 3 = 2 ∧ fld w 25 1 = 1 then admitWord (.vredmax (.ofNat 4 (fld w 28 4)) (formOf (fld w 26 2)) (.ofNat 5 (fld w 20 5)) (.ofNat 5 (fld w 15 5)) (.ofNat 5 (fld w 7 5))) else
  if fld w 12 3 = 3 ∧ fld w 25 1 = 1 ∧ fld w 28 4 = 0 then admitWord (.vmvxs (formOf (fld w 26 2)) (.ofNat 5 (fld w 20 5)) (.ofNat 5 (fld w 15 5)) (.ofNat 5 (fld w 7 5))) else
  if fld w 12 3 = 4 ∧ fld w 20 5 = 0 ∧ fld w 25 1 = 1 ∧ fld w 28 4 = 0 then admitWord (.vmvsx (formOf (fld w 26 2)) (.ofNat 5 (fld w 15 5)) (.ofNat 5 (fld w 7 5))) else
  if fld w 12 3 = 5 ∧ fld w 15 5 = 0 ∧ fld w 24 1 = 0 ∧ fld w 25 2 = 1 ∧ fld w 27 1 = 0 then admitWord (.vpopc (.ofNat 4 (fld w 28 4)) (.ofNat 4 (fld w 20 4)) (.ofNat 5 (fld w 7 5))) else
  if fld w 12 3 = 6 ∧ fld w 15 5 = 0 ∧ fld w 24 1 = 0 ∧ fld w 25 2 = 1 ∧ fld w 27 1 = 0 then admitWord (.vfirst (.ofNat 4 (fld w 28 4)) (.ofNat 4 (fld w 20 4)) (.ofNat 5 (fld w 7 5))) else
  .error .noSuchWord

/-- The words of major opcode 0x63 (R24 to R31). -/
def decodeBc (w : Nat) : Except DecodeError Instr :=
  if fld w 7 1 = 0 ∧ fld w 11 1 = 1 ∧ fld w 21 1 = 0 then admitWord (.bc (.ofNat 3 (fld w 8 3)) (.ofNat 19 (fld w 31 1 * 262144 + fld w 12 8 * 1024 + fld w 20 1 * 512 + fld w 22 9))) else
  if fld w 7 1 = 0 ∧ fld w 11 1 = 0 ∧ fld w 21 1 = 0 then admitWord (.bcn (.ofNat 3 (fld w 8 3)) (.ofNat 19 (fld w 31 1 * 262144 + fld w 12 8 * 1024 + fld w 20 1 * 512 + fld w 22 9))) else
  .error .noSuchWord

/-- The words of major opcode 0x67 (R24 to R31). -/
def decodeJalr (w : Nat) : Except DecodeError Instr :=
  if fld w 12 3 = 0 then admitWord (.jalr (.ofNat 12 (fld w 20 12)) (.ofNat 5 (fld w 15 5)) (.ofNat 5 (fld w 7 5))) else
  .error .noSuchWord

/-- The words of major opcode 0x6B (R24 to R31). -/
def decodeGraded (w : Nat) : Except DecodeError Instr :=
  if fld w 25 2 = 0 ∧ fld w 27 1 = 0 then admitWord (.gp (.ofNat 4 (fld w 28 4)) (.ofNat 5 (fld w 20 5)) (.ofNat 5 (fld w 15 5)) (boolOf (fld w 14 1)) (boolOf (fld w 13 1)) (boolOf (fld w 12 1)) (.ofNat 5 (fld w 7 5))) else
  if fld w 25 2 = 1 ∧ fld w 27 1 = 0 then admitWord (.gwedge (.ofNat 4 (fld w 28 4)) (.ofNat 5 (fld w 20 5)) (.ofNat 5 (fld w 15 5)) (boolOf (fld w 14 1)) (boolOf (fld w 13 1)) (boolOf (fld w 12 1)) (.ofNat 5 (fld w 7 5))) else
  if fld w 25 2 = 2 ∧ fld w 27 1 = 0 then admitWord (.gjoin (.ofNat 4 (fld w 28 4)) (.ofNat 5 (fld w 20 5)) (.ofNat 5 (fld w 15 5)) (boolOf (fld w 14 1)) (boolOf (fld w 13 1)) (boolOf (fld w 12 1)) (.ofNat 5 (fld w 7 5))) else
  if fld w 25 2 = 3 ∧ fld w 27 1 = 0 then admitWord (.gldot (.ofNat 4 (fld w 28 4)) (.ofNat 5 (fld w 20 5)) (.ofNat 5 (fld w 15 5)) (boolOf (fld w 14 1)) (boolOf (fld w 13 1)) (boolOf (fld w 12 1)) (.ofNat 5 (fld w 7 5))) else
  if fld w 25 2 = 0 ∧ fld w 27 1 = 1 then admitWord (.gsand (.ofNat 4 (fld w 28 4)) (.ofNat 5 (fld w 20 5)) (.ofNat 5 (fld w 15 5)) (boolOf (fld w 14 1)) (boolOf (fld w 13 1)) (boolOf (fld w 12 1)) (.ofNat 5 (fld w 7 5))) else
  if fld w 25 2 = 1 ∧ fld w 27 1 = 1 then admitWord (.gcomm (.ofNat 4 (fld w 28 4)) (.ofNat 5 (fld w 20 5)) (.ofNat 5 (fld w 15 5)) (boolOf (fld w 14 1)) (boolOf (fld w 13 1)) (boolOf (fld w 12 1)) (.ofNat 5 (fld w 7 5))) else
  if fld w 13 1 = 0 ∧ fld w 25 2 = 2 ∧ fld w 27 1 = 1 then admitWord (.gproj (.ofNat 4 (fld w 28 4)) (.ofNat 5 (fld w 20 5)) (.ofNat 5 (fld w 15 5)) (boolOf (fld w 14 1)) (boolOf (fld w 12 1)) (.ofNat 5 (fld w 7 5))) else
  if fld w 13 1 = 0 ∧ fld w 20 5 = 0 ∧ fld w 25 2 = 3 ∧ fld w 27 1 = 1 then admitWord (.grev (.ofNat 4 (fld w 28 4)) (.ofNat 5 (fld w 15 5)) (boolOf (fld w 14 1)) (boolOf (fld w 12 1)) (.ofNat 5 (fld w 7 5))) else
  if fld w 13 1 = 0 ∧ fld w 20 5 = 1 ∧ fld w 25 2 = 3 ∧ fld w 27 1 = 1 then admitWord (.ginvol (.ofNat 4 (fld w 28 4)) (.ofNat 5 (fld w 15 5)) (boolOf (fld w 14 1)) (boolOf (fld w 12 1)) (.ofNat 5 (fld w 7 5))) else
  if fld w 13 1 = 0 ∧ fld w 20 5 = 2 ∧ fld w 25 2 = 3 ∧ fld w 27 1 = 1 then admitWord (.gdual (.ofNat 4 (fld w 28 4)) (.ofNat 5 (fld w 15 5)) (boolOf (fld w 14 1)) (boolOf (fld w 12 1)) (.ofNat 5 (fld w 7 5))) else
  if fld w 13 1 = 0 ∧ fld w 20 5 = 3 ∧ fld w 25 2 = 3 ∧ fld w 27 1 = 1 then admitWord (.gnormsq (.ofNat 4 (fld w 28 4)) (.ofNat 5 (fld w 15 5)) (boolOf (fld w 14 1)) (boolOf (fld w 12 1)) (.ofNat 5 (fld w 7 5))) else
  if fld w 13 1 = 0 ∧ fld w 20 5 = 4 ∧ fld w 25 2 = 3 ∧ fld w 27 1 = 1 then admitWord (.gnorm (.ofNat 4 (fld w 28 4)) (.ofNat 5 (fld w 15 5)) (boolOf (fld w 14 1)) (boolOf (fld w 12 1)) (.ofNat 5 (fld w 7 5))) else
  if fld w 13 1 = 0 ∧ fld w 20 5 = 5 ∧ fld w 25 2 = 3 ∧ fld w 27 1 = 1 then admitWord (.gnormz (.ofNat 4 (fld w 28 4)) (.ofNat 5 (fld w 15 5)) (boolOf (fld w 14 1)) (boolOf (fld w 12 1)) (.ofNat 5 (fld w 7 5))) else
  if fld w 13 1 = 0 ∧ fld w 20 5 = 6 ∧ fld w 25 2 = 3 ∧ fld w 27 1 = 1 then admitWord (.gexp (.ofNat 4 (fld w 28 4)) (.ofNat 5 (fld w 15 5)) (boolOf (fld w 14 1)) (boolOf (fld w 12 1)) (.ofNat 5 (fld w 7 5))) else
  if fld w 13 1 = 0 ∧ fld w 20 5 = 7 ∧ fld w 25 2 = 3 ∧ fld w 27 1 = 1 then admitWord (.glog (.ofNat 4 (fld w 28 4)) (.ofNat 5 (fld w 15 5)) (boolOf (fld w 14 1)) (boolOf (fld w 12 1)) (.ofNat 5 (fld w 7 5))) else
  if fld w 13 1 = 0 ∧ fld w 20 5 = 8 ∧ fld w 25 2 = 3 ∧ fld w 27 1 = 1 then admitWord (.gsqrt (.ofNat 4 (fld w 28 4)) (.ofNat 5 (fld w 15 5)) (boolOf (fld w 14 1)) (boolOf (fld w 12 1)) (.ofNat 5 (fld w 7 5))) else
  if fld w 13 1 = 0 ∧ fld w 20 5 = 9 ∧ fld w 25 2 = 3 ∧ fld w 27 1 = 1 then admitWord (.ginv (.ofNat 4 (fld w 28 4)) (.ofNat 5 (fld w 15 5)) (boolOf (fld w 14 1)) (boolOf (fld w 12 1)) (.ofNat 5 (fld w 7 5))) else
  .error .noSuchWord

/-- The words of major opcode 0x6F (R24 to R31). -/
def decodeJal (w : Nat) : Except DecodeError Instr :=
  if fld w 21 1 = 0 then admitWord (.jal (.ofNat 5 (fld w 7 5)) (.ofNat 19 (fld w 31 1 * 262144 + fld w 12 8 * 1024 + fld w 20 1 * 512 + fld w 22 9))) else
  .error .noSuchWord

/-- The words of major opcode 0x73 (R24 to R31). -/
def decodeSystem (w : Nat) : Except DecodeError Instr :=
  if fld w 7 5 = 0 ∧ fld w 12 3 = 0 ∧ fld w 15 5 = 0 ∧ fld w 20 5 = 0 ∧ fld w 25 2 = 0 ∧ fld w 27 5 = 0 then admitWord .scall else
  if fld w 7 5 = 0 ∧ fld w 12 3 = 0 ∧ fld w 15 5 = 0 ∧ fld w 20 5 = 1 ∧ fld w 25 2 = 0 ∧ fld w 27 5 = 0 then admitWord .sbrk else
  if fld w 7 5 = 0 ∧ fld w 12 3 = 0 ∧ fld w 15 5 = 0 ∧ fld w 20 5 = 2 ∧ fld w 25 2 = 0 ∧ fld w 27 5 = 0 then admitWord .sret else
  if fld w 7 5 = 0 ∧ fld w 12 3 = 0 ∧ fld w 15 5 = 0 ∧ fld w 20 5 = 3 ∧ fld w 25 2 = 0 ∧ fld w 27 5 = 0 then admitWord .wfe else
  if fld w 7 5 = 0 ∧ fld w 12 3 = 0 ∧ fld w 15 5 = 0 ∧ fld w 20 5 = 4 ∧ fld w 25 2 = 0 ∧ fld w 27 5 = 0 then admitWord .halt else
  if fld w 7 5 = 0 ∧ fld w 12 3 = 0 ∧ fld w 20 5 = 5 ∧ fld w 25 2 = 0 ∧ fld w 27 5 = 0 then admitWord (.atcinv (.ofNat 5 (fld w 15 5))) else
  if fld w 12 3 = 1 ∧ fld w 15 5 = 0 then admitWord (.srd (.ofNat 12 (fld w 20 12)) (.ofNat 5 (fld w 7 5))) else
  if fld w 7 5 = 0 ∧ fld w 12 3 = 2 then admitWord (.swr (.ofNat 12 (fld w 20 12)) (.ofNat 5 (fld w 15 5))) else
  if fld w 7 5 = 0 ∧ fld w 12 3 = 3 then admitWord (.sset (.ofNat 12 (fld w 20 12)) (.ofNat 5 (fld w 15 5))) else
  if fld w 7 5 = 0 ∧ fld w 12 3 = 4 then admitWord (.sclr (.ofNat 12 (fld w 20 12)) (.ofNat 5 (fld w 15 5))) else
  .error .noSuchWord

/-- The words of major opcode 0x77 (R24 to R31). -/
def decodeVpred (w : Nat) : Except DecodeError Instr :=
  if fld w 11 1 = 0 ∧ fld w 12 3 = 0 ∧ fld w 19 1 = 0 ∧ fld w 24 1 = 0 ∧ fld w 25 2 = 0 ∧ fld w 27 1 = 0 then admitWord (.pand (.ofNat 4 (fld w 28 4)) (.ofNat 4 (fld w 20 4)) (.ofNat 4 (fld w 15 4)) (.ofNat 4 (fld w 7 4))) else
  if fld w 11 1 = 0 ∧ fld w 12 3 = 1 ∧ fld w 19 1 = 0 ∧ fld w 24 1 = 0 ∧ fld w 25 2 = 0 ∧ fld w 27 1 = 0 then admitWord (.por (.ofNat 4 (fld w 28 4)) (.ofNat 4 (fld w 20 4)) (.ofNat 4 (fld w 15 4)) (.ofNat 4 (fld w 7 4))) else
  if fld w 11 1 = 0 ∧ fld w 12 3 = 2 ∧ fld w 19 1 = 0 ∧ fld w 24 1 = 0 ∧ fld w 25 2 = 0 ∧ fld w 27 1 = 0 then admitWord (.pxor (.ofNat 4 (fld w 28 4)) (.ofNat 4 (fld w 20 4)) (.ofNat 4 (fld w 15 4)) (.ofNat 4 (fld w 7 4))) else
  if fld w 11 1 = 0 ∧ fld w 12 3 = 3 ∧ fld w 19 1 = 0 ∧ fld w 24 1 = 0 ∧ fld w 25 2 = 0 ∧ fld w 27 1 = 0 then admitWord (.pandn (.ofNat 4 (fld w 28 4)) (.ofNat 4 (fld w 20 4)) (.ofNat 4 (fld w 15 4)) (.ofNat 4 (fld w 7 4))) else
  if fld w 11 1 = 0 ∧ fld w 12 3 = 4 ∧ fld w 15 5 = 0 ∧ fld w 24 1 = 0 ∧ fld w 25 2 = 0 ∧ fld w 27 1 = 0 then admitWord (.pnot (.ofNat 4 (fld w 28 4)) (.ofNat 4 (fld w 20 4)) (.ofNat 4 (fld w 7 4))) else
  if fld w 11 1 = 0 ∧ fld w 12 3 = 5 ∧ fld w 15 5 = 0 ∧ fld w 20 5 = 0 ∧ fld w 25 2 = 0 ∧ fld w 27 1 = 0 then admitWord (.pset (.ofNat 4 (fld w 28 4)) (.ofNat 4 (fld w 7 4))) else
  if fld w 11 1 = 0 ∧ fld w 12 3 = 6 ∧ fld w 15 5 = 0 ∧ fld w 20 5 = 0 ∧ fld w 25 2 = 0 ∧ fld w 27 1 = 0 then admitWord (.pclr (.ofNat 4 (fld w 28 4)) (.ofNat 4 (fld w 7 4))) else
  if fld w 11 1 = 0 ∧ fld w 12 3 = 7 ∧ fld w 25 1 = 0 then admitWord (.vcmpeq (.ofNat 4 (fld w 28 4)) (formOf (fld w 26 2)) (.ofNat 5 (fld w 20 5)) (.ofNat 5 (fld w 15 5)) (.ofNat 4 (fld w 7 4))) else
  if fld w 11 1 = 0 ∧ fld w 12 3 = 0 ∧ fld w 25 1 = 1 then admitWord (.vcmpne (.ofNat 4 (fld w 28 4)) (formOf (fld w 26 2)) (.ofNat 5 (fld w 20 5)) (.ofNat 5 (fld w 15 5)) (.ofNat 4 (fld w 7 4))) else
  if fld w 11 1 = 0 ∧ fld w 12 3 = 1 ∧ fld w 25 1 = 1 then admitWord (.vcmplt (.ofNat 4 (fld w 28 4)) (formOf (fld w 26 2)) (.ofNat 5 (fld w 20 5)) (.ofNat 5 (fld w 15 5)) (.ofNat 4 (fld w 7 4))) else
  if fld w 11 1 = 0 ∧ fld w 12 3 = 2 ∧ fld w 25 1 = 1 then admitWord (.vcmpltu (.ofNat 4 (fld w 28 4)) (formOf (fld w 26 2)) (.ofNat 5 (fld w 20 5)) (.ofNat 5 (fld w 15 5)) (.ofNat 4 (fld w 7 4))) else
  if fld w 11 1 = 0 ∧ fld w 12 3 = 3 ∧ fld w 25 1 = 1 then admitWord (.vcmpge (.ofNat 4 (fld w 28 4)) (formOf (fld w 26 2)) (.ofNat 5 (fld w 20 5)) (.ofNat 5 (fld w 15 5)) (.ofNat 4 (fld w 7 4))) else
  if fld w 11 1 = 0 ∧ fld w 12 3 = 4 ∧ fld w 25 1 = 1 then admitWord (.vfcmpeq (.ofNat 4 (fld w 28 4)) (formOf (fld w 26 2)) (.ofNat 5 (fld w 20 5)) (.ofNat 5 (fld w 15 5)) (.ofNat 4 (fld w 7 4))) else
  if fld w 11 1 = 0 ∧ fld w 12 3 = 5 ∧ fld w 25 1 = 1 then admitWord (.vfcmplt (.ofNat 4 (fld w 28 4)) (formOf (fld w 26 2)) (.ofNat 5 (fld w 20 5)) (.ofNat 5 (fld w 15 5)) (.ofNat 4 (fld w 7 4))) else
  if fld w 11 1 = 0 ∧ fld w 12 3 = 6 ∧ fld w 25 1 = 1 then admitWord (.vfcmple (.ofNat 4 (fld w 28 4)) (formOf (fld w 26 2)) (.ofNat 5 (fld w 20 5)) (.ofNat 5 (fld w 15 5)) (.ofNat 4 (fld w 7 4))) else
  if fld w 11 1 = 0 ∧ fld w 12 3 = 7 ∧ fld w 19 1 = 0 ∧ fld w 24 1 = 0 ∧ fld w 25 2 = 1 ∧ fld w 27 1 = 0 then admitWord (.pmerge (.ofNat 4 (fld w 28 4)) (.ofNat 4 (fld w 20 4)) (.ofNat 4 (fld w 15 4)) (.ofNat 4 (fld w 7 4))) else
  .error .noSuchWord

/-- The major-opcode map (R24) but for 0x33 and 0x37: bits [6:0] choose the list of words. -/
def decodeOther (v : Word) : Except DecodeError Instr :=
  let w := v.toNat
  match fld w 0 7 with
  | 0x03 => decodeLd w
  | 0x07 => decodeLdf w
  | 0x0B => decodeTensor w
  | 0x0F => decodeMisc w
  | 0x13 => decodeOpi w
  | 0x17 => decodeAuipc w
  | 0x1B => decodeCmpi w
  | 0x1F => decodeVopi w
  | 0x23 => decodeSt w
  | 0x27 => decodeStf w
  | 0x2B => decodeMessage w
  | 0x2F => decodeAmo w
  | 0x3B => decodeCmp w
  | 0x43 => decodeFmaf w
  | 0x47 => decodeVcfg w
  | 0x4B => decodeVld w
  | 0x4F => decodeVst w
  | 0x53 => decodeOpf w
  | 0x57 => decodeVopf w
  | 0x5B => decodeSync w
  | 0x5F => decodeVperm w
  | 0x63 => decodeBc w
  | 0x67 => decodeJalr w
  | 0x6B => decodeGraded w
  | 0x6F => decodeJal w
  | 0x73 => decodeSystem w
  | 0x77 => decodeVpred w
  | _ => if fld w 0 2 = 3 then .error .illegalOpcode else .error .notAnInstruction

/-- The major-opcode map (R24). -/
noncomputable def decodeWord (v : Word) : Except DecodeError Instr :=
  if fld v.toNat 0 7 = 0x33 then decodeOp v.toNat else
  if fld v.toNat 0 7 = 0x37 then decodeLui v.toNat else decodeOther v

/-- The instruction of any bytes: the first four, little-endian (R13), with the bytes that follow. -/
noncomputable def decodeBytes : List Byte → Except DecodeError (Instr × List Byte)
  | b0 :: b1 :: b2 :: b3 :: rest =>
    match decodeWord (BitVec.ofNat 32 (ofBytes [b0, b1, b2, b3])) with
    | .ok i => .ok (i, rest)
    | .error e => .error e
  | _ => .error .notAnInstruction

/-- The instruction that the decoder reads from a table word (`nbits` bits, the bits above zero). -/
noncomputable def decodeTableWord (nbits w : Nat) : Option Instr :=
  match decodeBytes (toBytes 4 (w % 2 ^ nbits)) with
  | .ok (i, _) => some i
  | .error _ => none

/-- The code of a form (R19). -/
def formCode : Form → Nat
  | .vv => 0
  | .vx => 1
  | .vf => 2
  | .vi => 3

/-- The code of a combine mode (R18). -/
def combineCode : Combine → Nat
  | .set => 0
  | .and => 1
  | .or => 2
  | .xor => 3

/-- The code of an access width (R20). -/
def ewCode : EW → Nat
  | .e8 => 0
  | .e16 => 1
  | .e32 => 2
  | .e64 => 3

/-- The code of a one-bit field. -/
def boolCode (b : Bool) : Nat := if b then 1 else 0

/-- The number that the encoding tables give a word of the table (0 for an event, which has no word). -/
def encodeNat : Instr → Nat
  | .add rs2 rs1 rd => 0x00000033 + rs2.toNat * 1048576 + rs1.toNat * 32768 + rd.toNat * 128
  | .sub rs2 rs1 rd => 0x00001033 + rs2.toNat * 1048576 + rs1.toNat * 32768 + rd.toNat * 128
  | .mul rs2 rs1 rd => 0x00002033 + rs2.toNat * 1048576 + rs1.toNat * 32768 + rd.toNat * 128
  | .mulh rs2 rs1 rd => 0x00003033 + rs2.toNat * 1048576 + rs1.toNat * 32768 + rd.toNat * 128
  | .mulhu rs2 rs1 rd => 0x00004033 + rs2.toNat * 1048576 + rs1.toNat * 32768 + rd.toNat * 128
  | .div rs2 rs1 rd => 0x00005033 + rs2.toNat * 1048576 + rs1.toNat * 32768 + rd.toNat * 128
  | .divu rs2 rs1 rd => 0x00006033 + rs2.toNat * 1048576 + rs1.toNat * 32768 + rd.toNat * 128
  | .rem rs2 rs1 rd => 0x00007033 + rs2.toNat * 1048576 + rs1.toNat * 32768 + rd.toNat * 128
  | .remu rs2 rs1 rd => 0x02000033 + rs2.toNat * 1048576 + rs1.toNat * 32768 + rd.toNat * 128
  | .sll rs2 rs1 rd => 0x02001033 + rs2.toNat * 1048576 + rs1.toNat * 32768 + rd.toNat * 128
  | .srl rs2 rs1 rd => 0x02002033 + rs2.toNat * 1048576 + rs1.toNat * 32768 + rd.toNat * 128
  | .sra rs2 rs1 rd => 0x02003033 + rs2.toNat * 1048576 + rs1.toNat * 32768 + rd.toNat * 128
  | .and_ rs2 rs1 rd => 0x02004033 + rs2.toNat * 1048576 + rs1.toNat * 32768 + rd.toNat * 128
  | .or_ rs2 rs1 rd => 0x02005033 + rs2.toNat * 1048576 + rs1.toNat * 32768 + rd.toNat * 128
  | .xor_ rs2 rs1 rd => 0x02006033 + rs2.toNat * 1048576 + rs1.toNat * 32768 + rd.toNat * 128
  | .min_ rs2 rs1 rd => 0x02007033 + rs2.toNat * 1048576 + rs1.toNat * 32768 + rd.toNat * 128
  | .max_ rs2 rs1 rd => 0x04000033 + rs2.toNat * 1048576 + rs1.toNat * 32768 + rd.toNat * 128
  | .minu rs2 rs1 rd => 0x04001033 + rs2.toNat * 1048576 + rs1.toNat * 32768 + rd.toNat * 128
  | .maxu rs2 rs1 rd => 0x04002033 + rs2.toNat * 1048576 + rs1.toNat * 32768 + rd.toNat * 128
  | .andn rs2 rs1 rd => 0x04003033 + rs2.toNat * 1048576 + rs1.toNat * 32768 + rd.toNat * 128
  | .clz rs1 rd => 0x04004033 + rs1.toNat * 32768 + rd.toNat * 128
  | .ctz rs1 rd => 0x04005033 + rs1.toNat * 32768 + rd.toNat * 128
  | .cpop rs1 rd => 0x04006033 + rs1.toNat * 32768 + rd.toNat * 128
  | .sextb rs1 rd => 0x04007033 + rs1.toNat * 32768 + rd.toNat * 128
  | .sexth rs1 rd => 0x06000033 + rs1.toNat * 32768 + rd.toNat * 128
  | .zexth rs1 rd => 0x06001033 + rs1.toNat * 32768 + rd.toNat * 128
  | .addi imm rs1 rd => 0x00000013 + imm.toNat * 1048576 + rs1.toNat * 32768 + rd.toNat * 128
  | .slli sh rs1 rd => 0x00001013 + sh.toNat * 1048576 + rs1.toNat * 32768 + rd.toNat * 128
  | .srli sh rs1 rd => 0x00002013 + sh.toNat * 1048576 + rs1.toNat * 32768 + rd.toNat * 128
  | .srai sh rs1 rd => 0x00003013 + sh.toNat * 1048576 + rs1.toNat * 32768 + rd.toNat * 128
  | .andi imm rs1 rd => 0x00004013 + imm.toNat * 1048576 + rs1.toNat * 32768 + rd.toNat * 128
  | .ori imm rs1 rd => 0x00005013 + imm.toNat * 1048576 + rs1.toNat * 32768 + rd.toNat * 128
  | .xori imm rs1 rd => 0x00006013 + imm.toNat * 1048576 + rs1.toNat * 32768 + rd.toNat * 128
  | .lui imm rd => 0x00000037 + imm.toNat * 4096 + rd.toNat * 128
  | .auipc imm rd => 0x00000017 + imm.toNat * 4096 + rd.toNat * 128
  | .ceq rs2 rs1 mode cd => 0x0000003B + rs2.toNat * 1048576 + rs1.toNat * 32768 + combineCode mode * 1024 + cd.toNat * 128
  | .cne rs2 rs1 mode cd => 0x0000103B + rs2.toNat * 1048576 + rs1.toNat * 32768 + combineCode mode * 1024 + cd.toNat * 128
  | .clt rs2 rs1 mode cd => 0x0000203B + rs2.toNat * 1048576 + rs1.toNat * 32768 + combineCode mode * 1024 + cd.toNat * 128
  | .cge rs2 rs1 mode cd => 0x0000303B + rs2.toNat * 1048576 + rs1.toNat * 32768 + combineCode mode * 1024 + cd.toNat * 128
  | .cltu rs2 rs1 mode cd => 0x0000403B + rs2.toNat * 1048576 + rs1.toNat * 32768 + combineCode mode * 1024 + cd.toNat * 128
  | .cgeu rs2 rs1 mode cd => 0x0000503B + rs2.toNat * 1048576 + rs1.toNat * 32768 + combineCode mode * 1024 + cd.toNat * 128
  | .ccmb mode cd nb cb na ca => 0x0000603B + combineCode mode * 1024 + cd.toNat * 128 + boolCode nb * 8388608 + cb.toNat * 1048576 + boolCode na * 262144 + ca.toNat * 32768
  | .crdx rd => 0x0000703B + rd.toNat * 128
  | .cwrx rs1 => 0x0200003B + rs1.toNat * 32768
  | .ceqi imm rs1 mode cd => 0x0000001B + imm.toNat * 1048576 + rs1.toNat * 32768 + combineCode mode * 1024 + cd.toNat * 128
  | .cnei imm rs1 mode cd => 0x0000101B + imm.toNat * 1048576 + rs1.toNat * 32768 + combineCode mode * 1024 + cd.toNat * 128
  | .clti imm rs1 mode cd => 0x0000201B + imm.toNat * 1048576 + rs1.toNat * 32768 + combineCode mode * 1024 + cd.toNat * 128
  | .cgei imm rs1 mode cd => 0x0000301B + imm.toNat * 1048576 + rs1.toNat * 32768 + combineCode mode * 1024 + cd.toNat * 128
  | .cltui imm rs1 mode cd => 0x0000401B + imm.toNat * 1048576 + rs1.toNat * 32768 + combineCode mode * 1024 + cd.toNat * 128
  | .cgeui imm rs1 mode cd => 0x0000501B + imm.toNat * 1048576 + rs1.toNat * 32768 + combineCode mode * 1024 + cd.toNat * 128
  | .cbiti bit rs1 mode cd => 0x0000601B + bit.toNat * 1048576 + rs1.toNat * 32768 + combineCode mode * 1024 + cd.toNat * 128
  | .bc cond off => 0x00000863 + cond.toNat * 256 + fld (off.toNat) 18 1 * 2147483648 + fld (off.toNat) 10 8 * 4096 + fld (off.toNat) 9 1 * 1048576 + fld (off.toNat) 0 9 * 4194304
  | .bcn cond off => 0x00000063 + cond.toNat * 256 + fld (off.toNat) 18 1 * 2147483648 + fld (off.toNat) 10 8 * 4096 + fld (off.toNat) 9 1 * 1048576 + fld (off.toNat) 0 9 * 4194304
  | .jal rd off => 0x0000006F + rd.toNat * 128 + fld (off.toNat) 18 1 * 2147483648 + fld (off.toNat) 10 8 * 4096 + fld (off.toNat) 9 1 * 1048576 + fld (off.toNat) 0 9 * 4194304
  | .jalr imm rs1 rd => 0x00000067 + imm.toNat * 1048576 + rs1.toNat * 32768 + rd.toNat * 128
  | .loop imm rs1 => 0x0000000F + imm.toNat * 1048576 + rs1.toNat * 32768
  | .pref imm rs1 lvl => 0x0000100F + imm.toNat * 1048576 + rs1.toNat * 32768 + lvl.toNat * 128
  | .lfetch imm rs1 vi => 0x0000200F + imm.toNat * 1048576 + rs1.toNat * 32768 + vi.toNat * 128
  | .stop => 0x0000300F
  | .fadd fmt rs2 rs1 rd => 0x00000053 + ffmtCode fmt * 33554432 + rs2.toNat * 1048576 + rs1.toNat * 32768 + rd.toNat * 128
  | .fsub fmt rs2 rs1 rd => 0x08000053 + ffmtCode fmt * 33554432 + rs2.toNat * 1048576 + rs1.toNat * 32768 + rd.toNat * 128
  | .fmul fmt rs2 rs1 rd => 0x10000053 + ffmtCode fmt * 33554432 + rs2.toNat * 1048576 + rs1.toNat * 32768 + rd.toNat * 128
  | .fdiv fmt rs2 rs1 rd => 0x18000053 + ffmtCode fmt * 33554432 + rs2.toNat * 1048576 + rs1.toNat * 32768 + rd.toNat * 128
  | .fsqrt fmt rs1 rd => 0x20000053 + ffmtCode fmt * 33554432 + rs1.toNat * 32768 + rd.toNat * 128
  | .fmin fmt rs2 rs1 rd => 0x28000053 + ffmtCode fmt * 33554432 + rs2.toNat * 1048576 + rs1.toNat * 32768 + rd.toNat * 128
  | .fmax fmt rs2 rs1 rd => 0x30000053 + ffmtCode fmt * 33554432 + rs2.toNat * 1048576 + rs1.toNat * 32768 + rd.toNat * 128
  | .fsgnj fmt rs2 rs1 rd => 0x38000053 + ffmtCode fmt * 33554432 + rs2.toNat * 1048576 + rs1.toNat * 32768 + rd.toNat * 128
  | .fsgnjn fmt rs2 rs1 rd => 0x40000053 + ffmtCode fmt * 33554432 + rs2.toNat * 1048576 + rs1.toNat * 32768 + rd.toNat * 128
  | .fsgnjx fmt rs2 rs1 rd => 0x48000053 + ffmtCode fmt * 33554432 + rs2.toNat * 1048576 + rs1.toNat * 32768 + rd.toNat * 128
  | .fcvt fmt sel rs1 rd => 0x50000053 + ffmtCode fmt * 33554432 + sel.toNat * 1048576 + rs1.toNat * 32768 + rd.toNat * 128
  | .fmvxf fmt rs1 rd => 0x58000053 + ffmtCode fmt * 33554432 + rs1.toNat * 32768 + rd.toNat * 128
  | .fmvfx fmt rs1 rd => 0x60000053 + ffmtCode fmt * 33554432 + rs1.toNat * 32768 + rd.toNat * 128
  | .fclass fmt rs1 rd => 0x68000053 + ffmtCode fmt * 33554432 + rs1.toNat * 32768 + rd.toNat * 128
  | .fceq fmt rs2 rs1 mode cd => 0x70000053 + ffmtCode fmt * 33554432 + rs2.toNat * 1048576 + rs1.toNat * 32768 + combineCode mode * 1024 + cd.toNat * 128
  | .fclt fmt rs2 rs1 mode cd => 0x78000053 + ffmtCode fmt * 33554432 + rs2.toNat * 1048576 + rs1.toNat * 32768 + combineCode mode * 1024 + cd.toNat * 128
  | .fcle fmt rs2 rs1 mode cd => 0x80000053 + ffmtCode fmt * 33554432 + rs2.toNat * 1048576 + rs1.toNat * 32768 + combineCode mode * 1024 + cd.toNat * 128
  | .fmadd rs3 fmt rs2 rs1 rd => 0x00000043 + rs3.toNat * 134217728 + ffmtCode fmt * 33554432 + rs2.toNat * 1048576 + rs1.toNat * 32768 + rd.toNat * 128
  | .fmsub rs3 fmt rs2 rs1 rd => 0x00001043 + rs3.toNat * 134217728 + ffmtCode fmt * 33554432 + rs2.toNat * 1048576 + rs1.toNat * 32768 + rd.toNat * 128
  | .fnmadd rs3 fmt rs2 rs1 rd => 0x00002043 + rs3.toNat * 134217728 + ffmtCode fmt * 33554432 + rs2.toNat * 1048576 + rs1.toNat * 32768 + rd.toNat * 128
  | .fnmsub rs3 fmt rs2 rs1 rd => 0x00003043 + rs3.toNat * 134217728 + ffmtCode fmt * 33554432 + rs2.toNat * 1048576 + rs1.toNat * 32768 + rd.toNat * 128
  | .lb imm rs1 rd => 0x00000003 + imm.toNat * 1048576 + rs1.toNat * 32768 + rd.toNat * 128
  | .lh imm rs1 rd => 0x00001003 + imm.toNat * 1048576 + rs1.toNat * 32768 + rd.toNat * 128
  | .lw imm rs1 rd => 0x00002003 + imm.toNat * 1048576 + rs1.toNat * 32768 + rd.toNat * 128
  | .ld imm rs1 rd => 0x00003003 + imm.toNat * 1048576 + rs1.toNat * 32768 + rd.toNat * 128
  | .lbu imm rs1 rd => 0x00004003 + imm.toNat * 1048576 + rs1.toNat * 32768 + rd.toNat * 128
  | .lhu imm rs1 rd => 0x00005003 + imm.toNat * 1048576 + rs1.toNat * 32768 + rd.toNat * 128
  | .lwu imm rs1 rd => 0x00006003 + imm.toNat * 1048576 + rs1.toNat * 32768 + rd.toNat * 128
  | .flh imm rs1 rd => 0x00000007 + imm.toNat * 1048576 + rs1.toNat * 32768 + rd.toNat * 128
  | .flw imm rs1 rd => 0x00001007 + imm.toNat * 1048576 + rs1.toNat * 32768 + rd.toNat * 128
  | .fld imm rs1 rd => 0x00002007 + imm.toNat * 1048576 + rs1.toNat * 32768 + rd.toNat * 128
  | .sb rs2 rs1 imm => 0x00000023 + rs2.toNat * 1048576 + rs1.toNat * 32768 + fld (imm.toNat) 5 7 * 33554432 + fld (imm.toNat) 0 5 * 128
  | .sh rs2 rs1 imm => 0x00001023 + rs2.toNat * 1048576 + rs1.toNat * 32768 + fld (imm.toNat) 5 7 * 33554432 + fld (imm.toNat) 0 5 * 128
  | .sw rs2 rs1 imm => 0x00002023 + rs2.toNat * 1048576 + rs1.toNat * 32768 + fld (imm.toNat) 5 7 * 33554432 + fld (imm.toNat) 0 5 * 128
  | .sd rs2 rs1 imm => 0x00003023 + rs2.toNat * 1048576 + rs1.toNat * 32768 + fld (imm.toNat) 5 7 * 33554432 + fld (imm.toNat) 0 5 * 128
  | .fsh rs2 rs1 imm => 0x00000027 + rs2.toNat * 1048576 + rs1.toNat * 32768 + fld (imm.toNat) 5 7 * 33554432 + fld (imm.toNat) 0 5 * 128
  | .fsw rs2 rs1 imm => 0x00001027 + rs2.toNat * 1048576 + rs1.toNat * 32768 + fld (imm.toNat) 5 7 * 33554432 + fld (imm.toNat) 0 5 * 128
  | .fsd rs2 rs1 imm => 0x00002027 + rs2.toNat * 1048576 + rs1.toNat * 32768 + fld (imm.toNat) 5 7 * 33554432 + fld (imm.toNat) 0 5 * 128
  | .amoadd rs2 rs1 dw rd => 0x0000202F + rs2.toNat * 1048576 + rs1.toNat * 32768 + boolCode dw * 4096 + rd.toNat * 128
  | .amoswap rs2 rs1 dw rd => 0x0800202F + rs2.toNat * 1048576 + rs1.toNat * 32768 + boolCode dw * 4096 + rd.toNat * 128
  | .amocas rs2 rs1 dw rd => 0x1000202F + rs2.toNat * 1048576 + rs1.toNat * 32768 + boolCode dw * 4096 + rd.toNat * 128
  | .amomin rs2 rs1 dw rd => 0x1800202F + rs2.toNat * 1048576 + rs1.toNat * 32768 + boolCode dw * 4096 + rd.toNat * 128
  | .amomax rs2 rs1 dw rd => 0x2000202F + rs2.toNat * 1048576 + rs1.toNat * 32768 + boolCode dw * 4096 + rd.toNat * 128
  | .amominu rs2 rs1 dw rd => 0x2800202F + rs2.toNat * 1048576 + rs1.toNat * 32768 + boolCode dw * 4096 + rd.toNat * 128
  | .amomaxu rs2 rs1 dw rd => 0x3000202F + rs2.toNat * 1048576 + rs1.toNat * 32768 + boolCode dw * 4096 + rd.toNat * 128
  | .amoand rs2 rs1 dw rd => 0x3800202F + rs2.toNat * 1048576 + rs1.toNat * 32768 + boolCode dw * 4096 + rd.toNat * 128
  | .amoor rs2 rs1 dw rd => 0x4000202F + rs2.toNat * 1048576 + rs1.toNat * 32768 + boolCode dw * 4096 + rd.toNat * 128
  | .amoxor rs2 rs1 dw rd => 0x4800202F + rs2.toNat * 1048576 + rs1.toNat * 32768 + boolCode dw * 4096 + rd.toNat * 128
  | .scall => 0x00000073
  | .sbrk => 0x00100073
  | .sret => 0x00200073
  | .wfe => 0x00300073
  | .halt => 0x00400073
  | .atcinv rs1 => 0x00500073 + rs1.toNat * 32768
  | .srd reg rd => 0x00001073 + reg.toNat * 1048576 + rd.toNat * 128
  | .swr reg rs1 => 0x00002073 + reg.toNat * 1048576 + rs1.toNat * 32768
  | .sset reg rs1 => 0x00003073 + reg.toNat * 1048576 + rs1.toNat * 32768
  | .sclr reg rs1 => 0x00004073 + reg.toNat * 1048576 + rs1.toNat * 32768
  | .readVectorStatus _ _ => 0
  | .readTshape _ => 0
  | .writeVectorStatus _ _ _ => 0
  | .writeFrm _ _ => 0
  | .writeLoopRegisters _ _ _ => 0
  | .writePtbase _ _ => 0
  | .writeSpbase _ _ => 0
  | .writeFrtbase _ _ => 0
  | .writeMarchsel _ _ => 0
  | .writeDigestControl _ _ _ => 0
  | .vsetvl rs2 rs1 rd => 0x00000047 + rs2.toNat * 1048576 + rs1.toNat * 32768 + rd.toNat * 128
  | .vsetvli req rs1 rd => 0x00001047 + req.toNat * 1048576 + rs1.toNat * 32768 + rd.toNat * 128
  | .modet req => 0x00002047 + req.toNat * 1048576
  | .tileAcquire _ => 0
  | .modev => 0x00003047
  | .gdecl mask vd => 0x00004047 + mask.toNat * 1048576 + vd.toNat * 128
  | .gtag vs rd => 0x00005047 + vs.toNat * 32768 + rd.toNat * 128
  | .vblk imm rs1 => 0x00006047 + imm.toNat * 1048576 + rs1.toNat * 32768
  | .vjoin => 0x00007047
  | .laneGroupIssue _ => 0
  | .vadd p form vs2 s1 vd => 0x0000001F + p.toNat * 268435456 + formCode form * 67108864 + vs2.toNat * 1048576 + s1.toNat * 32768 + vd.toNat * 128
  | .vsub p form vs2 s1 vd => 0x0000101F + p.toNat * 268435456 + formCode form * 67108864 + vs2.toNat * 1048576 + s1.toNat * 32768 + vd.toNat * 128
  | .vmul p form vs2 s1 vd => 0x0000201F + p.toNat * 268435456 + formCode form * 67108864 + vs2.toNat * 1048576 + s1.toNat * 32768 + vd.toNat * 128
  | .vmulh p form vs2 s1 vd => 0x0000301F + p.toNat * 268435456 + formCode form * 67108864 + vs2.toNat * 1048576 + s1.toNat * 32768 + vd.toNat * 128
  | .vmulhu p form vs2 s1 vd => 0x0000401F + p.toNat * 268435456 + formCode form * 67108864 + vs2.toNat * 1048576 + s1.toNat * 32768 + vd.toNat * 128
  | .vmacc p form vs2 s1 vd => 0x0000501F + p.toNat * 268435456 + formCode form * 67108864 + vs2.toNat * 1048576 + s1.toNat * 32768 + vd.toNat * 128
  | .vand p form vs2 s1 vd => 0x0000601F + p.toNat * 268435456 + formCode form * 67108864 + vs2.toNat * 1048576 + s1.toNat * 32768 + vd.toNat * 128
  | .vor p form vs2 s1 vd => 0x0000701F + p.toNat * 268435456 + formCode form * 67108864 + vs2.toNat * 1048576 + s1.toNat * 32768 + vd.toNat * 128
  | .vxor p form vs2 s1 vd => 0x0200001F + p.toNat * 268435456 + formCode form * 67108864 + vs2.toNat * 1048576 + s1.toNat * 32768 + vd.toNat * 128
  | .vsll p form vs2 s1 vd => 0x0200101F + p.toNat * 268435456 + formCode form * 67108864 + vs2.toNat * 1048576 + s1.toNat * 32768 + vd.toNat * 128
  | .vsrl p form vs2 s1 vd => 0x0200201F + p.toNat * 268435456 + formCode form * 67108864 + vs2.toNat * 1048576 + s1.toNat * 32768 + vd.toNat * 128
  | .vsra p form vs2 s1 vd => 0x0200301F + p.toNat * 268435456 + formCode form * 67108864 + vs2.toNat * 1048576 + s1.toNat * 32768 + vd.toNat * 128
  | .vmin p form vs2 s1 vd => 0x0200401F + p.toNat * 268435456 + formCode form * 67108864 + vs2.toNat * 1048576 + s1.toNat * 32768 + vd.toNat * 128
  | .vmax p form vs2 s1 vd => 0x0200501F + p.toNat * 268435456 + formCode form * 67108864 + vs2.toNat * 1048576 + s1.toNat * 32768 + vd.toNat * 128
  | .vminu p form vs2 s1 vd => 0x0200601F + p.toNat * 268435456 + formCode form * 67108864 + vs2.toNat * 1048576 + s1.toNat * 32768 + vd.toNat * 128
  | .vmaxu p form vs2 s1 vd => 0x0200701F + p.toNat * 268435456 + formCode form * 67108864 + vs2.toNat * 1048576 + s1.toNat * 32768 + vd.toNat * 128
  | .vfadd p form vs2 s1 vd => 0x00000057 + p.toNat * 268435456 + formCode form * 67108864 + vs2.toNat * 1048576 + s1.toNat * 32768 + vd.toNat * 128
  | .vfsub p form vs2 s1 vd => 0x00001057 + p.toNat * 268435456 + formCode form * 67108864 + vs2.toNat * 1048576 + s1.toNat * 32768 + vd.toNat * 128
  | .vfmul p form vs2 s1 vd => 0x00002057 + p.toNat * 268435456 + formCode form * 67108864 + vs2.toNat * 1048576 + s1.toNat * 32768 + vd.toNat * 128
  | .vfdiv p form vs2 s1 vd => 0x00003057 + p.toNat * 268435456 + formCode form * 67108864 + vs2.toNat * 1048576 + s1.toNat * 32768 + vd.toNat * 128
  | .vfsqrt p vs2 vd => 0x00004057 + p.toNat * 268435456 + vs2.toNat * 1048576 + vd.toNat * 128
  | .vfmacc p form vs2 s1 vd => 0x00005057 + p.toNat * 268435456 + formCode form * 67108864 + vs2.toNat * 1048576 + s1.toNat * 32768 + vd.toNat * 128
  | .vfnmsac p form vs2 s1 vd => 0x00006057 + p.toNat * 268435456 + formCode form * 67108864 + vs2.toNat * 1048576 + s1.toNat * 32768 + vd.toNat * 128
  | .vfmin p form vs2 s1 vd => 0x00007057 + p.toNat * 268435456 + formCode form * 67108864 + vs2.toNat * 1048576 + s1.toNat * 32768 + vd.toNat * 128
  | .vfmax p form vs2 s1 vd => 0x02000057 + p.toNat * 268435456 + formCode form * 67108864 + vs2.toNat * 1048576 + s1.toNat * 32768 + vd.toNat * 128
  | .vfcvt p vs2 code vd => 0x02001057 + p.toNat * 268435456 + vs2.toNat * 1048576 + code.toNat * 32768 + vd.toNat * 128
  | .vfsgnj p form vs2 s1 vd => 0x02002057 + p.toNat * 268435456 + formCode form * 67108864 + vs2.toNat * 1048576 + s1.toNat * 32768 + vd.toNat * 128
  | .vfrsqrte p vs2 vd => 0x02003057 + p.toNat * 268435456 + vs2.toNat * 1048576 + vd.toNat * 128
  | .vfclass p vs2 vd => 0x02004057 + p.toNat * 268435456 + vs2.toNat * 1048576 + vd.toNat * 128
  | .vmix p form vs2 s1 vd => 0x02005057 + p.toNat * 268435456 + formCode form * 67108864 + vs2.toNat * 1048576 + s1.toNat * 32768 + vd.toNat * 128
  | .vfdot4 p form vs2 s1 vd => 0x02006057 + p.toNat * 268435456 + formCode form * 67108864 + vs2.toNat * 1048576 + s1.toNat * 32768 + vd.toNat * 128
  | .vfmerge p form vs2 s1 vd => 0x02007057 + p.toNat * 268435456 + formCode form * 67108864 + vs2.toNat * 1048576 + s1.toNat * 32768 + vd.toNat * 128
  | .vstep p form s1 vd => 0x0000005F + p.toNat * 268435456 + formCode form * 67108864 + s1.toNat * 32768 + vd.toNat * 128
  | .vxch p form vs2 s1 vd => 0x0000105F + p.toNat * 268435456 + formCode form * 67108864 + vs2.toNat * 1048576 + s1.toNat * 32768 + vd.toNat * 128
  | .vslideup p form vs2 s1 vd => 0x0000205F + p.toNat * 268435456 + formCode form * 67108864 + vs2.toNat * 1048576 + s1.toNat * 32768 + vd.toNat * 128
  | .vslidedn p form vs2 s1 vd => 0x0000305F + p.toNat * 268435456 + formCode form * 67108864 + vs2.toNat * 1048576 + s1.toNat * 32768 + vd.toNat * 128
  | .vgather p form vs2 s1 vd => 0x0000405F + p.toNat * 268435456 + formCode form * 67108864 + vs2.toNat * 1048576 + s1.toNat * 32768 + vd.toNat * 128
  | .vcompress p vs2 vd => 0x0000505F + p.toNat * 268435456 + vs2.toNat * 1048576 + vd.toNat * 128
  | .vconf p vs2 vd => 0x0000605F + p.toNat * 268435456 + vs2.toNat * 1048576 + vd.toNat * 128
  | .vreds p form vs2 s1 vd => 0x0000705F + p.toNat * 268435456 + formCode form * 67108864 + vs2.toNat * 1048576 + s1.toNat * 32768 + vd.toNat * 128
  | .vfredo p form vs2 s1 vd => 0x0200005F + p.toNat * 268435456 + formCode form * 67108864 + vs2.toNat * 1048576 + s1.toNat * 32768 + vd.toNat * 128
  | .vredmin p form vs2 s1 vd => 0x0200105F + p.toNat * 268435456 + formCode form * 67108864 + vs2.toNat * 1048576 + s1.toNat * 32768 + vd.toNat * 128
  | .vredmax p form vs2 s1 vd => 0x0200205F + p.toNat * 268435456 + formCode form * 67108864 + vs2.toNat * 1048576 + s1.toNat * 32768 + vd.toNat * 128
  | .vmvxs form vs2 s1 rd => 0x0200305F + formCode form * 67108864 + vs2.toNat * 1048576 + s1.toNat * 32768 + rd.toNat * 128
  | .vmvsx form s1 vd => 0x0200405F + formCode form * 67108864 + s1.toNat * 32768 + vd.toNat * 128
  | .vpopc p ps2 rd => 0x0200505F + p.toNat * 268435456 + ps2.toNat * 1048576 + rd.toNat * 128
  | .vfirst p ps2 rd => 0x0200605F + p.toNat * 268435456 + ps2.toNat * 1048576 + rd.toNat * 128
  | .pand p ps2 ps1 pd => 0x00000077 + p.toNat * 268435456 + ps2.toNat * 1048576 + ps1.toNat * 32768 + pd.toNat * 128
  | .por p ps2 ps1 pd => 0x00001077 + p.toNat * 268435456 + ps2.toNat * 1048576 + ps1.toNat * 32768 + pd.toNat * 128
  | .pxor p ps2 ps1 pd => 0x00002077 + p.toNat * 268435456 + ps2.toNat * 1048576 + ps1.toNat * 32768 + pd.toNat * 128
  | .pandn p ps2 ps1 pd => 0x00003077 + p.toNat * 268435456 + ps2.toNat * 1048576 + ps1.toNat * 32768 + pd.toNat * 128
  | .pnot p ps2 pd => 0x00004077 + p.toNat * 268435456 + ps2.toNat * 1048576 + pd.toNat * 128
  | .pset p pd => 0x00005077 + p.toNat * 268435456 + pd.toNat * 128
  | .pclr p pd => 0x00006077 + p.toNat * 268435456 + pd.toNat * 128
  | .vcmpeq p form vs2 s1 pd => 0x00007077 + p.toNat * 268435456 + formCode form * 67108864 + vs2.toNat * 1048576 + s1.toNat * 32768 + pd.toNat * 128
  | .vcmpne p form vs2 s1 pd => 0x02000077 + p.toNat * 268435456 + formCode form * 67108864 + vs2.toNat * 1048576 + s1.toNat * 32768 + pd.toNat * 128
  | .vcmplt p form vs2 s1 pd => 0x02001077 + p.toNat * 268435456 + formCode form * 67108864 + vs2.toNat * 1048576 + s1.toNat * 32768 + pd.toNat * 128
  | .vcmpltu p form vs2 s1 pd => 0x02002077 + p.toNat * 268435456 + formCode form * 67108864 + vs2.toNat * 1048576 + s1.toNat * 32768 + pd.toNat * 128
  | .vcmpge p form vs2 s1 pd => 0x02003077 + p.toNat * 268435456 + formCode form * 67108864 + vs2.toNat * 1048576 + s1.toNat * 32768 + pd.toNat * 128
  | .vfcmpeq p form vs2 s1 pd => 0x02004077 + p.toNat * 268435456 + formCode form * 67108864 + vs2.toNat * 1048576 + s1.toNat * 32768 + pd.toNat * 128
  | .vfcmplt p form vs2 s1 pd => 0x02005077 + p.toNat * 268435456 + formCode form * 67108864 + vs2.toNat * 1048576 + s1.toNat * 32768 + pd.toNat * 128
  | .vfcmple p form vs2 s1 pd => 0x02006077 + p.toNat * 268435456 + formCode form * 67108864 + vs2.toNat * 1048576 + s1.toNat * 32768 + pd.toNat * 128
  | .pmerge p ps2 ps1 pd => 0x02007077 + p.toNat * 268435456 + ps2.toNat * 1048576 + ps1.toNat * 32768 + pd.toNat * 128
  | .vld p rs1 w vd => 0x0000004B + p.toNat * 268435456 + rs1.toNat * 32768 + ewCode w * 4096 + vd.toNat * 128
  | .vlds p rs2 rs1 w vd => 0x0400004B + p.toNat * 268435456 + rs2.toNat * 1048576 + rs1.toNat * 32768 + ewCode w * 4096 + vd.toNat * 128
  | .vldx p vs2 rs1 w vd => 0x0800004B + p.toNat * 268435456 + vs2.toNat * 1048576 + rs1.toNat * 32768 + ewCode w * 4096 + vd.toNat * 128
  | .vldf p rs1 vd => 0x0000404B + p.toNat * 268435456 + rs1.toNat * 32768 + vd.toNat * 128
  | .vldfS p rs2 rs1 vd => 0x0400404B + p.toNat * 268435456 + rs2.toNat * 1048576 + rs1.toNat * 32768 + vd.toNat * 128
  | .vldfX p vs2 rs1 vd => 0x0800404B + p.toNat * 268435456 + vs2.toNat * 1048576 + rs1.toNat * 32768 + vd.toNat * 128
  | .vldr p rs1 vd => 0x0200404B + p.toNat * 268435456 + rs1.toNat * 32768 + vd.toNat * 128
  | .vldrS p rs2 rs1 vd => 0x0600404B + p.toNat * 268435456 + rs2.toNat * 1048576 + rs1.toNat * 32768 + vd.toNat * 128
  | .vldrX p vs2 rs1 vd => 0x0A00404B + p.toNat * 268435456 + vs2.toNat * 1048576 + rs1.toNat * 32768 + vd.toNat * 128
  | .vldg p rs1 vd => 0x0000504B + p.toNat * 268435456 + rs1.toNat * 32768 + vd.toNat * 128
  | .vldgS p rs2 rs1 vd => 0x0400504B + p.toNat * 268435456 + rs2.toNat * 1048576 + rs1.toNat * 32768 + vd.toNat * 128
  | .vldgX p vs2 rs1 vd => 0x0800504B + p.toNat * 268435456 + vs2.toNat * 1048576 + rs1.toNat * 32768 + vd.toNat * 128
  | .vldP rs1 pd => 0x0C00004B + rs1.toNat * 32768 + pd.toNat * 128
  | .texs p vs2 rs1 vd => 0x0C00604B + p.toNat * 268435456 + vs2.toNat * 1048576 + rs1.toNat * 32768 + vd.toNat * 128
  | .vst p rs1 w vs3 => 0x0000004F + p.toNat * 268435456 + rs1.toNat * 32768 + ewCode w * 4096 + vs3.toNat * 128
  | .vsts p rs2 rs1 w vs3 => 0x0400004F + p.toNat * 268435456 + rs2.toNat * 1048576 + rs1.toNat * 32768 + ewCode w * 4096 + vs3.toNat * 128
  | .vstx p vs2 rs1 w vs3 => 0x0800004F + p.toNat * 268435456 + vs2.toNat * 1048576 + rs1.toNat * 32768 + ewCode w * 4096 + vs3.toNat * 128
  | .vstF p rs1 vs3 => 0x0000404F + p.toNat * 268435456 + rs1.toNat * 32768 + vs3.toNat * 128
  | .vstsF p rs2 rs1 vs3 => 0x0400404F + p.toNat * 268435456 + rs2.toNat * 1048576 + rs1.toNat * 32768 + vs3.toNat * 128
  | .vstxF p vs2 rs1 vs3 => 0x0800404F + p.toNat * 268435456 + vs2.toNat * 1048576 + rs1.toNat * 32768 + vs3.toNat * 128
  | .vstr p rs1 vs3 => 0x0200404F + p.toNat * 268435456 + rs1.toNat * 32768 + vs3.toNat * 128
  | .vstrS p rs2 rs1 vs3 => 0x0600404F + p.toNat * 268435456 + rs2.toNat * 1048576 + rs1.toNat * 32768 + vs3.toNat * 128
  | .vstrX p vs2 rs1 vs3 => 0x0A00404F + p.toNat * 268435456 + vs2.toNat * 1048576 + rs1.toNat * 32768 + vs3.toNat * 128
  | .vstg p rs1 vs3 => 0x0000504F + p.toNat * 268435456 + rs1.toNat * 32768 + vs3.toNat * 128
  | .vstgS p rs2 rs1 vs3 => 0x0400504F + p.toNat * 268435456 + rs2.toNat * 1048576 + rs1.toNat * 32768 + vs3.toNat * 128
  | .vstgX p vs2 rs1 vs3 => 0x0800504F + p.toNat * 268435456 + vs2.toNat * 1048576 + rs1.toNat * 32768 + vs3.toNat * 128
  | .vstP rs1 ps => 0x0C00004F + rs1.toNat * 32768 + ps.toNat * 128
  | .vscadd p vs2 rs1 w vs3 => 0x0C00004F + p.toNat * 268435456 + vs2.toNat * 1048576 + rs1.toNat * 32768 + ewCode w * 4096 + vs3.toNat * 128
  | .vstc p vs2 rs1 vs3 => 0x0C00604F + p.toNat * 268435456 + vs2.toNat * 1048576 + rs1.toNat * 32768 + vs3.toNat * 128
  | .gp p vs2 vs1 neg inv rev vd => 0x0000006B + p.toNat * 268435456 + vs2.toNat * 1048576 + vs1.toNat * 32768 + boolCode neg * 16384 + boolCode inv * 8192 + boolCode rev * 4096 + vd.toNat * 128
  | .gwedge p vs2 vs1 neg inv rev vd => 0x0200006B + p.toNat * 268435456 + vs2.toNat * 1048576 + vs1.toNat * 32768 + boolCode neg * 16384 + boolCode inv * 8192 + boolCode rev * 4096 + vd.toNat * 128
  | .gjoin p vs2 vs1 neg inv rev vd => 0x0400006B + p.toNat * 268435456 + vs2.toNat * 1048576 + vs1.toNat * 32768 + boolCode neg * 16384 + boolCode inv * 8192 + boolCode rev * 4096 + vd.toNat * 128
  | .gldot p vs2 vs1 neg inv rev vd => 0x0600006B + p.toNat * 268435456 + vs2.toNat * 1048576 + vs1.toNat * 32768 + boolCode neg * 16384 + boolCode inv * 8192 + boolCode rev * 4096 + vd.toNat * 128
  | .gsand p vs2 vs1 neg inv rev vd => 0x0800006B + p.toNat * 268435456 + vs2.toNat * 1048576 + vs1.toNat * 32768 + boolCode neg * 16384 + boolCode inv * 8192 + boolCode rev * 4096 + vd.toNat * 128
  | .gcomm p vs2 vs1 neg inv rev vd => 0x0A00006B + p.toNat * 268435456 + vs2.toNat * 1048576 + vs1.toNat * 32768 + boolCode neg * 16384 + boolCode inv * 8192 + boolCode rev * 4096 + vd.toNat * 128
  | .gproj p mask vs1 neg rev vd => 0x0C00006B + p.toNat * 268435456 + mask.toNat * 1048576 + vs1.toNat * 32768 + boolCode neg * 16384 + boolCode rev * 4096 + vd.toNat * 128
  | .grev p vs1 neg rev vd => 0x0E00006B + p.toNat * 268435456 + vs1.toNat * 32768 + boolCode neg * 16384 + boolCode rev * 4096 + vd.toNat * 128
  | .ginvol p vs1 neg rev vd => 0x0E10006B + p.toNat * 268435456 + vs1.toNat * 32768 + boolCode neg * 16384 + boolCode rev * 4096 + vd.toNat * 128
  | .gdual p vs1 neg rev vd => 0x0E20006B + p.toNat * 268435456 + vs1.toNat * 32768 + boolCode neg * 16384 + boolCode rev * 4096 + vd.toNat * 128
  | .gnormsq p vs1 neg rev vd => 0x0E30006B + p.toNat * 268435456 + vs1.toNat * 32768 + boolCode neg * 16384 + boolCode rev * 4096 + vd.toNat * 128
  | .gnorm p vs1 neg rev vd => 0x0E40006B + p.toNat * 268435456 + vs1.toNat * 32768 + boolCode neg * 16384 + boolCode rev * 4096 + vd.toNat * 128
  | .gnormz p vs1 neg rev vd => 0x0E50006B + p.toNat * 268435456 + vs1.toNat * 32768 + boolCode neg * 16384 + boolCode rev * 4096 + vd.toNat * 128
  | .gexp p vs1 neg rev vd => 0x0E60006B + p.toNat * 268435456 + vs1.toNat * 32768 + boolCode neg * 16384 + boolCode rev * 4096 + vd.toNat * 128
  | .glog p vs1 neg rev vd => 0x0E70006B + p.toNat * 268435456 + vs1.toNat * 32768 + boolCode neg * 16384 + boolCode rev * 4096 + vd.toNat * 128
  | .gsqrt p vs1 neg rev vd => 0x0E80006B + p.toNat * 268435456 + vs1.toNat * 32768 + boolCode neg * 16384 + boolCode rev * 4096 + vd.toNat * 128
  | .ginv p vs1 neg rev vd => 0x0E90006B + p.toNat * 268435456 + vs1.toNat * 32768 + boolCode neg * 16384 + boolCode rev * 4096 + vd.toNat * 128
  | .tzero z => 0x0000000B + z.toNat * 128
  | .topa set neg vb va z => 0x0000100B + boolCode set * 67108864 + boolCode neg * 33554432 + vb.toNat * 1048576 + va.toNat * 32768 + z.toNat * 128
  | .topas set neg hb ha z => 0x0000200B + boolCode set * 67108864 + boolCode neg * 33554432 + hb.toNat * 1048576 + ha.toNat * 32768 + z.toNat * 128
  | .topasRead _ => 0
  | .tdrain n z rs1 vd => 0x0000300B + n.toNat * 33554432 + z.toNat * 1048576 + rs1.toNat * 32768 + vd.toNat * 128
  | .tldz rs2 rs1 z => 0x0000400B + rs2.toNat * 1048576 + rs1.toNat * 32768 + z.toNat * 128
  | .tstz rs2 rs1 z => 0x0000500B + rs2.toNat * 1048576 + rs1.toNat * 32768 + z.toNat * 128
  | .tshape rs2 rs1 => 0x0000600B + rs2.toNat * 1048576 + rs1.toNat * 32768
  | .tfetch hs rs1 va => 0x0000700B + hs.toNat * 1048576 + rs1.toNat * 32768 + va.toNat * 128
  | .hldh rs1 hd => 0x4000000B + rs1.toNat * 32768 + hd.toNat * 128
  | .hsth hs rs1 => 0x4000100B + hs.toNat * 1048576 + rs1.toNat * 32768
  | .hld hs rs1 vd => 0x4000200B + hs.toNat * 1048576 + rs1.toNat * 32768 + vd.toNat * 128
  | .hst hs vs3 rd => 0x4000300B + hs.toNat * 1048576 + vs3.toNat * 32768 + rd.toNat * 128
  | .hstTry cd hs vs3 rd => 0x4200300B + cd.toNat * 67108864 + hs.toNat * 1048576 + vs3.toNat * 32768 + rd.toNat * 128
  | .hiter hs rd => 0x4000400B + hs.toNat * 1048576 + rd.toNat * 128
  | .hattach rs2 rs1 rd => 0x4000500B + rs2.toNat * 1048576 + rs1.toNat * 32768 + rd.toNat * 128
  | .hdetach rs2 rs1 rd => 0x4000600B + rs2.toNat * 1048576 + rs1.toNat * 32768 + rd.toNat * 128
  | .hinfo hs sel rd => 0x4000700B + hs.toNat * 1048576 + sel.toNat * 32768 + rd.toNat * 128
  | .forkCopy explicit rs1 rd => 0x0000002B + boolCode explicit * 268435456 + rs1.toNat * 32768 + rd.toNat * 128
  | .forkFold explicit rs1 rd => 0x0200002B + boolCode explicit * 268435456 + rs1.toNat * 32768 + rd.toNat * 128
  | .forkBlend explicit rs1 rd => 0x0400002B + boolCode explicit * 268435456 + rs1.toNat * 32768 + rd.toNat * 128
  | .forkMarch explicit rs1 rd => 0x0600002B + boolCode explicit * 268435456 + rs1.toNat * 32768 + rd.toNat * 128
  | .rdv rs1 rd => 0x0000102B + rs1.toNat * 32768 + rd.toNat * 128
  | .cpy explicit rs2 rs1 rd => 0x0000202B + boolCode explicit * 33554432 + rs2.toNat * 1048576 + rs1.toNat * 32768 + rd.toNat * 128
  | .cwait rs2 rs1 rd => 0x0000302B + rs2.toNat * 1048576 + rs1.toNat * 32768 + rd.toNat * 128
  | .cwaitR rs2 rs1 rd => 0x0200302B + rs2.toNat * 1048576 + rs1.toNat * 32768 + rd.toNat * 128
  | .cwaitTimeout _ => 0
  | .ctest rs1 cd => 0x0000402B + rs1.toNat * 32768 + cd.toNat * 128
  | .publish rs1 rd => 0x0000502B + rs1.toNat * 32768 + rd.toNat * 128
  | .publishDiscard rs1 rd => 0x0200502B + rs1.toNat * 32768 + rd.toNat * 128
  | .msend len rs2 rs1 rd => 0x0000602B + len.toNat * 33554432 + rs2.toNat * 1048576 + rs1.toNat * 32768 + rd.toNat * 128
  | .mrecv rs2 rs1 rd => 0x0000702B + rs2.toNat * 1048576 + rs1.toNat * 32768 + rd.toNat * 128
  | .mrecvTry rs2 rs1 rd => 0x0200702B + rs2.toNat * 1048576 + rs1.toNat * 32768 + rd.toNat * 128
  | .launch rs1 rd => 0x4000002B + rs1.toNat * 32768 + rd.toNat * 128
  | .emit rs2 rs1 => 0x4000102B + rs2.toNat * 1048576 + rs1.toNat * 32768
  | .emitTry cd rs2 rs1 => 0x4200102B + cd.toNat * 67108864 + rs2.toNat * 1048576 + rs1.toNat * 32768
  | .take rs1 cd => 0x4000202B + rs1.toNat * 32768 + cd.toNat * 128
  | .rcast rs2 rs1 rd => 0x4000302B + rs2.toNat * 1048576 + rs1.toNat * 32768 + rd.toNat * 128
  | .rresume rs2 rs1 rd => 0x4000402B + rs2.toNat * 1048576 + rs1.toNat * 32768 + rd.toNat * 128
  | .rquery rs1 rd => 0x4000502B + rs1.toNat * 32768 + rd.toNat * 128
  | .fsv => 0x0000005B
  | .fvs => 0x0000105B
  | .fvv => 0x0000205B
  | .barv level rs1 rd => 0x0000305B + level.toNat * 33554432 + rs1.toNat * 32768 + rd.toNat * 128
  | .bwait level rs2 rs1 => 0x0000405B + level.toNat * 33554432 + rs2.toNat * 1048576 + rs1.toNat * 32768
  | .bset level rs2 rs1 => 0x0000505B + level.toNat * 33554432 + rs2.toNat * 1048576 + rs1.toNat * 32768
  | .ifence scope rs2 rs1 => 0x0000605B + scope.toNat * 33554432 + rs2.toNat * 1048576 + rs1.toNat * 32768
  | .isync => 0x0000705B
  | .dfence scope => 0x4000005B + scope.toNat * 33554432
  | .park rs2 rs1 rd => 0x4000105B + rs2.toNat * 1048576 + rs1.toNat * 32768 + rd.toNat * 128
  | .parkReread _ => 0
  | .wake scope rs2 rs1 rd => 0x4000205B + scope.toNat * 33554432 + rs2.toNat * 1048576 + rs1.toNat * 32768 + rd.toNat * 128
  | .wfeWake _ => 0
  | .vectorAdmit _ => 0
  | .vectorCommit _ => 0
  | .vectorElementStep _ => 0
  | .postStep _ => 0
  | .postedElementStep _ _ _ => 0
  | .engineAccessStep _ => 0
  | .engineWriteStep _ => 0
  | .scoreboardTake _ => 0
  | .copyRetire _ => 0
  | .automaticPublish _ => 0
  | .readyStep _ => 0
  | .finalStep _ => 0
  | .foldRead _ => 0
  | .foldPublish _ => 0
  | .blendTile _ => 0
  | .rayAdmission _ => 0
  | .marchStep _ _ => 0
  | .bvhStep _ _ => 0
  | .rayReadmit _ _ => 0
  | .rayResume _ _ => 0
  | .hitRecordPush _ _ => 0
  | .walkQuery _ _ => 0
  | .schedulerDecision _ => 0
  | .emitUnblock _ => 0
  | .bwaitComplete _ => 0
  | .mrecvDequeue _ => 0
  | .messageDelivery _ => 0
  | .hostMessage _ _ => 0
  | .frameFault _ _ _ _ _ => 0
  | .define_ _ => 0
  | .reside _ => 0
  | .evict _ => 0
  | .stopContext _ => 0
  | .grant _ _ _ _ => 0
  | .release_ _ _ _ => 0
  | .remoteWriteRequest _ _ _ _ => 0
  | .remoteReadRequest _ _ _ => 0
  | .remoteWriteAck _ _ => 0
  | .remoteReadResponse _ _ _ => 0
  | .pipelineLaunch _ => 0
  | .remoteWriteLaunch _ => 0
  | .remoteReadLaunch _ => 0
  | .parameterCommit _ _ _ => 0
  | .gangLaunch _ _ => 0
  | .gangAck _ _ => 0
  | .gangTimeoutCheck _ => 0
  | .gangAbort _ => 0
  | .gangArrive _ _ _ _ => 0
  | .deliveryFailure _ _ => 0
  | .cxlHostWrite _ _ => 0
  | .attestationChallenge _ _ => 0
  | .preempt _ => 0
  | .restore _ => 0
  | .powerSample _ _ => 0
  | .thermalEvent _ => 0
  | .thermalRestart => 0
  | .telemetryReport => 0
  | .patrolScrub _ _ => 0
  | .powerOn _ => 0
  | .sliceReassign _ _ => 0
  | .illegalWord _ => 0
  | .lossOfPower => 0
  | .softError _ => 0
  | .quarterPowerGate _ _ => 0
  | .newImageToInactiveBank _ _ => 0

/-- The word of an instruction (R15 to R23, R38). -/
def encode (i : Instr) : Word := BitVec.ofNat 32 (encodeNat i)

end Sys2Proof
end

