-- ==== Sys2Proof/Machine/Memory.lean ====
section
/-! DEFINITION. Memory as the ordering machine sees it: translation and permission (R371 to R381), the line check value
and quarantine (R448 to R451), reads and writes of each kind of agent, the fault-group area, and instruction fetch. -/

namespace Sys2Proof.Machine

/-! ### Agents and physical addresses -/

/-- What an access does, for permission (R375). -/
inductive Access where
  | load | store | amo | fetch | source | dest
  deriving DecidableEq, Repr

/-- Who makes an access: its core if it belongs to one, its bay, level and context, the slot whose segment shadow it
reads and writes, and the operation whose own scoreboard entry does not hold it (R257, R258, R371, R430). -/
structure Agent where
  core : Option Nat
  bay : Nat
  level : Bool
  ctx : Nat
  seg : Option Nat := none
  op : Option Nat := none
  deriving DecidableEq, Repr

/-- The agent that the thread in focus is. -/
def State.agent (s : State) : Agent :=
  { core := some (coreOf s.pos), bay := bayOf s.pos, level := s.t.level, ctx := s.t.ctx, seg := some s.pos }

/-- Bytes of the memory stack of a slice (R4, R364). -/
def sliceBytes : Nat := 2 ^ 35
/-- The physical address of pool address a (SPACE 1 and 2). -/
def poolBase : Nat := 2 ^ 60
/-- The partition that owns a stack address (R364). -/
def State.ownerOf (s : State) (pa : Nat) : Option Nat :=
  (s.owners.find? fun e => e.1 == pa / sliceBytes).map fun e => e.2

/-- The address lies in the memory stack of a partition. -/
def State.inStack (s : State) (part pa : Nat) : Bool := s.ownerOf pa == some part

/-- The slice of a slot belongs to a partition (R364, R366). -/
def State.ownsSlot (s : State) (part p : Nat) : Bool := s.owners.any fun e => e.1 == sliceOf p && e.2 == part

/-- The physical address is not one of a slice that has gone to another partition than the context's (R365). -/
def State.ownsByte (s : State) (ctx pa : Nat) : Bool := decide (poolBase ≤ pa) || s.inStack (s.ctxAt ctx).part pa

/-- A decoder covers a pool address (R418). -/
def HdmDecoder.covers (d : HdmDecoder) (a : Nat) : Bool := decide (d.base ≤ a) && decide (a < d.base + d.size)

/-- The CXL port of an address (R418): its offset from the base, by granules, modulo the ways, indexes the port list. -/
def HdmDecoder.port (d : HdmDecoder) (a : Nat) : Nat := d.ports.getD ((a - d.base) / d.granularity % d.ways) 0

/-- The decoder of a pool address, if one covers it (R418). -/
def State.decoderOf (s : State) (a : Nat) : Option HdmDecoder := (s.hdm.find? fun e => e.2.covers a).map fun e => e.2

/-- A decoder that the regulator may program (R418). -/
def HdmDecoder.ok (d : HdmDecoder) : Bool :=
  d.base % 2 ^ 28 == 0 && d.size % 2 ^ 28 == 0 && [1, 2, 4, 8].contains d.ways && [256, 1024, 4096, 16384].contains d.granularity
    && d.ports.length == d.ways && d.ports.all fun p => decide (p < 8)

/-- One of the 16 HDM decoders programmed (R418). -/
def State.programHdm (s : State) (k : Nat) (d : HdmDecoder) : State :=
  if k < 16 ∧ d.ok then { s with hdm := kset k d s.hdm } else s

/-- A pool address lies in an extent of the partition, in a shared one if so asked (R375, R381, R419); one that no decoder covers
lies in none (R418). -/
def State.inPool (s : State) (part a : Nat) (needShared : Bool) : Bool :=
  (s.decoderOf a).isSome && s.extents.any fun e => e.part == part && decide (e.base ≤ a) && decide (a < e.base + e.size) && (e.shared || !needShared)

/-! ### The line check value -/

/-- One bit of CRC-32C, reflected (R448). -/
def crcBit (c : Word) : Word := if c.getLsbD 0 then (c >>> 1) ^^^ 0x82F63B78 else c >>> 1

/-- CRC-32C over bytes, before the final inversion (R448). -/
def crcFold : Word → List Byte → Word
  | c, [] => c
  | c, b :: bs =>
    crcFold (crcBit (crcBit (crcBit (crcBit (crcBit (crcBit (crcBit (crcBit (c ^^^ b.setWidth 32))))))))) bs

/-- CRC-32C (R448). -/
def crc32c (bs : List Byte) : Word := ~~~ crcFold 0xFFFFFFFF bs

/-- The line's check value matches its bytes, and it is not quarantined (R449, R451). -/
def State.lineOk (s : State) (line : Nat) : Bool := sget s.chk line == 0 && !s.quar.contains line

/-- The MRAM of a die as it left the factory (R443). DESIGN CHOICE, unsafe: assumption 2 of the log. -/
def factoryMram (die : Nat) : Mram := if die = 0 then { identity := .of (some {}) } else {}

/-- The MRAM of a die (R443). -/
def State.mramOf (s : State) (die : Nat) : Mram := kget (factoryMram die) s.mram die

/-- Replace the MRAM of a die. -/
def State.setMram (s : State) (die : Nat) (m : Mram) : State := { s with mram := kset die m s.mram }

/-- The event log of a die (R443). -/
def Mram.log (m : Mram) : List MramEvent := m.events.read.getD []

/-- An event-log entry of a die: the log keeps the last 4096 (R443). -/
def State.logEvent (s : State) (die : Nat) (e : MramEvent) : State :=
  let m := s.mramOf die
  s.setMram die { m with events := m.events.write (m.log.drop (m.log.length - 4095) ++ [e]) }

/-- The die whose event log takes an event at a physical address. -/
def dieOfAddress (pa : Nat) : Nat := pa / sliceBytes / 2 % 9

/-- A line enters quarantine at the step that is being taken: the REPORT, the log entry and the count, once (R450, R451, R459). -/
def State.quarantine (s : State) (ctx kind va line pa : Nat) : State :=
  let s := { s with quar := line :: s.quar, telemetry := { s.telemetry with quar := s.telemetry.quar + 1 } }
  (s.report (.integrity ctx kind va pa)).logEvent (dieOfAddress pa) (.integrity ctx kind va pa s.stamp)

/-- The virtual address that an integrity REPORT gives for a consumer: the line's, but for an entry or a scale pair (R450). -/
def reportVa (kind va : Nat) : Nat := if kind = 11 then va else va / 128 * 128

/-- A checking access to a line: data-integrity with the line's address, quarantining it the first time, which is a step of its
own (R449 to R451). DESIGN CHOICE, unsafe: assumption 14 of the log. -/
def State.checkLine (s : State) (ctx kind va pa : Nat) : Run State :=
  if s.quar.contains (pa / 128) then raise s cause.integrity (BitVec.ofNat 64 (va / 128 * 128))
  else if sget s.chk (pa / 128) = 0 then .ok s
  else raise (s.order.quarantine ctx kind (reportVa kind va) (pa / 128) (pa / 128 * 128)) cause.integrity (BitVec.ofNat 64 (va / 128 * 128))

/-- An entry of queue memory whose check value does not match: quarantined the first time (R448, R450, R452). Where queue memory
lies in the stack is free (R404). DESIGN CHOICE, unsafe: assumption 99 of the log. -/
def State.badEntry (s : State) (ctx : Nat) (seen : Bool) : State :=
  if seen then s
  else
    let pa := (Config.freeValue s.tick).toNat / 128 * 128
    { s with tick := s.tick + 1 }.order.quarantine ctx 1 0 (pa / 128) pa

/-! ### Translation -/

/-- An entry read by a walk: 8 bytes of the stack, checked (R372, R377, R450 kind 5). TRAPVAL of a mismatch is the
stack address of the table's line. -/
def State.walkRead (s : State) (ctx va a : Nat) : Run (DWord × State) :=
  if s.lineOk (a / 128) then .ok (BitVec.ofNat 64 (ofBytes (bytesAt s.mem a 8)), s)
  else
    let s := if s.quar.contains (a / 128) then s else s.order.quarantine ctx 5 va (a / 128) a
    raise s cause.integrity (BitVec.ofNat 64 (a / 128 * 128))

/-- The page size of a leaf at a level, as a power of two (R372). -/
def pageLog : Nat → Nat
  | 3 => 30
  | 2 => 21
  | _ => 16

/-- The leaf is well formed at its level (R374, R375). -/
def leafOk (level e : Nat) : Bool :=
  decide (level ≠ 4) && bits e 62 2 == 0 && bits e 60 2 != 3 && bits e 5 3 == 0
    && (bits e 16 44 * 2 ^ 16) % 2 ^ pageLog level == 0

/-- The table entry is well formed, and its table lies aligned in the partition's stack (R373, R375). -/
def tableOk (s : State) (part level e : Nat) : Bool :=
  decide (level ≠ 1) && bits e 60 4 == 0 && bits e 1 7 == 0
    && (bits e 8 52 * 256) % (if level = 2 then 256 else 4096) == 0 && s.inStack part (bits e 8 52 * 256)

/-- What a table read of a walk comes to: the next table, or a leaf. -/
inductive WalkNext where
  | table (address : Nat)
  | leaf (entry : Nat)
  deriving DecidableEq, Repr

/-- One read of a walk at a level of its table (R372, R373, R375): the next table, the leaf, or a cause at the address. A table
in a slice that the partition no longer owns is not read (R365). -/
def walkLevel (s : State) (ctx part va level table : Nat) : Run (WalkNext × State) :=
  let index := if level = 1 then bits va 16 5 else bits va (3 + 9 * level) 9
  if !s.inStack part table then raise s cause.translation (BitVec.ofNat 64 va)
  else match s.walkRead ctx va (table + 8 * index) with
  | .error e => .error e
  | .ok (w, s) =>
    let e := w.toNat
    if bits e 0 1 = 0 then raise s cause.translation (BitVec.ofNat 64 va)
    else if bits e 1 3 = 0 then
      if tableOk s part level e then .ok (.table (bits e 8 52 * 256), s)
      else raise s cause.translation (BitVec.ofNat 64 va)
    else if leafOk level e then .ok (.leaf e, s)
    else raise s cause.translation (BitVec.ofNat 64 va)

/-- The walk from a table at a level (R372): the leaf and its level, or a cause at the address. -/
def walk (s : State) (ctx part va : Nat) : Nat → Nat → Run ((Nat × Nat) × State)
  | 0, _ => raise s cause.translation (BitVec.ofNat 64 va)
  | level + 1, table =>
    match walkLevel s ctx part va (level + 1) table with
    | .error e => .error e
    | .ok (.table t, s) => walk s ctx part va level t
    | .ok (.leaf e, s) => .ok ((e, level + 1), s)

/-- The permission of a leaf for an access (R374, R375). -/
def leafAllows (s : State) (part : Nat) (level : Bool) (acc : Access) (e pa : Nat) : Bool :=
  let space := bits e 60 2
  let r := bits e 1 1 == 1
  let w := bits e 2 1 == 1
  (if space = 0 then s.inStack part pa else s.inPool part pa (space == 2))
    && (level || bits e 4 1 == 1)
    && match acc with
      | .load | .source => r
      | .store | .dest => w
      | .amo => r && w
      | .fetch => bits e 3 1 == 1

/-- The cached leaf for a page, where the machine uses one (R376, R377). -/
def State.cached (s : State) (ag : Agent) (va : Nat) : Option TlbEntry :=
  if s.ch.useCached then
    let l := (match ag.core with | some k => (s.coreAt k).tlb | none => []) ++ (s.bayAt ag.bay).tlb
    l.find? fun e => e.ctx == ag.ctx && e.page == va / 2 ^ e.size
  else none

/-- Hold a completed translation in the caches, where the machine does so (R376). -/
def State.fill (s : State) (ag : Agent) (e : TlbEntry) : State :=
  if s.ch.fillCache then
    let s := match ag.core with
      | some k => let c := s.coreAt k; s.setCore k { c with tlb := (e :: c.tlb).take 64 }
      | none => s
    let b := s.bayAt ag.bay
    s.setBay ag.bay { b with tlb := (e :: b.tlb).take 4096 }
  else s

/-- The physical address of a leaf's byte: stack, or pool (R374). -/
def leafAddress (e size va : Nat) : Nat :=
  let pa := bits e 16 44 * 2 ^ 16 + va % 2 ^ size
  if bits e 60 2 = 0 then pa else poolBase + pa

/-- The die of an agent (R2). -/
def Agent.die (ag : Agent) : Nat := ag.bay / 16

/-- The root of the tables of a context (R372). -/
def Context.root (c : Context) : Nat := bits c.ptbase.toNat 12 48 * 4096

/-- The leaf for an address and the log of its page size: cached, or by a walk (R372, R376). -/
def State.leafFor (s : State) (ag : Agent) (va : Nat) : Run ((Nat × Nat) × State) :=
  match s.cached ag va with
  | some e => .ok ((e.leaf.toNat, e.size), s)
  | none =>
    let c := s.ctxAt ag.ctx
    match walk s ag.ctx c.part va 4 c.root with
    | .error e => .error e
    | .ok ((e, level), s) => .ok ((e, pageLog level), s)

/-- The log of the size of the page that holds an address; 0 where no page does. -/
def State.pageSize (s : State) (ag : Agent) (va : Nat) : Nat :=
  match s.leafFor ag va with
  | .error _ => 0
  | .ok ((_, size), _) => size

/-- The address of an entry of the format region table (R76). -/
def State.entryAddress (s : State) (ctx frn : Nat) : Nat := (s.ctxAt ctx).frtbase.toNat + 32 * frn

/-- The region entry that is read together with a translation, as doublewords; none where it cannot be read (R78, R79). -/
def State.peekEntry (s : State) (ag : Agent) (frn : Nat) : List DWord :=
  let a := s.entryAddress ag.ctx frn
  if frn = 0 ∨ 2 ^ 48 ≤ a then []
  else match s.leafFor { ag with level := true } a with
    | .error _ => []
    | .ok ((e, size), _) =>
      let pa := leafAddress e size a
      if leafAllows s (s.ctxAt ag.ctx).part true .load e (pa % poolBase) && s.lineOk (pa / 128) then
        (List.range 4).map fun k => BitVec.ofNat 64 (ofBytes (bytesAt s.mem (pa + 8 * k) 8))
      else []

/-- The region entry held with the translation of an address, where the machine uses it (R79, R376).
DEDUCED, safe: assumption 94 of the log. -/
def State.heldEntry (s : State) (ag : Agent) (va : Nat) : Option (List Byte) :=
  match s.cached ag va with
  | some e => if e.region = [] then none else some (e.region.flatMap fun w => toBytes 8 w.toNat)
  | none => none

/-- The cached entry of a leaf: its page, and the region entry of its number (R376). -/
def State.entryFor (s : State) (ag : Agent) (va e size : Nat) : TlbEntry :=
  { ctx := ag.ctx, page := va / 2 ^ size, size := size, leaf := BitVec.ofNat 64 e, region := s.peekEntry ag (bits e 8 8) }

/-- Translation of an address for an access: its physical address and its format region number (R371 to R375).
DEDUCED, safe: assumption 89 of the log. -/
def State.translate (s : State) (ag : Agent) (acc : Access) (va : Nat) : Run ((Nat × Nat) × State) :=
  let c := s.ctxAt ag.ctx
  let sp := c.spbase.toNat
  if 2 ^ 48 ≤ va then raise s cause.translation (BitVec.ofNat 64 va)
  else match (if acc = .fetch then none else ag.core), decide (sp ≤ va ∧ va < sp + 2 ^ 21) with
  | some k, true =>
    if va - sp < (s.coreAt k).spcap * 2 ^ 18 then .ok ((scratchBase k ag.ctx + (va - sp), 0), s)
    else raise s cause.translation (BitVec.ofNat 64 va)
  | _, _ =>
    match s.leafFor ag va with
    | .error e => .error e
    | .ok ((e, size), s) =>
      let pa := leafAddress e size va
      if leafAllows s c.part ag.level acc e (pa % poolBase) then .ok ((pa, bits e 8 8), s.fill ag (s.entryFor ag va e size))
      else raise s cause.permission (BitVec.ofNat 64 va)

/-! ### Walks in flight (R377) -/

/-- A miss of the context of the thread in focus starts a walk, or joins the one in flight; at most 64 are in flight on a die
(R376, R377). DEDUCED, safe: assumption 97 of the log. -/
def State.walkStart (s : State) (va : Nat) : State :=
  let ag := s.agent
  let same := fun (w : WalkRec) => w.die == ag.die && w.ctx == ag.ctx && w.page == va / 2 ^ 16
  if !s.t.live ∨ 2 ^ 48 ≤ va then s
  else if s.walks.any same then
    { s with walks := s.walks.map fun w => if same w then { w with bays := w.bays.filter (fun b => b != ag.bay) ++ [ag.bay] } else w }
  else if 64 ≤ (s.walks.filter fun w => w.die == ag.die).length then s
  else { s with walks := s.walks ++
    [{ die := ag.die, ctx := ag.ctx, page := va / 2 ^ 16, level := 4, table := s.ctx.root, bays := [ag.bay], va := va }] }

/-- A leaf held in the translation caches of some bays (R376). -/
def State.fillBays (s : State) (e : TlbEntry) (bays : List Nat) : State :=
  bays.foldl (fun s k => let b := s.bayAt k; s.setBay k { b with tlb := (e :: b.tlb).take 4096 }) s

/-- A leaf serves some access of its partition: a translation through it completes without a fault (R375, R376). -/
def leafServes (s : State) (part e pa : Nat) : Bool :=
  [Access.load, .store, .fetch].any fun acc => leafAllows s part true acc e (pa % poolBase)

/-- The next table read of a walk in flight, as an engine-access step of its die's walkers (R240, R377): its leaf goes to the
bays that it serves, where an access completes through it (R376). A walk that meets a cause ends: an access meets the cause where its
own translation does, by the tables as they then stand. -/
def State.walkStep (s : State) (k : Nat) : State :=
  match s.walks[k]? with
  | none => s
  | some w =>
    let part := (s.ctxAt w.ctx).part
    match walkLevel s.order w.ctx part w.va w.level w.table with
    | .error (_, s) => { s with walks := s.walks.eraseIdx k }
    | .ok (.table t, s) => { s with walks := s.walks.set k { w with level := w.level - 1, table := t } }
    | .ok (.leaf e, s) =>
      let ag : Agent := { core := none, bay := w.bays.headD 0, level := true, ctx := w.ctx }
      let s := { s with walks := s.walks.eraseIdx k }
      if leafServes s part e (leafAddress e (pageLog w.level) w.va) then s.fillBays (s.entryFor ag w.va e (pageLog w.level)) w.bays else s

/-! ### Bytes -/

/-- The lines that a byte range touches: the start and length of each part, in rising address (R7). -/
def lineParts (va n : Nat) : List (Nat × Nat) :=
  (List.range (if n = 0 then 0 else (va % 128 + n + 127) / 128)).map fun i =>
    let lo := max va ((va / 128 + i) * 128)
    let hi := min (va + n) ((va / 128 + i + 1) * 128)
    (lo, hi - lo)

/-- A byte range overlaps a range that a copy holds in the scoreboard of the agent's core (R107, R258). -/
def State.held (s : State) (ag : Agent) (pa n : Nat) : Bool :=
  match ag.core with
  | none => false
  | some k => (s.coreAt k).scoreboard.any fun e =>
      some e.op != ag.op && decide (pa < e.base + e.size) && decide (e.base < pa + n)

/-- The open segment whose shadow an agent reads and writes (R430). -/
def State.segment (s : State) (ag : Agent) : Option Segment :=
  match ag.seg with
  | none => none
  | some p => (s.segs.find? fun e => e.1 == p && !e.2.closed).map fun e => e.2

/-- The byte that an agent sees at a physical address: from its segment's shadow, or from memory (R242, R430). -/
def State.byteFor (s : State) (ag : Agent) (pa : Nat) : Byte :=
  match s.segment ag with
  | none => sget (w := 8) s.mem pa
  | some g => match g.shadow.find? (fun e => e.1 == pa) with
    | some e => e.2
    | none => sget (w := 8) s.mem pa

/-- The bytes that an agent sees. -/
def State.bytesFor (s : State) (ag : Agent) (pa n : Nat) : List Byte :=
  (List.range n).map fun i => s.byteFor ag (pa + i)

/-- A read within one line: translated, held off by the scoreboard, checked (R81, R258, R449). -/
def State.readPart (s : State) (ag : Agent) (acc : Access) (kind va n : Nat) : Run (List Byte × State) :=
  match s.translate ag acc va with
  | .error e => .error e
  | .ok ((pa, _), s) =>
    if s.held ag pa n then hold s
    else match s.checkLine ag.ctx kind va pa with
      | .error e => .error e
      | .ok s => .ok (s.bytesFor ag pa n, s)

/-- Reads of the parts of a range, in order. -/
def State.readParts (s : State) (ag : Agent) (acc : Access) (kind : Nat) : List (Nat × Nat) → Run (List Byte × State)
  | [] => .ok ([], s)
  | (va, n) :: r =>
    match s.readPart ag acc kind va n with
    | .error e => .error e
    | .ok (b, s) => match State.readParts s ag acc kind r with
      | .error e => .error e
      | .ok (bs, s) => .ok (b ++ bs, s)

/-- A read of a byte range: every line translated and checked (R81). -/
def State.read (s : State) (ag : Agent) (acc : Access) (kind va n : Nat) : Run (List Byte × State) :=
  s.readParts ag acc kind (lineParts va n)

/-- Parked threads whose doubleword a write touches read again (R261). -/
def pokeParks (l : List ParkRec) (pa n : Nat) : List ParkRec :=
  l.map fun k => if pa < k.pa + 8 ∧ k.pa < pa + n then { k with poked := true } else k

/-- Bytes written into memory within one line: the parked see it, and a whole line leaves quarantine with a fresh
check value (R242, R448, R451). -/
def State.physWrite (s : State) (pa : Nat) (bs : List Byte) : State :=
  let whole := pa % 128 == 0 && bs.length == 128
  { s with
    mem := putBytes s.mem pa bs, parks := pokeParks s.parks pa bs.length,
    chk := if whole then sset s.chk (pa / 128) 0 else s.chk,
    quar := if whole then s.quar.filter (fun l => l != pa / 128) else s.quar }

/-- A shadow with a byte. -/
def shadowPut (l : List (Nat × Byte)) (a : Nat) (b : Byte) : List (Nat × Byte) := kset a b l

/-- A shadow with bytes from an address. -/
def shadowPuts : List (Nat × Byte) → Nat → List Byte → List (Nat × Byte)
  | l, _, [] => l
  | l, a, b :: bs => shadowPuts (shadowPut l a b) (a + 1) bs

/-- The lines that a shadow holds (R430). -/
def shadowLines (l : List (Nat × Byte)) : List Nat := (l.map fun e => e.1 / 128).foldl (fun r k => if r.contains k then r else r ++ [k]) []

/-- A byte of a shadow over the byte that memory holds. -/
def Put.over (p : Put) (old : Byte) : Byte := (old &&& ~~~p.mask) ||| (p.byte &&& p.mask)

/-- A shadow with one more byte, over what it held there. -/
def mergePut (l : List Put) (p : Put) : List Put :=
  match l.find? fun q => q.pa == p.pa with
  | none => l ++ [p]
  | some q => l.map fun r => if r.pa = p.pa then { p with byte := (q.byte &&& ~~~p.mask) ||| (p.byte &&& p.mask), mask := q.mask ||| p.mask } else r

/-- Whole bytes of a shadow from an address. -/
def fullPuts (va pa : Nat) (bs : List Byte) : List Put :=
  bs.zipIdx.map fun b => { va := BitVec.ofNat 64 (va + b.2), pa := pa + b.2, byte := b.1, mask := 0xFF }

/-- One line of a publish (R245, R279, R451): a line covered in full takes a fresh check value and leaves quarantine; a
partial line is checked at the step, and in a quarantined line whether its bytes are written is free. -/
def State.publishLine (s : State) (ctx : Nat) (l : List Put) (line : Nat) : State :=
  let part := l.filter fun p => p.pa / 128 == line
  let put := fun (s : State) => part.foldl (fun s p => s.physWrite p.pa [p.over (sget (w := 8) s.mem p.pa)]) s
  if part.length = 128 ∧ part.all (fun p => p.mask == 0xFF) then
    let s := put s
    { s with chk := sset s.chk line 0, quar := s.quar.filter fun k => k != line }
  else if s.lineOk line then put s
  else
    let va := (part.head?.map fun p => p.va.toNat / 128 * 128).getD 0
    let s := if s.quar.contains line then s else s.quarantine ctx 10 va line (line * 128)
    if Config.partialPublishWrites s.tick then put { s with tick := s.tick + 1 } else { s with tick := s.tick + 1 }

/-- The bytes of a shadow that lie in memory that the context's partition still owns: a slice that has gone to another partition
takes none (R365). -/
def State.ownPuts (s : State) (ctx : Nat) (l : List Put) : List Put := l.filter fun p => s.ownsByte ctx p.pa

/-- A publish: the shadow becomes memory for every observer at once (R245). -/
def State.publishPuts (s : State) (ctx : Nat) (l : List Put) : State :=
  let l := s.ownPuts ctx l
  let lines := (l.map fun p => p.pa / 128).foldl (fun r k => if r.contains k then r else r ++ [k]) []
  lines.foldl (fun s line => s.publishLine ctx l line) s

/-- A publish of a segment's shadow. -/
def State.publish (s : State) (ctx : Nat) (g : Segment) : State :=
  s.publishPuts ctx (g.shadow.map fun e =>
    { va := kget 0 g.lines (e.1 / 128) + BitVec.ofNat 64 (e.1 % 128), pa := e.1, byte := e.2, mask := 0xFF })

/-- The segment record of a slot replaced. -/
def State.setSegment (s : State) (p : Nat) (g : Segment) : State := { s with segs := kset p g s.segs }

/-- The check of a held add at the step that performs it (R365, R449, R450): an element on a line whose check fails is dropped, as a
posted element is, and its line quarantined; one in a slice that has gone to another partition is performed nowhere.
DEDUCED, unsafe: assumption 90 of the log. -/
def State.checkAdd (s : State) (ctx : Nat) (h : HeldAdd) : Bool × State :=
  if !s.ownsByte ctx h.pa then (false, s)
  else if s.lineOk (h.pa / 128) then (true, s)
  else (false, if s.quar.contains (h.pa / 128) then s
    else s.quarantine ctx 7 (h.va.toNat / 128 * 128) (h.pa / 128) (h.pa / 128 * 128))

/-- A scatter-add held with its segment added into memory as it stands (R430). -/
def State.applyAdd (s : State) (h : HeldAdd) : State :=
  let r := s.checkAdd s.t.ctx h
  if r.1 then
    let old := ofBytes (bytesAt r.2.mem h.pa h.bytes)
    r.2.physWrite h.pa (toBytes h.bytes (old + h.val.toNat))
  else r.2

/-- A full segment shadow is published with its held adds at one step, without a check, and can no longer be rolled back (R430). -/
def State.overflowPublish (s : State) (p : Nat) (g : Segment) : State :=
  let s := s.order.publish s.t.ctx g
  let s := g.adds.foldl State.applyAdd s
  s.setSegment p { g with shadow := [], lines := [], adds := [], recoverable := false }

/-- The digest of a thread's own write in a deterministic context (R432). -/
def State.digested (s : State) (ag : Agent) (va : Nat) (bs : List Byte) : State :=
  if (s.ctxAt ag.ctx).det && ag.seg == some s.pos then
    { s with t := { s.t with digest := foldDigests s.t.digest (BitVec.ofNat 64 va) bs } } else s

/-- A thread's write within one line, after its checks: into its segment's shadow with the digest, or into memory
(R242, R430, R432). -/
def State.commitWrite (s : State) (ag : Agent) (va pa : Nat) (bs : List Byte) : State :=
  let s := s.digested ag va bs
  match ag.seg, s.segment ag with
  | some p, some g =>
    let sh := shadowPuts g.shadow pa bs
    let lines := kset (pa / 128) (BitVec.ofNat 64 (va / 128 * 128)) g.lines
    if 4096 < (shadowLines sh).length then
      let s := s.overflowPublish p g
      match s.segment ag with
      | some g => s.setSegment p { g with shadow := shadowPuts g.shadow pa bs, lines := kset (pa / 128) (BitVec.ofNat 64 (va / 128 * 128)) g.lines }
      | none => s
    else s.setSegment p { g with shadow := sh, lines := lines }
  | _, _ => s.physWrite pa bs

/-- The checks of a write within one line: translation, permission, the scoreboard, and the line's check for a partial
line (R104, R258, R449, R451). -/
def State.checkPart (s : State) (ag : Agent) (acc : Access) (va n : Nat) : Run (Nat × State) :=
  match s.translate ag acc va with
  | .error e => .error e
  | .ok ((pa, _), s) =>
    if s.held ag pa n then hold s
    else if n = 128 then .ok (pa, s)
    else match s.checkLine ag.ctx 2 va pa with
      | .error e => .error e
      | .ok s => .ok (pa, s)

/-- The checks of the parts of a write, with the physical address of each. -/
def State.checkParts (s : State) (ag : Agent) (acc : Access) : List (Nat × Nat) → Run (List (Nat × Nat × Nat) × State)
  | [] => .ok ([], s)
  | (va, n) :: r =>
    match s.checkPart ag acc va n with
    | .error e => .error e
    | .ok (pa, s) => match State.checkParts s ag acc r with
      | .error e => .error e
      | .ok (ps, s) => .ok ((va, pa, n) :: ps, s)

/-- The bytes of the checked parts written, in order. -/
def State.putParts (s : State) (ag : Agent) : List (Nat × Nat × Nat) → List Byte → State
  | [], _ => s
  | (va, pa, n) :: r, bs => State.putParts (s.commitWrite ag va pa (bs.take n)) ag r (bs.drop n)

/-- A write of a byte range at one step: all its checks before its first byte (R81, R104). -/
def State.write (s : State) (ag : Agent) (acc : Access) (va : Nat) (bs : List Byte) : Run State :=
  match s.checkParts ag acc (lineParts va bs.length) with
  | .error e => .error e
  | .ok (ps, s) => .ok (s.putParts ag ps bs)

/-- The check of a range as a load, with no byte used (R262, R321). -/
def State.checkLoad (s : State) (ag : Agent) (va n : Nat) : Run State :=
  match s.read ag .load 1 va n with
  | .error e => .error e
  | .ok (_, s) => .ok s

/-- The check of a range as a store, with nothing written (R286, R322). -/
def State.checkStore (s : State) (ag : Agent) (va n : Nat) : Run State :=
  match s.checkParts ag .store (lineParts va n) with
  | .error e => .error e
  | .ok (_, s) => .ok s

/-- Translation alone of the pages of a range, for the operations that check an address before they use it. -/
def State.checkPages (s : State) (ag : Agent) (acc : Access) : List (Nat × Nat) → Run State
  | [] => .ok s
  | (va, _) :: r =>
    match s.translate ag acc va with
    | .error e => .error e
    | .ok (_, s) => State.checkPages s ag acc r

/-! ### Fetch -/

/-- The copy of an instruction word that the core holds, or that the thread has fetched ahead and not decoded, where the machine
uses one (R237, R238). A block fetch uses the core's alone. -/
def State.fetchCopy (s : State) (block : Bool) (va : DWord) (pa : Nat) : Option Word :=
  if s.ch.staleFetch then
    ((if block then s.core.icache else s.t.ahead ++ s.core.icache).find? fun e =>
      e.ctx == s.t.ctx && e.va == va && e.pa == pa).map fun e => e.word
  else none

/-- A copy of the instruction word at an address, as memory holds it. -/
def State.copyOf (s : State) (va : DWord) (pa : Nat) : FetchCopy :=
  { ctx := s.t.ctx, va := va, pa := pa, word := BitVec.ofNat 32 (ofBytes (bytesAt s.mem pa 4)) }

/-- The instruction word at an address, for the scalar stream or for a block (R36, R238, R371): misaligned, translated, checked, and
whole. DEDUCED, safe: assumption 88 of the log. -/
def State.fetch (s : State) (va : DWord) (block : Bool := false) : Run (Word × State) :=
  if va.toNat % 4 ≠ 0 then raise s cause.misalignedFetch va
  else match s.translate s.agent .fetch va.toNat with
  | .error e => .error e
  | .ok ((pa, _), s) =>
    match s.fetchCopy block va pa with
    | some w => .ok (w, s)
    | none =>
      match s.checkLine s.t.ctx 3 va.toNat pa with
      | .error e => .error e
      | .ok s =>
        let copy := s.copyOf va pa
        .ok (copy.word, if s.ch.keepFetched then
          { s with
            core := { s.core with icache := copy :: s.core.icache }
            t := { s.t with ahead := if block then s.t.ahead else copy :: s.t.ahead } }
          else s)

/-- The core of the thread in focus takes a copy of an instruction line into its instruction cache, before any fetch of it
(R238). -/
def State.fetchLine (s : State) (va : Nat) : Option State :=
  let a := va / 128 * 128
  match s.translate s.agent .fetch a with
  | .error _ => none
  | .ok ((pa, _), s) =>
    if s.lineOk (pa / 128) then
      let l := (List.range 32).map fun k => s.copyOf (BitVec.ofNat 64 (a + 4 * k)) (pa + 4 * k)
      some { s with core := { s.core with icache := l ++ s.core.icache } }
    else none

end Sys2Proof.Machine
end

