-- ==== Sys2Proof/Machine/Segment.lean ====
section
/-! DEFINITION. Segments of the tasks of deterministic contexts (R429 to R435): commit points, the digest check, the
rollback, and the checkpoint with which a segment begins. -/

namespace Sys2Proof.Machine

/-- The thread in focus runs a task that has segments (R429): a held record in a deterministic context. -/
def State.inTask (s : State) : Bool := s.ctx.det && s.t.held.isSome

/-- The segment of the thread in focus, closed or open. -/
def State.mySegment (s : State) : Option Segment := (s.segs.find? fun e => e.1 == s.pos).map fun e => e.2

/-- The accumulators of the thread in focus, where it owns the tile unit (R193, R395). -/
def State.myTiles (s : State) : List (Sparse 32) := if s.core.tileOwner = some (s.pos % 4) then s.core.z.toList else []

/-- A segment of the task begins, with its checkpoint (R429, R430): what the image of R395 holds. -/
def State.beginSegment (s : State) (number : Nat) : State :=
  s.setSegment s.pos
    { number := number, diglog := s.ctx.diglog, digctl := s.ctx.digctl, checkpoint := s.t, tiles := s.myTiles }

/-- The tile unit as a checkpoint has it (R435): its accumulators where the thread owned the unit and still does, a reload where it
has given the unit up since, and no unit where it took one since. -/
def State.restoreTiles (s : State) (g : Segment) : State :=
  let slot := s.pos % 4
  if g.tiles = [] then { s with core := s.core.releaseTile slot }
  else if s.core.tileOwner = some slot then { s with core := { s.core with z := Vector.ofFn fun k => g.tiles.getD k.val [] } }
  else { s with t := { s.t with tileSave := g.tiles } }

/-- The key under which the segment of a thread that is switched out is kept. -/
def awayKey (n p : Nat) : Nat := slotCount * (n + 1) + p

/-- A segment belongs to a thread of a context other than that in focus: a live one, or one that is switched out. -/
def State.othersSegment (s : State) (k : Nat) : Bool :=
  if k < slotCount then k != s.pos && (s.threadAt k).live && (s.threadAt k).ctx == s.t.ctx else k / slotCount == s.t.ctx + 1

/-- The thread in focus goes on, in its words and on its vector side: it is live, the arithmetic clock runs, and no other thread of
its context runs a segment again, here or once it is restored (R215, R435, R457). -/
def State.mayRun (s : State) : Bool := s.t.live && !s.stopped && !s.segs.any fun e => e.2.failed && s.othersSegment e.1

/-- The segment after a closed one begins (R429). -/
def State.nextSegment (s : State) : State :=
  match s.mySegment with
  | some g => if g.closed then s.beginSegment (g.number + 1) else s
  | none => s

/-- The agent of a log access: the thread's core and context, privileged, directly in memory (R434). -/
def State.logAgent (s : State) : Agent :=
  { core := some (coreOf s.pos), bay := bayOf s.pos, level := true, ctx := s.t.ctx }

/-- The address of the j-th entry that a key probes (R434). -/
def probeAddress (diglog digctl key : DWord) (j : Nat) : Nat :=
  let n := 2 ^ (field digctl 8 4 + 8)
  field diglog 4 44 * 16 + 16 * (((key.toNat / 2) % n + j) % n)

/-- What a probe of the log finds (R434): an entry with the key, an empty entry, neither, or a fault. -/
inductive Probe where
  | match_ (address : Nat) (digest : DWord)
  | empty (address : Nat)
  | none
  | fault
  deriving DecidableEq, Repr

/-- Probe up to eight entries; recording stops at an empty entry, checking goes past it (R434). -/
def State.probe (s : State) (diglog digctl key : DWord) (record : Bool) : Nat → Nat → Probe × State
  | 0, _ => (.none, s)
  | left + 1, j =>
    let a := probeAddress diglog digctl key j
    match s.order.read s.logAgent .load 1 a 16 with
    | .error (_, s) => (.fault, s)
    | .ok (bs, s) =>
      let k := BitVec.ofNat 64 (ofBytes (bs.take 8))
      let d := BitVec.ofNat 64 (ofBytes (bs.drop 8))
      if k = key then (.match_ a d, s)
      else if record && k == 0 && d == 0 then (.empty a, s)
      else State.probe s diglog digctl key record left (j + 1)

/-- The check of a digest under a key (R434): whether it passes. Faults and absent keys are counted (R458). -/
def State.checkDigest (s : State) (diglog digctl key digest : DWord) : Bool × State :=
  let faulted := fun (s : State) =>
    { s with telemetry := { s.telemetry with faultpass := s.telemetry.faultpass + 1 } }
  let put := fun (s : State) (a : Nat) =>
    match s.order.write s.logAgent .store a (toBytes 8 key.toNat ++ toBytes 8 digest.toNat) with
    | .error (_, s) => faulted s
    | .ok s => s
  match field digctl 0 2 with
  | 1 =>
    match s.probe diglog digctl key true 8 0 with
    | (.match_ a _, s) => (true, put s a)
    | (.empty a, s) => (true, put s a)
    | (.none, s) => (true, s)
    | (.fault, s) => (true, faulted s)
  | 2 =>
    match s.probe diglog digctl key false 8 0 with
    | (.match_ _ d, s) => (d == digest, s)
    | (.fault, s) => (true, faulted s)
    | (_, s) => (true, { s with telemetry := { s.telemetry with absent := s.telemetry.absent + 1 } })
  | _ => (true, s)

/-- The key of segment number n of a task (R434). -/
def segmentKey (taskix : DWord) (n : Nat) : DWord := taskKey taskix (BitVec.ofNat 32 n) ||| 1

/-- A record of a stage queue that a thread pushed in a segment that has not committed (R431). -/
def StageRecord.heldBy (r : StageRecord) (p : Nat) : Bool := !r.takeable && r.byPos == p

/-- Every stage record of a context's pipelines changed or removed. -/
def mapRecords (ctx : Nat) (f : StageRecord → Option StageRecord) (l : List Pipe) : List Pipe :=
  l.map fun p => if p.ctx = ctx then { p with queues := p.queues.map fun q => (q.1, q.2.filterMap f) } else p

/-- A push or a release has occurred in the bay of a thread's pipeline (R324). -/
def State.stir (s : State) (b : Option Binding) : State :=
  match b with
  | none => s
  | some b => { s with pipes := s.pipes.map fun p => if p.launch = b.launch ∧ p.bay = b.bay then { p with moves := p.moves + 1 } else p }

/-- The commit of a segment whose check passed (R430): one step publishes the shadow, adds the held integer adds, makes
the held pushes takeable, and hands the floating-point adds to the launch. -/
def State.commitSegment (s : State) (g : Segment) : State :=
  let s := s.order.publish s.t.ctx g
  let s := g.adds.foldl State.applyAdd s
  let s := { s with
    pipes := mapRecords s.t.ctx (fun r => some (if r.heldBy s.pos then { r with takeable := true } else r)) s.pipes,
    ctx := { s.ctx with adds := s.ctx.adds ++ g.floats } }
  (s.stir s.t.pipe).setSegment s.pos { g with shadow := [], lines := [], adds := [], floats := [], failed := false, closed := true }

/-- A failed check (R435): the first rolls the thread back to the segment's checkpoint; another, or one of a segment
that cannot be rolled back, ends the context with digest-mismatch. -/
def State.rollback (s : State) (g : Segment) (key : DWord) : State :=
  if g.failed || !g.recoverable then s.endContext s.t.ctx cause.digest s.t.pc key (s.trapTime s.t)
  else
    let s := { s with
      pipes := mapRecords s.t.ctx (fun r => if r.heldBy s.pos then none else some r) s.pipes,
      ctx := { s.ctx with nodes := s.ctx.nodes.filter fun n => !(n.parent == s.t.node && decide (g.checkpoint.children < n.c)) },
      t := g.checkpoint }
    let s := s.restoreTiles g
    s.setSegment s.pos { g with shadow := [], lines := [], adds := [], floats := [], failed := true }

/-- What a commit point leads to: the word goes on, or the thread has been rolled back or its context ended. -/
inductive Committed where
  | passed
  | undone
  deriving DecidableEq, Repr

/-- The commit of the segment that a word ends (R429, R430): it waits for every earlier access of the task,
but in a trap handler not for the held entries (R469). DEDUCED, unsafe: assumption 18 of the log. -/
def State.commitPoint (s : State) : Run (Committed × State) :=
  match (if s.inTask then s.mySegment else none) with
  | none => .ok (.passed, s)
  | some g =>
    if g.closed then .ok (.passed, s)
    else if (s.t.queue ≠ [] ∧ !s.t.inTrap) ∨ s.t.posted ≠ [] ∨ s.t.scalars ≠ [] then hold s
    else
      let key := segmentKey s.t.taskix g.number
      match s.checkDigest g.diglog g.digctl key s.t.digest with
      | (true, s) => .ok (.passed, s.commitSegment g)
      | (false, s) => .ok (.undone, s.rollback g key)

/-- A word that is a commit point (R429): commit, the word's own steps, and the next segment when it completes. A word
that traps has not completed; the segment that begins then starts at the word itself. -/
def State.committing (s : State) (body : State → Run State) : Run State :=
  match s.commitPoint with
  | .error e => .error e
  | .ok (.undone, s) => .ok s
  | .ok (.passed, s) =>
    match body s with
    | .ok s => .ok s.nextSegment
    | .error (.trap c v, s) => .error (.trap c v, s.nextSegment)
    | .error (.wait w, s) => .error (.wait w, s)

end Sys2Proof.Machine
end

