-- ==== Sys2Proof/Machine/Operands.lean ====
section
/-! DEFINITION. Operand forms: immediates and offsets, register results, floating-point registers by format, scalar
accesses by width, and the illegal-instruction cause at a word (R16, R35, R39, R87, R97, R103). -/

namespace Sys2Proof.Machine

/-- The outcome of a word. -/
abbrev Out := Host.Outcome State Fault Refusal

/-- A 12-bit immediate, sign-extended (R16). -/
def imm12 (i : BitVec 12) : DWord := i.signExtend 64

/-- A branch or jump offset from its bits [20:2], sign-extended (R15, R32). -/
def jumpOffset (o : BitVec 19) : DWord := (o ++ (0 : BitVec 2)).signExtend 64

/-- The 20-bit upper immediate, sign-extended (R85). -/
def upperImm (i : BitVec 20) : DWord := (i ++ (0 : BitVec 12)).signExtend 64

/-- x[r] written in the thread in focus. -/
def State.setX (s : State) (r : Reg) (v : DWord) : State := { s with t := s.t.writeX r v }

/-- f[r] written with a value of a width; the bits above are cleared (R39). -/
def State.setF (s : State) (r : Reg) (v : Nat) : State := { s with t := s.t.writeF r (BitVec.ofNat 64 v) }

/-- Condition bit written in the thread in focus. -/
def State.setC (s : State) (r : CReg) (b : Bool) : State := { s with t := s.t.writeC r b }

/-- The combine modes of a compare (R87). -/
def combine (m : Combine) (old t : Bool) : Bool :=
  match m with
  | .set => t
  | .and => old && t
  | .or => old || t
  | .xor => old != t

/-- A truth value combined into condition bit cd, as the compare executes (R86, R87). -/
def State.combineC (s : State) (m : Combine) (cd : CReg) (t : Bool) : State :=
  s.setC cd (combine m (s.t.readC cd) t)

/-- The low bits of f[r] in a format (R97). -/
def Thread.fBits (t : Thread) (f : Fmt) (r : Reg) : Nat := (t.readF r).toNat % 2 ^ f.width

/-- The value of f[r] in a format (R97). -/
def Thread.fVal (t : Thread) (f : Fmt) (r : Reg) : FVal := f.value (t.fBits f r)

/-- Illegal-instruction at a word, with the word as its value (R35, R384). -/
def illegalAt {α : Type} (i : Instr) (s : State) : Run α := raise s cause.illegal ((encode i).setWidth 64)

/-- Privilege at a word, with the word as its value (R384). -/
def privilegeAt {α : Type} (i : Instr) (s : State) : Run α := raise s cause.privilege ((encode i).setWidth 64)

/-- A scalar load of n bytes (R103, R104): aligned, translated, checked, one step. -/
def scalarLoad (ea : DWord) (n : Nat) (s : State) : Run (Nat × State) :=
  if ea.toNat % n ≠ 0 then raise s cause.misaligned ea
  else match s.read s.agent .load 1 ea.toNat n with
    | .error e => .error e
    | .ok (bs, s) => .ok (ofBytes bs, s.orderThread)

/-- A scalar store of n bytes (R103, R104): aligned, translated, checked, one step. -/
def scalarStore (ea : DWord) (n : Nat) (v : Nat) (s : State) : Run State :=
  if ea.toNat % n ≠ 0 then raise s cause.misaligned ea
  else match s.write s.agent .store ea.toNat (toBytes n v) with
    | .error e => .error e
    | .ok s => .ok s.orderThread

/-- A scalar read of n bytes at an address that its word has already aligned: one step. -/
def scalarRead (ea : DWord) (n : Nat) (s : State) : Run (List Byte × State) :=
  match s.read s.agent .load 1 ea.toNat n with
  | .error e => .error e
  | .ok (bs, s) => .ok (bs, s.orderThread)

/-- A scalar write of bytes at an address that its word has already aligned: one step. -/
def scalarWrite (ea : DWord) (bs : List Byte) (s : State) : Run State :=
  match s.write s.agent .store ea.toNat bs with
  | .error e => .error e
  | .ok s => .ok s.orderThread

end Sys2Proof.Machine
end

