-- ==== Sys2Proof/Machine/Lanes.lean ====
section
/-! DEFINITION. Vector operands: VTYPE, elements in lanes and rows, predicate bits, the second source, and how an
element-wise word writes (R40 to R42, R47, R73, R111, R112, R115 to R120). -/

namespace Sys2Proof.Machine

/-! ### VTYPE (R47, R111, R112) -/

/-- The element width in bits. -/
def vtSew (t : DWord) : Nat :=
  match field t 0 3 with
  | 0 => 8
  | 1 => 16
  | 2 => 32
  | 3 => 64
  | _ => 4
/-- The FMT field. -/
def vtFmt (t : DWord) : Nat := field t 3 4
/-- The FLUSH field. -/
def vtFlush (t : DWord) : BitVec 2 := BitVec.ofNat 2 (field t 7 2)
/-- VILL. -/
def vtIll (t : DWord) : Bool := t.getLsbD 31
/-- An i or n type. -/
def vtInt (t : DWord) : Bool := decide (vtFmt t ≤ 1)
/-- f16, bf16, f32 or f64. -/
def vtIeee (t : DWord) : Bool := vtFmt t == 2 || vtFmt t == 3
/-- b8, b6 or b4. -/
def vtBlock (t : DWord) : Bool := decide (4 ≤ vtFmt t)
/-- f32. -/
def vtF32 (t : DWord) : Bool := vtFmt t == 2 && vtSew t == 32
/-- The IEEE format of a type. -/
def vtIeeeFmt (t : DWord) : Fmt :=
  if vtFmt t = 3 then bf16
  else match vtSew t with
    | 16 => f16
    | 32 => f32
    | _ => f64
/-- The block format of a type. -/
def vtBlockFmt (t : DWord) : BFmt :=
  match vtFmt t with
  | 4 => b8
  | 5 => b6
  | _ => b4

/-- The fifteen SEW and FMT pairs, as imm[6:0] (R111). -/
def typePairs : List Nat :=
  [0x00, 0x08, 0x20, 0x28, 0x01, 0x09, 0x11, 0x19, 0x02, 0x0A, 0x12, 0x03, 0x0B, 0x13, 0x34]

/-- The requested type is legal (R112). -/
def typeLegal (req : DWord) : Bool :=
  decide (req.toNat < 2 ^ 11) && typePairs.contains (field req 0 7) && field req 7 2 != 3 && field req 9 2 == 0

/-- VLMAX for an element width (R41). -/
def vlmax (lanes rowcap sew : Nat) : Nat := lanes * rowcap * 32 / sew

/-- The VILL value of VTYPE (R47, R113). -/
def vtypeIll : DWord := 0x80000000

/-! ### Elements (R41) -/

/-- Element i of a register's words. -/
def elemGet (r : Sparse 32) (lanes sew i : Nat) : Nat :=
  if sew = 64 then
    let k := 2 * (i / lanes) * lanes + i % lanes
    (sget r k).toNat + 2 ^ 32 * (sget r (k + lanes)).toNat
  else
    let e := 32 / sew
    let q := i / lanes
    bits (sget r (q / e * lanes + i % lanes)).toNat (q % e * sew) sew

/-- A 32-bit word with a field replaced. -/
def putField (w : Word) (lo n v : Nat) : Word :=
  BitVec.ofNat 32 (w.toNat - bits w.toNat lo n * 2 ^ lo + v % 2 ^ n * 2 ^ lo)

/-- A register's words with element i replaced; elements that share its row keep their values (R115). -/
def elemSet (r : Sparse 32) (lanes sew i v : Nat) : Sparse 32 :=
  if sew = 64 then
    let k := 2 * (i / lanes) * lanes + i % lanes
    sset (sset r k (BitVec.ofNat 32 v)) (k + lanes) (BitVec.ofNat 32 (v / 2 ^ 32))
  else
    let e := 32 / sew
    let q := i / lanes
    let k := q / e * lanes + i % lanes
    sset r k (putField (sget r k) (q % e * sew) sew v)

/-- A register's words with elements replaced. -/
def elemSets (r : Sparse 32) (lanes sew : Nat) : List (Nat × Nat) → Sparse 32
  | [] => r
  | (i, v) :: l => elemSets (elemSet r lanes sew i v) lanes sew l

/-- Element i of a vector register of the thread in focus, by register number (0 above v31). -/
def Thread.elem (t : Thread) (r sew i : Nat) : Nat :=
  if h : r < 32 then elemGet t.v[r] t.lanes sew i else 0

/-- Elements of a vector register replaced. -/
def Thread.setElems (t : Thread) (r sew : Nat) (l : List (Nat × Nat)) : Thread :=
  if h : r < 32 then { t with v := t.v.set r (elemSets t.v[r] t.lanes sew l) } else t

/-- A register becomes ungraded (R45, R118). -/
def Thread.ungrade (t : Thread) (r : Nat) : Thread :=
  if h : r < 32 then { t with tags := t.tags.set r 0x7FF } else t

/-! ### Predicates (R42) -/

/-- Predicate bit i; p0 reads all-true. -/
def Thread.pred (t : Thread) (p : PReg) (i : Nat) : Bool :=
  p == 0 || (sget (t.p[p.toNat]'p.isLt) (i % t.lanes)).getLsbD (i / t.lanes)

/-- A lane's predicate slice with one bit replaced. -/
def setBit128 (c : BitVec 128) (i : Nat) (b : Bool) : BitVec 128 :=
  if b then c ||| ((1 : BitVec 128) <<< i) else c &&& ~~~((1 : BitVec 128) <<< i)

/-- A predicate's slices with bits replaced. -/
def predSets (r : Sparse 128) (lanes : Nat) : List (Nat × Bool) → Sparse 128
  | [] => r
  | (i, b) :: l => predSets (sset r (i % lanes) (setBit128 (sget r (i % lanes)) (i / lanes) b)) lanes l

/-- Bits of a predicate replaced. -/
def Thread.setPred (t : Thread) (p : PReg) (l : List (Nat × Bool)) : Thread :=
  { t with p := t.p.set p.toNat (predSets (t.p[p.toNat]'p.isLt) t.lanes l) p.isLt }

/-! ### The elements a word acts on -/

/-- What a word acts under: its type, flush setting, VL, and the elements of its domain: those below VL, or the lanes
of its group (R115, R226). -/
structure VEnv where
  vt : DWord
  sew : Nat
  flush : BitVec 2
  vl : Nat
  dom : List Nat
  deriving DecidableEq, Repr

/-- The environment that VL and VTYPE give (R48). -/
def Thread.env (t : Thread) : VEnv :=
  { vt := t.vtype, sew := vtSew t.vtype, flush := vtFlush t.vtype, vl := t.vl.toNat, dom := List.range t.vl.toNat }

/-- The active elements under a governing predicate (R115). -/
def VEnv.active (env : VEnv) (t : Thread) (p : PReg) : List Nat := env.dom.filter fun i => t.pred p i

/-- The second source at element i (R119): an element of vs1, or the captured scalar or immediate at the width. -/
def secondSource (t : Thread) (env : VEnv) (form : Form) (s1 : Reg) (b : DWord) (i : Nat) : Nat :=
  match form with
  | .vv => t.elem s1.toNat env.sew i
  | _ => b.toNat % 2 ^ env.sew

/-- What a word captures for its second source (R119, R219): x[rs1], f[rs1], or the immediate, sign-extended or not. -/
def captureSecond (t : Thread) (form : Form) (s1 : Reg) (unsignedImm : Bool) : DWord :=
  match form with
  | .vv => 0
  | .vx => t.readX s1
  | .vf => t.readF s1
  | .vi => if unsignedImm then s1.setWidth 64 else s1.signExtend 64

/-- A number of a width read as signed. -/
def asSigned (w a : Nat) : Int := if a < 2 ^ (w - 1) then a else (a : Int) - 2 ^ w

/-- An element-wise word: values with flags for its active elements, the destination ungraded when VL > 0
(R115 to R118, R63). -/
def State.writeVector (s : State) (env : VEnv) (vd sew : Nat) (l : List (Nat × Nat × Flags)) : State :=
  if env.vl = 0 then s
  else
    { s with t :=
      { ((s.t.setElems vd sew (l.map fun e => (e.1, e.2.1))).ungrade vd) with
        fflags := l.foldl (fun g e => g ||| e.2.2) s.t.fflags } }

/-- A compare's bits written into a predicate with flags (R63, R132). -/
def State.writePred (s : State) (pd : PReg) (l : List (Nat × Bool × Flags)) : State :=
  { s with t :=
    { (s.t.setPred pd (l.map fun e => (e.1, e.2.1))) with
      fflags := l.foldl (fun g e => g ||| e.2.2) s.t.fflags } }

end Sys2Proof.Machine
end

