-- ==== Sys2Proof/Machine/VArith.lean ====
section
/-! DEFINITION. The effects of the vector arithmetic, conversion, predicate, permute, move and reduction words on the
elements (R121 to R137). -/

namespace Sys2Proof.Machine

/-! ### Integer and bitwise words (R121) -/

/-- An element-wise word of VOPI: f takes the width, a, b and the old element of vd. -/
def vecInt (f : Nat → Nat → Nat → Nat → Nat) (p : PReg) (form : Form) (vs2 : VReg) (s1 : Reg) (vd : VReg)
    (b : DWord) (env : VEnv) (s : State) : State :=
  let t := s.t
  s.writeVector env vd.toNat env.sew ((env.active t p).map fun i =>
    (i, f env.sew (t.elem vs2.toNat env.sew i) (secondSource t env form s1 b i) (t.elem vd.toNat env.sew i) % 2 ^ env.sew, 0))

/-- A signed result as a number of a width. -/
def ofSigned (w : Nat) (n : Int) : Nat := (n % 2 ^ w).toNat

/-- a − b of a width. -/
def subMod (w a b : Nat) : Nat := (a + 2 ^ w - b % 2 ^ w) % 2 ^ w

/-- The high half of the signed product. -/
def mulhS (w a b : Nat) : Nat := ofSigned w (asSigned w a * asSigned w b / 2 ^ w)

/-- Arithmetic shift right. -/
def sraMod (w a n : Nat) : Nat := ofSigned w (asSigned w a / 2 ^ n)

/-! ### IEEE words (R122 to R126) -/

/-- An element-wise IEEE word on a, b and the old element of vd, read under the flush setting. -/
def vecFp (f : Fmt → BitVec 3 → BitVec 2 → FVal → FVal → FVal → Nat × Flags) (p : PReg) (form : Form) (vs2 : VReg)
    (s1 : Reg) (vd : VReg) (e : VEntry) (env : VEnv) (s : State) : State :=
  let t := s.t
  let fm := vtIeeeFmt env.vt
  let rd := fm.read env.flush
  s.writeVector env vd.toNat env.sew ((env.active t p).map fun i =>
    (i, f fm e.frm env.flush (rd (t.elem vs2.toNat env.sew i)) (rd (secondSource t env form s1 e.b i)) (rd (t.elem vd.toNat env.sew i))))

/-- A pattern as it is read under a flush setting: under 0b10 a subnormal is the zero of its sign (R119). -/
def Fmt.flushed (f : Fmt) (fl : BitVec 2) (b : Nat) : Nat :=
  if fl = 2 ∧ bits b f.mb f.eb = 0 then f.zero (f.signOf b) else b

/-- VFMIN and VFMAX over the operands as read (R98, R119). -/
def vecMinMax (max : Bool) (p : PReg) (form : Form) (vs2 : VReg) (s1 : Reg) (vd : VReg) (e : VEntry) (env : VEnv)
    (s : State) : State :=
  let t := s.t
  let fm := vtIeeeFmt env.vt
  s.writeVector env vd.toNat env.sew ((env.active t p).map fun i =>
    let a := fm.flushed env.flush (t.elem vs2.toNat env.sew i)
    let b := fm.flushed env.flush (secondSource t env form s1 e.b i)
    (i, fm.minMax max a b (fm.value a) (fm.value b)))

/-- VFSGNJ: a bit move (R119, R122). -/
def vecSgnj (p : PReg) (form : Form) (vs2 : VReg) (s1 : Reg) (vd : VReg) (e : VEntry) (env : VEnv) (s : State) : State :=
  let t := s.t
  let fm := vtIeeeFmt env.vt
  s.writeVector env vd.toNat env.sew ((env.active t p).map fun i =>
    (i, fm.withSign (t.elem vs2.toNat env.sew i) (fm.signOf (secondSource t env form s1 e.b i)), 0))

/-- VFCLASS: the class of a as read (R99, R119). -/
def vecClass (p : PReg) (vs2 vd : VReg) (env : VEnv) (s : State) : State :=
  let t := s.t
  let fm := vtIeeeFmt env.vt
  s.writeVector env vd.toNat env.sew ((env.active t p).map fun i =>
    (i, fm.classMask (fm.flushed env.flush (t.elem vs2.toNat env.sew i)), 0))

/-- The estimate of 1/√a: the exact value toward zero to 8 significant bits (R123). -/
def Fmt.rsqrte (f : Fmt) (a : FVal) : Nat × Flags :=
  match a with
  | .nan sg => (f.nan, (FVal.nan sg).nv)
  | .inf neg => if neg then (f.nan, flagNV) else (f.zero false, 0)
  | .num neg q =>
    if q = 0 then (f.inf neg, flagDZ)
    else if q < 0 then (f.nan, flagNV)
    else
      let r := sqrtNear (1 / q)
      let g := ilog2 r - 7
      ((f.round 1 0 false (.num false ((roundNat 1 false (r * pow2 (-g)) : Rat) * pow2 g))).1, 0)

/-- VFRSQRTE (R123). -/
def vecRsqrte (p : PReg) (vs2 vd : VReg) (env : VEnv) (s : State) : State :=
  let t := s.t
  let fm := vtIeeeFmt env.vt
  s.writeVector env vd.toNat env.sew ((env.active t p).map fun i =>
    (i, fm.rsqrte (fm.read env.flush (t.elem vs2.toNat env.sew i))))

/-- VMIX (R124). -/
def vecMix (p : PReg) (form : Form) (vs2 : VReg) (s1 : Reg) (vd : VReg) (b : DWord) (env : VEnv) (s : State) : State :=
  let t := s.t
  s.writeVector env vd.toNat 32 ((env.active t p).map fun i =>
    (i, (mix (BitVec.ofNat 32 (t.elem vs2.toNat 32 i)) (BitVec.ofNat 32 (secondSource t env form s1 b i))).toNat, 0))

/-- The BF16 value in the low (0) or high (1) half of a word (R125). -/
def half (fl : BitVec 2) (w k : Nat) : FVal := bf16.read fl (bits w (16 * k) 16)

/-- VFDOT4: one fused sum of four BF16 products and the old element (R125). -/
def vecDot4 (p : PReg) (form : Form) (vs2 : VReg) (s1 : Reg) (vd : VReg) (e : VEntry) (env : VEnv) (s : State) : State :=
  let t := s.t
  let fl := env.flush
  s.writeVector env vd.toNat 32 ((env.active t p).map fun i =>
    let a0 := t.elem vs2.toNat 32 i
    let a1 := t.elem (vs2.toNat + 1) 32 i
    let b0 := if form = .vv then t.elem s1.toNat 32 i else field e.b 0 32
    let b1 := if form = .vv then t.elem (s1.toNat + 1) 32 i else field e.b 32 32
    let ps := [(half fl a0 0).mul (half fl b0 0), (half fl a0 1).mul (half fl b0 1),
      (half fl a1 0).mul (half fl b1 0), (half fl a1 1).mul (half fl b1 1)]
    (i, f32.sum e.frm fl (ps.foldl (fun g q => g ||| q.2) 0) (f32.read fl (t.elem vd.toNat 32 i) :: ps.map fun q => q.1)))

/-- VFMERGE: every element of the domain takes b or a by the predicate (R126). -/
def vecMerge (p : PReg) (form : Form) (vs2 : VReg) (s1 : Reg) (vd : VReg) (b : DWord) (env : VEnv) (s : State) : State :=
  let t := s.t
  s.writeVector env vd.toNat env.sew (env.dom.map fun i =>
    (i, if t.pred p i then secondSource t env form s1 b i else t.elem vs2.toNat env.sew i, 0))

/-! ### Conversions (R127 to R130) -/

/-- A source type of VFCVT: its width, and whether it is an integer (signed), an IEEE format or a block format (R127). -/
inductive CvtType where
  | int (signed : Bool) (w : Nat)
  | ieee (f : Fmt)
  | block (f : BFmt)
  deriving DecidableEq, Repr

/-- The type of a source code (R127). -/
def cvtSource (k : Nat) : CvtType :=
  match k with
  | 0 => .int true 8
  | 1 => .int false 8
  | 2 => .int true 16
  | 3 => .int false 16
  | 4 => .int true 32
  | 5 => .int false 32
  | 6 => .int true 64
  | 7 => .int false 64
  | 8 => .ieee f16
  | 9 => .ieee bf16
  | 10 => .ieee f32
  | 11 => .ieee f64
  | 12 => .block b8
  | 13 => .block b6
  | _ => .block b4

/-- The container width of a conversion type in a register (R73, R111). -/
def CvtType.sew : CvtType → Nat
  | .int _ w => w
  | .ieee f => f.width
  | .block f => if f.width = 4 then 4 else 8

/-- The conversion type that VTYPE names. -/
def cvtDest (vt : DWord) : CvtType :=
  if vtInt vt then .int (vtFmt vt == 0) (vtSew vt)
  else if vtIeee vt then .ieee (vtIeeeFmt vt)
  else .block (vtBlockFmt vt)

/-- The registers that a source group spans (R128). -/
def cvtGroup (src : CvtType) (lanes rowcap vl : Nat) : Nat :=
  let m := vlmax lanes rowcap src.sew
  if m = 0 then 0 else (vl + m - 1) / m

/-- The source group of a conversion is at most eight registers and ends below v32 (R128). -/
def cvtFits (code : Reg) (vs2 : VReg) (lanes rowcap vl : Nat) : Bool :=
  let g := cvtGroup (cvtSource (code.toNat % 16)) lanes rowcap vl
  decide (g ≤ 8) && (g == 0 || decide (vs2.toNat + g ≤ 32))

/-- The pair of types, the rounding override and the registers are legal (R127, R129, R130); code is vs1. -/
def cvtLegal (vt : DWord) (code : Reg) (p : PReg) (vs2 vd : VReg) : Bool :=
  let rtz := decide (16 ≤ code.toNat)
  match cvtSource (code.toNat % 16), cvtDest vt with
  | .ieee a, .ieee b => a != b
  | .int _ _, .ieee _ => !rtz
  | .ieee _, .int _ _ => true
  | .ieee _, .block _ => !rtz && p == 0 && vd != 31
  | .block _, .ieee _ => !rtz && vs2 != 31
  | _, _ => false

/-- Element i of a source group: register vs2 + i div VLMAX_s (R128). -/
def groupElem (t : Thread) (vs2 sew m i : Nat) : Nat := t.elem (vs2 + i / m) sew (i % m)

/-- The exact value of source element i of a conversion into an IEEE format, and the flags of reading it. -/
def cvtValue (src : CvtType) (fl : BitVec 2) (t : Thread) (vs2 m i : Nat) : FVal :=
  match src with
  | .int sg w =>
    let a := groupElem t vs2 w m i
    .num false ((if sg then asSigned w a else (a : Int)) : Int)
  | .ieee f => f.read fl (groupElem t vs2 f.width m i)
  | .block f => f.decode (t.elem vs2 (if f.width = 4 then 4 else 8) i) (t.elem (vs2 + 1) 32 (i / 48))

/-- A conversion of one value into an IEEE format or an integer (R67, R68, R127, R129). -/
def cvtElem (src dst : CvtType) (rm : BitVec 3) (fl : BitVec 2) (v : FVal) : Nat × Flags :=
  match src, dst with
  | .int _ _, .ieee f => f.round rm fl false v
  | .ieee g, .ieee f => g.convertTo f rm fl v
  | _, .ieee f => f.convert rm fl v
  | _, .int sg w => let r := toInteger rm sg w v; (ofSigned w r.1, r.2)
  | _, .block _ => (0, 0)

/-- Blocks of encoded values: the codes at their elements, the scale pairs by block, and the flags (R130). -/
def cvtBlocks (f : BFmt) (vl : Nat) (val : Nat → FVal × Bool) : List (Nat × Nat × List Nat × Flags) :=
  (List.range ((vl + 47) / 48)).map fun j =>
    (j, f.encode ((List.range 48).map fun q => if 48 * j + q < vl then val (48 * j + q) else (.num false 0, false)))

/-- VFCVT (R127 to R130). Inside a lane group, elements outside the group enter a block as +0. -/
def vecCvt (p : PReg) (vs2 : VReg) (code : Reg) (vd : VReg) (e : VEntry) (env : VEnv) (rowcap : Nat) (s : State) : State :=
  let t := s.t
  let src := cvtSource (code.toNat % 16)
  let dst := cvtDest env.vt
  let rm := if 16 ≤ code.toNat then 1 else e.frm
  let m := vlmax t.lanes rowcap src.sew
  match dst with
  | .block f =>
    if env.vl = 0 then s
    else
      let sign := fun i => match src with
        | .ieee sf => sf.signOf (groupElem t vs2.toNat sf.width m i)
        | _ => false
      let bs := cvtBlocks f env.vl fun i =>
        if env.dom.contains i then (cvtValue src env.flush t vs2.toNat m i, sign i) else (.num false 0, false)
      let sew := (CvtType.block f).sew
      let codes := bs.foldr (fun b l => ((b.2.2.1.zipIdx).map fun c => (48 * b.1 + c.2, c.1)) ++ l) []
      let t := (t.setElems vd.toNat sew codes).ungrade vd.toNat
      let t := (t.setElems (vd.toNat + 1) 32 (bs.map fun b => (b.1, b.2.1))).ungrade (vd.toNat + 1)
      ({ s with t := t } : State).orFlags (bs.foldl (fun g b => g ||| b.2.2.2) 0)
  | _ =>
    s.writeVector env vd.toNat env.sew ((env.active t p).map fun i =>
      (i, cvtElem src dst rm env.flush (cvtValue src env.flush t vs2.toNat m i)))

/-! ### Predicates and compares (R131, R132) -/

/-- A predicate operation on the bits below VL that the governing predicate admits (R131). -/
def predOp (f : Bool → Bool → Bool) (p ps2 ps1 pd : PReg) (env : VEnv) (s : State) : State :=
  s.writePred pd ((env.active s.t p).map fun i => (i, f (s.t.pred ps2 i) (s.t.pred ps1 i), 0))

/-- PMERGE: every bit below VL (R131). -/
def predMerge (p ps2 ps1 pd : PReg) (env : VEnv) (s : State) : State :=
  s.writePred pd (env.dom.map fun i => (i, if s.t.pred p i then s.t.pred ps1 i else s.t.pred ps2 i, 0))

/-- An integer compare (R132). -/
def vecCompare (f : Nat → Nat → Nat → Bool) (p : PReg) (form : Form) (vs2 : VReg) (s1 : Reg) (pd : PReg) (b : DWord)
    (env : VEnv) (s : State) : State :=
  let t := s.t
  s.writePred pd ((env.active t p).map fun i =>
    (i, f env.sew (t.elem vs2.toNat env.sew i) (secondSource t env form s1 b i), 0))

/-- An IEEE compare (R132). DEDUCED, unsafe: assumption 36 of the log. -/
def vecFpCompare (k : Nat) (p : PReg) (form : Form) (vs2 : VReg) (s1 : Reg) (pd : PReg) (e : VEntry) (env : VEnv)
    (s : State) : State :=
  let t := s.t
  let fm := vtIeeeFmt env.vt
  s.writePred pd ((env.active t p).map fun i =>
    (i, fpCompare k (fm.read env.flush (t.elem vs2.toNat env.sew i)) (fm.read env.flush (secondSource t env form s1 e.b i))))

/-! ### Permutes and moves (R133 to R135) -/

/-- A permute: element i of vd from a function of i; none keeps the element (R133). -/
def vecPermute (f : Nat → Option Nat) (p : PReg) (vd : VReg) (env : VEnv) (s : State) : State :=
  s.writeVector env vd.toNat env.sew ((env.active s.t p).filterMap fun i => (f i).map fun v => (i, v % 2 ^ env.sew, 0))

/-- VSTEP (R133). -/
def vecStep (p : PReg) (vd : VReg) (b : DWord) (env : VEnv) (s : State) : State :=
  vecPermute (fun i => some (b.toNat % 2 ^ env.sew + i)) p vd env s

/-- VXCH (R133). -/
def vecXch (p : PReg) (vs2 vd : VReg) (d : DWord) (env : VEnv) (s : State) : State :=
  vecPermute (fun i =>
    let j := i ^^^ (d.toNat % 2 ^ 14)
    some (s.t.elem vs2.toNat env.sew (if j < env.vl then j else i))) p vd env s

/-- VSLIDEUP (R133). -/
def vecSlideUp (p : PReg) (vs2 vd : VReg) (d : DWord) (env : VEnv) (s : State) : State :=
  vecPermute (fun i => if d.toNat ≤ i then some (s.t.elem vs2.toNat env.sew (i - d.toNat)) else none) p vd env s

/-- VSLIDEDN (R133). -/
def vecSlideDn (p : PReg) (vs2 vd : VReg) (d : DWord) (env : VEnv) (s : State) : State :=
  vecPermute (fun i => some (if i + d.toNat < env.vl then s.t.elem vs2.toNat env.sew (i + d.toNat) else 0)) p vd env s

/-- VGATHER (R133): the index from vs1[i], x[rs1] at the width, or the zero-extended immediate. -/
def vecGather (p : PReg) (form : Form) (vs2 : VReg) (s1 : Reg) (vd : VReg) (b : DWord) (env : VEnv) (s : State) : State :=
  vecPermute (fun i =>
    let j := if form = .vi then b.toNat else secondSource s.t env form s1 b i
    some (if j < env.vl then s.t.elem vs2.toNat env.sew j else 0)) p vd env s

/-- VCOMPRESS (R133). -/
def vecCompress (p : PReg) (vs2 vd : VReg) (env : VEnv) (s : State) : State :=
  let src := env.dom.filter fun i => s.t.pred p i
  s.writeVector env vd.toNat env.sew ((src.zipIdx).map fun e => (e.2, s.t.elem vs2.toNat env.sew e.1, 0))

/-- VCONF (R134): the last earlier active element with the same value, or all ones. -/
def vecConf (p : PReg) (vs2 vd : VReg) (env : VEnv) (s : State) : State :=
  let act := env.active s.t p
  vecPermute (fun i =>
    let same := act.filter fun j => decide (j < i) && s.t.elem vs2.toNat env.sew j == s.t.elem vs2.toNat env.sew i
    some (same.getLast?.getD (2 ^ env.sew - 1))) p vd env s

/-- VMVXS (R135): element idx, sign-extended under an i type, 0 at or beyond VL; in form 01 idx is all 64 bits
of x[rs1]. DEDUCED, unsafe: assumption 111 of the log. -/
def vecToX (form : Form) (vs2 : VReg) (rd : Reg) (b : DWord) (env : VEnv) (s : State) : State :=
  if env.vl = 0 then s
  else
    let idx := if form = .vv then 0 else b.toNat
    let v := if idx < env.vl then s.t.elem vs2.toNat env.sew idx else 0
    s.setX rd (if vtFmt env.vt = 0 then BitVec.ofInt 64 (asSigned env.sew v) else BitVec.ofNat 64 v)

/-- VMVSX (R135). -/
def vecFromScalar (vd : VReg) (b : DWord) (env : VEnv) (s : State) : State :=
  s.writeVector env vd.toNat env.sew [(0, b.toNat % 2 ^ env.sew, 0)]

/-- VPOPC (R135): 0 where no element is active, whatever R116 says of such words. DEDUCED, unsafe: assumption 110 of the log. -/
def vecPopc (p ps2 : PReg) (rd : Reg) (env : VEnv) (s : State) : State :=
  if env.vl = 0 then s
  else s.setX rd (BitVec.ofNat 64 ((env.active s.t p).filter fun i => s.t.pred ps2 i).length)

/-- VFIRST (R135). -/
def vecFirst (p ps2 : PReg) (rd : Reg) (env : VEnv) (s : State) : State :=
  if env.vl = 0 then s
  else s.setX rd (match (env.active s.t p).find? fun i => s.t.pred ps2 i with
    | some i => BitVec.ofNat 64 i
    | none => BitVec.allOnes 64)

/-! ### Reductions (R136, R137) -/

/-- One level of the pairwise tree. -/
def pairUp (f : Nat → Nat → Nat × Flags) : List Nat → List Nat × Flags
  | [] => ([], 0)
  | [a] => ([a], 0)
  | a :: b :: l =>
    let r := f a b
    let q := pairUp f l
    (r.1 :: q.1, r.2 ||| q.2)

/-- The pairwise tree: levels until one value is left (R136). -/
def reduceTree (f : Nat → Nat → Nat × Flags) : Nat → List Nat → Flags → Nat × Flags
  | 0, l, g => (l.headD 0, g)
  | n + 1, l, g =>
    if l.length ≤ 1 then (l.headD 0, g)
    else
      let r := pairUp f l
      reduceTree f n r.1 (g ||| r.2)

/-- The initial value of a reduction (R136). -/
def reduceStart (form : Form) (s1 : Reg) (b : DWord) (env : VEnv) (t : Thread) : Nat :=
  if form = .vv then t.elem s1.toNat env.sew 0 else b.toNat % 2 ^ env.sew

/-- VREDS, VREDMIN, VREDMAX (R136). -/
def vecReduce (fi : Nat → Bool → Nat → Nat → Nat) (ff : Fmt → BitVec 3 → BitVec 2 → Nat → Nat → Nat × Flags)
    (p : PReg) (form : Form) (vs2 : VReg) (s1 : Reg) (vd : VReg) (e : VEntry) (env : VEnv) (s : State) : State :=
  let t := s.t
  let l := reduceStart form s1 e.b env t :: (env.active t p).map fun i => t.elem vs2.toNat env.sew i
  let f := fun a b =>
    if vtInt env.vt then (fi env.sew (vtFmt env.vt == 0) a b % 2 ^ env.sew, (0 : Flags))
    else ff (vtIeeeFmt env.vt) e.frm env.flush a b
  let r := reduceTree f l.length l 0
  s.writeVector env vd.toNat env.sew [(0, r.1, r.2)]

/-- One addition of VFREDO: a two-operand sum rounded once (R66, R137). -/
def redoAdd (fm : Fmt) (rm : BitVec 3) (fl : BitVec 2) (acc : Nat × Flags) (x : Nat) : Nat × Flags :=
  let r := fm.sum rm fl 0 [fm.read fl acc.1, fm.read fl x]
  (r.1, acc.2 ||| r.2)

/-- The elements after which VFREDO may stop: an element group of its width (R137). -/
def redoGroup (lanes sew : Nat) : Nat := if sew = 64 then 2 * lanes else 4 * lanes * (32 / sew)

/-- VFREDO from where VRSI and VRSS say to an element limit (R137): past VL it completes, otherwise it stops there with its state
in VRSI and VRSS. The flags so far are kept with the entry. With no active element vd[0] takes the start value bit for bit.
DEDUCED, unsafe: assumption 112 of the log. -/
def vecRedo (limit : Nat) (p : PReg) (form : Form) (vs2 : VReg) (s1 : Reg) (vd : VReg) (e : VEntry) (env : VEnv)
    (s : State) : Bool × Flags × State :=
  let t := s.t
  let fm := vtIeeeFmt env.vt
  if env.vl = 0 then (true, 0, s)
  else
    let started := t.vrsi != 0
    let acc0 := if started then t.vrss.toNat % 2 ^ env.sew else reduceStart form s1 e.b env t
    let i0 := t.vrsi.toNat
    let i1 := min env.vl limit
    let act := (env.active t p).filter fun i => decide (i0 ≤ i) && decide (i < i1)
    let r := act.foldl (fun acc i => redoAdd fm e.frm env.flush acc (t.elem vs2.toNat env.sew i)) (acc0, 0)
    if env.vl ≤ limit ∨ env.vl ≤ i0 then
      (true, 0, (s.writeVector env vd.toNat env.sew [(0, r.1, r.2 ||| e.flags)]).onThread fun t => { t with vrsi := 0, vrss := 0 })
    else
      (false, r.2, s.onThread fun t => { t with vrsi := BitVec.ofNat 64 i1, vrss := BitVec.ofNat 64 r.1 })

end Sys2Proof.Machine
end

