-- ==== Sys2Proof/Machine/Legal.lean ====
section
/-! DEFINITION. Which vector-side words VTYPE, VL and the mode admit (R36, R44, R47, R120, R128, R143, R146, R195,
R211), and what a word captures when it enters the queue (R48, R119, R141, R219, R291). -/

namespace Sys2Proof.Machine

/-! ### Classes of words under VTYPE -/

/-- What a legality check sees: VTYPE and VL as the latest configuration word set them, the lanes and the rows. -/
structure LegalEnv where
  vt : DWord
  vl : Nat
  lanes : Nat
  rowcap : Nat
  zn : Nat
  deriving DecidableEq, Repr

/-- An i or n type at SEW 8 to 64 (R120). -/
def LegalEnv.int (e : LegalEnv) : Bool := vtInt e.vt
/-- Any type at SEW 8 to 64 (R120). -/
def LegalEnv.wide (e : LegalEnv) : Bool := vtSew e.vt != 4
/-- f16, bf16, f32 or f64 (R120). -/
def LegalEnv.ieee (e : LegalEnv) : Bool := vtIeee e.vt
/-- A reduction: an i or n type with vs1 or x, an IEEE type with vs1 or f (R120, R136). -/
def LegalEnv.reduce (e : LegalEnv) (form : Form) : Bool :=
  (e.int && form != .vf) || (e.ieee && form != .vx)

/-- The index group of n items fits (R143). -/
def indexFits (lanes rowcap : Nat) (vs2 : VReg) (n : Nat) : Bool :=
  let m := lanes * rowcap
  let g := if m = 0 then 0 else (n + m - 1) / m
  decide (g ≤ 8) && (g == 0 || decide (vs2.toNat + g ≤ 32))

/-- The index group of VL elements fits. -/
def LegalEnv.index (e : LegalEnv) (vs2 : VReg) : Bool := indexFits e.lanes e.rowcap vs2 e.vl

/-- The width of a plain access in bytes (R20). -/
def ewBytes : EW → Nat
  | .e8 => 1
  | .e16 => 2
  | .e32 => 4
  | .e64 => 8

/-- A plain access has VTYPE's width (R146). -/
def LegalEnv.width (e : LegalEnv) (w : EW) : Bool := vtSew e.vt == 8 * ewBytes w

/-- A raw access is legal (R146): its type, p0, VL in whole blocks, and not register 31. -/
def LegalEnv.raw (e : LegalEnv) (p : PReg) (r : VReg) : Bool :=
  (vtBlock e.vt || vtFmt e.vt == 3) && p == 0 && (!vtBlock e.vt || e.vl % 48 == 0) && r != 31

/-- The items of an indexed raw access (R143). -/
def LegalEnv.rawItems (e : LegalEnv) : Nat := if vtBlock e.vt then (e.vl + 47) / 48 else e.vl

/-- The limit of VL for graded words (R44), or 0 where VTYPE is neither f32 nor bf16. -/
def gradedLimit (vt : DWord) (lanes : Nat) : Nat :=
  if vtF32 vt then lanes else if vtFmt vt = 3 then 2 * lanes else 0

/-- A graded or multivector word is legal (R44). -/
def LegalEnv.graded (e : LegalEnv) : Bool :=
  (vtF32 e.vt || vtFmt e.vt == 3) && decide (e.vl ≤ gradedLimit e.vt e.lanes) && decide (16 ≤ e.rowcap)

/-- An accumulator exists under TILECAP.ZN (R198). -/
def LegalEnv.acc (e : LegalEnv) (z : ZReg) : Bool := decide (z.toNat < e.zn)

/-- A block tile type forbids register 31 as an operand (R200, R201). -/
def LegalEnv.operand (e : LegalEnv) (v : VReg) : Bool := !vtBlock e.vt || v != 31

/-- The word is legal under VTYPE and VL, apart from the mode (R44, R47, R120, R128, R143, R146, R163, R198, R201).
Words of no vector kind are not. -/
def classLegal (i : Instr) (e : LegalEnv) : Bool :=
  match i with
  | .vsetvl _ _ _ | .vsetvli _ _ _ | .modet _ | .fsv | .fvv => true
  | .modev => true
  | _ => !vtIll e.vt && match i with
    | .vadd _ _ _ _ _ | .vsub _ _ _ _ _ | .vmul _ _ _ _ _ | .vmulh _ _ _ _ _ | .vmulhu _ _ _ _ _
    | .vmacc _ _ _ _ _ | .vmin _ _ _ _ _ | .vmax _ _ _ _ _ | .vminu _ _ _ _ _ | .vmaxu _ _ _ _ _
    | .vstep _ _ _ _ | .vcmpeq _ _ _ _ _ | .vcmpne _ _ _ _ _ | .vcmplt _ _ _ _ _ | .vcmpltu _ _ _ _ _
    | .vcmpge _ _ _ _ _ => e.int
    | .vconf _ _ _ => e.int && vtSew e.vt != 8
    | .vsll _ _ _ _ _ | .vsrl _ _ _ _ _ | .vsra _ _ _ _ _ => e.wide
    | .vand _ _ _ _ _ | .vor _ _ _ _ _ | .vxor _ _ _ _ _ => true
    | .vfadd _ _ _ _ _ | .vfsub _ _ _ _ _ | .vfmul _ _ _ _ _ | .vfdiv _ _ _ _ _ | .vfsqrt _ _ _
    | .vfmacc _ _ _ _ _ | .vfnmsac _ _ _ _ _ | .vfmin _ _ _ _ _ | .vfmax _ _ _ _ _ | .vfsgnj _ _ _ _ _
    | .vfrsqrte _ _ _ | .vfclass _ _ _ | .vfcmpeq _ _ _ _ _ | .vfcmplt _ _ _ _ _ | .vfcmple _ _ _ _ _
    | .vfredo _ _ _ _ _ => e.ieee
    | .vreds _ f _ _ _ | .vredmin _ f _ _ _ | .vredmax _ f _ _ _ => e.reduce f
    | .vfcvt p vs2 code vd => cvtLegal e.vt code p vs2 vd
    | .vmix _ _ _ _ _ => vtSew e.vt == 32 && (vtInt e.vt || vtFmt e.vt == 2)
    | .vfdot4 _ _ _ _ _ => vtF32 e.vt
    | .vfmerge _ _ _ _ _ | .vxch _ _ _ _ _ | .vslideup _ _ _ _ _ | .vslidedn _ _ _ _ _ | .vgather _ _ _ _ _
    | .vcompress _ _ _ | .vmvxs _ _ _ _ | .vmvsx _ _ _ => true
    | .pand _ _ _ _ | .por _ _ _ _ | .pxor _ _ _ _ | .pandn _ _ _ _ | .pnot _ _ _ | .pset _ _ | .pclr _ _
    | .pmerge _ _ _ _ | .vpopc _ _ _ | .vfirst _ _ _ => true
    | .vld _ _ w _ | .vlds _ _ _ w _ | .vst _ _ w _ | .vsts _ _ _ w _ => e.width w
    | .vldx _ vs2 _ w _ | .vstx _ vs2 _ w _ => e.width w && e.index vs2
    | .vldf _ _ _ | .vldfS _ _ _ _ | .vstF _ _ _ | .vstsF _ _ _ _ | .vstxF _ _ _ _ => e.ieee
    | .vldfX _ vs2 _ _ => e.ieee && e.index vs2
    | .vldr p _ r | .vldrS p _ _ r | .vstr p _ r | .vstrS p _ _ r => e.raw p r
    | .vldrX p vs2 _ r | .vstrX p vs2 _ r => e.raw p r && indexFits e.lanes e.rowcap vs2 e.rawItems
    | .vldg _ _ _ | .vldgS _ _ _ _ | .vstg _ _ _ | .vstgS _ _ _ _ => e.graded
    | .vldgX _ vs2 _ _ | .vstgX _ vs2 _ _ => e.graded && e.index vs2
    | .vldP _ _ | .vstP _ _ => true
    | .texs _ vs2 _ vd => vtF32 e.vt && vs2 != 31 && vd != 31
    | .vscadd _ vs2 _ w _ => e.width w && e.index vs2
    | .vstc _ vs2 _ _ => e.wide && e.index vs2
    | .gdecl _ _ | .gp _ _ _ _ _ _ _ | .gwedge _ _ _ _ _ _ _ | .gjoin _ _ _ _ _ _ _ | .gldot _ _ _ _ _ _ _
    | .gsand _ _ _ _ _ _ _ | .gcomm _ _ _ _ _ _ _ | .gproj _ _ _ _ _ _ | .grev _ _ _ _ _ | .ginvol _ _ _ _ _
    | .gdual _ _ _ _ _ | .gnormsq _ _ _ _ _ | .gnorm _ _ _ _ _ | .gnormz _ _ _ _ _ | .gexp _ _ _ _ _
    | .glog _ _ _ _ _ | .gsqrt _ _ _ _ _ | .ginv _ _ _ _ _ => e.graded
    | .vblk _ _ => true
    | .tzero z | .topas _ _ _ _ z | .tdrain _ z _ _ | .tldz _ _ z | .tstz _ _ z => e.acc z
    | .topa _ _ vb va z => e.acc z && e.operand vb && e.operand va
    | .tshape _ _ => true
    | .tfetch _ _ va => e.operand va
    | .hld _ _ _ | .hst _ _ _ | .hstTry _ _ _ _ => true
    | _ => false

/-- The words that only tile mode admits (R195). -/
def tileOnly : Instr → Bool
  | .tzero _ | .topa _ _ _ _ _ | .topas _ _ _ _ _ | .tdrain _ _ _ _ | .tldz _ _ _ | .tstz _ _ _ | .tshape _ _
  | .tfetch _ _ _ | .modev => true
  | _ => false

/-- The fence markers, which are no vector-side words and which both modes admit (R195, R218, R252). -/
def isMarker : Instr → Bool
  | .fsv | .fvv => true
  | _ => false

/-! ### Chains (R211) -/

/-- The width that a register has in a chain: 32 unless an earlier word of the chain wrote it. -/
def ChainPlace.width (c : ChainPlace) (r : VReg) : Nat :=
  match c.widths.find? fun w => w.reg == r with
  | some w => w.width
  | none => 32

/-- A register of a chain holds BF16 values that an earlier word wrote. -/
def ChainPlace.isBf16 (c : ChainPlace) (r : VReg) : Bool := c.widths.any fun w => w.reg == r && w.bf16

/-- The place of the next word of the chain, after a word that writes a register at a width. -/
def ChainPlace.writes (c : ChainPlace) (r : VReg) (width : Nat) (isBf16 : Bool) : ChainPlace :=
  { c with widths := { reg := r, width := width, bf16 := isBf16 } :: c.widths.filter fun w => w.reg != r }

/-- The destination of a conversion in a chain: its width, and whether it is BF16 (R211). -/
def chainCvt (code : Reg) : Option (Nat × Bool) :=
  match code.toNat % 16 with
  | 0 => some (8, false)
  | 2 => some (16, false)
  | 4 => some (32, false)
  | 8 => some (16, false)
  | 9 => some (16, true)
  | _ => none

/-- The destination type of a conversion in a chain. -/
def chainType (code : Reg) : CvtType :=
  match code.toNat % 16 with
  | 0 => .int true 8
  | 2 => .int true 16
  | 4 => .int true 32
  | 8 => .ieee f16
  | _ => .ieee bf16

/-- An arithmetic word of a chain on registers at width 32: the chain behind it, or none if it is illegal there. -/
def ChainPlace.arith (c : ChainPlace) (forms : List Form) (form : Form) (srcs : List VReg) (vd : VReg) : Option ChainPlace :=
  if forms.contains form && srcs.all (fun r => c.width r == 32) then some (c.writes vd 32 false) else none

/-- The vector registers of the second source. -/
def formRegs (form : Form) (s1 : Reg) : List VReg := if form = .vv then [s1] else []

/-- The chain behind a word, or none where the word is of no chain kind or breaks its row's limits (R211). Of the destinations only
those that the word also reads are operands at a chain width. DEDUCED, unsafe: assumption 119 of the log. -/
def ChainPlace.after (c : ChainPlace) (i : Instr) (lanes rowcap : Nat) : Option ChainPlace :=
  match i with
  | .vfadd _ f a s d | .vfsub _ f a s d | .vfmul _ f a s d | .vfmin _ f a s d | .vfmax _ f a s d
  | .vfsgnj _ f a s d => c.arith [.vv, .vf] f (a :: formRegs f s) d
  | .vfmacc _ f a s d | .vfnmsac _ f a s d => c.arith [.vv, .vf] f (a :: d :: formRegs f s) d
  | .vfmerge _ f a s d => c.arith [.vv, .vx, .vf, .vi] f (a :: formRegs f s) d
  | .vfcvt _ a code d =>
    match chainCvt code with
    | some (w, b) => if c.width a = 32 then some (c.writes d w b) else none
    | none => none
  | .vfcmpeq _ f a s _ | .vfcmplt _ f a s _ | .vfcmple _ f a s _ =>
    if [Form.vv, .vf].contains f && (a :: formRegs f s).all (fun r => c.width r == 32) then some c else none
  | .vst _ _ w r | .vsts _ _ _ w r => if c.width r = 8 * ewBytes w then some { c with stored := true } else none
  | .vscadd _ vs2 _ w r =>
    let ok := match w with
      | .e32 => c.width r == 32
      | .e16 => c.width r == 32 || (c.width r == 16 && c.isBf16 r)
      | _ => false
    if ok && indexFits lanes rowcap vs2 c.n then some { c with stored := true } else none
  | _ => none

/-! ### Capture -/

/-- What a word captures into its entry, besides FRM, GMODE, STHRESH and LBYPASS: x and f operands and descriptors
(R48, R119, R141, R197, R208, R210, R219, R225, R291). -/
def Thread.operands (t : Thread) (i : Instr) (e : VEntry) : VEntry :=
  let two := fun (a b : DWord) => { e with a := a, b := b }
  let second := fun (f : Form) (s : Reg) => { e with b := captureSecond t f s false }
  let unsig := fun (f : Form) (s : Reg) => { e with b := captureSecond t f s true }
  match i with
  | .vadd _ f _ s _ | .vsub _ f _ s _ | .vmul _ f _ s _ | .vmulh _ f _ s _ | .vmulhu _ f _ s _ | .vmacc _ f _ s _
  | .vand _ f _ s _ | .vor _ f _ s _ | .vxor _ f _ s _ | .vmin _ f _ s _ | .vmax _ f _ s _ | .vminu _ f _ s _
  | .vmaxu _ f _ s _ | .vfadd _ f _ s _ | .vfsub _ f _ s _ | .vfmul _ f _ s _ | .vfdiv _ f _ s _
  | .vfmacc _ f _ s _ | .vfnmsac _ f _ s _ | .vfmin _ f _ s _ | .vfmax _ f _ s _ | .vfsgnj _ f _ s _
  | .vmix _ f _ s _ | .vfdot4 _ f _ s _ | .vfmerge _ f _ s _ | .vstep _ f s _ | .vreds _ f _ s _
  | .vfredo _ f _ s _ | .vredmin _ f _ s _ | .vredmax _ f _ s _ | .vmvsx f s _ | .vcmpeq _ f _ s _
  | .vcmpne _ f _ s _ | .vcmplt _ f _ s _ | .vcmpltu _ f _ s _ | .vcmpge _ f _ s _ | .vfcmpeq _ f _ s _
  | .vfcmplt _ f _ s _ | .vfcmple _ f _ s _ => second f s
  | .vsll _ f _ s _ | .vsrl _ f _ s _ | .vsra _ f _ s _ | .vxch _ f _ s _ | .vslideup _ f _ s _
  | .vslidedn _ f _ s _ | .vgather _ f _ s _ | .vmvxs f _ s _ => unsig f s
  | .vld _ r _ _ | .vldx _ _ r _ _ | .vldf _ r _ | .vldfX _ _ r _ | .vldr _ r _ | .vldrX _ _ r _ | .vldg _ r _
  | .vldgX _ _ r _ | .vldP r _ | .texs _ _ r _ | .vst _ r _ _ | .vstx _ _ r _ _ | .vstF _ r _ | .vstxF _ _ r _
  | .vstr _ r _ | .vstrX _ _ r _ | .vstg _ r _ | .vstgX _ _ r _ | .vstP r _ | .vscadd _ _ r _ _ | .vstc _ _ r _
  | .tdrain _ _ r _ | .vblk _ r => { e with a := t.readX r }
  | .vlds _ b a _ _ | .vldfS _ b a _ | .vldrS _ b a _ | .vldgS _ b a _ | .vsts _ b a _ _ | .vstsF _ b a _
  | .vstrS _ b a _ | .vstgS _ b a _ | .tldz b a _ | .tstz b a _ | .tshape b a => two (t.readX a) (t.readX b)
  | .topas _ _ hb ha _ => { e with h1 := t.readH ha, h2 := t.readH hb }
  | .tfetch hs r _ => { e with a := t.readX r, h1 := t.readH hs }
  | .hld hs r _ => { e with a := t.readX r, h1 := t.readH hs }
  | .hst hs _ r | .hstTry _ hs _ r => { e with a := t.readX r, h1 := t.readH hs }
  | _ => e

/-- The entry of a word that enters the queue now (R48, R218, R219). -/
def State.captureEntry (s : State) (i : Instr) : VEntry :=
  s.t.operands i
    { addr := s.t.pc, instr := i, frm := s.t.frm, gmode := s.t.gmode, sthresh := s.t.sthresh, lbypass := s.t.lbypass
      seq := s.t.scalarCount }

end Sys2Proof.Machine
end

