-- ==== Sys2Proof/Machine/Records.lean ====
section
/-! DEFINITION. Records that scalar steps read and change: descriptors of 64 bytes, ray records with the rays that the marcher
holds, copies of instruction lines within a scope, and parked threads (R235, R236, R262, R287, R342, R344, R355). -/

namespace Sys2Proof.Machine

/-! ### Descriptors (R287) -/

/-- The doublewords of 8n bytes. -/
def dwords (bs : List Byte) : List DWord :=
  (List.range (bs.length / 8)).map fun k => BitVec.ofNat 64 (ofBytes ((bs.drop (8 * k)).take 8))

/-- A descriptor of 64 bytes. -/
def handleOf (bs : List Byte) : Handle :=
  let d := dwords bs
  let g := fun k => d.getD k 0
  ⟨g 0, g 1, g 2, g 3, g 4, g 5, g 6, g 7⟩

/-- Doubleword k of a descriptor. -/
def Handle.dword (h : Handle) (k : Nat) : DWord := [h.d0, h.d1, h.d2, h.d3, h.d4, h.d5, h.d6, h.d7].getD k 0

/-- The 64 bytes of a descriptor. -/
def handleBytes (h : Handle) : List Byte := (List.range 8).flatMap fun k => toBytes 8 (h.dword k).toNat

/-! ### Ray records (R342, R344) -/

/-- STATUS of a record. -/
def Handle.rayStatus (d : Handle) : Nat := field d.d5 32 4
/-- SUB of a record. -/
def Handle.raySub (d : Handle) : Nat := field d.d5 36 4
/-- STAGE of a record. -/
def Handle.rayStage (d : Handle) : Nat := field d.d5 40 4
/-- SEQ of a record. -/
def Handle.raySeq (d : Handle) : Nat := field d.d5 0 32
/-- CELL of a record. -/
def Handle.rayCell (d : Handle) : Nat := field d.d4 0 32
/-- LEFT of a record. -/
def Handle.rayLeft (d : Handle) : Nat := field d.d4 32 32
/-- TMIN of a record, as a word. -/
def Handle.rayTmin (d : Handle) : Nat := field d.d1 32 32
/-- TMAX of a record, as a word. -/
def Handle.rayTmax (d : Handle) : Nat := field d.d3 32 32
/-- The words of ORG. -/
def Handle.rayOrg (d : Handle) : List Nat := [field d.d0 0 32, field d.d0 32 32, field d.d1 0 32]
/-- The words of DIR. -/
def Handle.rayDir (d : Handle) : List Nat := [field d.d2 0 32, field d.d2 32 32, field d.d3 0 32]

/-- A doubleword with n bits from lo on replaced. -/
def putDword (w : DWord) (lo n v : Nat) : DWord :=
  BitVec.ofNat 64 (w.toNat - bits w.toNat lo n * 2 ^ lo + v % 2 ^ n * 2 ^ lo)

/-- A record with STATUS. -/
def Handle.withStatus (d : Handle) (st : Nat) : Handle := { d with d5 := putDword d.d5 32 4 st }
/-- A record with SUB. -/
def Handle.withSub (d : Handle) (n : Nat) : Handle := { d with d5 := putDword d.d5 36 4 n }
/-- A record with SEQ. -/
def Handle.withSeq (d : Handle) (n : Nat) : Handle := { d with d5 := putDword d.d5 0 32 n }
/-- A record with CAUSE. -/
def Handle.withCause (d : Handle) (c : Nat) : Handle := { d with d5 := putDword d.d5 48 8 c }
/-- A record with CELL. -/
def Handle.withCell (d : Handle) (n : Nat) : Handle := { d with d4 := putDword d.d4 0 32 n }
/-- A record with LEFT. -/
def Handle.withLeft (d : Handle) (n : Nat) : Handle := { d with d4 := putDword d.d4 32 32 n }
/-- A record with TMIN. -/
def Handle.withTmin (d : Handle) (w : Nat) : Handle := { d with d1 := putDword d.d1 32 32 w }
/-- A record with TMAX. -/
def Handle.withTmax (d : Handle) (w : Nat) : Handle := { d with d3 := putDword d.d3 32 32 w }

/-! ### Rays of an operation (R353 to R356) -/

/-- Replace an operation. -/
def State.setOp (s : State) (o : EngineOp) : State :=
  { s with ops := s.ops.map fun p => if p.id = o.id then o else p }

/-- The ray with a number. -/
def EngineOp.ray (o : EngineOp) (i : Nat) : Option Ray := o.rays.find? fun r => r.idx == i

/-- Replace a ray. -/
def EngineOp.setRay (o : EngineOp) (r : Ray) : EngineOp := { o with rays := o.rays.map fun x => if x.idx = r.idx then r else x }

/-- The rays in the resume buffer of a bay (R355). -/
def State.resumedRays (s : State) (bay : Nat) : Nat :=
  ((s.ops.filter fun o => o.kind == .rcast && bayOf o.home == bay).map fun o => (o.rays.filter fun r => r.decision.isSome).length).sum

/-- A ray has reached no final status (R354). -/
def Ray.pending (r : Ray) : Bool := r.status == 1 || r.status == 2 || r.status == 3 || r.status == 4

/-- The ray of the context whose record lies at an address, with its operation: pending, or held. -/
def State.rayAt (s : State) (ctx : Nat) (a : DWord) : Option (EngineOp × Ray) :=
  s.ops.findSome? fun o =>
    if o.kind = .rcast ∧ o.ctx = ctx then (o.rays.find? fun r => r.addr == a && r.pending).map fun r => (o, r) else none

/-! ### Scopes, instruction lines and parked threads (R235, R236, R253, R262) -/

/-- The scope covers a core, for the thread in focus (R235, R253). -/
def State.covers (s : State) (scope core : Nat) : Bool :=
  match scope with
  | 0 | 1 => core == coreOf s.pos
  | 2 => core / 8 == bayOf s.pos
  | 3 => core / 128 == dieOf s.pos
  | _ => true

/-- The line of a copy holds a byte of a range of addresses of the thread in focus: the range names the line's address in the
same context, or one of the range's pages maps the line (R236). -/
def State.overlaps (s : State) (a n : Nat) (e : FetchCopy) : Bool :=
  let near := fun (lo hi line : Nat) => decide (lo < line + 128) && decide (line < hi)
  n != 0 && ((e.ctx == s.t.ctx && near a (a + n) (e.va.toNat / 128 * 128))
    || (List.range ((a + n - 1) / 2 ^ 16 + 1 - a / 2 ^ 16)).any fun k =>
      let page := (a / 2 ^ 16 + k) * 2 ^ 16
      match s.leafFor s.agent page with
      | .error _ => false
      | .ok ((leaf, size), _) =>
        let pa := leafAddress leaf size page
        near (pa + (max a page - page)) (pa + (min (a + n) (page + 2 ^ 16) - page)) (e.pa / 128 * 128))

/-- A copy of an instruction line overlaps the range of an IFENCE, or every address is named (R236). -/
def State.fenced (s : State) (range : Option (Nat × Nat)) (e : FetchCopy) : Bool :=
  match range with
  | none => true
  | some (a, n) => s.overlaps a n e

/-- One record before another: rising stamp of the read at which each parked, then the lower slot (R262). -/
def parkedBefore (a b : ParkRec) : Bool := decide (a.since < b.since) || (a.since == b.since && decide (a.pos < b.pos))

/-- A record into a list in the order of R262. -/
def insertParked (k : ParkRec) : List ParkRec → List ParkRec
  | [] => [k]
  | j :: r => if parkedBefore k j then k :: j :: r else j :: insertParked k r

/-- The slots that a WAKE selects (R262): the first n of the context's threads parked on the address within the scope. -/
def State.selectParked (s : State) (scope : Nat) (ea : DWord) (pa n : Nat) : List Nat :=
  let l := s.parks.filter fun k => k.ctx == s.t.ctx && k.va == ea && k.pa == pa && !k.woken && s.covers scope (coreOf k.pos)
  ((l.foldr insertParked []).take n).map fun k => k.pos

end Sys2Proof.Machine
end

