-- ==== Sys2Proof/Machine/VMem.lean ====
section
/-! DEFINITION. Vector memory words: their items and addresses (R141 to R146), plain, multivector and predicate
accesses (R147, R148, R156), format regions (R76 to R79, R152 to R155), textures (R162, R163), first-fault loads and
precise stores (R149 to R151), posted scatters (R157 to R160) and the fault group (R378). -/

namespace Sys2Proof.Machine

/-- What the head of a vector queue comes to when it runs: it has committed, it has gone some way, it cannot go on, or
it has met a cause, with the faulting lane of a VBLK and the byte ranges of its items from the faulting one on, or it has
committed and met a cause (R308). -/
inductive VRes where
  | commit (s : State)
  | progress (e : VEntry) (s : State)
  | blocked (e : VEntry) (s : State)
  | trap (e : VEntry) (c : Cause) (val : DWord) (lane : Option (Nat × DWord)) (isStore : Bool)
      (spans : List (List (Nat × Nat))) (s : State)
  | commitTrap (c : Cause) (val : DWord) (s : State)
  deriving DecidableEq, Repr

/-! ### Words and items -/

/-- The addressing modes (R142). -/
inductive VMode where
  | unit | strided
  | indexed (vs2 : VReg)
  deriving DecidableEq, Repr

/-- What an access moves. -/
inductive MemKind where
  | plain (bytes : Nat)
  | multi | coded | raw | bits | texture
  deriving DecidableEq, Repr

/-- A vector memory word: its direction, addressing, kind, governing predicate and register or predicate. -/
structure MemWord where
  store : Bool
  mode : VMode
  kind : MemKind
  p : PReg
  reg : Nat
  deriving DecidableEq, Repr

/-- The word's access, if it is a vector load or a non-posted vector store (R140). -/
def memWord (i : Instr) : Option MemWord :=
  match i with
  | .vld p _ w d => some ⟨false, .unit, .plain (ewBytes w), p, d.toNat⟩
  | .vlds p _ _ w d => some ⟨false, .strided, .plain (ewBytes w), p, d.toNat⟩
  | .vldx p v _ w d => some ⟨false, .indexed v, .plain (ewBytes w), p, d.toNat⟩
  | .vldf p _ d => some ⟨false, .unit, .coded, p, d.toNat⟩
  | .vldfS p _ _ d => some ⟨false, .strided, .coded, p, d.toNat⟩
  | .vldfX p v _ d => some ⟨false, .indexed v, .coded, p, d.toNat⟩
  | .vldr p _ d => some ⟨false, .unit, .raw, p, d.toNat⟩
  | .vldrS p _ _ d => some ⟨false, .strided, .raw, p, d.toNat⟩
  | .vldrX p v _ d => some ⟨false, .indexed v, .raw, p, d.toNat⟩
  | .vldg p _ d => some ⟨false, .unit, .multi, p, d.toNat⟩
  | .vldgS p _ _ d => some ⟨false, .strided, .multi, p, d.toNat⟩
  | .vldgX p v _ d => some ⟨false, .indexed v, .multi, p, d.toNat⟩
  | .vldP _ d => some ⟨false, .unit, .bits, 0, d.toNat⟩
  | .texs p v _ d => some ⟨false, .indexed v, .texture, p, d.toNat⟩
  | .vst p _ w d => some ⟨true, .unit, .plain (ewBytes w), p, d.toNat⟩
  | .vsts p _ _ w d => some ⟨true, .strided, .plain (ewBytes w), p, d.toNat⟩
  | .vstx p v _ w d => some ⟨true, .indexed v, .plain (ewBytes w), p, d.toNat⟩
  | .vstF p _ d => some ⟨true, .unit, .coded, p, d.toNat⟩
  | .vstsF p _ _ d => some ⟨true, .strided, .coded, p, d.toNat⟩
  | .vstxF p v _ d => some ⟨true, .indexed v, .coded, p, d.toNat⟩
  | .vstr p _ d => some ⟨true, .unit, .raw, p, d.toNat⟩
  | .vstrS p _ _ d => some ⟨true, .strided, .raw, p, d.toNat⟩
  | .vstrX p v _ d => some ⟨true, .indexed v, .raw, p, d.toNat⟩
  | .vstg p _ d => some ⟨true, .unit, .multi, p, d.toNat⟩
  | .vstgS p _ _ d => some ⟨true, .strided, .multi, p, d.toNat⟩
  | .vstgX p v _ d => some ⟨true, .indexed v, .multi, p, d.toNat⟩
  | .vstP _ d => some ⟨true, .unit, .bits, 0, d.toNat⟩
  | _ => none

/-- idx(i): index element i of the group at vs2 (R143). -/
def indexAt (t : Thread) (rowcap : Nat) (vs2 : VReg) (i : Nat) : Nat :=
  let m := t.lanes * rowcap
  t.elem (vs2.toNat + i / m) 32 (i % m)

/-- The signed offset of item i, a unit item counting as `size` (R142, R152). -/
def itemOffset (t : Thread) (rowcap : Nat) (mode : VMode) (e : VEntry) (size i : Nat) : Int :=
  match mode with
  | .unit => (i * size : Nat)
  | .strided => i * e.b.toInt
  | .indexed v => (indexAt t rowcap v i : Nat)

/-- The byte address of item i, modulo 2⁶⁴ (R142). -/
def itemAddress (t : Thread) (rowcap : Nat) (mode : VMode) (e : VEntry) (size i : Nat) : Nat :=
  (e.a + BitVec.ofInt 64 (itemOffset t rowcap mode e size i)).toNat

/-- The elements of a word in a chain: 0 to N − 1, under f32 with the tile type's FLUSH (R211). -/
def chainEnv (t : Thread) (c : ChainPlace) : VEnv :=
  { vt := 0x12 ||| (t.vtype &&& 0x180), sew := 32, flush := vtFlush t.vtype, vl := c.n, dom := List.range c.n }

/-- The environment of an entry: its chain's, or that of VL and VTYPE (R48, R211). -/
def entryEnv (t : Thread) (e : VEntry) : VEnv :=
  match e.chain with
  | some c => chainEnv t c
  | none => t.env

/-! ### Format regions -/

/-- A format region, with the number that its pages carry (R76). -/
structure Region where
  number : Nat
  fmt : Nat
  base : Nat
  len : Nat
  sbase : Nat
  deriving DecidableEq, Repr

/-- The block format of a region; BF16 has none. -/
def Region.block (r : Region) : Option BFmt :=
  match r.fmt with
  | 4 => some b8
  | 5 => some b6
  | 6 => some b4
  | _ => none

/-- The bytes of an item: a block, or a BF16 element (R152). -/
def Region.size (r : Region) : Nat :=
  match r.block with
  | some f => f.blockBytes
  | none => 2

/-- The items that a region holds. -/
def Region.count (r : Region) : Nat := r.len / r.size

/-- The address of item n of a region, modulo 2⁶⁴ (R77). -/
def Region.address (r : Region) (n : Int) : Nat := (BitVec.ofInt 64 (r.base + n * r.size)).toNat

/-- The bytes of the scale pair of block j: three from SBASE + 20j div 8, and its bit in them (R77). -/
def Region.pair (r : Region) (j : Nat) : Nat × Nat := ((r.sbase + 20 * j / 8) % 2 ^ 64, 20 * j % 8)

/-- An entry of the format region table, if it is well formed (R76, R78). -/
def regionOf (number : Nat) (bs : List Byte) : Option Region :=
  let w := ofBytes bs
  let fmt := bits w 0 4
  if bits w 31 1 = 1 && decide (3 ≤ fmt) && decide (fmt ≤ 6) && bits w 4 2 == 0 && bits w 6 25 == 0 && bits w 32 32 == 0 then
    some { number := number, fmt := fmt, base := bits w 64 64, len := bits w 128 64, sbase := bits w 192 64 }
  else none

/-- The region entry of a number read by the device (R76, R78): a refusal by translation or permission is the format-region
fault at an address, a failed check is its own cause. -/
def State.readEntry (s : State) (ag : Agent) (frn fault : Nat) : Run (List Byte × State) :=
  match s.read { ag with level := true } .load 11 (s.entryAddress ag.ctx frn) 32 with
  | .error (.trap c v, s) => if c = cause.integrity then raise s c v else raise s cause.formatRegion (BitVec.ofNat 64 fault)
  | r => r

/-- The region that the page of an address names (R76, R78, R79): by the entry held with the page's translation, where the
machine uses one, or by the entry as the device reads it now. TRAPVAL of a lookup that fails is the address asked for, x[rs1] of
the word. DEDUCED, unsafe: assumption 23 of the log. DEDUCED, unsafe: assumption 108 of the log. -/
def State.region (s : State) (ag : Agent) (acc : Access) (a : Nat) : Run (Region × State) :=
  match s.translate ag acc a with
  | .error e => .error e
  | .ok ((_, frn), u) =>
    if frn = 0 then raise u cause.formatRegion (BitVec.ofNat 64 a)
    else match ((match s.heldEntry ag a with
        | some bs => .ok (bs, u)
        | none => u.readEntry ag frn a : Run (List Byte × State))) with
      | .error e => .error e
      | .ok (bs, s) => match regionOf frn bs with
        | some r => .ok (r, s)
        | none => raise s cause.formatRegion (BitVec.ofNat 64 a)

/-- The parts of an item translated, each in a page of the region's number (R78, R151). -/
def State.checkRegion (s : State) (ag : Agent) (acc : Access) (r : Region) (va : Nat) : List (Nat × Nat) → Run State
  | [] => .ok s
  | (a, _) :: l =>
    match s.translate ag acc a with
    | .error (.trap c v, s) => raise s c (if acc = .store then BitVec.ofNat 64 va else v)
    | .error e => .error e
    | .ok ((_, frn), s) =>
      if frn = r.number then State.checkRegion s ag acc r va l else raise s cause.formatRegion (BitVec.ofNat 64 va)

/-- Bytes within item n of a region: inside it, and in pages of its number (R78, R152). The address is the fault's. -/
def State.regionItem (s : State) (ag : Agent) (acc : Access) (r : Region) (n : Int) (off bytes : Nat) : Run (Nat × State) :=
  let va := (r.address n + off) % 2 ^ 64
  if n < 0 ∨ (r.count : Int) ≤ n then raise s cause.formatRegion (BitVec.ofNat 64 va)
  else match s.checkRegion ag acc r va (lineParts va bytes) with
    | .error e => .error e
    | .ok s => .ok (va, s)

/-- The scale pair of block j read for an item at an address: a page that translation refuses is the format-region fault
(R77, R78). -/
def State.readPair (s : State) (ag : Agent) (r : Region) (j va : Nat) : Run (Nat × State) :=
  match s.read ag .load 11 (r.pair j).1 3 with
  | .error (.trap c v, s) => if c = cause.translation then raise s cause.formatRegion (BitVec.ofNat 64 va) else raise s c v
  | .error e => .error e
  | .ok (bs, s) => .ok (bits (ofBytes bs) (r.pair j).2 20, s)

/-- What an access knows before its items: the region of a decoding or encoding access and its first item's number. -/
abbrev Prep := Option (Region × Int)

/-- x[rs1] as an item of a region: its number, if it is the address of a whole item (R152). -/
def Region.start (r : Region) (a : Nat) : Option Int :=
  let d := (a : Int) - r.base
  if d % r.size = 0 then some (d / r.size) else none

/-- The FMT code of the region that a raw access of a type needs (R155). -/
def rawFmt (vt : DWord) : Nat := vtFmt vt

/-- The address of block 0, for the faults that fall on it (R154, R155). -/
def blockZero (t : Thread) (rowcap : Nat) (w : MemWord) (e : VEntry) (r : Region) (n0 : Int) : Nat :=
  r.address (n0 + itemOffset t rowcap w.mode e 1 0)

/-! ### Textures -/

/-- The texel size and channels of a TFMT (R162, R163). -/
def texelSize (d : List DWord) : Nat :=
  match field (d.getD 1 0) 36 4 with
  | 0 => 4
  | 2 => 16
  | _ => 8

/-- The channels of a TFMT. DEDUCED, unsafe: assumption 27 of the log. -/
def texelChannels (d : List DWord) : Nat :=
  match field (d.getD 1 0) 36 4 with
  | 0 => 1
  | 1 => 2
  | _ => 4

/-- A texture descriptor is well formed (R162). -/
def textureOk (d : List DWord) : Bool :=
  let g := fun k => d.getD k 0
  (g 0).toNat % 128 == 0 && (g 2).toNat % 16 == 0 && field (g 1) 32 4 == 0 && decide (field (g 1) 36 4 ≤ 3)
    && decide (field (g 1) 40 2 ≤ 1) && decide (field (g 1) 42 2 ≤ 1) && field (g 1) 44 20 == 0
    && (g 3).toNat == 0 && (g 4).toNat == 0 && (g 5).toNat == 0 && (g 6).toNat == 0 && (g 7).toNat == 0

/-- A texture coordinate mapped to 0 to n − 1: clamped, or repeated (R163). -/
def wrapTexel (rep : Bool) (n : Nat) (x : Int) : Nat :=
  if rep then (x % n).toNat else if x < 0 then 0 else min x.toNat (n - 1)

/-- A fraction cut to a multiple of 2⁻⁸. -/
def cut8 (q : Rat) : Rat := ((q * 256).floor : Rat) / 256

/-- The taps of a sample at u·W and w·H: coordinates and weights (R163). -/
def texelTaps (bilinear : Bool) (u w : Rat) : List (Int × Int × Rat) :=
  if bilinear then
    let xs := u - 1 / 2
    let ys := w - 1 / 2
    let fx := cut8 (xs - xs.floor)
    let fy := cut8 (ys - ys.floor)
    [(xs.floor, ys.floor, (1 - fx) * (1 - fy)), (xs.floor + 1, ys.floor, fx * (1 - fy)),
      (xs.floor, ys.floor + 1, (1 - fx) * fy), (xs.floor + 1, ys.floor + 1, fx * fy)]
  else [(u.floor, w.floor, 1)]

/-- The channel c of a texel's bytes. -/
def texelChannel (fl : BitVec 2) (d : List DWord) (bs : List Byte) (c : Nat) : FVal :=
  if field (d.getD 1 0) 36 4 = 3 then bf16.read fl (bits (ofBytes bs) (16 * c) 16)
  else f32.read fl (bits (ofBytes bs) (32 * c) 32)

/-- What a step of a load comes to: a further tap of a texture element, or the values of an item with its flags. -/
inductive ItemRes where
  | tap (taps : List (Option (List Byte)))
  | values (l : List Loaded) (fl : Flags)
  deriving DecidableEq, Repr

/-- One tap read as one step (R163): the texel's bytes, or none where translation refuses it or its check fails. -/
def State.readTap (s : State) (d : List DWord) (x y : Int) : Run (Option (List Byte) × State) :=
  let g := fun k => d.getD k 0
  let rep := field (g 1) 42 2 == 1
  let tx := wrapTexel rep (field (g 1) 0 16 + 1) x
  let ty := wrapTexel rep (field (g 1) 16 16 + 1) y
  match s.read s.agent .load 6 (((g 0).toNat + ty * (g 2).toNat + tx * texelSize d) % 2 ^ 64) (texelSize d) with
  | .error (.wait w, s) => .error (.wait w, s)
  | .error (.trap _ _, s) => .ok (none, s.orderVector)
  | .ok (bs, s) => .ok (some bs, s.orderVector)

/-- One element of TEXS once its taps are read (R163): its channels and its status word. -/
def texelValues (w : MemWord) (e : VEntry) (env : VEnv) (i : Nat) (taps : List (Rat × Nat)) : ItemRes :=
  let d := e.xs
  let c := texelChannels d
  let ts := (taps.zip e.taps).map fun t => (t.1.1, t.2.getD (List.replicate (texelSize d) 0))
  let st := ((taps.zip e.taps).map fun t => if t.2.isNone then 2 ^ t.1.2 else 0).sum
  let chan := (List.range c).map fun k =>
    let ps := ts.map fun t => (FVal.num false t.1).mul (texelChannel env.flush d t.2 k)
    f32.sum e.frm env.flush (ps.foldl (fun g q => g ||| q.2) 0) (ps.map fun q => q.1)
  .values (((chan.zipIdx).map fun r => ⟨w.reg + r.2, 32, i, r.1.1⟩) ++ [⟨w.reg + c, 32, i, st⟩]) (chan.foldl (fun g r => g ||| r.2) 0)

/-- A step of an element of TEXS (R163): its next tap of a weight that is not zero, or its values. -/
def State.sampleTexel (s : State) (w : MemWord) (vc : VReg) (e : VEntry) (env : VEnv) (i : Nat) : Run (ItemRes × State) :=
  let d := e.xs
  let u := f32.read env.flush (s.t.elem vc.toNat 32 i)
  let v := f32.read env.flush (s.t.elem (vc.toNat + 1) 32 i)
  match u, v with
  | .num _ u, .num _ v =>
    let taps := (texelTaps (field (d.getD 1 0) 40 2 == 1) (u * (field (d.getD 1 0) 0 16 + 1 : Nat))
      (v * (field (d.getD 1 0) 16 16 + 1 : Nat))).zipIdx.filter fun t => t.1.2.2 != 0
    match taps[e.taps.length]? with
    | some t => match s.readTap d t.1.1 t.1.2.1 with
      | .error x => .error x
      | .ok (b, s) => .ok (.tap (e.taps ++ [b]), s)
    | none => .ok (texelValues w e env i (taps.map fun t => (t.1.2.2, t.2)), s)
  | _, _ =>
    let c := texelChannels d
    .ok (.values (((List.range c).map fun k => ⟨w.reg + k, 32, i, f32.nan⟩) ++ [⟨w.reg + c, 32, i, 0⟩]) (u.nv ||| v.nv), s)

/-! ### Preparation and items -/

/-- The index group of an access to a region fits, where the word's mode is indexed (R143). -/
def regionFits (w : MemWord) (env : VEnv) (r : Region) (s : State) : Bool :=
  match w.mode with
  | .indexed v => indexFits s.t.lanes s.core.rowcap v (if r.block.isSome then (env.vl + 47) / 48 else env.vl)
  | _ => true

/-- A texture descriptor read as one step, and checked: the channels must end below v32, which ranks before the fields
(R162, R163). -/
def textureRead (w : MemWord) (e : VEntry) (s : State) : Run (VEntry × State) :=
  if e.a.toNat % 64 ≠ 0 then raise s cause.misaligned e.a
  else match s.read s.agent .load 1 e.a.toNat 64 with
    | .error x => .error x
    | .ok (bs, s) =>
      let d := dwords bs
      if field (d.getD 1 0) 36 4 ≤ 3 ∧ 31 < w.reg + texelChannels d then illegalAt e.instr s
      else if !textureOk d then raise s cause.formatRegion e.a
      else .ok ({ e with xs := d }, s.orderVector)

/-- What an access does before its first item (R78, R143, R152, R154, R155, R162, R163): the region or the descriptor. The
run-time check of an index group ranks before the other causes. DEDUCED, unsafe: assumption 24 of the log. Where x[rs1] is no item, or
its page is refused, TRAPVAL is x[rs1]. DEDUCED, unsafe: assumption 108 of the log. -/
def memPrep (w : MemWord) (e : VEntry) (env : VEnv) (s : State) : Run ((VEntry × Prep) × State) :=
  match w.kind with
  | .coded | .raw =>
    match s.region s.agent (if w.store then .store else .load) e.a.toNat with
    | .error x => .error x
    | .ok (r, s) =>
      if !regionFits w env r s then illegalAt e.instr s
      else match r.start e.a.toNat with
        | none => raise s cause.misaligned e.a
        | some n0 =>
          let zero := BitVec.ofNat 64 (blockZero s.t s.core.rowcap w e r n0)
          if w.kind = .raw ∧ r.fmt ≠ rawFmt env.vt then raise s cause.formatRegion zero
          else if w.kind = .coded ∧ w.store ∧ r.block.isSome ∧ w.p ≠ 0 then raise s cause.formatRegion zero
          else .ok ((e, some (r, n0)), s)
  | .texture =>
    if e.xs ≠ [] then .ok ((e, none), s)
    else match textureRead w e s with
      | .error x => .error x
      | .ok (e, s) => .ok ((e, none), s)
  | _ => .ok ((e, none), s)

/-- The access counts in blocks of 48 elements: a raw one under a block type, and an encoding store to a block region. -/
def blockwise (w : MemWord) (env : VEnv) (pr : Prep) : Bool :=
  match w.kind with
  | .raw => vtBlock env.vt
  | .coded => w.store && (match pr with | some (r, _) => r.block.isSome | none => false)
  | _ => false

/-- The items of an access (R141, R148, R152): active elements, blocks that hold an element, or bytes of predicate bits. A block that
VL ends within is copied whole. DEDUCED, unsafe: assumption 95 of the log. -/
def memItems (t : Thread) (w : MemWord) (env : VEnv) (pr : Prep) : List Nat :=
  if w.kind = .bits then List.range ((env.vl + 7) / 8)
  else if blockwise w env pr then
    (List.range ((env.vl + 47) / 48)).filter fun b => env.dom.any fun i => i / 48 == b
  else env.active t w.p

/-- The first element of an item, to which a fault shortens VL (R149): 8k for byte k of VLD.P. DEDUCED, unsafe: assumption 113 of the log. -/
def itemElement (w : MemWord) (env : VEnv) (pr : Prep) (k : Nat) : Nat :=
  if w.kind = .bits then 8 * k else if blockwise w env pr then 48 * k else k

/-- The element number of component c of multivector m, and its width (R43). -/
def multiElem (vt : DWord) (lanes m c : Nat) : Nat :=
  if vtFmt vt = 3 then (16 * (m / lanes) + c) * lanes + m % lanes else c * lanes + m

/-- The bytes of a multivector (R156). -/
def multiBytes (vt : DWord) : Nat := if vtFmt vt = 3 then 32 else 64

/-- The bytes of the code of element q of a block: first byte, count and bit (R74). -/
def codeBytes (f : BFmt) (q : Nat) : Nat × Nat × Nat :=
  let lo := q * f.width / 8
  (lo, (q * f.width + f.width - 1) / 8 - lo + 1, q * f.width % 8)

/-- A code as VLDR leaves it in its container: bits [7:6] of a B6 container pass unchanged (R73, R155). -/
def containerOf (f : BFmt) (old code : Nat) : Nat := if f.width = 6 then old / 64 * 64 + code else code

/-- One step of a load (R147, R148, R153, R155, R156, R163): the values of an item and its flags, or a tap. -/
def loadItem (w : MemWord) (e : VEntry) (env : VEnv) (pr : Prep) (k : Nat) (s : State) : Run (ItemRes × State) :=
  let t := s.t
  let rc := s.core.rowcap
  let aligned := fun (size : Nat) =>
    let a := itemAddress t rc w.mode e size k
    if a % size ≠ 0 then raise s cause.misaligned (BitVec.ofNat 64 a)
    else match s.read s.agent .load 1 a size with
      | .error x => .error x
      | .ok (bs, s) => .ok (bs, s.orderVector)
  match w.kind, pr with
  | .plain n, _ =>
    match aligned n with
    | .error x => .error x
    | .ok (bs, s) => .ok (.values [⟨w.reg, 8 * n, k, ofBytes bs⟩] 0, s)
  | .multi, _ =>
    match aligned (multiBytes env.vt) with
    | .error x => .error x
    | .ok (bs, s) =>
      let v := ofBytes bs
      .ok (.values ((List.range 16).map fun c => ⟨w.reg, env.sew, multiElem env.vt t.lanes k c, bits v (c * env.sew) env.sew⟩) 0, s)
  | .bits, _ =>
    match s.read s.agent .load 1 ((e.a.toNat + k) % 2 ^ 64) 1 with
    | .error x => .error x
    | .ok (bs, s) =>
      let n := min 8 (env.vl - 8 * k)
      .ok (.values ((List.range n).map fun j => ⟨32 + w.reg, 1, 8 * k + j, bits (ofBytes bs) j 1⟩) 0, s.orderVector)
  | .texture, _ =>
    match w.mode with
    | .indexed vc => s.sampleTexel w vc e env k
    | _ => .ok (.values [] 0, s)
  | .coded, some (r, n0) | .raw, some (r, n0) =>
    match r.block with
    | none =>
      match s.regionItem s.agent .load r (n0 + itemOffset t rc w.mode e 1 k) 0 2 with
      | .error x => .error x
      | .ok (va, s) => match s.read s.agent .load 1 va 2 with
        | .error x => .error x
        | .ok (bs, s) =>
          let v := ofBytes bs
          let c := if vtFmt env.vt = 3 then (v, 0) else bf16.convertTo (vtIeeeFmt env.vt) e.frm env.flush (bf16.read env.flush v)
          .ok (.values [⟨w.reg, env.sew, k, c.1⟩] c.2, s.orderVector)
    | some f =>
      if w.kind = .raw then
        let n := n0 + itemOffset t rc w.mode e 1 k
        match s.regionItem s.agent .load r n 0 f.blockBytes with
        | .error x => .error x
        | .ok (va, s) => match s.readPair s.agent r n.toNat va with
          | .error x => .error x
          | .ok (pair, s) => match s.read s.agent .load 1 va f.blockBytes with
            | .error x => .error x
            | .ok (bs, s) =>
              .ok (.values (((List.range 48).map fun q =>
                ⟨w.reg, env.sew, 48 * k + q, containerOf f (t.elem w.reg env.sew (48 * k + q)) (f.codeIn bs q)⟩) ++
                [⟨w.reg + 1, 32, k, pair⟩]) 0, s.orderVector)
      else
        let n := 48 * n0 + itemOffset t rc w.mode e 1 k
        let g := codeBytes f (n % 48).toNat
        match s.regionItem s.agent .load r (n / 48) g.1 g.2.1 with
        | .error x => .error x
        | .ok (va, s) => match s.readPair s.agent r (n / 48).toNat va with
          | .error x => .error x
          | .ok (pair, s) => match s.read s.agent .load 1 va g.2.1 with
            | .error x => .error x
            | .ok (bs, s) =>
              let v := (vtIeeeFmt env.vt).round e.frm env.flush (f.decode (bits (ofBytes bs) g.2.2 f.width) pair).neg
                (f.decode (bits (ofBytes bs) g.2.2 f.width) pair)
              .ok (.values [⟨w.reg, env.sew, k, v.1⟩] v.2, s.orderVector)
  | _, none => .ok (.values [] 0, s)

/-- A write whose faults carry the address of its element (R151, R384). -/
def State.writeItem (s : State) (va : Nat) (bs : List Byte) : Run State :=
  match s.write s.agent .store va bs with
  | .error (.trap c v, s) => raise s c (if c = cause.integrity then v else BitVec.ofNat 64 va)
  | .error e => .error e
  | .ok s => .ok s.orderVector

/-- The checks of the bytes of a scale pair for a store to the block at an address: a page that translation refuses is the
format-region fault, and only a store is asked for (R78, R151, R154). -/
def State.pairParts (s : State) (pa va : Nat) : Run (List (Nat × Nat × Nat) × State) :=
  match s.checkParts s.agent .store (lineParts pa 3) with
  | .error (.trap c v, s) =>
    if c = cause.integrity then raise s c v
    else raise s (if c = cause.translation then cause.formatRegion else c) (BitVec.ofNat 64 va)
  | r => r

/-- A block and its scale pair written at one step; the pair changes only its 20 bits (R77, R154, R155). -/
def State.writeBlock (s : State) (r : Region) (j va : Nat) (codes : List Byte) (pair : Nat) : Run State :=
  let pairBytes := fun (old : List Byte) =>
    let b := (r.pair j).2
    toBytes 3 (ofBytes old - bits (ofBytes old) b 20 * 2 ^ b + pair % 2 ^ 20 * 2 ^ b)
  match s.pairParts (r.pair j).1 va with
  | .error e => .error e
  | .ok (qs, s) => match s.checkParts s.agent .store (lineParts va codes.length) with
    | .error (.trap c v, s) => raise s c (if c = cause.integrity then v else BitVec.ofNat 64 va)
    | .error e => .error e
    | .ok (ps, s) =>
      let s := s.putParts s.agent ps codes
      .ok (s.putParts s.agent qs (pairBytes (qs.flatMap fun q => s.bytesFor s.agent q.2.1 q.2.2))).orderVector

/-- The value of a source element for an encoding store, and its sign (R154). -/
def encodeSource (t : Thread) (w : MemWord) (env : VEnv) (i : Nat) : FVal × Bool :=
  let f := vtIeeeFmt env.vt
  (f.read env.flush (t.elem w.reg env.sew i), f.signOf (t.elem w.reg env.sew i))

/-- One item of a non-posted store (R147, R148, R154 to R156): its flags. -/
def storeItem (w : MemWord) (e : VEntry) (env : VEnv) (pr : Prep) (k : Nat) (s : State) : Run (Flags × State) :=
  let t := s.t
  let rc := s.core.rowcap
  let put := fun (va : Nat) (bs : List Byte) (fl : Flags) =>
    match s.writeItem va bs with
    | .error x => .error x
    | .ok s => .ok (fl, s)
  let aligned := fun (size : Nat) (bs : List Byte) =>
    let a := itemAddress t rc w.mode e size k
    if a % size ≠ 0 then raise s cause.misaligned (BitVec.ofNat 64 a) else put a bs 0
  match w.kind, pr with
  | .plain n, _ => aligned n (toBytes n (t.elem w.reg (8 * n) k))
  | .multi, _ =>
    aligned (multiBytes env.vt) ((List.range 16).flatMap fun c => toBytes (env.sew / 8) (t.elem w.reg env.sew (multiElem env.vt t.lanes k c)))
  | .bits, _ =>
    let b := (List.range (min 8 (env.vl - 8 * k))).foldl (fun n j => n + (if t.pred (BitVec.ofNat 4 w.reg) (8 * k + j) then 2 ^ j else 0)) 0
    put ((e.a.toNat + k) % 2 ^ 64) (toBytes 1 b) 0
  | .coded, some (r, n0) | .raw, some (r, n0) =>
    let n := n0 + itemOffset t rc w.mode e 1 k
    match r.block with
    | none =>
      let c := if w.kind = .raw ∨ vtFmt env.vt = 3 then (t.elem w.reg 16 k, 0)
        else bf16.convert e.frm env.flush (encodeSource t w env k).1
      match s.regionItem s.agent .store r n 0 2 with
      | .error x => .error x
      | .ok (va, s) => match s.writeItem va (toBytes 2 c.1) with
        | .error x => .error x
        | .ok s => .ok (c.2, s)
    | some f =>
      let c := if w.kind = .raw then
          (bits (t.elem (w.reg + 1) 32 k) 0 20, (List.range 48).map fun q => t.elem w.reg env.sew (48 * k + q) % 2 ^ f.width, 0)
        else f.encode ((List.range 48).map fun q =>
          if env.dom.contains (48 * k + q) then encodeSource t w env (48 * k + q) else (.num false 0, false))
      match s.regionItem s.agent .store r n 0 f.blockBytes with
      | .error x => .error x
      | .ok (va, s) => match s.writeBlock r n.toNat va (f.blockOf c.2.1) c.1 with
        | .error x => .error x
        | .ok s => .ok (c.2.2, s)
  | .texture, _ => .ok (0, s)
  | _, none => .ok (0, s)

/-- The byte ranges that an item accesses through the page tables, its scale pair behind its block, for the fault group (R378). -/
def itemSpans (w : MemWord) (e : VEntry) (env : VEnv) (pr : Prep) (s : State) (k : Nat) : List (Nat × Nat) :=
  let rc := s.core.rowcap
  let aligned := fun (size : Nat) =>
    let a := itemAddress s.t rc w.mode e size k
    if a % size = 0 then [(a, size)] else []
  let item := fun (r : Region) (n : Int) (off size : Nat) =>
    if 0 ≤ n ∧ n < r.count then [((r.address n + off) % 2 ^ 64, size)] else []
  match w.kind, pr with
  | .plain n, _ => aligned n
  | .multi, _ => aligned (multiBytes env.vt)
  | .bits, _ => [((e.a.toNat + k) % 2 ^ 64, 1)]
  | .coded, some (r, n0) | .raw, some (r, n0) =>
    match r.block with
    | none => item r (n0 + itemOffset s.t rc w.mode e 1 k) 0 2
    | some f =>
      let paired := fun (j : Int) (off size : Nat) =>
        let l := item r j off size
        if l = [] then l else l ++ [((r.pair j.toNat).1, 3)]
      if blockwise w env pr then paired (n0 + itemOffset s.t rc w.mode e 1 k) 0 f.blockBytes
      else
        let n := 48 * n0 + itemOffset s.t rc w.mode e 1 k
        let g := codeBytes f (n % 48).toNat
        paired (n / 48) g.1 g.2.1
  | _, _ => []

/-! ### Committing a load -/

/-- The values of a load written into registers and predicates. -/
def putLoaded (t : Thread) : List Loaded → Thread
  | [] => t
  | l :: ls =>
    putLoaded (if l.reg < 32 then t.setElems l.reg l.sew [(l.idx, l.val)]
      else t.setPred (BitVec.ofNat 4 (l.reg - 32)) [(l.idx, l.val == 1)]) ls

/-- The registers that a load writes (R118, R155, R163). -/
def loadRegs (w : MemWord) (e : VEntry) (env : VEnv) : List Nat :=
  match w.kind with
  | .bits => []
  | .raw => if vtBlock env.vt then [w.reg, w.reg + 1] else [w.reg]
  | .texture => if e.xs = [] then [] else (List.range (texelChannels e.xs + 1)).map fun k => w.reg + k
  | _ => [w.reg]

/-- A load commits (R118, R147, R149): its values, its flags, and its destinations ungraded when VL > 0.
DEDUCED, unsafe: assumption 25 of the log. -/
def commitLoad (w : MemWord) (e : VEntry) (env : VEnv) (s : State) : State :=
  if env.vl = 0 then s
  else
    let t := (loadRegs w e env).foldl (fun t r => t.ungrade r) (putLoaded s.t e.got)
    ({ s with t := t } : State).orFlags e.flags

/-- The word sets VL or VTYPE when it reaches the head (R113, R192). -/
def setsVl : Instr → Bool
  | .vsetvl _ _ _ | .vsetvli _ _ _ | .modet _ => true
  | _ => false

/-- VL shortened to k (R149). The checks of words at decode keep to VL as the latest configuration set it (R114, R143).
DEDUCED, unsafe: assumption 95 of the log. -/
def shortenVl (k : Nat) (s : State) : State :=
  { s with t := { s.t with vl := BitVec.ofNat 14 k } }

/-- The causes that shorten a load past its first element (R149). -/
def shortens (c : Cause) : Bool :=
  c == cause.translation || c == cause.permission || c == cause.misaligned || c == cause.formatRegion

/-! ### Running a load or a non-posted store at the head -/

/-- What a word with VL > 0 and no active element still meets: TEXS reads its descriptor, which says how many registers it
leaves ungraded (R118, R163); an encoding store whose page names a region has its index group checked (R143), and one to a
block region needs p0 (R154). DEDUCED, unsafe: assumption 96 of the log. -/
def emptyPrep (w : MemWord) (e : VEntry) (env : VEnv) (s : State) : Run (VEntry × State) :=
  match w.kind with
  | .texture => match memPrep w e env s with
    | .error x => .error x
    | .ok ((e, _), s) => .ok (e, s)
  | .coded =>
    if !w.store then .ok (e, s)
    else match s.region s.agent .store e.a.toNat with
      | .error _ => .ok (e, s)
      | .ok (r, _) =>
        if !regionFits w env r s then illegalAt e.instr s
        else if r.block.isSome ∧ w.p ≠ 0 then
          raise s cause.formatRegion (BitVec.ofNat 64 (blockZero s.t s.core.rowcap w e r (((e.a.toNat : Int) - r.base) / r.size)))
        else .ok (e, s)
  | _ => .ok (e, s)

/-- The item list for an entry, its preparation made. A word with VL = 0 prepares nothing (R116, R141). -/
def memReady (w : MemWord) (e : VEntry) (env : VEnv) (s : State) : Run ((VEntry × Prep × List Nat) × State) :=
  if env.vl = 0 then .ok ((e, none, []), s)
  else if memItems s.t w env none = [] then
    match emptyPrep w e env s with
    | .error x => .error x
    | .ok (e, s) => .ok ((e, none, []), s)
  else match memPrep w e env s with
    | .error x => .error x
    | .ok ((e, pr), s) => .ok ((e, pr, memItems s.t w env pr), s)

/-- What a stop of a load or store at item number `prog` comes to (R149 to R151). -/
def memStop (w : MemWord) (env : VEnv) (pr : Prep) (items : List Nat) (prep : Bool) (e : VEntry) (st : Stop) (s : State) : VRes :=
  let k := items.getD e.prog 0
  match st with
  | .wait _ => .blocked e s
  | .trap c v =>
    if !w.store && !prep && decide (e.prog ≠ 0) && shortens c then
      .commit (shortenVl (itemElement w env pr k) (commitLoad w e env s))
    else
      let spans := if prep then [[(e.a.toNat, 1)]] else (items.drop e.prog).map (itemSpans w e env pr s)
      .trap (if w.store then e else { e with prog := 0, got := [], flags := 0, taps := [] }) c v none w.store spans s

/-- Steps of a load or store from item `prog` on, at most `fuel` of them; each item is translated at its own step.
DEDUCED, unsafe: assumption 126 of the log. -/
def memGo (w : MemWord) (env : VEnv) (pr : Prep) (items : List Nat) : Nat → VEntry → State → VRes
  | 0, e, s => .progress e s
  | fuel + 1, e, s =>
    match items[e.prog]? with
    | none => .commit (if w.store then s.orFlags e.flags else commitLoad w e env s)
    | some k =>
      if w.store then
        match storeItem w e env pr k s with
        | .error (st, s) => memStop w env pr items false e st s
        | .ok (fl, s) => memGo w env pr items fuel { e with prog := e.prog + 1, flags := e.flags ||| fl } s
      else
        match loadItem w e env pr k s with
        | .error (st, s) => memStop w env pr items false e st s
        | .ok (.tap ts, s) => memGo w env pr items fuel { e with taps := ts } s
        | .ok (.values l fl, s) =>
          memGo w env pr items fuel { e with prog := e.prog + 1, got := e.got ++ l, flags := e.flags ||| fl, taps := [] } s

/-- The most steps that a number of items takes: an element of TEXS takes up to four taps. -/
def itemSteps (w : MemWord) (n : Nat) : Nat := if w.kind = .texture then 5 * n else n

/-- The steps that an entry's preparation has taken: the read of a texture's descriptor is one (R162). -/
def prepSteps (e e' : VEntry) : Nat := if e.xs = [] ∧ e'.xs ≠ [] then 1 else 0

/-- A load or non-posted store at the head of the queue: to its end, or a number of its steps. A lookup of the region that a load
fails past its first element is a fault of the element at which it stands (R149). -/
def memRun (w : MemWord) (limit : Option Nat) (e : VEntry) (s : State) : VRes :=
  let env := entryEnv s.t e
  match memReady w e env s with
  | .error (st, s) => memStop w env none (memItems s.t w env none) (w.store || e.prog == 0) e st s
  | .ok ((e', pr, items), s) =>
    memGo w env pr items (limit.getD (itemSteps w (items.length - e'.prog) + 2) - prepSteps e e') e' s

/-! ### Posted scatters -/

/-- The element width of a posted scatter in bytes, its register, its index register and predicate. -/
structure PostWord where
  add : Bool
  bytes : Nat
  p : PReg
  vs2 : VReg
  vs3 : VReg
  deriving DecidableEq, Repr

/-- The word's posted scatter, if it is one (R159, R160). -/
def postWord (i : Instr) (env : VEnv) : Option PostWord :=
  match i with
  | .vscadd p v _ w r => some ⟨true, ewBytes w, p, v, r⟩
  | .vstc p v _ r => some ⟨false, env.sew / 8, p, v, r⟩
  | _ => none

/-- The value of element k of a posted scatter: its bits, or in a chain a value at width 32 converted to BF16 (R211). -/
def postValue (w : PostWord) (e : VEntry) (env : VEnv) (t : Thread) (k : Nat) : Nat × Flags :=
  match e.chain with
  | some c =>
    if w.bytes = 2 && c.width w.vs3 == 32 then bf16.convert e.frm env.flush (f32.read env.flush (t.elem w.vs3.toNat 32 k))
    else (t.elem w.vs3.toNat (8 * w.bytes) k, 0)
  | none => (t.elem w.vs3.toNat (8 * w.bytes) k, 0)

/-- The adds are in BF16: under bf16, and in a chain at width 16. -/
def postBf16 (w : PostWord) (e : VEntry) (env : VEnv) : Bool := if e.chain.isSome then w.bytes == 2 else vtFmt env.vt == 3

/-- The adds are floating-point. -/
def postFloat (env : VEnv) : Bool := vtIeee env.vt

/-- The active elements translated and checked in rising order (R157): the elements before a stop, with their flags. -/
def postChecks (w : PostWord) (e : VEntry) (env : VEnv) : List Nat → List PostedElem → Flags → State →
    (List PostedElem × Flags × Option Stop) × State
  | [], l, fl, s => ((l.reverse, fl, none), s)
  | k :: ks, l, fl, s =>
    let a := itemAddress s.t s.core.rowcap (.indexed w.vs2) e w.bytes k
    let v := postValue w e env s.t k
    if a % w.bytes ≠ 0 then ((l.reverse, fl, some (.trap cause.misaligned (BitVec.ofNat 64 a))), s)
    else match s.translate s.agent .store a with
      | .error (st, s) => ((l.reverse, fl, some st), s)
      | .ok ((pa, _), u) =>
        postChecks w e env ks
          ({ idx := k, va := BitVec.ofNat 64 a, pa := pa, val := BitVec.ofNat 64 v.1, page := s.pageSize s.agent a } :: l) (fl ||| v.2) u

/-- Of the elements of a VSTC that share an address, the highest-indexed active one (R160): `addrs` holds every active
element with its address. -/
def lastOnly (addrs : List (Nat × Nat)) (l : List PostedElem) : List PostedElem :=
  l.filter fun x => !addrs.any fun k => decide (x.idx < k.1) && k.2 == x.va.toNat

/-- The thread's posted set has room for an operation of n elements (R158). -/
def Thread.postRoom (t : Thread) (n : Nat) : Bool :=
  n == 0 || (decide (t.posted.length < 32) && decide ((t.posted.map fun o => o.elems.length).sum + n ≤ 8192))

/-- An operation joins the posted set (R157); one with no element does not. -/
def State.post (s : State) (o : PostedOp) : State :=
  if o.elems = [] then s
  else { s with nextOp := s.nextOp + 1, t := { s.t with posted := s.t.posted ++ [{ o with id := s.nextOp }] } }

/-- The launch of the thread in focus (R316). -/
def Thread.launchOf (t : Thread) : Nat := match t.pipe with | some b => b.launch | none => 0

/-- The floating-point adds that a launch holds (R437). -/
def State.heldCount (s : State) (launch : Nat) : Nat :=
  let mine := fun (l : List HeldAdd) => (l.filter fun h => h.launch == launch).length
  mine s.ctx.adds + (s.segs.map fun g => mine g.2.floats).sum

/-- A scatter-add of a task of a deterministic context held with its segment (R430, R437); its operand bytes enter the
digest (R432). -/
def State.holdAdds (s : State) (o : PostedOp) : State :=
  let h := o.elems.map fun x =>
    ({ launch := s.t.launchOf, node := s.t.node, seq := s.nextOp, idx := x.idx, va := x.va, pa := x.pa, val := x.val,
       bytes := o.bytes, bf16 := o.bf16, frm := o.frm, flush := o.flush } : HeldAdd)
  let d := h.foldl (fun d x => foldDigests d x.va (toBytes x.bytes x.val.toNat)) s.t.digest
  let s := { s with nextOp := s.nextOp + 1, t := { s.t with digest := d } }
  match s.mySegment with
  | none => s
  | some g => s.setSegment s.pos (if o.kind = .addFloat then { g with floats := g.floats ++ h } else { g with adds := g.adds ++ h })

/-- The elements of a posted scatter with n active elements move to the posted set, or are held with the task's segment; none
where the set has no room for n (R158), and a stop where a launch would hold too many. -/
def State.postAll (s : State) (o : PostedOp) (n : Nat) : Option (Run State) :=
  if s.inTask && o.kind != .store then
    some (if o.kind = .addFloat ∧ 2 ^ 24 < s.heldCount s.t.launchOf + o.elems.length then raise s cause.overflow 0
      else .ok ((s.holdAdds o).orFlags o.flags))
  else if s.t.postRoom n then some (.ok (s.post o)) else none

/-- A posted scatter at the head of the queue (R157, R158). The flags of a conversion (R63, R211) go with the posted operation.
DEDUCED, unsafe: assumption 107 of the log. An element below a fault that an active element of its address at or above the fault follows
is not performed. DEDUCED, unsafe: assumption 25 of the log. -/
def postRun (w : PostWord) (e : VEntry) (s : State) : VRes :=
  let env := entryEnv s.t e
  let act := env.active s.t w.p
  let items := act.drop e.prog
  let rc := s.core.rowcap
  let addr := fun k => itemAddress s.t rc (.indexed w.vs2) e w.bytes k
  let r := if e.checked then ((e.elems, e.flags, none), s) else postChecks w e env items [] 0 s
  let l := if w.add then r.1.1 else lastOnly (act.map fun k => (k, addr k)) r.1.1
  let o : PostedOp :=
    { id := 0, kind := if !w.add then .store else if postFloat env then .addFloat else .addInt, bytes := w.bytes,
      bf16 := postBf16 w e env, frm := e.frm, flush := env.flush, elems := l, flags := r.1.2.1 }
  let s := r.2
  let n := r.1.1.length
  if env.vl = 0 then .commit s
  else match r.1.2.2 with
  | some (.wait _) => .blocked e s
  | some (.trap c v) =>
    match s.postAll o n with
    | none => .blocked e s
    | some (.error (.trap c v, s)) => .trap e c v none true [] s
    | some (.error (.wait _, s)) => .blocked e s
    | some (.ok s) =>
      .trap { e with prog := e.prog + n } c v none true
        ((items.drop n).map fun k => if addr k % w.bytes = 0 then [(addr k, w.bytes)] else []) s
  | none =>
    match s.postAll o n with
    | none => .blocked { e with elems := r.1.1, flags := o.flags, checked := true } s
    | some (.error (.trap c v, s)) => .trap e c v none true [] s
    | some (.error (.wait _, s)) => .blocked e s
    | some (.ok s) => .commit s.orderVector

/-- Flags of asynchronous work reach the thread, and the checkpoint of its segment (R283, R435). -/
def State.deliverFlags (s : State) (pos : Nat) (fl : Flags) : State :=
  let t := s.threadAt pos
  let s := s.setThread pos { t with fflags := t.fflags ||| fl }
  { s with segs := s.segs.map fun g =>
      if g.1 = pos then (g.1, { g.2 with checkpoint := { g.2.checkpoint with fflags := g.2.checkpoint.fflags ||| fl } }) else g }

/-- The format of a floating-point scatter-add. -/
def addFmt (bytes : Nat) (isBf16 : Bool) : Fmt :=
  if isBf16 then bf16 else if bytes = 2 then f16 else if bytes = 4 then f32 else f64

/-- The sum of a floating-point scatter-add element (R159). -/
def addElem (bytes : Nat) (isBf16 : Bool) (frm : BitVec 3) (flush : BitVec 2) (old val : Nat) : Nat × Flags :=
  let f := addFmt bytes isBf16
  f.sum frm flush 0 [f.read flush old, f.read flush val]

/-- A line that a posted element finds bad is quarantined, and the element is dropped (R157, R450).
DEDUCED, unsafe: assumption 90 of the log. -/
def State.dropPosted (s : State) (x : PostedElem) : State :=
  if s.quar.contains (x.pa / 128) then s else s.quarantine s.t.ctx 7 (x.va.toNat / 128 * 128) (x.pa / 128) (x.pa / 128 * 128)

/-- One posted element performed, for the kinds that write at it (R157, R159, R160): its flags. DEDUCED, safe: assumption 22 of the log. -/
def State.performPosted (s : State) (o : PostedOp) (x : PostedElem) : Flags × State :=
  if !s.lineOk (x.pa / 128) then (0, s.dropPosted x)
  else
    let old := ofBytes (bytesAt s.mem x.pa o.bytes)
    let digest := fun (s : State) =>
      if s.ctx.det then { s with t := { s.t with digest := foldDigests s.t.digest x.va (toBytes o.bytes x.val.toNat) } } else s
    match o.kind with
    | .addInt => (0, (digest s).physWrite x.pa (toBytes o.bytes (old + x.val.toNat)))
    | .addFloat =>
      let r := addElem o.bytes o.bf16 o.frm o.flush old x.val.toNat
      (r.2, (digest s).physWrite x.pa (toBytes o.bytes r.1))
    | _ => (0, s.commitWrite s.agent x.va.toNat x.pa (toBytes o.bytes x.val.toNat))

/-! ### The fault group (R378) -/

/-- The distinct 64 KiB pages of byte ranges that meet a cause, in order of first element. -/
def faultPages (s : State) (ag : Agent) (acc : Access) (c : Cause) : List (Nat × Nat) → List Nat → List Nat
  | [], l => l
  | (a, n) :: r, l =>
    let bad := fun (x : Nat) => match s.translate ag acc x with
      | .error (.trap c' _, _) => c' == c
      | _ => false
    let add := fun (l : List Nat) (k : Nat) =>
      let page := (a / 2 ^ 16 + k) * 2 ^ 16
      if bad (max a page) && !l.contains page then l ++ [page] else l
    faultPages s ag acc c r ((List.range (if n = 0 then 0 else (a + n - 1) / 2 ^ 16 + 1 - a / 2 ^ 16)).foldl add l)

/-- The bytes of a fault group. -/
def groupBytes (c : Cause) (isStore : Bool) (pages : List Nat) : List Byte :=
  let ps := pages.take 15
  let d := (c.toNat * 256 + ps.length) :: ps.map fun p => p % 2 ^ 48 + (if isStore then 1 else 0)
  (d ++ List.replicate (16 - d.length) 0).flatMap fun w => toBytes 8 w

/-- The fault group written at FGBASE, where it can be (R378). -/
def State.faultGroup (s : State) (ag : Agent) (c : Cause) (isStore : Bool) (spans : List (List (Nat × Nat))) : Bool × State :=
  if s.t.fgbase = 0 ∨ spans = [] ∨ !(c == cause.translation || c == cause.permission) then (false, s)
  else
    let pages := faultPages s ag (if isStore then .store else .load) c spans.flatten []
    match s.write { s.agent with level := true, seg := none } .store s.t.fgbase.toNat (groupBytes c isStore pages) with
    | .error (_, s) => (false, s)
    | .ok s => (true, s.orderVector)

end Sys2Proof.Machine
end

