-- ==== Sys2Proof/Machine/Graded.lean ====
section
/-! DEFINITION. Graded multivectors: the algebra, grade tags, products, norms, exponentials, GDECL and how a graded word
checks and writes (R164 to R188). -/

namespace Sys2Proof.Machine

/-! ### The algebra (R164 to R167) -/

/-- grade_of (R80). -/
def gradeOf (c : Nat) : Nat := if c = 0 then 0 else if c ≤ 4 then 1 else if c ≤ 10 then 2 else if c ≤ 14 then 3 else 4

/-- The basis vectors of the blade in a row as a mask, bit k for e_k (R164). -/
def bladeMask (c : Nat) : Nat := [0, 1, 2, 4, 8, 3, 5, 9, 6, 10, 12, 7, 11, 13, 14, 15].getD c 0

/-- The blade in a row is the negative of the product of its basis vectors in rising order: e31, e021 and e032 (R164). -/
def bladeOdd (c : Nat) : Bool := c == 9 || c == 11 || c == 13

/-- The row of the blade over a set of basis vectors. -/
def bladeRow (m : Nat) : Nat := [0, 1, 2, 5, 3, 6, 8, 11, 4, 7, 9, 12, 10, 13, 14, 15].getD m 0

/-- Bit k of a mask. -/
def maskBit (m k : Nat) : Nat := m / 2 ^ k % 2

/-- The exchanges, modulo 2, that bring the product of two rising products into rising order. -/
def swaps (a b : Nat) : Nat :=
  (maskBit a 1 * maskBit b 0 + maskBit a 2 * (maskBit b 0 + maskBit b 1)
    + maskBit a 3 * (maskBit b 0 + maskBit b 1 + maskBit b 2)) % 2

/-- T(i, j): the sign and the row of the product of two blades (R165). e0 squares to 0, the others to 1. -/
def bladeMul (i j : Nat) : Int × Nat :=
  let a := bladeMask i
  let b := bladeMask j
  let r := bladeRow (a ^^^ b)
  if maskBit a 0 = 1 ∧ maskBit b 0 = 1 then (0, r)
  else
    let odd := (swaps a b == 1) != (bladeOdd i != (bladeOdd j != bladeOdd r))
    (if odd then -1 else 1, r)

/-- The reverse negates grades 2 and 3 (R166). -/
def reverseOdd (c : Nat) : Bool := gradeOf c == 2 || gradeOf c == 3
/-- The grade involution negates grades 1 and 3 (R166). -/
def involuteOdd (c : Nat) : Bool := gradeOf c == 1 || gradeOf c == 3
/-- σ_c is −1 for rows 11 to 14 (R167). -/
def dualOdd (c : Nat) : Bool := decide (11 ≤ c) && decide (c ≤ 14)

/-! ### Tags (R45, R168, R169) -/

/-- A grade lies in a mask. -/
def inMask (m : Nat) (g : Nat) : Bool := maskBit m g == 1

/-- The grades that satisfy a condition, as a mask. -/
def maskOf (f : Nat → Bool) : Nat := (List.range 5).foldl (fun m g => m + if f g then 2 ^ g else 0) 0

/-- D of a tag; an ungraded register declares all grades. -/
def tagD (t : BitVec 11) : Nat := if t.getLsbD 10 then 31 else bits t.toNat 5 5
/-- LIVE of a tag. -/
def tagLive (t : BitVec 11) : Nat := if t.getLsbD 10 then 31 else bits t.toNat 0 5
/-- A graded tag. -/
def tagOf (d live : Nat) : BitVec 11 := BitVec.ofNat 11 (d % 32 * 32 + live % 32)

/-- The binary products. -/
inductive GOp where
  | gp | wedge | join | ldot | comm
  deriving DecidableEq, Repr

/-- The grades that a pair of grades produces, for the smaller grade first (R169); the rows are in the order of the table. -/
def pairGrades (op : GOp) (k l : Nat) : List Nat :=
  match op, k, l with
  | .gp, 0, l => [l]
  | .gp, 1, 1 => [0, 2]
  | .gp, 1, 2 => [1, 3]
  | .gp, 1, 3 => [2, 4]
  | .gp, 1, 4 => [3]
  | .gp, 2, 2 => [0, 2, 4]
  | .gp, 2, 3 => [1, 3]
  | .gp, 2, 4 => [2]
  | .gp, 3, 3 => [0, 2]
  | .gp, 3, 4 => [1]
  | .gp, _, _ => []
  | .wedge, k, l => if k + l ≤ 4 then [k + l] else []
  | .join, k, l => if 4 ≤ k + l then [k + l - 4] else []
  | .ldot, 4, 4 => []
  | .ldot, k, l => [l - k]
  | .comm, 1, 1 => [2]
  | .comm, 1, 2 => [1]
  | .comm, 1, 3 => [4]
  | .comm, 1, 4 => [3]
  | .comm, 2, 2 => [2]
  | .comm, 2, 3 => [3]
  | .comm, 3, 3 => [2]
  | .comm, 3, 4 => [1]
  | .comm, _, _ => []

/-- The inferred mask of a binary product (R169). -/
def inferPair (op : GOp) (la lb : Nat) : Nat :=
  maskOf fun g => (List.range 5).any fun k => inMask la k && (List.range 5).any fun l => inMask lb l &&
    (if k ≤ l then (pairGrades op k l).contains g else op != .ldot && (pairGrades op l k).contains g)

/-! ### Components (R172, R173) -/

/-- Component c of multivector m of a register of the thread in focus, as its bits (R43). -/
def compBits (t : Thread) (env : VEnv) (r : VReg) (m c : Nat) : Nat := t.elem r.toNat env.sew (multiElem env.vt t.lanes m c)

/-- A value with its sign flipped where asked. -/
def flipIf (b : Bool) (v : FVal) : FVal := if b then v.negate else v

/-- A pair of blades is kept by an operation (R172). -/
def keepPair (op : GOp) (i j q : Nat) : Bool :=
  match op with
  | .gp => true
  | .wedge | .join => gradeOf q == gradeOf i + gradeOf j
  | .ldot => gradeOf q + gradeOf i == gradeOf j
  | .comm => (bladeMul j i).1 == -(bladeMul i j).1

/-- graded_component (R172): one fused sum of the pairs that the masks admit; `flip` negates every term. -/
def gradedComp (op : GOp) (a b : Nat → FVal) (c la lb : Nat) (flip : Bool) (f : Fmt) (rm : BitVec 3) (fl : BitVec 2) : Nat × Flags :=
  let terms := (List.range 16).filterMap fun i =>
    let j := bladeRow (bladeMask i ^^^ bladeMask c)
    let sg := (bladeMul i j).1
    if inMask la (gradeOf i) && inMask lb (gradeOf j) && sg != 0 && keepPair op i j c then
      let p := (a i).mul (b j)
      some (flipIf (flip != (sg == -1)) p.1, p.2)
    else none
  if terms = [] then (0, 0)
  else f.sum rm fl (terms.foldl (fun g t => g ||| t.2) 0) (terms.map fun t => t.1)

/-- The dual's components (R167, R177): component 15 − c of J(a) is σ_c times component c. -/
def dualOf (a : Nat → FVal) (d : Nat) : FVal := flipIf (dualOdd (15 - d)) (a (15 - d))

/-- A component of a binary product (R177); a join is the wedge of the duals, read back through J⁻¹. -/
def productComp (op : GOp) (a b : Nat → FVal) (c la lb : Nat) (neg : Bool) (f : Fmt) (rm : BitVec 3) (fl : BitVec 2) : Nat × Flags :=
  if op = .join then
    let dual := fun m => maskOf fun g => inMask m (4 - g)
    gradedComp .wedge (dualOf a) (dualOf b) (15 - c) (dual la) (dual lb) (neg != dualOdd c) f rm fl
  else gradedComp op a b c la lb neg f rm fl

/-- A component of the sandwich V X ~V (R178). -/
def sandComp (v x : Nat → FVal) (c lv lx : Nat) (neg : Bool) (f : Fmt) (rm : BitVec 3) (fl : BitVec 2) : Nat × Flags :=
  let terms := (List.range 16).flatMap fun i => if !inMask lv (gradeOf i) then [] else
    (List.range 16).filterMap fun j =>
      let p := bladeMul i j
      let k := bladeRow (bladeMask p.2 ^^^ bladeMask c)
      let q := bladeMul p.2 k
      if inMask lx (gradeOf j) && inMask lv (gradeOf k) && p.1 * q.1 != 0 then
        let r := (v i).mul (x j)
        let w := r.1.mul (flipIf (reverseOdd k) (v k))
        some (flipIf (neg != (p.1 * q.1 == -1)) w.1, r.2 ||| w.2)
      else none
  if terms = [] then (0, 0)
  else f.sum rm fl (terms.foldl (fun g t => g ||| t.2) 0) (terms.map fun t => t.1)

/-! ### Norms and the inverse (R181, R182) -/

/-- The Euclidean rows (R181). -/
def euclidRows : List Nat := [0, 2, 3, 4, 8, 9, 10, 14]
/-- The ideal rows (R181). -/
def idealRows : List Nat := [1, 5, 6, 7, 11, 12, 13, 15]

/-- The exact sum of the squares of the live rows of a list, its flags, and whether it has any term. -/
def squareSum (a : Nat → FVal) (live : Nat) (rows : List Nat) : FVal × Flags × Bool :=
  let l := (rows.filter fun c => inMask live (gradeOf c)).map fun c => (a c).mul (a c)
  let s := exactSum (l.map fun t => t.1)
  (s.1, l.foldl (fun g t => g ||| t.2) s.2, l ≠ [])

/-- round_once of a non-negative value or of its root, negated where asked (R181). With no term the result is +0. -/
def normComp (root : Bool) (a : Nat → FVal) (live : Nat) (rows : List Nat) (neg : Bool) (f : Fmt) (rm : BitVec 3) (fl : BitVec 2) : Nat × Flags :=
  let (v, nv, some_) := squareSum a live rows
  match v with
  | .nan _ => (f.nan, nv)
  | .inf _ => (f.inf neg, nv)
  | .num _ q =>
    if !some_ then (0, nv)
    else if q = 0 then (f.zero (neg || rm == 2), nv)
    else
      let r := if root then sqrtNear q else q
      let x := f.roundNum rm fl (if neg then -r else r)
      (x.1, nv ||| x.2)

/-- A component of the inverse (R182). -/
def invComp (a : Nat → FVal) (c live : Nat) (neg : Bool) (f : Fmt) (rm : BitVec 3) (fl : BitVec 2) : Nat × Flags :=
  let (v, nv, _) := squareSum a live euclidRows
  let x := f.div rm fl (flipIf (neg != reverseOdd c) (a c)) v
  (x.1, nv ||| x.2)

/-! ### Exponential, logarithm and square root (R183 to R186) -/

/-- A component, or zero where its grade is not live. -/
def liveComp (a : Nat → FVal) (live c : Nat) : FVal := if inMask live (gradeOf c) then a c else .num false 0

/-- The bivector row that pairs with row c: 5 with 10, 6 with 9, 7 with 8 (R183, R184). -/
def pairedRow (c : Nat) : Nat := 15 - c

/-- A bivector and a scalar factor as intervals: row c of exp of the bivector g · r, with r rational rows and g an interval
that multiplies rows 8 to 10, and rows 5 to 7 given by intervals. Exact zeros are exact. -/
structure Bivector where
  d : Nat → Ival
  l : Ival
  m : Ival
  exact : Bool

/-- cos √l, (sin √l)/√l and the slope over an interval of l (R183): at its middle, with the width added. -/
def trigIval (p : Nat) (l : Ival) : Ival × Ival × Ival :=
  let mid := (l.lo + l.hi) / 2
  let w := (l.hi - l.lo)
  let grow := fun (a : Ival) => (⟨a.lo - w, a.hi + w⟩ : Ival)
  let r := cosSinc p mid
  if w = 0 then (r.1, r.2, cosSincSlope p mid) else (grow r.1, grow r.2, grow (cosSincSlope p mid))

/-- Row c of the exponential of a bivector with l > 0 given by intervals of its rows (R183). -/
def expRow (p : Nat) (d : Nat → Ival) (c : Nat) : Ival :=
  let sq := fun k => ((d k).mul (d k)).coarse (4 * p + 600)
  let l := (sq 8).add ((sq 9).add (sq 10))
  let l := (⟨max 0 l.lo, l.hi⟩ : Ival)
  let m := ((d 5).mul (d 10)).add (((d 6).mul (d 9)).add ((d 7).mul (d 8)))
  let t := trigIval p l
  if c = 0 then t.1
  else if c = 15 then m.mul t.2.1
  else if 8 ≤ c then t.2.1.mul (d c)
  else (t.2.1.mul (d c)).add ((m.mul (d (pairedRow c))).mul t.2.2)

/-- A real value negated where asked, at each precision. -/
def negReal (neg : Bool) (v : Nat → Ival) (p : Nat) : Ival := if neg then (v p).scale (-1) else v p

/-- A component of exp (R183, R186): exact at l = 0, and where both of its coefficients vanish. -/
def expComp (a : Nat → Rat) (c : Nat) (neg : Bool) (f : Fmt) (rm : BitVec 3) (fl : BitVec 2) : Nat × Flags :=
  let l := a 8 * a 8 + a 9 * a 9 + a 10 * a 10
  let m := a 5 * a 10 + a 6 * a 9 + a 7 * a 8
  let exact := fun (q : Rat) => f.round rm fl (rm == 2) (.num false (if neg then -q else q))
  let real := fun (v : Nat → Ival) => f.roundReal rm fl (negReal neg v) precisions
  if l = 0 then exact (if c = 0 then 1 else if 5 ≤ c ∧ c ≤ 7 then a c else 0)
  else if c = 0 then real fun p => (cosSinc p l).1
  else if c = 15 then (if m = 0 then exact 0 else real fun p => (cosSinc p l).2.scale m)
  else if 8 ≤ c then (if a c = 0 then exact 0 else real fun p => (cosSinc p l).2.scale (a c))
  else
    let k := m * a (pairedRow c)
    if a c = 0 ∧ k = 0 then exact 0
    else real fun p => ((cosSinc p l).2.scale (a c)).add ((cosSincSlope p l).scale k)

/-- A row of log as a rational part and the rational factor of b = acos(q)/√(1 − q²) (R184), for −1 < q < 1. -/
def logParts (a : Nat → Rat) (c : Nat) : Rat × Rat :=
  let q := a 0
  let w := 1 / (1 - q * q)
  if 8 ≤ c then (0, a c)
  else
    let k := w * a 15 * a (pairedRow c)
    (k, a c - k * q)

/-- A component of log (R184, R186), for q in its domain. -/
def logComp (a : Nat → Rat) (c : Nat) (neg : Bool) (f : Fmt) (rm : BitVec 3) (fl : BitVec 2) : Nat × Flags :=
  let q := a 0
  let exact := fun (q : Rat) => f.round rm fl (rm == 2) (.num false (if neg then -q else q))
  if q = 1 then exact (if c ≤ 7 then a c else 0)
  else
    let r := logParts a c
    if r.2 = 0 then exact r.1
    else f.roundReal rm fl (negReal neg fun p => (Ival.point r.1).add ((acosRatio p q).scale r.2)) precisions

/-- Row k of half the logarithm as an interval. -/
def halfLog (a : Nat → Rat) (p k : Nat) : Ival :=
  let r := logParts a k
  ((Ival.point r.1).add ((acosRatio p (a 0)).scale r.2)).scale (1 / 2)

/-- A component of exp(½ log M) (R185, R186), for q in the domain of the logarithm. -/
def sqrtComp (a : Nat → Rat) (c : Nat) (neg : Bool) (f : Fmt) (rm : BitVec 3) (fl : BitVec 2) : Nat × Flags :=
  let exact := fun (q : Rat) => f.round rm fl (rm == 2) (.num false (if neg then -q else q))
  let q := a 0
  let real := fun (v : Nat → Ival) => f.roundReal rm fl (negReal neg v) precisions
  if q = 1 then exact (if c = 0 then 1 else if 5 ≤ c ∧ c ≤ 7 then a c / 2 else 0)
  else if a 8 = 0 ∧ a 9 = 0 ∧ a 10 = 0 then
    if c = 0 then exact 1
    else if 5 ≤ c ∧ c ≤ 7 ∧ a c ≠ 0 then real fun p => halfLog a p c
    else exact 0
  else
    let r := logParts a c
    let dot := a 5 * a 10 + a 6 * a 9 + a 7 * a 8
    let flat := a 15 = 0 ∧ dot = 0
    let zero := if c = 0 then false
      else if c = 15 then decide flat
      else if 8 ≤ c then a c == 0
      else decide (r = (0, 0)) && (decide flat || a (pairedRow c) == 0)
    if zero then exact 0 else real fun p => expRow p (fun k => halfLog a (p + 320) k) c

/-- The words of R183 to R185. -/
inductive GFn where
  | exp | log | sqrt
  deriving DecidableEq, Repr

/-- The rows that a function reads. -/
def GFn.reads : GFn → List Nat
  | .exp => [5, 6, 7, 8, 9, 10]
  | _ => [0, 5, 6, 7, 8, 9, 10, 15]

/-- The rows that a function writes by its formula. -/
def GFn.writes : GFn → List Nat
  | .log => [5, 6, 7, 8, 9, 10]
  | _ => [0, 5, 6, 7, 8, 9, 10, 15]

/-- A component of GEXP, GLOG or GSQRT (R183 to R186). -/
def fnComp (fn : GFn) (a : Nat → FVal) (c live : Nat) (neg : Bool) (f : Fmt) (rm : BitVec 3) (fl : BitVec 2) : Nat × Flags :=
  if !fn.writes.contains c then (0, 0)
  else
    let v := fn.reads.map (liveComp a live)
    let special := fun (x : FVal) => x.isNan || x.isInf true || x.isInf false
    let loud := fun (x : FVal) => x.isInf true || x.isInf false || x.nv != 0
    let q := fun k => (liveComp a live k).rat
    let outside := fn != .exp && (decide (1 < q 0) || decide (q 0 ≤ -1))
    if outside || v.any special then (f.nan, if outside || v.any loud then flagNV else 0)
    else match fn with
      | .exp => expComp q c neg f rm fl
      | .log => logComp q c neg f rm fl
      | .sqrt => sqrtComp q c neg f rm fl

/-! ### Checking and writing (R170, R171, R175) -/

/-- A component's bits are neither +0 nor −0. -/
def nonZeroBits (w b : Nat) : Bool := b % 2 ^ (w - 1) != 0

/-- What a graded word comes to: its state, or a grade violation with TRAPVAL. -/
inductive GradedRes where
  | done (s : State)
  | violation (val : DWord)
  deriving DecidableEq, Repr

/-- TRAPVAL of a grade violation (R171). -/
def violationValue (bad m : Nat) : DWord := BitVec.ofNat 64 (bad % 32 + m % 2 ^ 14 * 2 ^ 16)

/-- A graded word with VL > 0 (R170): the inferred mask, and the bits and flags of a component of a multivector. -/
def gradedWrite (p : PReg) (vd : VReg) (inf : Nat) (comp : Nat → Nat → Nat × Flags) (e : VEntry) (env : VEnv) (s : State) : GradedRes :=
  if env.vl = 0 then .done s
  else
    let t := s.t
    let tag := t.readTag vd
    let dd := tagD tag
    let rows := (env.active t p).map fun m => (m, (List.range 16).map fun c => if inMask inf (gradeOf c) then comp m c else (0, 0))
    let offends := fun (row : List (Nat × Flags)) (g : Nat) =>
      (row.zipIdx).any fun x => gradeOf x.2 == g && nonZeroBits env.sew x.1.1
    let bad := maskOf fun g => inMask inf g && !inMask dd g && rows.any fun r => offends r.2 g
    if bad ≠ 0 ∧ !e.gmode then
      .violation (violationValue bad (((rows.find? fun r => (List.range 5).any fun g => inMask bad g && offends r.2 g).map fun r => r.1).getD 0))
    else
      let puts := rows.flatMap fun r => (r.2.zipIdx).map fun x =>
        (multiElem env.vt t.lanes r.1 x.2, if inMask inf (gradeOf x.2) && inMask dd (gradeOf x.2) then x.1.1 else 0)
      let kept := p != 0 || decide (env.vl < gradedLimit env.vt t.lanes)
      let live := maskOf fun g => (inMask inf g && inMask dd g) || (kept && inMask (tagLive tag) g)
      let fl := rows.foldl (fun f r => r.2.foldl (fun f x => f ||| x.2) f) 0
      .done (({ s with t := (t.setElems vd.toNat env.sew puts).writeTag vd (tagOf dd live) } : State).orFlags
        (fl ||| if bad ≠ 0 then flagGV else 0))

/-- The components of a register read as numbers, reversed or involuted (R172, R173). -/
def readMulti (t : Thread) (env : VEnv) (r : VReg) (rev inv : Bool) (m c : Nat) : FVal :=
  flipIf ((rev && reverseOdd c) != (inv && involuteOdd c)) ((vtIeeeFmt env.vt).read env.flush (compBits t env r m c))

/-- A binary product (R177). -/
def gradedBinary (op : GOp) (p : PReg) (vs2 vs1 : VReg) (neg inv rev : Bool) (vd : VReg) (e : VEntry) (env : VEnv) (s : State) : GradedRes :=
  let t := s.t
  let la := tagLive (t.readTag vs1)
  let lb := tagLive (t.readTag vs2)
  gradedWrite p vd (inferPair op la lb)
    (fun m c => productComp op (readMulti t env vs1 rev false m) (readMulti t env vs2 false inv m) c la lb neg (vtIeeeFmt env.vt) e.frm env.flush) e env s

/-- GSAND (R178). -/
def gradedSand (p : PReg) (vs2 vs1 : VReg) (neg inv rev : Bool) (vd : VReg) (e : VEntry) (env : VEnv) (s : State) : GradedRes :=
  let t := s.t
  let lv := tagLive (t.readTag vs1)
  let lx := tagLive (t.readTag vs2)
  gradedWrite p vd lx
    (fun m c => sandComp (readMulti t env vs1 rev false m) (readMulti t env vs2 false inv m) c lv lx neg (vtIeeeFmt env.vt) e.frm env.flush) e env s

/-- Component bits with the sign flipped where asked. -/
def flipBits (w : Nat) (b : Bool) (v : Nat) : Nat := if b then v ^^^ 2 ^ (w - 1) else v

/-- A sign move (R179, R180): component c from source row `row c`, with its sign flipped where `odd` of the source row says. -/
def gradedMove (row : Nat → Nat) (odd : Nat → Bool) (inf : Nat) (p : PReg) (vs1 : VReg) (neg rev : Bool) (vd : VReg) (e : VEntry) (env : VEnv)
    (s : State) : GradedRes :=
  let t := s.t
  gradedWrite p vd inf
    (fun m c =>
      let r := row c
      (flipBits env.sew ((odd r != (rev && reverseOdd r)) != neg) (compBits t env vs1 m r), 0)) e env s

/-- A word whose components are functions of one multivector, rounded (R181 to R185). DEDUCED, unsafe: assumption 26 of the log. -/
def gradedUnary (inf : Nat) (comp : (Nat → FVal) → Nat → Nat → Fmt → Nat × Flags) (p : PReg) (vs1 : VReg) (rev : Bool)
    (vd : VReg) (e : VEntry) (env : VEnv) (s : State) : GradedRes :=
  let t := s.t
  let live := tagLive (t.readTag vs1)
  gradedWrite p vd inf (fun m c => comp (readMulti t env vs1 rev false m) c live (vtIeeeFmt env.vt)) e env s

/-- GDECL (R187): every multivector below the limit is checked. -/
def gradedDeclare (mask : Nat) (vd : VReg) (e : VEntry) (env : VEnv) (s : State) : GradedRes :=
  if env.vl = 0 then .done s
  else
    let t := s.t
    let ms := List.range (gradedLimit env.vt t.lanes)
    let offends := fun (m g : Nat) => (List.range 16).any fun c => gradeOf c == g && nonZeroBits env.sew (compBits t env vd m c)
    let bad := maskOf fun g => !inMask mask g && ms.any fun m => offends m g
    let tag := tagOf mask (maskOf fun g => inMask (tagLive (t.readTag vd)) g && inMask mask g)
    if bad ≠ 0 ∧ !e.gmode then
      .violation (violationValue bad ((ms.find? fun m => (List.range 5).any fun g => inMask bad g && offends m g).getD 0))
    else if bad ≠ 0 then
      let puts := ms.flatMap fun m => ((List.range 16).filter fun c => !inMask mask (gradeOf c)).map fun c => (multiElem env.vt t.lanes m c, 0)
      .done (({ s with t := (t.setElems vd.toNat env.sew puts).writeTag vd tag } : State).orFlags flagGV)
    else .done { s with t := t.writeTag vd tag }

/-- GPROJ's mask within the live grades (R169, R179). -/
def projMask (t : Thread) (vs1 : VReg) (mask : Nat) : Nat := maskOf fun g => inMask (tagLive (t.readTag vs1)) g && inMask mask g

/-- The graded words (R176 to R185). -/
def gradedRun (i : Instr) (e : VEntry) (env : VEnv) (s : State) : Option GradedRes :=
  let live := fun r => tagLive (s.t.readTag r)
  match i with
  | .gp p b a n iv r d => some (gradedBinary .gp p b a n iv r d e env s)
  | .gwedge p b a n iv r d => some (gradedBinary .wedge p b a n iv r d e env s)
  | .gjoin p b a n iv r d => some (gradedBinary .join p b a n iv r d e env s)
  | .gldot p b a n iv r d => some (gradedBinary .ldot p b a n iv r d e env s)
  | .gsand p b a n iv r d => some (gradedSand p b a n iv r d e env s)
  | .gcomm p b a n iv r d => some (gradedBinary .comm p b a n iv r d e env s)
  | .gproj p mask a n r d => some (gradedMove id (fun _ => false) (projMask s.t a mask.toNat) p a n r d e env s)
  | .grev p a n r d => some (gradedMove id reverseOdd (live a) p a n r d e env s)
  | .ginvol p a n r d => some (gradedMove id involuteOdd (live a) p a n r d e env s)
  | .gdual p a n r d => some (gradedMove (fun c => 15 - c) dualOdd (maskOf fun g => inMask (live a) (4 - g)) p a n r d e env s)
  | .gnormsq p a n r d => some (gradedUnary 1 (fun x _ l f => normComp false x l euclidRows n f e.frm env.flush) p a r d e env s)
  | .gnorm p a n r d => some (gradedUnary 1 (fun x _ l f => normComp true x l euclidRows n f e.frm env.flush) p a r d e env s)
  | .gnormz p a n r d => some (gradedUnary 1 (fun x _ l f => normComp true x l idealRows n f e.frm env.flush) p a r d e env s)
  | .gexp p a n r d => some (gradedUnary 0b10101 (fun x c l f => fnComp .exp x c l n f e.frm env.flush) p a r d e env s)
  | .glog p a n r d => some (gradedUnary 0b00100 (fun x c l f => fnComp .log x c l n f e.frm env.flush) p a r d e env s)
  | .gsqrt p a n r d => some (gradedUnary 0b10101 (fun x c l f => fnComp .sqrt x c l n f e.frm env.flush) p a r d e env s)
  | .ginv p a n r d => some (gradedUnary (live a) (fun x c l f => invComp x c l n f e.frm env.flush) p a r d e env s)
  | .gdecl mask d => some (gradedDeclare mask.toNat d e env s)
  | _ => none

end Sys2Proof.Machine
end

