-- ==== Sys2Proof/Machine/Tokens.lean ====
section
/-! DEFINITION. Token tables: taking a slot, the token, the status word, and the steps that set a slot's state, in the
thread, in its image or in the checkpoint of its segment (R267 to R269, R281, R282, R392). -/

namespace Sys2Proof.Machine

/-- The lowest-numbered free slot of the table (R267). -/
def Thread.freeSlot (t : Thread) : Option Nat := (List.range 64).find? fun k => (t.token k).st == 0

/-- The token of a slot (R268). -/
def tokenWord (gen : BitVec 48) (slot : Nat) : DWord := (gen ++ (0 : BitVec 10) ++ BitVec.ofNat 6 slot).setWidth 64

/-- The slot that a token names. -/
def tokenSlot (w : DWord) : Nat := field w 0 6

/-- A token is stale: its slot is free, or its generation differs (R268). -/
def Thread.stale (t : Thread) (w : DWord) : Bool :=
  let k := t.token (tokenSlot w)
  k.st == 0 || field w 16 48 != k.gen.toNat

/-- The slot becomes pending (R267). -/
def Thread.takeSlot (t : Thread) (k : Nat) : Thread :=
  t.setToken k { t.token k with st := 1, stamp := 0, cause := 0, result := 0 }

/-- Freeing a slot adds one to its generation (R268). -/
def Thread.freeToken (t : Thread) (k : Nat) : Thread :=
  t.setToken k { gen := (t.token k).gen + 1 }

/-- A slot is ready or final (R281). -/
def reached (k : Token) : Bool := decide (2 ≤ k.st.toNat) && decide (k.st.toNat ≤ 6)

/-- A slot is final (R269). -/
def final (k : Token) : Bool := decide (3 ≤ k.st.toNat) && decide (k.st.toNat ≤ 6)

/-- The status word of a slot (R269). -/
def statusWord (stamp : BitVec 48) (cause : BitVec 8) (st : BitVec 4) : DWord :=
  (stamp ++ cause ++ (0 : BitVec 4) ++ st).setWidth 64

/-- The status word that a slot holds. -/
def Token.status (k : Token) : DWord := statusWord k.stamp k.cause k.st

/-- The issuer of an operation whose thread has ended. -/
def nobody : Nat := slotCount

/-- The checkpoint of the segment kept under a key changed. -/
def State.onCheckpoint (s : State) (k : Nat) (f : Thread → Thread) : State :=
  { s with segs := s.segs.map fun g => if g.1 = k then (g.1, { g.2 with checkpoint := f g.2.checkpoint }) else g }

/-- A change of the thread that issued an operation (R282, R283, R396): of its image where it is switched out, or of the live thread,
with its segment's checkpoint. Where the thread has ended nothing is left to change. DEDUCED, unsafe: assumption 56 of the log. -/
def State.onIssuer (s : State) (ctx pos : Nat) (f : Thread → Thread) : State :=
  let t := s.threadAt pos
  let c := s.ctxAt ctx
  if c.images.any fun e => e.1 == pos then
    (s.setCtx ctx { c with images := c.images.map fun e => if e.1 = pos then (e.1, f e.2) else e }).onCheckpoint (awayKey ctx pos) f
  else if pos < slotCount ∧ t.live ∧ t.ctx = ctx then (s.setThread pos (f t)).onCheckpoint pos f
  else s

/-- A slot of a generation takes a state, and EV is set when it leaves pending (R269, R278, R392). -/
def Thread.settle (k : Nat) (gen : BitVec 48) (stamp : Nat) (st : BitVec 4) (c : BitVec 8) (result : DWord) (t : Thread) : Thread :=
  let old := t.token k
  if old.st = 0 ∨ old.gen ≠ gen then t
  else
    { (t.setToken k { old with st := st, cause := c, stamp := BitVec.ofNat 48 stamp, result := result }) with
      ev := t.ev || (old.st == 1 && st != 1) }

/-- The slot of an operation takes a state at this step (R269). -/
def State.settle (s : State) (ctx pos k : Nat) (gen : BitVec 48) (st : BitVec 4) (c : BitVec 8) (result : DWord) : State :=
  s.onIssuer ctx pos (Thread.settle k gen s.stamp st c result)

/-- EV is set in every thread of a context in the package (R392). -/
def State.setEvents (s : State) (ctx : Nat) : State :=
  let s := s.mapThreads fun _ t => if t.live && t.ctx == ctx then { t with ev := true } else t
  { s with segs := s.segs.map fun g =>
      if g.2.checkpoint.ctx = ctx then (g.1, { g.2 with checkpoint := { g.2.checkpoint with ev := true } }) else g }

/-- Numeric flags of asynchronous work reach their issuer (R283). -/
def State.deliver (s : State) (ctx pos : Nat) (fl : BitVec 6) : State :=
  s.onIssuer ctx pos fun t => { t with fflags := t.fflags ||| fl }

end Sys2Proof.Machine
end

