-- ==== Sys2Proof/Machine/Handles.lean ====
section
/-! DEFINITION. Tensor handles: descriptors, sparse patterns, amendment lists and the values that a handle reads (R287 to
R289, R295 to R298). -/

namespace Sys2Proof.Machine

/-! ### The descriptor (R287, R288) -/

/-- VALID. -/
def Handle.valid (h : Handle) : Bool := h.d0.getLsbD 31
/-- The rank. -/
def Handle.rank (h : Handle) : Nat := field h.d0 0 2 + 1
/-- The format of level l. -/
def Handle.lvl (h : Handle) (l : Nat) : Nat := field h.d0 (4 + 2 * l) 2
/-- EFMT. -/
def Handle.efmt (h : Handle) : Nat := field h.d0 12 4
/-- NB1. -/
def Handle.nb1 (h : Handle) : Nat := field h.d0 32 16
/-- NB0. -/
def Handle.nb0 (h : Handle) : Nat := field h.d0 48 16
/-- NR. -/
def Handle.nr (h : Handle) : Nat := field h.d1 0 32
/-- NC. -/
def Handle.nc (h : Handle) : Nat := field h.d1 32 32
/-- OR, the window's flattened row. -/
def Handle.orow (h : Handle) : Nat := field h.d2 0 32
/-- OC, the window's column. -/
def Handle.ocol (h : Handle) : Nat := field h.d2 32 32
/-- CURSOR. -/
def Handle.cursor (h : Handle) : Nat := field h.d3 0 32
/-- CAP. -/
def Handle.cap (h : Handle) : Nat := field h.d3 32 32
/-- VALS. -/
def Handle.vals (h : Handle) : Nat := h.d4.toNat
/-- POS. -/
def Handle.pos (h : Handle) : Nat := h.d5.toNat
/-- CRD. -/
def Handle.crd (h : Handle) : Nat := h.d6.toNat
/-- LIST. -/
def Handle.list (h : Handle) : Nat := h.d7.toNat

/-- The storage patterns (R288). -/
inductive Pattern where
  | dense | rows | coords | blocks
  deriving DecidableEq, Repr

/-- The pattern of a descriptor's levels (R288). -/
def Handle.pattern (h : Handle) : Option Pattern :=
  if h.lvl 2 ≠ 0 ∨ h.lvl 3 ≠ 0 then none
  else match h.lvl 0, h.lvl 1 with
    | 0, 0 => some .dense
    | 0, 1 => if h.rank = 2 then some .rows else none
    | 1, 2 => if h.rank = 2 then some .coords else none
    | 0, 3 => if h.rank = 2 then some .blocks else none
    | _, _ => none

/-- The descriptor is well formed (R288); a null one is not. -/
def Handle.wellFormed (h : Handle) : Bool :=
  h.valid && field h.d0 2 2 == 0 && field h.d0 16 15 == 0 && decide (h.efmt ≤ 3) && decide (1 ≤ h.nc)
    && (if h.rank = 1 then h.nr == 0 else decide (1 ≤ h.nr))
    && (if h.rank ≤ 2 then h.nb1 == 0 else decide (1 ≤ h.nb1))
    && (if h.rank ≤ 3 then h.nb0 == 0 else decide (1 ≤ h.nb0))
    && h.vals % 128 == 0 && h.list % 128 == 0
    && match h.pattern with
      | none => false
      | some .dense => h.pos == 0 && h.crd == 0
      | some .rows => h.pos % 4 == 0 && h.crd % 4 == 0
      | some .coords => h.pos % 4 == 0 && h.crd % 8 == 0
      | some .blocks => h.pos % 4 == 0 && h.crd % 4 == 0 && h.nr % 48 == 0 && h.nc % 48 == 0

/-- FR, the rows of the tensor (R289). -/
def Handle.fr (h : Handle) : Nat :=
  match h.rank with
  | 1 => 1
  | 2 => h.nr
  | 3 => h.nb1 * h.nr
  | _ => h.nb0 * h.nb1 * h.nr

/-! ### Layers (R295, R296) -/

/-- A layer of an amendment list; a sparse one with its coordinates in stored order. -/
structure Layer where
  low : Bool
  half : Bool
  num : Nat
  alpha : Nat
  aptr : Nat
  bptr : Nat
  coords : List (Nat × Nat)
  deriving DecidableEq, Repr

/-- The bytes of a layer's value. -/
def Layer.bytes (l : Layer) : Nat := if l.half then 2 else 4
/-- The format of a layer's values. -/
def Layer.fmt (l : Layer) : Fmt := if l.half then bf16 else f32

/-- A layer descriptor (R296), if it is well formed. -/
def layerOf (h : Handle) : Option Layer :=
  let low := h.d0.getLsbD 0
  let half := h.d0.getLsbD 1
  let v := if half then 2 else 4
  let num := field h.d0 32 32
  let alpha := field h.d1 0 32
  let a := h.d2.toNat
  let b := h.d3.toNat
  if h.d4 = 0 ∧ h.d5 = 0 ∧ h.d6 = 0 ∧ h.d7 = 0 ∧ field h.d0 2 30 = 0 ∧ field h.d1 32 32 = 0 ∧ 1 ≤ num ∧ b % v = 0
      ∧ (if low then num ≤ 48 ∧ a % v = 0 else alpha = 0 ∧ a % 8 = 0) then
    some ⟨low, half, num, alpha, a, b, []⟩
  else none

/-- A list header (R295): COUNT and FOLD, if it is well formed. -/
def listHeader (bs : List Byte) : Option (Nat × Bool) :=
  let d := dwords bs
  if (d.drop 1).all (fun w => w == 0) && field (d.getD 0 0) 4 60 == 0 then
    some (field (d.getD 0 0) 0 3, (d.getD 0 0).getLsbD 3)
  else none

/-! ### Opening a handle for an access -/

/-- A handle as one access reads it: who reads, the consumer kind, the format, the region of EFMT 0 with the number of the
region element at VALS, and the layers with the FOLD bit. -/
structure Tensor where
  h : Handle
  pat : Pattern
  ag : Agent
  kind : Nat
  efmt : Nat
  region : Option (Region × Nat)
  layers : List Layer
  fold : Bool
  deriving DecidableEq, Repr

/-- A read of a tensor access at an address modulo 2⁶⁴. -/
def Tensor.rd (ag : Agent) (kind : Nat) (s : State) (a n : Nat) : Run (List Byte × State) :=
  s.read ag (if kind = 4 then .source else .load) kind (a % 2 ^ 64) n

/-- The layers of a list from slot k on, with the coordinates of sparse ones (R295, R296). A malformed one is the
format-region fault at the list. -/
def readLayers (ag : Agent) (kind list : Nat) : Nat → Nat → State → Run (List Layer × State)
  | 0, _, s => .ok ([], s)
  | n + 1, k, s =>
    match Tensor.rd ag kind s (list + 64 * k) 64 with
    | .error e => .error e
    | .ok (bs, s) =>
      match layerOf (handleOf bs) with
      | none => raise s cause.formatRegion (BitVec.ofNat 64 list)
      | some l =>
        let coords : Run (List (Nat × Nat) × State) := if l.low then .ok ([], s) else
          match Tensor.rd ag kind s l.aptr (8 * l.num) with
          | .error e => .error e
          | .ok (cs, s) => .ok ((dwords cs).map (fun w => (field w 0 32, field w 32 32)), s)
        match coords with
        | .error e => .error e
        | .ok (cs, s) => match readLayers ag kind list n (k + 1) s with
          | .error e => .error e
          | .ok (ls, s) => .ok ({ l with coords := cs } :: ls, s)

/-- The list of a handle read (R295). -/
def readList (ag : Agent) (kind list : Nat) (s : State) : Run ((List Layer × Bool) × State) :=
  if list = 0 then .ok (([], false), s)
  else match Tensor.rd ag kind s list 64 with
    | .error e => .error e
    | .ok (bs, s) => match listHeader bs with
      | none => raise s cause.formatRegion (BitVec.ofNat 64 list)
      | some (n, fold) => match readLayers ag kind list n 1 s with
        | .error e => .error e
        | .ok (ls, s) => .ok ((ls, fold), s)

/-- The element formats as FMT codes: 2 FP32, 1 FP16, and those of R76: 3 BF16, 4 B8, 5 B6, 6 B4. -/
def efmtCode (efmt : Nat) (r : Option (Region × Nat)) : Nat :=
  match r with
  | some (g, _) => g.fmt
  | none => if efmt = 1 then 2 else if efmt = 2 then 1 else 3

/-- A handle opened for an access (R289, R292, R297): null is the format-region fault, with no address.
DESIGN CHOICE, unsafe: assumption 29 of the log. -/
def openTensor (h : Handle) (ag : Agent) (kind : Nat) (s : State) : Run (Tensor × State) :=
  match h.valid, h.pattern with
  | true, some pat =>
    let reg : Run (Option (Region × Nat) × State) :=
      if h.efmt ≠ 0 then .ok (none, s)
      else match s.region ag (if kind = 4 then .source else .load) h.vals with
        | .error e => .error e
        | .ok (r, s) =>
          let d := (h.vals : Int) - r.base
          if d % r.size ≠ 0 then raise s cause.formatRegion (BitVec.ofNat 64 h.vals)
          else if d < 0 then raise s cause.formatRegion (BitVec.ofNat 64 h.vals)
          else .ok (some (r, (d / r.size).toNat * (if r.block.isSome then 48 else 1)), s)
    match reg with
    | .error e => .error e
    | .ok (r, s) => match readList ag kind h.list s with
      | .error e => .error e
      | .ok ((ls, fold), s) =>
        .ok ({ h := h, pat := pat, ag := ag, kind := kind, efmt := efmtCode h.efmt r, region := r, layers := ls, fold := fold }, s)
  | _, _ => raise s cause.formatRegion 0

/-- The block format of a tensor's elements, if they are block codes. -/
def Tensor.block (t : Tensor) : Option BFmt := match t.region with | some (r, _) => r.block | none => none

/-- The IEEE format of a tensor's elements. -/
def Tensor.fmt (t : Tensor) : Fmt := if t.efmt = 2 then f32 else if t.efmt = 1 then f16 else bf16

/-- The limits of R298 over the rectangle of rows and columns from (r0, c0) to below (r1, c1). DEDUCED, unsafe: assumption 31 of the log. -/
def Tensor.limits (t : Tensor) (r0 r1 c0 c1 : Nat) (s : State) : Run State :=
  let rank : Nat := (t.layers.map fun l => if l.low then l.num else 0).sum
  let deltas : Nat := (t.layers.map fun l => (l.coords.filter fun x => decide (r0 ≤ x.1) && decide (x.1 < r1) && decide (c0 ≤ x.2) && decide (x.2 < c1)).length).sum
  if 96 < rank ∨ 4096 < deltas then raise s cause.amendment (BitVec.ofNat 64 t.h.list) else .ok s

/-! ### Values (R289, R297) -/

/-- A stop of a tensor read, with whether only an element's base value meets it (R302). -/
abbrev TRun (α : Type) := Except ((Bool × Stop) × State) α

/-- A read on which only an element's base value rests. -/
def onBase {α : Type} (r : Run α) : TRun α :=
  match r with
  | .ok a => .ok a
  | .error (st, s) => .error ((true, st), s)

/-- A read of positions, coordinates, lists, layers or scale pairs. -/
def onFrame {α : Type} (r : Run α) : TRun α :=
  match r with
  | .ok a => .ok a
  | .error (st, s) => .error ((false, st), s)

/-- A tensor read as an ordinary one. -/
def plainRun {α : Type} (r : TRun α) : Run α :=
  match r with
  | .ok a => .ok a
  | .error ((_, st), s) => .error (st, s)

/-- A 32-bit entry. -/
def Tensor.rd32 (t : Tensor) (s : State) (a : Nat) : Run (Nat × State) :=
  match Tensor.rd t.ag t.kind s a 4 with
  | .error e => .error e
  | .ok (bs, s) => .ok (ofBytes bs, s)

/-- The lowest entry of a position range whose coordinate is the one sought (R289); `w` bytes a coordinate. -/
def Tensor.search (t : Tensor) (s : State) (b w want : Nat) : Run (Option Nat × State) :=
  match t.rd32 s (t.h.pos + 4 * b) with
  | .error e => .error e
  | .ok (lo, s) => match t.rd32 s (t.h.pos + 4 * b + 4) with
    | .error e => .error e
    | .ok (hi, s) =>
      if hi ≤ lo then .ok (none, s)
      else match Tensor.rd t.ag t.kind s (t.h.crd + w * lo) (w * (hi - lo)) with
        | .error e => .error e
        | .ok (bs, s) =>
          .ok (((List.range (hi - lo)).find? fun k => ofBytes ((bs.drop (w * k)).take w) == want).map (fun k => lo + k), s)

/-- The stored element of (row, col), if there is one (R289). -/
def Tensor.locate (t : Tensor) (row col : Nat) (s : State) : Run (Option Nat × State) :=
  if t.h.fr ≤ row ∨ t.h.nc ≤ col then .ok (none, s)
  else match t.pat with
    | .dense => .ok (some (row * t.h.nc + col), s)
    | .rows => t.search s row 4 col
    | .coords => t.search s 0 8 (row + col * 2 ^ 32)
    | .blocks =>
      match t.search s (row / 48) 4 (col / 48) with
      | .error e => .error e
      | .ok (k, s) => .ok (k.map (fun k => 2304 * k + 48 * (row % 48) + col % 48), s)

/-- The code and the scale pair of a stored block element (R77, R289): of the block, the bytes that hold the code are read (R302). -/
def Tensor.code (t : Tensor) (r : Region) (f : BFmt) (m : Nat) (s : State) : TRun ((Nat × Nat) × State) :=
  let g := codeBytes f (m % 48)
  match onBase (s.regionItem t.ag (if t.kind = 4 then .source else .load) r ((m / 48 : Nat) : Int) g.1 g.2.1) with
  | .error e => .error e
  | .ok (va, s) => match onBase (Tensor.rd t.ag t.kind s va g.2.1) with
    | .error e => .error e
    | .ok (bs, s) => match onFrame (s.readPair t.ag r (m / 48) va) with
      | .error e => .error e
      | .ok (pair, s) => .ok ((bits (ofBytes bs) g.2.2 f.width, pair), s)

/-- The code and pair of an element of a block tensor with no layers; an absent one is a zero code (R289, R304). -/
def Tensor.codeAt (t : Tensor) (row col : Nat) (s : State) : TRun ((Nat × Nat) × State) :=
  match onFrame (t.locate row col s) with
  | .error e => .error e
  | .ok (none, s) => .ok ((0, 0), s)
  | .ok (some n, s) => match t.region, t.block with
    | some (r, n0), some f => t.code r f (n0 + n) s
    | _, _ => .ok ((0, 0), s)

/-- The exact value of stored element n (R289). -/
def Tensor.stored (t : Tensor) (n : Nat) (s : State) : TRun (FVal × State) :=
  match t.region with
  | none =>
    let e := if t.h.efmt = 1 then 4 else 2
    match onBase (Tensor.rd t.ag t.kind s (t.h.vals + n * e) e) with
    | .error x => .error x
    | .ok (bs, s) => .ok (t.fmt.value (ofBytes bs), s)
  | some (r, n0) =>
    match r.block with
    | none =>
      match onBase (s.regionItem t.ag (if t.kind = 4 then .source else .load) r ((n0 + n : Nat) : Int) 0 2) with
      | .error x => .error x
      | .ok (va, s) => match onBase (Tensor.rd t.ag t.kind s va 2) with
        | .error x => .error x
        | .ok (bs, s) => .ok (bf16.value (ofBytes bs), s)
    | some f => match t.code r f (n0 + n) s with
      | .error x => .error x
      | .ok ((c, pair), s) => .ok (f.decode c pair, s)

/-- A value of a layer's array. -/
def Layer.read (l : Layer) (t : Tensor) (s : State) (a : Nat) : Run (FVal × State) :=
  match Tensor.rd t.ag t.kind s a l.bytes with
  | .error e => .error e
  | .ok (bs, s) => .ok (l.fmt.value (ofBytes bs), s)

/-- The terms α × U[row][k] × V[k][col] of a low-rank layer from k on. -/
def lowTerms (l : Layer) (t : Tensor) (row col : Nat) : Nat → Nat → State → Run (List (FVal × Flags) × State)
  | 0, _, s => .ok ([], s)
  | n + 1, k, s =>
    match l.read t s (l.aptr + l.bytes * (row * l.num + k)) with
    | .error e => .error e
    | .ok (u, s) => match l.read t s (l.bptr + l.bytes * (k * t.h.nc + col)) with
      | .error e => .error e
      | .ok (v, s) =>
        let p := (f32.value l.alpha).mul u
        let q := p.1.mul v
        match lowTerms l t row col n (k + 1) s with
        | .error e => .error e
        | .ok (r, s) => .ok ((q.1, p.2 ||| q.2) :: r, s)

/-- The delta values at a list of positions. -/
def deltaTerms (l : Layer) (t : Tensor) : List Nat → State → Run (List (FVal × Flags) × State)
  | [], s => .ok ([], s)
  | q :: qs, s =>
    match l.read t s (l.bptr + l.bytes * q) with
    | .error e => .error e
    | .ok (v, s) => match deltaTerms l t qs s with
      | .error e => .error e
      | .ok (r, s) => .ok ((v, 0) :: r, s)

/-- The layers added in list order to a running FP32 value (R297). -/
def addLayers (t : Tensor) (row col : Nat) : List Layer → Nat × Flags → State → Run ((Nat × Flags) × State)
  | [], acc, s => .ok (acc, s)
  | l :: ls, acc, s =>
    let qs := if l.low then [] else ((l.coords.zipIdx).filter fun x => x.1 == (row, col)).map fun x => x.2
    if !l.low && qs == [] then addLayers t row col ls acc s
    else match (if l.low then lowTerms l t row col l.num 0 s else deltaTerms l t qs s) with
      | .error e => .error e
      | .ok (ts, s) =>
        let r := f32.sum 0 0 (ts.foldl (fun g x => g ||| x.2) 0) (f32.value acc.1 :: ts.map fun x => x.1)
        addLayers t row col ls (r.1, acc.2 ||| r.2) s

/-- layered_value (R297), and the flags of its roundings. -/
def Tensor.value (t : Tensor) (row col : Nat) (s : State) : TRun ((FVal × Flags) × State) :=
  if t.h.fr ≤ row ∨ t.h.nc ≤ col then .ok ((.num false 0, 0), s)
  else match onFrame (t.locate row col s) with
    | .error e => .error e
    | .ok (n, s) =>
      let base : TRun (FVal × State) := match n with
        | none => .ok (.num false 0, s)
        | some n => t.stored n s
      match base with
      | .error e => .error e
      | .ok (b, s) =>
        if t.layers = [] then .ok ((b, 0), s)
        else
          let r := f32.round 0 0 b.neg b
          match onFrame (addLayers t row col t.layers (r.1, b.nv ||| r.2) s) with
          | .error e => .error e
          | .ok ((v, fl), s) => .ok ((f32.value v, fl), s)

/-- The values at a list of places, in order (one step's reads). -/
def Tensor.values (t : Tensor) : List (Nat × Nat) → State → TRun ((List FVal × Flags) × State)
  | [], s => .ok (([], 0), s)
  | (r, c) :: l, s =>
    match t.value r c s with
    | .error e => .error e
    | .ok ((v, fl), s) => match Tensor.values t l s with
      | .error e => .error e
      | .ok ((vs, fl'), s) => .ok ((v :: vs, fl ||| fl'), s)

/-- The code pairs at a list of places, in order. -/
def Tensor.codes (t : Tensor) : List (Nat × Nat) → State → TRun (List (Nat × Nat) × State)
  | [], s => .ok ([], s)
  | (r, c) :: l, s =>
    match t.codeAt r c s with
    | .error e => .error e
    | .ok (v, s) => match Tensor.codes t l s with
      | .error e => .error e
      | .ok (vs, s) => .ok (v :: vs, s)

/-! ### HLD (R302) -/

/-- The values of HLD's elements in rising order: those read before a fault on a base value past element 0, or a stop. -/
def hldValues (t : Tensor) (w n : Nat) : Nat → List (FVal × Flags) → State → Run (List (FVal × Flags) × State)
  | 0, acc, s => .ok (acc.reverse, s)
  | left + 1, acc, s =>
    let i := n - (left + 1)
    match t.value (t.h.orow + i / w) (t.h.ocol + i % w) s with
    | .error ((b, .trap c v), s) => if b && decide (i ≠ 0) && shortens c then .ok (acc.reverse, s) else raise s c v
    | .error ((_, .wait x), s) => .error (.wait x, s)
    | .ok (v, s) => hldValues t w n left (v :: acc) s

/-- The byte ranges of a position range and its coordinates, as far as they can be read (R289). -/
def Tensor.searchSpans (t : Tensor) (s : State) (b w : Nat) : List (Nat × Nat) :=
  let coords := match t.rd32 s (t.h.pos + 4 * b), t.rd32 s (t.h.pos + 4 * b + 4) with
    | .ok (lo, _), .ok (hi, _) => if lo < hi then [(t.h.crd + w * lo, w * (hi - lo))] else []
    | _, _ => []
  (t.h.pos + 4 * b, 8) :: coords

/-- The byte ranges of stored element n: its bytes and, for the permission cause, its scale pair, whose other faults are the region's
(R77, R78). -/
def Tensor.baseSpans (t : Tensor) (c : Cause) (n : Nat) : List (Nat × Nat) :=
  match t.region with
  | none => let e := if t.h.efmt = 1 then 4 else 2; [(t.h.vals + n * e, e)]
  | some (r, n0) => match r.block with
    | none => [(r.address ((n0 + n : Nat) : Int), 2)]
    | some f =>
      let m := n0 + n
      let g := codeBytes f (m % 48)
      (r.address ((m / 48 : Nat) : Int) + g.1, g.2.1) :: if c = cause.permission then [((r.pair (m / 48)).1, 3)] else []

/-- The byte ranges of a layer's values for an element (R296). -/
def Layer.spans (l : Layer) (nc row col : Nat) : List (Nat × Nat) :=
  if l.low then
    (l.aptr + l.bytes * (row * l.num), l.bytes * l.num) :: (List.range l.num).map fun k => (l.bptr + l.bytes * (k * nc + col), l.bytes)
  else (l.coords.zipIdx.filter fun x => x.1 == (row, col)).map fun x => (l.bptr + l.bytes * x.2, l.bytes)

/-- The byte ranges that the value of an element rests on (R289, R297, R378). -/
def Tensor.touches (t : Tensor) (c : Cause) (s : State) (row col : Nat) : List (Nat × Nat) :=
  if t.h.fr ≤ row ∨ t.h.nc ≤ col then []
  else
    let frame := match t.pat with
      | .dense => []
      | .rows => t.searchSpans s row 4
      | .coords => t.searchSpans s 0 8
      | .blocks => t.searchSpans s (row / 48) 4
    let base := match t.locate row col s with
      | .ok (some n, _) => t.baseSpans c n
      | _ => []
    frame ++ base ++ t.layers.flatMap fun l => l.spans t.h.nc row col

/-- The byte ranges of some elements, for the fault group (R378). -/
def Tensor.spans (t : Tensor) (c : Cause) (s : State) (places : List (Nat × Nat)) : List (List (Nat × Nat)) :=
  places.map fun x => t.touches c s x.1 x.2

/-- The byte ranges of some elements of a handle that could not be opened for its list: those of its base (R378). -/
def bareSpans (h : Handle) (ag : Agent) (c : Cause) (s : State) (places : List (Nat × Nat)) : List (List (Nat × Nat)) :=
  match openTensor { h with d7 := 0 } ag 1 s with
  | .ok (t, _) => t.spans c s places
  | .error _ => []

/-- A fault of a handle access at the word: its address leads the list of ranges (R378). -/
def tensorTrap (e : VEntry) (c : Cause) (v : DWord) (spans : List (List (Nat × Nat))) (s : State) : VRes :=
  .trap e c v none false ([(v.toNat, 1)] :: spans) s

/-- HLD at the head of its queue (R302). -/
def hldRun (vd : VReg) (e : VEntry) (s : State) : VRes :=
  let env := s.t.env
  let w := e.a.toNat
  let n := env.vl
  let places := (List.range n).map fun i => (e.h1.orow + i / w, e.h1.ocol + i % w)
  if n = 0 then .commit s
  else match openTensor e.h1 s.agent 1 s with
    | .error (.wait _, s) => .blocked e s
    | .error (.trap c v, s) => tensorTrap e c v (bareSpans e.h1 s.agent c s places) s
    | .ok (t, s) =>
      match t.limits t.h.orow (t.h.orow + (n - 1) / w + 1) t.h.ocol (t.h.ocol + min w n) s with
      | .error (.trap c v, s) => tensorTrap e c v [] s
      | .error (.wait _, s) => .blocked e s
      | .ok s => match hldValues t w n n [] s with
        | .error (.wait _, s) => .blocked e s
        | .error (.trap c v, s) => tensorTrap e c v (t.spans c s places) s
        | .ok (vs, s) =>
          let f := vtIeeeFmt env.vt
          let rs : List (Nat × Flags) := vs.map fun x => ((f.convert 0 env.flush x.1).1, (f.convert 0 env.flush x.1).2 ||| x.2)
          let s := s.orderVector
          let s := { s with t := (s.t.setElems vd.toNat env.sew ((rs.zipIdx).map fun (r : (Nat × Flags) × Nat) => (r.2, r.1.1))).ungrade vd.toNat }
          let s := s.orFlags (rs.foldl (fun g (r : Nat × Flags) => g ||| r.2) 0)
          .commit (if vs.length < n then shortenVl vs.length s else s)

end Sys2Proof.Machine
end

