-- ==== Sys2Proof/Machine/HandleStore.lean ====
section
/-! DEFINITION. Stores through handles: HST, dense and sparse, at the head of its queue, and the publish of its shadow
(R305 to R308). -/

namespace Sys2Proof.Machine

/-! ### Bytes of a shadow -/

/-- The bytes of one line part of a field, with the bits that the field covers. -/
def fieldPuts (va pa n off value mask : Nat) : List Put :=
  (List.range n).filterMap fun i =>
    let m := bits mask (8 * (off + i)) 8
    if m = 0 then none
    else some { va := BitVec.ofNat 64 (va + i), pa := pa + i, byte := BitVec.ofNat 8 (bits value (8 * (off + i)) 8), mask := BitVec.ofNat 8 m }

/-- A byte range meets the scratchpad window of a thread's context (R305); a fold engine, which is no part of a core, has none
(R371). -/
def State.meetsWindow (s : State) (ag : Agent) (va n : Nat) : Bool :=
  let sp := (s.ctxAt ag.ctx).spbase.toNat
  ag.core.isSome && decide (va < sp + 2 ^ 21) && decide (sp < va + n)

/-- The parts of a destination translated (R306); a part in the scratchpad window is the format-region fault, before any other
(R305). DEDUCED, safe: assumption 39 of the log. -/
def putParts (s : State) (ag : Agent) (base value mask : Nat) : List (Nat × Nat) → Run (List Put × State)
  | [] => .ok ([], s)
  | (va, n) :: r =>
    if s.meetsWindow ag va n then raise s cause.formatRegion (BitVec.ofNat 64 va)
    else match s.translate ag .store va with
    | .error e => .error e
    | .ok ((pa, _), s) =>
      match putParts s ag base value mask r with
        | .error e => .error e
        | .ok (ps, s) =>
          .ok ((fieldPuts va pa n (va - base) value mask).map (fun q => { q with page := s.pageSize ag va }) ++ ps, s)

/-- A field of n bytes at an address: its value under a mask. -/
def rangePuts (s : State) (ag : Agent) (va n value mask : Nat) : Run (List Put × State) :=
  putParts s ag va value mask (lineParts va n)

/-- Whole bytes at an address. -/
def putWhole (s : State) (ag : Agent) (va : Nat) (bs : List Byte) : Run (List Put × State) :=
  rangePuts s ag va bs.length (ofBytes bs) (2 ^ (8 * bs.length) - 1)

/-- The code of a stored element of a block tensor with its block's scale pair: a page of the pair that translation refuses is the
format-region fault, and another cause stays (R74, R77, R78). -/
def putCode (s : State) (ag : Agent) (r : Region) (f : BFmt) (m code pair : Nat) : Run (List Put × State) :=
  let g := codeBytes f (m % 48)
  match s.regionItem ag .store r ((m / 48 : Nat) : Int) g.1 g.2.1 with
  | .error e => .error e
  | .ok (va, s) => match rangePuts s ag va g.2.1 (code % 2 ^ f.width * 2 ^ g.2.2) ((2 ^ f.width - 1) * 2 ^ g.2.2) with
    | .error e => .error e
    | .ok (ps, s) =>
      let p := r.pair (m / 48)
      match rangePuts s ag p.1 3 (pair % 2 ^ 20 * 2 ^ p.2) ((2 ^ 20 - 1) * 2 ^ p.2) with
      | .error (.trap c v, s) =>
        if c = cause.integrity then raise s c v
        else raise s (if c = cause.translation then cause.formatRegion else c) (BitVec.ofNat 64 va)
      | .error e => .error e
      | .ok (qs, s) => .ok (ps ++ qs, s)

/-- A converted value: the code of an IEEE element, or a code with its block's pair. -/
structure Conv where
  code : Nat
  pair : Nat
  zero : Bool
  deriving DecidableEq, Repr

/-- Stored element n with a converted value (R289, R306). -/
def Tensor.put (t : Tensor) (n : Nat) (c : Conv) (s : State) : Run (List Put × State) :=
  match t.region with
  | none =>
    let e := if t.h.efmt = 1 then 4 else 2
    putWhole s t.ag ((t.h.vals + n * e) % 2 ^ 64) (toBytes e c.code)
  | some (r, n0) => match r.block with
    | none =>
      match s.regionItem t.ag .store r ((n0 + n : Nat) : Int) 0 2 with
      | .error e => .error e
      | .ok (va, s) => putWhole s t.ag va (toBytes 2 c.code)
    | some f => putCode s t.ag r f (n0 + n) c.code c.pair

/-! ### Conversion -/

/-- A value with its sign. -/
abbrev Signed := FVal × Bool

/-- 48 values encoded as one block (R75). -/
def encodeConv (f : BFmt) (xs : List Signed) : List Conv × Flags :=
  let r := f.encode xs
  ((r.2.1.take xs.length).map fun c => ⟨c, r.1, match f.decode c r.1 with | .num _ q => q == 0 | _ => false⟩, r.2.2)

/-- Values encoded in groups of 48. -/
def encodeGroups (f : BFmt) (xs : List Signed) : List Conv × Flags :=
  let gs := (List.range ((xs.length + 47) / 48)).map fun g => encodeConv f ((xs.drop (48 * g)).take 48)
  (gs.flatMap fun g => g.1, gs.foldl (fun a g => a ||| g.2) 0)

/-- A value converted to an IEEE element (R306). -/
def ieeeConv (f : Fmt) (frm : BitVec 3) (fl : BitVec 2) (x : Signed) : Conv × Flags :=
  let r := f.convert frm fl x.1
  (⟨r.1, 0, r.1 % 2 ^ (f.width - 1) == 0⟩, r.2)

/-- The elements of a row converted (R306): each alone, or in tensor blocks of 48 columns. -/
def Tensor.convertRow (t : Tensor) (frm : BitVec 3) (fl : BitVec 2) (xs : List Signed) : List Conv × Flags :=
  match t.block with
  | some f => encodeGroups f xs
  | none =>
    let r := xs.map (ieeeConv t.fmt frm fl)
    (r.map fun x => x.1, r.foldl (fun a x => a ||| x.2) 0)

/-- The source elements of an HST (R305). -/
def hstSource (t : Thread) (vs3 : VReg) (env : VEnv) : List Signed :=
  let f := vtIeeeFmt env.vt
  (List.range env.vl).map fun i => (f.read env.flush (t.elem vs3.toNat env.sew i), f.signOf (t.elem vs3.toNat env.sew i))

/-- Lists in rows of w; the last may be shorter. -/
def rowsOf {α : Type} (w : Nat) (xs : List α) : List (List α) :=
  (List.range (if w = 0 then 0 else (xs.length + w - 1) / w)).map fun r => (xs.drop (w * r)).take w

/-! ### Dense stores -/

/-- The posted elements of a dense store (R306): each converted value inside the tensor, with its index. -/
def densePosts (t : Tensor) (w : Nat) : List (Conv × Nat) → State → Run (List PostedElem × State)
  | [], s => .ok ([], s)
  | (c, i) :: r, s =>
    let row := t.h.orow + i / w
    let col := t.h.ocol + i % w
    if t.h.fr ≤ row ∨ t.h.nc ≤ col then densePosts t w r s
    else match t.put (row * t.h.nc + col) c s with
      | .error e => .error e
      | .ok (ps, s) => match densePosts t w r s with
        | .error e => .error e
        | .ok (es, s) => .ok ({ idx := i, va := (ps.map fun p => p.va).headD 0, pa := (ps.map fun p => p.pa).headD 0, val := BitVec.ofNat 64 c.code, puts := ps } :: es, s)

/-- The converted values of a dense store, in element order. What a block destination gets outside the tensor counts as +0. -/
def denseConv (t : Tensor) (w : Nat) (frm : BitVec 3) (fl : BitVec 2) (xs : List Signed) : List Conv × Flags :=
  let inside := fun (x : Signed × Nat) =>
    if t.block.isSome ∧ (t.h.fr ≤ t.h.orow + x.2 / w ∨ t.h.nc ≤ t.h.ocol + x.2 % w) then (.num false 0, false) else x.1
  let rs := (rowsOf w (xs.zipIdx.map inside)).map fun r => t.convertRow frm fl r
  (rs.flatMap fun r => r.1, rs.foldl (fun a r => a ||| r.2) 0)

/-! ### Sparse stores (R307) -/

/-- A stored entry of a sparse store: its row, its column, and its converted values in stored order. -/
structure Entry where
  row : Nat
  col : Nat
  idx : Nat
  vals : List Conv
  deriving DecidableEq, Repr

/-- The entries of compressed rows and coordinates: elements whose converted value is not ±0, in row-major order. -/
def elementEntries (nc : Nat) (cs : List Conv) : List Entry :=
  cs.zipIdx.filterMap fun c => if c.1.zero then none else some ⟨c.2 / nc, c.2 % nc, c.2, [c.1]⟩

/-- The entries of block rows: 48×48 blocks that hold an element whose converted value is not ±0, in row-major order. -/
def blockEntries (nr nc : Nat) (cs : List Conv) : List Entry :=
  (List.range (nr / 48 * (nc / 48))).filterMap fun k =>
    let br := k / (nc / 48)
    let bc := k % (nc / 48)
    let vs := (List.range 48).flatMap fun r => (cs.drop ((48 * br + r) * nc + 48 * bc)).take 48
    if vs.all fun c => c.zero then none else some ⟨br, bc, (48 * br) * nc + 48 * bc, vs⟩

/-- The entries of a sparse tensor (R307). -/
def Tensor.entries (t : Tensor) (cs : List Conv) : List Entry :=
  if t.pat = .blocks then blockEntries t.h.nr t.h.nc cs else elementEntries t.h.nc cs

/-- Bytes of n stored elements. -/
def Tensor.valueBytes (t : Tensor) (n : Nat) : Nat :=
  match t.block with
  | some f => (n * f.width + 7) / 8
  | none => n * (if t.efmt = 2 then 4 else 2)

/-- The bytes needed (R307). -/
def Tensor.bytesNeeded (t : Tensor) (n : Nat) : Nat :=
  match t.pat with
  | .coords => 8 + 8 * n + t.valueBytes n
  | .blocks => 4 * (t.h.nr / 48 + 1) + 4 * n + n * t.valueBytes 2304
  | _ => 4 * (t.h.nr + 1) + 4 * n + t.valueBytes n

/-- The bytes of POS (R307). -/
def Tensor.posBytes (t : Tensor) (es : List Entry) : List Byte :=
  if t.pat = .coords then toBytes 4 0 ++ toBytes 4 es.length
  else
    let rows := if t.pat = .blocks then t.h.nr / 48 else t.h.nr
    (List.range (rows + 1)).flatMap fun r => toBytes 4 (es.filter fun e => decide (e.row < r)).length

/-- The bytes of CRD (R307). -/
def Tensor.crdBytes (t : Tensor) (es : List Entry) : List Byte :=
  es.flatMap fun e => if t.pat = .coords then toBytes 4 e.row ++ toBytes 4 e.col else toBytes 4 e.col

/-- The stored elements of an entry from element n on. -/
def putValues (t : Tensor) : List Conv → Nat → State → Run (List Put × State)
  | [], _, s => .ok ([], s)
  | c :: cs, n, s =>
    match t.put n c s with
    | .error e => .error e
    | .ok (ps, s) => match putValues t cs (n + 1) s with
      | .error e => .error e
      | .ok (qs, s) => .ok (ps ++ qs, s)

/-- The posted elements of a sparse store: one for each entry. -/
def sparsePosts (t : Tensor) : List Entry → Nat → State → Run (List PostedElem × State)
  | [], _, s => .ok ([], s)
  | e :: es, n, s =>
    match putValues t e.vals n s with
    | .error x => .error x
    | .ok (ps, s) => match sparsePosts t es (n + e.vals.length) s with
      | .error x => .error x
      | .ok (r, s) =>
        .ok ({ idx := e.idx, va := (ps.map fun p => p.va).headD 0, pa := (ps.map fun p => p.pa).headD 0, val := 0, puts := ps } :: r, s)

/-- The values of stored elements as a block destination of single elements holds them: each 48 consecutive stored
elements are one block of their converted values (R77). -/
def restore (t : Tensor) (es : List Entry) : List Entry :=
  match t.block with
  | some f =>
    if t.pat = .blocks then es
    else
      let xs := es.map fun e => match e.vals with
        | c :: _ => (f.decode c.code c.pair, f.sign c.code)
        | [] => (.num false 0, false)
      (es.zip (encodeGroups f xs).1).map fun p => { p.1 with vals := [p.2] }
  | none => es

/-! ### Posting and publishing -/

/-- The shadow of a handle store becomes memory at one step, its token's final one (R306, R308). In a task of a
deterministic context its bytes go to the segment's shadow (R430). -/
def State.publishHandle (s : State) (l : List Put) (slot : Option Nat) (gen : BitVec 48) : State :=
  let s := s.orderVector
  let s := if s.ctx.det then
      l.foldl (fun s p => s.commitWrite s.agent p.va.toNat p.pa [p.over (s.byteFor s.agent p.pa)]) s
    else s.publishPuts s.t.ctx l
  match slot with
  | some k => s.settle s.t.ctx s.pos k gen 3 0 0
  | none => s

/-- A handle store joins the posted set; one without an element publishes at once (R306). -/
def State.postHandle (s : State) (e : VEntry) (l : List Put) (es : List PostedElem) : State :=
  let gen := (s.t.token (e.slot.getD 0)).gen
  if es = [] then s.publishHandle l e.slot gen
  else
    s.post { id := 0, kind := .handle, bytes := 0, bf16 := false, frm := e.frm, flush := 0, elems := es, slot := e.slot, gen := gen, shadow := l }

/-- The tensor of a handle store (R305): null or layered is the format-region fault. -/
def openStore (h : Handle) (ag : Agent) (s : State) : Run (Tensor × State) :=
  match h.valid, h.pattern with
  | true, some pat =>
    if h.list ≠ 0 then raise s cause.formatRegion 0
    else
      let reg : Run (Option (Region × Nat) × State) :=
        if h.efmt ≠ 0 then .ok (none, s)
        else match s.region ag .store h.vals with
          | .error e => .error e
          | .ok (r, s) =>
            let d := (h.vals : Int) - r.base
            if d < 0 ∨ d % r.size ≠ 0 then raise s cause.formatRegion (BitVec.ofNat 64 h.vals)
            else .ok (some (r, (d / r.size).toNat * (if r.block.isSome then 48 else 1)), s)
      match reg with
      | .error e => .error e
      | .ok (r, s) =>
        .ok ({ h := h, pat := pat, ag := ag, kind := 1, efmt := efmtCode h.efmt r, region := r, layers := [], fold := false }, s)
  | _, _ => raise s cause.formatRegion 0

/-- What the check of a handle store finds: what it posts with its flags, or the bytes it would need (R306 to R308). -/
inductive HstCheck where
  | ready (base : List Put) (elems : List PostedElem) (flags : Flags)
  | overflow (bytes : Nat) (flags : Flags)
  deriving DecidableEq, Repr

/-- The first of n elements of a dense store, from the window's origin in rows of w, that lies in the scratchpad window (R305). -/
def Tensor.denseWindow (t : Tensor) (w n : Nat) (s : State) : Option Nat :=
  (List.range n).findSome? fun i =>
    let row := t.h.orow + i / w
    let col := t.h.ocol + i % w
    if t.h.fr ≤ row ∨ t.h.nc ≤ col then none
    else ((t.baseSpans 0 (row * t.h.nc + col)).find? fun x => s.meetsWindow t.ag x.1 x.2).map fun x => x.1

/-- The arrays of a sparse store that lie in the scratchpad window, which R305 refuses before R307 counts the entries: the first
bytes of POS, CRD and VALS, as far as the store writes them. -/
def Tensor.inWindow (t : Tensor) (n : Nat) (s : State) : Option Nat :=
  let entry := if t.pat = .coords then 8 else 4
  let pos := if t.pat = .coords then 8 else 4 * ((if t.pat = .blocks then t.h.nr / 48 else t.h.nr) + 1)
  let vals := if t.pat = .blocks then n * t.valueBytes 2304 else t.valueBytes n
  ([(t.h.pos, pos), (t.h.crd, entry * n), (t.h.vals, vals)].find? fun x => x.2 != 0 && s.meetsWindow t.ag x.1 x.2).map fun x => x.1

/-- The conversion and the check of a handle store with VL > 0 (R305 to R308). DEDUCED, safe: assumption 32 of the log. -/
def hstCheck (vs3 : VReg) (e : VEntry) (env : VEnv) (s : State) : Run (HstCheck × State) :=
  let w := e.a.toNat
  match openStore e.h1 s.agent s with
  | .error x => .error x
  | .ok (t, s) =>
    let xs := hstSource s.t vs3 env
    if w = 0 then raise s cause.formatRegion 0
    else if t.pat = .dense then
      if t.block.isSome ∧ (t.h.ocol % 48 ≠ 0 ∨ w % 48 ≠ 0 ∨ env.vl % w ≠ 0) then raise s cause.formatRegion 0
      else if let some a := t.denseWindow w env.vl s then raise s cause.formatRegion (BitVec.ofNat 64 a)
      else
        let c := denseConv t w e.frm env.flush xs
        match densePosts t w c.1.zipIdx s with
        | .error x => .error x
        | .ok (es, s) => .ok (.ready [] es c.2, s)
    else if t.h.orow ≠ 0 ∨ t.h.ocol ≠ 0 ∨ w ≠ t.h.nc ∨ env.vl ≠ t.h.fr * t.h.nc then raise s cause.formatRegion 0
    else
      let rs := (rowsOf w xs).map fun r => t.convertRow e.frm env.flush r
      let fl := rs.foldl (fun a r => a ||| r.2) 0
      let es := t.entries (rs.flatMap fun r => r.1)
      if let some a := t.inWindow es.length s then raise s cause.formatRegion (BitVec.ofNat 64 a)
      else if t.h.cap < es.length then .ok (.overflow (t.bytesNeeded es.length) fl, s)
      else match putWhole s t.ag t.h.pos (t.posBytes es) with
        | .error x => .error x
        | .ok (ps, s) => match putWhole s t.ag t.h.crd (t.crdBytes es) with
          | .error x => .error x
          | .ok (cs, s) => match sparsePosts t (restore t es) 0 s with
            | .error x => .error x
            | .ok (es, s) => .ok (.ready (ps ++ cs) es fl, s)

/-- HST and HST.try at the head of the queue (R305 to R308). With VL = 0 HST.try does not overflow.
DEDUCED, unsafe: assumption 123 of the log. -/
def hstRun (vs3 : VReg) (try_ : Option CReg) (e : VEntry) (s : State) : VRes :=
  let env := s.t.env
  let setC := fun (b : Bool) (s : State) => match try_ with | some cd => s.setC cd b | none => s
  if env.vl = 0 then
    .commit (setC true (match e.slot with
      | some k => s.orderVector.settle s.t.ctx s.pos k (s.t.token k).gen 3 0 0
      | none => s))
  else match hstCheck vs3 e env s with
    | .error (.wait _, s) => .blocked e s
    | .error (.trap c v, s) => .trap e c v none true [] s
    | .ok (.ready base es fl, s) =>
      if s.t.postRoom es.length then .commit (setC true ((s.orderVector.postHandle e base es).orFlags fl)) else .blocked e s
    | .ok (.overflow n fl, s) =>
      let s := match e.slot with
        | some k => s.orderVector.settle s.t.ctx s.pos k (s.t.token k).gen 5 0 (BitVec.ofNat 64 n)
        | none => s
      match try_ with
      | none => .commitTrap cause.overflow (BitVec.ofNat 64 n) (s.orFlags fl)
      | some cd => .commit ((s.orFlags fl).setC cd false)

/-- One element of a handle store performed (R306): its bytes join the shadow, and the last one publishes. -/
def State.performHandle (s : State) (o : PostedOp) (x : PostedElem) (last : Bool) : State :=
  let l := x.puts.foldl mergePut o.shadow
  if last then s.publishHandle l o.slot o.gen
  else { s with t := { s.t with posted := s.t.posted.map fun p => if p.id = o.id then { p with shadow := l } else p } }

end Sys2Proof.Machine
end

