-- ==== Sys2Proof/Machine/Tile.lean ====
section
/-! DEFINITION. The tile unit: taking and leaving it, the tile shape, outer products, accumulators and memory, and
draining (R191 to R213, R303, R304). -/

namespace Sys2Proof.Machine

/-! ### Accumulators -/

/-- An accumulator of the core in focus: element (r, c) at key 96 r + c. -/
def State.acc (s : State) (z : ZReg) : Sparse 32 := s.core.z[z.toNat]'z.isLt

/-- Replace an accumulator. -/
def State.setAcc (s : State) (z : ZReg) (v : Sparse 32) : State :=
  { s with core := { s.core with z := s.core.z.set z.toNat v z.isLt } }

/-- Elements of an accumulator replaced. -/
def accSets (z : Sparse 32) (l : List (Nat × Nat)) : Sparse 32 :=
  l.foldl (fun z e => sset z e.1 (BitVec.ofNat 32 e.2)) z

/-- M (R196). -/
def shapeM (t : DWord) : Nat := field t 0 7
/-- N (R196). -/
def shapeN (t : DWord) : Nat := field t 8 7
/-- K (R196). -/
def shapeK (t : DWord) : Nat := field t 16 16

/-- TSHAPE from its fields (R196). -/
def shapeWord (m n k : Nat) : DWord := BitVec.ofNat 64 (m + 2 ^ 8 * n + 2 ^ 16 * k)

/-- Positions pack this many k values (R199). -/
def packOf (vt : DWord) : Nat :=
  match vtFmt vt with
  | 4 => 2
  | 5 => 4
  | 6 => 4
  | _ => 1

/-! ### Taking and leaving the unit (R192 to R194) -/

/-- The unit taken by the thread in focus, if it is free and no earlier waiter stands before it, or if the thread holds it. -/
def State.takeUnit (s : State) : Option State :=
  let k := s.pos % 4
  let free := match s.core.tileOwner with
    | some o => o == k
    | none => s.core.tileWaiters == [] || s.core.tileWaiters.head? == some k
  if free then some { s with core := { s.core with tileOwner := some k, tileWaiters := s.core.tileWaiters.filter fun w => w != k } }
  else none

/-- The thread in focus waits for the unit, behind the earlier waiters (R193). -/
def State.queueForUnit (s : State) : State :=
  let k := s.pos % 4
  if s.core.tileWaiters.contains k then s
  else { s with core := { s.core with tileWaiters := s.core.tileWaiters ++ [k] } }

/-- The accumulators that a restored thread left with its image are reloaded once it holds the unit (R193). -/
def State.reloadTile (s : State) : Option State :=
  if s.t.tileSave = [] then some s
  else match s.takeUnit with
    | none => none
    | some s =>
      let g := fun k => s.t.tileSave.getD k []
      some { s with
        core := { s.core with z := #v[g 0, g 1, g 2, g 3] },
        t := { s.t with tileSave := [] } }

/-- MODET at the head of its queue (R192). -/
def modetRun (req : BitVec 11) (e : VEntry) (s : State) : VRes :=
  match s.takeUnit with
  | none => .blocked e s.queueForUnit
  | some s =>
    let vt : DWord := req.setWidth 64
    .commit { s with
      core := { s.core with z := Vector.replicate 4 [] },
      t := { s.t with
        vtype := vt, vl := BitVec.ofNat 14 (96 * packOf vt), p := Vector.replicate 16 [], tshape := shapeWord 96 96 1 } }

/-- MODEV at the head of its queue (R194). -/
def modevRun (s : State) : VRes := .commit { s with core := s.core.releaseTile (s.pos % 4) }

/-- TSHAPE at the head of its queue (R197). -/
def tshapeRun (e : VEntry) (s : State) : VRes :=
  .commit { s with t := { s.t with tshape := shapeWord (field e.a 0 32) (field e.a 32 32) e.b.toNat } }

/-- TSHAPE's check as it enters the queue (R197). -/
def tshapeOk (tilecapK : Nat) (e : VEntry) : Bool :=
  decide (field e.a 0 32 ≤ 96) && decide (field e.a 32 32 ≤ 96) && decide (e.b.toNat ≤ tilecapK)

/-- TZERO (R207). -/
def tzeroRun (z : ZReg) (s : State) : VRes := .commit (s.setAcc z [])

/-! ### Outer products (R200 to R204) -/

/-- tile_value (R200): element e of an operand register, or of its codes under its scale register. -/
def Thread.tileValue (t : Thread) (vt : DWord) (v e : Nat) : FVal :=
  let sew := vtSew vt
  if vtBlock vt then (vtBlockFmt vt).decode (t.elem v sew e) (bits (t.elem (v + 1) 32 (e / 48)) 0 20)
  else (vtIeeeFmt vt).read (vtFlush vt) (t.elem v sew e)

/-- One fused update of an accumulator element (R202). -/
def updateElem (frm : BitVec 3) (fl : BitVec 2) (neg set : Bool) (a b : List FVal) (old : Nat) : Nat × Flags :=
  let ps := (a.zip b).map fun p => p.1.mul p.2
  let terms := ps.map fun p => if neg then p.1.negate else p.1
  f32.sum frm fl (ps.foldl (fun g p => g ||| p.2) 0) (terms ++ if set then [] else [f32.read fl old])

/-- One update of the M × N corner: rows of A against columns of B, each with its packed values (R202). -/
def updateAcc (frm : BitVec 3) (fl : BitVec 2) (neg set : Bool) (a b : List (List FVal)) (z : Sparse 32) : Sparse 32 × Flags :=
  let rs := a.zipIdx.flatMap fun r => b.zipIdx.map fun c =>
    (96 * r.2 + c.2, updateElem frm fl neg set r.1 c.1 (sget z (96 * r.2 + c.2)).toNat)
  (accSets z (rs.map fun r => (r.1, r.2.1)), rs.foldl (fun g r => g ||| r.2.2) 0)

/-- TOPA (R202, R203). -/
def topaRun (set neg : Bool) (vb va : VReg) (z : ZReg) (e : VEntry) (s : State) : VRes :=
  let vt := s.t.vtype
  let m := shapeM s.t.tshape
  let n := shapeN s.t.tshape
  let pack := packOf vt
  if m = 0 ∨ n = 0 then .commit s
  else
    let side := fun (v : VReg) (k : Nat) => (List.range k).map fun i => (List.range pack).map fun t => s.t.tileValue vt v.toNat (pack * i + t)
    let r := updateAcc e.frm (vtFlush vt) neg set (side va m) (side vb n) (s.acc z)
    .commit ((s.setAcc z r.1).orFlags r.2)

/-- One row of a panel (R204, R304): the values of `count` columns from col on, with flags. DEDUCED, unsafe: assumption 30 of the log. -/
def panelRow (t : Tensor) (vt : DWord) (row col count : Nat) (s : State) : TRun ((List FVal × Flags) × State) :=
  match vtBlock vt, t.layers with
  | true, [] =>
    match t.codes ((List.range count).map fun k => (row, col + k)) s with
    | .error e => .error e
    | .ok (cs, s) => .ok ((cs.map fun c => (vtBlockFmt vt).decode c.1 c.2, 0), s)
  | true, _ =>
    let b0 := col / 48
    let nb := if count = 0 then 0 else (col + count - 1) / 48 + 1 - b0
    match t.values ((List.range (48 * nb)).map fun k => (row, 48 * b0 + k)) s with
    | .error e => .error e
    | .ok ((vs, fl), s) =>
      let f := vtBlockFmt vt
      let bs := (List.range nb).map fun k => f.encode (((vs.drop (48 * k)).take 48).map fun v => (v, v.neg))
      let all := bs.flatMap fun b => b.2.1.map fun c => f.decode c b.1
      .ok (((all.drop (col - 48 * b0)).take count, bs.foldl (fun g b => g ||| b.2.2) fl), s)
  | false, _ =>
    match t.values ((List.range count).map fun k => (row, col + k)) s with
    | .error e => .error e
    | .ok ((vs, fl), s) =>
      let f := vtIeeeFmt vt
      let rs := vs.map fun v => f.convert 0 0 v
      .ok ((rs.map fun r => f.read (vtFlush vt) r.1, rs.foldl (fun g r => g ||| r.2) fl), s)

/-- Rows of a panel, from one on. -/
def panelRows (t : Tensor) (vt : DWord) (col count : Nat) : Nat → Nat → State → TRun ((List (List FVal) × Flags) × State)
  | 0, _, s => .ok (([], 0), s)
  | n + 1, row, s =>
    match panelRow t vt row col count s with
    | .error e => .error e
    | .ok ((r, fl), s) => match panelRows t vt col count n (row + 1) s with
      | .error e => .error e
      | .ok ((rs, fl'), s) => .ok ((r :: rs, fl ||| fl'), s)

/-- The bay's tile fetch port as it reads for the thread in focus (R204, R205): no part of a core, so that it translates every address
through the page tables (R371). -/
def State.portAgent (s : State) : Agent := { s.agent with core := none }

/-- The elements of a panel. -/
def panelPlaces (h : Handle) (rows count : Nat) : List (Nat × Nat) :=
  (List.range (rows * count)).map fun k => (h.orow + k / count, h.ocol + k % count)

/-- The byte ranges that a panel reads, for the fault group (R378). -/
def panelSpans (h : Handle) (rows count : Nat) (c : Cause) (s : State) : List (List (Nat × Nat)) :=
  match openTensor h s.portAgent 1 s with
  | .ok (t, _) => t.spans c s (panelPlaces h rows count)
  | .error _ => bareSpans h s.portAgent c s (panelPlaces h rows count)

/-- A panel of a captured handle: opened, of the tile type, within the limits, and read (R204, R205, R298). -/
def readPanel (h : Handle) (vt : DWord) (rows count : Nat) (s : State) : Run ((List (List FVal) × Flags) × State) :=
  match openTensor h s.portAgent 1 s with
  | .error e => .error e
  | .ok (t, s) =>
    if t.efmt ≠ vtFmt vt then raise s cause.formatRegion 0
    else match t.limits h.orow (h.orow + rows) h.ocol (h.ocol + count) s with
      | .error e => .error e
      | .ok s => plainRun (panelRows t vt h.ocol count rows h.orow s)

/-- The steps of a TOPAS from one on: one update each (R204). -/
def panelSteps (frm : BitVec 3) (fl : BitVec 2) (neg set : Bool) (pack : Nat) (a b : List (List FVal)) :
    Nat → Nat → Sparse 32 × Flags → Sparse 32 × Flags
  | 0, _, acc => acc
  | n + 1, k, acc =>
    let part := fun (l : List (List FVal)) => l.map fun r => (r.drop (pack * k)).take pack
    let r := updateAcc frm fl neg (set && k == 0) (part a) (part b) acc.1
    panelSteps frm fl neg set pack a b n (k + 1) (r.1, acc.2 ||| r.2)

/-- TOPAS (R198, R203 to R205). DEDUCED, unsafe: assumption 34 of the log. It opens its handles before its first step, and where it
makes none too. DEDUCED, unsafe: assumption 120 of the log. -/
def topasRun (set neg : Bool) (z : ZReg) (e : VEntry) (s : State) : VRes :=
  let vt := s.t.vtype
  let m := shapeM s.t.tshape
  let n := shapeN s.t.tshape
  let k := shapeK s.t.tshape
  let pack := packOf vt
  if s.core.tilecapK < k then .trap e cause.illegal ((encode e.instr).setWidth 64) none false [] s
  else if m = 0 ∨ n = 0 then .commit s
  else match readPanel e.h1 vt m (pack * k) s with
    | .error (.wait _, s) => .blocked e s
    | .error (.trap c v, s) =>
      tensorTrap e c v (panelSpans e.h1 m (pack * k) c s ++ panelSpans e.h2 n (pack * k) c s) s
    | .ok ((a, fa), s) => match readPanel e.h2 vt n (pack * k) s with
      | .error (.wait _, s) => .blocked e s
      | .error (.trap c v, s) => tensorTrap e c v (panelSpans e.h2 n (pack * k) c s) s
      | .ok ((b, fb), s) =>
        let r := panelSteps e.frm (vtFlush vt) neg set pack a b k 0 (s.acc z, fa ||| fb)
        .commit ((s.orderVector.setAcc z r.1).orFlags r.2)

/-- TFETCH (R303). -/
def tfetchRun (va : VReg) (e : VEntry) (s : State) : VRes :=
  let vt := s.t.vtype
  let pack := packOf vt
  let col := e.h1.ocol + pack * e.a.toNat
  let sew := vtSew vt
  let places := (List.range (96 * pack)).map fun k => (e.h1.orow + k / pack, col + k % pack)
  match openTensor e.h1 s.agent 1 s with
  | .error (.wait _, s) => .blocked e s
  | .error (.trap c v, s) => tensorTrap e c v (bareSpans e.h1 s.agent c s places) s
  | .ok (t, s) =>
    if t.efmt ≠ vtFmt vt then .trap e cause.formatRegion 0 none false [] s
    else match t.limits e.h1.orow (e.h1.orow + 96) col (col + pack) s with
      | .error (.wait _, s) => .blocked e s
      | .error (.trap c v, s) => tensorTrap e c v [] s
      | .ok s => match plainRun (t.values places s) with
        | .error (.wait _, s) => .blocked e s
        | .error (.trap c v, s) => tensorTrap e c v (t.spans c s places) s
        | .ok ((vs, fl), s) =>
          let s := s.orderVector
          if vtBlock vt then
            let f := vtBlockFmt vt
            let bs := (List.range (2 * pack)).map fun b => f.encode (((vs.drop (48 * b)).take 48).map fun v => (v, v.neg))
            let codes := bs.flatMap fun b => b.2.1
            let t := (s.t.setElems va.toNat sew (codes.zipIdx.map fun c => (c.2, c.1))).setElems (va.toNat + 1) 32
              (bs.zipIdx.map fun b => (b.2, b.1.1))
            .commit (({ s with t := (t.ungrade va.toNat).ungrade (va.toNat + 1) } : State).orFlags (bs.foldl (fun g b => g ||| b.2.2) fl))
          else
            let f := vtIeeeFmt vt
            let rs := vs.map fun v => f.convert 0 (vtFlush vt) v
            .commit (({ s with t := (s.t.setElems va.toNat sew (rs.zipIdx.map fun r => (r.2, r.1.1))).ungrade va.toNat } : State).orFlags
              (rs.foldl (fun g r => g ||| r.2) fl))

/-! ### Accumulators and memory (R208, R209) -/

/-- The address of accumulator element k of an N-column corner (R208). -/
def accAddress (e : VEntry) (n k : Nat) : Nat :=
  (e.a + BitVec.ofInt 64 ((k / n : Nat) * e.b.toInt + (4 * (k % n) : Nat))).toNat

/-- The byte ranges of the elements from one on, for the fault group (R378). -/
def accSpans (e : VEntry) (n total k : Nat) : List (List (Nat × Nat)) :=
  (List.range (total - k)).map fun i =>
    let a := accAddress e n (k + i)
    if a % 4 = 0 then [(a, 4)] else []

/-- TLDZ from its element `prog` on (R208): the values read so far stand in `got`. -/
def tldzGo (z : ZReg) (n total : Nat) : Nat → VEntry → State → VRes
  | 0, e, s => .progress e s
  | fuel + 1, e, s =>
    if total ≤ e.prog then
      .commit (s.setAcc z (accSets (s.acc z) (e.got.map fun l => (96 * (l.idx / n) + l.idx % n, l.val))))
    else
      let a := accAddress e n e.prog
      let again := { e with prog := 0, got := [] }
      if a % 4 ≠ 0 then .trap again cause.misaligned (BitVec.ofNat 64 a) none false (accSpans e n total e.prog) s
      else match s.read s.agent .load 1 a 4 with
        | .error (.wait _, s) => .blocked e s
        | .error (.trap c v, s) => .trap again c v none false (accSpans e n total e.prog) s
        | .ok (bs, s) =>
          tldzGo z n total fuel { e with prog := e.prog + 1, got := e.got ++ [⟨0, 32, e.prog, ofBytes bs⟩] } s.orderVector

/-- TLDZ (R208). -/
def tldzRun (z : ZReg) (limit : Option Nat) (e : VEntry) (s : State) : VRes :=
  let n := shapeN s.t.tshape
  let total := shapeM s.t.tshape * n
  tldzGo z n total (limit.getD (total - e.prog + 1)) e s

/-- TSTZ from its element `prog` on (R209). -/
def tstzGo (z : ZReg) (n total : Nat) : Nat → VEntry → State → VRes
  | 0, e, s => .progress e s
  | fuel + 1, e, s =>
    if total ≤ e.prog then .commit s
    else
      let a := accAddress e n e.prog
      let v := (sget (s.acc z) (96 * (e.prog / n) + e.prog % n)).toNat
      if a % 4 ≠ 0 then .trap e cause.misaligned (BitVec.ofNat 64 a) none true (accSpans e n total e.prog) s
      else match s.writeItem a (toBytes 4 v) with
        | .error (.wait _, s) => .blocked e s
        | .error (.trap c v, s) => .trap e c v none true (accSpans e n total e.prog) s
        | .ok s => tstzGo z n total fuel { e with prog := e.prog + 1 } s

/-- TSTZ (R209). -/
def tstzRun (z : ZReg) (limit : Option Nat) (e : VEntry) (s : State) : VRes :=
  let n := shapeN s.t.tshape
  let total := shapeM s.t.tshape * n
  tstzGo z n total (limit.getD (total - e.prog + 1)) e s

/-! ### Draining (R210) -/

/-- The register write of a TDRAIN (R210). -/
def tdrainWrite (z : ZReg) (vd : VReg) (e : VEntry) (s : State) : State :=
  let n := shapeN s.t.tshape
  { s with t := (s.t.setElems vd.toNat 32 ((List.range n).map fun j => (j, (sget (s.acc z) (96 * e.a.toNat + j)).toNat))).ungrade vd.toNat }

end Sys2Proof.Machine
end

