-- ==== Sys2Proof/Machine/VEffect.lean ====
section
/-! DEFINITION. What each vector word that meets no memory does when it runs (R121 to R137), in the thread's own stream,
in a lane group (R226) or in a chain (R211). -/

namespace Sys2Proof.Machine

/-- The minimum or maximum of two patterns of a width, signed or not (R121, R136). -/
def pickInt (max signed : Bool) (w a b : Nat) : Nat :=
  let less := if signed then decide (asSigned w a < asSigned w b) else decide (a < b)
  if less = max then b else a

/-- VFADD and VFSUB (R122): the sum of a and ±b. -/
def fpAdd (neg : Bool) (f : Fmt) (rm : BitVec 3) (fl : BitVec 2) (a b : FVal) : Nat × Flags :=
  f.sum rm fl 0 [a, if neg then b.negate else b]

/-- VFMACC and VFNMSAC (R122): vd[i] ± a × b. -/
def fpMacc (neg : Bool) (f : Fmt) (rm : BitVec 3) (fl : BitVec 2) (a b c : FVal) : Nat × Flags :=
  let p := a.mul b
  f.sum rm fl p.2 [if neg then p.1.negate else p.1, c]

/-- VFCVT in a chain (R211): its code names the destination, whose width vd takes. -/
def chainConvert (p : PReg) (vs2 : VReg) (code : Reg) (vd : VReg) (e : VEntry) (env : VEnv) (s : State) : State :=
  let t := s.t
  let w := match chainCvt code with | some (w, _) => w | none => 32
  let rm := if 16 ≤ code.toNat then 1 else e.frm
  s.writeVector env vd.toNat w ((env.active t p).map fun i =>
    (i, cvtElem (.ieee f32) (chainType code) rm env.flush (f32.read env.flush (t.elem vs2.toNat 32 i))))

/-- VOPI words (R121). -/
def intEffect (i : Instr) (e : VEntry) (env : VEnv) (s : State) : Option State :=
  match i with
  | .vadd p f a x d => some (vecInt (fun _ a b _ => a + b) p f a x d e.b env s)
  | .vsub p f a x d => some (vecInt (fun w a b _ => subMod w a b) p f a x d e.b env s)
  | .vmul p f a x d => some (vecInt (fun _ a b _ => a * b) p f a x d e.b env s)
  | .vmulh p f a x d => some (vecInt (fun w a b _ => mulhS w a b) p f a x d e.b env s)
  | .vmulhu p f a x d => some (vecInt (fun w a b _ => a * b / 2 ^ w) p f a x d e.b env s)
  | .vmacc p f a x d => some (vecInt (fun _ a b c => c + a * b) p f a x d e.b env s)
  | .vand p f a x d => some (vecInt (fun _ a b _ => a &&& b) p f a x d e.b env s)
  | .vor p f a x d => some (vecInt (fun _ a b _ => a ||| b) p f a x d e.b env s)
  | .vxor p f a x d => some (vecInt (fun _ a b _ => a ^^^ b) p f a x d e.b env s)
  | .vsll p f a x d => some (vecInt (fun w a b _ => a * 2 ^ (b % w)) p f a x d e.b env s)
  | .vsrl p f a x d => some (vecInt (fun w a b _ => a / 2 ^ (b % w)) p f a x d e.b env s)
  | .vsra p f a x d => some (vecInt (fun w a b _ => sraMod w a (b % w)) p f a x d e.b env s)
  | .vmin p f a x d => some (vecInt (fun w a b _ => pickInt false true w a b) p f a x d e.b env s)
  | .vmax p f a x d => some (vecInt (fun w a b _ => pickInt true true w a b) p f a x d e.b env s)
  | .vminu p f a x d => some (vecInt (fun w a b _ => pickInt false false w a b) p f a x d e.b env s)
  | .vmaxu p f a x d => some (vecInt (fun w a b _ => pickInt true false w a b) p f a x d e.b env s)
  | _ => none

/-- VOPF words (R122 to R130). -/
def fpEffect (i : Instr) (e : VEntry) (env : VEnv) (s : State) : Option State :=
  match i with
  | .vfadd p f a x d => some (vecFp (fun f rm fl a b _ => fpAdd false f rm fl a b) p f a x d e env s)
  | .vfsub p f a x d => some (vecFp (fun f rm fl a b _ => fpAdd true f rm fl a b) p f a x d e env s)
  | .vfmul p f a x d => some (vecFp (fun f rm fl a b _ => f.mul rm fl a b) p f a x d e env s)
  | .vfdiv p f a x d => some (vecFp (fun f rm fl a b _ => f.div rm fl a b) p f a x d e env s)
  | .vfsqrt p a d => some (vecFp (fun f rm fl a _ _ => f.sqrt rm fl a) p .vv a 0 d e env s)
  | .vfmacc p f a x d => some (vecFp (fun f rm fl a b c => fpMacc false f rm fl a b c) p f a x d e env s)
  | .vfnmsac p f a x d => some (vecFp (fun f rm fl a b c => fpMacc true f rm fl a b c) p f a x d e env s)
  | .vfmin p f a x d => some (vecMinMax false p f a x d e env s)
  | .vfmax p f a x d => some (vecMinMax true p f a x d e env s)
  | .vfcvt p a code d =>
    some (if e.chain.isSome then chainConvert p a code d e env s else vecCvt p a code d e env s.core.rowcap s)
  | .vfsgnj p f a x d => some (vecSgnj p f a x d e env s)
  | .vfrsqrte p a d => some (vecRsqrte p a d env s)
  | .vfclass p a d => some (vecClass p a d env s)
  | .vmix p f a x d => some (vecMix p f a x d e.b env s)
  | .vfdot4 p f a x d => some (vecDot4 p f a x d e env s)
  | .vfmerge p f a x d => some (vecMerge p f a x d e.b env s)
  | _ => none

/-- VPRED words (R131, R132). -/
def predEffect (i : Instr) (e : VEntry) (env : VEnv) (s : State) : Option State :=
  match i with
  | .pand p b a d => some (predOp (fun x y => x && y) p b a d env s)
  | .por p b a d => some (predOp (fun x y => x || y) p b a d env s)
  | .pxor p b a d => some (predOp (fun x y => x != y) p b a d env s)
  | .pandn p b a d => some (predOp (fun x y => x && !y) p b a d env s)
  | .pnot p b d => some (predOp (fun x _ => !x) p b 0 d env s)
  | .pset p d => some (predOp (fun _ _ => true) p 0 0 d env s)
  | .pclr p d => some (predOp (fun _ _ => false) p 0 0 d env s)
  | .pmerge p b a d => some (predMerge p b a d env s)
  | .vcmpeq p f a x d => some (vecCompare (fun _ a b => a == b) p f a x d e.b env s)
  | .vcmpne p f a x d => some (vecCompare (fun _ a b => a != b) p f a x d e.b env s)
  | .vcmplt p f a x d => some (vecCompare (fun w a b => decide (asSigned w a < asSigned w b)) p f a x d e.b env s)
  | .vcmpltu p f a x d => some (vecCompare (fun _ a b => decide (a < b)) p f a x d e.b env s)
  | .vcmpge p f a x d => some (vecCompare (fun w a b => decide (asSigned w b ≤ asSigned w a)) p f a x d e.b env s)
  | .vfcmpeq p f a x d => some (vecFpCompare 0 p f a x d e env s)
  | .vfcmplt p f a x d => some (vecFpCompare 1 p f a x d e env s)
  | .vfcmple p f a x d => some (vecFpCompare 2 p f a x d e env s)
  | _ => none

/-- VPERM words but VFREDO (R133 to R136). -/
def permEffect (i : Instr) (e : VEntry) (env : VEnv) (s : State) : Option State :=
  match i with
  | .vstep p _ _ d => some (vecStep p d e.b env s)
  | .vxch p _ a _ d => some (vecXch p a d e.b env s)
  | .vslideup p _ a _ d => some (vecSlideUp p a d e.b env s)
  | .vslidedn p _ a _ d => some (vecSlideDn p a d e.b env s)
  | .vgather p f a x d => some (vecGather p f a x d e.b env s)
  | .vcompress p a d => some (vecCompress p a d env s)
  | .vconf p a d => some (vecConf p a d env s)
  | .vreds p f a x d =>
    some (vecReduce (fun _ _ a b => a + b) (fun f rm fl a b => f.sum rm fl 0 [f.read fl a, f.read fl b]) p f a x d e env s)
  | .vredmin p f a x d =>
    some (vecReduce (fun w sg a b => pickInt false sg w a b) (fun f _ fl a b =>
      f.minMax false (f.flushed fl a) (f.flushed fl b) (f.read fl a) (f.read fl b)) p f a x d e env s)
  | .vredmax p f a x d =>
    some (vecReduce (fun w sg a b => pickInt true sg w a b) (fun f _ fl a b =>
      f.minMax true (f.flushed fl a) (f.flushed fl b) (f.read fl a) (f.read fl b)) p f a x d e env s)
  | .vmvxs f a _ rd => some (vecToX f a rd e.b env s)
  | .vmvsx _ _ d => some (vecFromScalar d e.b env s)
  | .vpopc p b rd => some (vecPopc p b rd env s)
  | .vfirst p b rd => some (vecFirst p b rd env s)
  | _ => none

/-- The effect of a word of VOPI, VOPF, VPRED or VPERM, VFREDO apart, on an environment. -/
def vectorEffect (i : Instr) (e : VEntry) (env : VEnv) (s : State) : Option State :=
  match intEffect i e env s with
  | some s => some s
  | none => match fpEffect i e env s with
    | some s => some s
    | none => match predEffect i e env s with
      | some s => some s
      | none => permEffect i e env s

end Sys2Proof.Machine
end

