-- ==== Sys2Proof/Machine/LaneMode.lean ====
section
/-! DEFINITION. Vector-thread mode: blocks, groups of virtual lanes and their faults (R224 to R233). A group's block
runs step by step, each memory element a step of its own. -/

namespace Sys2Proof.Machine

/-! ### Posted elements -/

/-- A posted element's bytes are held by a copy (R258). -/
def State.elemHeld (s : State) (o : PostedOp) (x : PostedElem) : Bool :=
  if o.kind = .handle then x.puts.any fun p => s.held s.agent p.pa 1 else s.held s.agent x.pa o.bytes

/-- One posted element of the thread in focus performed, by its place in the set and in its operation (R157 to R160,
R283): the last one of an operation delivers its flags. -/
def State.performElement (s : State) (oi xi : Nat) : Option State :=
  match s.t.posted[oi]? with
  | none => none
  | some o => match o.elems[xi]? with
    | none => none
    | some x =>
      if s.elemHeld o x then none
      else
        let s := s.orderVector
        let left := o.elems.eraseIdx xi
        let last := left == []
        let r : Flags × State := if o.kind = .handle then (0, s.performHandle o x last) else s.performPosted o x
        let fl := o.flags ||| r.1
        let s := r.2
        let keep := fun (p : PostedOp) => if p.id = o.id then { p with elems := left, flags := fl } else p
        let s := { s with t := { s.t with posted := if last then s.t.posted.filter fun p => p.id != o.id else s.t.posted.map keep } }
        some (if last then s.deliver s.t.ctx s.pos fl else s)

/-- The posted elements of the thread in focus performed in posting order, as many as `n` and as no copy holds. -/
def State.performSome : Nat → State → State
  | 0, s => s
  | n + 1, s =>
    match s.performElement 0 0 with
    | none => s
    | some s => State.performSome n s

/-- The elements in a posted set. -/
def Thread.postedCount (t : Thread) : Nat := (t.posted.map fun o => o.elems.length).sum

/-- Every posted element of the thread in focus performed, as far as no copy holds one. -/
def State.performAll (s : State) : State := s.performSome s.t.postedCount

/-! ### Blocks (R227) -/

/-- A word of a block that the table of R227 admits: one that runs, or the end. -/
inductive BlockWord where
  | run (i : Instr)
  | last (b : BlockEnd)
  deriving DecidableEq, Repr

/-- The memory words that a block admits (R227). -/
def blockMemory : Instr → Bool
  | .vld _ _ _ _ | .vlds _ _ _ _ _ | .vldx _ _ _ _ _ | .vldf _ _ _ | .vldfS _ _ _ _ | .vldfX _ _ _ _ | .texs _ _ _ _
  | .vst _ _ _ _ | .vsts _ _ _ _ _ | .vstx _ _ _ _ _ | .vstF _ _ _ | .vstsF _ _ _ _ | .vstxF _ _ _ _
  | .vscadd _ _ _ _ _ | .vstc _ _ _ _ => true
  | _ => false

/-- The VOPF words that a block admits (R227): no form 10, and VFCVT only from a source of one register (R128). -/
def blockFp (le : LegalEnv) : Instr → Bool
  | .vfcvt _ _ code _ => decide (le.vl ≤ vlmax le.lanes le.rowcap (cvtSource (code.toNat % 16)).sew)
  | .vfadd _ f _ _ _ | .vfsub _ f _ _ _ | .vfmul _ f _ _ _ | .vfdiv _ f _ _ _ | .vfmacc _ f _ _ _
  | .vfnmsac _ f _ _ _ | .vfmin _ f _ _ _ | .vfmax _ f _ _ _ | .vfsgnj _ f _ _ _ | .vmix _ f _ _ _
  | .vfdot4 _ f _ _ _ | .vfmerge _ f _ _ _ => f != .vf
  | _ => true

/-- A block word decoded (R227), or none if it is illegal in a block. -/
def blockWord (w : Word) (le : LegalEnv) : Option BlockWord :=
  let n := w.toNat
  let legal := fun (ok : Instr → Bool) (r : Except DecodeError Instr) =>
    match r with
    | .ok i => if ok i && classLegal i le then some (BlockWord.run i) else none
    | .error _ => none
  match fld n 0 7 with
  | 0x0F => match decodeMisc n with
    | .ok (.lfetch imm rs1 vi) => if le.index vi then some (.last (.fetch imm rs1 vi)) else none
    | .ok .stop => some (.last .stop)
    | _ => none
  | 0x1F => legal (fun _ => true) (decodeVopi n)
  | 0x57 => legal (blockFp le) (decodeVopf n)
  | 0x77 => legal (fun _ => true) (decodeVpred n)
  | 0x4B => legal blockMemory (decodeVld n)
  | 0x4F => legal blockMemory (decodeVst n)
  | _ => none

/-- A block fetched and decoded from an address: its words with their addresses, and its end; or the cause and value
with which every lane faults (R230). -/
def fetchBlock (le : LegalEnv) : Nat → DWord → List (DWord × Instr) → State →
    (Except (Cause × DWord) (List (DWord × Instr) × BlockEnd)) × State
  | 0, _, _, s => (.error (cause.illegal, 0), s)
  | n + 1, a, ws, s =>
    match s.fetch a true with
    | .error (.trap c v, s) => (.error (c, v), s)
    | .error (.wait _, s) => (.error (cause.illegal, 0), s)
    | .ok (w, s) => match blockWord w le with
      | none => (.error (cause.illegal, w.setWidth 64), s)
      | some (.last b) => (.ok (ws.reverse, b), s)
      | some (.run i) =>
        if n = 0 then (.error (cause.illegal, w.setWidth 64), s) else fetchBlock le n (a + 4) ((a, i) :: ws) s

/-! ### A group's block (R228 to R230) -/

/-- Lanes of the group fault at a word's address (R230). -/
def GroupRun.lose (g : GroupRun) (ls : List Nat) (a : DWord) (c : Cause) (v : DWord) : GroupRun :=
  let ls := ls.filter fun i => g.alive.contains i
  { g with
    alive := g.alive.filter fun i => !ls.contains i
    lost := g.lost ++ ls.map fun i => (i, { st := .faulted, next := a, cause := c, val := v }) }

/-- The word that runs has come to its end. -/
def GroupRun.wordDone (g : GroupRun) (fl : Flags) : GroupRun := { g with word := none, flags := g.flags ||| fl }

/-- The thread with the x registers that a VBLK copied (R226). -/
def copiedThread (t : Thread) (l : List DWord) : Thread := { t with x := Vector.ofFn fun k => if k = 0 then 0 else l.getD (k.val - 1) 0 }

/-- The entry of a word of a block: its operands from the VBLK's copy (R226). -/
def blockEntry (v : VEntry) (a : DWord) (i : Instr) (s : State) : VEntry :=
  (copiedThread s.t v.xs).operands i { addr := a, instr := i, frm := v.frm, gmode := v.gmode, sthresh := v.sthresh, lbypass := v.lbypass }

/-- The environment of a word of a group: VL and VTYPE as the VBLK saw them, the lanes at the word as the elements (R226). -/
def groupEnv (t : Thread) (dom : List Nat) : VEnv := { t.env with dom := dom }

/-- The lanes of an item. -/
def itemLanes (w : MemWord) (env : VEnv) (pr : Prep) (k : Nat) : List Nat :=
  if blockwise w env pr then env.dom.filter fun i => i / 48 == k else [k]

/-- What a step of a group comes to: the group has gone on, or its word must wait. -/
inductive GroupRes where
  | next (g : GroupRun) (s : State)
  | wait (g : GroupRun) (s : State)
  deriving DecidableEq, Repr

/-- The next element of a load or a non-posted store of a group, or the word's end (R228, R230): a faulting item loses its
lanes, a fault of the word itself loses every lane at it, and the other lanes go on. The faults of the word itself are those of
`memReady`: with those that R230 names, a misaligned x[rs1], a refusal of the page of x[rs1] or of the descriptor, and an encoding
store to a block region under a predicate other than p0. The read of a texture descriptor is a step of its own (R162).
DESIGN CHOICE, unsafe: assumption 114 of the log. -/
def groupMemory (w : MemWord) (e : VEntry) (g : GroupRun) (s : State) : GroupRes :=
  let env := groupEnv s.t g.dom
  match memReady w e env s with
  | .error (.wait _, s) => .wait g s
  | .error (.trap c v, s) => .next ((g.lose g.dom e.addr c v).wordDone 0) s
  | .ok ((e', pr, items), s) =>
    if prepSteps e e' ≠ 0 then .next { g with word := some e'.toVWord } s
    else let e := e'; match items[e.prog]? with
    | none =>
      .next (g.wordDone e.flags) (if w.store ∨ g.alive = [] then s else commitLoad w { e with flags := 0 } env s)
    | some k =>
      let past : VWord := { e.toVWord with prog := e.prog + 1, taps := [] }
      let lost := fun (c : Cause) (v : DWord) => { g.lose (itemLanes w env pr k) e.addr c v with word := some past }
      if w.store then
        match storeItem w e env pr k s with
        | .error (.wait _, s) => .wait { g with word := some e.toVWord } s
        | .error (.trap c v, s) => .next (lost c v) s
        | .ok (fl, s) => .next { g with word := some { past with flags := e.flags ||| fl } } s
      else
        match loadItem w e env pr k s with
        | .error (.wait _, s) => .wait { g with word := some e.toVWord } s
        | .error (.trap c v, s) => .next (lost c v) s
        | .ok (.tap ts, s) => .next { g with word := some { e.toVWord with taps := ts } } s
        | .ok (.values l fl, s) => .next { g with word := some { past with got := e.got ++ l, flags := e.flags ||| fl } } s

/-- The active lanes of a posted scatter translated: those that pass, and the group without those that fault. None if
translation waits. -/
def groupChecks (w : PostWord) (e : VEntry) (env : VEnv) : List Nat → GroupRun → List PostedElem → State →
    Option ((GroupRun × List PostedElem) × State)
  | [], g, l, s => some ((g, l.reverse), s)
  | k :: ks, g, l, s =>
    match postChecks w e env [k] [] 0 s with
    | ((_, _, some (.wait _)), _) => none
    | ((_, _, some (.trap c v)), s) => groupChecks w e env ks (g.lose [k] e.addr c v) l s
    | ((x, _, none), s) => groupChecks w e env ks g (x.reverse ++ l) s

/-- A posted scatter of a group (R157, R158, R230): checked, and then posted once the posted set has room. -/
def groupPost (w : PostWord) (e : VEntry) (g : GroupRun) (s : State) : GroupRes :=
  let env := groupEnv s.t g.dom
  match (if e.checked then some ((g, e.elems), s) else groupChecks w e env ((env.active s.t w.p).filter fun i => g.alive.contains i) g [] s) with
  | none => .wait g s
  | some ((g, l), s) =>
    let o : PostedOp :=
      { id := 0, kind := if !w.add then .store else if postFloat env then .addFloat else .addInt, bytes := w.bytes,
        bf16 := postBf16 w e env, frm := e.frm, flush := env.flush
        elems := if w.add then l else lastOnly (l.map fun x => (x.idx, x.va.toNat)) l }
    match s.postAll o l.length with
    | none | some (.error (.wait _, _)) => .wait { g with word := some { e.toVWord with elems := l, checked := true } } s
    | some (.error (.trap c v, s)) => .next ((g.lose g.dom e.addr c v).wordDone 0) s
    | some (.ok s) => .next (g.wordDone 0) s.orderVector

/-- A word of a group that meets no memory: its effect with the flags that it raises apart (R232). -/
def groupEffect (e : VEntry) (g : GroupRun) (s : State) : GroupRes :=
  match vectorEffect e.instr e (groupEnv s.t g.dom) { s with t := { s.t with fflags := 0 } } with
  | some s' => .next (g.wordDone s'.t.fflags) { s' with t := { s'.t with fflags := s.t.fflags } }
  | none => .next (g.wordDone 0) s

/-- One step of a group: its word's next element, or its next word over the lanes still at it. None at the block's end. -/
def groupStep (v : VEntry) (g : GroupRun) (s : State) : Option GroupRes :=
  match g.word, g.words with
  | some w, _ =>
    let e : VEntry := { toVWord := w }
    some (match memWord w.instr, postWord w.instr (groupEnv s.t g.dom) with
      | some m, _ => groupMemory m e g s
      | none, some m => groupPost m e g s
      | none, none => groupEffect e g s)
  | none, [] => none
  | none, (a, i) :: r =>
    some (if g.alive = [] then .next { g with words := [] } s
      else .next { g with words := r, dom := g.alive, word := some (blockEntry v a i s).toVWord } s)

/-- The lane after the block's last word (R229). -/
def laneAfter (v : VEntry) (b : BlockEnd) (t : Thread) (rowcap i : Nat) : Lane :=
  match b with
  | .stop => {}
  | .fetch imm rs1 vi =>
    let n := (copiedThread t v.xs).readX rs1 + BitVec.ofNat 64 (indexAt t rowcap vi i) + imm12 imm
    if n = 0 then {} else { st := .running, next := n }

/-- Lanes of a VBLK replaced. -/
def putLanes (ls : List Lane) (new : List (Nat × Lane)) : List Lane := new.foldl (fun l e => l.set e.1 e.2) ls

/-- The next group of a VBLK (R228): the lowest running lane's next address and the running lanes at it. -/
def nextGroup (ls : List Lane) : Option (DWord × List Nat) :=
  match ls.find? fun l => l.st == .running with
  | none => none
  | some l0 => some (l0.next, (ls.zipIdx.filter fun l => l.1.st == .running && l.1.next == l0.next).map fun l => l.2)

/-- The next group of a VBLK issued: its block is fetched and decoded, and runs from then on (R227, R228, R230). -/
def startGroup (v : VEntry) (a : DWord) (ls : List Nat) (s : State) : VEntry × State :=
  let all := fun (c : Cause) (val : DWord) =>
    putLanes v.lanes (ls.map fun i => (i, ({ st := .faulted, next := a, cause := c, val := val } : Lane)))
  if a.toNat % 4 ≠ 0 then ({ v with lanes := all cause.misalignedFetch a }, s)
  else
    let le : LegalEnv := { vt := s.t.vtype, vl := s.t.vl.toNat, lanes := s.t.lanes, rowcap := s.core.rowcap, zn := 0 }
    match fetchBlock le 32 a [] s with
    | (.error (c, val), s) => ({ v with lanes := all c val }, s)
    | (.ok (ws, b), s) => ({ v with group := some { alive := ls, words := ws, last := b } }, s)

/-- The group's block has ended: each lane goes where the block's end or its fault says, and the flags are delivered
(R229, R230, R232). -/
def endGroup (v : VEntry) (g : GroupRun) (s : State) : VEntry × State :=
  let done := g.alive.map fun i => (i, laneAfter v g.last s.t s.core.rowcap i)
  ({ v with lanes := putLanes v.lanes (g.lost ++ done), group := none }, s.orFlags g.flags)

/-- The trap of a VBLK whose running lanes are all gone (R231), or its commit. -/
def laneOutcome (v : VEntry) (s : State) : VRes :=
  match v.lanes.zipIdx.find? fun l => l.1.st == .faulted with
  | none => .commit s
  | some (l, n) => .trap v l.cause l.val (some (n, l.next)) false [] s

/-- Steps of a VBLK, at most `n` (R225, R228, R231): a group issued, a step of its block, or the block's end. -/
def vblkGo : Nat → VEntry → State → VRes
  | 0, v, s => match v.group, nextGroup v.lanes with
    | none, none => laneOutcome v s
    | _, _ => .progress v s
  | n + 1, v, s =>
    match v.group, nextGroup v.lanes with
    | some g, _ => match groupStep v g s with
      | none => let r := endGroup v g s; vblkGo n r.1 r.2
      | some (.next g s) => vblkGo n { v with group := some g } s
      | some (.wait g s) => .blocked { v with group := some g } s
    | none, some (a, ls) => let r := startGroup v a ls s; vblkGo n r.1 r.2
    | none, none => laneOutcome v s

/-- VBLK at the head of its queue (R225). A VBLK that has trapped resumes its faulted lanes (R231).
DEDUCED, unsafe: assumption 37 of the log. -/
def vblkRun (imm : BitVec 12) (limit : Option Nat) (v : VEntry) (s : State) : VRes :=
  let n := s.t.vl.toNat
  let a := v.a + imm12 imm
  if n = 0 then .commit s
  else if v.lanes = [] ∧ a.toNat % 4 ≠ 0 then .trap v cause.misalignedFetch a none false [] s
  else
    let ls := if v.lanes = [] then List.replicate n ({ st := .running, next := a } : Lane) else v.lanes
    let ls := if ls.any fun l => l.st == .running then ls
      else ls.map fun l => if l.st = .faulted then { st := .running, next := l.next } else l
    vblkGo (limit.getD 1048576) { v with lanes := ls } s

end Sys2Proof.Machine
end

