-- ==== Sys2Proof/Machine/ScalarQueue.lean ====
section
/-! DEFINITION. The scalar access queue (R107, R239, R243, R244): the accesses of scalar loads, stores and AMOs, of IFENCE, WAKE,
HSTH, RQUERY and RRESUME, the check that each passes at its word, and the step that performs it, at the word or later. -/

namespace Sys2Proof.Machine

/-! ### AMO operations (R108) -/

/-- Unsigned order of two w-bit words that are held sign-extended. -/
def amoUlt (dw : Bool) (a b : DWord) : Bool := if dw then a.ult b else (a.setWidth 32).ult (b.setWidth 32)

/-- The new value of an AMO, from the old value, the operand, and the value that AMOCAS expects (R108). -/
def AmoOp.apply (op : AmoOp) (dw : Bool) (old b expected : DWord) : DWord :=
  match op with
  | .add => old + b
  | .swap => b
  | .cas => if old = expected then b else old
  | .min => if old.slt b then old else b
  | .max => if old.slt b then b else old
  | .minu => if amoUlt dw old b then old else b
  | .maxu => if amoUlt dw old b then b else old
  | .and => old &&& b
  | .or => old ||| b
  | .xor => old ^^^ b

/-- A w-byte word sign-extended to 64 bits (R103, R108). -/
def extendBytes (n v : Nat) : DWord :=
  match n with
  | 1 => (BitVec.ofNat 8 v).signExtend 64
  | 2 => (BitVec.ofNat 16 v).signExtend 64
  | 4 => (BitVec.ofNat 32 v).signExtend 64
  | _ => BitVec.ofNat 64 v

/-- The digest takes the bytes of an AMO's operand, not those it leaves (R432). -/
def State.amoWrite (s : State) (va pa n operand new : Nat) : State :=
  (s.digested s.agent va (toBytes n operand)).physWrite pa (toBytes n new)

/-! ### The step of an access -/

/-- The step of an IFENCE (R236): the copies of its range in the caches of the cores that its scope covers are invalidated. -/
def State.ifenceStep (scope : Nat) (range : Option (Nat × Nat)) (s : State) : State :=
  s.orderThread.mapCores fun k c =>
    if s.covers scope k then { c with icache := c.icache.filter fun e => !s.fenced range e } else c

/-- The range of an IFENCE: none for every address (R236). -/
def fenceRange (all : Bool) (a n : DWord) : Option (Nat × Nat) := if all then none else some (a.toNat, n.toNat)

/-- The step of a WAKE (R262): the threads that it selects are marked, and their number is the result.
DEDUCED, unsafe: assumption 42 of the log. -/
def State.wakeSelect (scope : Nat) (ea : DWord) (pa n : Nat) (rd : Reg) (s : State) : State :=
  let l := s.selectParked scope ea pa n
  let s := s.orderThread
  let s := { s with parks := s.parks.map fun (k : ParkRec) => if l.contains k.pos then { k with woken := true } else k }
  s.setX rd (BitVec.ofNat 64 l.length)

/-- The step of an RQUERY that has read a record (R356): of a held ray the marcher's live values. -/
def State.queryStep (a : DWord) (bs : List Byte) (rd : Reg) (s : State) : State :=
  let r := handleOf bs
  let live := match s.rayAt s.t.ctx a with
    | some (_, y) => if y.status = 1 then y.d else r
    | none => r
  s.orderThread.setX rd (BitVec.ofNat 64 (live.rayCell * 2 ^ 32 + live.raySeq % 2 ^ 24 * 2 ^ 8 + r.rayStatus))

/-- A record that an RRESUME has read waits for a decision (R355). -/
def Handle.undecided (r : Handle) : Bool := r.rayStatus == 3 || r.rayStatus == 4

/-- The byte of STATUS of a record that an RRESUME writes: SUB stays (R355). -/
def heldByte (bs : List Byte) : List Byte := [BitVec.ofNat 8 ((bs.getD 44 0).toNat / 16 * 16 + 1)]

/-- The ray of a record is held, with its decision (R355). -/
def State.holdRay (a : DWord) (r : Handle) (d : DWord) (s : State) : State :=
  match s.rayAt s.t.ctx a with
  | none => s
  | some (o, y) => s.setOp (o.setRay { y with status := 1, d := r, decision := some d })

/-- The step of an RRESUME that has read a record at its checked address (R355). -/
def State.resumeAt (a : DWord) (pa : Nat) (bs : List Byte) (d : DWord) (rd : Reg) (s : State) : State :=
  let r := handleOf bs
  if !r.undecided then s.orderThread.setX rd 0
  else ((s.commitWrite s.agent (a.toNat + 44) (pa + 44) (heldByte bs)).holdRay a r d).orderThread.setX rd 1

/-- The pieces of memory that an access touches, each in one line: physical address and length. -/
def ScalarAcc.pieces (a : ScalarAcc) : List (Nat × Nat) := (a.pa, a.bytes) :: a.more

/-- The bytes that an access sees at its step. -/
def State.bytesOf (s : State) (a : ScalarAcc) : List Byte := a.pieces.flatMap fun p => s.bytesFor s.agent p.1 p.2

/-- A scalar access performed as one step (R81, R103, R108): its bytes read, written, or both, and its register written. -/
def State.performScalar (s : State) (a : ScalarAcc) : State :=
  match a.kind with
  | .loadX rd signed =>
    let v := ofBytes (s.bytesFor s.agent a.pa a.bytes)
    s.orderThread.setX rd (if signed then extendBytes a.bytes v else BitVec.ofNat 64 v)
  | .loadF rd => s.orderThread.setF rd (ofBytes (s.bytesFor s.agent a.pa a.bytes))
  | .store => (s.commitWrite s.agent a.va.toNat a.pa (toBytes a.bytes a.val.toNat)).orderThread
  | .amo op rd =>
    let old := extendBytes a.bytes (ofBytes (bytesAt s.mem a.pa a.bytes))
    let new := op.apply (a.bytes == 8) old (extendBytes a.bytes a.val.toNat) (extendBytes a.bytes a.expect.toNat)
    (s.amoWrite a.va.toNat a.pa a.bytes a.val.toNat new.toNat).orderThread.setX rd old
  | .ifence scope all => s.ifenceStep scope.toNat (fenceRange all a.va a.val)
  | .wake scope rd => s.wakeSelect scope.toNat a.va a.pa a.val.toNat rd
  | .handle h => (s.commitWrite s.agent a.va.toNat a.pa (handleBytes h)).orderThread
  | .query rd => s.queryStep a.va (s.bytesOf a) rd
  | .resume d rd => s.resumeAt a.va a.pa (s.bytesOf a) d rd

/-- How an access is checked for permission (R104, R109, R375). -/
def ScalarKind.access : ScalarKind → Access
  | .store | .handle _ => .store
  | .amo _ _ => .amo
  | _ => .load

/-- The consumer kind of R450 under which an access checks its line: a load, or a partial store. -/
def ScalarKind.consumer : ScalarKind → Nat
  | .store | .handle _ | .amo _ _ => 2
  | _ => 1

/-- The word of an access is a commit point of a task (R429). -/
def ScalarKind.commits : ScalarKind → Bool
  | .amo _ _ | .wake _ _ | .resume _ _ => true
  | _ => false

/-- The check of an access at its word (R104, R109): aligned, translated, permitted, and its line good. -/
def State.checkScalar (s : State) (a : ScalarAcc) : Run (ScalarAcc × State) :=
  if a.va.toNat % a.bytes ≠ 0 then raise s cause.misaligned a.va
  else match s.translate s.agent a.kind.access a.va.toNat with
  | .error e => .error e
  | .ok ((pa, _), u) => match u.checkLine s.t.ctx a.kind.consumer a.va.toNat pa with
    | .error e => .error e
    | .ok r => .ok ({ a with pa := pa, page := s.pageSize s.agent a.va.toNat }, r)

/-- The check of the lines of a read that may cross one, with the physical pieces (R104, R449). -/
def State.checkPieces (s : State) : List (Nat × Nat) → Run (List (Nat × Nat) × State)
  | [] => .ok ([], s)
  | (va, n) :: r => match s.translate s.agent .load va with
    | .error e => .error e
    | .ok ((pa, _), s) => match s.checkLine s.t.ctx 1 va pa with
      | .error e => .error e
      | .ok s => match State.checkPieces s r with
        | .error e => .error e
        | .ok (l, s) => .ok ((pa, n) :: l, s)

/-- An access whose bytes a copy holds in the scoreboard of the core waits (R107, R258). -/
def State.scalarHeld (s : State) (a : ScalarAcc) : Bool := a.pieces.any fun p => p.2 != 0 && s.held s.agent p.1 p.2

/-- The access touches a line. -/
def ScalarAcc.touches (a : ScalarAcc) (line : Nat) : Bool := a.pieces.any fun p => p.2 != 0 && p.1 / 128 == line

/-- The head of the queue may be performed: no copy holds its bytes (R107), the lines that it checks at its step are good (R81,
R449), and the marcher has a place for the ray of an RRESUME (R355). -/
def State.scalarReady (s : State) (a : ScalarAcc) : Bool :=
  !s.scalarHeld a && a.pieces.all (fun p => p.2 == 0 || s.lineOk (p.1 / 128)) && match a.kind with
    | .resume _ _ => decide (s.resumedRays (bayOf s.pos) < 16)
    | _ => true

/-- The access enters the queue (R244). -/
def State.queueScalar (s : State) (a : ScalarAcc) : State :=
  { s with t := { s.t with scalars := s.t.scalars ++ [a], scalarCount := s.t.scalarCount + 1 } }

/-- The head of the queue of the thread in focus performed, where it may be (R81, R107, R240). -/
def State.scalarStep (s : State) : Option State :=
  match s.t.scalars with
  | [] => none
  | a :: r => if s.scalarReady a then some (({ s with t := { s.t with scalars := r } } : State).performScalar a) else none

/-- The accesses of the queue performed in order, as far as they may be. -/
def State.scalarGo : Nat → State → State
  | 0, s => s
  | n + 1, s => match s.scalarStep with
    | some s => State.scalarGo n s
    | none => s

/-- Every access of the queue performed, as far as they may be. -/
def State.flushScalars (s : State) : State := s.scalarGo s.t.scalars.length

/-- How many accesses of the thread have been performed (R248). -/
def Thread.scalarDone (t : Thread) : Nat := t.scalarCount - t.scalars.length

/-- A word of the queue is queued for a later step, where the machine chooses so or an earlier one is queued (R107, R241, R244);
a commit point of a task performs its own at once (R429). DEDUCED, unsafe: assumption 92 of the log. -/
def State.defers (s : State) (k : ScalarKind) : Bool :=
  (s.ch.deferScalar && !(k.commits && s.inTask)) || s.t.scalars != []

/-- A scalar access at its word: it is checked, and performed at once, or queued for a later step (R107, R241, R244). -/
def State.accessScalar (s : State) (a : ScalarAcc) : Run State :=
  match s.checkScalar a with
  | .error e => .error e
  | .ok (a, s) =>
    if s.defers a.kind then .ok (s.queueScalar a)
    else if s.scalarHeld a then hold s
    else .ok (({ s with t := { s.t with scalarCount := s.t.scalarCount + 1 } } : State).performScalar a)

/-! ### Lines that go bad (R104, R449, R450)

The data-integrity trap of a scalar access is precise, so the access whose word has completed meets no error that comes later:
before a line goes bad, every queued access to it has been performed. -/

/-- How many accesses of a queue stand at or before the last one that touches a line. -/
def upToLine (line : Nat) (l : List ScalarAcc) : Nat := l.length - (l.reverse.takeWhile fun a => !a.touches line).length

/-- No queued scalar access touches a line. -/
def State.lineFree (s : State) (line : Nat) : Bool := s.allThreads.all fun e => !e.2.scalars.any fun a => a.touches line

/-- The queued accesses to a line performed, with those before them, as far as they may be. -/
def State.settleLine (s : State) (line : Nat) : State :=
  s.allThreads.foldl (fun s e => if e.2.scalars = [] then s else
    s.during e.1 fun s => if s.mayRun then s.scalarGo (upToLine line s.t.scalars) else s) s

/-- An error strikes a line, behind the steps of the queued accesses to it; where one of them cannot be performed yet, no error
strikes. DEDUCED, unsafe: assumption 92 of the log. -/
def State.beforeError (s : State) (line : Nat) (f : State → State) : State :=
  if s.lineFree line then f s
  else
    let u := s.settleLine line
    if u.lineFree line then f u else u

/-! ### Words and the accesses before them (R110, R219) -/

/-- The register that an access writes when it is performed: an x register, or an f register. -/
def ScalarKind.dest : ScalarKind → Option (Bool × Reg)
  | .loadX rd _ | .amo _ rd | .wake _ rd | .query rd | .resume _ rd => some (false, rd)
  | .loadF rd => some (true, rd)
  | .store | .ifence _ _ | .handle _ => none

end Sys2Proof.Machine
end

