-- ==== Sys2Proof/Machine/Queue.lean ====
section
/-! DEFINITION. The vector queue: what each word does at its head, commits and traps, how a word is decoded into the queue,
and how the queue drains (R35, R36, R114, R195, R211, R212, R218 to R223, R386, R469). -/

namespace Sys2Proof.Machine

/-! ### The head of the queue -/

/-- A word of a chain that reaches memory (R212). -/
def chainStore : Instr → Bool
  | .vst _ _ _ _ | .vsts _ _ _ _ _ | .vscadd _ _ _ _ _ => true
  | _ => false

/-- The fence markers that stand among the words of a chain: whether one may commit (R248, R250). -/
def markerReady (e : VEntry) (t : Thread) : Bool :=
  match e.instr with
  | .fsv => decide (e.seq ≤ t.scalarDone)
  | .fvv => t.posted == []
  | _ => true

/-- The first entries behind a TDRAIN that commit with it: its chain's words up to the first that reaches memory, with the markers
among them, and whether they are all queued (R212). -/
def chainPart : Nat → List VEntry → Nat × Bool
  | 0, _ => (0, true)
  | _ + 1, [] => (0, false)
  | n + 1, e :: r =>
    if e.chain.isSome then
      if chainStore e.instr then (0, true)
      else let k := chainPart n r; (k.1 + 1, k.2)
    else if isMarker e.instr then let k := chainPart (n + 1) r; (k.1 + 1, k.2)
    else (0, true)

/-- The effects of chain words one after another. -/
def chainRun : List VEntry → State → State
  | [], s => s
  | c :: r, s => chainRun r ((vectorEffect c.instr c (entryEnv s.t c) s).getD s)

/-- TDRAIN at the head of the queue (R210, R212): it commits with its chain's words up to the first that reaches memory, once they
are all queued. DEDUCED, unsafe: assumption 21 of the log. DEDUCED, unsafe: assumption 98 of the log. -/
def tdrainRun (n : BitVec 3) (z : ZReg) (vd : VReg) (e : VEntry) (s : State) : VRes :=
  let rest := s.t.queue.drop 1
  let k := chainPart n.toNat rest
  let with_ := rest.take k.1
  if !k.2 || with_.any (fun c => !markerReady c s.t) then .blocked e s
  else .commit (chainRun with_ (tdrainWrite z vd e { s with t := { s.t with queue := e :: rest.drop k.1 } }))

/-- The word acts on each element by itself, from elements of the same number (R221). -/
def elementWise (i : Instr) : Bool :=
  match i with
  | .vfcvt _ _ _ _ => false
  | .vadd _ _ _ _ _ | .vsub _ _ _ _ _ | .vmul _ _ _ _ _ | .vmulh _ _ _ _ _ | .vmulhu _ _ _ _ _ | .vmacc _ _ _ _ _
  | .vand _ _ _ _ _ | .vor _ _ _ _ _ | .vxor _ _ _ _ _ | .vsll _ _ _ _ _ | .vsrl _ _ _ _ _ | .vsra _ _ _ _ _
  | .vmin _ _ _ _ _ | .vmax _ _ _ _ _ | .vminu _ _ _ _ _ | .vmaxu _ _ _ _ _ | .vfadd _ _ _ _ _ | .vfsub _ _ _ _ _
  | .vfmul _ _ _ _ _ | .vfdiv _ _ _ _ _ | .vfsqrt _ _ _ | .vfmacc _ _ _ _ _ | .vfnmsac _ _ _ _ _ | .vfmin _ _ _ _ _
  | .vfmax _ _ _ _ _ | .vfsgnj _ _ _ _ _ | .vfrsqrte _ _ _ | .vfclass _ _ _ | .vmix _ _ _ _ _ | .vfmerge _ _ _ _ _
  | .pand _ _ _ _ | .por _ _ _ _ | .pxor _ _ _ _ | .pandn _ _ _ _ | .pnot _ _ _ | .pset _ _ | .pclr _ _ | .pmerge _ _ _ _
  | .vcmpeq _ _ _ _ _ | .vcmpne _ _ _ _ _ | .vcmplt _ _ _ _ _ | .vcmpltu _ _ _ _ _ | .vcmpge _ _ _ _ _
  | .vfcmpeq _ _ _ _ _ | .vfcmplt _ _ _ _ _ | .vfcmple _ _ _ _ _ => true
  | _ => false

/-- The elements of an element group. -/
def groupSize (t : Thread) (env : VEnv) : Nat := redoGroup t.lanes env.sew

/-- Element groups of an element-wise word, at most `limit` of them, from where the entry stands: its flags are kept with it
(R220, R221). -/
def elementGroups (limit : Option Nat) (e : VEntry) (s : State) : Option (VEntry × State) :=
  let env := entryEnv s.t e
  let stop := match limit with
    | none => env.vl
    | some n => e.prog + n * groupSize s.t env
  let part := { env with dom := env.dom.filter fun i => decide (e.prog ≤ i) && decide (i < stop) }
  (vectorEffect e.instr e part { s with t := { s.t with fflags := 0 } }).map fun r =>
    ({ e with prog := min stop env.vl, flags := e.flags ||| r.t.fflags }, { r with t := { r.t with fflags := s.t.fflags } })

/-- A word that meets no memory at the head of the queue: an element-wise one by element groups, another as a whole. -/
def effectRun (limit : Option Nat) (e : VEntry) (s : State) : Option VRes :=
  let env := entryEnv s.t e
  if elementWise e.instr then
    (elementGroups limit e s).map fun r =>
      if env.vl ≤ r.1.prog then .commit (r.2.orFlags r.1.flags) else .progress r.1 r.2
  else (vectorEffect e.instr e env s).map .commit

/-- VFREDO at the head of the queue, for at most a number of element groups (R137). -/
def redoRun (limit : Option Nat) (p : PReg) (f : Form) (vs2 : VReg) (s1 : Reg) (vd : VReg) (e : VEntry) (s : State) : VRes :=
  let env := s.t.env
  let g := redoGroup s.t.lanes env.sew
  let stop := match limit with
    | none => env.vl
    | some n => (s.t.vrsi.toNat / g + n) * g
  match vecRedo stop p f vs2 s1 vd e env s with
  | (true, _, s) => .commit s
  | (false, fl, s) => .progress { e with flags := e.flags ||| fl } s

/-- A graded word or GDECL at the head of the queue (R170, R171, R187). -/
def gradedHead (e : VEntry) (s : State) : VRes :=
  match gradedRun e.instr e s.t.env s with
  | some (.done s) => .commit s
  | some (.violation v) => .trap e cause.grade v none false [] s
  | none => .commit s

/-- The word at the head of the queue runs: to its end, or for a number of its elements, element groups or steps of its lane
groups (R128, R220). -/
def entryRun (limit : Option Nat) (e : VEntry) (s : State) : VRes :=
  match e.instr with
  | .vsetvl _ _ _ | .vsetvli _ _ _ =>
    .commit { s with t := { s.t with vl := e.a.setWidth 14, vtype := e.b } }
  | .modet req => modetRun req e s
  | .modev => modevRun s
  | .fsv | .fvv => if markerReady e s.t then .commit s else .blocked e s
  | .vblk imm _ => vblkRun imm limit e s
  | .tzero z => tzeroRun z s
  | .topa st ng vb va z => topaRun st ng vb va z e s
  | .topas st ng _ _ z => topasRun st ng z e s
  | .tdrain n z _ vd => tdrainRun n z vd e s
  | .tldz _ _ z => tldzRun z limit e s
  | .tstz _ _ z => tstzRun z limit e s
  | .tshape _ _ => tshapeRun e s
  | .tfetch _ _ va => tfetchRun va e s
  | .hld _ _ vd => hldRun vd e s
  | .hst _ vs3 _ => hstRun vs3 none e s
  | .hstTry cd _ vs3 _ => hstRun vs3 (some cd) e s
  | .vfredo p f vs2 s1 vd => redoRun limit p f vs2 s1 vd e s
  | .vfcvt _ vs2 code _ =>
    if e.chain.isNone && !cvtFits code vs2 s.t.lanes s.core.rowcap s.t.vl.toNat then
      .trap e cause.illegal ((encode e.instr).setWidth 64) none false [] s
    else (effectRun limit e s).getD (.commit s)
  | i =>
    match memWord i, postWord i (entryEnv s.t e) with
    | some w, _ => memRun w limit e s
    | none, some w => postRun w e s
    | none, none => match effectRun limit e s with
      | some r => r
      | none => gradedHead e s

/-- The words that hold the scalar stream until they commit (R135, R222). -/
def heldWord : Instr → Bool
  | .vmvxs _ _ _ _ | .vpopc _ _ _ | .vfirst _ _ _ => true
  | _ => false

/-- The condition bits that a word of the scalar stream reads or writes (R86 to R90, R101). -/
def condBits : Instr → List CReg
  | .ceq _ _ _ c | .cne _ _ _ c | .clt _ _ _ c | .cge _ _ _ c | .cltu _ _ _ c | .cgeu _ _ _ c | .ceqi _ _ _ c
  | .cnei _ _ _ c | .clti _ _ _ c | .cgei _ _ _ c | .cltui _ _ _ c | .cgeui _ _ _ c | .cbiti _ _ _ c
  | .fceq _ _ _ _ c | .fclt _ _ _ _ c | .fcle _ _ _ _ c | .bc c _ | .bcn c _ | .ctest _ c | .emitTry c _ _ | .take _ c => [c]
  | .ccmb _ cd _ cb _ ca => [cd, cb, ca]
  | .crdx _ | .cwrx _ => [1, 2, 3, 4, 5, 6, 7]
  | _ => []

/-- The word touches a condition bit that a queued HST.try keeps pending (R86, R308); in a trap handler no word waits
for a held entry (R469). DEDUCED, safe: assumption 109 of the log. -/
def State.pendingBit (i : Instr) (s : State) : Bool :=
  !s.t.inTrap && (condBits i).any fun c => c != 0 && s.t.queue.any fun e => match e.instr with
    | .hstTry cd _ _ _ => cd == c
    | _ => false

/-- A MODET that stands at the head of the queue waits for the tile unit from then on (R193). -/
def State.headArrives (s : State) : State :=
  match s.t.queue with
  | e :: _ => match e.instr with
    | .modet _ => s.queueForUnit
    | _ => s
  | [] => s

/-- The head commits (R220): its entry is freed, and a word that held the scalar stream completes. -/
def State.commitHead (e : VEntry) (s : State) : State :=
  let s := ({ s with t := { s.t with queue := s.t.queue.drop 1 } } : State).headArrives
  if heldWord e.instr && s.t.pc == e.addr then s.advance else s

/-- The head keeps its place, with how far it has come. -/
def State.keepHead (e : VEntry) (s : State) : State :=
  { s with t := { s.t with queue := e :: s.t.queue.drop 1 } }

/-- The trap of the word at the head (R223, R385), with its fault group (R378). -/
def State.headTrap (e : VEntry) (c : Cause) (val : DWord) (lane : Option (Nat × DWord)) (group : Bool) (s : State) : State :=
  s.takeTrap { cause := c, val := val, pc := e.addr, spc := s.t.pc, vside := true, lane := lane, group := group }

/-- The agent that makes the accesses of a word: the bay's tile fetch port for a TOPAS, the thread for any other (R205). -/
def wordAgent (i : Instr) (s : State) : Agent := match i with | .topas _ _ _ _ _ => s.portAgent | _ => s.agent

/-- What a try to move the head comes to: it has moved, or it is stuck. -/
inductive HeadRes where
  | moved (s : State)
  | stuck (s : State)
  deriving DecidableEq, Repr

/-- The head of the queue of the thread in focus moves, if it can (R220, R223). A word that meets a cause waits until the earlier
scalar accesses have been performed: the scalar words before the trap have completed. -/
def State.moveHead (limit : Option Nat) (s : State) : HeadRes :=
  match s.t.queue with
  | [] => .stuck s
  | e :: _ =>
    if s.t.inTrap then .stuck s
    else match s.reloadTile with
      | none => .stuck s.queueForUnit
      | some s => match entryRun limit e s with
        | .commit s => .moved (s.commitHead e)
        | .progress e s => .moved (s.keepHead e)
        | .blocked e s => .stuck (s.keepHead e)
        | .trap e c v lane isStore spans u =>
          if s.t.scalars ≠ [] then .stuck s.flushScalars
          else
            let r := u.faultGroup (wordAgent e.instr u) c isStore spans
            .moved ((r.2.keepHead e).headTrap e c v lane r.1)
        | .commitTrap c v u =>
          if s.t.scalars ≠ [] then .stuck s.flushScalars else .moved ((u.commitHead e).headTrap e c v none false)

/-- An element group of an entry behind the head (R52, R221): every entry before it, and it itself, is an admitted element-wise
word, and each before it is at least a group further on. -/
def State.stepAhead (k : Nat) (s : State) : Option State :=
  let ready := fun (e : VEntry) => e.admitted && elementWise e.instr
  match s.t.queue[k]? with
  | none => none
  | some e =>
    let g := groupSize s.t (entryEnv s.t e)
    let led := (s.t.queue.take k).all fun d => ready d && (decide (e.prog + g ≤ d.prog) || decide ((entryEnv s.t d).vl ≤ d.prog))
    if s.t.inTrap || k = 0 || !ready e || !led || s.t.tileSave != [] then none
    else (elementGroups (some 1) e s).map fun r => { r.2 with t := { r.2.t with queue := r.2.t.queue.set k r.1 } }

/-- The queue drains: at most `n` moves of its head. DEDUCED, safe: assumption 38 of the log. -/
def State.drain : Nat → State → State
  | 0, s => s
  | n + 1, s =>
    match s.moveHead none with
    | .moved s => State.drain n s
    | .stuck s => s

/-- The queue drains, and the scalar accesses and the posted elements are performed, in turn, at most `n` times. -/
def State.settleGo : Nat → State → State
  | 0, s => s
  | n + 1, s =>
    let s := s.drain (s.t.queue.length + 1)
    if s.t.posted = [] ∧ s.t.scalars = [] then s
    else
      let s := s.flushScalars.performAll
      if s.t.posted = [] ∧ s.t.scalars = [] then State.settleGo n s else s

/-- The queue drains as far as it can, and the other accesses are performed: a choice that the machine may make (R241). -/
def State.settleQueue (s : State) : State := s.settleGo (s.t.queue.length + 1)

/-! ### Boundaries (R221, R223) -/

/-- The number of elements between the boundaries of a memory word's items. -/
def boundarySize (w : MemWord) (t : Thread) (env : VEnv) : Nat := if w.kind = .multi then t.lanes else groupSize t env

/-- A memory word stands between two items of one element group, or within an item. -/
def insideGroup (w : MemWord) (e : VEntry) (s : State) : Bool :=
  let env := entryEnv s.t e
  match memReady w e env s with
  | .error _ => false
  | .ok ((e, pr, items), _) =>
    let g := fun (k : Nat) => itemElement w env pr (items.getD k 0) / boundarySize w s.t env
    e.taps != [] || (e.prog != 0 && decide (e.prog < items.length) && g (e.prog - 1) == g e.prog)

/-- The head of the queue stands off a boundary of its element groups: inside one, or, of a VBLK, inside a block (R223, R232). -/
def State.midGroup (s : State) : Bool :=
  match s.t.queue with
  | [] => false
  | e :: _ => e.group.isSome || match memWord e.instr with
    | some w => insideGroup w e s
    | none => false

/-- The head of the queue goes on to its next boundary, as far as it can. -/
def State.boundaryGo : Nat → State → State
  | 0, s => s
  | n + 1, s =>
    if s.midGroup then match s.moveHead (some 1) with
      | .moved s => State.boundaryGo n s
      | .stuck s => s
    else s

/-- The head of the queue at its next boundary, as far as it can go. -/
def State.toBoundary (s : State) : State := s.boundaryGo 1048576

/-! ### Decoding into the queue -/

/-- The entries that a word takes (R218). -/
def entrySlots : Instr → Nat
  | .vblk _ _ => 4
  | _ => 1

/-- The entries in use. -/
def Thread.usedSlots (t : Thread) : Nat := (t.queue.map fun e => entrySlots e.instr).sum

/-- What the latest configuration gives for the check of a word (R114). -/
def State.legalEnv (s : State) : LegalEnv :=
  { vt := s.t.dvtype, vl := s.t.dvl.toNat, lanes := s.t.lanes, rowcap := s.core.rowcap, zn := s.core.tilecapZn }

/-- The mode admits the word (R195). -/
def modeAdmits (tile : Bool) (i : Instr) : Bool := isMarker i || tileOnly i == tile

/-- The checks of a word at decode beyond its class (R197, R210, R302, R305). -/
def captureLegal (i : Instr) (e : VEntry) (s : State) : Bool :=
  match i with
  | .hld _ _ _ => vtIeee s.t.dvtype && (e.a != 0 || s.t.dvl == 0)
  | .hst _ _ _ | .hstTry _ _ _ _ => vtIeee s.t.dvtype
  | .tdrain _ _ _ _ => decide (e.a.toNat < 96)
  | .tshape _ _ => tshapeOk s.core.tilecapK e
  | _ => true

/-- The x registers that a VBLK copies (R225). -/
def copyRegs (t : Thread) : List DWord := (List.range 31).map fun k => t.readX (BitVec.ofNat 5 (k + 1))

/-- The entry of a word, if the current mode, VTYPE, VL and the chain admit it, with the chain behind it (R36, R195, R211). -/
def State.decodeEntry (i : Instr) (s : State) : Option (VEntry × Option ChainPlace) :=
  let e := s.captureEntry i
  let e := match i with | .vblk _ _ => { e with xs := copyRegs s.t } | _ => e
  match (if isMarker i then none else s.t.chain) with
  | some c => match c.after i s.t.lanes s.core.rowcap with
    | none => none
    | some c' =>
      some ({ e with chain := some c }, if c.left ≤ 1 then none else some { c' with left := c.left - 1 })
  | none =>
    if modeAdmits s.t.tile i && classLegal i s.legalEnv && captureLegal i e s then
      match i with
      | .tdrain n _ _ _ =>
        some (e, if n = 0 then none
          else some { left := n.toNat, n := shapeN s.t.dtshape, flush := vtFlush s.t.dvtype, widths := [], stored := false })
      | _ => some (e, if isMarker i then s.t.chain else none)
    else none

/-- What the scalar side takes from a word as it is decoded: the mode, VL, VTYPE and TSHAPE for the words behind it
(R36, R114, R192, R197). -/
def decodeEffect (i : Instr) (e : VEntry) (t : Thread) : Thread :=
  match i with
  | .modet req =>
    let vt : DWord := req.setWidth 64
    { t with tile := true, dvtype := vt, dvl := BitVec.ofNat 14 (96 * packOf vt), dtshape := shapeWord 96 96 1 }
  | .modev => { t with tile := false }
  | .tshape _ _ => { t with dtshape := shapeWord (field e.a 0 32) (field e.a 32 32) e.b.toNat }
  | _ => t

/-- The token that an HST takes at decode (R267, R305). -/
def takeHstToken (rd : Reg) (e : VEntry) (s : State) : Run (VEntry × State) :=
  match s.t.freeSlot with
  | none => raise s cause.tokenFull 0
  | some k =>
    let tok := tokenWord (s.t.token k).gen k
    .ok ({ e with slot := some k }, ({ s with t := s.t.takeSlot k } : State).setX rd tok)

/-- The token of a word that issues one. -/
def issueToken (i : Instr) (e : VEntry) (s : State) : Run (VEntry × State) :=
  match i with
  | .hst _ _ rd | .hstTry _ _ _ rd => takeHstToken rd e s
  | _ => .ok (e, s)

/-- The word is the one that already stands last in the queue and holds the scalar stream. -/
def State.standing (i : Instr) (s : State) : Bool :=
  heldWord i && match s.t.queue.getLast? with
    | some e => e.instr == i && e.addr == s.t.pc
    | none => false

/-- After a word has entered the queue: the queue drains where the machine chooses so, and the scalar stream holds while
the word stands. -/
def State.afterIssue (i : Instr) (s : State) : State :=
  let s := if s.ch.runAhead then s else s.settleQueue
  if s.standing i then { s with t := { s.t with wait := some { kind := .hold } } } else s

/-- A vector-side word in the scalar stream (R35, R218 to R223): refused, held for want of an entry, or queued. In a
trap handler every such word is illegal, and the markers complete at once (R386, R469). -/
def issue (i : Instr) (s : State) : Out :=
  if s.t.inTrap then (if isMarker i then .next s.advance else finish (illegalAt i s))
  else if s.standing i then .next (s.afterIssue i)
  else match s.decodeEntry i with
    | none => finish (illegalAt i s)
    | some (e, chain) =>
      if 64 < s.t.usedSlots + entrySlots i then finish (hold s)
      else match issueToken i e s with
        | .error x => finish (.error x)
        | .ok (e, s) =>
          let s := { s with t := { decodeEffect i e s.t with queue := s.t.queue ++ [e], chain := chain } }
          .next ((if heldWord i then s else s.advance).headArrives.afterIssue i)

/-! ### Traps of scalar words (R35, R223) -/

/-- A scalar word has met a cause: its trap has been taken, or it has ended the context (R385). -/
def trapped (s r : State) : Bool :=
  s.t.live && ((!s.t.inTrap && r.t.inTrap && !r.t.trapcause.getLsbD 8) || (!r.t.live && (r.ctxAt s.t.ctx).ended))

/-- The scalar stream holds at its word. -/
def State.stand (s : State) : State :=
  { s with t := { s.t with wait := match s.t.wait with | none => some { kind := .hold } | some w => some w } }

/-- A try of the scalar word of the thread in focus. A trap that it meets waits until the earlier scalar accesses have been performed,
and then until the head of the vector queue stands at its next boundary (R35, R223). -/
def State.precise (try_ : State → Out) (s : State) : Out :=
  match try_ s with
  | .next r =>
    if !trapped s r then .next r
    else if s.t.scalars ≠ [] then .next s.stand
    else if s.midGroup then
      let u := s.toBoundary
      if u.midGroup || u.t.inTrap || !u.t.live then .next (if u.midGroup then u.stand else u) else try_ u
    else .next r
  | o => o

/-! ### Waits of the scalar stream on the queue (R222, R469) -/

/-- Every earlier vector-side word has committed, or the thread is in a trap handler. -/
def Thread.queueDone (t : Thread) : Bool := t.inTrap || t.queue == []

/-- The word is a vector load that may shorten VL (R149, R302). -/
def mayShorten (i : Instr) : Bool :=
  match memWord i with
  | some w => !w.store
  | none => match i with | .hld _ _ _ => true | _ => false

/-- A queued word writes a vector register or its tag (R188). -/
def writesReg (i : Instr) (r : VReg) : Bool :=
  match memWord i with
  | some w =>
    !w.store && match w.kind with
      | .raw => r.toNat == w.reg || r.toNat == w.reg + 1
      | .texture => decide (w.reg ≤ r.toNat) && decide (r.toNat ≤ w.reg + 4)
      | .bits => false
      | _ => r.toNat == w.reg
  | none => match i with
    | .vadd _ _ _ _ d | .vsub _ _ _ _ d | .vmul _ _ _ _ d | .vmulh _ _ _ _ d | .vmulhu _ _ _ _ d | .vmacc _ _ _ _ d
    | .vand _ _ _ _ d | .vor _ _ _ _ d | .vxor _ _ _ _ d | .vsll _ _ _ _ d | .vsrl _ _ _ _ d | .vsra _ _ _ _ d
    | .vmin _ _ _ _ d | .vmax _ _ _ _ d | .vminu _ _ _ _ d | .vmaxu _ _ _ _ d | .vfadd _ _ _ _ d | .vfsub _ _ _ _ d
    | .vfmul _ _ _ _ d | .vfdiv _ _ _ _ d | .vfsqrt _ _ d | .vfmacc _ _ _ _ d | .vfnmsac _ _ _ _ d | .vfmin _ _ _ _ d
    | .vfmax _ _ _ _ d | .vfsgnj _ _ _ _ d | .vfrsqrte _ _ d | .vfclass _ _ d | .vmix _ _ _ _ d | .vfdot4 _ _ _ _ d
    | .vfmerge _ _ _ _ d | .vstep _ _ _ d | .vxch _ _ _ _ d | .vslideup _ _ _ _ d | .vslidedn _ _ _ _ d
    | .vgather _ _ _ _ d | .vcompress _ _ d | .vconf _ _ d | .vreds _ _ _ _ d | .vfredo _ _ _ _ d | .vredmin _ _ _ _ d
    | .vredmax _ _ _ _ d | .vmvsx _ _ d | .gp _ _ _ _ _ _ d | .gwedge _ _ _ _ _ _ d | .gjoin _ _ _ _ _ _ d
    | .gldot _ _ _ _ _ _ d | .gsand _ _ _ _ _ _ d | .gcomm _ _ _ _ _ _ d | .gproj _ _ _ _ _ d | .grev _ _ _ _ d
    | .ginvol _ _ _ _ d | .gdual _ _ _ _ d | .gnormsq _ _ _ _ d | .gnorm _ _ _ _ d | .gnormz _ _ _ _ d
    | .gexp _ _ _ _ d | .glog _ _ _ _ d | .gsqrt _ _ _ _ d | .ginv _ _ _ _ d | .gdecl _ d | .tdrain _ _ _ d
    | .hld _ _ d => d == r
    | .vfcvt _ _ _ d | .tfetch _ _ d => d == r || d.toNat + 1 == r.toNat
    | .vblk _ _ => true
    | _ => false

/-! ### The type that a queued word finds -/

/-- The thread with VL and VTYPE as an entry finds them behind those that have not committed (R48, R113, R192). -/
def configured (t : Thread) : List VEntry → Thread
  | [] => t
  | d :: r => configured (match d.instr with
    | .vsetvl _ _ _ | .vsetvli _ _ _ => { t with vl := d.a.setWidth 14, vtype := d.b }
    | .modet req => { t with vl := BitVec.ofNat 14 (96 * packOf (req.setWidth 64)), vtype := req.setWidth 64 }
    | _ => t) r

end Sys2Proof.Machine
end

