-- ==== Sys2Proof/Machine/Admission.lean ====
section
/-! DEFINITION. Admission to the escapement (R50 to R52, R145): which registers a queued word reads and writes, and which words wait
for the words that produce what they read. -/

namespace Sys2Proof.Machine

/-- A run of registers from one on. -/
def regSpan (r : VReg) (n : Nat) : List VReg := (List.range n).map fun k => BitVec.ofNat 5 (r.toNat + k)

/-- The registers of an index group of VL elements (R143). -/
def indexRegs (t : Thread) (rowcap : Nat) (r : VReg) : List VReg :=
  let m := t.lanes * rowcap
  regSpan r (if m = 0 then 0 else (t.vl.toNat + m - 1) / m)

/-- The vector registers that a word reads, under VL and VTYPE as they stand (R119 to R137, R142, R156, R200). -/
def readRegs (t : Thread) (rowcap : Nat) (i : Instr) : List VReg :=
  match i with
  | .vadd _ f a s _ | .vsub _ f a s _ | .vmul _ f a s _ | .vmulh _ f a s _ | .vmulhu _ f a s _ | .vand _ f a s _
  | .vor _ f a s _ | .vxor _ f a s _ | .vsll _ f a s _ | .vsrl _ f a s _ | .vsra _ f a s _ | .vmin _ f a s _
  | .vmax _ f a s _ | .vminu _ f a s _ | .vmaxu _ f a s _ | .vfadd _ f a s _ | .vfsub _ f a s _ | .vfmul _ f a s _
  | .vfdiv _ f a s _ | .vfmin _ f a s _ | .vfmax _ f a s _ | .vfsgnj _ f a s _ | .vfmerge _ f a s _ | .vcmpeq _ f a s _
  | .vcmpne _ f a s _ | .vcmplt _ f a s _ | .vcmpltu _ f a s _ | .vcmpge _ f a s _ | .vfcmpeq _ f a s _
  | .vfcmplt _ f a s _ | .vfcmple _ f a s _ | .vgather _ f a s _ | .vreds _ f a s _ | .vfredo _ f a s _
  | .vredmin _ f a s _ | .vredmax _ f a s _ => a :: formRegs f s
  | .vmix _ f a s _ => a :: formRegs f s
  | .vmacc _ f a s d | .vfmacc _ f a s d | .vfnmsac _ f a s d => a :: d :: formRegs f s
  | .vfdot4 _ f a s d => regSpan a 2 ++ [d] ++ if f = .vv then regSpan s 2 else []
  | .vfsqrt _ a _ | .vfrsqrte _ a _ | .vfclass _ a _ | .vcompress _ a _ | .vconf _ a _ | .vmvxs _ a _ _
  | .vxch _ _ a _ _ | .vslideup _ _ a _ _ | .vslidedn _ _ a _ _ => [a]
  | .vfcvt _ a code _ => regSpan a (max 2 (cvtGroup (cvtSource (code.toNat % 16)) t.lanes rowcap t.vl.toNat))
  | .vldx _ v _ _ _ | .vldfX _ v _ _ | .vldrX _ v _ _ | .vldgX _ v _ _ => indexRegs t rowcap v
  | .texs _ v _ _ => regSpan v 2
  | .vst _ _ _ d | .vsts _ _ _ _ d | .vstF _ _ d | .vstsF _ _ _ d | .vstg _ _ d | .vstgS _ _ _ d => [d]
  | .vstr _ _ d | .vstrS _ _ _ d => regSpan d 2
  | .vstrX _ v _ d => regSpan d 2 ++ indexRegs t rowcap v
  | .vstx _ v _ _ d | .vstxF _ v _ d | .vstgX _ v _ d | .vscadd _ v _ _ d | .vstc _ v _ d => d :: indexRegs t rowcap v
  | .hst _ d _ | .hstTry _ _ d _ => [d]
  | .gp _ b a _ _ _ _ | .gwedge _ b a _ _ _ _ | .gjoin _ b a _ _ _ _ | .gldot _ b a _ _ _ _ | .gsand _ b a _ _ _ _
  | .gcomm _ b a _ _ _ _ => [b, a]
  | .gproj _ _ a _ _ _ | .grev _ a _ _ _ | .ginvol _ a _ _ _ | .gdual _ a _ _ _ | .gnormsq _ a _ _ _ | .gnorm _ a _ _ _ | .gnormz _ a _ _ _
  | .gexp _ a _ _ _ | .glog _ a _ _ _ | .gsqrt _ a _ _ _ | .ginv _ a _ _ _ => [a]
  | .gdecl _ d => [d]
  | .topa _ _ vb va _ => regSpan vb 2 ++ regSpan va 2
  | .vblk _ _ => regSpan 0 32
  | _ => []

/-- The word reads the rows of other banks or other lanes: the permutes, the reductions, VMVXS, VPOPC, VFIRST and the vector stores
(R52), the graded words and GDECL (R175), a VFCVT from a group of registers or to blocks (R138), and the words of a block. -/
def crossLane (t : Thread) (rowcap : Nat) (i : Instr) : Bool :=
  match i with
  | .vfcvt _ _ code _ => decide (1 < cvtGroup (cvtSource (code.toNat % 16)) t.lanes rowcap t.vl.toNat) || vtBlock t.vtype
  | .gp _ _ _ _ _ _ _ | .gwedge _ _ _ _ _ _ _ | .gjoin _ _ _ _ _ _ _ | .gldot _ _ _ _ _ _ _ | .gsand _ _ _ _ _ _ _
  | .gcomm _ _ _ _ _ _ _ | .gproj _ _ _ _ _ _ | .grev _ _ _ _ _ | .ginvol _ _ _ _ _ | .gdual _ _ _ _ _ | .gnormsq _ _ _ _ _
  | .gnorm _ _ _ _ _ | .gnormz _ _ _ _ _ | .gexp _ _ _ _ _ | .glog _ _ _ _ _ | .gsqrt _ _ _ _ _ | .ginv _ _ _ _ _
  | .gdecl _ _ | .vblk _ _ => true
  | .vxch _ _ _ _ _ | .vslideup _ _ _ _ _ | .vslidedn _ _ _ _ _ | .vgather _ _ _ _ _ | .vcompress _ _ _ | .vconf _ _ _
  | .vreds _ _ _ _ _ | .vfredo _ _ _ _ _ | .vredmin _ _ _ _ _ | .vredmax _ _ _ _ _ | .vmvxs _ _ _ _ | .vpopc _ _ _
  | .vfirst _ _ _ | .vscadd _ _ _ _ _ | .vstc _ _ _ _ | .hst _ _ _ | .hstTry _ _ _ _ => true
  | i => match memWord i with
    | some w => w.store
    | none => false

/-- The predicates that a word reads across lanes. -/
def crossPreds (i : Instr) : List PReg :=
  match i with
  | .vpopc p b _ | .vfirst p b _ => [p, b]
  | .vcompress p _ _ => [p]
  | .vstP _ p => [p]
  | _ => []

/-- The predicates that a word reads: those that govern it, and its operands (R42, R131, R132, R148). The words of a block may read
each. -/
def readPreds (i : Instr) : List PReg :=
  match i with
  | .vadd p _ _ _ _ | .vsub p _ _ _ _ | .vmul p _ _ _ _ | .vmulh p _ _ _ _ | .vmulhu p _ _ _ _ | .vmacc p _ _ _ _
  | .vand p _ _ _ _ | .vor p _ _ _ _ | .vxor p _ _ _ _ | .vsll p _ _ _ _ | .vsrl p _ _ _ _ | .vsra p _ _ _ _
  | .vmin p _ _ _ _ | .vmax p _ _ _ _ | .vminu p _ _ _ _ | .vmaxu p _ _ _ _ | .vfadd p _ _ _ _ | .vfsub p _ _ _ _
  | .vfmul p _ _ _ _ | .vfdiv p _ _ _ _ | .vfsqrt p _ _ | .vfmacc p _ _ _ _ | .vfnmsac p _ _ _ _ | .vfmin p _ _ _ _
  | .vfmax p _ _ _ _ | .vfcvt p _ _ _ | .vfsgnj p _ _ _ _ | .vfrsqrte p _ _ | .vfclass p _ _ | .vmix p _ _ _ _
  | .vfdot4 p _ _ _ _ | .vfmerge p _ _ _ _ | .vstep p _ _ _ | .vxch p _ _ _ _ | .vslideup p _ _ _ _
  | .vslidedn p _ _ _ _ | .vgather p _ _ _ _ | .vcompress p _ _ | .vconf p _ _ | .vreds p _ _ _ _ | .vfredo p _ _ _ _
  | .vredmin p _ _ _ _ | .vredmax p _ _ _ _ | .pset p _ | .pclr p _ | .vcmpeq p _ _ _ _ | .vcmpne p _ _ _ _
  | .vcmplt p _ _ _ _ | .vcmpltu p _ _ _ _ | .vcmpge p _ _ _ _ | .vfcmpeq p _ _ _ _ | .vfcmplt p _ _ _ _
  | .vfcmple p _ _ _ _ | .vld p _ _ _ | .vlds p _ _ _ _ | .vldx p _ _ _ _ | .vldf p _ _ | .vldfS p _ _ _
  | .vldfX p _ _ _ | .vldr p _ _ | .vldrS p _ _ _ | .vldrX p _ _ _ | .vldg p _ _ | .vldgS p _ _ _ | .vldgX p _ _ _
  | .texs p _ _ _ | .vst p _ _ _ | .vsts p _ _ _ _ | .vstx p _ _ _ _ | .vstF p _ _ | .vstsF p _ _ _ | .vstxF p _ _ _
  | .vstr p _ _ | .vstrS p _ _ _ | .vstrX p _ _ _ | .vstg p _ _ | .vstgS p _ _ _ | .vstgX p _ _ _ | .vscadd p _ _ _ _
  | .vstc p _ _ _ | .gp p _ _ _ _ _ _ | .gwedge p _ _ _ _ _ _ | .gjoin p _ _ _ _ _ _ | .gldot p _ _ _ _ _ _
  | .gsand p _ _ _ _ _ _ | .gcomm p _ _ _ _ _ _ | .gproj p _ _ _ _ _ | .grev p _ _ _ _ | .ginvol p _ _ _ _
  | .gdual p _ _ _ _ | .gnormsq p _ _ _ _ | .gnorm p _ _ _ _ | .gnormz p _ _ _ _ | .gexp p _ _ _ _ | .glog p _ _ _ _
  | .gsqrt p _ _ _ _ | .ginv p _ _ _ _ => [p]
  | .vpopc p ps2 _ | .vfirst p ps2 _ | .pnot p ps2 _ => [p, ps2]
  | .pand p ps2 ps1 _ | .por p ps2 ps1 _ | .pxor p ps2 ps1 _ | .pandn p ps2 ps1 _ | .pmerge p ps2 ps1 _ => [p, ps2, ps1]
  | .vstP _ ps => [ps]
  | .vblk _ _ => (List.range 16).map fun k => BitVec.ofNat 4 k
  | _ => []

/-- A word writes a predicate (R131, R132, R148). -/
def writesPred (i : Instr) (p : PReg) : Bool :=
  match i with
  | .pand _ _ _ d | .por _ _ _ d | .pxor _ _ _ d | .pandn _ _ _ d | .pnot _ _ d | .pset _ d | .pclr _ d | .pmerge _ _ _ d
  | .vcmpeq _ _ _ _ d | .vcmpne _ _ _ _ d | .vcmplt _ _ _ _ d | .vcmpltu _ _ _ _ d | .vcmpge _ _ _ _ d
  | .vfcmpeq _ _ _ _ d | .vfcmplt _ _ _ _ d | .vfcmple _ _ _ _ d | .vldP _ d => d == p
  | .vblk _ _ | .modet _ => true
  | _ => false

/-- A vector load, whose readers wait until it has committed (R145). -/
def isLoad (i : Instr) : Bool :=
  match memWord i with
  | some w => !w.store
  | none => match i with | .hld _ _ _ | .tfetch _ _ _ | .vblk _ _ => true | _ => false

/-- A word waits for an earlier one that has not committed: it reads across lanes what that one writes, or that one is a load and
it reads the destination (R52, R145). -/
def awaits (t : Thread) (rowcap : Nat) (e d : VEntry) : Bool :=
  let regs := (readRegs t rowcap e.instr).any (writesReg d.instr)
  (crossLane t rowcap e.instr && (regs || (crossPreds e.instr).any (writesPred d.instr))) ||
    (isLoad d.instr && (regs || (readPreds e.instr).any (writesPred d.instr)))

/-- The oldest entry that has not been admitted takes a slot of the escapement, where one of the four is free and the words that it
waits for have committed (R50 to R52, R145): `before` holds the admitted entries before it. DEDUCED, safe: assumption 81 of the log. -/
def admitNext (t : Thread) (rowcap : Nat) (before : List VEntry) : List VEntry → Option (List VEntry)
  | [] => none
  | e :: r =>
    if e.admitted then (admitNext t rowcap (before ++ [e]) r).map fun l => e :: l
    else if before.length < 4 && !before.any (awaits (configured t before) rowcap e) then some ({ e with admitted := true } :: r) else none

end Sys2Proof.Machine
end

