-- ==== Sys2Proof/Machine/Sync.lean ====
section
/-! DEFINITION. The sync words: fences (R247 to R252), IFENCE and ISYNC (R235 to R238), named barriers (R330 to R336),
PARK and WAKE (R260 to R263). -/

namespace Sys2Proof.Machine

/-! ### Fences -/

/-- FSV (R248): a marker in the vector queue that holds later words until the scalar accesses before it have been performed. -/
def execFsv (s : State) : Out := issue .fsv s

/-- FVS (R249): holds the scalar stream until every earlier vector-side word has committed. -/
def execFvs (s : State) : Out := finish (if s.t.queueDone then .ok s.advance else hold s)

/-- The segment of the thread in focus holds integer scatter-adds (R429). -/
def State.holdsAdds (s : State) : Bool :=
  s.inTask && match s.mySegment with | some g => g.adds != [] | none => false

/-- A queued word that may post integer scatter-adds: a VSCADD under an integer type, or a VBLK whose blocks may hold one. -/
def mayAdd (t : Thread) : List VEntry → Bool
  | [] => false
  | e :: r => (match e.instr with | .vscadd _ _ _ _ _ => !vtIeee t.vtype | .vblk _ _ => true | _ => false) || mayAdd (configured t [e]) r

/-- Whether the task's segment holds integer scatter-adds is not known yet: an earlier word may still post some (R426, R429). -/
def State.addsUnknown (s : State) : Bool :=
  s.inTask && !s.t.inTrap && (mayAdd s.t s.t.queue || s.t.posted.any fun o => o.kind == .addInt)

/-- FVV (R250): a marker in the vector queue; a commit point where the segment holds integer scatter-adds (R429). Whether it does
is settled once the words before it have posted theirs, so that alike runs have alike segments (R426).
DEDUCED, safe: assumption 101 of the log. -/
def execFvv (s : State) : Out :=
  if s.addsUnknown then finish (hold s)
  else if s.holdsAdds then
    match s.commitPoint with
    | .error e => finish (.error e)
    | .ok (.undone, s) => .next s
    | .ok (.passed, s) => match issue .fvv s with
      | .next s => .next s.nextSegment
      | o => o
  else issue .fvv s

/-- Every earlier access of the thread has been performed or, in a handler, all that its words wait for (R251, R333, R469).
DESIGN CHOICE, safe: assumption 87 of the log. -/
def Thread.allPerformed (t : Thread) : Bool := t.queueDone && t.posted == []

/-- A remote write or a message of the thread to another member has not been acknowledged (R256). DEDUCED, unsafe: assumption 43 of the log. -/
def State.remotePending (s : State) : Bool :=
  s.ops.any fun o => o.issuer == s.pos && o.ctx == s.t.ctx &&
    (o.kind == .remoteWrite || (o.kind == .message && field o.addr 0 12 != s.ctx.pkgid))

/-- The wait of a DFENCE (R251). -/
def dfenceStep (scope : BitVec 3) (s : State) : Run State :=
  if !s.t.allPerformed || (scope == 5 && s.remotePending) then hold s else .ok s.advance

/-- DFENCE (R251): every scope but .thread is a commit point, and .thread is one where the segment holds integer
scatter-adds (R429). -/
def execDfence (scope : BitVec 3) (s : State) : Out :=
  finish (if scope ≠ 0 ∨ s.holdsAdds then s.committing (dfenceStep scope)
    else if s.addsUnknown then hold s else dfenceStep scope s)

/-! ### New code -/

/-- IFENCE (R236): one scalar step that invalidates every copy in the instruction caches and block buffers of the cores that the
scope covers. What a thread has fetched and not decoded goes at its ISYNC (R237). DEDUCED, unsafe: assumption 44 of the log. -/
def execIfence (scope : BitVec 3) (rs2 rs1 : Reg) (s : State) : Out :=
  let a : ScalarAcc := { kind := .ifence scope (rs2 == 0), bytes := 0, va := s.t.readX rs1, pa := 0, val := s.t.readX rs2 }
  .next (if s.defers a.kind then s.queueScalar a else s.performScalar a).advance

/-- ISYNC (R237): what the thread has fetched and not decoded is discarded. -/
def execIsync (s : State) : Out := .next ({ s with t := { s.t with ahead := [] } } : State).advance

/-! ### Named barriers -/

/-- The key of barrier b of a level for a slot (R330, R335): gang barriers are the package's. -/
def barrierKey (level pos b : Nat) : Nat :=
  match level with
  | 1 => coreOf pos * 32 + b
  | 2 => (1152 + bayOf pos) * 32 + b
  | 3 => (1296 + dieOf pos) * 32 + b
  | _ => 1305 * 32 + b

/-- The barrier that a word names, if its number is assigned to the context (R330). -/
def State.barrierAt (s : State) (level b : Nat) : Option Nat :=
  if b < s.ctx.bars.getD (min level 4 - 1) 0 then some (barrierKey level s.pos b) else none

/-- A barrier of a context. -/
def State.barrierOf (s : State) (n k : Nat) : Barrier := kget {} (s.ctxAt n).barriers k

/-- Replace a barrier of a context. -/
def State.setBarrierOf (s : State) (n k : Nat) (b : Barrier) : State :=
  let c := s.ctxAt n
  s.setCtx n { c with barriers := kset k b c.barriers }

/-- A barrier of the context in focus. -/
def State.barrier (s : State) (k : Nat) : Barrier := s.barrierOf s.t.ctx k

/-- Replace a barrier of the context in focus. -/
def State.setBarrier (s : State) (k : Nat) (b : Barrier) : State := s.setBarrierOf s.t.ctx k b

/-- The barrier-state cause at a word, with level and number as its value (R384). -/
def barrierFault {α : Type} (level b : Nat) (s : State) : Run α := raise s cause.barrier (BitVec.ofNat 64 (level * 256 + b))

/-- The members of the context's gang; a context that is no gang context is a gang of one (R414). -/
def Context.members (c : Context) : Nat := match c.gang with | some g => g.members | none => 1

/-- Every acknowledgement of the gang launch has arrived (R422). -/
def Context.acked (c : Context) : Bool := match c.gang with | some g => decide (g.members ≤ g.acks.length) | none => true

/-- Every other member has met its count of a gang barrier (R335). -/
def Context.othersArrived (c : Context) (b : Nat) : Bool :=
  match c.gang with
  | none => true
  | some g => (List.range g.members).all fun m => m == c.pkgid || g.arrivals.contains (m, b)

/-- The arrivals of the other members at a gang barrier, one of each, are used up by its release. -/
def Context.takeArrivals (c : Context) (b : Nat) : Context :=
  { c with gang := c.gang.map fun g =>
      { g with arrivals := (List.range g.members).foldl (fun l m => l.erase (m, b)) g.arrivals } }

/-- The release step of a barrier of a context (R333, R392). -/
def State.releaseBarrier (s : State) (n k : Nat) : State :=
  let b := s.barrierOf n k
  ((s.setBarrierOf n k { b with arrived := 0, phase := b.phase + 1 }).order).setEvents n

/-- The release step of a gang barrier, once every member has met its count and every acknowledgement is in (R335, R422). -/
def State.releaseGang (s : State) (n b : Nat) : State :=
  let k := barrierKey 5 0 b
  let bar := s.barrierOf n k
  let c := s.ctxAt n
  if bar.level = 5 ∧ bar.expect ≠ 0 ∧ bar.arrived = bar.expect ∧ c.acked ∧ c.othersArrived b then
    (s.setCtx n (c.takeArrivals b)).releaseBarrier n k
  else s

/-- The thread slots that a level spans for the context (R332). -/
def levelSlots (members : Nat) : Nat → Nat
  | 1 => 4
  | 2 => 32
  | 3 => 512
  | 4 => 4608
  | _ => 4608 * members

/-- BSET (R332). -/
def execBset (level : BitVec 3) (rs2 rs1 : Reg) (s : State) : Out :=
  let l := level.toNat
  let b := (s.t.readX rs1).toNat % 32
  let n := (s.t.readX rs2).toNat
  finish (match s.barrierAt l b with
    | none => barrierFault l b s
    | some k =>
      let bar := s.barrier k
      if bar.arrived ≠ 0 ∨ levelSlots s.ctx.members l < n then barrierFault l b s
      else .ok (s.orderThread.setBarrier k { bar with expect := n, level := l }).advance)

/-- The arrival step of a BARV, and the release that follows it (R333, R335). -/
def State.arrive (s : State) (l b k : Nat) (rd : Reg) : State :=
  let bar := s.barrier k
  let s := ((s.order.setBarrier k { bar with arrived := bar.arrived + 1 }).setX rd (bar.phase.setWidth 64)).advance
  if bar.arrived + 1 ≠ bar.expect then s
  else if l = 5 then
    let s := if 1 < s.ctx.members then s.send s.t.ctx 0 (.gangArrive b) else s
    s.releaseGang s.t.ctx b
  else s.releaseBarrier s.t.ctx k

/-- BARV once its commit is past (R333). -/
def barvStep (level : BitVec 3) (rs1 rd : Reg) (s : State) : Run State :=
  let l := level.toNat
  let b := (s.t.readX rs1).toNat % 32
  if !s.t.allPerformed || (l == 5 && s.remotePending) then hold s
  else match s.barrierAt l b with
    | none => barrierFault l b s
    | some k =>
      let bar := s.barrier k
      if bar.expect = 0 ∨ bar.level ≠ l then barrierFault l b s else .ok (s.arrive l b k rd)

/-- BARV (R333): a commit point (R429). -/
def execBarv (level : BitVec 3) (rs1 rd : Reg) (s : State) : Out := finish (s.committing (barvStep level rs1 rd))

/-- The test of a BWAIT on barrier b of level l against a phase (R334). -/
def bwaitStep (l b : Nat) (phase : BitVec 16) (s : State) : Run State :=
  match s.barrierAt l b with
  | none => barrierFault l b s
  | some k =>
    let bar := s.barrier k
    if bar.level ≠ l then barrierFault l b s
    else if bar.phase ≠ phase then .ok s.advance
    else .error (.wait { kind := .bwait, addr := BitVec.ofNat 64 (l * 256 + b), arg := phase.setWidth 64 }, s)

/-- BWAIT (R334). -/
def execBwait (level : BitVec 3) (rs2 rs1 : Reg) (s : State) : Out :=
  finish (bwaitStep level.toNat ((s.t.readX rs1).toNat % 32) ((s.t.readX rs2).setWidth 16) s)

/-- A parked BWAIT tests its barrier again (R334). -/
def bwaitResume (w : WaitRec) (s : State) : Run State :=
  bwaitStep (field w.addr 8 3) (field w.addr 0 8) (w.arg.setWidth 16) s

/-! ### Parking -/

/-- The record of the slot in focus, if its thread is parked (R261). -/
def State.myPark (s : State) : Option ParkRec := s.parks.find? fun k => k.pos == s.pos

/-- The read of a PARK (R261): it completes, or its thread is parked from this step on. -/
def parkRead (rd : Reg) (ea expected : DWord) (woken : Bool) (s : State) : Run State :=
  let w : WaitRec := { kind := .park, addr := ea, arg := expected, rd := rd }
  match s.translate s.agent .load ea.toNat with
  | .error e => .error e
  | .ok ((pa, _), s) => match scalarRead ea 8 s with
    | .error (.wait _, s) => if s.myPark = none then hold s else .error (.wait w, s)
    | .error e => .error e
    | .ok (bs, s) =>
      let v := BitVec.ofNat 64 (ofBytes bs)
      let others := s.parks.filter fun k => k.pos != s.pos
      if v ≠ expected ∨ woken then
        .ok (({ s with parks := others, t := { s.t with woken := false } } : State).setX rd v).advance
      else
        .error (.wait w, { s with parks := { pos := s.pos, ctx := s.t.ctx, va := ea, pa := pa, since := s.stamp } :: others })

/-- PARK as its word is decoded (R261). -/
def parkStep (rs2 rs1 rd : Reg) (s : State) : Run State :=
  let ea := s.t.readX rs1
  if ea.toNat % 8 ≠ 0 then raise s cause.misaligned ea else parkRead rd ea (s.t.readX rs2) s.t.woken s

/-- PARK (R261): a commit point (R429). -/
def execPark (rs2 rs1 rd : Reg) (s : State) : Out := finish (s.committing (parkStep rs2 rs1 rd))

/-- A parked thread reads again once a step has written its doubleword or a WAKE has selected it (R261). -/
def parkResume (w : WaitRec) (s : State) : Run State :=
  match s.myPark with
  | none => parkRead w.rd w.addr w.arg s.t.woken s
  | some k => if k.poked || k.woken then parkRead w.rd w.addr w.arg (k.woken || s.t.woken) s else .error (.wait w, s)

/-- WAKE once its commit is past (R262). DEDUCED, unsafe: assumption 42 of the log. -/
def wakeStep (scope : BitVec 3) (rs2 rs1 rd : Reg) (s : State) : Run State :=
  let ea := s.t.readX rs1
  if ea.toNat % 8 ≠ 0 then raise s cause.misaligned ea
  else match s.translate s.agent .load ea.toNat with
    | .error e => .error e
    | .ok ((pa, _), u) =>
      let a : ScalarAcc :=
        { kind := .wake scope rd, bytes := 0, va := ea, pa := pa, val := s.t.readX rs2, page := s.pageSize s.agent ea.toNat }
      .ok (if u.defers a.kind then u.queueScalar a else u.performScalar a).advance

/-- WAKE (R262): a commit point (R429). -/
def execWake (scope : BitVec 3) (rs2 rs1 rd : Reg) (s : State) : Out := finish (s.committing (wakeStep scope rs2 rs1 rd))

end Sys2Proof.Machine
end

