-- ==== Sys2Proof/Machine/Engines.lean ====
section
/-! DEFINITION. Engine operations: issuing one, the queues of the engines, the steps that they share (publish, ready,
final), the copy engine, and the words FORK, CPY, RDV, CWAIT, CTEST and PUBLISH (R258, R267 to R283). -/

namespace Sys2Proof.Machine

/-! ### Operations and their engines -/

/-- The operation with a number. -/
def State.op (s : State) (n : Nat) : Option EngineOp := s.ops.find? fun o => o.id == n

/-- Remove an operation, with its entry of the scoreboard, which the first copy that waits takes at the same step (R258). -/
def State.dropOp (s : State) (o : EngineOp) : State :=
  let s := { s with ops := s.ops.filter fun p => p.id != o.id }
  let c := s.coreAt (coreOf o.home)
  (s.setCore (coreOf o.home) { c with scoreboard := c.scoreboard.filter fun e => e.op != o.id }).takeScores (coreOf o.home)

/-- The operation goes on only while its context lives. -/
def State.opLives (s : State) (o : EngineOp) : Bool := !(s.ctxAt o.ctx).ended

/-- The agent that an operation's engine is (R253, R257, R271): only a copy engine belongs to a core. -/
def EngineOp.agent (o : EngineOp) : Agent :=
  { core := if o.kind = .copy then some (coreOf o.home) else none, bay := bayOf o.home, level := o.level, ctx := o.ctx,
    op := some o.id }

/-- The entries of an engine's queue (R272, R273, R353), and the launches of a context (R412). -/
def queueLimit : EngineKind → Nat
  | .copy => 32
  | .fold => 16
  | .blend => 32
  | .walk | .rcast => 32
  | _ => 64

/-- Launches of a context, which its sequencer counts together (R412). -/
def isLaunch : EngineKind → Bool
  | .pipeline | .remoteWrite | .remoteRead => true
  | _ => false

/-- The operation holds an entry that a new one of a kind needs: until it is ready or final (R272, R273, R412). -/
def holdsEntry (k : EngineKind) (home ctx : Nat) (o : EngineOp) : Bool :=
  if isLaunch k then isLaunch o.kind && o.ctx == ctx else sameEngine k home o && o.phase != .ready

/-- The number of a kind in a waiting word's record. -/
def kindCode : EngineKind → Nat
  | .copy => 0 | .fold => 1 | .blend => 2 | .walk => 3 | .rcast => 4 | .pipeline => 5 | .remoteWrite => 6
  | .remoteRead => 7 | .message => 8 | .inboundWrite => 9 | .inboundRead => 10

/-- The kind with a number. -/
def codeKind : Nat → EngineKind
  | 0 => .copy | 1 => .fold | 2 => .blend | 3 => .walk | 4 => .rcast | 5 => .pipeline | 6 => .remoteWrite
  | 7 => .remoteRead | 8 => .message | 9 => .inboundWrite | _ => .inboundRead

/-- What a waiting issuing word wants: kind, explicit bit, and whether it names a command block. -/
structure Issue where
  kind : EngineKind
  explicit : Bool
  block : Option DWord
  rd : Reg
  words : List DWord
  deriving DecidableEq, Repr

/-- The record of an issuing word that waits for an entry. -/
def Issue.wait (i : Issue) (since : Nat) : WaitRec :=
  { kind := .engine, addr := i.block.getD 0, rd := i.rd, since := since, words := i.words,
    arg := BitVec.ofNat 64 (kindCode i.kind * 4 + (if i.explicit then 2 else 0) + if i.block.isSome then 1 else 0) }

/-- The issuing word of a wait record. -/
def WaitRec.issue (w : WaitRec) : Issue :=
  { kind := codeKind (w.arg.toNat / 4), explicit := w.arg.getLsbD 1, block := if w.arg.getLsbD 0 then some w.addr else none,
    rd := w.rd, words := w.words }

/-- Another thread's issuing word waits for the same engine since earlier (R273). -/
def State.earlierIssue (s : State) (k : EngineKind) (since : Option Nat) : Bool :=
  s.allThreads.any fun e => e.1 != s.pos && e.2.live && match e.2.wait with
    | some w =>
      let same := if isLaunch k then isLaunch (codeKind (w.arg.toNat / 4)) && e.2.ctx == s.t.ctx
        else sameEngine k s.pos { id := 0, kind := codeKind (w.arg.toNat / 4), issuer := 0, home := e.1, ctx := 0, level := false }
      w.kind == .engine && same && match since with
        | none => true
        | some n => decide (w.since < n)
    | none => false

/-- An entry is free for an issuing word (R272, R273, R412). -/
def State.entryFree (s : State) (k : EngineKind) (since : Option Nat) : Bool :=
  decide ((s.ops.filter (holdsEntry k s.pos s.t.ctx)).length < queueLimit k) && !s.earlierIssue k since

/-! ### Issuing -/

/-- Child c of a node joins the task tree of a deterministic context; elsewhere nothing is kept (R427, R428).
DEDUCED, safe: assumption 57 of the log. -/
def State.addNode (s : State) (ctx parent c : Nat) (key : DWord) : State × Nat :=
  let x := s.ctxAt ctx
  if x.det then
    match x.nodes.find? fun n => n.parent == parent && n.c == c with
    | some n => (s, n.id)
    | none =>
      let id := s.nextOp + 1
      let n : TaskNode := { id := id, parent := parent, c := c, key := key, digest := 0 }
      ((({ s with nextOp := id } : State).setCtx ctx { x with nodes := x.nodes ++ [n] }), id)
  else (s, 0)

/-- The next child of the task of the thread in focus, with its node and key (R427, R428). -/
def State.newChild (s : State) : State × Nat × DWord :=
  let c := s.t.children + 1
  let key := taskKey s.t.taskix (BitVec.ofNat 32 c)
  let r := ({ s with t := { s.t with children := c } } : State).addNode s.t.ctx s.t.node c key
  (r.1, r.2, key)

/-- The kinds whose operation is a node of the task tree (R427): launches and RCAST. -/
def isNode (k : EngineKind) : Bool := isLaunch k || k == .rcast

/-- An issuing word takes its slot and enters its operation; where no entry is free it waits (R267, R271, R276).
DEDUCED, unsafe: assumption 45 of the log. -/
def enterOp (i : Issue) (s : State) : Run State :=
  match s.t.freeSlot with
  | none => raise s cause.tokenFull 0
  | some k =>
    let since := match s.t.wait with | some w => if w.kind = .engine then some w.since else none | none => none
    if !s.entryFree i.kind since then .error (.wait (i.wait (since.getD s.tick)), { s with tick := s.tick + 1 })
    else
      let gen := (s.t.token k).gen
      let s := if i.block.isNone then s.orderThread else s
      let r := if isNode i.kind then s.newChild else (s, 0, 0)
      let s := r.1
      let o : EngineOp :=
        { id := s.nextOp + 1, kind := i.kind, issuer := s.pos, home := s.pos, ctx := s.t.ctx, level := s.t.level, slot := k
          gen := gen, explicit := i.explicit, block := i.block, words := i.words, node := r.2.1, key := r.2.2
          launch := match s.t.pipe with | some b => b.launch | none => 0
          stage := s.t.held.map fun h => h.stage }
      let s := { s with t := s.t.takeSlot k, ops := s.ops ++ [o], nextOp := s.nextOp + 1 }
      .ok ((s.takeScore o).setX i.rd (tokenWord gen k)).advance

/-- An issuing word that waits tries again to enter (R271, R273). -/
def engineResume (w : WaitRec) (s : State) : Run State := enterOp w.issue s

/-- Bytes as doublewords. -/
def toDwords : Nat → List Byte → List DWord
  | 0, _ => []
  | n + 1, bs => BitVec.ofNat 64 (ofBytes (bs.take 8)) :: toDwords n (bs.drop 8)

/-- The read of bytes 0 to 47 of a command block: one scalar step (R271). -/
def readBlock (c : DWord) (s : State) : Run (List DWord × State) :=
  if c.toNat % 64 ≠ 0 then raise s cause.misaligned c
  else match scalarRead c 48 s with
    | .error e => .error e
    | .ok (bs, s) => .ok (toDwords 6 bs, s)

/-- A FORK (R271): a commit point (R429). One of the blend engine captures STHRESH at its issue step (R361). -/
def fork (k : EngineKind) (explicit : Bool) (rs1 rd : Reg) (s : State) : Out :=
  finish (s.committing fun s =>
    let c := s.t.readX rs1
    match readBlock c s with
    | .error e => .error e
    | .ok (ws, s) =>
      let ws := if k = .blend then ws ++ [s.t.sthresh.setWidth 64] else ws
      enterOp { kind := k, explicit := explicit, block := some c, rd := rd, words := ws } s)

/-- FORK.copy (R271). -/
def execForkCopy (explicit : Bool) (rs1 rd : Reg) (s : State) : Out := fork .copy explicit rs1 rd s

/-- FORK.fold (R271). -/
def execForkFold (explicit : Bool) (rs1 rd : Reg) (s : State) : Out := fork .fold explicit rs1 rd s

/-- FORK.blend (R271). -/
def execForkBlend (explicit : Bool) (rs1 rd : Reg) (s : State) : Out := fork .blend explicit rs1 rd s

/-- FORK.march (R271). -/
def execForkMarch (explicit : Bool) (rs1 rd : Reg) (s : State) : Out := fork .walk explicit rs1 rd s

/-- CPY (R276): LEN comes from x[rd] before the token is written there. -/
def execCpy (explicit : Bool) (rs2 rs1 rd : Reg) (s : State) : Out :=
  finish (s.committing fun s => enterOp
    { kind := .copy, explicit := explicit, block := none, rd := rd,
      words := [s.t.readX rs1, s.t.readX rs2, s.t.readX rd, 1, 0, 0] } s)

/-! ### Ends of an operation (R271, R278, R283) -/

/-- The bytes of STATUS, and of RESULT where it stands. -/
def statusBytes (stamp : Nat) (st : BitVec 4) (c : BitVec 8) (result : Option DWord) : List Byte :=
  toBytes 8 (statusWord (BitVec.ofNat 48 stamp) c st).toNat ++ match result with | some r => toBytes 8 r.toNat | none => []

/-- The engine's write of STATUS, and of RESULT where it stands, into the command block (R271): dropped where a cause
is met. -/
def State.writeStatusBlock (s : State) (o : EngineOp) (st : BitVec 4) (c : BitVec 8) (result : Option DWord) : State :=
  match o.block with
  | none => s
  | some b => match s.write o.agent .dest (b.toNat + 48) (statusBytes s.stamp st c result) with
    | .ok s => s
    | .error (_, s) => s

/-- The write into the command block waits: another copy of the core holds its bytes (R258). -/
def State.statusHeld (s : State) (o : EngineOp) : Bool :=
  match o.block with
  | none => false
  | some b => match s.checkParts o.agent .dest (lineParts (b.toNat + 48) 16) with
    | .error (.wait _, _) => true
    | _ => false

/-- The end of an operation at the step that is being taken (R269, R278, R283): slot, flags, command block; the operation
is gone. -/
def State.closeOp (s : State) (o : EngineOp) (st : BitVec 4) (c : BitVec 8) (result : DWord) : State :=
  let s := (s.settle o.ctx o.issuer o.slot o.gen st c result).deliver o.ctx o.issuer o.flags
  (s.writeStatusBlock o st c (some result)).dropOp o

/-- The final step of an operation. -/
def State.finalOp (s : State) (o : EngineOp) (st : BitVec 4) (c : BitVec 8) (result : DWord) : State :=
  s.order.closeOp o st c result

/-- The operation ends in fault with a cause and the address of the first faulting byte (R269, R277). -/
def State.failOp (s : State) (o : EngineOp) (c : BitVec 8) (a : DWord) : State :=
  (s.setOp { o with cause := c, result := a, shadow := [], buf := [], phase := .published })

/-- The address of the first faulting byte of an engine's access to some pieces (R269, R277): of a data-integrity mismatch, the first
piece whose page table is bad, or, where the access reads, whose line is; a destination's lines meet no fault (R451). -/
def State.faultByte (s : State) (ag : Agent) (acc : Access) (parts : List (Nat × Nat)) (c : Cause) (v : DWord) : DWord :=
  if c ≠ cause.integrity then v
  else match parts.find? (fun p => match s.translate ag acc p.1 with
      | .error (.trap c _, _) => c == cause.integrity
      | .error _ => false
      | .ok ((pa, _), _) => acc != .dest && !s.lineOk (pa / 128)) with
    | some p => BitVec.ofNat 64 p.1
    | none => v

/-- The step that a stopped access of an engine comes to: a wait leaves the operation where it is. -/
def State.stopOp (s : State) (o : EngineOp) (x : Stop) (acc : Access) (parts : List (Nat × Nat)) : State :=
  match x with
  | .wait _ => s
  | .trap c v => s.failOp o c (s.faultByte o.agent acc parts c v)

/-- An earlier operation of the engine that publishes automatically has not published yet (R272, R273). -/
def State.earlierPublish (s : State) (o : EngineOp) : Bool :=
  s.ops.any fun p => decide (p.id < o.id) && sameEngine o.kind o.home p && !p.explicit
    && (p.phase == .queued || p.phase == .running || p.phase == .written) && !(s.scratchCopy p)

/-- AUTOMATIC_PUBLISH (R278, R279): the shadow becomes the destination at one step. -/
def State.autoPublish (s : State) (o : EngineOp) : Option State :=
  if o.phase = .written ∧ !o.explicit ∧ (o.kind = .copy ∨ o.kind = .blend)
      ∧ !s.earlierPublish o then
    some ((s.order.publishPuts o.ctx o.shadow).setOp { o with phase := .published, shadow := [] })
  else none

/-- READY_STEP (R278, R283): the slot becomes ready, STATUS is written, the flags are delivered. -/
def State.readyOp (s : State) (o : EngineOp) : Option State :=
  if o.phase = .written ∧ o.explicit ∧ !s.statusHeld o then
    let s := s.order
    let s := (s.settle o.ctx o.issuer o.slot o.gen 2 0 0).deliver o.ctx o.issuer o.flags
    some ((s.writeStatusBlock o 2 0 none).setOp { o with phase := .ready, flags := 0 })
  else none

/-- FINAL_STEP (R278): done, or fault with the cause that the operation met. -/
def State.finishOp (s : State) (o : EngineOp) : Option State :=
  if o.phase = .published ∧ !s.statusHeld o then some (s.finalOp o (if o.cause = 0 then 3 else 4) o.cause o.result) else none

/-! ### The copy engine -/

/-- An earlier copy of the core has not started (R272). -/
def State.earlierStart (s : State) (o : EngineOp) : Bool :=
  s.ops.any fun p => decide (p.id < o.id) && sameEngine o.kind o.home p && p.phase == .queued

/-- The destination pages of a copy, in rising rows and addresses. -/
def EngineOp.dstParts (o : EngineOp) : List (Nat × Nat) := (List.range o.rows).flatMap fun r => lineParts (o.dstRow r) o.len

/-- Translation of the pieces of a destination as an engine's writes, before the first of them (R277). -/
def State.destParts (s : State) (ag : Agent) : List (Nat × Nat) → Run (List (Nat × Nat × Nat) × State)
  | [] => .ok ([], s)
  | (va, n) :: r =>
    match s.translate ag .dest va with
    | .error e => .error e
    | .ok ((pa, _), s) => match State.destParts s ag r with
      | .error e => .error e
      | .ok (l, s) => .ok ((va, pa, n) :: l, s)

/-- A copy starts (R272, R275, R277): refused, empty, or with its destination checked. DEDUCED, unsafe: assumption 46 of the log. A fault with no faulting byte has RESULT 0.
DEDUCED, unsafe: assumption 121 of the log. -/
def State.startCopy (s : State) (o : EngineOp) : Option State :=
  if s.earlierStart o then none
  else if o.badCopy (s.windowOf o) then some (s.failOp o cause.engine 0)
  else if o.empty then some (s.setOp { o with phase := .published })
  else if s.scratchCopy o && !s.hasScore o then none
  else match s.destParts o.agent o.dstParts with
    | .error (x, s) => some (s.stopOp o x .dest o.dstParts)
    | .ok (l, s) => some (s.setOp { o with phase := .running, parts := l })

/-- One source read of a copy: the next line, or what is left of its row (R275). -/
def State.copyRead (s : State) (o : EngineOp) : Option State :=
  let r := o.progress / o.len
  let b := o.progress % o.len
  let a := (BitVec.ofNat 64 (o.srcRow r + b)).toNat
  let n := min (128 - a % 128) (o.len - b)
  match s.read o.agent .source 4 a n with
  | .error (.wait _, _) => none
  | .error (x, s) => some (s.stopOp o x .source [(a, n)])
  | .ok (bs, s) => some (s.order.setOp { o with progress := o.progress + n, buf := o.buf ++ bs })

/-- ENGINE_ACCESS_STEP of a copy: it starts, or reads one line. -/
def State.copyAccess (s : State) (o : EngineOp) : Option State :=
  match o.phase with
  | .queued => s.startCopy o
  | .running => if !o.pat && decide (o.progress < o.len * o.rows) then s.copyRead o else none
  | _ => none

/-- The bytes of row r of a copy: its pattern, or what was read (R275). -/
def EngineOp.rowBytes (o : EngineOp) (r : Nat) : List Byte :=
  if o.pat then (List.range o.len).map fun b => BitVec.ofNat 8 ((o.word 0).toNat / 256 ^ (b % 8))
  else (o.buf.drop (r * o.len)).take o.len

/-- Bytes over the checked pieces of a destination, in order: a later byte overwrites an earlier one. -/
def overParts : List (Nat × Nat × Nat) → List Byte → List Put → List Put
  | [], _, l => l
  | (va, pa, n) :: r, bs, l => overParts r (bs.drop n) ((fullPuts va pa (bs.take n)).foldl mergePut l)

/-- The shadow of a copy (R275). -/
def EngineOp.copyShadow (o : EngineOp) : List Put := overParts o.parts ((List.range o.rows).flatMap o.rowBytes) []

/-- Every source byte of a copy has been read. -/
def EngineOp.allRead (o : EngineOp) : Bool := o.phase == .running && (o.pat || decide (o.len * o.rows ≤ o.progress))

/-- ENGINE_WRITE_STEP of a copy to coherent memory (R245, R277): its bytes into its shadow. -/
def State.copyWrite (s : State) (o : EngineOp) : Option State :=
  if o.kind = .copy ∧ o.allRead ∧ !s.scratchCopy o then
    some (s.order.setOp { o with phase := .written, shadow := o.copyShadow, buf := [] })
  else none

/-- The lowest byte of a shadow in a line that it covers in part and whose check fails (R449, R451). -/
def State.badPartial (s : State) (l : List Put) : Option Put :=
  (l.filter fun p => !s.lineOk (p.pa / 128) && (l.filter fun q => q.pa / 128 == p.pa / 128).length != 128).foldl
    (fun b p => match b with
      | none => some p
      | some q => if p.va.toNat < q.va.toNat then some p else some q) none

/-- COPY_RETIRE (R258, R278, R449 to R451): every byte of a scratchpad copy at one step, its entry freed, its token done. Where a line
that it writes in part fails its check, the copy ends in fault with nothing written (R450, kind 2).
DEDUCED, unsafe: assumption 115 of the log. -/
def State.retireCopy (s : State) (o : EngineOp) : Option State :=
  if o.allRead ∧ s.scratchCopy o ∧ !s.statusHeld o then
    let s := s.order
    some (match s.badPartial o.copyShadow with
      | none => (s.publishPuts o.ctx o.copyShadow).closeOp o 3 0 0
      | some p =>
        let line := p.pa / 128
        let s := if s.quar.contains line then s else s.quarantine o.ctx 2 (p.va.toNat / 128 * 128) line (line * 128)
        s.closeOp o 4 cause.integrity p.va)
  else none

/-! ### Joining and testing (R280, R281) -/

/-- The slots that a mask names. -/
def maskSlots (m : DWord) : List Nat := (List.range 64).filter fun k => m.getLsbD k

/-- The mask of slots. -/
def slotMask (l : List Nat) : DWord := l.foldl (fun m k => m ||| (1 <<< k)) 0

/-- Every named slot that is final is freed (R280, R281). -/
def Thread.freeFinal (t : Thread) (l : List Nat) : Thread :=
  l.foldl (fun t k => if final (t.token k) then t.freeToken k else t) t

/-- RDV (R281). -/
def execRdv (rs1 rd : Reg) (s : State) : Out :=
  let l := maskSlots (s.t.readX rs1)
  finish (if l.any fun k => (s.t.token k).st == 1 then hold s
    else
      let bad := l.filter fun k => let x := (s.t.token k).st; x == 0 || x == 4 || x == 5
      .ok (({ s with t := s.t.freeFinal l } : State).setX rd (slotMask bad)).advance)

/-- The wait of a CWAIT (R281): `result` asks for the result, `limit` for a limit of cycles. -/
def cwaitStep (result : Bool) (token : DWord) (rd : Reg) (limit : DWord) (s : State) : Run State :=
  let k := tokenSlot token
  let tok := s.t.token k
  if s.t.stale token then .ok (s.setX rd 0).advance
  else if tok.st = 1 then
    .error (.wait { kind := .cwait, addr := token, arg := boolWord result, rd := rd, cycles := limit }, s)
  else if result then .ok (s.setX rd tok.result).advance
  else .ok (({ s with t := if final tok then s.t.freeToken k else s.t } : State).setX rd tok.status).advance

/-- CWAIT (R281). -/
def execCwait (rs2 rs1 rd : Reg) (s : State) : Out := finish (cwaitStep false (s.t.readX rs1) rd (s.t.readX rs2) s)

/-- CWAIT.r (R281). -/
def execCwaitR (rs2 rs1 rd : Reg) (s : State) : Out := finish (cwaitStep true (s.t.readX rs1) rd (s.t.readX rs2) s)

/-- The limit of a waiting CWAIT expires (R269, R281): state 7, or 0 for CWAIT.r; the slot stays pending.
DESIGN CHOICE, safe: assumption 80 of the log. -/
def State.cwaitExpire (s : State) : Option State :=
  match s.t.wait with
  | some w =>
    if w.kind = .cwait ∧ w.cycles ≠ 0 ∧ (s.t.token (tokenSlot w.addr)).st = 1 ∧ !s.t.stale w.addr then
      some (s.setX w.rd (if w.arg.getLsbD 0 then 0 else 7)).advance
    else none
  | none => none

/-- A waiting CWAIT looks at its token again (R281). Each look of a pending token takes one cycle of a limit. -/
def cwaitResume (w : WaitRec) (s : State) : Run State :=
  if w.cycles = 1 then
    match s.cwaitExpire with
    | some s => .ok s
    | none => cwaitStep (w.arg.getLsbD 0) w.addr w.rd 1 s
  else cwaitStep (w.arg.getLsbD 0) w.addr w.rd (if w.cycles = 0 then 0 else w.cycles - 1) s

/-- CTEST (R281). -/
def execCtest (rs1 : Reg) (cd : CReg) (s : State) : Out :=
  let w := s.t.readX rs1
  .next (s.setC cd (s.t.stale w || reached (s.t.token (tokenSlot w)))).advance

end Sys2Proof.Machine
end

