-- ==== Sys2Proof/Machine/Message.lean ====
section
/-! DEFINITION. Messages between threads and from the host: MSEND, MRECV, the delivery step and host messages (R284 to R286,
R402, R403, R406). -/

namespace Sys2Proof.Machine

/-- The context has message queue q (R284, R404). -/
def Context.hasQueue (c : Context) (q : Nat) : Bool := c.qcap.getD q 0 != 0

/-- The messages of queue q, oldest first. -/
def Context.queue (c : Context) (q : Nat) : List Message := kget [] c.queues q

/-- Replace queue q. -/
def Context.setQueue (c : Context) (q : Nat) (l : List Message) : Context := { c with queues := kset q l c.queues }

/-- The queue can take one more message. -/
def Context.queueRoom (c : Context) (q : Nat) : Bool := decide ((c.queue q).length < c.qcap.getD q 0)

/-- The delivery step: a message enters a queue of a context with its check value, and EV is set (R285, R392, R448). -/
def State.enqueue (s : State) (ctx q : Nat) (src : BitVec 16) (cls : BitVec 4) (payload : List Byte) (check : Word := 0) : State :=
  let s := s.order
  let c := s.ctxAt ctx
  let m : Message := { src := src, cls := cls, stamp := BitVec.ofNat 32 s.stamp, payload := payload, check := check }
  (s.setCtx ctx (c.setQueue q (c.queue q ++ [m]))).setEvents ctx

/-! ### MSEND -/

/-- The target member of a destination (R285). -/
def destMember (d : DWord) : Nat := field d 0 12
/-- The target queue of a destination (R285). -/
def destQueue (d : DWord) : Nat := field d 12 4

/-- The destination names no queue (R285). A queue of another member is known there alone. -/
def Context.badDest (c : Context) (d : DWord) : Bool :=
  field d 16 48 != 0 || decide (c.members ≤ destMember d) || (destMember d == c.pkgid && !c.hasQueue (destQueue d))

/-- A message leaves for another member, once every acknowledgement of the gang launch is in (R422). -/
def State.sendOut (s : State) (o : EngineOp) : State :=
  s.send o.ctx (destQueue o.addr) (.message (destMember o.addr) o.id o.buf)

/-- The send of an MSEND: its slot taken, its message on its way, or its token to end in fault (R285), with RESULT 0.
DEDUCED, unsafe: assumption 121 of the log. -/
def sendMessage (dest : DWord) (payload : List Byte) (rd : Reg) (s : State) : Run State :=
  match s.t.freeSlot with
  | none => raise s cause.tokenFull 0
  | some k =>
    let gen := (s.t.token k).gen
    let bad := s.ctx.badDest dest
    let remote := destMember dest != s.ctx.pkgid
    let o : EngineOp :=
      { id := s.nextOp + 1, kind := .message, issuer := s.pos, home := s.pos, ctx := s.t.ctx, level := s.t.level, slot := k
        gen := gen, addr := dest, buf := payload, cause := if bad then cause.destination else 0
        phase := if bad then .published else if remote && !s.ctx.acked then .queued else .running }
    let m : Transit :=
      { op := o.id, ctx := s.t.ctx, queue := destQueue dest, src := BitVec.ofNat 16 s.ctx.pkgid, sent := s.stamp, payload := payload }
    let s := { s with
      t := s.t.takeSlot k, ops := s.ops ++ [o], nextOp := s.nextOp + 1, net := if bad then s.net else s.net ++ [m] }
    let s := if !bad && remote && s.ctx.acked then s.sendOut o else s
    .ok (s.setX rd (tokenWord gen k)).advance

/-- MSEND (R285): a commit point (R429). -/
def execMsend (len : BitVec 4) (rs2 rs1 rd : Reg) (s : State) : Out :=
  finish (s.committing fun s =>
    let a := s.t.readX rs1
    if a.toNat % 16 ≠ 0 then raise s cause.misaligned a
    else match scalarRead a (16 * (len.toNat + 1)) s with
      | .error e => .error e
      | .ok (bs, s) => sendMessage (s.t.readX rs2) bs rd s)

/-! ### MRECV -/

/-- The header that MRECV writes (R286). -/
def Message.header (m : Message) : DWord :=
  (m.stamp ++ m.src ++ m.cls ++ (0 : BitVec 3) ++ BitVec.ofNat 9 m.payload.length).setWidth 64

/-- The oldest message of a queue leaves it for a buffer, at one scalar step (R286); with none the word waits. A message whose check
value does not match stays, and the word meets data-integrity (R449, R450). DESIGN CHOICE, unsafe: assumption 99 of the log. -/
def dequeue (b : DWord) (q : Nat) (rd : Reg) (s : State) : Run State :=
  match s.ctx.queue q with
  | [] => .error (.wait { kind := .mrecv, addr := b, arg := BitVec.ofNat 64 q, rd := rd }, s)
  | m :: r =>
    if m.check ≠ 0 then
      raise (({ s with ctx := s.ctx.setQueue q ({ m with quarantined := true } :: r) } : State).badEntry s.t.ctx m.quarantined) cause.integrity 0
    else match scalarWrite b m.payload s with
      | .error e => .error e
      | .ok s => .ok (({ s with ctx := s.ctx.setQueue q r } : State).setX rd m.header).advance

/-- MRECV and MRECV.try once their commit is past (R286). DEDUCED, unsafe: assumption 83 of the log. -/
def mrecvStep (try_ : Bool) (rs2 rs1 rd : Reg) (s : State) : Run State :=
  let b := s.t.readX rs1
  let w := s.t.readX rs2
  if field w 4 60 ≠ 0 ∨ !s.ctx.hasQueue (field w 0 4) then raise s cause.destination w
  else if b.toNat % 16 ≠ 0 then raise s cause.misaligned b
  else match s.checkStore s.agent b.toNat 256 with
    | .error e => .error e
    | .ok s =>
      if try_ && s.ctx.queue (field w 0 4) == [] then .ok (s.setX rd 0).advance else dequeue b (field w 0 4) rd s

/-- MRECV (R286): a commit point (R429). -/
def execMrecv (rs2 rs1 rd : Reg) (s : State) : Out := finish (s.committing (mrecvStep false rs2 rs1 rd))

/-- MRECV.try (R286): a commit point (R429). -/
def execMrecvTry (rs2 rs1 rd : Reg) (s : State) : Out := finish (s.committing (mrecvStep true rs2 rs1 rd))

/-- A parked MRECV looks at its queue again (R286). -/
def mrecvResume (w : WaitRec) (s : State) : Run State := dequeue w.addr w.arg.toNat w.rd s

/-! ### Delivery -/

/-- The destination of a message on its way: the operation's, or this package's queue for one that came from outside. -/
def State.transitDest (s : State) (m : Transit) : DWord :=
  match s.op m.op with
  | some o => o.addr
  | none => BitVec.ofNat 64 ((s.ctxAt m.ctx).pkgid + 2 ^ 12 * m.queue)

/-- Two messages have one sender: the slot that sent them, or the member they came from (R285). -/
def State.sameSender (s : State) (a b : Transit) : Bool :=
  a.ctx == b.ctx && match s.op a.op, s.op b.op with
    | some x, some y => x.home == y.home
    | none, none => a.src == b.src
    | _, _ => false

/-- Messages from one thread to one queue are delivered in send order (R285). -/
def State.mayDeliver (s : State) (i : Nat) (m : Transit) : Bool :=
  !(s.net.take i).any fun n => s.sameSender n m && s.transitDest n == s.transitDest m

/-- The token of a message becomes done (R285). -/
def State.messageDone (s : State) (m : Transit) : State :=
  match s.op m.op with
  | some o => (s.settle o.ctx o.issuer o.slot o.gen 3 0 0).dropOp o
  | none => s

/-- The delivery of the i-th message on its way, if it can be delivered now (R285, R422). -/
def State.deliverAt (s : State) (i : Nat) : Option State :=
  match s.net[i]? with
  | none => none
  | some m =>
    let c := s.ctxAt m.ctx
    let rest := { s with net := s.net.eraseIdx i }
    if !s.mayDeliver i m then none
    else if destMember (s.transitDest m) ≠ c.pkgid then if c.acked then some (rest.order.messageDone m) else none
    else if c.queueRoom m.queue then some ((rest.enqueue m.ctx m.queue m.src 0 m.payload m.check).messageDone m)
    else none

/-- MESSAGE_DELIVERY (R285). -/
def execMessageDelivery (msg : Nat) (s : State) : Out := .next ((s.deliverAt msg).getD s)

/-- The package's logical time passes a stamp that arrives with a message (R266). DEDUCED, safe: assumption 86 of the log. -/
def State.passStamp (s : State) (n : Nat) : State := { s with stamp := max s.stamp n }

/-- The context takes messages: it is defined and has not ended (R396, R403). -/
def Context.takesMessages (c : Context) : Bool := c.defined && !c.ended

/-- The payload has a length that a message may have (R406). -/
def payloadOk (l : List Byte) : Bool := decide (16 ≤ l.length) && decide (l.length ≤ 256) && l.length % 16 == 0

/-- HOST_MESSAGE (R402, R403, R406): a class-1 message from the host enters its queue, or is dropped and counted, or
answered with queue-full; one from a gang member is an MSEND on its way. -/
def execHostMessage (header : DerporHeader) (payload : List Byte) (s : State) : Out :=
  let c := s.ctxAt header.ctx
  let q := header.queue.toNat
  .next (if header.cls ≠ 1 ∨ header.op ≠ 0 ∨ header.reserved ≠ 0 ∨ !c.takesMessages then s.drop
    else if !payloadOk payload ∨ !c.hasQueue q then s.drop
    else if header.src = 0xFFFF then
      if c.queueRoom q then s.enqueue header.ctx q 0xFFFF 1 payload else s.order.report (.queueFull header.ctx q)
    else
      let s := s.passStamp header.stamp
      { s with net := s.net ++ [{ op := 0, ctx := header.ctx, queue := q, src := header.src, sent := header.stamp, payload := payload }] })

end Sys2Proof.Machine
end

