-- ==== Sys2Proof/Machine/Pipelines.lean ====
section
/-! DEFINITION. Declared pipelines: descriptors, stage queues, closed stages, the bay stage scheduler, EMIT and TAKE, and how
a thread and a launch end (R216, R217, R312 to R329, R393, R431, R436, R437). -/

namespace Sys2Proof.Machine

/-! ### Descriptors (R312) -/

/-- A doubleword of a descriptor. -/
def descWord (d : List DWord) (k : Nat) : DWord := d.getD k 0
/-- The number of stages less one. -/
def nsm1 (d : List DWord) : Nat := field (descWord d 1) 0 4
/-- Shared slots per bay. -/
def sharedSlots (d : List DWord) : Nat := field (descWord d 1) 8 6
/-- The quarters of a shared slot at launch. -/
def sharedQuarters (d : List DWord) : Nat := field (descWord d 1) 14 2 + 1
/-- START. -/
def startAddress (d : List DWord) : DWord := descWord d 0
/-- The second doubleword of a stage entry. -/
def stageWord (d : List DWord) (s : Nat) : DWord := descWord d (9 + 4 * s)
/-- ENTRY of a stage. -/
def stageEntry (d : List DWord) (s : Nat) : DWord := descWord d (8 + 4 * s)
/-- SUCC of a stage names stage j. -/
def stageSucc (d : List DWord) (s j : Nat) : Bool := j < 16 && (stageWord d s).getLsbD j
/-- The record size of a stage, in bytes. -/
def stageBytes (d : List DWord) (s : Nat) : Nat := 16 * (field (stageWord d s) 16 4 + 1)
/-- PRIO of a stage. -/
def stagePrio (d : List DWord) (s : Nat) : Nat := field (stageWord d s) 20 3
/-- CAP of a stage. -/
def stageCap (d : List DWord) (s : Nat) : Nat := field (stageWord d s) 32 16
/-- The quarters of a stage's threads. -/
def stageQuarters (d : List DWord) (s : Nat) : Nat := field (stageWord d s) 48 2 + 1
/-- RSV of a stage. -/
def stageReserved (d : List DWord) (s : Nat) : Nat := field (stageWord d s) 50 6
/-- The stages. -/
def stages (d : List DWord) : List Nat := List.range (nsm1 d + 1)

/-- The slots that a launch binds in each bay, in the order of R316: the stage each is reserved for, and its quarters. -/
def slotPlan (d : List DWord) : List (Option Nat × Nat) :=
  (stages d).flatMap (fun s => List.replicate (stageReserved d s) (some s, stageQuarters d s))
    ++ List.replicate (sharedSlots d) (none, sharedQuarters d)

/-- The queue memory of a pipeline in a bay, in bytes (R314). -/
def pipeBytes (d : List DWord) : Nat := ((stages d).map fun s => stageCap d s * stageBytes d s).sum

/-- The queue memory of a context's message queues, in bytes (R404). -/
def Context.queueBytes (c : Context) : Nat := 272 * c.qcap.sum

/-- NBAYS of a launch. -/
def EngineOp.nbays (o : EngineOp) : Nat := field (o.word 3) 16 16

/-- The descriptor that a launch has read. -/
def EngineOp.desc (o : EngineOp) : List DWord := toDwords 72 o.buf

/-- The queue memory that is reserved in the memory stack of a partition (R314, R404): by contexts, by pipelines, and by launches that
have passed their checks and wait to start. -/
def State.reserved (s : State) (part : Nat) : Nat :=
  ((s.allCtxs.filter fun c => c.2.defined && c.2.part == part).map fun c => c.2.queueBytes).sum
    + ((s.pipes.filter fun p => (s.ctxAt p.ctx).part == part).map fun p => pipeBytes p.desc).sum
    + ((s.ops.filter fun o => o.kind == .pipeline && o.phase == .running && (s.ctxAt o.ctx).part == part).map fun o =>
        pipeBytes o.desc * o.nbays).sum

/-- More queue memory can be reserved in the memory stack of a partition (R314, R404): as much as its slices hold. Where it lies is
the regulator's own. DESIGN CHOICE, unsafe: assumption 68 of the log. -/
def State.canReserve (s : State) (part n : Nat) : Bool :=
  decide (s.reserved part + n ≤ sliceBytes * s.owners.countP fun e => e.2 == part)

/-- The descriptor is well formed, but for the placement (R313). -/
def descOk (d : List DWord) (slots : Nat) : Bool :=
  field (descWord d 1) 4 4 == 0 && field (descWord d 1) 16 48 == 0
    && ((List.range 6).all fun k => descWord d (2 + k) == 0) && field (startAddress d) 0 2 == 0
    && ((stages d).all fun s =>
      field (stageEntry d s) 0 2 == 0 && field (stageWord d s) 23 9 == 0 && field (stageWord d s) 56 8 == 0
        && descWord d (10 + 4 * s) == 0 && descWord d (11 + 4 * s) == 0
        && ((List.range 16).all fun j => !stageSucc d s j || (decide (s < j) && decide (j ≤ nsm1 d)))
        && stageReserved d s != 0 && decide (stageReserved d s ≤ 32) && stageCap d s != 0)
    && decide (sharedSlots d ≤ 31) && decide ((slotPlan d).length ≤ slots)

/-! ### Places for threads (R216, R316, R383) -/

/-- The caps of a latency class: ROWCAP, TILECAP.ZN, TILECAP.K, SPCAP (R398). -/
def classCaps : Nat → Nat × Nat × Nat × Nat
  | 0 => (4, 1, 48, 0)
  | 1 => (8, 2, 96, 4)
  | 2 => (12, 4, 96, 8)
  | _ => (16, 4, 96, 8)

/-- The core has the caps of a class. -/
def CoreState.hasCaps (c : CoreState) (cls : Nat) : Bool := (c.rowcap, c.tilecapZn, c.tilecapK, c.spcap) == classCaps cls

/-- The regulator gives a core the caps of a class (R383). -/
def CoreState.withCaps (c : CoreState) (cls : Nat) : CoreState :=
  { c with
    rowcap := (classCaps cls).1, tilecapZn := (classCaps cls).2.1, tilecapK := (classCaps cls).2.2.1
    spcap := (classCaps cls).2.2.2 }

/-- The quarters of a core that a set of threads leaves idle (R216). -/
def idleQuarters (used : List (BitVec 4)) : BitVec 4 := ~~~(used.foldl (fun a b => a ||| b) 0)

/-- The lowest n bits of a mask of quarters. -/
def lowestQuarters (m : BitVec 4) (n : Nat) : BitVec 4 :=
  (((List.range 4).filter fun q => m.getLsbD q).take n).foldl (fun a q => a ||| (1 <<< q)) 0

/-- A slot taken in a plan: where it is, and its quarters. -/
structure Placed where
  pos : Nat
  quarters : BitVec 4
  stage : Option Nat
  deriving DecidableEq, Repr

/-- The threads that stand in a bay for a placement: slot and quarters. -/
abbrev Standing := List (Nat × BitVec 4)

/-- The first place in a bay for a thread of a width, among cores that may serve the context (R316). -/
def placeOne (usable : Nat → Bool) (bay : Nat) (st : Standing) (width : Nat) : Option (Nat × BitVec 4) :=
  (List.range 32).findSome? fun k =>
    let pos := 32 * bay + k
    let idle := idleQuarters ((st.filter fun e => coreOf e.1 == coreOf pos).map fun e => e.2)
    if usable (coreOf pos) && !st.any (fun e => e.1 == pos) && decide (width ≤ popCount idle) then
      some (pos, lowestQuarters idle width)
    else none

/-- Places in a bay for a plan, in order (R316), or none if some slot cannot be placed. -/
def placeAll (usable : Nat → Bool) (bay : Nat) : List (Option Nat × Nat) → Standing → Option (List Placed)
  | [], _ => some []
  | (stage, width) :: r, st =>
    match placeOne usable bay st width with
    | none => none
    | some (pos, q) => (placeAll usable bay r (st ++ [(pos, q)])).map fun l => { pos := pos, quarters := q, stage := stage } :: l

/-- The live threads of a bay. -/
def State.standing_ (s : State) (bay : Nat) : Standing :=
  (s.allThreads.filter fun e => e.2.live && bayOf e.1 == bay).map fun e => (e.1, e.2.quarters)

/-- The core may serve a context of a class: it has not failed, and it has the class's caps or no live thread (R383). -/
def State.coreUsable (s : State) (cls k : Nat) : Bool :=
  let c := s.coreAt k
  !c.failed && (c.hasCaps cls || !(s.allThreads.any fun e => e.2.live && coreOf e.1 == k))

/-- A thread starts in a slot: the core takes the caps of the class, and its quarters are powered (R55, R316, R383, R405).
DESIGN CHOICE, unsafe: assumption 50 of the log. -/
def State.startThread (s : State) (pos cls : Nat) (t : Thread) : State :=
  let c := s.coreAt (coreOf pos)
  (s.setCore (coreOf pos) { c.withCaps cls with lanecap := c.lanecap ||| t.quarters }).placeThread pos t

/-! ### Stage queues (R314, R319, R431) -/

/-- The pipeline of a launch in a bay. -/
def State.pipeOf (s : State) (launch bay : Nat) : Option Pipe := s.pipes.find? fun p => p.launch == launch && p.bay == bay

/-- The pipeline that the thread in focus is bound to (R316). -/
def State.myPipe (s : State) : Option Pipe :=
  match s.t.pipe with | some b => s.pipeOf b.launch b.bay | none => none

/-- Replace a pipeline. -/
def State.setPipe (s : State) (p : Pipe) : State :=
  { s with pipes := s.pipes.map fun q => if q.launch = p.launch ∧ q.bay = p.bay then p else q }

/-- The records of a stage, oldest first. -/
def Pipe.queue (p : Pipe) (st : Nat) : List StageRecord := kget [] p.queues st

/-- Replace the records of a stage. -/
def Pipe.setRecords (p : Pipe) (st : Nat) (l : List StageRecord) : Pipe := { p with queues := kset st l p.queues }

/-- The stage has room for one more record. -/
def Pipe.room (p : Pipe) (st : Nat) : Bool := decide ((p.queue st).length < stageCap p.desc st)

/-- A record at the tail of a stage's queue (R321). -/
def Pipe.push (p : Pipe) (st : Nat) (r : StageRecord) : Pipe := { p.setRecords st (p.queue st ++ [r]) with moves := p.moves + 1 }

/-- The thread belongs to a pipeline of a bay. -/
def Thread.inPipe (t : Thread) (p : Pipe) : Bool :=
  t.live && match t.pipe with | some b => b.launch == p.launch && b.bay == p.bay | none => false

/-- An RCAST that is pending may push to the stage (R319, R348): one of its rays names it, or its rays are not known yet. -/
def State.castOpen (s : State) (p : Pipe) (st : Nat) : Bool :=
  s.ops.any fun o => o.kind == .rcast && o.launch == p.launch && bayOf o.home == p.bay &&
    ((o.rays.any fun r => field r.d.d5 40 4 == st) || (o.phase == .queued && match o.stage with
      | some g => stageSucc p.desc g st
      | none => false))

/-- A thread of a pipeline of a bay holds a record of a stage, in its slot or in its image (R319, R323). -/
def State.holdsStage (s : State) (p : Pipe) (st : Nat) : Bool :=
  let holds := fun (e : Nat × Thread) => e.2.inPipe p && match e.2.held with | some h => h.stage == st | none => false
  s.allThreads.any holds || (s.ctxAt p.ctx).images.any holds

/-- The closed stages among those below a number, lowest first (R319). -/
def State.closedUpTo (s : State) (p : Pipe) : Nat → List Bool
  | 0 => []
  | n + 1 =>
    let l := s.closedUpTo p n
    let preds := (List.range n).all fun k => !stageSucc p.desc k n || l.getD k false
    l ++ [preds && p.queue n == [] && !s.castOpen p n && !s.holdsStage p n]

/-- A stage is closed (R319). -/
def State.closed (s : State) (p : Pipe) (st : Nat) : Bool := (s.closedUpTo p (st + 1)).getD st false

/-! ### The bay stage scheduler (R324 to R326) -/

/-- The stages that the slot in focus can ever serve (R324). -/
def State.servable (s : State) (p : Pipe) : List Nat :=
  match s.t.pipe with
  | some { stage := some st, .. } => [st]
  | _ => if s.ctx.det then (stages p.desc).filter fun st => stageQuarters p.desc st == sharedQuarters p.desc else stages p.desc

/-- The quarters that a slot could have: its own and the idle ones of its core. -/
def State.reachable (s : State) (pos : Nat) : BitVec 4 :=
  idleQuarters ((s.allThreads.filter fun e => e.2.live && e.1 != pos && coreOf e.1 == coreOf pos).map fun e => e.2.quarters)

/-- The quarters that the slot in focus could have. -/
def State.reachableQuarters (s : State) : BitVec 4 := s.reachable s.pos

/-- A slot may serve a stage now (R324): a reserved slot its own, a shared one what its quarters, or a deterministic context, allow. -/
def State.fits (s : State) (p : Pipe) (st pos : Nat) (t : Thread) : Bool :=
  match t.pipe with
  | some { stage := some x, .. } => x == st
  | _ => if s.ctx.det then stageQuarters p.desc st == sharedQuarters p.desc
    else decide (stageQuarters p.desc st ≤ popCount (s.reachable pos))

/-- The slot in focus may serve a stage now (R324). -/
def State.servesNow (s : State) (p : Pipe) (st : Nat) : Bool := (stages p.desc).contains st && s.fits p st s.pos s.t

/-- The stage that a slot's decision has given it, while it waits for its vector side (R322). -/
def Thread.decided (t : Thread) : Option Nat :=
  match t.wait with
  | some w => if w.kind = .take then w.words.head?.map fun d => d.toNat else none
  | none => none

/-- A decision is due for a parked slot: the bay has seen a push or a release since its last one (R324). -/
def Thread.due (t : Thread) (p : Pipe) : Bool :=
  match t.wait with | some w => w.kind == .take && w.arg.toNat != p.moves | none => false

/-- When a thread parked in TAKE, if it is parked. -/
def Thread.parkedSince (t : Thread) : Option Nat :=
  match t.wait with | some w => if w.kind = .take then some w.since else none | none => none

/-- The slot is reserved for a stage (R316). -/
def Thread.reservedSlot (t : Thread) : Bool := match t.pipe with | some { stage := some _, .. } => true | _ => false

/-- A slot decides before another (R326): one whose decision has given it a stage, then the reserved slots, then the shared slots,
each in the order in which they parked, and a slot that has not parked last. -/
def decidesBefore (a b : Nat × Thread) : Bool :=
  let rank := fun (t : Thread) => if t.decided.isSome then 0 else if t.parkedSince.isNone then 3 else if t.reservedSlot then 1 else 2
  let since := fun (t : Thread) => t.parkedSince.getD 0
  decide (rank a.2 < rank b.2) || (rank a.2 == rank b.2
    && (decide (since a.2 < since b.2) || (since a.2 == since b.2 && decide (a.1 < b.1))))

/-- A slot into a list in that order. -/
def insertDue (a : Nat × Thread) : List (Nat × Thread) → List (Nat × Thread)
  | [] => [a]
  | b :: r => if decidesBefore a b then a :: b :: r else b :: insertDue a r

/-- The other slots of the pipeline that have their record before the slot in focus, in order (R326): those whose decision has given
them a stage or is due. -/
def State.dueBefore (s : State) (p : Pipe) : List (Nat × Thread) :=
  (s.allThreads.filter fun e => e.1 != s.pos && e.2.inPipe p && (e.2.decided.isSome || e.2.due p)
    && decidesBefore e (s.pos, s.t)).foldr insertDue []

/-- The queue of a stage without its first takeable record, and that record (R322, R431). -/
def takeRecord : List StageRecord → Option (StageRecord × List StageRecord)
  | [] => none
  | r :: l => if r.takeable then some (r, l) else (takeRecord l).map fun x => (x.1, r :: x.2)

/-- The stage has a record that can be taken (R431). -/
def Pipe.hasRecord (p : Pipe) (st : Nat) : Bool := (takeRecord (p.queue st)).isSome

/-- Some thread of the pipeline in the bay is blocked in a plain EMIT (R325). -/
def State.blocked (s : State) (p : Pipe) : Bool :=
  s.allThreads.any fun e => e.2.inPipe p && match e.2.wait with | some w => w.kind == .emit | none => false

/-- The decisions that have passed a stage over (R325). -/
def Pipe.passes (p : Pipe) (st : Nat) : Nat := kget 0 p.passed st

/-- One candidate goes before another by priority, occupancy and number (R325). -/
def Pipe.prefers (p : Pipe) (a b : Nat) : Bool :=
  let pa := stagePrio p.desc a
  let pb := stagePrio p.desc b
  let oa := (p.queue a).length * stageCap p.desc b
  let ob := (p.queue b).length * stageCap p.desc a
  decide (pb < pa) || (pa == pb && (decide (ob < oa) || (oa == ob && decide (b < a))))

/-- The choice among candidates (R325). -/
def State.choose (s : State) (p : Pipe) (l : List Nat) : Option Nat :=
  match l with
  | [] => none
  | c :: r =>
    if s.blocked p then some (r.foldl max c)
    else match l.filter fun st => decide (4096 ≤ p.passes st) with
      | a :: rs => some (rs.foldl min a)
      | [] => some (r.foldl (fun best x => if p.prefers x best then x else best) c)

/-- A decision counts against the candidates that it did not choose (R325). -/
def Pipe.count (p : Pipe) (l : List Nat) (chosen : Nat) : Pipe :=
  { p with passed := l.foldl (fun m st => kset st (if st = chosen then 0 else p.passes st + 1) m) p.passed }

/-- The pipeline without the first takeable record of a stage. -/
def Pipe.withoutFirst (p : Pipe) (st : Nat) : Pipe :=
  match takeRecord (p.queue st) with
  | some (_, rest) => p.setRecords st rest
  | none => p

/-- The pipeline as it stands behind the decisions of some slots, each of which takes at most one record: of the stage that it has been
given, or of the one that it would be given (R325, R326). -/
def State.behind (s : State) : List (Nat × Thread) → Pipe → Pipe
  | [], p => p
  | e :: r, p => s.behind r (match e.2.decided with
    | some st => p.withoutFirst st
    | none =>
      let l := (stages p.desc).filter fun st => s.fits p st e.1 e.2 && p.hasRecord st
      match s.choose p l with
      | some st => (p.count l st).withoutFirst st
      | none => p)

/-- The candidates of a decision (R324): the stages that the slot in focus may serve with a record that it may take, once the slots
before it have had theirs (R326, R431). -/
def State.candidates (s : State) (p : Pipe) : List Nat :=
  let q := s.behind (s.dueBefore p) p
  (stages p.desc).filter fun st => s.servesNow p st && q.hasRecord st

/-! ### EMIT (R320, R321, R329) -/

/-- A thread waits in a plain EMIT to a stage since before a moment; with no moment, any. -/
def State.earlierEmit (s : State) (p : Pipe) (st : Nat) (since : Option Nat) : Bool :=
  s.allThreads.any fun e => e.1 != s.pos && e.2.inPipe p && match e.2.wait with
    | some w => w.kind == .emit && w.arg.toNat == st && match since with
      | none => true
      | some n => decide (w.since < n)
    | none => false

/-- The push step (R321, R428, R431): the record is read and appended, with its key; in a task of a deterministic context it
is held until its segment commits. -/
def pushStep (p : Pipe) (st : Nat) (a : DWord) (s : State) : Run State :=
  match scalarRead a (stageBytes p.desc st) s with
  | .error e => .error e
  | .ok (bs, s) =>
    let r := s.newChild
    let s := r.1
    .ok (s.setPipe (p.push st { bytes := bs, key := r.2.2, node := r.2.1, takeable := !s.inTask, byPos := s.pos }))

/-- What EMIT checks before it looks at the queue: the pipeline, the stage, and the record's address (R321). -/
def emitCheck (rs2 rs1 : Reg) (s : State) : Run ((Pipe × Nat × DWord) × State) :=
  match s.t.held, s.myPipe with
  | some h, some p =>
    let st := (s.t.readX rs2).toNat
    let a := s.t.readX rs1
    if nsm1 p.desc < st ∨ !stageSucc p.desc h.stage st then raise s cause.pipeline 2
    else if a.toNat % 16 ≠ 0 then raise s cause.misaligned a
    else match s.checkLoad s.agent a.toNat (stageBytes p.desc st) with
      | .error e => .error e
      | .ok s => .ok ((p, st, a), s)
  | _, _ => raise s cause.pipeline 1

/-- The record of a plain EMIT that waits. -/
def emitWait (st : Nat) (a : DWord) (since : Nat) : WaitRec :=
  { kind := .emit, addr := a, arg := BitVec.ofNat 64 st, since := since }

/-- EMIT (R321): waits while the queue is full or an earlier EMIT waits for it. -/
def execEmit (rs2 rs1 : Reg) (s : State) : Out :=
  finish (match emitCheck rs2 rs1 s with
    | .error e => .error e
    | .ok ((p, st, a), s) =>
      if p.room st && !s.earlierEmit p st none then
        match pushStep p st a s with
        | .error e => .error e
        | .ok s => .ok s.advance
      else .error (.wait (emitWait st a s.tick), { s with tick := s.tick + 1 }))

/-- EMIT.try (R321): a full queue clears the condition bit. -/
def execEmitTry (cd : CReg) (rs2 rs1 : Reg) (s : State) : Out :=
  finish (match emitCheck rs2 rs1 s with
    | .error e => .error e
    | .ok ((p, st, a), s) =>
      if p.room st && !s.earlierEmit p st none then
        match pushStep p st a s with
        | .error e => .error e
        | .ok s => .ok (s.setC cd true).advance
      else .ok (s.setC cd false).advance)

/-- A blocked EMIT pushes once an entry is free for it (R321). -/
def emitResume (w : WaitRec) (s : State) : Run State :=
  match s.myPipe with
  | none => .error (.wait w, s)
  | some p =>
    let st := w.arg.toNat
    if p.room st && !s.earlierEmit p st (some w.since) then
      match pushStep p st w.addr s with
      | .error e => .error e
      | .ok s => .ok s.advance
    else .error (.wait w, s)

/-! ### TAKE (R322, R327) -/

/-- The record that the thread in focus holds is released, and its task's digest is final (R318, R436). -/
def State.release (s : State) : State :=
  match s.t.held with
  | none => s
  | some h =>
    ({ s with
      t := { s.t with held := none }
      segs := s.segs.filter fun e => e.1 != s.pos
      ctx := { s.ctx with nodes := s.ctx.nodes.map fun n => if n.id = h.node then { n with digest := s.t.digest } else n } } : State).stir s.t.pipe

/-- The partition of the slot in focus takes another width (R217, R327): its lanes start over. DEDUCED, unsafe: assumption 51 of the log. -/
def State.resize (s : State) (width : Nat) : State :=
  let q := lowestQuarters s.reachableQuarters width
  let t := s.t
  { s with
    core := { s.core with lanecap := s.core.lanecap ||| q }
    t := { t with
      quarters := q, v := Vector.replicate 32 [], p := Vector.replicate 16 [], tags := Vector.replicate 32 0x7FF
      vl := 0, vtype := 0x80000000, dvl := 0, dvtype := 0x80000000 } }

/-- The task of a taken record begins (R322, R427, R429, R432). DEDUCED, safe: assumption 49 of the log. -/
def State.beginTask (s : State) (st : Nat) (r : StageRecord) : State :=
  let s := { s with t := { s.t with
    stageid := BitVec.ofNat 16 st, taskix := r.key, digest := 0, children := 0, node := r.node
    held := some { stage := st, node := r.node } } }
  s

/-- The take step of a record of the stage that a decision has given (R322). Where the stage changes the partition it waits, with the
stage kept, for the vector queue and the posted set to be empty; in a trap handler not for the held entries (R469). A record
whose check value does not match stays, and the word meets data-integrity (R449, R450). -/
def takeStep (p : Pipe) (st : Nat) (b : DWord) (cd : CReg) (w : WaitRec) (s : State) : Run State :=
  let width := stageQuarters p.desc st
  let changes := !s.ctx.det && width != popCount s.t.quarters
  if changes && !(s.t.queueDone && s.t.posted == []) then .error (.wait { w with words := [BitVec.ofNat 64 st] }, s)
  else match takeRecord (p.queue st) with
    | none => .error (.wait { w with words := [], arg := BitVec.ofNat 64 (p.moves + 1) }, s)
    | some (r, rest) =>
      if r.check ≠ 0 then
        let l := (p.queue st).map fun x => if x == r then { r with quarantined := true } else x
        raise ((s.setPipe (p.setRecords st l)).badEntry s.t.ctx r.quarantined) cause.integrity 0
      else match scalarWrite b r.bytes s with
      | .error e => .error e
      | .ok s =>
        let s := s.setPipe (p.setRecords st rest)
        let s := if changes then s.resize width else s
        let s := ((s.beginTask st r).setC cd true).complete (stageEntry p.desc st)
        .ok (if s.inTask then s.beginSegment 1 else s)

/-- A decision for the slot in focus (R322, R324, R325): it takes a record, ends, or is parked. -/
def takeDecide (w : WaitRec) (s : State) : Run State :=
  match s.myPipe with
  | none => .ok (s.setC w.cd false).advance
  | some p =>
    let l := s.candidates p
    match s.choose p l with
    | some st => takeStep (p.count l st) st w.addr w.cd w (s.setPipe (p.count l st))
    | none =>
      if (s.servable p).all (fun st => s.closed p st) then .ok (s.setC w.cd false).advance
      else .error (.wait { w with words := [], arg := BitVec.ofNat 64 p.moves }, s)

/-- TAKE once its commit is past (R322). DEDUCED, safe: assumption 48 of the log. -/
def takeBody (rs1 : Reg) (cd : CReg) (s : State) : Run State :=
  let b := s.t.readX rs1
  if b.toNat % 16 ≠ 0 then raise s cause.misaligned b
  else match s.checkStore s.agent b.toNat 256 with
    | .error e => .error e
    | .ok s =>
      let w : WaitRec := { kind := .take, addr := b, cd := cd, since := s.tick }
      takeDecide w { s.release with tick := s.tick + 1 }

/-- TAKE (R322): a commit point (R429). -/
def execTake (rs1 : Reg) (cd : CReg) (s : State) : Out := finish (s.committing (takeBody rs1 cd))

/-- A slot that waits in TAKE goes on: with the stage that its decision has given it, or with another decision once a push or a
release has occurred in the bay (R322, R324). -/
def takeResume (w : WaitRec) (s : State) : Run State :=
  match s.myPipe, s.t.decided with
  | none, _ => takeDecide w s
  | some p, some st => takeStep p st w.addr w.cd w s
  | some p, none => if w.arg.toNat = p.moves then .error (.wait w, s) else takeDecide w s

/-! ### The end of a launch (R413, R436, R437) -/

/-- The child numbers on the way from the root to a node. -/
def nodePath (nodes : List TaskNode) : Nat → Nat → List Nat
  | 0, _ => []
  | n + 1, id => match nodes.find? fun x => x.id == id with
    | none => []
    | some x => nodePath nodes n x.parent ++ [x.c]

/-- Lexicographic order of paths: a node before its children, children in rising number (R427). -/
def pathBefore : List Nat → List Nat → Bool
  | [], [] => false
  | [], _ :: _ => true
  | _ :: _, [] => false
  | a :: r, b :: q => if a = b then pathBefore r q else decide (a < b)

/-- The order in which held adds are performed (R437). DEDUCED, safe: assumption 82 of the log. -/
def addBefore (nodes : List TaskNode) (a b : HeldAdd) : Bool :=
  let n := nodes.length + 1
  let pa := nodePath nodes n a.node
  let pb := nodePath nodes n b.node
  pathBefore pa pb || (pa == pb && (decide (a.seq < b.seq) || (a.seq == b.seq && decide (a.idx < b.idx))))

/-- A held add into a list in that order. -/
def insertAdd (nodes : List TaskNode) (a : HeldAdd) : List HeldAdd → List HeldAdd
  | [] => [a]
  | b :: r => if addBefore nodes a b then a :: b :: r else b :: insertAdd nodes a r

/-- A held floating-point add of a context performed, where its line is good: rounded once, with its flags (R159, R437, R450). -/
def State.performHeld (s : State) (ctx : Nat) (a : HeldAdd) : Flags × State :=
  let c := s.checkAdd ctx a
  if c.1 then
    let old := ofBytes (bytesAt c.2.mem a.pa a.bytes)
    let r := addElem a.bytes a.bf16 a.frm a.flush old a.val.toNat
    (r.2, c.2.physWrite a.pa (toBytes a.bytes r.1))
  else (0, c.2)

/-- The held adds of a launch performed in logical order, with their flags (R437). -/
def State.performAdds (s : State) (ctx launch : Nat) : Flags × State :=
  let c := s.ctxAt ctx
  let l := (c.adds.filter fun a => a.launch == launch).foldr (insertAdd c.nodes) []
  let r := l.foldl (fun (x : Flags × State) a => let y := x.2.performHeld ctx a; (x.1 ||| y.1, y.2)) (0, s)
  let c := r.2.ctxAt ctx
  (r.1, r.2.setCtx ctx { c with adds := c.adds.filter fun a => a.launch != launch })

/-- One fold of the launch digest (R436). -/
def foldTree (acc x : DWord) : DWord :=
  let lo := mix (acc.setWidth 32 ^^^ x.setWidth 32) ((acc >>> 32).setWidth 32)
  let hi := mix ((acc >>> 32).setWidth 32 ^^^ (x >>> 32).setWidth 32) lo
  (hi ++ lo).setWidth 64

/-- The children of a node, in rising number. -/
def childNodes (nodes : List TaskNode) (id : Nat) : List TaskNode :=
  let ins := fun (a : TaskNode) (l : List TaskNode) => (l.takeWhile fun b => decide (b.c < a.c)) ++ a :: l.dropWhile fun b => decide (b.c < a.c)
  (nodes.filter fun n => n.parent == id).foldr ins []

/-- The digest of the tree below a node (R436). -/
def treeDigest (nodes : List TaskNode) : Nat → TaskNode → DWord
  | 0, n => n.digest
  | k + 1, n => (childNodes nodes n.id).foldl (fun acc ch => foldTree acc (treeDigest nodes k ch)) n.digest

/-- The key under which the launch digest is recorded or checked (R436). -/
def launchKey (key : DWord) : DWord := taskKey key 0xFFFFFFFF ||| 1

/-- The key of ray i of an RCAST (R427). -/
def rayKey (o : EngineOp) (i : Nat) : DWord := taskKey o.key (BitVec.ofNat 32 (i + 1))

/-- Every ray of an RCAST is a child of it, admitted or skipped (R427). -/
def State.rayNodes (s : State) (o : EngineOp) : State :=
  if (s.ctxAt o.ctx).det then
    (List.range (o.word 1).toNat).foldl (fun s i => (s.addNode o.ctx o.node (i + 1) (rayKey o i)).1) s
  else s

/-- The rays of the RCASTs of a launch that no admission step has read yet stand in its tree (R427, R436). -/
def State.queuedRays (s : State) (launch : Nat) : State :=
  (s.ops.filter fun o => o.kind == .rcast && o.phase == .queued && o.launch == launch && decide ((o.word 1).toNat ≤ 65536)).foldl
    State.rayNodes s

/-- The launch's last thread has ended (R413, R436, R437): held adds, launch digest, and the token. -/
def State.endLaunch (s : State) (o : EngineOp) : State :=
  let s := s.queuedRays o.id
  let c := s.ctxAt o.ctx
  let r := s.order.performAdds o.ctx o.id
  let s := r.2.deliver o.ctx o.issuer r.1
  let root : TaskNode := { id := o.node, parent := 0, c := 0, key := o.key, digest := 0 }
  let d := treeDigest c.nodes (c.nodes.length + 1) root
  let k := if c.det then s.checkDigest c.diglog c.digctl (launchKey o.key) d else (true, s)
  let s := { k.2 with pipes := k.2.pipes.filter fun p => p.launch != o.id }
  if k.1 then s.finalOp o 3 0 0
  else s.endContext o.ctx cause.digest 0 (launchKey o.key) (stampWord s.stamp)

/-- A thread of a launch is still there: live, or in an image. -/
def State.launchLives (s : State) (ctx launch : Nat) : Bool :=
  let has := fun (t : Thread) => match t.pipe with | some b => b.launch == launch | none => false
  (s.allThreads.any fun e => e.2.live && e.2.ctx == ctx && has e.2) || (s.ctxAt ctx).images.any fun e => has e.2

/-! ### The end of a thread (R282, R318, R393) -/

/-- The operations of the thread in focus go on for nobody (R282). -/
def State.orphan (s : State) : State :=
  { s with ops := s.ops.map fun o => if o.issuer = s.pos ∧ o.ctx = s.t.ctx then { o with issuer := nobody } else o }

/-- The thread in focus ends (R393): its record, tile unit, lanes and slot are free; its launch ends with its last thread,
and the context is finished in the package with its last thread, live or switched out. -/
def State.endThread (s : State) : State :=
  let ctx := s.t.ctx
  let launch := s.t.pipe.map fun b => b.launch
  let s := s.order.release.orphan
  let s := { s with core := s.core.releaseTile (s.pos % 4), t := idleThread s.t }
  let s := match launch with
    | none => s
    | some n => if s.launchLives ctx n then s
      else match s.op n with
        | some o => s.endLaunch o
        | none => s
  if s.allThreads.any (fun e => e.2.live && e.2.ctx == ctx) || (s.ctxAt ctx).images != [] || (s.ctxAt ctx).ended then s
  else s.report (.finished ctx)

/-- HALT once its commit is past (R393, R469): a handler's HALT discards the held entries. -/
def haltStep (s : State) : Run State :=
  if (!s.t.inTrap && s.t.queue != []) || s.t.posted != [] then hold s else .ok s.endThread

/-- HALT (R393): a commit point (R429). -/
def execHalt (s : State) : Out :=
  finish (match s.commitPoint with
    | .error e => .error e
    | .ok (.undone, s) => .ok s
    | .ok (.passed, s) => haltStep s)

end Sys2Proof.Machine
end

