-- ==== Sys2Proof/Machine/Mesh.lean ====
section
/-! DEFINITION. Meshes as the marcher reads them, and its exact geometry: descriptors, cells, fields, planes, exit faces,
boxes and triangles (R338 to R341, R345, R346, R349, R350). -/

namespace Sys2Proof.Machine

/-! ### Values -/

/-- A point or direction. -/
structure Vec3 where
  x : Rat
  y : Rat
  z : Rat
  deriving DecidableEq, Repr

/-- The sum of two vectors. -/
def Vec3.add (a b : Vec3) : Vec3 := ⟨a.x + b.x, a.y + b.y, a.z + b.z⟩
/-- The difference of two vectors. -/
def Vec3.sub (a b : Vec3) : Vec3 := ⟨a.x - b.x, a.y - b.y, a.z - b.z⟩
/-- A vector scaled. -/
def Vec3.scale (t : Rat) (a : Vec3) : Vec3 := ⟨t * a.x, t * a.y, t * a.z⟩
/-- The scalar product. -/
def Vec3.dot (a b : Vec3) : Rat := a.x * b.x + a.y * b.y + a.z * b.z
/-- The vector product. -/
def Vec3.cross (a b : Vec3) : Vec3 := ⟨a.y * b.z - a.z * b.y, a.z * b.x - a.x * b.z, a.x * b.y - a.y * b.x⟩

/-- A plane (d, a, b, c) (R340). -/
structure Plane where
  d : Rat
  n : Vec3
  deriving DecidableEq, Repr

/-- The plane value of a point (R340). -/
def Plane.at (p : Plane) (v : Vec3) : Rat := p.n.dot v + p.d

/-- The exact value of an FP32 word; NaN and infinity have none (R341). -/
def finite (w : Nat) : Option Rat :=
  match f32.value (w % 2 ^ 32) with
  | .num _ q => some q
  | _ => none

/-- The exact values of FP32 words; none if any is NaN or infinite. -/
def finites : List Nat → Option (List Rat)
  | [] => some []
  | w :: r => match finite w, finites r with
    | some q, some l => some (q :: l)
    | _, _ => none

/-- The i-th FP32 word of bytes. -/
def wordAt (bs : List Byte) (i : Nat) : Nat := ofBytes ((bs.drop (4 * i)).take 4)

/-- `n` FP32 words of bytes from one on. -/
def wordsAt (bs : List Byte) (i n : Nat) : List Nat := (List.range n).map fun k => wordAt bs (i + k)

/-- Three values as a vector. -/
def vecOf (l : List Rat) : Vec3 := ⟨l.getD 0 0, l.getD 1 0, l.getD 2 0⟩

/-! ### Reads of an engine -/

/-- Why a step of a ray or walk ends: a cause, or a degenerate value (R341, R357). -/
inductive MeshStop where
  | fault (c : Cause)
  | degenerate
  | wait
  deriving DecidableEq, Repr

/-- A computation of the marcher on the state. -/
abbrev MeshRun (α : Type) := Except (MeshStop × State) α

/-- A read by the marcher (R357). -/
def meshRead (o : EngineOp) (a n : Nat) (s : State) : MeshRun (List Byte × State) :=
  match s.read o.agent .source 4 (a % 2 ^ 64) n with
  | .ok r => .ok r
  | .error (.wait _, s) => .error (.wait, s)
  | .error (.trap c _, s) => .error (.fault c, s)

/-! ### Mesh descriptors (R338, R339) -/

/-- A mesh as its descriptor gives it. -/
structure Mesh where
  kind : Nat
  cells : Nat
  verts : Nat
  fields : Nat
  ncell : Nat
  nprim : Nat
  comps : Nat
  deriving DecidableEq, Repr

/-- The descriptor of bytes, if it keeps the rules of R339. -/
def meshOf (bs : List Byte) : Option Mesh :=
  let w := fun k => ofBytes ((bs.drop (8 * k)).take 8)
  let k := bits (w 5) 0 2
  let m : Mesh :=
    { kind := k, cells := w 0, verts := w 1, fields := w 2, ncell := bits (w 4) 0 32, nprim := bits (w 4) 32 32
      comps := bits (w 5) 2 2 + 1 }
  if w 3 = 0 ∧ bits (w 5) 4 60 = 0 ∧ w 6 = 0 ∧ w 7 = 0 ∧ k ≠ 3 ∧ m.ncell ≠ 0 ∧ m.cells % 64 = 0
      ∧ (k ≠ 0 ∨ m.verts % 16 = 0) ∧ m.fields % 16 = 0 then some m
  else none

/-- The mesh at an address, for the context's mode and a loaded control store (R338, R339, R370). -/
def readMesh (o : EngineOp) (a : Nat) (s : State) : MeshRun (Mesh × State) :=
  let mode := (s.ctxAt o.ctx).marchsel.toNat
  if a % 64 ≠ 0 ∨ !s.loadedModes.contains mode then .error (.fault cause.engine, s)
  else match meshRead o a 64 s with
    | .error e => .error e
    | .ok (bs, s) => match meshOf bs with
      | none => .error (.fault cause.engine, s)
      | some m => if m.kind ≠ mode then .error (.fault cause.engine, s) else .ok (m, s)

/-! ### Cells (R340) -/

/-- A cell: its planes, its neighbours, its apex values and vertices (tetrahedral), and its centroid where one is read; or a
degenerate one, of which only the vertices count. -/
structure Cell where
  planes : List Plane
  nbrs : List Nat
  apex : List Rat
  centroid : Vec3
  verts : List Nat
  degenerate : Bool := false
  deriving DecidableEq, Repr

/-- A degenerate cell, with its vertices. -/
def Cell.broken (verts : List Nat) : Cell :=
  { planes := [], nbrs := [], apex := [], centroid := ⟨0, 0, 0⟩, verts := verts, degenerate := true }

/-- No neighbour. -/
def boundary : Nat := 2 ^ 32 - 1

/-- The first n FP32 words at each of some addresses, in order. -/
def readRows (o : EngineOp) (n : Nat) : List Nat → State → MeshRun (List (List Nat) × State)
  | [], s => .ok ([], s)
  | a :: r, s =>
    match meshRead o a (4 * n) s with
    | .error e => .error e
    | .ok (bs, s) => match readRows o n r s with
      | .error e => .error e
      | .ok (ls, s) => .ok (wordsAt bs 0 n :: ls, s)

/-- The exact values of rows of words; none if any is NaN or infinite (R341). -/
def rowValues : List (List Nat) → Option (List (List Rat))
  | [] => some []
  | ws :: r => match finites ws, rowValues r with
    | some l, some ls => some (l :: ls)
    | _, _ => none

/-- The join of three points. -/
def planeOf (a b c : Vec3) : Plane :=
  let n := (b.sub a).cross (c.sub a)
  ⟨-(n.dot a), n⟩

/-- A plane turned so that a point has a negative value. -/
def Plane.against (p : Plane) (v : Vec3) : Plane := if 0 < p.at v then ⟨-p.d, Vec3.scale (-1) p.n⟩ else p

/-- The faces of a tetrahedron, face i opposite vertex i (R340). -/
def tetFaces (vs : List Vec3) : List Plane :=
  let v := fun k => vs.getD k ⟨0, 0, 0⟩
  [(planeOf (v 1) (v 2) (v 3)).against (v 0), (planeOf (v 0) (v 2) (v 3)).against (v 1),
    (planeOf (v 0) (v 1) (v 3)).against (v 2), (planeOf (v 0) (v 1) (v 2)).against (v 3)]

/-- The bytes of a cell, and the neighbours of its faces below the face count (R340): the cell's own index, and each neighbour
but the boundary, lies below NCELL. -/
def readCellBytes (o : EngineOp) (m : Mesh) (c : Nat) (s : State) : MeshRun ((List Byte × List Nat) × State) :=
  if m.ncell ≤ c then .error (.fault cause.engine, s)
  else
    let w := if m.kind = 0 then 32 else 192
    match meshRead o (m.cells + w * c) w s with
    | .error e => .error e
    | .ok (bs, s) =>
      let l := if m.kind = 0 then wordsAt bs 4 4 else wordsAt bs 32 (min 8 (bs.getD 172 0).toNat)
      if l.any fun n => n != boundary && decide (m.ncell ≤ n) then .error (.fault cause.engine, s) else .ok ((bs, l), s)

/-- The neighbours of a cell (R340). -/
def readNeighbours (o : EngineOp) (m : Mesh) (c : Nat) (s : State) : MeshRun (List Nat × State) :=
  match readCellBytes o m c s with
  | .error e => .error e
  | .ok ((_, l), s) => .ok (l, s)

/-- A tetrahedral cell of its vertices' values (R340). -/
def tetCell (idx nbrs : List Nat) (rows : List (List Nat)) : Cell :=
  match rowValues rows with
  | none => Cell.broken idx
  | some ls =>
    let vs := ls.map vecOf
    let ps := tetFaces vs
    let apex := (ps.zip vs).map fun x => x.1.at x.2
    if apex.any fun q => q == 0 then Cell.broken idx
    else { planes := ps, nbrs := nbrs, apex := apex, centroid := Vec3.scale (1 / 4) (vs.foldl Vec3.add ⟨0, 0, 0⟩), verts := idx }

/-- A polyhedral cell of its bytes (R340). -/
def polyCell (needCentroid : Bool) (bs : List Byte) (nbrs : List Nat) : Cell :=
  let nf := (bs.getD 172 0).toNat
  if nf = 0 ∨ 8 < nf ∨ (bs.drop 173).any (fun b => b != 0) then Cell.broken []
  else match finites (wordsAt bs 0 (4 * nf)), finites (if needCentroid then wordsAt bs 40 3 else []) with
    | some l, some g =>
      { planes := (List.range nf).map fun k =>
          ⟨l.getD (4 * k) 0, ⟨l.getD (4 * k + 1) 0, l.getD (4 * k + 2) 0, l.getD (4 * k + 3) 0⟩⟩
        nbrs := nbrs, apex := [], centroid := vecOf g, verts := [] }
    | _, _ => Cell.broken []

/-- A cell (R340, R341), degenerate also where a value that is read is NaN or infinite. -/
def readCell (o : EngineOp) (m : Mesh) (needCentroid : Bool) (c : Nat) (s : State) : MeshRun (Cell × State) :=
  match readCellBytes o m c s with
  | .error e => .error e
  | .ok ((bs, nbrs), s) =>
    if m.kind = 0 then
      match readRows o 3 ((wordsAt bs 0 4).map fun v => m.verts + 16 * v) s with
      | .error e => .error e
      | .ok (rows, s) => .ok (tetCell (wordsAt bs 0 4) nbrs rows, s)
    else .ok (polyCell needCentroid bs nbrs, s)

/-! ### Exit faces (R345) -/

/-- The candidates of a line from a point along a direction: the face, and its exact parameter. -/
def exits (ps : List Plane) (entry : Nat) (org dir : Vec3) : List (Nat × Rat) :=
  (ps.zipIdx.filter fun p => p.2 != entry && decide (0 < p.1.n.dot dir)).map fun p => (p.2, -(p.1.at org) / p.1.n.dot dir)

/-- The exit face: the least parameter, ties to the lowest face. -/
def exitFace : List (Nat × Rat) → Option (Nat × Rat)
  | [] => none
  | e :: r => some (r.foldl (fun b x => if x.2 < b.2 then x else b) e)

/-- The lowest face of a cell whose neighbour is a given cell, or 15 (R345). -/
def entryFace (nbrs : List Nat) (c : Nat) : Nat :=
  match nbrs.zipIdx.find? fun n => n.1 == c with
  | some n => n.2
  | none => 15

/-! ### Fields (R346) -/

/-- The words of the field data of a cell: of its vertices, or its constants and gradients, by component (R340). -/
def readFields (o : EngineOp) (m : Mesh) (c : Nat) (cell : Cell) (s : State) : MeshRun (List (List Nat) × State) :=
  if m.fields = 0 then .ok ([], s)
  else if m.kind = 0 then readRows o m.comps (cell.verts.map fun v => m.fields + 16 * v) s
  else readRows o 4 ((List.range m.comps).map fun k => m.fields + 64 * c + 16 * k) s

/-- A factor of a field times an FP32 word, as a term of a sum; an exact 0 of the marcher is positive (R64, R341, R346).
DEDUCED, unsafe: assumption 104 of the log. -/
def fieldTerm (w : Rat) (x : Nat) : FVal :=
  let v := f32.value (x % 2 ^ 32)
  .num (decide (w < 0) != v.neg) (w * v.rat)

/-- The terms of component k of a field at a point, exactly (R346). -/
def fieldTerms (m : Mesh) (cell : Cell) (data : List (List Nat)) (p : Vec3) (k : Nat) : List FVal :=
  if m.kind = 0 then
    (List.range 4).map fun i =>
      fieldTerm ((cell.planes.getD i ⟨0, ⟨0, 0, 0⟩⟩).at p / cell.apex.getD i 1) ((data.getD i []).getD k 0)
  else
    let d := fun j => (data.getD k []).getD j 0
    let v := p.sub cell.centroid
    [fieldTerm 1 (d 0), fieldTerm v.x (d 1), fieldTerm v.y (d 2), fieldTerm v.z (d 3)]

/-- The four components of a field at a point, rounded once, with flags (R341, R346). -/
def fieldWords (m : Mesh) (cell : Cell) (data : List (List Nat)) (p : Vec3) : List Nat × Flags :=
  let rs := (List.range 4).map fun k =>
    if m.fields = 0 ∨ m.comps ≤ k then (0, 0) else f32.sum 0 0 0 (fieldTerms m cell data p k)
  (rs.map fun r => r.1, rs.foldl (fun g r => g ||| r.2) 0)

/-! ### Boxes and triangles (R349, R350) -/

/-- The part of a line within a slab: from and to, where bounded; none if it misses. DEDUCED, safe: assumption 53 of the log. -/
def slab (lo hi o d : Rat) (r : Option Rat × Option Rat) : Option (Option Rat × Option Rat) :=
  if d = 0 then if lo ≤ o ∧ o ≤ hi then some r else none
  else
    let a := ((if 0 < d then lo else hi) - o) / d
    let b := ((if 0 < d then hi else lo) - o) / d
    some (some (match r.1 with | some x => max x a | none => a), some (match r.2 with | some x => min x b | none => b))

/-- The exact slab interval of a box (R350); none if a zero component misses. -/
def boxInterval (lo hi org dir : Vec3) : Option (Option Rat × Option Rat) :=
  match slab lo.x hi.x org.x dir.x (none, none) with
  | none => none
  | some r => match slab lo.y hi.y org.y dir.y r with
    | none => none
    | some r => slab lo.z hi.z org.z dir.z r

/-- The exact hit of a line with a triangle (R350): edges count as inside. -/
def triangleHit (a b c org dir : Vec3) : Option Rat :=
  let n := (b.sub a).cross (c.sub a)
  let nd := n.dot dir
  if nd = 0 then none
  else
    let t := n.dot (a.sub org) / nd
    let p := org.add (Vec3.scale t dir)
    let inside := fun (u v : Vec3) => decide (0 ≤ n.dot ((v.sub u).cross (p.sub u)))
    if inside a b && inside b c && inside c a then some t else none

end Sys2Proof.Machine
end

