-- ==== Sys2Proof/Machine/Blend.lean ====
section
/-! DEFINITION. The sort-and-blend engine: its command block, the reads of its splats, and the tile that it composites
(R361, R362). -/

namespace Sys2Proof.Machine

/-- COUNT of a blend. -/
def EngineOp.splats (o : EngineOp) : Nat := field (o.word 1) 0 32

/-- The engine refuses a blend before it reads a splat (R361, R362). -/
def EngineOp.badBlend (o : EngineOp) : Bool :=
  o.word 4 != 0 || o.word 5 != 0 || field (o.word 0) 0 4 != 0 || field (o.word 2) 0 4 != 0 || field (o.word 3) 0 4 != 0
    || decide (2 ^ 20 < o.splats)

/-- The pieces of the output, row by row (R361). -/
def EngineOp.tileParts (o : EngineOp) : List (Nat × Nat) :=
  (List.range 16).flatMap fun y => lineParts (o.word 2 + BitVec.ofNat 64 y * o.word 3).toNat 256

/-- A blend starts, in issue order: refused, or with its destination checked (R273, R277, R362). DEDUCED, unsafe: assumption 60 of the log. -/
def State.startBlend (s : State) (o : EngineOp) : Option State :=
  if s.earlierStart o then none
  else if o.badBlend then some (s.failOp o cause.engine 0)
  else match s.destParts o.agent o.tileParts with
    | .error (x, s) => some (s.stopOp o x .dest o.tileParts)
    | .ok (l, s) => some (s.setOp { o with phase := .running, parts := l })

/-- One read of a blend: the next line of its splats. -/
def State.splatRead (s : State) (o : EngineOp) : Option State :=
  let a := (o.word 0 + BitVec.ofNat 64 o.progress).toNat
  let n := min (128 - a % 128) (48 * o.splats - o.progress)
  match s.read o.agent .source 4 a n with
  | .error (.wait _, _) => none
  | .error (x, s) => some (s.stopOp o x .source [(a, n)])
  | .ok (bs, s) => some (s.order.setOp { o with progress := o.progress + n, buf := o.buf ++ bs })

/-- ENGINE_ACCESS_STEP of a blend: it starts, or reads one line. -/
def State.blendAccess (s : State) (o : EngineOp) : Option State :=
  match o.phase with
  | .queued => s.startBlend o
  | .running => if o.progress < 48 * o.splats then s.splatRead o else none
  | _ => none

/-! ### Splats -/

/-- A splat (R361): its key, and its values where all are finite and the opacity is in range. -/
structure Splat where
  key : Nat
  bad : Bool
  cx : Rat
  cy : Rat
  a : Rat
  b : Rat
  c : Rat
  opa : Rat
  col : List FVal
  deriving DecidableEq, Repr

/-- The splat in 48 bytes. -/
def splatOf (bs : List Byte) : Splat :=
  let v := (wordsAt bs 1 9).map f32.value
  let q := fun k => (v.getD k (.num false 0)).rat
  { key := wordAt bs 0, cx := q 0, cy := q 1, a := q 2, b := q 3, c := q 4, opa := q 5, col := (v.drop 6).take 3
    bad := v.any (fun x => x.isNan || x.isInf true || x.isInf false) || decide (q 5 < 0) || decide (1 < q 5) }

/-- The splats of a blend in array order. -/
def EngineOp.splatList (o : EngineOp) : List Splat := (List.range o.splats).map fun k => splatOf ((o.buf.drop (48 * k)).take 48)

/-- A reserved field of a splat is not zero. -/
def EngineOp.badSplat (o : EngineOp) : Bool := (List.range o.splats).any fun k => ((o.buf.drop (48 * k + 40)).take 8).any fun b => b != 0

/-- A splat into a sorted list, before those with its key. -/
def insertSplat (x : Splat) : List Splat → List Splat
  | [] => [x]
  | y :: r => if x.key ≤ y.key then x :: y :: r else y :: insertSplat x r

/-- The stable sort by KEY (R362). -/
def sortSplats (l : List Splat) : List Splat := l.foldr insertSplat []

/-! ### exp -/

/-- The absolute value bound of an interval. -/
def Ival.bound (a : Ival) : Rat := max (if a.lo < 0 then -a.lo else a.lo) (if a.hi < 0 then -a.hi else a.hi)

/-- Σ yᵏ/k! from term k on, with the last term as the bound of the rest (|y| ≤ 1/2). -/
def expSeries (p : Nat) (y : Ival) : Nat → Nat → Ival → Ival → Ival
  | 0, _, t, acc => acc.add ⟨-t.bound, t.bound⟩
  | n + 1, k, t, acc =>
    let t := ((t.mul y).scale (1 / (k + 1 : Nat))).coarse p
    expSeries p y n (k + 1) t (acc.add t)

/-- Repeated squares. -/
def squares (p : Nat) : Nat → Ival → Ival
  | 0, a => a
  | n + 1, a => squares p n ((a.mul a).coarse p)

/-- exp x for −8 ≤ x ≤ 128, to p bits and more. DEDUCED, unsafe: assumption 61 of the log. -/
def expIval (p : Nat) (x : Rat) : Ival :=
  let w := p + 256
  let y := (Ival.point (x / 256)).coarse w
  squares w 8 ((expSeries w y (w / 4 + 16) 0 (Ival.point 1) (Ival.point 1)).coarse w)

/-! ### Compositing (R362) -/

/-- α′ from an interval of OPA · exp(−q/2). -/
def capAlpha (a : Ival) : Ival := ⟨min (99 / 100) a.lo, min (99 / 100) a.hi⟩

/-- What α′ comes to: below 1/255, or α with its flags. -/
def alphaGo (v : Nat → Ival) : List Nat → Option (Nat × Flags)
  | [] => if ((v 2600).lo + (v 2600).hi) / 2 < 1 / 255 then none else some (f32.roundReal 0 0 v [])
  | p :: ps =>
    let a := v p
    if a.hi < 1 / 255 then none
    else if a.lo < 1 / 255 then alphaGo v ps
    else match f32.roundIval 0 0 a with
      | some r => some r
      | none => alphaGo v ps

/-- α of a splat of opacity opa at exponent q (R362): none below 1/255. -/
def alphaOf (opa q : Rat) : Option (Nat × Flags) :=
  let x := -q / 2
  if opa = 0 ∨ x < -6 then none
  else if q = 0 then (if opa < 1 / 255 then none else some (f32.round 0 0 false (.num false (min (99 / 100) opa))))
  else if 120 < x then some (f32.round 0 0 false (.num false (99 / 100)))
  else alphaGo (fun p => capAlpha ((expIval p x).scale opa)) precisions

/-- A pixel as it is composited: T, C, and the flags. -/
structure Pixel where
  t : Nat
  col : List Nat
  flags : Flags
  deriving DecidableEq, Repr

/-- One splat over a pixel at centre (X, Y). -/
def Pixel.over (p : Pixel) (x y : Rat) (sp : Splat) : Pixel :=
  if sp.bad then { p with flags := p.flags ||| flagNV }
  else
    let dx := x - sp.cx
    let dy := y - sp.cy
    match alphaOf sp.opa (sp.a * dx * dx + 2 * sp.b * dx * dy + sp.c * dy * dy) with
    | none => p
    | some (al, fl) =>
      let ta := ((f32.value p.t).mul (f32.value al)).1
      let cs := (p.col.zip sp.col).map fun c => f32.sum 0 0 0 [f32.value c.1, (ta.mul c.2).1]
      let t := f32.sum 0 0 0 [f32.value p.t, ta.negate]
      { t := t.1, col := cs.map fun c => c.1, flags := cs.foldl (fun a c => a ||| c.2) (p.flags ||| fl ||| t.2) }

/-- The sorted splats over a pixel, until T falls below the threshold. -/
def Pixel.composite (thresh : FVal) (x y : Rat) : List Splat → Pixel → Pixel
  | [], p => p
  | sp :: r, p => if (f32.value p.t).lt thresh then p else Pixel.composite thresh x y r (p.over x y sp)

/-- The pixel (x, y) of the tile. -/
def EngineOp.pixel (o : EngineOp) (l : List Splat) (x y : Nat) : Pixel :=
  Pixel.composite (f32.value (field (o.word 6) 0 32)) (((field (o.word 1) 32 16 + x : Nat) : Rat) + 1 / 2)
    (((field (o.word 1) 48 16 + y : Nat) : Rat) + 1 / 2) l { t := 0x3F800000, col := [0, 0, 0], flags := 0 }

/-- BLEND_TILE (R362): with every splat read, the tile is composited into the shadow. -/
def State.blendTile (s : State) (o : EngineOp) : Option State :=
  if o.kind = .blend ∧ o.phase = .running ∧ 48 * o.splats ≤ o.progress then
    if o.badSplat then some (s.failOp o cause.engine 0)
    else
      let l := sortSplats o.splatList
      let ps := (List.range 256).map fun k => o.pixel l (k % 16) (k / 16)
      let bs := ps.flatMap fun p => (p.col ++ [p.t]).flatMap (toBytes 4)
      some (s.order.setOp { o with
        phase := .written, shadow := overParts o.parts bs [], buf := [], flags := ps.foldl (fun a p => a ||| p.flags) 0 })
  else none

end Sys2Proof.Machine
end

