-- ==== Sys2Proof/Machine/Launch.lean ====
section
/-! DEFINITION. The launch sequencer: LAUNCH, pipeline launches, remote writes and reads in both directions, and parameter
commits (R409 to R415). -/

namespace Sys2Proof.Machine

/-! ### LAUNCH (R411, R412) -/

/-- The kind of operation that a command block asks for; a KIND that the sequencer refuses counts as a pipeline.
DEDUCED, unsafe: assumption 62 of the log. -/
def launchKind (w : DWord) : EngineKind :=
  match field w 0 4 with
  | 1 => .remoteWrite
  | 2 => .remoteRead
  | _ => .pipeline

/-- LAUNCH once its commit is past (R412). -/
def launchStep (rs1 rd : Reg) (s : State) : Run State :=
  let c := s.t.readX rs1
  match readBlock c s with
  | .error e => .error e
  | .ok (ws, s) => enterOp { kind := launchKind (ws.getD 0 0), explicit := false, block := some c, rd := rd, words := ws } s

/-- LAUNCH (R411, R412): a commit point (R429). -/
def execLaunch (rs1 rd : Reg) (s : State) : Out := finish (s.committing (launchStep rs1 rd))

/-! ### KIND 0: pipelines (R413) -/

/-- The bays of a partition, in rising slice and then in rising BAYID (R413). -/
def State.partBays (s : State) (part : Nat) : List Nat :=
  (s.owners.filter fun e => e.2 == part).flatMap fun e => (List.range 8).map fun b => 8 * e.1 + b

/-- NROOT of a launch. -/
def EngineOp.nroot (o : EngineOp) : Nat := field (o.word 3) 32 32
/-- The bays of a launch, as far as the partition has them. -/
def State.launchBays (s : State) (o : EngineOp) : List Nat :=
  ((s.partBays (s.ctxAt o.ctx).part).drop (field (o.word 3) 0 16)).take o.nbays

/-- The command block of a pipeline launch is refused (R412). -/
def EngineOp.badLaunch (o : EngineOp) : Bool :=
  o.word 0 != 0 || o.word 2 != 0 || o.word 5 != 0 || field (o.word 1) 0 6 != 0 || o.nbays == 0 || decide (144 < o.nbays)

/-- A core may serve a context of a class if the context's pipeline threads were gone (R313, R383). -/
def State.coreUsableAlone (s : State) (n cls k : Nat) : Bool :=
  let c := s.coreAt k
  !c.failed && (c.hasCaps cls
    || !(s.allThreads.any fun e => e.2.live && coreOf e.1 == k && !(e.2.ctx == n && e.2.pipe.isSome)))

/-- The threads that stand in a bay if the context's pipeline threads were gone (R313): its resident dispatcher also where it is
switched out. -/
def State.standingAlone (s : State) (n bay : Nat) : Standing :=
  ((s.allThreads.filter fun e => e.2.live && bayOf e.1 == bay && !(e.2.ctx == n && e.2.pipe.isSome))
    ++ (s.ctxAt n).images.filter fun e => bayOf e.1 == bay && e.2.pipe.isNone).map fun e => (e.1, e.2.quarters)

/-- The slots of a bay that the resident dispatcher of a context holds (R405): it is the context's one thread of no pipeline. -/
def State.dispatcherSlots (s : State) (n bay : Nat) : Nat :=
  ((s.allThreads.filter fun e => e.2.live && e.2.ctx == n) ++ (s.ctxAt n).images).countP fun e => bayOf e.1 == bay && e.2.pipe.isNone

/-- The sequencer refuses a launch whose descriptor it has read (R313, R314, R413). DEDUCED, unsafe: assumption 63 of the log. -/
def State.refusesLaunch (s : State) (o : EngineOp) (d : List DWord) : Bool :=
  let c := s.ctxAt o.ctx
  let bays := s.launchBays o
  field (o.word 4) 0 4 != 0 || !descOk d c.slots || !s.canReserve c.part (pipeBytes d * bays.length)
    || bays.any (fun b => decide (c.slots < s.dispatcherSlots o.ctx b + (slotPlan d).length)) || bays.length != o.nbays || decide (stageCap d 0 < (o.nroot + o.nbays - 1) / o.nbays)
    || bays.any fun b => (placeAll (s.coreUsableAlone o.ctx c.latclass) b (slotPlan d) (s.standingAlone o.ctx b)).isNone

/-- ENGINE_ACCESS_STEP of a pipeline launch (R413): the read of its descriptor. -/
def State.launchAccess (s : State) (o : EngineOp) : Option State :=
  if o.phase ≠ .queued then none
  else if o.badLaunch then some (s.failOp o cause.engine 0)
  else match s.read o.agent .source 4 (o.word 1).toNat 576 with
    | .error (.wait _, _) => none
    | .error (x, s) => some (s.stopOp o x .source (lineParts (o.word 1).toNat 576))
    | .ok (bs, s) =>
      if s.refusesLaunch o (toDwords 72 bs) then some (s.failOp o cause.engine 0)
      else some (s.order.setOp { o with phase := .running, buf := bs })

/-- An earlier launch of the context has not started its threads (R413). -/
def State.earlierLaunch (s : State) (o : EngineOp) : Bool :=
  s.ops.any fun p => p.kind == .pipeline && p.ctx == o.ctx && decide (p.id < o.id) && (p.phase == .queued || p.phase == .running)

/-- The places of a launch's threads in a bay, if the context has the slots and the cores have the quarters (R413). A thread that is
switched out keeps its slot among the context's, and a core that has been taken from the context takes none of its threads (R394). -/
def State.placesIn (s : State) (o : EngineOp) (bay : Nat) : Option (List Placed) :=
  let c := s.ctxAt o.ctx
  let plan := slotPlan o.desc
  let held := ((s.allThreads.filter fun e => e.2.live && e.2.ctx == o.ctx) ++ c.images).countP fun e => bayOf e.1 == bay
  let usable := fun (k : Nat) => s.coreUsable c.latclass k && !c.away.contains k
  if c.slots < held + plan.length then none else placeAll usable bay plan (s.standing_ bay)

/-- The places of a launch's threads in every bay. -/
def State.placesOf (s : State) (o : EngineOp) : List Nat → Option (List (Nat × List Placed))
  | [] => some []
  | b :: r => match s.placesIn o b, s.placesOf o r with
    | some l, some m => some ((b, l) :: m)
    | _, _ => none

/-- The root records of a launch, as children of its node (R413, R427). -/
def rootRecords (o : EngineOp) (n : Nat) : Nat → Nat → List Byte → State → List StageRecord × State
  | 0, _, _, s => ([], s)
  | left + 1, i, bs, s =>
    let key := taskKey o.key (BitVec.ofNat 32 (i + 1))
    let r := s.addNode o.ctx o.node (i + 1) key
    let q := rootRecords o n left (i + 1) (bs.drop n) r.1
    ({ bytes := bs.take n, key := key, node := r.2, takeable := true, byPos := slotCount } :: q.1, q.2)

/-- The pipeline of a launch in the j-th of its bays, with its root records (R413, R414). -/
def launchPipe (o : EngineOp) (roots : List StageRecord) (j bay : Nat) : Pipe :=
  { launch := o.id, ctx := o.ctx, bay := bay, desc := o.desc
    queues := [(0, (roots.zipIdx.filter fun r => r.2 % o.nbays == j).map fun r => r.1)] }

/-- A thread of a pipeline as it starts (R316, R317). -/
def launchThread (o : EngineOp) (bay stamp : Nat) (p : Placed) : Thread :=
  { ({} : Thread) with
    live := true, ctx := o.ctx, quarters := p.quarters, pc := startAddress o.desc, lastStamp := stamp
    stageid := match p.stage with | some st => BitVec.ofNat 16 st | none => 0xFFFF
    pipe := some { launch := o.id, bay := bay, stage := p.stage } }

/-- The threads of a launch start in a bay. -/
def State.startAll (s : State) (o : EngineOp) (bay : Nat) (l : List Placed) : State :=
  l.foldl (fun s p => s.startThread p.pos (s.ctxAt o.ctx).latclass (launchThread o bay s.stamp p)) s

/-- PIPELINE_LAUNCH (R413): once every bay has the slots, one step places the root records, and the threads start.
DEDUCED, safe: assumption 64 of the log. -/
def State.pipelineLaunch (s : State) (o : EngineOp) : Option State :=
  if o.kind ≠ .pipeline ∨ o.phase ≠ .running ∨ !(s.ctxAt o.ctx).resident ∨ s.earlierLaunch o then none
  else match s.placesOf o (s.launchBays o) with
    | none => none
    | some places =>
      let n := stageBytes o.desc 0
      match s.read o.agent .source 4 (o.word 4).toNat (n * o.nroot) with
      | .error (.wait _, _) => none
      | .error (x, s) => some (s.stopOp o x .source (lineParts (o.word 4).toNat (n * o.nroot)))
      | .ok (bs, s) =>
        let r := rootRecords o n o.nroot 0 bs s.order
        let s := r.2
        let s := { s with pipes := s.pipes ++ places.zipIdx.map fun (b : (Nat × List Placed) × Nat) => launchPipe o r.1 b.2 b.1.1 }
        some ((places.foldl (fun (s : State) b => s.startAll o b.1 b.2) s).setOp { o with phase := .written, buf := [] })

/-! ### Accesses from outside (R409) -/

/-- The package takes a message for a context (R396, R403). -/
def State.takes (s : State) (ctx : Nat) : Bool := s.ready && (s.ctxAt ctx).takesMessages

/-- A length that a remote access may have (R409). -/
def remoteLength (n : Nat) : Bool := decide (1 ≤ n) && decide (n ≤ 2 ^ 24)

/-- A remote access enters the package; `from_` is the launch of this package that asks for it, or 0. -/
def State.enterInbound (s : State) (k : EngineKind) (ctx from_ : Nat) (a : DWord) (body : List Byte) (len : Nat) : State :=
  let o : EngineOp :=
    { id := s.nextOp + 1, kind := k, issuer := nobody, ctx := ctx, level := true, addr := a, buf := body
      words := [BitVec.ofNat 64 len], launch := from_ }
  { s with ops := s.ops ++ [o], nextOp := s.nextOp + 1 }

/-- REMOTE_WRITE_REQUEST (R409): the request enters; its checks, its shadow and its publish are steps of its own.
DEDUCED, safe: assumption 66 of the log. -/
def execRemoteWriteRequest (ctx stamp : Nat) (address : DWord) (body : List Byte) (s : State) : Out :=
  .next (if !s.takes ctx ∨ !remoteLength body.length then s.drop
    else (s.passStamp stamp).enterInbound .inboundWrite ctx 0 address body body.length)

/-- REMOTE_READ_REQUEST (R409): the request enters; each line is a step of its own. -/
def execRemoteReadRequest (ctx : Nat) (address : DWord) (length : Nat) (s : State) : Out :=
  .next (if !s.takes ctx ∨ !remoteLength length then s.drop else s.enterInbound .inboundRead ctx 0 address [] length)

/-- The answer to a remote read reaches the launch that asked for it (R414): its bytes go to a shadow, or it faults. -/
def State.readAnswer (s : State) (o : EngineOp) (c : BitVec 8) (a : DWord) (body : List Byte) : State :=
  if c ≠ 0 then s.finalOp o 4 c a
  else match s.destParts o.agent (lineParts (o.word 4).toNat body.length) with
    | .error (x, s) => s.stopOp o x .dest (lineParts (o.word 4).toNat body.length)
    | .ok (l, s) => s.order.setOp { o with phase := .written, shadow := overParts l body [] }

/-- The answer to a remote write reaches the launch that asked for it (R414). -/
def State.writeAnswer (s : State) (o : EngineOp) (c : BitVec 8) (a : DWord) : State :=
  if c = 0 then s.finalOp o 3 0 0 else s.finalOp o 4 c a

/-- An inbound access ends with an answer (R409): to the other package, or to a launch of this one. -/
def State.answer (s : State) (o : EngineOp) (c : BitVec 8) (a : DWord) (body : List Byte) : State :=
  let s := s.dropOp o
  match s.op o.launch with
  | some l => if o.kind = .inboundWrite then s.writeAnswer l c a else s.readAnswer l c a body
  | none =>
    s.send o.ctx 0 (if o.kind = .inboundWrite then .writeAck c a s.stamp else .readResponse c a body)

/-- A stopped access of an inbound request to some pieces: it waits, or answers with the cause and the address of the first
faulting byte (R277, R409). -/
def State.refuseInbound (s : State) (o : EngineOp) (x : Stop) (acc : Access) (parts : List (Nat × Nat)) : Option State :=
  match x with
  | .wait _ => none
  | .trap c v => some (s.answer o c (s.faultByte o.agent acc parts c v) [])

/-- The engine writes of an inbound write (R409): every page checked, the body into a shadow. -/
def State.inboundWrite (s : State) (o : EngineOp) : Option State :=
  if o.kind = .inboundWrite ∧ o.phase = .queued then
    match s.destParts o.agent (lineParts o.addr.toNat o.buf.length) with
    | .error (x, s) => s.refuseInbound o x .dest (lineParts o.addr.toNat o.buf.length)
    | .ok (l, s) => some (s.order.setOp { o with phase := .written, shadow := overParts l o.buf [], buf := [] })
  else none

/-- The publish of an inbound write (R409), with its acknowledgement. -/
def State.inboundPublish (s : State) (o : EngineOp) : Option State :=
  if o.kind = .inboundWrite ∧ o.phase = .written then some ((s.order.publishPuts o.ctx o.shadow).answer o 0 0 []) else none

/-- One line of an inbound read (R409, R449). -/
def State.inboundRead (s : State) (o : EngineOp) : Option State :=
  let a := (o.addr + BitVec.ofNat 64 o.progress).toNat
  let n := min (128 - a % 128) ((o.word 0).toNat - o.progress)
  if o.kind = .inboundRead ∧ o.progress < (o.word 0).toNat then
    match s.read o.agent .source 8 a n with
    | .error (x, s) => s.refuseInbound o x .source [(a, n)]
    | .ok (bs, s) => some (s.order.setOp { o with progress := o.progress + n, buf := o.buf ++ bs })
  else none

/-- The answer of an inbound read that has read its last line. -/
def State.inboundAnswer (s : State) (o : EngineOp) : Option State :=
  if o.kind = .inboundRead ∧ (o.word 0).toNat ≤ o.progress then some (s.answer o 0 0 o.buf) else none

/-! ### KIND 1 and KIND 2: remote writes and reads (R414) -/

/-- LEN of a remote launch. -/
def EngineOp.remoteLen (o : EngineOp) : Nat := field (o.word 3) 32 32
/-- MEMBER of a remote launch. -/
def EngineOp.member (o : EngineOp) : Nat := field (o.word 3) 16 12

/-- The command block of a remote launch is refused (R412). -/
def EngineOp.badRemote (o : EngineOp) : Bool :=
  field (o.word 0) 4 60 != 0 || o.word 1 != 0 || o.word 5 != 0 || field (o.word 3) 0 16 != 0 || field (o.word 3) 28 4 != 0
    || !remoteLength o.remoteLen

/-- The start of a remote launch (R414, R422): refused, or checked; it waits for the gang's acknowledgements. -/
def State.startRemote (s : State) (o : EngineOp) : Option State :=
  let c := s.ctxAt o.ctx
  if o.phase ≠ .queued ∨ !c.acked then none
  else if o.badRemote then some (s.failOp o cause.engine 0)
  else if c.members ≤ o.member then some (s.failOp o cause.destination 0)
  else some (s.setOp { o with phase := .running })

/-- ENGINE_ACCESS_STEP of a KIND 1 launch (R414): its start, and then a line of LOCAL. -/
def State.remoteAccess (s : State) (o : EngineOp) : Option State :=
  let a := (o.word 4 + BitVec.ofNat 64 o.progress).toNat
  let n := min (128 - a % 128) (o.remoteLen - o.progress)
  if o.phase = .queued then s.startRemote o
  else if o.phase = .running ∧ o.progress < o.remoteLen then
    match s.read o.agent .source 4 a n with
    | .error (.wait _, _) => none
    | .error (x, s) => some (s.stopOp o x .source [(a, n)])
    | .ok (bs, s) => some (s.order.setOp { o with progress := o.progress + n, buf := o.buf ++ bs })
  else none

/-- REMOTE_WRITE_LAUNCH (R414): the bytes of a KIND 1 launch are sent, or enter this package where it is the target.
DEDUCED, safe: assumption 65 of the log. -/
def State.sendWrite (s : State) (o : EngineOp) : Option State :=
  if o.kind = .remoteWrite ∧ o.phase = .running ∧ o.remoteLen ≤ o.progress then
    let s := s.order.setOp { o with phase := .written, buf := [] }
    some (if o.member = (s.ctxAt o.ctx).pkgid then s.enterInbound .inboundWrite o.ctx o.id (o.word 2) o.buf o.buf.length
      else s.send o.ctx 0 (.remoteWrite o.member o.id (o.word 2) o.buf))
  else none

/-- REMOTE_READ_LAUNCH (R414): a KIND 2 launch sends its request, or enters it where this package is the target. -/
def State.sendRead (s : State) (o : EngineOp) : Option State :=
  if o.kind = .remoteRead ∧ o.phase = .running ∧ o.progress = 0 then
    let s := s.order.setOp { o with progress := 1 }
    some (if o.member = (s.ctxAt o.ctx).pkgid then s.enterInbound .inboundRead o.ctx o.id (o.word 2) [] o.remoteLen
      else s.send o.ctx 0 (.remoteRead o.member o.id (o.word 2) o.remoteLen))
  else none

/-- The publish of a KIND 2 launch, at which its token becomes done (R414). -/
def State.readPublish (s : State) (o : EngineOp) : Option State :=
  if o.kind = .remoteRead ∧ o.phase = .written then some ((s.order.publishPuts o.ctx o.shadow).closeOp o 3 0 0) else none

/-- REMOTE_WRITE_ACK (R414): for a KIND 1 launch that has been sent. Before READY it is dropped (R441). -/
def execRemoteWriteAck (op : Nat) (answer : RemoteAnswer) (s : State) : Out :=
  .next (if !s.ready then s.drop else match s.op op with
    | some o => if o.kind = .remoteWrite ∧ o.phase = .written ∧ o.member ≠ (s.ctxAt o.ctx).pkgid
        then s.writeAnswer o answer.cause answer.address else s
    | none => s)

/-- REMOTE_READ_RESPONSE (R414): for a KIND 2 launch that has been sent; a whole body comes with cause 0. Before READY it is dropped (R441). -/
def execRemoteReadResponse (op : Nat) (answer : RemoteAnswer) (body : List Byte) (s : State) : Out :=
  .next (if !s.ready then s.drop else match s.op op with
    | some o =>
      if o.kind = .remoteRead ∧ o.phase = .running ∧ o.progress = 1 ∧ o.member ≠ (s.ctxAt o.ctx).pkgid
          ∧ (answer.cause ≠ 0 ∨ body.length = o.remoteLen)
        then s.readAnswer o answer.cause answer.address body else s
    | none => s)

/-! ### Parameter commits (R415) -/

/-- PARAMETER_COMMIT (R415): the checks, the step, and the acknowledgement. DESIGN CHOICE, unsafe: assumption 67 of the log. -/
def execParameterCommit (ctx : Nat) (header version : DWord) (s : State) : Out :=
  let ag : Agent := { core := none, bay := 0, level := true, ctx := ctx }
  let done := fun (c : Cause) (s : State) => s.send ctx 0 (.commitAck c s.stamp)
  .next (if !s.takes ctx then s.drop
    else if header.toNat % 8 ≠ 0 ∨ version.toNat % 128 ≠ 0 then done cause.misaligned s
    else match s.checkPart ag .store header.toNat 8 with
      | .error (.trap c _, s) => done c s
      | .error (.wait _, s) => s
      | .ok (pa, s) =>
        let old := BitVec.ofNat 64 (ofBytes (bytesAt s.mem pa 8))
        let new := BitVec.ofNat 64 ((field old 48 16 + 1) % 2 ^ 16 * 2 ^ 48) + version
        done 0 (s.order.physWrite pa (toBytes 8 new.toNat)))

end Sys2Proof.Machine
end

