-- ==== Sys2Proof/Machine/Marcher.lean ====
section
/-! DEFINITION. The mesh marcher: RCAST, RRESUME and RQUERY, admission, marching, traversal, hit records, re-admission and
resumption of rays, and walk queries (R342 to R360). -/

namespace Sys2Proof.Machine

/-- The context's marcher is in BVH mode (R338). -/
def State.bvhMode (s : State) (ctx : Nat) : Bool := (s.ctxAt ctx).marchsel == 2

/-- The control-store image of the context's marcher mode is loaded (R370, R445). -/
def State.modeLoaded (s : State) (ctx : Nat) : Bool := s.loadedModes.contains (s.ctxAt ctx).marchsel.toNat

/-- The read of a ray record (R344). -/
def readRecord (o : EngineOp) (a : Nat) (s : State) : Run (Handle × State) :=
  match s.read o.agent .source 4 a 64 with
  | .error e => .error e
  | .ok (bs, s) => .ok (handleOf bs, s)

/-- The write of the RW fields of a ray record, at one step, directly in memory (R344): STAGE keeps the bits it has there, and
CAUSE is 0 unless STATUS is 9 (R342).
DEDUCED, safe: assumption 54 of the log. -/
def writeRecord (o : EngineOp) (a : Nat) (d : Handle) (s : State) : Run State :=
  match s.checkPart o.agent .dest a 64 with
  | .error e => .error e
  | .ok (pa, s) =>
    let t := if s.bvhMode o.ctx then (28, d.rayTmax) else (12, d.rayTmin)
    let stage := bits (sget (w := 8) s.mem (pa + 45)).toNat 0 4
    let s := s.physWrite (pa + t.1) (toBytes 4 t.2)
    let s := s.physWrite (pa + 32) (toBytes 8 d.d4.toNat)
    let why := if d.rayStatus = 9 then field d.d5 48 8 else 0
    let d5 := d.raySeq + 2 ^ 32 * d.rayStatus + 2 ^ 36 * d.raySub + 2 ^ 40 * stage + 2 ^ 48 * why
    .ok (s.physWrite (pa + 40) (toBytes 8 d5))

/-! ### Rays of an operation -/

/-- The ray is held by the marcher and has no decision to act on. -/
def Ray.marching (r : Ray) : Bool := r.status == 1 && r.decision.isNone

/-- The rays that the marcher of a bay holds (R353, R358). -/
def State.heldRays (s : State) (bay : Nat) : Nat :=
  ((s.ops.filter fun o => o.kind == .rcast && bayOf o.home == bay).map fun o => (o.rays.filter Ray.marching).length).sum

/-- The lowest-addressed ray or record in fault (R354). -/
def worstRay (l : List Ray) : Option Ray :=
  match l.filter fun r => r.status == 9 with
  | [] => none
  | r :: rs => some (rs.foldl (fun b x => if x.addr.toNat < b.addr.toNat then x else b) r)

/-- The one pending ray of an operation waits, before its final write, for the push of the hits gathered so far (R354). -/
def EngineOp.pushesFirst (o : EngineOp) : Bool := o.hits != [] && decide ((o.rays.filter Ray.pending).length ≤ 1)

/-- The operation ends at the last ray's final write (R354); its stages may close, so parked threads decide anew (R319, R324).
DEDUCED, safe: assumption 105 of the log. -/
def State.settleCast (s : State) (o : EngineOp) : State :=
  let s := s.setOp o
  if o.rays.any Ray.pending then s
  else
    (match worstRay o.rays with
    | none => s.closeOp o 3 0 0
    | some r => s.closeOp o 4 r.cause r.addr).stir (some ⟨o.launch, bayOf o.home, none⟩)

/-- A ray ends, or parks, with a record to write at the step (R344): where the write fails the ray ends in fault. -/
def State.storeRay (s : State) (o : EngineOp) (r : Ray) (d : Handle) (st : BitVec 4) : State :=
  let s := s.order
  match writeRecord o r.addr.toNat (d.withStatus st.toNat) s with
  | .ok s => s.settleCast (o.setRay { r with status := st, d := d.withStatus st.toNat, inLeaf := false, decision := none
                                             cause := BitVec.ofNat 8 (field d.d5 48 8) })
  | .error (.trap c _, s) => s.settleCast (o.setRay { r with status := 9, cause := c, decision := none })
  | .error (.wait _, s) => s

/-- A ray ends in fault with a cause (R357). -/
def State.faultRay (s : State) (o : EngineOp) (r : Ray) (c : Cause) : State :=
  s.storeRay o r (r.d.withCause c.toNat) 9

/-- A stopped read of a step: the ray waits, faults, or is degenerate (R341, R357). -/
def State.stopRay (s : State) (o : EngineOp) (r : Ray) (x : MeshStop) : Option State :=
  match x with
  | .wait => none
  | .fault c => some (s.faultRay o r c)
  | .degenerate => some (s.storeRay o r r.d 8)

/-! ### RCAST and admission (R353, R354) -/

/-- RCAST once its commit is past (R353). -/
def rcastStep (rs2 rs1 rd : Reg) (s : State) : Run State :=
  let a := s.t.readX rs1
  let n := s.t.readX rs2
  if a.toNat % 64 ≠ 0 then raise s cause.misaligned a
  else if n = 0 then
    match s.t.freeSlot with
    | none => raise s cause.tokenFull 0
    | some k =>
      let gen := (s.t.token k).gen
      let s := s.orderThread.newChild.1
      let s := { s with t := Thread.settle k gen s.stamp 3 0 0 (s.t.takeSlot k) }
      .ok (s.setX rd (tokenWord gen k)).advance
  else enterOp { kind := .rcast, explicit := false, block := none, rd := rd, words := [a, n] } s

/-- RCAST (R353): a commit point (R429). -/
def execRcast (rs2 rs1 rd : Reg) (s : State) : Out := finish (s.committing (rcastStep rs2 rs1 rd))

/-- A ray as it is first admitted: initialised for marching or traversal (R345, R350). -/
def freshRay (bvh : Bool) (d : Handle) : Handle :=
  if bvh then (d.withSeq (2 ^ 32 - 1)).withSub 0 else (d.withSeq 0).withSub 15

/-- A marching ray whose interval is empty ends done at admission (R345, R353). -/
def emptyRay (bvh : Bool) (d : Handle) : Bool :=
  !bvh && match finite d.rayTmin, finite d.rayTmax with
    | some a, some b => decide (b ≤ a)
    | _, _ => false

/-- The record at position i of an RCAST, read and admitted (R344, R353): its ray, unless it is skipped. -/
def admitOne (o : EngineOp) (held i : Nat) (s : State) : Option Ray × State :=
  let a := o.word 0 + BitVec.ofNat 64 (64 * i)
  let bvh := s.bvhMode o.ctx
  let failed := fun (c : Cause) (s : State) => (some ({ idx := i, addr := a, status := 9, cause := c } : Ray), s)
  match readRecord o a.toNat s with
  | .error (.trap c _, s) => failed c s
  | .error (.wait _, s) => failed cause.engine s
  | .ok (d, s) =>
    if d.rayStatus ≠ 0 then (none, s)
    else
      let d := freshRay bvh d
      let st : BitVec 4 := if emptyRay bvh d then 5 else if held < 64 then 1 else 2
      match writeRecord o a.toNat (d.withStatus st.toNat) s with
      | .error (.trap c _, s) => failed c s
      | .error (.wait _, s) => failed cause.engine s
      | .ok s => (some { idx := i, addr := a, status := st, atAdmission := st == 2, d := d.withStatus st.toNat }, s)

/-- The records of an RCAST admitted in rising order (R353). -/
def admitAll (o : EngineOp) : Nat → Nat → Nat → List Ray → State → List Ray × State
  | 0, _, _, l, s => (l, s)
  | n + 1, i, held, l, s =>
    match admitOne o held i s with
    | (none, s) => admitAll o n (i + 1) held l s
    | (some r, s) => admitAll o n (i + 1) (if r.status = 1 then held + 1 else held) (l ++ [r]) s

/-- RAY_ADMISSION (R353, R354). -/
def State.admission (s : State) (o : EngineOp) : Option State :=
  if o.kind = .rcast ∧ o.phase = .queued then
    if 65536 < (o.word 1).toNat ∨ !s.modeLoaded o.ctx then
      some ((s.finalOp o 4 cause.engine 0).stir (some ⟨o.launch, bayOf o.home, none⟩))
    else
      let r := admitAll o (o.word 1).toNat 0 (s.heldRays (bayOf o.home)) [] (s.rayNodes o).order
      some (r.2.settleCast { o with phase := .running, rays := r.1 })
  else none

/-- RAY_READMIT (R344, R348): a parked ray is held again, once its queue has room or the marcher holds fewer rays. -/
def State.readmit (s : State) (o : EngineOp) (i : Nat) : Option State :=
  match o.ray i with
  | none => none
  | some r =>
    let room : Bool := match s.pipeOf o.launch (bayOf o.home) with
      | some p => p.room r.d.rayStage
      | none => true
    if r.status = 2 ∧ (s.ctxAt o.ctx).resident ∧ s.heldRays (bayOf o.home) < 64 ∧ (r.atAdmission ∨ room) ∧ !o.pushesFirst then
      let s := s.order
      match readRecord o r.addr.toNat s with
      | .error (.wait _, _) => none
      | .error (.trap c _, s) => some (s.settleCast (o.setRay { r with status := 9, cause := c }))
      | .ok (d, s) => match writeRecord o r.addr.toNat (d.withStatus 1) s with
        | .error (.wait _, _) => none
        | .error (.trap c _, s) => some (s.settleCast (o.setRay { r with status := 9, cause := c }))
        | .ok s => some (s.setOp (o.setRay { r with status := 1, atAdmission := false, d := d.withStatus 1 }))
    else none

/-! ### Pushes (R347, R348, R351, R427) -/

/-- The pipeline that takes the records of an operation, if the ray's stage may (R348). -/
def State.castPipe (s : State) (o : EngineOp) (d : Handle) (need : Nat) : Option Pipe :=
  match s.pipeOf o.launch (bayOf o.home), o.stage with
  | some p, some g =>
    if d.rayStage ≤ nsm1 p.desc ∧ stageSucc p.desc g d.rayStage ∧ need ≤ stageBytes p.desc d.rayStage then some p else none
  | _, _ => none

/-- A record of a ray at the tail of a stage's queue, as child n of the ray (R348, R427). -/
def State.pushRay (s : State) (o : EngineOp) (p : Pipe) (st i n : Nat) (bs : List Byte) : State :=
  let r := s.addNode o.ctx o.node (i + 1) (rayKey o i)
  let key := taskKey (rayKey o i) (BitVec.ofNat 32 n)
  let q := r.1.addNode o.ctx r.2 n key
  let size := stageBytes p.desc st
  q.1.setPipe (p.push st
    { bytes := (bs ++ List.replicate (size - bs.length) 0).take size, key := key, node := q.2, takeable := true, byPos := slotCount })

/-- A segment record (R347). -/
def segmentBytes (r : Ray) (face last tin tout : Nat) (fin fout : List Nat) : List Byte :=
  toBytes 4 0 ++ toBytes 4 r.d.rayCell ++ toBytes 8 r.addr.toNat ++ toBytes 8 r.d.d6.toNat ++ toBytes 4 r.d.raySeq
    ++ toBytes 4 (face + 16 * last) ++ toBytes 4 tin ++ toBytes 4 tout ++ fin.flatMap (toBytes 4) ++ fout.flatMap (toBytes 4)
    ++ toBytes 8 0

/-! ### Marching (R345, R346) -/

/-- Where a step of a marching ray leads: the segment, the ray after its push, the parameter of the exit, and its end. -/
structure Crossing where
  bytes : List Byte
  d : Handle
  tout : Nat
  last : Nat
  nbr : Nat
  flags : Flags
  deriving DecidableEq, Repr

/-- The crossing of one cell, before its push (R345, R346); none where the cell or the ray is degenerate. -/
def crossCell (m : Mesh) (cell : Cell) (data : List (List Nat)) (r : Ray) : Option Crossing :=
  let d := r.d
  match finites d.rayOrg, finites d.rayDir, finite d.rayTmin, finite d.rayTmax with
  | some org, some dir, some tin, some tmax =>
    if cell.degenerate || (rowValues data).isNone then none
    else match exitFace (exits cell.planes d.raySub (vecOf org) (vecOf dir)) with
    | none => none
    | some (e, te) =>
      let rt := f32.round 0 0 false (.num false te)
      let tw := match finite rt.1 with
        | some q => if tin < q then rt.1 else d.rayTmin
        | none => if te < 0 then d.rayTmin else rt.1
      let far : Bool := match finite tw with
        | some q => decide (tmax ≤ q)
        | none => f32.value tw == .inf false
      let nbr := cell.nbrs.getD e boundary
      let tout := if far then d.rayTmax else tw
      let left := d.rayLeft - 1
      let last := if far then 5 else if nbr = boundary then 6 else if left = 0 then 7 else 0
      let at_ := fun (w : Nat) => Vec3.add (vecOf org) (Vec3.scale ((finite w).getD 0) (vecOf dir))
      let fin := fieldWords m cell data (at_ d.rayTmin)
      let fout := fieldWords m cell data (at_ tout)
      some
        { bytes := segmentBytes r e last d.rayTmin tout fin.1 fout.1
          d := (d.withLeft left).withSeq (d.raySeq + 1), tout := tout, last := last, nbr := nbr
          flags := rt.2 ||| fin.2 ||| fout.2 }
  | _, _, _, _ => none

/-- A ray after its push: it ends, or enters the next cell, whose neighbours are read before CELL and TMIN change (R345). -/
def State.enterCell (s : State) (o : EngineOp) (m : Mesh) (r : Ray) (c : Crossing) : Option State :=
  let r' := { r with d := c.d }
  if c.last ≠ 0 then some (s.storeRay o r' c.d (BitVec.ofNat 4 c.last))
  else match readNeighbours o m c.nbr s with
    | .error (x, s) => s.stopRay o r' x
    | .ok (l, s) => some (s.setOp (o.setRay { r with d := ((c.d.withSub (entryFace l r.d.rayCell)).withCell c.nbr).withTmin c.tout }))

/-- MARCH_STEP (R345, R348): a held ray crosses one cell. -/
def State.marchStep (s : State) (o : EngineOp) (i : Nat) : Option State :=
  match o.ray i with
  | none => none
  | some r =>
    if !r.marching || s.bvhMode o.ctx then none
    else match s.castPipe o r.d 80 with
      | none => some (s.faultRay o r cause.engine)
      | some _ => match readMesh o r.d.d7.toNat s with
        | .error (x, s) => s.stopRay o r x
        | .ok (m, s) =>
          if r.d.rayLeft = 0 then some (s.storeRay o r r.d 7)
          else match readCell o m (m.fields != 0) r.d.rayCell s with
            | .error (x, s) => s.stopRay o r x
            | .ok (cell, s) => match readFields o m r.d.rayCell cell s with
              | .error (x, s) => s.stopRay o r x
              | .ok (data, s) => match crossCell m cell data r with
                | none => some (s.storeRay o r r.d 8)
                | some c => match s.castPipe o r.d 80 with
                  | none => none
                  | some p =>
                    if !p.room r.d.rayStage then some (s.storeRay o r r.d 2)
                    else
                      let o := { o with flags := o.flags ||| c.flags }
                      let s := ((s.order.pushRay o p r.d.rayStage i (r.d.raySeq + 1) c.bytes).setOp o)
                      s.enterCell o m r c

/-! ### Traversal (R349, R350) -/

/-- A node of the hierarchy. -/
structure Node where
  lo : Vec3
  hi : Vec3
  miss : Nat
  leaf : Nat
  deriving DecidableEq, Repr

/-- A node read (R349). -/
def readNode (o : EngineOp) (m : Mesh) (n : Nat) (s : State) : MeshRun (Node × State) :=
  if m.ncell ≤ n then .error (.fault cause.engine, s)
  else match meshRead o (m.cells + 32 * n) 32 s with
    | .error e => .error e
    | .ok (bs, s) => match finites (wordsAt bs 0 6) with
      | none => .error (.degenerate, s)
      | some l => .ok ({ lo := vecOf l, hi := vecOf (l.drop 3), miss := wordAt bs 6, leaf := wordAt bs 7 }, s)

/-- A triangle read (R349): its flags, and its vertices where they count. -/
def readTriangle (o : EngineOp) (m : Mesh) (p : Nat) (s : State) : MeshRun ((Nat × List Vec3) × State) :=
  if m.nprim ≤ p then .error (.fault cause.engine, s)
  else match meshRead o (m.verts + 48 * p) 48 s with
    | .error e => .error e
    | .ok (bs, s) =>
      if (bs.drop 37).any (fun b => b != 0) then .error (.fault cause.engine, s)
      else
        let fl := (bs.getD 36 0).toNat
        if bits fl 1 1 = 1 then .ok ((fl, []), s)
        else match finites (wordsAt bs 0 9) with
          | none => .error (.degenerate, s)
          | some l => .ok ((fl, [vecOf l, vecOf (l.drop 3), vecOf (l.drop 6)]), s)

/-- The values of a ray, where all are finite (R341). -/
def rayValues (d : Handle) : Option (Vec3 × Vec3 × Rat × Rat) :=
  match finites d.rayOrg, finites d.rayDir, finite d.rayTmin, finite d.rayTmax with
  | some o, some v, some a, some b => some (vecOf o, vecOf v, a, b)
  | _, _, _, _ => none

/-- The interval of a ray within a node's box, if it meets it (R350). -/
def meetsBox (n : Node) (org dir : Vec3) (tmin tmax : Rat) : Option (Option Rat) :=
  match boxInterval n.lo n.hi org dir with
  | none => none
  | some (tn, tf) =>
    let lo := match tn with | some x => max x tmin | none => tmin
    let hi := match tf with | some x => min x tmax | none => tmax
    if hi < lo then none else some tn

/-- The ray parks for a hit (R350, R351): its record first, then the entry of a hit record. -/
def State.parkHit (s : State) (o : EngineOp) (r : Ray) (kind prim : Nat) (t : Nat × Flags) : State :=
  let st : BitVec 4 := if kind = 1 then 3 else 4
  let h : HitEntry :=
    { stage := r.d.rayStage, kind := kind, ray := r.addr, rayIdx := r.idx, prim := prim, t := BitVec.ofNat 32 t.1, n := r.pushed + 1 }
  let s := s.order
  match writeRecord o r.addr.toNat (r.d.withStatus st.toNat) s with
  | .error (.trap c _, s) => s.settleCast (o.setRay { r with status := 9, cause := c })
  | .error (.wait _, s) => s
  | .ok s =>
    s.setOp { (o.setRay { r with status := st, d := r.d.withStatus st.toNat, inLeaf := false, pushed := r.pushed + 1 }) with
      hits := o.hits ++ [h], flags := o.flags ||| t.2 }

/-- A ray past triangle SUB of a leaf: at the leaf's next triangle, or after its last at MISS (R350). -/
def Handle.pastTriangle (d : Handle) (n : Node) : Handle :=
  if d.raySub < bits n.leaf 27 4 then d.withSub (d.raySub + 1) else (d.withCell n.miss).withSub 0

/-- One triangle of a leaf (R350). -/
def State.triangleStep (s : State) (o : EngineOp) (m : Mesh) (n : Node) (r : Ray) (v : Vec3 × Vec3 × Rat × Rat) : Option State :=
  let miss := bits n.leaf 27 4 < r.d.raySub
  if miss then some (s.order.setOp (o.setRay { r with d := (r.d.withCell n.miss).withSub 0, inLeaf := false }))
  else
    let p := bits n.leaf 0 27 + r.d.raySub
    let d := r.d.withLeft (r.d.rayLeft - 1)
    let r := { r with d := d }
    let past := fun (s : State) (o : EngineOp) (d : Handle) =>
      some (s.order.setOp (o.setRay { r with d := d.pastTriangle n, inLeaf := decide (d.raySub < bits n.leaf 27 4) }))
    match readTriangle o m p s with
    | .error (x, s) => s.stopRay o r x
    | .ok ((fl, vs), s) =>
      if bits fl 1 1 = 1 then
        let t := match boxInterval n.lo n.hi v.1 v.2.1 with
          | some (some x, _) => max x v.2.2.1
          | _ => v.2.2.1
        some (s.parkHit o r 2 p (f32.round 0 0 false (.num false t)))
      else match triangleHit (vs.getD 0 ⟨0, 0, 0⟩) (vs.getD 1 ⟨0, 0, 0⟩) (vs.getD 2 ⟨0, 0, 0⟩) v.1 v.2.1 with
        | none => past s o d
        | some t =>
          if t < v.2.2.1 ∨ v.2.2.2 ≤ t then past s o d
          else
            let w := f32.round 0 0 false (.num false t)
            if bits fl 0 1 = 1 then past s { o with flags := o.flags ||| w.2 } ((d.withTmax w.1).withSeq p)
            else some (s.parkHit o r 1 p w)

/-- One node (R350). DEDUCED, unsafe: assumption 52 of the log. -/
def State.nodeStep (s : State) (o : EngineOp) (n : Node) (r : Ray) (v : Vec3 × Vec3 × Rat × Rat) : State :=
  let d := r.d.withLeft (r.d.rayLeft - 1)
  match meetsBox n v.1 v.2.1 v.2.2.1 v.2.2.2 with
  | none => s.order.setOp (o.setRay { r with d := (d.withCell n.miss).withSub 0 })
  | some _ =>
    if bits n.leaf 31 1 = 0 then s.order.setOp (o.setRay { r with d := d.withCell (d.rayCell + 1) })
    else s.order.setOp (o.setRay { r with d := d, inLeaf := true })

/-- BVH_STEP (R350): a held ray visits one node, or one triangle of the leaf it is in. -/
def State.bvhStep (s : State) (o : EngineOp) (i : Nat) : Option State :=
  match o.ray i with
  | none => none
  | some r =>
    if !r.marching || !s.bvhMode o.ctx || o.pushesFirst then none
    else match s.castPipe o r.d 32 with
      | none => some (s.faultRay o r cause.engine)
      | some _ => match readMesh o r.d.d7.toNat s with
        | .error (x, s) => s.stopRay o r x
        | .ok (m, s) =>
          if !r.inLeaf && r.d.rayCell == boundary then some (s.storeRay o r r.d 5)
          else if !r.inLeaf && r.d.rayLeft == 0 then some (s.storeRay o r r.d 7)
          else match readNode o m r.d.rayCell s with
            | .error (x, s) => s.stopRay o r x
            | .ok (n, s) => match rayValues r.d with
              | none => some (s.storeRay o r r.d 8)
              | some v => if r.inLeaf then s.triangleStep o m n r v else some (s.nodeStep o n r v)

/-- A held ray of the operation can be advanced by the marcher. -/
def EngineOp.advances (o : EngineOp) : Bool := (o.rays.any fun r => r.status == 1) && !o.pushesFirst

/-- The entries of the open hit record of a stage: of the kind of the oldest, at most as many as the record holds; one in a
deterministic context (R351). -/
def openHits (det : Bool) (size : Nat) (st : Nat) (l : List HitEntry) : List HitEntry :=
  match l.filter fun h => h.stage == st with
  | [] => []
  | h :: r => ((h :: r).filter fun x => x.kind == h.kind).take (if det then 1 else min 15 ((size - 16) / 16))

/-- A hit record (R351). -/
def hitBytes (l : List HitEntry) : List Byte :=
  toBytes 4 ((l.map fun h => h.kind).getD 0 0) ++ toBytes 4 l.length ++ toBytes 8 0
    ++ l.flatMap fun h => toBytes 8 h.ray.toNat ++ toBytes 4 h.prim ++ toBytes 4 h.t.toNat

/-- HIT_RECORD_PUSH (R351): once the record is full, or the operation has no held ray that it can advance. -/
def State.pushHits (s : State) (o : EngineOp) (st : Nat) : Option State :=
  match s.pipeOf o.launch (bayOf o.home) with
  | none => none
  | some p =>
    let det := (s.ctxAt o.ctx).det
    let l := openHits det (stageBytes p.desc st) st o.hits
    let full := det || l.length == min 15 ((stageBytes p.desc st - 16) / 16)
    match l with
    | [] => none
    | h :: _ =>
      if p.room st ∧ (full ∨ !o.advances) then
        let s := (s.order.pushRay o p st h.rayIdx h.n (hitBytes l))
        some (s.settleCast { o with hits := o.hits.filter fun x => !l.contains x })
      else none

/-! ### RRESUME and RQUERY (R355, R356) -/

/-- RRESUME once its commit is past (R355): one scalar step reads the record and writes its STATUS. -/
def rresumeStep (rs2 rs1 rd : Reg) (s : State) : Run State :=
  let a := s.t.readX rs1
  let d := s.t.readX rs2
  if a.toNat % 64 ≠ 0 then raise s cause.misaligned a
  else if field d 0 2 = 3 ∨ field d 2 30 ≠ 0 then .ok (s.setX rd 2).advance
  else if s.defers (.resume d rd) then
    match s.checkScalar { kind := .resume d rd, bytes := 64, va := a, pa := 0 } with
    | .error e => .error e
    | .ok (x, u) => match u.checkPart u.agent .store (a.toNat + 44) 1 with
      | .error _ => hold s
      | .ok (_, u) => .ok (u.queueScalar x).advance
  else if 16 ≤ s.resumedRays (bayOf s.pos) then hold s
  else match s.read s.agent .load 1 a.toNat 64 with
    | .error e => .error e
    | .ok (bs, s) =>
      let r := handleOf bs
      if !r.undecided then .ok (s.orderThread.setX rd 0).advance
      else
        match s.write s.agent .store (a.toNat + 44) (heldByte bs) with
        | .error e => .error e
        | .ok s => .ok ((s.holdRay a r d).orderThread.setX rd 1).advance

/-- RRESUME (R355): a commit point (R429). -/
def execRresume (rs2 rs1 rd : Reg) (s : State) : Out := finish (s.committing (rresumeStep rs2 rs1 rd))

/-- RQUERY (R356): one scalar step; of a held ray the marcher's live values. -/
def execRquery (rs1 rd : Reg) (s : State) : Out :=
  let a := s.t.readX rs1
  finish (if s.defers (.query rd) then
      match s.checkPieces (lineParts a.toNat 64) with
      | .error e => .error e
      | .ok (l, u) =>
        let p := l.headD (0, 0)
        .ok (u.queueScalar { kind := .query rd, bytes := p.2, va := a, pa := p.1, more := l.drop 1, page := s.pageSize s.agent a.toNat }).advance
    else match s.read s.agent .load 1 a.toNat 64 with
      | .error e => .error e
      | .ok (bs, s) => .ok (s.queryStep a bs rd).advance)

/-- The hit parameter of the triangle that a ray parked with STATUS 3 waits on, recomputed exactly (R355). -/
def parkedHit (o : EngineOp) (m : Mesh) (d : Handle) (p : Nat) (s : State) : MeshRun (Option (Nat × Flags) × State) :=
  match readTriangle o m p s with
  | .error e => .error e
  | .ok ((_, vs), s) => match rayValues d with
    | none => .error (.degenerate, s)
    | some v =>
      let t := triangleHit (vs.getD 0 ⟨0, 0, 0⟩) (vs.getD 1 ⟨0, 0, 0⟩) (vs.getD 2 ⟨0, 0, 0⟩) v.1 v.2.1
      .ok (t.map fun q => f32.round 0 0 false (.num false q), s)

/-- The hit parameter that an intersection decision gives lies in the ray's interval (R355). -/
def acceptsHit (d : Handle) (t : Nat) : Bool :=
  match f32.value t, finite d.rayTmin, finite d.rayTmax with
  | .num _ q, some a, some b => decide (a ≤ q) && decide (q < b)
  | _, _, _ => false

/-- The ray goes on after its decision, or ends done (R355); past triangle 15, the last that a leaf can hold, it goes on at the
leaf's MISS. -/
def State.afterDecision (s : State) (o : EngineOp) (r : Ray) (d : Handle) (ends : Bool) : Option State :=
  let r' := { r with decision := none, inLeaf := false }
  if ends then some (s.storeRay o r' (d.withSub (d.raySub + 1)) 5)
  else if d.raySub < 15 then some (s.order.setOp (o.setRay { r' with d := (d.withStatus 1).withSub (d.raySub + 1) }))
  else match readMesh o d.d7.toNat s with
    | .error (x, s) => s.stopRay o r x
    | .ok (m, s) => match readNode o m d.rayCell s with
      | .error (x, s) => s.stopRay o r x
      | .ok (n, s) => some (s.order.setOp (o.setRay { r' with d := ((d.withStatus 1).withCell n.miss).withSub 0 }))

/-- RAY_RESUME (R355): a resumed ray acts on its decision. The triangle is read again for STATUS 3 alone. -/
def State.resumeRay (s : State) (o : EngineOp) (i : Nat) : Option State :=
  match o.ray i with
  | none => none
  | some r => match r.decision with
    | none => none
    | some dec =>
      let k := field dec 0 2
      if 64 ≤ s.heldRays (bayOf o.home) || o.pushesFirst then none
      else if k = 0 then s.afterDecision o r r.d false
      else match readMesh o r.d.d7.toNat s with
        | .error (x, s) => s.stopRay o r x
        | .ok (m, s) => match readNode o m r.d.rayCell s with
          | .error (x, s) => s.stopRay o r x
          | .ok (n, s) =>
            let p := bits n.leaf 0 27 + r.d.raySub
            if r.d.rayStatus = 3 then
              match parkedHit o m r.d p s with
              | .error (x, s) => s.stopRay o r x
              | .ok (none, s) => s.afterDecision o r r.d (k == 2)
              | .ok (some w, s) => s.afterDecision { o with flags := o.flags ||| w.2 } r ((r.d.withTmax w.1).withSeq p) (k == 2)
            else
              let t := field dec 32 32
              s.afterDecision o r (if acceptsHit r.d t then (r.d.withTmax t).withSeq p else r.d) (k == 2)

/-! ### Walks (R359, R360) -/

/-- How a walk ends: its status, the cell, and the steps taken. -/
structure WalkEnd where
  status : Nat
  cell : Option Nat
  steps : Nat
  cause : Cause := 0
  deriving DecidableEq, Repr

/-- A walk from a cell on (R360): at most a number of steps more. DEDUCED, safe: assumption 55 of the log. -/
def walkGo (o : EngineOp) (m : Mesh) (target org dir : Vec3) : Nat → Nat → Nat → Nat → State → MeshRun (WalkEnd × State)
  | fuel, c, entry, steps, s =>
    match readCell o m false c s with
    | .error (.fault x, s) => .ok ({ status := 9, cell := none, steps := steps, cause := x }, s)
    | .error e => .error e
    | .ok (cell, s) =>
      if cell.degenerate then .ok ({ status := 8, cell := none, steps := steps }, s)
      else if cell.planes.all fun p => decide (p.at target ≤ 0) then .ok ({ status := 5, cell := some c, steps := steps }, s)
      else match fuel with
        | 0 => .ok ({ status := 7, cell := none, steps := steps }, s)
        | fuel + 1 => match exitFace (exits cell.planes entry org dir) with
          | none => .ok ({ status := 8, cell := none, steps := steps }, s)
          | some (e, _) =>
            let n := cell.nbrs.getD e boundary
            if n = boundary then .ok ({ status := 6, cell := some boundary, steps := steps + 1 }, s)
            else match readNeighbours o m n s with
              | .error (.fault x, s) => .ok ({ status := 9, cell := none, steps := steps + 1, cause := x }, s)
              | .error e => .error e
              | .ok (l, s) => walkGo o m target org dir fuel n (entryFace l c) (steps + 1) s

/-- The whole walk of a query: from the centroid of its start cell to its point (R360). -/
def walkRun (o : EngineOp) (target : List Nat) (start : Nat) (s : State) : MeshRun (WalkEnd × State) :=
  let fail := fun (x : MeshStop) (s : State) => match x with
    | .wait => .error (.wait, s)
    | .degenerate => .ok (({ status := 8, cell := none, steps := 0 } : WalkEnd), s)
    | .fault c => .ok (({ status := 9, cell := none, steps := 0, cause := c } : WalkEnd), s)
  match readMesh o (o.word 0).toNat s with
  | .error (x, s) => fail x s
  | .ok (m, s) => match finites target with
    | none => fail .degenerate s
    | some l => match readCell o m true start s with
      | .error (x, s) => fail x s
      | .ok (cell, s) =>
        if cell.degenerate then fail .degenerate s
        else walkGo o m (vecOf l) cell.centroid ((vecOf l).sub cell.centroid) (field (o.word 2) 32 32) start 15 0 s

/-- The bytes that a walk query writes: FOUND, STEPS, STATUS, CAUSE and zeros (R359). A cell that the spec does not state
is free, and depends on the query alone, as no race decides it (R426). -/
def walkBytes (query : List Byte) (w : WalkEnd) : List Byte :=
  toBytes 4 (w.cell.getD ((Config.freeValue (ofBytes query)).toNat % 2 ^ 32)) ++ toBytes 4 w.steps ++ [BitVec.ofNat 8 w.status, w.cause]

/-- The command block of a walk is refused (R338, R359). -/
def State.badWalk (s : State) (o : EngineOp) : Bool :=
  o.word 3 != 0 || o.word 4 != 0 || o.word 5 != 0 || decide (2 ^ 20 < field (o.word 2) 0 32)
    || field (o.word 1) 0 5 != 0 || s.bvhMode o.ctx

/-- WALK_QUERY (R360): the next query of a walk is located and written; the token ends with the last. -/
def State.walkQuery (s : State) (o : EngineOp) (q : Nat) : Option State :=
  if o.kind ≠ .walk ∨ o.progress ≠ q ∨ !(o.phase == .queued || o.phase == .running) then none
  else if s.badWalk o || !s.modeLoaded o.ctx then some (s.finalOp o 4 cause.engine 0)
  else if field (o.word 2) 0 32 ≤ q then some (s.finalOp o 3 0 0)
  else
    let a := (o.word 1 + BitVec.ofNat 64 (32 * q)).toNat
    let fail := fun (x : Stop) (s : State) => match x with
      | .wait _ => none
      | .trap c _ => some (s.finalOp o 4 c 0)
    match s.read o.agent .source 4 a 32 with
    | .error (x, s) => fail x s
    | .ok (bs, s) => match walkRun o (wordsAt bs 0 3) (wordAt bs 3) s with
      | .error _ => none
      | .ok (w, s) => match s.write o.agent .dest (a + 16) (walkBytes (bs.take 16) w) with
        | .error (x, s) => fail x s
        | .ok s =>
          if q + 1 = field (o.word 2) 0 32 then some (s.finalOp o 3 0 0)
          else some (s.order.setOp { o with phase := .running, progress := q + 1 })

end Sys2Proof.Machine
end

