-- ==== Sys2Proof/Machine/HandleScalar.lean ====
section
/-! DEFINITION. The scalar handle words: HLDH, HSTH, HINFO, HITER, HATTACH, HDETACH (R292 to R294, R299, R300). -/

namespace Sys2Proof.Machine

/-- HLDH (R292). A null handle is all zeros. DESIGN CHOICE, unsafe: assumption 122 of the log. -/
def execHldh (rs1 : Reg) (hd : HReg) (s : State) : Out :=
  let a := s.t.readX rs1
  finish (if a.toNat % 64 ≠ 0 then raise s cause.misaligned a
    else match scalarRead a 64 s with
      | .error e => .error e
      | .ok (bs, s) =>
        let h := handleOf bs
        if !h.valid then .ok ({ s with t := s.t.writeH hd {} } : State).advance
        else if h.wellFormed then .ok ({ s with t := s.t.writeH hd h } : State).advance
        else raise s cause.formatRegion a)

/-- HSTH (R292). -/
def execHsth (hs : HReg) (rs1 : Reg) (s : State) : Out :=
  finish (match s.accessScalar { kind := .handle (s.t.readH hs), bytes := 64, va := s.t.readX rs1, pa := 0 } with
    | .error e => .error e
    | .ok s => .ok s.advance)

/-- A 32-bit entry read as one scalar step, at an address modulo 2⁶⁴. -/
def readEntry (a : Nat) (s : State) : Run (Nat × State) :=
  match scalarRead (BitVec.ofNat 64 a) 4 s with
  | .error e => .error e
  | .ok (bs, s) => .ok (ofBytes bs, s)

/-- The number of stored entries of a handle that is not null (R293). -/
def storedEntries (h : Handle) (s : State) : Run (Nat × State) :=
  match h.pattern with
  | some .rows => readEntry (h.pos + 4 * h.nr) s
  | some .blocks => readEntry (h.pos + 4 * (h.nr / 48)) s
  | some .coords =>
    match readEntry h.pos s with
    | .error e => .error e
    | .ok (a, s) => match readEntry (h.pos + 4) s with
      | .error e => .error e
      | .ok (b, s) => .ok ((b + 2 ^ 32 - a) % 2 ^ 32, s)
  | _ => .ok (h.fr * h.nc, s)

/-- COUNT of a handle's list (R293). -/
def listCount (h : Handle) (s : State) : Run (Nat × State) :=
  if h.list = 0 then .ok (0, s)
  else match scalarRead h.d7 64 s with
    | .error e => .error e
    | .ok (bs, s) => match listHeader bs with
      | none => raise s cause.formatRegion h.d7
      | some (n, _) => .ok (n, s)

/-- HINFO (R293). DEDUCED, safe: assumption 33 of the log. -/
def execHinfo (hs : HReg) (sel : BitVec 5) (rd : Reg) (s : State) : Out :=
  let h := s.t.readH hs
  finish (if 9 < sel.toNat then illegalAt (.hinfo hs sel rd) s
    else if sel.toNat < 8 then .ok (s.setX rd (h.dword sel.toNat)).advance
    else if !h.valid then raise s cause.formatRegion 0
    else match (if sel = 8 then storedEntries h s else listCount h s) with
      | .error e => .error e
      | .ok (n, s) => .ok (s.setX rd (BitVec.ofNat 64 n)).advance)

/-- The least row b from a given one with POS[b] ≤ k < POS[b + 1], where `lo` is POS[b] (R294). -/
def findRow (h : Handle) (k : Nat) : Nat → Nat → Nat → State → Run (Option Nat × State)
  | 0, _, _, s => .ok (none, s)
  | left + 1, b, lo, s =>
    match readEntry (h.pos + 4 * (b + 1)) s with
    | .error e => .error e
    | .ok (hi, s) => if lo ≤ k ∧ k < hi then .ok (some b, s) else findRow h k left (b + 1) hi s

/-- What HITER finds: nothing more, an entry of no row, or the window of an entry (R294). -/
inductive Iter where
  | finished
  | astray (k : Nat)
  | found (k row col : Nat)
  deriving DecidableEq, Repr

/-- The reads of HITER (R294). -/
def iterate (h : Handle) (pat : Pattern) (s : State) : Run (Iter × State) :=
  if pat = .coords then
    match readEntry h.pos s with
    | .error e => .error e
    | .ok (lo, s) => match readEntry (h.pos + 4) s with
      | .error e => .error e
      | .ok (hi, s) =>
        let k := max h.cursor lo
        if hi ≤ k then .ok (.finished, s)
        else match scalarRead (BitVec.ofNat 64 (h.crd + 8 * k)) 8 s with
          | .error e => .error e
          | .ok (bs, s) => .ok (.found k (ofBytes (bs.take 4)) (ofBytes (bs.drop 4)), s)
  else
    let unit := if pat = .blocks then 48 else 1
    let nrow := h.nr / unit
    let k := h.cursor
    match readEntry (h.pos + 4 * nrow) s with
    | .error e => .error e
    | .ok (hi, s) =>
      if hi ≤ k then .ok (.finished, s)
      else match readEntry h.pos s with
        | .error e => .error e
        | .ok (lo, s) => match findRow h k nrow 0 lo s with
          | .error e => .error e
          | .ok (none, s) => .ok (.astray k, s)
          | .ok (some b, s) => match readEntry (h.crd + 4 * k) s with
            | .error e => .error e
            | .ok (c, s) => .ok (.found k (unit * b) (unit * c), s)

/-- The descriptor with a cursor. -/
def Handle.setCursor (h : Handle) (k : Nat) : Handle :=
  { h with d3 := BitVec.ofNat 64 (h.cap * 2 ^ 32 + k % 2 ^ 32) }

/-- The descriptor with a window origin. -/
def Handle.setWindow (h : Handle) (row col : Nat) : Handle :=
  { h with d2 := BitVec.ofNat 64 (col % 2 ^ 32 * 2 ^ 32 + row % 2 ^ 32) }

/-- HITER (R294). -/
def execHiter (hs : HReg) (rd : Reg) (s : State) : Out :=
  let h := s.t.readH hs
  finish (match h.valid, h.pattern with
    | true, some pat =>
      if pat = .dense then raise s cause.formatRegion 0
      else match iterate h pat s with
        | .error e => .error e
        | .ok (.finished, s) => .ok (s.setX rd (-1)).advance
        | .ok (.astray k, s) => .ok (({ s with t := s.t.writeH hs (h.setCursor (k + 1)) } : State).setX rd (-1)).advance
        | .ok (.found k row col, s) =>
          .ok (({ s with t := s.t.writeH hs ((h.setWindow row col).setCursor (k + 1)) } : State).setX rd (BitVec.ofNat 64 k)).advance
    | _, _ => raise s cause.formatRegion 0)

/-- The list at an address, within an attach step: its COUNT, its FOLD bit and doubleword 0 (R295, R299). -/
def attachHeader (list : DWord) (s : State) : Run ((Nat × Bool) × State) :=
  match s.read s.agent .load 1 list.toNat 64 with
  | .error e => .error e
  | .ok (bs, s) => match listHeader bs with
    | none => raise s cause.formatRegion list
    | some r => .ok (r, s)

/-- COUNT and FOLD as doubleword 0 of a list (R295). -/
def headerBytes (count : Nat) (fold : Bool) : List Byte := toBytes 8 (count + if fold then 8 else 0)

/-- A list's doubleword 0 and the bytes of its slots from one on, written at one step: all checks come first. -/
def attachWrite (list : DWord) (count : Nat) (fold : Bool) (slot : Nat) (bs : List Byte) (s : State) : Run State :=
  match s.checkParts s.agent .store (lineParts list.toNat 8) with
  | .error e => .error e
  | .ok (ps, s) => match s.checkParts s.agent .store (lineParts (list.toNat + 64 * slot) bs.length) with
    | .error e => .error e
    | .ok (qs, s) =>
      .ok ((s.putParts s.agent ps (headerBytes count fold)).putParts s.agent qs bs).orderThread

/-- HATTACH once its commit is past (R299). -/
def hattachStep (rs2 rs1 rd : Reg) (s : State) : Run State :=
  let list := s.t.readX rs1
  let desc := s.t.readX rs2
  if list.toNat % 128 ≠ 0 then raise s cause.misaligned list
  else if desc.toNat % 64 ≠ 0 then raise s cause.misaligned desc
  else match scalarRead desc 64 s with
    | .error e => .error e
    | .ok (bs, s) =>
      if layerOf (handleOf bs) = none then raise s cause.formatRegion desc
      else match attachHeader list s with
        | .error e => .error e
        | .ok ((n, fold), s) =>
          if n = 7 then raise s cause.listFull list
          else match attachWrite list (n + 1) fold (n + 1) bs s with
            | .error e => .error e
            | .ok s => .ok (s.setX rd (BitVec.ofNat 64 (n + 1))).advance

/-- HATTACH (R299): a commit point (R429). -/
def execHattach (rs2 rs1 rd : Reg) (s : State) : Out := finish (s.committing (hattachStep rs2 rs1 rd))

/-- HDETACH once its commit is past (R300). -/
def hdetachStep (rs2 rs1 rd : Reg) (s : State) : Run State :=
  let list := s.t.readX rs1
  let m := (s.t.readX rs2).toNat
  if list.toNat % 128 ≠ 0 then raise s cause.misaligned list
  else match attachHeader list s with
    | .error e => .error e
    | .ok ((n, fold), s) =>
      if 1 ≤ m ∧ m ≤ n ∧ !fold then
        match s.read s.agent .load 1 (list.toNat + 64 * (m + 1)) (64 * (n - m)) with
        | .error e => .error e
        | .ok (bs, s) => match attachWrite list (n - 1) false m (bs ++ List.replicate 64 0) s with
          | .error e => .error e
          | .ok s => .ok (s.setX rd (BitVec.ofNat 64 (n - 1))).advance
      else .ok (s.orderThread.setX rd (-1)).advance

/-- HDETACH (R300): a commit point (R429). -/
def execHdetach (rs2 rs1 rd : Reg) (s : State) : Out := finish (s.committing (hdetachStep rs2 rs1 rd))

end Sys2Proof.Machine
end

