-- ==== Sys2Proof/Machine/Fold.lean ====
section
/-! DEFINITION. The fold engine: its read step, which also computes the folded values and sets FOLD, and the step that
publishes the base and removes the folded layers (R309, R310). -/

namespace Sys2Proof.Machine

/-- An earlier fold of the bay holds the engine (R273): it has reached neither a final state nor ready. -/
def State.earlierFold (s : State) (o : EngineOp) : Bool :=
  s.ops.any fun p => decide (p.id < o.id) && sameEngine .fold o.home p && p.phase != .ready

/-- The command block of a fold is refused (R310). -/
def EngineOp.badFold (o : EngineOp) : Bool :=
  (o.word 0).toNat % 64 != 0 || (List.range 5).any fun k => o.word (k + 1) != 0

/-- The places of a dense tensor in row-major order. -/
def Handle.places (h : Handle) : List (Nat × Nat) := (List.range (h.fr * h.nc)).map fun n => (n / h.nc, n % h.nc)

/-- A value with its sign. -/
def withSign (v : FVal) : Signed := (v, v.neg)

/-- The folded values converted (R310): each by RNE, or the stored blocks of 48 encoded, with +0 past the tensor. -/
def Tensor.refold (t : Tensor) (vs : List FVal) : List Conv × Flags :=
  match t.block with
  | some f => encodeGroups f (vs.map withSign ++ List.replicate ((48 - vs.length % 48) % 48) (.num false 0, false))
  | none =>
    let r := vs.map fun v => ieeeConv t.fmt 0 0 (withSign v)
    (r.map fun x => x.1, r.foldl (fun a x => a ||| x.2) 0)

/-- A list's doubleword 0 written by the fold engine. -/
def writeHeader (ag : Agent) (list count : Nat) (fold : Bool) (s : State) : Run State :=
  s.write ag .dest list (headerBytes count fold)

/-- The read step of a fold that is not refused at once: the values, the shadow, and FOLD ← 1 (R310). -/
def foldBody (o : EngineOp) (s : State) : Run (EngineOp × State) :=
  match s.read o.agent .source 4 (o.word 0).toNat 64 with
  | .error e => .error e
  | .ok (bs, s) =>
    let h := handleOf bs
    if !h.wellFormed || h.pattern != some .dense || h.list == 0 then raise s cause.engine 0
    else match openTensor h o.agent 4 s with
      | .error e => .error e
      | .ok (t, s) =>
        match plainRun (t.values h.places s) with
        | .error e => .error e
        | .ok ((vs, fl), s) =>
          if t.fold then raise s cause.engine 0
          else if t.layers = [] then .ok ({ o with phase := .published }, s.order)
          else match writeHeader o.agent h.list t.layers.length true s.order with
            | .error e => .error e
            | .ok s =>
              let c := t.refold vs
              let o := { o with
                words := o.words ++ [h.d7], result := BitVec.ofNat 64 t.layers.length, progress := 1, flags := fl ||| c.2 }
              match putValues t c.1 0 s with
              | .error (.trap x _, s) => .ok ({ o with cause := x, result := 0, phase := .published }, s)
              | .error (.wait _, s) => .ok ({ o with cause := cause.engine, result := 0, phase := .published }, s)
              | .ok (ps, s) => .ok ({ o with phase := .running, shadow := ps.foldl mergePut [] }, s)

/-- FOLD_READ (R310): one engine-access step. DEDUCED, unsafe: assumption 58 of the log. -/
def State.foldRead (s : State) (o : EngineOp) : Option State :=
  if o.kind ≠ .fold ∨ o.phase ≠ .queued ∨ s.earlierFold o then none
  else if o.badFold then some (s.failOp o cause.engine 0)
  else match foldBody o s with
    | .error (.wait _, _) => none
    | .error (.trap c _, s) => some (s.failOp o c 0)
    | .ok (o, s) => some (s.setOp o)

/-- The engine writes of a fold (R310): its values stand in the shadow. -/
def State.foldWrite (s : State) (o : EngineOp) : Option State :=
  if o.kind = .fold ∧ o.phase = .running then some (s.order.setOp { o with phase := .written }) else none

/-- LIST of a fold. -/
def EngineOp.foldList (o : EngineOp) : Nat := (o.word 6).toNat

/-- FOLD ← 0, where the header can be read and written (R310). -/
def State.clearFold (s : State) (o : EngineOp) : State :=
  match s.read o.agent .source 4 o.foldList 64 with
  | .error (_, s) => s
  | .ok (bs, s) => match listHeader bs with
    | none => s
    | some (n, _) => match writeHeader o.agent o.foldList n false s with
      | .error (_, s) => s
      | .ok s => s

/-- The publish of a fold at the step that is being taken (R310): the base and the list together, with the bytes of the list that
it writes, or a cause. -/
def publishFold (o : EngineOp) (s : State) : Run (List Put × State) :=
  let m := o.result.toNat
  match s.read o.agent .source 4 o.foldList 512 with
  | .error e => .error e
  | .ok (bs, s) => match listHeader (bs.take 64) with
    | none => raise s cause.formatRegion (BitVec.ofNat 64 o.foldList)
    | some (n, _) =>
      let slots := (bs.drop (64 * (m + 1))).take (64 * (n - m)) ++ List.replicate (64 * m) 0
      match s.checkParts o.agent .dest (lineParts o.foldList 8) with
      | .error e => .error e
      | .ok (ps, s) => match s.checkParts o.agent .dest (lineParts (o.foldList + 64) slots.length) with
        | .error e => .error e
        | .ok (qs, s) =>
          let head := headerBytes (n - m) false
          .ok (fullPuts o.foldList 0 head ++ fullPuts (o.foldList + 64) 0 slots,
            ((s.publishPuts o.ctx o.shadow).putParts o.agent ps head).putParts o.agent qs slots)

/-- FOLD_PUBLISH (R310): a fold that publishes automatically. DEDUCED, unsafe: assumption 59 of the log. -/
def State.foldPublish (s : State) (o : EngineOp) : Option State :=
  if o.kind = .fold ∧ o.phase = .written ∧ !o.explicit then
    match publishFold o s.order with
    | .error (.wait _, _) => none
    | .error (.trap c _, s) => some (s.failOp o c 0)
    | .ok (_, s) => some (s.setOp { o with phase := .published, shadow := [], progress := 0 })
  else none

/-- A fold that has set FOLD and ends in fault clears it at its final step (R310). -/
def State.unfold (s : State) (o : EngineOp) : State :=
  if o.kind = .fold ∧ o.progress = 1 then s.clearFold o else s

end Sys2Proof.Machine
end

