-- ==== Sys2Proof/Machine/Publish.lean ====
section
/-! DEFINITION. PUBLISH and PUBLISH.discard (R280). -/

namespace Sys2Proof.Machine

/-- The ready operation in a slot of the thread in focus. -/
def State.readyAt (s : State) (k : Nat) : Option EngineOp :=
  s.ops.find? fun o => o.issuer == s.pos && o.ctx == s.t.ctx && o.slot == k && o.gen == (s.t.token k).gen && o.phase == .ready

/-- Bytes that a commit-point word of a task writes at its own step, added into DIGEST (R429, R432): those of a shadow, over memory
as it stands. -/
def State.digestPuts (s : State) (l : List Put) : DWord :=
  if s.ctx.det then l.foldl (fun d p => foldDigest d p.va (p.over (sget (w := 8) s.mem p.pa))) s.t.digest else s.t.digest

/-- A publish by a word of the thread in focus, with what DIGEST comes to. -/
def State.withDigest (s : State) (d : DWord) : State := { s with t := { s.t with digest := d } }

/-- The publish or the discard of one ready operation, and the state, cause and result that its slot takes (R280, R310). A
fold whose list cannot be written ends in fault with nothing published. -/
def State.publishOne (s : State) (discard : Bool) (o : EngineOp) : (BitVec 4 × BitVec 8 × DWord) × State :=
  if discard then ((6, 0, 0), s.unfold o)
  else if o.kind = .fold then
    match publishFold o s with
    | .ok (l, r) => ((3, 0, o.result), r.withDigest (s.digestPuts (o.shadow ++ l)))
    | .error (.trap c _, s) => ((4, c, 0), s.unfold o)
    | .error (.wait _, s) => ((4, cause.engine, 0), s.unfold o)
  else ((3, 0, o.result), (s.publishPuts o.ctx o.shadow).withDigest (s.digestPuts o.shadow))

/-- One named slot published or discarded, and what it becomes (R280). -/
def State.publishSlot (s : State) (discard : Bool) (k : Nat) : State :=
  match s.readyAt k with
  | none => s
  | some o =>
    let r := s.publishOne discard o
    let s := r.2
    let x := { s.t.token k with st := r.1.1, stamp := BitVec.ofNat 48 s.stamp, cause := r.1.2.1, result := r.1.2.2 }
    { s with t := s.t.setToken k x }

/-- The STATUS and RESULT of a named slot written into its command block (R271, R280): an engine's write, which is none of the task's
(R426, R432); the operation is gone. -/
def State.publishStatus (s : State) (k : Nat) : State :=
  match s.readyAt k with
  | none => s
  | some o =>
    let tok := s.t.token k
    (s.writeStatusBlock o tok.st tok.cause (some tok.result)).dropOp o

/-- The publishes of named slots, at one step (R280): every shadow first, in rising slots, so that where two of them overlap the
bytes of the higher slot stand; then STATUS and RESULT of each. DESIGN CHOICE, unsafe: assumption 116 of the log. -/
def State.publishSlots (s : State) (discard : Bool) (l : List Nat) : State :=
  l.foldl State.publishStatus (l.foldl (fun s k => s.publishSlot discard k) s)

/-- PUBLISH and PUBLISH.discard once their commit is past (R280). -/
def publishStep (discard : Bool) (rs1 rd : Reg) (s : State) : Run State :=
  let l := maskSlots (s.t.readX rs1)
  let bad := l.filter fun k => (s.t.token k).st != 2
  let blocked := fun (k : Nat) => match s.readyAt k with | some o => s.statusHeld o | none => false
  if l.any (fun k => (s.t.token k).st == 1) || (bad == [] && l.any blocked) then hold s
  else
    let s := if bad = [] ∧ l ≠ [] then s.orderThread.publishSlots discard l else s
    .ok (({ s with t := s.t.freeFinal l } : State).setX rd (slotMask bad)).advance

/-- PUBLISH (R280): a commit point (R429). -/
def execPublish (rs1 rd : Reg) (s : State) : Out := finish (s.committing (publishStep false rs1 rd))

/-- PUBLISH.discard (R280): a commit point (R429). -/
def execPublishDiscard (rs1 rd : Reg) (s : State) : Out := finish (s.committing (publishStep true rs1 rd))

end Sys2Proof.Machine
end

