-- ==== Sys2Proof/Machine/Events.lean ====
section
/-! DEFINITION. The steps of the engines and of the vector side as rows of the opcode table. A step that cannot be taken in a
state changes nothing (R240, R241). -/

namespace Sys2Proof.Machine

/-! ### Engines -/

/-- The next access of an operation's engine (R245, R271, R275, R362, R409, R413, R414). -/
def State.engineAccess (s : State) (o : EngineOp) : Option State :=
  match o.kind with
  | .copy => s.copyAccess o
  | .blend => s.blendAccess o
  | .pipeline => s.launchAccess o
  | .remoteWrite => s.remoteAccess o
  | .remoteRead => s.startRemote o
  | .inboundRead => s.inboundRead o
  | _ => none

/-- The engine writes of an operation into its shadow (R245, R277, R310, R409). -/
def State.engineWrite (s : State) (o : EngineOp) : Option State :=
  match o.kind with
  | .copy => s.copyWrite o
  | .fold => s.foldWrite o
  | .inboundWrite => s.inboundWrite o
  | _ => none

/-- The automatic publish of an operation (R278, R409, R414). -/
def State.enginePublish (s : State) (o : EngineOp) : Option State :=
  match o.kind with
  | .inboundWrite => s.inboundPublish o
  | .remoteRead => s.readPublish o
  | _ => s.autoPublish o

/-- The final step of an operation (R278, R310, R409). -/
def State.engineFinal (s : State) (o : EngineOp) : Option State :=
  match o.kind with
  | .inboundRead => s.inboundAnswer o
  | .fold => if o.phase = .published then (s.unfold o).finishOp o else none
  | _ => s.finishOp o

/-- A scratchpad copy that waits takes its entry of the scoreboard (R258). -/
def State.scoreStep (s : State) (o : EngineOp) : Option State :=
  if s.scratchCopy o && !s.hasScore o && (s.takeScore o).hasScore o then some (s.takeScore o) else none

/-- The operation runs on an engine of a core or a bay. -/
def EngineKind.ofSlice : EngineKind → Bool
  | .copy | .fold | .blend | .walk | .rcast => true
  | _ => false

/-- The engine of an operation goes on: its slice belongs to the context's partition (R364, R366), and the marcher and the blend
engine keep the operations of a context that has lost the bay pending (R358). -/
def State.opMoves (s : State) (o : EngineOp) : Bool :=
  (!o.kind.ofSlice || s.ownsSlot (s.ctxAt o.ctx).part o.home) &&
    (!(o.kind == .rcast || o.kind == .walk || o.kind == .blend) || o.phase == .published || o.phase == .ready
      || (s.ctxAt o.ctx).holdsBay (bayOf o.home))

/-- A step of the operation with a number, where it can be taken. DESIGN CHOICE, safe: assumption 84 of the log. -/
def opEvent (n : Nat) (f : State → EngineOp → Option State) (s : State) : Out :=
  .next (match s.op n with
    | some o => if s.opMoves o then (f s o).getD s else s
    | none => s)

/-- ENGINE_ACCESS_STEP (R275). -/
def execEngineAccessStep (op : Nat) (s : State) : Out := opEvent op State.engineAccess s

/-- ENGINE_WRITE_STEP (R245). -/
def execEngineWriteStep (op : Nat) (s : State) : Out := opEvent op State.engineWrite s

/-- SCOREBOARD_TAKE (R258). -/
def execScoreboardTake (op : Nat) (s : State) : Out := opEvent op State.scoreStep s

/-- COPY_RETIRE (R258). -/
def execCopyRetire (op : Nat) (s : State) : Out := opEvent op State.retireCopy s

/-- AUTOMATIC_PUBLISH (R278). -/
def execAutomaticPublish (op : Nat) (s : State) : Out := opEvent op State.enginePublish s

/-- READY_STEP (R278). -/
def execReadyStep (op : Nat) (s : State) : Out := opEvent op State.readyOp s

/-- FINAL_STEP (R278). -/
def execFinalStep (op : Nat) (s : State) : Out := opEvent op State.engineFinal s

/-- FOLD_READ (R310). -/
def execFoldRead (op : Nat) (s : State) : Out := opEvent op State.foldRead s

/-- FOLD_PUBLISH (R310). -/
def execFoldPublish (op : Nat) (s : State) : Out := opEvent op State.foldPublish s

/-- BLEND_TILE (R362). -/
def execBlendTile (op : Nat) (s : State) : Out := opEvent op State.blendTile s

/-- RAY_ADMISSION (R353). -/
def execRayAdmission (op : Nat) (s : State) : Out := opEvent op State.admission s

/-- MARCH_STEP (R345). -/
def execMarchStep (op ray : Nat) (s : State) : Out := opEvent op (fun s o => s.marchStep o ray) s

/-- BVH_STEP (R350). -/
def execBvhStep (op ray : Nat) (s : State) : Out := opEvent op (fun s o => s.bvhStep o ray) s

/-- RAY_READMIT (R348). -/
def execRayReadmit (op ray : Nat) (s : State) : Out := opEvent op (fun s o => s.readmit o ray) s

/-- RAY_RESUME (R355). -/
def execRayResume (op ray : Nat) (s : State) : Out := opEvent op (fun s o => s.resumeRay o ray) s

/-- HIT_RECORD_PUSH (R351). -/
def execHitRecordPush (op stage : Nat) (s : State) : Out := opEvent op (fun s o => s.pushHits o stage) s

/-- WALK_QUERY (R360). -/
def execWalkQuery (op query : Nat) (s : State) : Out := opEvent op (fun s o => s.walkQuery o query) s

/-- PIPELINE_LAUNCH (R413). -/
def execPipelineLaunch (op : Nat) (s : State) : Out := opEvent op State.pipelineLaunch s

/-- REMOTE_WRITE_LAUNCH (R414). -/
def execRemoteWriteLaunch (op : Nat) (s : State) : Out := opEvent op State.sendWrite s

/-- REMOTE_READ_LAUNCH (R414). -/
def execRemoteReadLaunch (op : Nat) (s : State) : Out := opEvent op State.sendRead s

/-! ### The vector side -/

/-- The head of the queue of the thread in focus. -/
def State.headWord (s : State) : Option Instr := s.t.queue.head?.map fun e => e.instr

/-- A step of a slot's thread, where its words may go on (R435) and the step can be taken. -/
def slotEvent (pos : Nat) (f : State → Option State) (s : State) : Out :=
  .next (if slotCount ≤ pos then s else s.during pos fun s => if s.mayRun then (f s).getD s else s)

/-- The head of the queue moves, where it is such a word. -/
def State.moveIf (limit : Option Nat) (p : Instr → Bool) (s : State) : Option State :=
  match s.headWord with
  | none => none
  | some i =>
    if p i then match s.moveHead limit with
      | .moved s => some s
      | .stuck s => some s
    else none

/-- The word starts a vector thread. -/
def isVblk : Instr → Bool | .vblk _ _ => true | _ => false
/-- The word is a TOPAS. -/
def isTopas : Instr → Bool | .topas _ _ _ _ _ => true | _ => false
/-- The word is a MODET. -/
def isModet : Instr → Bool | .modet _ => true | _ => false
/-- The word posts its elements (R157, R306). -/
def isPosting : Instr → Bool
  | .vscadd _ _ _ _ _ | .vstc _ _ _ _ | .hst _ _ _ | .hstTry _ _ _ _ => true
  | _ => false

/-- VECTOR_ADMIT (R50 to R52). In a trap handler nothing is admitted (R385). -/
def execVectorAdmit (pos : Nat) (s : State) : Out :=
  slotEvent pos (fun s =>
    if s.t.inTrap then none
    else (admitNext s.t s.core.rowcap [] s.t.queue).map fun q => { s with t := { s.t with queue := q } }) s

/-- The head has been admitted. -/
def State.headAdmitted (s : State) : Bool := match s.t.queue with | e :: _ => e.admitted | [] => false

/-- A group of lanes of the head runs. -/
def State.groupRuns (s : State) : Bool := match s.t.queue with | e :: _ => e.group.isSome | [] => false

/-- VECTOR_COMMIT (R220): the admitted head goes to its end. -/
def execVectorCommit (pos : Nat) (s : State) : Out :=
  slotEvent pos (fun s => if s.headAdmitted then s.moveIf none (fun _ => true) else none) s

/-- VECTOR_ELEMENT_STEP (R145, R228): one element, item or element group of the admitted head, or the next step of its lane group. -/
def execVectorElementStep (pos : Nat) (s : State) : Out :=
  slotEvent pos (fun s => if s.headAdmitted then s.moveIf (some 1) (fun i => !isTopas i && (!isVblk i || s.groupRuns)) else none) s

/-- POST_STEP (R157): the checked operation at the head moves to the posted set. -/
def execPostStep (pos : Nat) (s : State) : Out :=
  slotEvent pos (fun s => if s.headAdmitted then s.moveIf none isPosting else none) s

/-- POSTED_ELEMENT_STEP (R240): in a deterministic context in posting order (R425). -/
def execPostedElementStep (pos op elem : Nat) (s : State) : Out :=
  slotEvent pos (fun s => if s.ctx.det && (op != 0 || elem != 0) then none else s.performElement op elem) s

/-- LANE_GROUP_ISSUE (R228): while no group of the thread runs. -/
def execLaneGroupIssue (pos : Nat) (s : State) : Out :=
  slotEvent pos (fun s => if s.groupRuns then none else State.moveIf (some 1) isVblk s) s

/-- TOPAS_READ (R205). -/
def execTopasRead (pos : Nat) (s : State) : Out := slotEvent pos (State.moveIf none isTopas) s

/-- TILE_ACQUIRE (R193): a waiting MODET, or the tile word of a restored thread, tries to take the unit. -/
def execTileAcquire (pos : Nat) (s : State) : Out :=
  slotEvent pos (State.moveIf none fun i => isModet i || tileOnly i) s

end Sys2Proof.Machine
end

