-- ==== Sys2Proof/Machine/Background.lean ====
section
/-! DEFINITION. The default schedule: which step the machine takes when the schedule is empty (R241). -/

namespace Sys2Proof.Machine

/-- The first step of a list that can be taken. -/
def firstStep (l : List (Unit → Option State)) : Option State :=
  match l with
  | [] => none
  | f :: r => match f () with
    | some s => some s
    | none => firstStep r

/-- A step of a ray. -/
def State.rayStep (s : State) (o : EngineOp) (r : Ray) : Option State :=
  firstStep [fun _ => s.resumeRay o r.idx, fun _ => s.readmit o r.idx, fun _ => s.marchStep o r.idx, fun _ => s.bvhStep o r.idx]

/-- A step of the marcher on an operation. -/
def State.castStep (s : State) (o : EngineOp) : Option State :=
  firstStep (o.rays.map (fun r (_ : Unit) => s.rayStep o r) ++ (List.range 16).map fun st (_ : Unit) => s.pushHits o st)

/-- A step of an operation. -/
def State.opStep (s : State) (o : EngineOp) : Option State :=
  if !s.opMoves o then none
  else match o.kind with
  | .message => s.finishOp o
  | .walk => s.walkQuery o o.progress
  | .rcast => firstStep [fun _ => s.admission o, fun _ => s.castStep o]
  | .fold => firstStep [fun _ => s.foldRead o, fun _ => s.foldWrite o, fun _ => s.foldPublish o, fun _ => s.readyOp o,
      fun _ => s.engineFinal o]
  | .pipeline => firstStep [fun _ => s.launchAccess o, fun _ => s.pipelineLaunch o, fun _ => s.finishOp o]
  | _ => firstStep [fun _ => s.scoreStep o, fun _ => s.retireCopy o, fun _ => s.engineWrite o, fun _ => s.engineAccess o,
      fun _ => s.blendTile o, fun _ => s.enginePublish o, fun _ => s.readyOp o, fun _ => s.engineFinal o, fun _ => s.sendWrite o,
      fun _ => s.sendRead o]

/-- A step of the access queues of the thread in focus: the head of its vector queue, a scalar access, or a posted element. -/
def State.vectorStep (s : State) : Option State :=
  if !s.mayRun then none
  else match s.moveHead none with
    | .moved s => some s
    | .stuck s => match s.scalarStep with
      | some s => some s
      | none => s.performElement 0 0

/-- The live slots in rising order from one on, then from the lowest (R215). -/
def State.liveAfter (s : State) : List Nat :=
  let l := (s.allThreads.filter fun e => e.2.live).map fun e => e.1
  (l.filter fun p => decide (s.pos < p)) ++ (l.filter fun p => decide (p ≤ s.pos))

/-- A step of the vector side, an engine or a message that the machine can take now, if there is one (R241). -/
def State.background (s : State) : Option State :=
  firstStep
    (((s.allThreads.filter fun e => e.2.live && (e.2.queue != [] || e.2.posted != [] || e.2.scalars != [])).map fun e (_ : Unit) =>
        (s.focus e.1).vectorStep.map fun r => r.focus s.pos)
      ++ s.ops.map (fun o (_ : Unit) => s.opStep o) ++ (List.range s.net.length).map fun i (_ : Unit) => s.deliverAt i)

/-- The next live slot in rising order after the focus, in a round (R241: any step may be taken next). -/
def State.rotate (s : State) : Option State :=
  let l := s.liveAfter
  match l.filter (fun p => decide (s.pos < p)), l with
  | p :: r, _ => some (s.focus (r.foldl min p))
  | [], p :: r => some (s.focus (r.foldl min p))
  | [], [] => none

end Sys2Proof.Machine
end

