-- ==== Sys2Proof/Machine/Atomic.lean ====
section
/-! DEFINITION. Atomics: AMO (R108, R109, R259). -/

namespace Sys2Proof.Machine

/-- The width of an AMO in bytes (R108). -/
def amoWidth (dw : Bool) : Nat := if dw then 8 else 4

/-- The read, the modification and the write of an AMO as one step (R108, R109, R259). DEDUCED, unsafe: assumption 16 of the log. -/
def amoStep (op : AmoOp) (rs2 rs1 : Reg) (dw : Bool) (rd : Reg) (s : State) : Run State :=
  match s.accessScalar
      { kind := .amo op rd, bytes := amoWidth dw, va := s.t.readX rs1, pa := 0, val := s.t.readX rs2, expect := s.t.readX rd } with
  | .error e => .error e
  | .ok s => .ok s.advance

/-- An AMO word: a commit point in a task of a deterministic context (R429). -/
def amo (op : AmoOp) (rs2 rs1 : Reg) (dw : Bool) (rd : Reg) (s : State) : Out :=
  finish (s.committing (amoStep op rs2 rs1 dw rd))

/-- AMOADD (R108). -/
def execAmoadd (rs2 rs1 : Reg) (dw : Bool) (rd : Reg) (s : State) : Out := amo .add rs2 rs1 dw rd s

/-- AMOSWAP (R108). -/
def execAmoswap (rs2 rs1 : Reg) (dw : Bool) (rd : Reg) (s : State) : Out := amo .swap rs2 rs1 dw rd s

/-- AMOCAS (R108). -/
def execAmocas (rs2 rs1 : Reg) (dw : Bool) (rd : Reg) (s : State) : Out := amo .cas rs2 rs1 dw rd s

/-- AMOMIN (R108). -/
def execAmomin (rs2 rs1 : Reg) (dw : Bool) (rd : Reg) (s : State) : Out := amo .min rs2 rs1 dw rd s

/-- AMOMAX (R108). -/
def execAmomax (rs2 rs1 : Reg) (dw : Bool) (rd : Reg) (s : State) : Out := amo .max rs2 rs1 dw rd s

/-- AMOMINU (R108). -/
def execAmominu (rs2 rs1 : Reg) (dw : Bool) (rd : Reg) (s : State) : Out := amo .minu rs2 rs1 dw rd s

/-- AMOMAXU (R108). -/
def execAmomaxu (rs2 rs1 : Reg) (dw : Bool) (rd : Reg) (s : State) : Out := amo .maxu rs2 rs1 dw rd s

/-- AMOAND (R108). -/
def execAmoand (rs2 rs1 : Reg) (dw : Bool) (rd : Reg) (s : State) : Out := amo .and rs2 rs1 dw rd s

/-- AMOOR (R108). -/
def execAmoor (rs2 rs1 : Reg) (dw : Bool) (rd : Reg) (s : State) : Out := amo .or rs2 rs1 dw rd s

/-- AMOXOR (R108). -/
def execAmoxor (rs2 rs1 : Reg) (dw : Bool) (rd : Reg) (s : State) : Out := amo .xor rs2 rs1 dw rd s

end Sys2Proof.Machine
end

