-- ==== Sys2Proof/Machine/Branch.lean ====
section
/-! DEFINITION. Branches, jumps, the hardware loop and the MISC words: BC, BCN, JAL, JALR, LOOP, PREF, LFETCH, STOP
(R90 to R96, R106, R224). -/

namespace Sys2Proof.Machine

/-- A branch on a condition bit (R90). -/
def branch (taken : Bool) (off : BitVec 19) (s : State) : Out :=
  .next (s.complete (if taken then s.t.pc + jumpOffset off else s.t.pc + 4))

/-- BC (R90). -/
def execBc (cond : CReg) (off : BitVec 19) (s : State) : Out := branch (s.t.readC cond) off s

/-- BCN (R90). -/
def execBcn (cond : CReg) (off : BitVec 19) (s : State) : Out := branch (!s.t.readC cond) off s

/-- JAL (R91). -/
def execJal (rd : Reg) (off : BitVec 19) (s : State) : Out :=
  .next ((s.setX rd (s.t.pc + 4)).complete (s.t.pc + jumpOffset off))

/-- JALR (R91): the target is formed before rd is written; a misaligned target traps and writes nothing. -/
def execJalr (imm : BitVec 12) (rs1 rd : Reg) (s : State) : Out :=
  let target := s.t.readX rs1 + imm12 imm
  if target.toNat % 4 ≠ 0 then finish (raise s cause.misalignedFetch target)
  else .next ((s.setX rd (s.t.pc + 4)).complete target)

/-- LOOP (R93): a zero count skips the body; otherwise the loop registers are set. -/
def execLoop (imm : BitVec 12) (rs1 : Reg) (s : State) : Out :=
  let n := s.t.readX rs1
  let last := s.t.pc + imm12 imm
  if n = 0 then .next (({ s with t := { s.t with lcount := 0 } } : State).complete (last + 4))
  else .next ({ s with t := { s.t with lcount := n, lstart := s.t.pc + 4, lend := last } } : State).advance

/-- PREF (R106): a hint without an architectural effect. -/
def execPref (_imm : BitVec 12) (_rs1 : Reg) (_lvl : BitVec 2) (s : State) : Out := .next s.advance

/-- LFETCH in the thread's own stream is illegal (R224). -/
def execLfetch (imm : BitVec 12) (rs1 : Reg) (vi : VReg) (s : State) : Out := finish (illegalAt (.lfetch imm rs1 vi) s)

/-- STOP in the thread's own stream is illegal (R224). -/
def execStop (s : State) : Out := finish (illegalAt .stop s)

end Sys2Proof.Machine
end

