-- ==== Sys2Proof/Machine/Compare.lean ====
section
/-! DEFINITION. Condition bits and integer compares: CMP, CMPI, CCMB, CRDX, CWRX (R86 to R89). -/

namespace Sys2Proof.Machine

/-- A register compare: a truth value of x[rs1] and x[rs2] combined into cd (R87). -/
def compareReg (f : DWord → DWord → Bool) (rs2 rs1 : Reg) (mode : Combine) (cd : CReg) (s : State) : Out :=
  .next (s.combineC mode cd (f (s.t.readX rs1) (s.t.readX rs2))).advance

/-- An immediate compare (R87). -/
def compareImm (f : DWord → DWord → Bool) (imm : BitVec 12) (rs1 : Reg) (mode : Combine) (cd : CReg) (s : State) : Out :=
  .next (s.combineC mode cd (f (s.t.readX rs1) (imm12 imm))).advance

/-- CEQ (R87): =. -/
def execCeq (rs2 rs1 : Reg) (mode : Combine) (cd : CReg) (s : State) : Out := compareReg (fun a b => a == b) rs2 rs1 mode cd s

/-- CEQI (R87). -/
def execCeqi (imm : BitVec 12) (rs1 : Reg) (mode : Combine) (cd : CReg) (s : State) : Out := compareImm (fun a b => a == b) imm rs1 mode cd s

/-- CNE (R87): ≠. -/
def execCne (rs2 rs1 : Reg) (mode : Combine) (cd : CReg) (s : State) : Out := compareReg (fun a b => a != b) rs2 rs1 mode cd s

/-- CNEI (R87). -/
def execCnei (imm : BitVec 12) (rs1 : Reg) (mode : Combine) (cd : CReg) (s : State) : Out := compareImm (fun a b => a != b) imm rs1 mode cd s

/-- CLT (R87): <, signed. -/
def execClt (rs2 rs1 : Reg) (mode : Combine) (cd : CReg) (s : State) : Out := compareReg (fun a b => a.slt b) rs2 rs1 mode cd s

/-- CLTI (R87). -/
def execClti (imm : BitVec 12) (rs1 : Reg) (mode : Combine) (cd : CReg) (s : State) : Out := compareImm (fun a b => a.slt b) imm rs1 mode cd s

/-- CGE (R87): ≥, signed. -/
def execCge (rs2 rs1 : Reg) (mode : Combine) (cd : CReg) (s : State) : Out := compareReg (fun a b => !a.slt b) rs2 rs1 mode cd s

/-- CGEI (R87). -/
def execCgei (imm : BitVec 12) (rs1 : Reg) (mode : Combine) (cd : CReg) (s : State) : Out := compareImm (fun a b => !a.slt b) imm rs1 mode cd s

/-- CLTU (R87): <, unsigned. -/
def execCltu (rs2 rs1 : Reg) (mode : Combine) (cd : CReg) (s : State) : Out := compareReg (fun a b => a.ult b) rs2 rs1 mode cd s

/-- CLTUI (R87). -/
def execCltui (imm : BitVec 12) (rs1 : Reg) (mode : Combine) (cd : CReg) (s : State) : Out := compareImm (fun a b => a.ult b) imm rs1 mode cd s

/-- CGEU (R87): ≥, unsigned. -/
def execCgeu (rs2 rs1 : Reg) (mode : Combine) (cd : CReg) (s : State) : Out := compareReg (fun a b => !a.ult b) rs2 rs1 mode cd s

/-- CGEUI (R87). -/
def execCgeui (imm : BitVec 12) (rs1 : Reg) (mode : Combine) (cd : CReg) (s : State) : Out := compareImm (fun a b => !a.ult b) imm rs1 mode cd s

/-- CBITI (R87): bit imm[5:0] of x[rs1]. -/
def execCbiti (bit : BitVec 6) (rs1 : Reg) (mode : Combine) (cd : CReg) (s : State) : Out :=
  .next (s.combineC mode cd ((s.t.readX rs1).getLsbD bit.toNat)).advance

/-- CCMB (R88): the AND of two condition bits, each possibly inverted, combined into cd. -/
def execCcmb (mode : Combine) (cd : CReg) (nb : Bool) (cb : CReg) (na : Bool) (ca : CReg) (s : State) : Out :=
  .next (s.combineC mode cd ((s.t.readC ca != na) && (s.t.readC cb != nb))).advance

/-- CRDX (R89): the eight condition bits, c0 in bit 0. -/
def execCrdx (rd : Reg) (s : State) : Out := .next (s.setX rd ((s.t.c ||| 1).setWidth 64)).advance

/-- CWRX (R89): c1 to c7 from bits 7 to 1 of x[rs1]. -/
def execCwrx (rs1 : Reg) (s : State) : Out :=
  .next ({ s with t := { s.t with c := (s.t.readX rs1).setWidth 8 ||| 1 } } : State).advance

end Sys2Proof.Machine
end

