-- ==== Sys2Proof/Machine/Frames.lean ====
section
/-! DEFINITION. The video-encode engines and virtual display heads as agents of the ordering machine: their assignment to a
context, their frames, and the notices of frames that end on a fault (R2, R4, R364, R367, R407). -/

namespace Sys2Proof.Machine

/-- The encode engine of slice k is unit k, and display head j of slice k is unit 18 + 4 k + j (R4). -/
def unitSlice (u : Nat) : Nat := if u < 18 then u else (u - 18) / 4

/-- The encode engines and display heads of the package (R2). -/
def unitCount : Nat := 90

/-- A unit of the package. -/
def State.unitAt (s : State) (u : Nat) : FrameUnit := kget {} s.units u

/-- Replace a unit of the package. -/
def State.setUnit (s : State) (u : Nat) (x : FrameUnit) : State := { s with units := kset u x s.units }

/-- The slices of a partition, in rising number. -/
def State.partSlices (s : State) (part : Nat) : List Nat :=
  (List.range 18).filter fun k => s.owners.any fun e => e.1 == k && e.2 == part

/-- The unit that a notice names: an encode engine or a display head by its number within the partition (R4, R407). -/
def State.unitOf (s : State) (part : Nat) (unit number : BitVec 8) : Option Nat :=
  match unit.toNat with
  | 1 => (s.partSlices part)[number.toNat]?
  | 2 => ((s.partSlices part)[number.toNat / 4]?).map fun k => 18 + 4 * k + number.toNat % 4
  | _ => none

/-- How a notice names a unit of a partition (R407). -/
def State.unitName (s : State) (part u : Nat) : BitVec 8 × BitVec 8 :=
  let i := (s.partSlices part).findIdx fun k => k == unitSlice u
  if u < 18 then (1, BitVec.ofNat 8 i) else (2, BitVec.ofNat 8 (4 * i + (u - 18) % 4))

/-- The regulator assigns a unit to a context of the unit's partition, or to none; its frame ends (R367). -/
def State.assignUnit (s : State) (u : Nat) (ctx : Option Nat) : State :=
  if unitCount ≤ u then s
  else match ctx with
    | none => s.setUnit u {}
    | some n =>
      let c := s.ctxAt n
      if c.takesMessages && (s.partSlices c.part).contains (unitSlice u) then s.setUnit u { ctx := some n } else s

/-- A frame of an assigned unit begins. -/
def State.frameStart (s : State) (u : Nat) : State :=
  let x := s.unitAt u
  if x.ctx.isSome ∧ !x.active then s.setUnit u { x with active := true, frame := [] } else s

/-- A frame ends. -/
def State.frameEnd (s : State) (u : Nat) : State := s.setUnit u { s.unitAt u with active := false }

/-- The unit as an agent: of its slice's die, in its context. R367 names no level; the unit reads as level 1.
DESIGN CHOICE, unsafe: assumption 100 of the log. -/
def unitAgent (u ctx : Nat) : Agent := { core := none, bay := 8 * unitSlice u, level := true, ctx := ctx }

/-- The notice of a frame that ended on a fault: in queue 0 of the owning context, or a count where the queue is full (R407). -/
def State.notice (s : State) (ctx : Nat) (unit number : BitVec 8) (cause : BitVec 16) (address : DWord) : State :=
  let payload := toBytes 2 cause.toNat ++ [unit, number, 0, 0, 0, 0] ++ toBytes 8 address.toNat
  if (s.ctxAt ctx).queueRoom 0 then s.enqueue ctx 0 0xFFFE 2 payload
  else { s with telemetry := { s.telemetry with notice := s.telemetry.notice + 1 } }

/-- A read of a unit's frame within one line, through its context's translation and permissions; a fault ends the frame, and the
owning context gets a notice (R367, R407). -/
def State.frameRead (s : State) (u va n : Nat) : State :=
  let x := s.unitAt u
  match x.ctx with
  | none => s
  | some ctx =>
    if !x.active ∨ n = 0 ∨ 128 < va % 128 + n then s
    else match s.read (unitAgent u ctx) .source 4 va n with
      | .error (.wait _, _) => s
      | .error (.trap c v, s) =>
        let name := s.unitName (s.ctxAt ctx).part u
        (s.frameEnd u).notice ctx name.1 name.2 (c.setWidth 16) v
      | .ok (bs, s) => s.order.setUnit u { x with frame := x.frame ++ bs }

/-- FRAME_FAULT (R367, R407): a unit of the context's partition that is assigned to the context ends its frame on a fault. -/
def execFrameFault (ctx : Nat) (unit number : BitVec 8) (cause : BitVec 16) (address : DWord) (s : State) : Out :=
  let c := s.ctxAt ctx
  .next (match s.unitOf c.part unit number with
    | none => s
    | some u =>
      if c.takesMessages ∧ (s.unitAt u).ctx = some ctx ∧ (s.unitAt u).active then
        (s.frameEnd u).notice ctx unit number cause address
      else s)

end Sys2Proof.Machine
end

