-- ==== Sys2Proof/Machine/Status.lean ====
section
/-! DEFINITION. Status registers: which there are, reading one, the waits of a read or write, and writing one
(R34, R46, R49, R95, R196, R369, R370, R379, R380, R382, R389, R433, R469). -/

namespace Sys2Proof.Machine

/-- The number names a status register (R34, R46, R369, R382, R433). -/
def statusNamed (n : Nat) : Bool :=
  decide (n ≤ 0x16) || (decide (0x100 ≤ n) && decide (n ≤ 0x105)) || (decide (0x110 ≤ n) && decide (n ≤ 0x118))
    || (decide (0x120 ≤ n) && decide (n ≤ 0x124)) || n == 0x130 || n == 0x131

/-- The register may be written by SWR, SSET and SCLR (R46, R369, R382, R433). -/
def statusWritable (n : Nat) : Bool :=
  [0x003, 0x004, 0x005, 0x006, 0x007, 0x009, 0x00A, 0x00B, 0x00C, 0x016, 0x101, 0x102, 0x103, 0x104, 0x105,
    0x110, 0x114, 0x116, 0x118, 0x130, 0x131].contains n

/-- CTXID (R369). -/
def State.ctxid (s : State) : DWord :=
  BitVec.ofNat 64 ((if s.ctx.det then 2 ^ 16 else 0) + s.ctx.part % 32 * 2 ^ 10 + s.t.ctx % 1024)

/-- VCP (R46, R220): the address of the oldest entry, or 0. -/
def Thread.vcp (t : Thread) : DWord := match t.queue with | [] => 0 | e :: _ => e.addr

/-- TILECAP (R382). -/
def CoreState.tilecap (c : CoreState) : DWord := BitVec.ofNat 64 (c.tilecapK % 128 * 256 + c.tilecapZn % 8)

/-- The value of a status register (R46, R369, R382, R433). -/
def State.readStatus (s : State) (n : Nat) : DWord :=
  let t := s.t
  match n with
  | 0x000 => t.vl.setWidth 64
  | 0x001 => t.vtype
  | 0x002 => t.vcp
  | 0x003 => t.vrsi
  | 0x004 => t.vrss
  | 0x005 => t.fflags.setWidth 64
  | 0x006 => t.frm.setWidth 64
  | 0x007 => boolWord t.gmode
  | 0x008 => t.tshape
  | 0x009 => t.lcount
  | 0x00A => t.lstart
  | 0x00B => t.lend
  | 0x00C => t.lbypass
  | 0x00D => s.timeOf t
  | 0x00E => t.taskix
  | 0x00F => t.digest
  | 0x010 => BitVec.ofNat 64 (s.pos % 4)
  | 0x011 => BitVec.ofNat 64 (coreOf s.pos % 8)
  | 0x012 => BitVec.ofNat 64 (bayOf s.pos % 16)
  | 0x013 => BitVec.ofNat 64 (dieOf s.pos)
  | 0x014 => BitVec.ofNat 64 s.ctx.pkgid
  | 0x015 => t.stageid.setWidth 64
  | 0x016 => t.sthresh.setWidth 64
  | 0x100 => s.ctxid
  | 0x101 => s.ctx.ptbase
  | 0x102 => s.ctx.frtbase
  | 0x103 => s.ctx.spbase
  | 0x104 => s.ctx.marchsel.setWidth 64
  | 0x105 => t.fgbase
  | 0x110 => s.ctx.trapvec
  | 0x111 => t.trapcause
  | 0x112 => t.trapval
  | 0x113 => t.trappc
  | 0x114 => t.trapspc
  | 0x115 => t.traptime
  | 0x116 => t.trapstat
  | 0x117 => t.traplane
  | 0x118 => t.trapscr
  | 0x120 => BitVec.ofNat 64 s.core.rowcap
  | 0x121 => s.core.lanecap.setWidth 64
  | 0x122 => s.core.tilecap
  | 0x123 => BitVec.ofNat 64 s.core.spcap
  | 0x124 => BitVec.ofNat 64 s.ctx.latclass
  | 0x130 => s.ctx.diglog
  | 0x131 => s.ctx.digctl
  | _ => 0

/-! ### Cached translations (R380) -/

/-- The page of a size that holds an address is the one that an ATCINV names; every page, where it names none (R380). -/
def samePage (va : Option Nat) (size a : Nat) : Bool :=
  match va with
  | none => true
  | some v => v / 2 ^ size == a / 2 ^ size

/-- A byte of a handle store was translated through a page that is named. -/
def Put.through (va : Option Nat) (p : Put) : Bool := samePage va p.page p.va.toNat

/-- A posted operation has translated through a page that is named: an element that has not been performed, or a byte of a handle
store that waits for its publish. -/
def PostedOp.through (va : Option Nat) (o : PostedOp) : Bool :=
  if o.kind = .handle then o.shadow.any (Put.through va) || o.elems.any fun x => x.puts.any (Put.through va)
  else o.elems.any fun x => samePage va x.page x.va.toNat

/-- A queued scalar access was translated through a page that is named; one that runs on into the next page counts for every page. -/
def ScalarAcc.through (va : Option Nat) (a : ScalarAcc) : Bool :=
  a.page != 0 && (samePage va a.page a.va.toNat || (a.more != [] && decide (2 ^ 16 - 64 < a.va.toNat % 2 ^ 16)))

/-- An access of the context that is already translated through a page that is named has not been performed yet: a scalar access, or
one of a posted operation (R157, R380). -/
def State.accessesPending (s : State) (ctx : Nat) (va : Option Nat) : Bool :=
  s.allThreads.any fun e => e.2.live && e.2.ctx == ctx &&
    (e.2.scalars.any (ScalarAcc.through va) || e.2.posted.any (PostedOp.through va))

/-- A queued word makes accesses (R370). -/
def makesAccess (i : Instr) : Bool :=
  (memWord i).isSome || match i with
    | .vscadd _ _ _ _ _ | .vstc _ _ _ _ | .vblk _ _ | .topas _ _ _ _ _ | .tldz _ _ _ | .tstz _ _ _ | .tfetch _ _ _ | .hld _ _ _
    | .hst _ _ _ | .hstTry _ _ _ _ => true
    | _ => false

/-- A queued access of a thread of the context, which a write of PTBASE or SPBASE waits for (R370), also of one that is switched
out; in a trap handler no word waits for its own thread's held entries (R469). -/
def State.accessesQueued (s : State) (ctx : Nat) : Bool :=
  let makes := fun (t : Thread) => t.queue.any fun w => makesAccess w.instr
  (s.allThreads.any fun e => e.2.live && e.2.ctx == ctx && !(e.1 == s.pos && e.2.inTrap) && makes e.2)
    || (s.ctxAt ctx).images.any fun e => makes e.2

/-- The cached translation belongs to the context, and to the page of an address where one is given (R380). -/
def staleEntry (ctx : Nat) (va : Option Nat) (e : TlbEntry) : Bool :=
  e.ctx == ctx && match va with
    | none => true
    | some a => e.page == a / 2 ^ e.size

/-- A word whose elements were checked checks them again. -/
def VWord.anew (w : VWord) : VWord := { w with elems := [], checked := false }

/-- An entry whose elements were checked checks them again, as does the word that its lane group runs. -/
def VEntry.anew (e : VEntry) : VEntry :=
  { e with toVWord := e.toVWord.anew, group := e.group.map fun g => { g with word := g.word.map VWord.anew } }

/-- One step removes translations of a context from every cache and every walk in flight; what a queued word has translated it
translates anew (R380). -/
def State.invalidate (s : State) (ctx : Nat) (va : Option Nat) : State :=
  let s := s.mapCores fun _ c => { c with tlb := c.tlb.filter fun e => !staleEntry ctx va e }
  let s := s.mapBays fun _ b => { b with tlb := b.tlb.filter fun e => !staleEntry ctx va e }
  let s := { s with walks := s.walks.filter fun w => w.ctx != ctx }
  s.mapThreads fun _ t => if t.ctx = ctx then { t with queue := t.queue.map VEntry.anew } else t

/-- A scratchpad copy of the context has not retired, on some core: it holds an entry of the scoreboard, or waits for one
(R258, R370). -/
def State.copiesPending (s : State) (ctx : Nat) : Bool :=
  s.ops.any fun o => o.ctx == ctx && s.scratchCopy o && (o.phase == .queued || o.phase == .running)

/-- A marcher operation of the context has reached neither a final state nor ready (R370). -/
def State.marchPending (s : State) (ctx : Nat) : Bool :=
  s.ops.any fun o => o.ctx == ctx && (o.kind == .rcast || o.kind == .walk)
    && !(o.phase == .ready || o.phase == .published || o.phase == .done)

/-! ### Writing a status register -/

/-- The new value of SWR, SSET and SCLR (R389). -/
def statusValue (k : StatusOp) (old x : DWord) : DWord :=
  match k with
  | .swr => x
  | .sset => old ||| x
  | .sclr => old &&& ~~~x

/-- A bit outside a mask is set. -/
def reservedSet (v mask : DWord) : Bool := v &&& ~~~mask != 0

/-- The write is refused with the permission cause (R370, R433). -/
def State.statusRefused (s : State) (n : Nat) (v : DWord) : Bool :=
  match n with
  | 0x101 => reservedSet v 0x0FFFFFFFFFFFF000 || !s.inStack s.ctx.part v.toNat
  | 0x102 => reservedSet v 0x0000FFFFFFFFFF80
  | 0x103 => reservedSet v 0x0000FFFFFFE00000
  | 0x104 => reservedSet v 3 || v == 3
  | 0x105 => reservedSet v 0x0000FFFFFFFFFF80
  | 0x130 => reservedSet v 0x0000FFFFFFFFFFF0
  | 0x131 => reservedSet v 0xF03 || v &&& 3 == 3
  | _ => false

/-- The scalar stream holds before the read (R49, R196, R469). -/
def State.readHolds (s : State) (n : Nat) : Bool := [0x000, 0x001, 0x003, 0x004, 0x005, 0x008].contains n && !s.t.queueDone

/-- The scalar stream holds before the write (R49, R370, R469). -/
def State.writeHolds (s : State) (n : Nat) : Bool :=
  match n with
  | 0x003 | 0x004 | 0x005 => !s.t.queueDone
  | 0x101 => s.accessesPending s.t.ctx none || s.accessesQueued s.t.ctx
  | 0x102 => s.accessesPending s.t.ctx none
  | 0x103 => s.accessesPending s.t.ctx none || s.accessesQueued s.t.ctx || s.copiesPending s.t.ctx
  | 0x104 => s.marchPending s.t.ctx
  | _ => false

/-- A write of LEND (R95). -/
def Thread.writeLend (t : Thread) (v : DWord) : Thread :=
  let cut := t.lcount != 0 && decide (t.lstart.toNat ≤ v.toNat) && decide (v.toNat < t.pc.toNat)
  { t with lend := v, lcount := if cut then 1 else t.lcount }

/-- A status register takes a value: reserved bits are ignored (R11, R46, R95, R370, R382). -/
def State.putStatus (s : State) (n : Nat) (v : DWord) : State :=
  let t := s.t
  match n with
  | 0x003 => { s with t := { t with vrsi := v &&& 0x3FFF } }
  | 0x004 => { s with t := { t with vrss := v } }
  | 0x005 => { s with t := { t with fflags := v.setWidth 6 } }
  | 0x006 => if 4 < (v.setWidth 3 : BitVec 3).toNat then s else { s with t := { t with frm := v.setWidth 3 } }
  | 0x007 => { s with t := { t with gmode := v.getLsbD 0 } }
  | 0x009 => { s with t := { t with lcount := v } }
  | 0x00A => { s with t := { t with lstart := v } }
  | 0x00B => { s with t := t.writeLend v }
  | 0x00C => { s with t := { t with lbypass := v } }
  | 0x016 => { s with t := { t with sthresh := v.setWidth 32 } }
  | 0x101 => ({ s with ctx := { s.ctx with ptbase := v } } : State).order.invalidate t.ctx none
  | 0x102 => ({ s with ctx := { s.ctx with frtbase := v } } : State).order.invalidate t.ctx none
  | 0x103 => ({ s with ctx := { s.ctx with spbase := v } } : State).order.invalidate t.ctx none
  | 0x104 => { s with ctx := { s.ctx with marchsel := v.setWidth 2 } }
  | 0x105 => { s with t := { t with fgbase := v } }
  | 0x110 => { s with ctx := { s.ctx with trapvec := v &&& 0x0000FFFFFFFFFFFD } }
  | 0x114 => { s with t := { t with trapspc := v } }
  | 0x116 => { s with t := { t with trapstat := (t.trapstat &&& 2) ||| (v &&& 0xD) } }
  | 0x118 => { s with t := { t with trapscr := v } }
  | 0x130 => { s with ctx := { s.ctx with diglog := v } }
  | 0x131 => { s with ctx := { s.ctx with digctl := v } }
  | _ => s

/-- SRD (R34, R36, R389): the value as the committed words left it. -/
def srd (i : Instr) (n : Nat) (rd : Reg) (s : State) : Run State :=
  if !statusNamed n then illegalAt i s
  else if 0x100 ≤ n ∧ !s.t.level then privilegeAt i s
  else if s.readHolds n then hold s
  else .ok (({ s with tick := s.tick + 1 } : State).setX rd (s.readStatus n)).advance

/-- SWR, SSET and SCLR (R34, R36, R389): one read and write; a refused write leaves the register unchanged. -/
def swr (i : Instr) (k : StatusOp) (n : Nat) (rs1 : Reg) (s : State) : Run State :=
  if !statusWritable n then illegalAt i s
  else if 0x100 ≤ n ∧ !s.t.level then privilegeAt i s
  else
    let v := statusValue k (s.readStatus n) (s.t.readX rs1)
    if s.statusRefused n v then raise s cause.permission (BitVec.ofNat 64 n)
    else if s.writeHolds n then hold s
    else .ok (s.putStatus n v).advance

/-- The word of a status write. -/
def statusInstr (k : StatusOp) (reg : BitVec 12) (rs1 : Reg) : Instr :=
  match k with
  | .swr => .swr reg rs1
  | .sset => .sset reg rs1
  | .sclr => .sclr reg rs1

end Sys2Proof.Machine
end

