-- ==== Sys2Proof/Machine/Contexts.lean ====
section
/-! DEFINITION. The regulator's requests: DEFINE, RESIDE, EVICT, STOP, GRANT, RELEASE, the reassignment of slices, and
pre-emption with its restore (R358, R364 to R366, R381, R394 to R398, R404, R405, R419, R470). -/

namespace Sys2Proof.Machine

/-! ### DEFINE (R404) -/

/-- A refused request (R408, R470). -/
def State.refuse (s : State) (op reason : Nat) : State := s.report (.refused op reason)

/-- CTX of a DEFINE. -/
def reqCtx (r : DefineRequest) : Nat := field r.d0 0 10
/-- PART of a DEFINE. -/
def reqPart (r : DefineRequest) : Nat := field r.d0 10 5
/-- SLOTS of a DEFINE. -/
def reqSlots (r : DefineRequest) : Nat := field r.d2 34 6
/-- BARS of a DEFINE: core, bay, die and package. -/
def reqBars (r : DefineRequest) : List Nat := [field r.d2 58 6, field r.d2 52 6, field r.d2 46 6, field r.d2 40 6]
/-- QCAP of a DEFINE, queue by queue. -/
def reqQcap (r : DefineRequest) : List Nat :=
  (List.range 16).map fun q => bits (r.d3.toNat + 2 ^ 64 * r.d4.toNat + 2 ^ 128 * r.d5.toNat) (12 * q) 12
/-- The body of a DEFINE. -/
def reqBody (r : DefineRequest) : List DWord := [r.d0, r.d1, r.d2, r.d3, r.d4, r.d5, r.d6, r.d7]

/-- A reserved bit is set, START is misaligned, or SLOTS is no number of slots. -/
def reqMalformed (r : DefineRequest) : Bool :=
  field r.d2 0 34 != 0 || r.d1 != 0 || field r.d0 19 45 != 0 || field r.d0 15 1 != 0 || r.d7.toNat % 4 != 0
    || (reqSlots r) == 0 || decide (32 < (reqSlots r))

/-- The partition has a slice. -/
def State.hasPart (s : State) (part : Nat) : Bool := s.owners.any fun e => e.2 == part

/-- The dies that a partition spans. -/
def State.partDies (s : State) (part : Nat) : List Nat :=
  (List.range 9).filter fun d => s.owners.any fun e => e.2 == part && e.1 / 2 == d

/-- The barriers of a level that the defined contexts among some hold. -/
def State.barsHeld (s : State) (level : Nat) (among : Context → Bool) : Nat :=
  ((s.allCtxs.filter fun c => c.2.defined && among c.2).map fun c => c.2.bars.getD level 0).sum

/-- Every level has the barriers that a DEFINE asks for, everywhere that its partition spans (R404). -/
def State.barsFree (s : State) (part : Nat) (bars : List Nat) : Bool :=
  let fits := fun (level : Nat) (among : Context → Bool) => decide (s.barsHeld level among + bars.getD level 0 ≤ 32)
  fits 0 (fun c => c.part == part) && fits 1 (fun c => c.part == part)
    && (s.partDies part).all (fun d => fits 2 fun c => (s.partDies c.part).contains d)
    && fits 3 fun _ => true

/-- The context that a DEFINE gives (R404). -/
def reqContext (r : DefineRequest) : Context :=
  { ({} : Context) with
    defined := true, det := r.d0.getLsbD 16, part := (reqPart r), ptbase := r.d6, latclass := field r.d0 17 2, start := r.d7
    qcap := (reqQcap r), bars := (reqBars r), slots := (reqSlots r), body := (reqBody r) }

/-- The lowest reason to refuse a DEFINE (R404, R441, R470). DESIGN CHOICE, unsafe: assumption 68 of the log. -/
def State.defineReason (s : State) (r : DefineRequest) : Option Nat :=
  if !s.ready then some 1
  else if (s.ctxAt (reqCtx r)).defined then some 4
  else if (reqMalformed r) then some 5
  else if (reqQcap r).getD 0 0 = 0 then some 6
  else if !s.hasPart (reqPart r) then some 7
  else if reservedSet r.d6 0x0FFFFFFFFFFFF000 || !s.inStack (reqPart r) r.d6.toNat then some 8
  else if !s.canReserve (reqPart r) (reqContext r).queueBytes then some 9
  else if !s.barsFree (reqPart r) (reqBars r) then some 10
  else none

/-- DEFINE (R404), from the management endpoint (R403). -/
def execDefine (req : DefineRequest) (s : State) : Out :=
  .next (match s.defineReason req with
    | some k => s.refuse 0 k
    | none => s.setCtx (reqCtx req) { reqContext req with host := s.management })

/-! ### Pre-emption (R394 to R396) -/

/-- A pre-emption takes a core: one of those it names, or each of them where it names none (R394). -/
def takesCore (cores : Option (List Nat)) (k : Nat) : Bool := match cores with | none => true | some l => l.contains k

/-- The cores on which a context is pre-empted once a pre-emption has taken its cores. -/
def Context.awayAfter (c : Context) (cores : Option (List Nat)) : List Nat :=
  c.away ++ (match cores with | none => [] | some l => l.filter fun k => !c.away.contains k)

/-- The cores of a partition. -/
def State.partCores (s : State) (part : Nat) : List Nat :=
  (s.owners.filter fun e => e.2 == part).flatMap fun e => (List.range 64).map fun k => 64 * e.1 + k

/-- The context with its cores taken: it stays resident while it keeps a core of its partition (R394). -/
def State.evicted (s : State) (c : Context) (cores : Option (List Nat)) : Context :=
  let away := c.awayAfter cores
  if cores.isNone || (s.partCores c.part).all fun k => away.contains k then { c with resident := false, away := [] }
  else { c with away := away }

/-- A scratchpad copy of the context on a core that is taken has not retired (R394). -/
def State.copiesOn (s : State) (n : Nat) (cores : Option (List Nat)) : Bool :=
  s.ops.any fun o => o.ctx == n && takesCore cores (coreOf o.home) && s.scratchCopy o && (o.phase == .queued || o.phase == .running)

/-- A held ray of an operation is in the middle of its step, or has a decision to act on (R358). -/
def EngineOp.midStep (o : EngineOp) : Bool :=
  o.kind == .rcast && o.rays.any fun r => r.status == 1 && (r.inLeaf || r.decision.isSome)

/-- Each held ray of an operation parked with STATUS 2 (R358). -/
def State.parkRays (s : State) (o : EngineOp) : State :=
  (o.rays.filter fun r => r.status == 1).foldl (fun (s : State) (r : Ray) =>
    match s.op o.id with
    | none => s
    | some o => s.storeRay o { r with atAdmission := true } r.d 2) s

/-- A blend in progress starts over (R358). -/
def restartBlend (o : EngineOp) : EngineOp :=
  if o.kind = .blend ∧ (o.phase = .running ∨ o.phase = .written) then
    { o with phase := .queued, progress := 0, buf := [], shadow := [], parts := [], flags := 0 }
  else o

/-- The wait that an image keeps: a CWAIT's, with its remaining cycles (R281, R395). Any other word starts again (R394).
DEDUCED, unsafe: assumption 70 of the log. -/
def imageWait (w : Option WaitRec) : Option WaitRec :=
  match w with
  | some w => if w.kind = .cwait then some w else none
  | none => none

/-- What the thread in focus does before its image is taken (R394): its head goes to its next boundary, taking a trap that has begun,
and its scalar accesses and posted elements are performed. -/
def State.wind (s : State) : State := s.toBoundary.flushScalars.performAll

/-- The thread in focus has work that runs on before its image is taken (R394). -/
def State.winding (s : State) : Bool := s.midGroup || s.t.posted != [] || s.t.scalars != []

/-- The image of the thread in focus (R395), and its core without it: the tile unit is saved and released, and what queued
words have translated is translated anew. -/
def State.saveThread (s : State) : Thread × State :=
  let s := s.unpark s.wokenMark
  let owns := s.core.tileOwner == some (s.pos % 4)
  let t := { s.t with
    wait := imageWait s.t.wait, ahead := []
    queue := s.t.queue.map VEntry.anew
    tileSave := if owns then s.core.z.toList else s.t.tileSave }
  (t, { s with core := s.core.releaseTile (s.pos % 4), t := idleThread s.t })

/-- The segments of some slots kept for a context that is switched out, or given back (R431). -/
def State.moveSegs (s : State) (f : Nat → Nat) : State :=
  { s with segs := s.segs.foldl (fun l e => kset (f e.1) e.2 l) [] }

/-- The images of some slots taken. -/
def State.takeImages (n : Nat) : List Nat → State → State
  | [], s => s
  | p :: r, s =>
    let s := s.during p fun s =>
      let x := s.saveThread
      x.2.setCtx n { x.2.ctxAt n with images := kset p x.1 (x.2.ctxAt n).images }
    State.takeImages n r s

/-- The operations that a context loses a bay for (R358): held rays are parked, and blends start over. -/
def State.loseBays (s : State) (n : Nat) (lost : Nat → Bool) : State :=
  let mine := fun (o : EngineOp) => o.ctx == n && lost (bayOf o.home)
  let s := (s.ops.filter fun o => mine o && o.kind == .rcast).foldl (fun (s : State) o => match s.op o.id with
    | some o => s.parkRays o
    | none => s) s
  { s with ops := s.ops.map fun o => if mine o then restartBlend o else o }

/-- The pre-emption of a context on some of its cores, or on all of them (R394): once the work that runs on has ended, its images
are taken and it loses the cores. None while that work is not done. DEDUCED, safe: assumption 69 of the log. -/
def State.preempt (s : State) (n : Nat) (cores : Option (List Nat)) : Option State :=
  let live := (s.allThreads.filter fun e => e.2.live && e.2.ctx == n && takesCore cores (coreOf e.1)).map fun e => e.1
  let lost := fun (s : State) (b : Nat) => !(s.evicted (s.ctxAt n) cores).holdsBay b && (s.ctxAt n).holdsBay b
  if !(s.ctxAt n).resident ∨ s.copiesOn n cores ∨ s.ops.any fun o => o.ctx == n && lost s (bayOf o.home) && o.midStep then none
  else
    let s := live.foldl (fun s p => s.during p State.wind) s
    if !(s.ctxAt n).resident ∨ live.any fun p => (s.focus p).winding then some s
    else
      let s := State.takeImages n live (s.loseBays n (lost s))
      let s := { s with parks := s.parks.filter fun k => !live.contains k.pos }
      let s := s.moveSegs fun k => if live.contains k then awayKey n k else k
      some (s.setCtx n (s.evicted (s.ctxAt n) cores))

/-- PREEMPT of a whole context (R394); on some of its cores it is the action preemptOn of the schedule. -/
def execPreempt (ctx : Nat) (s : State) : Out := .next ((s.preempt ctx none).getD s)

/-- EVICT (R405): pre-emption. -/
def execEvict (ctx : Nat) (s : State) : Out :=
  .next (if !s.ready then s.refuse 2 1 else if !(s.ctxAt ctx).defined then s.drop else (s.preempt ctx none).getD s)

/-! ### Restore (R397) -/

/-- A restored thread that held the tile unit, or whose MODET is at the head of its queue, waits for the unit (R193, R397). -/
def State.rejoin (s : State) : State := if s.t.tileSave != [] then s.queueForUnit else s.headArrives

/-- The images of a context placed again: each in its own slot of the context's partition, with as many quarters of its core, where
they are free. -/
def State.placeImages (n cls : Nat) : List (Nat × Thread) → State → Option State
  | [], s => some s
  | (p, t) :: r, s =>
    let idle := idleQuarters ((s.allThreads.filter fun e => e.2.live && coreOf e.1 == coreOf p).map fun e => e.2.quarters)
    let width := popCount t.quarters
    if (s.threadAt p).live ∨ popCount idle < width ∨ !s.coreUsable cls (coreOf p) ∨ !s.ownsSlot (s.ctxAt n).part p then none
    else
      let s := s.startThread p cls { t with quarters := lowestQuarters idle width, ev := true }
      State.placeImages n cls r (s.during p State.rejoin)

/-- The clock of the partition of a deterministic context that becomes resident is the nominal one: such a partition is never
throttled (R8, R425, R438). The spec does not say when a clock that was lowered before rises; here it is at this step.
DESIGN CHOICE, unsafe: assumption 102 of the log. -/
def State.nominal (s : State) (n : Nat) : State :=
  if (s.ctxAt n).det then { s with clocks := kset (s.ctxAt n).part 16 s.clocks } else s

/-- The restore of a context: its images are threads again (R397). -/
def State.restore (s : State) (n : Nat) : Option State :=
  let c := s.ctxAt n
  if (c.resident ∧ c.away = []) ∨ !c.defined ∨ c.ended then none
  else match State.placeImages n c.latclass c.images s with
    | none => none
    | some s =>
      let s := s.moveSegs fun k => if awayKey n 0 ≤ k ∧ k < awayKey n 0 + slotCount then k - awayKey n 0 else k
      some ((s.setCtx n { s.ctxAt n with resident := true, images := [], away := [] }).nominal n)

/-- RESTORE (R397): of a context that has been resident. -/
def execRestore (ctx : Nat) (s : State) : Out :=
  .next (if (s.ctxAt ctx).started then (s.restore ctx).getD s else s)

/-! ### RESIDE and STOP (R405) -/

/-- The lowest-numbered core of a partition, where it has a slice (R364, R366). -/
def State.firstCore (s : State) (part : Nat) : Option Nat := (s.partBays part).head?.map fun b => 8 * b

/-- The contexts that are resident on a partition (R366). -/
def State.residents (s : State) (part : Nat) : Nat := (s.allCtxs.filter fun c => c.2.resident && c.2.part == part).length

/-- The resident dispatcher (R405). -/
def dispatcher (n : Nat) (q : BitVec 4) (start : DWord) (stamp : Nat) : Thread :=
  { ({} : Thread) with live := true, ctx := n, quarters := q, pc := start, level := true, lastStamp := stamp }

/-- The first RESIDE of a context: its dispatcher starts, once slot 0 of the partition's first core and a quarter are free. -/
def State.startDispatcher (s : State) (n : Nat) : Option State :=
  let c := s.ctxAt n
  match s.firstCore c.part with
  | none => none
  | some k =>
    let p := 4 * k
    let idle := idleQuarters ((s.allThreads.filter fun e => e.2.live && coreOf e.1 == coreOf p).map fun e => e.2.quarters)
    if (s.threadAt p).live ∨ idle = 0 ∨ !s.coreUsable c.latclass (coreOf p) then none
    else
      let s := s.startThread p c.latclass (dispatcher n (lowestQuarters idle 1) c.start s.stamp)
      some ((s.setCtx n { s.ctxAt n with resident := true, started := true }).nominal n)

/-- RESIDE (R366, R405). A deterministic context finds its partition's clock at its nominal rate. -/
def execReside (ctx : Nat) (s : State) : Out :=
  let c := s.ctxAt ctx
  .next (if !s.ready then s.refuse 1 1
    else if !c.defined ∨ c.ended then s.drop
    else if c.resident ∨ 64 ≤ s.residents c.part then s
    else if c.started then (s.restore ctx).getD s
    else (s.startDispatcher ctx).getD s)

/-- STOP (R405): the context ends with the stopped cause, and its definition goes. DEDUCED, unsafe: assumption 13 of the log. -/
def execStopContext (ctx : Nat) (s : State) : Out :=
  let c := s.ctxAt ctx
  .next (if !s.ready then s.refuse 3 1
    else if !c.defined then s.drop
    else if c.ended then s.setCtx ctx { c with defined := false }
    else s.order.endContext ctx cause.stopped 0 0 (stampWord s.order.stamp))

/-! ### GRANT, RELEASE and slices (R365, R381, R419, R455) -/

/-- Two extents have a byte in common. -/
def Extent.meets (a b : Extent) : Bool := decide (a.base < b.base + b.size) && decide (b.base < a.base + a.size)

/-- The extent can be granted (R381, R419): to a partition, within 2⁶⁰ bytes and 16 TiB in all, and free unless shared.
DEDUCED, unsafe: assumption 71 of the log. -/
def State.mayGrant (s : State) (x : Extent) : Bool :=
  s.hasPart x.part && x.size != 0 && decide (x.base + x.size ≤ poolBase)
    && decide (((s.extents.filter fun e => e.part == x.part).map fun e => e.size).sum + x.size ≤ 2 ^ 44)
    && s.extents.all fun e => !e.meets x || (e.shared && x.shared && e.part != x.part)

/-- GRANT (R419). -/
def execGrant (part base size : Nat) (shared : Bool) (s : State) : Out :=
  let x : Extent := { part := part, base := base, size := size, shared := shared }
  .next (if !s.ready then s.refuse 4 1
    else if s.mayGrant x then { s.order with extents := s.extents ++ [x] } else s.refuse 4 11)

/-- The contexts of a partition. -/
def State.partCtxs (s : State) (part : Nat) : List Nat := (s.allCtxs.filter fun c => c.2.defined && c.2.part == part).map fun c => c.1

/-- RELEASE (R380, R419): as an ATCINV of every context of the partition, which waits for the accesses already translated;
then the extent goes back. -/
def execRelease (part base size : Nat) (s : State) : Out :=
  .next (if !s.ready then s.refuse 5 1
    else if !s.extents.any (fun e => e.part == part && e.base == base && e.size == size) then s.refuse 5 11
    else if (s.partCtxs part).any fun n => s.accessesPending n none then s
    else
      let s := (s.partCtxs part).foldl (fun s n => s.invalidate n none) s.order
      { s with extents := s.extents.filter fun e => !(e.part == part && e.base == base && e.size == size) })

/-- A slice's share of the memory stack zeroed (R365, R451), and what it holds of fetches, translations, registers,
scratchpads and accumulators cleared. -/
def State.scrubSlice (s : State) (k : Nat) : State :=
  let inside := fun (a : Nat) => decide (sliceBytes * k ≤ a) && decide (a < sliceBytes * (k + 1))
  let scratch := fun (a : Nat) => decide (2 ^ 62 ≤ a) && (a - 2 ^ 62) / 2 ^ 21 % 1152 / 64 == k
  let s := s.mapCores fun c x => if c / 64 = k then { x with tlb := [], icache := [], z := Vector.replicate 4 [] } else x
  let s := s.mapBays fun b x => if b / 8 = k then { x with tlb := [] } else x
  { s with
    mem := s.mem.filter fun c => !inside c.1 && !scratch c.1
    chk := s.chk.filter fun c => !inside (128 * c.1) && !scratch (128 * c.1)
    quar := s.quar.filter fun l => !inside (128 * l) && !scratch (128 * l) }

/-- The failed cores in the repair map of a die (R455). -/
def Mram.badCores (m : Mram) : List Nat :=
  (m.repair.read.getD {}).repairs.filterMap fun r => match r with | .core c => some c | _ => none

/-- The repair map replaces a core by a spare: the spare of its group of four bays serves the group's first entry (R454, R455).
DEDUCED, unsafe: assumption 124 of the log. -/
def State.repairCore (s : State) (c : Nat) : Bool :=
  ((s.mramOf (c / 128)).badCores.find? fun d => d / 32 == c / 32) == some c

/-- Core entries of the repair map take effect on a slice that belongs to no partition (R455). -/
def State.applyRepairs (s : State) (k : Nat) : State :=
  s.mapCores fun c x => if c / 64 = k ∧ s.repairCore c then { x with failed := false, uncorrectable := [] } else x

/-- SLICE_REASSIGN (R364, R365): of a usable slice, while no context of its partition is resident. -/
def execSliceReassign (slice : Nat) (part : Option Nat) (s : State) : Out :=
  let old := (s.owners.find? fun e => e.1 == slice).map fun e => e.2
  let busy : Bool := match old with | some p => s.residents p != 0 | none => false
  let legal : Bool := match part with | some p => decide (p < 18) | none => true
  .next (if !s.ready ∨ 18 ≤ slice ∨ !s.usableSlices.getLsbD slice ∨ busy ∨ !legal then s
    else
      let s := (s.order.scrubSlice slice).applyRepairs slice
      let s := { s with units := s.units.filter fun u => unitSlice u.1 != slice }
      { s with owners := match part with | some p => kset slice p s.owners | none => kdrop slice s.owners })

end Sys2Proof.Machine
end

