-- ==== Sys2Proof/Machine/Gang.lean ====
section
/-! DEFINITION. Gang launches: the launch, acknowledgements, the check, aborts, barrier arrivals, and messages that the
transport fails to deliver (R335, R401, R421 to R423). -/

namespace Sys2Proof.Machine

/-- What the last acknowledgement releases: messages to other members, and gang barriers (R422). -/
def State.releaseDelayed (s : State) (n : Nat) : State :=
  if (s.ctxAt n).acked then
    let l := s.ops.filter fun o => o.ctx == n && o.kind == .message && o.phase == .queued
    let s := l.foldl (fun (s : State) o => (s.sendOut o).setOp { o with phase := .running }) s
    (List.range 32).foldl (fun (s : State) b => s.releaseGang n b) s
  else s

/-- The launch of a gang context (R413, R421): no thread issues it, and the spec states no logical index for it, so that its key
is free. -/
def State.gangOp (s : State) (n : Nat) (block : List DWord) : State :=
  let key := Config.freeValue s.tick
  let r := ({ s with tick := s.tick + 1 } : State).addNode n 0 0 key
  let s := r.1
  let o : EngineOp :=
    { id := s.nextOp + 1, kind := .pipeline, issuer := nobody, ctx := n, level := true, words := block, node := r.2, key := key }
  { s with ops := s.ops ++ [o], nextOp := s.nextOp + 1 }

/-- A gang LAUNCH that a member can act on (R421). DEDUCED, unsafe: assumption 72 of the log. -/
def gangOk (g : GangRequest) : Bool :=
  decide (1 ≤ g.members) && decide (g.members ≤ 4096) && decide (g.position < g.members) && g.block.length == 6 && g.endpoints.length == g.members

/-- GANG_LAUNCH (R421): the PKGID, the launch, and the member's acknowledgement to every other member and to the host. -/
def execGangLaunch (ctx : Nat) (gang : GangRequest) (s : State) : Out :=
  let c := s.ctxAt ctx
  .next (if !s.takes ctx ∨ !c.resident ∨ c.gang.isSome ∨ !gangOk gang then s.drop
    else
      let g : Gang :=
        { gangId := gang.gangId, members := gang.members, timeout := gang.timeout, acks := [gang.position], checked := false
          arrivals := [], endpoints := gang.endpoints }
      let s := (s.order.setCtx ctx { c with pkgid := gang.position, gang := some g }).gangOp ctx gang.block
      (s.send ctx 0 .gangAck).releaseDelayed ctx)

/-- GANG_ACK (R422, R423): after the check an acknowledgement is ignored. -/
def execGangAck (ctx member : Nat) (s : State) : Out :=
  let c := s.ctxAt ctx
  .next (match (if s.takes ctx then c.gang else none) with
    | none => s.drop
    | some g =>
      if g.checked ∨ g.acks.contains member ∨ g.members ≤ member then s
      else (s.order.setCtx ctx { c with gang := some { g with acks := g.acks ++ [member] } }).releaseDelayed ctx)

/-- The members whose acknowledgement is missing. -/
def Gang.missing (g : Gang) : List Nat := (List.range g.members).filter fun m => !g.acks.contains m

/-- The abort of a gang context (R423): ABORT to the other members, FAIL to the host, and the context's end.
DESIGN CHOICE, unsafe: assumption 73 of the log. -/
def State.abortGang (s : State) (n : Nat) : State :=
  match (s.ctxAt n).gang with
  | none => s
  | some g =>
    let s := (s.order.send n 0 .gangAbort).report (.gangFailure n g.gangId g.missing)
    s.endContext n cause.gang 0 0 (stampWord s.stamp)

/-- GANG_TIMEOUT_CHECK (R423). -/
def execGangTimeoutCheck (ctx : Nat) (s : State) : Out :=
  let c := s.ctxAt ctx
  .next (match c.gang with
    | none => s
    | some g =>
      if g.checked then s
      else if g.missing = [] then s.order.setCtx ctx { c with gang := some { g with checked := true } }
      else s.abortGang ctx)

/-- GANG_ABORT (R423). -/
def execGangAbort (ctx : Nat) (s : State) : Out := .next (if (s.ctxAt ctx).gang.isSome then s.abortGang ctx else s.drop)

/-- GANG_ARRIVE (R266, R335): another member has met its count of a gang barrier. -/
def execGangArrive (ctx member barrier stamp : Nat) (s : State) : Out :=
  let c := s.ctxAt ctx
  .next (match (if s.takes ctx then c.gang else none) with
    | none => s.drop
    | some g =>
      if g.members ≤ member ∨ 32 ≤ barrier then s.drop
      else
        let s := (s.passStamp stamp).order.setCtx ctx { c with gang := some { g with arrivals := g.arrivals ++ [(member, barrier)] } }
        s.releaseGang ctx barrier)

/-- A remote operation or a message to another member that is still on its way ends in fault (R401). -/
def State.loseOp (s : State) (o : EngineOp) : State :=
  let away := (o.kind == .remoteWrite && o.phase == .written) || (o.kind == .remoteRead && o.phase == .running && o.progress == 1)
    || (o.kind == .message && o.phase == .running)
  let target := if o.kind = .message then destMember o.addr else o.member
  if away && target != (s.ctxAt o.ctx).pkgid then
    let s := { s with net := s.net.filter fun m => m.op != o.id }
    s.finalOp o 4 cause.destination 0
  else s

/-- DELIVERY_FAILURE (R401): a remote operation or an MSEND ends its token in fault, and a gang-class message aborts. -/
def execDeliveryFailure (ctx : Nat) (lost : LostMessage) (s : State) : Out :=
  .next (match lost with
    | .gangClass => s.abortGang ctx
    | .operation n => match s.op n with
      | some o => if o.ctx = ctx then s.loseOp o else s
      | none => s
    | .message i => match s.net[i]? with
      | some m => match s.op m.op with
        | some o => if o.ctx = ctx then s.loseOp o else s
        | none => s
      | none => s)

end Sys2Proof.Machine
end

