-- ==== Sys2Proof/Machine/Health.lean ====
section
/-! DEFINITION. The regulator's own events: power-up and its loss, attestation, soft errors, the patrol, power and
temperature, telemetry, lane gating, new images, and writes of other CXL hosts (R55, R255, R420, R439 to R458). -/

namespace Sys2Proof.Machine

/-! ### Images and banks (R443, R445) -/

/-- The configuration of a die. A record whose two copies are both bad reads as the factory left it.
DESIGN CHOICE, unsafe: assumption 2 of the log. -/
def Mram.cfg (m : Mram) : MramConfig := m.config.read.getD {}
/-- The rollback counters of a die. -/
def Mram.count (m : Mram) : Counters := m.counters.read.getD {}
/-- The identity of the package, on die 0. -/
def Mram.ident (m : Mram) : Identity := (m.identity.read.getD none).getD {}

/-- The MRAM of a die with an identity record written by a record write. -/
def Mram.putIdent (m : Mram) (w : {α : Type} → Record α → α → Record α) : Mram :=
  { m with identity := w m.identity (some { m.ident with next := m.ident.next + 1 }) }
/-- The repair map of a die. -/
def Mram.map (m : Mram) : RepairMap := m.repair.read.getD {}

/-- A signature verifies: it has its length, and the image's signer is the public root of the image's kind (R445). -/
def signedBy (root : List Byte) (i : MramImage) : Bool := i.signature.length == 18469 && i.signer == some root

/-- A firmware image is accepted (R445): its signature verifies, and its version is at least the counter. -/
def Mram.firmwareOk (m : Mram) (i : MramImage) : Bool :=
  i.controlStore.isNone && decide (m.count.firmware ≤ i.version) && signedBy m.cfg.firmwareRoot i

/-- A control-store image of a mode is accepted (R445). -/
def Mram.controlOk (m : Mram) (k : Nat) (i : MramImage) : Bool :=
  i.controlStore == some (BitVec.ofNat 2 k) && decide (m.count.control ≤ i.version) && signedBy m.cfg.controlRoot i

/-- The image in a bank, if the regulator accepts it. -/
def Mram.accepted (m : Mram) (bankB : Bool) : Option MramImage :=
  (((if bankB then m.bankB else m.bankA).read.getD none)).filter m.firmwareOk

/-- The control-store images that are loaded (R445). -/
def Mram.controls (m : Mram) : List (Nat × MramImage) :=
  (m.control.read.getD []).filter fun e => decide (e.1 < 3) && m.controlOk e.1 e.2

/-- What a die boots (R445): the bank with the higher accepted version, and bank A on a tie. -/
def Mram.boot (m : Mram) : Boot :=
  let b := match m.accepted false, m.accepted true with
    | some a, some b => decide (a.version < b.version)
    | none, some _ => true
    | _, none => false
  { image := m.accepted b, bankB := b, control := m.controls }

/-- A boot raises a counter to the version that runs: of the control store, the lowest version among the loaded images, so that a
later boot refuses none of them (R444, R445). DESIGN CHOICE, unsafe: assumption 103 of the log. -/
def Mram.booted (m : Mram) : Mram :=
  let fw := match m.boot.image with | some i => i.version | none => 0
  let cs := match m.controls with | e :: r => r.foldl (fun v x => min v x.2.version) e.2.version | [] => 0
  if m.count.firmware < fw ∨ m.count.control < cs then
    { m with counters := m.counters.write { firmware := max m.count.firmware fw, control := max m.count.control cs } }
  else m

/-- An image written into its place of MRAM by a record write: a firmware image into the bank that does not run, or a control-store
image. -/
def State.putImage (s : State) (die : Nat) (i : MramImage) (w : {α : Type} → Record α → α → Record α) : State :=
  let m := s.mramOf die
  s.setMram die (match i.controlStore with
    | some k => { m with control := w m.control (kset k.toNat i (m.control.read.getD [])) }
    | none => if (s.bootOf die).bankB then { m with bankA := w m.bankA (some i) } else { m with bankB := w m.bankB (some i) })

/-- NEW_IMAGE_TO_INACTIVE_BANK (R445): nothing takes effect before the next power-up. -/
def execNewImageToInactiveBank (die : Nat) (image : MramImage) (s : State) : Out :=
  .next (if decide (die < 9) && s.powered then s.putImage die image Record.write else s)

/-! ### Power (R439 to R442, R455) -/

/-- The failed cores of a repair map that no spare serves: a group of four bays has one spare (R454, R455). -/
def shortCores (cores : List Nat) : List Nat :=
  (cores.zipIdx.filter fun c => (cores.take c.2).any fun d => d != c.1 && d / 32 == c.1 / 32).map fun c => c.1

/-- The mask without some bits. -/
def maskWithout (m : BitVec 18) (l : List Nat) : BitVec 18 := l.foldl (fun m k => m &&& ~~~((1 : BitVec 18) <<< k)) m

/-- A repair map with one more entry, once (R455). -/
def RepairMap.add (x : RepairMap) (r : Repair) : RepairMap := if x.repairs.contains r then x else { x with repairs := x.repairs ++ [r] }

/-- An entry added to a die's repair map, once (R455). -/
def State.repair (s : State) (die : Nat) (r : Repair) : State :=
  let m := s.mramOf die
  if m.map.repairs.contains r then s else s.setMram die { m with repair := m.repair.write (m.map.add r) }

/-- The calibration results of a die written (R443). -/
def State.calibrate (s : State) (die : Nat) (l : List Byte) : State :=
  let m := s.mramOf die
  s.setMram die { m with repair := m.repair.write { m.map with calibration := l } }

/-- The dies that take part (R442): usable, and with an accepted boot bank. -/
def State.diesUp (s : State) (b : BringUp) : List Nat :=
  (List.range 9).filter fun d => b.dies.getLsbD d && (s.mramOf d).boot.image.isSome

/-- The usable slices after power-up (R440, R442, R455). -/
def State.bringUpSlices (s : State) (b : BringUp) : BitVec 18 :=
  let dies := (List.range 9).filter fun d => !(s.diesUp b).contains d
  let short := (List.range 9).flatMap fun d => (shortCores (s.mramOf d).badCores).map fun c => c / 64
  maskWithout b.slices (dies.flatMap (fun d => [2 * d, 2 * d + 1]) ++ short)

/-- What the phases before READY leave in MRAM (R443, R445, R455): the counters, the failed cores and lanes, and the calibration. -/
def State.phases (s : State) (b : BringUp) : State :=
  let s := b.failedCores.foldl (fun (s : State) c => s.repair (c / 128) (.core c)) s
  let s := b.failedLanes.foldl (fun (s : State) l => s.repair 0 (.lane l)) s
  let s := b.calibration.zipIdx.foldl (fun (s : State) c => s.calibrate c.2 c.1) s
  (s.diesUp b).foldl (fun (s : State) d => s.setMram d (s.mramOf d).booted) s

/-- What the dies run once they have booted (R442, R445). -/
def State.boots (s : State) (b : BringUp) : List (Nat × Boot) :=
  (List.range 9).map fun d => (d, if (s.diesUp b).contains d then (s.mramOf d).boot else { image := none, control := [] })

/-- The package with power that stays short of READY (R442): the dies that boot have booted, and their counters are raised (R445). -/
def State.waitsForever (s : State) (b : BringUp) : State :=
  let u := (s.diesUp b).foldl (fun (s : State) d => s.setMram d (s.mramOf d).booted) s
  { u with booted := s.boots b, powered := true }

/-- The package at READY (R439): as at reset, with what MRAM holds and the schedule. -/
def State.atReady (s : State) (b : BringUp) : State :=
  let boots := s.boots b
  let s := s.phases b
  let mask := s.bringUpSlices b
  let r : State := { ({} : State) with
    mram := s.mram, booted := boots, tick := s.tick, sched := s.sched, usableSlices := mask, usableEthernet := b.ethernet
    usableCxl := b.cxl, management := s.management }
  let r := ((List.range 9).flatMap fun d => shortCores (s.mramOf d).badCores).foldl (fun (r : State) k =>
    r.setCore k { r.coreAt k with failed := true }) r
  { r with reports := [(readyHeader, .ready mask.toNat b.ethernet.toNat b.cxl.toNat r.firmware)] }

/-- POWER_ON (R439 to R442): phases 1 to 8. Where no boot bank of die 0 verifies, the package stays in phase 2; where die 0 is not
usable, it never raises READY. -/
def execPowerOn (outcome : BringUp) (s : State) : Out :=
  .next (if s.powered then s
    else if (s.mramOf 0).boot.image.isNone then (s.waitsForever outcome).refuse 0 2
    else if !outcome.dies.getLsbD 0 then s.waitsForever outcome
    else s.atReady outcome)

/-- A write of MRAM cut by a loss of power (R442, R444): the record is the old one or the new one. -/
def State.cutWrite (s : State) (x : MramCut) : State :=
  let m := s.mramOf x.die
  match x.write with
  | .image i => s.putImage x.die i fun r v => r.cut v x.firstDone
  | .signatureIndex => if x.die = 0 then s.setMram 0 (m.putIdent fun r v => r.cut v x.firstDone) else s
  | .repair c => s.setMram x.die { m with repair := m.repair.cut (m.map.add (.core c)) x.firstDone }

/-- The package without power (R442): all but MRAM is lost. -/
def State.losePower (s : State) : State :=
  { ({} : State) with
    mram := s.mram, booted := (List.range 9).map fun d => (d, { image := none, control := [] }), tick := s.tick, sched := s.sched
    management := s.management, powered := false, ready := false, usableSlices := 0, usableEthernet := 0, usableCxl := 0 }

/-- LOSS_OF_POWER (R442, R444) while no record of MRAM is written; where it cuts a write it is the action powerCut of the
schedule. -/
def execLossOfPower (s : State) : Out := .next s.losePower

/-! ### Attestation (R446, R447) -/

/-- The digest of an image, or of nothing. -/
def imageHash (i : Option MramImage) : List Byte := Config.shake256 (match i with | some i => i.payload | none => [])

/-- The fields of a quote (R447), with the stamp of its step; the hashes are those of the images that run.
DESIGN CHOICE, unsafe: assumption 76 of the log. -/
def State.quoteBody (s : State) (nonce : List Byte) (ctx : Nat) : List Byte :=
  let m := s.mramOf 0
  let r := s.bootOf 0
  let c := s.ctxAt ctx
  let image := fun (k : Nat) => (r.control.find? fun e => e.1 == k).map fun e => e.2
  let version := (r.control.map fun e => e.2.version).foldl max 0
  nonce ++ m.ident.root ++ imageHash r.image ++ (List.range 3).flatMap (fun k => imageHash (image k))
    ++ toBytes 4 s.firmware ++ toBytes 4 version ++ toBytes 4 m.count.firmware ++ toBytes 4 m.count.control
    ++ toBytes 4 s.usableSlices.toNat ++ toBytes 4 c.part
    ++ (if c.defined then Config.shake256 (c.body.flatMap fun d => toBytes 8 d.toNat) else List.replicate 32 0)
    ++ toBytes 8 s.stamp

/-- ATTESTATION_CHALLENGE (R441, R446, R447): the next-index record advances before the signature is released. -/
def execAttestationChallenge (nonce : List Byte) (ctx : Nat) (s : State) : Out :=
  let m := s.mramOf 0
  .next (if !s.ready then s.refuse 0 1
    else if nonce.length ≠ 32 then s.drop
    else if 2 ^ 40 ≤ m.ident.next then s.refuse 0 3
    else
      let s := s.order.setMram 0 (m.putIdent Record.write)
      let body := s.quoteBody nonce ctx
      s.send ctx 0 (.quote body (Config.identitySign m.ident.seed m.ident.next (Config.shake256 body))))

/-! ### Errors of the arrays (R448, R450, R452, R453) -/

/-- Bits of a byte of memory change with no write: the line's check value no longer matches as it did (R448). -/
def State.flip (s : State) (a : Nat) (f : Byte) : State :=
  let line := a / 128
  let old := crc32c (bytesAt s.mem (128 * line) 128)
  let s := { s with mem := sset (w := 8) s.mem a (sget (w := 8) s.mem a ^^^ f) }
  let new := crc32c (bytesAt s.mem (128 * line) 128)
  { s with chk := sset s.chk line (sget s.chk line ^^^ old ^^^ new) }

/-- A count of errors by kind of array, some more of a kind. -/
def countErrors (k : ArrayKind) (n : Nat) (l : List (ArrayKind × Nat)) : List (ArrayKind × Nat) :=
  l.map fun e => if e.1 = k then (e.1, e.2 + n) else e

/-- An uncorrectable error counted (R458). DESIGN CHOICE, unsafe: assumption 74 of the log. -/
def State.countUncorrectable (s : State) (k : ArrayKind) : State :=
  { s with telemetry := { s.telemetry with uncorr := countErrors k 1 s.telemetry.uncorr } }

/-- Corrected errors counted (R452, R458). -/
def State.countCorrected (s : State) (k : ArrayKind) (n : Nat) : State :=
  { s with telemetry := { s.telemetry with corr := countErrors k n s.telemetry.corr } }

/-- The check value of a line inverted, as an array delivers a line that it cannot correct (R452). -/
def State.spoil (s : State) (l : Nat) : State := { s with chk := if sget s.chk l = 0 then sset s.chk l 0xFFFFFFFF else s.chk }

/-- A record of a stage queue changed. -/
def State.mapRecord (s : State) (launch bay st i : Nat) (f : StageRecord → StageRecord) : State :=
  match s.pipeOf launch bay with
  | none => s
  | some p => s.setPipe (p.setRecords st ((p.queue st).modify i f))

/-- One copy of a record whose CRC no longer holds (R444, R452). -/
def Record.upset {α : Type} (r : Record α) (second : Bool) : Record α :=
  if second then { r with b := { r.b with crc := 1 } } else { r with a := { r.a with crc := 1 } }

/-- A copy of a record of MRAM lost (R452): the other copy is read from then on (R444). -/
def Mram.upset (m : Mram) (r : MramRecord) (second : Bool) : Mram :=
  match r with
  | .bankA => { m with bankA := m.bankA.upset second }
  | .bankB => { m with bankB := m.bankB.upset second }
  | .controlStore => { m with control := m.control.upset second }
  | .config => { m with config := m.config.upset second }
  | .repair => { m with repair := m.repair.upset second }
  | .counters => { m with counters := m.counters.upset second }
  | .identity => { m with identity := m.identity.upset second }
  | .events => { m with events := m.events.upset second }

/-- An uncorrectable error of an array of a core (R455): a core that has met sixteen within an hour of service joins the repair map. -/
def State.wearCore (s : State) (k : Nat) : State :=
  let c := s.coreAt k
  let l := s.seconds :: c.uncorrectable.filter fun t => decide (s.seconds < t + 3600)
  let s := s.setCore k { c with uncorrectable := l }
  if 16 ≤ l.length then s.repair (k / 128) (.core k) else s

/-- An uncorrectable error of a core's register arrays (R452, R455): the context ends with code 7. Before READY no stamp is issued
(R439). -/
def State.coreError (s : State) (n k : Nat) : State :=
  let s := s.countUncorrectable .core
  let s := (if s.ready then s.order else s).wearCore k
  let x := s.ctxAt n
  if x.defined && !x.ended then s.endContext n cause.integrity 0 0 (stampWord s.stamp) else s

/-- SOFT_ERROR (R452, R453, R455). The entry of a cache that fails is dropped, and no other. -/
def execSoftError (upset : Upset) (s : State) : Out :=
  .next (if !s.powered then s else match upset with
    | .memory a f => s.beforeError (a / 128) fun s => s.flip a f
    | .uncorrectableLine k l core =>
      let s := s.countUncorrectable k
      (match core with | some c => s.wearCore c | none => s).beforeError l fun s => s.spoil l
    | .message n q i =>
      let c := s.ctxAt n
      (s.countUncorrectable .sram).setCtx n (c.setQueue q ((c.queue q).modify i fun m => { m with check := 0xFFFFFFFF }))
    | .stageRecord launch bay st i => (s.countUncorrectable .sram).mapRecord launch bay st i fun r => { r with check := 0xFFFFFFFF }
    | .register n k => s.coreError n k
    | .cache k fetch i =>
      let s := (s.countUncorrectable .cache).wearCore k
      let c := s.coreAt k
      s.setCore k (if fetch then { c with icache := c.icache.eraseIdx i } else { c with tlb := c.tlb.eraseIdx i })
    | .bayCache k i => let b := s.bayAt k; (s.countUncorrectable .cache).setBay k { b with tlb := b.tlb.eraseIdx i }
    | .mram die r second => (s.countUncorrectable .mram).setMram die ((s.mramOf die).upset r second)
    | .corrected k => s.countCorrected k 1)

/-- PATROL_SCRUB (R453, R455, R458): an uncorrectable line is counted, logged, and left to its first consumer; a row with four corrected errors
joins the repair map. -/
def execPatrolScrub (die : Nat) (finds : List PatrolFind) (s : State) : Out :=
  .next (finds.foldl (fun (s : State) f => match f with
    | .uncorrectable l =>
      ((s.countUncorrectable .stack).beforeError l fun s => s.spoil l).logEvent die (.patrol l s.stamp)
    | .correctedRow r n =>
      let s := s.countCorrected .stack n
      if 4 ≤ n then s.repair die (.row die r) else s) s)

/-- A dirty line of the pool leaves for the pool (R449, R450): a line that does not match is quarantined the first time, and is sent
with poison set, through the port that its decoder gives (R418). -/
def State.poolWrite (s : State) (line ctx : Nat) (va : DWord) : State :=
  let a := 128 * line
  if a < poolBase ∨ s.lineOk line then s
  else
    let s := if s.quar.contains line then s else s.order.quarantine ctx 9 (va.toNat / 128 * 128) line a
    match s.decoderOf (a - poolBase) with
    | some d => { s with out := s.out ++ [.cxlPoison (d.port (a - poolBase)) line] }
    | none => s

/-- A poisoned response of the pool: the line does not match (R417). -/
def State.poisoned (s : State) (line : Nat) : State :=
  if poolBase ≤ 128 * line then s.beforeError line fun s => s.spoil line else s

/-! ### Power and temperature (R438, R456, R457) -/

/-- The partitions that hold a resident deterministic context. -/
def State.holdsDet (s : State) (part : Nat) : Bool := s.allCtxs.any fun c => c.2.resident && c.2.det && c.2.part == part

/-- The arithmetic clock of a partition, in sixteenths of 1 GHz. DESIGN CHOICE, unsafe: assumption 78 of the log. -/
def State.clockOf (s : State) (part : Nat) : Nat := kget 16 s.clocks part

/-- A partition's clock falls by a step, to no less than 250 MHz. One with a deterministic context is never throttled.
DEDUCED, unsafe: assumption 75 of the log. -/
def State.throttle (s : State) (part : Nat) : State :=
  { s with clocks := kset part (max 4 (s.clockOf part - 1)) s.clocks }

/-- Every resident deterministic context ends with power-limit (R438), at one step. -/
def State.endDet (s : State) (watts : Nat) : State :=
  let l := (s.allCtxs.filter fun c => c.2.resident && c.2.det && !c.2.ended).map fun c => c.1
  if l = [] then s
  else
    let s := s.order
    l.foldl (fun (s : State) n => s.endContext n cause.power 0 (BitVec.ofNat 64 watts) (stampWord s.stamp)) s

/-- POWER_SAMPLE (R438, R456): `hot` are the partitions with the highest power. -/
def execPowerSample (watts : Nat) (hot : List Nat) (s : State) : Out :=
  let limit := (s.mramOf 0).cfg.powerLimit
  let s := { s with telemetry := { s.telemetry with power := watts } }
  let s : State :=
    if limit < watts then (hot.filter fun p => !s.holdsDet p).foldl State.throttle { s.endDet watts with calm := 0 }
    else if 10 * watts < 9 * limit then
      if 19 ≤ s.calm then { s with calm := 0, clocks := s.clocks.map fun e => (e.1, min 16 (e.2 + 1)) }
      else { s with calm := s.calm + 1 }
    else { s with calm := 0 }
  .next (if s.clocks.any fun e => e.2 < 16 then
    { s with telemetry := { s.telemetry with throttle := s.telemetry.throttle + 1 } } else s)

/-- The partition of a bay. -/
def State.partOfBay (s : State) (b : Nat) : Option Nat := (s.owners.find? fun e => e.1 == b / 8).map fun e => e.2

/-- Every context of the package ends with stopped (R457). Before READY there is none, and no stamp is issued (R439). -/
def State.stopAll (s : State) : State :=
  let l := (s.allCtxs.filter fun c => c.2.defined && !c.2.ended).map fun c => c.1
  let s := l.foldl (fun (s : State) n => s.endContext n cause.stopped 0 0 (stampWord s.stamp)) (if s.ready then s.order else s)
  { s with stopped := true }

/-- A reading is kept: of a bay's junction, or of a die's inlet; telemetry has the hottest of each (R458). -/
def State.keepReading (s : State) (r : ThermalReading) : State :=
  if r.inlet then
    let l := kset r.die r.tenths s.inlets
    { s with inlets := l, telemetry := { s.telemetry with inlet := (l.map fun e => e.2).foldl max 0 } }
  else
    let b := 16 * r.die + r.bay
    let s := s.setBay b { s.bayAt b with tenths := r.tenths }
    let l := (List.range 144).map fun k => (s.bayAt k).tenths
    { s with telemetry := { s.telemetry with junction := l.foldl max 0 } }

/-- THERMAL_EVENT (R457): the limits are those of the die's configuration. -/
def execThermalEvent (reading : ThermalReading) (s : State) : Out :=
  let c := (s.mramOf reading.die).cfg
  let s := s.keepReading reading
  let stops := if reading.inlet then decide (c.stopInlet < reading.tenths) else decide (c.stopJunction < reading.tenths)
  .next (if !s.powered then s
    else if stops then
      let s := (s.stopAll).report (.thermalStop reading.inlet reading.die reading.bay reading.tenths)
      s.logEvent reading.die (.thermal reading.inlet reading.die reading.bay reading.tenths s.stamp)
    else if !reading.inlet ∧ c.hotJunction < reading.tenths then
      let ended := s.endDet s.telemetry.power
      match s.partOfBay (16 * reading.die + reading.bay) with
      | some p => if s.holdsDet p then ended else ended.throttle p
      | none => ended
    else s)

/-- THERMAL_RESTART (R457): once every junction reads below the restart limit, 85 °C by default. -/
def execThermalRestart (s : State) : Out :=
  let limit := (s.mramOf 0).cfg.restartJunction
  .next (if (List.range 144).all (fun k => decide ((s.bayAt k).tenths < limit)) then { s with stopped := false } else s)

/-- TELEMETRY_REPORT (R458): once every second of the reference clock. -/
def execTelemetryReport (s : State) : Out :=
  let t := s.telemetry
  let repairs := (s.mram.map fun e => e.2.map.repairs.length).sum
  .next (if s.ready then
    ({ s with seconds := s.seconds + 1 } : State).report (.telemetry (([t.drops, t.faultpass, t.absent] ++ (t.corr ++ t.uncorr).map (fun e => e.2)
      ++ [t.quar, t.notice, t.throttle, t.power, t.junction, t.inlet, repairs]).map fun n => n % 2 ^ 64)) else s)

/-! ### Lane gating and other hosts -/

/-- QUARTER_POWER_GATE (R55): LANECAP takes a value, but a quarter of a live thread's partition stays on. -/
def execQuarterPowerGate (core : Nat) (on : BitVec 4) (s : State) : Out :=
  let used := ((s.allThreads.filter fun e => e.2.live && coreOf e.1 == core).map fun e => e.2.quarters).foldl (fun a b => a ||| b) 0
  .next (s.setCore core { s.coreAt core with lanecap := on ||| used })

/-- A pool range lies in a shared extent (R255). DESIGN CHOICE, safe: assumption 79 of the log. -/
def State.inShared (s : State) (a n : Nat) : Bool := s.extents.any fun e => e.shared && decide (e.base ≤ a) && decide (a + n ≤ e.base + e.size)

/-- CXL_HOST_WRITE (R255, R420): another host's write of a shared line enters the machine as one step. -/
def execCxlHostWrite (address : Nat) (body : List Byte) (s : State) : Out :=
  .next (if s.inShared address body.length && decide (address % 128 + body.length ≤ 128) then
    s.order.physWrite (poolBase + address) body else s)

end Sys2Proof.Machine
end

