-- ==== Sys2Proof/Machine/Integer.lean ====
section
/-! DEFINITION. Integer words: OP, OPI, LUI, AUIPC (R83 to R85). -/

namespace Sys2Proof.Machine

/-- A word of opcode OP: x[rd] takes a function of x[rs1] and x[rs2] (R83). -/
def regOp (f : DWord → DWord → DWord) (rs2 rs1 rd : Reg) (s : State) : Out :=
  .next (s.setX rd (f (s.t.readX rs1) (s.t.readX rs2))).advance

/-- A unary word of opcode OP (R83). -/
def unaryOp (f : DWord → DWord) (rs1 rd : Reg) (s : State) : Out :=
  .next (s.setX rd (f (s.t.readX rs1))).advance

/-- The high half of the signed product (R83). -/
def mulHigh (a b : DWord) : DWord := ((a.signExtend 128 * b.signExtend 128) >>> 64).setWidth 64

/-- The high half of the unsigned product (R83). -/
def mulHighU (a b : DWord) : DWord := ((a.setWidth 128 * b.setWidth 128) >>> 64).setWidth 64

/-- DIV (R84): all ones by zero, −2^63 by −1 gives −2^63, otherwise the truncated quotient. -/
def divS (a b : DWord) : DWord :=
  if b = 0 then BitVec.allOnes 64
  else if a = BitVec.intMin 64 ∧ b = BitVec.allOnes 64 then BitVec.intMin 64
  else BitVec.ofInt 64 (a.toInt.tdiv b.toInt)

/-- REM (R84): the dividend by zero, 0 for −2^63 by −1, otherwise the remainder with the dividend's sign. -/
def remS (a b : DWord) : DWord :=
  if b = 0 then a
  else if a = BitVec.intMin 64 ∧ b = BitVec.allOnes 64 then 0
  else BitVec.ofInt 64 (a.toInt.tmod b.toInt)

/-- DIVU (R84). -/
def divU (a b : DWord) : DWord := if b = 0 then BitVec.allOnes 64 else a / b

/-- REMU (R84). -/
def remU (a b : DWord) : DWord := if b = 0 then a else a % b

/-- The number of leading zero bits; 64 of zero (R83). -/
def clz64 (a : DWord) : DWord := if a = 0 then 64 else BitVec.ofNat 64 (63 - Nat.log2 a.toNat)

/-- The number of trailing zero bits; 64 of zero (R83). -/
def ctz64 (a : DWord) : DWord := BitVec.ofNat 64 (((List.range 64).find? fun i => a.getLsbD i).getD 64)

/-- Signed minimum (R83). -/
def minS (a b : DWord) : DWord := if a.slt b then a else b
/-- Signed maximum (R83). -/
def maxS (a b : DWord) : DWord := if a.slt b then b else a
/-- Unsigned minimum (R83). -/
def minU (a b : DWord) : DWord := if a.ult b then a else b
/-- Unsigned maximum (R83). -/
def maxU (a b : DWord) : DWord := if a.ult b then b else a

/-- ADD (R83). -/
def execAdd (rs2 rs1 rd : Reg) (s : State) : Out := regOp (fun a b => a + b) rs2 rs1 rd s

/-- SUB (R83). -/
def execSub (rs2 rs1 rd : Reg) (s : State) : Out := regOp (fun a b => a - b) rs2 rs1 rd s

/-- MUL (R83). -/
def execMul (rs2 rs1 rd : Reg) (s : State) : Out := regOp (fun a b => a * b) rs2 rs1 rd s

/-- MULH (R83). -/
def execMulh (rs2 rs1 rd : Reg) (s : State) : Out := regOp mulHigh rs2 rs1 rd s

/-- MULHU (R83). -/
def execMulhu (rs2 rs1 rd : Reg) (s : State) : Out := regOp mulHighU rs2 rs1 rd s

/-- DIV (R84). -/
def execDiv (rs2 rs1 rd : Reg) (s : State) : Out := regOp divS rs2 rs1 rd s

/-- DIVU (R84). -/
def execDivu (rs2 rs1 rd : Reg) (s : State) : Out := regOp divU rs2 rs1 rd s

/-- REM (R84). -/
def execRem (rs2 rs1 rd : Reg) (s : State) : Out := regOp remS rs2 rs1 rd s

/-- REMU (R84). -/
def execRemu (rs2 rs1 rd : Reg) (s : State) : Out := regOp remU rs2 rs1 rd s

/-- SLL (R83). -/
def execSll (rs2 rs1 rd : Reg) (s : State) : Out := regOp (fun a b => a <<< (b.toNat % 64)) rs2 rs1 rd s

/-- SRL (R83). -/
def execSrl (rs2 rs1 rd : Reg) (s : State) : Out := regOp (fun a b => a >>> (b.toNat % 64)) rs2 rs1 rd s

/-- SRA (R83). -/
def execSra (rs2 rs1 rd : Reg) (s : State) : Out := regOp (fun a b => a.sshiftRight (b.toNat % 64)) rs2 rs1 rd s

/-- AND (R83). -/
def execAnd (rs2 rs1 rd : Reg) (s : State) : Out := regOp (fun a b => a &&& b) rs2 rs1 rd s

/-- OR (R83). -/
def execOr (rs2 rs1 rd : Reg) (s : State) : Out := regOp (fun a b => a ||| b) rs2 rs1 rd s

/-- XOR (R83). -/
def execXor (rs2 rs1 rd : Reg) (s : State) : Out := regOp (fun a b => a ^^^ b) rs2 rs1 rd s

/-- MIN (R83). -/
def execMin (rs2 rs1 rd : Reg) (s : State) : Out := regOp minS rs2 rs1 rd s

/-- MAX (R83). -/
def execMax (rs2 rs1 rd : Reg) (s : State) : Out := regOp maxS rs2 rs1 rd s

/-- MINU (R83). -/
def execMinu (rs2 rs1 rd : Reg) (s : State) : Out := regOp minU rs2 rs1 rd s

/-- MAXU (R83). -/
def execMaxu (rs2 rs1 rd : Reg) (s : State) : Out := regOp maxU rs2 rs1 rd s

/-- ANDN (R83). -/
def execAndn (rs2 rs1 rd : Reg) (s : State) : Out := regOp (fun a b => a &&& ~~~b) rs2 rs1 rd s

/-- CLZ (R83). -/
def execClz (rs1 rd : Reg) (s : State) : Out := unaryOp clz64 rs1 rd s

/-- CTZ (R83). -/
def execCtz (rs1 rd : Reg) (s : State) : Out := unaryOp ctz64 rs1 rd s

/-- CPOP (R83). -/
def execCpop (rs1 rd : Reg) (s : State) : Out := unaryOp (fun a => BitVec.ofNat 64 (popCount a)) rs1 rd s

/-- SEXTB (R83). -/
def execSextb (rs1 rd : Reg) (s : State) : Out := unaryOp (fun a => (a.setWidth 8).signExtend 64) rs1 rd s

/-- SEXTH (R83). -/
def execSexth (rs1 rd : Reg) (s : State) : Out := unaryOp (fun a => (a.setWidth 16).signExtend 64) rs1 rd s

/-- ZEXTH (R83). -/
def execZexth (rs1 rd : Reg) (s : State) : Out := unaryOp (fun a => (a.setWidth 16).setWidth 64) rs1 rd s

/-- ADDI (R83). -/
def execAddi (imm : BitVec 12) (rs1 rd : Reg) (s : State) : Out := unaryOp (fun a => a + imm12 imm) rs1 rd s

/-- ANDI (R83). -/
def execAndi (imm : BitVec 12) (rs1 rd : Reg) (s : State) : Out := unaryOp (fun a => a &&& imm12 imm) rs1 rd s

/-- ORI (R83). -/
def execOri (imm : BitVec 12) (rs1 rd : Reg) (s : State) : Out := unaryOp (fun a => a ||| imm12 imm) rs1 rd s

/-- XORI (R83). -/
def execXori (imm : BitVec 12) (rs1 rd : Reg) (s : State) : Out := unaryOp (fun a => a ^^^ imm12 imm) rs1 rd s

/-- SLLI (R83). -/
def execSlli (sh : BitVec 6) (rs1 rd : Reg) (s : State) : Out := unaryOp (fun a => a <<< sh.toNat) rs1 rd s

/-- SRLI (R83). -/
def execSrli (sh : BitVec 6) (rs1 rd : Reg) (s : State) : Out := unaryOp (fun a => a >>> sh.toNat) rs1 rd s

/-- SRAI (R83). -/
def execSrai (sh : BitVec 6) (rs1 rd : Reg) (s : State) : Out := unaryOp (fun a => a.sshiftRight sh.toNat) rs1 rd s

/-- LUI (R85). -/
def execLui (imm : BitVec 20) (rd : Reg) (s : State) : Out := .next (s.setX rd (upperImm imm)).advance

/-- AUIPC (R85). -/
def execAuipc (imm : BitVec 20) (rd : Reg) (s : State) : Out := .next (s.setX rd (s.t.pc + upperImm imm)).advance

end Sys2Proof.Machine
end

