-- ==== Sys2Proof/Machine/ScalarFp.lean ====
section
/-! DEFINITION. Scalar floating point: OPF and FMAF (R97 to R102). Scalar words never flush. -/

namespace Sys2Proof.Machine

/-- A result written to f[rd] with its flags (R63, R97). -/
def writeFp (rd : Reg) (r : Nat × Flags) (s : State) : Out := .next ((s.setF rd r.1).orFlags r.2).advance

/-- A binary word of OPF, by FRM as it stands (R97, R98). -/
def fpBinary (op : Fmt → BitVec 3 → FVal → FVal → Nat × Flags) (fmt : FFmt) (rs2 rs1 rd : Reg) (s : State) : Out :=
  writeFp rd (op fmt.fmt s.t.frm (s.t.fVal fmt.fmt rs1) (s.t.fVal fmt.fmt rs2)) s

/-- FADD (R98). -/
def execFadd (fmt : FFmt) (rs2 rs1 rd : Reg) (s : State) : Out :=
  fpBinary (fun f rm a b => f.sum rm 0 0 [a, b]) fmt rs2 rs1 rd s

/-- FSUB (R98). -/
def execFsub (fmt : FFmt) (rs2 rs1 rd : Reg) (s : State) : Out :=
  fpBinary (fun f rm a b => f.sum rm 0 0 [a, b.negate]) fmt rs2 rs1 rd s

/-- FMUL (R98). -/
def execFmul (fmt : FFmt) (rs2 rs1 rd : Reg) (s : State) : Out := fpBinary (fun f rm a b => f.mul rm 0 a b) fmt rs2 rs1 rd s

/-- FDIV (R98). -/
def execFdiv (fmt : FFmt) (rs2 rs1 rd : Reg) (s : State) : Out := fpBinary (fun f rm a b => f.div rm 0 a b) fmt rs2 rs1 rd s

/-- FSQRT (R98). -/
def execFsqrt (fmt : FFmt) (rs1 rd : Reg) (s : State) : Out :=
  writeFp rd (fmt.fmt.sqrt s.t.frm 0 (s.t.fVal fmt.fmt rs1)) s

/-- FMIN and FMAX on the bit patterns of the operands (R98). -/
def fpMinMax (max : Bool) (fmt : FFmt) (rs2 rs1 rd : Reg) (s : State) : Out :=
  writeFp rd (fmt.fmt.minMax max (s.t.fBits fmt.fmt rs1) (s.t.fBits fmt.fmt rs2)
    (s.t.fVal fmt.fmt rs1) (s.t.fVal fmt.fmt rs2)) s

/-- FMIN (R98). -/
def execFmin (fmt : FFmt) (rs2 rs1 rd : Reg) (s : State) : Out := fpMinMax false fmt rs2 rs1 rd s

/-- FMAX (R98). -/
def execFmax (fmt : FFmt) (rs2 rs1 rd : Reg) (s : State) : Out := fpMinMax true fmt rs2 rs1 rd s

/-- A sign injection: a with a sign made of the two signs; no flag (R99). -/
def signInject (f : Bool → Bool → Bool) (fmt : FFmt) (rs2 rs1 rd : Reg) (s : State) : Out :=
  let a := s.t.fBits fmt.fmt rs1
  let b := s.t.fBits fmt.fmt rs2
  .next (s.setF rd (fmt.fmt.withSign a (f (fmt.fmt.signOf a) (fmt.fmt.signOf b)))).advance

/-- FSGNJ (R99). -/
def execFsgnj (fmt : FFmt) (rs2 rs1 rd : Reg) (s : State) : Out := signInject (fun _ b => b) fmt rs2 rs1 rd s

/-- FSGNJN (R99). -/
def execFsgnjn (fmt : FFmt) (rs2 rs1 rd : Reg) (s : State) : Out := signInject (fun _ b => !b) fmt rs2 rs1 rd s

/-- FSGNJX (R99). -/
def execFsgnjx (fmt : FFmt) (rs2 rs1 rd : Reg) (s : State) : Out := signInject (fun a b => a != b) fmt rs2 rs1 rd s

/-- FMVXF (R99): the low bits of f[rs1], zero-extended. -/
def execFmvxf (fmt : FFmt) (rs1 rd : Reg) (s : State) : Out :=
  .next (s.setX rd (BitVec.ofNat 64 (s.t.fBits fmt.fmt rs1))).advance

/-- FMVFX (R99): the low bits of x[rs1], bits above cleared. -/
def execFmvfx (fmt : FFmt) (rs1 rd : Reg) (s : State) : Out :=
  .next (s.setF rd ((s.t.readX rs1).toNat % 2 ^ fmt.fmt.width)).advance

/-- FCLASS (R99). -/
def execFclass (fmt : FFmt) (rs1 rd : Reg) (s : State) : Out :=
  .next (s.setX rd (BitVec.ofNat 64 (fmt.fmt.classMask (s.t.fBits fmt.fmt rs1)))).advance

/-- The format that the low bits of a conversion selector code (R100). -/
def selFormat (k : Nat) : Fmt :=
  match k with
  | 0 => f32
  | 1 => f64
  | 2 => f16
  | _ => bf16

/-- An integer result of a width in an x register: sign-extended when signed, zero-extended when unsigned (R100). -/
def intResult (signed : Bool) (w : Nat) (n : Int) : DWord :=
  if w = 32 then (if signed then (BitVec.ofInt 32 n).signExtend 64 else (BitVec.ofInt 32 n).setWidth 64)
  else BitVec.ofInt 64 n

/-- FCVT (R100): between formats, from integers, to integers by FRM, to integers toward zero. -/
def execFcvt (fmt : FFmt) (sel : BitVec 5) (rs1 rd : Reg) (s : State) : Out :=
  let k := sel.toNat
  let f := fmt.fmt
  let signed := k % 2 == 0
  let w := if k / 2 % 2 = 0 then 64 else 32
  if k < 4 then writeFp rd (f.convert s.t.frm 0 (s.t.fVal (selFormat k) rs1)) s
  else if k < 8 then
    let x := s.t.readX rs1
    let n : Int :=
      if w = 64 then (if signed then x.toInt else x.toNat)
      else if signed then (x.setWidth 32).toInt else (x.setWidth 32).toNat
    writeFp rd (f.ofInteger s.t.frm 0 n) s
  else
    let rm := if k < 16 then s.t.frm else 1
    let r := toInteger rm signed w (s.t.fVal f rs1)
    .next ((s.setX rd (intResult signed w r.1)).orFlags r.2).advance

/-- An FP compare combined into cd (R101). -/
def fpCompareWord (k : Nat) (fmt : FFmt) (rs2 rs1 : Reg) (mode : Combine) (cd : CReg) (s : State) : Out :=
  let r := fpCompare k (s.t.fVal fmt.fmt rs1) (s.t.fVal fmt.fmt rs2)
  .next ((s.combineC mode cd r.1).orFlags r.2).advance

/-- FCEQ (R101). -/
def execFceq (fmt : FFmt) (rs2 rs1 : Reg) (mode : Combine) (cd : CReg) (s : State) : Out := fpCompareWord 0 fmt rs2 rs1 mode cd s

/-- FCLT (R101). -/
def execFclt (fmt : FFmt) (rs2 rs1 : Reg) (mode : Combine) (cd : CReg) (s : State) : Out := fpCompareWord 1 fmt rs2 rs1 mode cd s

/-- FCLE (R101). -/
def execFcle (fmt : FFmt) (rs2 rs1 : Reg) (mode : Combine) (cd : CReg) (s : State) : Out := fpCompareWord 2 fmt rs2 rs1 mode cd s

/-- A word of FMAF: one fused sum of ±(a × b) and ±c (R102). -/
def fusedWord (np nc : Bool) (rs3 : Reg) (fmt : FFmt) (rs2 rs1 rd : Reg) (s : State) : Out :=
  let a := s.t.fVal fmt.fmt rs1
  let c := s.t.fVal fmt.fmt rs3
  writeFp rd (fmt.fmt.fma s.t.frm 0 (if np then a.negate else a) (s.t.fVal fmt.fmt rs2) (if nc then c.negate else c)) s

/-- FMADD (R102). -/
def execFmadd (rs3 : Reg) (fmt : FFmt) (rs2 rs1 rd : Reg) (s : State) : Out := fusedWord false false rs3 fmt rs2 rs1 rd s

/-- FMSUB (R102). -/
def execFmsub (rs3 : Reg) (fmt : FFmt) (rs2 rs1 rd : Reg) (s : State) : Out := fusedWord false true rs3 fmt rs2 rs1 rd s

/-- FNMADD (R102). -/
def execFnmadd (rs3 : Reg) (fmt : FFmt) (rs2 rs1 rd : Reg) (s : State) : Out := fusedWord true true rs3 fmt rs2 rs1 rd s

/-- FNMSUB (R102). -/
def execFnmsub (rs3 : Reg) (fmt : FFmt) (rs2 rs1 rd : Reg) (s : State) : Out := fusedWord true false rs3 fmt rs2 rs1 rd s

end Sys2Proof.Machine
end

