-- ==== Sys2Proof/Machine/ScalarMem.lean ====
section
/-! DEFINITION. Scalar loads and stores: LD, LDF, ST, STF (R103 to R107). -/

namespace Sys2Proof.Machine

/-- x[rs1] + imm (R103). -/
def effective (rs1 : Reg) (imm : BitVec 12) (s : State) : DWord := s.t.readX rs1 + imm12 imm

/-- A scalar access of a word at its address, after which the word completes (R103, R104). -/
def accessWord (k : ScalarKind) (n : Nat) (v : DWord) (rs1 : Reg) (imm : BitVec 12) (s : State) : Out :=
  finish (match s.accessScalar { kind := k, bytes := n, va := effective rs1 imm s, pa := 0, val := v } with
    | .error e => .error e
    | .ok s => .ok s.advance)

/-- A load into an x register (R103, R104); to x0 it is a hint without an effect (R105). -/
def loadX (n : Nat) (signed : Bool) (imm : BitVec 12) (rs1 rd : Reg) (s : State) : Out :=
  if rd = 0 then .next s.advance else accessWord (.loadX rd signed) n 0 rs1 imm s

/-- A load into an f register, the bits above cleared (R103). -/
def loadF (n : Nat) (imm : BitVec 12) (rs1 rd : Reg) (s : State) : Out := accessWord (.loadF rd) n 0 rs1 imm s

/-- A store of the low n bytes of a register (R103, R104). -/
def storeWord (n : Nat) (v : DWord) (rs1 : Reg) (imm : BitVec 12) (s : State) : Out := accessWord .store n v rs1 imm s

/-- LB (R103). -/
def execLb (imm : BitVec 12) (rs1 rd : Reg) (s : State) : Out := loadX 1 true imm rs1 rd s

/-- LH (R103). -/
def execLh (imm : BitVec 12) (rs1 rd : Reg) (s : State) : Out := loadX 2 true imm rs1 rd s

/-- LW (R103). -/
def execLw (imm : BitVec 12) (rs1 rd : Reg) (s : State) : Out := loadX 4 true imm rs1 rd s

/-- LD (R103). -/
def execLd (imm : BitVec 12) (rs1 rd : Reg) (s : State) : Out := loadX 8 false imm rs1 rd s

/-- LBU (R103). -/
def execLbu (imm : BitVec 12) (rs1 rd : Reg) (s : State) : Out := loadX 1 false imm rs1 rd s

/-- LHU (R103). -/
def execLhu (imm : BitVec 12) (rs1 rd : Reg) (s : State) : Out := loadX 2 false imm rs1 rd s

/-- LWU (R103). -/
def execLwu (imm : BitVec 12) (rs1 rd : Reg) (s : State) : Out := loadX 4 false imm rs1 rd s

/-- FLH (R103, R105). -/
def execFlh (imm : BitVec 12) (rs1 rd : Reg) (s : State) : Out := loadF 2 imm rs1 rd s

/-- FLW (R103, R105). -/
def execFlw (imm : BitVec 12) (rs1 rd : Reg) (s : State) : Out := loadF 4 imm rs1 rd s

/-- FLD (R103, R105). -/
def execFld (imm : BitVec 12) (rs1 rd : Reg) (s : State) : Out := loadF 8 imm rs1 rd s

/-- SB (R103). -/
def execSb (rs2 rs1 : Reg) (imm : BitVec 12) (s : State) : Out := storeWord 1 (s.t.readX rs2) rs1 imm s

/-- SH (R103). -/
def execSh (rs2 rs1 : Reg) (imm : BitVec 12) (s : State) : Out := storeWord 2 (s.t.readX rs2) rs1 imm s

/-- SW (R103). -/
def execSw (rs2 rs1 : Reg) (imm : BitVec 12) (s : State) : Out := storeWord 4 (s.t.readX rs2) rs1 imm s

/-- SD (R103). -/
def execSd (rs2 rs1 : Reg) (imm : BitVec 12) (s : State) : Out := storeWord 8 (s.t.readX rs2) rs1 imm s

/-- FSH (R103). -/
def execFsh (rs2 rs1 : Reg) (imm : BitVec 12) (s : State) : Out := storeWord 2 (s.t.readF rs2) rs1 imm s

/-- FSW (R103). -/
def execFsw (rs2 rs1 : Reg) (imm : BitVec 12) (s : State) : Out := storeWord 4 (s.t.readF rs2) rs1 imm s

/-- FSD (R103). -/
def execFsd (rs2 rs1 : Reg) (imm : BitVec 12) (s : State) : Out := storeWord 8 (s.t.readF rs2) rs1 imm s

end Sys2Proof.Machine
end

