-- ==== Sys2Proof/Machine/System.lean ====
section
/-! DEFINITION. The SYSTEM words and the rows that read and write status registers: SRD, SWR, SSET, SCLR, SCALL, SBRK,
SRET, WFE, ATCINV (R379, R380, R388 to R392). -/

namespace Sys2Proof.Machine

/-- SRD (R389). -/
def execSrd (reg : BitVec 12) (rd : Reg) (s : State) : Out := finish (srd (.srd reg rd) reg.toNat rd s)

/-- SWR (R389). -/
def execSwr (reg : BitVec 12) (rs1 : Reg) (s : State) : Out := finish (swr (.swr reg rs1) .swr reg.toNat rs1 s)

/-- SSET (R389). -/
def execSset (reg : BitVec 12) (rs1 : Reg) (s : State) : Out := finish (swr (.sset reg rs1) .sset reg.toNat rs1 s)

/-- SCLR (R389). -/
def execSclr (reg : BitVec 12) (rs1 : Reg) (s : State) : Out := finish (swr (.sclr reg rs1) .sclr reg.toNat rs1 s)

/-- The SRD of a row that names a group of registers: the word itself for a register of the group, and nothing otherwise. -/
def srdRow (group : List Nat) (reg : BitVec 12) (rd : Reg) (s : State) : Out :=
  if group.contains reg.toNat then finish (srd (.srd reg rd) reg.toNat rd s) else .next s

/-- The write of a row that names a group of registers: the word itself for a register of the group, and nothing otherwise. -/
def swrRow (group : List Nat) (k : StatusOp) (reg : BitVec 12) (rs1 : Reg) (s : State) : Out :=
  if group.contains reg.toNat then finish (swr (statusInstr k reg rs1) k reg.toNat rs1 s) else .next s

/-- READ_VECTOR_STATUS (R49): an SRD of VL, VTYPE, VRSI, VRSS or FFLAGS. -/
def execReadVectorStatus (reg : BitVec 12) (rd : Reg) (s : State) : Out := srdRow [0, 1, 3, 4, 5] reg rd s

/-- READ_TSHAPE (R196): an SRD of TSHAPE. -/
def execReadTshape (rd : Reg) (s : State) : Out := srdRow [8] 8 rd s

/-- WRITE_VECTOR_STATUS (R49): a write of VRSI, VRSS or FFLAGS. -/
def execWriteVectorStatus (kind : StatusOp) (reg : BitVec 12) (rs1 : Reg) (s : State) : Out := swrRow [3, 4, 5] kind reg rs1 s

/-- WRITE_FRM (R46): a write of FRM. -/
def execWriteFrm (kind : StatusOp) (rs1 : Reg) (s : State) : Out := swrRow [6] kind 6 rs1 s

/-- WRITE_LOOP_REGISTERS (R95): a write of LCOUNT, LSTART or LEND. -/
def execWriteLoopRegisters (kind : StatusOp) (reg : BitVec 12) (rs1 : Reg) (s : State) : Out :=
  swrRow [9, 0xA, 0xB] kind reg rs1 s

/-- WRITE_PTBASE (R370). -/
def execWritePtbase (kind : StatusOp) (rs1 : Reg) (s : State) : Out := swrRow [0x101] kind 0x101 rs1 s

/-- WRITE_SPBASE (R370). -/
def execWriteSpbase (kind : StatusOp) (rs1 : Reg) (s : State) : Out := swrRow [0x103] kind 0x103 rs1 s

/-- WRITE_FRTBASE (R370). -/
def execWriteFrtbase (kind : StatusOp) (rs1 : Reg) (s : State) : Out := swrRow [0x102] kind 0x102 rs1 s

/-- WRITE_MARCHSEL (R370). -/
def execWriteMarchsel (kind : StatusOp) (rs1 : Reg) (s : State) : Out := swrRow [0x104] kind 0x104 rs1 s

/-- WRITE_DIGEST_CONTROL (R433): a write of DIGLOG or DIGCTL. -/
def execWriteDigestControl (kind : StatusOp) (reg : BitVec 12) (rs1 : Reg) (s : State) : Out :=
  swrRow [0x130, 0x131] kind reg rs1 s

/-- SCALL (R390). -/
def execScall (s : State) : Out := finish (raise s cause.call 0)

/-- SBRK (R390). -/
def execSbrk (s : State) : Out := finish (raise s cause.break_ 0)

/-- ILLEGAL_WORD (R35): the illegal-instruction trap at the word, with the word as its value. -/
def execIllegalWord (w : Word) (s : State) : Out := finish (raise s cause.illegal (w.setWidth 64))

/-- The queue as SRET resumes it (R391): under SKIP without the entry that trapped, under RECAP with its oldest entry's
modes captured anew. DEDUCED, unsafe: assumption 40 of the log. -/
def Thread.resumeQueue (t : Thread) : List VEntry :=
  let vside := t.trapcause.getLsbD 8
  let q := if vside && t.trapstat.getLsbD 2 && t.vcp == t.trappc then t.queue.drop 1 else t.queue
  if vside && t.trapstat.getLsbD 3 then
    match q with
    | e :: r => { e with frm := t.frm, gmode := t.gmode, sthresh := t.sthresh, lbypass := t.lbypass } :: r
    | [] => []
  else q

/-- SRET (R36, R391): outside a handler illegal, at level 0 privilege; otherwise the level, the status, the queue and
the program counter are restored, and the queue goes on. DEDUCED, safe: assumption 11 of the log. -/
def execSret (s : State) : Out :=
  if !s.t.inTrap then finish (illegalAt .sret s)
  else if !s.t.level then finish (privilegeAt .sret s)
  else
    let s := ({ s with t := { s.t with queue := s.t.resumeQueue } } : State).leaveTrap.headArrives
    .next (if s.ch.runAhead then s else s.settleQueue)

/-- WFE (R392): completes and clears EV where it is set, and otherwise waits for it. -/
def execWfe (s : State) : Out :=
  finish (if s.t.ev then .ok ({ s with t := { s.t with ev := false } } : State).advance
    else .error (.wait { kind := .wfe, addr := s.t.pc }, s))

/-- ATCINV (R379, R380): holds until the accesses already translated have been performed, then one step removes the
translations of the page, or of the context. DEDUCED, unsafe: assumption 41 of the log. -/
def execAtcinv (rs1 : Reg) (s : State) : Out :=
  finish (if !s.t.level then privilegeAt (.atcinv rs1) s
    else
      let va := if rs1 = 0 then none else some (s.t.readX rs1).toNat
      if s.accessesPending s.t.ctx va then hold s else .ok (s.orderThread.invalidate s.t.ctx va).advance)

end Sys2Proof.Machine
end

