-- ==== Sys2Proof/Machine/VConfig.lean ====
section
/-! DEFINITION. Vector configuration and the words beside the queue: VSETVL, VSETVLI, GTAG, VBLK, VJOIN
(R113, R114, R188, R225, R233). -/

namespace Sys2Proof.Machine

/-- VL as the words before the configuration leave it (R113, R149): that of the latest configuration word that is still queued, or
VL itself, which a load may have shortened. -/
def Thread.keptVl (t : Thread) : Nat := (if t.queue.any fun e => setsVl e.instr then t.dvl else t.vl).toNat

/-- What a VSETVL or VSETVLI computes from its request (R113): VL, VTYPE, and x[rd]. -/
def configure (req : DWord) (rs1 rd : Reg) (s : State) : BitVec 14 × DWord × DWord :=
  let m := vlmax s.t.lanes s.core.rowcap (vtSew req)
  let set := fun (n : Nat) => (BitVec.ofNat 14 n, req, BitVec.ofNat 64 n)
  if !typeLegal req then (0, vtypeIll, 0)
  else if rs1 ≠ 0 then set (min (s.t.readX rs1).toNat m)
  else if rd ≠ 0 then set m
  else if m < s.t.keptVl then (0, vtypeIll, 0)
  else set s.t.keptVl

/-- A configuration word (R113, R114): its scalar result now, its marker in the queue. The form that keeps VL waits for
the earlier loads. -/
def configWord (i : Instr) (req : DWord) (rs1 rd : Reg) (s : State) : Out :=
  if s.t.inTrap || !modeAdmits s.t.tile i then finish (illegalAt i s)
  else if rs1 = 0 ∧ rd = 0 ∧ (s.t.queue.any fun e => mayShorten e.instr) then finish (hold s)
  else if 64 < s.t.usedSlots + 1 then finish (hold s)
  else
    let r := configure req rs1 rd s
    let e := { s.captureEntry i with a := r.1.setWidth 64, b := r.2.1 }
    let s := { s with t := { s.t with queue := s.t.queue ++ [e], dvl := r.1, dvtype := r.2.1 } }
    .next ((s.setX rd r.2.2).advance.afterIssue i)

/-- VSETVL (R111, R113). -/
def execVsetvl (rs2 rs1 rd : Reg) (s : State) : Out := configWord (.vsetvl rs2 rs1 rd) (s.t.readX rs2) rs1 rd s

/-- VSETVLI (R111, R113). -/
def execVsetvli (req : BitVec 11) (rs1 rd : Reg) (s : State) : Out :=
  configWord (.vsetvli req rs1 rd) (req.setWidth 64) rs1 rd s

/-- GTAG (R188): the tag when every earlier writer has committed; in a trap handler at once (R469). DEDUCED, safe: assumption 35 of the log. -/
def execGtag (vs : VReg) (rd : Reg) (s : State) : Out :=
  finish (if vtIll s.t.dvtype then illegalAt (.gtag vs rd) s
    else if !s.t.inTrap && s.t.queue.any (fun e => writesReg e.instr vs) then hold s
    else .ok (s.setX rd ((s.t.readTag vs).setWidth 64)).advance)

/-- VBLK (R225). -/
def execVblk (imm : BitVec 12) (rs1 : Reg) (s : State) : Out := issue (.vblk imm rs1) s

/-- VJOIN (R233). -/
def execVjoin (s : State) : Out :=
  finish (if !s.t.inTrap && s.t.queue.any (fun e => match e.instr with | .vblk _ _ => true | _ => false) then hold s
    else .ok s.advance)

end Sys2Proof.Machine
end

