-- ==== Sys2Proof/Machine/VFloat.lean ====
section
/-! DEFINITION. VOPF words: IEEE arithmetic, conversions, mixing and merging on elements (R122 to R130), as the scalar stream meets them:
decoded into the vector queue, at whose head `entryRun` gives their effect. -/

namespace Sys2Proof.Machine

/-- VFADD (R122): Vector FP add. -/
def execVfadd (p : PReg) (form : Form) (vs2 : VReg) (s1 : Reg) (vd : VReg) (s : State) : Out := issue (.vfadd p form vs2 s1 vd) s

/-- VFSUB (R122): Vector FP subtract. -/
def execVfsub (p : PReg) (form : Form) (vs2 : VReg) (s1 : Reg) (vd : VReg) (s : State) : Out := issue (.vfsub p form vs2 s1 vd) s

/-- VFMUL (R122): Vector FP multiply. -/
def execVfmul (p : PReg) (form : Form) (vs2 : VReg) (s1 : Reg) (vd : VReg) (s : State) : Out := issue (.vfmul p form vs2 s1 vd) s

/-- VFDIV (R122): Vector FP divide. -/
def execVfdiv (p : PReg) (form : Form) (vs2 : VReg) (s1 : Reg) (vd : VReg) (s : State) : Out := issue (.vfdiv p form vs2 s1 vd) s

/-- VFSQRT (R122): Vector FP square root. -/
def execVfsqrt (p : PReg) (vs2 vd : VReg) (s : State) : Out := issue (.vfsqrt p vs2 vd) s

/-- VFMACC (R122): Vector fused vd + a*b. -/
def execVfmacc (p : PReg) (form : Form) (vs2 : VReg) (s1 : Reg) (vd : VReg) (s : State) : Out := issue (.vfmacc p form vs2 s1 vd) s

/-- VFNMSAC (R122): Vector fused vd - a*b. -/
def execVfnmsac (p : PReg) (form : Form) (vs2 : VReg) (s1 : Reg) (vd : VReg) (s : State) : Out := issue (.vfnmsac p form vs2 s1 vd) s

/-- VFMIN (R122): Vector FP minimum. -/
def execVfmin (p : PReg) (form : Form) (vs2 : VReg) (s1 : Reg) (vd : VReg) (s : State) : Out := issue (.vfmin p form vs2 s1 vd) s

/-- VFMAX (R122): Vector FP maximum. -/
def execVfmax (p : PReg) (form : Form) (vs2 : VReg) (s1 : Reg) (vd : VReg) (s : State) : Out := issue (.vfmax p form vs2 s1 vd) s

/-- VFCVT (R127): Converts vector elements from the source type coded in vs1 to VTYPE. -/
def execVfcvt (p : PReg) (vs2 : VReg) (code : Reg) (vd : VReg) (s : State) : Out := issue (.vfcvt p vs2 code vd) s

/-- VFSGNJ (R122): Vector sign injection by bit move. -/
def execVfsgnj (p : PReg) (form : Form) (vs2 : VReg) (s1 : Reg) (vd : VReg) (s : State) : Out := issue (.vfsgnj p form vs2 s1 vd) s

/-- VFRSQRTE (R123): Vector reciprocal square-root estimate to 8 bits. -/
def execVfrsqrte (p : PReg) (vs2 vd : VReg) (s : State) : Out := issue (.vfrsqrte p vs2 vd) s

/-- VFCLASS (R122): Vector FP class mask. -/
def execVfclass (p : PReg) (vs2 vd : VReg) (s : State) : Out := issue (.vfclass p vs2 vd) s

/-- VMIX (R124): Applies the mixing function to each element and key. -/
def execVmix (p : PReg) (form : Form) (vs2 : VReg) (s1 : Reg) (vd : VReg) (s : State) : Out := issue (.vmix p form vs2 s1 vd) s

/-- VFDOT4 (R125): Fused four-term BF16 dot product accumulated into FP32. -/
def execVfdot4 (p : PReg) (form : Form) (vs2 : VReg) (s1 : Reg) (vd : VReg) (s : State) : Out := issue (.vfdot4 p form vs2 s1 vd) s

/-- VFMERGE (R126): Selects b or a per element by the predicate. -/
def execVfmerge (p : PReg) (form : Form) (vs2 : VReg) (s1 : Reg) (vd : VReg) (s : State) : Out := issue (.vfmerge p form vs2 s1 vd) s

end Sys2Proof.Machine
end

