-- ==== Sys2Proof/Machine/VGraded.lean ====
section
/-! DEFINITION. Graded words and GDECL (R164 to R187), as the scalar stream meets them:
decoded into the vector queue, at whose head `entryRun` gives their effect. -/

namespace Sys2Proof.Machine

/-- GP (R177): Geometric product of two multivectors. -/
def execGp (p : PReg) (vs2 vs1 : VReg) (neg inv rev : Bool) (vd : VReg) (s : State) : Out := issue (.gp p vs2 vs1 neg inv rev vd) s

/-- GWEDGE (R177): Outer product of two multivectors. -/
def execGwedge (p : PReg) (vs2 vs1 : VReg) (neg inv rev : Bool) (vd : VReg) (s : State) : Out := issue (.gwedge p vs2 vs1 neg inv rev vd) s

/-- GJOIN (R177): Regressive product through the dual. -/
def execGjoin (p : PReg) (vs2 vs1 : VReg) (neg inv rev : Bool) (vd : VReg) (s : State) : Out := issue (.gjoin p vs2 vs1 neg inv rev vd) s

/-- GLDOT (R177): Left contraction of two multivectors. -/
def execGldot (p : PReg) (vs2 vs1 : VReg) (neg inv rev : Bool) (vd : VReg) (s : State) : Out := issue (.gldot p vs2 vs1 neg inv rev vd) s

/-- GSAND (R178): Sandwich product V X ~V restricted to X's grades. -/
def execGsand (p : PReg) (vs2 vs1 : VReg) (neg inv rev : Bool) (vd : VReg) (s : State) : Out := issue (.gsand p vs2 vs1 neg inv rev vd) s

/-- GCOMM (R177): Commutator product of two multivectors. -/
def execGcomm (p : PReg) (vs2 vs1 : VReg) (neg inv rev : Bool) (vd : VReg) (s : State) : Out := issue (.gcomm p vs2 vs1 neg inv rev vd) s

/-- GPROJ (R179): Copies components of grades in a mask, zeroing the rest. -/
def execGproj (p : PReg) (mask : BitVec 5) (vs1 : VReg) (neg rev : Bool) (vd : VReg) (s : State) : Out := issue (.gproj p mask vs1 neg rev vd) s

/-- GREV (R180): Writes the reverse of a multivector. -/
def execGrev (p : PReg) (vs1 : VReg) (neg rev : Bool) (vd : VReg) (s : State) : Out := issue (.grev p vs1 neg rev vd) s

/-- GINVOL (R180): Writes the grade involution of a multivector. -/
def execGinvol (p : PReg) (vs1 : VReg) (neg rev : Bool) (vd : VReg) (s : State) : Out := issue (.ginvol p vs1 neg rev vd) s

/-- GDUAL (R180): Writes the dual of a multivector. -/
def execGdual (p : PReg) (vs1 : VReg) (neg rev : Bool) (vd : VReg) (s : State) : Out := issue (.gdual p vs1 neg rev vd) s

/-- GNORMSQ (R181): Writes the squared Euclidean norm into component 0. -/
def execGnormsq (p : PReg) (vs1 : VReg) (neg rev : Bool) (vd : VReg) (s : State) : Out := issue (.gnormsq p vs1 neg rev vd) s

/-- GNORM (R181): Writes the Euclidean norm into component 0. -/
def execGnorm (p : PReg) (vs1 : VReg) (neg rev : Bool) (vd : VReg) (s : State) : Out := issue (.gnorm p vs1 neg rev vd) s

/-- GNORMZ (R181): Writes the ideal norm into component 0. -/
def execGnormz (p : PReg) (vs1 : VReg) (neg rev : Bool) (vd : VReg) (s : State) : Out := issue (.gnormz p vs1 neg rev vd) s

/-- GEXP (R183): Writes the motor exponential of a bivector. -/
def execGexp (p : PReg) (vs1 : VReg) (neg rev : Bool) (vd : VReg) (s : State) : Out := issue (.gexp p vs1 neg rev vd) s

/-- GLOG (R184): Writes the bivector logarithm of a motor. -/
def execGlog (p : PReg) (vs1 : VReg) (neg rev : Bool) (vd : VReg) (s : State) : Out := issue (.glog p vs1 neg rev vd) s

/-- GSQRT (R185): Writes the square root of a motor. -/
def execGsqrt (p : PReg) (vs1 : VReg) (neg rev : Bool) (vd : VReg) (s : State) : Out := issue (.gsqrt p vs1 neg rev vd) s

/-- GINV (R182): Writes the inverse of a blade or versor. -/
def execGinv (p : PReg) (vs1 : VReg) (neg rev : Bool) (vd : VReg) (s : State) : Out := issue (.ginv p vs1 neg rev vd) s

/-- GDECL (R187): Declares a register's grades, trapping or zeroing offending components. -/
def execGdecl (mask : BitVec 5) (vd : VReg) (s : State) : Out := issue (.gdecl mask vd) s

end Sys2Proof.Machine
end

