-- ==== Sys2Proof/Machine/VInt.lean ====
section
/-! DEFINITION. VOPI words: integer and bitwise arithmetic on elements (R121), as the scalar stream meets them:
decoded into the vector queue, at whose head `entryRun` gives their effect. -/

namespace Sys2Proof.Machine

/-- VADD (R121): Vector integer add. -/
def execVadd (p : PReg) (form : Form) (vs2 : VReg) (s1 : Reg) (vd : VReg) (s : State) : Out := issue (.vadd p form vs2 s1 vd) s

/-- VSUB (R121): Vector integer subtract. -/
def execVsub (p : PReg) (form : Form) (vs2 : VReg) (s1 : Reg) (vd : VReg) (s : State) : Out := issue (.vsub p form vs2 s1 vd) s

/-- VMUL (R121): Vector integer multiply, low half. -/
def execVmul (p : PReg) (form : Form) (vs2 : VReg) (s1 : Reg) (vd : VReg) (s : State) : Out := issue (.vmul p form vs2 s1 vd) s

/-- VMULH (R121): Vector signed multiply, high half. -/
def execVmulh (p : PReg) (form : Form) (vs2 : VReg) (s1 : Reg) (vd : VReg) (s : State) : Out := issue (.vmulh p form vs2 s1 vd) s

/-- VMULHU (R121): Vector unsigned multiply, high half. -/
def execVmulhu (p : PReg) (form : Form) (vs2 : VReg) (s1 : Reg) (vd : VReg) (s : State) : Out := issue (.vmulhu p form vs2 s1 vd) s

/-- VMACC (R121): Vector integer multiply-accumulate. -/
def execVmacc (p : PReg) (form : Form) (vs2 : VReg) (s1 : Reg) (vd : VReg) (s : State) : Out := issue (.vmacc p form vs2 s1 vd) s

/-- VAND (R121): Vector bitwise AND. -/
def execVand (p : PReg) (form : Form) (vs2 : VReg) (s1 : Reg) (vd : VReg) (s : State) : Out := issue (.vand p form vs2 s1 vd) s

/-- VOR (R121): Vector bitwise OR. -/
def execVor (p : PReg) (form : Form) (vs2 : VReg) (s1 : Reg) (vd : VReg) (s : State) : Out := issue (.vor p form vs2 s1 vd) s

/-- VXOR (R121): Vector bitwise XOR. -/
def execVxor (p : PReg) (form : Form) (vs2 : VReg) (s1 : Reg) (vd : VReg) (s : State) : Out := issue (.vxor p form vs2 s1 vd) s

/-- VSLL (R121): Vector shift left. -/
def execVsll (p : PReg) (form : Form) (vs2 : VReg) (s1 : Reg) (vd : VReg) (s : State) : Out := issue (.vsll p form vs2 s1 vd) s

/-- VSRL (R121): Vector logical shift right. -/
def execVsrl (p : PReg) (form : Form) (vs2 : VReg) (s1 : Reg) (vd : VReg) (s : State) : Out := issue (.vsrl p form vs2 s1 vd) s

/-- VSRA (R121): Vector arithmetic shift right. -/
def execVsra (p : PReg) (form : Form) (vs2 : VReg) (s1 : Reg) (vd : VReg) (s : State) : Out := issue (.vsra p form vs2 s1 vd) s

/-- VMIN (R121): Vector signed minimum. -/
def execVmin (p : PReg) (form : Form) (vs2 : VReg) (s1 : Reg) (vd : VReg) (s : State) : Out := issue (.vmin p form vs2 s1 vd) s

/-- VMAX (R121): Vector signed maximum. -/
def execVmax (p : PReg) (form : Form) (vs2 : VReg) (s1 : Reg) (vd : VReg) (s : State) : Out := issue (.vmax p form vs2 s1 vd) s

/-- VMINU (R121): Vector unsigned minimum. -/
def execVminu (p : PReg) (form : Form) (vs2 : VReg) (s1 : Reg) (vd : VReg) (s : State) : Out := issue (.vminu p form vs2 s1 vd) s

/-- VMAXU (R121): Vector unsigned maximum. -/
def execVmaxu (p : PReg) (form : Form) (vs2 : VReg) (s1 : Reg) (vd : VReg) (s : State) : Out := issue (.vmaxu p form vs2 s1 vd) s

end Sys2Proof.Machine
end

