-- ==== Sys2Proof/Machine/VMemory.lean ====
section
/-! DEFINITION. Vector memory words: loads, stores, scatters and textures (R140 to R163), as the scalar stream meets them:
decoded into the vector queue, at whose head `entryRun` gives their effect. -/

namespace Sys2Proof.Machine

/-- VLD (R147): Unit-stride vector load, first-fault on later elements. -/
def execVld (p : PReg) (rs1 : Reg) (w : EW) (vd : VReg) (s : State) : Out := issue (.vld p rs1 w vd) s

/-- VLDS (R147): Strided vector load. -/
def execVlds (p : PReg) (rs2 rs1 : Reg) (w : EW) (vd : VReg) (s : State) : Out := issue (.vlds p rs2 rs1 w vd) s

/-- VLDX (R147): Indexed vector load. -/
def execVldx (p : PReg) (vs2 : VReg) (rs1 : Reg) (w : EW) (vd : VReg) (s : State) : Out := issue (.vldx p vs2 rs1 w vd) s

/-- VLDF (R153): Unit decoding load from a format region. -/
def execVldf (p : PReg) (rs1 : Reg) (vd : VReg) (s : State) : Out := issue (.vldf p rs1 vd) s

/-- VLDF_S (R153): Strided decoding load from a format region. -/
def execVldfS (p : PReg) (rs2 rs1 : Reg) (vd : VReg) (s : State) : Out := issue (.vldfS p rs2 rs1 vd) s

/-- VLDF_X (R153): Indexed decoding load from a format region. -/
def execVldfX (p : PReg) (vs2 : VReg) (rs1 : Reg) (vd : VReg) (s : State) : Out := issue (.vldfX p vs2 rs1 vd) s

/-- VLDR (R155): Unit raw load of whole blocks with their scale pairs. -/
def execVldr (p : PReg) (rs1 : Reg) (vd : VReg) (s : State) : Out := issue (.vldr p rs1 vd) s

/-- VLDR_S (R155): Strided raw block load. -/
def execVldrS (p : PReg) (rs2 rs1 : Reg) (vd : VReg) (s : State) : Out := issue (.vldrS p rs2 rs1 vd) s

/-- VLDR_X (R155): Indexed raw block load. -/
def execVldrX (p : PReg) (vs2 : VReg) (rs1 : Reg) (vd : VReg) (s : State) : Out := issue (.vldrX p vs2 rs1 vd) s

/-- VLDG (R156): Unit load of whole multivectors. -/
def execVldg (p : PReg) (rs1 : Reg) (vd : VReg) (s : State) : Out := issue (.vldg p rs1 vd) s

/-- VLDG_S (R156): Strided load of whole multivectors. -/
def execVldgS (p : PReg) (rs2 rs1 : Reg) (vd : VReg) (s : State) : Out := issue (.vldgS p rs2 rs1 vd) s

/-- VLDG_X (R156): Indexed load of whole multivectors. -/
def execVldgX (p : PReg) (vs2 : VReg) (rs1 : Reg) (vd : VReg) (s : State) : Out := issue (.vldgX p vs2 rs1 vd) s

/-- VLD_P (R148): Loads predicate bits byte by byte. -/
def execVldP (rs1 : Reg) (pd : PReg) (s : State) : Out := issue (.vldP rs1 pd) s

/-- TEXS (R163): Samples a texture through a descriptor with nearest or bilinear filtering. DEDUCED, unsafe: assumption 28 of the log. -/
def execTexs (p : PReg) (vs2 : VReg) (rs1 : Reg) (vd : VReg) (s : State) : Out := issue (.texs p vs2 rs1 vd) s

/-- VST (R147): Unit-stride vector store, precise per element. -/
def execVst (p : PReg) (rs1 : Reg) (w : EW) (vs3 : VReg) (s : State) : Out := issue (.vst p rs1 w vs3) s

/-- VSTS (R147): Strided vector store. -/
def execVsts (p : PReg) (rs2 rs1 : Reg) (w : EW) (vs3 : VReg) (s : State) : Out := issue (.vsts p rs2 rs1 w vs3) s

/-- VSTX (R147): Indexed vector store. -/
def execVstx (p : PReg) (vs2 : VReg) (rs1 : Reg) (w : EW) (vs3 : VReg) (s : State) : Out := issue (.vstx p vs2 rs1 w vs3) s

/-- VST_F (R154): Unit encoding store into a format region. -/
def execVstF (p : PReg) (rs1 : Reg) (vs3 : VReg) (s : State) : Out := issue (.vstF p rs1 vs3) s

/-- VSTS_F (R154): Strided encoding store into a format region. -/
def execVstsF (p : PReg) (rs2 rs1 : Reg) (vs3 : VReg) (s : State) : Out := issue (.vstsF p rs2 rs1 vs3) s

/-- VSTX_F (R154): Indexed encoding store into a format region. -/
def execVstxF (p : PReg) (vs2 : VReg) (rs1 : Reg) (vs3 : VReg) (s : State) : Out := issue (.vstxF p vs2 rs1 vs3) s

/-- VSTR (R155): Unit raw store of whole blocks. -/
def execVstr (p : PReg) (rs1 : Reg) (vs3 : VReg) (s : State) : Out := issue (.vstr p rs1 vs3) s

/-- VSTR_S (R155): Strided raw block store. -/
def execVstrS (p : PReg) (rs2 rs1 : Reg) (vs3 : VReg) (s : State) : Out := issue (.vstrS p rs2 rs1 vs3) s

/-- VSTR_X (R155): Indexed raw block store. -/
def execVstrX (p : PReg) (vs2 : VReg) (rs1 : Reg) (vs3 : VReg) (s : State) : Out := issue (.vstrX p vs2 rs1 vs3) s

/-- VSTG (R156): Unit store of whole multivectors. -/
def execVstg (p : PReg) (rs1 : Reg) (vs3 : VReg) (s : State) : Out := issue (.vstg p rs1 vs3) s

/-- VSTG_S (R156): Strided store of whole multivectors. -/
def execVstgS (p : PReg) (rs2 rs1 : Reg) (vs3 : VReg) (s : State) : Out := issue (.vstgS p rs2 rs1 vs3) s

/-- VSTG_X (R156): Indexed store of whole multivectors. -/
def execVstgX (p : PReg) (vs2 : VReg) (rs1 : Reg) (vs3 : VReg) (s : State) : Out := issue (.vstgX p vs2 rs1 vs3) s

/-- VST_P (R148): Stores predicate bits byte by byte. -/
def execVstP (rs1 : Reg) (ps : PReg) (s : State) : Out := issue (.vstP rs1 ps) s

/-- VSCADD (R159): Posted indexed scatter-add of each active element. -/
def execVscadd (p : PReg) (vs2 : VReg) (rs1 : Reg) (w : EW) (vs3 : VReg) (s : State) : Out := issue (.vscadd p vs2 rs1 w vs3) s

/-- VSTC (R160): Posted indexed scatter store keeping the highest element per address. -/
def execVstc (p : PReg) (vs2 : VReg) (rs1 : Reg) (vs3 : VReg) (s : State) : Out := issue (.vstc p vs2 rs1 vs3) s

end Sys2Proof.Machine
end

