-- ==== Sys2Proof/Machine/VPerm.lean ====
section
/-! DEFINITION. VPERM words: permutes, moves, counts and reductions (R133 to R137), as the scalar stream meets them:
decoded into the vector queue, at whose head `entryRun` gives their effect. -/

namespace Sys2Proof.Machine

/-- VSTEP (R133): Writes b + i into each active element. -/
def execVstep (p : PReg) (form : Form) (s1 : Reg) (vd : VReg) (s : State) : Out := issue (.vstep p form s1 vd) s

/-- VXCH (R133): Exchanges elements by XOR of the index. -/
def execVxch (p : PReg) (form : Form) (vs2 : VReg) (s1 : Reg) (vd : VReg) (s : State) : Out := issue (.vxch p form vs2 s1 vd) s

/-- VSLIDEUP (R133): Slides elements up by an offset. -/
def execVslideup (p : PReg) (form : Form) (vs2 : VReg) (s1 : Reg) (vd : VReg) (s : State) : Out := issue (.vslideup p form vs2 s1 vd) s

/-- VSLIDEDN (R133): Slides elements down by an offset. -/
def execVslidedn (p : PReg) (form : Form) (vs2 : VReg) (s1 : Reg) (vd : VReg) (s : State) : Out := issue (.vslidedn p form vs2 s1 vd) s

/-- VGATHER (R133): Gathers elements by index. -/
def execVgather (p : PReg) (form : Form) (vs2 : VReg) (s1 : Reg) (vd : VReg) (s : State) : Out := issue (.vgather p form vs2 s1 vd) s

/-- VCOMPRESS (R133): Packs predicate-selected elements to the front. -/
def execVcompress (p : PReg) (vs2 vd : VReg) (s : State) : Out := issue (.vcompress p vs2 vd) s

/-- VCONF (R134): Writes the last earlier active element with an equal value. -/
def execVconf (p : PReg) (vs2 vd : VReg) (s : State) : Out := issue (.vconf p vs2 vd) s

/-- VREDS (R136): Tree-sum reduction into vd[0]. -/
def execVreds (p : PReg) (form : Form) (vs2 : VReg) (s1 : Reg) (vd : VReg) (s : State) : Out := issue (.vreds p form vs2 s1 vd) s

/-- VFREDO (R137): Ordered FP sum rounded per addition, restartable through VRSI and VRSS. -/
def execVfredo (p : PReg) (form : Form) (vs2 : VReg) (s1 : Reg) (vd : VReg) (s : State) : Out := issue (.vfredo p form vs2 s1 vd) s

/-- VREDMIN (R136): Tree minimum reduction into vd[0]. -/
def execVredmin (p : PReg) (form : Form) (vs2 : VReg) (s1 : Reg) (vd : VReg) (s : State) : Out := issue (.vredmin p form vs2 s1 vd) s

/-- VREDMAX (R136): Tree maximum reduction into vd[0]. -/
def execVredmax (p : PReg) (form : Form) (vs2 : VReg) (s1 : Reg) (vd : VReg) (s : State) : Out := issue (.vredmax p form vs2 s1 vd) s

/-- VMVXS (R135): Moves one vector element into x[rd], holding the scalar stream until commit. -/
def execVmvxs (form : Form) (vs2 : VReg) (s1 rd : Reg) (s : State) : Out := issue (.vmvxs form vs2 s1 rd) s

/-- VMVSX (R135): Moves a scalar into element 0. -/
def execVmvsx (form : Form) (s1 : Reg) (vd : VReg) (s : State) : Out := issue (.vmvsx form s1 vd) s

/-- VPOPC (R135): Counts set predicate bits into x[rd]. -/
def execVpopc (p ps2 : PReg) (rd : Reg) (s : State) : Out := issue (.vpopc p ps2 rd) s

/-- VFIRST (R135): Finds the first set predicate bit into x[rd]. -/
def execVfirst (p ps2 : PReg) (rd : Reg) (s : State) : Out := issue (.vfirst p ps2 rd) s

end Sys2Proof.Machine
end

