-- ==== Sys2Proof/Machine/VPred.lean ====
section
/-! DEFINITION. VPRED words: predicate operations and compares (R131, R132), as the scalar stream meets them:
decoded into the vector queue, at whose head `entryRun` gives their effect. -/

namespace Sys2Proof.Machine

/-- PAND (R131): Predicate AND. -/
def execPand (p ps2 ps1 pd : PReg) (s : State) : Out := issue (.pand p ps2 ps1 pd) s

/-- POR (R131): Predicate OR. -/
def execPor (p ps2 ps1 pd : PReg) (s : State) : Out := issue (.por p ps2 ps1 pd) s

/-- PXOR (R131): Predicate XOR. -/
def execPxor (p ps2 ps1 pd : PReg) (s : State) : Out := issue (.pxor p ps2 ps1 pd) s

/-- PANDN (R131): Predicate AND NOT. -/
def execPandn (p ps2 ps1 pd : PReg) (s : State) : Out := issue (.pandn p ps2 ps1 pd) s

/-- PNOT (R131): Predicate NOT. -/
def execPnot (p ps2 pd : PReg) (s : State) : Out := issue (.pnot p ps2 pd) s

/-- PSET (R131): Sets predicate bits below VL. -/
def execPset (p pd : PReg) (s : State) : Out := issue (.pset p pd) s

/-- PCLR (R131): Clears predicate bits below VL. -/
def execPclr (p pd : PReg) (s : State) : Out := issue (.pclr p pd) s

/-- PMERGE (R131): Selects predicate bits of ps1 or ps2 by the governing predicate. -/
def execPmerge (p ps2 ps1 pd : PReg) (s : State) : Out := issue (.pmerge p ps2 ps1 pd) s

/-- VCMPEQ (R132): Vector integer equality into a predicate. -/
def execVcmpeq (p : PReg) (form : Form) (vs2 : VReg) (s1 : Reg) (pd : PReg) (s : State) : Out := issue (.vcmpeq p form vs2 s1 pd) s

/-- VCMPNE (R132): Vector integer inequality into a predicate. -/
def execVcmpne (p : PReg) (form : Form) (vs2 : VReg) (s1 : Reg) (pd : PReg) (s : State) : Out := issue (.vcmpne p form vs2 s1 pd) s

/-- VCMPLT (R132): Vector signed less-than into a predicate. -/
def execVcmplt (p : PReg) (form : Form) (vs2 : VReg) (s1 : Reg) (pd : PReg) (s : State) : Out := issue (.vcmplt p form vs2 s1 pd) s

/-- VCMPLTU (R132): Vector unsigned less-than into a predicate. -/
def execVcmpltu (p : PReg) (form : Form) (vs2 : VReg) (s1 : Reg) (pd : PReg) (s : State) : Out := issue (.vcmpltu p form vs2 s1 pd) s

/-- VCMPGE (R132): Vector signed greater-or-equal into a predicate. -/
def execVcmpge (p : PReg) (form : Form) (vs2 : VReg) (s1 : Reg) (pd : PReg) (s : State) : Out := issue (.vcmpge p form vs2 s1 pd) s

/-- VFCMPEQ (R132): Vector FP equality into a predicate. -/
def execVfcmpeq (p : PReg) (form : Form) (vs2 : VReg) (s1 : Reg) (pd : PReg) (s : State) : Out := issue (.vfcmpeq p form vs2 s1 pd) s

/-- VFCMPLT (R132): Vector FP less-than into a predicate. -/
def execVfcmplt (p : PReg) (form : Form) (vs2 : VReg) (s1 : Reg) (pd : PReg) (s : State) : Out := issue (.vfcmplt p form vs2 s1 pd) s

/-- VFCMPLE (R132): Vector FP less-or-equal into a predicate. -/
def execVfcmple (p : PReg) (form : Form) (vs2 : VReg) (s1 : Reg) (pd : PReg) (s : State) : Out := issue (.vfcmple p form vs2 s1 pd) s

end Sys2Proof.Machine
end

