-- ==== Sys2Proof/Machine/VTile.lean ====
section
/-! DEFINITION. Tile words and the vector-side handle words (R191 to R213, R302 to R308), as the scalar stream meets them:
decoded into the vector queue, at whose head `entryRun` gives their effect. -/

namespace Sys2Proof.Machine

/-- MODET (R192): Enters tile mode, taking the tile unit and zeroing the accumulators. -/
def execModet (req : BitVec 11) (s : State) : Out := issue (.modet req) s

/-- MODEV (R194): Leaves tile mode and releases the tile unit. -/
def execModev (s : State) : Out := issue .modev s

/-- TZERO (R207): Zeroes an accumulator. -/
def execTzero (z : ZReg) (s : State) : Out := issue (.tzero z) s

/-- TOPA (R202): Outer product of two operand registers into an accumulator. -/
def execTopa (set neg : Bool) (vb va : VReg) (z : ZReg) (s : State) : Out := issue (.topa set neg vb va z) s

/-- TOPAS (R204): K-step outer products streamed from two handles into an accumulator. -/
def execTopas (set neg : Bool) (hb ha : HReg) (z : ZReg) (s : State) : Out := issue (.topas set neg hb ha z) s

/-- TDRAIN (R210): Drains an accumulator row into a vector register and starts its chain. -/
def execTdrain (n : BitVec 3) (z : ZReg) (rs1 : Reg) (vd : VReg) (s : State) : Out := issue (.tdrain n z rs1 vd) s

/-- TLDZ (R208): Loads an accumulator from memory. -/
def execTldz (rs2 rs1 : Reg) (z : ZReg) (s : State) : Out := issue (.tldz rs2 rs1 z) s

/-- TSTZ (R209): Stores an accumulator to memory. -/
def execTstz (rs2 rs1 : Reg) (z : ZReg) (s : State) : Out := issue (.tstz rs2 rs1 z) s

/-- TSHAPE (R197): Sets the tile shape M, N and K. -/
def execTshape (rs2 rs1 : Reg) (s : State) : Out := issue (.tshape rs2 rs1) s

/-- TFETCH (R303): Fills an operand register from a handle's window. -/
def execTfetch (hs : HReg) (rs1 : Reg) (va : VReg) (s : State) : Out := issue (.tfetch hs rs1 va) s

/-- HLD (R302): Loads VL layered elements through a handle. -/
def execHld (hs : HReg) (rs1 : Reg) (vd : VReg) (s : State) : Out := issue (.hld hs rs1 vd) s

/-- HST (R305): Stores VL elements through a handle as a posted, published operation. -/
def execHst (hs : HReg) (vs3 : VReg) (rd : Reg) (s : State) : Out := issue (.hst hs vs3 rd) s

/-- HST_TRY (R308): Handle store that reports sparse overflow in a condition bit. -/
def execHstTry (cd : CReg) (hs : HReg) (vs3 : VReg) (rd : Reg) (s : State) : Out := issue (.hstTry cd hs vs3 rd) s

end Sys2Proof.Machine
end

