-- ==== Sys2Proof/Machine/Waits.lean ====
section
/-! DEFINITION. Waiting words that look again at what they wait for, and the events that let them: PARK_REREAD, WFE_WAKE,
BWAIT_COMPLETE, MRECV_DEQUEUE, EMIT_UNBLOCK, SCHEDULER_DECISION and CWAIT_TIMEOUT (R261, R281, R286, R321, R322, R324, R334,
R392). -/

namespace Sys2Proof.Machine

/-- A parked WFE looks at EV (R392). -/
def wfeResume (w : WaitRec) (s : State) : Run State :=
  if s.t.ev then .ok ({ s with t := { s.t with ev := false } } : State).advance else .error (.wait w, s)

/-- The waiting word of the thread in focus goes on, or waits further. A word that was held starts again by its fetch. -/
def resumeWait (w : WaitRec) (s : State) : Run State :=
  match w.kind with
  | .park => s.committing (parkResume w)
  | .emit => emitResume w s
  | .take => s.committing (takeResume w)
  | .cwait => cwaitResume w s
  | .wfe => wfeResume w s
  | .mrecv => s.committing (mrecvResume w)
  | .bwait => bwaitResume w s
  | .engine => s.committing (engineResume w)
  | .hold => hold s

/-- The thread of the state in focus has a word that waits in a way. -/
def State.waitsIn (s : State) (k : WaitKind) : Bool :=
  s.mayRun && match s.t.wait with | some w => w.kind == k | none => false

/-- The outcome of a try of the word that waits in focus. -/
def State.retry (s : State) : State :=
  match s.t.wait with
  | none => s
  | some w => match s.precise fun s => finish (resumeWait w s) with
    | .next s => s
    | _ => s

/-- A slot's word that waits in a way tries again; elsewhere nothing happens. -/
def wakeUp (k : WaitKind) (pos : Nat) (s : State) : Out :=
  .next (if slotCount ≤ pos then s else s.during pos fun s => if s.waitsIn k then s.retry else s)

/-- PARK_REREAD (R261). -/
def execParkReread (pos : Nat) (s : State) : Out := wakeUp .park pos s

/-- WFE_WAKE (R392). -/
def execWfeWake (pos : Nat) (s : State) : Out := wakeUp .wfe pos s

/-- BWAIT_COMPLETE (R334). -/
def execBwaitComplete (pos : Nat) (s : State) : Out := wakeUp .bwait pos s

/-- MRECV_DEQUEUE (R286). -/
def execMrecvDequeue (pos : Nat) (s : State) : Out := wakeUp .mrecv pos s

/-- EMIT_UNBLOCK (R321). -/
def execEmitUnblock (pos : Nat) (s : State) : Out := wakeUp .emit pos s

/-- SCHEDULER_DECISION (R324). -/
def execSchedulerDecision (pos : Nat) (s : State) : Out := wakeUp .take pos s

/-- CWAIT_TIMEOUT (R281): the limit of a waiting CWAIT expires. -/
def execCwaitTimeout (pos : Nat) (s : State) : Out :=
  .next (if slotCount ≤ pos then s else s.during pos fun s => if s.waitsIn .cwait then s.cwaitExpire.getD s else s)

end Sys2Proof.Machine
end

