-- ==== Sys2Proof/Machine/Dispatch.lean ====
section
/-! DEFINITION. One arm per instruction: the meaning of each row of the opcode table. -/

namespace Sys2Proof.Machine

def exec (i : Instr) (s : State) : Host.Outcome State Fault Refusal :=
  match i with
  | .add rs2 rs1 rd => Sys2Proof.Machine.execAdd rs2 rs1 rd s
  | .sub rs2 rs1 rd => Sys2Proof.Machine.execSub rs2 rs1 rd s
  | .mul rs2 rs1 rd => Sys2Proof.Machine.execMul rs2 rs1 rd s
  | .mulh rs2 rs1 rd => Sys2Proof.Machine.execMulh rs2 rs1 rd s
  | .mulhu rs2 rs1 rd => Sys2Proof.Machine.execMulhu rs2 rs1 rd s
  | .div rs2 rs1 rd => Sys2Proof.Machine.execDiv rs2 rs1 rd s
  | .divu rs2 rs1 rd => Sys2Proof.Machine.execDivu rs2 rs1 rd s
  | .rem rs2 rs1 rd => Sys2Proof.Machine.execRem rs2 rs1 rd s
  | .remu rs2 rs1 rd => Sys2Proof.Machine.execRemu rs2 rs1 rd s
  | .sll rs2 rs1 rd => Sys2Proof.Machine.execSll rs2 rs1 rd s
  | .srl rs2 rs1 rd => Sys2Proof.Machine.execSrl rs2 rs1 rd s
  | .sra rs2 rs1 rd => Sys2Proof.Machine.execSra rs2 rs1 rd s
  | .and_ rs2 rs1 rd => Sys2Proof.Machine.execAnd rs2 rs1 rd s
  | .or_ rs2 rs1 rd => Sys2Proof.Machine.execOr rs2 rs1 rd s
  | .xor_ rs2 rs1 rd => Sys2Proof.Machine.execXor rs2 rs1 rd s
  | .min_ rs2 rs1 rd => Sys2Proof.Machine.execMin rs2 rs1 rd s
  | .max_ rs2 rs1 rd => Sys2Proof.Machine.execMax rs2 rs1 rd s
  | .minu rs2 rs1 rd => Sys2Proof.Machine.execMinu rs2 rs1 rd s
  | .maxu rs2 rs1 rd => Sys2Proof.Machine.execMaxu rs2 rs1 rd s
  | .andn rs2 rs1 rd => Sys2Proof.Machine.execAndn rs2 rs1 rd s
  | .clz rs1 rd => Sys2Proof.Machine.execClz rs1 rd s
  | .ctz rs1 rd => Sys2Proof.Machine.execCtz rs1 rd s
  | .cpop rs1 rd => Sys2Proof.Machine.execCpop rs1 rd s
  | .sextb rs1 rd => Sys2Proof.Machine.execSextb rs1 rd s
  | .sexth rs1 rd => Sys2Proof.Machine.execSexth rs1 rd s
  | .zexth rs1 rd => Sys2Proof.Machine.execZexth rs1 rd s
  | .addi imm rs1 rd => Sys2Proof.Machine.execAddi imm rs1 rd s
  | .slli sh rs1 rd => Sys2Proof.Machine.execSlli sh rs1 rd s
  | .srli sh rs1 rd => Sys2Proof.Machine.execSrli sh rs1 rd s
  | .srai sh rs1 rd => Sys2Proof.Machine.execSrai sh rs1 rd s
  | .andi imm rs1 rd => Sys2Proof.Machine.execAndi imm rs1 rd s
  | .ori imm rs1 rd => Sys2Proof.Machine.execOri imm rs1 rd s
  | .xori imm rs1 rd => Sys2Proof.Machine.execXori imm rs1 rd s
  | .lui imm rd => Sys2Proof.Machine.execLui imm rd s
  | .auipc imm rd => Sys2Proof.Machine.execAuipc imm rd s
  | .ceq rs2 rs1 mode cd => Sys2Proof.Machine.execCeq rs2 rs1 mode cd s
  | .cne rs2 rs1 mode cd => Sys2Proof.Machine.execCne rs2 rs1 mode cd s
  | .clt rs2 rs1 mode cd => Sys2Proof.Machine.execClt rs2 rs1 mode cd s
  | .cge rs2 rs1 mode cd => Sys2Proof.Machine.execCge rs2 rs1 mode cd s
  | .cltu rs2 rs1 mode cd => Sys2Proof.Machine.execCltu rs2 rs1 mode cd s
  | .cgeu rs2 rs1 mode cd => Sys2Proof.Machine.execCgeu rs2 rs1 mode cd s
  | .ccmb mode cd nb cb na ca => Sys2Proof.Machine.execCcmb mode cd nb cb na ca s
  | .crdx rd => Sys2Proof.Machine.execCrdx rd s
  | .cwrx rs1 => Sys2Proof.Machine.execCwrx rs1 s
  | .ceqi imm rs1 mode cd => Sys2Proof.Machine.execCeqi imm rs1 mode cd s
  | .cnei imm rs1 mode cd => Sys2Proof.Machine.execCnei imm rs1 mode cd s
  | .clti imm rs1 mode cd => Sys2Proof.Machine.execClti imm rs1 mode cd s
  | .cgei imm rs1 mode cd => Sys2Proof.Machine.execCgei imm rs1 mode cd s
  | .cltui imm rs1 mode cd => Sys2Proof.Machine.execCltui imm rs1 mode cd s
  | .cgeui imm rs1 mode cd => Sys2Proof.Machine.execCgeui imm rs1 mode cd s
  | .cbiti bit rs1 mode cd => Sys2Proof.Machine.execCbiti bit rs1 mode cd s
  | .bc cond off => Sys2Proof.Machine.execBc cond off s
  | .bcn cond off => Sys2Proof.Machine.execBcn cond off s
  | .jal rd off => Sys2Proof.Machine.execJal rd off s
  | .jalr imm rs1 rd => Sys2Proof.Machine.execJalr imm rs1 rd s
  | .loop imm rs1 => Sys2Proof.Machine.execLoop imm rs1 s
  | .pref imm rs1 lvl => Sys2Proof.Machine.execPref imm rs1 lvl s
  | .lfetch imm rs1 vi => Sys2Proof.Machine.execLfetch imm rs1 vi s
  | .stop => Sys2Proof.Machine.execStop s
  | .fadd fmt rs2 rs1 rd => Sys2Proof.Machine.execFadd fmt rs2 rs1 rd s
  | .fsub fmt rs2 rs1 rd => Sys2Proof.Machine.execFsub fmt rs2 rs1 rd s
  | .fmul fmt rs2 rs1 rd => Sys2Proof.Machine.execFmul fmt rs2 rs1 rd s
  | .fdiv fmt rs2 rs1 rd => Sys2Proof.Machine.execFdiv fmt rs2 rs1 rd s
  | .fsqrt fmt rs1 rd => Sys2Proof.Machine.execFsqrt fmt rs1 rd s
  | .fmin fmt rs2 rs1 rd => Sys2Proof.Machine.execFmin fmt rs2 rs1 rd s
  | .fmax fmt rs2 rs1 rd => Sys2Proof.Machine.execFmax fmt rs2 rs1 rd s
  | .fsgnj fmt rs2 rs1 rd => Sys2Proof.Machine.execFsgnj fmt rs2 rs1 rd s
  | .fsgnjn fmt rs2 rs1 rd => Sys2Proof.Machine.execFsgnjn fmt rs2 rs1 rd s
  | .fsgnjx fmt rs2 rs1 rd => Sys2Proof.Machine.execFsgnjx fmt rs2 rs1 rd s
  | .fcvt fmt sel rs1 rd => Sys2Proof.Machine.execFcvt fmt sel rs1 rd s
  | .fmvxf fmt rs1 rd => Sys2Proof.Machine.execFmvxf fmt rs1 rd s
  | .fmvfx fmt rs1 rd => Sys2Proof.Machine.execFmvfx fmt rs1 rd s
  | .fclass fmt rs1 rd => Sys2Proof.Machine.execFclass fmt rs1 rd s
  | .fceq fmt rs2 rs1 mode cd => Sys2Proof.Machine.execFceq fmt rs2 rs1 mode cd s
  | .fclt fmt rs2 rs1 mode cd => Sys2Proof.Machine.execFclt fmt rs2 rs1 mode cd s
  | .fcle fmt rs2 rs1 mode cd => Sys2Proof.Machine.execFcle fmt rs2 rs1 mode cd s
  | .fmadd rs3 fmt rs2 rs1 rd => Sys2Proof.Machine.execFmadd rs3 fmt rs2 rs1 rd s
  | .fmsub rs3 fmt rs2 rs1 rd => Sys2Proof.Machine.execFmsub rs3 fmt rs2 rs1 rd s
  | .fnmadd rs3 fmt rs2 rs1 rd => Sys2Proof.Machine.execFnmadd rs3 fmt rs2 rs1 rd s
  | .fnmsub rs3 fmt rs2 rs1 rd => Sys2Proof.Machine.execFnmsub rs3 fmt rs2 rs1 rd s
  | .lb imm rs1 rd => Sys2Proof.Machine.execLb imm rs1 rd s
  | .lh imm rs1 rd => Sys2Proof.Machine.execLh imm rs1 rd s
  | .lw imm rs1 rd => Sys2Proof.Machine.execLw imm rs1 rd s
  | .ld imm rs1 rd => Sys2Proof.Machine.execLd imm rs1 rd s
  | .lbu imm rs1 rd => Sys2Proof.Machine.execLbu imm rs1 rd s
  | .lhu imm rs1 rd => Sys2Proof.Machine.execLhu imm rs1 rd s
  | .lwu imm rs1 rd => Sys2Proof.Machine.execLwu imm rs1 rd s
  | .flh imm rs1 rd => Sys2Proof.Machine.execFlh imm rs1 rd s
  | .flw imm rs1 rd => Sys2Proof.Machine.execFlw imm rs1 rd s
  | .fld imm rs1 rd => Sys2Proof.Machine.execFld imm rs1 rd s
  | .sb rs2 rs1 imm => Sys2Proof.Machine.execSb rs2 rs1 imm s
  | .sh rs2 rs1 imm => Sys2Proof.Machine.execSh rs2 rs1 imm s
  | .sw rs2 rs1 imm => Sys2Proof.Machine.execSw rs2 rs1 imm s
  | .sd rs2 rs1 imm => Sys2Proof.Machine.execSd rs2 rs1 imm s
  | .fsh rs2 rs1 imm => Sys2Proof.Machine.execFsh rs2 rs1 imm s
  | .fsw rs2 rs1 imm => Sys2Proof.Machine.execFsw rs2 rs1 imm s
  | .fsd rs2 rs1 imm => Sys2Proof.Machine.execFsd rs2 rs1 imm s
  | .amoadd rs2 rs1 dw rd => Sys2Proof.Machine.execAmoadd rs2 rs1 dw rd s
  | .amoswap rs2 rs1 dw rd => Sys2Proof.Machine.execAmoswap rs2 rs1 dw rd s
  | .amocas rs2 rs1 dw rd => Sys2Proof.Machine.execAmocas rs2 rs1 dw rd s
  | .amomin rs2 rs1 dw rd => Sys2Proof.Machine.execAmomin rs2 rs1 dw rd s
  | .amomax rs2 rs1 dw rd => Sys2Proof.Machine.execAmomax rs2 rs1 dw rd s
  | .amominu rs2 rs1 dw rd => Sys2Proof.Machine.execAmominu rs2 rs1 dw rd s
  | .amomaxu rs2 rs1 dw rd => Sys2Proof.Machine.execAmomaxu rs2 rs1 dw rd s
  | .amoand rs2 rs1 dw rd => Sys2Proof.Machine.execAmoand rs2 rs1 dw rd s
  | .amoor rs2 rs1 dw rd => Sys2Proof.Machine.execAmoor rs2 rs1 dw rd s
  | .amoxor rs2 rs1 dw rd => Sys2Proof.Machine.execAmoxor rs2 rs1 dw rd s
  | .scall => Sys2Proof.Machine.execScall s
  | .sbrk => Sys2Proof.Machine.execSbrk s
  | .sret => Sys2Proof.Machine.execSret s
  | .wfe => Sys2Proof.Machine.execWfe s
  | .halt => Sys2Proof.Machine.execHalt s
  | .atcinv rs1 => Sys2Proof.Machine.execAtcinv rs1 s
  | .srd reg rd => Sys2Proof.Machine.execSrd reg rd s
  | .swr reg rs1 => Sys2Proof.Machine.execSwr reg rs1 s
  | .sset reg rs1 => Sys2Proof.Machine.execSset reg rs1 s
  | .sclr reg rs1 => Sys2Proof.Machine.execSclr reg rs1 s
  | .readVectorStatus reg rd => Sys2Proof.Machine.execReadVectorStatus reg rd s
  | .readTshape rd => Sys2Proof.Machine.execReadTshape rd s
  | .writeVectorStatus kind reg rs1 => Sys2Proof.Machine.execWriteVectorStatus kind reg rs1 s
  | .writeFrm kind rs1 => Sys2Proof.Machine.execWriteFrm kind rs1 s
  | .writeLoopRegisters kind reg rs1 => Sys2Proof.Machine.execWriteLoopRegisters kind reg rs1 s
  | .writePtbase kind rs1 => Sys2Proof.Machine.execWritePtbase kind rs1 s
  | .writeSpbase kind rs1 => Sys2Proof.Machine.execWriteSpbase kind rs1 s
  | .writeFrtbase kind rs1 => Sys2Proof.Machine.execWriteFrtbase kind rs1 s
  | .writeMarchsel kind rs1 => Sys2Proof.Machine.execWriteMarchsel kind rs1 s
  | .writeDigestControl kind reg rs1 => Sys2Proof.Machine.execWriteDigestControl kind reg rs1 s
  | .vsetvl rs2 rs1 rd => Sys2Proof.Machine.execVsetvl rs2 rs1 rd s
  | .vsetvli req rs1 rd => Sys2Proof.Machine.execVsetvli req rs1 rd s
  | .modet req => Sys2Proof.Machine.execModet req s
  | .tileAcquire pos => Sys2Proof.Machine.execTileAcquire pos s
  | .modev => Sys2Proof.Machine.execModev s
  | .gdecl mask vd => Sys2Proof.Machine.execGdecl mask vd s
  | .gtag vs rd => Sys2Proof.Machine.execGtag vs rd s
  | .vblk imm rs1 => Sys2Proof.Machine.execVblk imm rs1 s
  | .vjoin => Sys2Proof.Machine.execVjoin s
  | .laneGroupIssue pos => Sys2Proof.Machine.execLaneGroupIssue pos s
  | .vadd p form vs2 s1 vd => Sys2Proof.Machine.execVadd p form vs2 s1 vd s
  | .vsub p form vs2 s1 vd => Sys2Proof.Machine.execVsub p form vs2 s1 vd s
  | .vmul p form vs2 s1 vd => Sys2Proof.Machine.execVmul p form vs2 s1 vd s
  | .vmulh p form vs2 s1 vd => Sys2Proof.Machine.execVmulh p form vs2 s1 vd s
  | .vmulhu p form vs2 s1 vd => Sys2Proof.Machine.execVmulhu p form vs2 s1 vd s
  | .vmacc p form vs2 s1 vd => Sys2Proof.Machine.execVmacc p form vs2 s1 vd s
  | .vand p form vs2 s1 vd => Sys2Proof.Machine.execVand p form vs2 s1 vd s
  | .vor p form vs2 s1 vd => Sys2Proof.Machine.execVor p form vs2 s1 vd s
  | .vxor p form vs2 s1 vd => Sys2Proof.Machine.execVxor p form vs2 s1 vd s
  | .vsll p form vs2 s1 vd => Sys2Proof.Machine.execVsll p form vs2 s1 vd s
  | .vsrl p form vs2 s1 vd => Sys2Proof.Machine.execVsrl p form vs2 s1 vd s
  | .vsra p form vs2 s1 vd => Sys2Proof.Machine.execVsra p form vs2 s1 vd s
  | .vmin p form vs2 s1 vd => Sys2Proof.Machine.execVmin p form vs2 s1 vd s
  | .vmax p form vs2 s1 vd => Sys2Proof.Machine.execVmax p form vs2 s1 vd s
  | .vminu p form vs2 s1 vd => Sys2Proof.Machine.execVminu p form vs2 s1 vd s
  | .vmaxu p form vs2 s1 vd => Sys2Proof.Machine.execVmaxu p form vs2 s1 vd s
  | .vfadd p form vs2 s1 vd => Sys2Proof.Machine.execVfadd p form vs2 s1 vd s
  | .vfsub p form vs2 s1 vd => Sys2Proof.Machine.execVfsub p form vs2 s1 vd s
  | .vfmul p form vs2 s1 vd => Sys2Proof.Machine.execVfmul p form vs2 s1 vd s
  | .vfdiv p form vs2 s1 vd => Sys2Proof.Machine.execVfdiv p form vs2 s1 vd s
  | .vfsqrt p vs2 vd => Sys2Proof.Machine.execVfsqrt p vs2 vd s
  | .vfmacc p form vs2 s1 vd => Sys2Proof.Machine.execVfmacc p form vs2 s1 vd s
  | .vfnmsac p form vs2 s1 vd => Sys2Proof.Machine.execVfnmsac p form vs2 s1 vd s
  | .vfmin p form vs2 s1 vd => Sys2Proof.Machine.execVfmin p form vs2 s1 vd s
  | .vfmax p form vs2 s1 vd => Sys2Proof.Machine.execVfmax p form vs2 s1 vd s
  | .vfcvt p vs2 code vd => Sys2Proof.Machine.execVfcvt p vs2 code vd s
  | .vfsgnj p form vs2 s1 vd => Sys2Proof.Machine.execVfsgnj p form vs2 s1 vd s
  | .vfrsqrte p vs2 vd => Sys2Proof.Machine.execVfrsqrte p vs2 vd s
  | .vfclass p vs2 vd => Sys2Proof.Machine.execVfclass p vs2 vd s
  | .vmix p form vs2 s1 vd => Sys2Proof.Machine.execVmix p form vs2 s1 vd s
  | .vfdot4 p form vs2 s1 vd => Sys2Proof.Machine.execVfdot4 p form vs2 s1 vd s
  | .vfmerge p form vs2 s1 vd => Sys2Proof.Machine.execVfmerge p form vs2 s1 vd s
  | .vstep p form s1 vd => Sys2Proof.Machine.execVstep p form s1 vd s
  | .vxch p form vs2 s1 vd => Sys2Proof.Machine.execVxch p form vs2 s1 vd s
  | .vslideup p form vs2 s1 vd => Sys2Proof.Machine.execVslideup p form vs2 s1 vd s
  | .vslidedn p form vs2 s1 vd => Sys2Proof.Machine.execVslidedn p form vs2 s1 vd s
  | .vgather p form vs2 s1 vd => Sys2Proof.Machine.execVgather p form vs2 s1 vd s
  | .vcompress p vs2 vd => Sys2Proof.Machine.execVcompress p vs2 vd s
  | .vconf p vs2 vd => Sys2Proof.Machine.execVconf p vs2 vd s
  | .vreds p form vs2 s1 vd => Sys2Proof.Machine.execVreds p form vs2 s1 vd s
  | .vfredo p form vs2 s1 vd => Sys2Proof.Machine.execVfredo p form vs2 s1 vd s
  | .vredmin p form vs2 s1 vd => Sys2Proof.Machine.execVredmin p form vs2 s1 vd s
  | .vredmax p form vs2 s1 vd => Sys2Proof.Machine.execVredmax p form vs2 s1 vd s
  | .vmvxs form vs2 s1 rd => Sys2Proof.Machine.execVmvxs form vs2 s1 rd s
  | .vmvsx form s1 vd => Sys2Proof.Machine.execVmvsx form s1 vd s
  | .vpopc p ps2 rd => Sys2Proof.Machine.execVpopc p ps2 rd s
  | .vfirst p ps2 rd => Sys2Proof.Machine.execVfirst p ps2 rd s
  | .pand p ps2 ps1 pd => Sys2Proof.Machine.execPand p ps2 ps1 pd s
  | .por p ps2 ps1 pd => Sys2Proof.Machine.execPor p ps2 ps1 pd s
  | .pxor p ps2 ps1 pd => Sys2Proof.Machine.execPxor p ps2 ps1 pd s
  | .pandn p ps2 ps1 pd => Sys2Proof.Machine.execPandn p ps2 ps1 pd s
  | .pnot p ps2 pd => Sys2Proof.Machine.execPnot p ps2 pd s
  | .pset p pd => Sys2Proof.Machine.execPset p pd s
  | .pclr p pd => Sys2Proof.Machine.execPclr p pd s
  | .vcmpeq p form vs2 s1 pd => Sys2Proof.Machine.execVcmpeq p form vs2 s1 pd s
  | .vcmpne p form vs2 s1 pd => Sys2Proof.Machine.execVcmpne p form vs2 s1 pd s
  | .vcmplt p form vs2 s1 pd => Sys2Proof.Machine.execVcmplt p form vs2 s1 pd s
  | .vcmpltu p form vs2 s1 pd => Sys2Proof.Machine.execVcmpltu p form vs2 s1 pd s
  | .vcmpge p form vs2 s1 pd => Sys2Proof.Machine.execVcmpge p form vs2 s1 pd s
  | .vfcmpeq p form vs2 s1 pd => Sys2Proof.Machine.execVfcmpeq p form vs2 s1 pd s
  | .vfcmplt p form vs2 s1 pd => Sys2Proof.Machine.execVfcmplt p form vs2 s1 pd s
  | .vfcmple p form vs2 s1 pd => Sys2Proof.Machine.execVfcmple p form vs2 s1 pd s
  | .pmerge p ps2 ps1 pd => Sys2Proof.Machine.execPmerge p ps2 ps1 pd s
  | .vld p rs1 w vd => Sys2Proof.Machine.execVld p rs1 w vd s
  | .vlds p rs2 rs1 w vd => Sys2Proof.Machine.execVlds p rs2 rs1 w vd s
  | .vldx p vs2 rs1 w vd => Sys2Proof.Machine.execVldx p vs2 rs1 w vd s
  | .vldf p rs1 vd => Sys2Proof.Machine.execVldf p rs1 vd s
  | .vldfS p rs2 rs1 vd => Sys2Proof.Machine.execVldfS p rs2 rs1 vd s
  | .vldfX p vs2 rs1 vd => Sys2Proof.Machine.execVldfX p vs2 rs1 vd s
  | .vldr p rs1 vd => Sys2Proof.Machine.execVldr p rs1 vd s
  | .vldrS p rs2 rs1 vd => Sys2Proof.Machine.execVldrS p rs2 rs1 vd s
  | .vldrX p vs2 rs1 vd => Sys2Proof.Machine.execVldrX p vs2 rs1 vd s
  | .vldg p rs1 vd => Sys2Proof.Machine.execVldg p rs1 vd s
  | .vldgS p rs2 rs1 vd => Sys2Proof.Machine.execVldgS p rs2 rs1 vd s
  | .vldgX p vs2 rs1 vd => Sys2Proof.Machine.execVldgX p vs2 rs1 vd s
  | .vldP rs1 pd => Sys2Proof.Machine.execVldP rs1 pd s
  | .texs p vs2 rs1 vd => Sys2Proof.Machine.execTexs p vs2 rs1 vd s
  | .vst p rs1 w vs3 => Sys2Proof.Machine.execVst p rs1 w vs3 s
  | .vsts p rs2 rs1 w vs3 => Sys2Proof.Machine.execVsts p rs2 rs1 w vs3 s
  | .vstx p vs2 rs1 w vs3 => Sys2Proof.Machine.execVstx p vs2 rs1 w vs3 s
  | .vstF p rs1 vs3 => Sys2Proof.Machine.execVstF p rs1 vs3 s
  | .vstsF p rs2 rs1 vs3 => Sys2Proof.Machine.execVstsF p rs2 rs1 vs3 s
  | .vstxF p vs2 rs1 vs3 => Sys2Proof.Machine.execVstxF p vs2 rs1 vs3 s
  | .vstr p rs1 vs3 => Sys2Proof.Machine.execVstr p rs1 vs3 s
  | .vstrS p rs2 rs1 vs3 => Sys2Proof.Machine.execVstrS p rs2 rs1 vs3 s
  | .vstrX p vs2 rs1 vs3 => Sys2Proof.Machine.execVstrX p vs2 rs1 vs3 s
  | .vstg p rs1 vs3 => Sys2Proof.Machine.execVstg p rs1 vs3 s
  | .vstgS p rs2 rs1 vs3 => Sys2Proof.Machine.execVstgS p rs2 rs1 vs3 s
  | .vstgX p vs2 rs1 vs3 => Sys2Proof.Machine.execVstgX p vs2 rs1 vs3 s
  | .vstP rs1 ps => Sys2Proof.Machine.execVstP rs1 ps s
  | .vscadd p vs2 rs1 w vs3 => Sys2Proof.Machine.execVscadd p vs2 rs1 w vs3 s
  | .vstc p vs2 rs1 vs3 => Sys2Proof.Machine.execVstc p vs2 rs1 vs3 s
  | .gp p vs2 vs1 neg inv rev vd => Sys2Proof.Machine.execGp p vs2 vs1 neg inv rev vd s
  | .gwedge p vs2 vs1 neg inv rev vd => Sys2Proof.Machine.execGwedge p vs2 vs1 neg inv rev vd s
  | .gjoin p vs2 vs1 neg inv rev vd => Sys2Proof.Machine.execGjoin p vs2 vs1 neg inv rev vd s
  | .gldot p vs2 vs1 neg inv rev vd => Sys2Proof.Machine.execGldot p vs2 vs1 neg inv rev vd s
  | .gsand p vs2 vs1 neg inv rev vd => Sys2Proof.Machine.execGsand p vs2 vs1 neg inv rev vd s
  | .gcomm p vs2 vs1 neg inv rev vd => Sys2Proof.Machine.execGcomm p vs2 vs1 neg inv rev vd s
  | .gproj p mask vs1 neg rev vd => Sys2Proof.Machine.execGproj p mask vs1 neg rev vd s
  | .grev p vs1 neg rev vd => Sys2Proof.Machine.execGrev p vs1 neg rev vd s
  | .ginvol p vs1 neg rev vd => Sys2Proof.Machine.execGinvol p vs1 neg rev vd s
  | .gdual p vs1 neg rev vd => Sys2Proof.Machine.execGdual p vs1 neg rev vd s
  | .gnormsq p vs1 neg rev vd => Sys2Proof.Machine.execGnormsq p vs1 neg rev vd s
  | .gnorm p vs1 neg rev vd => Sys2Proof.Machine.execGnorm p vs1 neg rev vd s
  | .gnormz p vs1 neg rev vd => Sys2Proof.Machine.execGnormz p vs1 neg rev vd s
  | .gexp p vs1 neg rev vd => Sys2Proof.Machine.execGexp p vs1 neg rev vd s
  | .glog p vs1 neg rev vd => Sys2Proof.Machine.execGlog p vs1 neg rev vd s
  | .gsqrt p vs1 neg rev vd => Sys2Proof.Machine.execGsqrt p vs1 neg rev vd s
  | .ginv p vs1 neg rev vd => Sys2Proof.Machine.execGinv p vs1 neg rev vd s
  | .tzero z => Sys2Proof.Machine.execTzero z s
  | .topa set neg vb va z => Sys2Proof.Machine.execTopa set neg vb va z s
  | .topas set neg hb ha z => Sys2Proof.Machine.execTopas set neg hb ha z s
  | .topasRead pos => Sys2Proof.Machine.execTopasRead pos s
  | .tdrain n z rs1 vd => Sys2Proof.Machine.execTdrain n z rs1 vd s
  | .tldz rs2 rs1 z => Sys2Proof.Machine.execTldz rs2 rs1 z s
  | .tstz rs2 rs1 z => Sys2Proof.Machine.execTstz rs2 rs1 z s
  | .tshape rs2 rs1 => Sys2Proof.Machine.execTshape rs2 rs1 s
  | .tfetch hs rs1 va => Sys2Proof.Machine.execTfetch hs rs1 va s
  | .hldh rs1 hd => Sys2Proof.Machine.execHldh rs1 hd s
  | .hsth hs rs1 => Sys2Proof.Machine.execHsth hs rs1 s
  | .hld hs rs1 vd => Sys2Proof.Machine.execHld hs rs1 vd s
  | .hst hs vs3 rd => Sys2Proof.Machine.execHst hs vs3 rd s
  | .hstTry cd hs vs3 rd => Sys2Proof.Machine.execHstTry cd hs vs3 rd s
  | .hiter hs rd => Sys2Proof.Machine.execHiter hs rd s
  | .hattach rs2 rs1 rd => Sys2Proof.Machine.execHattach rs2 rs1 rd s
  | .hdetach rs2 rs1 rd => Sys2Proof.Machine.execHdetach rs2 rs1 rd s
  | .hinfo hs sel rd => Sys2Proof.Machine.execHinfo hs sel rd s
  | .forkCopy explicit rs1 rd => Sys2Proof.Machine.execForkCopy explicit rs1 rd s
  | .forkFold explicit rs1 rd => Sys2Proof.Machine.execForkFold explicit rs1 rd s
  | .forkBlend explicit rs1 rd => Sys2Proof.Machine.execForkBlend explicit rs1 rd s
  | .forkMarch explicit rs1 rd => Sys2Proof.Machine.execForkMarch explicit rs1 rd s
  | .rdv rs1 rd => Sys2Proof.Machine.execRdv rs1 rd s
  | .cpy explicit rs2 rs1 rd => Sys2Proof.Machine.execCpy explicit rs2 rs1 rd s
  | .cwait rs2 rs1 rd => Sys2Proof.Machine.execCwait rs2 rs1 rd s
  | .cwaitR rs2 rs1 rd => Sys2Proof.Machine.execCwaitR rs2 rs1 rd s
  | .cwaitTimeout pos => Sys2Proof.Machine.execCwaitTimeout pos s
  | .ctest rs1 cd => Sys2Proof.Machine.execCtest rs1 cd s
  | .publish rs1 rd => Sys2Proof.Machine.execPublish rs1 rd s
  | .publishDiscard rs1 rd => Sys2Proof.Machine.execPublishDiscard rs1 rd s
  | .msend len rs2 rs1 rd => Sys2Proof.Machine.execMsend len rs2 rs1 rd s
  | .mrecv rs2 rs1 rd => Sys2Proof.Machine.execMrecv rs2 rs1 rd s
  | .mrecvTry rs2 rs1 rd => Sys2Proof.Machine.execMrecvTry rs2 rs1 rd s
  | .launch rs1 rd => Sys2Proof.Machine.execLaunch rs1 rd s
  | .emit rs2 rs1 => Sys2Proof.Machine.execEmit rs2 rs1 s
  | .emitTry cd rs2 rs1 => Sys2Proof.Machine.execEmitTry cd rs2 rs1 s
  | .take rs1 cd => Sys2Proof.Machine.execTake rs1 cd s
  | .rcast rs2 rs1 rd => Sys2Proof.Machine.execRcast rs2 rs1 rd s
  | .rresume rs2 rs1 rd => Sys2Proof.Machine.execRresume rs2 rs1 rd s
  | .rquery rs1 rd => Sys2Proof.Machine.execRquery rs1 rd s
  | .fsv => Sys2Proof.Machine.execFsv s
  | .fvs => Sys2Proof.Machine.execFvs s
  | .fvv => Sys2Proof.Machine.execFvv s
  | .barv level rs1 rd => Sys2Proof.Machine.execBarv level rs1 rd s
  | .bwait level rs2 rs1 => Sys2Proof.Machine.execBwait level rs2 rs1 s
  | .bset level rs2 rs1 => Sys2Proof.Machine.execBset level rs2 rs1 s
  | .ifence scope rs2 rs1 => Sys2Proof.Machine.execIfence scope rs2 rs1 s
  | .isync => Sys2Proof.Machine.execIsync s
  | .dfence scope => Sys2Proof.Machine.execDfence scope s
  | .park rs2 rs1 rd => Sys2Proof.Machine.execPark rs2 rs1 rd s
  | .parkReread pos => Sys2Proof.Machine.execParkReread pos s
  | .wake scope rs2 rs1 rd => Sys2Proof.Machine.execWake scope rs2 rs1 rd s
  | .wfeWake pos => Sys2Proof.Machine.execWfeWake pos s
  | .vectorAdmit pos => Sys2Proof.Machine.execVectorAdmit pos s
  | .vectorCommit pos => Sys2Proof.Machine.execVectorCommit pos s
  | .vectorElementStep pos => Sys2Proof.Machine.execVectorElementStep pos s
  | .postStep pos => Sys2Proof.Machine.execPostStep pos s
  | .postedElementStep pos op elem => Sys2Proof.Machine.execPostedElementStep pos op elem s
  | .engineAccessStep op => Sys2Proof.Machine.execEngineAccessStep op s
  | .engineWriteStep op => Sys2Proof.Machine.execEngineWriteStep op s
  | .scoreboardTake op => Sys2Proof.Machine.execScoreboardTake op s
  | .copyRetire op => Sys2Proof.Machine.execCopyRetire op s
  | .automaticPublish op => Sys2Proof.Machine.execAutomaticPublish op s
  | .readyStep op => Sys2Proof.Machine.execReadyStep op s
  | .finalStep op => Sys2Proof.Machine.execFinalStep op s
  | .foldRead op => Sys2Proof.Machine.execFoldRead op s
  | .foldPublish op => Sys2Proof.Machine.execFoldPublish op s
  | .blendTile op => Sys2Proof.Machine.execBlendTile op s
  | .rayAdmission op => Sys2Proof.Machine.execRayAdmission op s
  | .marchStep op ray => Sys2Proof.Machine.execMarchStep op ray s
  | .bvhStep op ray => Sys2Proof.Machine.execBvhStep op ray s
  | .rayReadmit op ray => Sys2Proof.Machine.execRayReadmit op ray s
  | .rayResume op ray => Sys2Proof.Machine.execRayResume op ray s
  | .hitRecordPush op stage => Sys2Proof.Machine.execHitRecordPush op stage s
  | .walkQuery op query => Sys2Proof.Machine.execWalkQuery op query s
  | .schedulerDecision pos => Sys2Proof.Machine.execSchedulerDecision pos s
  | .emitUnblock pos => Sys2Proof.Machine.execEmitUnblock pos s
  | .bwaitComplete pos => Sys2Proof.Machine.execBwaitComplete pos s
  | .mrecvDequeue pos => Sys2Proof.Machine.execMrecvDequeue pos s
  | .messageDelivery msg => Sys2Proof.Machine.execMessageDelivery msg s
  | .hostMessage header payload => Sys2Proof.Machine.execHostMessage header payload s
  | .frameFault ctx unit number cause address => Sys2Proof.Machine.execFrameFault ctx unit number cause address s
  | .define_ req => Sys2Proof.Machine.execDefine req s
  | .reside ctx => Sys2Proof.Machine.execReside ctx s
  | .evict ctx => Sys2Proof.Machine.execEvict ctx s
  | .stopContext ctx => Sys2Proof.Machine.execStopContext ctx s
  | .grant part base size shared => Sys2Proof.Machine.execGrant part base size shared s
  | .release_ part base size => Sys2Proof.Machine.execRelease part base size s
  | .remoteWriteRequest ctx stamp address body => Sys2Proof.Machine.execRemoteWriteRequest ctx stamp address body s
  | .remoteReadRequest ctx address length => Sys2Proof.Machine.execRemoteReadRequest ctx address length s
  | .remoteWriteAck op answer => Sys2Proof.Machine.execRemoteWriteAck op answer s
  | .remoteReadResponse op answer body => Sys2Proof.Machine.execRemoteReadResponse op answer body s
  | .pipelineLaunch op => Sys2Proof.Machine.execPipelineLaunch op s
  | .remoteWriteLaunch op => Sys2Proof.Machine.execRemoteWriteLaunch op s
  | .remoteReadLaunch op => Sys2Proof.Machine.execRemoteReadLaunch op s
  | .parameterCommit ctx header version => Sys2Proof.Machine.execParameterCommit ctx header version s
  | .gangLaunch ctx gang => Sys2Proof.Machine.execGangLaunch ctx gang s
  | .gangAck ctx member => Sys2Proof.Machine.execGangAck ctx member s
  | .gangTimeoutCheck ctx => Sys2Proof.Machine.execGangTimeoutCheck ctx s
  | .gangAbort ctx => Sys2Proof.Machine.execGangAbort ctx s
  | .gangArrive ctx member barrier stamp => Sys2Proof.Machine.execGangArrive ctx member barrier stamp s
  | .deliveryFailure ctx lost => Sys2Proof.Machine.execDeliveryFailure ctx lost s
  | .cxlHostWrite address body => Sys2Proof.Machine.execCxlHostWrite address body s
  | .attestationChallenge nonce ctx => Sys2Proof.Machine.execAttestationChallenge nonce ctx s
  | .preempt ctx => Sys2Proof.Machine.execPreempt ctx s
  | .restore ctx => Sys2Proof.Machine.execRestore ctx s
  | .powerSample watts hot => Sys2Proof.Machine.execPowerSample watts hot s
  | .thermalEvent reading => Sys2Proof.Machine.execThermalEvent reading s
  | .thermalRestart => Sys2Proof.Machine.execThermalRestart s
  | .telemetryReport => Sys2Proof.Machine.execTelemetryReport s
  | .patrolScrub die finds => Sys2Proof.Machine.execPatrolScrub die finds s
  | .powerOn outcome => Sys2Proof.Machine.execPowerOn outcome s
  | .sliceReassign slice part => Sys2Proof.Machine.execSliceReassign slice part s
  | .illegalWord w => Sys2Proof.Machine.execIllegalWord w s
  | .lossOfPower => Sys2Proof.Machine.execLossOfPower s
  | .softError upset => Sys2Proof.Machine.execSoftError upset s
  | .quarterPowerGate core on => Sys2Proof.Machine.execQuarterPowerGate core on s
  | .newImageToInactiveBank die image => Sys2Proof.Machine.execNewImageToInactiveBank die image s

end Sys2Proof.Machine
end

