-- ==== Sys2Proof/Machine/Derpor.lean ====
section
/-! DEFINITION. Derpor messages as they arrive with their headers (R402, R403): which event a message asks for, and which messages
the package drops. An event of the opcode table that stands in the schedule alone is a message that has passed these checks. -/

namespace Sys2Proof.Machine

/-- The class and the operation of the message that an event stands for, where it is a message to the package (R403). -/
def derporKind : Instr → Option (BitVec 4 × BitVec 4)
  | .define_ _ => some (0, 0)
  | .reside _ => some (0, 1)
  | .evict _ => some (0, 2)
  | .stopContext _ => some (0, 3)
  | .grant _ _ _ _ => some (0, 4)
  | .release_ _ _ _ => some (0, 5)
  | .hostMessage _ _ => some (1, 0)
  | .remoteReadRequest _ _ _ => some (2, 0)
  | .remoteReadResponse _ _ _ => some (2, 1)
  | .remoteWriteRequest _ _ _ _ => some (3, 0)
  | .remoteWriteAck _ _ => some (3, 1)
  | .gangLaunch _ _ => some (4, 0)
  | .gangAck _ _ => some (4, 1)
  | .gangArrive _ _ _ _ => some (4, 2)
  | .gangAbort _ => some (4, 3)
  | .attestationChallenge _ _ => some (5, 0)
  | .parameterCommit _ _ _ => some (6, 0)
  | _ => none

/-- The context that a message names in its body or its header, where its class has one. -/
def derporCtx (s : State) : Instr → Option Nat
  | .define_ r => some (reqCtx r)
  | .reside n | .evict n | .stopContext n => some n
  | .hostMessage h _ => some h.ctx
  | .remoteReadRequest n _ _ | .remoteWriteRequest n _ _ _ => some n
  | .remoteReadResponse k _ _ | .remoteWriteAck k _ => (s.op k).map fun o => o.ctx
  | .gangLaunch n _ | .gangAck n _ | .gangArrive n _ _ _ | .gangAbort n => some n
  | .attestationChallenge _ n => some n
  | .parameterCommit n _ _ => some n
  | _ => none

/-- The CTX of a message is one that the package defines (R403), and the context of its body; that of a DEFINE and of a challenge may be
undefined (R404, R447), and before READY, when there is no context, so may that of any management request (R439, R441). -/
def derporCtxOk (s : State) (h : DerporHeader) (i : Instr) : Bool :=
  ((derporCtx s i).all fun n => h.ctx == n) && (h.cls == 5 || (h.cls == 0 && (h.op == 0 || !s.ready)) || (s.ctxAt h.ctx).defined)

/-- A message comes from an endpoint that its class allows (R403): of classes 0 and 5 the management endpoint, of the others the
context's host or a member of its gang. DESIGN CHOICE, unsafe: assumption 125 of the log. -/
def State.senderOk (s : State) (sender : Nat) (h : DerporHeader) : Bool :=
  if h.cls = 0 ∨ h.cls = 5 then sender == s.management
  else
    let c := s.ctxAt h.ctx
    sender == c.host || match c.gang with | some g => g.endpoints.contains sender | none => false

/-- The package takes a message (R402, R403): its reserved field is zero, its CLASS and OP are listed, its CTX is defined, and its
sender is allowed. -/
def derporOk (s : State) (sender : Nat) (h : DerporHeader) (i : Instr) : Bool :=
  h.reserved == 0 && derporKind i == some (h.cls, h.op) && s.senderOk sender h && derporCtxOk s h i
    && match i with | .hostMessage g _ => g == h | _ => true

/-- An event has dropped its message (R403). -/
def dropped (s : State) : Out → Bool
  | .next t => t.telemetry.drops != s.telemetry.drops
  | _ => false

/-- A message with its header (R266, R402, R403): dropped and counted, or its event, after the package's logical time has passed the
stamp that arrives with it. A message that its event drops, or that arrives before READY, passes no stamp (R439). -/
def takeDerpor (sender : Nat) (h : DerporHeader) (i : Instr) (s : State) : Out :=
  if !derporOk s sender h i then .next s.drop
  else
    let o := exec i s
    if h.src = 0xFFFF ∨ !s.ready ∨ dropped s o then o else exec i (s.passStamp h.stamp)

end Sys2Proof.Machine
end

