-- ==== Sys2Proof/Machine/ScalarWaits.lean ====
section
/-! DEFINITION. Which scalar words wait for the accesses of the scalar access queue: those that touch the register of a load that
has not been performed, and those that are themselves ordered behind the queue (R107, R110, R219, R244). -/

namespace Sys2Proof.Machine

/-- The register operand of a form (R119). -/
def formScalar (f : Form) (r : Reg) : List (Bool × Reg) :=
  match f with
  | .vx => [(false, r)]
  | .vf => [(true, r)]
  | _ => []

/-- x registers and f registers, as pairs. -/
def xs (l : List Reg) : List (Bool × Reg) := l.map fun r => (false, r)
/-- f registers as pairs. -/
def fs (l : List Reg) : List (Bool × Reg) := l.map fun r => (true, r)

/-- The x and f registers of a conversion, whose source or destination may be an integer (R100). -/
def convertRegs (rs1 rd : Reg) : List (Bool × Reg) := xs [rs1, rd] ++ fs [rs1, rd]

/-- The registers that a word of the scalar stream reads or writes, if it may run while earlier scalar accesses have not been
performed; none for the words that start behind the queue: the other accesses of R244, the fences and waits, and the words
that end or begin a thread or change its level. Vector-side words are in `vectorRegs`. -/
def scalarRegs (i : Instr) : Option (List (Bool × Reg)) :=
  match i with
  | .addi _ a d | .slli _ a d | .srli _ a d | .srai _ a d | .andi _ a d | .ori _ a d | .xori _ a d | .jalr _ a d
  | .lb _ a d | .lh _ a d | .lw _ a d | .ld _ a d | .lbu _ a d | .lhu _ a d | .lwu _ a d => some (xs [a, d])
  | .clz a d | .ctz a d | .cpop a d | .sextb a d | .sexth a d | .zexth a d => some (xs [0, a, d])
  | .add b a d | .sub b a d | .mul b a d | .mulh b a d | .mulhu b a d | .div b a d | .divu b a d | .rem b a d
  | .remu b a d | .sll b a d | .srl b a d | .sra b a d | .and_ b a d | .or_ b a d | .xor_ b a d | .min_ b a d
  | .max_ b a d | .minu b a d | .maxu b a d | .andn b a d | .amoadd b a _ d | .amoswap b a _ d | .amocas b a _ d
  | .amomin b a _ d | .amomax b a _ d | .amominu b a _ d | .amomaxu b a _ d | .amoand b a _ d | .amoor b a _ d
  | .amoxor b a _ d | .vsetvl b a d => some (xs [b, a, d])
  | .auipc _ d | .lui _ d | .jal d _ | .crdx d | .gtag _ d | .srd _ d | .readVectorStatus _ d | .readTshape d => some (xs [d])
  | .ceq b a _ _ | .cne b a _ _ | .clt b a _ _ | .cge b a _ _ | .cltu b a _ _ | .cgeu b a _ _ | .sb b a _ | .sh b a _
  | .sw b a _ | .sd b a _ => some (xs [b, a])
  | .ceqi _ a _ _ | .cnei _ a _ _ | .clti _ a _ _ | .cgei _ a _ _ | .cltui _ a _ _ | .cgeui _ a _ _ | .cbiti _ a _ _
  | .cwrx a | .loop _ a | .pref _ a _ | .swr _ a | .sset _ a | .sclr _ a | .writeVectorStatus _ _ a | .writeFrm _ a
  | .writeLoopRegisters _ _ a => some (xs [a])
  | .vsetvli _ a d => some (xs [a, d])
  | .ccmb _ _ _ _ _ _ | .bc _ _ | .bcn _ _ | .vjoin | .fsv | .fvs | .fvv | .lfetch _ _ _ | .stop | .illegalWord _ | .wfe => some []
  | .ctest a _ | .hsth _ a | .writeDigestControl _ _ a => some (xs [a])
  | .ifence _ b a | .bwait _ b a => some (xs [b, a])
  | .wake _ b a d | .rresume b a d => some (xs [b, a, d])
  | .rquery a d | .rdv a d => some (xs [a, d])
  | .cwait b a d | .cwaitR b a d => some (xs [b, a, d])
  | .hinfo _ sel d => if sel.toNat < 8 then some (xs [d]) else none
  | .fsh b a _ | .fsw b a _ | .fsd b a _ => some (xs [a] ++ fs [b])
  | .flh _ a d | .flw _ a d | .fld _ a d => some (xs [a] ++ fs [d])
  | .fadd _ b a d | .fsub _ b a d | .fmul _ b a d | .fdiv _ b a d | .fmin _ b a d | .fmax _ b a d | .fsgnj _ b a d
  | .fsgnjn _ b a d | .fsgnjx _ b a d => some (fs [b, a, d])
  | .fsqrt _ a d => some (fs [a, d])
  | .fcvt _ _ a d => some (convertRegs a d)
  | .fmvxf _ a d | .fclass _ a d => some (xs [d] ++ fs [a])
  | .fmvfx _ a d => some (xs [a] ++ fs [d])
  | .fceq _ b a _ _ | .fclt _ b a _ _ | .fcle _ b a _ _ => some (fs [b, a])
  | .fmadd c _ b a d | .fmsub c _ b a d | .fnmadd c _ b a d | .fnmsub c _ b a d => some (fs [c, b, a, d])
  | _ => none

/-- The scalar registers that a vector-side word captures or writes (R135, R219, R225, R305). -/
def vectorRegs (i : Instr) : Option (List (Bool × Reg)) :=
  match i with
  | .vadd _ f _ s _ | .vsub _ f _ s _ | .vmul _ f _ s _ | .vmulh _ f _ s _ | .vmulhu _ f _ s _ | .vmacc _ f _ s _
  | .vand _ f _ s _ | .vor _ f _ s _ | .vxor _ f _ s _ | .vsll _ f _ s _ | .vsrl _ f _ s _ | .vsra _ f _ s _
  | .vmin _ f _ s _ | .vmax _ f _ s _ | .vminu _ f _ s _ | .vmaxu _ f _ s _ | .vfadd _ f _ s _ | .vfsub _ f _ s _
  | .vfmul _ f _ s _ | .vfdiv _ f _ s _ | .vfmacc _ f _ s _ | .vfnmsac _ f _ s _ | .vfmin _ f _ s _ | .vfmax _ f _ s _
  | .vfsgnj _ f _ s _ | .vmix _ f _ s _ | .vfdot4 _ f _ s _ | .vfmerge _ f _ s _ | .vstep _ f s _ | .vxch _ f _ s _
  | .vslideup _ f _ s _ | .vslidedn _ f _ s _ | .vgather _ f _ s _ | .vreds _ f _ s _ | .vfredo _ f _ s _
  | .vredmin _ f _ s _ | .vredmax _ f _ s _ | .vmvsx f s _ | .vcmpeq _ f _ s _ | .vcmpne _ f _ s _ | .vcmplt _ f _ s _
  | .vcmpltu _ f _ s _ | .vcmpge _ f _ s _ | .vfcmpeq _ f _ s _ | .vfcmplt _ f _ s _ | .vfcmple _ f _ s _ => some (formScalar f s)
  | .vmvxs f _ s d => some (formScalar f s ++ xs [d])
  | .vpopc _ _ d | .vfirst _ _ d | .hst _ _ d | .hstTry _ _ _ d => some (xs [d])
  | .vld _ r _ _ | .vldx _ _ r _ _ | .vldf _ r _ | .vldfX _ _ r _ | .vldr _ r _ | .vldrX _ _ r _ | .vldg _ r _
  | .vldgX _ _ r _ | .vldP r _ | .texs _ _ r _ | .vst _ r _ _ | .vstx _ _ r _ _ | .vstF _ r _ | .vstxF _ _ r _
  | .vstr _ r _ | .vstrX _ _ r _ | .vstg _ r _ | .vstgX _ _ r _ | .vstP r _ | .vscadd _ _ r _ _ | .vstc _ _ r _
  | .tdrain _ _ r _ | .tfetch _ r _ | .hld _ r _ => some (xs [r])
  | .vlds _ b a _ _ | .vldfS _ b a _ | .vldrS _ b a _ | .vldgS _ b a _ | .vsts _ b a _ _ | .vstsF _ b a _
  | .vstrS _ b a _ | .vstgS _ b a _ | .tldz b a _ | .tstz b a _ | .tshape b a => some (xs [b, a])
  | .vblk _ _ => some (xs ((List.range 32).map fun k => BitVec.ofNat 5 k))
  | .vfsqrt _ _ _ | .vfcvt _ _ _ _ | .vfrsqrte _ _ _ | .vfclass _ _ _ | .vcompress _ _ _ | .vconf _ _ _ | .pand _ _ _ _
  | .por _ _ _ _ | .pxor _ _ _ _ | .pandn _ _ _ _ | .pnot _ _ _ | .pset _ _ | .pclr _ _ | .pmerge _ _ _ _ | .gdecl _ _
  | .gp _ _ _ _ _ _ _ | .gwedge _ _ _ _ _ _ _ | .gjoin _ _ _ _ _ _ _ | .gldot _ _ _ _ _ _ _ | .gsand _ _ _ _ _ _ _
  | .gcomm _ _ _ _ _ _ _ | .gproj _ _ _ _ _ _ | .grev _ _ _ _ _ | .ginvol _ _ _ _ _ | .gdual _ _ _ _ _
  | .gnormsq _ _ _ _ _ | .gnorm _ _ _ _ _ | .gnormz _ _ _ _ _ | .gexp _ _ _ _ _ | .glog _ _ _ _ _ | .gsqrt _ _ _ _ _
  | .ginv _ _ _ _ _ | .tzero _ | .topa _ _ _ _ _ | .topas _ _ _ _ _ | .modet _ | .modev => some []
  | _ => none

/-- The registers of a word that may run while earlier scalar accesses have not been performed. -/
def passRegs (i : Instr) : Option (List (Bool × Reg)) :=
  match scalarRegs i with
  | some l => some l
  | none => vectorRegs i

/-- A load that has not been performed writes one of some registers; x0 takes no value. -/
def State.drainsOn (s : State) (l : List (Bool × Reg)) : Bool :=
  s.t.scalars.any fun a => match a.kind.dest with
    | some d => d != (false, 0) && l.contains d
    | none => false

/-- The word waits for the scalar access queue of the thread in focus: it starts behind the queue, or it touches the register
of a load that has not been performed (R110, R219, R244). DEDUCED, safe: assumption 93 of the log. -/
def State.mustDrain (i : Instr) (s : State) : Bool :=
  match passRegs i with
  | none => s.t.scalars != []
  | some l => s.drainsOn l

end Sys2Proof.Machine
end

