-- ==== Sys2Proof/Machine/Turn.lean ====
section
/-! DEFINITION. One step: a turn of a thread slot, an event, or the default schedule's choice; fetching, decoding and
running a word; and how a word is placed where the next step fetches it. -/

namespace Sys2Proof.Machine

/-- What a decoded word does (R35, R36): a word that the tables refuse is ILLEGAL_WORD, and a word that touches a
pending condition bit, or that waits for the scalar access queue, waits (R86, R107, R110). -/
def runDecoded (d : Except DecodeError Instr) (v : Word) (s : State) : Out :=
  match d with
  | .ok i => if s.pendingBit i || s.mustDrain i then finish (hold s) else exec i s
  | .error _ => execIllegalWord v s

/-- The word decoded and run. -/
noncomputable def runWord (v : Word) (s : State) : Out := runDecoded (decodeWord v) v s

/-- A word runs, or waits for the scalar access queue. -/
def runRow (d : Bool) (o : Out) (s : State) : Out := if d then finish (hold s) else o

/-- The words of major opcode 0x33, run without the decoded instruction between: what compiled code runs. -/
def runOp (v : Word) (s : State) : Out :=
  let w := v.toNat
  let d := s.drainsOn (xs [.ofNat 5 (fld w 20 5), .ofNat 5 (fld w 15 5), .ofNat 5 (fld w 7 5)])
  if fld w 12 3 = 0 ∧ fld w 25 2 = 0 ∧ fld w 27 5 = 0 then runRow d (execAdd (.ofNat 5 (fld w 20 5)) (.ofNat 5 (fld w 15 5)) (.ofNat 5 (fld w 7 5)) s) s else
  if fld w 12 3 = 1 ∧ fld w 25 2 = 0 ∧ fld w 27 5 = 0 then runRow d (execSub (.ofNat 5 (fld w 20 5)) (.ofNat 5 (fld w 15 5)) (.ofNat 5 (fld w 7 5)) s) s else
  if fld w 12 3 = 2 ∧ fld w 25 2 = 0 ∧ fld w 27 5 = 0 then runRow d (execMul (.ofNat 5 (fld w 20 5)) (.ofNat 5 (fld w 15 5)) (.ofNat 5 (fld w 7 5)) s) s else
  if fld w 12 3 = 3 ∧ fld w 25 2 = 0 ∧ fld w 27 5 = 0 then runRow d (execMulh (.ofNat 5 (fld w 20 5)) (.ofNat 5 (fld w 15 5)) (.ofNat 5 (fld w 7 5)) s) s else
  if fld w 12 3 = 4 ∧ fld w 25 2 = 0 ∧ fld w 27 5 = 0 then runRow d (execMulhu (.ofNat 5 (fld w 20 5)) (.ofNat 5 (fld w 15 5)) (.ofNat 5 (fld w 7 5)) s) s else
  if fld w 12 3 = 5 ∧ fld w 25 2 = 0 ∧ fld w 27 5 = 0 then runRow d (execDiv (.ofNat 5 (fld w 20 5)) (.ofNat 5 (fld w 15 5)) (.ofNat 5 (fld w 7 5)) s) s else
  if fld w 12 3 = 6 ∧ fld w 25 2 = 0 ∧ fld w 27 5 = 0 then runRow d (execDivu (.ofNat 5 (fld w 20 5)) (.ofNat 5 (fld w 15 5)) (.ofNat 5 (fld w 7 5)) s) s else
  if fld w 12 3 = 7 ∧ fld w 25 2 = 0 ∧ fld w 27 5 = 0 then runRow d (execRem (.ofNat 5 (fld w 20 5)) (.ofNat 5 (fld w 15 5)) (.ofNat 5 (fld w 7 5)) s) s else
  if fld w 12 3 = 0 ∧ fld w 25 2 = 1 ∧ fld w 27 5 = 0 then runRow d (execRemu (.ofNat 5 (fld w 20 5)) (.ofNat 5 (fld w 15 5)) (.ofNat 5 (fld w 7 5)) s) s else
  if fld w 12 3 = 1 ∧ fld w 25 2 = 1 ∧ fld w 27 5 = 0 then runRow d (execSll (.ofNat 5 (fld w 20 5)) (.ofNat 5 (fld w 15 5)) (.ofNat 5 (fld w 7 5)) s) s else
  if fld w 12 3 = 2 ∧ fld w 25 2 = 1 ∧ fld w 27 5 = 0 then runRow d (execSrl (.ofNat 5 (fld w 20 5)) (.ofNat 5 (fld w 15 5)) (.ofNat 5 (fld w 7 5)) s) s else
  if fld w 12 3 = 3 ∧ fld w 25 2 = 1 ∧ fld w 27 5 = 0 then runRow d (execSra (.ofNat 5 (fld w 20 5)) (.ofNat 5 (fld w 15 5)) (.ofNat 5 (fld w 7 5)) s) s else
  if fld w 12 3 = 4 ∧ fld w 25 2 = 1 ∧ fld w 27 5 = 0 then runRow d (execAnd (.ofNat 5 (fld w 20 5)) (.ofNat 5 (fld w 15 5)) (.ofNat 5 (fld w 7 5)) s) s else
  if fld w 12 3 = 5 ∧ fld w 25 2 = 1 ∧ fld w 27 5 = 0 then runRow d (execOr (.ofNat 5 (fld w 20 5)) (.ofNat 5 (fld w 15 5)) (.ofNat 5 (fld w 7 5)) s) s else
  if fld w 12 3 = 6 ∧ fld w 25 2 = 1 ∧ fld w 27 5 = 0 then runRow d (execXor (.ofNat 5 (fld w 20 5)) (.ofNat 5 (fld w 15 5)) (.ofNat 5 (fld w 7 5)) s) s else
  if fld w 12 3 = 7 ∧ fld w 25 2 = 1 ∧ fld w 27 5 = 0 then runRow d (execMin (.ofNat 5 (fld w 20 5)) (.ofNat 5 (fld w 15 5)) (.ofNat 5 (fld w 7 5)) s) s else
  if fld w 12 3 = 0 ∧ fld w 25 2 = 2 ∧ fld w 27 5 = 0 then runRow d (execMax (.ofNat 5 (fld w 20 5)) (.ofNat 5 (fld w 15 5)) (.ofNat 5 (fld w 7 5)) s) s else
  if fld w 12 3 = 1 ∧ fld w 25 2 = 2 ∧ fld w 27 5 = 0 then runRow d (execMinu (.ofNat 5 (fld w 20 5)) (.ofNat 5 (fld w 15 5)) (.ofNat 5 (fld w 7 5)) s) s else
  if fld w 12 3 = 2 ∧ fld w 25 2 = 2 ∧ fld w 27 5 = 0 then runRow d (execMaxu (.ofNat 5 (fld w 20 5)) (.ofNat 5 (fld w 15 5)) (.ofNat 5 (fld w 7 5)) s) s else
  if fld w 12 3 = 3 ∧ fld w 25 2 = 2 ∧ fld w 27 5 = 0 then runRow d (execAndn (.ofNat 5 (fld w 20 5)) (.ofNat 5 (fld w 15 5)) (.ofNat 5 (fld w 7 5)) s) s else
  if fld w 12 3 = 4 ∧ fld w 20 5 = 0 ∧ fld w 25 2 = 2 ∧ fld w 27 5 = 0 then runRow d (execClz (.ofNat 5 (fld w 15 5)) (.ofNat 5 (fld w 7 5)) s) s else
  if fld w 12 3 = 5 ∧ fld w 20 5 = 0 ∧ fld w 25 2 = 2 ∧ fld w 27 5 = 0 then runRow d (execCtz (.ofNat 5 (fld w 15 5)) (.ofNat 5 (fld w 7 5)) s) s else
  if fld w 12 3 = 6 ∧ fld w 20 5 = 0 ∧ fld w 25 2 = 2 ∧ fld w 27 5 = 0 then runRow d (execCpop (.ofNat 5 (fld w 15 5)) (.ofNat 5 (fld w 7 5)) s) s else
  if fld w 12 3 = 7 ∧ fld w 20 5 = 0 ∧ fld w 25 2 = 2 ∧ fld w 27 5 = 0 then runRow d (execSextb (.ofNat 5 (fld w 15 5)) (.ofNat 5 (fld w 7 5)) s) s else
  if fld w 12 3 = 0 ∧ fld w 20 5 = 0 ∧ fld w 25 2 = 3 ∧ fld w 27 5 = 0 then runRow d (execSexth (.ofNat 5 (fld w 15 5)) (.ofNat 5 (fld w 7 5)) s) s else
  if fld w 12 3 = 1 ∧ fld w 20 5 = 0 ∧ fld w 25 2 = 3 ∧ fld w 27 5 = 0 then runRow d (execZexth (.ofNat 5 (fld w 15 5)) (.ofNat 5 (fld w 7 5)) s) s else
  execIllegalWord v s

/-- `runWord` without the decoded instruction between, where compiled code cannot build it. -/
def runWordFast (v : Word) (s : State) : Out :=
  if fld v.toNat 0 7 = 0x33 then runOp v s else
  if fld v.toNat 0 7 = 0x37 then
    runRow (s.drainsOn (xs [.ofNat 5 (fld v.toNat 7 5)])) (execLui (.ofNat 20 (fld v.toNat 12 20)) (.ofNat 5 (fld v.toNat 7 5)) s) s
  else runDecoded (decodeOther v) v s

/-- An admitted word without condition bits runs once the scalar access queue lets it. -/
theorem runDecoded_admit {i : Instr} (v : Word) (s : State) (hw : i.wellFormed = true) (hc : condBits i = []) :
    runDecoded (admitWord i) v s = runRow (s.mustDrain i) (exec i s) s := by
  simp [runDecoded, admitWord, hw, State.pendingBit, hc, runRow]

/-- One row of `runOp` agrees with the same row of the decoder. -/
theorem runOp_row {c : Prop} [Decidable c] {i : Instr} {a b e : Out} {d : Bool} (v : Word) (s : State)
    (hw : i.wellFormed = true) (hc : condBits i = []) (hd : c → s.mustDrain i = d) (ha : exec i s = a) (hb : b = e) :
    (if c then runRow d a s else b) = if c then runDecoded (admitWord i) v s else e := by
  rw [runDecoded_admit v s hw hc, ha, hb]
  by_cases h : c
  · simp [h, hd h]
  · simp [h]

theorem runOp_eq (v : Word) (s : State) : runOp v s = runDecoded (decodeOp v.toNat) v s := by
  unfold decodeOp runOp
  simp only [apply_ite (fun d => runDecoded d v s)]
  repeat refine runOp_row v s rfl rfl (fun h => by first | rfl | (rw [h.2.1]; rfl)) rfl ?_
  rfl

/-- A LUI word runs once the scalar access queue lets it. -/
theorem runLui_eq (v : Word) (s : State) : runDecoded (decodeLui v.toNat) v s =
    runRow (s.drainsOn (xs [.ofNat 5 (fld v.toNat 7 5)])) (execLui (.ofNat 20 (fld v.toNat 12 20)) (.ofNat 5 (fld v.toNat 7 5)) s) s :=
  runDecoded_admit v s rfl rfl

@[csimp] theorem runWord_eq_fast : @runWord = @runWordFast := by
  funext v s
  unfold runWord runWordFast decodeWord
  rw [apply_ite (fun d => runDecoded d v s), apply_ite (fun d => runDecoded d v s), runOp_eq, runLui_eq]

/-- The word at the program counter of the thread in focus fetched, decoded and run. -/
def fetchRun (s : State) : Out :=
  match s.fetch s.t.pc with
  | .error e => finish (.error e)
  | .ok (w, s) => runWord w s

/-- The thread in focus has a word that waits for more than its own start. -/
def Thread.waiting (t : Thread) : Option WaitRec :=
  match t.wait with
  | none => none
  | some w => if w.kind = .hold then none else some w

/-- The thread's waiting word tries again, or its next word is fetched, decoded and run. -/
def takeTurn (s : State) : Out :=
  match s.t.waiting with
  | some w => finish (resumeWait w s)
  | none => fetchRun s

/-- A turn of the thread in focus. -/
def turn (s : State) : Out := if !s.mayRun then .next s else s.precise takeTurn

/-- The default schedule (R241): the thread in focus runs on; where it waits, first another step that can be taken, and
then the live threads in turn. With nothing to do the machine is idle. -/
def defaultStep (s : State) : Out :=
  if s.t.live && s.t.wait.isNone then turn s
  else match s.background, s.rotate with
    | some s, _ => .next s
    | none, some s => turn s
    | none, none => .fault .idle

/-- The steps that the schedule may hold and that are no rows of the opcode table. -/
def hiddenStep (a : Action) (s : State) : State :=
  let at_ := fun (pos : Nat) (f : State → Option State) =>
    if slotCount ≤ pos then s else s.during pos fun s => if s.mayRun then (f s).getD s else s
  match a with
  | .scalar pos => at_ pos State.scalarStep
  | .ahead pos k => at_ pos (State.stepAhead k)
  | .walkStart pos va => at_ pos fun s => some (s.walkStart va)
  | .walkRead k => s.walkStep k
  | .fetchLine pos va => at_ pos fun s => s.fetchLine va
  | .poolWrite line ctx va => if s.ready then s.poolWrite line ctx va else s
  | .poisoned line => if s.ready then s.poisoned line else s
  | .hdm k d => s.programHdm k d
  | .assignUnit u ctx => s.assignUnit u ctx
  | .frameStart u => s.frameStart u
  | .frameRead u va n => s.frameRead u va n
  | .frameEnd u => s.frameEnd u
  | .preemptOn n cores => (s.preempt n (some cores)).getD s
  | .powerCut x => (s.cutWrite x).losePower
  | .turn _ _ | .event _ | .derpor _ _ _ => s

/-- One step: the head of the schedule, or the default schedule's choice. -/
def nextStep (s : State) : Out :=
  match s.sched with
  | [] => defaultStep s
  | .turn p ch :: r => turn (({ s with sched := r, ch := ch } : State).focus p)
  | .event i :: r => exec i { s with sched := r }
  | .derpor from_ h i :: r => takeDerpor from_ h i { s with sched := r }
  | a :: r => .next (hiddenStep a { s with sched := r })

/-- The table addresses of the image that stands for a loaded program. -/
def bootTable : Nat := 0x700000000

/-- The image that stands for a program loaded by DEFINE, GRANT of nothing and RESIDE (R404, R405): partition 0 with
slice 0, context 0 with its tables mapping the lowest 1 GiB onto the stack, and its dispatcher at 0x0001_0000.
DEDUCED, unsafe: assumption 20 of the log. -/
def bootImage (s : State) : State :=
  let s := s.focus 0
  let m := putBytes s.mem bootTable (toBytes 8 (bootTable + 0x1001))
  let m := putBytes m (bootTable + 0x1000) (toBytes 8 0x1F)
  { s with
    mem := m, owners := kset 0 0 s.owners,
    t := { ({} : Thread) with live := true, ctx := s.t.ctx, quarters := 1, pc := 0x10000, level := true },
    ctx := { s.ctx with
      defined := true, resident := true, started := true, ended := false, part := 0,
      ptbase := BitVec.ofNat 64 bootTable, start := 0x10000, latclass := 3,
      qcap := 16 :: List.replicate 15 0, bars := [4, 4, 4, 4], slots := 32 } }

/-- The state with an instruction's bytes stored where the next step fetches, over an image of a loaded program where
the thread in focus cannot fetch. -/
def placeWord (s : State) (nbits w : Nat) : State :=
  let s := { s with sched := [], ch := {}, t := { s.t with wait := none } }
  let bs := toBytes 4 (w % 2 ^ nbits)
  let place := fun (s : State) => match s.translate s.agent .fetch s.t.pc.toNat with
    | .ok ((pa, _), s) => some (s.physWrite pa bs)
    | .error _ => none
  match (if s.t.live then place s else none) with
  | some s => s
  | none => (place (bootImage s)).getD s

end Sys2Proof.Machine
end

