-- ==== Sys2Proof/Safety.lean ====
section
/-! DEFINITION. What a safe run is: a state from which the machine takes a step without a fault or a refusal. -/

namespace Sys2Proof.Machine

/-- A step from the state leads to a next state. -/
def State.steps (s : State) : Prop := ∃ s', step s = .next s'

end Sys2Proof.Machine
end

