-- ==== Sys2Proof/Certificates/Slice0/Obligations.lean ====
section
/-! DEFINITION. The statements about the machine, each from the numbered rules it cites, and the few names they share. -/

open Sys2Proof Sys2Proof.Machine

/-! ### How a word of the scalar stream ends -/

/-- The word writes x[rd] and completes; nothing else of the state changes but where execution goes on (R39, R94). -/
def Claim.toX (s : State) (rd : Reg) (v : DWord) : Out := .next (s.setX rd v).advance

/-- The word writes f[rd], bits above the format cleared, ORs flags into FFLAGS and completes (R39, R63, R94). -/
def Claim.toF (s : State) (rd : Reg) (v : Nat) (fl : Flags) : Out := .next ((s.setF rd v).orFlags fl).advance

/-- The word combines a truth value into condition bit cd and completes (R87, R94). -/
def Claim.toC (s : State) (m : Combine) (cd : CReg) (b : Bool) : Out := .next (s.combineC m cd b).advance

/-- The word takes a trap at its own address; SCALL and SBRK resume behind it (R385). -/
def Claim.traps (s : State) (c : Cause) (v : DWord) : Out := .next (s.takeTrap (scalarTrap s c v))

/-- The scalar register files (R39): x0 reads zero and discards writes, c0 reads one and discards writes, every other
register reads what was last written, a write to one leaves every other, and nothing else of the state changes. -/
def Claim.ScalarRegisterFiles : Prop :=
  ∀ (s : State) (r q : Reg) (v : DWord) (c d : CReg) (b : Bool) (n : Nat),
    s.t.readX 0 = 0 ∧ s.t.readC 0 = true ∧ s.setX 0 v = s ∧ s.setC 0 b = s ∧
    (s.setX r v).t.readX q = (if q = 0 then 0 else if q = r then v else s.t.readX q) ∧
    (s.setC c b).t.readC d = (if d = 0 then true else if d = c then b else s.t.readC d) ∧
    (s.setF r n).t.readF q = (if q = r then BitVec.ofNat 64 n else s.t.readF q) ∧
    (∃ x, s.setX r v = { s with t := { s.t with x := x } }) ∧
    (∃ k, s.setC c b = { s with t := { s.t with c := k } }) ∧
    ∃ f, s.setF r n = { s with t := { s.t with f := f } }

/-- The hardware-loop check of a word that completes at its address with a next address (R94), and what completing
leaves as it was: everything but LCOUNT, the program counter and the word's own wait. -/
def Claim.CompletionRunsLoopCheck : Prop :=
  ∀ (s : State) (n : DWord),
    (s.t.lcount = 0 ∨ s.t.pc ≠ s.t.lend ∨ n ≠ s.t.pc + 4 →
      s.complete n = { s with t := { s.t with pc := n, wait := none } }) ∧
    (1 < s.t.lcount.toNat → s.t.pc = s.t.lend → n = s.t.pc + 4 →
      s.complete n = { s with t := { s.t with lcount := s.t.lcount - 1, pc := s.t.lstart, wait := none } }) ∧
    (s.t.lcount = 1 → s.t.pc = s.t.lend → n = s.t.pc + 4 →
      s.complete n = { s with t := { s.t with lcount := 0, pc := n, wait := none } }) ∧
    s.advance = s.complete (s.t.pc + 4)

/-! ### Integer words -/

/-- The two-operand words of OP on numbers (R83, R84): each completes in every state, with x[rd] the value that the
table and the division rule give and nothing else changed. -/
def Claim.IntegerRegisterWords : Prop :=
  ∀ (rs2 rs1 rd : Reg) (s : State),
    let a := s.t.readX rs1
    let b := s.t.readX rs2
    let k := b.toNat % 64
    exec (.add rs2 rs1 rd) s = Claim.toX s rd (BitVec.ofInt 64 (a.toInt + b.toInt)) ∧
    exec (.sub rs2 rs1 rd) s = Claim.toX s rd (BitVec.ofInt 64 (a.toInt - b.toInt)) ∧
    exec (.mul rs2 rs1 rd) s = Claim.toX s rd (BitVec.ofInt 64 (a.toInt * b.toInt)) ∧
    exec (.mulh rs2 rs1 rd) s = Claim.toX s rd (BitVec.ofInt 64 (a.toInt * b.toInt / 2 ^ 64)) ∧
    exec (.mulhu rs2 rs1 rd) s = Claim.toX s rd (BitVec.ofNat 64 (a.toNat * b.toNat / 2 ^ 64)) ∧
    exec (.div rs2 rs1 rd) s = Claim.toX s rd (if b = 0 then 0xFFFFFFFFFFFFFFFF
      else if a.toInt = -2 ^ 63 ∧ b.toInt = -1 then BitVec.ofInt 64 (-2 ^ 63)
      else BitVec.ofInt 64 (a.toInt.tdiv b.toInt)) ∧
    exec (.divu rs2 rs1 rd) s = Claim.toX s rd (if b = 0 then 0xFFFFFFFFFFFFFFFF else BitVec.ofNat 64 (a.toNat / b.toNat)) ∧
    exec (.rem rs2 rs1 rd) s = Claim.toX s rd (if b = 0 then a
      else if a.toInt = -2 ^ 63 ∧ b.toInt = -1 then 0
      else BitVec.ofInt 64 (a.toInt - b.toInt * a.toInt.tdiv b.toInt)) ∧
    exec (.remu rs2 rs1 rd) s = Claim.toX s rd (if b = 0 then a else BitVec.ofNat 64 (a.toNat % b.toNat)) ∧
    exec (.sll rs2 rs1 rd) s = Claim.toX s rd (BitVec.ofNat 64 (a.toNat * 2 ^ k)) ∧
    exec (.srl rs2 rs1 rd) s = Claim.toX s rd (BitVec.ofNat 64 (a.toNat / 2 ^ k)) ∧
    exec (.sra rs2 rs1 rd) s = Claim.toX s rd (BitVec.ofInt 64 (a.toInt / 2 ^ k)) ∧
    exec (.and_ rs2 rs1 rd) s = Claim.toX s rd (a &&& b) ∧
    exec (.or_ rs2 rs1 rd) s = Claim.toX s rd (a ||| b) ∧
    exec (.xor_ rs2 rs1 rd) s = Claim.toX s rd (a ^^^ b) ∧
    exec (.andn rs2 rs1 rd) s = Claim.toX s rd (a &&& ~~~b) ∧
    exec (.min_ rs2 rs1 rd) s = Claim.toX s rd (BitVec.ofInt 64 (min a.toInt b.toInt)) ∧
    exec (.max_ rs2 rs1 rd) s = Claim.toX s rd (BitVec.ofInt 64 (max a.toInt b.toInt)) ∧
    exec (.minu rs2 rs1 rd) s = Claim.toX s rd (BitVec.ofNat 64 (min a.toNat b.toNat)) ∧
    exec (.maxu rs2 rs1 rd) s = Claim.toX s rd (BitVec.ofNat 64 (max a.toNat b.toNat))

/-- The unary words of OP, the words of OPI, LUI and AUIPC on numbers (R83, R85): each completes in every state, with
x[rd] its result and nothing else changed. -/
def Claim.IntegerUnaryAndImmediateWords : Prop :=
  ∀ (rs1 rd : Reg) (imm : BitVec 12) (sh : BitVec 6) (up : BitVec 20) (s : State),
    let a := s.t.readX rs1
    (∃ n ≤ 64, a.toNat < 2 ^ (64 - n) ∧ (n < 64 → 2 ^ (63 - n) ≤ a.toNat) ∧
      exec (.clz rs1 rd) s = Claim.toX s rd (BitVec.ofNat 64 n)) ∧
    (∃ n ≤ 64, 2 ^ n ∣ a.toNat ∧ (n < 64 → ¬ 2 ^ (n + 1) ∣ a.toNat) ∧
      exec (.ctz rs1 rd) s = Claim.toX s rd (BitVec.ofNat 64 n)) ∧
    exec (.cpop rs1 rd) s = Claim.toX s rd (BitVec.ofNat 64 ((List.range 64).countP fun i => a.toNat.testBit i)) ∧
    exec (.sextb rs1 rd) s = Claim.toX s rd (BitVec.ofInt 64 ((a.toNat : Int).bmod (2 ^ 8))) ∧
    exec (.sexth rs1 rd) s = Claim.toX s rd (BitVec.ofInt 64 ((a.toNat : Int).bmod (2 ^ 16))) ∧
    exec (.zexth rs1 rd) s = Claim.toX s rd (BitVec.ofNat 64 (a.toNat % 2 ^ 16)) ∧
    exec (.addi imm rs1 rd) s = Claim.toX s rd (BitVec.ofInt 64 (a.toInt + imm.toInt)) ∧
    exec (.slli sh rs1 rd) s = Claim.toX s rd (BitVec.ofNat 64 (a.toNat * 2 ^ sh.toNat)) ∧
    exec (.srli sh rs1 rd) s = Claim.toX s rd (BitVec.ofNat 64 (a.toNat / 2 ^ sh.toNat)) ∧
    exec (.srai sh rs1 rd) s = Claim.toX s rd (BitVec.ofInt 64 (a.toInt / 2 ^ sh.toNat)) ∧
    exec (.andi imm rs1 rd) s = Claim.toX s rd (a &&& BitVec.ofInt 64 imm.toInt) ∧
    exec (.ori imm rs1 rd) s = Claim.toX s rd (a ||| BitVec.ofInt 64 imm.toInt) ∧
    exec (.xori imm rs1 rd) s = Claim.toX s rd (a ^^^ BitVec.ofInt 64 imm.toInt) ∧
    exec (.lui up rd) s = Claim.toX s rd (BitVec.ofInt 64 (up.toInt * 2 ^ 12)) ∧
    exec (.auipc up rd) s = Claim.toX s rd (s.t.pc + BitVec.ofInt 64 (up.toInt * 2 ^ 12))

/-! ### Condition bits, branches and loops -/

/-- CMP, CMPI, CCMB, CRDX and CWRX (R87, R88, R89): each completes in every state; the condition bit takes the truth value
combined with its old value, and c0 keeps reading one. -/
def Claim.CompareWords : Prop :=
  ∀ (rs2 rs1 rd : Reg) (imm : BitVec 12) (bit : BitVec 6) (m : Combine) (cd ca cb : CReg) (na nb : Bool) (s : State),
    let a := s.t.readX rs1
    let b := s.t.readX rs2
    let i := imm.toInt
    let iu := (BitVec.ofInt 64 imm.toInt).toNat
    exec (.ceq rs2 rs1 m cd) s = Claim.toC s m cd (decide (a.toInt = b.toInt)) ∧
    exec (.cne rs2 rs1 m cd) s = Claim.toC s m cd (decide (a.toInt ≠ b.toInt)) ∧
    exec (.clt rs2 rs1 m cd) s = Claim.toC s m cd (decide (a.toInt < b.toInt)) ∧
    exec (.cge rs2 rs1 m cd) s = Claim.toC s m cd (decide (b.toInt ≤ a.toInt)) ∧
    exec (.cltu rs2 rs1 m cd) s = Claim.toC s m cd (decide (a.toNat < b.toNat)) ∧
    exec (.cgeu rs2 rs1 m cd) s = Claim.toC s m cd (decide (b.toNat ≤ a.toNat)) ∧
    exec (.ceqi imm rs1 m cd) s = Claim.toC s m cd (decide (a.toInt = i)) ∧
    exec (.cnei imm rs1 m cd) s = Claim.toC s m cd (decide (a.toInt ≠ i)) ∧
    exec (.clti imm rs1 m cd) s = Claim.toC s m cd (decide (a.toInt < i)) ∧
    exec (.cgei imm rs1 m cd) s = Claim.toC s m cd (decide (i ≤ a.toInt)) ∧
    exec (.cltui imm rs1 m cd) s = Claim.toC s m cd (decide (a.toNat < iu)) ∧
    exec (.cgeui imm rs1 m cd) s = Claim.toC s m cd (decide (iu ≤ a.toNat)) ∧
    exec (.cbiti bit rs1 m cd) s = Claim.toC s m cd (a.toNat.testBit bit.toNat) ∧
    exec (.ccmb m cd nb cb na ca) s = Claim.toC s m cd ((s.t.readC ca ^^ na) && (s.t.readC cb ^^ nb)) ∧
    exec (.crdx rd) s = Claim.toX s rd (BitVec.ofNat 64 (s.t.c.toNat / 2 * 2 + 1)) ∧
    (∃ k : BitVec 8, exec (.cwrx rs1) s = .next ({ s with t := { s.t with c := k } } : State).advance ∧
      ∀ d : CReg, d ≠ 0 → ({ s.t with c := k } : Thread).readC d = a.toNat.testBit d.toNat) ∧
    (∀ old t : Bool, combine .set old t = t ∧ combine .and old t = (old && t) ∧ combine .or old t = (old || t) ∧
      combine .xor old t = (old ^^ t)) ∧
    s.combineC m cd na = s.setC cd (combine m (s.t.readC cd) na)

/-- BC, BCN, JAL, JALR, LOOP and PREF (R90, R91, R93, R106): each completes in every state but JALR to a misaligned target,
which writes nothing and traps. -/
def Claim.BranchJumpLoopWords : Prop :=
  ∀ (rs1 rd : Reg) (cond : CReg) (off : BitVec 19) (imm : BitVec 12) (lvl : BitVec 2) (s : State),
    let there := s.t.pc + BitVec.ofInt 64 (4 * off.toInt)
    let target := s.t.readX rs1 + BitVec.ofInt 64 imm.toInt
    let last := s.t.pc + BitVec.ofInt 64 imm.toInt
    exec (.bc cond off) s = .next (s.complete (if s.t.readC cond then there else s.t.pc + 4)) ∧
    exec (.bcn cond off) s = .next (s.complete (if s.t.readC cond then s.t.pc + 4 else there)) ∧
    exec (.jal rd off) s = .next ((s.setX rd (s.t.pc + 4)).complete there) ∧
    (target.toNat % 4 = 0 → exec (.jalr imm rs1 rd) s = .next ((s.setX rd (s.t.pc + 4)).complete target)) ∧
    (target.toNat % 4 ≠ 0 → exec (.jalr imm rs1 rd) s = Claim.traps s cause.misalignedFetch target) ∧
    (s.t.readX rs1 = 0 → exec (.loop imm rs1) s =
      .next (({ s with t := { s.t with lcount := 0 } } : State).complete (last + 4))) ∧
    (s.t.readX rs1 ≠ 0 → exec (.loop imm rs1) s =
      .next ({ s with t := { s.t with lcount := s.t.readX rs1, lstart := s.t.pc + 4, lend := last } } : State).advance) ∧
    exec (.pref imm rs1 lvl) s = .next s.advance

/-- LFETCH and STOP in a thread's own stream are illegal (R224), with the word as the trap's value (R384). -/
def Claim.LaneWordsIllegalInStream : Prop :=
  ∀ (imm : BitVec 12) (rs1 : Reg) (vi : VReg) (s : State),
    exec (.lfetch imm rs1 vi) s = Claim.traps s cause.illegal ((encode (.lfetch imm rs1 vi)).setWidth 64) ∧
    exec .stop s = Claim.traps s cause.illegal ((encode .stop).setWidth 64)

/-- The scalar register files and how a word completes (R39, R94). Where it rests on the model's own reading: assumption 91 of the log. -/
def Obligations.ScalarRegistersAndCompletion : Prop :=
  Claim.ScalarRegisterFiles ∧ Claim.CompletionRunsLoopCheck

/-- The integer words of OP and OP-IMM, compares into condition bits, and branches, jumps and the hardware loop (R81 to R94, R106). -/
def Obligations.IntegerCompareAndBranchWords : Prop :=
  Claim.IntegerRegisterWords ∧ Claim.IntegerUnaryAndImmediateWords ∧ Claim.CompareWords ∧ Claim.BranchJumpLoopWords


/-! ### Scalar floating point -/

/-- NV if one of two NaNs, or one NaN beside a number, is signalling (R62). -/
def Claim.nv (x y : Bool) : Flags := if x || y then flagNV else 0

/-- a + b by the rules of R61, R62, R64 and R59: NaN, infinities, an exact zero with its sign, or round_once under a flush setting. -/
def Claim.sum (f : Fmt) (rm : BitVec 3) (fl : BitVec 2) : FVal → FVal → Nat × Flags
  | .nan x, .nan y => (f.nan, Claim.nv x y)
  | .nan x, _ => (f.nan, Claim.nv x false)
  | _, .nan y => (f.nan, Claim.nv y false)
  | .inf m, .inf n => if m = n then (f.inf m, 0) else (f.nan, flagNV)
  | .inf m, .num _ _ => (f.inf m, 0)
  | .num _ _, .inf n => (f.inf n, 0)
  | .num m p, .num n q =>
    if p + q = 0 then (f.zero (rm == 2 || m && n && p == 0 && q == 0), 0) else f.roundNum rm fl (p + q)

/-- The exact product of two values as one term, and NV (R62, R64). -/
def Claim.product : FVal → FVal → FVal × Flags
  | .nan x, .nan y => (.nan false, Claim.nv x y)
  | .nan x, _ => (.nan false, Claim.nv x false)
  | _, .nan y => (.nan false, Claim.nv y false)
  | .inf m, .inf n => (.inf (m ^^ n), 0)
  | .inf m, .num n q => if q = 0 then (.nan false, flagNV) else (.inf (m ^^ n), 0)
  | .num m p, .inf n => if p = 0 then (.nan false, flagNV) else (.inf (m ^^ n), 0)
  | .num m p, .num n q => (.num (m ^^ n) (p * q), 0)

/-- An exact value rounded once, a zero with its own sign (R59). -/
def Claim.once (f : Fmt) (rm : BitVec 3) (fl : BitVec 2) : FVal → Nat × Flags
  | .nan _ => (f.nan, 0)
  | .inf m => (f.inf m, 0)
  | .num m q => if q = 0 then (f.zero m, 0) else f.roundNum rm fl q

/-- The quotient by R62. -/
def Claim.quotient (f : Fmt) (rm : BitVec 3) (fl : BitVec 2) : FVal → FVal → Nat × Flags
  | .nan x, .nan y => (f.nan, Claim.nv x y)
  | .nan x, _ => (f.nan, Claim.nv x false)
  | _, .nan y => (f.nan, Claim.nv y false)
  | .inf _, .inf _ => (f.nan, flagNV)
  | .inf m, .num n _ => (f.inf (m ^^ n), 0)
  | .num m _, .inf n => (f.zero (m ^^ n), 0)
  | .num m p, .num n q =>
    if q = 0 then (if p = 0 then (f.nan, flagNV) else (f.inf (m ^^ n), flagDZ))
    else if p = 0 then (f.zero (m ^^ n), 0) else f.roundNum rm fl (p / q)

/-- The sign of a value changed. -/
def Claim.opposite : FVal → FVal
  | .nan x => .nan x
  | .inf m => .inf (!m)
  | .num m q => .num (!m) (-q)

/-- Two results of a fused sum: flags of its product and of its sum together. -/
def Claim.fused (f : Fmt) (rm : BitVec 3) (fl : BitVec 2) (p : FVal × Flags) (c : FVal) : Nat × Flags :=
  let r := Claim.sum f rm fl p.1 c
  (r.1, p.2 ||| r.2)

/-- FADD, FSUB, FMUL, FDIV and the four words of FMAF (R97, R98, R102): each completes in every state, its result the one
rounding of the exact result by FRM without flushing, with the NaN, infinity and zero cases of R61, R62 and R64. -/
def Claim.ScalarFloatSumsAndProducts : Prop :=
  ∀ (fmt : FFmt) (rs3 rs2 rs1 rd : Reg) (s : State),
    let f := fmt.fmt
    let rm := s.t.frm
    let a := s.t.fVal f rs1
    let b := s.t.fVal f rs2
    let c := s.t.fVal f rs3
    let put := fun (r : Nat × Flags) => Claim.toF s rd r.1 r.2
    exec (.fadd fmt rs2 rs1 rd) s = put (Claim.sum f rm 0 a b) ∧
    exec (.fsub fmt rs2 rs1 rd) s = put (Claim.sum f rm 0 a (Claim.opposite b)) ∧
    exec (.fmul fmt rs2 rs1 rd) s =
      put ((Claim.once f rm 0 (Claim.product a b).1).1, (Claim.product a b).2 ||| (Claim.once f rm 0 (Claim.product a b).1).2) ∧
    exec (.fdiv fmt rs2 rs1 rd) s = put (Claim.quotient f rm 0 a b) ∧
    exec (.fmadd rs3 fmt rs2 rs1 rd) s = put (Claim.fused f rm 0 (Claim.product a b) c) ∧
    exec (.fmsub rs3 fmt rs2 rs1 rd) s = put (Claim.fused f rm 0 (Claim.product a b) (Claim.opposite c)) ∧
    exec (.fnmadd rs3 fmt rs2 rs1 rd) s = put (Claim.fused f rm 0 (Claim.product (Claim.opposite a) b) (Claim.opposite c)) ∧
    exec (.fnmsub rs3 fmt rs2 rs1 rd) s = put (Claim.fused f rm 0 (Claim.product (Claim.opposite a) b) c)

/-! #### round_once (R58, R59) of an exact value given by its cut: the rationals above it and below it -/

/-- A number of the format's precision, its exponent unbounded. -/
def Claim.Precise (f : Fmt) (r : Rat) : Prop := ∃ m e : Int, m.natAbs < 2 ^ (f.mb + 1) ∧ r = m * (2 : Rat) ^ e

/-- Such a number whose last significant bit is 0. -/
def Claim.EvenPrecise (f : Fmt) (r : Rat) : Prop :=
  ∃ m e : Int, 2 ^ f.mb ≤ m.natAbs ∧ m.natAbs < 2 ^ (f.mb + 1) ∧ m % 2 = 0 ∧ r = m * (2 : Rat) ^ e

/-- A number on the format's subnormal grid. -/
def Claim.OnGrid (f : Fmt) (r : Rat) : Prop := ∃ m : Int, r = m * (2 : Rat) ^ (1 - f.bias - f.mb : Int)

/-- Such a number whose last bit is 0. -/
def Claim.EvenOnGrid (f : Fmt) (r : Rat) : Prop := ∃ m : Int, r = 2 * m * (2 : Rat) ^ (1 - f.bias - f.mb : Int)

/-- r is the value rounded by a mode to the numbers G, those of E being even: `above x` says that x lies above the value and
`below x` that it lies below (R58). -/
def Claim.Rounded (G E : Rat → Prop) (rm : BitVec 3) (neg : Bool) (above below : Rat → Prop) (r : Rat) : Prop :=
  let down := ¬ above r ∧ ∀ g, G g → ¬ above g → g ≤ r
  let up := ¬ below r ∧ ∀ g, G g → ¬ below g → r ≤ g
  let near := fun (upTie downTie : Prop) => ∀ g, G g →
    (r < g → ¬ below ((r + g) / 2) ∧ (above ((r + g) / 2) ∨ downTie)) ∧
    (g < r → ¬ above ((r + g) / 2) ∧ (below ((r + g) / 2) ∨ upTie))
  G r ∧ match rm.toNat with
    | 0 => near (E r) (E r)
    | 1 => if neg then up else down
    | 2 => down
    | 3 => up
    | _ => near (neg = false) (neg = true)

/-- A result and its flags are round_once of a non-zero value of a sign, under a flush setting (R59): overflow by the table,
tininess after rounding, a subnormal result or the zero of a flush, and NX where the result is not the value. -/
def Claim.RoundOnce (f : Fmt) (rm : BitVec 3) (fl : BitVec 2) (neg : Bool) (above below : Rat → Prop) (w : Nat) (g : Flags) : Prop :=
  let top : Rat := (2 ^ (f.mb + 1) - 1) * (2 : Rat) ^ (f.emax - 1 - f.bias - f.mb : Int)
  let least : Rat := (2 : Rat) ^ (1 - f.bias : Int)
  let big := FVal.num neg (if neg then -top else top)
  let is := fun (r : Rat) => ¬ above r ∧ ¬ below r
  w < 2 ^ f.width ∧ ∃ r, Claim.Rounded (Claim.Precise f) (Claim.EvenPrecise f) rm neg above below r ∧
    (top < |r| → g = flagOF ∧ f.value w = match rm.toNat with
      | 1 => big
      | 2 => if neg then .inf true else big
      | 3 => if neg then big else .inf false
      | _ => .inf neg) ∧
    (|r| ≤ top → least ≤ |r| → f.value w = .num neg r ∧ (is r → g = 0) ∧ (¬ is r → g = flagNX)) ∧
    (|r| < least → fl ≠ 0 → f.value w = .num neg 0 ∧ g = flagUF) ∧
    (|r| < least → fl = 0 → ∃ q, Claim.Rounded (Claim.OnGrid f) (Claim.EvenOnGrid f) rm neg above below q ∧
      f.value w = .num neg q ∧ (is q → g = 0) ∧ (¬ is q → g = flagUF))

/-- round_once of a non-zero rational in every format, mode and flush setting (R58 to R60). -/
def Claim.RoundOnceOfNumbers : Prop :=
  ∀ f ∈ [f16, bf16, f32, f64], ∀ (rm : BitVec 3) (fl : BitVec 2) (v : Rat), v ≠ 0 →
    Claim.RoundOnce f rm fl (decide (v < 0)) (fun x => v < x) (fun x => x < v) (f.roundNum rm fl v).1 (f.roundNum rm fl v).2

/-- FSQRT (R59, R62, R98): √ of a NaN, of an infinity, of a zero, of a number below −0; and of a positive number round_once of
its exact root, rational or not. -/
def Claim.ScalarSquareRoot : Prop :=
  ∀ (fmt : FFmt) (rs1 rd : Reg) (s : State),
    let f := fmt.fmt
    let a := s.t.fVal f rs1
    (∀ x, a = .nan x → exec (.fsqrt fmt rs1 rd) s = Claim.toF s rd f.nan (Claim.nv x false)) ∧
    (a = .inf false → exec (.fsqrt fmt rs1 rd) s = Claim.toF s rd (f.inf false) 0) ∧
    (∀ m, a = .num m 0 → exec (.fsqrt fmt rs1 rd) s = Claim.toF s rd (f.zero m) 0) ∧
    (a = .inf true ∨ (∃ m q, a = .num m q ∧ q < 0) → exec (.fsqrt fmt rs1 rd) s = Claim.toF s rd f.nan flagNV) ∧
    (∀ m q, a = .num m q → 0 < q → ∃ w g, exec (.fsqrt fmt rs1 rd) s = Claim.toF s rd w g ∧
      Claim.RoundOnce f s.t.frm 0 false (fun x => 0 < x ∧ q < x * x) (fun x => x < 0 ∨ x * x < q) w g)

/-- One value lies below another, −0 below +0 (R98). -/
def Claim.below : FVal → FVal → Prop
  | .inf m, .inf n => m = true ∧ n = false
  | .inf m, .num _ _ => m = true
  | .num _ _, .inf n => n = false
  | .num m p, .num n q => p < q ∨ p = q ∧ m = true ∧ n = false
  | _, _ => False

/-- FMIN, FMAX, the sign injections, the moves, FCLASS and the FP compares (R98, R99, R101): each completes in every state. -/
def Claim.ScalarFloatSelectMoveCompareWords : Prop :=
  ∀ (fmt : FFmt) (rs2 rs1 rd : Reg) (m : Combine) (cd : CReg) (s : State),
    let f := fmt.fmt
    let pa := (s.t.readF rs1).toNat % 2 ^ f.width
    let pb := (s.t.readF rs2).toNat % 2 ^ f.width
    let a := f.value pa
    let b := f.value pb
    let nan := fun (v : FVal) => ∃ x, v = FVal.nan x
    let top := 2 ^ (f.width - 1)
    let low := pa % top
    let nv : Flags := if a = .nan true ∨ b = .nan true then flagNV else 0
    let cmp := fun (t : Bool) (fl : Flags) => Host.Outcome.next (φ := Fault) (ρ := Refusal) ((s.combineC m cd t).orFlags fl).advance
    (nan a → nan b → exec (.fmin fmt rs2 rs1 rd) s = Claim.toF s rd f.nan nv ∧ exec (.fmax fmt rs2 rs1 rd) s = Claim.toF s rd f.nan nv) ∧
    (nan a → ¬ nan b → exec (.fmin fmt rs2 rs1 rd) s = Claim.toF s rd pb nv ∧ exec (.fmax fmt rs2 rs1 rd) s = Claim.toF s rd pb nv) ∧
    (¬ nan a → nan b → exec (.fmin fmt rs2 rs1 rd) s = Claim.toF s rd pa nv ∧ exec (.fmax fmt rs2 rs1 rd) s = Claim.toF s rd pa nv) ∧
    (Claim.below a b → exec (.fmin fmt rs2 rs1 rd) s = Claim.toF s rd pa 0 ∧ exec (.fmax fmt rs2 rs1 rd) s = Claim.toF s rd pb 0) ∧
    (Claim.below b a → exec (.fmin fmt rs2 rs1 rd) s = Claim.toF s rd pb 0 ∧ exec (.fmax fmt rs2 rs1 rd) s = Claim.toF s rd pa 0) ∧
    (¬ nan a → ¬ nan b → ¬ Claim.below a b → ¬ Claim.below b a →
      (∃ r, (r = pa ∨ r = pb) ∧ exec (.fmin fmt rs2 rs1 rd) s = Claim.toF s rd r 0) ∧
      ∃ r, (r = pa ∨ r = pb) ∧ exec (.fmax fmt rs2 rs1 rd) s = Claim.toF s rd r 0) ∧
    exec (.fsgnj fmt rs2 rs1 rd) s = .next (s.setF rd (low + pb / top * top)).advance ∧
    exec (.fsgnjn fmt rs2 rs1 rd) s = .next (s.setF rd (low + (1 - pb / top) * top)).advance ∧
    exec (.fsgnjx fmt rs2 rs1 rd) s = .next (s.setF rd (low + (pa / top + pb / top) % 2 * top)).advance ∧
    exec (.fmvxf fmt rs1 rd) s = Claim.toX s rd (BitVec.ofNat 64 pa) ∧
    exec (.fmvfx fmt rs1 rd) s = .next (s.setF rd ((s.t.readX rs1).toNat % 2 ^ f.width)).advance ∧
    (∃ k ≤ 9, exec (.fclass fmt rs1 rd) s = Claim.toX s rd (BitVec.ofNat 64 (2 ^ k)) ∧
      (k = 0 ↔ a = .inf true) ∧ (k = 7 ↔ a = .inf false) ∧ (k = 8 ↔ a = .nan true) ∧ (k = 9 ↔ a = .nan false) ∧
      (k = 3 ↔ a = .num true 0) ∧ (k = 4 ↔ a = .num false 0) ∧
      (k = 1 ∨ k = 2 ↔ ∃ x q, a = .num x q ∧ q < 0) ∧ (k = 5 ∨ k = 6 ↔ ∃ x q, a = .num x q ∧ 0 < q) ∧
      (k = 2 ∨ k = 5 → pa / 2 ^ f.mb % 2 ^ f.eb = 0) ∧ (k = 1 ∨ k = 6 → pa / 2 ^ f.mb % 2 ^ f.eb ≠ 0)) ∧
    (nan a ∨ nan b → exec (.fceq fmt rs2 rs1 m cd) s = cmp false nv ∧
      exec (.fclt fmt rs2 rs1 m cd) s = cmp false flagNV ∧ exec (.fcle fmt rs2 rs1 m cd) s = cmp false flagNV) ∧
    (∀ x y p q, a = .num x p → b = .num y q → exec (.fceq fmt rs2 rs1 m cd) s = cmp (decide (p = q)) 0 ∧
      exec (.fclt fmt rs2 rs1 m cd) s = cmp (decide (p < q)) 0 ∧ exec (.fcle fmt rs2 rs1 m cd) s = cmp (decide (p ≤ q)) 0) ∧
    (∀ x y p, a = .inf x → b = .num y p → exec (.fceq fmt rs2 rs1 m cd) s = cmp false 0 ∧
      exec (.fclt fmt rs2 rs1 m cd) s = cmp x 0 ∧ exec (.fcle fmt rs2 rs1 m cd) s = cmp x 0) ∧
    (∀ x y p, a = .num x p → b = .inf y → exec (.fceq fmt rs2 rs1 m cd) s = cmp false 0 ∧
      exec (.fclt fmt rs2 rs1 m cd) s = cmp (!y) 0 ∧ exec (.fcle fmt rs2 rs1 m cd) s = cmp (!y) 0) ∧
    (∀ x y, a = .inf x → b = .inf y → exec (.fceq fmt rs2 rs1 m cd) s = cmp (x == y) 0 ∧
      exec (.fclt fmt rs2 rs1 m cd) s = cmp (x && !y) 0 ∧ exec (.fcle fmt rs2 rs1 m cd) s = cmp (x || !y) 0)

/-- The integer that a value converts to, saturating, with its flags (R67). -/
def Claim.integer (rm : BitVec 3) (lo hi : Int) : FVal → Int × Flags
  | .nan _ => (hi, flagNV)
  | .inf m => (if m then lo else hi, flagNV)
  | .num _ q =>
    let r := roundInt rm q
    if hi < r then (hi, flagNV) else if r < lo then (lo, flagNV) else (r, if (r : Rat) = q then 0 else flagNX)

/-- FCVT (R67, R68, R100): each selector of the table completes in every state with its conversion. -/
def Claim.ScalarConversions : Prop :=
  ∀ (fmt : FFmt) (sel : BitVec 5) (rs1 rd : Reg) (s : State),
    let f := fmt.fmt
    let x := s.t.readX rs1
    let rm := s.t.frm
    let go := exec (.fcvt fmt sel rs1 rd) s
    let from_ := fun (g : Fmt) =>
      let v := s.t.fVal g rs1
      let r := Claim.once f rm 0 v
      go = Claim.toF s rd r.1 ((if v = .nan true then flagNV else 0) ||| r.2)
    let ofInt := fun (n : Int) =>
      go = Claim.toF s rd (if n = 0 then 0 else (f.roundNum rm 0 n).1) (if n = 0 then 0 else (f.roundNum rm 0 n).2)
    let toInt := fun (m : BitVec 3) (lo hi : Int) =>
      let r := Claim.integer m lo hi (s.t.fVal f rs1)
      go = .next ((s.setX rd (BitVec.ofInt 64 r.1)).orFlags r.2).advance
    let toWord := fun (m : BitVec 3) =>
      let r := Claim.integer m 0 (2 ^ 32 - 1) (s.t.fVal f rs1)
      go = .next ((s.setX rd (BitVec.ofNat 64 r.1.toNat)).orFlags r.2).advance
    (sel = 0 → from_ f32) ∧ (sel = 1 → from_ f64) ∧ (sel = 2 → from_ f16) ∧ (sel = 3 → from_ bf16) ∧
    (sel = 4 → ofInt x.toInt) ∧ (sel = 5 → ofInt x.toNat) ∧
    (sel = 6 → ofInt (Int.bmod x.toNat (2 ^ 32))) ∧ (sel = 7 → ofInt (x.toNat % 2 ^ 32 : Nat)) ∧
    (sel = 8 → toInt rm (-2 ^ 63) (2 ^ 63 - 1)) ∧ (sel = 9 → toInt rm 0 (2 ^ 64 - 1)) ∧
    (sel = 10 → toInt rm (-2 ^ 31) (2 ^ 31 - 1)) ∧ (sel = 11 → toWord rm) ∧
    (sel = 24 → toInt 1 (-2 ^ 63) (2 ^ 63 - 1)) ∧ (sel = 25 → toInt 1 0 (2 ^ 64 - 1)) ∧
    (sel = 26 → toInt 1 (-2 ^ 31) (2 ^ 31 - 1)) ∧ (sel = 27 → toWord 1)

/-- The five rounding modes on a magnitude and a sign (R46, R58): RNE, RTZ, RDN, RUP, RMM give a neighbouring integer, the
exact one where there is one, and which neighbour each mode names. -/
def Claim.RoundingModes : Prop :=
  ∀ (neg : Bool) (q : Rat), 0 ≤ q →
    let r := fun (rm : BitVec 3) => (roundNat rm neg q : Rat)
    (∀ rm, (r rm ≤ q → q < r rm + 1) ∧ (q ≤ r rm → r rm < q + 1)) ∧
    (r 1 ≤ q) ∧ (if neg then q ≤ r 2 else r 2 ≤ q) ∧ (if neg then r 3 ≤ q else q ≤ r 3) ∧
    (q - r 0 ≤ 1 / 2 ∧ r 0 - q ≤ 1 / 2 ∧ ((q - r 0 = 1 / 2 ∨ r 0 - q = 1 / 2) → roundNat 0 neg q % 2 = 0)) ∧
    (q - r 4 < 1 / 2 ∧ r 4 - q ≤ 1 / 2)

/-- The scalar float words that round, round_once itself, the rounding modes and the square root (R58 to R68, R95 to R98). -/
def Obligations.ScalarFloatArithmetic : Prop :=
  Claim.ScalarFloatSumsAndProducts ∧ Claim.ScalarSquareRoot ∧ Claim.RoundingModes ∧ Claim.RoundOnceOfNumbers

/-- The scalar float words that select, move, compare and convert (R60 to R71, R98 to R103). -/
def Obligations.ScalarFloatMovesAndConversions : Prop :=
  Claim.ScalarFloatSelectMoveCompareWords ∧ Claim.ScalarConversions


/-! ### Memory: scalar accesses and atomics -/

/-- The byte of memory at a physical address (R242). -/
def Claim.byte (s : State) (a : Nat) : Byte := sget (w := 8) s.mem a

/-- The state differs at most in the translation caches of the focus's core and bay (R376). -/
def Claim.sameButCaches (s u : State) : Prop :=
  u = { s with core := { s.core with tlb := u.core.tlb }, bay := { s.bay with tlb := u.bay.tlb } }

/-- A word that has stored bytes at a physical address and completed, in one step of the machine (R81, R103): those bytes
and no others of memory are replaced; of the rest only the stamps, the parked threads' marks, the digest of a
deterministic context, and where execution goes on. -/
def Claim.stored (s t : State) (pa : Nat) (bs : List Byte) : Prop :=
  (∀ a, Claim.byte t a = if pa ≤ a ∧ a < pa + bs.length then bs.getD (a - pa) 0 else Claim.byte s a) ∧
  t = { s.orderThread.advance with
    mem := t.mem, parks := t.parks, t := { s.orderThread.advance.t with x := t.t.x, digest := t.t.digest } } ∧
  (s.ctx.det = false → t.t.digest = s.t.digest)

/-- The access checks of a thread change nothing but translation caches, and with no filling nothing at all; a read gives
the bytes of memory where no segment of the thread is open (R81, R371, R376, R449). -/
def Claim.AccessChecksChangeOnlyCaches : Prop :=
  ∀ (s u : State) (acc : Access) (k va n pa r : Nat) (bs : List Byte),
    (s.translate s.agent acc va = .ok ((pa, r), u) → Claim.sameButCaches s u ∧ (s.ch.fillCache = false → u = s)) ∧
    (s.checkPart s.agent acc va n = .ok (pa, u) → Claim.sameButCaches s u ∧ (s.ch.fillCache = false → u = s)) ∧
    (s.read s.agent acc k va n = .ok (bs, u) → Claim.sameButCaches s u ∧ (s.ch.fillCache = false → u = s) ∧ bs.length = n) ∧
    (s.readPart s.agent acc k va n = .ok (bs, u) → s.segment s.agent = none →
      ∃ pa r w, s.translate s.agent acc va = .ok ((pa, r), w) ∧ bs = (List.range n).map fun i => Claim.byte s (pa + i))

/-- The thread has made one more scalar access (R248). -/
def Claim.counted (s : State) : State := { s with t := { s.t with scalarCount := s.t.scalarCount + 1 } }

/-- A scalar access of n bytes passes its checks at its word (R104, R109): aligned, translated, permitted, its line good. -/
def Claim.passes (s u : State) (acc : Access) (ea : DWord) (n pa : Nat) : Prop :=
  ea.toNat % n = 0 ∧ (∃ r, s.translate s.agent acc ea.toNat = .ok ((pa, r), u)) ∧ u.lineOk (pa / 128) = true

/-- The access is performed at its word: no earlier access of the thread waits, no copy holds its bytes, and the machine
does not defer it (R107, R241). -/
def Claim.atOnce (u : State) (n pa : Nat) : Prop :=
  u.ch.deferScalar = false ∧ u.t.scalars = [] ∧ u.held u.agent pa n = false

/-- LB to LWU and FLH to FLD (R103, R105): a load to x0 completes in every state without an effect. The others, once their
address passes its checks and where they are performed at once, complete with the bytes of memory (with no segment open),
extended as the table says, as one step. -/
def Claim.ScalarLoads : Prop :=
  ∀ (imm : BitVec 12) (rs1 rd : Reg) (s u : State) (pa : Nat),
    let ea := s.t.readX rs1 + BitVec.ofInt 64 imm.toInt
    let v := fun (n : Nat) => ofBytes (u.bytesFor u.agent pa n)
    let can := fun (n : Nat) => Claim.passes s u .load ea n pa ∧ Claim.atOnce u n pa
    let putX := fun (n : Int) => Host.Outcome.next (φ := Fault) (ρ := Refusal) ((Claim.counted u).orderThread.setX rd (BitVec.ofInt 64 n)).advance
    let putF := fun (n : Nat) => Host.Outcome.next (φ := Fault) (ρ := Refusal) ((Claim.counted u).orderThread.setF rd n).advance
    (∀ n, u.segment u.agent = none → u.bytesFor u.agent pa n = (List.range n).map fun i => Claim.byte u (pa + i)) ∧
    (∀ i ∈ [Instr.lb imm rs1 0, .lh imm rs1 0, .lw imm rs1 0, .ld imm rs1 0, .lbu imm rs1 0, .lhu imm rs1 0, .lwu imm rs1 0],
      exec i s = .next s.advance) ∧
    (rd ≠ 0 →
      (can 1 → exec (.lb imm rs1 rd) s = putX (Int.bmod (v 1) (2 ^ 8)) ∧ exec (.lbu imm rs1 rd) s = putX (v 1)) ∧
      (can 2 → exec (.lh imm rs1 rd) s = putX (Int.bmod (v 2) (2 ^ 16)) ∧ exec (.lhu imm rs1 rd) s = putX (v 2)) ∧
      (can 4 → exec (.lw imm rs1 rd) s = putX (Int.bmod (v 4) (2 ^ 32)) ∧ exec (.lwu imm rs1 rd) s = putX (v 4)) ∧
      (can 8 → exec (.ld imm rs1 rd) s = putX (v 8))) ∧
    (can 2 → exec (.flh imm rs1 rd) s = putF (v 2)) ∧ (can 4 → exec (.flw imm rs1 rd) s = putF (v 4)) ∧
    (can 8 → exec (.fld imm rs1 rd) s = putF (v 8))

/-- SB to SD and FSH to FSD (R103, R104): once the address passes its checks, and where they are performed at once, each
completes; it replaces the bytes of its width at the translated address, and no other byte of memory and no register. -/
def Claim.ScalarStores : Prop :=
  ∀ (imm : BitVec 12) (rs2 rs1 : Reg) (s u : State) (pa : Nat),
    let ea := s.t.readX rs1 + BitVec.ofInt 64 imm.toInt
    let puts := fun (i : Instr) (n : Nat) (v : DWord) =>
      s.segment s.agent = none → Claim.passes s u .store ea n pa → Claim.atOnce u n pa →
        ∃ t, exec i s = .next t ∧ Claim.stored (Claim.counted u) t pa (toBytes n v.toNat) ∧ t.t.x = s.t.x
    puts (.sb rs2 rs1 imm) 1 (s.t.readX rs2) ∧ puts (.sh rs2 rs1 imm) 2 (s.t.readX rs2) ∧
    puts (.sw rs2 rs1 imm) 4 (s.t.readX rs2) ∧ puts (.sd rs2 rs1 imm) 8 (s.t.readX rs2) ∧
    puts (.fsh rs2 rs1 imm) 2 (s.t.readF rs2) ∧ puts (.fsw rs2 rs1 imm) 4 (s.t.readF rs2) ∧
    puts (.fsd rs2 rs1 imm) 8 (s.t.readF rs2)

/-- Scalar loads (but those to x0) and stores whose address is not a multiple of their width raise misaligned-access
and perform nothing; a fault of their access is raised at the word (R104), a line whose check fails as data-integrity, which
quarantines it at a step of its own (R449 to R451). -/
def Claim.ScalarAccessFaults : Prop :=
  ∀ (imm : BitVec 12) (rs2 rs1 rd : Reg) (s : State),
    let ea := s.t.readX rs1 + BitVec.ofInt 64 imm.toInt
    let line := ea.toNat / 128 * 128
    let off := fun (n : Nat) (l : List Instr) => ea.toNat % n ≠ 0 → ∀ i ∈ l, exec i s = Claim.traps s cause.misaligned ea
    let bad := fun (acc : Access) (kind n : Nat) (l : List Instr) => ea.toNat % n = 0 →
      (∀ c v u, s.translate s.agent acc ea.toNat = .error (.trap c v, u) → ∀ i ∈ l, exec i s = Claim.traps u c v) ∧
      ∀ pa r u, s.translate s.agent acc ea.toNat = .ok ((pa, r), u) → u.lineOk (pa / 128) = false → ∀ i ∈ l,
        exec i s = Claim.traps (if u.quar.contains (pa / 128) then u
          else u.order.quarantine s.t.ctx kind line (pa / 128) (pa / 128 * 128)) cause.integrity (BitVec.ofNat 64 line)
    off 2 [.flh imm rs1 rd, .sh rs2 rs1 imm, .fsh rs2 rs1 imm] ∧
    off 4 [.flw imm rs1 rd, .sw rs2 rs1 imm, .fsw rs2 rs1 imm] ∧
    off 8 [.fld imm rs1 rd, .sd rs2 rs1 imm, .fsd rs2 rs1 imm] ∧
    (rd ≠ 0 → off 2 [.lh imm rs1 rd, .lhu imm rs1 rd] ∧ off 4 [.lw imm rs1 rd, .lwu imm rs1 rd] ∧ off 8 [.ld imm rs1 rd] ∧
      bad .load 1 1 [.lb imm rs1 rd, .lbu imm rs1 rd] ∧ bad .load 1 2 [.lh imm rs1 rd, .lhu imm rs1 rd] ∧
      bad .load 1 4 [.lw imm rs1 rd, .lwu imm rs1 rd] ∧ bad .load 1 8 [.ld imm rs1 rd]) ∧
    bad .load 1 2 [.flh imm rs1 rd] ∧ bad .load 1 4 [.flw imm rs1 rd] ∧ bad .load 1 8 [.fld imm rs1 rd] ∧
    bad .store 2 1 [.sb rs2 rs1 imm] ∧ bad .store 2 2 [.sh rs2 rs1 imm, .fsh rs2 rs1 imm] ∧
    bad .store 2 4 [.sw rs2 rs1 imm, .fsw rs2 rs1 imm] ∧ bad .store 2 8 [.sd rs2 rs1 imm, .fsd rs2 rs1 imm]

/-- The scalar access queue (R107, R239, R243, R244): an access that passes its checks and is deferred, or that stands behind
another, enters the tail of the queue with its operands, and the word completes; the head alone is performed, at a step at which no
copy holds its bytes and its line is good (R81): a store replaces its bytes of memory, a load writes its register, and any other
leaves the queue. -/
def Claim.ScalarQueue : Prop :=
  ∀ (imm : BitVec 12) (rs2 rs1 rd : Reg) (s u : State) (pa : Nat),
    let ea := s.t.readX rs1 + BitVec.ofInt 64 imm.toInt
    let later := fun (i : Instr) (acc : Access) (k : ScalarKind) (n : Nat) (v : DWord) =>
      Claim.passes s u acc ea n pa → u.ch.deferScalar = true ∨ u.t.scalars ≠ [] → ∃ page,
        exec i s = .next ({ u with t := { (Claim.counted u).t with
          scalars := u.t.scalars ++ [{ kind := k, bytes := n, va := ea, pa := pa, val := v, page := page }] } } : State).advance
    (rd ≠ 0 → later (.lw imm rs1 rd) .load (.loadX rd true) 4 0 ∧ later (.ld imm rs1 rd) .load (.loadX rd false) 8 0) ∧
    later (.fld imm rs1 rd) .load (.loadF rd) 8 0 ∧ later (.sw rs2 rs1 imm) .store .store 4 (s.t.readX rs2) ∧
    later (.sd rs2 rs1 imm) .store .store 8 (s.t.readX rs2) ∧
    (s.t.scalars = [] → s.scalarStep = none) ∧
    ∀ a l, s.t.scalars = a :: l →
      (a.bytes ≠ 0 → s.held s.agent a.pa a.bytes = true ∨ s.lineOk (a.pa / 128) = false → s.scalarStep = none) ∧
      (s.held s.agent a.pa a.bytes = false → s.lineOk (a.pa / 128) = true → a.more = [] → (∀ d r, a.kind ≠ .resume d r) →
        s.segment s.agent = none → a.bytes ≤ 8 → ∃ t, s.scalarStep = some t ∧ t.t.scalars = l ∧
        (a.kind = .store → t.t.x = s.t.x ∧ ∀ b, Claim.byte t b =
          if a.pa ≤ b ∧ b < a.pa + a.bytes then (toBytes a.bytes a.val.toNat).getD (b - a.pa) 0 else Claim.byte s b) ∧
        ∀ rd, a.kind = .loadX rd false → t.mem = s.mem ∧
          t.t.x = (s.setX rd (BitVec.ofNat 64 (ofBytes ((List.range a.bytes).map fun i => Claim.byte s (a.pa + i))))).t.x)

/-- The ten AMOs in both widths (R108, R109): with the address aligned and its line writable, outside a task that has
segments, and where it is performed at once, each completes in one step: the word takes its new value, no other byte changes,
and x[rd] the old word, sign-extended; an address that is not a multiple of the width raises misaligned-access. -/
def Claim.AtomicSteps : Prop :=
  ∀ (rs2 rs1 rd : Reg) (dw : Bool) (s u : State) (pa : Nat),
    let n : Nat := if dw then 8 else 4
    let w := 8 * n
    let ea := s.t.readX rs1
    let old := ofBytes ((List.range n).map fun i => Claim.byte s (pa + i))
    let b : Nat := (s.t.readX rs2).toNat % 2 ^ w
    let so := Int.bmod old (2 ^ w)
    let sb := Int.bmod b (2 ^ w)
    let does := fun (i : Instr) (new : Nat) => ∃ t, exec i s = .next t ∧ Claim.stored (Claim.counted u) t pa (toBytes n new) ∧
      t.t.x = (u.setX rd (BitVec.ofInt 64 so)).t.x
    (ea.toNat % n ≠ 0 → s.mySegment = none → ∀ i ∈ [Instr.amoadd rs2 rs1 dw rd, .amoswap rs2 rs1 dw rd, .amocas rs2 rs1 dw rd,
        .amomin rs2 rs1 dw rd, .amomax rs2 rs1 dw rd, .amominu rs2 rs1 dw rd, .amomaxu rs2 rs1 dw rd, .amoand rs2 rs1 dw rd,
        .amoor rs2 rs1 dw rd, .amoxor rs2 rs1 dw rd], exec i s = Claim.traps s cause.misaligned ea) ∧
    (s.mySegment = none → Claim.passes s u .amo ea n pa → Claim.atOnce u n pa →
      does (.amoadd rs2 rs1 dw rd) ((old + b) % 2 ^ w) ∧
      does (.amoswap rs2 rs1 dw rd) b ∧
      does (.amocas rs2 rs1 dw rd) (if old = (s.t.readX rd).toNat % 2 ^ w then b else old) ∧
      does (.amomin rs2 rs1 dw rd) (if so < sb then old else b) ∧
      does (.amomax rs2 rs1 dw rd) (if so < sb then b else old) ∧
      does (.amominu rs2 rs1 dw rd) (min old b) ∧
      does (.amomaxu rs2 rs1 dw rd) (max old b) ∧
      does (.amoand rs2 rs1 dw rd) (old &&& b) ∧
      does (.amoor rs2 rs1 dw rd) (old ||| b) ∧
      does (.amoxor rs2 rs1 dw rd) (old ^^^ b))

/-- The header of a message of the package about a context (R402): the step's stamp, PKGID of the context, its number, class and operation. -/
def Claim.headed (s : State) (cls op ctx : Nat) : DerporHeader :=
  { stamp := s.stamp, src := BitVec.ofNat 16 (s.ctxAt ctx).pkgid, ctx := ctx, queue := 0, reserved := 0
    op := BitVec.ofNat 4 op, cls := BitVec.ofNat 4 cls }

/-- The header of a REPORT that is about no context (R402, R403; the model's choice: assumption 117). -/
def Claim.plainHead (stamp : Nat) : DerporHeader := { stamp := stamp, src := 0, ctx := 0, queue := 0, reserved := 0, op := 6, cls := 0 }

/-- The end of a context by a cause (R390): none of its threads is live, its operations, pipelines, queues and messages on
the way are discarded, it is ended and not resident, the regulator reports it, and memory is as it was. -/
def Claim.ended (s t : State) (n : Nat) (c : Cause) (pc val : DWord) : Prop :=
  (t.ctxAt n).ended = true ∧ (t.ctxAt n).resident = false ∧ (t.ctxAt n).queues = [] ∧
  (∀ e ∈ t.allThreads, e.2.live = true → e.2.ctx ≠ n) ∧ (∀ o ∈ t.ops, o.ctx ≠ n) ∧ (∀ p ∈ t.pipes, p.ctx ≠ n) ∧
  (∀ m ∈ t.net, m.ctx ≠ n) ∧ t.mem = s.mem ∧ ∃ time, t.reports = s.reports ++ [(Claim.headed s 0 6 n, .ended n c pc val time)]

/-! ### The segments of the tasks of deterministic contexts -/

/-- The mixing function of R124. -/
def Claim.mix (a k : Word) : Word :=
  let y1 := a ^^^ k
  let y2 := (y1 ^^^ (y1 >>> 15)) * 0x2C1B3C6D
  let y3 := (y2 ^^^ (y2 >>> 12)) * 0x297A2D39
  y3 ^^^ (y3 >>> 15)

/-- The key of child c of a node with key p (R427). -/
def Claim.key (p : DWord) (c : Nat) : DWord :=
  let lo : Word := BitVec.ofNat 32 p.toNat
  let hi : Word := BitVec.ofNat 32 (p.toNat / 2 ^ 32)
  let l := Claim.mix (lo ^^^ BitVec.ofNat 32 c) hi
  let h := Claim.mix hi (l ^^^ 0x9E3779B9)
  BitVec.ofNat 64 (h.toNat * 2 ^ 32 + l.toNat)

/-- DIGEST with the byte b written at address a added (R432). -/
def Claim.digest (d a : DWord) (b : Byte) : DWord :=
  let low := fun (x : DWord) => (BitVec.ofNat 32 x.toNat : Word)
  let high := fun (x : DWord) => (BitVec.ofNat 32 (x.toNat / 2 ^ 32) : Word)
  let l := low d + Claim.mix (low a) (Claim.mix (high a) (BitVec.ofNat 32 b.toNat))
  let h := high d + Claim.mix (high a) (Claim.mix (low a) (BitVec.ofNat 32 (b.toNat + 256)))
  BitVec.ofNat 64 (h.toNat * 2 ^ 32 + l.toNat)

/-- Memory with a run of bytes replaced. -/
def Claim.put (f : Nat → Byte) (pa : Nat) (bs : List Byte) : Nat → Byte :=
  fun a => if pa ≤ a ∧ a < pa + bs.length then bs.getD (a - pa) 0 else f a

/-- The word waits in the scalar stream and is tried again, with nothing else changed. -/
def Claim.held (s : State) : Out := .next { s with t := { s.t with wait := some { kind := .hold } } }

/-- The thread in focus runs a task whose segment g is open (R429). -/
def Claim.openSegment (s : State) (g : Segment) : Prop := s.inTask = true ∧ s.mySegment = some g ∧ g.closed = false

/-- What a task sees over memory m: the shadow of its segment where it holds a byte (R430). -/
def Claim.shadowed (g : Segment) (m : Nat → Byte) : Nat → Byte :=
  fun a => ((g.shadow.find? fun e => e.1 == a).map fun e => e.2).getD (m a)

/-- Memory m once a segment has committed (R430): its shadow published, then each held integer add made to its word as that word stands, wrapping. -/
def Claim.committed (g : Segment) (m : Nat → Byte) : Nat → Byte :=
  g.adds.foldl (fun m h => Claim.put m h.pa (toBytes h.bytes (ofBytes ((List.range h.bytes).map fun i => m (h.pa + i)) + h.val.toNat)))
    (Claim.shadowed g m)

/-- The lines that a segment will write are sound and its partition's own. -/
def Claim.sound (s : State) (g : Segment) : Prop :=
  (g.shadow.map fun e => e.1).Pairwise (· < ·) ∧
  (∀ e ∈ g.shadow, s.ownsByte s.t.ctx e.1 = true ∧ s.lineOk (e.1 / 128) = true) ∧
  ∀ h ∈ g.adds, s.ownsByte s.t.ctx h.pa = true ∧ s.lineOk (h.pa / 128) = true

/-- The records that the thread in focus pushed in a segment that has not committed, changed or removed, and no other record of a pipeline (R431, R435). -/
def Claim.pushes (s t : State) (f : List StageRecord → List StageRecord) : Prop :=
  (t.pipes.map fun p => (p.ctx, p.launch, p.bay, p.queues)) =
    s.pipes.map fun p => (p.ctx, p.launch, p.bay, if p.ctx = s.t.ctx then p.queues.map fun q => (q.1, f q.2) else p.queues)

/-- From `s`, where its check has passed, to `t` the segment g has committed, its word DFENCE has completed, and the next segment has begun (R429 to R431, R437): in
memory its shadow stands and its held integer adds are made; its pushes may be taken; its floating-point adds are held for the launch; the checkpoint is the thread behind the word. -/
def Claim.commits (s t : State) (g : Segment) : Prop :=
  t.t = s.advance.t ∧ t.pos = s.pos ∧ (∀ a, Claim.byte t a = Claim.committed g (Claim.byte s) a) ∧ t.ctx.adds = s.ctx.adds ++ g.floats ∧
  Claim.pushes s t (fun q => q.map fun r => if r.takeable = false ∧ r.byPos = s.pos then { r with takeable := true } else r) ∧
  let tiles := if s.core.tileOwner = some (s.pos % 4) then s.core.z.toList else []
  t.mySegment = some { number := g.number + 1, diglog := s.ctx.diglog, digctl := s.ctx.digctl, checkpoint := t.t, tiles := tiles }

/-- From `s` to `t` the thread in focus has been rolled back (R435): it and its tile unit are as at the start of the segment, whose shadow, pushes and adds are gone; memory is as it was; the
segment runs again, and no other thread of the context goes on. -/
def Claim.rolledBack (s t : State) (g : Segment) : Prop :=
  s.pos < slotCount → g.checkpoint.live = true → g.checkpoint.ctx = s.t.ctx →
    let owner := s.core.tileOwner = some (s.pos % 4)
    t.mem = s.mem ∧ t.pos = s.pos ∧ t.t = { g.checkpoint with tileSave := t.t.tileSave } ∧ (g.tiles = [] ∨ owner → t.t = g.checkpoint) ∧
    (g.tiles ≠ [] → ¬ owner → t.t.tileSave = g.tiles) ∧ (g.tiles ≠ [] → owner → ∀ k : Fin 4, t.core.z[k] = g.tiles.getD k.val []) ∧
    (g.tiles = [] → t.core.tileOwner ≠ some (s.pos % 4)) ∧
    t.mySegment = some { g with shadow := [], lines := [], adds := [], floats := [], failed := true } ∧ t.ctx.adds = s.ctx.adds ∧
    Claim.pushes s t (fun q => q.filter fun r => !(r.takeable == false && r.byPos == s.pos)) ∧
    ∀ p, p ≠ s.pos → (t.focus p).t.ctx = s.t.ctx → (t.focus p).mayRun = false

/-- The end of a segment at a word that is a commit point, and the check of its digest (R429, R430, R434, R435): the word waits until every earlier access has been performed,
in a handler not for the held entries. With DIGCTL.MODE 0 the check passes; with 1 the entry at (KEY >> 1) mod N, empty or of that KEY, takes KEY and DIGEST; with 2 an entry that
holds KEY passes with the thread's DIGEST; the first failure rolls back, and another, or one of a segment that cannot be rolled back, ends the context with KEY as value. -/
def Claim.SegmentsCommit : Prop :=
  ∀ (scope scope' level : BitVec 3) (len : BitVec 4) (rs2 rs1 rd : Reg) (cd : CReg) (dw x : Bool) (s u v : State) (g : Segment) (bs : List Byte) (pa : Nat),
    scope ≠ 0 → scope ≠ 5 → Claim.openSegment s g →
    let left := s.t.queue ≠ [] ∧ s.t.inTrap = false ∨ s.t.posted ≠ [] ∨ s.t.scalars ≠ []
    let key : DWord := Claim.key s.t.taskix g.number ||| 1
    let entry := g.diglog.toNat / 16 % 2 ^ 44 * 16 + 16 * (key.toNat / 2 % 2 ^ (g.digctl.toNat / 2 ^ 8 % 16 + 8))
    let mode := g.digctl.toNat % 4
    let fence := exec (.dfence scope) s
    (left → ∀ i ∈ [Instr.dfence scope, .amoadd rs2 rs1 dw rd, .amoswap rs2 rs1 dw rd, .amocas rs2 rs1 dw rd, .amomin rs2 rs1 dw rd, .amomax rs2 rs1 dw rd,
        .amominu rs2 rs1 dw rd, .amomaxu rs2 rs1 dw rd, .amoand rs2 rs1 dw rd, .amoor rs2 rs1 dw rd, .amoxor rs2 rs1 dw rd, .park rs2 rs1 rd, .wake scope' rs2 rs1 rd,
        .barv level rs1 rd, .forkCopy x rs1 rd, .forkFold x rs1 rd, .forkBlend x rs1 rd, .forkMarch x rs1 rd, .cpy x rs2 rs1 rd, .publish rs1 rd, .publishDiscard rs1 rd,
        .launch rs1 rd, .msend len rs2 rs1 rd, .mrecv rs2 rs1 rd, .mrecvTry rs2 rs1 rd, .rcast rs2 rs1 rd, .rresume rs2 rs1 rd, .hattach rs2 rs1 rd, .hdetach rs2 rs1 rd,
        .take rs1 cd, .halt], exec i s = Claim.held s) ∧
    (¬ left → Claim.sound s g → mode = 0 → ∃ t, fence = .next t ∧ Claim.commits s t g) ∧
    (¬ left → s.order.read s.logAgent .load 1 entry 16 = .ok (bs, u) →
      (mode = 1 → ofBytes (bs.take 8) = key.toNat ∨ ofBytes bs = 0 → u.order.checkPart u.logAgent .store entry 16 = .ok (pa, v) →
        let w := v.physWrite pa (toBytes 8 key.toNat ++ toBytes 8 s.t.digest.toNat)
        Claim.sound w g → ∃ t, fence = .next t ∧ Claim.commits w t g) ∧
      (mode = 2 → ofBytes (bs.take 8) = key.toNat →
        (ofBytes (bs.drop 8) = s.t.digest.toNat → Claim.sound u g → ∃ t, fence = .next t ∧ Claim.commits u t g) ∧
        (ofBytes (bs.drop 8) ≠ s.t.digest.toNat →
          (g.failed = true ∨ g.recoverable = false → ∃ t, fence = .next t ∧ Claim.ended u t s.t.ctx cause.digest s.t.pc key) ∧
          (g.failed = false → g.recoverable = true → ∃ t, fence = .next t ∧ Claim.rolledBack u t g))))

/-- The shadow of an open segment (R430, R432): the task reads the shadow's bytes wherever it holds them; a store goes to the shadow, not to memory, and into DIGEST byte by
byte; where that takes more than 4096 lines, the shadow and the held integer adds are published first, and the segment can no longer be rolled back. -/
def Claim.SegmentShadow : Prop :=
  ∀ (imm : BitVec 12) (rs2 rs1 : Reg) (s u : State) (g : Segment) (pa : Nat), Claim.openSegment u g →
    let ea := s.t.readX rs1 + BitVec.ofInt 64 imm.toInt
    let bs := toBytes 8 (s.t.readX rs2).toNat
    let lines := (pa / 128 :: g.shadow.map fun e => e.1 / 128).dedup.length
    let puts := fun (P : State → Segment → Prop) => ∃ t h, exec (.sd rs2 rs1 imm) s = .next t ∧ t.mySegment = some h ∧ h.closed = false ∧ h.number = g.number ∧
      h.floats = g.floats ∧ h.checkpoint = g.checkpoint ∧ (∀ a, Claim.shadowed h (Claim.byte t) a = Claim.put (t.byteFor t.agent) pa bs a) ∧
      t.t.digest = bs.zipIdx.foldl (fun d b => Claim.digest d (ea + BitVec.ofNat 64 b.2) b.1) u.t.digest ∧ P t h
    (∀ a, u.byteFor u.agent a = Claim.shadowed g (Claim.byte u) a) ∧
    (Claim.passes s u .store ea 8 pa → Claim.atOnce u 8 pa → pa % 8 = 0 →
      (lines ≤ 4096 → puts fun t h => t.mem = u.mem ∧ h.recoverable = g.recoverable ∧ h.adds = g.adds ∧
        ∀ a, a < pa ∨ pa + 8 ≤ a → t.byteFor t.agent a = u.byteFor u.agent a) ∧
      (4096 < lines → Claim.sound u g → puts fun t h => (∀ a, Claim.byte t a = Claim.committed g (Claim.byte u) a) ∧ h.recoverable = false ∧ h.adds = []))

/-- One fold of a digest into the digest of the tree above it (R436). -/
def Claim.folded (acc x : DWord) : DWord :=
  let low := fun (x : DWord) => (BitVec.ofNat 32 x.toNat : Word)
  let high := fun (x : DWord) => (BitVec.ofNat 32 (x.toNat / 2 ^ 32) : Word)
  let l := Claim.mix (low acc ^^^ low x) (high acc)
  let h := Claim.mix (high acc ^^^ high x) l
  BitVec.ofNat 64 (h.toNat * 2 ^ 32 + l.toNat)

/-- The digest of a launch (R436): a node's digest is its own with those of its children folded in, in rising number; that of the whole tree is checked under
key(launch, 0xFFFFFFFF) OR 1 at the launch's end; the token becomes done behind it, and a failure ends the context. -/
def Claim.LaunchDigests : Prop :=
  ∀ (k : Nat) (nodes l : List TaskNode) (n : TaskNode) (s : State) (o : EngineOp),
    (l.Perm (nodes.filter fun m => m.parent == n.id) → (l.map fun m => m.c).Pairwise (· < ·) →
      treeDigest nodes (k + 1) n = l.foldl (fun acc m => Claim.folded acc (treeDigest nodes k m)) n.digest) ∧
    (o.ctx = s.t.ctx → s.ctx.det = true → (∀ q ∈ s.ops, q.kind ≠ .rcast) → (∀ a ∈ s.ctx.adds, a.launch ≠ o.id) →
      let key : DWord := Claim.key o.key 0xFFFFFFFF ||| 1
      let d := treeDigest s.ctx.nodes (s.ctx.nodes.length + 1) { id := o.node, parent := 0, c := 0, key := o.key, digest := 0 }
      let entry := s.ctx.diglog.toNat / 16 % 2 ^ 44 * 16 + 16 * (key.toNat / 2 % 2 ^ (s.ctx.digctl.toNat / 2 ^ 8 % 16 + 8))
      let mode := s.ctx.digctl.toNat % 4
      let done := fun (u : State) => ({ u with pipes := u.pipes.filter fun p => p.launch != o.id } : State).finalOp o 3 0 0
      ∃ w : State, w.mem = s.mem ∧ w.pos = s.pos ∧ s.stamp < w.stamp ∧ w.pipes = s.pipes ∧ w.ops = s.ops ∧ (mode = 0 → s.endLaunch o = done w) ∧
        ∀ bs u, mode = 2 → w.order.read w.logAgent .load 1 entry 16 = .ok (bs, u) → ofBytes (bs.take 8) = key.toNat →
          (ofBytes (bs.drop 8) = d.toNat → s.endLaunch o = done u) ∧
          (ofBytes (bs.drop 8) ≠ d.toNat → Claim.ended u (s.endLaunch o) o.ctx cause.digest 0 key))

/-- The held floating-point adds of a launch (R159, R437): of two adds, held in either order, that of the task, then of the word, then of the element which comes first is made first; each is rounded once, with its flags. -/
def Claim.HeldFloatAdds : Prop :=
  ∀ (s : State) (launch : Nat) (a b : HeldAdd), s.ctx.adds = [a, b] ∨ s.ctx.adds = [b, a] → a.launch = launch → b.launch = launch →
    (a.node = b.node ∧ (a.seq < b.seq ∨ a.seq = b.seq ∧ a.idx < b.idx) ∨
      (s.ctx.nodes.map fun n => n.id).Nodup ∧ ∃ x ∈ s.ctx.nodes, ∃ y ∈ s.ctx.nodes, a.node = x.id ∧ b.node = y.id ∧ x.parent = y.parent ∧ x.c < y.c) →
    (∀ h ∈ [a, b], s.ownsByte s.t.ctx h.pa = true ∧ s.lineOk (h.pa / 128) = true) →
    let old := fun (m : Nat → Byte) (h : HeldAdd) => ofBytes ((List.range h.bytes).map fun i => m (h.pa + i))
    let sum := fun (m : Nat → Byte) (h : HeldAdd) =>
      let f := if h.bf16 then bf16 else if h.bytes = 2 then f16 else if h.bytes = 4 then f32 else f64
      Claim.sum f h.frm h.flush (f.read h.flush (old m h)) (f.read h.flush h.val.toNat)
    let once := fun (m : Nat → Byte) (h : HeldAdd) => Claim.put m h.pa (toBytes h.bytes (sum m h).1)
    let first := once (Claim.byte s) a
    let r := s.performAdds s.t.ctx launch
    (∀ x, Claim.byte r.2 x = once first b x) ∧ r.1 = (sum (Claim.byte s) a).2 ||| (sum first b).2 ∧ r.2.ctx.adds = []

/-- The ten AMOs in both widths, each a commit point of a task; and the segments that the commit points of the tasks of a deterministic context end: their shadow, the check and the rollback, the digest of a launch and its
held additions. Where it rests on the model's own reading: assumptions 5, 16, 18, 82, 90, 92 of the log. -/
def Obligations.AtomicWords : Prop :=
  Claim.AtomicSteps ∧ Claim.SegmentsCommit ∧ Claim.SegmentShadow ∧ Claim.LaunchDigests ∧ Claim.HeldFloatAdds

/-! ### Translation -/

/-- The 8-byte entry at a stack address (R372). -/
def Claim.entry (s : State) (a : Nat) : Nat := ofBytes (bytesAt s.mem a 8)

/-- A well-formed table entry of a partition: valid, reserved bits zero, and its table aligned in the stack (R373, R375). -/
def Claim.isTable (s : State) (part e align : Nat) : Prop :=
  e % 2 = 1 ∧ e / 2 % 2 ^ 7 = 0 ∧ e / 2 ^ 60 = 0 ∧ e / 2 ^ 8 % 2 ^ 52 * 256 % align = 0 ∧
  s.inStack part (e / 2 ^ 8 % 2 ^ 52 * 256) = true

/-- A well-formed leaf of a page of 2^log bytes: valid, reserved bits zero, SPACE below 3, PA clear below the page (R374). -/
def Claim.isLeaf (e log : Nat) : Prop :=
  e % 2 = 1 ∧ e / 2 % 8 ≠ 0 ∧ e / 2 ^ 62 = 0 ∧ e / 2 ^ 60 % 4 ≠ 3 ∧ e / 2 ^ 5 % 8 = 0 ∧ e / 2 ^ 16 % 2 ^ 44 * 2 ^ 16 % 2 ^ log = 0

/-- The permission of a leaf (R375): where its address may lie, level 0 with U, and R, W, both, or X for the access. -/
def Claim.permits (s : State) (part : Nat) (level : Bool) (acc : Access) (e pa : Nat) : Prop :=
  (if e / 2 ^ 60 % 4 = 0 then s.inStack part pa = true else s.inPool part pa (e / 2 ^ 60 % 4 == 2) = true) ∧
  (level = true ∨ e / 2 ^ 4 % 2 = 1) ∧
  (acc = .load ∨ acc = .source ∨ acc = .amo → e / 2 % 2 = 1) ∧
  (acc = .store ∨ acc = .dest ∨ acc = .amo → e / 2 ^ 2 % 2 = 1) ∧
  (acc = .fetch → e / 2 ^ 3 % 2 = 1)

/-- The walk of four levels (R371 to R375), with no cached translation used and every table line sound: a leaf of 1 GiB,
2 MiB or 64 KiB gives its page's address and format region or, where it does not permit the access, the permission
cause; an entry that is neither a well-formed table entry nor, below level 4, a well-formed leaf gives the translation
cause, and so do a table that no longer lies in the partition's stack (R365) and an address of more than 48 bits. -/
def Claim.PageWalk : Prop :=
  ∀ (s : State) (ag : Agent) (acc : Access) (va : Nat), s.ch.useCached = false → (∀ line, s.lineOk line = true) →
    let c := s.ctxAt ag.ctx
    let root := c.ptbase.toNat / 2 ^ 12 % 2 ^ 48 * 4096
    let e4 := Claim.entry s (root + 8 * (va / 2 ^ 39 % 512))
    let e3 := Claim.entry s (e4 / 2 ^ 8 % 2 ^ 52 * 256 + 8 * (va / 2 ^ 30 % 512))
    let e2 := Claim.entry s (e3 / 2 ^ 8 % 2 ^ 52 * 256 + 8 * (va / 2 ^ 21 % 512))
    let e1 := Claim.entry s (e2 / 2 ^ 8 % 2 ^ 52 * 256 + 8 * (va / 2 ^ 16 % 32))
    let no := fun (k : Cause) => s.translate ag acc va = .error (.trap k (BitVec.ofNat 64 va), s)
    let page := fun (e log : Nat) =>
      let at_ := e / 2 ^ 16 % 2 ^ 44 * 2 ^ 16 + va % 2 ^ log
      let pa := if e / 2 ^ 60 % 4 = 0 then at_ else poolBase + at_
      (Claim.permits s c.part ag.level acc e (pa % poolBase) → ∃ u, s.translate ag acc va = .ok ((pa, e / 2 ^ 8 % 2 ^ 8), u)) ∧
      (¬ Claim.permits s c.part ag.level acc e (pa % poolBase) → no cause.permission)
    (2 ^ 48 ≤ va → no cause.translation) ∧
    (va < 2 ^ 48 → (acc = .fetch ∨ ag.core = none ∨ va < c.spbase.toNat ∨ c.spbase.toNat + 2 ^ 21 ≤ va) →
      (s.inStack c.part root = false ∨ ¬ Claim.isTable s c.part e4 4096 → no cause.translation) ∧
      (s.inStack c.part root = true → Claim.isTable s c.part e4 4096 →
        (Claim.isLeaf e3 30 → page e3 30) ∧
        (¬ Claim.isTable s c.part e3 4096 → ¬ Claim.isLeaf e3 30 → no cause.translation) ∧
        (Claim.isTable s c.part e3 4096 →
          (Claim.isLeaf e2 21 → page e2 21) ∧
          (¬ Claim.isTable s c.part e2 256 → ¬ Claim.isLeaf e2 21 → no cause.translation) ∧
          (Claim.isTable s c.part e2 256 →
            (Claim.isLeaf e1 16 → page e1 16) ∧
            (¬ Claim.isLeaf e1 16 → no cause.translation)))))

/-- The scratchpad window (R371): a thread's access below its core's scratchpad size reaches the scratchpad of its core and
context without a page table, with region 0; beyond the size it meets the translation cause. -/
def Claim.ScratchpadWindow : Prop :=
  ∀ (s : State) (acc : Access) (va : Nat), acc ≠ .fetch → va < 2 ^ 48 →
    s.ctx.spbase.toNat ≤ va → va < s.ctx.spbase.toNat + 2 ^ 21 →
    (va - s.ctx.spbase.toNat < s.core.spcap * 2 ^ 18 →
      s.translate s.agent acc va = .ok ((scratchBase (coreOf s.pos) s.t.ctx + (va - s.ctx.spbase.toNat), 0), s)) ∧
    (s.core.spcap * 2 ^ 18 ≤ va - s.ctx.spbase.toNat →
      s.translate s.agent acc va = .error (.trap cause.translation (BitVec.ofNat 64 va), s))

/-- The scalar loads and stores, with the traps of their accesses and the scalar access queue (R104 to R107, R385). Where it
rests on the model's own reading: assumptions 14, 92 of the log. -/
def Obligations.ScalarMemoryWords : Prop :=
  Claim.ScalarLoads ∧ Claim.ScalarStores ∧ Claim.ScalarAccessFaults ∧ Claim.ScalarQueue

/-- Translation by page walk, the checks of an access and the scratchpad window (R372 to R378, R449).
Where it rests on the model's own reading: assumptions 14, 15, 89 of the log. -/
def Obligations.TranslationAndAccessChecks : Prop :=
  Claim.AccessChecksChangeOnlyCaches ∧ Claim.PageWalk ∧ Claim.ScratchpadWindow


/-! ### Traps and the system words -/

/-- A scalar word that meets a cause with no handler active and the handler enabled (R382, R384, R385): the cause, the
value, the word's address, where the stream resumes, the level before, a time at or after every step of the thread;
level 1 at the handler's address; a PARK's woken mark cleared (R261); every other register, the queues and memory as they were. -/
def Claim.TrapEntrySavesAndGoesToHandler : Prop :=
  ∀ (s : State) (c : Cause) (v : DWord), s.t.inTrap = false → s.ctx.trapvec.getLsbD 0 = true →
    ∃ (t : State) (n : Nat), Claim.traps s c v = .next t ∧ s.t.lastStamp ≤ n ∧ s.t.lastVector ≤ n ∧
      t = { s with
        tick := s.tick + 1
        parks := s.parks.filter fun k => k.pos != s.pos
        t := { s.t with
          trapcause := c.setWidth 64, trapval := v, trappc := s.t.pc
          trapspc := if c = cause.call ∨ c = cause.break_ then s.t.pc + 4 else s.t.pc
          traplane := 0, traptime := BitVec.ofNat 64 n, trapstat := (if s.t.level then 3 else 2), level := true
          wait := none, woken := false, pc := s.ctx.trapvec &&& 0xFFFFFFFFFFFC } }

/-- A trap met in a handler ends the context with double-trap, its report carrying the second cause; with the handler not
enabled it ends with the cause itself (R385, R386, R390). -/
def Claim.TrapWithoutHandlerEndsContext : Prop :=
  ∀ (s : State) (c : Cause) (v : DWord),
    (s.t.inTrap = true → ∃ t, Claim.traps s c v = .next t ∧
      Claim.ended s t s.t.ctx cause.double s.t.pc (c.setWidth 64)) ∧
    (s.t.inTrap = false → s.ctx.trapvec.getLsbD 0 = false → ∃ t, Claim.traps s c v = .next t ∧
      Claim.ended s t s.t.ctx c s.t.pc v)

/-- SCALL and SBRK take their causes in every state, and ILLEGAL_WORD takes illegal-instruction with the word (R35, R384, R390). -/
def Claim.CallBreakAndIllegalWordsTrap : Prop :=
  ∀ (w : Word) (s : State),
    exec .scall s = Claim.traps s cause.call 0 ∧ exec .sbrk s = Claim.traps s cause.break_ 0 ∧
    exec (.illegalWord w) s = Claim.traps s cause.illegal (w.setWidth 64)

/-- The queue's oldest entry is a MODET. -/
def Claim.modetFirst (q : List VEntry) : Bool :=
  match q with
  | [] => false
  | e :: _ => match e.instr with | .modet _ => true | _ => false

/-- A MODET that stands at the head of the queue waits for the tile unit from then on, behind the earlier waiters (R193). -/
def Claim.arrived (s : State) : State :=
  if Claim.modetFirst s.t.queue = true ∧ s.pos % 4 ∉ s.core.tileWaiters then
    { s with core := { s.core with tileWaiters := s.core.tileWaiters ++ [s.pos % 4] } }
  else s

/-- SRET (R94, R193, R391): at INTRAP 0 illegal, at level 0 privilege; otherwise, where the vector side does not move at once or has
nothing to do, it completes: the level before the trap, INTRAP, SKIP and RECAP cleared, the stream at TRAPSPC, or where the
loop check sends a word that completes with TRAPSPC as its next address; for a trap of the vector side the trapped entry
removed under SKIP and the oldest one's modes captured anew under RECAP. -/
def Claim.ReturnFromTrap : Prop :=
  ∀ (s : State),
    let t := s.t
    let vside := t.trapcause.getLsbD 8
    let loops := t.lcount ≠ 0 ∧ t.pc = t.lend ∧ t.trapspc = t.pc + 4
    let skipped := match t.queue with
      | [] => []
      | e :: r => if vside ∧ t.trapstat.getLsbD 2 ∧ e.addr = t.trappc then r else e :: r
    let queue := match skipped with
      | [] => []
      | e :: r => if vside ∧ t.trapstat.getLsbD 3 then
          { e with frm := t.frm, gmode := t.gmode, sthresh := t.sthresh, lbypass := t.lbypass } :: r else e :: r
    (t.inTrap = false → exec .sret s = Claim.traps s cause.illegal 0x200073) ∧
    (t.inTrap = true → t.level = false → exec .sret s = Claim.traps s cause.privilege 0x200073) ∧
    (t.inTrap = true → t.level = true → s.ch.runAhead = true ∨ queue = [] ∧ t.posted = [] ∧ t.scalars = [] →
      exec .sret s = .next (Claim.arrived { s with t := { t with
        level := t.trapstat.getLsbD 0, trapstat := t.trapstat &&& 1, wait := none, queue := queue
        lcount := if loops then t.lcount - 1 else t.lcount
        pc := if loops ∧ 1 < t.lcount.toNat then t.lstart else t.trapspc } }))

/-- The status registers and what each reads (R46, R369, R382, R433), but LTIME, whose value is not fixed. -/
def Claim.statusTable (s : State) : List (Nat × DWord) :=
  let t := s.t
  [(0x000, t.vl.setWidth 64), (0x001, t.vtype), (0x002, match t.queue with | [] => 0 | e :: _ => e.addr),
   (0x003, t.vrsi), (0x004, t.vrss), (0x005, t.fflags.setWidth 64), (0x006, t.frm.setWidth 64),
   (0x007, if t.gmode then 1 else 0), (0x008, t.tshape), (0x009, t.lcount), (0x00A, t.lstart), (0x00B, t.lend),
   (0x00C, t.lbypass), (0x00E, t.taskix), (0x00F, t.digest), (0x010, BitVec.ofNat 64 (s.pos % 4)),
   (0x011, BitVec.ofNat 64 (s.pos / 4 % 8)), (0x012, BitVec.ofNat 64 (s.pos / 32 % 16)), (0x013, BitVec.ofNat 64 (s.pos / 512)),
   (0x014, BitVec.ofNat 64 s.ctx.pkgid), (0x015, t.stageid.setWidth 64), (0x016, t.sthresh.setWidth 64),
   (0x100, BitVec.ofNat 64 ((if s.ctx.det then 2 ^ 16 else 0) + s.ctx.part % 32 * 2 ^ 10 + t.ctx % 1024)),
   (0x122, BitVec.ofNat 64 (s.core.tilecapK % 128 * 2 ^ 8 + s.core.tilecapZn % 8)),
   (0x101, s.ctx.ptbase), (0x102, s.ctx.frtbase), (0x103, s.ctx.spbase), (0x104, s.ctx.marchsel.setWidth 64), (0x105, t.fgbase),
   (0x110, s.ctx.trapvec), (0x111, t.trapcause), (0x112, t.trapval), (0x113, t.trappc), (0x114, t.trapspc), (0x115, t.traptime),
   (0x116, t.trapstat), (0x117, t.traplane), (0x118, t.trapscr), (0x120, BitVec.ofNat 64 s.core.rowcap),
   (0x121, s.core.lanecap.setWidth 64), (0x123, BitVec.ofNat 64 s.core.spcap), (0x124, BitVec.ofNat 64 s.ctx.latclass),
   (0x130, s.ctx.diglog), (0x131, s.ctx.digctl)]

/-- The registers whose read waits for the queue (R49, R196). -/
def Claim.waitsForQueue : List Nat := [0, 1, 3, 4, 5, 8]

/-- SRD, and READ_VECTOR_STATUS and READ_TSHAPE for their registers (R46, R49, R196, R369, R382, R389, R433, R469): with the
level and, outside a handler, an empty queue where the register's read waits for it, it completes with the register's value
in x[rd], the model's counter of free values moved on, and nothing else changed; LTIME reads a time at or after the
thread's last step; a number that names no register is illegal, a privileged one at level 0 is privilege. -/
def Claim.StatusRegisterReads : Prop :=
  ∀ (rd : Reg) (s : State),
    let put := fun (v : DWord) => Host.Outcome.next (φ := Fault) (ρ := Refusal) (({ s with tick := s.tick + 1 } : State).setX rd v).advance
    (∀ e ∈ Claim.statusTable s, (0x100 ≤ e.1 → s.t.level = true) →
      (e.1 ∈ Claim.waitsForQueue → s.t.queue = [] ∨ s.t.inTrap = true) →
      exec (.srd (BitVec.ofNat 12 e.1) rd) s = put e.2 ∧
      (e.1 ∈ [0, 1, 3, 4, 5] → exec (.readVectorStatus (BitVec.ofNat 12 e.1) rd) s = put e.2) ∧
      (e.1 = 8 → exec (.readTshape rd) s = put e.2)) ∧
    (∃ n, s.t.lastStamp ≤ n ∧ exec (.srd 0x00D rd) s = put (BitVec.ofNat 64 n)) ∧
    (∀ e ∈ Claim.statusTable s, 0x100 ≤ e.1 → s.t.level = false →
      exec (.srd (BitVec.ofNat 12 e.1) rd) s =
        Claim.traps s cause.privilege ((encode (.srd (BitVec.ofNat 12 e.1) rd)).setWidth 64)) ∧
    (∀ n : Nat, 0x17 ≤ n ∧ n < 0x100 ∨ 0x106 ≤ n ∧ n < 0x110 ∨ 0x119 ≤ n ∧ n < 0x120 ∨ 0x125 ≤ n ∧ n < 0x130 ∨ 0x132 ≤ n ∧ n < 0x1000 →
      exec (.srd (BitVec.ofNat 12 n) rd) s =
        Claim.traps s cause.illegal ((encode (.srd (BitVec.ofNat 12 n) rd)).setWidth 64)) ∧
    (∀ n ∈ Claim.waitsForQueue, s.t.queue ≠ [] → s.t.inTrap = false →
      exec (.srd (BitVec.ofNat 12 n) rd) s = .next { s with t := { s.t with wait := some { kind := .hold } } })

/-- The three status writes of a register (R389). -/
def Claim.statusWrites (n : Nat) (rs1 : Reg) (old x : DWord) : List (Instr × DWord) :=
  let r := BitVec.ofNat 12 n
  [(.swr r rs1, x), (.sset r rs1, old ||| x), (.sclr r rs1, old &&& ~~~x)]

/-- SWR, SSET and SCLR of the registers that take their value at once (R46, R95, R382, R389), and WRITE_VECTOR_STATUS, WRITE_FRM and
WRITE_LOOP_REGISTERS for theirs: each completes with the new value, reserved bits ignored; an FRM of 5 to 7 leaves it; a write
of LEND into the running pass also ends the loop at its next check; a write of a read-only register, privileged or not, and
one of a number that names no register, is illegal at either level (R34, R369, R382). -/
def Claim.StatusRegisterWrites : Prop :=
  ∀ (rs1 : Reg) (s : State),
    let t := s.t
    let x := t.readX rs1
    let to_ := fun (n : Nat) (old : DWord) (f : DWord → Thread) =>
      (0x100 ≤ n → t.level = true) → (n ∈ [3, 4, 5] → t.queue = [] ∨ t.inTrap = true) →
      ∀ e ∈ Claim.statusWrites n rs1 old x, exec e.1 s = .next ({ s with t := f e.2 } : State).advance
    let row := fun (n : Nat) (old : DWord) (f : DWord → Thread) (mk : StatusOp → Instr) =>
      (n ∈ [3, 4, 5] → t.queue = [] ∨ t.inTrap = true) →
      exec (mk .swr) s = .next ({ s with t := f x } : State).advance ∧
      exec (mk .sset) s = .next ({ s with t := f (old ||| x) } : State).advance ∧
      exec (mk .sclr) s = .next ({ s with t := f (old &&& ~~~x) } : State).advance
    let lend := fun (v : DWord) => { t with
      lend := v, lcount := if t.lcount ≠ 0 ∧ t.lstart.toNat ≤ v.toNat ∧ v.toNat < t.pc.toNat then 1 else t.lcount }
    let frm := fun (v : DWord) => if v.toNat % 8 ≤ 4 then { t with frm := v.setWidth 3 } else t
    to_ 0x003 t.vrsi (fun v => { t with vrsi := v &&& 0x3FFF }) ∧ to_ 0x004 t.vrss (fun v => { t with vrss := v }) ∧
    to_ 0x005 (t.fflags.setWidth 64) (fun v => { t with fflags := v.setWidth 6 }) ∧
    to_ 0x006 (t.frm.setWidth 64) frm ∧ to_ 0x007 (if t.gmode then 1 else 0) (fun v => { t with gmode := v.getLsbD 0 }) ∧
    to_ 0x009 t.lcount (fun v => { t with lcount := v }) ∧ to_ 0x00A t.lstart (fun v => { t with lstart := v }) ∧
    to_ 0x00B t.lend lend ∧ to_ 0x00C t.lbypass (fun v => { t with lbypass := v }) ∧
    to_ 0x016 (t.sthresh.setWidth 64) (fun v => { t with sthresh := v.setWidth 32 }) ∧
    to_ 0x114 t.trapspc (fun v => { t with trapspc := v }) ∧ to_ 0x118 t.trapscr (fun v => { t with trapscr := v }) ∧
    to_ 0x116 t.trapstat (fun v => { t with trapstat := (t.trapstat &&& 2) ||| (v &&& 13) }) ∧
    (∀ n : Nat, n ∈ [0x000, 0x001, 0x002, 0x008, 0x00D, 0x00E, 0x00F, 0x010, 0x011, 0x012, 0x013, 0x014, 0x015, 0x100,
        0x111, 0x112, 0x113, 0x115, 0x117, 0x120, 0x121, 0x122, 0x123, 0x124] ∨
        0x17 ≤ n ∧ n < 0x100 ∨ 0x106 ≤ n ∧ n < 0x110 ∨ 0x119 ≤ n ∧ n < 0x120 ∨ 0x125 ≤ n ∧ n < 0x130 ∨ 0x132 ≤ n ∧ n < 0x1000 →
      ∀ e ∈ Claim.statusWrites n rs1 0 x, exec e.1 s = Claim.traps s cause.illegal ((encode e.1).setWidth 64)) ∧
    row 3 t.vrsi (fun v => { t with vrsi := v &&& 0x3FFF }) (fun k => .writeVectorStatus k 3 rs1) ∧
    row 4 t.vrss (fun v => { t with vrss := v }) (fun k => .writeVectorStatus k 4 rs1) ∧
    row 5 (t.fflags.setWidth 64) (fun v => { t with fflags := v.setWidth 6 }) (fun k => .writeVectorStatus k 5 rs1) ∧
    row 6 (t.frm.setWidth 64) frm (fun k => .writeFrm k rs1) ∧
    row 9 t.lcount (fun v => { t with lcount := v }) (fun k => .writeLoopRegisters k 9 rs1) ∧
    row 10 t.lstart (fun v => { t with lstart := v }) (fun k => .writeLoopRegisters k 10 rs1) ∧
    row 11 t.lend lend (fun k => .writeLoopRegisters k 11 rs1)

/-- An address lies in the page of a size that is named; every address, where none is named (R380). -/
def Claim.pageNamed (va : Option Nat) (size a : Nat) : Prop := ∀ v, va = some v → v / 2 ^ size = a / 2 ^ size

/-- A posted element or a scalar access of a thread of the context, translated through a page that is named, has not been performed
(R157, R380): of a handle store, a byte that waits for its publish counts too; of a read that runs on into the next page, any page. -/
def Claim.translatedLeft (s : State) (ctx : Nat) (va : Option Nat) : Prop :=
  ∃ e ∈ s.allThreads, e.2.live = true ∧ e.2.ctx = ctx ∧
    ((∃ a ∈ e.2.scalars, a.page ≠ 0 ∧ (Claim.pageNamed va a.page a.va.toNat ∨ a.more ≠ [] ∧ 2 ^ 16 - 64 < a.va.toNat % 2 ^ 16)) ∨
      ∃ o ∈ e.2.posted, if o.kind = .handle then
          (∃ p ∈ o.shadow, Claim.pageNamed va p.page p.va.toNat) ∨ ∃ x ∈ o.elems, ∃ p ∈ x.puts, Claim.pageNamed va p.page p.va.toNat
        else ∃ x ∈ o.elems, Claim.pageNamed va x.page x.va.toNat)

/-- A word that makes accesses is queued in some thread of the context, live or switched out, not counting the entries that a trap
handler holds of its own thread (R370, R469). -/
def Claim.accessQueued (s : State) (ctx : Nat) : Prop :=
  (∃ e ∈ s.allThreads, e.2.live = true ∧ e.2.ctx = ctx ∧ ¬ (e.1 = s.pos ∧ e.2.inTrap = true) ∧
    ∃ w ∈ e.2.queue, makesAccess w.instr = true) ∨ ∃ e ∈ (s.ctxAt ctx).images, ∃ w ∈ e.2.queue, makesAccess w.instr = true

/-- A register of the context at its new value, one step of the machine having removed the context's cached translations
and its walks in flight (R370, R379): the context, the step, no translation of the context left, and memory as it was. -/
def Claim.rebased (s t : State) (x : Context) : Prop :=
  t.ctx = x ∧ s.stamp < t.stamp ∧ t.mem = s.mem ∧ t.t.x = s.t.x ∧ t.t.f = s.t.f ∧
  (∀ k, (∀ e ∈ (t.coreAt k).tlb, e.ctx ≠ s.t.ctx) ∧ ∀ e ∈ (t.bayAt k).tlb, e.ctx ≠ s.t.ctx) ∧ ∀ w ∈ t.walks, w.ctx ≠ s.t.ctx

/-- SWR, SSET and SCLR of the registers of a context (R370, R382, R389, R433), and WRITE_PTBASE, WRITE_SPBASE, WRITE_FRTBASE, WRITE_MARCHSEL
and WRITE_DIGEST_CONTROL: at level 1, with the value's reserved bits clear and nothing that the write waits for, each completes; a
refused value raises permission with the register's number and leaves it; at level 0 the word raises privilege. -/
def Claim.ContextRegisterWrites : Prop :=
  ∀ (rs1 : Reg) (k : StatusOp) (s : State),
    let c := s.ctx
    let x := s.t.readX rs1
    let value := fun (old : DWord) => match k with | .swr => x | .sset => old ||| x | .sclr => old &&& ~~~x
    let word := fun (n : Nat) => match k with
      | .swr => Instr.swr (BitVec.ofNat 12 n) rs1 | .sset => .sset (BitVec.ofNat 12 n) rs1 | .sclr => .sclr (BitVec.ofNat 12 n) rs1
    let clear := fun (v mask : DWord) => v &&& ~~~mask = 0
    let sets := fun (is : List Instr) (x : Context) => ∀ i ∈ is, exec i s = .next ({ s with ctx := x } : State).advance
    let moves := fun (is : List Instr) (x : Context) => ∀ i ∈ is, ∃ t, exec i s = .next t ∧ Claim.rebased s t x
    let refused := fun (n : Nat) (is : List Instr) => ∀ i ∈ is, exec i s = Claim.traps s cause.permission (BitVec.ofNat 64 n)
    let idle := ¬ Claim.translatedLeft s s.t.ctx none
    let waits := fun (is : List Instr) => ∀ i ∈ is, exec i s = .next { s with t := { s.t with wait := some { kind := .hold } } }
    (s.t.level = true →
      sets [word 0x110] { c with trapvec := value c.trapvec &&& 0x0000FFFFFFFFFFFD } ∧
      (clear (value s.t.fgbase) 0x0000FFFFFFFFFF80 →
        exec (word 0x105) s = .next ({ s with t := { s.t with fgbase := value s.t.fgbase } } : State).advance) ∧
      (¬ clear (value s.t.fgbase) 0x0000FFFFFFFFFF80 → refused 0x105 [word 0x105]) ∧
      (clear (value c.diglog) 0x0000FFFFFFFFFFF0 → sets [word 0x130, .writeDigestControl k 0x130 rs1] { c with diglog := value c.diglog }) ∧
      (¬ clear (value c.diglog) 0x0000FFFFFFFFFFF0 → refused 0x130 [word 0x130, .writeDigestControl k 0x130 rs1]) ∧
      (clear (value c.digctl) 0xF03 → value c.digctl &&& 3 ≠ 3 →
        sets [word 0x131, .writeDigestControl k 0x131 rs1] { c with digctl := value c.digctl }) ∧
      (¬ clear (value c.digctl) 0xF03 ∨ value c.digctl &&& 3 = 3 → refused 0x131 [word 0x131, .writeDigestControl k 0x131 rs1]) ∧
      ((value (c.marchsel.setWidth 64)).toNat < 3 → s.marchPending s.t.ctx = false →
        sets [word 0x104, .writeMarchsel k rs1] { c with marchsel := (value (c.marchsel.setWidth 64)).setWidth 2 }) ∧
      (3 ≤ (value (c.marchsel.setWidth 64)).toNat → refused 0x104 [word 0x104, .writeMarchsel k rs1]) ∧
      (clear (value c.ptbase) 0x0FFFFFFFFFFFF000 → s.inStack c.part (value c.ptbase).toNat = true →
        (idle → ¬ Claim.accessQueued s s.t.ctx → moves [word 0x101, .writePtbase k rs1] { c with ptbase := value c.ptbase }) ∧
        (¬ idle ∨ Claim.accessQueued s s.t.ctx → waits [word 0x101, .writePtbase k rs1])) ∧
      (¬ clear (value c.ptbase) 0x0FFFFFFFFFFFF000 ∨ s.inStack c.part (value c.ptbase).toNat = false →
        refused 0x101 [word 0x101, .writePtbase k rs1]) ∧
      (clear (value c.frtbase) 0x0000FFFFFFFFFF80 →
        (idle → moves [word 0x102, .writeFrtbase k rs1] { c with frtbase := value c.frtbase }) ∧
        (¬ idle → waits [word 0x102, .writeFrtbase k rs1])) ∧
      (¬ clear (value c.frtbase) 0x0000FFFFFFFFFF80 → refused 0x102 [word 0x102, .writeFrtbase k rs1]) ∧
      (clear (value c.spbase) 0x0000FFFFFFE00000 →
        (idle → ¬ Claim.accessQueued s s.t.ctx → s.copiesPending s.t.ctx = false →
          moves [word 0x103, .writeSpbase k rs1] { c with spbase := value c.spbase }) ∧
        (¬ idle ∨ Claim.accessQueued s s.t.ctx ∨ s.copiesPending s.t.ctx = true → waits [word 0x103, .writeSpbase k rs1])) ∧
      (¬ clear (value c.spbase) 0x0000FFFFFFE00000 → refused 0x103 [word 0x103, .writeSpbase k rs1])) ∧
    (s.t.level = false → ∀ n ∈ [0x101, 0x102, 0x103, 0x104, 0x105, 0x110, 0x114, 0x116, 0x118, 0x130, 0x131],
      exec (word n) s = Claim.traps s cause.privilege ((encode (word n)).setWidth 64))

/-- What SRD reads and SWR writes of every status register, and the registers of the context (R40 to R46, R111 to R118).
Where it rests on the model's own reading: assumptions 6, 41 of the log. -/
def Obligations.StatusRegisters : Prop :=
  Claim.StatusRegisterReads ∧ Claim.StatusRegisterWrites ∧ Claim.ContextRegisterWrites

/-- Taking a trap, into the handler or, with none, to the end of the context; the words whose effect is to trap; and the return (R112, R224, R383 to R390).
Where it rests on the model's own reading: assumptions 6, 11, 12, 40, 91 of the log. -/
def Obligations.TrapEntryAndReturn : Prop :=
  Claim.TrapEntrySavesAndGoesToHandler ∧ Claim.TrapWithoutHandlerEndsContext ∧ Claim.CallBreakAndIllegalWordsTrap ∧ Claim.LaneWordsIllegalInStream ∧ Claim.ReturnFromTrap


/-! ### Fences, barriers, parking, and the end of a thread -/

/-- The thread's word may end its segment without a check: no segment of a deterministic task is open (R429). -/
def Claim.noSegment (s : State) : Prop := s.mySegment = none

/-- Every earlier vector-side word of the thread has committed and nothing it has posted is left to perform; in a handler
the held entries do not count (R249, R251, R469). -/
def Claim.performed (s : State) : Prop := (s.t.queue = [] ∨ s.t.inTrap = true) ∧ s.t.posted = []

/-- A remote write or a message to another member, of the thread's, is on its way (R256). -/
def Claim.remoteLeft (s : State) : Prop :=
  ∃ o ∈ s.ops, o.issuer = s.pos ∧ o.ctx = s.t.ctx ∧
    (o.kind = .remoteWrite ∨ o.kind = .message ∧ o.addr.toNat % 2 ^ 12 ≠ s.ctx.pkgid)

/-- Which scatter-adds the thread's segment will hold is settled: the thread runs no task of a deterministic context or is in a
handler, or no lane block and no VSCADD that will find an integer type is queued, and no integer add is posted (R426, R429). -/
def Claim.addsSettled (s : State) : Prop :=
  s.ctx.det = false ∨ s.t.held = none ∨ s.t.inTrap = true ∨
    (∀ l e r, s.t.queue = l ++ e :: r → (∀ imm b, e.instr ≠ .vblk imm b) ∧
      ∀ p x b w d, e.instr = .vscadd p x b w d → vtIeee (configured s.t l).vtype = true) ∧ ∀ o ∈ s.t.posted, o.kind ≠ .addInt

/-- FVS, FSV, FVV and DFENCE (R247 to R252, R469): FVS completes once every earlier vector-side word has committed, DFENCE once
everything posted is performed as well, with scope .gang its remote writes and messages acknowledged; until then each waits.
FSV and FVV enter the queue as markers, at their own address, and complete, FVV once it is settled whether it is a commit point
(the model's reading: assumption 101 of the log); in a handler they complete at once. -/
def Claim.FenceWords : Prop :=
  ∀ (scope : BitVec 3) (s : State),
    (s.t.queue = [] ∨ s.t.inTrap = true → exec .fvs s = .next s.advance) ∧
    (s.t.queue ≠ [] → s.t.inTrap = false → exec .fvs s = Claim.held s) ∧
    (Claim.noSegment s → Claim.performed s → (scope = 5 → ¬ Claim.remoteLeft s) → exec (.dfence scope) s = .next s.advance) ∧
    (Claim.noSegment s → ¬ Claim.performed s ∨ scope = 5 ∧ Claim.remoteLeft s → exec (.dfence scope) s = Claim.held s) ∧
    (Claim.noSegment s →
      (s.t.inTrap = true → exec .fsv s = .next s.advance ∧ exec .fvv s = .next s.advance) ∧
      (¬ Claim.addsSettled s → exec .fvv s = Claim.held s) ∧
      (s.t.inTrap = false → s.ch.runAhead = true → s.t.usedSlots < 64 → ∀ i ∈ [Instr.fsv, .fvv],
        (i = .fvv → Claim.addsSettled s) →
        ∃ e, e.instr = i ∧ e.addr = s.t.pc ∧ e.seq = s.t.scalarCount ∧
          exec i s = .next (Claim.arrived ({ s with t := { s.t with queue := s.t.queue ++ [e] } } : State).advance)))

/-- A copy of an instruction line overlaps the n bytes at a of the thread in focus (R236): a byte of the range lies in its line in the
thread's context, or the thread's tables map a byte of the range into its physical line. Every copy is meant where all are. -/
def Claim.lineIn (s : State) (all : Bool) (e : FetchCopy) (a n : DWord) : Prop :=
  all = true ∨ ∃ b : Nat, a.toNat ≤ b ∧ b < a.toNat + n.toNat ∧
    (e.ctx = s.t.ctx ∧ b / 128 = e.va.toNat / 128 ∨
      ∃ leaf size u, s.leafFor s.agent (b / 2 ^ 16 * 2 ^ 16) = .ok ((leaf, size), u) ∧
        (leafAddress leaf size (b / 2 ^ 16 * 2 ^ 16) + b % 2 ^ 16) / 128 = e.pa / 128)

/-- The cores that a scope covers, seen from a thread slot (R253). -/
def Claim.coversCore (scope pos core : Nat) : Prop :=
  if scope ≤ 1 then core = pos / 4 else if scope = 2 then core / 8 = pos / 32 else if scope = 3 then core / 128 = pos / 512 else True

/-- The state with an access at the tail of the scalar access queue (R244). -/
def Claim.queued (s : State) (a : ScalarAcc) : State := { s with t := { (Claim.counted s).t with scalars := s.t.scalars ++ [a] } }

/-- IFENCE and ISYNC (R236, R237, R244): IFENCE completes as one step that removes, in the cores its scope covers, the copies of
instruction lines that its range overlaps, and no other copy; where it is deferred, or earlier scalar accesses are queued, that step
is a later one of the scalar access queue. ISYNC completes with what was fetched ahead discarded. Neither changes anything else. -/
def Claim.NewCodeWords : Prop :=
  ∀ (scope : BitVec 3) (rs2 rs1 : Reg) (s : State),
    let fences := fun (u t : State) (all : Bool) (a n : DWord) =>
      t = { u.orderThread with core := t.core, cores := t.cores } ∧
      ∀ k, t.coreAt k = { u.coreAt k with icache := (t.coreAt k).icache } ∧
        ∀ e, e ∈ (t.coreAt k).icache ↔ e ∈ (u.coreAt k).icache ∧
          ¬ (Claim.coversCore scope.toNat u.pos k ∧ Claim.lineIn u all e a n)
    exec .isync s = .next ({ s with t := { s.t with ahead := [] } } : State).advance ∧
    (s.ch.deferScalar = false → s.t.scalars = [] → ∃ t, exec (.ifence scope rs2 rs1) s = .next t.advance ∧
      fences s t (rs2 == 0) (s.t.readX rs1) (s.t.readX rs2)) ∧
    (s.ch.deferScalar = true ∨ s.t.scalars ≠ [] → exec (.ifence scope rs2 rs1) s = .next (Claim.queued s
      { kind := .ifence scope (rs2 == 0), bytes := 0, va := s.t.readX rs1, pa := 0, val := s.t.readX rs2 }).advance) ∧
    ∀ all a n l, s.t.scalars = { kind := .ifence scope all, bytes := 0, va := a, pa := 0, val := n } :: l →
      ∃ t, s.scalarStep = some t ∧ fences { s with t := { s.t with scalars := l } } t all a n

/-- The number under which the package keeps barrier b of a level for a slot: one of each core, bay, die and the package; a gang
barrier is a package barrier (R330, R335). -/
def Claim.barrierKey (level pos b : Nat) : Nat :=
  if level = 1 then pos / 4 * 32 + b else if level = 2 then (1152 + pos / 32) * 32 + b
  else if level = 3 then (1296 + pos / 512) * 32 + b else 1305 * 32 + b

/-- A barrier number is assigned to the context at a level (R330). -/
def Claim.assigned (s : State) (level b : Nat) : Prop := b < s.ctx.bars.getD (min level 4 - 1) 0

/-- The thread slots that a level spans (R332). -/
def Claim.spans (s : State) (level : Nat) : Nat :=
  if level = 1 then 4 else if level = 2 then 32 else if level = 3 then 512 else if level = 4 then 4608
  else 4608 * (match s.ctx.gang with | some g => g.members | none => 1)

/-- Every thread of the context has its event bit set (R392). -/
def Claim.events (s t : State) : Prop := ∀ e ∈ t.allThreads, e.2.live = true → e.2.ctx = s.t.ctx → e.2.ev = true

/-- A parked BWAIT: its level and barrier number, and the phase that it waits to see change (R334). -/
def Claim.barrierWait (l b : Nat) (phase : BitVec 16) : WaitRec :=
  { kind := .bwait, addr := BitVec.ofNat 64 (l * 256 + b), arg := phase.setWidth 64 }

/-- A slot's word waits, and its thread takes words: it is live, the arithmetic clock runs, and no other thread of its context
runs a segment again (R215, R435, R457). -/
def Claim.waiting (s : State) (w : WaitRec) : Prop := s.t.wait = some w ∧ s.mayRun = true

/-- BSET, BARV and BWAIT, and BWAIT_COMPLETE (R331 to R336): a barrier number beyond the assignment, a BSET of a barrier in use or of
a count beyond the level, a BARV of an idle barrier and a level that differs raise barrier-state. Otherwise BSET sets count and
level, BARV arrives, writes the phase as it stood, and at the last arrival of a core, bay, die or package barrier releases it
and sets EV; BWAIT completes when the phase differs, and otherwise parks until BWAIT_COMPLETE finds that it does.
Where it rests on the model's own reading: assumption 19 of the log. -/
def Obligations.NamedBarrierWords : Prop :=
  ∀ (level : BitVec 3) (rs2 rs1 rd : Reg) (pos : Nat) (s : State),
    let l := level.toNat
    let b := (s.t.readX rs1).toNat % 32
    let n := (s.t.readX rs2).toNat
    let phase : BitVec 16 := (s.t.readX rs2).setWidth 16
    let k := Claim.barrierKey l s.pos b
    let bar := s.barrier k
    let bad := fun (i : Instr) => exec i s = Claim.traps s cause.barrier (BitVec.ofNat 64 (l * 256 + b))
    let ready := Claim.noSegment s ∧ Claim.performed s ∧ (l = 5 → ¬ Claim.remoteLeft s)
    (Claim.assigned s l b → bar.arrived = 0 → n ≤ Claim.spans s l →
      ∃ t, exec (.bset level rs2 rs1) s = .next t ∧ t = { s.orderThread.advance with ctx := t.ctx } ∧
        t.ctx = { s.ctx with barriers := t.ctx.barriers } ∧
        ∀ j, t.barrier j = if j = k then { bar with expect := n, level := l } else s.barrier j) ∧
    (¬ Claim.assigned s l b ∨ bar.arrived ≠ 0 ∨ Claim.spans s l < n → bad (.bset level rs2 rs1)) ∧
    (ready → Claim.assigned s l b → bar.expect ≠ 0 → bar.level = l → l ≠ 5 ∨ bar.arrived + 1 ≠ bar.expect →
      ∃ t, exec (.barv level rs1 rd) s = .next t ∧ t.mem = s.mem ∧
        t.t.x = (s.setX rd (bar.phase.setWidth 64)).t.x ∧ t.t.pc = s.advance.t.pc ∧ t.t.v = s.t.v ∧ t.t.f = s.t.f ∧
        (∀ j, t.barrier j = if j ≠ k then s.barrier j
          else if bar.arrived + 1 = bar.expect then { bar with arrived := 0, phase := bar.phase + 1 }
          else { bar with arrived := bar.arrived + 1 }) ∧
        (bar.arrived + 1 = bar.expect → Claim.events s t)) ∧
    (ready → ¬ Claim.assigned s l b ∨ bar.expect = 0 ∨ bar.level ≠ l → bad (.barv level rs1 rd)) ∧
    (Claim.noSegment s → ¬ Claim.performed s ∨ l = 5 ∧ Claim.remoteLeft s → exec (.barv level rs1 rd) s = Claim.held s) ∧
    (¬ Claim.assigned s l b ∨ bar.level ≠ l → bad (.bwait level rs2 rs1)) ∧
    (Claim.assigned s l b → bar.level = l →
      (bar.phase ≠ phase → exec (.bwait level rs2 rs1) s = .next s.advance) ∧
      (bar.phase = phase →
        exec (.bwait level rs2 rs1) s = .next { s with t := { s.t with wait := some (Claim.barrierWait l b phase) } })) ∧
    (∀ (m j : Nat) (ph : BitVec 16), m < 8 → j < 32 → pos < slotCount →
      let v := s.focus pos
      let barrier := v.barrier (Claim.barrierKey m pos j)
      Claim.waiting v (Claim.barrierWait m j ph) → Claim.assigned v m j → barrier.level = m →
      (barrier.phase ≠ ph → exec (.bwaitComplete pos) s = .next (v.advance.focus s.pos)) ∧
      (barrier.phase = ph → exec (.bwaitComplete pos) s = .next (v.focus s.pos)))

/-- The read of a parked or parking word finds a value: where it lies, the state after the checks (which may have filled
translation caches), and the doubleword (R261). -/
def Claim.parkReads (s : State) (ea : DWord) (pa : Nat) (v : DWord) (u : State) : Prop :=
  ∃ r w bs, s.translate s.agent .load ea.toNat = .ok ((pa, r), w) ∧ w.read w.agent .load 1 ea.toNat 8 = .ok (bs, u) ∧
    v = BitVec.ofNat 64 (ofBytes bs)

/-- The record of the thread in focus is gone from the parked threads, its woken mark cleared. -/
def Claim.unparked (s : State) : State :=
  { s with parks := s.parks.filter (fun k => k.pos != s.pos), t := { s.t with woken := false } }

/-- What a park read that finds v against the expected value comes to: the word completes with v in x[rd] where v differs or
the thread was woken, and otherwise the thread is parked on the doubleword from this step on (R261). -/
def Claim.parkOutcome (u : State) (rd : Reg) (ea expected : DWord) (pa : Nat) (v : DWord) (woken : Bool) : State :=
  if v ≠ expected ∨ woken = true then ((Claim.unparked u.orderThread).setX rd v).advance
  else { u.orderThread with
    parks := { pos := u.pos, ctx := u.t.ctx, va := ea, pa := pa, since := u.orderThread.stamp } ::
      u.parks.filter (fun k => k.pos != u.pos)
    t := { u.orderThread.t with wait := some { kind := .park, addr := ea, arg := expected, rd := rd } } }

/-- A record is among the n of a list that come first by the stamp of their read, then by slot (R262). -/
def Claim.amongFirst (n : Nat) (l : List ParkRec) (k : ParkRec) : Prop :=
  (l.filter fun j => decide (j.since < k.since ∨ j.since = k.since ∧ j.pos < k.pos)).length < n

/-- The step of a WAKE (R262): up to n of the context's threads parked on the address within the scope, the longest parked first, are
marked, and no other, and x[rd] is their number. -/
def Claim.wakes (u t : State) (scope : BitVec 3) (ea : DWord) (pa n : Nat) (rd : Reg) : Prop :=
  let fits := fun (k : ParkRec) => k.ctx = u.t.ctx ∧ k.va = ea ∧ k.pa = pa ∧ k.woken = false ∧
    Claim.coversCore scope.toNat u.pos (k.pos / 4)
  ∃ l : List ParkRec, (∀ k, k ∈ l ↔ k ∈ u.parks ∧ fits k) ∧ l.Nodup ∧
    t = { (u.orderThread).setX rd (BitVec.ofNat 64 (min n l.length)) with parks := t.parks } ∧
    t.parks.length = u.parks.length ∧
    ∀ i (h : i < u.parks.length) (h' : i < t.parks.length),
      (u.parks[i] ∈ l ∧ Claim.amongFirst n l u.parks[i] → t.parks[i] = { u.parks[i] with woken := true }) ∧
      (¬ (u.parks[i] ∈ l ∧ Claim.amongFirst n l u.parks[i]) → t.parks[i] = u.parks[i])

/-- PARK, PARK_REREAD and WAKE (R260 to R263): an address that is no multiple of 8 raises misaligned-access. PARK completes with
the doubleword when it differs from x[rs2] or the thread was woken, and parks otherwise; a parked thread whose doubleword a
step has written, or that a WAKE has selected, reads again. WAKE selects up to x[rs2] of the context's threads parked on its
address within its scope, the longest parked first, marks them and no other, and counts them in x[rd], at its word, or, where it is
deferred or stands behind queued scalar accesses, at a later step of the scalar access queue.
Where it rests on the model's own reading: assumptions 42, 92 of the log. -/
def Obligations.ParkAndWakeWords : Prop :=
  ∀ (scope : BitVec 3) (rs2 rs1 rd : Reg) (pos : Nat) (s u : State) (pa r : Nat) (v : DWord),
    let ea := s.t.readX rs1
    let expected := s.t.readX rs2
    (Claim.noSegment s → ea.toNat % 8 ≠ 0 → ∀ i ∈ [Instr.park rs2 rs1 rd, .wake scope rs2 rs1 rd],
      exec i s = Claim.traps s cause.misaligned ea) ∧
    (Claim.noSegment s → ea.toNat % 8 = 0 → Claim.parkReads s ea pa v u →
      exec (.park rs2 rs1 rd) s = .next (Claim.parkOutcome u rd ea expected pa v s.t.woken)) ∧
    (pos < slotCount → ∀ (w : WaitRec) (k : ParkRec), w.kind = .park →
      let y := s.focus pos
      Claim.waiting y w → Claim.noSegment y → y.myPark = some k →
      (k.poked = true ∨ k.woken = true → Claim.parkReads y w.addr pa v u →
        exec (.parkReread pos) s = .next ((Claim.parkOutcome u w.rd w.addr w.arg pa v (k.woken || y.t.woken)).focus s.pos)) ∧
      (k.poked = false → k.woken = false → exec (.parkReread pos) s = .next (y.focus s.pos))) ∧
    (Claim.noSegment s → ea.toNat % 8 = 0 → s.translate s.agent .load ea.toNat = .ok ((pa, r), u) →
      (u.ch.deferScalar = false → u.t.scalars = [] → (u.parks.map fun k => k.pos).Nodup →
        ∃ t, exec (.wake scope rs2 rs1 rd) s = .next t.advance ∧ Claim.wakes u t scope ea pa expected.toNat rd) ∧
      (u.ch.deferScalar = true ∧ u.inTask = false ∨ u.t.scalars ≠ [] → ∃ page, exec (.wake scope rs2 rs1 rd) s = .next (Claim.queued u
        { kind := .wake scope rd, bytes := 0, va := ea, pa := pa, val := expected, page := page }).advance)) ∧
    (∀ page l, s.t.scalars = { kind := .wake scope rd, bytes := 0, va := ea, pa := pa, val := v, page := page } :: l →
      (s.parks.map fun k => k.pos).Nodup →
      ∃ t, s.scalarStep = some t ∧ Claim.wakes { s with t := { s.t with scalars := l } } t scope ea pa v.toNat rd)

/-- WFE, WFE_WAKE and ATCINV (R379, R380, R392): WFE completes and clears EV where it is set and otherwise waits until WFE_WAKE
finds it set; ATCINV at level 0 raises privilege, and at level 1, once every access already translated through the page at x[rs1],
or for x0 through any page, is performed, one step removes the context's cached translations of that page, or of every page,
and the context's walks in flight, and no other. -/
def Claim.EventAndTranslationWords : Prop :=
  ∀ (rs1 : Reg) (pos : Nat) (s : State),
    let va := if rs1 = 0 then none else some (s.t.readX rs1).toNat
    let gone := fun (e : TlbEntry) => e.ctx = s.t.ctx ∧ (rs1 = 0 ∨ (s.t.readX rs1).toNat / 2 ^ e.size = e.page)
    (s.t.ev = true → exec .wfe s = .next ({ s with t := { s.t with ev := false } } : State).advance) ∧
    (s.t.ev = false → ∃ w : WaitRec, w.kind = .wfe ∧ exec .wfe s = .next { s with t := { s.t with wait := some w } }) ∧
    (pos < slotCount → ∀ w : WaitRec, w.kind = .wfe →
      let y := s.focus pos
      Claim.waiting y w →
      (y.t.ev = true → exec (.wfeWake pos) s = .next (({ y with t := { y.t with ev := false } } : State).advance.focus s.pos)) ∧
      (y.t.ev = false → exec (.wfeWake pos) s = .next (y.focus s.pos))) ∧
    (s.t.level = false → exec (.atcinv rs1) s = Claim.traps s cause.privilege ((encode (.atcinv rs1)).setWidth 64)) ∧
    (s.t.level = true → Claim.translatedLeft s s.t.ctx va → exec (.atcinv rs1) s = Claim.held s) ∧
    (s.t.level = true → ¬ Claim.translatedLeft s s.t.ctx va →
      ∃ t, exec (.atcinv rs1) s = .next t ∧
        t = { s with
          stamp := t.stamp, tick := t.tick, t := t.t, threads := t.threads, core := t.core, cores := t.cores
          bay := t.bay, bays := t.bays, walks := t.walks } ∧
        (∀ w, w ∈ t.walks ↔ w ∈ s.walks ∧ w.ctx ≠ s.t.ctx) ∧
        s.stamp < t.stamp ∧ t.t.x = s.t.x ∧ t.t.v = s.t.v ∧ t.t.pc = s.advance.t.pc ∧
        (∀ k e, (e ∈ (t.coreAt k).tlb ↔ e ∈ (s.coreAt k).tlb ∧ ¬ gone e) ∧
          (e ∈ (t.bayAt k).tlb ↔ e ∈ (s.bayAt k).tlb ∧ ¬ gone e)))

/-- HALT (R393, R469): it waits for the earlier vector-side words, but in a handler not for the held ones, and for everything
posted; a thread of no pipeline then ends: its slot is idle, the tile unit is free of it, its operations go on for nobody, memory
is as it was, and the context is finished in the package where no other of its threads is live or switched out. -/
def Claim.HaltEndsTheThread : Prop :=
  ∀ (s : State), Claim.noSegment s →
    (¬ Claim.performed s → exec .halt s = Claim.held s) ∧
    (s.pos < slotCount → Claim.performed s → s.t.held = none → s.t.pipe = none →
      ∃ t, exec .halt s = .next t ∧ t.t = idleThread s.t ∧ t.pos = s.pos ∧ t.threads = s.threads ∧ t.ctx = s.ctx ∧ t.mem = s.mem ∧
        t.core.tileOwner ≠ some (s.pos % 4) ∧ s.pos % 4 ∉ t.core.tileWaiters ∧
        (∀ o ∈ t.ops, o.ctx = s.t.ctx → o.issuer ≠ s.pos) ∧
        t.reports = if (∃ e ∈ t.threads, e.1 ≠ s.pos ∧ e.2.live = true ∧ e.2.ctx = s.t.ctx) ∨ s.ctx.images ≠ [] ∨ s.ctx.ended = true
          then s.reports else s.reports ++ [(Claim.headed t 0 6 s.t.ctx, .finished s.t.ctx)])

/-- The words that order a thread's two sides, make new code visible, change translations and counters, and end a thread.
Where it rests on the model's own reading: assumptions 41, 43, 44, 87, 92 of the log. -/
def Obligations.FenceEventAndHaltWords : Prop :=
  Claim.FenceWords ∧ Claim.NewCodeWords ∧ Claim.EventAndTranslationWords ∧ Claim.HaltEndsTheThread


/-! ### Vector words on a vector side at rest -/

/-- The vector side is at rest, with a legal type: no handler, nothing queued, posted or chained, no scalar access left to perform,
vector mode, the configuration of the queue that of the stream, and VL within the registers; the machine chooses to let a
queued word run at once. -/
def Claim.calm (s : State) : Prop :=
  s.t.inTrap = false ∧ s.t.queue = [] ∧ s.t.posted = [] ∧ s.t.scalars = [] ∧ s.t.chain = none ∧ s.t.tile = false ∧ s.t.tileSave = [] ∧
  s.ch.runAhead = false ∧ s.t.dvtype = s.t.vtype ∧ s.t.dvl = s.t.vl ∧ vtIll s.t.vtype = false ∧
  0 < s.t.lanes ∧ s.t.vl.toNat ≤ 128 * s.t.lanes

/-- The active elements: below VL, under the governing predicate (R115). -/
def Claim.active (s : State) (p : PReg) (i : Nat) : Bool := decide (i < s.t.vl.toNat) && s.t.pred p i

/-- The second source at element i (R119): an element of vs1, or a register's low bits, or the immediate, sign-extended or not. -/
def Claim.second (s : State) (form : Form) (s1 : Reg) (unsignedImm : Bool) (w i : Nat) : Nat :=
  match form with
  | .vv => s.t.elem s1.toNat w i
  | .vx => (s.t.readX s1).toNat % 2 ^ w
  | .vf => (s.t.readF s1).toNat % 2 ^ w
  | .vi => ((if unsignedImm then (s1.toNat : Int) else s1.toInt) % 2 ^ w).toNat

/-- The flags of the chosen elements below VL together (R63). -/
def Claim.flagsOf (s : State) (acts : Nat → Bool) (fl : Nat → Flags) : Flags :=
  (List.range s.t.vl.toNat).foldl (fun g i => if acts i then g ||| fl i else g) s.t.fflags

/-- What an element-wise word leaves (R45, R63, R115 to R118): with VL 0 nothing but its completion; otherwise the chosen elements
of vd at their values and every other element as it was, vd ungraded, their flags accrued, and nothing else changed. -/
def Claim.wroteVector (s t : State) (vd : VReg) (w : Nat) (acts : Nat → Bool) (val : Nat → Nat × Flags) : Prop :=
  (s.t.vl = 0 → t = s.advance) ∧
  (s.t.vl ≠ 0 →
    (∀ i, t.t.elem vd.toNat w i = if acts i then (val i).1 % 2 ^ w else s.t.elem vd.toNat w i) ∧
    (∀ r, r ≠ vd → t.t.readV r = s.t.readV r) ∧
    (∀ r, t.t.readTag r = if r = vd then 0x7FF else s.t.readTag r) ∧
    t = { s.advance with t := { s.advance.t with
      v := t.t.v, tags := t.t.tags, fflags := Claim.flagsOf s acts fun i => (val i).2 } })

/-- What a word that writes a predicate leaves (R42, R63, R131, R132): the chosen bits of pd at their values, every other bit and
predicate as they were, the flags accrued, and nothing else changed. A write to p0 has no effect on what p0 reads. -/
def Claim.wrotePred (s t : State) (pd : PReg) (acts : Nat → Bool) (val : Nat → Bool × Flags) : Prop :=
  (∀ q i, t.t.pred q i = if q = 0 then true else if q = pd ∧ acts i = true then (val i).1 else s.t.pred q i) ∧
  t = { s.advance with t := { s.advance.t with
    p := t.t.p, fflags := Claim.flagsOf s acts fun i => (val i).2 } }

/-- A word completes with what it wrote. -/
def Claim.writes (s : State) (i : Instr) (vd : VReg) (w : Nat) (acts : Nat → Bool) (val : Nat → Nat × Flags) : Prop :=
  ∃ t, exec i s = .next t ∧ Claim.wroteVector s t vd w acts val

/-- A word is refused at decode: the illegal-instruction trap with the word as its value (R36, R384). -/
def Claim.refused (s : State) (i : Instr) : Prop := exec i s = Claim.traps s cause.illegal ((encode i).setWidth 64)

/-- A word of the vector side that traps stays the oldest entry of its queue; the trap point is its address, and the scalar
stream resumes behind it (R223, R385). -/
def Claim.vectorTraps (s : State) (i : Instr) (c : Cause) (v : DWord) : Prop :=
  ∃ e, e.instr = i ∧ e.addr = s.t.pc ∧
    exec i s = .next (({ s with t := { s.t with queue := [e] } } : State).advance.takeTrap
      { cause := c, val := v, pc := s.t.pc, spc := s.advance.t.pc, vside := true, lane := none, group := false })

/-- VOPI (R120, R121): under an i or n type the sums, products, accumulations, minima and maxima; under a width above 4 the shifts,
by the low bits of b; under every type AND, OR and XOR. Each completes; under another type it is refused. -/
def Claim.VectorIntegerWords : Prop :=
  ∀ (p : PReg) (form : Form) (vs2 : VReg) (s1 : Reg) (vd : VReg) (s : State), Claim.calm s →
    let w := vtSew s.t.vtype
    let m : Nat := 2 ^ w
    let a := fun i => s.t.elem vs2.toNat w i
    let b := Claim.second s form s1 false w
    let n := fun i => Claim.second s form s1 true w i % w
    let d := fun i => s.t.elem vd.toNat w i
    let signed := fun (x : Nat) => Int.bmod x m
    let does := fun (i : Instr) (val : Nat → Nat) => Claim.writes s i vd w (Claim.active s p) fun i => (val i, 0)
    (vtFmt s.t.vtype ≤ 1 →
      does (.vadd p form vs2 s1 vd) (fun i => a i + b i) ∧
      does (.vsub p form vs2 s1 vd) (fun i => a i + m - b i) ∧
      does (.vmul p form vs2 s1 vd) (fun i => a i * b i) ∧
      does (.vmulh p form vs2 s1 vd) (fun i => (signed (a i) * signed (b i) / m % m).toNat) ∧
      does (.vmulhu p form vs2 s1 vd) (fun i => a i * b i / m) ∧
      does (.vmacc p form vs2 s1 vd) (fun i => d i + a i * b i) ∧
      does (.vmin p form vs2 s1 vd) (fun i => if signed (a i) ≤ signed (b i) then a i else b i) ∧
      does (.vmax p form vs2 s1 vd) (fun i => if signed (a i) ≤ signed (b i) then b i else a i) ∧
      does (.vminu p form vs2 s1 vd) (fun i => min (a i) (b i)) ∧
      does (.vmaxu p form vs2 s1 vd) (fun i => max (a i) (b i))) ∧
    (vtFmt s.t.vtype > 1 → ∀ i ∈ [Instr.vadd p form vs2 s1 vd, .vsub p form vs2 s1 vd, .vmul p form vs2 s1 vd,
        .vmulh p form vs2 s1 vd, .vmulhu p form vs2 s1 vd, .vmacc p form vs2 s1 vd, .vmin p form vs2 s1 vd, .vmax p form vs2 s1 vd,
        .vminu p form vs2 s1 vd, .vmaxu p form vs2 s1 vd], Claim.refused s i) ∧
    (w ≠ 4 →
      does (.vsll p form vs2 s1 vd) (fun i => a i * 2 ^ n i) ∧
      does (.vsrl p form vs2 s1 vd) (fun i => a i / 2 ^ n i) ∧
      does (.vsra p form vs2 s1 vd) (fun i => (signed (a i) / 2 ^ n i % m).toNat)) ∧
    (w = 4 → ∀ i ∈ [Instr.vsll p form vs2 s1 vd, .vsrl p form vs2 s1 vd, .vsra p form vs2 s1 vd], Claim.refused s i) ∧
    does (.vand p form vs2 s1 vd) (fun i => a i &&& b i) ∧
    does (.vor p form vs2 s1 vd) (fun i => a i ||| b i) ∧
    does (.vxor p form vs2 s1 vd) (fun i => a i ^^^ b i)

/-- An estimate of 1/√q for a positive q (R123): the largest number of 8 significant bits that is not above it. -/
def Claim.estimate (f : Fmt) (q : Rat) (w : Nat) : Prop :=
  ∃ m e : Int, 128 ≤ m ∧ m ≤ 255 ∧ f.value w = .num false (m * (2 : Rat) ^ e) ∧
    (m * (2 : Rat) ^ e) ^ 2 * q ≤ 1 ∧ 1 < ((m + 1) * (2 : Rat) ^ e) ^ 2 * q

/-- VOPF under an IEEE type (R60 to R65, R119, R122, R123): sums, products, quotients and fused sums of elements read under FLUSH
and rounded once by FRM, minima and maxima as FMIN and FMAX choose them, signs, classes and the estimate of 1/√a of 8
significant bits; under another type each is refused. -/
def Claim.VectorFloatWords : Prop :=
  ∀ (p : PReg) (form : Form) (vs2 : VReg) (s1 : Reg) (vd : VReg) (s : State), Claim.calm s →
    let w := vtSew s.t.vtype
    let fl := vtFlush s.t.vtype
    let f := vtIeeeFmt s.t.vtype
    let rm := s.t.frm
    let pa := fun i => s.t.elem vs2.toNat w i
    let pb := Claim.second s form s1 false w
    let a := fun i => f.read fl (pa i)
    let b := fun i => f.read fl (pb i)
    let c := fun i => f.read fl (s.t.elem vd.toNat w i)
    let top := 2 ^ (f.width - 1)
    let flushed := fun (x : Nat) => if fl = 2 ∧ x / 2 ^ f.mb % 2 ^ f.eb = 0 then x / top % 2 * top else x
    let does := fun (i : Instr) (val : Nat → Nat × Flags) => Claim.writes s i vd w (Claim.active s p) val
    (vtFmt s.t.vtype = 2 ∨ vtFmt s.t.vtype = 3 →
      does (.vfadd p form vs2 s1 vd) (fun i => Claim.sum f rm fl (a i) (b i)) ∧
      does (.vfsub p form vs2 s1 vd) (fun i => Claim.sum f rm fl (a i) (Claim.opposite (b i))) ∧
      does (.vfmul p form vs2 s1 vd) (fun i => let q := Claim.product (a i) (b i)
        ((Claim.once f rm fl q.1).1, q.2 ||| (Claim.once f rm fl q.1).2)) ∧
      does (.vfdiv p form vs2 s1 vd) (fun i => Claim.quotient f rm fl (a i) (b i)) ∧
      does (.vfsqrt p vs2 vd) (fun i => f.sqrt rm fl (a i)) ∧
      does (.vfmacc p form vs2 s1 vd) (fun i => Claim.fused f rm fl (Claim.product (a i) (b i)) (c i)) ∧
      does (.vfnmsac p form vs2 s1 vd) (fun i => Claim.fused f rm fl (Claim.product (Claim.opposite (a i)) (b i)) (c i)) ∧
      does (.vfmin p form vs2 s1 vd) (fun i => f.minMax false (flushed (pa i)) (flushed (pb i)) (a i) (b i)) ∧
      does (.vfmax p form vs2 s1 vd) (fun i => f.minMax true (flushed (pa i)) (flushed (pb i)) (a i) (b i)) ∧
      does (.vfsgnj p form vs2 s1 vd) (fun i => (pa i % top + pb i / top % 2 * top, 0)) ∧
      does (.vfclass p vs2 vd) (fun i => (f.classMask (flushed (pa i)), 0)) ∧
      ∃ near : Nat → Nat, does (.vfrsqrte p vs2 vd) (fun i => match a i with
        | .nan x => (f.nan, Claim.nv x false)
        | .inf m => if m then (f.nan, flagNV) else (f.zero false, 0)
        | .num m q => if q = 0 then (f.inf m, flagDZ) else if q < 0 then (f.nan, flagNV) else (near i, 0)) ∧
        ∀ i m q, a i = .num m q → 0 < q → near i < 2 ^ f.width ∧ Claim.estimate f q (near i)) ∧
    (vtFmt s.t.vtype ≠ 2 → vtFmt s.t.vtype ≠ 3 → ∀ i ∈ [Instr.vfadd p form vs2 s1 vd, .vfsub p form vs2 s1 vd,
        .vfmul p form vs2 s1 vd, .vfdiv p form vs2 s1 vd, .vfsqrt p vs2 vd, .vfmacc p form vs2 s1 vd, .vfnmsac p form vs2 s1 vd,
        .vfmin p form vs2 s1 vd, .vfmax p form vs2 s1 vd, .vfsgnj p form vs2 s1 vd, .vfclass p vs2 vd, .vfrsqrte p vs2 vd],
      Claim.refused s i)

/-- The four BF16 products and the old element of a VFDOT4 as one fused sum (R65, R125). -/
def Claim.dot4 (rm : BitVec 3) (fl : BitVec 2) (c a0 a1 b0 b1 : Nat) : Nat × Flags :=
  let h := fun (x k : Nat) => bf16.read fl (x / 2 ^ (16 * k) % 2 ^ 16)
  let ps := [Claim.product (h a0 0) (h b0 0), Claim.product (h a0 1) (h b0 1),
    Claim.product (h a1 0) (h b1 0), Claim.product (h a1 1) (h b1 1)]
  let r := f32.sum rm fl 0 (f32.read fl c :: ps.map fun q => q.1)
  (r.1, ps.foldl (fun g q => g ||| q.2) 0 ||| r.2)

/-- VMIX, VFDOT4 and VFMERGE (R124 to R126): the mixing function of 32-bit elements; the fused sum of four BF16 products, the second
pair of halves in the next register, or in the upper half of a scalar; and every element below VL from b or a by the predicate. -/
def Claim.VectorMixDotMergeWords : Prop :=
  ∀ (p : PReg) (form : Form) (vs2 : VReg) (s1 : Reg) (vd : VReg) (s : State), Claim.calm s →
    let w := vtSew s.t.vtype
    let ty := vtFmt s.t.vtype
    let x := match form with | .vf => s.t.readF s1 | .vi => s1.signExtend 64 | _ => s.t.readX s1
    let b0 := fun i => if form = .vv then s.t.elem s1.toNat 32 i else x.toNat % 2 ^ 32
    let b1 := fun i => if form = .vv then s.t.elem (s1.toNat + 1) 32 i else x.toNat / 2 ^ 32
    (w = 32 → ty ≤ 2 → Claim.writes s (.vmix p form vs2 s1 vd) vd 32 (Claim.active s p) fun i =>
      let y1 := BitVec.ofNat 32 (s.t.elem vs2.toNat 32 i) ^^^ BitVec.ofNat 32 (Claim.second s form s1 false 32 i)
      let y2 := (y1 ^^^ (y1 >>> 15)) * 0x2C1B3C6D
      let y3 := (y2 ^^^ (y2 >>> 12)) * 0x297A2D39
      ((y3 ^^^ (y3 >>> 15)).toNat, 0)) ∧
    (w ≠ 32 ∨ 2 < ty → Claim.refused s (.vmix p form vs2 s1 vd)) ∧
    (w = 32 → ty = 2 → Claim.writes s (.vfdot4 p form vs2 s1 vd) vd 32 (Claim.active s p) fun i =>
      Claim.dot4 s.t.frm (vtFlush s.t.vtype) (s.t.elem vd.toNat 32 i) (s.t.elem vs2.toNat 32 i) (s.t.elem (vs2.toNat + 1) 32 i)
        (b0 i) (b1 i)) ∧
    (w ≠ 32 ∨ ty ≠ 2 → Claim.refused s (.vfdot4 p form vs2 s1 vd)) ∧
    Claim.writes s (.vfmerge p form vs2 s1 vd) vd w (fun i => decide (i < s.t.vl.toNat)) fun i =>
      (if s.t.pred p i then Claim.second s form s1 false w i else s.t.elem vs2.toNat w i, 0)

/-- The source types of VFCVT that are integers: width, and whether they are signed (R127). -/
def Claim.cvtInt : List (Nat × Nat × Bool) :=
  [(0, 8, true), (1, 8, false), (2, 16, true), (3, 16, false), (4, 32, true), (5, 32, false), (6, 64, true), (7, 64, false)]

/-- The source types of VFCVT that are IEEE formats (R127). -/
def Claim.cvtIeee : List (Nat × Fmt) := [(8, f16), (9, bf16), (10, f32), (11, f64)]

/-- The source types of VFCVT that are block formats (R127). -/
def Claim.cvtBlock : List (Nat × BFmt) := [(12, b8), (13, b6), (14, b4)]

/-- Element i of the source group of a conversion: register vs2 + i div VLMAX of the source width (R128). -/
def Claim.groupElem (s : State) (vs2 : VReg) (w i : Nat) : Nat :=
  let m := s.t.lanes * s.core.rowcap * 32 / w
  s.t.elem (vs2.toNat + i / m) w (i % m)

/-- The own source code of an IEEE type of VTYPE (R47, R127). -/
def Claim.ownCode (ty w : Nat) : Nat := if ty = 3 then 9 else if w = 16 then 8 else if w = 32 then 10 else 11

/-- The legal conversions (R127, R129, R130) from the source code k into VTYPE's type: IEEE to another IEEE, integer to IEEE, IEEE to
integer, IEEE to block, block to IEEE, no other; rounding toward zero only among IEEE types and to integers; to a block
with p0 and not to v31, from a block not of v31. -/
def Claim.cvtLegal (ty w : Nat) (code : Reg) (p : PReg) (vs2 vd : VReg) : Prop :=
  let k := code.toNat % 16
  let rtz := 16 ≤ code.toNat
  (8 ≤ k ∧ k ≤ 11 ∧ (ty = 2 ∨ ty = 3) ∧ k ≠ Claim.ownCode ty w) ∨
  (k ≤ 7 ∧ (ty = 2 ∨ ty = 3) ∧ ¬ rtz) ∨
  (8 ≤ k ∧ k ≤ 11 ∧ ty ≤ 1) ∨
  (8 ≤ k ∧ k ≤ 11 ∧ 4 ≤ ty ∧ ¬ rtz ∧ p = 0 ∧ vd ≠ 31) ∨
  (12 ≤ k ∧ k ≤ 14 ∧ (ty = 2 ∨ ty = 3) ∧ ¬ rtz ∧ vs2 ≠ 31)

/-- The source group of a conversion spans more than eight registers, or ends above v31 (R128). -/
def Claim.cvtOutside (s : State) (code : Reg) (vs2 : VReg) : Prop :=
  let w := [8, 8, 16, 16, 32, 32, 64, 64, 16, 16, 32, 64, 8, 8, 4].getD (code.toNat % 16) 8
  let m := s.t.lanes * s.core.rowcap * 32 / w
  let g := (s.t.vl.toNat + m - 1) / m
  8 < g ∨ 0 < g ∧ 32 < vs2.toNat + g

/-- A conversion from one IEEE format into another widens: every value of the first is one of the second (R68). -/
def Claim.widens (g f : Fmt) : Bool := [(f16, f32), (f16, f64), (bf16, f32), (bf16, f64), (f32, f64)].contains (g, f)

/-- VFCVT (R67, R68, R127 to R130): with a legal pair of types each active element takes its source's value rounded once by FRM, or
by RTZ where the code says so, and exactly where the format widens; a NaN becomes the canonical NaN, one that is signalling
with NV; a block takes whole blocks of codes and pairs. An illegal pair is refused at decode, and a source group out of the
registers traps at the word. Code 15 is no word. -/
def Claim.VectorConversions : Prop :=
  ∀ (p : PReg) (vs2 : VReg) (code : Reg) (vd : VReg) (s : State), Claim.calm s →
    let i := Instr.vfcvt p vs2 code vd
    let w := vtSew s.t.vtype
    let ty := vtFmt s.t.vtype
    let fl := vtFlush s.t.vtype
    let f := vtIeeeFmt s.t.vtype
    let rm := if 16 ≤ code.toNat then 1 else s.t.frm
    let legal := Claim.cvtLegal ty w code p vs2 vd
    let does := fun (val : Nat → Nat × Flags) => Claim.writes s i vd w (Claim.active s p) val
    let narrow := fun (fl : BitVec 2) (v : FVal) => let r := Claim.once f rm fl v; (r.1, (if v = .nan true then flagNV else 0) ||| r.2)
    let ints := if ty = 0 then (-2 ^ (w - 1), (2 : Int) ^ (w - 1) - 1) else (0, (2 : Int) ^ w - 1)
    i.wellFormed = true →
    (¬ legal → Claim.refused s i) ∧
    (legal → Claim.cvtOutside s code vs2 → Claim.vectorTraps s i cause.illegal ((encode i).setWidth 64)) ∧
    (legal → ¬ Claim.cvtOutside s code vs2 → ty = 2 ∨ ty = 3 →
      (∀ e ∈ Claim.cvtInt, code.toNat % 16 = e.1 → does fun i =>
        let x := Claim.groupElem s vs2 e.2.1 i
        let n : Int := if e.2.2 then Int.bmod x (2 ^ e.2.1) else x
        if n = 0 then (0, 0) else f.roundNum rm fl n) ∧
      (∀ e ∈ Claim.cvtIeee, code.toNat % 16 = e.1 → does fun i => narrow (if Claim.widens e.2 f then 0 else fl) (e.2.read fl (Claim.groupElem s vs2 e.2.width i))) ∧
      (∀ e ∈ Claim.cvtBlock, code.toNat % 16 = e.1 → does fun i =>
        narrow fl (e.2.decode (s.t.elem vs2.toNat (if e.2.width = 4 then 4 else 8) i) (s.t.elem (vs2.toNat + 1) 32 (i / 48))))) ∧
    (legal → ¬ Claim.cvtOutside s code vs2 → ty ≤ 1 → ∀ e ∈ Claim.cvtIeee, code.toNat % 16 = e.1 → does fun i =>
      let r := Claim.integer rm ints.1 ints.2 (e.2.read fl (Claim.groupElem s vs2 e.2.width i))
      ((r.1 % 2 ^ w).toNat, r.2)) ∧
    (legal → ¬ Claim.cvtOutside s code vs2 → 4 ≤ ty → s.t.vl ≠ 0 → ∀ e ∈ Claim.cvtIeee, code.toNat % 16 = e.1 →
      let g := vtBlockFmt s.t.vtype
      let cw := if g.width = 4 then 4 else 8
      let src := fun k => Claim.groupElem s vs2 e.2.width k
      let block := fun (j : Nat) => g.encode ((List.range 48).map fun q =>
        if 48 * j + q < s.t.vl.toNat then (e.2.read fl (src (48 * j + q)), e.2.signOf (src (48 * j + q))) else (.num false 0, false))
      let blocks := (s.t.vl.toNat + 47) / 48
      vd ≠ 31 ∧ ∃ t, exec i s = .next t ∧
        (∀ k, t.t.elem vd.toNat cw k = if k < 48 * blocks then (block (k / 48)).2.1.getD (k % 48) 0 % 2 ^ cw else s.t.elem vd.toNat cw k) ∧
        (∀ j, t.t.elem (vd.toNat + 1) 32 j = if j < blocks then (block j).1 % 2 ^ 32 else s.t.elem (vd.toNat + 1) 32 j) ∧
        (∀ r : VReg, r ≠ vd → r.toNat ≠ vd.toNat + 1 → t.t.readV r = s.t.readV r) ∧
        (∀ r : VReg, t.t.readTag r = if r = vd ∨ r.toNat = vd.toNat + 1 then 0x7FF else s.t.readTag r) ∧
        t = { s.advance with t := { s.advance.t with
          v := t.t.v, tags := t.t.tags
          fflags := (List.range blocks).foldl (fun g j => g ||| (block j).2.2) s.t.fflags } })

/-- The vector integer words, and those that mix, merge and sum products. -/
def Obligations.VectorIntegerAndMixedWords : Prop :=
  Claim.VectorIntegerWords ∧ Claim.VectorMixDotMergeWords

/-- The vector float words and conversions. -/
def Obligations.VectorFloatAndConversionWords : Prop :=
  Claim.VectorFloatWords ∧ Claim.VectorConversions


/-! ### Predicates, permutes, moves and reductions -/

/-- VPRED (R131, R132): the logic of predicate bits that the governing predicate admits, PMERGE on every bit below VL, and the integer
and IEEE compares of active elements, with NV as the scalar compares raise it; a compare under a type not its own is refused. -/
def Claim.VectorPredicateWords : Prop :=
  ∀ (p ps2 ps1 pd : PReg) (form : Form) (vs2 : VReg) (s1 : Reg) (s : State), Claim.calm s →
    let w := vtSew s.t.vtype
    let ty := vtFmt s.t.vtype
    let x := fun i => s.t.pred ps2 i
    let y := fun i => s.t.pred ps1 i
    let a := fun i => s.t.elem vs2.toNat w i
    let b := Claim.second s form s1 false w
    let signed := fun (n : Nat) => Int.bmod n (2 ^ w)
    let f := vtIeeeFmt s.t.vtype
    let fa := fun i => f.read (vtFlush s.t.vtype) (a i)
    let fb := fun i => f.read (vtFlush s.t.vtype) (b i)
    let does := fun (i : Instr) (val : Nat → Bool × Flags) =>
      ∃ t, exec i s = .next t ∧ Claim.wrotePred s t pd (Claim.active s p) val
    let less := fun (eq : Bool) (u v : FVal) => match u, v with
      | .inf m, .inf n => if m = n then eq else m
      | .inf m, .num _ _ => m
      | .num _ _, .inf n => !n
      | .num _ q, .num _ r => if q = r then eq else decide (q < r)
      | _, _ => false
    let same := fun (u v : FVal) => match u, v with
      | .inf m, .inf n => m == n
      | .num _ q, .num _ r => decide (q = r)
      | _, _ => false
    let nan := fun (u v : FVal) => match u, v with | .nan _, _ => true | _, .nan _ => true | _, _ => false
    let sig := fun (u v : FVal) => decide (u = .nan true) || decide (v = .nan true)
    does (.pand p ps2 ps1 pd) (fun i => (x i && y i, 0)) ∧ does (.por p ps2 ps1 pd) (fun i => (x i || y i, 0)) ∧
    does (.pxor p ps2 ps1 pd) (fun i => (x i ^^ y i, 0)) ∧ does (.pandn p ps2 ps1 pd) (fun i => (x i && !y i, 0)) ∧
    does (.pnot p ps2 pd) (fun i => (!x i, 0)) ∧ does (.pset p pd) (fun _ => (true, 0)) ∧ does (.pclr p pd) (fun _ => (false, 0)) ∧
    (∃ t, exec (.pmerge p ps2 ps1 pd) s = .next t ∧
      Claim.wrotePred s t pd (fun i => decide (i < s.t.vl.toNat)) fun i => (if s.t.pred p i then y i else x i, 0)) ∧
    (ty ≤ 1 →
      does (.vcmpeq p form vs2 s1 pd) (fun i => (a i == b i, 0)) ∧ does (.vcmpne p form vs2 s1 pd) (fun i => (a i != b i, 0)) ∧
      does (.vcmplt p form vs2 s1 pd) (fun i => (decide (signed (a i) < signed (b i)), 0)) ∧
      does (.vcmpltu p form vs2 s1 pd) (fun i => (decide (a i < b i), 0)) ∧
      does (.vcmpge p form vs2 s1 pd) (fun i => (decide (signed (b i) ≤ signed (a i)), 0))) ∧
    (1 < ty → ∀ i ∈ [Instr.vcmpeq p form vs2 s1 pd, .vcmpne p form vs2 s1 pd, .vcmplt p form vs2 s1 pd, .vcmpltu p form vs2 s1 pd,
      .vcmpge p form vs2 s1 pd], Claim.refused s i) ∧
    (ty = 2 ∨ ty = 3 →
      does (.vfcmpeq p form vs2 s1 pd) (fun i => (same (fa i) (fb i), if sig (fa i) (fb i) then flagNV else 0)) ∧
      does (.vfcmplt p form vs2 s1 pd) (fun i => (less false (fa i) (fb i), if nan (fa i) (fb i) then flagNV else 0)) ∧
      does (.vfcmple p form vs2 s1 pd) (fun i => (less true (fa i) (fb i), if nan (fa i) (fb i) then flagNV else 0))) ∧
    (ty ≠ 2 → ty ≠ 3 → ∀ i ∈ [Instr.vfcmpeq p form vs2 s1 pd, .vfcmplt p form vs2 s1 pd, .vfcmple p form vs2 s1 pd], Claim.refused s i)

/-- VPERM's permutes (R133, R134): VSTEP counts from b; VXCH, the slides and VGATHER take an element by index, a slide up leaving the
elements below the distance, an index at or past VL reading 0 (VXCH: the element itself); VCOMPRESS packs the elements that the
predicate admits to the front; VCONF gives the last earlier active element of the same value, or all ones. -/
def Claim.VectorPermuteWords : Prop :=
  ∀ (p : PReg) (form : Form) (vs2 : VReg) (s1 : Reg) (vd : VReg) (s : State), Claim.calm s →
    let w := vtSew s.t.vtype
    let ty := vtFmt s.t.vtype
    let vl := s.t.vl.toNat
    let a := fun i => s.t.elem vs2.toNat w i
    let whole := match form with
      | .vv => 0 | .vx => (s.t.readX s1).toNat | .vf => (s.t.readF s1).toNat | .vi => s1.toNat
    let index := fun i => match form with | .vv => s.t.elem s1.toNat w i | .vi => s1.toNat | _ => Claim.second s form s1 true w i
    let does := fun (i : Instr) (acts : Nat → Bool) (val : Nat → Nat) => Claim.writes s i vd w acts fun i => (val i, 0)
    let act := Claim.active s p
    let step := match form with
      | .vv => 0 | .vx => (s.t.readX s1).toNat | .vf => (s.t.readF s1).toNat | .vi => (s1.signExtend 64).toNat
    let kept := (List.range vl).filter fun j => s.t.pred p j
    (ty ≤ 1 → does (.vstep p form s1 vd) act (fun i => step + i)) ∧
    (1 < ty → Claim.refused s (.vstep p form s1 vd)) ∧
    does (.vxch p form vs2 s1 vd) act (fun i => if i ^^^ (whole % 2 ^ 14) < vl then a (i ^^^ (whole % 2 ^ 14)) else a i) ∧
    does (.vslideup p form vs2 s1 vd) (fun i => act i && decide (whole ≤ i)) (fun i => a (i - whole)) ∧
    does (.vslidedn p form vs2 s1 vd) act (fun i => if i + whole < vl then a (i + whole) else 0) ∧
    does (.vgather p form vs2 s1 vd) act (fun i => if index i < vl then a (index i) else 0) ∧
    does (.vcompress p vs2 vd) (fun i => decide (i < kept.length)) (fun i => a (kept.getD i 0)) ∧
    (ty ≤ 1 → w ≠ 8 → ∃ val : Nat → Nat, does (.vconf p vs2 vd) act val ∧ ∀ i, act i = true →
      ((∃ j < i, act j = true ∧ a j = a i) → ∃ j < i, act j = true ∧ a j = a i ∧ val i = j ∧
        ∀ k < i, act k = true → a k = a i → k ≤ j) ∧
      ((∀ j < i, act j = true → a j ≠ a i) → val i = 2 ^ w - 1)) ∧
    (1 < ty ∨ w = 8 → Claim.refused s (.vconf p vs2 vd))

/-- A pairwise tree over a non-empty list (R136): one value is its own result; otherwise neighbours are combined in pairs, an odd last
one staying, and the results combined again, with every flag. -/
inductive Claim.Tree (f : Nat → Nat → Nat × Flags) : List Nat → Nat → Flags → Prop
  | one (a : Nat) : Claim.Tree f [a] a 0
  | level (l m : List Nat) (r : Nat) (g h : Flags) : 2 ≤ l.length → m.length = (l.length + 1) / 2 →
      (∀ k, 2 * k + 1 < l.length → m.getD k 0 = (f (l.getD (2 * k) 0) (l.getD (2 * k + 1) 0)).1) →
      (l.length % 2 = 1 → m.getD (l.length / 2) 0 = l.getD (l.length - 1) 0) →
      g = (List.range (l.length / 2)).foldl (fun g k => g ||| (f (l.getD (2 * k) 0) (l.getD (2 * k + 1) 0)).2) 0 →
      Claim.Tree f m r h → Claim.Tree f l r (g ||| h)

/-- A scalar result of the vector side: with VL 0 the word only completes, and otherwise x[rd] takes the value (R135, R222). -/
def Claim.scalarResult (s : State) (i : Instr) (rd : Reg) (v : DWord) : Prop :=
  exec i s = if s.t.vl = 0 then .next s.advance else .next (s.setX rd v).advance

/-- Moves, counts and reductions (R116, R135 to R137): VMVXS and VMVSX, VPOPC and VFIRST, the three reductions over the pairwise tree of
the initial value and the active elements, and VFREDO over the active elements in order, one rounded sum each, from where VRSI
and VRSS say; a reduction writes element 0 of vd alone.
Where it rests on the model's own reading: assumptions 110, 111, 112 of the log. -/
def Obligations.VectorMoveAndReductionWords : Prop :=
  ∀ (p ps2 : PReg) (form : Form) (vs2 : VReg) (s1 rd : Reg) (vd : VReg) (s : State), Claim.calm s →
    let w := vtSew s.t.vtype
    let ty := vtFmt s.t.vtype
    let vl := s.t.vl.toNat
    let fl := vtFlush s.t.vtype
    let f := vtIeeeFmt s.t.vtype
    let rm := s.t.frm
    let a := fun i => s.t.elem vs2.toNat w i
    let index := match form with | .vv => 0 | .vx => (s.t.readX s1).toNat | .vf => (s.t.readF s1).toNat | .vi => s1.toNat
    let moved := if index < vl then a index else 0
    let scalar := match form with
      | .vv => 0 | .vx => (s.t.readX s1).toNat | .vf => (s.t.readF s1).toNat | .vi => (s1.signExtend 64).toNat
    let acts := (List.range vl).filter fun i => s.t.pred p i
    let ones := acts.filter fun i => s.t.pred ps2 i
    let start := if form = .vv then s.t.elem s1.toNat w 0 else scalar % 2 ^ w
    let signed := fun (n : Nat) => Int.bmod n (2 ^ w)
    let first := fun (i : Nat) => i == 0
    let reduces := fun (i : Instr) (g : Nat → Nat → Nat × Flags) =>
      ∃ r k, Claim.Tree g (start :: acts.map a) r k ∧ Claim.writes s i vd w first fun _ => (r, k)
    let read := fun n => f.read fl n
    let flushed := fun n => f.flushed fl n
    let less := fun (u v : Nat) => if ty = 0 then decide (signed u ≤ signed v) else decide (u ≤ v)
    Claim.scalarResult s (.vmvxs form vs2 s1 rd) rd (if ty = 0 then BitVec.ofInt 64 (signed moved) else BitVec.ofNat 64 moved) ∧
    Claim.writes s (.vmvsx form s1 vd) vd w first (fun _ => (scalar, 0)) ∧
    Claim.scalarResult s (.vpopc p ps2 rd) rd (BitVec.ofNat 64 ones.length) ∧
    Claim.scalarResult s (.vfirst p ps2 rd) rd (match ones with | i :: _ => BitVec.ofNat 64 i | [] => -1) ∧
    (ty ≤ 1 → form ≠ .vf →
      reduces (.vreds p form vs2 s1 vd) (fun u v => ((u + v) % 2 ^ w, 0)) ∧
      reduces (.vredmin p form vs2 s1 vd) (fun u v => (if less u v then u else v, 0)) ∧
      reduces (.vredmax p form vs2 s1 vd) (fun u v => (if less u v then v else u, 0))) ∧
    (ty = 2 ∨ ty = 3 → form ≠ .vx →
      reduces (.vreds p form vs2 s1 vd) (fun u v => Claim.sum f rm fl (read u) (read v)) ∧
      reduces (.vredmin p form vs2 s1 vd) (fun u v => f.minMax false (flushed u) (flushed v) (read u) (read v)) ∧
      reduces (.vredmax p form vs2 s1 vd) (fun u v => f.minMax true (flushed u) (flushed v) (read u) (read v)) ) ∧
    (ty = 2 ∨ ty = 3 →
      let from_ := if s.t.vrsi = 0 then start else s.t.vrss.toNat % 2 ^ w
      let r := (acts.filter fun i => decide (s.t.vrsi.toNat ≤ i)).foldl
        (fun acc i => let q := Claim.sum f rm fl (read acc.1) (read (a i)); (q.1, acc.2 ||| q.2)) (from_, (0 : Flags))
      (vl = 0 → exec (.vfredo p form vs2 s1 vd) s = .next s.advance) ∧
      (vl ≠ 0 → ∃ t u, exec (.vfredo p form vs2 s1 vd) s = .next t ∧
        t = { u with t := { u.t with vrsi := 0, vrss := 0 } } ∧ Claim.wroteVector s u vd w first fun _ => r))

/-! ### Configuration and the queue -/

/-- The element width of a request (R111). -/
def Claim.sew (req : DWord) : Nat :=
  if req.toNat % 8 = 0 then 8 else if req.toNat % 8 = 1 then 16 else if req.toNat % 8 = 2 then 32 else if req.toNat % 8 = 3 then 64 else 4

/-- The requests that are legal types (R111, R112): i and n at 8 to 64, f at 16 to 64, bf16, b8, b6 at 8, b4 at 4, and a flush setting of 0 to 2. -/
def Claim.legalType (req : DWord) : Prop :=
  req.toNat < 2 ^ 11 ∧ req.toNat / 2 ^ 9 % 4 = 0 ∧ req.toNat / 2 ^ 7 % 4 ≠ 3 ∧
  (let e := req.toNat % 8; let k := req.toNat / 8 % 16
   k ≤ 1 ∧ e ≤ 3 ∨ k = 2 ∧ 1 ≤ e ∧ e ≤ 3 ∨ k = 3 ∧ e = 1 ∨ (k = 4 ∨ k = 5) ∧ e = 0 ∨ k = 6 ∧ e = 4)

/-- VSETVL, VSETVLI and GTAG (R41, R111 to R114, R188): a configuration word completes with VL the smaller of its request and the
registers' capacity, the capacity for rd alone, or VL kept where it fits, in x[rd] as well; an illegal type, or a VL that
does not fit, sets VILL, VL 0 and x[rd] 0. GTAG reads a register's tag. -/
def Claim.VectorConfigurationWords : Prop :=
  ∀ (rs2 rs1 rd : Reg) (imm : BitVec 11) (vs : VReg) (s : State),
    (Claim.calm s → exec (.gtag vs rd) s = .next (s.setX rd ((s.t.readTag vs).setWidth 64)).advance) ∧
    (s.t.inTrap = false → s.t.queue = [] → s.t.posted = [] → s.t.scalars = [] → s.t.tileSave = [] → s.t.tile = false → s.ch.runAhead = false →
      let does := fun (i : Instr) (req : DWord) =>
        let cap := s.t.lanes * s.core.rowcap * 32 / Claim.sew req
        let sets := fun (vl : BitVec 14) (vt v : DWord) =>
          exec i s = .next ({ s with t := { s.t with vl := vl, vtype := vt, dvl := vl, dvtype := vt } }.setX rd v).advance
        let got := fun (n : Nat) => sets (BitVec.ofNat 14 n) req (BitVec.ofNat 64 n)
        (¬ Claim.legalType req → sets 0 0x80000000 0) ∧
        (Claim.legalType req → rs1 ≠ 0 → got (min (s.t.readX rs1).toNat cap)) ∧
        (Claim.legalType req → rs1 = 0 → rd ≠ 0 → got cap) ∧
        (Claim.legalType req → rs1 = 0 → rd = 0 → (cap < s.t.vl.toNat → sets 0 0x80000000 0) ∧ (s.t.vl.toNat ≤ cap → got s.t.vl.toNat))
      does (.vsetvl rs2 rs1 rd) (s.t.readX rs2) ∧ does (.vsetvli imm rs1 rd) (imm.setWidth 64)) ∧
    (s.t.inTrap = true ∨ s.t.tile = true → Claim.refused s (.vsetvl rs2 rs1 rd) ∧ Claim.refused s (.vsetvli imm rs1 rd))

/-- The words that hold the scalar stream until they commit (R135, R222). -/
def Claim.holds : Instr → Bool
  | .vmvxs _ _ _ _ | .vpopc _ _ _ | .vfirst _ _ _ => true
  | _ => false

/-- The vector-side words that do something of their own as they enter the queue, or that are fences: configuration, tile mode,
VBLK, which takes four entries, and the handle words, which take tokens. -/
def Claim.enteringSpecially : Instr → Bool
  | .vsetvl _ _ _ | .vsetvli _ _ _ | .modet _ | .vblk _ _ | .hld _ _ _ | .hst _ _ _ | .hstTry _ _ _ _ | .fsv | .fvv => true
  | _ => false

/-- How a vector-side word enters the queue (R36, R218, R219, R222, R386): in vector mode, outside a handler and a chain, a word that VTYPE
and VL admit enters behind the others at its own address with the modes of the thread captured, and completes unless it holds
the stream; with no entry of the 64 free it waits. In a handler it is illegal. -/
def Claim.VectorWordsEnterTheQueue : Prop :=
  ∀ (i : Instr) (s : State), classLegal i s.legalEnv = true → Claim.enteringSpecially i = false →
    (s.t.inTrap = true → Claim.refused s i) ∧
    (s.t.inTrap = false → s.t.chain = none → s.t.tile = false → tileOnly i = false → s.ch.runAhead = true → s.standing i = false →
      (64 ≤ s.t.usedSlots → exec i s = Claim.held s) ∧
      (s.t.usedSlots < 64 → ∃ e, e.instr = i ∧ e.addr = s.t.pc ∧ e.frm = s.t.frm ∧ e.gmode = s.t.gmode ∧
        e.sthresh = s.t.sthresh ∧ e.lbypass = s.t.lbypass ∧ e.seq = s.t.scalarCount ∧ e.chain = none ∧ e.slot = none ∧
        let u := { s with t := { s.t with queue := s.t.queue ++ [e] } }
        exec i s = .next (Claim.arrived (if Claim.holds i then { u with t := { u.t with wait := some { kind := .hold } } } else u.advance))))

/-- The vector words on predicates, and those that move elements about. -/
def Obligations.VectorPredicateAndPermuteWords : Prop :=
  Claim.VectorPredicateWords ∧ Claim.VectorPermuteWords

/-- Vector configuration, and how a vector-side word enters its thread's queue.
Where it rests on the model's own reading: assumption 35 of the log. -/
def Obligations.VectorConfigurationAndQueue : Prop :=
  Claim.VectorConfigurationWords ∧ Claim.VectorWordsEnterTheQueue


/-! ### Vector memory words -/

/-- The address of an item: a base and a signed offset, modulo 2⁶⁴ (R142). -/
def Claim.address (base : DWord) (off : Int) : Nat := (base + BitVec.ofInt 64 off).toNat

/-- idx(k): element k of the 32-bit index group at a register (R143). -/
def Claim.index (s : State) (vs2 : VReg) (k : Nat) : Nat :=
  s.t.elem (vs2.toNat + k / (s.t.lanes * s.core.rowcap)) 32 (k % (s.t.lanes * s.core.rowcap))

/-- The words of a shape in the three addressing modes, each with its offset in items of a size (R142). -/
def Claim.modes (s : State) (size : Nat) (vs2 : VReg) (rs2 : Reg) (unit strided indexed : Instr) : List (Instr × (Nat → Int)) :=
  [(unit, fun k => (k * size : Nat)), (strided, fun k => k * (s.t.readX rs2).toInt), (indexed, fun k => (Claim.index s vs2 k : Nat))]

/-- The element width in bytes. -/
def Claim.bytes (w : EW) : Nat := match w with | .e8 => 1 | .e16 => 2 | .e32 => 4 | .e64 => 8

/-- The machine neither uses nor keeps cached translations, and the thread's own segment holds nothing back. -/
def Claim.plainAccess (s : State) : Prop := s.ch.fillCache = false ∧ s.ch.useCached = false ∧ s.segment s.agent = none

/-- The bytes of a range can be read, and are these: every line of it is translated and sound (R81, R449). -/
def Claim.readable (s : State) (va n : Nat) (bs : List Byte) : Prop := s.read s.agent .load 1 va n = .ok (bs, s)

/-- What a vector load leaves (R118, R145, R147): what an element-wise word leaves, with one step for each item. -/
def Claim.loaded (s t : State) (vds : List (Nat × Nat × (Nat → Option Nat))) (fl : Flags) : Prop :=
  (s.t.vl = 0 → t = s.advance) ∧
  (s.t.vl ≠ 0 →
    (∀ d ∈ vds, ∀ i, t.t.elem d.1 d.2.1 i = match d.2.2 i with | some v => v % 2 ^ d.2.1 | none => s.t.elem d.1 d.2.1 i) ∧
    (∀ r : VReg, (∀ d ∈ vds, r.toNat ≠ d.1) → t.t.readV r = s.t.readV r) ∧
    (∀ r : VReg, t.t.readTag r = if ∃ d ∈ vds, r.toNat = d.1 then 0x7FF else s.t.readTag r) ∧
    s.stamp ≤ t.stamp ∧
    t = { s.advance with
      stamp := t.stamp, tick := t.tick
      t := { s.advance.t with v := t.t.v, tags := t.t.tags, lastVector := t.t.lastVector, fflags := s.t.fflags ||| fl } })

/-- VLD, VLDS and VLDX (R118, R142, R143, R146, R147): where every active element's address is aligned and readable, each writes the
active elements with the bytes at their addresses, bit for bit; a word of another width than VTYPE's, or an index group out
of the registers, is refused. -/
def Claim.VectorPlainLoads : Prop :=
  ∀ (p : PReg) (vs2 : VReg) (rs2 rs1 : Reg) (w : EW) (vd : VReg) (s : State) (bs : Nat → List Byte),
    Claim.calm s → Claim.plainAccess s →
    let n := Claim.bytes w
    ∀ e ∈ Claim.modes s n vs2 rs2 (.vld p rs1 w vd) (.vlds p rs2 rs1 w vd) (.vldx p vs2 rs1 w vd),
      let a := fun k => Claim.address (s.t.readX rs1) (e.2 k)
      (classLegal e.1 s.legalEnv = false → Claim.refused s e.1) ∧
      (classLegal e.1 s.legalEnv = true →
        (∀ k, Claim.active s p k = true → a k % n = 0 ∧ Claim.readable s (a k) n (bs k)) →
        ∃ t, exec e.1 s = .next t ∧ Claim.loaded s t
          [(vd.toNat, 8 * n, fun i => if Claim.active s p i then some (ofBytes (bs i)) else none)] 0)

/-- First-fault loads (R149): where the elements below some active element k can be read and k, not the first active one, meets
misaligned-access, translation, permission or format-region, the load writes those below k, sets VL to k, and completes. The VL by
which later words are checked at decode stays (the model's reading: assumption 95 of the log). -/
def Claim.VectorFirstFaultLoads : Prop :=
  ∀ (p : PReg) (vs2 : VReg) (rs2 rs1 : Reg) (w : EW) (vd : VReg) (s : State) (bs : Nat → List Byte) (k : Nat) (c : Cause) (v : DWord),
    Claim.calm s → Claim.plainAccess s →
    let n := Claim.bytes w
    ∀ e ∈ Claim.modes s n vs2 rs2 (.vld p rs1 w vd) (.vlds p rs2 rs1 w vd) (.vldx p vs2 rs1 w vd),
      let a := fun k => Claim.address (s.t.readX rs1) (e.2 k)
      classLegal e.1 s.legalEnv = true → Claim.active s p k = true → (∃ j < k, Claim.active s p j = true) →
      (∀ j < k, Claim.active s p j = true → a j % n = 0 ∧ Claim.readable s (a j) n (bs j)) →
      (a k % n ≠ 0 ∨ s.read s.agent .load 1 (a k) n = .error (.trap c v, s) ∧
        c ∈ [cause.translation, cause.permission, cause.formatRegion]) →
      ∃ t u, exec e.1 s = .next t ∧ t = { u with t := { u.t with vl := BitVec.ofNat 14 k } } ∧
        Claim.loaded s u [(vd.toNat, 8 * n, fun i => if i < k ∧ Claim.active s p i = true then some (ofBytes (bs i)) else none)] 0

/-- The place of component c of multivector m in a register: lane-major, BF16 in pairs of rows (R43). -/
def Claim.component (s : State) (m c : Nat) : Nat :=
  if vtFmt s.t.vtype = 3 then (16 * (m / s.t.lanes) + c) * s.t.lanes + m % s.t.lanes else c * s.t.lanes + m

/-- A conversion of a value of one format to another under the thread's modes, exact where the format widens (R68). -/
def Claim.narrow (s : State) (g f : Fmt) (v : FVal) : Nat × Flags :=
  let r := Claim.once f s.t.frm (if Claim.widens g f then 0 else vtFlush s.t.vtype) v
  (r.1, (if v = .nan true then flagNV else 0) ||| r.2)

/-- What the region access of a word has found before its items: the region that the page at x[rs1] names and the number of the
item there (R76, R152), the caches as they were. -/
def Claim.startsAt (s : State) (acc : Access) (a : DWord) (r : Region) (n : Int) : Prop :=
  s.region s.agent acc a.toNat = .ok (r, s) ∧ (a.toNat : Int) = r.base + n * r.size

/-- An item of a region can be reached: within the region and in pages of its number (R78, R152). -/
def Claim.item (s : State) (acc : Access) (r : Region) (n : Int) (off bytes va : Nat) : Prop :=
  s.regionItem s.agent acc r n off bytes = .ok (va, s)

/-- VLDG, VLDF, VLDR, VLD_P (R43, R148, R152, R153, R155, R156): whole multivectors, every component to its place; decoded region
elements, from a BF16 region converted and from a block region by code and scale pair, rounded once; whole blocks with their
pairs unrounded, bits [7:6] of a B6 container left as they were; and predicate bits below VL. Each is stated where all that it reads can be read.
Where it rests on the model's own reading: assumptions 23, 24, 108 of the log. -/
def Obligations.VectorRegionMultivectorAndPredicateLoads : Prop :=
  ∀ (p : PReg) (vs2 : VReg) (rs2 rs1 : Reg) (vd : VReg) (pd : PReg) (s : State) (bs : Nat → List Byte) (pair va : Nat → Nat)
    (r : Region) (n0 : Int), Claim.calm s → Claim.plainAccess s →
    let w := vtSew s.t.vtype
    let size : Nat := if vtFmt s.t.vtype = 3 then 32 else 64
    let f := vtIeeeFmt s.t.vtype
    let fl := vtFlush s.t.vtype
    let act := Claim.active s p
    let flags := fun (val : Nat → Nat × Flags) => (List.range s.t.vl.toNat).foldl (fun g i => if act i then g ||| (val i).2 else g) 0
    let does := fun (i : Instr) (val : Nat → Nat × Flags) => ∃ t, exec i s = .next t ∧
      Claim.loaded s t [(vd.toNat, w, fun i => if act i then some (val i).1 else none)] (flags val)
    -- multivectors
    (∀ e ∈ Claim.modes s size vs2 rs2 (.vldg p rs1 vd) (.vldgS p rs2 rs1 vd) (.vldgX p vs2 rs1 vd),
      let a := fun k => Claim.address (s.t.readX rs1) (e.2 k)
      classLegal e.1 s.legalEnv = true →
      (∀ k, act k = true → a k % size = 0 ∧ Claim.readable s (a k) size (bs k)) →
      ∃ (t : State) (x : Nat → Option Nat), exec e.1 s = .next t ∧ Claim.loaded s t [(vd.toNat, w, x)] 0 ∧
        (∀ m c, c < 16 → act m = true → x (Claim.component s m c) = some (ofBytes (bs m) / 2 ^ (c * w) % 2 ^ w)) ∧
        ∀ i, (∀ m c, c < 16 → act m = true → i ≠ Claim.component s m c) → x i = none) ∧
    -- decoding loads
    (∀ e ∈ Claim.modes s 1 vs2 rs2 (.vldf p rs1 vd) (.vldfS p rs2 rs1 vd) (.vldfX p vs2 rs1 vd),
      classLegal e.1 s.legalEnv = true → (∃ k, act k = true) → Claim.startsAt s .load (s.t.readX rs1) r n0 →
      (r.block = none →
        (∀ k, act k = true → Claim.item s .load r (n0 + e.2 k) 0 2 (va k) ∧ Claim.readable s (va k) 2 (bs k)) →
        does e.1 fun i => let b := ofBytes (bs i)
          if vtFmt s.t.vtype = 3 then (b, 0) else Claim.narrow s bf16 f (bf16.read fl b)) ∧
      (∀ g, r.block = some g → indexFits s.t.lanes s.core.rowcap vs2 ((s.t.vl.toNat + 47) / 48) = true →
        (∀ k, act k = true →
          let n := 48 * n0 + e.2 k
          let q := (n % 48).toNat * g.width
          Claim.item s .load r (n / 48) (q / 8) ((q + g.width - 1) / 8 - q / 8 + 1) (va k) ∧
          s.readPair s.agent r (n / 48).toNat (va k) = .ok (pair k, s) ∧
          Claim.readable s (va k) ((q + g.width - 1) / 8 - q / 8 + 1) (bs k)) →
        does e.1 fun i =>
          let q := ((48 * n0 + e.2 i) % 48).toNat * g.width
          let v := g.decode (ofBytes (bs i) / 2 ^ (q % 8) % 2 ^ g.width) (pair i)
          Claim.once f s.t.frm fl v)) ∧
    -- raw loads of blocks, and of BF16 elements
    (∀ e ∈ Claim.modes s 1 vs2 rs2 (.vldr p rs1 vd) (.vldrS p rs2 rs1 vd) (.vldrX p vs2 rs1 vd),
      classLegal e.1 s.legalEnv = true → (∃ k, act k = true) → Claim.startsAt s .load (s.t.readX rs1) r n0 → r.fmt = vtFmt s.t.vtype →
      (r.block = none →
        (∀ k, act k = true → Claim.item s .load r (n0 + e.2 k) 0 2 (va k) ∧ Claim.readable s (va k) 2 (bs k)) →
        does e.1 fun i => (ofBytes (bs i), 0)) ∧
      (∀ g, r.block = some g → vtBlockFmt s.t.vtype = g →
        (∀ j < (s.t.vl.toNat + 47) / 48,
          Claim.item s .load r (n0 + e.2 j) 0 (6 * g.width) (va j) ∧
          s.readPair s.agent r (n0 + e.2 j).toNat (va j) = .ok (pair j, s) ∧ Claim.readable s (va j) (6 * g.width) (bs j)) →
        ∃ t, exec e.1 s = .next t ∧ Claim.loaded s t
          [(vd.toNat, w, fun i => if i / 48 < (s.t.vl.toNat + 47) / 48 then
              some ((if g.width = 6 then s.t.elem vd.toNat w i / 64 * 64 else 0) +
                ofBytes (bs (i / 48)) / 2 ^ (i % 48 * g.width) % 2 ^ g.width) else none),
            (vd.toNat + 1, 32, fun j => if j < (s.t.vl.toNat + 47) / 48 then some (pair j) else none)] 0)) ∧
    -- predicate bits
    ((∀ k < (s.t.vl.toNat + 7) / 8, Claim.readable s (((s.t.readX rs1).toNat + k) % 2 ^ 64) 1 (bs k)) →
      ∃ t, exec (.vldP rs1 pd) s = .next t ∧
        (∀ q i, t.t.pred q i = if q = 0 then true
          else if q = pd ∧ i < s.t.vl.toNat then (ofBytes (bs (i / 8))).testBit (i % 8) else s.t.pred q i) ∧
        t = { s.advance with
          stamp := t.stamp, tick := t.tick, t := { s.advance.t with p := t.t.p, lastVector := t.t.lastVector } })

/-! ### Vector stores -/

/-- Memory with the bytes of a range of addresses replaced, line by line, each line at its place (R7, R81). -/
def Claim.putRange (ph : Nat → Nat) (f : Nat → Byte) (va : Nat) (bs : List Byte) : Nat → Byte :=
  (lineParts va bs.length).foldl (fun f e => Claim.put f (ph e.1) ((bs.drop (e.1 - va)).take e.2)) f

/-- A physical address is among the bytes of some of the ranges. -/
def Claim.within (ph : Nat → Nat) (l : List (Nat × Nat)) (a : Nat) : Prop :=
  ∃ x ∈ l, ∃ e ∈ lineParts x.1 x.2, ph e.1 ≤ a ∧ a < ph e.1 + e.2

/-- The states that a store passes through: memory, but outside the ranges stored to as it was. -/
def Claim.during (s : State) (ph : Nat → Nat) (l : List (Nat × Nat)) (u : State) : Prop :=
  ∃ m, u = { s with mem := m } ∧ ∀ a, ¬ Claim.within ph l a → sget (w := 8) m a = Claim.byte s a

/-- Every line of the ranges may be written, at the places of `ph`, whatever the store itself has written by then. -/
def Claim.storable (s : State) (ph : Nat → Nat) (l : List (Nat × Nat)) : Prop :=
  ∀ u, Claim.during s ph l u → ∀ x ∈ l, ∀ e ∈ lineParts x.1 x.2, u.checkPart s.agent .store e.1 e.2 = .ok (ph e.1, u)

/-- What a vector store leaves (R61, R145, R147): these ranges of memory in turn at their bytes, every other byte as it was, flags
accrued, and of the rest only stamps, parked threads' marks and the digest of a deterministic context. -/
def Claim.storedAll (s t : State) (ph : Nat → Nat) (l : List (Nat × List Byte)) (fl : Flags) : Prop :=
  (∀ a, Claim.byte t a = l.foldl (fun f x => Claim.putRange ph f x.1 x.2) (Claim.byte s) a) ∧ s.stamp ≤ t.stamp ∧
  t = { s.advance with
    mem := t.mem, parks := t.parks, stamp := t.stamp, tick := t.tick
    t := { s.advance.t with lastVector := t.t.lastVector, digest := t.t.digest, fflags := s.t.fflags ||| fl } } ∧
  (s.ctx.det = false → t.t.digest = s.t.digest)

/-- The active elements in rising order. -/
def Claim.actives (s : State) (p : PReg) : List Nat := (List.range s.t.vl.toNat).filter fun i => Claim.active s p i

/-- VST, VSTS, VSTX, VSTG and VST_P (R142, R143, R145, R147, R148, R156): where every active element's address is aligned and writable,
the elements, multivectors or bytes of predicate bits go to their addresses in rising order, and nothing else is written. -/
def Claim.VectorStores : Prop :=
  ∀ (p : PReg) (vs2 : VReg) (rs2 rs1 : Reg) (w : EW) (vs3 : VReg) (ps : PReg) (s : State) (ph : Nat → Nat),
    Claim.calm s → Claim.plainAccess s →
    let n := Claim.bytes w
    let sew := vtSew s.t.vtype
    let many : Nat := if vtFmt s.t.vtype = 3 then 32 else 64
    let does := fun (i : Instr) (size : Nat) (l : List (Nat × List Byte)) =>
      classLegal i s.legalEnv = true → (∀ x ∈ l, x.1 % size = 0) → Claim.storable s ph (l.map fun x => (x.1, x.2.length)) →
        ∃ t, exec i s = .next t ∧ Claim.storedAll s t ph l 0
    (∀ e ∈ Claim.modes s n vs2 rs2 (.vst p rs1 w vs3) (.vsts p rs2 rs1 w vs3) (.vstx p vs2 rs1 w vs3),
      does e.1 n ((Claim.actives s p).map fun k =>
        (Claim.address (s.t.readX rs1) (e.2 k), toBytes n (s.t.elem vs3.toNat (8 * n) k))) ∧
      (classLegal e.1 s.legalEnv = false → Claim.refused s e.1)) ∧
    (∀ e ∈ Claim.modes s many vs2 rs2 (.vstg p rs1 vs3) (.vstgS p rs2 rs1 vs3) (.vstgX p vs2 rs1 vs3),
      does e.1 many ((Claim.actives s p).map fun m =>
        (Claim.address (s.t.readX rs1) (e.2 m),
          (List.range 16).flatMap fun c => toBytes (sew / 8) (s.t.elem vs3.toNat sew (Claim.component s m c))))) ∧
    does (.vstP rs1 ps) 1 ((List.range ((s.t.vl.toNat + 7) / 8)).map fun k =>
      (((s.t.readX rs1).toNat + k) % 2 ^ 64, toBytes 1
        ((List.range 8).foldl (fun b j => b + if 8 * k + j < s.t.vl.toNat ∧ s.t.pred ps (8 * k + j) = true then 2 ^ j else 0) 0)))

/-- The three bytes that hold the scale pair of block j of a region: their address, and the pair's bit in them (R77). -/
def Claim.pairAt (r : Region) (j : Nat) : Nat × Nat := ((r.sbase + 20 * j / 8) % 2 ^ 64, 20 * j % 8)

/-- A block written with its pair at one step: its codes, and of the pair's bytes the pair's 20 bits alone (R77, R154, R155). -/
def Claim.putBlock (ph : Nat → Nat) (r : Region) (f : Nat → Byte) (j va : Nat) (codes : List Byte) (pair : Nat) : Nat → Byte :=
  let a := (Claim.pairAt r j).1
  let b := (Claim.pairAt r j).2
  let f := Claim.putRange ph f va codes
  let old := ofBytes ((lineParts a 3).flatMap fun e => (List.range e.2).map fun i => f (ph e.1 + i))
  let new := old - old / 2 ^ b % 2 ^ 20 * 2 ^ b + pair % 2 ^ 20 * 2 ^ b
  Claim.putRange ph f a (toBytes 3 new)

/-- VSTR and the encoding stores VSTF, VSTS_F and VSTX_F (R75, R77, R152, R154, R155): to a BF16 region each active element, converted
or bit for bit; to a block region whole blocks, their 48 codes and pairs encoded from the elements, +0 at or above VL, or as
VSTR finds them in vs3 and the register after it, and of a pair's bytes only its own 20 bits. The pages of a pair need only
allow the store. -/
def Claim.VectorRegionStores : Prop :=
  ∀ (p : PReg) (vs2 : VReg) (rs2 rs1 : Reg) (vs3 : VReg) (s : State) (ph va : Nat → Nat) (r : Region) (n0 : Int),
    Claim.calm s → Claim.plainAccess s →
    let w := vtSew s.t.vtype
    let f := vtIeeeFmt s.t.vtype
    let fl := vtFlush s.t.vtype
    let ty := vtFmt s.t.vtype
    let a := s.t.readX rs1
    let acts := Claim.actives s p
    let blocks := List.range ((s.t.vl.toNat + 47) / 48)
    let encoding := Claim.modes s 1 vs2 rs2 (.vstF p rs1 vs3) (.vstsF p rs2 rs1 vs3) (.vstxF p vs2 rs1 vs3)
    let raw := Claim.modes s 1 vs2 rs2 (.vstr p rs1 vs3) (.vstrS p rs2 rs1 vs3) (.vstrX p vs2 rs1 vs3)
    let elements := fun (e : Instr × (Nat → Int)) (val : Nat → Nat × Flags) =>
      let l := acts.map fun k => (va k, toBytes 2 (val k).1)
      (∀ u, Claim.during s ph (l.map fun x => (x.1, 2)) u → ∀ k ∈ acts, Claim.item u .store r (n0 + e.2 k) 0 2 (va k)) →
      Claim.storable s ph (l.map fun x => (x.1, 2)) →
      ∃ t, exec e.1 s = .next t ∧ Claim.storedAll s t ph l (acts.foldl (fun g k => g ||| (val k).2) 0)
    let whole := fun (e : Instr × (Nat → Int)) (size : Nat) (val : Nat → Nat × List Byte × Flags) =>
      let at_ := fun (j : Nat) => Claim.pairAt r (n0 + e.2 j).toNat
      let l := blocks.flatMap fun j => [(va j, size), ((at_ j).1, 3)]
      (∀ j ∈ blocks, (val j).2.1.length = size) →
      (∀ u, Claim.during s ph l u → ∀ j ∈ blocks, Claim.item u .store r (n0 + e.2 j) 0 size (va j)) →
      Claim.storable s ph l →
      ∃ t, exec e.1 s = .next t ∧ s.stamp ≤ t.stamp ∧
        (∀ x, Claim.byte t x = blocks.foldl (fun g j => Claim.putBlock ph r g (n0 + e.2 j).toNat (va j) (val j).2.1 (val j).1) (Claim.byte s) x) ∧
        t = { s.advance with
          mem := t.mem, parks := t.parks, stamp := t.stamp, tick := t.tick
          t := { s.advance.t with
            lastVector := t.t.lastVector, digest := t.t.digest
            fflags := s.t.fflags ||| blocks.foldl (fun g j => g ||| (val j).2.2) 0 } }
    Claim.startsAt s .store a r n0 → (∃ k, Claim.active s p k = true) →
    (∀ e ∈ encoding, classLegal e.1 s.legalEnv = true → indexFits s.t.lanes s.core.rowcap vs2 s.t.vl.toNat = true →
      (r.block = none → elements e fun k =>
        let x := s.t.elem vs3.toNat w k
        if ty = 3 then (s.t.elem vs3.toNat 16 k, 0) else Claim.narrow s f bf16 (f.read fl x)) ∧
      (∀ g, r.block = some g → p = 0 → whole e (6 * g.width) fun j =>
        let c := g.encode ((List.range 48).map fun q =>
          let x := s.t.elem vs3.toNat w (48 * j + q)
          if 48 * j + q < s.t.vl.toNat then (f.read fl x, f.signOf x) else (.num false 0, false))
        (c.1, g.blockOf c.2.1, c.2.2))) ∧
    (∀ e ∈ raw, classLegal e.1 s.legalEnv = true → r.fmt = ty →
      (r.block = none → elements e fun k => (s.t.elem vs3.toNat 16 k, 0)) ∧
      (∀ g, r.block = some g → whole e (6 * g.width) fun j =>
        (s.t.elem (vs3.toNat + 1) 32 j % 2 ^ 20,
          g.blockOf ((List.range 48).map fun q => s.t.elem vs3.toNat w (48 * j + q) % 2 ^ g.width), 0)))

/-! ### Posted scatters and textures -/

/-- VSCADD and VSTC (R157 to R160), of at most 8192 active elements: where every active element's address is aligned and translated to a line that is sound, each
VSCADD element is added into its word, in posting order, as the machine may choose outside a deterministic context, modulo the
width or as one rounded sum whose flags the thread receives; of the VSTC elements of one address the last active one is stored.
Where it rests on the model's own reading: assumptions 22, 25 of the log. -/
def Obligations.PostedScatters : Prop :=
  ∀ (p : PReg) (vs2 : VReg) (rs1 : Reg) (w : EW) (vs3 : VReg) (s : State) (pa : Nat → Nat),
    Claim.calm s → Claim.plainAccess s → Claim.noSegment s → s.ctx.det = false → s.t.live = true → s.pos < slotCount →
    (Claim.actives s p).length ≤ 8192 →
    let n := vtSew s.t.vtype / 8
    let acts := Claim.actives s p
    let a := fun k => Claim.address (s.t.readX rs1) (Claim.index s vs2 k : Nat)
    let x := fun k => s.t.elem vs3.toNat (8 * n) k
    let f := if vtFmt s.t.vtype = 3 then bf16 else if n = 2 then f16 else if n = 4 then f32 else f64
    let fl := vtFlush s.t.vtype
    let word := fun (g : Nat → Byte) (k : Nat) => ofBytes ((List.range n).map fun i => g (pa k + i))
    let add := fun (y : (Nat → Byte) × Flags) (k : Nat) =>
      if vtFmt s.t.vtype ≤ 1 then (Claim.put y.1 (pa k) (toBytes n (word y.1 k + x k)), y.2)
      else let r := Claim.sum f s.t.frm fl (f.read fl (word y.1 k)) (f.read fl (x k))
        (Claim.put y.1 (pa k) (toBytes n r.1), y.2 ||| r.2)
    let last := acts.filter fun k => !acts.any fun j => decide (k < j) && a j == a k
    let sum := acts.foldl add (Claim.byte s, (0 : Flags))
    let frame := fun (t : State) (fl : Flags) => t = { s.advance with
      mem := t.mem, parks := t.parks, stamp := t.stamp, tick := t.tick, nextOp := t.nextOp
      t := { s.advance.t with lastVector := t.t.lastVector, fflags := s.t.fflags ||| fl } }
    (∀ k ∈ acts, a k % n = 0 ∧ (∃ r, s.translate s.agent .store (a k) = .ok ((pa k, r), s)) ∧
      s.held s.agent (pa k) n = false ∧ s.lineOk (pa k / 128) = true) →
    (classLegal (.vscadd p vs2 rs1 w vs3) s.legalEnv = true → vtFmt s.t.vtype ≤ 3 → ∃ t, exec (.vscadd p vs2 rs1 w vs3) s = .next t ∧
      (∀ b, Claim.byte t b = sum.1 b) ∧ frame t sum.2) ∧
    (classLegal (.vstc p vs2 rs1 vs3) s.legalEnv = true → ∃ t, exec (.vstc p vs2 rs1 vs3) s = .next t ∧
      (∀ b, Claim.byte t b = last.foldl (fun g k => Claim.put g (pa k) (toBytes n (x k))) (Claim.byte s) b) ∧ frame t 0)

/-- The taps of a sample at texel coordinates u and w, with their weights, a zero weight left out (R163). -/
def Claim.taps (bilinear : Bool) (u w : Rat) : List (Int × Int × Rat) :=
  let x := u - 1 / 2
  let y := w - 1 / 2
  let a : Rat := (((x - x.floor) * 256).floor : Rat) / 256
  let b : Rat := (((y - y.floor) * 256).floor : Rat) / 256
  if bilinear then [(x.floor, y.floor, (1 - a) * (1 - b)), (x.floor + 1, y.floor, a * (1 - b)), (x.floor, y.floor + 1, (1 - a) * b),
    (x.floor + 1, y.floor + 1, a * b)].filter fun t => t.2.2 ≠ 0
  else [(u.floor, w.floor, 1)]

/-- TEXS (R162, R163): with a well-formed descriptor at x[rs1], each active element with finite coordinates whose taps can be read
gives, channel by channel, the one rounded sum of its weighted texels, with status 0; a NaN or an infinity gives the
canonical NaN; channels go to vd and the registers after it, the status behind them.
Where it rests on the model's own reading: assumptions 27, 28 of the log. -/
def Obligations.TextureSamples : Prop :=
  ∀ (p : PReg) (vs2 : VReg) (rs1 : Reg) (vd : VReg) (s : State) (d : List DWord) (bs : List Byte) (texel : Nat → List Byte),
    Claim.calm s → Claim.plainAccess s → classLegal (.texs p vs2 rs1 vd) s.legalEnv = true →
    let a := s.t.readX rs1
    let at_ := fun (k lo n : Nat) => (d.getD k 0).toNat / 2 ^ lo % 2 ^ n
    let w := at_ 1 0 16 + 1
    let h := at_ 1 16 16 + 1
    let fmt := at_ 1 36 4
    let size := if fmt = 0 then 4 else if fmt = 2 then 16 else 8
    let chans := if fmt = 0 then 1 else if fmt = 1 then 2 else 4
    let fl := vtFlush s.t.vtype
    let coord := fun (r k : Nat) => f32.read fl (s.t.elem r 32 k)
    let wrap := fun (n : Nat) (x : Int) => if at_ 1 42 2 = 1 then (x % n).toNat else if x < 0 then 0 else min x.toNat (n - 1)
    let place := fun (t : Int × Int × Rat) => ((d.getD 0 0).toNat + wrap h t.2.1 * (d.getD 2 0).toNat + wrap w t.1 * size) % 2 ^ 64
    let taps := fun (k : Nat) => match coord vs2.toNat k, coord (vs2.toNat + 1) k with
      | .num _ u, .num _ v => some (Claim.taps (at_ 1 40 2 == 1) (u * w) (v * h))
      | _, _ => none
    let channel := fun (x : List Byte) (c : Nat) =>
      if fmt = 3 then bf16.read fl (ofBytes x / 2 ^ (16 * c) % 2 ^ 16) else f32.read fl (ofBytes x / 2 ^ (32 * c) % 2 ^ 32)
    let value := fun (k c : Nat) => match taps k with
      | none => (f32.nan, if c = 0 then (coord vs2.toNat k).nv ||| (coord (vs2.toNat + 1) k).nv else 0)
      | some l =>
        let ps : List (FVal × Flags) := l.map fun (t : Int × Int × Rat) =>
          Claim.product (.num false t.2.2) (channel (texel (place t)) c)
        let r := f32.sum s.t.frm fl 0 (ps.map Prod.fst)
        (r.1, ps.foldl (fun (g : Flags) (q : FVal × Flags) => g ||| q.2) 0 ||| r.2)
    let acts := Claim.actives s p
    a.toNat % 64 = 0 → Claim.readable s a.toNat 64 bs → d = (List.range 8).map (fun k => BitVec.ofNat 64 (ofBytes ((bs.drop (8 * k)).take 8))) →
    textureOk d = true → vd.toNat + chans ≤ 31 → acts ≠ [] →
    (∀ k ∈ acts, ∀ l, taps k = some l → ∀ t ∈ l, s.read s.agent .load 6 (place t) size = .ok (texel (place t), s)) →
    ∃ t, exec (.texs p vs2 rs1 vd) s = .next t ∧
      Claim.loaded s t
        (((List.range chans).map fun c => (vd.toNat + c, 32, fun i => if Claim.active s p i then some (value i c).1 else none)) ++
          [(vd.toNat + chans, 32, fun i => if Claim.active s p i then some 0 else none)])
        (acts.foldl (fun g k => (List.range chans).foldl (fun g c => g ||| (value k c).2) g) 0)

/-- Vector loads, plain and first-fault. Where it rests on the model's own reading: assumptions 23, 24, 95, 113 of the log. -/
def Obligations.VectorLoads : Prop :=
  Claim.VectorPlainLoads ∧ Claim.VectorFirstFaultLoads

/-- Vector stores, plain and of regions. Where it rests on the model's own reading: assumptions 24, 25, 108 of the log. -/
def Obligations.VectorStoresAndRegionStores : Prop :=
  Claim.VectorStores ∧ Claim.VectorRegionStores


/-! ### Graded multivectors -/

/-- The blades of the sixteen rows as products of basis vectors in order, with their signs (R164): 1, e0, e1, e2, e3, e01, e02,
e03, e12, e31, e23, e021, e013, e032, e123, e0123. -/
def Claim.blades : List (List Nat) :=
  [[], [0], [1], [2], [3], [0, 1], [0, 2], [0, 3], [1, 2], [3, 1], [2, 3], [0, 2, 1], [0, 1, 3], [0, 3, 2], [1, 2, 3], [0, 1, 2, 3]]

/-- The product of a row's blade by a list of basis vectors from the right (R165). -/
def Claim.times (x : Int × Nat) : List Nat → Int × Nat
  | [] => x
  | k :: l => let y := bladeMul x.2 (k + 1); Claim.times (x.1 * y.1, y.2) l

/-- The algebra (R164, R165): e0 squares to 0 and e1 to e3 to 1, different basis vectors anticommute, row 0 is one, every row is
the product of its basis vectors in the order of its name, and the product is associative. -/
def Claim.GeometricAlgebra : Prop :=
  bladeMul 1 1 = (0, 0) ∧ (∀ k ∈ [2, 3, 4], bladeMul k k = (1, 0)) ∧
  (∀ j ∈ [1, 2, 3, 4], ∀ k ∈ [1, 2, 3, 4], j ≠ k →
    (bladeMul j k).2 = (bladeMul k j).2 ∧ (bladeMul j k).1 = -(bladeMul k j).1 ∧ (bladeMul j k).1 ≠ 0) ∧
  (∀ c < 16, bladeMul 0 c = (1, c) ∧ bladeMul c 0 = (1, c) ∧ Claim.times (1, 0) (Claim.blades.getD c []) = (1, c) ∧
    gradeOf c = (Claim.blades.getD c []).length) ∧
  ∀ i < 16, ∀ j < 16, ∀ k < 16,
    (bladeMul i j).1 * (bladeMul (bladeMul i j).2 k).1 = (bladeMul j k).1 * (bladeMul i (bladeMul j k).2).1 ∧
    (bladeMul (bladeMul i j).2 k).2 = (bladeMul i (bladeMul j k).2).2

/-- Component c of multivector m of a register as the number it is read as: reversed (grades 2 and 3 negated), involuted
(grades 1 and 3 negated), or both (R60, R166, R172, R173). -/
def Claim.multi (s : State) (r : VReg) (rev inv : Bool) (m c : Nat) : FVal :=
  let x := (vtIeeeFmt s.t.vtype).read (vtFlush s.t.vtype) (s.t.elem r.toNat (vtSew s.t.vtype) (Claim.component s m c))
  let g := gradeOf c
  if (rev && (g == 2 || g == 3)) ^^ (inv && (g == 1 || g == 3)) then Claim.opposite x else x

/-- A fused sum of exact terms with the flags of forming them; without a term, +0 (R65, R172). -/
def Claim.fusedSum (f : Fmt) (rm : BitVec 3) (fl : BitVec 2) (l : List (FVal × Flags)) : Nat × Flags :=
  if l = [] then (0, 0)
  else let r := f.sum rm fl 0 (l.map Prod.fst)
    (r.1, l.foldl (fun (g : Flags) (q : FVal × Flags) => g ||| q.2) 0 ||| r.2)

/-- A term negated where asked. -/
def Claim.signed (neg : Bool) (p : FVal × Flags) : FVal × Flags := (if neg then Claim.opposite p.1 else p.1, p.2)

/-- A grade is in a mask. -/
def Claim.inMask (m g : Nat) : Bool := m.testBit g

/-- Component c of a binary product over the pairs of blades whose grades are live (R172): for GP every pair, for GWEDGE those whose
grades add up, for GLDOT those whose grades subtract, for GCOMM those that anticommute. -/
def Claim.pairs (op : GOp) (a b : Nat → FVal) (c la lb : Nat) (neg : Bool) : List (FVal × Flags) :=
  (List.range 16).flatMap fun i => (List.range 16).filterMap fun j =>
    let t := bladeMul i j
    let keep := match op with
      | .gp => true
      | .wedge | .join => gradeOf t.2 == gradeOf i + gradeOf j
      | .ldot => gradeOf t.2 + gradeOf i == gradeOf j
      | .comm => (bladeMul j i).1 == -t.1
    if Claim.inMask la (gradeOf i) && Claim.inMask lb (gradeOf j) && t.1 != 0 && t.2 == c && keep then
      some (Claim.signed (neg ^^ (t.1 == -1)) (Claim.product (a i) (b j)))
    else none

/-- The dual of a multivector (R167): row d takes row 15 − d, negated where that is one of rows 11 to 14. -/
def Claim.dual (a : Nat → FVal) (d : Nat) : FVal := if 11 ≤ 15 - d ∧ 15 - d ≤ 14 then Claim.opposite (a (15 - d)) else a (15 - d)

/-- The grades of a dual: g becomes 4 − g. -/
def Claim.dualMask (m : Nat) : Nat := maskOf fun g => Claim.inMask m (4 - g)

/-- The terms of component c of V X ~V (R178). -/
def Claim.sandwich (v x : Nat → FVal) (c lv lx : Nat) (neg : Bool) : List (FVal × Flags) :=
  (List.range 16).flatMap fun i => (List.range 16).flatMap fun j => (List.range 16).filterMap fun k =>
    let p := bladeMul i j
    let q := bladeMul p.2 k
    if Claim.inMask lv (gradeOf i) && Claim.inMask lx (gradeOf j) && Claim.inMask lv (gradeOf k) && p.1 * q.1 != 0 && q.2 == c then
      let y := Claim.product (v i) (x j)
      let z := Claim.product y.1 (if gradeOf k = 2 ∨ gradeOf k = 3 then Claim.opposite (v k) else v k)
      some (Claim.signed (neg ^^ (p.1 * q.1 == -1)) (z.1, y.2 ||| z.2))
    else none

/-- The grades that two source grades may produce, the smaller first (R169): the columns GP, GWEDGE, GJOIN, GLDOT, GCOMM of the table. -/
def Claim.gradeTable : List (Nat × Nat × List (List Nat)) :=
  [(0, 0, [[0], [0], [], [0], []]), (0, 1, [[1], [1], [], [1], []]), (0, 2, [[2], [2], [], [2], []]),
   (0, 3, [[3], [3], [], [3], []]), (0, 4, [[4], [4], [0], [4], []]), (1, 1, [[0, 2], [2], [], [0], [2]]),
   (1, 2, [[1, 3], [3], [], [1], [1]]), (1, 3, [[2, 4], [4], [0], [2], [4]]), (1, 4, [[3], [], [1], [3], [3]]),
   (2, 2, [[0, 2, 4], [4], [0], [0], [2]]), (2, 3, [[1, 3], [], [1], [1], [3]]), (2, 4, [[2], [], [2], [2], []]),
   (3, 3, [[0, 2], [], [2], [0], [2]]), (3, 4, [[1], [], [3], [1], [1]]), (4, 4, [[], [], [4], [], []])]

/-- The column of an operation. -/
def Claim.column : GOp → Nat
  | .gp => 0
  | .wedge => 1
  | .join => 2
  | .ldot => 3
  | .comm => 4

/-- The grades a binary product infers from the live grades of its operands (R169): the table's sets, a pair with the larger grade
first as its reverse, and empty for GLDOT. -/
def Claim.inferred (op : GOp) (la lb : Nat) : Nat :=
  maskOf fun g => Claim.gradeTable.any fun r => (r.2.2.getD (Claim.column op) []).contains g &&
    (Claim.inMask la r.1 && Claim.inMask lb r.2.1 || op != .ldot && Claim.inMask la r.2.1 && Claim.inMask lb r.1)

/-- The number of a value that is one. -/
def Claim.number : FVal → Rat
  | .num _ q => q
  | _ => 0

/-- The rows of a list whose grade is live. -/
def Claim.liveRows (live : Nat) (rows : List Nat) : List Nat := rows.filter fun c => Claim.inMask live (gradeOf c)

/-- The exact sum of the squares of some rows (R62, R181): a NaN, signalling if one is, then an infinity, then a number. -/
def Claim.squares (a : Nat → FVal) (l : List Nat) : FVal :=
  if l.any fun c => a c == .nan true then .nan true
  else if l.any fun c => a c == .nan false then .nan false
  else if l.any fun c => a c == .inf true || a c == .inf false then .inf false
  else .num false ((l.map fun c => Claim.number (a c) * Claim.number (a c)).sum)

/-- The Euclidean and the ideal rows (R181). -/
def Claim.euclid : List Nat := [0, 2, 3, 4, 8, 9, 10, 14]
def Claim.ideal : List Nat := [1, 5, 6, 7, 11, 12, 13, 15]

/-- GNORMSQ (R181): the sum of squares rounded once; a zero with the sign of its terms; without a term, +0. -/
def Claim.normSquare (f : Fmt) (rm : BitVec 3) (fl : BitVec 2) (neg : Bool) (a : Nat → FVal) (l : List Nat) : Nat × Flags :=
  if l = [] then (0, 0)
  else match Claim.squares a l with
    | .nan x => (f.nan, Claim.nv x false)
    | .inf _ => (f.inf neg, 0)
    | .num _ q => if q = 0 then (f.zero (neg || rm == 2), 0) else f.roundNum rm fl (if neg then -q else q)

/-- GNORM and GNORMZ (R181), over the rows of each: as GNORMSQ where the sum is no positive number, and else round_once of its exact
root, negated where asked. -/
def Claim.GradedNorms : Prop :=
  ∀ f ∈ [f16, bf16, f32, f64], ∀ (rm : BitVec 3) (fl : BitVec 2) (neg : Bool) (a : Nat → FVal) (live : Nat),
    ∀ rows ∈ [Claim.euclid, Claim.ideal],
      let l := Claim.liveRows live rows
      let r := normComp true a live rows neg f rm fl
      (∀ q, l ≠ [] → Claim.squares a l = .num false q → q ≠ 0 →
        if neg then Claim.RoundOnce f rm fl true (fun x => 0 < x ∨ x * x < q) (fun x => x < 0 ∧ q < x * x) r.1 r.2
        else Claim.RoundOnce f rm fl false (fun x => 0 < x ∧ q < x * x) (fun x => x < 0 ∨ x * x < q) r.1 r.2) ∧
      ((l = [] ∨ ∀ q, Claim.squares a l = .num false q → q = 0) → r = Claim.normSquare f rm fl neg a l)

/-- A component of GINV (R182): the component, reversed and negated where asked, by the squared norm. -/
def Claim.inverse (f : Fmt) (rm : BitVec 3) (fl : BitVec 2) (neg : Bool) (a : Nat → FVal) (live c : Nat) : Nat × Flags :=
  let S := Claim.squares a (Claim.liveRows live Claim.euclid)
  let r := Claim.quotient f rm fl (if neg ^^ (gradeOf c == 2 || gradeOf c == 3) then Claim.opposite (a c) else a c) S
  (r.1, r.2 ||| if S = .nan true then flagNV else 0)

/-- The graded words but GDECL, each with its inferred mask and its components (R166, R167, R169, R172, R176 to R185):
the roots and the real functions by the functions that GradedNorms and GradedElementaryFunctions pin down. -/
def Claim.gradedWords (s : State) (p : PReg) (b a : VReg) (n iv r : Bool) (mask : BitVec 5) (d : VReg) :
    List (Instr × Nat × (Nat → Nat → Nat × Flags)) :=
  let f := vtIeeeFmt s.t.vtype
  let rm := s.t.frm
  let fl := vtFlush s.t.vtype
  let w := vtSew s.t.vtype
  let la := tagLive (s.t.readTag a)
  let lb := tagLive (s.t.readTag b)
  let x := fun m => Claim.multi s a r false m
  let y := fun m => Claim.multi s b false iv m
  let bits_ := fun (m c : Nat) => s.t.elem a.toNat w (Claim.component s m c)
  let flip := fun (o : Bool) (v : Nat) => if o then v ^^^ 2 ^ (w - 1) else v
  let rev := fun c => r && (gradeOf c == 2 || gradeOf c == 3)
  let two := fun (op : GOp) => fun m c => Claim.fusedSum f rm fl (Claim.pairs op (x m) (y m) c la lb n)
  [(.gp p b a n iv r d, Claim.inferred .gp la lb, two .gp), (.gwedge p b a n iv r d, Claim.inferred .wedge la lb, two .wedge),
   (.gldot p b a n iv r d, Claim.inferred .ldot la lb, two .ldot), (.gcomm p b a n iv r d, Claim.inferred .comm la lb, two .comm),
   (.gjoin p b a n iv r d, Claim.inferred .join la lb, fun m c => Claim.fusedSum f rm fl
      (Claim.pairs .wedge (Claim.dual (x m)) (Claim.dual (y m)) (15 - c) (Claim.dualMask la) (Claim.dualMask lb)
        (n ^^ (decide (11 ≤ c) && decide (c ≤ 14))))),
   (.gsand p b a n iv r d, lb, fun m c => Claim.fusedSum f rm fl (Claim.sandwich (x m) (y m) c la lb n)),
   (.gproj p mask a n r d, la &&& mask.toNat, fun m c => (flip (rev c ^^ n) (bits_ m c), 0)),
   (.grev p a n r d, la, fun m c => (flip ((gradeOf c == 2 || gradeOf c == 3) ^^ rev c ^^ n) (bits_ m c), 0)),
   (.ginvol p a n r d, la, fun m c => (flip ((gradeOf c == 1 || gradeOf c == 3) ^^ rev c ^^ n) (bits_ m c), 0)),
   (.gdual p a n r d, Claim.dualMask la, fun m c =>
      (flip ((decide (11 ≤ 15 - c) && decide (15 - c ≤ 14)) ^^ rev (15 - c) ^^ n) (bits_ m (15 - c)), 0)),
   (.gnormsq p a n r d, 1, fun m _ => Claim.normSquare f rm fl n (x m) (Claim.liveRows la Claim.euclid)),
   (.gnorm p a n r d, 1, fun m _ => normComp true (x m) la Claim.euclid n f rm fl),
   (.gnormz p a n r d, 1, fun m _ => normComp true (x m) la Claim.ideal n f rm fl),
   (.gexp p a n r d, 0b10101, fun m c => fnComp .exp (x m) c la n f rm fl),
   (.glog p a n r d, 0b00100, fun m c => fnComp .log (x m) c la n f rm fl),
   (.gsqrt p a n r d, 0b10101, fun m c => fnComp .sqrt (x m) c la n f rm fl),
   (.ginv p a n r d, la, fun m c => Claim.inverse f rm fl n (x m) la c)]

/-- The bits of a component are a number, not a zero of either sign. -/
def Claim.offends (s : State) (b : Nat) : Bool := b % 2 ^ (vtSew s.t.vtype - 1) != 0

/-- The graded words but GDECL (R44, R168 to R171): with VL 0 each only completes. Otherwise, with inferred mask inf and D of vd, a number in
a grade of inf outside D is grade-violation, with those grades and the first active multivector that holds one, and under GMODE
the flag GV; where the word goes on, the active multivectors take the components of inf and D, +0 elsewhere, and vd's tag
takes D and the live grades. One that VTYPE or VL does not admit is refused. -/
def Claim.GradedWords : Prop :=
  ∀ (p : PReg) (b a d : VReg) (n iv r : Bool) (mask : BitVec 5) (s : State), Claim.calm s →
    let w := vtSew s.t.vtype
    let act := Claim.active s p
    let dd := tagD (s.t.readTag d)
    let vl := s.t.vl.toNat
    ∀ e ∈ Claim.gradedWords s p b a n iv r mask d,
      let inf := e.2.1
      let comp := fun m c => if Claim.inMask inf (gradeOf c) then e.2.2 m c else (0, 0)
      let bad := fun (g m : Nat) => decide (g < 5) && Claim.inMask inf g && !Claim.inMask dd g && act m &&
        (List.range 16).any fun c => gradeOf c == g && Claim.offends s (comp m c).1
      let any := fun g => (List.range vl).any fun m => bad g m
      (classLegal e.1 s.legalEnv = false → Claim.refused s e.1) ∧
      (classLegal e.1 s.legalEnv = true →
        (vl = 0 → exec e.1 s = .next s.advance) ∧
        (vl ≠ 0 → s.t.gmode = false → ∀ m, (∃ g, bad g m = true) → (∀ m' < m, ∀ g, bad g m' = false) →
          Claim.vectorTraps s e.1 cause.grade (BitVec.ofNat 64 (maskOf any + m * 2 ^ 16))) ∧
        (vl ≠ 0 → s.t.gmode = true ∨ (∀ g, any g = false) →
          ∃ t, exec e.1 s = .next t ∧
            (∀ m c, act m = true → c < 16 → t.t.elem d.toNat w (Claim.component s m c) =
              if Claim.inMask inf (gradeOf c) && Claim.inMask dd (gradeOf c) then (comp m c).1 % 2 ^ w else 0) ∧
            (∀ i, (∀ m c, act m = true → c < 16 → i ≠ Claim.component s m c) → t.t.elem d.toNat w i = s.t.elem d.toNat w i) ∧
            (∀ q, q ≠ d → t.t.readV q = s.t.readV q) ∧
            (∀ q, t.t.readTag q = if q = d then tagOf dd (inf &&& dd |||
                (if p ≠ 0 ∨ vl < gradedLimit s.t.vtype s.t.lanes then tagLive (s.t.readTag d) else 0)) else s.t.readTag q) ∧
            t = { s.advance with t := { s.advance.t with
              v := t.t.v, tags := t.t.tags
              fflags := s.t.fflags ||| (if (List.range 5).any any then flagGV else 0) |||
                (List.range vl).foldl (fun g m => if act m then (List.range 16).foldl (fun g c => g ||| (comp m c).2) g else g) 0 } }))

/-- GDECL (R168, R171, R187): with VL 0 it only completes. Otherwise a number outside the declared grades in any multivector below the limit is
grade-violation without GMODE; under GMODE every component outside them is cleared with the flag GV; with none the components
stay. The tag takes the declared grades and the live ones among them. -/
def Claim.GradeDeclaration : Prop :=
  ∀ (mask : BitVec 5) (d : VReg) (s : State), Claim.calm s →
    let i := Instr.gdecl mask d
    let w := vtSew s.t.vtype
    let limit := gradedLimit s.t.vtype s.t.lanes
    let out := fun c => decide (c < 16) && !Claim.inMask mask.toNat (gradeOf c)
    let number := fun (m c : Nat) => out c && Claim.offends s (s.t.elem d.toNat w (Claim.component s m c))
    let any := fun g => (List.range limit).any fun m => (List.range 16).any fun c => gradeOf c == g && number m c
    let tagged := fun (t : State) => ∀ q, t.t.readTag q =
      if q = d then tagOf mask.toNat (tagLive (s.t.readTag d) &&& mask.toNat) else s.t.readTag q
    (classLegal i s.legalEnv = false → Claim.refused s i) ∧
    (classLegal i s.legalEnv = true →
      (s.t.vl = 0 → exec i s = .next s.advance) ∧
      (s.t.vl ≠ 0 → s.t.gmode = false → ∀ m < limit, (∃ c, number m c = true) → (∀ m' < m, ∀ c, number m' c = false) →
        Claim.vectorTraps s i cause.grade (BitVec.ofNat 64 (maskOf any + m * 2 ^ 16))) ∧
      (s.t.vl ≠ 0 → (∀ m < limit, ∀ c, number m c = false) →
        ∃ t, exec i s = .next t ∧ tagged t ∧ t = { s.advance with t := { s.advance.t with tags := t.t.tags } }) ∧
      (s.t.vl ≠ 0 → s.t.gmode = true → (∃ m < limit, ∃ c, number m c = true) →
        ∃ t, exec i s = .next t ∧ tagged t ∧
          (∀ m c, m < limit → out c = true → t.t.elem d.toNat w (Claim.component s m c) = 0) ∧
          (∀ j, (∀ m c, m < limit → out c = true → j ≠ Claim.component s m c) → t.t.elem d.toNat w j = s.t.elem d.toNat w j) ∧
          (∀ q, q ≠ d → t.t.readV q = s.t.readV q) ∧
          t = { s.advance with t := { s.advance.t with v := t.t.v, tags := t.t.tags, fflags := s.t.fflags ||| flagGV } }))

/-! ### Vector-thread blocks -/

/-- The words of a block at an address that meet no memory: each fetched, legal in a block, and behind them the end of the block,
STOP or an LFETCH (R227, R229). -/
inductive Claim.Block (s : State) (le : LegalEnv) : DWord → List (DWord × Instr) → BlockEnd → Prop
  | last (a : DWord) (w : Word) (b : BlockEnd) : s.fetch a true = .ok (w, s) → blockWord w le = some (.last b) → Claim.Block s le a [] b
  | word (a : DWord) (w : Word) (i : Instr) (l : List (DWord × Instr)) (b : BlockEnd) :
      s.fetch a true = .ok (w, s) → blockWord w le = some (.run i) → memWord i = none → (∀ env, postWord i env = none) →
      Claim.Block s le (a + 4) l b → Claim.Block s le a ((a, i) :: l) b

/-- VBLK and VJOIN (R225 to R229, R233): a VBLK with VL 0 completes with nothing run; one whose block of at most 32 words meets no
memory runs each word on all its VL lanes, with x registers as they stood at the VBLK, and at STOP, or at an LFETCH that takes
every lane to 0, it commits. VJOIN completes once no VBLK is queued, and in a handler at once.
Where it rests on the model's own reading: assumptions 36, 37, 114 of the log. -/
def Obligations.VectorThreadBlocks : Prop :=
  ∀ (imm : BitVec 12) (rs1 : Reg) (s : State),
    let i := Instr.vblk imm rs1
    let a := s.t.readX rs1 + imm.signExtend 64
    let le : LegalEnv := { vt := s.t.vtype, vl := s.t.vl.toNat, lanes := s.t.lanes, rowcap := s.core.rowcap, zn := 0 }
    let env := s.t.env
    ((∀ e ∈ s.t.queue, ∀ k r, e.instr ≠ .vblk k r) ∨ s.t.inTrap = true → exec .vjoin s = .next s.advance) ∧
    ((∃ e ∈ s.t.queue, ∃ k r, e.instr = .vblk k r) → s.t.inTrap = false → exec .vjoin s = Claim.held s) ∧
    (Claim.calm s →
      (s.t.vl = 0 → exec i s = .next s.advance) ∧
      (s.t.vl ≠ 0 → a.toNat % 4 ≠ 0 → Claim.vectorTraps s i cause.misalignedFetch a) ∧
      (s.t.vl ≠ 0 → a.toNat % 4 = 0 → s.ch.staleFetch = false → s.ch.keepFetched = false → s.ch.fillCache = false →
        ∀ l b, Claim.Block s le a l b → l.length < 32 →
          let run := fun (u : State) (x : DWord × Instr) =>
            let e := s.t.operands x.2 { addr := x.1, instr := x.2, frm := s.t.frm, gmode := s.t.gmode, sthresh := s.t.sthresh, lbypass := s.t.lbypass }
            (vectorEffect x.2 e env u).getD u
          let t := l.foldl run s.advance
          (b = .stop ∨ ∃ k r v, b = .fetch k r v ∧
            ∀ j < s.t.vl.toNat, s.t.readX r + BitVec.ofNat 64 (Claim.index t v j) + k.signExtend 64 = 0) →
          exec i s = .next t))

/-! ### The real functions of graded numbers -/

/-- Row c of exp of a bivector (R183). -/
def Claim.isExp (a : Nat → ℝ) (c : Nat) (v : ℝ) : Prop :=
  let l := a 8 ^ 2 + a 9 ^ 2 + a 10 ^ 2
  let m := a 5 * a 10 + a 6 * a 9 + a 7 * a 8
  let u := Real.sqrt l
  let s := Real.sin u / u
  let t := m * (Real.cos u - s) / l
  if l = 0 then v = if c = 0 then 1 else if 5 ≤ c ∧ c ≤ 7 then a c else 0
  else v = if c = 0 then Real.cos u else if c = 15 then m * s else if 8 ≤ c then s * a c else s * a c + t * a (15 - c)

/-- Row c, one of 5 to 10, of log of a motor whose row 0 is in the domain (R184). -/
def Claim.isLog (a : Nat → ℝ) (c : Nat) (v : ℝ) : Prop :=
  let q := a 0
  let w := 1 / (1 - q ^ 2)
  let b := Real.arccos q * Real.sqrt w
  let h := w * a 15 * (1 - q * b)
  if q = 1 then v = if c ≤ 7 then a c else 0
  else v = if c ≤ 7 then h * a (15 - c) + b * a c else b * a c

/-- The exact value of a written component of GEXP, GLOG or GSQRT (R183 to R185). -/
def Claim.isReal (fn : GFn) (a : Nat → ℝ) (c : Nat) (v : ℝ) : Prop :=
  match fn with
  | .exp => Claim.isExp a c v
  | .log => Claim.isLog a c v
  | .sqrt => ∃ d : Nat → ℝ, (∀ k ∈ [5, 6, 7, 8, 9, 10], Claim.isLog a k (2 * d k)) ∧ Claim.isExp d c v

/-- A number that rounding may turn on: of one bit more than the precision, no finer than half a unit of the precision just below the
least normal number. -/
def Claim.halfStep (f : Fmt) (h : ℝ) : Prop :=
  ∃ m e : Int, m.natAbs < 2 ^ (f.mb + 2) ∧ -(f.bias : Int) - f.mb - 1 ≤ e ∧ h = m * (2 : ℝ) ^ e

/-- The rows that GEXP, GLOG and GSQRT read, and those they write by a formula (R183 to R185). -/
def Claim.readsOf : GFn → List Nat
  | .exp => [5, 6, 7, 8, 9, 10]
  | _ => [0, 5, 6, 7, 8, 9, 10, 15]
def Claim.writesOf : GFn → List Nat
  | .log => [5, 6, 7, 8, 9, 10]
  | _ => [0, 5, 6, 7, 8, 9, 10, 15]

/-- The components of GEXP, GLOG and GSQRT (R183 to R186), for a multivector read from bits of the format: rows without a formula are
+0; row 0 outside the domain gives NaN and NV; a NaN or an infinity among the rows read gives NaN, with NV for a signalling
NaN or an infinity; else an exact zero is +0, −0 under RDN, and another value is rounded once, provided that it lies on each
number that rounding may turn on or apart from it by more than the model's last precision tells. -/
def Claim.GradedElementaryFunctions : Prop :=
  ∀ f ∈ [f16, bf16, f32, f64], ∀ (fn : GFn) (rm : BitVec 3) (fl : BitVec 2) (neg : Bool) (a : Nat → FVal) (live c : Nat),
    (∀ k, ∃ b, ∃ o : Bool, a k = if o then Claim.opposite (f.read fl b) else f.read fl b) →
    let r := fnComp fn a c live neg f rm fl
    let x := fun (k : Nat) => if Claim.inMask live (gradeOf k) then a k else .num false 0
    let y := fun (k : Nat) => ((Claim.number (x k) : Rat) : ℝ)
    let reads := Claim.readsOf fn
    let out := fn ≠ .exp ∧ (1 < Claim.number (x 0) ∨ Claim.number (x 0) ≤ -1)
    let special := fun (k : Nat) => ∀ m q, x k ≠ .num m q
    let loud := fun (k : Nat) => x k = .nan true ∨ ∃ m, x k = .inf m
    (c ∉ Claim.writesOf fn → r = (0, 0)) ∧
    (c ∈ Claim.writesOf fn →
      (out → r = (f.nan, flagNV)) ∧
      (¬ out → (∃ k ∈ reads, loud k) → r = (f.nan, flagNV)) ∧
      (¬ out → (∃ k ∈ reads, special k) → (∀ k ∈ reads, ¬ loud k) → r = (f.nan, 0)) ∧
      (¬ out → (∀ k ∈ reads, ¬ special k) → ∀ v, Claim.isReal fn y c v →
        (∀ h, Claim.halfStep f h → h ≠ v → (2 : ℝ) ^ (-2300 : Int) * (1 + (reads.map fun k => |y k|).sum) ^ 6 ≤ |v - h|) →
          (v = 0 → r = (f.zero (rm == 2), 0)) ∧
          (v ≠ 0 →
            let z := if neg then -v else v
            Claim.RoundOnce f rm fl (decide (z < 0)) (fun q => z < (q : ℝ)) (fun q => (q : ℝ) < z) r.1 r.2)))

/-- The products of the geometric algebras, the words on graded numbers, their norms, their elementary functions and the declaration of grades.
Where it rests on the model's own reading: assumptions 10, 26, 118 of the log. -/
def Obligations.GradedAlgebra : Prop :=
  Claim.GeometricAlgebra ∧ Claim.GradedWords ∧ Claim.GradedNorms ∧ Claim.GradedElementaryFunctions ∧ Claim.GradeDeclaration

/-! ### The tile unit -/

/-- The vector side is at rest in tile mode, with a legal type, and the thread holds its core's tile unit. -/
def Claim.calmTile (s : State) : Prop :=
  s.t.inTrap = false ∧ s.t.queue = [] ∧ s.t.posted = [] ∧ s.t.scalars = [] ∧ s.t.chain = none ∧ s.t.tile = true ∧ s.t.tileSave = [] ∧
  s.ch.runAhead = false ∧ s.t.dvtype = s.t.vtype ∧ s.t.dvl = s.t.vl ∧ s.t.dtshape = s.t.tshape ∧ vtIll s.t.vtype = false ∧
  0 < s.t.lanes ∧ s.core.tileOwner = some (s.pos % 4)

/-- A state that differs at most in stamps and in how far the thread has come: its queue, its address, its registers x, its tokens. -/
def Claim.like (s u : State) : Prop :=
  u = { s with
    stamp := u.stamp, tick := u.tick
    t := { s.t with
      queue := u.t.queue, pc := u.t.pc, lcount := u.t.lcount, wait := u.t.wait, chain := u.t.chain, lastVector := u.t.lastVector
      lastStamp := u.t.lastStamp, x := u.t.x, tokens := u.t.tokens } }

/-- Element (r, c) of an accumulator of the thread's core (R192). -/
def Claim.acc (s : State) (z : ZReg) (r c : Nat) : Nat := (sget (w := 32) (s.core.z[z.toNat]'z.isLt) (96 * r + c)).toNat

/-- M, N and K of TSHAPE (R196). -/
def Claim.shape (s : State) : Nat × Nat × Nat :=
  (s.t.tshape.toNat % 2 ^ 7, s.t.tshape.toNat / 2 ^ 8 % 2 ^ 7, s.t.tshape.toNat / 2 ^ 16 % 2 ^ 16)

/-- k values that a tile position packs (R199). -/
def Claim.pack (s : State) : Nat := if vtFmt s.t.vtype = 4 then 2 else if vtFmt s.t.vtype = 5 ∨ vtFmt s.t.vtype = 6 then 4 else 1

/-- What a word that updates an accumulator leaves: the elements given at their values, every other element and accumulator as
they were, flags accrued, and nothing else changed but for its steps. -/
def Claim.wroteAcc (s t : State) (z : ZReg) (val : Nat → Nat → Option Nat) (fl : Flags) : Prop :=
  (∀ r c, c < 96 → Claim.acc t z r c = match val r c with | some v => v % 2 ^ 32 | none => Claim.acc s z r c) ∧
  (∀ q, q ≠ z → ∀ r c, c < 96 → Claim.acc t q r c = Claim.acc s q r c) ∧
  t = { s.advance with
    stamp := t.stamp, tick := t.tick, core := { s.core with z := t.core.z }
    t := { s.advance.t with lastVector := t.t.lastVector, fflags := s.t.fflags ||| fl } }

/-- MODET, MODEV, TSHAPE and TZERO (R192 to R198, R207): MODET in vector mode takes the unit where it is free, or the first waiter's, zeroes
the accumulators and predicates and sets the tile type, VL and the full shape; where another thread holds it MODET waits at
the head of the queue, behind the earlier waiters. MODEV gives the unit up. TSHAPE sets a shape within the unit, and TZERO clears one
accumulator. Each is refused in the other mode, TSHAPE and an accumulator beyond the unit as well. -/
def Claim.TileModeWords : Prop :=
  ∀ (req : BitVec 11) (rs2 rs1 : Reg) (z : ZReg) (s : State),
    let k := s.pos % 4
    let vt : DWord := req.setWidth 64
    let fmt := req.toNat / 2 ^ 3 % 2 ^ 4
    let vl : BitVec 14 := BitVec.ofNat 14 (96 * if fmt = 4 then 2 else if fmt = 5 ∨ fmt = 6 then 4 else 1)
    let full : DWord := 0x16060
    let m := (s.t.readX rs1).toNat % 2 ^ 32
    let n := (s.t.readX rs1).toNat / 2 ^ 32
    let kk := (s.t.readX rs2).toNat
    (Claim.calm s →
      (s.core.tileOwner = some k ∨ s.core.tileOwner = none ∧ (s.core.tileWaiters = [] ∨ s.core.tileWaiters.head? = some k) →
        exec (.modet req) s = .next { s.advance with
          core := { s.core with
            tileOwner := some k, z := Vector.replicate 4 []
            tileWaiters := s.core.tileWaiters.filter (fun w => w != k) }
          t := { s.advance.t with
            tile := true, vtype := vt, dvtype := vt, vl := vl, dvl := vl, tshape := full, dtshape := full, p := Vector.replicate 16 [] } }) ∧
      (∀ o, s.core.tileOwner = some o → o ≠ k → ∃ t, exec (.modet req) s = .next t ∧ t.t.pc = s.advance.t.pc ∧
        (∃ e, t.t.queue = [e] ∧ e.instr = .modet req) ∧ t.t.tile = true ∧ t.t.vtype = s.t.vtype ∧ t.core.z = s.core.z ∧
        t.core.tileOwner = some o ∧
        t.core.tileWaiters = if k ∈ s.core.tileWaiters then s.core.tileWaiters else s.core.tileWaiters ++ [k]) ∧
      (∀ i ∈ [Instr.modev, .tshape rs2 rs1, .tzero z], Claim.refused s i)) ∧
    (Claim.calmTile s →
      exec .modev s = .next { s.advance with
        core := { s.core with tileOwner := none, tileWaiters := s.core.tileWaiters.filter (fun w => w != k), z := Vector.replicate 4 [] }
        t := { s.advance.t with tile := false } } ∧
      (m ≤ 96 ∧ n ≤ 96 ∧ kk ≤ s.core.tilecapK → kk < 2 ^ 16 →
        let shape := BitVec.ofNat 64 (m + 2 ^ 8 * n + 2 ^ 16 * kk)
        exec (.tshape rs2 rs1) s = .next { s.advance with t := { s.advance.t with tshape := shape, dtshape := shape } }) ∧
      (¬ (m ≤ 96 ∧ n ≤ 96 ∧ kk ≤ s.core.tilecapK) → Claim.refused s (.tshape rs2 rs1)) ∧
      (z.toNat < s.core.tilecapZn → ∃ t, exec (.tzero z) s = .next t ∧ Claim.wroteAcc s t z (fun _ _ => some 0) 0) ∧
      (s.core.tilecapZn ≤ z.toNat → Claim.refused s (.tzero z)) ∧
      Claim.refused s (.modet req))

/-- The value of element e of a tile operand: an IEEE element under FLUSH, or a code under the scale pair of its 48 (R200). -/
def Claim.operand (s : State) (v e : Nat) : FVal :=
  let w := vtSew s.t.vtype
  if 4 ≤ vtFmt s.t.vtype then
    (vtBlockFmt s.t.vtype).decode (s.t.elem v w e) ((s.t.elem (v + 1) 32 (e / 48)) % 2 ^ 20)
  else (vtIeeeFmt s.t.vtype).read (vtFlush s.t.vtype) (s.t.elem v w e)

/-- One update of an element: the packed products, negated where asked, and the old value unless it is set, as one fused sum (R202). -/
def Claim.update (rm : BitVec 3) (fl : BitVec 2) (neg set : Bool) (l : List (FVal × FVal)) (old : Nat) : Nat × Flags :=
  let ps := l.map fun (p : FVal × FVal) => Claim.product p.1 p.2
  let r := f32.sum rm fl 0 ((ps.map fun (p : FVal × Flags) => if neg then Claim.opposite p.1 else p.1) ++
    if set then [] else [f32.read fl old])
  (r.1, ps.foldl (fun (g : Flags) (p : FVal × Flags) => g ||| p.2) 0 ||| r.2)

/-- The flags of the M × N corner together. -/
def Claim.corner (m n : Nat) (fl : Nat → Nat → Flags) : Flags :=
  (List.range m).foldl (fun g r => (List.range n).foldl (fun g c => g ||| fl r c) g) 0

/-- The elements of a corner. -/
def Claim.inCorner (m n : Nat) (val : Nat → Nat → Nat) (r c : Nat) : Option Nat := if r < m ∧ c < n then some (val r c) else none

/-- An accumulator element after the first steps of a TOPAS: one update for each k (R204). -/
def Claim.steps (rm : BitVec 3) (fl : BitVec 2) (neg set : Bool) (pack : Nat) (a b : List FVal) (old : Nat) : Nat → Nat × Flags
  | 0 => (old, 0)
  | k + 1 =>
    let p := Claim.steps rm fl neg set pack a b old k
    let u := Claim.update rm fl neg (set && k == 0) (((a.drop (pack * k)).take pack).zip ((b.drop (pack * k)).take pack)) p.1
    (u.1, p.2 ||| u.2)

/-- What a TDRAIN leaves of the thread's registers (R210): the first N elements of its row in vd, which is ungraded. -/
def Claim.drained (s t : State) (z : ZReg) (row : Nat) (vd : VReg) : Prop :=
  (∀ j, t.t.elem vd.toNat 32 j = if j < (Claim.shape s).2.1 then Claim.acc s z row j else s.t.elem vd.toNat 32 j) ∧
  (∀ q, q ≠ vd → t.t.readV q = s.t.readV q) ∧ (∀ q, t.t.readTag q = if q = vd then 0x7FF else s.t.readTag q)

/-- A chain (R211, R212): a TDRAIN at the head of the queue waits until its words are queued, whatever the scalar stream waits for; then it commits with them, their
effects in order and none apart, where none of them reaches memory. -/
def Claim.ChainsCommitTogether : Prop :=
  ∀ (n : BitVec 3) (z : ZReg) (rs1 : Reg) (vd : VReg) (s : State) (e : VEntry) (cs : List VEntry),
    s.t.queue = e :: cs → e.instr = .tdrain n z rs1 vd → s.t.inTrap = false → s.t.tileSave = [] →
    (∀ c ∈ cs, c.chain.isSome = true ∧ chainStore c.instr = false ∧ isMarker c.instr = false) →
    (cs.length < n.toNat → s.moveHead none = .stuck s) ∧
    (cs.length = n.toNat → (Claim.shape s).2.1 ≤ 96 → ∃ u, Claim.drained s u z e.a.toNat vd ∧
      u = { s with t := { s.t with queue := [e], v := u.t.v, tags := u.t.tags } } ∧
      let r := cs.foldl (fun v c => (vectorEffect c.instr c (entryEnv v.t c) v).getD v) u
      s.moveHead none = .moved ({ r with t := { r.t with queue := r.t.queue.drop 1 } } : State).headArrives)

/-- TOPA, TOPAS and TDRAIN (R199 to R205, R210): TOPA updates the M × N corner once, element (r, c) by the packed values of row r of A
and of column c of B; TOPAS updates it K times, from the panels that its two captured handles read; with M or N zero neither does anything,
and a TOPAS whose K is beyond the unit is illegal; one with K zero still opens its handles (the model's reading: assumption 120). TDRAIN with no chain writes the first
N elements of a row into a register and ungrades it, and with n > 0 it opens a chain of n words and waits in the queue for them. -/
def Claim.TileProducts : Prop :=
  ∀ (set neg : Bool) (vb va vd : VReg) (hb ha : HReg) (z : ZReg) (n : BitVec 3) (rs1 : Reg) (s : State)
    (a b : List (List FVal)) (fa fb : Flags), Claim.calmTile s →
    let M := (Claim.shape s).1
    let N := (Claim.shape s).2.1
    let K := (Claim.shape s).2.2
    let pack := Claim.pack s
    let rm := s.t.frm
    let fl := vtFlush s.t.vtype
    let topa := Instr.topa set neg vb va z
    let topas := Instr.topas set neg hb ha z
    let one := fun r c => Claim.update rm fl neg set
      ((List.range pack).map fun p => (Claim.operand s va.toNat (pack * r + p), Claim.operand s vb.toNat (pack * c + p))) (Claim.acc s z r c)
    let all := fun r c => Claim.steps rm fl neg set pack (a.getD r []) (b.getD c []) (Claim.acc s z r c) K
    let row := (s.t.readX rs1).toNat
    (∀ i ∈ [topa, topas, .tdrain n z rs1 vd], classLegal i s.legalEnv = false → Claim.refused s i) ∧
    (classLegal topa s.legalEnv = true → M ≤ 96 → N ≤ 96 → ∃ t, exec topa s = .next t ∧
      Claim.wroteAcc s t z (Claim.inCorner M N fun r c => (one r c).1) (Claim.corner M N fun r c => (one r c).2)) ∧
    (classLegal topas s.legalEnv = true → s.core.tilecapK < K →
      Claim.vectorTraps s topas cause.illegal ((encode topas).setWidth 64)) ∧
    (classLegal topas s.legalEnv = true → K ≤ s.core.tilecapK → M = 0 ∨ N = 0 → exec topas s = .next s.advance) ∧
    (classLegal topas s.legalEnv = true → K ≤ s.core.tilecapK → 0 < M → M ≤ 96 → 0 < N → N ≤ 96 →
      a.length = M → b.length = N →
      (∀ u, Claim.like s u → readPanel (s.t.readH ha) s.t.vtype M (pack * K) u = .ok ((a, fa), u) ∧
        readPanel (s.t.readH hb) s.t.vtype N (pack * K) u = .ok ((b, fb), u)) →
      ∃ t, exec topas s = .next t ∧
        Claim.wroteAcc s t z (Claim.inCorner M N fun r c => (all r c).1) (fa ||| fb ||| Claim.corner M N fun r c => (all r c).2)) ∧
    (classLegal (.tdrain n z rs1 vd) s.legalEnv = true →
      (96 ≤ row → Claim.refused s (.tdrain n z rs1 vd)) ∧
      (row < 96 → N ≤ 96 →
        (n = 0 → ∃ t, exec (.tdrain n z rs1 vd) s = .next t ∧ Claim.drained s t z row vd ∧
          t = { s.advance with t := { s.advance.t with v := t.t.v, tags := t.t.tags } }) ∧
        (n ≠ 0 → ∃ e c, exec (.tdrain n z rs1 vd) s = .next { s.advance with t := { s.advance.t with queue := [e], chain := some c } } ∧
          e.instr = .tdrain n z rs1 vd ∧ e.a.toNat = row ∧ c.left = n.toNat ∧ c.n = N ∧ c.stored = false))) ∧
    Claim.ChainsCommitTogether

/-- The panels of a TOPAS (R204, R297, R298, R304): from a handle of the tile type, element (i, k) is the layered value at row OR + i and column OC + k, converted once by RNE
into an IEEE tile type; a block tensor without layers gives the value of its own code and scale pair, and one with layers the code that encode_block gives the layered values of the 48
columns about it (assumption 30). Any other element format is format-region. -/
def Claim.Panels : Prop :=
  ∀ (h : Handle) (vt : DWord) (rows count : Nat) (s : State) (T : Tensor) (val : Nat → Nat → FVal × Flags),
    openTensor h s.portAgent 1 s = .ok (T, s) →
    let panel := readPanel h vt rows count s
    let r0 := h.orow
    let c0 := h.ocol
    let b0 := c0 / 48
    let nb := if count = 0 then 0 else (c0 + count - 1) / 48 + 1 - b0
    let reads := fun (lo n : Nat) => ∀ r c, r0 ≤ r → r < r0 + rows → lo ≤ c → c < lo + n → T.value r c s = .ok (val r c, s)
    let each := fun (x : Nat → Nat → FVal) => (List.range rows).map fun i => (List.range count).map fun k => x (r0 + i) (c0 + k)
    let flags := fun (lo n : Nat) (g : Nat → Nat → Flags) =>
      (List.range rows).foldl (fun f i => (List.range n).foldl (fun (f : Flags) k => f ||| g (r0 + i) (lo + k)) f) (0 : Flags)
    (T.efmt ≠ vtFmt vt → panel = .error (.trap cause.formatRegion 0, s)) ∧
    (T.efmt = vtFmt vt → T.limits r0 (r0 + rows) c0 (c0 + count) s = .ok s →
      (vtFmt vt = 2 ∨ vtFmt vt = 3 → reads c0 count →
        let f := vtIeeeFmt vt
        let once := fun r c => f.convert 0 0 (val r c).1
        panel = .ok ((each fun r c => f.read (vtFlush vt) (once r c).1, flags c0 count fun r c => (val r c).2 ||| (once r c).2), s)) ∧
      (4 ≤ vtFmt vt → T.block = some (vtBlockFmt vt) → T.layers = [] → reads c0 count → panel = .ok ((each fun r c => (val r c).1, 0), s)) ∧
      (4 ≤ vtFmt vt → T.layers ≠ [] → reads (48 * b0) (48 * nb) →
        let f := vtBlockFmt vt
        let block := fun r b => f.encode ((List.range 48).map fun q => ((val r (48 * b + q)).1, (val r (48 * b + q)).1.neg))
        panel = .ok ((each fun r c => f.decode ((block r (c / 48)).2.1.getD (c % 48) 0) (block r (c / 48)).1,
          flags (48 * b0) (48 * nb) (fun r c => (val r c).2) ||| flags b0 nb fun r b => (block r b).2.2), s)))

/-- The words of tile products, the panels that TOPAS reads, and chains. Where it rests on the model's own reading: assumptions 21, 30, 34, 98, 119, 120 of the log. -/
def Obligations.TileProductWords : Prop :=
  Claim.TileProducts ∧ Claim.Panels

/-- TLDZ, TSTZ and TFETCH (R208, R209, R303): element (r, c) of the corner at x[rs1] + r × x[rs2] + 4c, every address aligned: TLDZ reads
all of them and then writes the accumulator, TSTZ stores them in rising order. TFETCH reads 96 rows of packed columns of a captured handle's
window, from the k position in x[rs1], into an operand register, converted to an IEEE tile type or encoded as blocks. -/
def Claim.TileMemoryWords : Prop :=
  ∀ (rs2 rs1 : Reg) (z : ZReg) (hs : HReg) (va : VReg) (s : State) (bs : Nat → List Byte) (ph : Nat → Nat) (T : Tensor)
    (val : Nat → Nat → FVal × Flags), Claim.calmTile s → Claim.plainAccess s →
    let M := (Claim.shape s).1
    let N := (Claim.shape s).2.1
    let pack := Claim.pack s
    let w := vtSew s.t.vtype
    let fl := vtFlush s.t.vtype
    let a := fun k => Claim.address (s.t.readX rs1) ((k / N : Nat) * (s.t.readX rs2).toInt + (4 * (k % N) : Nat))
    let total := List.range (M * N)
    let fetch := Instr.tfetch hs rs1 va
    let h := s.t.readH hs
    let col := h.ocol + pack * (s.t.readX rs1).toNat
    let read := fun (x : Nat) => val (h.orow + x / pack) (col + x % pack)
    (∀ i ∈ [Instr.tldz rs2 rs1 z, .tstz rs2 rs1 z, fetch], classLegal i s.legalEnv = false → Claim.refused s i) ∧
    (classLegal (.tldz rs2 rs1 z) s.legalEnv = true → N ≤ 96 →
      (∀ k ∈ total, a k % 4 = 0 ∧ Claim.readable s (a k) 4 (bs k)) →
      ∃ t, exec (.tldz rs2 rs1 z) s = .next t ∧
        Claim.wroteAcc s t z (Claim.inCorner M N fun r c => ofBytes (bs (N * r + c))) 0) ∧
    (classLegal (.tstz rs2 rs1 z) s.legalEnv = true → N ≤ 96 →
      let l := total.map fun k => (a k, toBytes 4 (Claim.acc s z (k / N) (k % N)))
      (∀ k ∈ total, a k % 4 = 0) → Claim.storable s ph (l.map fun x => (x.1, 4)) →
      ∃ t, exec (.tstz rs2 rs1 z) s = .next t ∧ Claim.storedAll s t ph l 0) ∧
    (classLegal fetch s.legalEnv = true → T.efmt = vtFmt s.t.vtype →
      (∀ u, Claim.like s u → openTensor h u.agent 1 u = .ok (T, u) ∧ T.limits h.orow (h.orow + 96) col (col + pack) u = .ok u ∧
        ∀ r c, h.orow ≤ r → r < h.orow + 96 → col ≤ c → c < col + pack → T.value r c u = .ok (val r c, u)) →
      let values := (List.range (96 * pack)).map read
      let seen := values.foldl (fun (g : Flags) (x : FVal × Flags) => g ||| x.2) 0
      ∃ t, exec fetch s = .next t ∧
        t = { s.advance with
          stamp := t.stamp, tick := t.tick
          t := { s.advance.t with v := t.t.v, tags := t.t.tags, lastVector := t.t.lastVector, fflags := t.t.fflags } } ∧
        (vtFmt s.t.vtype = 2 ∨ vtFmt s.t.vtype = 3 →
          let f := vtIeeeFmt s.t.vtype
          let r := fun x => f.convert 0 fl (read x).1
          (∀ x, t.t.elem va.toNat w x = if x < 96 * pack then (r x).1 % 2 ^ w else s.t.elem va.toNat w x) ∧
          (∀ q, q ≠ va → t.t.readV q = s.t.readV q) ∧ (∀ q, t.t.readTag q = if q = va then 0x7FF else s.t.readTag q) ∧
          t.t.fflags = s.t.fflags ||| (seen ||| (List.range (96 * pack)).foldl (fun g x => g ||| (r x).2) 0)) ∧
        (4 ≤ vtFmt s.t.vtype →
          let f := vtBlockFmt s.t.vtype
          let block := fun b => f.encode ((List.range 48).map fun q => ((read (48 * b + q)).1, (read (48 * b + q)).1.neg))
          (∀ x, t.t.elem va.toNat w x = if x < 96 * pack then (block (x / 48)).2.1.getD (x % 48) 0 % 2 ^ w else s.t.elem va.toNat w x) ∧
          (∀ b, t.t.elem (va.toNat + 1) 32 b = if b < 2 * pack then (block b).1 % 2 ^ 32 else s.t.elem (va.toNat + 1) 32 b) ∧
          (∀ q : VReg, q ≠ va → q.toNat ≠ va.toNat + 1 → t.t.readV q = s.t.readV q) ∧
          (∀ q : VReg, t.t.readTag q = if q = va ∨ q.toNat = va.toNat + 1 then 0x7FF else s.t.readTag q) ∧
          t.t.fflags = s.t.fflags ||| (seen ||| (List.range (2 * pack)).foldl (fun g b => g ||| (block b).2.2) 0)))

/-- The tile words but for products: modes, accumulators, loads and stores.
Where it rests on the model's own reading: assumptions 30, 34 of the log. -/
def Obligations.TileModeAndMemoryWords : Prop :=
  Claim.TileModeWords ∧ Claim.TileMemoryWords


/-! ### Tensor handles and amendment lists -/

/-- Bits of a doubleword. -/
def Claim.bits (d : DWord) (lo n : Nat) : Nat := d.toNat / 2 ^ lo % 2 ^ n

/-- The level formats of a descriptor, 0 first. -/
def Claim.levels (h : Handle) : List Nat := (List.range 4).map fun l => Claim.bits h.d0 (4 + 2 * l) 2

/-- The tensor's rows FR and columns NC (R289). -/
def Claim.rows (h : Handle) : Nat :=
  let nr := Claim.bits h.d1 0 32
  let nb1 := Claim.bits h.d0 32 16
  match Claim.bits h.d0 0 2 with
  | 0 => 1 | 1 => nr | 2 => nb1 * nr | _ => Claim.bits h.d0 48 16 * nb1 * nr

/-- VALID, and every condition of R288 on a descriptor. -/
def Claim.wellFormed (h : Handle) : Prop :=
  let rank := Claim.bits h.d0 0 2 + 1
  let nr := Claim.bits h.d1 0 32
  let nc := Claim.bits h.d1 32 32
  h.d0.getLsbD 31 = true ∧ Claim.bits h.d0 2 2 = 0 ∧ Claim.bits h.d0 16 15 = 0 ∧ Claim.bits h.d0 12 4 ≤ 3 ∧ 1 ≤ nc ∧
  (rank = 1 ↔ nr = 0) ∧ (rank ≤ 2 ↔ Claim.bits h.d0 32 16 = 0) ∧ (rank ≤ 3 ↔ Claim.bits h.d0 48 16 = 0) ∧
  h.d4.toNat % 128 = 0 ∧ h.d7.toNat % 128 = 0 ∧
  (Claim.levels h = [0, 0, 0, 0] ∧ h.d5 = 0 ∧ h.d6 = 0 ∨
    rank = 2 ∧ Claim.levels h = [0, 1, 0, 0] ∧ h.d5.toNat % 4 = 0 ∧ h.d6.toNat % 4 = 0 ∨
    rank = 2 ∧ Claim.levels h = [1, 2, 0, 0] ∧ h.d5.toNat % 4 = 0 ∧ h.d6.toNat % 8 = 0 ∨
    rank = 2 ∧ Claim.levels h = [0, 3, 0, 0] ∧ h.d5.toNat % 4 = 0 ∧ h.d6.toNat % 4 = 0 ∧ nr % 48 = 0 ∧ nc % 48 = 0)

/-- A state but for steps of the thread's scalar side. -/
def Claim.stepped (s t : State) : Prop :=
  t = { s with stamp := t.stamp, tick := t.tick, t := { s.t with lastStamp := t.t.lastStamp } }

/-- A word that has only read memory completes in some state that its effect leaves, its steps counted. -/
def Claim.afterReads (s : State) (i : Instr) (f : State → State) : Prop := ∃ u, Claim.stepped s u ∧ exec i s = .next (f u).advance

/-- A word that has only read memory meets a cause. -/
def Claim.trapsAfter (s : State) (i : Instr) (c : Cause) (v : DWord) : Prop := ∃ u, Claim.stepped s u ∧ exec i s = Claim.traps u c v

/-- HLDH, HSTH, HINFO and HITER (R244, R288, R292 to R294), where what each reads can be read: a handle loaded from memory, null or well
formed, and stored there, at its word or from the scalar access queue; doublewords of the descriptor, the number of stored entries and the list's COUNT; and the cursor
advanced to the next stored entry, whose window and number it takes. A null handle and, for HITER, a dense one is a format-region fault. -/
def Claim.HandleWords : Prop :=
  ∀ (hs : HReg) (rs1 rd : Reg) (sel : BitVec 5) (s u : State) (bs : List Byte) (pa : Nat) (P : Nat → Nat) (row col : Nat),
    Claim.plainAccess s →
    let a := s.t.readX rs1
    let h := s.t.readH hs
    let read := fun (x n : Nat) (b : List Byte) => b.length = n ∧ Claim.readable s (x % 2 ^ 64) n b
    let entry := fun (x v : Nat) => v < 2 ^ 32 ∧ read x 4 (toBytes 4 v)
    let hldh := Instr.hldh rs1 hs
    let info := Instr.hinfo hs sel rd
    let hiter := Instr.hiter hs rd
    let puts := fun (i : Instr) (v : Nat) => Claim.afterReads s i fun u => u.setX rd (BitVec.ofNat 64 v)
    let last := fun (i : Instr) => Claim.afterReads s i fun u => u.setX rd 0xFFFFFFFFFFFFFFFF
    let nr := Claim.bits h.d1 0 32
    let nc := Claim.bits h.d1 32 32
    let pos := h.d5.toNat
    let crd := h.d6.toNat
    let k := Claim.bits h.d3 0 32
    let cursor := fun (g : Handle) (n : Nat) => { g with d3 := BitVec.ofNat 64 (Claim.bits h.d3 32 32 * 2 ^ 32 + n % 2 ^ 32) }
    let found := fun (n r c : Nat) => Claim.afterReads s hiter fun u =>
      ({ u with t := u.t.writeH hs (cursor { h with d2 := BitVec.ofNat 64 (c % 2 ^ 32 * 2 ^ 32 + r % 2 ^ 32) } (n + 1)) } : State).setX rd (BitVec.ofNat 64 n)
    -- HLDH and HSTH
    (a.toNat % 64 ≠ 0 → exec hldh s = Claim.traps s cause.misaligned a ∧ exec (.hsth hs rs1) s = Claim.traps s cause.misaligned a) ∧
    (a.toNat % 64 = 0 → bs.length = 64 → Claim.readable s a.toNat 64 bs →
      let g := handleOf bs
      (g.d0.getLsbD 31 = false → Claim.afterReads s hldh fun u => { u with t := u.t.writeH hs {} }) ∧
      (Claim.wellFormed g → Claim.afterReads s hldh fun u => { u with t := u.t.writeH hs g }) ∧
      (g.d0.getLsbD 31 = true → ¬ Claim.wellFormed g → Claim.trapsAfter s hldh cause.formatRegion a)) ∧
    (let bytes := fun (h : Handle) => [h.d0, h.d1, h.d2, h.d3, h.d4, h.d5, h.d6, h.d7].flatMap fun d => toBytes 8 d.toNat
     (Claim.passes s u .store a 64 pa →
      (s.segment s.agent = none → Claim.atOnce u 64 pa → ∃ t, exec (.hsth hs rs1) s = .next t ∧ t.t.x = s.t.x ∧
        Claim.stored (Claim.counted u) t pa (bytes h)) ∧
      (u.ch.deferScalar = true ∨ u.t.scalars ≠ [] → ∃ page, exec (.hsth hs rs1) s = .next (Claim.queued u
        { kind := .handle h, bytes := 64, va := a, pa := pa, page := page }).advance)) ∧
     ∀ va page l g, s.t.scalars = { kind := .handle g, bytes := 64, va := va, pa := pa, page := page } :: l →
      s.held s.agent pa 64 = false → s.lineOk (pa / 128) = true → s.segment s.agent = none →
      ∃ t, s.scalarStep = some t ∧ t.t.scalars = l ∧ t.t.x = s.t.x ∧ ∀ b, Claim.byte t b = Claim.put (Claim.byte s) pa (bytes g) b) ∧
    -- HINFO
    (9 < sel.toNat → exec info s = Claim.traps s cause.illegal ((encode info).setWidth 64)) ∧
    (sel.toNat < 8 → exec info s = .next (s.setX rd ([h.d0, h.d1, h.d2, h.d3, h.d4, h.d5, h.d6, h.d7].getD sel.toNat 0)).advance) ∧
    (8 ≤ sel.toNat → sel.toNat ≤ 9 → h.d0.getLsbD 31 = false → exec info s = Claim.traps s cause.formatRegion 0) ∧
    (Claim.wellFormed h →
      (sel = 8 →
        (Claim.levels h = [0, 0, 0, 0] → puts info (Claim.rows h * nc)) ∧
        (Claim.levels h = [0, 1, 0, 0] → entry (pos + 4 * nr) (P nr) → puts info (P nr)) ∧
        (Claim.levels h = [0, 3, 0, 0] → entry (pos + 4 * (nr / 48)) (P (nr / 48)) → puts info (P (nr / 48))) ∧
        (Claim.levels h = [1, 2, 0, 0] → entry pos (P 0) → entry (pos + 4) (P 1) → puts info ((P 1 + 2 ^ 32 - P 0) % 2 ^ 32))) ∧
      (sel = 9 →
        (h.d7 = 0 → puts info 0) ∧
        (∀ n fold, n < 8 → h.d7 ≠ 0 →
          read h.d7.toNat 64 (toBytes 8 (n + if fold = true then 8 else 0) ++ List.replicate 56 0) → puts info n))) ∧
    -- HITER
    (h.d0.getLsbD 31 = false ∨ Claim.wellFormed h ∧ Claim.levels h = [0, 0, 0, 0] → exec hiter s = Claim.traps s cause.formatRegion 0) ∧
    (Claim.wellFormed h → Claim.levels h = [1, 2, 0, 0] → entry pos (P 0) → entry (pos + 4) (P 1) →
      (P 1 ≤ max k (P 0) → last hiter) ∧
      (max k (P 0) < P 1 → row < 2 ^ 32 → col < 2 ^ 32 → read (crd + 8 * max k (P 0)) 8 (toBytes 4 row ++ toBytes 4 col) →
        found (max k (P 0)) row col)) ∧
    (Claim.wellFormed h → ∀ unit : Nat, Claim.levels h = [0, 1, 0, 0] ∧ unit = 1 ∨ Claim.levels h = [0, 3, 0, 0] ∧ unit = 48 →
      (∀ b ≤ nr / unit, entry (pos + 4 * b) (P b)) →
      (P (nr / unit) ≤ k → last hiter) ∧
      (k < P (nr / unit) → (∀ b < nr / unit, ¬ (P b ≤ k ∧ k < P (b + 1))) →
        Claim.afterReads s hiter fun u =>
          ({ u with t := u.t.writeH hs (cursor h (k + 1)) } : State).setX rd 0xFFFFFFFFFFFFFFFF) ∧
      (k < P (nr / unit) → row < nr / unit → P row ≤ k → k < P (row + 1) → (∀ b < row, ¬ (P b ≤ k ∧ k < P (b + 1))) →
        entry (crd + 4 * k) col → found k (unit * row) (unit * col)))

/-- What an attach step leaves: the header and the bytes of slots from one on in memory, a value in x[rd], and nothing else
but for steps, parked threads' marks and the digest of a deterministic context. -/
def Claim.attached (s t : State) (ph : Nat → Nat) (list : DWord) (header : Nat) (slot : Nat) (bs : List Byte) (rd : Reg) : Prop :=
  (∀ a, Claim.byte t a = Claim.putRange ph (Claim.putRange ph (Claim.byte s) list.toNat (toBytes 8 header)) (list.toNat + 64 * slot) bs a) ∧
  (s.ctx.det = false → t.t.digest = s.t.digest) ∧
  let u := (s.setX rd (BitVec.ofNat 64 (header % 8))).advance
  t = { u with
    mem := t.mem, parks := t.parks, stamp := t.stamp, tick := t.tick
    t := { u.t with lastStamp := t.t.lastStamp, digest := t.t.digest } }

/-- A layer descriptor keeps every condition of R296. -/
def Claim.layerOk (d : Nat → DWord) : Prop :=
  let v := if (d 0).getLsbD 1 then 2 else 4
  let num := Claim.bits (d 0) 32 32
  d 4 = 0 ∧ d 5 = 0 ∧ d 6 = 0 ∧ d 7 = 0 ∧ Claim.bits (d 0) 2 30 = 0 ∧ Claim.bits (d 1) 32 32 = 0 ∧ 1 ≤ num ∧ (d 3).toNat % v = 0 ∧
  if (d 0).getLsbD 0 then num ≤ 48 ∧ (d 2).toNat % v = 0 else Claim.bits (d 1) 0 32 = 0 ∧ (d 2).toNat % 8 = 0

/-- HATTACH and HDETACH (R295, R296, R299, R300): HATTACH puts the descriptor at x[rs2] into the slot behind the last layer and counts it,
and of a full list raises list-full; HDETACH moves the layers behind position x[rs2] down, clears the freed slot and counts one less, and of a
position that the list does not have, or under FOLD, answers all ones. Misaligned addresses, and descriptors and headers that break their rules,
raise their causes and change nothing. -/
def Claim.AmendmentListWords : Prop :=
  ∀ (rs2 rs1 rd : Reg) (s : State) (bs hb rest : List Byte) (n : Nat) (fold : Bool) (ph : Nat → Nat),
    Claim.plainAccess s → Claim.noSegment s →
    let list := s.t.readX rs1
    let desc := s.t.readX rs2
    let m := desc.toNat
    let attach := Instr.hattach rs2 rs1 rd
    let detach := Instr.hdetach rs2 rs1 rd
    let d := fun k => BitVec.ofNat 64 (ofBytes ((bs.drop (8 * k)).take 8))
    let header := fun (n : Nat) (fold : Bool) => toBytes 8 (n + if fold then 8 else 0) ++ List.replicate 56 0
    let writable := fun (va k : Nat) => ∀ e ∈ lineParts va k, s.checkPart s.agent .store e.1 e.2 = .ok (ph e.1, s)
    (list.toNat % 128 ≠ 0 → exec attach s = Claim.traps s cause.misaligned list ∧ exec detach s = Claim.traps s cause.misaligned list) ∧
    (list.toNat % 128 = 0 → desc.toNat % 64 ≠ 0 → exec attach s = Claim.traps s cause.misaligned desc) ∧
    (list.toNat % 128 = 0 → desc.toNat % 64 = 0 → Claim.readable s desc.toNat 64 bs → bs.length = 64 →
      (¬ Claim.layerOk d → Claim.trapsAfter s attach cause.formatRegion desc) ∧
      (Claim.layerOk d → Claim.readable s list.toNat 64 hb → hb.length = 64 →
        ((∀ n fold, n < 8 → hb ≠ header n fold) → Claim.trapsAfter s attach cause.formatRegion list) ∧
        (hb = header 7 fold → Claim.trapsAfter s attach cause.listFull list) ∧
        (n < 7 → hb = header n fold → writable list.toNat 8 → writable (list.toNat + 64 * (n + 1)) 64 →
          ∃ t, exec attach s = .next t ∧ Claim.attached s t ph list (n + 1 + if fold then 8 else 0) (n + 1) bs rd))) ∧
    (list.toNat % 128 = 0 → Claim.readable s list.toNat 64 hb → hb.length = 64 →
      ((∀ n fold, n < 8 → hb ≠ header n fold) → Claim.trapsAfter s detach cause.formatRegion list) ∧
      (n < 8 → hb = header n fold →
        (¬ (1 ≤ m ∧ m ≤ n ∧ fold = false) → Claim.afterReads s detach fun u => u.setX rd 0xFFFFFFFFFFFFFFFF) ∧
        (1 ≤ m → m ≤ n → fold = false → Claim.readable s (list.toNat + 64 * (m + 1)) (64 * (n - m)) rest →
          rest.length = 64 * (n - m) → writable list.toNat 8 → writable (list.toNat + 64 * m) (64 * (n - m) + 64) →
          ∃ t, exec detach s = .next t ∧ Claim.attached s t ph list (n - 1) m (rest ++ List.replicate 64 0) rd)))

/-- The running FP32 value of R297 after the layers of a list, with the flags of its roundings: `u` and `v` are the values of a layer's
arrays that this element uses. -/
def Claim.layered (row col : Nat) (u v : Layer → Nat → FVal) : List Layer → Nat × Flags → Nat × Flags
  | [], acc => acc
  | l :: ls, acc =>
    let hits := (List.range l.coords.length).filter fun q => l.coords.getD q (0, 0) == (row, col)
    let terms : List (FVal × Flags) := if l.low
      then (List.range l.num).map fun k =>
        let p := Claim.product (f32.value l.alpha) (u l k)
        let q := Claim.product p.1 (v l k)
        (q.1, p.2 ||| q.2)
      else hits.map fun q => (v l q, 0)
    if l.low = false ∧ hits = [] then Claim.layered row col u v ls acc
    else
      let r := f32.sum 0 0 0 (f32.value acc.1 :: terms.map Prod.fst)
      Claim.layered row col u v ls (r.1, acc.2 ||| (terms.foldl (fun (g : Flags) x => g ||| x.2) 0 ||| r.2))

/-- What a handle reads (R289, R297, R298): outside the tensor zero; the stored element that the pattern gives for a row and
a column, the lowest one of its coordinate; its exact base value; and, with layers, the running FP32 value, each layer one rounded sum. An
access whose low-rank layers exceed 96 together, or which more than 4096 deltas concern, is an amendment-overflow fault. -/
def Claim.TensorValues : Prop :=
  ∀ (T : Tensor) (row col r1 c1 m lo hi va pair : Nat) (s : State) (n : Option Nat) (b : FVal) (bs : List Byte) (u v : Layer → Nat → FVal)
    (r : Region) (n0 : Nat) (g : BFmt), Claim.plainAccess s →
    let h := T.h
    let nc := Claim.bits h.d1 32 32
    let rd := fun (a k : Nat) (x : List Byte) => x.length = k ∧ Tensor.rd T.ag T.kind s a k = .ok (x, s)
    let search := fun (p w want : Nat) (unit off : Nat) =>
      lo < 2 ^ 32 → hi < 2 ^ 32 → rd (h.d5.toNat + 4 * p) 4 (toBytes 4 lo) → rd (h.d5.toNat + 4 * p + 4) 4 (toBytes 4 hi) →
      let at_ := fun k => ofBytes ((bs.drop (w * (k - lo))).take w)
      (hi ≤ lo → T.locate row col s = .ok (none, s)) ∧
      (lo < hi → rd (h.d6.toNat + w * lo) (w * (hi - lo)) bs → ∃ o : Option Nat,
        T.locate row col s = .ok (o.map (fun k => unit * k + off), s) ∧
        ∀ k, o = some k ↔ lo ≤ k ∧ k < hi ∧ at_ k = want ∧ ∀ j, lo ≤ j → j < k → at_ j ≠ want)
    (Claim.rows h ≤ row ∨ nc ≤ col → T.value row col s = .ok ((.num false 0, 0), s)) ∧
    (row < Claim.rows h → col < nc →
      (T.pat = .dense → T.locate row col s = .ok (some (row * nc + col), s)) ∧
      (T.pat = .rows → search row 4 col 1 0) ∧
      (T.pat = .coords → row < 2 ^ 32 → search 0 8 (row + col * 2 ^ 32) 1 0) ∧
      (T.pat = .blocks → search (row / 48) 4 (col / 48) 2304 (48 * (row % 48) + col % 48)) ∧
      (T.locate row col s = .ok (n, s) → (n = none → b = .num false 0) → (∀ k, n = some k → T.stored k s = .ok (b, s)) →
        (∀ l ∈ T.layers, ∀ k,
          let e := if l.half then 2 else 4
          let f := if l.half then bf16 else f32
          (l.low = true → k < l.num → ∃ x y, rd (l.aptr + e * (row * l.num + k)) e x ∧ rd (l.bptr + e * (k * nc + col)) e y ∧
            u l k = f.value (ofBytes x) ∧ v l k = f.value (ofBytes y)) ∧
          (l.low = false → k < l.coords.length → l.coords.getD k (0, 0) = (row, col) →
            ∃ y, rd (l.bptr + e * k) e y ∧ v l k = f.value (ofBytes y))) →
        let start := Claim.once f32 0 0 b
        let w := Claim.layered row col u v T.layers (start.1, (if b = .nan true then flagNV else 0) ||| start.2)
        T.value row col s = .ok (if T.layers = [] then (b, 0) else (f32.value w.1, w.2), s))) ∧
    (T.region = none → ∀ e ∈ [(1, 2, 4, f32), (2, 1, 2, f16), (3, 3, 2, bf16)], Claim.bits h.d0 12 4 = e.1 → T.efmt = e.2.1 →
      rd (h.d4.toNat + m * e.2.2.1) e.2.2.1 bs → T.stored m s = .ok (e.2.2.2.value (ofBytes bs), s)) ∧
    (T.region = some (r, n0) → r.block = none →
      s.regionItem T.ag (if T.kind = 4 then .source else .load) r (n0 + m : Nat) 0 2 = .ok (va, s) → rd va 2 bs →
      T.stored m s = .ok (bf16.value (ofBytes bs), s)) ∧
    (T.region = some (r, n0) → r.block = some g →
      let q := (n0 + m) % 48 * g.width
      let len := (q + g.width - 1) / 8 - q / 8 + 1
      s.regionItem T.ag (if T.kind = 4 then .source else .load) r ((n0 + m) / 48 : Nat) (q / 8) len = .ok (va, s) →
      rd va len bs → s.readPair T.ag r ((n0 + m) / 48) va = .ok (pair, s) →
      T.stored m s = .ok (g.decode (ofBytes bs / 2 ^ (q % 8) % 2 ^ g.width) pair, s)) ∧
    (let rank : Nat := (T.layers.map fun l => if l.low then l.num else 0).sum
     let deltas : Nat := (T.layers.map fun l =>
       l.coords.countP fun x => decide (row ≤ x.1 ∧ x.1 < r1 ∧ col ≤ x.2 ∧ x.2 < c1)).sum
     T.limits row r1 col c1 s =
      if 96 < rank ∨ 4096 < deltas then .error (.trap cause.amendment h.d7, s) else .ok s)

/-- The words on tensor handles and on amendment lists. Where it rests on the model's own reading: assumptions 29, 33, 92, 122 of the log. -/
def Obligations.HandleAndAmendmentWords : Prop :=
  Claim.HandleWords ∧ Claim.AmendmentListWords


/-! ### HLD and HST -/

/-- A value converted once by RNE under the captured FLUSH (R302). -/
def Claim.nearest (s : State) (f : Fmt) (v : FVal) : Nat × Flags :=
  let r := Claim.once f 0 (vtFlush s.t.vtype) v
  (r.1, (if v = .nan true then flagNV else 0) ||| r.2)

/-- HLD (R302): VL elements from the captured window, row by row of its width w, each the layered value converted once by RNE; where
element k, not the first, meets a fault that only its base value concerns, those below k, with VL then k. With VL 0 nothing; a type
that is not IEEE, or a width 0 with VL above 0, is refused. -/
def Claim.HandleLoads : Prop :=
  ∀ (hs : HReg) (rs1 : Reg) (vd : VReg) (s : State) (T : Tensor) (val : Nat → FVal × Flags) (k : Nat) (c : Cause) (v : DWord),
    Claim.calm s → Claim.plainAccess s →
    let i := Instr.hld hs rs1 vd
    let h := s.t.readH hs
    let n := s.t.vl.toNat
    let w := (s.t.readX rs1).toNat
    let sew := vtSew s.t.vtype
    let ieee := vtFmt s.t.vtype = 2 ∨ vtFmt s.t.vtype = 3
    let f := vtIeeeFmt s.t.vtype
    let row := fun (j : Nat) => Claim.bits h.d2 0 32 + j / w
    let col := fun (j : Nat) => Claim.bits h.d2 32 32 + j % w
    let opens := ∀ u, Claim.like s u → openTensor h s.agent 1 u = .ok (T, u) ∧
      T.limits (row 0) (row (n - 1) + 1) (col 0) (col 0 + min w n) u = .ok u
    let reads := fun (m : Nat) => ∀ u, Claim.like s u → ∀ j < m, T.value (row j) (col j) u = .ok (val j, u)
    let writes := fun (u : State) (m : Nat) => Claim.loaded s u
      [(vd.toNat, sew, fun j => if j < m then some (Claim.nearest s f (val j).1).1 else none)]
      ((List.range m).foldl (fun (g : Flags) j => g ||| ((Claim.nearest s f (val j).1).2 ||| (val j).2)) 0)
    (¬ ieee ∨ n ≠ 0 ∧ w = 0 → Claim.refused s i) ∧
    (ieee → n = 0 → exec i s = .next s.advance) ∧
    (ieee → n ≠ 0 → w ≠ 0 → opens → reads n → ∃ t, exec i s = .next t ∧ writes t n) ∧
    (ieee → w ≠ 0 → opens → 0 < k → k < n → reads k →
      c ∈ [cause.misaligned, cause.translation, cause.permission, cause.formatRegion] →
      (∀ u, Claim.like s u → T.value (row k) (col k) u = .error ((true, .trap c v), u)) →
      ∃ t u, exec i s = .next t ∧ t = { u with t := { u.t with vl := BitVec.ofNat 14 k } } ∧ writes u k)

/-- The physical address of byte i of a range. -/
def Claim.phys (ph : Nat → Nat) (va n i : Nat) : Nat :=
  let e := ((lineParts va n).filter fun e => decide (e.1 ≤ va + i ∧ va + i < e.1 + e.2)).getD 0 (0, 0)
  ph e.1 + (va + i - e.1)

/-- Memory with a bit field of the n bytes at an address replaced, and no other bit. -/
def Claim.putBits (ph : Nat → Nat) (f : Nat → Byte) (va n lo width v : Nat) : Nat → Byte :=
  let old := ofBytes ((List.range n).map fun i => f (Claim.phys ph va n i))
  Claim.putRange ph f va (toBytes n (old - old / 2 ^ lo % 2 ^ width * 2 ^ lo + v % 2 ^ width * 2 ^ lo))

/-- The code of stored element m of a region of blocks: its item, the bytes that hold it there, first and count, and its lowest bit (R74). -/
def Claim.codePlace (g : BFmt) (m : Nat) : Nat × Nat × Nat × Nat :=
  let b := m % 48 * g.width
  (m / 48, b / 8, (b + g.width - 1) / 8 - b / 8 + 1, b % 8)

/-- The bytes of an element of a tensor of no region (R287). -/
def Claim.elemBytes (T : Tensor) : Nat := if Claim.bits T.h.d0 12 4 = 1 then 4 else 2

/-- Memory with stored element m of a tensor at a code and its scale pair (R77, R289). -/
def Claim.putElem (ph : Nat → Nat) (T : Tensor) (f : Nat → Byte) (m : Nat) (c : Nat × Nat) : Nat → Byte :=
  match T.region with
  | none => Claim.putRange ph f ((T.h.d4.toNat + m * Claim.elemBytes T) % 2 ^ 64) (toBytes (Claim.elemBytes T) c.1)
  | some (r, n0) => match r.block with
    | none => Claim.putRange ph f (r.address (n0 + m : Nat) % 2 ^ 64) (toBytes 2 c.1)
    | some g =>
      let p := Claim.codePlace g (n0 + m)
      Claim.putBits ph (Claim.putBits ph f ((r.address p.1 + p.2.1) % 2 ^ 64) p.2.2.1 p.2.2.2 g.width c.1)
        (Claim.pairAt r p.1).1 3 (Claim.pairAt r p.1).2 20 c.2

/-- The ranges that stored element m lies in. -/
def Claim.elemRanges (T : Tensor) (m : Nat) : List (Nat × Nat) :=
  match T.region with
  | none => [((T.h.d4.toNat + m * Claim.elemBytes T) % 2 ^ 64, Claim.elemBytes T)]
  | some (r, n0) => match r.block with
    | none => [(r.address (n0 + m : Nat) % 2 ^ 64, 2)]
    | some g =>
      let p := Claim.codePlace g (n0 + m)
      [((r.address p.1 + p.2.1) % 2 ^ 64, p.2.2.1), ((Claim.pairAt r p.1).1, 3)]

/-- Stored element m lies within its region, as an agent finds it (R78). -/
def Claim.elemWithin (s : State) (ag : Agent) (T : Tensor) (m : Nat) : Prop :=
  match T.region with
  | none => True
  | some (r, n0) => match r.block with
    | none => s.regionItem ag .store r (n0 + m : Nat) 0 2 = .ok (r.address (n0 + m : Nat) % 2 ^ 64, s)
    | some g =>
      let p := Claim.codePlace g (n0 + m)
      s.regionItem ag .store r p.1 p.2.1 p.2.2.1 = .ok ((r.address p.1 + p.2.1) % 2 ^ 64, s)

/-- Stored element m lies within its region (R78). -/
def Claim.elemInside (s : State) (T : Tensor) (m : Nat) : Prop := Claim.elemWithin s s.agent T m

/-- A range of some bytes lies in part in the scratchpad window (R305, R371). -/
def Claim.meetsWindow (s : State) (x : Nat × Nat) : Prop :=
  x.2 ≠ 0 ∧ x.1 < s.ctx.spbase.toNat + 2 ^ 21 ∧ s.ctx.spbase.toNat < x.1 + x.2

/-- Ranges that a store may publish to: translated, not in the scratchpad, held by no copy, owned, and of sound lines (R305,
R306, R365). -/
def Claim.publishable (s : State) (ph : Nat → Nat) (l : List (Nat × Nat)) : Prop :=
  ∀ x ∈ l, ∀ e ∈ lineParts x.1 x.2, (∃ r, s.translate s.agent .store e.1 = .ok ((ph e.1, r), s)) ∧ ph e.1 < 2 ^ 62 ∧
    ¬ Claim.meetsWindow s e ∧ ∀ i < e.2, s.held s.agent (ph e.1 + i) 1 = false ∧ s.lineOk ((ph e.1 + i) / 128) = true ∧
      (poolBase ≤ ph e.1 + i ∨ s.inStack s.ctx.part (ph e.1 + i) = true)

/-- The code, scale pair and flags of element i of rows of w elements, each alone or in the block of 48 columns of its row (R75, R306). -/
def Claim.converted (s : State) (T : Tensor) (w : Nat) (x : Nat → FVal × Bool) (i : Nat) : Nat × Nat × Flags :=
  match T.block with
  | none =>
    let v := (x i).1
    let r := Claim.once T.fmt s.t.frm (vtFlush s.t.vtype) v
    (r.1, 0, (if v = .nan true then flagNV else 0) ||| r.2)
  | some g =>
    let c := i % w
    let b := g.encode ((List.range 48).map fun q => if c - c % 48 + q < w then x (i - c % 48 + q) else (.num false 0, false))
    (b.2.1.getD (c % 48) 0, b.1, b.2.2)

/-- The converted value is a zero of either sign. -/
def Claim.isZero (T : Tensor) (c : Nat × Nat × Flags) : Bool :=
  match T.block with
  | none => c.1 % 2 ^ (T.fmt.width - 1) == 0
  | some g => match g.decode c.1 c.2.1 with | .num _ q => q == 0 | _ => false

/-- The lowest free slot of a thread's table, which an issuing word takes (R267). -/
def Claim.takes (s : State) (k : Nat) : Prop := k < 64 ∧ (s.t.token k).st = 0 ∧ ∀ j < k, (s.t.token j).st ≠ 0

/-- The token of a slot: its generation and its number (R268). -/
def Claim.tokenOf (s : State) (k : Nat) : DWord := BitVec.ofNat 64 ((s.t.token k).gen.toNat * 2 ^ 16 + k)

/-- What a handle store leaves of the thread: its slot k final, the token in x[rd], EV set, flags and a condition bit, and of the
rest what a publish changes beside memory: steps and parked threads' marks (R269, R306, R392). -/
def Claim.handleDone (s t : State) (k : Nat) (rd : Reg) (st : BitVec 4) (result : DWord) (cond : Option (CReg × Bool)) (fl : Flags) : Prop :=
  (∀ j, t.t.token j = if j = k then { s.t.token k with st := st, stamp := BitVec.ofNat 48 t.stamp, cause := 0, result := result }
    else s.t.token j) ∧
  s.stamp < t.stamp ∧ (∀ l, sget t.chk l = sget s.chk l) ∧
  t = { s.advance with
    mem := t.mem, parks := t.parks, chk := t.chk, stamp := t.stamp, tick := t.tick, nextOp := t.nextOp
    t := { s.advance.t with
      x := (s.setX rd (Claim.tokenOf s k)).t.x, c := (match cond with | some (cd, b) => (s.setC cd b).t.c | none => s.t.c)
      tokens := t.t.tokens, ev := true, lastVector := t.t.lastVector, fflags := s.t.fflags ||| fl } }

/-- A handle store that meets a cause stays the oldest entry of its queue, its slot pending (R305, R306). -/
def Claim.storeTraps (s : State) (i : Instr) (k : Nat) (rd : Reg) (c : Cause) (v : DWord) : Prop :=
  ∃ (e : VEntry) (u : State), e.instr = i ∧ e.addr = s.t.pc ∧ e.slot = some k ∧
    (∀ j, u.t.token j = if j = k then { s.t.token k with st := 1, stamp := 0, cause := 0, result := 0 } else s.t.token j) ∧
    u = { s.advance with t := { s.advance.t with x := (s.setX rd (Claim.tokenOf s k)).t.x, tokens := u.t.tokens, queue := [e] } } ∧
    exec i s = .next (u.takeTrap { cause := c, val := v, pc := s.t.pc, spc := s.advance.t.pc, vside := true, lane := none, group := false })

/-- HST and HST.try (R267, R305 to R308), outside a deterministic context, of at most 8192 elements and with nothing refused on
its way: each takes the lowest free slot and writes its token; a dense store writes each converted element inside the tensor, a
sparse one POS, CRD and the values of its n entries where n is at most CAP, all at one step, at which its slot is done; otherwise nothing is written,
the slot is overflow with the bytes needed, and the thread traps or the condition bit is cleared. A range that meets the scratchpad
window is a format-region fault before the entries are counted.
Where it rests on the model's own reading: assumptions 29, 32, 123 of the log. -/
def Obligations.HandleStores : Prop :=
  ∀ (hs : HReg) (vs3 : VReg) (rd : Reg) (cd : CReg) (s : State) (k : Nat) (T : Tensor) (ph : Nat → Nat),
    Claim.calm s → Claim.plainAccess s → Claim.noSegment s → s.ctx.det = false → s.t.live = true → s.pos < slotCount → (∀ e ∈ s.ctx.images, e.1 ≠ s.pos) →
    s.ctx.spbase.toNat < 2 ^ 48 →
    let plain := Instr.hst hs vs3 rd
    let tries := Instr.hstTry cd hs vs3 rd
    let h := s.t.readH hs
    let vl := s.t.vl.toNat
    let w := (s.t.readX rd).toNat
    let ieee := vtFmt s.t.vtype = 2 ∨ vtFmt s.t.vtype = 3
    let both := [(plain, (none : Option CReg)), (tries, some cd)]
    let source := fun (i : Nat) => let f := vtIeeeFmt s.t.vtype
      let x := s.t.elem vs3.toNat (vtSew s.t.vtype) i
      (f.read (vtFlush s.t.vtype) x, f.signOf x)
    let row := fun (i : Nat) => Claim.bits h.d2 0 32 + i / w
    let col := fun (i : Nat) => Claim.bits h.d2 32 32 + i % w
    let nr := Claim.bits h.d1 0 32
    let nc := Claim.bits h.d1 32 32
    let inside := fun (i : Nat) => decide (row i < Claim.rows h ∧ col i < nc)
    let done := fun (base : List (Nat × List Byte)) (l : List (Nat × (Nat × Nat))) (fl : Flags) =>
      (∀ e ∈ l, Claim.elemInside s T e.1) → Claim.publishable s ph (base.map (fun b => (b.1, b.2.length)) ++ l.flatMap fun e => Claim.elemRanges T e.1) →
      ∀ e ∈ both, ∃ t, exec e.1 s = .next t ∧ Claim.handleDone s t k rd 3 0 (e.2.map fun c => (c, true)) fl ∧
        ∀ a, Claim.byte t a = (l.foldl (fun f e => Claim.putElem ph T f e.1 e.2)
          (base.foldl (fun f b => Claim.putRange ph f b.1 b.2) (Claim.byte s))) a
    let flags := fun (c : Nat → Nat × Nat × Flags) => (List.range vl).foldl (fun (g : Flags) i => g ||| (c i).2.2) 0
    (¬ ieee → ∀ e ∈ both, Claim.refused s e.1) ∧
    (ieee → (∀ j < 64, (s.t.token j).st ≠ 0) → ∀ e ∈ both, exec e.1 s = Claim.traps s cause.tokenFull 0) ∧
    (ieee → Claim.takes s k →
      (vl = 0 → ∀ e ∈ both, ∃ t, exec e.1 s = .next t ∧ t.mem = s.mem ∧ Claim.handleDone s t k rd 3 0 (e.2.map fun c => (c, true)) 0) ∧
      (vl ≠ 0 → h.d0.getLsbD 31 = false ∨ Claim.wellFormed h ∧ h.d7 ≠ 0 → ∀ e ∈ both, Claim.storeTraps s e.1 k rd cause.formatRegion 0) ∧
      (Claim.wellFormed h → h.d7 = 0 → ∀ b ∈ [(1, 2), (2, 1), (3, 3)], Claim.bits h.d0 12 4 = b.1 → ∃ pat, h.pattern = some pat ∧
        openStore h s.agent s = .ok ({ h := h, pat := pat, ag := s.agent, kind := 1, efmt := b.2, region := none, layers := [], fold := false }, s)) ∧
      (vl ≠ 0 → vl ≤ 8192 → Claim.wellFormed h → (∀ u, Claim.like s u → openStore h s.agent u = .ok (T, u)) →
        let dense := Claim.levels h = [0, 0, 0, 0]
        let whole := Claim.bits h.d2 0 32 = 0 ∧ Claim.bits h.d2 32 32 = 0 ∧ w = nc ∧ vl = Claim.rows h * nc
        let blocked := T.block.isSome = true
        (w = 0 ∨ dense ∧ blocked ∧ (Claim.bits h.d2 32 32 % 48 ≠ 0 ∨ w % 48 ≠ 0 ∨ vl % w ≠ 0) ∨ ¬ dense ∧ ¬ whole →
          ∀ e ∈ both, Claim.storeTraps s e.1 k rd cause.formatRegion 0) ∧
        (w ≠ 0 → dense → (blocked → Claim.bits h.d2 32 32 % 48 = 0 ∧ w % 48 = 0 ∧ vl % w = 0) →
          let x := fun i => if blocked ∧ inside i = false then (.num false 0, false) else source i
          let range := fun i => (T.h.d4.toNat + (row i * nc + col i) * Claim.elemBytes T, Claim.elemBytes T)
          (∀ i < vl, T.region = none → inside i = true → Claim.meetsWindow s (range i) →
            (∀ j < i, inside j = true → ¬ Claim.meetsWindow s (range j)) →
            ∀ e ∈ both, Claim.storeTraps s e.1 k rd cause.formatRegion (BitVec.ofNat 64 (range i).1)) ∧
          let c := Claim.converted s T w x
          done [] (((List.range vl).filter inside).map fun i => (row i * nc + col i, ((c i).1, (c i).2.1))) (flags c)) ∧
        (¬ dense → whole →
          let c := Claim.converted s T w source
          let nonzero := fun i => !Claim.isZero T (c i)
          let blocks := Claim.levels h = [0, 3, 0, 0]
          let coords := Claim.levels h = [1, 2, 0, 0]
          let at_ := fun (b q : Nat) => (48 * (b / (nc / 48)) + q / 48) * nc + 48 * (b % (nc / 48)) + q % 48
          let entries := if blocks then (List.range (nr / 48 * (nc / 48))).filter fun b => (List.range 2304).any fun q => nonzero (at_ b q)
            else (List.range vl).filter nonzero
          let n := entries.length
          let size := fun (m : Nat) => match T.block with | some g => (m * g.width + 7) / 8 | none => m * (T.fmt.width / 8)
          let needed := if coords then 8 + 8 * n + size n
            else if blocks then 4 * (nr / 48 + 1) + 4 * n + n * size 2304 else 4 * (nr + 1) + 4 * n + size n
          let rowOf := fun (b : Nat) => if blocks then b / (nc / 48) else b / nc
          let colOf := fun (b : Nat) => if blocks then b % (nc / 48) else b % nc
          let pos := if coords then toBytes 4 0 ++ toBytes 4 n
            else (List.range ((if blocks then nr / 48 else nr) + 1)).flatMap fun r => toBytes 4 (entries.countP fun b => decide (rowOf b < r))
          let crd := entries.flatMap fun b => if coords then toBytes 4 (rowOf b) ++ toBytes 4 (colOf b) else toBytes 4 (colOf b)
          let again := fun (g : BFmt) (m : Nat) => g.encode ((List.range 48).map fun q =>
            let j := 48 * (m / 48) + q
            if j < n then
              let v := c (entries.getD j 0)
              (g.decode v.1 v.2.1, v.1 / 2 ^ (g.width - 2) % 2 == 1)
            else (.num false 0, false))
          let values := if blocks then (List.range n).flatMap fun m => (List.range 2304).map fun q =>
              (2304 * m + q, ((c (at_ (entries.getD m 0) q)).1, (c (at_ (entries.getD m 0) q)).2.1))
            else (List.range n).map fun m => (m, match T.block with
              | some g => ((again g m).2.1.getD (m % 48) 0, (again g m).1)
              | none => ((c (entries.getD m 0)).1, 0))
          let arrays := [(h.d5.toNat, pos.length), (h.d6.toNat, crd.length), (h.d4.toNat, if blocks then n * size 2304 else size n)]
          let clear := ∀ a ∈ arrays, ¬ Claim.meetsWindow s a
          (¬ clear → ∃ a ∈ arrays, Claim.meetsWindow s a ∧
            ∀ e ∈ both, Claim.storeTraps s e.1 k rd cause.formatRegion (BitVec.ofNat 64 a.1)) ∧
          (clear → n ≤ Claim.bits h.d3 32 32 → done [(h.d5.toNat, pos), (h.d6.toNat, crd)] values (flags c)) ∧
          (clear → Claim.bits h.d3 32 32 < n →
            (∃ u, Claim.handleDone s u k rd 5 (BitVec.ofNat 64 needed) none (flags c) ∧ u.mem = s.mem ∧
              exec plain s = .next (u.takeTrap
                { cause := cause.overflow, val := BitVec.ofNat 64 needed, pc := s.t.pc, spc := s.advance.t.pc, vside := true, lane := none, group := false })) ∧
            ∃ t, exec tries s = .next t ∧ t.mem = s.mem ∧
              Claim.handleDone s t k rd 5 (BitVec.ofNat 64 needed) (some (cd, false)) (flags c)))))

/-- What a tensor's element holds, in base, amendments and formats, and the loads through a handle.
Where it rests on the model's own reading: assumptions 29, 30, 31 of the log. -/
def Obligations.TensorValuesAndHandleLoads : Prop :=
  Claim.TensorValues ∧ Claim.HandleLoads


/-! ### Engine operations and their tokens -/

/-- No other live thread waits to enter an operation. -/
def Claim.noOtherIssuer (s : State) : Prop :=
  ∀ e ∈ s.allThreads, e.1 ≠ s.pos → e.2.live = true → ∀ w, e.2.wait = some w → w.kind ≠ .engine

/-- The operations that stand in the queue of an engine that a slot reaches, or the launches of its context (R272, R273, R353, R412). -/
def Claim.inQueue (s : State) (k : EngineKind) (o : EngineOp) : Bool :=
  match k with
  | .copy => decide (o.kind = .copy ∧ o.home / 4 = s.pos / 4 ∧ o.phase ≠ .ready)
  | .fold => decide (o.kind = .fold ∧ o.home / 32 = s.pos / 32 ∧ o.phase ≠ .ready)
  | .blend => decide (o.kind = .blend ∧ o.home / 32 = s.pos / 32 ∧ o.phase ≠ .ready)
  | .walk | .rcast => decide ((o.kind = .walk ∨ o.kind = .rcast) ∧ o.home / 32 = s.pos / 32 ∧ o.phase ≠ .ready)
  | _ => decide ((o.kind = .pipeline ∨ o.kind = .remoteWrite ∨ o.kind = .remoteRead) ∧ o.ctx = s.t.ctx)

/-- The entries of each queue (R272, R273, R353, R412). -/
def Claim.depth (k : EngineKind) : Nat := match k with | .copy | .blend | .walk | .rcast => 32 | .fold => 16 | _ => 64

/-- An entry is free for the thread in focus. -/
def Claim.room (s : State) (k : EngineKind) : Prop := (s.ops.filter (Claim.inQueue s k)).length < Claim.depth k

/-- An issuing word has entered its operation (R267, R268, R271): slot k pending, its token in x[rd], the operation last in the order
of issue, and nothing else changed but, for a copy, at most one entry of the core's scoreboard. -/
def Claim.entered (v t : State) (i : Issue) (node : Nat) (key : DWord) (k : Nat) : Prop :=
  let o : EngineOp := {
    id := v.nextOp + 1, kind := i.kind, issuer := v.pos, home := v.pos, ctx := v.t.ctx, level := v.t.level, slot := k
    gen := (v.t.token k).gen, explicit := i.explicit, block := i.block, words := i.words, node := node, key := key
    launch := (match v.t.pipe with | some b => b.launch | none => 0), stage := v.t.held.map fun h => h.stage }
  let w := (v.setX i.rd (Claim.tokenOf v k)).advance
  (∀ j, t.t.token j = if j = k then { v.t.token k with st := 1, stamp := 0, cause := 0, result := 0 } else v.t.token j) ∧
  t = { w with ops := v.ops ++ [o], nextOp := v.nextOp + 1, core := t.core, t := { w.t with tokens := t.t.tokens } } ∧
  ∃ l : List ScoreEntry, t.core = { v.core with scoreboard := v.core.scoreboard ++ l } ∧ l.length ≤ 1 ∧ (i.kind ≠ .copy → l = []) ∧
    ∀ e ∈ l, e.op = o.id

/-- FORK and CPY (R267, R271 to R273, R276): a FORK reads 48 bytes of an aligned command block, and CPY takes its operands from registers; with
no free slot the word raises token-table-full and issues nothing; with a free entry in the queue of its engine it enters
the operation, and with none it waits with its operands. Where it rests on the model's own reading: assumption 45 of the log. -/
def Obligations.IssuingWords : Prop :=
  ∀ (explicit : Bool) (rs2 rs1 rd : Reg) (s u : State) (bs : List Byte) (k : Nat),
    Claim.noSegment s → Claim.noOtherIssuer s →
    let c := s.t.readX rs1
    let d := (List.range 6).map fun j => BitVec.ofNat 64 (ofBytes ((bs.drop (8 * j)).take 8))
    let forks := [(Instr.forkCopy explicit rs1 rd, EngineKind.copy, d), (.forkFold explicit rs1 rd, .fold, d),
      (.forkBlend explicit rs1 rd, .blend, d ++ [s.t.sthresh.setWidth 64]), (.forkMarch explicit rs1 rd, .walk, d)]
    let cpy := Instr.cpy explicit rs2 rs1 rd
    let waits := fun (i : Instr) (v : State) (x : Issue) => ∃ w : WaitRec, w.kind = .engine ∧ w.issue = x ∧
      (s.t.wait = none → w.since = v.tick) ∧
      exec i s = .next { v with tick := v.tick + 1, t := { v.t with wait := some w } }
    (∀ f ∈ forks,
      let issue : Issue := { kind := f.2.1, explicit := explicit, block := some c, rd := rd, words := f.2.2 }
      (c.toNat % 64 ≠ 0 → exec f.1 s = Claim.traps s cause.misaligned c) ∧
      (c.toNat % 64 = 0 → bs.length = 48 → s.read s.agent .load 1 c.toNat 48 = .ok (bs, u) →
        let v := u.orderThread
        ((∀ j < 64, (s.t.token j).st ≠ 0) → exec f.1 s = Claim.traps v cause.tokenFull 0) ∧
        (Claim.takes s k → Claim.room s f.2.1 → ∃ t, exec f.1 s = .next t ∧ Claim.entered v t issue 0 0 k) ∧
        (Claim.takes s k → ¬ Claim.room s f.2.1 → waits f.1 v issue))) ∧
    (let issue : Issue := { kind := .copy, explicit := explicit, block := none, rd := rd, words := [c, s.t.readX rs2, s.t.readX rd, 1, 0, 0] };
      ((∀ j < 64, (s.t.token j).st ≠ 0) → exec cpy s = Claim.traps s cause.tokenFull 0) ∧
      (Claim.takes s k → Claim.room s .copy → ∃ t, exec cpy s = .next t ∧ Claim.entered s.orderThread t issue 0 0 k) ∧
      (Claim.takes s k → ¬ Claim.room s .copy → waits cpy s issue))

/-- A token is stale: the slot it names is free, or of another generation (R268). -/
def Claim.stale (s : State) (w : DWord) : Prop :=
  (s.t.token (w.toNat % 64)).st = 0 ∨ w.toNat / 2 ^ 16 ≠ (s.t.token (w.toNat % 64)).gen.toNat

/-- A slot is final (R269). -/
def Claim.isFinal (k : Token) : Prop := k.st = 3 ∨ k.st = 4 ∨ k.st = 5 ∨ k.st = 6

/-- The thread's slots with every named final one freed, its generation one higher (R268, R281). -/
def Claim.freed (s t : State) (named : Nat → Prop) : Prop :=
  ∀ j, (j < 64 ∧ named j ∧ Claim.isFinal (s.t.token j) → t.t.token j = { gen := (s.t.token j).gen + 1 }) ∧
    (¬ (j < 64 ∧ named j ∧ Claim.isFinal (s.t.token j)) → t.t.token j = s.t.token j)

/-- RDV, CWAIT, CWAIT.r, CTEST and CWAIT_TIMEOUT (R268, R269, R281): RDV waits until no named slot is pending, reports those that are
free, faulted or overflowed and frees the final ones; CWAIT and CWAIT.r answer for a stale token at once, wait while the slot is
pending, and answer with its status, freeing it if it is final, or with its result; a limit that expires answers 7 or 0; CTEST
answers whether the token is stale or reached and frees nothing. -/
def Claim.TokenWords : Prop :=
  ∀ (rs2 rs1 rd : Reg) (cd : CReg) (pos : Nat) (s : State),
    let x := s.t.readX rs1
    let named := fun j => x.getLsbD j = true
    let tok := s.t.token (x.toNat % 64)
    let status := BitVec.ofNat 64 (tok.stamp.toNat * 2 ^ 16 + tok.cause.toNat * 2 ^ 8 + tok.st.toNat)
    let waits := fun (i : Instr) (result : Bool) => exec i s = .next { s with t := { s.t with
      wait := some { kind := .cwait, addr := x, arg := (if result then 1 else 0), rd := rd, cycles := s.t.readX rs2 } } }
    ((∃ j < 64, named j ∧ (s.t.token j).st = 1) → exec (.rdv rs1 rd) s = Claim.held s) ∧
    ((∀ j < 64, named j → (s.t.token j).st ≠ 1) → ∃ (t : State) (m : DWord), exec (.rdv rs1 rd) s = .next t ∧
      (∀ j, m.getLsbD j = true ↔ j < 64 ∧ named j ∧ (s.t.token j).st ∈ [0, 4, 5]) ∧ Claim.freed s t named ∧
      t = { (s.setX rd m).advance with t := { (s.setX rd m).advance.t with tokens := t.t.tokens } }) ∧
    (Claim.stale s x → exec (.cwait rs2 rs1 rd) s = .next (s.setX rd 0).advance ∧
      exec (.cwaitR rs2 rs1 rd) s = .next (s.setX rd 0).advance) ∧
    (¬ Claim.stale s x → tok.st = 1 → waits (.cwait rs2 rs1 rd) false ∧ waits (.cwaitR rs2 rs1 rd) true) ∧
    (¬ Claim.stale s x → tok.st ≠ 1 →
      exec (.cwaitR rs2 rs1 rd) s = .next (s.setX rd tok.result).advance ∧
      ∃ t, exec (.cwait rs2 rs1 rd) s = .next t ∧ Claim.freed s t (fun j => j = x.toNat % 64) ∧
        t = { (s.setX rd status).advance with t := { (s.setX rd status).advance.t with tokens := t.t.tokens } }) ∧
    (∃ b : Bool, (b = true ↔ Claim.stale s x ∨ tok.st = 2 ∨ Claim.isFinal tok) ∧ exec (.ctest rs1 cd) s = .next (s.setC cd b).advance) ∧
    (pos < slotCount → ∀ w : WaitRec, w.kind = .cwait →
      let y := s.focus pos
      Claim.waiting y w → w.cycles ≠ 0 → ¬ Claim.stale y w.addr → (y.t.token (w.addr.toNat % 64)).st = 1 →
      exec (.cwaitTimeout pos) s = .next (((y.setX w.rd (if w.arg.getLsbD 0 then 0 else 7)).advance).focus s.pos))

/-- Memory with a shadow's bytes over it, each under its mask, in order (R245, R279). -/
def Claim.over (l : List Put) (f : Nat → Byte) : Nat → Byte :=
  l.foldl (fun f p a => if a = p.pa then (f a &&& ~~~p.mask) ||| (p.byte &&& p.mask) else f a) f

/-- Every line that a shadow of a context touches is sound, and the pool's, a scratchpad's or its partition's (R365). -/
def Claim.soundPuts (s : State) (ctx : Nat) (l : List Put) : Prop :=
  ∀ p ∈ l, s.lineOk (p.pa / 128) = true ∧ (poolBase ≤ p.pa ∨ s.inStack (s.ctxAt ctx).part p.pa = true)

/-- The status word of a state, a cause and a stamp (R269). -/
def Claim.statusOf (stamp : Nat) (c : BitVec 8) (st : BitVec 4) : Nat := stamp % 2 ^ 48 * 2 ^ 16 + c.toNat * 2 ^ 8 + st.toNat

/-- A command block's STATUS and, where it stands, RESULT can be written, at the places of `ph`, whatever a shadow's publish has
put elsewhere (R271). -/
def Claim.blockWritable (s : State) (ph : Nat → Nat) (o : EngineOp) (n : Nat) : Prop :=
  ∀ b, o.block = some b → ∀ u m, u = { s with mem := m } →
    (∀ a, (∀ p ∈ o.shadow, a ≠ p.pa) → sget (w := 8) m a = Claim.byte s a) →
    ∀ e ∈ lineParts (b.toNat + 48) n, u.checkPart o.agent .dest e.1 e.2 = .ok (ph e.1, u)

/-- Memory with the writes of a command block. -/
def Claim.blockWritten (ph : Nat → Nat) (o : EngineOp) (status : Nat) (result : Option DWord) (f : Nat → Byte) : Nat → Byte :=
  match o.block with
  | none => f
  | some b => Claim.putRange ph f (b.toNat + 48) (toBytes 8 status ++ match result with | some r => toBytes 8 r.toNat | none => [])

/-- PUBLISH and PUBLISH.discard (R269, R280) of copies and blends on sound lines: each waits while a named slot is pending; with a named slot that is not
ready it reports those and publishes nothing; otherwise at one step every named shadow is published, or none is, every named slot takes
its final state and is freed, and the command block of a lone operation takes STATUS and RESULT. -/
def Claim.PublishWords : Prop :=
  ∀ (discard : Bool) (rs1 rd : Reg) (s : State) (op : Nat → EngineOp) (ph : Nat → Nat), Claim.noSegment s → s.ch.fillCache = false →
    let i := if discard then Instr.publishDiscard rs1 rd else .publish rs1 rd
    let x := s.t.readX rs1
    let named := fun j => x.getLsbD j = true
    let l := (List.range 64).filter fun j => x.getLsbD j
    let ends := fun (t : State) (m : DWord) => Claim.freed s t named ∧
      t = { (s.setX rd m).advance with t := { (s.setX rd m).advance.t with tokens := t.t.tokens } }
    let ready := fun j => (s.t.token j).st = 2 ∧ s.readyAt j = some (op j) ∧ (op j).kind ∈ [EngineKind.copy, .blend] ∧
      Claim.soundPuts s s.t.ctx (op j).shadow
    let after := fun (t : State) => t.t.pc = s.advance.t.pc ∧ t.t.x = (s.setX rd 0).t.x ∧ t.t.v = s.t.v ∧ t.t.f = s.t.f ∧ s.stamp < t.stamp ∧
      (∀ j, t.t.token j = if j ∈ l then { gen := (s.t.token j).gen + 1 } else s.t.token j) ∧
      t.ops = s.ops.filter (fun o => !l.any fun j => (op j).id == o.id)
    let memory := fun (f : Nat → Byte) => if discard then f else l.foldl (fun f j => Claim.over (op j).shadow f) f
    (x = 0 → exec i s = .next (s.setX rd 0).advance) ∧
    ((∃ j < 64, named j ∧ (s.t.token j).st = 1) → exec i s = Claim.held s) ∧
    ((∀ j < 64, named j → (s.t.token j).st ≠ 1) → (∃ j < 64, named j ∧ (s.t.token j).st ≠ 2) → ∃ (t : State) (m : DWord),
      exec i s = .next t ∧ (∀ j, m.getLsbD j = true ↔ j < 64 ∧ named j ∧ (s.t.token j).st ≠ 2) ∧ ends t m) ∧
    (x ≠ 0 → (∀ j ∈ l, ready j) → (∀ j ∈ l, ∀ k ∈ l, j ≠ k → (op j).id ≠ (op k).id) →
      ((∀ j ∈ l, (op j).block = none) → ∃ t, exec i s = .next t ∧ after t ∧ ∀ a, Claim.byte t a = memory (Claim.byte s) a) ∧
      (∀ j, l = [j] → Claim.blockWritable s ph (op j) 16 → ∃ t, exec i s = .next t ∧ after t ∧
        ∀ a, Claim.byte t a = Claim.blockWritten ph (op j) (Claim.statusOf t.stamp 0 (if discard then 6 else 3))
          (some (if discard then 0 else (op j).result)) (memory (Claim.byte s)) a))

/-- The operations with one of them replaced. -/
def Claim.swapped (s : State) (o : EngineOp) : List EngineOp := s.ops.map fun p => if p.id = o.id then o else p

/-- An earlier operation of the same engine (R272, R273). -/
def Claim.before (s : State) (o p : EngineOp) : Prop :=
  p ∈ s.ops ∧ p.id < o.id ∧ p.kind = o.kind ∧ (if o.kind = .copy then p.home / 4 = o.home / 4 else p.home / 32 = o.home / 32)

/-- The thread that issued an operation with its slot set and its flags delivered at a step (R269, R278, R283, R392). -/
def Claim.informed (o : EngineOp) (st : BitVec 4) (c : BitVec 8) (stamp : Nat) (result : DWord) (th : Thread) : Thread :=
  let old := th.token o.slot
  let told := if old.st ≠ 0 ∧ old.gen = o.gen then
      { th.setToken o.slot { old with st := st, cause := c, stamp := BitVec.ofNat 48 stamp, result := result } with ev := th.ev || (old.st == 1 && st != 1) }
    else th
  { told with fflags := told.fflags ||| o.flags }

/-- The step informs the issuer, and no other thread: in its slot, or in its image where it is switched out (R282, R283, R396). -/
def Claim.informs (s t : State) (o : EngineOp) (st : BitVec 4) (c : BitVec 8) (result : DWord) : Prop :=
  let f := Claim.informed o st c t.stamp result
  let here := (∀ e ∈ (s.ctxAt o.ctx).images, e.1 ≠ o.issuer) ∧ o.issuer < slotCount ∧ (s.threadAt o.issuer).live = true ∧ (s.threadAt o.issuer).ctx = o.ctx
  (here → ∀ p, t.threadAt p = if p = o.issuer then f (s.threadAt p) else s.threadAt p) ∧
  (¬ here → (∀ p, t.threadAt p = s.threadAt p) ∧
    (t.ctxAt o.ctx).images = (s.ctxAt o.ctx).images.map fun e => if e.1 = o.issuer then (e.1, f e.2) else e)

/-- Row r of a copy: its destination address. -/
def Claim.dst (o : EngineOp) (r : Nat) : Nat := ((o.words.getD 1 0) + BitVec.ofNat 64 r * o.words.getD 5 0).toNat

/-- The bytes of row r of a copy: its pattern, or what was read (R275). -/
def Claim.rowOf (o : EngineOp) (r : Nat) : List Byte :=
  let n := (o.words.getD 2 0).toNat
  if (o.words.getD 3 0).getLsbD 32 then (List.range n).map fun b => (toBytes 8 (o.words.getD 0 0).toNat).getD (b % 8) 0
  else (o.buf.drop (r * n)).take n

/-- COPY engine steps and the steps that every engine shares (R258, R269, R271, R272, R275, R277 to R279, R283): a copy starts in issue order, refused,
empty, or with its destination translated; it reads its source line by line; its rows go to the shadow, a later over an earlier; the
shadow is published in issue order at one step; a ready step and a final step inform the issuer and write the command block; a
scratchpad copy takes an entry of its core's scoreboard, and at its retire its bytes, its entry and its token change at one step, at which
the first copy that waits takes the entry.
Where it rests on the model's own reading: assumptions 46, 47, 56, 121 of the log. -/
def Obligations.CopyEngineSteps : Prop :=
  ∀ (n : Nat) (s u : State) (o : EngineOp) (ph : Nat → Nat) (bs : List Byte) (c : Cause) (v : DWord),
    s.op n = some o →
    let word := fun k => o.words.getD k 0
    let len := (word 2).toNat
    let rows := Claim.bits (word 3) 0 32
    let sp := (s.ctxAt o.ctx).spbase.toNat
    let inside := fun r => sp ≤ Claim.dst o r ∧ Claim.dst o r + len ≤ sp + 2 ^ 21
    let outside := fun r => Claim.dst o r + len ≤ sp ∨ sp + 2 ^ 21 ≤ Claim.dst o r
    let empty := len = 0 ∨ rows = 0
    let scratch := ¬ empty ∧ ∀ r < rows, inside r
    let bad := Claim.bits (word 3) 33 31 ≠ 0 ∨ 2 ^ 28 < len * rows ∨
      ¬ empty ∧ (scratch ∧ o.explicit = true ∨ ¬ scratch ∧ ∃ r < rows, ¬ outside r)
    let score := fun (s : State) => (s.coreAt (o.home / 4)).scoreboard
    let access := exec (.engineAccessStep n) s
    let becomes := fun (u : State) (p : EngineOp) => Host.Outcome.next (φ := Fault) (ρ := Refusal) { u with ops := Claim.swapped u p }
    let failed := fun (u : State) (c : Cause) (a : DWord) =>
      becomes u { o with cause := c, result := a, shadow := [], buf := [], phase := .published }
    let a := ((word 0) + BitVec.ofNat 64 (o.progress / len) * word 4 + BitVec.ofNat 64 (o.progress % len)).toNat
    let m := min (128 - a % 128) (len - o.progress % len)
    let parts := (List.range rows).flatMap fun r => lineParts (Claim.dst o r) len
    let read := (word 3).getLsbD 32 = true ∨ len * rows ≤ o.progress
    let written := fun (f : Nat → Byte) => (List.range rows).foldl (fun g r => Claim.putRange ph g (Claim.dst o r) (Claim.rowOf o r)) f
    let placed := o.parts = parts.map (fun e => (e.1, ph e.1, e.2)) ∧ ((word 3).getLsbD 32 = true ∨ len * rows ≤ o.buf.length)
    let left := (score s).filter fun e => e.op != o.id
    let waitsFor := fun (p : EngineOp) => p ∈ s.ops ∧ p.id ≠ o.id ∧ p.home / 4 = o.home / 4 ∧ s.scratchCopy p = true
    let freesEntry := fun (t : State) => ∃ l, score t = left ++ l ∧ (∀ e ∈ l, ∃ p, waitsFor p ∧ e.op = p.id) ∧
      ∀ p, waitsFor p → (∀ q, waitsFor q → q.id < p.id → ∃ e ∈ score s, e.op = q.id) → left.length < 16 → ∃ e ∈ score t, e.op = p.id
    let moves := o.kind = .blend ∨ o.kind = .walk ∨ o.kind = .rcast → (s.ctxAt o.ctx).holdsBay (o.home / 32) = true
    let reachable := fun (k : Nat) => ∀ b, o.block = some b → ∀ e ∈ lineParts (b.toNat + 48) k,
      s.checkPart o.agent .dest e.1 e.2 = .ok (ph e.1, s)
    -- the start of a copy
    (o.kind = .copy → o.phase = .queued → (∀ p, Claim.before s o p → p.phase ≠ .queued) →
      (bad → access = failed s cause.engine 0) ∧
      (¬ bad → empty → access = becomes s { o with phase := .published }) ∧
      (¬ bad → ¬ empty → scratch → (∀ e ∈ score s, e.op ≠ o.id) → access = .next s) ∧
      (¬ bad → ¬ empty → (scratch → ∃ e ∈ score s, e.op = o.id) → (∀ e ∈ parts, ∃ r, s.translate o.agent .dest e.1 = .ok ((ph e.1, r), s)) →
        access = becomes s { o with phase := .running, parts := parts.map fun e => (e.1, ph e.1, e.2) }) ∧
      (∀ l e r, ¬ bad → ¬ empty → (scratch → ∃ e ∈ score s, e.op = o.id) → parts = l ++ e :: r →
        (∀ x ∈ l, ∃ r, s.translate o.agent .dest x.1 = .ok ((ph x.1, r), s)) →
        s.translate o.agent .dest e.1 = .error (.trap c v, u) → c ≠ cause.integrity → access = failed u c v)) ∧
    -- a read of its source
    (o.kind = .copy → o.phase = .running → (word 3).getLsbD 32 = false → o.progress < len * rows →
      (s.read o.agent .source 4 a m = .ok (bs, u) → access = becomes u.order { o with progress := o.progress + m, buf := o.buf ++ bs }) ∧
      (s.read o.agent .source 4 a m = .error (.trap c v, u) → c ≠ cause.integrity → access = failed u c v)) ∧
    -- its shadow
    (o.kind = .copy → o.phase = .running → read → ¬ scratch ∨ bad → placed → ∃ sh : List Put, (∀ f, Claim.over sh f = written f) ∧
      exec (.engineWriteStep n) s = becomes s.order { o with phase := .written, shadow := sh, buf := [] }) ∧
    -- the publish
    (o.kind = .copy ∨ o.kind = .blend → moves → o.phase = .written → o.explicit = false →
      (∀ p, Claim.before s o p → p.explicit = true ∨ s.scratchCopy p = true ∨ p.phase ≠ .queued ∧ p.phase ≠ .running ∧ p.phase ≠ .written) →
      Claim.soundPuts s o.ctx o.shadow → ∃ t, exec (.automaticPublish n) s = .next t ∧
        (∀ a, Claim.byte t a = Claim.over o.shadow (Claim.byte s) a) ∧ s.stamp < t.stamp ∧
        t.ops = Claim.swapped s { o with phase := .published, shadow := [] } ∧ t.t = s.t ∧ t.threads = s.threads) ∧
    -- ready and final
    (moves → o.phase = .written → o.explicit = true → reachable 8 → reachable 16 →
      ∃ t, exec (.readyStep n) s = .next t ∧ Claim.informs s t o 2 0 0 ∧ s.stamp < t.stamp ∧
        t.ops = Claim.swapped s { o with phase := .ready, flags := 0 } ∧
        ∀ a, Claim.byte t a = Claim.blockWritten ph o (Claim.statusOf t.stamp 0 2) none (Claim.byte s) a) ∧
    (o.kind ≠ .fold → o.kind ≠ .inboundRead → o.phase = .published → reachable 16 →
      let st : BitVec 4 := if o.cause = 0 then 3 else 4
      ∃ t, exec (.finalStep n) s = .next t ∧ Claim.informs s t o st o.cause o.result ∧ s.stamp < t.stamp ∧
        t.ops = s.ops.filter (fun p => p.id != o.id) ∧ freesEntry t ∧
        ∀ a, Claim.byte t a = Claim.blockWritten ph o (Claim.statusOf t.stamp o.cause st) (some o.result) (Claim.byte s) a) ∧
    -- the scratchpad
    (o.kind = .copy → scratch → ¬ bad → (∀ e ∈ score s, e.op ≠ o.id) → (score s).length < 16 → (∀ p, Claim.before s o p → s.scratchCopy p = true → ∃ e ∈ score s, e.op = p.id) →
      ∃ (t : State) (e : ScoreEntry), exec (.scoreboardTake n) s = .next t ∧ e.op = o.id ∧ score t = score s ++ [e] ∧ t.ops = s.ops ∧ t.mem = s.mem ∧
        ∀ r < rows, e.base ≤ scratchBase (o.home / 4) o.ctx + (Claim.dst o r - sp) ∧ scratchBase (o.home / 4) o.ctx + (Claim.dst o r - sp) + len ≤ e.base + e.size) ∧
    (o.kind = .copy → scratch → ¬ bad → o.phase = .running → read → placed →
      Claim.blockWritable s ph { o with shadow := o.copyShadow } 16 → (∀ e ∈ parts, ∀ i < e.2, s.lineOk ((ph e.1 + i) / 128) = true ∧
        (poolBase ≤ ph e.1 + i ∨ s.inStack (s.ctxAt o.ctx).part (ph e.1 + i) = true)) →
      ∃ t, exec (.copyRetire n) s = .next t ∧ Claim.informs s t o 3 0 0 ∧ s.stamp < t.stamp ∧
        (∀ a, Claim.byte t a = Claim.blockWritten ph o (Claim.statusOf t.stamp 0 3) (some 0) (written (Claim.byte s)) a) ∧
        t.ops = s.ops.filter (fun p => p.id != o.id) ∧ freesEntry t)

/-- The words on tokens, and publishing. Where it rests on the model's own reading: assumptions 59, 80, 116 of the log. -/
def Obligations.TokenAndPublishWords : Prop :=
  Claim.TokenWords ∧ Claim.PublishWords


/-! ### The fold engine and the sort-and-blend engine -/

/-- Doubleword 0 of a list with COUNT n and FOLD (R295). -/
def Claim.listWord (n : Nat) (fold : Bool) : List Byte := toBytes 8 (n + if fold then 8 else 0)

/-- The values of a fold converted into the base (R310): each by RNE, or each 48 stored elements as one block, +0 beyond the tensor. -/
def Claim.refolded (T : Tensor) (n : Nat) (val : Nat → FVal) : List (Nat × Nat × Flags) :=
  match T.block with
  | none => (List.range n).map fun i =>
    let r := Claim.once T.fmt 0 0 (val i)
    (r.1, 0, (if val i = .nan true then flagNV else 0) ||| r.2)
  | some g => (List.range ((n + 47) / 48 * 48)).map fun i =>
    let b := g.encode ((List.range 48).map fun q =>
      let j := i / 48 * 48 + q
      if j < n then (val j, (val j).neg) else (.num false 0, false))
    (b.2.1.getD (i % 48) 0, b.1, b.2.2)

/-- The steps of a fold (R283, R309, R310), in issue order of its bay: refused with the list untouched; with every value read it is
refused where FOLD is set, done where no layer stands, and otherwise at its read step FOLD is set and every element of the base holds its layered value converted; then written; then base and list published at one step, the first m layers
removed and later ones moved down; a fold that has set FOLD and ends in fault clears it. Each code lies at its element's place (R77), with its block's scale pair. -/
def Claim.FoldSteps : Prop :=
  ∀ (n m k : Nat) (s : State) (o : EngineOp) (T : Tensor) (bs : List Byte) (val : Nat → FVal × Flags) (ph : Nat → Nat) (fold : Bool),
    s.op n = some o → o.kind = .fold →
    let word := fun k => o.words.getD k 0
    let read := exec (.foldRead n) s
    let becomes := fun (u : State) (p : EngineOp) => Host.Outcome.next (φ := Fault) (ρ := Refusal) { u with ops := Claim.swapped u p }
    let refused := becomes s { o with cause := cause.engine, result := 0, shadow := [], buf := [], phase := .published }
    let bad := (word 0).toNat % 64 ≠ 0 ∨ ∃ k, 1 ≤ k ∧ k ≤ 5 ∧ word k ≠ 0
    let h := handleOf bs
    let list := h.d7.toNat
    let total := Claim.rows h * Claim.bits h.d1 32 32
    let place := fun i => (i / Claim.bits h.d1 32 32, i % Claim.bits h.d1 32 32)
    let c := Claim.refolded T total fun i => (val i).1
    let flags := (List.range total).foldl (fun (g : Flags) i => g ||| (val i).2) (c.foldl (fun (g : Flags) x => g ||| x.2.2) 0)
    let writable := fun (a n : Nat) => ∀ e ∈ lineParts a n, s.checkPart o.agent .dest e.1 e.2 = .ok (ph e.1, s)
    let at_ := (word 6).toNat
    let done := fun (t : State) (st : BitVec 4) (f : Nat → Byte) => Claim.informs s t o st o.cause o.result ∧ s.stamp < t.stamp ∧
      t.ops = s.ops.filter (fun p => p.id != o.id) ∧
      ∀ a, Claim.byte t a = Claim.blockWritten ph o (Claim.statusOf t.stamp o.cause st) (some o.result) f a
    (o.phase = .queued → (∀ p, Claim.before s o p → p.phase = .ready) →
      (bad → read = refused) ∧
      (¬ bad → bs.length = 64 → s.read o.agent .source 4 (word 0).toNat 64 = .ok (bs, s) →
        (¬ Claim.wellFormed h ∨ Claim.levels h ≠ [0, 0, 0, 0] ∨ list = 0 → read = refused) ∧
        (Claim.wellFormed h → Claim.levels h = [0, 0, 0, 0] → list ≠ 0 → openTensor h o.agent 4 s = .ok (T, s) →
          (∀ i < total, T.value (place i).1 (place i).2 s = .ok (val i, s)) →
          (T.fold = true → read = refused) ∧
          (T.fold = false → T.layers = [] → read = becomes s.order { o with phase := .published }) ∧
          (T.fold = false → T.layers.length = m → m ≠ 0 → writable list 8 →
            (∀ u, u = { s with mem := u.mem, parks := u.parks, stamp := u.stamp, tick := u.tick } →
              (∀ a, Claim.byte u a = Claim.putRange ph (Claim.byte s) list (Claim.listWord m true) a) →
              ∀ i < c.length, Claim.elemWithin u o.agent T i ∧ ∀ x ∈ Claim.elemRanges T i, ∀ e ∈ lineParts x.1 x.2,
                ∃ r, u.translate o.agent .store e.1 = .ok ((ph e.1, r), u)) →
            ∃ (t : State) (sh : List Put), read = .next t ∧
              (∀ f, Claim.over sh f = (List.range c.length).foldl (fun g i => Claim.putElem ph T g i ((c.getD i (0, 0, 0)).1, (c.getD i (0, 0, 0)).2.1)) f) ∧
              (∀ a, Claim.byte t a = Claim.putRange ph (Claim.byte s) list (Claim.listWord m true) a) ∧
              t.ops = Claim.swapped s { o with
                words := o.words ++ [h.d7], result := BitVec.ofNat 64 m, progress := 1, flags := flags, phase := .running, shadow := sh })))) ∧
    (o.phase = .running → exec (.engineWriteStep n) s = becomes s.order { o with phase := .written }) ∧
    (o.phase = .written → o.explicit = false → m = o.result.toNat → m ≤ k → k ≤ 7 → bs.length = 512 →
      s.read o.agent .source 4 at_ 512 = .ok (bs, s) → bs.take 64 = Claim.listWord k fold ++ List.replicate 56 0 →
      writable at_ 8 → writable (at_ + 64) (64 * k) → Claim.soundPuts s o.ctx o.shadow →
      ∃ t, exec (.foldPublish n) s = .next t ∧
        (∀ a, Claim.byte t a = Claim.putRange ph (Claim.putRange ph (Claim.over o.shadow (Claim.byte s)) at_ (Claim.listWord (k - m) false))
          (at_ + 64) ((bs.drop (64 * (m + 1))).take (64 * (k - m)) ++ List.replicate (64 * m) 0) a) ∧
        t.ops = Claim.swapped s { o with phase := .published, shadow := [], progress := 0 }) ∧
    (o.phase = .published →
      let st : BitVec 4 := if o.cause = 0 then 3 else 4
      (o.progress ≠ 1 → (∀ b, o.block = some b → writable (b.toNat + 48) 16) →
        ∃ t, exec (.finalStep n) s = .next t ∧ done t st (Claim.byte s)) ∧
      (o.progress = 1 → k ≤ 7 → s.read o.agent .source 4 at_ 64 = .ok (Claim.listWord k fold ++ List.replicate 56 0, s) → writable at_ 8 →
        (∀ b, o.block = some b → ∀ u, u = { s with mem := u.mem, parks := u.parks } →
          (∀ a, Claim.byte u a = Claim.putRange ph (Claim.byte s) at_ (Claim.listWord k false) a) →
          ∀ e ∈ lineParts (b.toNat + 48) 16, u.checkPart o.agent .dest e.1 e.2 = .ok (ph e.1, u)) →
        ∃ t, exec (.finalStep n) s = .next t ∧ done t st (Claim.putRange ph (Claim.byte s) at_ (Claim.listWord k false))))

/-- PUBLISH and PUBLISH.discard of one ready fold (R269, R280, R310): at one step the base takes the folded values and the list loses its first m layers, later ones moved
down, FOLD clear and the slot freed; a discard clears FOLD alone. The command block takes STATUS and RESULT. -/
def Claim.FoldPublishWords : Prop :=
  ∀ (rs1 rd : Reg) (j k : Nat) (s : State) (o : EngineOp) (bs : List Byte) (ph : Nat → Nat) (fold : Bool),
    Claim.noSegment s → s.ch.fillCache = false → (s.t.readX rs1).toNat = 2 ^ j → j < 64 → (s.t.token j).st = 2 → s.readyAt j = some o → o.kind = .fold →
    let at_ := (o.words.getD 6 0).toNat
    let m := o.result.toNat
    let writable := fun (a n : Nat) => ∀ e ∈ lineParts a n, s.checkPart o.agent .dest e.1 e.2 = .ok (ph e.1, s)
    let ends := fun (i : Instr) (st : BitVec 4) (result : DWord) (f : Nat → Byte) =>
      (∀ b, o.block = some b → ∀ u, u = { s with mem := u.mem, chk := u.chk, parks := u.parks } → (∀ a, Claim.byte u a = f a) →
        ∀ e ∈ lineParts (b.toNat + 48) 16, u.checkPart o.agent .dest e.1 e.2 = .ok (ph e.1, u)) →
      ∃ t, exec i s = .next t ∧ t.t.pc = s.advance.t.pc ∧ t.t.x = (s.setX rd 0).t.x ∧ t.t.v = s.t.v ∧ t.t.f = s.t.f ∧ s.stamp < t.stamp ∧
        (∀ i, t.t.token i = if i = j then { gen := (s.t.token j).gen + 1 } else s.t.token i) ∧ t.ops = s.ops.filter (fun p => p.id != o.id) ∧
        ∀ a, Claim.byte t a = Claim.blockWritten ph o (Claim.statusOf t.stamp 0 st) (some result) f a
    (m ≤ k → k ≤ 7 → bs.length = 512 → s.read o.agent .source 4 at_ 512 = .ok (bs, s) → bs.take 64 = Claim.listWord k fold ++ List.replicate 56 0 →
      writable at_ 8 → writable (at_ + 64) (64 * k) → Claim.soundPuts s o.ctx o.shadow →
      ends (.publish rs1 rd) 3 o.result
        (Claim.putRange ph (Claim.putRange ph (Claim.over o.shadow (Claim.byte s)) at_ (Claim.listWord (k - m) false))
          (at_ + 64) ((bs.drop (64 * (m + 1))).take (64 * (k - m)) ++ List.replicate (64 * m) 0))) ∧
    (o.progress = 1 → k ≤ 7 → s.read o.agent .source 4 at_ 64 = .ok (Claim.listWord k fold ++ List.replicate 56 0, s) → writable at_ 8 →
      ends (.publishDiscard rs1 rd) 6 0 (Claim.putRange ph (Claim.byte s) at_ (Claim.listWord k false)))

/-- The fold engine's steps, and the words that publish a fold (R269, R280, R283, R309, R310). Where it rests on the model's own reading: assumptions 58, 59, 121 of the log. -/
def Obligations.FoldEngineSteps : Prop :=
  Claim.FoldSteps ∧ Claim.FoldPublishWords

/-- The number that an FP32 word holds; none of a NaN or an infinity (R341). -/
def Claim.wordNumber (w : Nat) : Option Rat := match f32.value (w % 2 ^ 32) with | .num _ q => some q | _ => none

/-- The j-th 32-bit word of bytes. -/
def Claim.wordIn (bs : List Byte) (j : Nat) : Nat := ofBytes ((bs.drop (4 * j)).take 4)

/-- α of a splat of an FP32 opacity at q (R362): none where min(0.99, OPA · exp(−q/2)) is below 1/255, and else that real value rounded once, provided that it lies apart from 1/255 and
from each number that rounding may turn on by more than the model's last precision tells; q = 0 leaves it exact. -/
def Claim.SplatAlpha : Prop :=
  ∀ (opa q : Rat) (b : Nat) (neg : Bool), f32.value b = .num neg opa → 0 ≤ opa → opa ≤ 1 →
    let v : ℝ := min (99 / 100) ((opa : ℝ) * Real.exp (-(q : ℝ) / 2))
    let apart := fun (h : ℝ) => (2 : ℝ) ^ (-2300 : Int) ≤ |v - h|
    q = 0 ∨ apart (1 / 255) →
    (v < 1 / 255 → alphaOf opa q = none) ∧
    (1 / 255 ≤ v → q = 0 ∨ (∀ h, Claim.halfStep f32 h → apart h) → ∃ w g, alphaOf opa q = some (w, g) ∧
      Claim.RoundOnce f32 0 0 false (fun r => v < (r : ℝ)) (fun r => (r : ℝ) < v) w g)

/-- How a splat lies in its 48 bytes (R361, R362): KEY, the centre, the conic, the opacity and the colours, a word each; one with a word that is no number or an opacity outside
[0, 1] is passed over with NV. -/
def Claim.SplatLayout : Prop :=
  ∀ (bs : List Byte) (n : Nat → Rat), bs.length = 48 →
    let w := Claim.wordIn bs
    let p := splatOf bs
    p.key = w 0 ∧ p.col = [f32.value (w 7), f32.value (w 8), f32.value (w 9)] ∧
    (p.bad = true ↔ (∃ k, 1 ≤ k ∧ k ≤ 9 ∧ Claim.wordNumber (w k) = none) ∨ ∃ q, Claim.wordNumber (w 6) = some q ∧ ¬ (0 ≤ q ∧ q ≤ 1)) ∧
    ((∀ k, 1 ≤ k → k ≤ 6 → Claim.wordNumber (w k) = some (n k)) →
      p.cx = n 1 ∧ p.cy = n 2 ∧ p.a = n 3 ∧ p.b = n 4 ∧ p.c = n 5 ∧ p.opa = n 6)

/-- The splats over a pixel in order, until T falls below the threshold (R362): T, the colours and the flags. -/
def Claim.paint (thresh : FVal) (x y : Rat) : List Splat → Nat × List Nat × Flags → Nat × List Nat × Flags
  | [], p => p
  | sp :: r, (t, col, fl) =>
    if (f32.value t).lt thresh then (t, col, fl)
    else if sp.bad then Claim.paint thresh x y r (t, col, fl ||| flagNV)
    else
      let dx := x - sp.cx
      let dy := y - sp.cy
      match alphaOf sp.opa (sp.a * dx * dx + 2 * sp.b * dx * dy + sp.c * dy * dy) with
      | none => Claim.paint thresh x y r (t, col, fl)
      | some (al, g) =>
        let ta := (Claim.product (f32.value t) (f32.value al)).1
        let cs := (col.zip sp.col).map fun c => f32.sum 0 0 0 [f32.value c.1, (Claim.product ta c.2).1]
        let t' := f32.sum 0 0 0 [f32.value t, Claim.opposite ta]
        Claim.paint thresh x y r (t'.1, cs.map Prod.fst, cs.foldl (fun (a : Flags) c => a ||| c.2) (fl ||| g ||| t'.2))

/-- The steps of a blend (R272, R273, R277, R358, R361, R362), while its context holds the bay: in issue order of its bay it starts, refused or with its tile translated; it reads its splats line by
line; and with all of them read it sorts them by KEY, equal keys in array order, and composites every pixel into its shadow. -/
def Claim.BlendSteps : Prop :=
  ∀ (n : Nat) (s u : State) (o : EngineOp) (bs : List Byte) (ph : Nat → Nat) (c : Cause) (v : DWord),
    s.op n = some o → o.kind = .blend → (s.ctxAt o.ctx).holdsBay (o.home / 32) = true →
    let word := fun k => o.words.getD k 0
    let count := Claim.bits (word 1) 0 32
    let becomes := fun (u : State) (p : EngineOp) => Host.Outcome.next (φ := Fault) (ρ := Refusal) { u with ops := Claim.swapped u p }
    let failed := fun (u : State) (c : Cause) (a : DWord) =>
      becomes u { o with cause := c, result := a, shadow := [], buf := [], phase := .published }
    let access := exec (.engineAccessStep n) s
    let bad := word 4 ≠ 0 ∨ word 5 ≠ 0 ∨ (word 0).toNat % 16 ≠ 0 ∨ (word 2).toNat % 16 ≠ 0 ∨ (word 3).toNat % 16 ≠ 0 ∨ 2 ^ 20 < count
    let row := fun (y : Nat) => (word 2 + BitVec.ofNat 64 y * word 3).toNat
    let parts := (List.range 16).flatMap fun y => lineParts (row y) 256
    let a := (word 0 + BitVec.ofNat 64 o.progress).toNat
    let m := min (128 - a % 128) (48 * count - o.progress)
    let splat := fun k => (o.buf.drop (48 * k)).take 48
    let pixel := fun (l : List Splat) (j : Nat) => Claim.paint (f32.value (Claim.bits (word 6) 0 32))
      ((Claim.bits (word 1) 32 16 + j % 16 : Nat) + 1 / 2) ((Claim.bits (word 1) 48 16 + j / 16 : Nat) + 1 / 2) l (0x3F800000, [0, 0, 0], 0)
    let bytes := fun (l : List Splat) (y : Nat) => (List.range 16).flatMap fun x =>
      ((pixel l (16 * y + x)).2.1 ++ [(pixel l (16 * y + x)).1]).flatMap (toBytes 4)
    (o.phase = .queued → (∀ p, Claim.before s o p → p.phase ≠ .queued) →
      (bad → access = failed s cause.engine 0) ∧
      (¬ bad → (∀ e ∈ parts, ∃ r, s.translate o.agent .dest e.1 = .ok ((ph e.1, r), s)) →
        access = becomes s { o with phase := .running, parts := parts.map fun e => (e.1, ph e.1, e.2) })) ∧
    (o.phase = .running → o.progress < 48 * count →
      (s.read o.agent .source 4 a m = .ok (bs, u) → access = becomes u.order { o with progress := o.progress + m, buf := o.buf ++ bs }) ∧
      (s.read o.agent .source 4 a m = .error (.trap c v, u) → c ≠ cause.integrity → access = failed u c v)) ∧
    (o.phase = .running → 48 * count ≤ o.progress →
      ((∃ k < count, ∃ b ∈ ((splat k).drop 40).take 8, b ≠ 0) → exec (.blendTile n) s = failed s cause.engine 0) ∧
      ((∀ k < count, ∀ b ∈ ((splat k).drop 40).take 8, b = 0) → o.parts = parts.map (fun e => (e.1, ph e.1, e.2)) →
        ∃ (l : List (Splat × Nat)) (sh : List Put),
          l.Perm ((List.range count).map fun k => (splatOf (splat k), k)) ∧
          l.Pairwise (fun p q => p.1.key < q.1.key ∨ p.1.key = q.1.key ∧ p.2 < q.2) ∧
          (∀ f, Claim.over sh f = (List.range 16).foldl (fun g y => Claim.putRange ph g (row y) (bytes (l.map Prod.fst) y)) f) ∧
          exec (.blendTile n) s = becomes s.order { o with
            phase := .written, shadow := sh, buf := []
            flags := (List.range 256).foldl (fun (g : Flags) j => g ||| (pixel (l.map Prod.fst) j).2.2) 0 }))

/-- The steps of a blend, the splats that it reads, and their α (R272, R273, R277, R358, R361, R362).
Where it rests on the model's own reading: assumptions 10, 60, 61, 121 of the log. -/
def Obligations.BlendEngineSteps : Prop :=
  Claim.BlendSteps ∧ Claim.SplatAlpha ∧ Claim.SplatLayout

/-! ### The mesh marcher -/

/-- What taking the next child of the thread's task leaves (R427): its number counted, and elsewhere than in a deterministic context nothing more. -/
def Claim.childTaken (s v : State) (node : Nat) (key : DWord) : Prop :=
  key = Claim.key s.t.taskix (s.t.children + 1) ∧
  v = { s with t := { s.t with children := s.t.children + 1 }, ctx := { s.ctx with nodes := v.ctx.nodes }, nextOp := v.nextOp } ∧
  (s.ctx.det = false → node = 0 ∧ v.nextOp = s.nextOp ∧ v.ctx.nodes = s.ctx.nodes) ∧
  (s.ctx.det = true → ∃ x ∈ v.ctx.nodes, x.id = node ∧ x.parent = s.t.node ∧ x.c = s.t.children + 1)

/-- CELL, SEQ and STATUS of a ray record (R342). -/
def Claim.rayCell (d : Handle) : Nat := Claim.bits d.d4 0 32
/-- LEFT of a ray record. -/
def Claim.rayLeft (d : Handle) : Nat := Claim.bits d.d4 32 32
/-- STATUS of a ray record. -/
def Claim.rayStatus (d : Handle) : Nat := Claim.bits d.d5 32 4
/-- SUB of a ray record. -/
def Claim.raySub (d : Handle) : Nat := Claim.bits d.d5 36 4
/-- SEQ of a ray record. -/
def Claim.raySeq (d : Handle) : Nat := Claim.bits d.d5 0 32

/-- The ray of the thread's context whose record lies at an address and which has reached no final status. -/
def Claim.rayHere (s : State) (a : DWord) (o : EngineOp) (y : Ray) : Prop := s.rayAt s.t.ctx a = some (o, y)

/-- An operation with a ray replaced. -/
def Claim.withRay (o : EngineOp) (r : Ray) : EngineOp := { o with rays := o.rays.map fun x => if x.idx = r.idx then r else x }

/-- A record handed to its ray with a decision (R355): its STATUS 1 in memory, SUB as it stands, and the ray held with the decision. -/
def Claim.decided (s t : State) (a d : DWord) (pa : Nat) (bs : List Byte) : Prop :=
  (∀ b, Claim.byte t b = Claim.put (Claim.byte s) (pa + 44) [BitVec.ofNat 8 ((bs.getD 44 0).toNat / 16 * 16 + 1)] b) ∧
  (s.rayAt s.t.ctx a = none → t.ops = s.ops) ∧
  ∀ o y, Claim.rayHere s a o y → t.ops = Claim.swapped s (Claim.withRay o { y with status := 1, d := handleOf bs, decision := some d })

/-- The answer of an RQUERY whose read finds a record (R356). -/
def Claim.rayWord (s : State) (a : DWord) (bs : List Byte) : DWord :=
  let d := handleOf bs
  let live := match s.rayAt s.t.ctx a with
    | some (_, y) => if y.status = 1 then y.d else d
    | none => d
  BitVec.ofNat 64 (Claim.rayCell live * 2 ^ 32 + Claim.raySeq live % 2 ^ 24 * 2 ^ 8 + Claim.rayStatus d)

/-- RRESUME and RQUERY in the scalar access queue (R244, R355, R356): where they are deferred, or stand behind another access, they enter it with
their operands once their reads and writes pass their checks; at the head, each is performed as one step, an RRESUME once the marcher has a free
entry of its buffer. -/
def Claim.QueuedMarcherWords : Prop :=
  ∀ (rs2 rs1 rd : Reg) (s : State) (ph : Nat → Nat) (pa : Nat) (l : List ScalarAcc), Claim.plainAccess s →
    let a := s.t.readX rs1
    let n := s.t.readX rs2
    let parts := lineParts a.toNat 64
    let buffer := ((s.ops.filter fun o => o.kind == .rcast && o.home / 32 == s.pos / 32).map fun o =>
      o.rays.countP fun r => r.decision.isSome).sum
    let popped : State := { s with t := { s.t with scalars := l } }
    let free := fun (p k : Nat) => s.held s.agent p k = false ∧ s.lineOk (p / 128) = true
    let bytes := fun (p k : Nat) => (List.range k).map fun i => Claim.byte s (p + i)
    (Claim.noSegment s → s.ch.deferScalar = true ∧ s.inTask = false ∨ s.t.scalars ≠ [] →
      ¬ (Claim.bits n 0 2 = 3 ∨ Claim.bits n 2 30 ≠ 0) → Claim.passes s s .load a 64 pa → s.checkPart s.agent .store (a.toNat + 44) 1 = .ok (pa + 44, s) →
      ∃ page, exec (.rresume rs2 rs1 rd) s = .next (Claim.queued s { kind := .resume n rd, bytes := 64, va := a, pa := pa, page := page }).advance) ∧
    (s.ch.deferScalar = true ∨ s.t.scalars ≠ [] →
      (∀ e ∈ parts, (∃ r, s.translate s.agent .load e.1 = .ok ((ph e.1, r), s)) ∧ s.lineOk (ph e.1 / 128) = true) →
      ∃ page first more, parts = first :: more ∧ exec (.rquery rs1 rd) s = .next (Claim.queued s
        { kind := .query rd, bytes := first.2, va := a, pa := ph first.1, page := page, more := more.map fun e => (ph e.1, e.2) }).advance) ∧
    (∀ d va page, s.t.scalars = { kind := .resume d rd, bytes := 64, va := va, pa := pa, page := page } :: l → free pa 64 →
      let bs := bytes pa 64
      (16 ≤ buffer → s.scalarStep = none) ∧
      (buffer < 16 →
        (Claim.rayStatus (handleOf bs) ≠ 3 → Claim.rayStatus (handleOf bs) ≠ 4 → s.scalarStep = some (popped.orderThread.setX rd 0)) ∧
        (Claim.rayStatus (handleOf bs) = 3 ∨ Claim.rayStatus (handleOf bs) = 4 → ∃ t, s.scalarStep = some t ∧ t.t.scalars = l ∧
          t.t.x = (s.setX rd 1).t.x ∧ Claim.decided s t va d pa bs))) ∧
    (∀ va page n more, s.t.scalars = { kind := .query rd, bytes := n, va := va, pa := pa, page := page, more := more } :: l →
      (∀ p ∈ (pa, n) :: more, free p.1 p.2) →
      s.scalarStep = some (popped.orderThread.setX rd (Claim.rayWord s va (((pa, n) :: more).flatMap fun p => bytes p.1 p.2))))

/-- RCAST, RRESUME and RQUERY at their words (R353, R355, R356): RCAST of a misaligned array issues nothing, of no rays is done at once, and
otherwise enters the marcher's queue of its bay, always as a child of its task. RRESUME refuses a decision that is none, waits for
the resume buffer, answers 0 for a record that waits for no decision, and otherwise hands it to the ray, STATUS 1. RQUERY reports CELL, SEQ and
STATUS, of a held ray the live ones. -/
def Claim.MarcherWordsAtOnce : Prop :=
  ∀ (rs2 rs1 rd : Reg) (s u : State) (k pa : Nat) (bs : List Byte),
    let a := s.t.readX rs1
    let n := s.t.readX rs2
    let rcast := Instr.rcast rs2 rs1 rd
    let rresume := Instr.rresume rs2 rs1 rd
    let issue : Issue := { kind := .rcast, explicit := false, block := none, rd := rd, words := [a, n] }
    let d := handleOf bs
    let refused := Claim.bits n 0 2 = 3 ∨ Claim.bits n 2 30 ≠ 0
    let buffer := ((s.ops.filter fun o => o.kind == .rcast && o.home / 32 == s.pos / 32).map fun o =>
      o.rays.countP fun r => r.decision.isSome).sum
    (Claim.noSegment s → a.toNat % 64 ≠ 0 → ∀ i ∈ [rcast, rresume], exec i s = Claim.traps s cause.misaligned a) ∧
    (Claim.noSegment s → Claim.noOtherIssuer s → a.toNat % 64 = 0 →
      ((∀ j < 64, (s.t.token j).st ≠ 0) → exec rcast s = Claim.traps s cause.tokenFull 0) ∧
      (Claim.takes s k → n = 0 → ∃ (t v : State) (node : Nat), Claim.childTaken s.orderThread v node (Claim.key s.t.taskix (s.t.children + 1)) ∧
        exec rcast s = .next t ∧
        (∀ j, t.t.token j = if j = k then { s.t.token k with st := 3, stamp := BitVec.ofNat 48 v.stamp, cause := 0, result := 0 } else s.t.token j) ∧
        t = { (v.setX rd (Claim.tokenOf s k)).advance with
          t := { (v.setX rd (Claim.tokenOf s k)).advance.t with tokens := t.t.tokens, ev := true } }) ∧
      (Claim.takes s k → n ≠ 0 → Claim.room s .rcast → ∃ (t v : State) (node : Nat) (key : DWord),
        Claim.childTaken s.orderThread v node key ∧ exec rcast s = .next t ∧ Claim.entered v t issue node key k) ∧
      (Claim.takes s k → n ≠ 0 → ¬ Claim.room s .rcast → ∃ w : WaitRec, w.kind = .engine ∧ w.issue = issue ∧
        exec rcast s = .next { s with tick := s.tick + 1, t := { s.t with wait := some w } })) ∧
    (Claim.noSegment s → a.toNat % 64 = 0 →
      (refused → exec rresume s = .next (s.setX rd 2).advance) ∧
      (¬ refused → s.ch.deferScalar = false → s.t.scalars = [] → 16 ≤ buffer → exec rresume s = Claim.held s) ∧
      (¬ refused → s.ch.deferScalar = false → s.t.scalars = [] → buffer < 16 → bs.length = 64 → s.read s.agent .load 1 a.toNat 64 = .ok (bs, u) →
        (Claim.rayStatus d ≠ 3 → Claim.rayStatus d ≠ 4 → exec rresume s = .next (u.orderThread.setX rd 0).advance) ∧
        (Claim.rayStatus d = 3 ∨ Claim.rayStatus d = 4 → s.segment s.agent = none → s.ch.fillCache = false →
          s.checkPart s.agent .store (a.toNat + 44) 1 = .ok (pa + 44, s) →
          ∃ t, exec rresume s = .next t ∧ t.t.x = (s.setX rd 1).t.x ∧ Claim.decided s t a n pa bs ∧
            t = { s.advance with
              mem := t.mem, parks := t.parks, stamp := t.stamp, tick := t.tick, ops := t.ops
              t := { s.advance.t with x := t.t.x, lastStamp := t.t.lastStamp, digest := t.t.digest } }))) ∧
    (s.ch.deferScalar = false → s.t.scalars = [] → bs.length = 64 → s.read s.agent .load 1 a.toNat 64 = .ok (bs, u) →
      exec (.rquery rs1 rd) s = .next (u.orderThread.setX rd (Claim.rayWord u a bs)).advance)

/-- RCAST, RRESUME and RQUERY, at their words and from the scalar access queue (R244, R353, R355, R356).
Where it rests on the model's own reading: assumptions 45, 54, 92 of the log. -/
def Obligations.MarcherWords : Prop :=
  Claim.MarcherWordsAtOnce ∧ Claim.QueuedMarcherWords

/-- Memory with the RW fields of a ray record written: TMIN while marching and TMAX in BVH mode, CELL and LEFT, and the last part but
for STAGE, which keeps what stands there; CAUSE is 0 unless STATUS is 9 (R342, R344). -/
def Claim.putRecord (bvh : Bool) (pa : Nat) (d : Handle) (f : Nat → Byte) : Nat → Byte :=
  let w := Claim.bits (if bvh then d.d3 else d.d1) 32 32
  let d5 := Claim.raySeq d + 2 ^ 32 * Claim.rayStatus d + 2 ^ 36 * Claim.raySub d + 2 ^ 40 * ((f (pa + 45)).toNat % 16) +
    (if Claim.rayStatus d = 9 then 2 ^ 48 * Claim.bits d.d5 48 8 else 0)
  Claim.put (Claim.put (Claim.put f (pa + if bvh then 28 else 12) (toBytes 4 w)) (pa + 32) (toBytes 8 d.d4.toNat)) (pa + 40) (toBytes 8 d5)

/-- A ray has no final status (R354). -/
def Claim.rayOpen (x : Ray) : Prop := x.status = 1 ∨ x.status = 2 ∨ x.status = 3 ∨ x.status = 4

/-- The step of a ray that may be the operation's last: with hits gathered and not pushed, another ray is pending (R354). -/
def Claim.hitsWait (o : EngineOp) : Prop :=
  o.hits ≠ [] → 1 < o.rays.countP fun x => x.status == 1 || x.status == 2 || x.status == 3 || x.status == 4

/-- What a step leaves of an RCAST (R354): pending while a ray has no final status; otherwise the operation ends
at the step, done, or in fault with the cause and the record of the lowest-addressed ray in fault. -/
def Claim.castLeft (s t : State) (o : EngineOp) : Prop :=
  let open_ := ∃ x ∈ o.rays, Claim.rayOpen x
  (open_ → t.ops = Claim.swapped s o) ∧
  (¬ open_ → t.ops = s.ops.filter (fun p => p.id != o.id) ∧
    ((∀ x ∈ o.rays, x.status ≠ 9) → Claim.informs s t o 3 0 0) ∧
    ∀ l r m, o.rays = l ++ r :: m → r.status = 9 → (∀ x ∈ l, x.status = 9 → r.addr.toNat < x.addr.toNat) →
      (∀ x ∈ m, x.status = 9 → r.addr.toNat ≤ x.addr.toNat) → Claim.informs s t o 4 r.cause r.addr)

/-- A ray ends, or parks, with its record written (R344). -/
def Claim.rayStored (s t : State) (pa : Nat) (o : EngineOp) (r : Ray) (d : Handle) (st : Nat) : Prop :=
  let x := d.withStatus st
  (∀ a, Claim.byte t a = Claim.putRecord (s.bvhMode o.ctx) pa x (Claim.byte s) a) ∧ s.stamp < t.stamp ∧
  Claim.castLeft s t (Claim.withRay o { r with
    status := BitVec.ofNat 4 st, d := x, inLeaf := false, decision := none, cause := BitVec.ofNat 8 (Claim.bits d.d5 48 8) })

/-- A record of a ray stands last in its stage's queue, filled up with zeros, with its key (R348, R427). -/
def Claim.pushed (_s t : State) (o : EngineOp) (p : Pipe) (stage i n : Nat) (bs : List Byte) : Prop :=
  ∃ q r, t.pipeOf o.launch (o.home / 32) = some q ∧ q.queue stage = p.queue stage ++ [r] ∧ r.takeable = true ∧
    r.bytes = (bs ++ List.replicate (stageBytes p.desc stage - bs.length) 0).take (stageBytes p.desc stage) ∧
    r.key = Claim.key (Claim.key o.key (i + 1)) n

/-- A state differs in its task tree alone. -/
def Claim.onlyNodes (s v : State) : Prop :=
  v = { s with nextOp := v.nextOp, ctx := v.ctx, ctxs := v.ctxs } ∧ ∀ k, v.ctxAt k = { s.ctxAt k with nodes := (v.ctxAt k).nodes }

/-- A factor times an FP32 word as a term of a field's sum: an exact zero factor is positive (R341, R346; assumption 104). -/
def Claim.fieldTerm (w : Rat) (x : Nat) : FVal :=
  let v := f32.value (x % 2 ^ 32)
  .num (decide (w < 0) != v.neg) (w * v.rat)

/-- Component k of a cell's field at a point, rounded once (R346): barycentric in a tetrahedron, a constant and a gradient about the
centroid in a polyhedron; 0 beyond the components. -/
def Claim.fieldWord (m : Mesh) (cell : Cell) (data : List (List Nat)) (p : Vec3) (k : Nat) : Nat :=
  let d := fun i j => (data.getD i []).getD j 0
  let v := p.sub cell.centroid
  let face := fun i => (cell.planes.getD i ⟨0, ⟨0, 0, 0⟩⟩).at p / cell.apex.getD i 1
  if m.fields = 0 ∨ m.comps ≤ k then 0
  else if m.kind = 0 then
    (f32.sum 0 0 0 [Claim.fieldTerm (face 0) (d 0 k), Claim.fieldTerm (face 1) (d 1 k), Claim.fieldTerm (face 2) (d 2 k), Claim.fieldTerm (face 3) (d 3 k)]).1
  else (f32.sum 0 0 0 [Claim.fieldTerm 1 (d k 0), Claim.fieldTerm v.x (d k 1), Claim.fieldTerm v.y (d k 2), Claim.fieldTerm v.z (d k 3)]).1

/-- The marcher reads these n bytes at an address (R341, R357). -/
def Claim.marcherReads (o : EngineOp) (s : State) (a n : Nat) (bs : List Byte) : Prop :=
  s.read o.agent .source 4 (a % 2 ^ 64) n = .ok (bs, s) ∧ bs.length = n

/-- How mesh descriptors, cells, vertices and fields lie in memory (R338 to R341): a descriptor that keeps its rules gives the mesh, any other a
fault; a tetrahedral cell has the four planes through its faces, its own vertices on their negative sides, and the mean of its vertices as
its centroid, a polyhedral cell the planes and the centroid that are stored; a flat cell, a face count or reserved byte out of its rule, and a value that is no number make
a degenerate cell; a cell index beyond the mesh is a fault. -/
def Claim.MeshLayout : Prop :=
  ∀ (o : EngineOp) (m : Mesh) (s : State) (c a : Nat) (need : Bool) (bs : List Byte) (rows : Nat → List Byte) (cell : Cell),
    let w := Claim.wordIn bs
    let d := fun k => ofBytes ((bs.drop (8 * k)).take 8)
    let value := fun (i k : Nat) => Claim.wordNumber (Claim.wordIn (rows i) k)
    let beyond := fun (j : Nat) => j ≠ 2 ^ 32 - 1 ∧ m.ncell ≤ j
    let nf := (bs.getD 172 0).toNat
    let fault := (MeshStop.fault cause.engine, s)
    let mode := (s.ctxAt o.ctx).marchsel.toNat
    let nbrs := if m.kind = 0 then (List.range 4).map fun j => w (4 + j) else (List.range (min 8 nf)).map fun j => w (32 + j)
    (a % 64 ≠ 0 ∨ mode ∉ s.loadedModes → readMesh o a s = .error fault) ∧
    (a % 64 = 0 → mode ∈ s.loadedModes → Claim.marcherReads o s a 64 bs →
      let kind := d 5 % 4
      let kept := d 3 = 0 ∧ d 5 / 2 ^ 4 = 0 ∧ d 6 = 0 ∧ d 7 = 0 ∧ kind ≠ 3 ∧ kind = mode ∧ d 4 % 2 ^ 32 ≠ 0 ∧ d 0 % 64 = 0 ∧
        (kind = 0 → d 1 % 16 = 0) ∧ d 2 % 16 = 0
      (¬ kept → readMesh o a s = .error fault) ∧
      (kept → readMesh o a s = .ok ({ kind := kind, cells := d 0, verts := d 1, fields := d 2, ncell := d 4 % 2 ^ 32, nprim := d 4 / 2 ^ 32
                                      comps := d 5 / 4 % 4 + 1 }, s))) ∧
    (m.ncell ≤ c → readCell o m need c s = .error fault ∧ readNeighbours o m c s = .error fault) ∧
    (c < m.ncell → (m.kind = 0 → Claim.marcherReads o s (m.cells + 32 * c) 32 bs) → (m.kind ≠ 0 → Claim.marcherReads o s (m.cells + 192 * c) 192 bs) →
      ((∃ j ∈ nbrs, beyond j) → readCell o m need c s = .error fault ∧ readNeighbours o m c s = .error fault) ∧
      ((∀ j ∈ nbrs, ¬ beyond j) → readNeighbours o m c s = .ok (nbrs, s) ∧
        (m.kind = 0 → (∀ i < 4, Claim.marcherReads o s (m.verts + 16 * w i) 12 (rows i)) →
          ((∃ i < 4, ∃ k < 3, value i k = none) → ∃ x : Cell, readCell o m need c s = .ok (x, s) ∧ x.degenerate = true) ∧
          (∀ q : Nat → Vec3, (∀ i < 4, value i 0 = some (q i).x ∧ value i 1 = some (q i).y ∧ value i 2 = some (q i).z) →
            let volume := (((q 1).sub (q 0)).cross ((q 2).sub (q 0))).dot ((q 3).sub (q 0))
            ∃ x : Cell, readCell o m need c s = .ok (x, s) ∧ (x.degenerate = true ↔ volume = 0) ∧ x.verts = (List.range 4).map w ∧
              (volume ≠ 0 → x.nbrs = nbrs ∧ x.planes.length = 4 ∧
                x.centroid = Vec3.scale (1 / 4) ((((q 0).add (q 1)).add (q 2)).add (q 3)) ∧
                ∀ i < 4, let p := x.planes.getD i ⟨0, ⟨0, 0, 0⟩⟩
                  x.apex[i]? = some (p.at (q i)) ∧ p.at (q i) < 0 ∧ ∀ j < 4, j ≠ i → p.at (q j) = 0))) ∧
        (m.kind ≠ 0 →
          let broken := nf = 0 ∨ 8 < nf ∨ ∃ j, 173 ≤ j ∧ j < 192 ∧ bs.getD j 0 ≠ 0
          let vague := (∃ k < 4 * nf, Claim.wordNumber (w k) = none) ∨ need = true ∧ ∃ k < 3, Claim.wordNumber (w (40 + k)) = none
          (broken ∨ vague → ∃ x : Cell, readCell o m need c s = .ok (x, s) ∧ x.degenerate = true) ∧
          (¬ broken → ¬ vague →
            let v := fun k => (Claim.wordNumber (w k)).getD 0
            readCell o m need c s = .ok ({ planes := (List.range nf).map fun k => ⟨v (4 * k), ⟨v (4 * k + 1), v (4 * k + 2), v (4 * k + 3)⟩⟩
                                           nbrs := nbrs, apex := [], verts := []
                                           centroid := if need then ⟨v 40, v 41, v 42⟩ else ⟨0, 0, 0⟩ }, s))))) ∧
    (m.fields = 0 → readFields o m c cell s = .ok ([], s)) ∧
    (m.fields ≠ 0 → m.kind = 0 → (∀ i < cell.verts.length, Claim.marcherReads o s (m.fields + 16 * cell.verts.getD i 0) (4 * m.comps) (rows i)) →
      readFields o m c cell s = .ok ((List.range cell.verts.length).map fun i => (List.range m.comps).map (Claim.wordIn (rows i)), s)) ∧
    (m.fields ≠ 0 → m.kind ≠ 0 → (∀ i < m.comps, Claim.marcherReads o s (m.fields + 64 * c + 16 * i) 16 (rows i)) →
      readFields o m c cell s = .ok ((List.range m.comps).map fun i => (List.range 4).map (Claim.wordIn (rows i)), s))

/-- The admission and the marching of rays (R338, R341, R344 to R348, R353, R354), where the context holds the bay and records can be read and written: at its admission step an RCAST
that is too large, or whose mode is not loaded, ends in fault; otherwise every record of STATUS 0 is initialised, done where its interval is empty, held up
to 64 of a bay, and parked beyond; in a deterministic context every record is a child of the RCAST. A held ray crosses one cell: its segment record goes to its stage, and it enters the next cell or ends; it parks where
the stage is full, and is read again and held when there is room. -/
def Claim.RayMarchingSteps : Prop :=
  ∀ (n i pa : Nat) (s : State) (o : EngineOp) (r : Ray) (p : Pipe) (m : Mesh) (cell : Cell) (data : List (List Nat)) (c : Crossing)
    (nbrs : List Nat) (ph : Nat → Nat) (rec : Nat → Handle) (bs : List Byte),
    s.op n = some o → o.block = none → s.ch.fillCache = false → (s.ctxAt o.ctx).holdsBay (o.home / 32) = true →
    let bvh := s.bvhMode o.ctx
    let count := (o.words.getD 1 0).toNat
    let a := fun j => ((o.words.getD 0 0) + BitVec.ofNat 64 (64 * j)).toNat
    let bay := o.home / 32
    let heldNow := ((s.ops.filter fun o => o.kind == .rcast && o.home / 32 == bay).map fun o =>
      o.rays.countP fun r => r.status == 1 && r.decision.isNone).sum
    let fresh := fun j => if bvh then ((rec j).withSeq (2 ^ 32 - 1)).withSub 0 else ((rec j).withSeq 0).withSub 15
    let number := fun (w : Nat) => match f32.value w with | .num _ q => some q | _ => none
    let interval := fun (j : Nat) => match number (Claim.bits (rec j).d1 32 32), number (Claim.bits (rec j).d3 32 32) with
      | some lo, some hi => bvh = false ∧ hi ≤ lo
      | _, _ => False
    let stored := fun (t : State) (o : EngineOp) (d : Handle) (st : Nat) => Claim.rayStored s t pa o r d st
    let march := exec (.marchStep n i) s
    -- admission
    (o.kind = .rcast → o.phase = .queued →
      (65536 < count ∨ (s.ctxAt o.ctx).marchsel.toNat ∉ s.loadedModes → ∃ t, exec (.rayAdmission n) s = .next t ∧
        Claim.informs s t o 4 cause.engine 0 ∧ t.ops = s.ops.filter (fun p => p.id != o.id)) ∧
      (count ≤ 65536 → (s.ctxAt o.ctx).marchsel.toNat ∈ s.loadedModes →
        (∀ j < count, ∀ u v, Claim.onlyNodes s v → u = { v with mem := u.mem, parks := u.parks, stamp := u.stamp, tick := u.tick } →
          (∀ x, (∀ k < j, x < ph k ∨ ph k + 64 ≤ x) → Claim.byte u x = Claim.byte s x) →
          ∃ b, b.length = 64 ∧ rec j = handleOf b ∧ u.read o.agent .source 4 (a j) 64 = .ok (b, u) ∧
            u.checkPart o.agent .dest (a j) 64 = .ok (ph j, u)) →
        ∃ (t : State) (st : Nat → Nat), exec (.rayAdmission n) s = .next t ∧
          ((s.ctxAt o.ctx).det = true → ∀ j < count, ∃ x ∈ (t.ctxAt o.ctx).nodes, x.parent = o.node ∧ x.c = j + 1) ∧
          let admitted := (List.range count).filter fun j => Claim.rayStatus (rec j) == 0
          (∀ j ∈ admitted, (interval j → st j = 5) ∧ (¬ interval j →
            st j = if heldNow + (admitted.countP fun k => decide (k < j) && st k == 1) < 64 then 1 else 2)) ∧
          (∀ x, Claim.byte t x = admitted.foldl (fun f j => Claim.putRecord bvh (ph j) ((fresh j).withStatus (st j)) f) (Claim.byte s) x) ∧
          Claim.castLeft s t { o with phase := .running, rays := admitted.map fun j =>
            { idx := j, addr := BitVec.ofNat 64 (a j), status := BitVec.ofNat 4 (st j), atAdmission := st j == 2, d := (fresh j).withStatus (st j) } })) ∧
    -- marching
    (o.ray i = some r → r.status = 1 → r.decision = none → bvh = false → s.checkPart o.agent .dest r.addr.toNat 64 = .ok (pa, s) →
      (s.castPipe o r.d 80 = none → ∃ t, march = .next t ∧ stored t o (r.d.withCause 11) 9) ∧
      (s.castPipe o r.d 80 = some p → readMesh o r.d.d7.toNat s = .ok (m, s) →
        let stage := Claim.bits r.d.d5 40 4
        (Claim.rayLeft r.d = 0 → ∃ t, march = .next t ∧ stored t o r.d 7) ∧
        (Claim.rayLeft r.d ≠ 0 → readCell o m (m.fields != 0) (Claim.rayCell r.d) s = .ok (cell, s) →
          readFields o m (Claim.rayCell r.d) cell s = .ok (data, s) →
          (crossCell m cell data r = none → ∃ t, march = .next t ∧ stored t o r.d 8) ∧
          (crossCell m cell data r = some c → p.room stage = false → ∃ t, march = .next t ∧ stored t o r.d 2) ∧
          (crossCell m cell data r = some c → p.room stage = true →
            let o' := { o with flags := o.flags ||| c.flags }
            (c.last ≠ 0 → ∃ t, march = .next t ∧ Claim.pushed s t o p stage i (Claim.raySeq r.d + 1) c.bytes ∧
              Claim.rayStored s t pa o' { r with d := c.d } c.d c.last) ∧
            (c.last = 0 → readNeighbours o' m c.nbr s = .ok (nbrs, s) → ∃ t, march = .next t ∧
              Claim.pushed s t o p stage i (Claim.raySeq r.d + 1) c.bytes ∧ t.mem = s.mem ∧
              ∃ f, (∀ j < f, nbrs[j]? ≠ some (Claim.rayCell r.d)) ∧ (nbrs[f]? = some (Claim.rayCell r.d) ∨ nbrs.length ≤ f) ∧
                t.ops = Claim.swapped s (Claim.withRay o' { r with
                  d := ((c.d.withSub (if f < nbrs.length then f else 15)).withCell c.nbr).withTmin c.tout })))))) ∧
    -- one crossing
    (∀ org dir : List Rat, ∀ tin tmax : Rat, org.length = 3 → dir.length = 3 →
      let at_ := fun (k : Nat) (d : DWord) => number (Claim.bits d (32 * k) 32)
      at_ 0 r.d.d0 = org[0]? → at_ 1 r.d.d0 = org[1]? → at_ 0 r.d.d1 = org[2]? → at_ 0 r.d.d2 = dir[0]? → at_ 1 r.d.d2 = dir[1]? →
      at_ 0 r.d.d3 = dir[2]? → at_ 1 r.d.d1 = some tin → at_ 1 r.d.d3 = some tmax →
      let along := fun (e : Nat) => (cell.planes.getD e ⟨0, ⟨0, 0, 0⟩⟩).n.dot (vecOf dir)
      let param := fun (e : Nat) => -((cell.planes.getD e ⟨0, ⟨0, 0, 0⟩⟩).at (vecOf org)) / along e
      let candidate := fun (e : Nat) => e < cell.planes.length ∧ e ≠ Claim.raySub r.d ∧ 0 < along e
      let sound := cell.degenerate = false ∧ ∀ ws ∈ data, ∀ w ∈ ws, (number (w % 2 ^ 32)).isSome = true
      let place := fun (w : Nat) => (vecOf org).add (Vec3.scale ((number w).getD 0) (vecOf dir))
      (¬ sound ∨ (∀ e, ¬ candidate e) → crossCell m cell data r = none) ∧
      (∀ e, sound → candidate e → (∀ f, candidate f → param e ≤ param f ∧ (f < e → param e < param f)) → ∃ x, crossCell m cell data r = some x ∧
        let rt := if param e = 0 then (0, 0) else f32.roundNum 0 0 (param e)
        let later : Bool := match number rt.1 with | some q => decide (tin < q) | none => decide (0 ≤ param e)
        let tw := if later then rt.1 else Claim.bits r.d.d1 32 32
        let far : Bool := match f32.value tw with | .num _ q => decide (tmax ≤ q) | .inf neg => !neg | .nan _ => false
        let nbr := cell.nbrs.getD e (2 ^ 32 - 1)
        let tout := if far then Claim.bits r.d.d3 32 32 else tw
        x.nbr = nbr ∧
        x.last = (if far then 5 else if nbr = 2 ^ 32 - 1 then 6 else if Claim.rayLeft r.d - 1 = 0 then 7 else 0) ∧
        Claim.rayLeft x.d = (Claim.rayLeft r.d - 1) ∧ Claim.raySeq x.d = (Claim.raySeq r.d + 1) % 2 ^ 32 ∧ Claim.rayCell x.d = Claim.rayCell r.d ∧
        x.tout = tout ∧ x.d.d1 = r.d.d1 ∧
        let fields := fun (w : Nat) => (List.range 4).flatMap fun k => toBytes 4 (Claim.fieldWord m cell data (place w) k)
        x.bytes = toBytes 4 0 ++ toBytes 4 (Claim.rayCell r.d) ++ toBytes 8 r.addr.toNat ++ toBytes 8 r.d.d6.toNat ++
          toBytes 4 (Claim.raySeq r.d) ++ toBytes 4 (e + 16 * x.last) ++ toBytes 4 (Claim.bits r.d.d1 32 32) ++ toBytes 4 tout ++
          fields (Claim.bits r.d.d1 32 32) ++ fields tout ++ toBytes 8 0)) ∧
    -- held again
    (o.ray i = some r → r.status = 2 → Claim.hitsWait o → heldNow < 64 →
      (r.atAdmission = true ∨ ∀ p, s.pipeOf o.launch bay = some p → p.room (Claim.bits r.d.d5 40 4) = true) →
      bs.length = 64 → s.read o.agent .source 4 r.addr.toNat 64 = .ok (bs, s) → s.checkPart o.agent .dest r.addr.toNat 64 = .ok (pa, s) →
      ∃ t, exec (.rayReadmit n i) s = .next t ∧
        (∀ x, Claim.byte t x = Claim.putRecord bvh pa ((handleOf bs).withStatus 1) (Claim.byte s) x) ∧
        t.ops = Claim.swapped s (Claim.withRay o { r with status := 1, atAdmission := false, d := (handleOf bs).withStatus 1 }))

/-- The marching of rays, and the meshes that it reads (R338 to R341, R344 to R348, R353, R354). Where it rests on the model's own reading: assumptions 54, 57, 104
of the log. -/
def Obligations.RayMarching : Prop :=
  Claim.RayMarchingSteps ∧ Claim.MeshLayout

/-- A line is within a box at a parameter (R350). -/
def Claim.onLine (lo hi org dir : List Rat) (t : Rat) : Prop :=
  ∀ k < 3, lo.getD k 0 ≤ org.getD k 0 + t * dir.getD k 0 ∧ org.getD k 0 + t * dir.getD k 0 ≤ hi.getD k 0

/-- A line is within a box somewhere in [TMIN, TMAX] (R350). -/
def Claim.inBox (lo hi org dir : List Rat) (tmin tmax : Rat) : Prop := ∃ t : Rat, tmin ≤ t ∧ t ≤ tmax ∧ Claim.onLine lo hi org dir t

/-- The traversal of rays (R343, R349, R350, R351, R354, R355) where records and the hierarchy can be read: a held BVH ray ends done behind the last node and at the step limit;
it visits a node, or a triangle of the leaf it is in, past the last of which it goes on at MISS; an opaque hit narrows it, any other and a procedure's box park it with an entry for a hit record; a
full hit record, or one that no held ray can add to, goes to its stage, before the final write of the last pending ray; and a resumed ray acts on its decision.
The zero of a hit parameter is assumption 104 of the log, and the order of the pushes of hit records assumption 105. -/
def Claim.RayTraversalSteps : Prop :=
  ∀ (n i pa : Nat) (s : State) (o : EngineOp) (r : Ray) (p : Pipe) (m : Mesh) (node : Node) (org dir : List Rat) (tmin tmax : Rat)
    (fl : Nat) (vs : List Vec3),
    s.op n = some o → o.block = none → s.ch.fillCache = false → (s.ctxAt o.ctx).holdsBay (o.home / 32) = true →
    let bvh := s.bvhMode o.ctx
    let bvhStep := exec (.bvhStep n i) s
    let stored := fun (t : State) (d : Handle) (st : Nat) => Claim.rayStored s t pa o r d st
    let moved := fun (o' : EngineOp) (r' : Ray) => bvhStep = .next { s.order with ops := Claim.swapped s (Claim.withRay o' r') }
    let left := r.d.withLeft (Claim.rayLeft r.d - 1)
    let sub := Claim.raySub r.d
    let first := node.leaf % 2 ^ 27
    let last := node.leaf / 2 ^ 27 % 2 ^ 4
    let box := meetsBox node (vecOf org) (vecOf dir) tmin tmax
    let word := fun (q : Rat) => if q = 0 then (0, (0 : Flags)) else f32.roundNum 0 0 q
    let parks := fun (kind prim : Nat) (w : Nat × Flags) => ∃ t, bvhStep = .next t ∧ s.stamp < t.stamp ∧
      let x := left.withStatus (2 + kind)
      (∀ a, Claim.byte t a = Claim.putRecord bvh pa x (Claim.byte s) a) ∧
      t.ops = Claim.swapped s { Claim.withRay o { r with status := BitVec.ofNat 4 (2 + kind), d := x, inLeaf := false, pushed := r.pushed + 1 } with
        hits := o.hits ++ [{ stage := Claim.bits r.d.d5 40 4, kind := kind, ray := r.addr, rayIdx := r.idx, prim := prim
                             t := BitVec.ofNat 32 w.1, n := r.pushed + 1 }]
        flags := o.flags ||| w.2 }
    (o.ray i = some r → r.status = 1 → r.decision = none → bvh = true → Claim.hitsWait o → s.checkPart o.agent .dest r.addr.toNat 64 = .ok (pa, s) →
      (s.castPipe o r.d 32 = none → ∃ t, bvhStep = .next t ∧ stored t (r.d.withCause 11) 9) ∧
      (s.castPipe o r.d 32 = some p → readMesh o r.d.d7.toNat s = .ok (m, s) →
        (r.inLeaf = false → Claim.rayCell r.d = 2 ^ 32 - 1 → ∃ t, bvhStep = .next t ∧ stored t r.d 5) ∧
        (r.inLeaf = false → Claim.rayCell r.d ≠ 2 ^ 32 - 1 → Claim.rayLeft r.d = 0 → ∃ t, bvhStep = .next t ∧ stored t r.d 7) ∧
        (readNode o m (Claim.rayCell r.d) s = .ok (node, s) → rayValues r.d = some (vecOf org, vecOf dir, tmin, tmax) →
          org.length = 3 → dir.length = 3 →
          (r.inLeaf = false → Claim.rayCell r.d ≠ 2 ^ 32 - 1 → Claim.rayLeft r.d ≠ 0 →
            (box = none → moved o { r with d := (left.withCell node.miss).withSub 0 }) ∧
            (box ≠ none → node.leaf.testBit 31 = false → moved o { r with d := left.withCell (Claim.rayCell r.d + 1) }) ∧
            (box ≠ none → node.leaf.testBit 31 = true → moved o { r with d := left, inLeaf := true })) ∧
          (r.inLeaf = true →
            (last < sub → moved o { r with d := (r.d.withCell node.miss).withSub 0, inLeaf := false }) ∧
            (sub ≤ last → readTriangle o m (first + sub) s = .ok ((fl, vs), s) →
              let hit := triangleHit (vs.getD 0 ⟨0, 0, 0⟩) (vs.getD 1 ⟨0, 0, 0⟩) (vs.getD 2 ⟨0, 0, 0⟩) (vecOf org) (vecOf dir)
              let past := fun (d : Handle) => if sub < last then d.withSub (sub + 1) else (d.withCell node.miss).withSub 0
              let passes := moved o { r with d := past left, inLeaf := decide (sub < last) }
              (fl.testBit 1 = true → ∀ tn tf, boxInterval node.lo node.hi (vecOf org) (vecOf dir) = some (tn, tf) →
                parks 2 (first + sub) (word (match tn with | some x => max x tmin | none => tmin))) ∧
              (fl.testBit 1 = false → hit = none → passes) ∧
              (fl.testBit 1 = false → ∀ t, hit = some t →
                (t < tmin ∨ tmax ≤ t → passes) ∧
                (tmin ≤ t → t < tmax → fl.testBit 0 = true → moved { o with flags := o.flags ||| (word t).2 }
                  { r with d := past ((left.withTmax (word t).1).withSeq (first + sub)), inLeaf := decide (sub < last) }) ∧
                (tmin ≤ t → t < tmax → fl.testBit 0 = false → parks 1 (first + sub) (word t)))))))) ∧
    -- the slab test and the triangle test
    (let l := fun (v : Vec3) => [v.x, v.y, v.z]
     org.length = 3 → dir.length = 3 → (box ≠ none ↔ Claim.inBox (l node.lo) (l node.hi) org dir tmin tmax) ∧
      ∀ tn tf t, boxInterval node.lo node.hi (vecOf org) (vecOf dir) = some (some tn, tf) → Claim.onLine (l node.lo) (l node.hi) org dir t →
        tn ≤ t ∧ Claim.onLine (l node.lo) (l node.hi) org dir tn) ∧
    (∀ a b c : Vec3, let nrm := (b.sub a).cross (c.sub a)
      (nrm.dot (vecOf dir) = 0 → triangleHit a b c (vecOf org) (vecOf dir) = none) ∧
      ∀ t, triangleHit a b c (vecOf org) (vecOf dir) = some t → ∃ u v w : Rat, 0 ≤ u ∧ 0 ≤ v ∧ 0 ≤ w ∧ u + v + w = 1 ∧
        Vec3.add (vecOf org) (Vec3.scale t (vecOf dir)) = Vec3.add (Vec3.scale u a) (Vec3.add (Vec3.scale v b) (Vec3.scale w c))) ∧
    -- hit records
    (∀ (st : Nat) (h : HitEntry) (rest : List HitEntry), s.pipeOf o.launch (o.home / 32) = some p → p.room st = true →
      (o.hits.filter fun x => x.stage == st) = h :: rest →
      let size := stageBytes p.desc st
      let most := if (s.ctxAt o.ctx).det then 1 else min 15 ((size - 16) / 16)
      let l := ((h :: rest).filter fun x => x.kind == h.kind).take most
      l ≠ [] → l.length = most ∨ (∀ x ∈ o.rays, x.status ≠ 1) ∨ ¬ Claim.hitsWait o →
      ∃ t, exec (.hitRecordPush n st) s = .next t ∧ t.mem = s.mem ∧
        Claim.pushed s t o p st (l.headD h).rayIdx (l.headD h).n (toBytes 4 (l.headD h).kind ++ toBytes 4 l.length ++ toBytes 8 0 ++
          l.flatMap fun x => toBytes 8 x.ray.toNat ++ toBytes 4 x.prim ++ toBytes 4 x.t.toNat) ∧
        Claim.castLeft s t { o with hits := o.hits.filter fun x => !l.contains x }) ∧
    -- decisions
    (∀ d : DWord, o.ray i = some r → r.decision = some d → Claim.hitsWait o → ((s.ops.filter fun o => o.kind == .rcast && o.home / 32 == (match s.op n with | some x => x.home | none => 0) / 32).map fun o =>
        o.rays.countP fun r => r.status == 1 && r.decision.isNone).sum < 64 →
      let act := fun (o' : EngineOp) (e : Handle) => 
        let on := fun (x : Handle) => exec (.rayResume n i) s = .next { s.order with ops := Claim.swapped s (Claim.withRay o' { r with
            d := x, decision := none, inLeaf := false }) }
        (Claim.bits d 0 2 ≠ 2 → sub < 15 → on ((e.withStatus 1).withSub (sub + 1))) ∧
        (Claim.bits d 0 2 ≠ 2 → sub = 15 → readMesh o r.d.d7.toNat s = .ok (m, s) → readNode o m (Claim.rayCell r.d) s = .ok (node, s) →
          on (((e.withStatus 1).withCell node.miss).withSub 0)) ∧
        (Claim.bits d 0 2 = 2 → s.checkPart o.agent .dest r.addr.toNat 64 = .ok (pa, s) → ∃ t, exec (.rayResume n i) s = .next t ∧
          Claim.rayStored s t pa o' { r with decision := none } (e.withSub (sub + 1)) 5)
      (Claim.bits d 0 2 = 0 → act o r.d) ∧
      (Claim.bits d 0 2 ≠ 0 → readMesh o r.d.d7.toNat s = .ok (m, s) → readNode o m (Claim.rayCell r.d) s = .ok (node, s) →
        rayValues r.d = some (vecOf org, vecOf dir, tmin, tmax) →
        (Claim.rayStatus r.d = 3 → readTriangle o m (first + sub) s = .ok ((fl, vs), s) →
          let hit := triangleHit (vs.getD 0 ⟨0, 0, 0⟩) (vs.getD 1 ⟨0, 0, 0⟩) (vs.getD 2 ⟨0, 0, 0⟩) (vecOf org) (vecOf dir)
          (hit = none → act o r.d) ∧
          ∀ t, hit = some t → act { o with flags := o.flags ||| (word t).2 } ((r.d.withTmax (word t).1).withSeq (first + sub))) ∧
        (Claim.rayStatus r.d = 4 → ∀ (neg : Bool) (q : Rat), f32.value (Claim.bits d 32 32) = .num neg q → tmin ≤ q → q < tmax →
          act o ((r.d.withTmax (Claim.bits d 32 32)).withSeq (first + sub))) ∧
        (Claim.rayStatus r.d = 4 → (∀ (neg : Bool) (q : Rat), f32.value (Claim.bits d 32 32) = .num neg q → q < tmin ∨ tmax ≤ q) →
          act o r.d)))

/-- How nodes and triangles lie in memory (R341, R349), and when a triangle and a line meet (R350): bytes of a node's box, MISS and LEAF, and of a triangle's vertices and
flags; an index beyond its array, and a reserved byte that is not zero, are faults; a value that is no number is degenerate; a point of the line within a triangle that it is
not parallel to is its hit. -/
def Claim.HierarchyLayout : Prop :=
  ∀ (o : EngineOp) (m : Mesh) (s : State) (k : Nat) (bs : List Byte) (d : Handle) (v : Nat → Rat),
    let w := Claim.wordIn bs
    let number := fun (n : Nat) => ∀ j < n, Claim.wordNumber (w j) = some (v j)
    let fault := (MeshStop.fault cause.engine, s)
    let fl := (bs.getD 36 0).toNat
    (m.ncell ≤ k → readNode o m k s = .error fault) ∧
    (k < m.ncell → Claim.marcherReads o s (m.cells + 32 * k) 32 bs →
      ((∃ j < 6, Claim.wordNumber (w j) = none) → readNode o m k s = .error (.degenerate, s)) ∧
      (number 6 → readNode o m k s = .ok ({ lo := ⟨v 0, v 1, v 2⟩, hi := ⟨v 3, v 4, v 5⟩, miss := w 6, leaf := w 7 }, s))) ∧
    (m.nprim ≤ k → readTriangle o m k s = .error fault) ∧
    (k < m.nprim → Claim.marcherReads o s (m.verts + 48 * k) 48 bs →
      ((∃ j, 37 ≤ j ∧ j < 48 ∧ bs.getD j 0 ≠ 0) → readTriangle o m k s = .error fault) ∧
      ((∀ j, 37 ≤ j → j < 48 → bs.getD j 0 = 0) →
        (fl / 2 % 2 = 1 → readTriangle o m k s = .ok ((fl, []), s)) ∧
        (fl / 2 % 2 = 0 → (∃ j < 9, Claim.wordNumber (w j) = none) → readTriangle o m k s = .error (.degenerate, s)) ∧
        (fl / 2 % 2 = 0 → number 9 →
          readTriangle o m k s = .ok ((fl, [⟨v 0, v 1, v 2⟩, ⟨v 3, v 4, v 5⟩, ⟨v 6, v 7, v 8⟩]), s)))) ∧
    (let words := [Claim.bits d.d0 0 32, Claim.bits d.d0 32 32, Claim.bits d.d1 0 32, Claim.bits d.d2 0 32, Claim.bits d.d2 32 32, Claim.bits d.d3 0 32,
       Claim.bits d.d1 32 32, Claim.bits d.d3 32 32]
     ((∃ x ∈ words, Claim.wordNumber x = none) → rayValues d = none) ∧
     ((∀ j < 8, Claim.wordNumber (words.getD j 0) = some (v j)) → rayValues d = some (⟨v 0, v 1, v 2⟩, ⟨v 3, v 4, v 5⟩, v 6, v 7))) ∧
    ∀ (a b c org dir : Vec3) (t x y z : Rat), ((b.sub a).cross (c.sub a)).dot dir ≠ 0 → 0 ≤ x → 0 ≤ y → 0 ≤ z → x + y + z = 1 →
      org.add (Vec3.scale t dir) = (Vec3.scale x a).add ((Vec3.scale y b).add (Vec3.scale z c)) → triangleHit a b c org dir = some t

/-- The traversal of rays, and the hierarchies that it reads (R341, R343, R349, R350, R351, R354, R355). Where it rests on the model's own reading:
assumptions 52, 53, 104, 105 of the log. -/
def Obligations.RayTraversal : Prop :=
  Claim.RayTraversalSteps ∧ Claim.HierarchyLayout

/-- A walk over cells that can be read (R360): its status, the cell where one is found, and how many cells it leaves; from a cell on, with its entry
face and the steps taken so far, at most a number of steps more. -/
def Claim.walked (cells : Nat → Cell) (nbrs : Nat → List Nat) (target org dir : Vec3) : Nat → Nat → Nat → Nat → Nat × Option Nat × Nat
  | fuel, c, entry, steps =>
    let cell := cells c
    let along := fun (e : Nat) => (cell.planes.getD e ⟨0, ⟨0, 0, 0⟩⟩).n.dot dir
    let param := fun (e : Nat) => -((cell.planes.getD e ⟨0, ⟨0, 0, 0⟩⟩).at org) / along e
    let cands := (List.range cell.planes.length).filter fun e => e != entry && decide (0 < along e)
    if cell.degenerate then (8, none, steps)
    else if ∀ f ∈ cell.planes, f.at target ≤ 0 then (5, some c, steps)
    else match fuel with
      | 0 => (7, none, steps)
      | fuel + 1 => match cands.find? fun e => cands.all fun f => decide (param e ≤ param f) with
        | none => (8, none, steps)
        | some e =>
          let next := cell.nbrs.getD e (2 ^ 32 - 1)
          if next = 2 ^ 32 - 1 then (6, some (2 ^ 32 - 1), steps + 1)
          else Claim.walked cells nbrs target org dir fuel next (((nbrs next).findIdx? fun n => n == c).getD 15) (steps + 1)

/-- WALK_QUERY (R338, R359, R360): a refused walk ends in fault; the next query is located along the exact line from the centroid of its start cell to its point, within
MAXSTEP steps, from START on and with no face excluded there, and FOUND, STEPS, STATUS and CAUSE are written at one step; the operation is done with its last query; a query whose cells can be
read completes so. What FOUND reads where no cell is found
is the model's free value (assumption log). Where it rests on the model's own reading: assumptions 9, 55, 121 of the log. -/
def Obligations.WalkQueries : Prop :=
  ∀ (n q pa k left entry : Nat) (s : State) (o : EngineOp) (m : Mesh) (cell : Cell) (bs : List Byte) (w : WalkEnd) (target org dir : Vec3)
    (ph : Nat → Nat),
    s.op n = some o → o.kind = .walk → o.phase = .queued ∨ o.phase = .running → o.progress = q → s.ch.fillCache = false →
    (s.ctxAt o.ctx).holdsBay (o.home / 32) = true →
    let word := fun k => o.words.getD k 0
    let count := Claim.bits (word 2) 0 32
    let bad := word 3 ≠ 0 ∨ word 4 ≠ 0 ∨ word 5 ≠ 0 ∨ 2 ^ 20 < count ∨ (word 1).toNat % 32 ≠ 0 ∨ s.bvhMode o.ctx = true
    let loaded := (s.ctxAt o.ctx).marchsel.toNat ∈ s.loadedModes
    let a := (word 1 + BitVec.ofNat 64 (32 * q)).toNat
    let ends := fun (t : State) (st : BitVec 4) (c : Cause) (mem : Nat → Byte) => Claim.informs s t o st c 0 ∧
      t.ops = s.ops.filter (fun p => p.id != o.id) ∧
      ∀ x, Claim.byte t x = Claim.blockWritten ph o (Claim.statusOf t.stamp c st) (some 0) mem x
    let reaches := fun (l : List Put) => Claim.blockWritable s ph { o with shadow := l } 16
    let walk := fun (fuel c steps : Nat) => walkGo o m target org dir fuel c entry steps s
    (bad ∨ ¬ loaded → reaches [] → ∃ t, exec (.walkQuery n q) s = .next t ∧ ends t 4 cause.engine (Claim.byte s)) ∧
    (¬ bad → loaded → count ≤ q → reaches [] → ∃ t, exec (.walkQuery n q) s = .next t ∧ ends t 3 0 (Claim.byte s)) ∧
    (¬ bad → loaded → q < count → s.read o.agent .source 4 a 32 = .ok (bs, s) →
      let p := (List.range 3).map fun j => ofBytes ((bs.drop (4 * j)).take 4)
      s.checkPart o.agent .dest (a + 16) 10 = .ok (pa, s) → reaches (fullPuts 0 pa (List.replicate 10 0)) →
      let start := ofBytes ((bs.drop 12).take 4)
      let writes := fun (w : WalkEnd) => ∃ (t : State) (found : Nat), exec (.walkQuery n q) s = .next t ∧ (∀ c, w.cell = some c → found = c) ∧
        let bytes := toBytes 4 found ++ toBytes 4 w.steps ++ [BitVec.ofNat 8 w.status, w.cause]
        (q + 1 < count → (∀ x, Claim.byte t x = Claim.put (Claim.byte s) pa bytes x) ∧
          t.ops = Claim.swapped s { o with phase := .running, progress := q + 1 }) ∧
        (q + 1 = count → ends t 3 0 (Claim.put (Claim.byte s) pa bytes))
      (walkRun o p start s = .ok (w, s) → writes w) ∧
      (∀ (cells : Nat → Cell) (nbrs : Nat → List Nat) (u : List Rat), readMesh o (word 0).toNat s = .ok (m, s) → start < m.ncell →
        (∀ c < m.ncell, readCell o m false c s = .ok (cells c, s) ∧ readNeighbours o m c s = .ok (nbrs c, s)) →
        readCell o m true start s = .ok (cell, s) → cell.degenerate = false → u.length = 3 → (∀ j < 3, Claim.wordNumber (p.getD j 0) = u[j]?) →
        let r := Claim.walked cells nbrs (vecOf u) cell.centroid ((vecOf u).sub cell.centroid) (Claim.bits (word 2) 32 32) start 15 0
        writes { status := r.1, cell := r.2.1, steps := r.2.2 })) ∧
    -- where a walk starts
    (∀ (p : List Nat) (start : Nat) (u : List Rat) (c : Cause), p.length = 3 → readMesh o (word 0).toNat s = .ok (m, s) →
      let run := walkRun o p start s
      ((∃ j < 3, Claim.wordNumber (p.getD j 0) = none) → run = .ok ({ status := 8, cell := none, steps := 0 }, s)) ∧
      (u.length = 3 → (∀ j < 3, Claim.wordNumber (p.getD j 0) = u[j]?) →
        (readCell o m true start s = .error (.fault c, s) → run = .ok ({ status := 9, cell := none, steps := 0, cause := c }, s)) ∧
        (readCell o m true start s = .ok (cell, s) →
          (cell.degenerate = true → run = .ok ({ status := 8, cell := none, steps := 0 }, s)) ∧
          (cell.degenerate = false → run =
            walkGo o m (vecOf u) cell.centroid ((vecOf u).sub cell.centroid) (Claim.bits (word 2) 32 32) start 15 0 s)))) ∧
    -- the line of a walk at cell k
    (readCell o m false k s = .ok (cell, s) →
      let inside := ∀ f ∈ cell.planes, f.at target ≤ 0
      let candidate := fun (e : Nat) => e < cell.planes.length ∧ e ≠ entry ∧ 0 < (cell.planes.getD e ⟨0, ⟨0, 0, 0⟩⟩).n.dot dir
      let param := fun (e : Nat) => -((cell.planes.getD e ⟨0, ⟨0, 0, 0⟩⟩).at org) / (cell.planes.getD e ⟨0, ⟨0, 0, 0⟩⟩).n.dot dir
      (cell.degenerate = true → walk left k q = .ok ({ status := 8, cell := none, steps := q }, s)) ∧
      (cell.degenerate = false →
      (inside → walk left k q = .ok ({ status := 5, cell := some k, steps := q }, s)) ∧
      (¬ inside → left = 0 → walk left k q = .ok ({ status := 7, cell := none, steps := q }, s)) ∧
      (¬ inside → left ≠ 0 → (∀ e, ¬ candidate e) → walk left k q = .ok ({ status := 8, cell := none, steps := q }, s)) ∧
      (∀ e, ¬ inside → left ≠ 0 → candidate e → (∀ f, candidate f → param e ≤ param f ∧ (f < e → param e < param f)) →
        let next := cell.nbrs.getD e (2 ^ 32 - 1)
        (next = 2 ^ 32 - 1 → walk left k q = .ok ({ status := 6, cell := some (2 ^ 32 - 1), steps := q + 1 }, s)) ∧
        (∀ l, next ≠ 2 ^ 32 - 1 → readNeighbours o m next s = .ok (l, s) → ∃ f, (∀ j < f, l[j]? ≠ some k) ∧
          (f < l.length ∧ l[f]? = some k ∨ f = 15 ∧ ∀ j : Nat, l[j]? ≠ some k) ∧
          walk left k q = walkGo o m target org dir (left - 1) next f (q + 1) s))))


/-! ### Pipelines: EMIT, TAKE and the bay stage scheduler -/

/-- Doubleword k of the entry of a stage (R312). -/
def Claim.stageWord (d : List DWord) (st k : Nat) : DWord := d.getD (8 + 4 * st + k) 0
/-- SUCC of a stage names another. -/
def Claim.succ (d : List DWord) (st j : Nat) : Prop := j < 16 ∧ (Claim.stageWord d st 1).getLsbD j = true
/-- The record size of a stage in bytes. -/
def Claim.recordBytes (d : List DWord) (st : Nat) : Nat := 16 * (Claim.bits (Claim.stageWord d st 1) 16 4 + 1)
/-- PRIO of a stage. -/
def Claim.prio (d : List DWord) (st : Nat) : Nat := Claim.bits (Claim.stageWord d st 1) 20 3
/-- CAP of a stage. -/
def Claim.cap (d : List DWord) (st : Nat) : Nat := Claim.bits (Claim.stageWord d st 1) 32 16
/-- The quarters of a stage's threads. -/
def Claim.width (d : List DWord) (st : Nat) : Nat := Claim.bits (Claim.stageWord d st 1) 48 2 + 1
/-- The quarters of a shared slot at launch. -/
def Claim.sharedWidth (d : List DWord) : Nat := Claim.bits (d.getD 1 0) 14 2 + 1
/-- NSM1, the number of the last stage. -/
def Claim.lastStage (d : List DWord) : Nat := Claim.bits (d.getD 1 0) 0 4

/-- A live thread of a pipeline in its bay (R316). -/
def Claim.belongs (t : Thread) (p : Pipe) : Bool :=
  decide (t.live = true ∧ t.pipe.map (fun b => (b.launch, b.bay)) = some (p.launch, p.bay))

/-- Another thread of the pipeline waits in a plain EMIT to a stage (R321). -/
def Claim.emitter (s : State) (p : Pipe) (st : Nat) (e : Nat × Thread) (w : WaitRec) : Prop :=
  e ∈ s.allThreads ∧ e.1 ≠ s.pos ∧ Claim.belongs e.2 p = true ∧ e.2.wait = some w ∧ w.kind = .emit ∧ w.arg.toNat = st

/-- The pipelines of a state with the records of one stage of one of them replaced, which leaves q in its place. -/
def Claim.restocked (s t : State) (p q : Pipe) (st : Nat) (l : List StageRecord) : Prop :=
  t.pipeOf p.launch p.bay = some q ∧ q = { p with queues := q.queues, passed := q.passed, moves := q.moves } ∧
    (∀ j, q.queue j = if j = st then l else p.queue j) ∧
    ∀ n b, (n ≠ p.launch ∨ b ≠ p.bay) → t.pipeOf n b = s.pipeOf n b

/-- The push step (R321, R427, R431): the record stands last in its queue under its key, held back where its task is one of a deterministic
context; the child is counted and the word completes. -/
def Claim.emitted (s t : State) (p : Pipe) (st : Nat) (bs : List Byte) : Prop :=
  ∃ (v : State) (q : Pipe) (node : Nat) (key : DWord), Claim.childTaken s.orderThread v node key ∧
    Claim.restocked s t p q st (p.queue st ++ [{ bytes := bs, key := key, node := node, takeable := !s.inTask, byPos := s.pos }]) ∧
    q.passed = p.passed ∧ q.moves = p.moves + 1 ∧
    t = { v.advance with pipes := t.pipes, t := { v.advance.t with c := t.t.c } }

/-- EMIT, EMIT.try and EMIT_UNBLOCK (R320, R321, R329): a thread without a record, a stage that is no successor, and a misaligned or unreadable record
trap and push nothing; with room and no earlier waiter the record is pushed at one step; else EMIT.try clears its condition
bit, and EMIT waits and pushes at an EMIT_UNBLOCK that finds room and no earlier waiter.
Where it rests on the model's own reading: assumption 49 of the log. -/
def Obligations.EmitWords : Prop :=
  ∀ (cd : CReg) (rs2 rs1 : Reg) (s u : State) (h : HeldRecord) (p : Pipe) (bs : List Byte) (c : Cause) (v : DWord) (pos : Nat) (w : WaitRec),
    let a := s.t.readX rs1
    let st := (s.t.readX rs2).toNat
    let both := fun (o : Out) => ∀ i ∈ [Instr.emit rs2 rs1, .emitTry cd rs2 rs1], exec i s = o
    let goes := fun (s : State) (since : Option Nat) => (p.queue st).length < Claim.cap p.desc st ∧
      ∀ e x, Claim.emitter s p st e x → ∃ n, since = some n ∧ n ≤ x.since
    let entitled := s.t.held = some h ∧ s.myPipe = some p ∧ st ≤ Claim.lastStage p.desc ∧ Claim.succ p.desc h.stage st
    (s.t.held = none → both (Claim.traps s cause.pipeline 1)) ∧
    (s.t.held = some h → s.myPipe = some p → (Claim.lastStage p.desc < st ∨ ¬ Claim.succ p.desc h.stage st) →
      both (Claim.traps s cause.pipeline 2)) ∧
    (entitled → a.toNat % 16 ≠ 0 → both (Claim.traps s cause.misaligned a)) ∧
    (entitled → a.toNat % 16 = 0 → s.read s.agent .load 1 a.toNat (Claim.recordBytes p.desc st) = .error (.trap c v, u) →
      both (Claim.traps u c v)) ∧
    (entitled → a.toNat % 16 = 0 → s.read s.agent .load 1 a.toNat (Claim.recordBytes p.desc st) = .ok (bs, s) →
      (goes s none →
        (∃ t, exec (.emit rs2 rs1) s = .next t ∧ Claim.emitted s t p st bs ∧ t.t.c = s.t.c) ∧
        (∃ t, exec (.emitTry cd rs2 rs1) s = .next t ∧ Claim.emitted s t p st bs ∧ t.t.c = (s.setC cd true).t.c)) ∧
      (¬ goes s none →
        exec (.emitTry cd rs2 rs1) s = .next (s.setC cd false).advance ∧
        ∃ x : WaitRec, x.kind = .emit ∧ x.addr = a ∧ x.arg.toNat = st ∧ x.since = s.tick ∧
          exec (.emit rs2 rs1) s = .next { s with tick := s.tick + 1, t := { s.t with wait := some x } })) ∧
    (pos < slotCount → w.kind = .emit → w.arg.toNat = st →
      let y := s.focus pos
      Claim.waiting y w → y.myPipe = some p →
      (goes y (some w.since) → y.read y.agent .load 1 w.addr.toNat (Claim.recordBytes p.desc st) = .ok (bs, y) →
        ∃ t, exec (.emitUnblock pos) s = .next (t.focus s.pos) ∧ Claim.emitted y t p st bs ∧ t.t.c = y.t.c) ∧
      (¬ goes y (some w.since) → exec (.emitUnblock pos) s = .next (y.focus s.pos)))

/-- The stages that a slot may ever serve (R324). -/
def Claim.serves (s : State) (p : Pipe) (t : Thread) (st : Nat) : Bool :=
  match t.pipe with
  | some { stage := some x, .. } => x == st
  | _ => !s.ctx.det || Claim.width p.desc st == Claim.sharedWidth p.desc

/-- The slot is one of a stage's reserved slots (R316). -/
def Claim.isReserved (t : Thread) : Bool := match t.pipe with | some { stage := some _, .. } => true | _ => false

/-- When a slot parked in TAKE. -/
def Claim.parkedAt (t : Thread) : Option Nat := match t.wait with | some w => if w.kind = .take then some w.since else none | none => none

/-- The stage that a slot's decision has given it, while it waits for its vector side (R322). -/
def Claim.given (t : Thread) : Option Nat :=
  match t.wait with | some w => if w.kind = .take then w.words.head?.map fun d => d.toNat else none | none => none

/-- A parked slot has a decision to come: its bay has seen a push or a release since its last one (R324). -/
def Claim.due (t : Thread) (p : Pipe) : Bool := match t.wait with | some w => w.kind == .take && w.arg.toNat != p.moves | none => false

/-- The quarters of a slot's core that no other thread has. -/
def Claim.freeQuarters (s : State) (pos : Nat) : List Nat :=
  (List.range 4).filter fun q => s.allThreads.all fun e => !e.2.live || e.1 == pos || e.1 / 4 != pos / 4 || !e.2.quarters.getLsbD q

/-- A slot may serve a stage now (R324): a reserved slot its own; a shared one of a deterministic context those of its width, and
another those whose width its core can give it. -/
def Claim.fits (s : State) (p : Pipe) (st : Nat) (e : Nat × Thread) : Bool :=
  match e.2.pipe with
  | some { stage := some x, .. } => x == st
  | _ => if s.ctx.det then Claim.width p.desc st == Claim.sharedWidth p.desc
    else decide (Claim.width p.desc st ≤ (Claim.freeQuarters s e.1).length)

/-- The order of the parked slots (R326): those whose decision has given them a stage, then the reserved slots, then the shared ones, each in
the order in which they parked; a slot that has not parked is last. -/
def Claim.earlier (a b : Nat × Thread) : Prop :=
  let rank := fun (t : Thread) => if (Claim.given t).isSome then 0 else if (Claim.parkedAt t).isNone then 3 else if Claim.isReserved t then 1 else 2
  let since := fun (t : Thread) => (Claim.parkedAt t).getD 0
  rank a.2 < rank b.2 ∨ rank a.2 = rank b.2 ∧ (since a.2 < since b.2 ∨ since a.2 = since b.2 ∧ a.1 < b.1)

/-- The other slots of the pipeline that have their record before the slot in focus, in order (R324, R326). -/
def Claim.line (s : State) (p : Pipe) (l : List (Nat × Thread)) : Prop :=
  l.Pairwise (fun a b => Claim.earlier a b) ∧ ∀ e, e ∈ l ↔ e ∈ s.allThreads ∧ e.1 ≠ s.pos ∧ Claim.belongs e.2 p = true ∧
    ((Claim.given e.2).isSome = true ∨ Claim.due e.2 p = true) ∧ Claim.earlier e (s.pos, s.t)

/-- The rule by which the scheduler chooses among the stages that a slot could have a record of (R325). -/
def Claim.chosenOf (s : State) (p : Pipe) (can : Nat → Prop) (c : Nat) : Prop :=
  let blocked := ∃ e ∈ s.allThreads, Claim.belongs e.2 p = true ∧ ∃ w, e.2.wait = some w ∧ w.kind = .emit
  let aged := fun st => can st ∧ 4096 ≤ p.passes st
  let n := fun st => (p.queue st).length
  let d := p.desc
  can c ∧
  (blocked → ∀ x, can x → x ≤ c) ∧
  (¬ blocked → (∃ x, aged x) → aged c ∧ ∀ x, aged x → c ≤ x) ∧
  (¬ blocked → (¬ ∃ x, aged x) → ∀ x, can x →
    Claim.prio d x < Claim.prio d c ∨ Claim.prio d x = Claim.prio d c ∧
      (n x * Claim.cap d c < n c * Claim.cap d x ∨ n x * Claim.cap d c = n c * Claim.cap d x ∧ x ≤ c))

/-- The pipeline as a choice of stage c leaves it, but for its queues: the stages that could have been chosen are passed over (R325). -/
def Claim.passedBy (p : Pipe) (can : Nat → Prop) (c : Nat) (q : Pipe) : Prop :=
  q.passes c = 0 ∧ ∀ j, j ≠ c → (can j → q.passes j = p.passes j + 1) ∧ (¬ can j → q.passes j = p.passes j)

/-- The queues of a pipeline without the first record of a stage that may be taken (R322, R431). -/
def Claim.firstGone (p q : Pipe) (st : Nat) : Prop :=
  q = { p with queues := q.queues, passed := q.passed } ∧ (∀ j, j ≠ st → q.queue j = p.queue j) ∧
  ((∀ r ∈ p.queue st, r.takeable = false) → q.queue st = p.queue st) ∧
  ∀ l r m, p.queue st = l ++ r :: m → (∀ x ∈ l, x.takeable = false) → r.takeable = true → q.queue st = l ++ m

/-- The pipeline behind the decisions of some slots, one after the other (R324 to R326): each takes at most one record, of the stage that it has been given, or
of the one that R325 would give it. -/
def Claim.behind (s : State) : List (Nat × Thread) → Pipe → Pipe → Prop
  | [], p, q => q = p
  | e :: l, p, q =>
    let can := fun st => st ≤ Claim.lastStage p.desc ∧ Claim.fits s p st e = true ∧ ∃ r ∈ p.queue st, r.takeable = true
    ∃ m, Claim.behind s l m q ∧
      ((∃ st, Claim.given e.2 = some st ∧ Claim.firstGone p m st ∧ ∀ j, m.passes j = p.passes j) ∨
        (Claim.given e.2 = none ∧ (∀ st, ¬ can st) ∧ m = p) ∨
        ∃ st, Claim.given e.2 = none ∧ Claim.chosenOf s p can st ∧ Claim.firstGone p m st ∧ Claim.passedBy p can st m)

/-- The candidates of a decision (R324, R326): a stage that the slot may serve now, and that still has a record which may be taken
when every slot before it has had its own. -/
def Claim.candidate (s : State) (p : Pipe) (st : Nat) : Prop :=
  st ≤ Claim.lastStage p.desc ∧ Claim.fits s p st (s.pos, s.t) = true ∧
    ∃ l q, Claim.line s p l ∧ Claim.behind s l p q ∧ ∃ r ∈ q.queue st, r.takeable = true

/-- The rule by which the scheduler chooses (R325). -/
def Claim.chosen (s : State) (p : Pipe) (c : Nat) : Prop := Claim.chosenOf s p (Claim.candidate s p) c

/-- The pipeline as a decision for stage c leaves it, but for its queues (R325). -/
def Claim.passedOver (s : State) (p : Pipe) (c : Nat) (q : Pipe) : Prop := Claim.passedBy p (Claim.candidate s p) c q

/-- The take step of stage c (R322, R327, R469): where the stage changes the partition it waits, with the stage kept, until the vector side is
done, of which a handler's word does not count the held entries; then it takes the first record that may be taken, at one step. -/
def Claim.takesStage (s : State) (p : Pipe) (w : WaitRec) (ph : Nat → Nat) (c : Nat) (counts : Pipe → Prop) (ends : State → Prop) : Prop :=
  let b := w.addr.toNat
  let changes := s.ctx.det = false ∧ Claim.width p.desc c ≠ popCount s.t.quarters
  let empty := (s.t.inTrap = true ∨ s.t.queue = []) ∧ s.t.posted = []
  (changes → ¬ empty → ∃ t q, ends t ∧ Claim.restocked s t p q c (p.queue c) ∧ q.moves = p.moves ∧ counts q ∧
    t = { s with pipes := t.pipes, t := { s.t with wait := some { w with words := [BitVec.ofNat 64 c] } } }) ∧
  (∀ l r m, p.queue c = l ++ r :: m → (∀ x ∈ l, x.takeable = false) → r.takeable = true → r.check = 0 →
    (changes → empty) → (∀ e ∈ lineParts b r.bytes.length, s.checkPart s.agent .store e.1 e.2 = .ok (ph e.1, s)) → ∃ t, ends t ∧
      (∀ a, Claim.byte t a = Claim.putRange ph (Claim.byte s) b r.bytes a) ∧
      (∃ q, Claim.restocked s t p q c (l ++ m) ∧ q.moves = p.moves ∧ counts q) ∧
      t.t.stageid = BitVec.ofNat 16 c ∧ t.t.taskix = r.key ∧ t.t.held = some { stage := c, node := r.node } ∧ t.t.node = r.node ∧
      t.t.children = 0 ∧ t.t.digest = 0 ∧ t.t.c = (s.setC w.cd true).t.c ∧ t.t.wait = none ∧ s.stamp < t.stamp ∧
      t.t.pc = (s.complete (Claim.stageWord p.desc c 0)).t.pc ∧ t.t.x = s.t.x ∧ t.t.f = s.t.f ∧ t.t.level = s.t.level ∧
      (¬ changes → t.t.quarters = s.t.quarters ∧ t.t.v = s.t.v ∧ t.t.p = s.t.p ∧ t.t.vtype = s.t.vtype ∧ t.t.vl = s.t.vl) ∧
      (changes → (Claim.isReserved s.t = false → popCount t.t.quarters = Claim.width p.desc c) ∧
        (∀ q < 4, t.t.quarters.getLsbD q = true → q ∈ Claim.freeQuarters s s.pos) ∧
        t.t.v = Vector.replicate 32 [] ∧ t.t.p = Vector.replicate 16 [] ∧ t.t.tags = Vector.replicate 32 0x7FF ∧
        t.t.vl = 0 ∧ t.t.vtype = 0x80000000))

/-- The outcomes of a decision of the slot in focus for a TAKE's record (R322, R324 to R327): `ends t` says that the word leaves t. -/
def Claim.decides (s : State) (p : Pipe) (w : WaitRec) (ph : Nat → Nat) (ends : State → Prop) : Prop :=
  let none_ := ∀ st, ¬ Claim.candidate s p st
  let shut := ∀ st, (Claim.isReserved s.t = true ∨ st ≤ Claim.lastStage p.desc) → Claim.serves s p s.t st = true → s.closed p st = true
  (none_ → shut → ends (s.setC w.cd false).advance) ∧
  (none_ → ¬ shut → ends { s with t := { s.t with wait := some { w with words := [], arg := BitVec.ofNat 64 p.moves } } }) ∧
  (∀ c, Claim.chosen s p c → Claim.takesStage s p w ph c (Claim.passedOver s p c) ends)

/-- The release step of a TAKE (R318, R322): the thread holds no record, its task's digest is final, and the task's segment is
gone; the slots parked in the bay decide anew (R324). -/
def Claim.released (s : State) : State :=
  match s.t.held with
  | none => { s with tick := s.tick + 1 }
  | some h =>
    { s with
      tick := s.tick + 1, t := { s.t with held := none }
      pipes := s.pipes.map fun p =>
        if s.t.pipe.map (fun b => (b.launch, b.bay)) = some (p.launch, p.bay) then { p with moves := p.moves + 1 } else p
      segs := s.segs.filter fun e => e.1 != s.pos
      ctx := { s.ctx with nodes := s.ctx.nodes.map fun n => if n.id = h.node then { n with digest := s.t.digest } else n } }

/-- TAKE and SCHEDULER_DECISION (R318, R322, R324 to R327): a misaligned buffer, or one that 256 bytes cannot be stored to, traps and releases nothing.
Otherwise the record is released and the scheduler decides, and decides again for a parked slot once a push or a release has occurred in its bay: it ends the
loop where every stage that the slot may ever serve is closed; it parks the slot; or it chooses a stage, which the slot keeps until its record is taken, or
until another slot has taken the last. A record that does not pass its check stays, and is data-integrity (R449), with TRAPVAL 0 by the model's choice (assumption 99). The records of the threads
stand in rising order, as every step keeps them (EveryStepKeepsTheStateOrderly). -/
def Claim.TakeWords : Prop :=
  ∀ (rs1 : Reg) (cd : CReg) (s u : State) (p : Pipe) (ph : Nat → Nat) (c : Cause) (v : DWord) (pos : Nat) (w : WaitRec),
    (s.threads.map fun e => e.1).Pairwise (· < ·) →
    let b := s.t.readX rs1
    let take := Instr.take rs1 cd
    let park : WaitRec := { kind := .take, addr := b, cd := cd, since := s.tick }
    (Claim.noSegment s → b.toNat % 16 ≠ 0 → exec take s = Claim.traps s cause.misaligned b) ∧
    (Claim.noSegment s → b.toNat % 16 = 0 → s.checkStore s.agent b.toNat 256 = .error (.trap c v, u) → exec take s = Claim.traps u c v) ∧
    (Claim.noSegment s → b.toNat % 16 = 0 → s.checkStore s.agent b.toNat 256 = .ok s → s.myPipe = none →
      exec take s = .next ((Claim.released s).setC cd false).advance) ∧
    (Claim.noSegment s → b.toNat % 16 = 0 → s.checkStore s.agent b.toNat 256 = .ok s → (Claim.released s).myPipe = some p →
      Claim.decides (Claim.released s) p park ph fun t => exec take s = .next t) ∧
    (pos < slotCount → w.kind = .take →
      let y := s.focus pos
      Claim.waiting y w → Claim.noSegment y → y.myPipe = some p →
      let ends := fun (t : State) => exec (.schedulerDecision pos) s = .next (t.focus s.pos)
      (w.words = [] → w.arg.toNat = p.moves → ends y) ∧
      (w.words = [] → w.arg.toNat ≠ p.moves → Claim.decides y p w ph ends) ∧
      (∀ d l, w.words = d :: l → let changes := y.ctx.det = false ∧ Claim.width p.desc d.toNat ≠ popCount y.t.quarters
        Claim.takesStage y p w ph d.toNat (fun q => q.passed = p.passed) ends ∧
        ((∀ r ∈ p.queue d.toNat, r.takeable = false) → (changes → (y.t.inTrap = true ∨ y.t.queue = []) ∧ y.t.posted = []) →
          ends { y with t := { y.t with wait := some { w with words := [], arg := BitVec.ofNat 64 (p.moves + 1) } } }))) ∧
    (∀ n l r m, Claim.noSegment s → b.toNat % 16 = 0 → s.checkStore s.agent b.toNat 256 = .ok s → (Claim.released s).myPipe = some p →
      Claim.chosen (Claim.released s) p n → Claim.width p.desc n = popCount s.t.quarters →
      p.queue n = l ++ r :: m → (∀ x ∈ l, x.takeable = false) → r.takeable = true → r.check ≠ 0 →
      ∃ (t : State) (q : Pipe), exec take s = Claim.traps t cause.integrity 0 ∧ t.mem = s.mem ∧ t.pipeOf p.launch p.bay = some q ∧
        (q.queue n).map (fun x => x.bytes) = (p.queue n).map (fun x => x.bytes) ∧ (r.quarantined = false → s.stamp < t.stamp))

/-- A stage is closed exactly when every predecessor is, its queue is empty, no thread of the bay, live or switched out, holds one of its records, and no
RCAST of the bay may push to it (R319, R323). -/
def Claim.ClosedStages : Prop :=
  ∀ (s : State) (p : Pipe) (st : Nat),
    s.closed p st = true ↔
      (∀ k < st, Claim.succ p.desc k st → s.closed p k = true) ∧ p.queue st = [] ∧
      (∀ e, e ∈ s.allThreads ∨ e ∈ (s.ctxAt p.ctx).images → Claim.belongs e.2 p = true → ∀ h, e.2.held = some h → h.stage ≠ st) ∧
      ∀ o ∈ s.ops, o.kind = .rcast → o.launch = p.launch → o.home / 32 = p.bay →
        (∀ r ∈ o.rays, Claim.bits r.d.d5 40 4 ≠ st) ∧ (o.phase = .queued → ∀ g, o.stage = some g → ¬ Claim.succ p.desc g st)

/-- TAKE, the scheduler's decisions and stages whose work is closed.
Where it rests on the model's own reading: assumptions 48, 49, 51, 99 of the log. -/
def Obligations.TakeWordsAndClosedStages : Prop :=
  Claim.TakeWords ∧ Claim.ClosedStages


/-! ### The launch sequencer -/

/-- An engine operation is replaced and nothing else changes. -/
def Claim.becomes (s : State) (o : EngineOp) : Out := .next { s with ops := Claim.swapped s o }

/-- An engine operation has met a cause: it goes on to its final step, with nothing of its destination written (R277). -/
def Claim.fails (s : State) (o : EngineOp) (c : Cause) (a : DWord) : Out :=
  Claim.becomes s { o with cause := c, result := a, shadow := [], buf := [], phase := .published }

/-- A message leaves the package with its header, whose STAMP is the logical time of the send step (R266, R402, R403). -/
def Claim.sent (s t : State) (ctx queue cls op : Nat) (body : Outgoing) : Prop :=
  ∃ h : DerporHeader, t.out = s.out ++ [.derpor h body] ∧ h.stamp = t.stamp ∧ h.src = BitVec.ofNat 16 (s.ctxAt ctx).pkgid ∧ h.ctx = ctx ∧
    h.queue = BitVec.ofNat 4 queue ∧ h.reserved = 0 ∧ h.op = BitVec.ofNat 4 op ∧ h.cls = BitVec.ofNat 4 cls

/-- The queue memory of a pipeline in one bay (R314). -/
def Claim.pipeMemory (d : List DWord) : Nat :=
  ((List.range (Claim.lastStage d + 1)).map fun st => Claim.cap d st * Claim.recordBytes d st).sum

/-- The queue memory reserved in the memory stack of a partition (R314, R404): of its contexts' message queues, of the pipelines, and of the launches that have
passed their checks and wait to start. -/
def Claim.reservedMemory (s : State) (part : Nat) : Nat :=
  ((s.allCtxs.filter fun c => c.2.defined && c.2.part == part).map fun c => 272 * c.2.qcap.sum).sum +
    ((s.pipes.filter fun p => (s.ctxAt p.ctx).part == part).map fun p => Claim.pipeMemory p.desc).sum +
    ((s.ops.filter fun o => o.kind == .pipeline && o.phase == .running && (s.ctxAt o.ctx).part == part).map fun o =>
      Claim.pipeMemory ((List.range 72).map fun j => BitVec.ofNat 64 (ofBytes ((o.buf.drop (8 * j)).take 8))) * Claim.bits (o.words.getD 3 0) 16 16).sum

/-- A descriptor's fields are as R313 asks, for a context of so many slots a bay. -/
def Claim.goodDescriptor (d : List DWord) (slots : Nat) : Prop :=
  let w := fun st k => Claim.stageWord d st k
  let rsv := fun st => Claim.bits (w st 1) 50 6
  Claim.bits (d.getD 1 0) 4 4 = 0 ∧ Claim.bits (d.getD 1 0) 16 48 = 0 ∧ (∀ k, 2 ≤ k → k < 8 → d.getD k 0 = 0) ∧
  Claim.bits (d.getD 0 0) 0 2 = 0 ∧ Claim.bits (d.getD 1 0) 8 6 ≤ 31 ∧
  (∀ st ≤ Claim.lastStage d, Claim.bits (w st 0) 0 2 = 0 ∧ Claim.bits (w st 1) 23 9 = 0 ∧ Claim.bits (w st 1) 56 8 = 0 ∧ w st 2 = 0 ∧ w st 3 = 0 ∧
    (∀ j, Claim.succ d st j → st < j ∧ j ≤ Claim.lastStage d) ∧ 1 ≤ rsv st ∧ rsv st ≤ 32 ∧ 1 ≤ Claim.cap d st) ∧
  ((List.range (Claim.lastStage d + 1)).map rsv).sum + Claim.bits (d.getD 1 0) 8 6 ≤ slots

/-- The slots of a launch in a bay, in the order of R316: the stage each is reserved for, and its quarters. -/
def Claim.plan (d : List DWord) : List (Option Nat × Nat) :=
  ((List.range (Claim.lastStage d + 1)).map fun st =>
    List.replicate (Claim.bits (Claim.stageWord d st 1) 50 6) (some st, Claim.width d st)).flatten ++
  List.replicate (Claim.bits (d.getD 1 0) 8 6) (none, Claim.sharedWidth d)

/-- A quarter of a slot's core that no thread standing in the bay has. -/
def Claim.idle (l : Standing) (pos q : Nat) : Bool := decide (q < 4) && l.all fun e => e.1 / 4 != pos / 4 || !e.2.getLsbD q

/-- The slots that a plan takes in a bay (R316): each takes the first slot that is free on a core that may serve the context and has the
quarters, and the lowest of them. -/
def Claim.places (usable : Nat → Bool) (bay : Nat) : List (Option Nat × Nat) → Standing → List Placed → Prop
  | [], _, l => l = []
  | (st, n) :: r, l, out =>
    let fits := fun pos => pos / 32 = bay ∧ usable (pos / 4) = true ∧ (∀ e ∈ l, e.1 ≠ pos) ∧ n ≤ (List.range 4).countP (Claim.idle l pos)
    ∃ p m, out = p :: m ∧ p.stage = st ∧ fits p.pos ∧ (∀ x < p.pos, ¬ fits x) ∧
      (∀ q < 4, p.quarters.getLsbD q = true ↔ Claim.idle l p.pos q = true ∧ (List.range q).countP (Claim.idle l p.pos) < n) ∧
      Claim.places usable bay r (l ++ [(p.pos, p.quarters)]) m

/-- A core may serve a context's latency class beside the threads that count: it has not failed, and has the class's caps or no such thread (R383, R398). -/
def Claim.usable (s : State) (ctx : Nat) (counts : Thread → Bool) (k : Nat) : Bool :=
  let c := s.coreAt k
  !c.failed && (([(4, 1, 48, 0), (8, 2, 96, 4), (12, 4, 96, 8)] : List (Nat × Nat × Nat × Nat)).getD (s.ctxAt ctx).latclass (16, 4, 96, 8) ==
      (c.rowcap, c.tilecapZn, c.tilecapK, c.spcap) || !(s.allThreads.any fun e => e.2.live && e.1 / 4 == k && counts e.2))

/-- The live threads of a bay that count, with their quarters. -/
def Claim.standing (s : State) (bay : Nat) (counts : Thread → Bool) : Standing :=
  (s.allThreads.filter fun e => e.2.live && e.1 / 32 == bay && counts e.2).map fun e => (e.1, e.2.quarters)

/-- LAUNCH and pipelines (R313, R314, R316, R317, R405, R411 to R413): LAUNCH acts as FORK does, always as a child of its task. A pipeline is refused for a bad command
block, a descriptor that is not well formed, bays outside the partition, queue memory that cannot be reserved, misaligned root records or more than stage 0 holds, or a bay that could not place it
beside the resident dispatcher; once it can be
placed, its root records and its threads stand at one step, bay by bay.
Where it rests on the model's own reading: assumptions 45, 50, 62, 63, 64, 68 of the log. -/
def Obligations.PipelineLaunches : Prop :=
  ∀ (rs1 rd : Reg) (s u : State) (bs : List Byte) (k n : Nat) (o : EngineOp) (c : Cause) (v : DWord) (placed : List (List Placed)),
    let a := s.t.readX rs1
    let ws := fun (m : Nat) (bs : List Byte) => (List.range m).map fun j => BitVec.ofNat 64 (ofBytes ((bs.drop (8 * j)).take 8))
    let launch := Instr.launch rs1 rd
    (Claim.noSegment s → Claim.noOtherIssuer s →
      (a.toNat % 64 ≠ 0 → exec launch s = Claim.traps s cause.misaligned a) ∧
      (a.toNat % 64 = 0 → bs.length = 48 → s.read s.agent .load 1 a.toNat 48 = .ok (bs, u) →
        let w := u.orderThread
        let d := ws 6 bs
        let kind := if Claim.bits (d.getD 0 0) 0 4 = 1 then EngineKind.remoteWrite
          else if Claim.bits (d.getD 0 0) 0 4 = 2 then .remoteRead else .pipeline
        let issue : Issue := { kind := kind, explicit := false, block := some a, rd := rd, words := d }
        ((∀ j < 64, (s.t.token j).st ≠ 0) → exec launch s = Claim.traps w cause.tokenFull 0) ∧
        (Claim.takes s k → Claim.room s kind → ∃ (t x : State) (node : Nat) (key : DWord),
          Claim.childTaken w x node key ∧ exec launch s = .next t ∧ Claim.entered x t issue node key k) ∧
        (Claim.takes s k → ¬ Claim.room s kind → ∃ x : WaitRec, x.kind = .engine ∧ x.issue = issue ∧
          exec launch s = .next { w with tick := w.tick + 1, t := { w.t with wait := some x } }))) ∧
    (s.op n = some o → o.kind = .pipeline →
      let word := fun k => o.words.getD k 0
      let access := exec (.engineAccessStep n) s
      let nroot := Claim.bits (word 3) 32 32
      let nbays := Claim.bits (word 3) 16 16
      let ctx := s.ctxAt o.ctx
      let bays := (((s.owners.filter fun e => e.2 == ctx.part).flatMap fun e => (List.range 8).map fun b => 8 * e.1 + b).drop
        (Claim.bits (word 3) 0 16)).take nbays
      let bad := word 0 ≠ 0 ∨ word 2 ≠ 0 ∨ word 5 ≠ 0 ∨ Claim.bits (word 1) 0 6 ≠ 0 ∨ nbays = 0 ∨ 144 < nbays
      let other := fun (t : Thread) => !(t.ctx == o.ctx && t.pipe.isSome)
      let dispatchers := fun b => ((s.allThreads.filter fun e => e.2.live && e.2.ctx == o.ctx) ++ ctx.images).countP fun e =>
        e.1 / 32 == b && e.2.pipe.isNone
      let away := fun b => (ctx.images.filter fun e => e.1 / 32 == b && e.2.pipe.isNone).map fun e => (e.1, e.2.quarters)
      let room := (s.owners.countP fun e => e.2 == ctx.part) * 2 ^ 35
      let refused := fun (d : List DWord) => Claim.bits (word 4) 0 4 ≠ 0 ∨ room < Claim.reservedMemory s ctx.part + Claim.pipeMemory d * bays.length ∨
        (∃ b ∈ bays, ctx.slots < dispatchers b + (Claim.plan d).length) ∨ ¬ Claim.goodDescriptor d ctx.slots ∨ bays.length ≠ nbays ∨
        Claim.cap d 0 < (nroot + nbays - 1) / nbays ∨
        ∃ b ∈ bays, ∀ l, ¬ Claim.places (Claim.usable s o.ctx other) b (Claim.plan d) (Claim.standing s b other ++ away b) l
      -- its descriptor
      (o.phase = .queued → bad → access = Claim.fails s o cause.engine 0) ∧
      (o.phase = .queued → ¬ bad → s.read o.agent .source 4 (word 1).toNat 576 = .error (.trap c v, u) → c ≠ cause.integrity →
        access = Claim.fails u o c v) ∧
      (o.phase = .queued → ¬ bad → bs.length = 576 → s.read o.agent .source 4 (word 1).toNat 576 = .ok (bs, s) →
        (refused (ws 72 bs) → access = Claim.fails s o cause.engine 0) ∧
        (¬ refused (ws 72 bs) → access = Claim.becomes s.order { o with phase := .running, buf := bs })) ∧
      -- its start
      (o.phase = .running → ctx.resident = true →
        (∀ p ∈ s.ops, p.kind = .pipeline → p.ctx = o.ctx → p.id < o.id → p.phase ≠ .queued ∧ p.phase ≠ .running) →
        let d := ws 72 o.buf
        let m := Claim.recordBytes d 0
        let start := exec (.pipelineLaunch n) s
        let fits := fun b l => (s.allThreads.countP fun e => e.2.live && e.2.ctx == o.ctx && e.1 / 32 == b) +
            (ctx.images.countP fun e => e.1 / 32 == b) + (Claim.plan d).length ≤ ctx.slots ∧
          Claim.places (fun k => Claim.usable s o.ctx (fun _ => true) k && !ctx.away.contains k) b (Claim.plan d) (Claim.standing s b fun _ => true) l
        ((∃ b ∈ bays, ∀ l, ¬ fits b l) → start = .next s) ∧
        (placed.length = bays.length → (∀ e ∈ bays.zip placed, fits e.1 e.2) → bays.Nodup →
          (s.read o.agent .source 4 (word 4).toNat (m * nroot) = .error (.trap c v, u) → c ≠ cause.integrity → start = Claim.fails u o c v) ∧
          (s.read o.agent .source 4 (word 4).toNat (m * nroot) = .ok (bs, s) → ∃ t, start = .next t ∧ t.mem = s.mem ∧
            t.ops = Claim.swapped s { o with phase := .written, buf := [] } ∧
            (∀ b ∈ bays, (s.pipeOf o.id b = none → ∃ p, t.pipeOf o.id b = some p ∧ p.desc = d ∧ p.ctx = o.ctx ∧ (∀ st, st ≠ 0 → p.queue st = []) ∧
              let mine := (List.range nroot).filter fun i => bays[i % nbays]? == some b
              (p.queue 0).map (fun r => (r.bytes, r.key, r.takeable)) =
                mine.map fun i => ((bs.drop (m * i)).take m, Claim.key o.key (i + 1), true))) ∧
            (∀ e ∈ bays.zip placed, ∀ p ∈ e.2, t.threadAt p.pos = { ({} : Thread) with
              live := true, ctx := o.ctx, quarters := p.quarters, pc := d.getD 0 0, lastStamp := (t.threadAt p.pos).lastStamp
              stageid := BitVec.ofNat 16 (p.stage.getD 0xFFFF), pipe := some { launch := o.id, bay := e.1, stage := p.stage } }) ∧
            ∀ q, (∀ l ∈ placed, ∀ p ∈ l, p.pos ≠ q) → t.threadAt q = s.threadAt q))))

/-- An operation ends and tells its issuer (R269, R278); it names no command block. -/
def Claim.closes (s t : State) (o : EngineOp) (st : BitVec 4) (c : Cause) (a : DWord) : Prop :=
  Claim.informs s t o st c a ∧ t.ops = s.ops.filter fun p => p.id != o.id

/-- Remote launches (R412, R414, R422): KIND 1 and KIND 2 start once the gang's acknowledgements are in, refused for a bad block or a MEMBER that is none; KIND 1 reads
LOCAL line by line and is sent whole, KIND 2 sends its request; an answer with a cause ends the operation in fault, an acknowledgement ends KIND 1, and the
bytes of a read go to a shadow whose publish ends KIND 2; before READY an answer is dropped (R441). Where it rests on the model's own reading: assumptions 62, 65, 121 of the log. -/
def Obligations.RemoteLaunches : Prop :=
  ∀ (n : Nat) (s u : State) (o : EngineOp) (bs : List Byte) (c : Cause) (v : DWord) (answer : RemoteAnswer) (ph : Nat → Nat),
    s.op n = some o →
    let word := fun k => o.words.getD k 0
    let len := Claim.bits (word 3) 32 32
    let member := Claim.bits (word 3) 16 12
    let ctx := s.ctxAt o.ctx
    let self := member = ctx.pkgid
    let bad := Claim.bits (word 0) 4 60 ≠ 0 ∨ word 1 ≠ 0 ∨ word 5 ≠ 0 ∨ Claim.bits (word 3) 0 16 ≠ 0 ∨ Claim.bits (word 3) 28 4 ≠ 0 ∨
      len = 0 ∨ 2 ^ 24 < len
    let acked := ∀ g, ctx.gang = some g → g.members ≤ g.acks.length
    let members := match ctx.gang with | some g => g.members | none => 1
    let access := exec (.engineAccessStep n) s
    let a := ((word 4) + BitVec.ofNat 64 o.progress).toNat
    let m := min (128 - a % 128) (len - o.progress)
    let reachable := fun (f : Nat → Nat) => ∀ b, o.block = some b → ∀ e ∈ lineParts (b.toNat + 48) 16,
      s.checkPart o.agent .dest e.1 e.2 = .ok (f e.1, s)
    let ends := fun (out : Out) (st : BitVec 4) (c : Cause) (a : DWord) => ∃ t, out = .next t ∧ Claim.closes s t o st c a ∧ s.stamp < t.stamp ∧
      ∀ x, Claim.byte t x = Claim.blockWritten ph o (Claim.statusOf t.stamp c st) (some a) (Claim.byte s) x
    -- their start
    (o.kind = .remoteWrite ∨ o.kind = .remoteRead → o.phase = .queued → acked →
      (bad → access = Claim.fails s o cause.engine 0) ∧
      (¬ bad → members ≤ member → access = Claim.fails s o cause.destination 0) ∧
      (¬ bad → member < members → access = Claim.becomes s { o with phase := .running })) ∧
    -- KIND 1
    (o.kind = .remoteWrite → o.phase = .running → o.progress < len →
      (s.read o.agent .source 4 a m = .ok (bs, u) → access = Claim.becomes u.order { o with progress := o.progress + m, buf := o.buf ++ bs }) ∧
      (s.read o.agent .source 4 a m = .error (.trap c v, u) → c ≠ cause.integrity → access = Claim.fails u o c v)) ∧
    (o.kind = .remoteWrite → o.phase = .running → len ≤ o.progress → ∃ t, exec (.remoteWriteLaunch n) s = .next t ∧ t.mem = s.mem ∧ t.t = s.t ∧
      (¬ self → t.ops = Claim.swapped s { o with phase := .written, buf := [] } ∧
        Claim.sent s t o.ctx 0 3 0 (.remoteWrite member o.id (word 2) o.buf)) ∧
      (self → t.out = s.out ∧ ∃ x, t.ops = Claim.swapped s { o with phase := .written, buf := [] } ++ [x] ∧ x.kind = .inboundWrite ∧
        x.launch = o.id ∧ x.addr = word 2 ∧ x.buf = o.buf ∧ x.ctx = o.ctx)) ∧
    (s.ready = true → o.kind = .remoteWrite → o.phase = .written → ¬ self → reachable ph →
      (answer.cause = 0 → ends (exec (.remoteWriteAck n answer) s) 3 0 0) ∧
      (answer.cause ≠ 0 → ends (exec (.remoteWriteAck n answer) s) 4 answer.cause answer.address)) ∧
    (s.ready = false → ∀ i ∈ [Instr.remoteWriteAck n answer, .remoteReadResponse n answer bs],
      exec i s = .next { s with telemetry := { s.telemetry with drops := s.telemetry.drops + 1 } }) ∧
    -- KIND 2
    (o.kind = .remoteRead → o.phase = .running → o.progress = 0 → ∃ t, exec (.remoteReadLaunch n) s = .next t ∧ t.mem = s.mem ∧ t.t = s.t ∧
      (¬ self → t.ops = Claim.swapped s { o with progress := 1 } ∧ Claim.sent s t o.ctx 0 2 0 (.remoteRead member o.id (word 2) len)) ∧
      (self → t.out = s.out ∧ ∃ x, t.ops = Claim.swapped s { o with progress := 1 } ++ [x] ∧ x.kind = .inboundRead ∧
        x.launch = o.id ∧ x.addr = word 2 ∧ x.words = [BitVec.ofNat 64 len] ∧ x.ctx = o.ctx)) ∧
    (s.ready = true → o.kind = .remoteRead → o.phase = .running → o.progress = 1 → ¬ self →
      (answer.cause ≠ 0 → reachable ph → ends (exec (.remoteReadResponse n answer bs) s) 4 answer.cause answer.address) ∧
      (answer.cause = 0 → bs.length = len →
        (∀ e ∈ lineParts (word 4).toNat len, ∃ r, s.translate o.agent .dest e.1 = .ok ((ph e.1, r), s)) →
        ∃ sh : List Put, (∀ f, Claim.over sh f = Claim.putRange ph f (word 4).toNat bs) ∧
          exec (.remoteReadResponse n answer bs) s = Claim.becomes s.order { o with phase := .written, shadow := sh })) ∧
    (o.kind = .remoteRead → o.phase = .written → Claim.soundPuts s o.ctx o.shadow → Claim.blockWritable s ph o 16 →
      ∃ t, exec (.automaticPublish n) s = .next t ∧ Claim.closes s t o 3 0 0 ∧ s.stamp < t.stamp ∧
        ∀ x, Claim.byte t x = Claim.blockWritten ph o (Claim.statusOf t.stamp 0 3) (some 0) (Claim.over o.shadow (Claim.byte s)) x)

/-- Remote requests that arrive, and parameter commits (R409, R415): a request for no context that takes messages, or of no length, is dropped; a write checks
every page, takes its body into a shadow, publishes it at one step and answers with that step's stamp; a read reads line by line and answers with the
bytes; a fault answers with its cause. A parameter commit steps VER and sets CUR at one step, or answers with its cause and writes nothing.
Where it rests on the model's own reading: assumptions 66, 67 of the log. -/
def Obligations.RemoteRequests : Prop :=
  ∀ (n ctx stamp len pa : Nat) (address header version v : DWord) (body bs : List Byte) (s u : State) (o : EngineOp) (c : Cause) (ph : Nat → Nat),
    let takes := s.ready = true ∧ (s.ctxAt ctx).defined = true ∧ (s.ctxAt ctx).ended = false
    let dropped := Host.Outcome.next (φ := Fault) (ρ := Refusal) { s with telemetry := { s.telemetry with drops := s.telemetry.drops + 1 } }
    let enters := fun (s : State) (k : EngineKind) (body : List Byte) (n : Nat) => Host.Outcome.next (φ := Fault) (ρ := Refusal) { s with
      nextOp := s.nextOp + 1, ops := s.ops ++ [{
        id := s.nextOp + 1, kind := k, issuer := nobody, ctx := ctx, level := true, addr := address, buf := body
        words := [BitVec.ofNat 64 n] }] }
    let write := exec (.remoteWriteRequest ctx stamp address body) s
    let read := exec (.remoteReadRequest ctx address len) s
    let commit := exec (.parameterCommit ctx header version) s
    let sized := fun n => 1 ≤ n ∧ n ≤ 2 ^ 24
    (takes → sized body.length → write = enters { s with stamp := max s.stamp stamp } .inboundWrite body body.length) ∧
    (¬ takes ∨ ¬ sized body.length → write = dropped) ∧
    (takes → sized len → read = enters s .inboundRead [] len) ∧ (¬ takes ∨ ¬ sized len → read = dropped) ∧
    (s.op n = some o → s.op o.launch = none →
      let gone := s.ops.filter fun p => p.id != n
      let total := (o.words.getD 0 0).toNat
      let a := (o.addr + BitVec.ofNat 64 o.progress).toNat
      let m := min (128 - a % 128) (total - o.progress)
      (o.kind = .inboundWrite → o.phase = .queued →
        (∀ e ∈ lineParts o.addr.toNat o.buf.length, ∃ r, s.translate o.agent .dest e.1 = .ok ((ph e.1, r), s)) →
        ∃ sh : List Put, (∀ f, Claim.over sh f = Claim.putRange ph f o.addr.toNat o.buf) ∧
          exec (.engineWriteStep n) s = Claim.becomes s.order { o with phase := .written, shadow := sh, buf := [] }) ∧
      (∀ l e r, o.kind = .inboundWrite → o.phase = .queued → lineParts o.addr.toNat o.buf.length = l ++ e :: r →
        (∀ x ∈ l, ∃ r, s.translate o.agent .dest x.1 = .ok ((ph x.1, r), s)) →
        s.translate o.agent .dest e.1 = .error (.trap c v, s) → c ≠ cause.integrity →
        ∃ t, exec (.engineWriteStep n) s = .next t ∧ t.ops = gone ∧ t.mem = s.mem ∧ Claim.sent s t o.ctx 0 3 1 (.writeAck c v s.stamp)) ∧
      (o.kind = .inboundWrite → o.phase = .written → Claim.soundPuts s o.ctx o.shadow → ∃ t, exec (.automaticPublish n) s = .next t ∧ t.ops = gone ∧
        s.stamp < t.stamp ∧ Claim.sent s t o.ctx 0 3 1 (.writeAck 0 0 t.stamp) ∧ ∀ x, Claim.byte t x = Claim.over o.shadow (Claim.byte s) x) ∧
      (o.kind = .inboundRead → o.progress < total →
        (s.read o.agent .source 8 a m = .ok (bs, u) →
          exec (.engineAccessStep n) s = Claim.becomes u.order { o with progress := o.progress + m, buf := o.buf ++ bs }) ∧
        (s.read o.agent .source 8 a m = .error (.trap c v, s) → c ≠ cause.integrity →
          ∃ t, exec (.engineAccessStep n) s = .next t ∧ t.ops = gone ∧ t.mem = s.mem ∧ Claim.sent s t o.ctx 0 2 1 (.readResponse c v []))) ∧
      (o.kind = .inboundRead → total ≤ o.progress →
        ∃ t, exec (.finalStep n) s = .next t ∧ t.ops = gone ∧ t.mem = s.mem ∧ Claim.sent s t o.ctx 0 2 1 (.readResponse 0 0 o.buf))) ∧
    -- parameter commits
    (¬ takes → commit = dropped) ∧
    (takes →
      let answers := fun (u : State) (c : Cause) => ∃ t, commit = .next t ∧ Claim.sent u t ctx 0 6 1 (.commitAck c u.stamp) ∧ t = { u with out := t.out }
      let ag : Agent := { core := none, bay := 0, level := true, ctx := ctx }
      let bad := header.toNat % 8 ≠ 0 ∨ version.toNat % 128 ≠ 0
      let new := ((Claim.entry s pa / 2 ^ 48 + 1) % 2 ^ 16 * 2 ^ 48 + version.toNat) % 2 ^ 64
      (bad → answers s cause.misaligned) ∧
      (¬ bad → s.checkPart ag .store header.toNat 8 = .error (.trap c v, u) → answers u c) ∧
      (¬ bad → s.checkPart ag .store header.toNat 8 = .ok (pa, s) →
        ∃ t, commit = .next t ∧ s.stamp < t.stamp ∧ Claim.sent s t ctx 0 6 1 (.commitAck 0 t.stamp) ∧ t.t = s.t ∧ t.ops = s.ops ∧
          ∀ x, Claim.byte t x = Claim.put (Claim.byte s) pa (toBytes 8 new) x))


/-! ### Messages -/

/-- The capacity of a message queue; 0 where the context has none (R284, R404). -/
def Claim.capacity (c : Context) (q : Nat) : Nat := c.qcap.getD q 0

/-- The delivery step (R285, R286, R392, R448): the message stands last in its queue with the step's stamp and its check value, and EV is set in every thread of the
context; `base` is each thread but for that. -/
def Claim.delivered (s t : State) (ctx q : Nat) (src : BitVec 16) (cls : BitVec 4) (payload : List Byte) (check : Word)
    (base : Nat → Thread) : Prop :=
  s.stamp < t.stamp ∧ t.mem = s.mem ∧ (∀ n, n ≠ ctx → t.ctxAt n = s.ctxAt n) ∧
  (∀ j, (t.ctxAt ctx).queue j = if j = q then (s.ctxAt ctx).queue j ++
      [{ src := src, cls := cls, stamp := BitVec.ofNat 32 t.stamp, payload := payload, check := check }]
    else (s.ctxAt ctx).queue j) ∧
  ∀ p, t.threadAt p = if (s.threadAt p).live = true ∧ (s.threadAt p).ctx = ctx then { base p with ev := true } else base p

/-- The step at which a message leaves a queue for a buffer (R286): its bytes written, its header in x[rd]. -/
def Claim.received (s t : State) (ph : Nat → Nat) (b : DWord) (q : Nat) (rd : Reg) (m : Message) (r : List Message) : Prop :=
  let header := BitVec.ofNat 64 (m.stamp.toNat * 2 ^ 32 + m.src.toNat * 2 ^ 16 + m.cls.toNat * 2 ^ 12 + m.payload.length % 2 ^ 9)
  (∀ a, Claim.byte t a = Claim.putRange ph (Claim.byte s) b.toNat m.payload a) ∧
  (∀ j, t.ctx.queue j = if j = q then r else s.ctx.queue j) ∧
  t = { (s.orderThread.setX rd header).advance with
    mem := t.mem, parks := t.parks, chk := t.chk, quar := t.quar, ctx := { s.ctx with queues := t.ctx.queues }
    t := { (s.orderThread.setX rd header).advance.t with digest := t.t.digest } }

/-- The header of a message from the host that the package takes (R402, R403). -/
def Claim.accepted (s : State) (h : DerporHeader) : Prop :=
  h.cls = 1 ∧ h.op = 0 ∧ h.reserved = 0 ∧ (s.ctxAt h.ctx).defined = true ∧ (s.ctxAt h.ctx).ended = false

/-- MSEND, MRECV, MRECV.try and MRECV_DEQUEUE (R285, R286): MSEND reads its payload at one step, takes a slot, and sends, or ends its token in fault where the destination
names no member or no queue; MRECV refuses a queue that does not exist and a buffer that cannot be stored to, waits on an empty queue (MRECV.try answers 0), and
otherwise takes the oldest message, at one step, unless it does not pass its check (R449), which is data-integrity and leaves it there; a waiting MRECV does so at an MRECV_DEQUEUE. -/
def Claim.MessageWords : Prop :=
  ∀ (len : BitVec 4) (rs2 rs1 rd : Reg) (s u : State) (bs : List Byte) (k : Nat) (c : Cause) (v : DWord) (ph : Nat → Nat) (pos : Nat)
    (w : WaitRec) (m : Message) (r : List Message),
    let a := s.t.readX rs1
    let dest := s.t.readX rs2
    let send := Instr.msend len rs2 rs1 rd
    let both := fun (o : Out) => ∀ i ∈ [Instr.mrecv rs2 rs1 rd, .mrecvTry rs2 rs1 rd], exec i s = o
    let q := Claim.bits dest 0 4
    (Claim.noSegment s →
      (a.toNat % 16 ≠ 0 → exec send s = Claim.traps s cause.misaligned a) ∧
      (a.toNat % 16 = 0 → s.read s.agent .load 1 a.toNat (16 * (len.toNat + 1)) = .ok (bs, u) →
        let y := u.orderThread
        let member := Claim.bits dest 0 12
        let members := match s.ctx.gang with | some g => g.members | none => 1
        let acked := ∀ g, s.ctx.gang = some g → g.members ≤ g.acks.length
        let bad := Claim.bits dest 16 48 ≠ 0 ∨ members ≤ member ∨ member = s.ctx.pkgid ∧ Claim.capacity s.ctx (Claim.bits dest 12 4) = 0
        let o : EngineOp := {
          id := y.nextOp + 1, kind := .message, issuer := s.pos, home := s.pos, ctx := s.t.ctx, level := s.t.level, slot := k
          gen := (s.t.token k).gen, addr := dest, buf := bs }
        ((∀ j < 64, (s.t.token j).st ≠ 0) → exec send s = Claim.traps y cause.tokenFull 0) ∧
        (Claim.takes s k → ∃ (t : State) (o' : EngineOp), exec send s = .next t ∧
          (∀ j, t.t.token j = if j = k then { s.t.token k with st := 1, stamp := 0, cause := 0, result := 0 } else s.t.token j) ∧
          o' = { o with phase := o'.phase, cause := o'.cause } ∧
          t = { (y.setX rd (Claim.tokenOf s k)).advance with
            t := { (y.setX rd (Claim.tokenOf s k)).advance.t with tokens := t.t.tokens }
            ops := y.ops ++ [o'], nextOp := y.nextOp + 1, net := t.net, out := t.out } ∧
          (bad → o'.phase = .published ∧ o'.cause = cause.destination ∧ t.net = y.net ∧ t.out = y.out) ∧
          (¬ bad → o'.cause = 0 ∧ o'.phase ≠ .published ∧ t.net = y.net ++
              [{ op := o.id, ctx := s.t.ctx, queue := Claim.bits dest 12 4, src := BitVec.ofNat 16 s.ctx.pkgid, sent := y.stamp, payload := bs }] ∧
            (member ≠ s.ctx.pkgid → acked → Claim.sent y t s.t.ctx (Claim.bits dest 12 4) 1 0 (.message member o.id bs)) ∧
            (member = s.ctx.pkgid ∨ ¬ acked → t.out = y.out))))) ∧
    (Claim.noSegment s →
      (Claim.bits dest 4 60 ≠ 0 ∨ Claim.capacity s.ctx q = 0 → both (Claim.traps s cause.destination dest)) ∧
      (Claim.bits dest 4 60 = 0 → Claim.capacity s.ctx q ≠ 0 →
        (a.toNat % 16 ≠ 0 → both (Claim.traps s cause.misaligned a)) ∧
        (a.toNat % 16 = 0 → s.checkStore s.agent a.toNat 256 = .error (.trap c v, u) → both (Claim.traps u c v)) ∧
        (a.toNat % 16 = 0 → s.checkStore s.agent a.toNat 256 = .ok s →
          (s.ctx.queue q = [] → exec (.mrecvTry rs2 rs1 rd) s = .next (s.setX rd 0).advance ∧
            exec (.mrecv rs2 rs1 rd) s = .next { s with t := { s.t with
              wait := some { kind := .mrecv, addr := a, arg := BitVec.ofNat 64 q, rd := rd } } }) ∧
          (s.ctx.queue q = m :: r → m.check ≠ 0 → ∀ i ∈ [Instr.mrecv rs2 rs1 rd, .mrecvTry rs2 rs1 rd], ∃ t : State,
            exec i s = Claim.traps t cause.integrity 0 ∧ t.ctx.queue q = { m with quarantined := true } :: r ∧ t.mem = s.mem ∧
            (m.quarantined = false → s.stamp < t.stamp)) ∧
          (s.ctx.queue q = m :: r → m.check = 0 → (∀ e ∈ lineParts a.toNat m.payload.length, s.checkPart s.agent .store e.1 e.2 = .ok (ph e.1, s)) →
            ∃ t, both (.next t) ∧ Claim.received s t ph a q rd m r)))) ∧
    (pos < slotCount → w.kind = .mrecv →
      let y := s.focus pos
      let j := w.arg.toNat
      Claim.waiting y w → Claim.noSegment y →
      (y.ctx.queue j = [] → w = { kind := .mrecv, addr := w.addr, arg := w.arg, rd := w.rd } → exec (.mrecvDequeue pos) s = .next (y.focus s.pos)) ∧
      (y.ctx.queue j = m :: r → m.check = 0 → (∀ e ∈ lineParts w.addr.toNat m.payload.length, y.checkPart y.agent .store e.1 e.2 = .ok (ph e.1, y)) →
        ∃ t, exec (.mrecvDequeue pos) s = .next (t.focus s.pos) ∧ Claim.received y t ph w.addr j w.rd m r))

/-- What tells two messages on their way to be of one sender and to one queue (R285). -/
def Claim.route (s : State) (m : Transit) : Nat × Bool × Nat × DWord :=
  match s.op m.op with
  | some o => (m.ctx, true, o.home, o.addr)
  | none => (m.ctx, false, m.src.toNat, BitVec.ofNat 64 ((s.ctxAt m.ctx).pkgid + 2 ^ 12 * m.queue))

/-- The unit that a notice names (R4, R407): the encode engines and the display heads of a partition, by rising slice. -/
def Claim.unitNamed (s : State) (part : Nat) (unit number : BitVec 8) (u : Nat) : Prop :=
  let slices := (List.range 18).filter fun k => s.owners.any fun e => e.1 == k && e.2 == part
  unit = 1 ∧ slices[number.toNat]? = some u ∨
    unit = 2 ∧ ∃ k, slices[number.toNat / 4]? = some k ∧ u = 18 + 4 * k + number.toNat % 4

/-- A unit's frame ends on a fault (R367, R407): the notice is delivered to queue 0 of the owning context, or counted where it is full. -/
def Claim.frameEnds (s t : State) (ctx : Nat) (unit number : BitVec 8) (code : BitVec 16) (address : DWord) (u : Nat) : Prop :=
  (∀ v, t.unitAt v = if v = u then { s.unitAt u with active := false } else s.unitAt v) ∧
  (Claim.capacity (s.ctxAt ctx) 0 ≤ ((s.ctxAt ctx).queue 0).length →
    t = { s with units := t.units, telemetry := { s.telemetry with notice := s.telemetry.notice + 1 } }) ∧
  (((s.ctxAt ctx).queue 0).length < Claim.capacity (s.ctxAt ctx) 0 →
    Claim.delivered s t ctx 0 0xFFFE 2 (toBytes 2 code.toNat ++ [unit, number, 0, 0, 0, 0] ++ toBytes 8 address.toNat) 0 s.threadAt)

/-- MESSAGE_DELIVERY, HOST_MESSAGE and FRAME_FAULT (R285, R286, R367, R402, R403, R406, R407): a message on its way is delivered, or handed to its member, when no earlier one of its sender to
its queue is still on its way and the queue has room, and its token is then done; a host message is dropped and counted, delivered as class 1, or answered with queue-full;
the fault of a frame that a unit assigned to the context reads ends the frame, with a notice to queue 0 as class 2, counted where it is full. -/
def Claim.MessageEvents : Prop :=
  ∀ (i ctx : Nat) (s : State) (m : Transit) (o : EngineOp) (h : DerporHeader) (payload : List Byte) (unit number : BitVec 8) (code : BitVec 16) (address : DWord),
    let full := fun ctx q => Claim.capacity (s.ctxAt ctx) q ≤ ((s.ctxAt ctx).queue q).length
    let x := s.ctxAt m.ctx
    let told : EngineOp := { o with flags := 0 }
    let deliver := exec (.messageDelivery i) s
    let gone := s.ops.filter fun p => p.id != o.id
    let earlier := ∃ j < i, ∃ n, s.net[j]? = some n ∧ Claim.route s n = Claim.route s m
    (s.net[i]? = some m →
      (earlier → deliver = .next s) ∧
      (¬ earlier → s.op m.op = some o → Claim.bits o.addr 0 12 ≠ x.pkgid →
        (x.acked = false → deliver = .next s) ∧
        (x.acked = true → ∃ t, deliver = .next t ∧ t.net = s.net.eraseIdx i ∧ t.ops = gone ∧ s.stamp < t.stamp ∧ t.mem = s.mem ∧
          Claim.informs s t told 3 0 0)) ∧
      (¬ earlier → s.op m.op = some o → o.ctx = m.ctx → Claim.bits o.addr 0 12 = x.pkgid →
        (full m.ctx m.queue → deliver = .next s) ∧
        (¬ full m.ctx m.queue → ∃ t, deliver = .next t ∧ t.net = s.net.eraseIdx i ∧ t.ops = gone ∧
          Claim.delivered s t m.ctx m.queue m.src 0 m.payload m.check fun p =>
            if p = o.issuer ∧ o.issuer < slotCount ∧ (∀ e ∈ x.images, e.1 ≠ p) ∧ (s.threadAt p).live = true ∧ (s.threadAt p).ctx = o.ctx then
              Claim.informed told 3 0 t.stamp 0 (s.threadAt p) else s.threadAt p)) ∧
      (¬ earlier → s.op m.op = none → x.pkgid < 2 ^ 12 →
        (full m.ctx m.queue → deliver = .next s) ∧
        (¬ full m.ctx m.queue → ∃ t, deliver = .next t ∧ t.net = s.net.eraseIdx i ∧ t.ops = s.ops ∧
          Claim.delivered s t m.ctx m.queue m.src 0 m.payload m.check s.threadAt))) ∧
    (let arrive := exec (.hostMessage h payload) s
     let q := h.queue.toNat
     let sized := 16 ≤ payload.length ∧ payload.length ≤ 256 ∧ payload.length % 16 = 0 ∧ Claim.capacity (s.ctxAt h.ctx) q ≠ 0
     (¬ Claim.accepted s h ∨ ¬ sized → arrive = .next { s with telemetry := { s.telemetry with drops := s.telemetry.drops + 1 } }) ∧
     (Claim.accepted s h → sized → h.src = 0xFFFF →
       (full h.ctx q → ∃ t, arrive = .next t ∧ t = { s with stamp := t.stamp, tick := s.tick + 1, reports := s.reports ++ [(Claim.headed t 0 6 h.ctx, .queueFull h.ctx q)] } ∧
         s.stamp < t.stamp) ∧
       (¬ full h.ctx q → ∃ t, arrive = .next t ∧ Claim.delivered s t h.ctx q 0xFFFF 1 payload 0 s.threadAt ∧ t.net = s.net ∧ t.ops = s.ops)) ∧
     (Claim.accepted s h → sized → h.src ≠ 0xFFFF → arrive = .next { s with
       stamp := max s.stamp h.stamp
       net := s.net ++ [{ op := 0, ctx := h.ctx, queue := q, src := h.src, sent := h.stamp, payload := payload }] })) ∧
    (let notice := exec (.frameFault ctx unit number code address) s
     let takes := (s.ctxAt ctx).defined = true ∧ (s.ctxAt ctx).ended = false
     let named := fun u => Claim.unitNamed s (s.ctxAt ctx).part unit number u ∧ (s.unitAt u).ctx = some ctx ∧ (s.unitAt u).active = true
     (¬ takes ∨ (∀ u, ¬ named u) → notice = .next s) ∧
     ∀ u, takes → named u → ∃ t, notice = .next t ∧ Claim.frameEnds s t ctx unit number code address u)

/-- A message that is dropped is counted and does nothing else (R403, R458). -/
def Claim.dropped (s : State) : Out := .next { s with telemetry := { s.telemetry with drops := s.telemetry.drops + 1 } }

/-- CLASS, OP and the context of the message that an event stands for (R402, R403); the events of the machine itself are no messages. -/
def Claim.messageKind (s : State) : Instr → Option (Nat × Nat × Option Nat)
  | .define_ r => some (0, 0, some (Claim.bits r.d0 0 10))
  | .reside n => some (0, 1, some n)
  | .evict n => some (0, 2, some n)
  | .stopContext n => some (0, 3, some n)
  | .grant _ _ _ _ => some (0, 4, none)
  | .release_ _ _ _ => some (0, 5, none)
  | .hostMessage h _ => some (1, 0, some h.ctx)
  | .remoteReadRequest n _ _ => some (2, 0, some n)
  | .remoteReadResponse k _ _ => some (2, 1, (s.op k).map fun o => o.ctx)
  | .remoteWriteRequest n _ _ _ => some (3, 0, some n)
  | .remoteWriteAck k _ => some (3, 1, (s.op k).map fun o => o.ctx)
  | .gangLaunch n _ => some (4, 0, some n)
  | .gangAck n _ => some (4, 1, some n)
  | .gangArrive n _ _ _ => some (4, 2, some n)
  | .gangAbort n => some (4, 3, some n)
  | .attestationChallenge _ n => some (5, 0, some n)
  | .parameterCommit n _ _ => some (6, 0, some n)
  | _ => none

/-- A message as it arrives with its header (R266, R402, R403, R439, R441): one with a reserved field, a CLASS or an OP that is not listed, a CTX that the package does
not define, or a sender that its class does not allow is dropped and counted, with nothing else changed; any other is handled, and unless its event drops it, or the package is
not ready, the package's logical time has first passed the stamp of a member's. Before READY a management request names no context that is defined. -/
def Claim.HeaderedMessages : Prop :=
  ∀ (sender : Nat) (h : DerporHeader) (i : Instr) (s : State) (r : List Action), s.sched = .derpor sender h i :: r →
    let y := { s with sched := r }
    let later := { y with stamp := max y.stamp h.stamp }
    let defined := (y.ctxAt h.ctx).defined = true ∨ h.cls = 5 ∨ (h.cls = 0 ∧ (h.op = 0 ∨ y.ready = false))
    let allowed := if h.cls = 0 ∨ h.cls = 5 then sender = y.management
      else sender = (y.ctxAt h.ctx).host ∨ ∃ g, (y.ctxAt h.ctx).gang = some g ∧ sender ∈ g.endpoints
    let ok := h.reserved = 0 ∧ allowed ∧ defined ∧ (∃ k, Claim.messageKind y i = some k ∧ h.cls.toNat = k.1 ∧ h.op.toNat = k.2.1 ∧
      ∀ n, k.2.2 = some n → h.ctx = n) ∧ ∀ g bs, i = .hostMessage g bs → g = h
    let drops := exec i y = .next { y with telemetry := { y.telemetry with drops := y.telemetry.drops + 1 } }
    (¬ ok → step s = Claim.dropped y) ∧
    (ok → h.src = 0xFFFF ∨ y.ready = false ∨ drops → step s = exec i y) ∧
    (ok → h.src ≠ 0xFFFF → y.ready = true → ∀ t, exec i y = .next t → t.telemetry.drops = y.telemetry.drops → step s = exec i later)

/-- The message words, the arrival of messages and their headers. Where it rests on the model's own reading: assumptions 83, 86, 99, 117, 121, 125 of the log. -/
def Obligations.Messages : Prop :=
  Claim.MessageWords ∧ Claim.MessageEvents ∧ Claim.HeaderedMessages


/-- The encode engines and display heads (R4, R364, R367, R407): a unit is assigned to at most one context, of the partition that owns its slice; it reads
a frame line by line through that context's translation and permissions, each read one step; and a fault ends its frame with a notice and
traps no thread. -/
def Claim.EncodeEnginesAndDisplayHeads : Prop :=
  ∀ (s : State) (u ctx va n : Nat) (bs : List Byte) (c : Cause) (v : DWord) (unit number : BitVec 8),
    let x := s.unitAt u
    let slice := if u < 18 then u else (u - 18) / 4
    let owned := ∃ e ∈ s.owners, e.1 = slice ∧ e.2 = (s.ctxAt ctx).part
    let takes := (s.ctxAt ctx).defined = true ∧ (s.ctxAt ctx).ended = false
    let ag : Agent := { core := none, bay := 8 * slice, level := true, ctx := ctx }
    let read := s.read ag .source 4 va n
    (u < 90 → takes → owned → ∃ t, s.assignUnit u (some ctx) = t ∧ t = { s with units := t.units } ∧
      ∀ w, t.unitAt w = if w = u then { ctx := some ctx } else s.unitAt w) ∧
    (¬ takes ∨ ¬ owned → s.assignUnit u (some ctx) = s) ∧
    (x.ctx = some ctx → x.active = true → n ≠ 0 → va % 128 + n ≤ 128 → s.ch.fillCache = false →
      (read = .ok (bs, s) → ∃ t, s.frameRead u va n = t ∧ t = { s.order with units := t.units } ∧
        ∀ w, t.unitAt w = if w = u then { x with frame := x.frame ++ bs } else s.unitAt w) ∧
      (read = .error (.trap c v, s) → Claim.unitNamed s (s.ctxAt ctx).part unit number u → u < 90 →
        Claim.frameEnds s (s.frameRead u va n) ctx unit number (c.setWidth 16) v u))

/-! ### Contexts and partitions -/

/-- A request that is refused is reported with its code and its reason and does nothing else (R408, R470). -/
def Claim.turnedAway (s : State) (op reason : Nat) : Out := .next { s with reports := s.reports ++ [(Claim.plainHead s.stamp, .refused op reason)] }

/-- The barriers of a level that the defined contexts of some partitions hold (R404). -/
def Claim.barsHeld (s : State) (level : Nat) (among : Nat → Prop) [DecidablePred among] : Nat :=
  ((s.allCtxs.filter fun c => c.2.defined && decide (among c.2.part)).map fun c => c.2.bars.getD level 0).sum

/-- A partition has a slice of a die (R364). -/
def Claim.onDie (s : State) (part die : Nat) : Bool := s.owners.any fun e => e.2 == part && e.1 / 2 == die

/-- The lowest n quarters that are idle on a slot's core beside the threads that stand there. -/
def Claim.lowest (l : Standing) (pos n : Nat) (q : BitVec 4) : Prop :=
  n ≤ (List.range 4).countP (Claim.idle l pos) ∧
  ∀ j < 4, q.getLsbD j = true ↔ Claim.idle l pos j = true ∧ (List.range j).countP (Claim.idle l pos) < n

/-- Every live thread with its quarters. -/
def Claim.everyone (s : State) : Standing := (s.allThreads.filter fun e => e.2.live).map fun e => (e.1, e.2.quarters)

/-- Quarters for each image of a context, in order, on the core from which it was saved (R397). -/
def Claim.returned (usable : Nat → Bool) : List (Nat × Thread) → Standing → List (BitVec 4) → Prop
  | [], _, out => out = []
  | (p, t) :: r, l, out => ∃ q m, out = q :: m ∧ usable (p / 4) = true ∧ (∀ e ∈ l, e.1 ≠ p) ∧ Claim.lowest l p (popCount t.quarters) q ∧
      Claim.returned usable r (l ++ [(p, q)]) m

/-- DEFINE, RESIDE and STOP_CONTEXT (R366, R403 to R405, R408, R441, R470): a DEFINE that meets a reason is refused with the
lowest, and otherwise the context has what its body gives, and the management endpoint, which sent it, as its host. The first RESIDE starts the resident dispatcher, in slot 0 of the partition's first core, at level 1 with one quarter;
a deterministic context finds its partition's clock nominal; STOP ends the context with the stopped cause and removes its definition.
Where it rests on the model's own reading: assumptions 12, 13, 50, 68, 69, 102, 117, 125 of the log. -/
def Obligations.ContextRequests : Prop :=
  ∀ (r : DefineRequest) (n slice : Nat) (s : State) (rest : List (Nat × Nat)),
    let define := exec (.define_ r) s
    let ctx := Claim.bits r.d0 0 10
    let part := Claim.bits r.d0 10 5
    let slots := Claim.bits r.d2 34 6
    let bars := [Claim.bits r.d2 58 6, Claim.bits r.d2 52 6, Claim.bits r.d2 46 6, Claim.bits r.d2 40 6]
    let qcap := (List.range 16).map fun q => (r.d3.toNat + 2 ^ 64 * r.d4.toNat + 2 ^ 128 * r.d5.toNat) / 2 ^ (12 * q) % 2 ^ 12
    let fits := fun (level : Nat) (held : Nat) => held + bars.getD level 0 ≤ 32
    let reasons : List (Prop × Nat) := [
      (s.ready = false, 1), ((s.ctxAt ctx).defined = true, 4),
      (Claim.bits r.d0 15 1 ≠ 0 ∨ Claim.bits r.d0 19 45 ≠ 0 ∨ r.d1 ≠ 0 ∨ Claim.bits r.d2 0 34 ≠ 0 ∨ r.d7.toNat % 4 ≠ 0 ∨ slots = 0 ∨ 32 < slots, 5),
      (qcap.getD 0 0 = 0, 6), (∀ e ∈ s.owners, e.2 ≠ part, 7),
      (Claim.bits r.d6 0 12 ≠ 0 ∨ Claim.bits r.d6 60 4 ≠ 0 ∨ s.ownerOf r.d6.toNat ≠ some part, 8),
      ((s.owners.countP fun e => e.2 == part) * 2 ^ 35 < Claim.reservedMemory s part + 272 * qcap.sum, 9),
      (¬ (fits 0 (Claim.barsHeld s 0 fun p => p = part) ∧ fits 1 (Claim.barsHeld s 1 fun p => p = part) ∧
        (∀ d < 9, Claim.onDie s part d = true → fits 2 (Claim.barsHeld s 2 fun p => Claim.onDie s p d = true)) ∧
        fits 3 (Claim.barsHeld s 3 fun _ => True)), 10)]
    let fresh : Context := { ({} : Context) with
      defined := true, det := r.d0.getLsbD 16, part := part, ptbase := r.d6, latclass := Claim.bits r.d0 17 2, start := r.d7
      qcap := qcap, bars := bars, slots := slots, host := s.management, body := [r.d0, r.d1, r.d2, r.d3, r.d4, r.d5, r.d6, r.d7] }
    let x := s.ctxAt n
    let reside := exec (.reside n) s
    let stop := exec (.stopContext n) s
    (∀ a b l, reasons = a ++ b :: l → (∀ y ∈ a, ¬ y.1) → b.1 → define = Claim.turnedAway s 0 b.2) ∧
    ((∀ y ∈ reasons, ¬ y.1) → ∃ t, define = .next t ∧ t = { s with ctx := t.ctx, ctxs := t.ctxs } ∧
      ∀ j, t.ctxAt j = if j = ctx then fresh else s.ctxAt j) ∧
    -- RESIDE
    (s.ready = false → reside = Claim.turnedAway s 1 1) ∧
    (s.ready = true → x.defined = false ∨ x.ended = true → reside = Claim.dropped s) ∧
    (s.ready = true → x.defined = true → x.ended = false →
      let residents := s.allCtxs.countP fun c => c.2.resident && c.2.part == x.part
      (x.resident = true ∨ 64 ≤ residents → reside = .next s) ∧
      (x.resident = false → residents < 64 → x.started = true → reside = exec (.restore n) s) ∧
      (x.resident = false → residents < 64 → x.started = false → (∀ e ∈ s.owners, e.2 ≠ x.part) → reside = .next s) ∧
      (x.resident = false → residents < 64 → x.started = false → (s.owners.filter fun e => e.2 == x.part) = (slice, x.part) :: rest →
        let p := 256 * slice
        let free := (s.threadAt p).live = false ∧ (∃ q, Claim.idle (Claim.everyone s) p q = true) ∧ Claim.usable s n (fun _ => true) (p / 4) = true
        (¬ free → reside = .next s) ∧
        (free → ∃ (t : State) (q : BitVec 4), reside = .next t ∧ Claim.lowest (Claim.everyone s) p 1 q ∧
          (∀ j, t.threadAt j = if j = p then { ({} : Thread) with
            live := true, ctx := n, quarters := q, pc := x.start, level := true, lastStamp := (t.threadAt p).lastStamp } else s.threadAt j) ∧
          (∀ j, t.ctxAt j = if j = n then { x with resident := true, started := true } else s.ctxAt j) ∧
          ((t.coreAt (p / 4)).rowcap, (t.coreAt (p / 4)).tilecapZn, (t.coreAt (p / 4)).tilecapK, (t.coreAt (p / 4)).spcap) =
            ([(4, 1, 48, 0), (8, 2, 96, 4), (12, 4, 96, 8)] : List (Nat × Nat × Nat × Nat)).getD x.latclass (16, 4, 96, 8) ∧
          (x.det = true → kget 16 t.clocks x.part = 16) ∧ t.mem = s.mem ∧ t.ops = s.ops ∧ t.pipes = s.pipes))) ∧
    -- STOP
    (s.ready = false → stop = Claim.turnedAway s 3 1) ∧
    (s.ready = true → x.defined = false → stop = Claim.dropped s) ∧
    (s.ready = true → x.defined = true → x.ended = false → ∃ t u, stop = .next t ∧ u = { s with stamp := u.stamp, tick := u.tick } ∧ s.stamp < u.stamp ∧
      Claim.ended u t n cause.stopped 0 0 ∧ (t.ctxAt n).defined = false)

/-- What a thread's image holds (R394, R395): the thread as it stands, but for a wait that starts again, what it has fetched ahead and what its
queue has translated; with the accumulators where it held the tile unit. -/
def Claim.image (s : State) (p : Nat) : Thread :=
  let t := s.threadAt p
  let core := s.coreAt (p / 4)
  { t with
    wait := (match t.wait with | some w => if w.kind = .cwait then some w else none | none => none), ahead := []
    woken := t.woken || s.parks.any fun k => k.pos == p && k.woken
    queue := t.queue.map VEntry.anew
    tileSave := if core.tileOwner = some (p % 4) then core.z.toList else t.tileSave }

/-- The form in which the state is kept, which every step keeps: memory in its canonical form, each record of a list at its own number in rising
order, and every image a live thread. -/
def Claim.orderly (s : State) : Prop :=
  Memory.wf s.mem = true ∧ (s.threads.map fun e => e.1).Pairwise (· < ·) ∧ (s.cores.map fun e => e.1).Pairwise (· < ·) ∧
  (s.bays.map fun e => e.1).Pairwise (· < ·) ∧ (s.ctxs.map fun e => e.1).Pairwise (· < ·) ∧
  (∀ e ∈ s.ctx.images, e.2.live = true) ∧ ∀ c ∈ s.ctxs, ∀ e ∈ c.2.images, e.2.live = true

/-- PREEMPT, EVICT and RESTORE (R193, R205, R358, R394 to R397, R405), on some cores or on all: a context that is not resident, or has work there that must end first,
is left; otherwise, with nothing left to run on, each of its threads there becomes its image, its slots are idle, and in a bay that it loses its held rays park
and its blends in progress start over; it stays resident while it keeps a core of its partition. A restore puts every image back in its
slot, on as many of the lowest idle quarters of its core, sets EV, and a thread that held the tile unit waits for it; where one cannot stand, it changes nothing.
Where it rests on the model's own reading: assumptions 60, 69, 70, 102 of the log. -/
def Obligations.Preemption : Prop :=
  ∀ (n : Nat) (cores : Option (List Nat)) (s : State) (qs : List (BitVec 4)), Claim.orderly s →
    let x := s.ctxAt n
    let taken := fun (k : Nat) => ∀ l, cores = some l → k ∈ l
    let lost := fun (k : Nat) => k ∈ x.away ∨ taken k
    let left := ∃ e ∈ s.owners, e.2 = x.part ∧ ∃ j < 64, ¬ lost (64 * e.1 + j)
    let losesBay := fun (b : Nat) => x.holdsBay b = true ∧ ¬ (left ∧ ∃ k < 8, ¬ lost (8 * b + k))
    let mine := fun (p : Nat) => (s.threadAt p).live = true ∧ (s.threadAt p).ctx = n ∧ taken (p / 4)
    let preempt := (match cores with | none => exec (.preempt n) s | some l => step { s with sched := .preemptOn n l :: s.sched })
    let held := fun (o : EngineOp) => o.ctx = n ∧ o.kind = .rcast ∧ losesBay (o.home / 32)
    let busy := (∃ o ∈ s.ops, o.ctx = n ∧ taken (o.home / 4) ∧ s.scratchCopy o = true ∧ (o.phase = .queued ∨ o.phase = .running)) ∨
      ∃ o ∈ s.ops, held o ∧ ∃ r ∈ o.rays, r.status = 1 ∧ (r.inLeaf = true ∨ r.decision.isSome = true)
    let again := fun (o p : EngineOp) => (o.ctx = n ∧ losesBay (o.home / 32) ∧ o.kind = .blend ∧ (o.phase = .running ∨ o.phase = .written) →
        p = { o with phase := .queued, progress := 0, buf := [], shadow := [], parts := [], flags := 0 }) ∧
      (¬ (o.ctx = n ∧ losesBay (o.home / 32) ∧ o.kind = .blend ∧ (o.phase = .running ∨ o.phase = .written)) → p = o)
    let restore := exec (.restore n) s
    let usable := fun (k : Nat) => Claim.usable s n (fun _ => true) k && s.owners.any fun e => e.1 == k / 64 && e.2 == x.part
    (s.ready = true → x.defined = true → exec (.evict n) s = exec (.preempt n) s) ∧ (s.ready = false → exec (.evict n) s = Claim.turnedAway s 2 1) ∧
    (s.ready = true → x.defined = false → exec (.evict n) s = Claim.dropped s) ∧
    (x.resident = false ∨ busy → preempt = .next s) ∧
    (x.resident = true → ¬ busy → (∀ p, mine p → (s.threadAt p).posted = [] ∧ (s.threadAt p).scalars = [] ∧ (s.focus p).midGroup = false) →
      (∀ o ∈ s.ops, s.op o.id = some o) → ∃ t, preempt = .next t ∧
      ((t.ctxAt n).resident = true ↔ left) ∧ (∀ k ∈ t.parks, ¬ mine k.pos) ∧
      (left → ∀ k, k ∈ (t.ctxAt n).away ↔ k ∈ x.away ∨ ∃ l, cores = some l ∧ k ∈ l) ∧
      (∀ p, mine p → t.threadAt p = { ({} : Thread) with ctx := n } ∧ (t.coreAt (p / 4)).tileOwner ≠ some (p % 4)) ∧
      (∀ o ∈ t.ops, held o → ∀ r ∈ o.rays, r.status ≠ 1) ∧
      ((∀ o ∈ s.ops, held o → ∀ r ∈ o.rays, r.status ≠ 1) →
        (∀ p, mine p → kget {} (t.ctxAt n).images p = Claim.image s p) ∧ (∀ p, ¬ mine p → t.threadAt p = s.threadAt p) ∧
        t.mem = s.mem ∧ List.Forall₂ again s.ops t.ops ∧ t.pipes = s.pipes)) ∧
    (x.started = false ∨ (x.resident = true ∧ x.away = []) ∨ x.defined = false ∨ x.ended = true ∨
      (∀ l, ¬ Claim.returned usable x.images (Claim.everyone s) l) → restore = .next s) ∧
    (x.started = true → ¬ (x.resident = true ∧ x.away = []) → x.defined = true → x.ended = false →
      Claim.returned usable x.images (Claim.everyone s) qs → ∃ t, restore = .next t ∧
        (∀ e ∈ x.images.zip qs, t.threadAt e.1.1 = { e.1.2 with quarters := e.2, ev := true } ∧
          (e.1.2.tileSave ≠ [] → e.1.1 % 4 ∈ (t.coreAt (e.1.1 / 4)).tileWaiters)) ∧
        (∀ p, (∀ e ∈ x.images, e.1 ≠ p) → t.threadAt p = s.threadAt p) ∧ (x.det = true → kget 16 t.clocks x.part = 16) ∧
        (t.ctxAt n).resident = true ∧ (t.ctxAt n).images = [] ∧ (t.ctxAt n).away = [] ∧ t.mem = s.mem ∧ t.ops = s.ops)

/-- GRANT, RELEASE and SLICE_REASSIGN (R364, R365, R380, R381, R419, R455, R470): an extent is granted to a partition where it is free or shared and the total stays within 16 TiB; it
is released once no translated access of the partition is left, and the partition's translations go with it; a usable slice goes to another
partition while no context is resident on it, its memory, its cores' scratchpads, translations and accumulators cleared, its encode engine and display heads free. -/
def Claim.PartitionRequests : Prop :=
  ∀ (part base size slice : Nat) (shared : Bool) (owner : Option Nat) (s : State), Claim.orderly s →
    let x : Extent := { part := part, base := base, size := size, shared := shared }
    let grant := exec (.grant part base size shared) s
    let release := exec (.release_ part base size) s
    let reassign := exec (.sliceReassign slice owner) s
    let meets := fun (e : Extent) => e.base < base + size ∧ base < e.base + e.size
    let can := (∃ e ∈ s.owners, e.2 = part) ∧ size ≠ 0 ∧ base + size ≤ 2 ^ 60 ∧
      ((s.extents.filter fun e => e.part == part).map fun e => e.size).sum + size ≤ 2 ^ 44 ∧
      ∀ e ∈ s.extents, meets e → e.shared = true ∧ shared = true ∧ e.part ≠ part
    let has := ∃ e ∈ s.extents, e.part = part ∧ e.base = base ∧ e.size = size
    let mine := fun (n : Nat) => (s.ctxAt n).defined = true ∧ (s.ctxAt n).part = part
    let pending := ∃ e ∈ s.allThreads, e.2.live = true ∧ mine e.2.ctx ∧ (e.2.scalars ≠ [] ∨ ∃ o ∈ e.2.posted, o.elems ≠ [])
    (s.ready = false → grant = Claim.turnedAway s 4 1 ∧ release = Claim.turnedAway s 5 1 ∧ reassign = .next s) ∧
    (s.ready = true →
      (¬ can → grant = Claim.turnedAway s 4 11) ∧
      (can → ∃ t, grant = .next t ∧ t = { s with extents := s.extents ++ [x], stamp := t.stamp, tick := t.tick } ∧ s.stamp < t.stamp) ∧
      (¬ has → release = Claim.turnedAway s 5 11) ∧
      (has → pending → release = .next s) ∧
      (has → ¬ pending → ∃ t, release = .next t ∧ s.stamp < t.stamp ∧ t.mem = s.mem ∧
        t.extents = s.extents.filter (fun e => !(e.part == part && e.base == base && e.size == size)) ∧
        (∀ k, ∀ e, (e ∈ (t.coreAt k).tlb ↔ e ∈ (s.coreAt k).tlb ∧ ¬ mine e.ctx) ∧ (e ∈ (t.bayAt k).tlb ↔ e ∈ (s.bayAt k).tlb ∧ ¬ mine e.ctx)))) ∧
    (let old := (s.owners.find? fun e => e.1 == slice).map fun e => e.2
     let stays := 18 ≤ slice ∨ s.usableSlices.getLsbD slice = false ∨
       (∃ p, old = some p ∧ ∃ c ∈ s.allCtxs, c.2.resident = true ∧ c.2.part = p) ∨ ∃ p, owner = some p ∧ 18 ≤ p
     let cleared := fun (a : Nat) => 2 ^ 35 * slice ≤ a ∧ a < 2 ^ 35 * (slice + 1) ∨ 2 ^ 62 ≤ a ∧ (a - 2 ^ 62) / 2 ^ 21 % 1152 / 64 = slice
     (s.ready = true → stays → reassign = .next s) ∧
     (s.ready = true → ¬ stays → ∃ t, reassign = .next t ∧ s.stamp < t.stamp ∧ t.threads = s.threads ∧ t.t = s.t ∧
       (∀ k, ((t.owners.find? fun e => e.1 == k).map fun e => e.2) = if k = slice then owner else (s.owners.find? fun e => e.1 == k).map fun e => e.2) ∧
       (∀ a, Claim.byte t a = if cleared a then 0 else Claim.byte s a) ∧ (∀ l ∈ t.quar, ¬ cleared (128 * l)) ∧
       (∀ k, if k / 64 = slice then (t.coreAt k).tlb = [] ∧ (t.coreAt k).icache = [] ∧ (t.coreAt k).z = Vector.replicate 4 []
         else t.coreAt k = s.coreAt k) ∧
       (∀ u, t.unitAt u = if (if u < 18 then u else (u - 18) / 4) = slice then {} else s.unitAt u) ∧
       ∀ b, if b / 8 = slice then (t.bayAt b).tlb = [] else t.bayAt b = s.bayAt b))

/-- What a partition owns: slices with their engines and heads, and extents of the pool.
Where it rests on the model's own reading: assumptions 71, 100 of the log. -/
def Obligations.PartitionRequests : Prop :=
  Claim.PartitionRequests ∧ Claim.EncodeEnginesAndDisplayHeads

/-! ### Gangs -/

/-- Every member's acknowledgement is in (R422). -/
def Claim.allAcked (c : Context) : Prop := ∀ g, c.gang = some g → g.members ≤ g.acks.length

/-- Barrier b of a context as its gang barrier. -/
def Claim.gangBarrier (c : Context) (b : Nat) : Barrier := kget {} c.barriers (Claim.barrierKey 5 0 b)

/-- A gang barrier can be released (R335, R422): set, met by every thread of the member and by every other member, all acknowledged. -/
def Claim.gangReady (c : Context) (b : Nat) : Prop :=
  let x := Claim.gangBarrier c b
  x.level = 5 ∧ x.expect ≠ 0 ∧ x.arrived = x.expect ∧ Claim.allAcked c ∧
    ∀ g, c.gang = some g → ∀ m < g.members, m = c.pkgid ∨ (m, b) ∈ g.arrivals

/-- A gang context aborts (R390, R423): ABORT and FAIL are sent and the context ends with the gang-abort cause. -/
def Claim.aborted (s t : State) (n : Nat) (g : Gang) : Prop :=
  ∃ u, s.stamp < u.stamp ∧ u = { s with
      stamp := u.stamp, tick := u.tick, out := u.out
      reports := s.reports ++ [(Claim.headed u 4 4 n, .gangFailure n g.gangId ((List.range g.members).filter fun m => !g.acks.contains m))] } ∧
    Claim.sent s u n 0 4 3 .gangAbort ∧ Claim.ended u t n cause.gang 0 0 ∧ t.out = u.out

/-- The gang's events (R335, R401, R421 to R423): a launch sets PKGID, starts the member's pipeline and acknowledges; the last acknowledgement lets the delayed messages and barriers
go; the check aborts where one is missing, an ABORT does, and so does a gang message that is lost; an arrival of another member releases a barrier that every member has met;
a remote operation or a message that is lost ends in fault with message-destination.
Where it rests on the model's own reading: assumptions 72, 73 of the log. -/
def Obligations.GangEvents : Prop :=
  ∀ (n member b stamp op i : Nat) (q : GangRequest) (g : Gang) (s : State) (o : EngineOp) (m : Transit) (ph : Nat → Nat),
    let c := s.ctxAt n
    let takes := s.ready = true ∧ c.defined = true ∧ c.ended = false
    let quiet := fun (t : State) (c' : Context) => (∀ j, t.ctxAt j = if j = n then c' else s.ctxAt j) ∧ s.stamp < t.stamp ∧
      t = { s with ctx := t.ctx, ctxs := t.ctxs, stamp := t.stamp, tick := t.tick }
    -- the launch
    (let launch := exec (.gangLaunch n q) s
     let good := takes ∧ c.resident = true ∧ c.gang = none ∧ 1 ≤ q.members ∧ q.members ≤ 4096 ∧ q.position < q.members ∧ q.block.length = 6 ∧ q.endpoints.length = q.members
     (¬ good → launch = Claim.dropped s) ∧
     (good → ∃ t, launch = .next t ∧ (t.ctxAt n).pkgid = q.position ∧ (t.ctxAt n).gang =
         some { gangId := q.gangId, members := q.members, timeout := q.timeout, acks := [q.position], checked := false, arrivals := [], endpoints := q.endpoints } ∧
       (2 ≤ q.members → Claim.sent { t with out := s.out } t n 0 4 1 .gangAck ∧ t.mem = s.mem ∧ t.t = s.t ∧ ∃ x, t.ops = s.ops ++ [x] ∧ x.kind = .pipeline ∧
         x.words = q.block ∧ x.ctx = n ∧ x.issuer = nobody ∧ x.level = true ∧ x.phase = .queued))) ∧
    -- acknowledgements and the check
    (let ack := exec (.gangAck n member) s
     (¬ takes ∨ c.gang = none → ack = Claim.dropped s) ∧
     (takes → c.gang = some g →
       let more := { c with gang := some { g with acks := g.acks ++ [member] } }
       (g.checked = true ∨ member ∈ g.acks ∨ g.members ≤ member → ack = .next s) ∧
       (g.checked = false → member ∉ g.acks → member < g.members → g.acks.length + 1 < g.members → ∃ t, ack = .next t ∧ quiet t more) ∧
       (g.checked = false → member ∉ g.acks → member < g.members → g.members ≤ g.acks.length + 1 → (∀ o ∈ s.ops, s.op o.id = some o) →
         let waits := fun (o : EngineOp) => o.ctx == n && o.kind == .message && o.phase == .queued
         ∃ t, ack = .next t ∧ t.mem = s.mem ∧ s.stamp < t.stamp ∧
           (∃ l, t.out = s.out ++ l ∧ List.Forall₂ (fun (o : EngineOp) x => ∃ h : DerporHeader,
              x = .derpor h (.message (Claim.bits o.addr 0 12) o.id o.buf) ∧ h.ctx = n ∧ h.queue = BitVec.ofNat 4 (Claim.bits o.addr 12 4) ∧
              h.src = BitVec.ofNat 16 c.pkgid ∧ h.cls = 1 ∧ h.op = 0 ∧ h.reserved = 0 ∧ s.stamp < h.stamp ∧ h.stamp ≤ t.stamp) (s.ops.filter waits) l) ∧
           t.ops = s.ops.map (fun o => if waits o then { o with phase := .running } else o) ∧
           ∀ j < 32, let x := Claim.gangBarrier c j
             (Claim.gangReady more j → Claim.gangBarrier (t.ctxAt n) j = { x with arrived := 0, phase := x.phase + 1 }) ∧
             (¬ Claim.gangReady more j → Claim.gangBarrier (t.ctxAt n) j = x)))) ∧
    (let check := exec (.gangTimeoutCheck n) s
     (c.gang = none → check = .next s) ∧
     (c.gang = some g →
       (g.checked = true → check = .next s) ∧
       (g.checked = false → (∀ m < g.members, m ∈ g.acks) → ∃ t, check = .next t ∧ quiet t { c with gang := some { g with checked := true } }) ∧
       (g.checked = false → (∃ m < g.members, m ∉ g.acks) → ∃ t, check = .next t ∧ Claim.aborted s t n g) ∧
       ∃ t, exec (.gangAbort n) s = .next t ∧ exec (.deliveryFailure n .gangClass) s = .next t ∧ Claim.aborted s t n g) ∧
     (c.gang = none → exec (.gangAbort n) s = Claim.dropped s ∧ exec (.deliveryFailure n .gangClass) s = .next s)) ∧
    -- arrivals
    (let arrive := exec (.gangArrive n member b stamp) s
     (¬ takes ∨ c.gang = none → arrive = Claim.dropped s) ∧
     (takes → c.gang = some g →
       let more := { c with gang := some { g with arrivals := g.arrivals ++ [(member, b)] } }
       (g.members ≤ member ∨ 32 ≤ b → arrive = Claim.dropped s) ∧
       (member < g.members → b < 32 → ¬ Claim.gangReady more b → ∃ t, arrive = .next t ∧ quiet t more ∧ stamp < t.stamp) ∧
       (member < g.members → b < 32 → Claim.gangReady more b → ∃ t, arrive = .next t ∧ stamp < t.stamp ∧ s.stamp < t.stamp ∧ t.mem = s.mem ∧
         let x := Claim.gangBarrier c b
         Claim.gangBarrier (t.ctxAt n) b = { x with arrived := 0, phase := x.phase + 1 } ∧
         (∀ j < 32, j ≠ b → Claim.gangBarrier (t.ctxAt n) j = Claim.gangBarrier c j) ∧
         ∀ e ∈ t.allThreads, e.2.live = true → e.2.ctx = n → e.2.ev = true))) ∧
    -- what the transport loses
    (s.op op = some o →
      let member := if o.kind = .message then Claim.bits o.addr 0 12 else Claim.bits (o.words.getD 3 0) 16 12
      let away := (o.kind = .remoteWrite ∧ o.phase = .written ∨ o.kind = .remoteRead ∧ o.phase = .running ∧ o.progress = 1 ∨
        o.kind = .message ∧ o.phase = .running) ∧ member ≠ (s.ctxAt o.ctx).pkgid
      let lost := fun (out : Out) => ∃ t, out = .next t ∧ Claim.closes s t o 4 cause.destination 0 ∧ s.stamp < t.stamp ∧
        t.net = s.net.filter (fun x => x.op != o.id) ∧
        ∀ a, Claim.byte t a = Claim.blockWritten ph o (Claim.statusOf t.stamp cause.destination 4) (some 0) (Claim.byte s) a
      (o.ctx ≠ n ∨ ¬ away → exec (.deliveryFailure n (.operation op)) s = .next s) ∧
      (o.ctx = n → away → (∀ a, o.block = some a → ∀ e ∈ lineParts (a.toNat + 48) 16, s.checkPart o.agent .dest e.1 e.2 = .ok (ph e.1, s)) →
        lost (exec (.deliveryFailure n (.operation op)) s) ∧
        (s.net[i]? = some m → m.op = op → lost (exec (.deliveryFailure n (.message i)) s))))


/-! ### Power-up, health and repair -/

/-- A record of MRAM comes to a value by a write that may be cut: it reads as before, or as the value (R442, R444). -/
def Claim.oldOrNew {α : Type} (old new : Record α) (v : α) : Prop := new.read = old.read ∨ new.read = some v

/-- The records of MRAM (R444): boot takes the copy with the higher sequence number whose CRC holds; a completed write reads as what was written;
and a write that a loss of power cuts leaves the old record or the new one. -/
def Claim.MramRecords : Prop :=
  ∀ (r : Record RepairMap) (v : RepairMap) (first : Bool),
    (r.a.crc = 0 → (r.b.crc ≠ 0 ∨ r.b.seq ≤ r.a.seq) → r.read = some r.a.val) ∧
    (r.b.crc = 0 → (r.a.crc ≠ 0 ∨ r.a.seq < r.b.seq) → r.read = some r.b.val) ∧
    (r.a.crc ≠ 0 → r.b.crc ≠ 0 → r.read = none) ∧
    (r.write v).read = some v ∧ (r.write v).a = (r.write v).b ∧ r.a.seq < (r.write v).a.seq ∧ r.b.seq < (r.write v).a.seq ∧
    Claim.oldOrNew r (r.cut v first) v

/-- The MRAM of a die (R443): the identity is held on die 0 alone. -/
def Claim.mram (s : State) (d : Nat) : Mram := kget (α := Mram) (if d = 0 then { identity := .of (some {}) } else {}) s.mram d

/-- An image is signed by a public root of Benulty's (R445; assumption 8). -/
def Claim.imageSigned (root : List Byte) (i : MramImage) : Prop := i.signature.length = 18469 ∧ i.signer = some root

/-- A bank's image is accepted as firmware (R445). -/
def Claim.accepts (m : Mram) (i : MramImage) : Prop :=
  i.controlStore = none ∧ m.count.firmware ≤ i.version ∧ Claim.imageSigned m.cfg.firmwareRoot i

/-- A control-store image of mode k is accepted (R445). -/
def Claim.loads (m : Mram) (k : Nat) (i : MramImage) : Prop :=
  i.controlStore = some (BitVec.ofNat 2 k) ∧ m.count.control ≤ i.version ∧ Claim.imageSigned m.cfg.controlRoot i

/-- The image that a die boots: the higher accepted version, bank A on a tie (R445). -/
def Claim.boots (m : Mram) (r : Option MramImage) : Prop :=
  let bankA := m.bankA.read.getD none
  let bankB := m.bankB.read.getD none
  let good := fun (b : Option MramImage) => ∃ i, b = some i ∧ Claim.accepts m i
  (¬ good bankA → ¬ good bankB → r = none) ∧ (good bankA → ¬ good bankB → r = bankA) ∧ (¬ good bankA → good bankB → r = bankB) ∧
  ∀ a b, bankA = some a → bankB = some b → Claim.accepts m a → Claim.accepts m b → r = if a.version < b.version then some b else some a

/-- The package holds no context, runs no thread, and its memory reads zero (R439). -/
def Claim.blank (t : State) : Prop :=
  t.mem = [] ∧ (∀ n, (t.ctxAt n).defined = false) ∧ (∀ p, (t.threadAt p).live = false) ∧ t.ops = [] ∧ t.pipes = [] ∧ t.owners = [] ∧ t.extents = [] ∧
  t.stamp = 0 ∧ t.quar = [] ∧ t.telemetry = {} ∧ t.units = [] ∧ t.walks = [] ∧ t.net = []

/-- A package with power that stays short of READY (R442, R445): the dies that boot run what they have accepted, with their firmware counters raised; no other die boots. -/
def Claim.waitsForever (s t : State) (b : BringUp) : Prop :=
  t = { s with powered := true, mram := t.mram, booted := t.booted } ∧
  (∀ d i, b.dies.getLsbD d = true → Claim.boots (Claim.mram s d) (some i) → (t.bootOf d).image = some i ∧
    (Claim.mram t d).count.firmware = max (Claim.mram s d).count.firmware i.version) ∧
  ∀ d, b.dies.getLsbD d = false ∨ Claim.boots (Claim.mram s d) none → Claim.mram t d = Claim.mram s d ∧ (d < 9 → (t.bootOf d).image = none)

/-- POWER_ON, LOSS_OF_POWER and NEW_IMAGE_TO_INACTIVE_BANK (R439, R440, R442 to R445, R454, R455): a package whose power is on stays as it is; one whose die 0 boots no bank
stays in phase 2 and refuses with reason 2, and one whose die 0 is not usable never raises READY, while its other dies boot; otherwise the package is blank
and ready, running the accepted images, with the slices of booted dies that the spares suffice for, raised counters and the accepted control stores. A loss of power leaves
MRAM alone, but for a record that it cut, which reads as before or as it was to be written. A new image never replaces the running one.
Which of two failed cores of a group keeps its slice is the model's reading (assumption 124).
Where it rests on the model's own reading: assumptions 2, 8, 77, 103, 124 of the log. -/
def Obligations.PowerUpAndFirmware : Prop :=
  Claim.MramRecords ∧
  ∀ (b : BringUp) (die : Nat) (image : MramImage) (cut : Option MramCut) (boot : MramImage) (s : State),
    let mram := Claim.mram
    let on := exec (.powerOn b) s
    let lost := (match cut with | none => exec .lossOfPower s | some x => step { s with sched := .powerCut x :: s.sched })
    let new := exec (.newImageToInactiveBank die image) s
    let m := mram s 0
    let up := fun (d : Nat) => b.dies.getLsbD d = true ∧ ∃ i, Claim.boots (mram s d) (some i)
    (s.powered = true → on = .next s) ∧
    (s.powered = false → Claim.boots m none → ∃ t, Claim.waitsForever s t b ∧ on = Claim.turnedAway t 0 2) ∧
    (s.powered = false → Claim.boots m (some boot) → b.dies.getLsbD 0 = false → ∃ t, Claim.waitsForever s t b ∧ on = .next t) ∧
    (s.powered = false → Claim.boots m (some boot) → b.dies.getLsbD 0 = true → ∃ t, on = .next t ∧ Claim.blank t ∧ t.ready = true ∧ t.powered = true ∧
      t.usableEthernet = b.ethernet ∧ t.usableCxl = b.cxl ∧ (t.bootOf 0).image = some boot ∧ t.firmware = boot.version ∧
      t.reports = [(Claim.plainHead 0, .ready t.usableSlices.toNat b.ethernet.toNat b.cxl.toNat t.firmware)] ∧
      (∀ k < 3, k ∈ t.loadedModes ↔ ∃ i, (k, i) ∈ m.control.read.getD [] ∧ Claim.loads m k i) ∧
      (∀ c ∈ b.failedCores, .core c ∈ (mram t (c / 128)).map.repairs) ∧ (∀ d, ∀ r ∈ (mram s d).map.repairs, r ∈ (mram t d).map.repairs) ∧
      (∀ d l, b.calibration[d]? = some l → (mram t d).map.calibration = l) ∧
      (∀ d, ¬ up d → (mram t d).count = (mram s d).count) ∧
      (∀ d i, b.dies.getLsbD d = true → Claim.boots (mram s d) (some i) →
        (mram t d).count.firmware = max (mram s d).count.firmware i.version ∧ (mram s d).count.control ≤ (mram t d).count.control ∧
        ∀ k j, k < 3 → (k, j) ∈ (mram s d).control.read.getD [] → Claim.loads (mram s d) k j → (mram t d).count.control ≤ j.version) ∧
      (∀ k < 18, t.usableSlices.getLsbD k = true ↔ b.slices.getLsbD k = true ∧ up (k / 2) ∧
        ¬ ∃ d < 9, ∃ i j x y : Nat, i < j ∧ (((mram t d).map.repairs.filterMap fun r => match r with | .core c => some c | _ => none)[i]? = some x) ∧
          (((mram t d).map.repairs.filterMap fun r => match r with | .core c => some c | _ => none)[j]? = some y) ∧ x ≠ y ∧ x / 32 = y / 32 ∧ y / 64 = k)) ∧
    (∃ t, lost = .next t ∧ Claim.blank t ∧ t.ready = false ∧ t.powered = false ∧ t.reports = [] ∧ (cut = none → t.mram = s.mram) ∧
      ∀ x, cut = some x → (∀ d, d ≠ x.die → mram t d = mram s d) ∧
        let old := mram s x.die
        let now := mram t x.die
        (x.write = .signatureIndex → (x.die ≠ 0 → now = old) ∧ (x.die = 0 → now = { old with identity := now.identity } ∧
          Claim.oldOrNew old.identity now.identity (some { old.ident with next := old.ident.next + 1 }))) ∧
        (∀ c, x.write = .repair c → now = { old with repair := now.repair } ∧
          (.core c ∉ old.map.repairs → Claim.oldOrNew old.repair now.repair { old.map with repairs := old.map.repairs ++ [.core c] })) ∧
        (∀ i, x.write = .image i → i.controlStore = none →
          ((s.bootOf x.die).bankB = true → now = { old with bankA := now.bankA } ∧ Claim.oldOrNew old.bankA now.bankA (some i)) ∧
          ((s.bootOf x.die).bankB = false → now = { old with bankB := now.bankB } ∧ Claim.oldOrNew old.bankB now.bankB (some i)))) ∧
    (9 ≤ die ∨ s.powered = false → new = .next s) ∧
    (die < 9 → s.powered = true → ∃ t, new = .next t ∧ t = { s with mram := t.mram } ∧ (∀ d, d ≠ die → mram t d = mram s d) ∧
      let old := mram s die
      let now := mram t die
      (∀ k, image.controlStore = some k → now = { old with control := now.control } ∧ ∃ l, now.control.read = some l ∧
        ∀ j, (l.find? fun e => e.1 == j).map (fun e => e.2) =
          if j = k.toNat then some image else ((old.control.read.getD []).find? fun e => e.1 == j).map fun e => e.2) ∧
      (image.controlStore = none →
        ((s.bootOf die).bankB = true → now = { old with bankA := now.bankA } ∧ now.bankA.read = some (some image)) ∧
        ((s.bootOf die).bankB = false → now = { old with bankB := now.bankB } ∧ now.bankB.read = some (some image))))

/-- ATTESTATION_CHALLENGE (R403, R441, R446, R447): before READY it is refused, and one of no 32 bytes is dropped; with no index left it is refused; otherwise
the next index advances in MRAM, and the quote over the nonce, the identity root, the images that run, the counters, the usable slices and the context leaves with the
signature under the index before. -/
def Claim.AttestationQuotes : Prop :=
  ∀ (ctx : Nat) (nonce : List Byte) (s : State),
    let challenge := exec (.attestationChallenge nonce ctx) s
    let m := Claim.mram s 0
    (s.ready = false → challenge = Claim.turnedAway s 0 1) ∧
    (s.ready = true → nonce.length ≠ 32 → challenge = Claim.dropped s) ∧
    (s.ready = true → nonce.length = 32 → 2 ^ 40 ≤ m.ident.next → challenge = Claim.turnedAway s 0 3) ∧
    (s.ready = true → nonce.length = 32 → m.ident.next < 2 ^ 40 → ∃ (t : State) (body : List Byte), challenge = .next t ∧ s.stamp < t.stamp ∧
      t = { s with stamp := t.stamp, tick := t.tick, mram := t.mram, out := t.out } ∧
      Claim.sent s t ctx 0 5 1 (.quote body (Config.identitySign m.ident.seed m.ident.next (Config.shake256 body))) ∧
      Claim.mram t 0 = { m with identity := (Claim.mram t 0).identity } ∧
      (Claim.mram t 0).identity.read = some (some { m.ident with next := m.ident.next + 1 }) ∧ (∀ d, d ≠ 0 → Claim.mram t d = Claim.mram s d) ∧
      let hash := fun (i : Option MramImage) => Config.shake256 (match i with | some i => i.payload | none => [])
      let runs := s.bootOf 0
      let store := fun k => (runs.control.find? fun e => e.1 == k).map fun e => e.2
      let c := s.ctxAt ctx
      body = nonce ++ m.ident.root ++ hash runs.image ++ (hash (store 0) ++ hash (store 1) ++ hash (store 2)) ++
        (toBytes 4 s.firmware ++ toBytes 4 ((runs.control.map fun e => e.2.version).foldl max 0) ++ toBytes 4 m.count.firmware ++ toBytes 4 m.count.control) ++
        (toBytes 4 s.usableSlices.toNat ++ toBytes 4 c.part) ++
        (if c.defined then Config.shake256 (c.body.flatMap fun d => toBytes 8 d.toNat) else List.replicate 32 0) ++ toBytes 8 t.stamp)

/-- POWER_ON of a package without power whose die 0 is usable and boots a bank, LOSS_OF_POWER in any state, NEW_IMAGE_TO_INACTIVE_BANK of a die of a package with power, and
ATTESTATION_CHALLENGE of 32 bytes while the package is ready and an index is left, all have their own effect (R439, R442, R444 to R447). -/
def Claim.RegulatorEventsComplete : Prop :=
  ∀ (b : BringUp) (die ctx : Nat) (image i : MramImage) (nonce : List Byte) (s : State),
    (s.powered = false → Claim.boots (Claim.mram s 0) (some i) → b.dies.getLsbD 0 = true →
      ∃ t, exec (.powerOn b) s = .next t ∧ t.ready = true ∧ (t.bootOf 0).image = some i) ∧
    (∃ t, exec .lossOfPower s = .next t ∧ t.powered = false ∧ t.ready = false) ∧
    (die < 9 → s.powered = true → ∃ t, exec (.newImageToInactiveBank die image) s = .next t ∧
      (image.controlStore = none → (Claim.mram t die).bankA.read = some (some image) ∨ (Claim.mram t die).bankB.read = some (some image))) ∧
    (s.ready = true → nonce.length = 32 → (Claim.mram s 0).ident.next < 2 ^ 40 → ∃ t body signature,
      exec (.attestationChallenge nonce ctx) s = .next t ∧ Claim.sent s t ctx 0 5 1 (.quote body signature) ∧
        (Claim.mram t 0).ident.next = (Claim.mram s 0).ident.next + 1)

/-- An error of a kind of array counted (R458). -/
def Claim.errorCounted (k : ArrayKind) (n : Nat) (l : List (ArrayKind × Nat)) : List (ArrayKind × Nat) := l.map fun e => if e.1 = k then (k, e.2 + n) else e

/-- No queued scalar access touches a line (R107, R244). -/
def Claim.lineFree (s : State) (line : Nat) : Prop :=
  ∀ e ∈ s.allThreads, ∀ a ∈ e.2.scalars, ∀ p ∈ (a.pa, a.bytes) :: a.more, p.2 ≠ 0 → p.1 / 128 ≠ line

/-- A core that has met an uncorrectable error (R455): its errors of the last hour, with this one; the sixteenth puts it into the repair map. -/
def Claim.worn (s : State) (k : Nat) : CoreState :=
  { s.coreAt k with uncorrectable := s.seconds :: (s.coreAt k).uncorrectable.filter fun x => decide (s.seconds < x + 3600) }

/-- What an error of a core's array leaves of MRAM (R455). -/
def Claim.wears (s t : State) (k : Nat) : Prop :=
  (16 ≤ (Claim.worn s k).uncorrectable.length → .core k ∈ (Claim.mram t (k / 128)).map.repairs) ∧
  ((Claim.worn s k).uncorrectable.length < 16 → t.mram = s.mram)

/-- SOFT_ERROR, PATROL_SCRUB, QUARTER_POWER_GATE and CXL_HOST_WRITE (R55, R255, R420, R448, R450, R452, R453, R455, R458): flipped bits leave the line's check value behind; an uncorrectable line is unsound to its next
consumer, as is an entry of queue memory; an error in a core's registers ends the context with data-integrity, and the sixteenth of a core's arrays within an hour marks the core; a
cache drops the entry that failed; a record of MRAM loses one copy; a corrected error is only counted. A package without power meets none; an error on a line comes behind the queued
scalar accesses to it, so that here there are none (the model's reading: assumption 92). A patrol counts and logs what it finds and marks a row with four corrected errors. A quarter of a live thread stays powered. Another host's write of a shared line is one step. -/
def Claim.ErrorsAndScrubs : Prop :=
  ∀ (a n k l q i die row : Nat) (f : Byte) (kind : ArrayKind) (find : PatrolFind) (finds : List PatrolFind) (on : BitVec 4) (body : List Byte) (rec : MramRecord) (second fetch : Bool) (u : Upset)
    (s : State),
    let line := a / 128
    let error := fun (u : Upset) => exec (.softError u) s
    let bytes := fun (s : State) => (List.range 128).map fun i => Claim.byte s (128 * line + i)
    let counts := fun (k : ArrayKind) => { s.telemetry with uncorr := Claim.errorCounted k 1 s.telemetry.uncorr }
    (s.powered = false → error u = .next s) ∧
    (s.powered = true →
    (Claim.lineFree s line → ∃ t, error (.memory a f) = .next t ∧ (∀ b, Claim.byte t b = if b = a then Claim.byte s a ^^^ f else Claim.byte s b) ∧
      (∀ j, sget (w := 32) t.chk j = if j = line then sget (w := 32) s.chk j ^^^ crc32c (bytes s) ^^^ crc32c (bytes t) else sget (w := 32) s.chk j) ∧
      t = { s with mem := t.mem, chk := t.chk }) ∧
    (∀ core, Claim.lineFree s l → ∃ t, error (.uncorrectableLine kind l core) = .next t ∧ t.lineOk l = false ∧
      (∀ j, j ≠ l → sget (w := 32) t.chk j = sget (w := 32) s.chk j) ∧
      t = { s with chk := t.chk, telemetry := counts kind, core := t.core, cores := t.cores, mram := t.mram } ∧
      (∀ j, t.coreAt j = if core = some j then Claim.worn s j else s.coreAt j) ∧ (core = none → t.mram = s.mram) ∧ ∀ c, core = some c → Claim.wears s t c) ∧
    (∀ x, ((s.ctxAt n).queue q)[i]? = some x → ∃ t, error (.message n q i) = .next t ∧ t = { s with ctx := t.ctx, ctxs := t.ctxs, telemetry := counts .sram } ∧
      ((t.ctxAt n).queue q)[i]? = some { x with check := 0xFFFFFFFF } ∧ ∀ j, j ≠ i → ((t.ctxAt n).queue q)[j]? = ((s.ctxAt n).queue q)[j]?) ∧
    (∀ p x, s.pipeOf l k = some p → (p.queue q)[i]? = some x → ∃ t p', error (.stageRecord l k q i) = .next t ∧
      t = { s with pipes := t.pipes, telemetry := counts .sram } ∧ t.pipeOf l k = some p' ∧
      (p'.queue q)[i]? = some { x with check := 0xFFFFFFFF } ∧ ∀ j, j ≠ i → (p'.queue q)[j]? = (p.queue q)[j]?) ∧
    (∃ t, error (.register n k) = .next t ∧ (t.coreAt k).uncorrectable = (Claim.worn s k).uncorrectable ∧ t.telemetry = counts .core ∧ Claim.wears s t k ∧
      ((s.ctxAt n).defined = true → (s.ctxAt n).ended = false → ∃ u, Claim.ended u t n cause.integrity 0 0 ∧ u.mem = s.mem ∧ u.reports = s.reports ∧ (s.ready = true → s.stamp < u.stamp)) ∧
      ((s.ctxAt n).defined = false ∨ (s.ctxAt n).ended = true → t.t = s.t ∧ t.mem = s.mem ∧ t.reports = s.reports ∧ ∀ j, t.ctxAt j = s.ctxAt j)) ∧
    (∃ t, error (.cache k fetch i) = .next t ∧ t.telemetry = counts .cache ∧ Claim.wears s t k ∧
      t = { s with core := t.core, cores := t.cores, telemetry := t.telemetry, mram := t.mram } ∧
      ∀ j, t.coreAt j = if j = k then (if fetch then { Claim.worn s k with icache := (s.coreAt k).icache.eraseIdx i }
        else { Claim.worn s k with tlb := (s.coreAt k).tlb.eraseIdx i }) else s.coreAt j) ∧
    (∃ t, error (.bayCache k i) = .next t ∧ t.telemetry = counts .cache ∧ t = { s with bay := t.bay, bays := t.bays, telemetry := t.telemetry } ∧
      ∀ j, t.bayAt j = if j = k then { s.bayAt k with tlb := (s.bayAt k).tlb.eraseIdx i } else s.bayAt j) ∧
    (∃ t, error (.mram die rec second) = .next t ∧ t = { s with mram := t.mram, telemetry := counts .mram } ∧ (∀ d, d ≠ die → Claim.mram t d = Claim.mram s d) ∧
      (rec = .repair → let r := (Claim.mram s die).repair
        Claim.mram t die = { Claim.mram s die with repair := (Claim.mram t die).repair } ∧
        (second = true → (Claim.mram t die).repair.a = r.a ∧ (Claim.mram t die).repair.b.crc ≠ 0) ∧
        (second = false → (Claim.mram t die).repair.b = r.b ∧ (Claim.mram t die).repair.a.crc ≠ 0))) ∧
    error (.corrected kind) = .next { s with telemetry := { s.telemetry with corr := Claim.errorCounted kind 1 s.telemetry.corr } }) ∧
    -- the patrol
    exec (.patrolScrub die []) s = .next s ∧
    ((∀ l, find = .uncorrectable l → Claim.lineFree s l) → ∃ t, exec (.patrolScrub die [find]) s = .next t ∧ exec (.patrolScrub die (find :: finds)) s = exec (.patrolScrub die finds) t ∧
      t = { s with mram := t.mram, chk := t.chk, telemetry := t.telemetry } ∧
      (find = .uncorrectable l → t.telemetry = counts .stack ∧ t.lineOk l = false ∧ .patrol l s.stamp ∈ (Claim.mram t die).log) ∧
      (find = .correctedRow row n → t.chk = s.chk ∧ t.telemetry = { s.telemetry with corr := Claim.errorCounted .stack n s.telemetry.corr } ∧
        (4 ≤ n → .row die row ∈ (Claim.mram t die).map.repairs) ∧ (n < 4 → t.mram = s.mram))) ∧
    -- lanes
    (∃ t, exec (.quarterPowerGate k on) s = .next t ∧ t = { s with core := t.core, cores := t.cores } ∧ (∀ j, j ≠ k → t.coreAt j = s.coreAt j) ∧
      t.coreAt k = { s.coreAt k with lanecap := (t.coreAt k).lanecap } ∧
      ∀ q < 4, (t.coreAt k).lanecap.getLsbD q = true ↔ on.getLsbD q = true ∨
        ∃ e ∈ s.allThreads, e.2.live = true ∧ e.1 / 4 = k ∧ e.2.quarters.getLsbD q = true) ∧
    -- other hosts
    (let write := exec (.cxlHostWrite a body) s
     let shared := (∃ e ∈ s.extents, e.shared = true ∧ e.base ≤ a ∧ a + body.length ≤ e.base + e.size) ∧ a % 128 + body.length ≤ 128
     (¬ shared → write = .next s) ∧
     (shared → ∃ t, write = .next t ∧ s.stamp < t.stamp ∧ (∀ b, Claim.byte t b = Claim.put (Claim.byte s) (2 ^ 60 + a) body b) ∧
       t = { s with mem := t.mem, parks := t.parks, chk := t.chk, quar := t.quar, stamp := t.stamp, tick := t.tick }))

/-- Lines of the pool (R417, R418, R449, R450): a poisoned response leaves a line of the pool that does not match; a line that leaves for the pool without matching is
quarantined the first time and is sent with poison, to the port that its decoder gives; a decoder is programmed within the limits of R418. -/
def Claim.PoolLines : Prop :=
  ∀ (line ctx k : Nat) (va : DWord) (d : HdmDecoder) (s : State),
    let a := 128 * line - 2 ^ 60
    let inside := fun (e : HdmDecoder) => e.base ≤ a ∧ a < e.base + e.size
    let ok := d.base % 2 ^ 28 = 0 ∧ d.size % 2 ^ 28 = 0 ∧ d.ways ∈ [1, 2, 4, 8] ∧ d.granularity ∈ [256, 1024, 4096, 16384] ∧ d.ports.length = d.ways ∧ ∀ p ∈ d.ports, p < 8
    (2 ^ 60 ≤ 128 * line → Claim.lineFree s line → (s.poisoned line).lineOk line = false ∧ s.poisoned line = { s with chk := (s.poisoned line).chk }) ∧
    (128 * line < 2 ^ 60 ∨ s.lineOk line = true → s.poolWrite line ctx va = s) ∧
    (2 ^ 60 ≤ 128 * line → s.lineOk line = false → let t := s.poolWrite line ctx va
      line ∈ t.quar ∧ t.mem = s.mem ∧ (line ∈ s.quar → t = { s with out := t.out }) ∧
      (line ∉ s.quar → s.stamp < t.stamp ∧ (Claim.headed t 0 6 ctx, .integrity ctx 9 (va.toNat / 128 * 128) (128 * line)) ∈ t.reports) ∧
      (∀ l e r, s.hdm = l ++ e :: r → (∀ x ∈ l, ¬ inside x.2) → inside e.2 →
        t.out = s.out ++ [.cxlPoison (e.2.ports.getD ((a - e.2.base) / e.2.granularity % e.2.ways) 0) line])) ∧
    (k < 16 → ok → ∃ t, s.programHdm k d = t ∧ t = { s with hdm := t.hdm } ∧ ∀ j, kget d t.hdm j = if j = k then d else kget d s.hdm j) ∧
    (16 ≤ k ∨ ¬ ok → s.programHdm k d = s)

/-- Errors of memory and logic, and lines of the pool.
Where it rests on the model's own reading: assumptions 74, 79, 92 of the log. -/
def Obligations.HealthEvents : Prop :=
  Claim.ErrorsAndScrubs ∧ Claim.PoolLines

/-- A resident deterministic context that has not ended. -/
def Claim.detResident (c : Context) : Prop := c.resident = true ∧ c.det = true ∧ c.ended = false

/-- A partition's clock in sixteenths of 1 GHz. -/
def Claim.clock (s : State) (p : Nat) : Nat := kget 16 s.clocks p

/-- Some contexts end with a cause and a value at one step, and no other context changes (R390). -/
def Claim.allEnd (s t : State) (which : Context → Prop) (c : Cause) (v : DWord) : Prop :=
  (∀ n, which (s.ctxAt n) → (t.ctxAt n).ended = true ∧ (t.ctxAt n).resident = false ∧ ∃ time r, r ∈ t.reports ∧ r.2 = .ended n c 0 v time) ∧
  (∀ n, ¬ which (s.ctxAt n) → t.ctxAt n = s.ctxAt n) ∧ t.mem = s.mem ∧
  ∀ p, let x := s.threadAt p
    (x.live = true → which (s.ctxAt x.ctx) → t.threadAt p = { ({} : Thread) with ctx := x.ctx }) ∧
    (x.live = false ∨ ¬ which (s.ctxAt x.ctx) → t.threadAt p = x)

/-- POWER_SAMPLE, THERMAL_EVENT, THERMAL_RESTART and TELEMETRY_REPORT (R438, R456 to R458): over the limit every resident deterministic context ends with power-limit, and the hottest partitions
without one lose a sixteenth of their clock, down to 250 MHz; after 20 samples below 90 % the clocks rise. A junction above its die's first limit (95 °C by default) does so for its bay's partition; above the
stop limit (105 °C), or an inlet above its own (50 °C), every context ends with stopped and no thread takes words until every junction is below the restart limit (85 °C).
Where it rests on the model's own reading: assumptions 75, 78, 117 of the log. -/
def Obligations.PowerAndTemperature : Prop :=
  ∀ (watts : Nat) (hot : List Nat) (r : ThermalReading) (s : State), Claim.orderly s → hot.Nodup →
    let sample := exec (.powerSample watts hot) s
    let limit := (Claim.mram s 0).cfg.powerLimit
    let holds := fun (p : Nat) => ∃ c ∈ s.allCtxs, c.2.resident = true ∧ c.2.det = true ∧ c.2.part = p
    let slower := fun (t : State) (which : Nat → Prop) => ∀ p, (which p → ¬ holds p → Claim.clock t p = max 4 (Claim.clock s p - 1)) ∧
      (¬ which p ∨ holds p → Claim.clock t p = Claim.clock s p)
    let thermal := exec (.thermalEvent r) s
    let bay := 16 * r.die + r.bay
    let cfg := (Claim.mram s r.die).cfg
    let stops := s.powered = true ∧ if r.inlet then cfg.stopInlet < r.tenths else cfg.stopJunction < r.tenths
    (∃ t, sample = .next t ∧ t.telemetry.power = watts ∧
      t.telemetry.throttle = s.telemetry.throttle + (if t.clocks.any (fun e => decide (e.2 < 16)) then 1 else 0) ∧
      (limit < watts → t.calm = 0 ∧ slower t (fun p => p ∈ hot) ∧ Claim.allEnd s t Claim.detResident cause.power (BitVec.ofNat 64 watts)) ∧
      (watts ≤ limit → t = { s with telemetry := t.telemetry, clocks := t.clocks, calm := t.calm } ∧
        (9 * limit ≤ 10 * watts → t.calm = 0 ∧ t.clocks = s.clocks) ∧
        (10 * watts < 9 * limit → s.calm < 19 → t.calm = s.calm + 1 ∧ t.clocks = s.clocks) ∧
        (10 * watts < 9 * limit → 19 ≤ s.calm → t.calm = 0 ∧ ∀ p, Claim.clock s p ≤ 16 → Claim.clock t p = min 16 (Claim.clock s p + 1)))) ∧
    (∃ t, thermal = .next t ∧
      (r.inlet = true → t.telemetry.inlet = (t.inlets.map fun e => e.2).foldl max 0 ∧ (∀ b, (t.bayAt b).tenths = (s.bayAt b).tenths) ∧
        ∀ d, kget 0 t.inlets d = if d = r.die then r.tenths else kget 0 s.inlets d) ∧
      (r.inlet = false → (t.bayAt bay).tenths = r.tenths ∧ (∀ b, b ≠ bay → (t.bayAt b).tenths = (s.bayAt b).tenths) ∧
        t.telemetry.junction = ((List.range 144).map fun b => (t.bayAt b).tenths).foldl max 0) ∧
      (stops → t.stopped = true ∧ Claim.allEnd s t (fun c => c.defined = true ∧ c.ended = false) cause.stopped 0 ∧
        (Claim.plainHead t.stamp, .thermalStop r.inlet r.die r.bay r.tenths) ∈ t.reports ∧ ∃ n, .thermal r.inlet r.die r.bay r.tenths n ∈ (Claim.mram t r.die).log) ∧
      (¬ stops → t.stopped = s.stopped ∧
        (s.powered = true → r.inlet = false → cfg.hotJunction < r.tenths → Claim.allEnd s t Claim.detResident cause.power (BitVec.ofNat 64 s.telemetry.power) ∧
          slower t (fun p => ((s.owners.find? fun e => e.1 == bay / 8).map fun e => e.2) = some p)) ∧
        (s.powered = false ∨ r.inlet = true ∨ r.tenths ≤ cfg.hotJunction →
          t = { s with bay := t.bay, bays := t.bays, telemetry := t.telemetry, inlets := t.inlets }))) ∧
    ((∀ b < 144, (s.bayAt b).tenths < (Claim.mram s 0).cfg.restartJunction) → exec .thermalRestart s = .next { s with stopped := false }) ∧
    ((∃ b < 144, (Claim.mram s 0).cfg.restartJunction ≤ (s.bayAt b).tenths) → exec .thermalRestart s = .next s) ∧
    (s.stopped = true → ∀ p, (s.focus p).mayRun = false) ∧
    (s.ready = false → exec .telemetryReport s = .next s) ∧
    (s.ready = true → let t := s.telemetry
      exec .telemetryReport s = .next { s with seconds := s.seconds + 1, reports := s.reports ++ [(Claim.plainHead s.stamp, .telemetry
        (([t.drops, t.faultpass, t.absent] ++ (t.corr ++ t.uncorr).map (fun e => e.2) ++ [t.quar, t.notice, t.throttle, t.power, t.junction, t.inlet,
          (s.mram.map fun e => e.2.map.repairs.length).sum]).map fun n => n % 2 ^ 64))] })


/-! ### The vector side as the machine moves it -/

/-- A queue without its head. -/
def Claim.headGone (s : State) : State := { s with t := { s.t with queue := s.t.queue.drop 1 } }

/-- The state `z` with the entry of the head freed, and the scalar word that it held completed (R193, R220). -/
def Claim.headDone (e : VEntry) (z : State) : State :=
  if Claim.holds e.instr ∧ z.t.pc = e.addr then (Claim.arrived (Claim.headGone z)).advance else Claim.arrived (Claim.headGone z)

/-- What a try of the head of a queue leaves (R220, R222, R223, R385): a word that commits frees its entry, and the scalar word that it held completes; one that
stops on its way, or has to wait, keeps its place with how far it has come; one that meets a cause is trapped, its entry kept, its address saved and the scalar
stream's beside it, once the earlier scalar accesses have been performed. No fault group is asked for. -/
def Claim.headMoves (e : VEntry) (y : State) (r : VRes) (ends : State → Prop) : Prop :=
  let keeps := fun (e : VEntry) (s : State) => ({ s with t := { s.t with queue := e :: s.t.queue.drop 1 } } : State)
  let trap := fun (s : State) (c : Cause) (v : DWord) (lane : Option (Nat × DWord)) =>
    s.takeTrap { cause := c, val := v, pc := e.addr, spc := s.t.pc, vside := true, lane := lane, group := false }
  (∀ z, r = .commit z → ends (Claim.headDone e z)) ∧
  (∀ e' z, r = .progress e' z ∨ r = .blocked e' z → ends (keeps e' z)) ∧
  (∀ e' c v lane store spans z, r = .trap e' c v lane store spans z →
    (y.t.scalars = [] → e'.addr = e.addr → z.t.fgbase = 0 → ends (trap (keeps e' z) c v lane)) ∧ (y.t.scalars ≠ [] → ends y.flushScalars)) ∧
  (∀ c v z, r = .commitTrap c v z →
    (y.t.scalars = [] → ends (trap (Claim.headDone e z) c v none)) ∧ (y.t.scalars ≠ [] → ends y.flushScalars))

/-- What a word that waits for admission waits for (R52, R145): a permute, a reduction, or a vector store waits for the words before it that write what it reads; any word
for a load before it that writes a register or a predicate that it reads; an element-wise word for no other element-wise word. The VL and VTYPE that it finds are those of the latest
VSETVL queued before it (R48, R113). -/
def Claim.Awaited : Prop :=
  ∀ (t : Thread) (rowcap : Nat) (x z : VEntry) (p q : PReg) (a b c d r : VReg) (rs rd : Reg) (f : Form) (w : EW),
    (∀ l, configured t [] = t ∧ (z.instr = .vsetvl rs r rd ∨ z.instr = .vadd p .vv a b d →
      configured t (l ++ [z]) = if z.instr = .vsetvl rs r rd then { configured t l with vl := z.a.setWidth 14, vtype := z.b } else configured t l)) ∧
    (z.instr = .vldP r p → x.instr = .vadd p .vv a b d ∨ x.instr = .pand q q p q → awaits t rowcap x z = true) ∧
    (z.instr = .vadd p .vv a b d → x.instr = .vcompress q d c → awaits t rowcap x z = true) ∧
    (z.instr = .vadd p .vv a b d → x.instr = .vslideup q f d r c → awaits t rowcap x z = true) ∧
    (z.instr = .vadd p .vv a b d → x.instr = .vredmin q .vv d r c → awaits t rowcap x z = true) ∧
    (z.instr = .vadd p .vv a b d → x.instr = .vst q r w d → awaits t rowcap x z = true) ∧
    (z.instr = .vld p r w d → x.instr = .vadd q .vv a d c → awaits t rowcap x z = true) ∧
    (z.instr = .vld p r w d → x.instr = .vadd q .vv a b c → a ≠ d → b ≠ d → awaits t rowcap x z = false) ∧
    (∀ a' b' d', z.instr = .vadd p .vv a b d → x.instr = .vadd q .vv a' b' d' → awaits t rowcap x z = false)

/-- VECTOR_ADMIT, VECTOR_COMMIT, VECTOR_ELEMENT_STEP, POST_STEP, LANE_GROUP_ISSUE, TOPAS_READ and TILE_ACQUIRE (R50 to R52, R145, R157, R193, R205, R220, R223, R228, R385, R435): the oldest entry that has no
escapement slot takes one where fewer than four are taken and the words that it waits for have committed; the admitted head goes to its end, or by one element group; a VBLK
by one group of lanes issued, or a step of the group that runs; a TOPAS through its read, a MODET to the unit. In a handler nothing moves, and nothing where the context's failed segment
runs again. An addition at the head writes its active elements and no others. -/
def Claim.VectorSideSteps : Prop :=
  ∀ (pos : Nat) (s : State) (e : VEntry) (r : List VEntry), pos < slotCount →
    let y := s.focus pos
    let ends := fun (i : Instr) (t : State) => exec i s = .next (t.focus s.pos)
    let posting := fun (i : Instr) => match i with | .vscadd _ _ _ _ _ | .vstc _ _ _ _ | .hst _ _ _ | .hstTry _ _ _ _ => True | _ => False
    let vblk := fun (i : Instr) => ∃ imm r, i = .vblk imm r
    let topas := fun (i : Instr) => ∃ a b c d z, i = .topas a b c d z
    let tile := fun (i : Instr) => (∃ q, i = .modet q) ∨ tileOnly i = true
    let i := e.instr
    let events : List (Instr × Option Nat × Prop) := [
      (.vectorCommit pos, none, e.admitted = true),
      (.vectorElementStep pos, some 1, e.admitted = true ∧ ¬ topas i ∧ (vblk i → e.group.isSome = true)),
      (.postStep pos, none, e.admitted = true ∧ posting i), (.laneGroupIssue pos, some 1, vblk i ∧ e.group = none), (.topasRead pos, none, topas i),
      (.tileAcquire pos, none, tile i)]
    (y.t.queue = [] ∨ y.t.inTrap = true ∨ y.mayRun = false → ends (.vectorAdmit pos) y ∧ ∀ v ∈ events, ends v.1 y) ∧
    (y.mayRun = true → y.t.queue = e :: r → y.t.inTrap = false → y.t.tileSave = [] →
      ∀ v ∈ events, (v.2.2 → Claim.headMoves e y (entryRun v.2.1 e y) (ends v.1)) ∧ (¬ v.2.2 → ends v.1 y)) ∧
    (∀ l m x, y.mayRun = true → y.t.queue = l ++ x :: m → y.t.inTrap = false → (∀ z ∈ l, z.admitted = true) → x.admitted = false →
      let free := l.length < 4 ∧ ∀ z ∈ l, awaits (configured y.t l) y.core.rowcap x z = false
      (free → ends (.vectorAdmit pos) { y with t := { y.t with queue := l ++ { x with admitted := true } :: m } }) ∧
      (¬ free → ends (.vectorAdmit pos) y)) ∧
    (∀ p vs2 s1 vd, y.mayRun = true → y.t.queue = e :: r → y.t.inTrap = false → y.t.tileSave = [] → e.admitted = true → e.prog = 0 →
      i = .vadd p .vv vs2 s1 vd → e.chain = none → vtIll y.t.vtype = false → vtFmt y.t.vtype ≤ 1 → 0 < y.t.lanes → y.t.vl.toNat ≤ 128 * y.t.lanes → y.t.vl ≠ 0 →
      let w := vtSew y.t.vtype
      ∃ t, ends (.vectorCommit pos) (Claim.arrived t) ∧ (∀ k, t.t.elem vd.toNat w k =
          if Claim.active y p k then (y.t.elem vs2.toNat w k + y.t.elem s1.toNat w k) % 2 ^ w else y.t.elem vd.toNat w k) ∧
        (∀ q, q ≠ vd → t.t.readV q = y.t.readV q) ∧
        t = { y with t := { y.t with queue := r, v := t.t.v, tags := t.t.tags, fflags := y.t.fflags ||| e.flags } })

/-- POSTED_ELEMENT_STEP (R157 to R160, R240, R283, R425, R450): an element of the posted set that no copy holds is performed at one step: an addition to what memory holds, rounded once where it is of
floating point, or a store; an element on a bad line is dropped; the last of an operation delivers its flags. In a deterministic context only the first
may be performed. -/
def Claim.PostedElements : Prop :=
  ∀ (pos j k : Nat) (s : State) (o : PostedOp) (x : PostedElem), pos < slotCount →
    let y := s.focus pos
    let step := exec (.postedElementStep pos j k) s
    let old := ofBytes ((List.range o.bytes).map fun i => Claim.byte y (x.pa + i))
    let f := if o.bf16 then bf16 else if o.bytes = 2 then f16 else if o.bytes = 4 then f32 else f64
    let sum : Nat × Flags := if o.kind = .addInt then (old + x.val.toNat, 0)
      else if o.kind = .addFloat then Claim.sum f o.frm o.flush (f.read o.flush old) (f.read o.flush x.val.toNat) else (x.val.toNat, 0)
    let left := o.elems.eraseIdx k
    (y.ctx.det = true → j ≠ 0 ∨ k ≠ 0 → step = .next (y.focus s.pos)) ∧
    (y.mayRun = false → step = .next (y.focus s.pos)) ∧
    (y.t.posted[j]? = none → step = .next (y.focus s.pos)) ∧
    (y.mayRun = true → y.ctx.det = false ∨ j = 0 ∧ k = 0 → y.t.posted[j]? = some o → o.elems[k]? = some x → o.kind ≠ .handle →
      (y.held y.agent x.pa o.bytes = true → step = .next (y.focus s.pos)) ∧
      (y.held y.agent x.pa o.bytes = false → Claim.noSegment y → (∀ p ∈ y.t.posted, ∀ q ∈ y.t.posted, p.id = q.id → p = q) →
        (∀ e ∈ y.ctx.images, e.1 ≠ y.pos) →
        ∃ t, step = .next (t.focus s.pos) ∧ y.stamp < t.stamp ∧
          t.t.posted = (if left = [] then y.t.posted.filter fun p => p.id != o.id else y.t.posted.map fun p => if p.id = o.id then
            { p with elems := left, flags := o.flags ||| (if y.lineOk (x.pa / 128) then sum.2 else 0) } else p) ∧
          t.t.fflags = (if left = [] then y.t.fflags ||| (o.flags ||| (if y.lineOk (x.pa / 128) then sum.2 else 0)) else y.t.fflags) ∧
          t.t.v = y.t.v ∧ t.t.x = y.t.x ∧ t.t.pc = y.t.pc ∧
          (y.lineOk (x.pa / 128) = true → ∀ a, Claim.byte t a = Claim.put (Claim.byte y) x.pa (toBytes o.bytes sum.1) a) ∧
          (y.lineOk (x.pa / 128) = false → t.mem = y.mem ∧ x.pa / 128 ∈ t.quar)))

/-- The steps of a slot that are no events of the table (R52, R107, R221, R238, R240, R376, R377, R435): the head of the scalar access queue performed; an element group of an admitted
word that the words before it lead by a group; a walk begun, or joined, and its next table read; and a line of instructions copied into the core's cache before any fetch of it. -/
def Claim.ScheduleSteps : Prop :=
  ∀ (p k va : Nat) (s : State) (r : List Action), p < slotCount →
    let y := ({ s with sched := r } : State).focus p
    let ends := fun (a : Action) (t : State) => s.sched = a :: r → step s = .next (t.focus s.pos)
    (y.mayRun = false → ends (.scalar p) y ∧ ends (.ahead p k) y ∧ ends (.walkStart p va) y ∧ ends (.fetchLine p va) y) ∧
    (y.mayRun = true → (y.t.scalars = [] → ends (.scalar p) y) ∧ ∀ a l, y.t.scalars = a :: l →
      (a.bytes ≠ 0 → y.held y.agent a.pa a.bytes = true ∨ y.lineOk (a.pa / 128) = false → ends (.scalar p) y) ∧
      (y.held y.agent a.pa a.bytes = false → y.lineOk (a.pa / 128) = true → a.more = [] → (∀ d r, a.kind ≠ .resume d r) →
        ends (.scalar p) (({ y with t := { y.t with scalars := l } } : State).performScalar a))) ∧
    (∀ (q q' : PReg) (a b c a' b' c' : VReg) (d e : VEntry) (l : List VEntry), y.mayRun = true → y.t.inTrap = false → y.t.tileSave = [] → y.t.queue = d :: e :: l →
      d.instr = .vadd q .vv a b c → e.instr = .vadd q' .vv a' b' c' → d.admitted = true → e.admitted = true → d.chain = none → e.chain = none →
      vtIll y.t.vtype = false → vtFmt y.t.vtype ≤ 1 → 0 < y.t.lanes → y.t.vl.toNat ≤ 128 * y.t.lanes →
      let w := vtSew y.t.vtype
      let g := if w = 64 then 2 * y.t.lanes else 4 * y.t.lanes * (32 / w)
      (d.prog < e.prog + g → d.prog < y.t.vl.toNat → ends (.ahead p 1) y) ∧
      (e.prog + g ≤ d.prog ∨ y.t.vl.toNat ≤ d.prog → ∃ t, ends (.ahead p 1) t ∧
        (∀ j, t.t.elem c'.toNat w j = if e.prog ≤ j ∧ j < e.prog + g ∧ Claim.active y q' j = true then (y.t.elem a'.toNat w j + y.t.elem b'.toNat w j) % 2 ^ w
          else y.t.elem c'.toNat w j) ∧ (∀ v, v ≠ c' → t.t.readV v = y.t.readV v) ∧
        t = { y with t := { y.t with queue := d :: { e with prog := min (e.prog + g) y.t.vl.toNat } :: l, v := t.t.v, tags := t.t.tags } })) ∧
    (let die := bayOf p / 16
     let same := fun (x : WalkRec) => x.die = die ∧ x.ctx = y.t.ctx ∧ x.page = va / 2 ^ 16
     y.mayRun = true → y.t.live = true → va < 2 ^ 48 →
      ((∀ x ∈ y.walks, ¬ same x) → (y.walks.filter fun x => x.die == die).length < 64 → ends (.walkStart p va) { y with
        walks := y.walks ++ [{ die := die, ctx := y.t.ctx, page := va / 2 ^ 16, level := 4, table := Claim.bits y.ctx.ptbase 12 48 * 4096, bays := [bayOf p], va := va }] }) ∧
      ((∀ x ∈ y.walks, ¬ same x) → 64 ≤ (y.walks.filter fun x => x.die == die).length → ends (.walkStart p va) y) ∧
      (∀ x, y.walks = [x] → same x → ends (.walkStart p va) { y with walks := [{ x with bays := x.bays.filter (fun b => b != bayOf p) ++ [bayOf p] }] })) ∧
    (s.sched = .walkRead k :: r → ∃ t, step s = .next t ∧ t.mem = s.mem ∧ (s.walks[k]? = none → t = { s with sched := r }) ∧
      ∀ x, s.walks[k]? = some x →
        let index := if x.level = 1 then x.va / 2 ^ 16 % 32 else x.va / 2 ^ (3 + 9 * x.level) % 512
        let part := (s.ctxAt x.ctx).part
        let e := Claim.entry s (x.table + 8 * index)
        (s.inStack part x.table = false → t.walks = s.walks.eraseIdx k) ∧
        (s.inStack part x.table = true → s.lineOk ((x.table + 8 * index) / 128) = true → s.stamp < t.stamp ∧
          (2 ≤ x.level → Claim.isTable s part e (if x.level = 2 then 256 else 4096) →
            t.walks = s.walks.set k { x with level := x.level - 1, table := e / 2 ^ 8 % 2 ^ 52 * 256 }) ∧
          (e % 2 = 0 → t.walks = s.walks.eraseIdx k ∧ t = { s with sched := r, stamp := t.stamp, tick := t.tick, walks := t.walks }))) ∧
    (∀ pa x u, y.mayRun = true → y.translate y.agent .fetch (va / 128 * 128) = .ok ((pa, x), u) → u.lineOk (pa / 128) = true →
      ends (.fetchLine p va) { u with core := { u.core with icache := ((List.range 32).map fun j =>
        { ctx := u.t.ctx, va := BitVec.ofNat 64 (va / 128 * 128 + 4 * j), pa := pa + 4 * j,
          word := BitVec.ofNat 32 (ofBytes ((List.range 4).map fun i => Claim.byte u (pa + 4 * j + i))) }) ++ u.core.icache } })

/-- The steps of the vector side, of posted elements and of the scalar queue. Where it rests on the model's own reading: assumptions 22, 81, 82, 90, 92, 97 of the log. -/
def Obligations.VectorStepsAndPostedElements : Prop :=
  Claim.VectorSideSteps ∧ Claim.Awaited ∧ Claim.PostedElements ∧ Claim.ScheduleSteps


/-! ### Decoding, the step and the whole machine -/

/-- Decoding is a left inverse of encoding (R13, R16 to R33): every well-formed instruction, with every operand at every value that its encoding admits, is what the decoder
reads from its word, and from its bytes in memory order whatever stands behind them. -/
def Obligations.DecodingInvertsEncoding : Prop :=
  ∀ (i : Instr) (rest : List Byte), i.wellFormed = true →
    decodeWord (encode i) = .ok i ∧ decodeBytes (toBytes 4 (encode i).toNat ++ rest) = .ok (i, rest)

/-- A word has one meaning (R31, R33): what the decoder reads from a word is well formed and encodes to that word, so that no bit of the word is ignored. -/
def Obligations.EncodingInvertsDecoding : Prop :=
  ∀ (v : Word) (i : Instr), decodeWord v = .ok i → i.wellFormed = true ∧ encode i = v

/-- Words of the spec's own examples, read as the instructions they stand for (R27 to R31). -/
def Obligations.DecodedWords : Prop :=
  decodeWord 0x40B5102B = .ok (.emit 11 10) ∧ decodeWord 0x4AB5102B = .ok (.emitTry 2 11 10) ∧ decodeWord 0x400620AB = .ok (.take 12 1) ∧
  decodeWord 0x400502AB = .ok (.launch 10 5) ∧ decodeWord 0x02B522AB = .ok (.cpy true 11 10 5) ∧ decodeWord 0x000453AB = .ok (.publish 8 7) ∧
  decodeWord 0x04928293 = .ok (.addi 73 5 5) ∧ decodeWord 0x00200073 = .ok .sret ∧ decodeWord 0x00550073 = .ok (.atcinv 10) ∧
  decodeWord 0x00000000 = .error .notAnInstruction

/-- The word at the program counter of the thread in focus comes to `o` (R13, R35, R36, R86, R107, R385): the word that the fetch brings and the decoder reads is executed on the state after the fetch, unless
it touches a condition bit that a queued word keeps pending, or has to wait for an earlier scalar access; a word that is none traps, and so does a fetch that meets a cause. -/
def Claim.wordRuns (y : State) (o : Out) : Prop :=
  (∀ w u, y.fetch y.t.pc = .ok (w, u) →
    (∀ i, decodeWord w = .ok i → (u.pendingBit i = false → u.mustDrain i = false → o = exec i u) ∧
      (u.pendingBit i = true ∨ u.mustDrain i = true → o = Claim.held u)) ∧
    (∀ e, decodeWord w = .error e → o = Claim.traps u cause.illegal (w.setWidth 64))) ∧
  (∀ c v u, y.fetch y.t.pc = .error (.trap c v, u) → o = Claim.traps u c v)

/-- From `y` to `r` a word of the scalar stream has met a cause: its trap has been taken, or has ended the context (R385). -/
def Claim.meetsCause (y r : State) : Prop :=
  y.t.live = true ∧ ((y.t.inTrap = false ∧ r.t.inTrap = true ∧ r.t.trapcause.getLsbD 8 = false) ∨ (r.t.live = false ∧ (r.ctxAt y.t.ctx).ended = true))

/-- A turn of the thread in focus, which takes words and waits for nothing but its start, comes to `out` (R35, R223, R385, R435): what its word comes to; but a word that meets a cause is
tried again later where earlier scalar accesses have not been performed; and where the head of the vector queue stands inside an element group, it first goes on to its next boundary. -/
def Claim.turnEnds (y : State) (out : Out) : Prop :=
  let hold := fun (z : State) => ({ z with t := { z.t with wait := some (z.t.wait.getD { kind := .hold }) } } : State)
  ∃ o, Claim.wordRuns y o ∧ ∀ r, o = .next r →
    (¬ Claim.meetsCause y r ∨ (y.t.scalars = [] ∧ y.midGroup = false) → out = o) ∧
    (Claim.meetsCause y r → y.t.scalars ≠ [] → out = .next (hold y)) ∧
    (Claim.meetsCause y r → y.t.scalars = [] → y.midGroup = true →
      let b := y.toBoundary
      (b.midGroup = true → out = .next (hold b)) ∧
      (b.midGroup = false → b.t.inTrap = true ∨ b.t.live = false → out = .next b) ∧
      (b.midGroup = false → b.t.inTrap = false → b.t.live = true → b.t.waiting = none → Claim.wordRuns b out))

/-- A step runs the decoded word (R13, R35, R36, R86, R215, R385, R435): a turn of a slot that takes words runs the word at its program counter; while another thread's failed segment runs
again it does nothing. An event of the schedule is executed as it stands. With an empty schedule the thread in focus runs on. -/
def Claim.StepRunsTheDecodedWord : Prop :=
  ∀ (s : State) (p : Nat) (ch : Choices) (r : List Action) (i : Instr),
    let runs := fun (y : State) => (y.mayRun = false → step s = .next y) ∧
      (y.mayRun = true → y.t.wait = none ∨ (∃ x, y.t.wait = some x ∧ x.kind = .hold) → Claim.turnEnds y (step s))
    (s.sched = .turn p ch :: r → runs (({ s with sched := r, ch := ch } : State).focus p)) ∧
    (s.sched = [] → s.t.live = true → s.t.wait = none → runs s) ∧
    (s.sched = .event i :: r → step s = exec i { s with sched := r })

/-- A fetch (R13, R35, R236, R376, R385, R449): at an address that is not a multiple of four it meets misaligned-fetch; at one that translates for fetching, on a sound line, and with no copy used it gives
the four bytes of memory, the lowest first. -/
def Claim.FetchReadsMemory : Prop :=
  ∀ (s : State) (va : DWord) (pa r : Nat),
    (∀ block, va.toNat % 4 ≠ 0 → s.fetch va block = .error (.trap cause.misalignedFetch va, s)) ∧
    (va.toNat % 4 = 0 → s.ch.staleFetch = false → s.translate s.agent .fetch va.toNat = .ok ((pa, r), s) → s.lineOk (pa / 128) = true →
      ∀ block, ∃ t, s.fetch va block = .ok (BitVec.ofNat 32 (ofBytes ((List.range 4).map fun k => Claim.byte s (pa + k))), t) ∧ t.mem = s.mem ∧
        (s.ch.keepFetched = false → t = s))

/-- The machine as READY leaves it (R39, R46, R242, R439, R440): memory zero, no context, no thread, stamps at 0, every slice and port usable and the REPORT sent; it is in the form
that every step keeps. The registers of a thread that starts hold their reset values.
Where it rests on the model's own reading: assumptions 1, 2, 4 of the log. -/
def Obligations.ResetState : Prop :=
  let s := State.reset
  let t : Thread := {}
  Claim.orderly s ∧ Claim.blank s ∧ s.ready = true ∧ s.reports = [(Claim.plainHead 0, .ready 0x3FFFF 0xFF 0xFF 0)] ∧ s.usableSlices = 0x3FFFF ∧
  (∀ r, t.readX r = 0) ∧ (∀ c, t.readC c = decide (c = 0)) ∧ t.vl = 0 ∧ t.vtype = 0x80000000 ∧ t.level = false ∧ t.frm = 0 ∧ t.fflags = 0 ∧
  t.sthresh = 0x3B800000 ∧ t.lbypass = 0x100000 ∧ t.trapstat = 0 ∧ ∀ k, (t.token k).st = 0

/-- Every instruction and every event leads to a next state, in every state: nothing that the table gives an effect is refused or ends the machine.
Where it rests on the model's own reading: assumption 84 of the log. -/
def Obligations.EveryInstructionGoesOn : Prop :=
  ∀ (i : Instr) (s : State), ∃ t, exec i s = .next t

/-- Every step keeps the state in its form (R10, R242): memory in canonical form, each record at its own number in rising order, and every image a live thread.
Where it rests on the model's own reading: assumption 3 of the log. -/
def Obligations.EveryStepKeepsTheStateOrderly : Prop :=
  ∀ (s t : State), Claim.orderly s → step s = .next t → Claim.orderly t

/-- A fetch reads memory at the program counter, and a step runs the word it decodes to.
Where it rests on the model's own reading: assumptions 88, 93 of the log. -/
def Obligations.FetchAndStepRunTheDecodedWord : Prop :=
  Claim.FetchReadsMemory ∧ Claim.StepRunsTheDecodedWord

/-- The regulator's events, and the quotes that it signs.
Where it rests on the model's own reading: assumptions 2, 76 of the log. -/
def Obligations.RegulatorEventsAndQuotes : Prop :=
  Claim.RegulatorEventsComplete ∧ Claim.AttestationQuotes
end

