-- ==== Sys2Proof/Laws/Sparse.lean ====
section
/-! SUPPORT. Storage in canonical form: what a read gives after a write, that every operation keeps the form, and the
same for bytes of memory. -/

namespace Sys2Proof.Machine

variable {w : Nat}

/-- A sparse list in canonical form is its head over a canonical rest whose keys all lie above. -/
theorem Sparse.wf_cons (j : Nat) (v : BitVec w) (r : Sparse w) :
    Sparse.wf ((j, v) :: r) = true ↔ v ≠ 0 ∧ Sparse.wf r = true ∧ ∀ e ∈ r, j < e.1 := by
  induction r generalizing j v with
  | nil => simp [Sparse.wf]
  | cons e r ih =>
    obtain ⟨k, u⟩ := e
    simp only [Sparse.wf, Bool.and_eq_true, bne_iff_ne, ne_eq, decide_eq_true_eq, List.mem_cons, forall_eq_or_imp]
    constructor
    · rintro ⟨⟨hv, hj⟩, hr⟩
      exact ⟨hv, hr, hj, fun e he => lt_trans hj (((ih k u).mp hr).2.2 e he)⟩
    · rintro ⟨hv, hr, hj, -⟩
      exact ⟨⟨hv, hj⟩, hr⟩

@[simp] theorem Sparse.wf_nil : Sparse.wf ([] : Sparse w) = true := rfl

/-- A key of a list from which a key was dropped is a key of the list, and not that key. -/
theorem mem_sdrop {k : Nat} {m : Sparse w} {e : Nat × BitVec w} (h : e ∈ sdrop k m) : e ∈ m ∧ e.1 ≠ k := by
  induction m with
  | nil => simp [sdrop] at h
  | cons a r ih =>
    obtain ⟨j, u⟩ := a
    simp only [sdrop] at h
    split at h
    · exact ⟨List.mem_cons_of_mem _ (ih h).1, (ih h).2⟩
    · rcases List.mem_cons.mp h with rfl | h
      · exact ⟨List.mem_cons_self, ‹_›⟩
      · exact ⟨List.mem_cons_of_mem _ (ih h).1, (ih h).2⟩

theorem sdrop_wf (k : Nat) {m : Sparse w} (h : Sparse.wf m = true) : Sparse.wf (sdrop k m) = true := by
  induction m with
  | nil => rfl
  | cons a r ih =>
    obtain ⟨j, u⟩ := a
    obtain ⟨hu, hr, hj⟩ := (Sparse.wf_cons j u r).mp h
    simp only [sdrop]
    split
    · exact ih hr
    · exact (Sparse.wf_cons j u _).mpr ⟨hu, ih hr, fun e he => hj e (mem_sdrop he).1⟩

theorem mem_sinsert {k : Nat} {v : BitVec w} {m : Sparse w} {e : Nat × BitVec w} (h : e ∈ sinsert k v m) :
    e = (k, v) ∨ e ∈ m := by
  induction m with
  | nil => exact .inl (by simpa [sinsert] using h)
  | cons a r ih =>
    obtain ⟨j, u⟩ := a
    simp only [sinsert] at h
    split at h
    · exact List.mem_cons.mp h
    · rcases List.mem_cons.mp h with rfl | h
      · exact .inr List.mem_cons_self
      · exact (ih h).imp_right (List.mem_cons_of_mem _)

theorem sinsert_wf {k : Nat} {v : BitVec w} {m : Sparse w} (hv : v ≠ 0) (h : Sparse.wf m = true)
    (hk : ∀ e ∈ m, e.1 ≠ k) : Sparse.wf (sinsert k v m) = true := by
  induction m with
  | nil => simpa [sinsert, Sparse.wf] using hv
  | cons a r ih =>
    obtain ⟨j, u⟩ := a
    obtain ⟨hu, hr, hj⟩ := (Sparse.wf_cons j u r).mp h
    have hjk : j ≠ k := hk (j, u) List.mem_cons_self
    simp only [sinsert]
    split
    · refine (Sparse.wf_cons k v _).mpr ⟨hv, h, fun e he => ?_⟩
      rcases List.mem_cons.mp he with rfl | he
      · assumption
      · exact lt_trans ‹_› (hj e he)
    · refine (Sparse.wf_cons j u _).mpr ⟨hu, ih hr fun e he => hk e (List.mem_cons_of_mem _ he), fun e he => ?_⟩
      rcases mem_sinsert he with rfl | he
      · exact lt_of_le_of_ne (not_lt.mp ‹_›) hjk
      · exact hj e he

/-- A write keeps the canonical form. -/
theorem sset_wf (m : Sparse w) (k : Nat) (v : BitVec w) (h : Sparse.wf m = true) : Sparse.wf (sset m k v) = true := by
  unfold sset
  split
  · exact sdrop_wf k h
  · exact sinsert_wf ‹_› (sdrop_wf k h) fun e he => (mem_sdrop he).2

theorem sget_sdrop (k a : Nat) (m : Sparse w) : sget (sdrop k m) a = if a = k then 0 else sget m a := by
  induction m with
  | nil => simp [sdrop, sget]
  | cons e r ih =>
    obtain ⟨j, u⟩ := e
    simp only [sdrop, sget]
    split
    · rw [ih]; subst k; split <;> simp_all [eq_comm]
    · simp only [sget, ih]; split <;> split <;> simp_all

theorem sget_sinsert (k a : Nat) (v : BitVec w) (m : Sparse w) (hk : ∀ e ∈ m, e.1 ≠ k) :
    sget (sinsert k v m) a = if a = k then v else sget m a := by
  induction m with
  | nil => simp [sinsert, sget, eq_comm]
  | cons e r ih =>
    obtain ⟨j, u⟩ := e
    have hjk : j ≠ k := hk (j, u) List.mem_cons_self
    simp only [sinsert]
    split
    · simp only [sget]; split <;> simp_all [eq_comm]
    · simp only [sget, ih fun e he => hk e (List.mem_cons_of_mem _ he)]; split <;> split <;> simp_all

/-- A read after a write: the value at its key, and elsewhere what was there. -/
theorem sget_sset (m : Sparse w) (k a : Nat) (v : BitVec w) : sget (sset m k v) a = if a = k then v else sget m a := by
  unfold sset
  split
  · rw [sget_sdrop]; split <;> simp_all
  · rw [sget_sinsert _ _ _ _ fun e he => (mem_sdrop he).2, sget_sdrop]; split <;> simp_all

@[simp] theorem sget_sset_same (m : Sparse w) (k : Nat) (v : BitVec w) : sget (sset m k v) k = v := by simp [sget_sset]

theorem sget_sset_other (m : Sparse w) {k a : Nat} (v : BitVec w) (h : a ≠ k) : sget (sset m k v) a = sget m a := by
  simp [sget_sset, h]

/-- Writing bytes keeps the canonical form of memory. -/
theorem putBytes_wf (m : List Host.Cell) (a : Nat) (bs : List Byte) (h : Memory.wf m = true) :
    Memory.wf (putBytes m a bs) = true := by
  induction bs generalizing m a with
  | nil => exact h
  | cons b bs ih => exact ih _ _ (sset_wf m a b h)

/-- A byte read after bytes were written from an address. -/
theorem sget_putBytes (m : List Host.Cell) (a k : Nat) (bs : List Byte) :
    sget (w := 8) (putBytes m a bs) k = if a ≤ k ∧ k < a + bs.length then bs.getD (k - a) 0 else sget (w := 8) m k := by
  induction bs generalizing m a with
  | nil => simp [putBytes]
  | cons b bs ih =>
    rw [putBytes, ih, sget_sset]
    by_cases hk : k = a
    · subst hk; simp
    · by_cases h : a + 1 ≤ k ∧ k < a + 1 + bs.length
      · rw [if_pos h, if_pos (by simp; omega), show k - a = (k - (a + 1)) + 1 by omega, List.getD_cons_succ]
      · rw [if_neg h, if_neg hk, if_neg (by simp; omega)]

/-- Bytes outside those written read as before. -/
theorem sget_putBytes_outside (m : List Host.Cell) (a k : Nat) (bs : List Byte) (h : k < a ∨ a + bs.length ≤ k) :
    sget (w := 8) (putBytes m a bs) k = sget (w := 8) m k := by
  rw [sget_putBytes, if_neg (by omega)]

@[simp] theorem toBytes_length (n x : Nat) : (toBytes n x).length = n := by simp [toBytes]

/-- A filtered memory keeps the canonical form. -/
theorem filter_wf (p : Nat × BitVec w → Bool) {m : Sparse w} (h : Sparse.wf m = true) : Sparse.wf (w := w) (m.filter p) = true := by
  induction m with
  | nil => rfl
  | cons a r ih =>
    obtain ⟨j, u⟩ := a
    obtain ⟨hu, hr, hj⟩ := (Sparse.wf_cons j u r).mp h
    rw [List.filter_cons]
    split
    · exact (Sparse.wf_cons j u _).mpr ⟨hu, ih hr, fun e he => hj e (List.mem_of_mem_filter he)⟩
    · exact ih hr

end Sys2Proof.Machine
end

