-- ==== Sys2Proof/Laws/Memory.lean ====
section
/-! SUPPORT. What the memory operations can do: a check or a read that succeeds changes nothing but translation caches; a
write within a line changes the bytes that it names; all of them keep the canonical form. -/

namespace Sys2Proof.Machine

/-- The state differs at most in translation caches, which only completed walks fill (R376). -/
def CacheStep (s u : State) : Prop :=
  ∃ core bay cores bays, u = { s with core := core, bay := bay, cores := cores, bays := bays }

theorem CacheStep.refl (s : State) : CacheStep s s := ⟨_, _, _, _, rfl⟩

theorem CacheStep.trans {s u v : State} (h : CacheStep s u) (k : CacheStep u v) : CacheStep s v := by
  obtain ⟨a, b, c, d, rfl⟩ := h
  obtain ⟨a', b', c', d', rfl⟩ := k
  exact ⟨a', b', c', d', rfl⟩

/-- A table entry that a walk reads leaves the state as it is. -/
theorem walkRead_ok {s u : State} {ctx va a : Nat} {v : DWord} (h : s.walkRead ctx va a = .ok (v, u)) : u = s := by
  unfold State.walkRead raise at h
  split at h
  · simp only [Except.ok.injEq, Prod.mk.injEq] at h
    exact h.2.symm
  · simp at h

/-- A table read of a walk leaves the state as it is. -/
theorem walkLevel_ok {s u : State} {ctx part va level table : Nat} {r : WalkNext}
    (h : walkLevel s ctx part va level table = .ok (r, u)) : u = s := by
  simp only [walkLevel, raise] at h
  split at h
  · cases h
  · generalize hw : s.walkRead _ _ _ = r at h
    rcases r with x | ⟨v, t⟩
    · cases h
    · obtain rfl := walkRead_ok hw
      dsimp only at h
      split_ifs at h <;> (cases h; rfl)

/-- A walk that finds a leaf leaves the state as it is. -/
theorem walk_ok {ctx part va n : Nat} {tbl : Nat} {s u : State} {r : Nat × Nat}
    (h : walk s ctx part va n tbl = .ok (r, u)) : u = s := by
  induction n generalizing s tbl with
  | zero => simp [walk, raise] at h
  | succ n ih =>
    simp only [walk] at h
    split at h
    · cases h
    · obtain rfl := walkLevel_ok ‹_›
      exact ih h
    · obtain rfl := walkLevel_ok ‹_›
      cases h; rfl

theorem leafFor_ok {s u : State} {ag : Agent} {va : Nat} {r : Nat × Nat} (h : s.leafFor ag va = .ok (r, u)) : u = s := by
  unfold State.leafFor at h
  split at h
  · cases h; rfl
  · simp only at h
    split at h
    · cases h
    · cases h; exact walk_ok ‹_›

theorem fill_cacheStep (s : State) (ag : Agent) (e : TlbEntry) : CacheStep s (s.fill ag e) := by
  unfold State.fill State.setBay State.setCore
  split
  · split <;> simp only <;> split_ifs <;> exact ⟨_, _, _, _, rfl⟩
  · exact CacheStep.refl s

/-- A translation that succeeds changes at most translation caches, and none where the machine does not fill them. -/
theorem translate_ok {s u : State} {ag : Agent} {acc : Access} {va pa r : Nat}
    (h : s.translate ag acc va = .ok ((pa, r), u)) : CacheStep s u ∧ (s.ch.fillCache = false → u = s) := by
  unfold State.translate at h
  simp only [raise] at h
  split at h
  · simp at h
  split at h
  · split at h
    · cases h; exact ⟨.refl s, fun _ => rfl⟩
    · simp at h
  · split at h
    · cases h
    · have := leafFor_ok ‹_›
      subst this
      split at h
      · cases h
        exact ⟨fill_cacheStep _ _ _, fun hf => by simp [State.fill, hf]⟩
      · simp at h

/-- A line check that succeeds leaves the state as it is. -/
theorem checkLine_ok {s u : State} {ctx kind va pa : Nat} (h : s.checkLine ctx kind va pa = .ok u) : u = s := by
  unfold State.checkLine raise at h
  split at h
  · simp at h
  split at h
  · cases h; rfl
  · simp at h

/-- The checks of a write within a line, when they succeed, change at most translation caches. -/
theorem checkPart_ok {s u : State} {ag : Agent} {acc : Access} {va n pa : Nat}
    (h : s.checkPart ag acc va n = .ok (pa, u)) : CacheStep s u ∧ (s.ch.fillCache = false → u = s) := by
  unfold State.checkPart at h
  split at h
  · cases h
  · have ht := translate_ok ‹_›
    simp only [hold] at h
    split_ifs at h
    · cases h; exact ht
    · split at h
      · cases h
      · have := checkLine_ok ‹_›
        subst this
        cases h; exact ht

/-- A read within a line, when it succeeds: its translation, and the bytes that the agent sees there. -/
theorem readPart_ok {s u : State} {ag : Agent} {acc : Access} {k va n : Nat} {bs : List Byte}
    (h : s.readPart ag acc k va n = .ok (bs, u)) :
    ∃ pa r, s.translate ag acc va = .ok ((pa, r), u) ∧ bs = u.bytesFor ag pa n := by
  unfold State.readPart at h
  split at h
  · cases h
  · simp only [hold] at h
    split_ifs at h
    split at h
    · cases h
    · have := checkLine_ok ‹_›
      subst this
      cases h
      exact ⟨_, _, ‹_›, rfl⟩

@[simp] theorem bytesFor_length (s : State) (ag : Agent) (pa n : Nat) : (s.bytesFor ag pa n).length = n := by
  simp [State.bytesFor]

/-- A read that succeeds changes at most translation caches. -/
theorem readParts_ok {s u : State} {ag : Agent} {acc : Access} {k : Nat} {l : List (Nat × Nat)} {bs : List Byte}
    (h : s.readParts ag acc k l = .ok (bs, u)) :
    CacheStep s u ∧ (s.ch.fillCache = false → u = s) ∧ bs.length = (l.map fun e => e.2).sum := by
  induction l generalizing s bs with
  | nil => simp only [State.readParts] at h; cases h; exact ⟨.refl _, fun _ => rfl, rfl⟩
  | cons e l ih =>
    obtain ⟨va, n⟩ := e
    simp only [State.readParts] at h
    split at h
    · cases h
    · rename_i b t hp
      split at h
      · cases h
      · obtain ⟨pa, r, ht, rfl⟩ := readPart_ok hp
        obtain ⟨hc, hf⟩ := translate_ok ht
        cases h
        obtain ⟨h1, h2, h3⟩ := ih ‹_›
        refine ⟨hc.trans h1, fun f => ?_, by simp [h3, State.bytesFor]⟩
        obtain rfl := hf f
        exact h2 f

/-- The byte a plain write of one line leaves at each address (R242). -/
theorem physWrite_byte (s : State) (pa a : Nat) (bs : List Byte) :
    sget (w := 8) (s.physWrite pa bs).mem a =
      if pa ≤ a ∧ a < pa + bs.length then bs.getD (a - pa) 0 else sget (w := 8) s.mem a :=
  sget_putBytes s.mem pa a bs

/-- A plain write of less than a line leaves check values and quarantine as they are (R449, R451). -/
theorem physWrite_part (s : State) (pa : Nat) (bs : List Byte) (h : bs.length ≠ 128) :
    s.physWrite pa bs = { s with mem := putBytes s.mem pa bs, parks := pokeParks s.parks pa bs.length } := by
  have hw : (pa % 128 == 0 && bs.length == 128) = false := by simp [h]
  unfold State.physWrite
  rw [hw]
  rfl

/-- A plain write keeps the canonical form of memory. -/
theorem physWrite_wf (s : State) (pa : Nat) (bs : List Byte) (h : Memory.wf s.mem = true) :
    Memory.wf (s.physWrite pa bs).mem = true := putBytes_wf s.mem pa bs h

/-- The digest step changes the thread's digest at most. -/
theorem digested_eq (s : State) (ag : Agent) (va : Nat) (bs : List Byte) :
    ∃ d, s.digested ag va bs = { s with t := { s.t with digest := d } } := by
  unfold State.digested; split <;> exact ⟨_, rfl⟩

theorem digested_plain (s : State) (ag : Agent) (va : Nat) (bs : List Byte) (h : (s.ctxAt ag.ctx).det = false) :
    s.digested ag va bs = s := by
  unfold State.digested; rw [h]; rfl

/-- A write where no segment is open goes to memory. -/
theorem commitWrite_plain (s : State) (ag : Agent) (va pa : Nat) (bs : List Byte) (h : s.segment ag = none) :
    s.commitWrite ag va pa bs = (s.digested ag va bs).physWrite pa bs := by
  have h' : (s.digested ag va bs).segment ag = none := by unfold State.digested; split <;> exact h
  simp only [State.commitWrite, h']
  cases ag.seg <;> rfl

/-- A write of a line part that passes its checks, where no segment is open. -/
theorem write_plain {s u : State} {ag : Agent} {acc : Access} {va pa : Nat} {bs : List Byte}
    (hp : lineParts va bs.length = [(va, bs.length)]) (hc : s.checkPart ag acc va bs.length = .ok (pa, u))
    (h : u.segment ag = none) : s.write ag acc va bs = .ok ((u.digested ag va bs).physWrite pa bs) := by
  unfold State.write
  rw [hp]
  simp only [State.checkParts, hc, State.putParts, List.take_length, commitWrite_plain _ _ _ _ _ h]

/-- An aligned access of 1, 2, 4 or 8 bytes lies within one line. -/
theorem lineParts_aligned {va n : Nat} (hn : n = 1 ∨ n = 2 ∨ n = 4 ∨ n = 8) (h : va % n = 0) : lineParts va n = [(va, n)] := by
  have h1 : (va % 128 + n + 127) / 128 = 1 := by rcases hn with rfl | rfl | rfl | rfl <;> omega
  have h0 : n ≠ 0 := by omega
  simp only [lineParts, if_neg h0, h1, List.range_one, List.map_cons, List.map_nil]
  have : max va ((va / 128 + 0) * 128) = va := by omega
  rw [this]
  have : min (va + n) ((va / 128 + 0 + 1) * 128) = va + n := by rcases hn with rfl | rfl | rfl | rfl <;> omega
  rw [this]; simp

end Sys2Proof.Machine
end

