-- ==== Sys2Proof/Laws/State.lean ====
section
/-! SUPPORT. What each small update of the state leaves as it was: one lemma for a field and an update, true by definition; and the
maps from numbers to records that the state keeps. -/

namespace Sys2Proof.Machine

/-! ### `setX` -/

@[simp] theorem setX_pos (s : State) (r : Reg) (v : DWord) : (s.setX r v).pos = s.pos := rfl
@[simp] theorem setX_core (s : State) (r : Reg) (v : DWord) : (s.setX r v).core = s.core := rfl
@[simp] theorem setX_bay (s : State) (r : Reg) (v : DWord) : (s.setX r v).bay = s.bay := rfl
@[simp] theorem setX_ctx (s : State) (r : Reg) (v : DWord) : (s.setX r v).ctx = s.ctx := rfl
@[simp] theorem setX_threads (s : State) (r : Reg) (v : DWord) : (s.setX r v).threads = s.threads := rfl
@[simp] theorem setX_cores (s : State) (r : Reg) (v : DWord) : (s.setX r v).cores = s.cores := rfl
@[simp] theorem setX_bays (s : State) (r : Reg) (v : DWord) : (s.setX r v).bays = s.bays := rfl
@[simp] theorem setX_ctxs (s : State) (r : Reg) (v : DWord) : (s.setX r v).ctxs = s.ctxs := rfl
@[simp] theorem setX_mem (s : State) (r : Reg) (v : DWord) : (s.setX r v).mem = s.mem := rfl
@[simp] theorem setX_chk (s : State) (r : Reg) (v : DWord) : (s.setX r v).chk = s.chk := rfl
@[simp] theorem setX_quar (s : State) (r : Reg) (v : DWord) : (s.setX r v).quar = s.quar := rfl
@[simp] theorem setX_stamp (s : State) (r : Reg) (v : DWord) : (s.setX r v).stamp = s.stamp := rfl
@[simp] theorem setX_tick (s : State) (r : Reg) (v : DWord) : (s.setX r v).tick = s.tick := rfl
@[simp] theorem setX_ops (s : State) (r : Reg) (v : DWord) : (s.setX r v).ops = s.ops := rfl
@[simp] theorem setX_nextOp (s : State) (r : Reg) (v : DWord) : (s.setX r v).nextOp = s.nextOp := rfl
@[simp] theorem setX_parks (s : State) (r : Reg) (v : DWord) : (s.setX r v).parks = s.parks := rfl
@[simp] theorem setX_walks (s : State) (r : Reg) (v : DWord) : (s.setX r v).walks = s.walks := rfl
@[simp] theorem setX_pipes (s : State) (r : Reg) (v : DWord) : (s.setX r v).pipes = s.pipes := rfl
@[simp] theorem setX_segs (s : State) (r : Reg) (v : DWord) : (s.setX r v).segs = s.segs := rfl
@[simp] theorem setX_net (s : State) (r : Reg) (v : DWord) : (s.setX r v).net = s.net := rfl
@[simp] theorem setX_out (s : State) (r : Reg) (v : DWord) : (s.setX r v).out = s.out := rfl
@[simp] theorem setX_reports (s : State) (r : Reg) (v : DWord) : (s.setX r v).reports = s.reports := rfl
@[simp] theorem setX_management (s : State) (r : Reg) (v : DWord) : (s.setX r v).management = s.management := rfl
@[simp] theorem setX_owners (s : State) (r : Reg) (v : DWord) : (s.setX r v).owners = s.owners := rfl
@[simp] theorem setX_extents (s : State) (r : Reg) (v : DWord) : (s.setX r v).extents = s.extents := rfl
@[simp] theorem setX_hdm (s : State) (r : Reg) (v : DWord) : (s.setX r v).hdm = s.hdm := rfl
@[simp] theorem setX_units (s : State) (r : Reg) (v : DWord) : (s.setX r v).units = s.units := rfl
@[simp] theorem setX_powered (s : State) (r : Reg) (v : DWord) : (s.setX r v).powered = s.powered := rfl
@[simp] theorem setX_ready (s : State) (r : Reg) (v : DWord) : (s.setX r v).ready = s.ready := rfl
@[simp] theorem setX_stopped (s : State) (r : Reg) (v : DWord) : (s.setX r v).stopped = s.stopped := rfl
@[simp] theorem setX_usableSlices (s : State) (r : Reg) (v : DWord) : (s.setX r v).usableSlices = s.usableSlices := rfl
@[simp] theorem setX_usableEthernet (s : State) (r : Reg) (v : DWord) : (s.setX r v).usableEthernet = s.usableEthernet := rfl
@[simp] theorem setX_usableCxl (s : State) (r : Reg) (v : DWord) : (s.setX r v).usableCxl = s.usableCxl := rfl
@[simp] theorem setX_clocks (s : State) (r : Reg) (v : DWord) : (s.setX r v).clocks = s.clocks := rfl
@[simp] theorem setX_calm (s : State) (r : Reg) (v : DWord) : (s.setX r v).calm = s.calm := rfl
@[simp] theorem setX_mram (s : State) (r : Reg) (v : DWord) : (s.setX r v).mram = s.mram := rfl
@[simp] theorem setX_booted (s : State) (r : Reg) (v : DWord) : (s.setX r v).booted = s.booted := rfl
@[simp] theorem setX_inlets (s : State) (r : Reg) (v : DWord) : (s.setX r v).inlets = s.inlets := rfl
@[simp] theorem setX_seconds (s : State) (r : Reg) (v : DWord) : (s.setX r v).seconds = s.seconds := rfl
@[simp] theorem setX_telemetry (s : State) (r : Reg) (v : DWord) : (s.setX r v).telemetry = s.telemetry := rfl
@[simp] theorem setX_sched (s : State) (r : Reg) (v : DWord) : (s.setX r v).sched = s.sched := rfl
@[simp] theorem setX_ch (s : State) (r : Reg) (v : DWord) : (s.setX r v).ch = s.ch := rfl
@[simp] theorem setX_t_live (s : State) (r : Reg) (v : DWord) : (s.setX r v).t.live = s.t.live := by unfold State.setX Thread.writeX; split <;> rfl
@[simp] theorem setX_t_ctx (s : State) (r : Reg) (v : DWord) : (s.setX r v).t.ctx = s.t.ctx := by unfold State.setX Thread.writeX; split <;> rfl
@[simp] theorem setX_t_quarters (s : State) (r : Reg) (v : DWord) : (s.setX r v).t.quarters = s.t.quarters := by unfold State.setX Thread.writeX; split <;> rfl
@[simp] theorem setX_t_f (s : State) (r : Reg) (v : DWord) : (s.setX r v).t.f = s.t.f := by unfold State.setX Thread.writeX; split <;> rfl
@[simp] theorem setX_t_c (s : State) (r : Reg) (v : DWord) : (s.setX r v).t.c = s.t.c := by unfold State.setX Thread.writeX; split <;> rfl
@[simp] theorem setX_t_h (s : State) (r : Reg) (v : DWord) : (s.setX r v).t.h = s.t.h := by unfold State.setX Thread.writeX; split <;> rfl
@[simp] theorem setX_t_pc (s : State) (r : Reg) (v : DWord) : (s.setX r v).t.pc = s.t.pc := by unfold State.setX Thread.writeX; split <;> rfl
@[simp] theorem setX_t_level (s : State) (r : Reg) (v : DWord) : (s.setX r v).t.level = s.t.level := by unfold State.setX Thread.writeX; split <;> rfl
@[simp] theorem setX_t_v (s : State) (r : Reg) (v : DWord) : (s.setX r v).t.v = s.t.v := by unfold State.setX Thread.writeX; split <;> rfl
@[simp] theorem setX_t_p (s : State) (r : Reg) (v : DWord) : (s.setX r v).t.p = s.t.p := by unfold State.setX Thread.writeX; split <;> rfl
@[simp] theorem setX_t_tags (s : State) (r : Reg) (v : DWord) : (s.setX r v).t.tags = s.t.tags := by unfold State.setX Thread.writeX; split <;> rfl
@[simp] theorem setX_t_vl (s : State) (r : Reg) (v : DWord) : (s.setX r v).t.vl = s.t.vl := by unfold State.setX Thread.writeX; split <;> rfl
@[simp] theorem setX_t_vtype (s : State) (r : Reg) (v : DWord) : (s.setX r v).t.vtype = s.t.vtype := by unfold State.setX Thread.writeX; split <;> rfl
@[simp] theorem setX_t_dvl (s : State) (r : Reg) (v : DWord) : (s.setX r v).t.dvl = s.t.dvl := by unfold State.setX Thread.writeX; split <;> rfl
@[simp] theorem setX_t_dvtype (s : State) (r : Reg) (v : DWord) : (s.setX r v).t.dvtype = s.t.dvtype := by unfold State.setX Thread.writeX; split <;> rfl
@[simp] theorem setX_t_vrsi (s : State) (r : Reg) (v : DWord) : (s.setX r v).t.vrsi = s.t.vrsi := by unfold State.setX Thread.writeX; split <;> rfl
@[simp] theorem setX_t_vrss (s : State) (r : Reg) (v : DWord) : (s.setX r v).t.vrss = s.t.vrss := by unfold State.setX Thread.writeX; split <;> rfl
@[simp] theorem setX_t_fflags (s : State) (r : Reg) (v : DWord) : (s.setX r v).t.fflags = s.t.fflags := by unfold State.setX Thread.writeX; split <;> rfl
@[simp] theorem setX_t_frm (s : State) (r : Reg) (v : DWord) : (s.setX r v).t.frm = s.t.frm := by unfold State.setX Thread.writeX; split <;> rfl
@[simp] theorem setX_t_gmode (s : State) (r : Reg) (v : DWord) : (s.setX r v).t.gmode = s.t.gmode := by unfold State.setX Thread.writeX; split <;> rfl
@[simp] theorem setX_t_tshape (s : State) (r : Reg) (v : DWord) : (s.setX r v).t.tshape = s.t.tshape := by unfold State.setX Thread.writeX; split <;> rfl
@[simp] theorem setX_t_dtshape (s : State) (r : Reg) (v : DWord) : (s.setX r v).t.dtshape = s.t.dtshape := by unfold State.setX Thread.writeX; split <;> rfl
@[simp] theorem setX_t_lcount (s : State) (r : Reg) (v : DWord) : (s.setX r v).t.lcount = s.t.lcount := by unfold State.setX Thread.writeX; split <;> rfl
@[simp] theorem setX_t_lstart (s : State) (r : Reg) (v : DWord) : (s.setX r v).t.lstart = s.t.lstart := by unfold State.setX Thread.writeX; split <;> rfl
@[simp] theorem setX_t_lend (s : State) (r : Reg) (v : DWord) : (s.setX r v).t.lend = s.t.lend := by unfold State.setX Thread.writeX; split <;> rfl
@[simp] theorem setX_t_lbypass (s : State) (r : Reg) (v : DWord) : (s.setX r v).t.lbypass = s.t.lbypass := by unfold State.setX Thread.writeX; split <;> rfl
@[simp] theorem setX_t_sthresh (s : State) (r : Reg) (v : DWord) : (s.setX r v).t.sthresh = s.t.sthresh := by unfold State.setX Thread.writeX; split <;> rfl
@[simp] theorem setX_t_taskix (s : State) (r : Reg) (v : DWord) : (s.setX r v).t.taskix = s.t.taskix := by unfold State.setX Thread.writeX; split <;> rfl
@[simp] theorem setX_t_digest (s : State) (r : Reg) (v : DWord) : (s.setX r v).t.digest = s.t.digest := by unfold State.setX Thread.writeX; split <;> rfl
@[simp] theorem setX_t_stageid (s : State) (r : Reg) (v : DWord) : (s.setX r v).t.stageid = s.t.stageid := by unfold State.setX Thread.writeX; split <;> rfl
@[simp] theorem setX_t_fgbase (s : State) (r : Reg) (v : DWord) : (s.setX r v).t.fgbase = s.t.fgbase := by unfold State.setX Thread.writeX; split <;> rfl
@[simp] theorem setX_t_trapcause (s : State) (r : Reg) (v : DWord) : (s.setX r v).t.trapcause = s.t.trapcause := by unfold State.setX Thread.writeX; split <;> rfl
@[simp] theorem setX_t_trapval (s : State) (r : Reg) (v : DWord) : (s.setX r v).t.trapval = s.t.trapval := by unfold State.setX Thread.writeX; split <;> rfl
@[simp] theorem setX_t_trappc (s : State) (r : Reg) (v : DWord) : (s.setX r v).t.trappc = s.t.trappc := by unfold State.setX Thread.writeX; split <;> rfl
@[simp] theorem setX_t_trapspc (s : State) (r : Reg) (v : DWord) : (s.setX r v).t.trapspc = s.t.trapspc := by unfold State.setX Thread.writeX; split <;> rfl
@[simp] theorem setX_t_traptime (s : State) (r : Reg) (v : DWord) : (s.setX r v).t.traptime = s.t.traptime := by unfold State.setX Thread.writeX; split <;> rfl
@[simp] theorem setX_t_trapstat (s : State) (r : Reg) (v : DWord) : (s.setX r v).t.trapstat = s.t.trapstat := by unfold State.setX Thread.writeX; split <;> rfl
@[simp] theorem setX_t_traplane (s : State) (r : Reg) (v : DWord) : (s.setX r v).t.traplane = s.t.traplane := by unfold State.setX Thread.writeX; split <;> rfl
@[simp] theorem setX_t_trapscr (s : State) (r : Reg) (v : DWord) : (s.setX r v).t.trapscr = s.t.trapscr := by unfold State.setX Thread.writeX; split <;> rfl
@[simp] theorem setX_t_tile (s : State) (r : Reg) (v : DWord) : (s.setX r v).t.tile = s.t.tile := by unfold State.setX Thread.writeX; split <;> rfl
@[simp] theorem setX_t_tileSave (s : State) (r : Reg) (v : DWord) : (s.setX r v).t.tileSave = s.t.tileSave := by unfold State.setX Thread.writeX; split <;> rfl
@[simp] theorem setX_t_chain (s : State) (r : Reg) (v : DWord) : (s.setX r v).t.chain = s.t.chain := by unfold State.setX Thread.writeX; split <;> rfl
@[simp] theorem setX_t_tokens (s : State) (r : Reg) (v : DWord) : (s.setX r v).t.tokens = s.t.tokens := by unfold State.setX Thread.writeX; split <;> rfl
@[simp] theorem setX_t_queue (s : State) (r : Reg) (v : DWord) : (s.setX r v).t.queue = s.t.queue := by unfold State.setX Thread.writeX; split <;> rfl
@[simp] theorem setX_t_scalars (s : State) (r : Reg) (v : DWord) : (s.setX r v).t.scalars = s.t.scalars := by unfold State.setX Thread.writeX; split <;> rfl
@[simp] theorem setX_t_scalarCount (s : State) (r : Reg) (v : DWord) : (s.setX r v).t.scalarCount = s.t.scalarCount := by unfold State.setX Thread.writeX; split <;> rfl
@[simp] theorem setX_t_posted (s : State) (r : Reg) (v : DWord) : (s.setX r v).t.posted = s.t.posted := by unfold State.setX Thread.writeX; split <;> rfl
@[simp] theorem setX_t_ev (s : State) (r : Reg) (v : DWord) : (s.setX r v).t.ev = s.t.ev := by unfold State.setX Thread.writeX; split <;> rfl
@[simp] theorem setX_t_wait (s : State) (r : Reg) (v : DWord) : (s.setX r v).t.wait = s.t.wait := by unfold State.setX Thread.writeX; split <;> rfl
@[simp] theorem setX_t_woken (s : State) (r : Reg) (v : DWord) : (s.setX r v).t.woken = s.t.woken := by unfold State.setX Thread.writeX; split <;> rfl
@[simp] theorem setX_t_held (s : State) (r : Reg) (v : DWord) : (s.setX r v).t.held = s.t.held := by unfold State.setX Thread.writeX; split <;> rfl
@[simp] theorem setX_t_pipe (s : State) (r : Reg) (v : DWord) : (s.setX r v).t.pipe = s.t.pipe := by unfold State.setX Thread.writeX; split <;> rfl
@[simp] theorem setX_t_node (s : State) (r : Reg) (v : DWord) : (s.setX r v).t.node = s.t.node := by unfold State.setX Thread.writeX; split <;> rfl
@[simp] theorem setX_t_children (s : State) (r : Reg) (v : DWord) : (s.setX r v).t.children = s.t.children := by unfold State.setX Thread.writeX; split <;> rfl
@[simp] theorem setX_t_lastStamp (s : State) (r : Reg) (v : DWord) : (s.setX r v).t.lastStamp = s.t.lastStamp := by unfold State.setX Thread.writeX; split <;> rfl
@[simp] theorem setX_t_lastVector (s : State) (r : Reg) (v : DWord) : (s.setX r v).t.lastVector = s.t.lastVector := by unfold State.setX Thread.writeX; split <;> rfl
@[simp] theorem setX_t_ahead (s : State) (r : Reg) (v : DWord) : (s.setX r v).t.ahead = s.t.ahead := by unfold State.setX Thread.writeX; split <;> rfl

/-! ### `setF` -/

@[simp] theorem setF_pos (s : State) (r : Reg) (n : Nat) : (s.setF r n).pos = s.pos := rfl
@[simp] theorem setF_core (s : State) (r : Reg) (n : Nat) : (s.setF r n).core = s.core := rfl
@[simp] theorem setF_bay (s : State) (r : Reg) (n : Nat) : (s.setF r n).bay = s.bay := rfl
@[simp] theorem setF_ctx (s : State) (r : Reg) (n : Nat) : (s.setF r n).ctx = s.ctx := rfl
@[simp] theorem setF_threads (s : State) (r : Reg) (n : Nat) : (s.setF r n).threads = s.threads := rfl
@[simp] theorem setF_cores (s : State) (r : Reg) (n : Nat) : (s.setF r n).cores = s.cores := rfl
@[simp] theorem setF_bays (s : State) (r : Reg) (n : Nat) : (s.setF r n).bays = s.bays := rfl
@[simp] theorem setF_ctxs (s : State) (r : Reg) (n : Nat) : (s.setF r n).ctxs = s.ctxs := rfl
@[simp] theorem setF_mem (s : State) (r : Reg) (n : Nat) : (s.setF r n).mem = s.mem := rfl
@[simp] theorem setF_chk (s : State) (r : Reg) (n : Nat) : (s.setF r n).chk = s.chk := rfl
@[simp] theorem setF_quar (s : State) (r : Reg) (n : Nat) : (s.setF r n).quar = s.quar := rfl
@[simp] theorem setF_stamp (s : State) (r : Reg) (n : Nat) : (s.setF r n).stamp = s.stamp := rfl
@[simp] theorem setF_tick (s : State) (r : Reg) (n : Nat) : (s.setF r n).tick = s.tick := rfl
@[simp] theorem setF_ops (s : State) (r : Reg) (n : Nat) : (s.setF r n).ops = s.ops := rfl
@[simp] theorem setF_nextOp (s : State) (r : Reg) (n : Nat) : (s.setF r n).nextOp = s.nextOp := rfl
@[simp] theorem setF_parks (s : State) (r : Reg) (n : Nat) : (s.setF r n).parks = s.parks := rfl
@[simp] theorem setF_walks (s : State) (r : Reg) (n : Nat) : (s.setF r n).walks = s.walks := rfl
@[simp] theorem setF_pipes (s : State) (r : Reg) (n : Nat) : (s.setF r n).pipes = s.pipes := rfl
@[simp] theorem setF_segs (s : State) (r : Reg) (n : Nat) : (s.setF r n).segs = s.segs := rfl
@[simp] theorem setF_net (s : State) (r : Reg) (n : Nat) : (s.setF r n).net = s.net := rfl
@[simp] theorem setF_out (s : State) (r : Reg) (n : Nat) : (s.setF r n).out = s.out := rfl
@[simp] theorem setF_reports (s : State) (r : Reg) (n : Nat) : (s.setF r n).reports = s.reports := rfl
@[simp] theorem setF_management (s : State) (r : Reg) (n : Nat) : (s.setF r n).management = s.management := rfl
@[simp] theorem setF_owners (s : State) (r : Reg) (n : Nat) : (s.setF r n).owners = s.owners := rfl
@[simp] theorem setF_extents (s : State) (r : Reg) (n : Nat) : (s.setF r n).extents = s.extents := rfl
@[simp] theorem setF_hdm (s : State) (r : Reg) (n : Nat) : (s.setF r n).hdm = s.hdm := rfl
@[simp] theorem setF_units (s : State) (r : Reg) (n : Nat) : (s.setF r n).units = s.units := rfl
@[simp] theorem setF_powered (s : State) (r : Reg) (n : Nat) : (s.setF r n).powered = s.powered := rfl
@[simp] theorem setF_ready (s : State) (r : Reg) (n : Nat) : (s.setF r n).ready = s.ready := rfl
@[simp] theorem setF_stopped (s : State) (r : Reg) (n : Nat) : (s.setF r n).stopped = s.stopped := rfl
@[simp] theorem setF_usableSlices (s : State) (r : Reg) (n : Nat) : (s.setF r n).usableSlices = s.usableSlices := rfl
@[simp] theorem setF_usableEthernet (s : State) (r : Reg) (n : Nat) : (s.setF r n).usableEthernet = s.usableEthernet := rfl
@[simp] theorem setF_usableCxl (s : State) (r : Reg) (n : Nat) : (s.setF r n).usableCxl = s.usableCxl := rfl
@[simp] theorem setF_clocks (s : State) (r : Reg) (n : Nat) : (s.setF r n).clocks = s.clocks := rfl
@[simp] theorem setF_calm (s : State) (r : Reg) (n : Nat) : (s.setF r n).calm = s.calm := rfl
@[simp] theorem setF_mram (s : State) (r : Reg) (n : Nat) : (s.setF r n).mram = s.mram := rfl
@[simp] theorem setF_booted (s : State) (r : Reg) (n : Nat) : (s.setF r n).booted = s.booted := rfl
@[simp] theorem setF_inlets (s : State) (r : Reg) (n : Nat) : (s.setF r n).inlets = s.inlets := rfl
@[simp] theorem setF_seconds (s : State) (r : Reg) (n : Nat) : (s.setF r n).seconds = s.seconds := rfl
@[simp] theorem setF_telemetry (s : State) (r : Reg) (n : Nat) : (s.setF r n).telemetry = s.telemetry := rfl
@[simp] theorem setF_sched (s : State) (r : Reg) (n : Nat) : (s.setF r n).sched = s.sched := rfl
@[simp] theorem setF_ch (s : State) (r : Reg) (n : Nat) : (s.setF r n).ch = s.ch := rfl
@[simp] theorem setF_t_live (s : State) (r : Reg) (n : Nat) : (s.setF r n).t.live = s.t.live := rfl
@[simp] theorem setF_t_ctx (s : State) (r : Reg) (n : Nat) : (s.setF r n).t.ctx = s.t.ctx := rfl
@[simp] theorem setF_t_quarters (s : State) (r : Reg) (n : Nat) : (s.setF r n).t.quarters = s.t.quarters := rfl
@[simp] theorem setF_t_x (s : State) (r : Reg) (n : Nat) : (s.setF r n).t.x = s.t.x := rfl
@[simp] theorem setF_t_c (s : State) (r : Reg) (n : Nat) : (s.setF r n).t.c = s.t.c := rfl
@[simp] theorem setF_t_h (s : State) (r : Reg) (n : Nat) : (s.setF r n).t.h = s.t.h := rfl
@[simp] theorem setF_t_pc (s : State) (r : Reg) (n : Nat) : (s.setF r n).t.pc = s.t.pc := rfl
@[simp] theorem setF_t_level (s : State) (r : Reg) (n : Nat) : (s.setF r n).t.level = s.t.level := rfl
@[simp] theorem setF_t_v (s : State) (r : Reg) (n : Nat) : (s.setF r n).t.v = s.t.v := rfl
@[simp] theorem setF_t_p (s : State) (r : Reg) (n : Nat) : (s.setF r n).t.p = s.t.p := rfl
@[simp] theorem setF_t_tags (s : State) (r : Reg) (n : Nat) : (s.setF r n).t.tags = s.t.tags := rfl
@[simp] theorem setF_t_vl (s : State) (r : Reg) (n : Nat) : (s.setF r n).t.vl = s.t.vl := rfl
@[simp] theorem setF_t_vtype (s : State) (r : Reg) (n : Nat) : (s.setF r n).t.vtype = s.t.vtype := rfl
@[simp] theorem setF_t_dvl (s : State) (r : Reg) (n : Nat) : (s.setF r n).t.dvl = s.t.dvl := rfl
@[simp] theorem setF_t_dvtype (s : State) (r : Reg) (n : Nat) : (s.setF r n).t.dvtype = s.t.dvtype := rfl
@[simp] theorem setF_t_vrsi (s : State) (r : Reg) (n : Nat) : (s.setF r n).t.vrsi = s.t.vrsi := rfl
@[simp] theorem setF_t_vrss (s : State) (r : Reg) (n : Nat) : (s.setF r n).t.vrss = s.t.vrss := rfl
@[simp] theorem setF_t_fflags (s : State) (r : Reg) (n : Nat) : (s.setF r n).t.fflags = s.t.fflags := rfl
@[simp] theorem setF_t_frm (s : State) (r : Reg) (n : Nat) : (s.setF r n).t.frm = s.t.frm := rfl
@[simp] theorem setF_t_gmode (s : State) (r : Reg) (n : Nat) : (s.setF r n).t.gmode = s.t.gmode := rfl
@[simp] theorem setF_t_tshape (s : State) (r : Reg) (n : Nat) : (s.setF r n).t.tshape = s.t.tshape := rfl
@[simp] theorem setF_t_dtshape (s : State) (r : Reg) (n : Nat) : (s.setF r n).t.dtshape = s.t.dtshape := rfl
@[simp] theorem setF_t_lcount (s : State) (r : Reg) (n : Nat) : (s.setF r n).t.lcount = s.t.lcount := rfl
@[simp] theorem setF_t_lstart (s : State) (r : Reg) (n : Nat) : (s.setF r n).t.lstart = s.t.lstart := rfl
@[simp] theorem setF_t_lend (s : State) (r : Reg) (n : Nat) : (s.setF r n).t.lend = s.t.lend := rfl
@[simp] theorem setF_t_lbypass (s : State) (r : Reg) (n : Nat) : (s.setF r n).t.lbypass = s.t.lbypass := rfl
@[simp] theorem setF_t_sthresh (s : State) (r : Reg) (n : Nat) : (s.setF r n).t.sthresh = s.t.sthresh := rfl
@[simp] theorem setF_t_taskix (s : State) (r : Reg) (n : Nat) : (s.setF r n).t.taskix = s.t.taskix := rfl
@[simp] theorem setF_t_digest (s : State) (r : Reg) (n : Nat) : (s.setF r n).t.digest = s.t.digest := rfl
@[simp] theorem setF_t_stageid (s : State) (r : Reg) (n : Nat) : (s.setF r n).t.stageid = s.t.stageid := rfl
@[simp] theorem setF_t_fgbase (s : State) (r : Reg) (n : Nat) : (s.setF r n).t.fgbase = s.t.fgbase := rfl
@[simp] theorem setF_t_trapcause (s : State) (r : Reg) (n : Nat) : (s.setF r n).t.trapcause = s.t.trapcause := rfl
@[simp] theorem setF_t_trapval (s : State) (r : Reg) (n : Nat) : (s.setF r n).t.trapval = s.t.trapval := rfl
@[simp] theorem setF_t_trappc (s : State) (r : Reg) (n : Nat) : (s.setF r n).t.trappc = s.t.trappc := rfl
@[simp] theorem setF_t_trapspc (s : State) (r : Reg) (n : Nat) : (s.setF r n).t.trapspc = s.t.trapspc := rfl
@[simp] theorem setF_t_traptime (s : State) (r : Reg) (n : Nat) : (s.setF r n).t.traptime = s.t.traptime := rfl
@[simp] theorem setF_t_trapstat (s : State) (r : Reg) (n : Nat) : (s.setF r n).t.trapstat = s.t.trapstat := rfl
@[simp] theorem setF_t_traplane (s : State) (r : Reg) (n : Nat) : (s.setF r n).t.traplane = s.t.traplane := rfl
@[simp] theorem setF_t_trapscr (s : State) (r : Reg) (n : Nat) : (s.setF r n).t.trapscr = s.t.trapscr := rfl
@[simp] theorem setF_t_tile (s : State) (r : Reg) (n : Nat) : (s.setF r n).t.tile = s.t.tile := rfl
@[simp] theorem setF_t_tileSave (s : State) (r : Reg) (n : Nat) : (s.setF r n).t.tileSave = s.t.tileSave := rfl
@[simp] theorem setF_t_chain (s : State) (r : Reg) (n : Nat) : (s.setF r n).t.chain = s.t.chain := rfl
@[simp] theorem setF_t_tokens (s : State) (r : Reg) (n : Nat) : (s.setF r n).t.tokens = s.t.tokens := rfl
@[simp] theorem setF_t_queue (s : State) (r : Reg) (n : Nat) : (s.setF r n).t.queue = s.t.queue := rfl
@[simp] theorem setF_t_scalars (s : State) (r : Reg) (n : Nat) : (s.setF r n).t.scalars = s.t.scalars := rfl
@[simp] theorem setF_t_scalarCount (s : State) (r : Reg) (n : Nat) : (s.setF r n).t.scalarCount = s.t.scalarCount := rfl
@[simp] theorem setF_t_posted (s : State) (r : Reg) (n : Nat) : (s.setF r n).t.posted = s.t.posted := rfl
@[simp] theorem setF_t_ev (s : State) (r : Reg) (n : Nat) : (s.setF r n).t.ev = s.t.ev := rfl
@[simp] theorem setF_t_wait (s : State) (r : Reg) (n : Nat) : (s.setF r n).t.wait = s.t.wait := rfl
@[simp] theorem setF_t_woken (s : State) (r : Reg) (n : Nat) : (s.setF r n).t.woken = s.t.woken := rfl
@[simp] theorem setF_t_held (s : State) (r : Reg) (n : Nat) : (s.setF r n).t.held = s.t.held := rfl
@[simp] theorem setF_t_pipe (s : State) (r : Reg) (n : Nat) : (s.setF r n).t.pipe = s.t.pipe := rfl
@[simp] theorem setF_t_node (s : State) (r : Reg) (n : Nat) : (s.setF r n).t.node = s.t.node := rfl
@[simp] theorem setF_t_children (s : State) (r : Reg) (n : Nat) : (s.setF r n).t.children = s.t.children := rfl
@[simp] theorem setF_t_lastStamp (s : State) (r : Reg) (n : Nat) : (s.setF r n).t.lastStamp = s.t.lastStamp := rfl
@[simp] theorem setF_t_lastVector (s : State) (r : Reg) (n : Nat) : (s.setF r n).t.lastVector = s.t.lastVector := rfl
@[simp] theorem setF_t_ahead (s : State) (r : Reg) (n : Nat) : (s.setF r n).t.ahead = s.t.ahead := rfl

/-! ### `setC` -/

@[simp] theorem setC_pos (s : State) (r : CReg) (b : Bool) : (s.setC r b).pos = s.pos := rfl
@[simp] theorem setC_core (s : State) (r : CReg) (b : Bool) : (s.setC r b).core = s.core := rfl
@[simp] theorem setC_bay (s : State) (r : CReg) (b : Bool) : (s.setC r b).bay = s.bay := rfl
@[simp] theorem setC_ctx (s : State) (r : CReg) (b : Bool) : (s.setC r b).ctx = s.ctx := rfl
@[simp] theorem setC_threads (s : State) (r : CReg) (b : Bool) : (s.setC r b).threads = s.threads := rfl
@[simp] theorem setC_cores (s : State) (r : CReg) (b : Bool) : (s.setC r b).cores = s.cores := rfl
@[simp] theorem setC_bays (s : State) (r : CReg) (b : Bool) : (s.setC r b).bays = s.bays := rfl
@[simp] theorem setC_ctxs (s : State) (r : CReg) (b : Bool) : (s.setC r b).ctxs = s.ctxs := rfl
@[simp] theorem setC_mem (s : State) (r : CReg) (b : Bool) : (s.setC r b).mem = s.mem := rfl
@[simp] theorem setC_chk (s : State) (r : CReg) (b : Bool) : (s.setC r b).chk = s.chk := rfl
@[simp] theorem setC_quar (s : State) (r : CReg) (b : Bool) : (s.setC r b).quar = s.quar := rfl
@[simp] theorem setC_stamp (s : State) (r : CReg) (b : Bool) : (s.setC r b).stamp = s.stamp := rfl
@[simp] theorem setC_tick (s : State) (r : CReg) (b : Bool) : (s.setC r b).tick = s.tick := rfl
@[simp] theorem setC_ops (s : State) (r : CReg) (b : Bool) : (s.setC r b).ops = s.ops := rfl
@[simp] theorem setC_nextOp (s : State) (r : CReg) (b : Bool) : (s.setC r b).nextOp = s.nextOp := rfl
@[simp] theorem setC_parks (s : State) (r : CReg) (b : Bool) : (s.setC r b).parks = s.parks := rfl
@[simp] theorem setC_walks (s : State) (r : CReg) (b : Bool) : (s.setC r b).walks = s.walks := rfl
@[simp] theorem setC_pipes (s : State) (r : CReg) (b : Bool) : (s.setC r b).pipes = s.pipes := rfl
@[simp] theorem setC_segs (s : State) (r : CReg) (b : Bool) : (s.setC r b).segs = s.segs := rfl
@[simp] theorem setC_net (s : State) (r : CReg) (b : Bool) : (s.setC r b).net = s.net := rfl
@[simp] theorem setC_out (s : State) (r : CReg) (b : Bool) : (s.setC r b).out = s.out := rfl
@[simp] theorem setC_reports (s : State) (r : CReg) (b : Bool) : (s.setC r b).reports = s.reports := rfl
@[simp] theorem setC_management (s : State) (r : CReg) (b : Bool) : (s.setC r b).management = s.management := rfl
@[simp] theorem setC_owners (s : State) (r : CReg) (b : Bool) : (s.setC r b).owners = s.owners := rfl
@[simp] theorem setC_extents (s : State) (r : CReg) (b : Bool) : (s.setC r b).extents = s.extents := rfl
@[simp] theorem setC_hdm (s : State) (r : CReg) (b : Bool) : (s.setC r b).hdm = s.hdm := rfl
@[simp] theorem setC_units (s : State) (r : CReg) (b : Bool) : (s.setC r b).units = s.units := rfl
@[simp] theorem setC_powered (s : State) (r : CReg) (b : Bool) : (s.setC r b).powered = s.powered := rfl
@[simp] theorem setC_ready (s : State) (r : CReg) (b : Bool) : (s.setC r b).ready = s.ready := rfl
@[simp] theorem setC_stopped (s : State) (r : CReg) (b : Bool) : (s.setC r b).stopped = s.stopped := rfl
@[simp] theorem setC_usableSlices (s : State) (r : CReg) (b : Bool) : (s.setC r b).usableSlices = s.usableSlices := rfl
@[simp] theorem setC_usableEthernet (s : State) (r : CReg) (b : Bool) : (s.setC r b).usableEthernet = s.usableEthernet := rfl
@[simp] theorem setC_usableCxl (s : State) (r : CReg) (b : Bool) : (s.setC r b).usableCxl = s.usableCxl := rfl
@[simp] theorem setC_clocks (s : State) (r : CReg) (b : Bool) : (s.setC r b).clocks = s.clocks := rfl
@[simp] theorem setC_calm (s : State) (r : CReg) (b : Bool) : (s.setC r b).calm = s.calm := rfl
@[simp] theorem setC_mram (s : State) (r : CReg) (b : Bool) : (s.setC r b).mram = s.mram := rfl
@[simp] theorem setC_booted (s : State) (r : CReg) (b : Bool) : (s.setC r b).booted = s.booted := rfl
@[simp] theorem setC_inlets (s : State) (r : CReg) (b : Bool) : (s.setC r b).inlets = s.inlets := rfl
@[simp] theorem setC_seconds (s : State) (r : CReg) (b : Bool) : (s.setC r b).seconds = s.seconds := rfl
@[simp] theorem setC_telemetry (s : State) (r : CReg) (b : Bool) : (s.setC r b).telemetry = s.telemetry := rfl
@[simp] theorem setC_sched (s : State) (r : CReg) (b : Bool) : (s.setC r b).sched = s.sched := rfl
@[simp] theorem setC_ch (s : State) (r : CReg) (b : Bool) : (s.setC r b).ch = s.ch := rfl
@[simp] theorem setC_t_live (s : State) (r : CReg) (b : Bool) : (s.setC r b).t.live = s.t.live := by unfold State.setC Thread.writeC; split <;> rfl
@[simp] theorem setC_t_ctx (s : State) (r : CReg) (b : Bool) : (s.setC r b).t.ctx = s.t.ctx := by unfold State.setC Thread.writeC; split <;> rfl
@[simp] theorem setC_t_quarters (s : State) (r : CReg) (b : Bool) : (s.setC r b).t.quarters = s.t.quarters := by unfold State.setC Thread.writeC; split <;> rfl
@[simp] theorem setC_t_x (s : State) (r : CReg) (b : Bool) : (s.setC r b).t.x = s.t.x := by unfold State.setC Thread.writeC; split <;> rfl
@[simp] theorem setC_t_f (s : State) (r : CReg) (b : Bool) : (s.setC r b).t.f = s.t.f := by unfold State.setC Thread.writeC; split <;> rfl
@[simp] theorem setC_t_h (s : State) (r : CReg) (b : Bool) : (s.setC r b).t.h = s.t.h := by unfold State.setC Thread.writeC; split <;> rfl
@[simp] theorem setC_t_pc (s : State) (r : CReg) (b : Bool) : (s.setC r b).t.pc = s.t.pc := by unfold State.setC Thread.writeC; split <;> rfl
@[simp] theorem setC_t_level (s : State) (r : CReg) (b : Bool) : (s.setC r b).t.level = s.t.level := by unfold State.setC Thread.writeC; split <;> rfl
@[simp] theorem setC_t_v (s : State) (r : CReg) (b : Bool) : (s.setC r b).t.v = s.t.v := by unfold State.setC Thread.writeC; split <;> rfl
@[simp] theorem setC_t_p (s : State) (r : CReg) (b : Bool) : (s.setC r b).t.p = s.t.p := by unfold State.setC Thread.writeC; split <;> rfl
@[simp] theorem setC_t_tags (s : State) (r : CReg) (b : Bool) : (s.setC r b).t.tags = s.t.tags := by unfold State.setC Thread.writeC; split <;> rfl
@[simp] theorem setC_t_vl (s : State) (r : CReg) (b : Bool) : (s.setC r b).t.vl = s.t.vl := by unfold State.setC Thread.writeC; split <;> rfl
@[simp] theorem setC_t_vtype (s : State) (r : CReg) (b : Bool) : (s.setC r b).t.vtype = s.t.vtype := by unfold State.setC Thread.writeC; split <;> rfl
@[simp] theorem setC_t_dvl (s : State) (r : CReg) (b : Bool) : (s.setC r b).t.dvl = s.t.dvl := by unfold State.setC Thread.writeC; split <;> rfl
@[simp] theorem setC_t_dvtype (s : State) (r : CReg) (b : Bool) : (s.setC r b).t.dvtype = s.t.dvtype := by unfold State.setC Thread.writeC; split <;> rfl
@[simp] theorem setC_t_vrsi (s : State) (r : CReg) (b : Bool) : (s.setC r b).t.vrsi = s.t.vrsi := by unfold State.setC Thread.writeC; split <;> rfl
@[simp] theorem setC_t_vrss (s : State) (r : CReg) (b : Bool) : (s.setC r b).t.vrss = s.t.vrss := by unfold State.setC Thread.writeC; split <;> rfl
@[simp] theorem setC_t_fflags (s : State) (r : CReg) (b : Bool) : (s.setC r b).t.fflags = s.t.fflags := by unfold State.setC Thread.writeC; split <;> rfl
@[simp] theorem setC_t_frm (s : State) (r : CReg) (b : Bool) : (s.setC r b).t.frm = s.t.frm := by unfold State.setC Thread.writeC; split <;> rfl
@[simp] theorem setC_t_gmode (s : State) (r : CReg) (b : Bool) : (s.setC r b).t.gmode = s.t.gmode := by unfold State.setC Thread.writeC; split <;> rfl
@[simp] theorem setC_t_tshape (s : State) (r : CReg) (b : Bool) : (s.setC r b).t.tshape = s.t.tshape := by unfold State.setC Thread.writeC; split <;> rfl
@[simp] theorem setC_t_dtshape (s : State) (r : CReg) (b : Bool) : (s.setC r b).t.dtshape = s.t.dtshape := by unfold State.setC Thread.writeC; split <;> rfl
@[simp] theorem setC_t_lcount (s : State) (r : CReg) (b : Bool) : (s.setC r b).t.lcount = s.t.lcount := by unfold State.setC Thread.writeC; split <;> rfl
@[simp] theorem setC_t_lstart (s : State) (r : CReg) (b : Bool) : (s.setC r b).t.lstart = s.t.lstart := by unfold State.setC Thread.writeC; split <;> rfl
@[simp] theorem setC_t_lend (s : State) (r : CReg) (b : Bool) : (s.setC r b).t.lend = s.t.lend := by unfold State.setC Thread.writeC; split <;> rfl
@[simp] theorem setC_t_lbypass (s : State) (r : CReg) (b : Bool) : (s.setC r b).t.lbypass = s.t.lbypass := by unfold State.setC Thread.writeC; split <;> rfl
@[simp] theorem setC_t_sthresh (s : State) (r : CReg) (b : Bool) : (s.setC r b).t.sthresh = s.t.sthresh := by unfold State.setC Thread.writeC; split <;> rfl
@[simp] theorem setC_t_taskix (s : State) (r : CReg) (b : Bool) : (s.setC r b).t.taskix = s.t.taskix := by unfold State.setC Thread.writeC; split <;> rfl
@[simp] theorem setC_t_digest (s : State) (r : CReg) (b : Bool) : (s.setC r b).t.digest = s.t.digest := by unfold State.setC Thread.writeC; split <;> rfl
@[simp] theorem setC_t_stageid (s : State) (r : CReg) (b : Bool) : (s.setC r b).t.stageid = s.t.stageid := by unfold State.setC Thread.writeC; split <;> rfl
@[simp] theorem setC_t_fgbase (s : State) (r : CReg) (b : Bool) : (s.setC r b).t.fgbase = s.t.fgbase := by unfold State.setC Thread.writeC; split <;> rfl
@[simp] theorem setC_t_trapcause (s : State) (r : CReg) (b : Bool) : (s.setC r b).t.trapcause = s.t.trapcause := by unfold State.setC Thread.writeC; split <;> rfl
@[simp] theorem setC_t_trapval (s : State) (r : CReg) (b : Bool) : (s.setC r b).t.trapval = s.t.trapval := by unfold State.setC Thread.writeC; split <;> rfl
@[simp] theorem setC_t_trappc (s : State) (r : CReg) (b : Bool) : (s.setC r b).t.trappc = s.t.trappc := by unfold State.setC Thread.writeC; split <;> rfl
@[simp] theorem setC_t_trapspc (s : State) (r : CReg) (b : Bool) : (s.setC r b).t.trapspc = s.t.trapspc := by unfold State.setC Thread.writeC; split <;> rfl
@[simp] theorem setC_t_traptime (s : State) (r : CReg) (b : Bool) : (s.setC r b).t.traptime = s.t.traptime := by unfold State.setC Thread.writeC; split <;> rfl
@[simp] theorem setC_t_trapstat (s : State) (r : CReg) (b : Bool) : (s.setC r b).t.trapstat = s.t.trapstat := by unfold State.setC Thread.writeC; split <;> rfl
@[simp] theorem setC_t_traplane (s : State) (r : CReg) (b : Bool) : (s.setC r b).t.traplane = s.t.traplane := by unfold State.setC Thread.writeC; split <;> rfl
@[simp] theorem setC_t_trapscr (s : State) (r : CReg) (b : Bool) : (s.setC r b).t.trapscr = s.t.trapscr := by unfold State.setC Thread.writeC; split <;> rfl
@[simp] theorem setC_t_tile (s : State) (r : CReg) (b : Bool) : (s.setC r b).t.tile = s.t.tile := by unfold State.setC Thread.writeC; split <;> rfl
@[simp] theorem setC_t_tileSave (s : State) (r : CReg) (b : Bool) : (s.setC r b).t.tileSave = s.t.tileSave := by unfold State.setC Thread.writeC; split <;> rfl
@[simp] theorem setC_t_chain (s : State) (r : CReg) (b : Bool) : (s.setC r b).t.chain = s.t.chain := by unfold State.setC Thread.writeC; split <;> rfl
@[simp] theorem setC_t_tokens (s : State) (r : CReg) (b : Bool) : (s.setC r b).t.tokens = s.t.tokens := by unfold State.setC Thread.writeC; split <;> rfl
@[simp] theorem setC_t_queue (s : State) (r : CReg) (b : Bool) : (s.setC r b).t.queue = s.t.queue := by unfold State.setC Thread.writeC; split <;> rfl
@[simp] theorem setC_t_scalars (s : State) (r : CReg) (b : Bool) : (s.setC r b).t.scalars = s.t.scalars := by unfold State.setC Thread.writeC; split <;> rfl
@[simp] theorem setC_t_scalarCount (s : State) (r : CReg) (b : Bool) : (s.setC r b).t.scalarCount = s.t.scalarCount := by unfold State.setC Thread.writeC; split <;> rfl
@[simp] theorem setC_t_posted (s : State) (r : CReg) (b : Bool) : (s.setC r b).t.posted = s.t.posted := by unfold State.setC Thread.writeC; split <;> rfl
@[simp] theorem setC_t_ev (s : State) (r : CReg) (b : Bool) : (s.setC r b).t.ev = s.t.ev := by unfold State.setC Thread.writeC; split <;> rfl
@[simp] theorem setC_t_wait (s : State) (r : CReg) (b : Bool) : (s.setC r b).t.wait = s.t.wait := by unfold State.setC Thread.writeC; split <;> rfl
@[simp] theorem setC_t_woken (s : State) (r : CReg) (b : Bool) : (s.setC r b).t.woken = s.t.woken := by unfold State.setC Thread.writeC; split <;> rfl
@[simp] theorem setC_t_held (s : State) (r : CReg) (b : Bool) : (s.setC r b).t.held = s.t.held := by unfold State.setC Thread.writeC; split <;> rfl
@[simp] theorem setC_t_pipe (s : State) (r : CReg) (b : Bool) : (s.setC r b).t.pipe = s.t.pipe := by unfold State.setC Thread.writeC; split <;> rfl
@[simp] theorem setC_t_node (s : State) (r : CReg) (b : Bool) : (s.setC r b).t.node = s.t.node := by unfold State.setC Thread.writeC; split <;> rfl
@[simp] theorem setC_t_children (s : State) (r : CReg) (b : Bool) : (s.setC r b).t.children = s.t.children := by unfold State.setC Thread.writeC; split <;> rfl
@[simp] theorem setC_t_lastStamp (s : State) (r : CReg) (b : Bool) : (s.setC r b).t.lastStamp = s.t.lastStamp := by unfold State.setC Thread.writeC; split <;> rfl
@[simp] theorem setC_t_lastVector (s : State) (r : CReg) (b : Bool) : (s.setC r b).t.lastVector = s.t.lastVector := by unfold State.setC Thread.writeC; split <;> rfl
@[simp] theorem setC_t_ahead (s : State) (r : CReg) (b : Bool) : (s.setC r b).t.ahead = s.t.ahead := by unfold State.setC Thread.writeC; split <;> rfl

/-! ### `orFlags` -/

@[simp] theorem orFlags_pos (s : State) (fl : BitVec 6) : (s.orFlags fl).pos = s.pos := rfl
@[simp] theorem orFlags_core (s : State) (fl : BitVec 6) : (s.orFlags fl).core = s.core := rfl
@[simp] theorem orFlags_bay (s : State) (fl : BitVec 6) : (s.orFlags fl).bay = s.bay := rfl
@[simp] theorem orFlags_ctx (s : State) (fl : BitVec 6) : (s.orFlags fl).ctx = s.ctx := rfl
@[simp] theorem orFlags_threads (s : State) (fl : BitVec 6) : (s.orFlags fl).threads = s.threads := rfl
@[simp] theorem orFlags_cores (s : State) (fl : BitVec 6) : (s.orFlags fl).cores = s.cores := rfl
@[simp] theorem orFlags_bays (s : State) (fl : BitVec 6) : (s.orFlags fl).bays = s.bays := rfl
@[simp] theorem orFlags_ctxs (s : State) (fl : BitVec 6) : (s.orFlags fl).ctxs = s.ctxs := rfl
@[simp] theorem orFlags_mem (s : State) (fl : BitVec 6) : (s.orFlags fl).mem = s.mem := rfl
@[simp] theorem orFlags_chk (s : State) (fl : BitVec 6) : (s.orFlags fl).chk = s.chk := rfl
@[simp] theorem orFlags_quar (s : State) (fl : BitVec 6) : (s.orFlags fl).quar = s.quar := rfl
@[simp] theorem orFlags_stamp (s : State) (fl : BitVec 6) : (s.orFlags fl).stamp = s.stamp := rfl
@[simp] theorem orFlags_tick (s : State) (fl : BitVec 6) : (s.orFlags fl).tick = s.tick := rfl
@[simp] theorem orFlags_ops (s : State) (fl : BitVec 6) : (s.orFlags fl).ops = s.ops := rfl
@[simp] theorem orFlags_nextOp (s : State) (fl : BitVec 6) : (s.orFlags fl).nextOp = s.nextOp := rfl
@[simp] theorem orFlags_parks (s : State) (fl : BitVec 6) : (s.orFlags fl).parks = s.parks := rfl
@[simp] theorem orFlags_walks (s : State) (fl : BitVec 6) : (s.orFlags fl).walks = s.walks := rfl
@[simp] theorem orFlags_pipes (s : State) (fl : BitVec 6) : (s.orFlags fl).pipes = s.pipes := rfl
@[simp] theorem orFlags_segs (s : State) (fl : BitVec 6) : (s.orFlags fl).segs = s.segs := rfl
@[simp] theorem orFlags_net (s : State) (fl : BitVec 6) : (s.orFlags fl).net = s.net := rfl
@[simp] theorem orFlags_out (s : State) (fl : BitVec 6) : (s.orFlags fl).out = s.out := rfl
@[simp] theorem orFlags_reports (s : State) (fl : BitVec 6) : (s.orFlags fl).reports = s.reports := rfl
@[simp] theorem orFlags_management (s : State) (fl : BitVec 6) : (s.orFlags fl).management = s.management := rfl
@[simp] theorem orFlags_owners (s : State) (fl : BitVec 6) : (s.orFlags fl).owners = s.owners := rfl
@[simp] theorem orFlags_extents (s : State) (fl : BitVec 6) : (s.orFlags fl).extents = s.extents := rfl
@[simp] theorem orFlags_hdm (s : State) (fl : BitVec 6) : (s.orFlags fl).hdm = s.hdm := rfl
@[simp] theorem orFlags_units (s : State) (fl : BitVec 6) : (s.orFlags fl).units = s.units := rfl
@[simp] theorem orFlags_powered (s : State) (fl : BitVec 6) : (s.orFlags fl).powered = s.powered := rfl
@[simp] theorem orFlags_ready (s : State) (fl : BitVec 6) : (s.orFlags fl).ready = s.ready := rfl
@[simp] theorem orFlags_stopped (s : State) (fl : BitVec 6) : (s.orFlags fl).stopped = s.stopped := rfl
@[simp] theorem orFlags_usableSlices (s : State) (fl : BitVec 6) : (s.orFlags fl).usableSlices = s.usableSlices := rfl
@[simp] theorem orFlags_usableEthernet (s : State) (fl : BitVec 6) : (s.orFlags fl).usableEthernet = s.usableEthernet := rfl
@[simp] theorem orFlags_usableCxl (s : State) (fl : BitVec 6) : (s.orFlags fl).usableCxl = s.usableCxl := rfl
@[simp] theorem orFlags_clocks (s : State) (fl : BitVec 6) : (s.orFlags fl).clocks = s.clocks := rfl
@[simp] theorem orFlags_calm (s : State) (fl : BitVec 6) : (s.orFlags fl).calm = s.calm := rfl
@[simp] theorem orFlags_mram (s : State) (fl : BitVec 6) : (s.orFlags fl).mram = s.mram := rfl
@[simp] theorem orFlags_booted (s : State) (fl : BitVec 6) : (s.orFlags fl).booted = s.booted := rfl
@[simp] theorem orFlags_inlets (s : State) (fl : BitVec 6) : (s.orFlags fl).inlets = s.inlets := rfl
@[simp] theorem orFlags_seconds (s : State) (fl : BitVec 6) : (s.orFlags fl).seconds = s.seconds := rfl
@[simp] theorem orFlags_telemetry (s : State) (fl : BitVec 6) : (s.orFlags fl).telemetry = s.telemetry := rfl
@[simp] theorem orFlags_sched (s : State) (fl : BitVec 6) : (s.orFlags fl).sched = s.sched := rfl
@[simp] theorem orFlags_ch (s : State) (fl : BitVec 6) : (s.orFlags fl).ch = s.ch := rfl
@[simp] theorem orFlags_t_live (s : State) (fl : BitVec 6) : (s.orFlags fl).t.live = s.t.live := rfl
@[simp] theorem orFlags_t_ctx (s : State) (fl : BitVec 6) : (s.orFlags fl).t.ctx = s.t.ctx := rfl
@[simp] theorem orFlags_t_quarters (s : State) (fl : BitVec 6) : (s.orFlags fl).t.quarters = s.t.quarters := rfl
@[simp] theorem orFlags_t_x (s : State) (fl : BitVec 6) : (s.orFlags fl).t.x = s.t.x := rfl
@[simp] theorem orFlags_t_f (s : State) (fl : BitVec 6) : (s.orFlags fl).t.f = s.t.f := rfl
@[simp] theorem orFlags_t_c (s : State) (fl : BitVec 6) : (s.orFlags fl).t.c = s.t.c := rfl
@[simp] theorem orFlags_t_h (s : State) (fl : BitVec 6) : (s.orFlags fl).t.h = s.t.h := rfl
@[simp] theorem orFlags_t_pc (s : State) (fl : BitVec 6) : (s.orFlags fl).t.pc = s.t.pc := rfl
@[simp] theorem orFlags_t_level (s : State) (fl : BitVec 6) : (s.orFlags fl).t.level = s.t.level := rfl
@[simp] theorem orFlags_t_v (s : State) (fl : BitVec 6) : (s.orFlags fl).t.v = s.t.v := rfl
@[simp] theorem orFlags_t_p (s : State) (fl : BitVec 6) : (s.orFlags fl).t.p = s.t.p := rfl
@[simp] theorem orFlags_t_tags (s : State) (fl : BitVec 6) : (s.orFlags fl).t.tags = s.t.tags := rfl
@[simp] theorem orFlags_t_vl (s : State) (fl : BitVec 6) : (s.orFlags fl).t.vl = s.t.vl := rfl
@[simp] theorem orFlags_t_vtype (s : State) (fl : BitVec 6) : (s.orFlags fl).t.vtype = s.t.vtype := rfl
@[simp] theorem orFlags_t_dvl (s : State) (fl : BitVec 6) : (s.orFlags fl).t.dvl = s.t.dvl := rfl
@[simp] theorem orFlags_t_dvtype (s : State) (fl : BitVec 6) : (s.orFlags fl).t.dvtype = s.t.dvtype := rfl
@[simp] theorem orFlags_t_vrsi (s : State) (fl : BitVec 6) : (s.orFlags fl).t.vrsi = s.t.vrsi := rfl
@[simp] theorem orFlags_t_vrss (s : State) (fl : BitVec 6) : (s.orFlags fl).t.vrss = s.t.vrss := rfl
@[simp] theorem orFlags_t_frm (s : State) (fl : BitVec 6) : (s.orFlags fl).t.frm = s.t.frm := rfl
@[simp] theorem orFlags_t_gmode (s : State) (fl : BitVec 6) : (s.orFlags fl).t.gmode = s.t.gmode := rfl
@[simp] theorem orFlags_t_tshape (s : State) (fl : BitVec 6) : (s.orFlags fl).t.tshape = s.t.tshape := rfl
@[simp] theorem orFlags_t_dtshape (s : State) (fl : BitVec 6) : (s.orFlags fl).t.dtshape = s.t.dtshape := rfl
@[simp] theorem orFlags_t_lcount (s : State) (fl : BitVec 6) : (s.orFlags fl).t.lcount = s.t.lcount := rfl
@[simp] theorem orFlags_t_lstart (s : State) (fl : BitVec 6) : (s.orFlags fl).t.lstart = s.t.lstart := rfl
@[simp] theorem orFlags_t_lend (s : State) (fl : BitVec 6) : (s.orFlags fl).t.lend = s.t.lend := rfl
@[simp] theorem orFlags_t_lbypass (s : State) (fl : BitVec 6) : (s.orFlags fl).t.lbypass = s.t.lbypass := rfl
@[simp] theorem orFlags_t_sthresh (s : State) (fl : BitVec 6) : (s.orFlags fl).t.sthresh = s.t.sthresh := rfl
@[simp] theorem orFlags_t_taskix (s : State) (fl : BitVec 6) : (s.orFlags fl).t.taskix = s.t.taskix := rfl
@[simp] theorem orFlags_t_digest (s : State) (fl : BitVec 6) : (s.orFlags fl).t.digest = s.t.digest := rfl
@[simp] theorem orFlags_t_stageid (s : State) (fl : BitVec 6) : (s.orFlags fl).t.stageid = s.t.stageid := rfl
@[simp] theorem orFlags_t_fgbase (s : State) (fl : BitVec 6) : (s.orFlags fl).t.fgbase = s.t.fgbase := rfl
@[simp] theorem orFlags_t_trapcause (s : State) (fl : BitVec 6) : (s.orFlags fl).t.trapcause = s.t.trapcause := rfl
@[simp] theorem orFlags_t_trapval (s : State) (fl : BitVec 6) : (s.orFlags fl).t.trapval = s.t.trapval := rfl
@[simp] theorem orFlags_t_trappc (s : State) (fl : BitVec 6) : (s.orFlags fl).t.trappc = s.t.trappc := rfl
@[simp] theorem orFlags_t_trapspc (s : State) (fl : BitVec 6) : (s.orFlags fl).t.trapspc = s.t.trapspc := rfl
@[simp] theorem orFlags_t_traptime (s : State) (fl : BitVec 6) : (s.orFlags fl).t.traptime = s.t.traptime := rfl
@[simp] theorem orFlags_t_trapstat (s : State) (fl : BitVec 6) : (s.orFlags fl).t.trapstat = s.t.trapstat := rfl
@[simp] theorem orFlags_t_traplane (s : State) (fl : BitVec 6) : (s.orFlags fl).t.traplane = s.t.traplane := rfl
@[simp] theorem orFlags_t_trapscr (s : State) (fl : BitVec 6) : (s.orFlags fl).t.trapscr = s.t.trapscr := rfl
@[simp] theorem orFlags_t_tile (s : State) (fl : BitVec 6) : (s.orFlags fl).t.tile = s.t.tile := rfl
@[simp] theorem orFlags_t_tileSave (s : State) (fl : BitVec 6) : (s.orFlags fl).t.tileSave = s.t.tileSave := rfl
@[simp] theorem orFlags_t_chain (s : State) (fl : BitVec 6) : (s.orFlags fl).t.chain = s.t.chain := rfl
@[simp] theorem orFlags_t_tokens (s : State) (fl : BitVec 6) : (s.orFlags fl).t.tokens = s.t.tokens := rfl
@[simp] theorem orFlags_t_queue (s : State) (fl : BitVec 6) : (s.orFlags fl).t.queue = s.t.queue := rfl
@[simp] theorem orFlags_t_scalars (s : State) (fl : BitVec 6) : (s.orFlags fl).t.scalars = s.t.scalars := rfl
@[simp] theorem orFlags_t_scalarCount (s : State) (fl : BitVec 6) : (s.orFlags fl).t.scalarCount = s.t.scalarCount := rfl
@[simp] theorem orFlags_t_posted (s : State) (fl : BitVec 6) : (s.orFlags fl).t.posted = s.t.posted := rfl
@[simp] theorem orFlags_t_ev (s : State) (fl : BitVec 6) : (s.orFlags fl).t.ev = s.t.ev := rfl
@[simp] theorem orFlags_t_wait (s : State) (fl : BitVec 6) : (s.orFlags fl).t.wait = s.t.wait := rfl
@[simp] theorem orFlags_t_woken (s : State) (fl : BitVec 6) : (s.orFlags fl).t.woken = s.t.woken := rfl
@[simp] theorem orFlags_t_held (s : State) (fl : BitVec 6) : (s.orFlags fl).t.held = s.t.held := rfl
@[simp] theorem orFlags_t_pipe (s : State) (fl : BitVec 6) : (s.orFlags fl).t.pipe = s.t.pipe := rfl
@[simp] theorem orFlags_t_node (s : State) (fl : BitVec 6) : (s.orFlags fl).t.node = s.t.node := rfl
@[simp] theorem orFlags_t_children (s : State) (fl : BitVec 6) : (s.orFlags fl).t.children = s.t.children := rfl
@[simp] theorem orFlags_t_lastStamp (s : State) (fl : BitVec 6) : (s.orFlags fl).t.lastStamp = s.t.lastStamp := rfl
@[simp] theorem orFlags_t_lastVector (s : State) (fl : BitVec 6) : (s.orFlags fl).t.lastVector = s.t.lastVector := rfl
@[simp] theorem orFlags_t_ahead (s : State) (fl : BitVec 6) : (s.orFlags fl).t.ahead = s.t.ahead := rfl

/-! ### `complete` -/

@[simp] theorem complete_pos (s : State) (n : DWord) : (s.complete n).pos = s.pos := rfl
@[simp] theorem complete_core (s : State) (n : DWord) : (s.complete n).core = s.core := rfl
@[simp] theorem complete_bay (s : State) (n : DWord) : (s.complete n).bay = s.bay := rfl
@[simp] theorem complete_ctx (s : State) (n : DWord) : (s.complete n).ctx = s.ctx := rfl
@[simp] theorem complete_threads (s : State) (n : DWord) : (s.complete n).threads = s.threads := rfl
@[simp] theorem complete_cores (s : State) (n : DWord) : (s.complete n).cores = s.cores := rfl
@[simp] theorem complete_bays (s : State) (n : DWord) : (s.complete n).bays = s.bays := rfl
@[simp] theorem complete_ctxs (s : State) (n : DWord) : (s.complete n).ctxs = s.ctxs := rfl
@[simp] theorem complete_mem (s : State) (n : DWord) : (s.complete n).mem = s.mem := rfl
@[simp] theorem complete_chk (s : State) (n : DWord) : (s.complete n).chk = s.chk := rfl
@[simp] theorem complete_quar (s : State) (n : DWord) : (s.complete n).quar = s.quar := rfl
@[simp] theorem complete_stamp (s : State) (n : DWord) : (s.complete n).stamp = s.stamp := rfl
@[simp] theorem complete_tick (s : State) (n : DWord) : (s.complete n).tick = s.tick := rfl
@[simp] theorem complete_ops (s : State) (n : DWord) : (s.complete n).ops = s.ops := rfl
@[simp] theorem complete_nextOp (s : State) (n : DWord) : (s.complete n).nextOp = s.nextOp := rfl
@[simp] theorem complete_parks (s : State) (n : DWord) : (s.complete n).parks = s.parks := rfl
@[simp] theorem complete_walks (s : State) (n : DWord) : (s.complete n).walks = s.walks := rfl
@[simp] theorem complete_pipes (s : State) (n : DWord) : (s.complete n).pipes = s.pipes := rfl
@[simp] theorem complete_segs (s : State) (n : DWord) : (s.complete n).segs = s.segs := rfl
@[simp] theorem complete_net (s : State) (n : DWord) : (s.complete n).net = s.net := rfl
@[simp] theorem complete_out (s : State) (n : DWord) : (s.complete n).out = s.out := rfl
@[simp] theorem complete_reports (s : State) (n : DWord) : (s.complete n).reports = s.reports := rfl
@[simp] theorem complete_management (s : State) (n : DWord) : (s.complete n).management = s.management := rfl
@[simp] theorem complete_owners (s : State) (n : DWord) : (s.complete n).owners = s.owners := rfl
@[simp] theorem complete_extents (s : State) (n : DWord) : (s.complete n).extents = s.extents := rfl
@[simp] theorem complete_hdm (s : State) (n : DWord) : (s.complete n).hdm = s.hdm := rfl
@[simp] theorem complete_units (s : State) (n : DWord) : (s.complete n).units = s.units := rfl
@[simp] theorem complete_powered (s : State) (n : DWord) : (s.complete n).powered = s.powered := rfl
@[simp] theorem complete_ready (s : State) (n : DWord) : (s.complete n).ready = s.ready := rfl
@[simp] theorem complete_stopped (s : State) (n : DWord) : (s.complete n).stopped = s.stopped := rfl
@[simp] theorem complete_usableSlices (s : State) (n : DWord) : (s.complete n).usableSlices = s.usableSlices := rfl
@[simp] theorem complete_usableEthernet (s : State) (n : DWord) : (s.complete n).usableEthernet = s.usableEthernet := rfl
@[simp] theorem complete_usableCxl (s : State) (n : DWord) : (s.complete n).usableCxl = s.usableCxl := rfl
@[simp] theorem complete_clocks (s : State) (n : DWord) : (s.complete n).clocks = s.clocks := rfl
@[simp] theorem complete_calm (s : State) (n : DWord) : (s.complete n).calm = s.calm := rfl
@[simp] theorem complete_mram (s : State) (n : DWord) : (s.complete n).mram = s.mram := rfl
@[simp] theorem complete_booted (s : State) (n : DWord) : (s.complete n).booted = s.booted := rfl
@[simp] theorem complete_inlets (s : State) (n : DWord) : (s.complete n).inlets = s.inlets := rfl
@[simp] theorem complete_seconds (s : State) (n : DWord) : (s.complete n).seconds = s.seconds := rfl
@[simp] theorem complete_telemetry (s : State) (n : DWord) : (s.complete n).telemetry = s.telemetry := rfl
@[simp] theorem complete_sched (s : State) (n : DWord) : (s.complete n).sched = s.sched := rfl
@[simp] theorem complete_ch (s : State) (n : DWord) : (s.complete n).ch = s.ch := rfl
@[simp] theorem complete_t_live (s : State) (n : DWord) : (s.complete n).t.live = s.t.live := rfl
@[simp] theorem complete_t_ctx (s : State) (n : DWord) : (s.complete n).t.ctx = s.t.ctx := rfl
@[simp] theorem complete_t_quarters (s : State) (n : DWord) : (s.complete n).t.quarters = s.t.quarters := rfl
@[simp] theorem complete_t_x (s : State) (n : DWord) : (s.complete n).t.x = s.t.x := rfl
@[simp] theorem complete_t_f (s : State) (n : DWord) : (s.complete n).t.f = s.t.f := rfl
@[simp] theorem complete_t_c (s : State) (n : DWord) : (s.complete n).t.c = s.t.c := rfl
@[simp] theorem complete_t_h (s : State) (n : DWord) : (s.complete n).t.h = s.t.h := rfl
@[simp] theorem complete_t_level (s : State) (n : DWord) : (s.complete n).t.level = s.t.level := rfl
@[simp] theorem complete_t_v (s : State) (n : DWord) : (s.complete n).t.v = s.t.v := rfl
@[simp] theorem complete_t_p (s : State) (n : DWord) : (s.complete n).t.p = s.t.p := rfl
@[simp] theorem complete_t_tags (s : State) (n : DWord) : (s.complete n).t.tags = s.t.tags := rfl
@[simp] theorem complete_t_vl (s : State) (n : DWord) : (s.complete n).t.vl = s.t.vl := rfl
@[simp] theorem complete_t_vtype (s : State) (n : DWord) : (s.complete n).t.vtype = s.t.vtype := rfl
@[simp] theorem complete_t_dvl (s : State) (n : DWord) : (s.complete n).t.dvl = s.t.dvl := rfl
@[simp] theorem complete_t_dvtype (s : State) (n : DWord) : (s.complete n).t.dvtype = s.t.dvtype := rfl
@[simp] theorem complete_t_vrsi (s : State) (n : DWord) : (s.complete n).t.vrsi = s.t.vrsi := rfl
@[simp] theorem complete_t_vrss (s : State) (n : DWord) : (s.complete n).t.vrss = s.t.vrss := rfl
@[simp] theorem complete_t_fflags (s : State) (n : DWord) : (s.complete n).t.fflags = s.t.fflags := rfl
@[simp] theorem complete_t_frm (s : State) (n : DWord) : (s.complete n).t.frm = s.t.frm := rfl
@[simp] theorem complete_t_gmode (s : State) (n : DWord) : (s.complete n).t.gmode = s.t.gmode := rfl
@[simp] theorem complete_t_tshape (s : State) (n : DWord) : (s.complete n).t.tshape = s.t.tshape := rfl
@[simp] theorem complete_t_dtshape (s : State) (n : DWord) : (s.complete n).t.dtshape = s.t.dtshape := rfl
@[simp] theorem complete_t_lstart (s : State) (n : DWord) : (s.complete n).t.lstart = s.t.lstart := rfl
@[simp] theorem complete_t_lend (s : State) (n : DWord) : (s.complete n).t.lend = s.t.lend := rfl
@[simp] theorem complete_t_lbypass (s : State) (n : DWord) : (s.complete n).t.lbypass = s.t.lbypass := rfl
@[simp] theorem complete_t_sthresh (s : State) (n : DWord) : (s.complete n).t.sthresh = s.t.sthresh := rfl
@[simp] theorem complete_t_taskix (s : State) (n : DWord) : (s.complete n).t.taskix = s.t.taskix := rfl
@[simp] theorem complete_t_digest (s : State) (n : DWord) : (s.complete n).t.digest = s.t.digest := rfl
@[simp] theorem complete_t_stageid (s : State) (n : DWord) : (s.complete n).t.stageid = s.t.stageid := rfl
@[simp] theorem complete_t_fgbase (s : State) (n : DWord) : (s.complete n).t.fgbase = s.t.fgbase := rfl
@[simp] theorem complete_t_trapcause (s : State) (n : DWord) : (s.complete n).t.trapcause = s.t.trapcause := rfl
@[simp] theorem complete_t_trapval (s : State) (n : DWord) : (s.complete n).t.trapval = s.t.trapval := rfl
@[simp] theorem complete_t_trappc (s : State) (n : DWord) : (s.complete n).t.trappc = s.t.trappc := rfl
@[simp] theorem complete_t_trapspc (s : State) (n : DWord) : (s.complete n).t.trapspc = s.t.trapspc := rfl
@[simp] theorem complete_t_traptime (s : State) (n : DWord) : (s.complete n).t.traptime = s.t.traptime := rfl
@[simp] theorem complete_t_trapstat (s : State) (n : DWord) : (s.complete n).t.trapstat = s.t.trapstat := rfl
@[simp] theorem complete_t_traplane (s : State) (n : DWord) : (s.complete n).t.traplane = s.t.traplane := rfl
@[simp] theorem complete_t_trapscr (s : State) (n : DWord) : (s.complete n).t.trapscr = s.t.trapscr := rfl
@[simp] theorem complete_t_tile (s : State) (n : DWord) : (s.complete n).t.tile = s.t.tile := rfl
@[simp] theorem complete_t_tileSave (s : State) (n : DWord) : (s.complete n).t.tileSave = s.t.tileSave := rfl
@[simp] theorem complete_t_chain (s : State) (n : DWord) : (s.complete n).t.chain = s.t.chain := rfl
@[simp] theorem complete_t_tokens (s : State) (n : DWord) : (s.complete n).t.tokens = s.t.tokens := rfl
@[simp] theorem complete_t_queue (s : State) (n : DWord) : (s.complete n).t.queue = s.t.queue := rfl
@[simp] theorem complete_t_scalars (s : State) (n : DWord) : (s.complete n).t.scalars = s.t.scalars := rfl
@[simp] theorem complete_t_scalarCount (s : State) (n : DWord) : (s.complete n).t.scalarCount = s.t.scalarCount := rfl
@[simp] theorem complete_t_posted (s : State) (n : DWord) : (s.complete n).t.posted = s.t.posted := rfl
@[simp] theorem complete_t_ev (s : State) (n : DWord) : (s.complete n).t.ev = s.t.ev := rfl
@[simp] theorem complete_t_woken (s : State) (n : DWord) : (s.complete n).t.woken = s.t.woken := rfl
@[simp] theorem complete_t_held (s : State) (n : DWord) : (s.complete n).t.held = s.t.held := rfl
@[simp] theorem complete_t_pipe (s : State) (n : DWord) : (s.complete n).t.pipe = s.t.pipe := rfl
@[simp] theorem complete_t_node (s : State) (n : DWord) : (s.complete n).t.node = s.t.node := rfl
@[simp] theorem complete_t_children (s : State) (n : DWord) : (s.complete n).t.children = s.t.children := rfl
@[simp] theorem complete_t_lastStamp (s : State) (n : DWord) : (s.complete n).t.lastStamp = s.t.lastStamp := rfl
@[simp] theorem complete_t_lastVector (s : State) (n : DWord) : (s.complete n).t.lastVector = s.t.lastVector := rfl
@[simp] theorem complete_t_ahead (s : State) (n : DWord) : (s.complete n).t.ahead = s.t.ahead := rfl

/-! ### `advance` -/

@[simp] theorem advance_pos (s : State) : (s.advance).pos = s.pos := rfl
@[simp] theorem advance_core (s : State) : (s.advance).core = s.core := rfl
@[simp] theorem advance_bay (s : State) : (s.advance).bay = s.bay := rfl
@[simp] theorem advance_ctx (s : State) : (s.advance).ctx = s.ctx := rfl
@[simp] theorem advance_threads (s : State) : (s.advance).threads = s.threads := rfl
@[simp] theorem advance_cores (s : State) : (s.advance).cores = s.cores := rfl
@[simp] theorem advance_bays (s : State) : (s.advance).bays = s.bays := rfl
@[simp] theorem advance_ctxs (s : State) : (s.advance).ctxs = s.ctxs := rfl
@[simp] theorem advance_mem (s : State) : (s.advance).mem = s.mem := rfl
@[simp] theorem advance_chk (s : State) : (s.advance).chk = s.chk := rfl
@[simp] theorem advance_quar (s : State) : (s.advance).quar = s.quar := rfl
@[simp] theorem advance_stamp (s : State) : (s.advance).stamp = s.stamp := rfl
@[simp] theorem advance_tick (s : State) : (s.advance).tick = s.tick := rfl
@[simp] theorem advance_ops (s : State) : (s.advance).ops = s.ops := rfl
@[simp] theorem advance_nextOp (s : State) : (s.advance).nextOp = s.nextOp := rfl
@[simp] theorem advance_parks (s : State) : (s.advance).parks = s.parks := rfl
@[simp] theorem advance_walks (s : State) : (s.advance).walks = s.walks := rfl
@[simp] theorem advance_pipes (s : State) : (s.advance).pipes = s.pipes := rfl
@[simp] theorem advance_segs (s : State) : (s.advance).segs = s.segs := rfl
@[simp] theorem advance_net (s : State) : (s.advance).net = s.net := rfl
@[simp] theorem advance_out (s : State) : (s.advance).out = s.out := rfl
@[simp] theorem advance_reports (s : State) : (s.advance).reports = s.reports := rfl
@[simp] theorem advance_management (s : State) : (s.advance).management = s.management := rfl
@[simp] theorem advance_owners (s : State) : (s.advance).owners = s.owners := rfl
@[simp] theorem advance_extents (s : State) : (s.advance).extents = s.extents := rfl
@[simp] theorem advance_hdm (s : State) : (s.advance).hdm = s.hdm := rfl
@[simp] theorem advance_units (s : State) : (s.advance).units = s.units := rfl
@[simp] theorem advance_powered (s : State) : (s.advance).powered = s.powered := rfl
@[simp] theorem advance_ready (s : State) : (s.advance).ready = s.ready := rfl
@[simp] theorem advance_stopped (s : State) : (s.advance).stopped = s.stopped := rfl
@[simp] theorem advance_usableSlices (s : State) : (s.advance).usableSlices = s.usableSlices := rfl
@[simp] theorem advance_usableEthernet (s : State) : (s.advance).usableEthernet = s.usableEthernet := rfl
@[simp] theorem advance_usableCxl (s : State) : (s.advance).usableCxl = s.usableCxl := rfl
@[simp] theorem advance_clocks (s : State) : (s.advance).clocks = s.clocks := rfl
@[simp] theorem advance_calm (s : State) : (s.advance).calm = s.calm := rfl
@[simp] theorem advance_mram (s : State) : (s.advance).mram = s.mram := rfl
@[simp] theorem advance_booted (s : State) : (s.advance).booted = s.booted := rfl
@[simp] theorem advance_inlets (s : State) : (s.advance).inlets = s.inlets := rfl
@[simp] theorem advance_seconds (s : State) : (s.advance).seconds = s.seconds := rfl
@[simp] theorem advance_telemetry (s : State) : (s.advance).telemetry = s.telemetry := rfl
@[simp] theorem advance_sched (s : State) : (s.advance).sched = s.sched := rfl
@[simp] theorem advance_ch (s : State) : (s.advance).ch = s.ch := rfl
@[simp] theorem advance_t_live (s : State) : (s.advance).t.live = s.t.live := rfl
@[simp] theorem advance_t_ctx (s : State) : (s.advance).t.ctx = s.t.ctx := rfl
@[simp] theorem advance_t_quarters (s : State) : (s.advance).t.quarters = s.t.quarters := rfl
@[simp] theorem advance_t_x (s : State) : (s.advance).t.x = s.t.x := rfl
@[simp] theorem advance_t_f (s : State) : (s.advance).t.f = s.t.f := rfl
@[simp] theorem advance_t_c (s : State) : (s.advance).t.c = s.t.c := rfl
@[simp] theorem advance_t_h (s : State) : (s.advance).t.h = s.t.h := rfl
@[simp] theorem advance_t_level (s : State) : (s.advance).t.level = s.t.level := rfl
@[simp] theorem advance_t_v (s : State) : (s.advance).t.v = s.t.v := rfl
@[simp] theorem advance_t_p (s : State) : (s.advance).t.p = s.t.p := rfl
@[simp] theorem advance_t_tags (s : State) : (s.advance).t.tags = s.t.tags := rfl
@[simp] theorem advance_t_vl (s : State) : (s.advance).t.vl = s.t.vl := rfl
@[simp] theorem advance_t_vtype (s : State) : (s.advance).t.vtype = s.t.vtype := rfl
@[simp] theorem advance_t_dvl (s : State) : (s.advance).t.dvl = s.t.dvl := rfl
@[simp] theorem advance_t_dvtype (s : State) : (s.advance).t.dvtype = s.t.dvtype := rfl
@[simp] theorem advance_t_vrsi (s : State) : (s.advance).t.vrsi = s.t.vrsi := rfl
@[simp] theorem advance_t_vrss (s : State) : (s.advance).t.vrss = s.t.vrss := rfl
@[simp] theorem advance_t_fflags (s : State) : (s.advance).t.fflags = s.t.fflags := rfl
@[simp] theorem advance_t_frm (s : State) : (s.advance).t.frm = s.t.frm := rfl
@[simp] theorem advance_t_gmode (s : State) : (s.advance).t.gmode = s.t.gmode := rfl
@[simp] theorem advance_t_tshape (s : State) : (s.advance).t.tshape = s.t.tshape := rfl
@[simp] theorem advance_t_dtshape (s : State) : (s.advance).t.dtshape = s.t.dtshape := rfl
@[simp] theorem advance_t_lstart (s : State) : (s.advance).t.lstart = s.t.lstart := rfl
@[simp] theorem advance_t_lend (s : State) : (s.advance).t.lend = s.t.lend := rfl
@[simp] theorem advance_t_lbypass (s : State) : (s.advance).t.lbypass = s.t.lbypass := rfl
@[simp] theorem advance_t_sthresh (s : State) : (s.advance).t.sthresh = s.t.sthresh := rfl
@[simp] theorem advance_t_taskix (s : State) : (s.advance).t.taskix = s.t.taskix := rfl
@[simp] theorem advance_t_digest (s : State) : (s.advance).t.digest = s.t.digest := rfl
@[simp] theorem advance_t_stageid (s : State) : (s.advance).t.stageid = s.t.stageid := rfl
@[simp] theorem advance_t_fgbase (s : State) : (s.advance).t.fgbase = s.t.fgbase := rfl
@[simp] theorem advance_t_trapcause (s : State) : (s.advance).t.trapcause = s.t.trapcause := rfl
@[simp] theorem advance_t_trapval (s : State) : (s.advance).t.trapval = s.t.trapval := rfl
@[simp] theorem advance_t_trappc (s : State) : (s.advance).t.trappc = s.t.trappc := rfl
@[simp] theorem advance_t_trapspc (s : State) : (s.advance).t.trapspc = s.t.trapspc := rfl
@[simp] theorem advance_t_traptime (s : State) : (s.advance).t.traptime = s.t.traptime := rfl
@[simp] theorem advance_t_trapstat (s : State) : (s.advance).t.trapstat = s.t.trapstat := rfl
@[simp] theorem advance_t_traplane (s : State) : (s.advance).t.traplane = s.t.traplane := rfl
@[simp] theorem advance_t_trapscr (s : State) : (s.advance).t.trapscr = s.t.trapscr := rfl
@[simp] theorem advance_t_tile (s : State) : (s.advance).t.tile = s.t.tile := rfl
@[simp] theorem advance_t_tileSave (s : State) : (s.advance).t.tileSave = s.t.tileSave := rfl
@[simp] theorem advance_t_chain (s : State) : (s.advance).t.chain = s.t.chain := rfl
@[simp] theorem advance_t_tokens (s : State) : (s.advance).t.tokens = s.t.tokens := rfl
@[simp] theorem advance_t_queue (s : State) : (s.advance).t.queue = s.t.queue := rfl
@[simp] theorem advance_t_scalars (s : State) : (s.advance).t.scalars = s.t.scalars := rfl
@[simp] theorem advance_t_scalarCount (s : State) : (s.advance).t.scalarCount = s.t.scalarCount := rfl
@[simp] theorem advance_t_posted (s : State) : (s.advance).t.posted = s.t.posted := rfl
@[simp] theorem advance_t_ev (s : State) : (s.advance).t.ev = s.t.ev := rfl
@[simp] theorem advance_t_woken (s : State) : (s.advance).t.woken = s.t.woken := rfl
@[simp] theorem advance_t_held (s : State) : (s.advance).t.held = s.t.held := rfl
@[simp] theorem advance_t_pipe (s : State) : (s.advance).t.pipe = s.t.pipe := rfl
@[simp] theorem advance_t_node (s : State) : (s.advance).t.node = s.t.node := rfl
@[simp] theorem advance_t_children (s : State) : (s.advance).t.children = s.t.children := rfl
@[simp] theorem advance_t_lastStamp (s : State) : (s.advance).t.lastStamp = s.t.lastStamp := rfl
@[simp] theorem advance_t_lastVector (s : State) : (s.advance).t.lastVector = s.t.lastVector := rfl
@[simp] theorem advance_t_ahead (s : State) : (s.advance).t.ahead = s.t.ahead := rfl

/-! ### `orderThread` -/

@[simp] theorem orderThread_pos (s : State) : (s.orderThread).pos = s.pos := rfl
@[simp] theorem orderThread_core (s : State) : (s.orderThread).core = s.core := rfl
@[simp] theorem orderThread_bay (s : State) : (s.orderThread).bay = s.bay := rfl
@[simp] theorem orderThread_ctx (s : State) : (s.orderThread).ctx = s.ctx := rfl
@[simp] theorem orderThread_threads (s : State) : (s.orderThread).threads = s.threads := rfl
@[simp] theorem orderThread_cores (s : State) : (s.orderThread).cores = s.cores := rfl
@[simp] theorem orderThread_bays (s : State) : (s.orderThread).bays = s.bays := rfl
@[simp] theorem orderThread_ctxs (s : State) : (s.orderThread).ctxs = s.ctxs := rfl
@[simp] theorem orderThread_mem (s : State) : (s.orderThread).mem = s.mem := rfl
@[simp] theorem orderThread_chk (s : State) : (s.orderThread).chk = s.chk := rfl
@[simp] theorem orderThread_quar (s : State) : (s.orderThread).quar = s.quar := rfl
@[simp] theorem orderThread_ops (s : State) : (s.orderThread).ops = s.ops := rfl
@[simp] theorem orderThread_nextOp (s : State) : (s.orderThread).nextOp = s.nextOp := rfl
@[simp] theorem orderThread_parks (s : State) : (s.orderThread).parks = s.parks := rfl
@[simp] theorem orderThread_walks (s : State) : (s.orderThread).walks = s.walks := rfl
@[simp] theorem orderThread_pipes (s : State) : (s.orderThread).pipes = s.pipes := rfl
@[simp] theorem orderThread_segs (s : State) : (s.orderThread).segs = s.segs := rfl
@[simp] theorem orderThread_net (s : State) : (s.orderThread).net = s.net := rfl
@[simp] theorem orderThread_out (s : State) : (s.orderThread).out = s.out := rfl
@[simp] theorem orderThread_reports (s : State) : (s.orderThread).reports = s.reports := rfl
@[simp] theorem orderThread_management (s : State) : (s.orderThread).management = s.management := rfl
@[simp] theorem orderThread_owners (s : State) : (s.orderThread).owners = s.owners := rfl
@[simp] theorem orderThread_extents (s : State) : (s.orderThread).extents = s.extents := rfl
@[simp] theorem orderThread_hdm (s : State) : (s.orderThread).hdm = s.hdm := rfl
@[simp] theorem orderThread_units (s : State) : (s.orderThread).units = s.units := rfl
@[simp] theorem orderThread_powered (s : State) : (s.orderThread).powered = s.powered := rfl
@[simp] theorem orderThread_ready (s : State) : (s.orderThread).ready = s.ready := rfl
@[simp] theorem orderThread_stopped (s : State) : (s.orderThread).stopped = s.stopped := rfl
@[simp] theorem orderThread_usableSlices (s : State) : (s.orderThread).usableSlices = s.usableSlices := rfl
@[simp] theorem orderThread_usableEthernet (s : State) : (s.orderThread).usableEthernet = s.usableEthernet := rfl
@[simp] theorem orderThread_usableCxl (s : State) : (s.orderThread).usableCxl = s.usableCxl := rfl
@[simp] theorem orderThread_clocks (s : State) : (s.orderThread).clocks = s.clocks := rfl
@[simp] theorem orderThread_calm (s : State) : (s.orderThread).calm = s.calm := rfl
@[simp] theorem orderThread_mram (s : State) : (s.orderThread).mram = s.mram := rfl
@[simp] theorem orderThread_booted (s : State) : (s.orderThread).booted = s.booted := rfl
@[simp] theorem orderThread_inlets (s : State) : (s.orderThread).inlets = s.inlets := rfl
@[simp] theorem orderThread_seconds (s : State) : (s.orderThread).seconds = s.seconds := rfl
@[simp] theorem orderThread_telemetry (s : State) : (s.orderThread).telemetry = s.telemetry := rfl
@[simp] theorem orderThread_sched (s : State) : (s.orderThread).sched = s.sched := rfl
@[simp] theorem orderThread_ch (s : State) : (s.orderThread).ch = s.ch := rfl
@[simp] theorem orderThread_t_live (s : State) : (s.orderThread).t.live = s.t.live := rfl
@[simp] theorem orderThread_t_ctx (s : State) : (s.orderThread).t.ctx = s.t.ctx := rfl
@[simp] theorem orderThread_t_quarters (s : State) : (s.orderThread).t.quarters = s.t.quarters := rfl
@[simp] theorem orderThread_t_x (s : State) : (s.orderThread).t.x = s.t.x := rfl
@[simp] theorem orderThread_t_f (s : State) : (s.orderThread).t.f = s.t.f := rfl
@[simp] theorem orderThread_t_c (s : State) : (s.orderThread).t.c = s.t.c := rfl
@[simp] theorem orderThread_t_h (s : State) : (s.orderThread).t.h = s.t.h := rfl
@[simp] theorem orderThread_t_pc (s : State) : (s.orderThread).t.pc = s.t.pc := rfl
@[simp] theorem orderThread_t_level (s : State) : (s.orderThread).t.level = s.t.level := rfl
@[simp] theorem orderThread_t_v (s : State) : (s.orderThread).t.v = s.t.v := rfl
@[simp] theorem orderThread_t_p (s : State) : (s.orderThread).t.p = s.t.p := rfl
@[simp] theorem orderThread_t_tags (s : State) : (s.orderThread).t.tags = s.t.tags := rfl
@[simp] theorem orderThread_t_vl (s : State) : (s.orderThread).t.vl = s.t.vl := rfl
@[simp] theorem orderThread_t_vtype (s : State) : (s.orderThread).t.vtype = s.t.vtype := rfl
@[simp] theorem orderThread_t_dvl (s : State) : (s.orderThread).t.dvl = s.t.dvl := rfl
@[simp] theorem orderThread_t_dvtype (s : State) : (s.orderThread).t.dvtype = s.t.dvtype := rfl
@[simp] theorem orderThread_t_vrsi (s : State) : (s.orderThread).t.vrsi = s.t.vrsi := rfl
@[simp] theorem orderThread_t_vrss (s : State) : (s.orderThread).t.vrss = s.t.vrss := rfl
@[simp] theorem orderThread_t_fflags (s : State) : (s.orderThread).t.fflags = s.t.fflags := rfl
@[simp] theorem orderThread_t_frm (s : State) : (s.orderThread).t.frm = s.t.frm := rfl
@[simp] theorem orderThread_t_gmode (s : State) : (s.orderThread).t.gmode = s.t.gmode := rfl
@[simp] theorem orderThread_t_tshape (s : State) : (s.orderThread).t.tshape = s.t.tshape := rfl
@[simp] theorem orderThread_t_dtshape (s : State) : (s.orderThread).t.dtshape = s.t.dtshape := rfl
@[simp] theorem orderThread_t_lcount (s : State) : (s.orderThread).t.lcount = s.t.lcount := rfl
@[simp] theorem orderThread_t_lstart (s : State) : (s.orderThread).t.lstart = s.t.lstart := rfl
@[simp] theorem orderThread_t_lend (s : State) : (s.orderThread).t.lend = s.t.lend := rfl
@[simp] theorem orderThread_t_lbypass (s : State) : (s.orderThread).t.lbypass = s.t.lbypass := rfl
@[simp] theorem orderThread_t_sthresh (s : State) : (s.orderThread).t.sthresh = s.t.sthresh := rfl
@[simp] theorem orderThread_t_taskix (s : State) : (s.orderThread).t.taskix = s.t.taskix := rfl
@[simp] theorem orderThread_t_digest (s : State) : (s.orderThread).t.digest = s.t.digest := rfl
@[simp] theorem orderThread_t_stageid (s : State) : (s.orderThread).t.stageid = s.t.stageid := rfl
@[simp] theorem orderThread_t_fgbase (s : State) : (s.orderThread).t.fgbase = s.t.fgbase := rfl
@[simp] theorem orderThread_t_trapcause (s : State) : (s.orderThread).t.trapcause = s.t.trapcause := rfl
@[simp] theorem orderThread_t_trapval (s : State) : (s.orderThread).t.trapval = s.t.trapval := rfl
@[simp] theorem orderThread_t_trappc (s : State) : (s.orderThread).t.trappc = s.t.trappc := rfl
@[simp] theorem orderThread_t_trapspc (s : State) : (s.orderThread).t.trapspc = s.t.trapspc := rfl
@[simp] theorem orderThread_t_traptime (s : State) : (s.orderThread).t.traptime = s.t.traptime := rfl
@[simp] theorem orderThread_t_trapstat (s : State) : (s.orderThread).t.trapstat = s.t.trapstat := rfl
@[simp] theorem orderThread_t_traplane (s : State) : (s.orderThread).t.traplane = s.t.traplane := rfl
@[simp] theorem orderThread_t_trapscr (s : State) : (s.orderThread).t.trapscr = s.t.trapscr := rfl
@[simp] theorem orderThread_t_tile (s : State) : (s.orderThread).t.tile = s.t.tile := rfl
@[simp] theorem orderThread_t_tileSave (s : State) : (s.orderThread).t.tileSave = s.t.tileSave := rfl
@[simp] theorem orderThread_t_chain (s : State) : (s.orderThread).t.chain = s.t.chain := rfl
@[simp] theorem orderThread_t_tokens (s : State) : (s.orderThread).t.tokens = s.t.tokens := rfl
@[simp] theorem orderThread_t_queue (s : State) : (s.orderThread).t.queue = s.t.queue := rfl
@[simp] theorem orderThread_t_scalars (s : State) : (s.orderThread).t.scalars = s.t.scalars := rfl
@[simp] theorem orderThread_t_scalarCount (s : State) : (s.orderThread).t.scalarCount = s.t.scalarCount := rfl
@[simp] theorem orderThread_t_posted (s : State) : (s.orderThread).t.posted = s.t.posted := rfl
@[simp] theorem orderThread_t_ev (s : State) : (s.orderThread).t.ev = s.t.ev := rfl
@[simp] theorem orderThread_t_wait (s : State) : (s.orderThread).t.wait = s.t.wait := rfl
@[simp] theorem orderThread_t_woken (s : State) : (s.orderThread).t.woken = s.t.woken := rfl
@[simp] theorem orderThread_t_held (s : State) : (s.orderThread).t.held = s.t.held := rfl
@[simp] theorem orderThread_t_pipe (s : State) : (s.orderThread).t.pipe = s.t.pipe := rfl
@[simp] theorem orderThread_t_node (s : State) : (s.orderThread).t.node = s.t.node := rfl
@[simp] theorem orderThread_t_children (s : State) : (s.orderThread).t.children = s.t.children := rfl
@[simp] theorem orderThread_t_lastVector (s : State) : (s.orderThread).t.lastVector = s.t.lastVector := rfl
@[simp] theorem orderThread_t_ahead (s : State) : (s.orderThread).t.ahead = s.t.ahead := rfl

/-! ### Register reads after a write -/

/-- x[q] after a write of x[r] (R39). -/
theorem readX_setX (s : State) (r q : Reg) (v : DWord) :
    (s.setX r v).t.readX q = if q = 0 then 0 else if q = r then v else s.t.readX q := by
  unfold State.setX Thread.writeX Thread.readX
  by_cases hr : r = 0
  · subst hr; grind
  · rw [if_neg hr]; simp only [Vector.getElem_set, BitVec.toNat_inj]; grind

/-- x0 keeps no value (R39). -/
@[simp] theorem setX_zero (s : State) (v : DWord) : s.setX 0 v = s := by simp [State.setX, Thread.writeX]

@[simp] theorem readX_zero (t : Thread) : t.readX 0 = 0 := by simp [Thread.readX]

@[simp] theorem readC_zero (t : Thread) : t.readC 0 = true := by simp [Thread.readC]

/-- f[q] after a write of f[r] (R39). -/
theorem readF_setF (s : State) (r q : Reg) (n : Nat) :
    (s.setF r n).t.readF q = if q = r then BitVec.ofNat 64 n else s.t.readF q := by
  simp [State.setF, Thread.writeF, Thread.readF, Vector.getElem_set, BitVec.toNat_inj, eq_comm]

@[simp] theorem readX_setF (s : State) (r q : Reg) (n : Nat) : (s.setF r n).t.readX q = s.t.readX q := rfl

@[simp] theorem readX_orFlags (s : State) (fl : BitVec 6) (q : Reg) : (s.orFlags fl).t.readX q = s.t.readX q := rfl

@[simp] theorem readX_orderThread (s : State) (q : Reg) : s.orderThread.t.readX q = s.t.readX q := rfl

@[simp] theorem readX_complete (s : State) (n : DWord) (q : Reg) : (s.complete n).t.readX q = s.t.readX q := rfl

/-! ### Records kept at numbers -/

theorem kget_kset {α : Type} (d : α) (k a : Nat) (v : α) (l : List (Nat × α)) :
    kget d (kset k v l) a = if a = k then v else kget d l a := by
  induction l with
  | nil => simp [kset, kget, eq_comm]
  | cons e r ih => grind [kset, kget]

theorem kget_kdrop {α : Type} (d : α) (k a : Nat) (l : List (Nat × α)) :
    kget d (kdrop k l) a = if a = k then d else kget d l a := by
  unfold kdrop
  induction l with
  | nil => simp [kget]
  | cons e r ih => grind [kget]

theorem mem_kset {α : Type} {k : Nat} {v : α} {l : List (Nat × α)} {e : Nat × α} (h : e ∈ kset k v l) : e = (k, v) ∨ e ∈ l := by
  induction l with
  | nil => exact .inl (List.mem_singleton.mp h)
  | cons x r ih =>
    obtain ⟨j, u⟩ := x
    simp only [kset] at h
    split at h
    · rcases List.mem_cons.mp h with rfl | h
      · simp
      · rcases ih h with rfl | h <;> simp_all
    · split at h <;> rcases List.mem_cons.mp h with rfl | h <;> simp_all

/-- The numbers stay in strictly rising order when a record is set. -/
theorem keys_kset {α : Type} (k : Nat) (v : α) {l : List (Nat × α)} (h : (l.map fun e => e.1).Pairwise (· < ·)) :
    ((kset k v l).map fun e => e.1).Pairwise (· < ·) := by
  induction l with
  | nil => simp [kset]
  | cons x r ih =>
    obtain ⟨j, u⟩ := x
    simp only [List.map_cons, List.pairwise_cons] at h
    simp only [kset]
    split
    · rename_i hj
      simp only [List.map_cons, List.pairwise_cons]
      refine ⟨fun a ha => ?_, ih h.2⟩
      obtain ⟨e, he, rfl⟩ := List.mem_map.mp ha
      rcases mem_kset he with rfl | he
      · exact hj
      · exact h.1 _ (List.mem_map_of_mem he)
    · split
      · subst_vars; simpa using h
      · simp only [List.map_cons, List.pairwise_cons, List.mem_cons]
        refine ⟨?_, h⟩
        rintro a (rfl | ha)
        · omega
        · have := h.1 a ha; omega

/-- The numbers stay in strictly rising order when records are left out. -/
theorem keys_filter {α : Type} (p : Nat × α → Bool) {l : List (Nat × α)} (h : (l.map fun e => e.1).Pairwise (· < ·)) :
    ((l.filter p).map fun e => e.1).Pairwise (· < ·) := h.sublist (List.filter_sublist.map _)

theorem keys_kdrop {α : Type} (k : Nat) {l : List (Nat × α)} (h : (l.map fun e => e.1).Pairwise (· < ·)) :
    ((kdrop k l).map fun e => e.1).Pairwise (· < ·) := keys_filter _ h

/-- A change of every record keeps the numbers. -/
@[simp] theorem keys_map {α : Type} (f : Nat → α → α) (l : List (Nat × α)) :
    (l.map fun e => (e.1, f e.1 e.2)).map (fun e => e.1) = l.map fun e => e.1 := by simp [Function.comp_def]

theorem mem_kdrop {α : Type} {k : Nat} {l : List (Nat × α)} {e : Nat × α} (h : e ∈ kdrop k l) : e ∈ l ∧ e.1 ≠ k := by
  simpa [kdrop] using h

/-- What a list of records holds at a number is one of its records, or the default. -/
theorem kget_mem {α : Type} (d : α) (l : List (Nat × α)) (k : Nat) : kget d l k = d ∨ (k, kget d l k) ∈ l := by
  induction l with
  | nil => exact .inl rfl
  | cons x r ih =>
    obtain ⟨j, u⟩ := x
    simp only [kget]
    split
    · subst_vars; exact .inr List.mem_cons_self
    · rcases ih with h | h
      · exact .inl h
      · exact .inr (List.mem_cons_of_mem _ h)

/-! ### Threads, cores, bays and contexts of the package -/

@[simp] theorem ctxAt_setCtx (s : State) (n k : Nat) (x : Context) :
    (s.setCtx n x).ctxAt k = if k = n then x else s.ctxAt k := by
  unfold State.setCtx State.ctxAt
  split
  · subst_vars; simp only; split <;> simp_all
  · simp only [kget_kset]; split <;> split <;> simp_all

@[simp] theorem threadAt_setThread (s : State) (n k : Nat) (t : Thread) :
    (s.setThread n t).threadAt k = if k = n then t else s.threadAt k := by
  unfold State.setThread State.threadAt
  split
  · subst_vars; simp only; split <;> simp_all
  · simp only [kget_kset]; split <;> split <;> simp_all

@[simp] theorem coreAt_setCore (s : State) (n k : Nat) (c : CoreState) :
    (s.setCore n c).coreAt k = if k = n then c else s.coreAt k := by
  unfold State.setCore State.coreAt
  split
  · subst_vars; simp only; split <;> simp_all
  · simp only [kget_kset]; split <;> split <;> simp_all

@[simp] theorem bayAt_setBay (s : State) (n k : Nat) (b : BayState) :
    (s.setBay n b).bayAt k = if k = n then b else s.bayAt k := by
  unfold State.setBay State.bayAt
  split
  · subst_vars; simp only; split <;> simp_all
  · simp only [kget_kset]; split <;> split <;> simp_all

/-- Focus changes which record is at hand, and no record. -/
@[simp] theorem focus_pos (s : State) (p : Nat) : (s.focus p).pos = p := by
  unfold State.focus; split
  · symm; assumption
  · rfl

@[simp] theorem threadAt_focus (s : State) (p k : Nat) : (s.focus p).threadAt k = s.threadAt k := by
  unfold State.focus; split
  · rfl
  · unfold State.threadAt; simp only [kget_kset, kget_kdrop]; split <;> split <;> simp_all

@[simp] theorem coreAt_focus (s : State) (p k : Nat) : (s.focus p).coreAt k = s.coreAt k := by
  unfold State.focus; split
  · rfl
  · unfold State.coreAt; simp only [kget_kset, kget_kdrop]; split <;> split <;> simp_all

@[simp] theorem bayAt_focus (s : State) (p k : Nat) : (s.focus p).bayAt k = s.bayAt k := by
  unfold State.focus; split
  · rfl
  · unfold State.bayAt; simp only [kget_kset, kget_kdrop]; split <;> split <;> simp_all

@[simp] theorem ctxAt_focus (s : State) (p k : Nat) : (s.focus p).ctxAt k = s.ctxAt k := by
  unfold State.focus; split
  · rfl
  · unfold State.ctxAt; simp only [kget_kset, kget_kdrop]; split <;> split <;> simp_all

/-- What focus leaves of the state that is not a record of a thread, core, bay or context. -/
theorem focus_rest (s : State) (p : Nat) : ∃ t c b x ts cs bs xs, s.focus p =
    { s with pos := p, t := t, core := c, bay := b, ctx := x, threads := ts, cores := cs, bays := bs, ctxs := xs } := by
  unfold State.focus; split
  · subst_vars; exact ⟨_, _, _, _, _, _, _, _, rfl⟩
  · exact ⟨_, _, _, _, _, _, _, _, rfl⟩

/-- No thread of a context is left once its threads are cleared (R390). -/
theorem clearThreads_gone (s : State) (n : Nat) : ∀ e ∈ (s.clearThreads n).allThreads, e.2.live = true → e.2.ctx ≠ n := by
  have key : ∀ t : Thread, (if t.live && t.ctx == n then idleThread t else t).live = true →
      (if t.live && t.ctx == n then idleThread t else t).ctx ≠ n := by
    intro t; split
    · simp [idleThread]
    · intro h; simp_all
  intro e he
  unfold State.allThreads at he
  rcases List.mem_cons.mp he with rfl | he
  · exact key _
  · have := List.mem_of_mem_filter he
    unfold State.clearThreads State.mapThreads at this
    simp only [State.mapCores, State.mapBays, List.mem_map] at this
    obtain ⟨a, -, rfl⟩ := this
    exact key _

end Sys2Proof.Machine
end

