-- ==== Sys2Proof/Laws/Operations.lean ====
section
/-! SUPPORT. What the shared operations over a word can do: how it ends, taking a trap, commit points, and its scalar accesses. -/

namespace Sys2Proof.Machine

/-! ### How a word ends -/

@[simp] theorem finish_ok (s : State) : finish (.ok s) = .next s := rfl

@[simp] theorem finish_raise (s : State) (c : Cause) (v : DWord) : finish (raise s c v) = .next (s.takeTrap (scalarTrap s c v)) := rfl

@[simp] theorem finish_hold (s : State) : finish (hold s) = .next { s with t := { s.t with wait := some { kind := .hold } } } := rfl

/-- Every run of a word has a next state. -/
theorem finish_next (r : Run State) : ∃ t, finish r = .next t := by
  unfold finish; split <;> exact ⟨_, rfl⟩

/-- A word that does not end a hardware loop goes on at the next address (R94). -/
theorem complete_plain (s : State) (n : DWord) (h : s.t.lcount = 0 ∨ s.t.pc ≠ s.t.lend ∨ n ≠ s.t.pc + 4) :
    s.complete n = { s with t := { s.t with pc := n, wait := none } } := by
  have : ¬ (s.t.lcount ≠ 0 ∧ s.t.pc = s.t.lend ∧ n = s.t.pc + 4) := by tauto
  unfold State.complete loopCheck
  rw [if_neg this]

/-! ### Taking a trap (R385, R386, R390) -/

/-- Inside a handler a trap ends the context with double-trap, and its own code is the value. -/
theorem takeTrap_double (s : State) (i : TrapInfo) (h : s.t.inTrap = true) :
    s.takeTrap i = s.endContext s.t.ctx cause.double i.pc (i.cause.setWidth 64) (s.trapTime s.t) := by
  unfold State.takeTrap; rw [if_pos h]

/-- With no handler enabled a trap ends the context with its cause. -/
theorem takeTrap_ends (s : State) (i : TrapInfo) (h : s.t.inTrap = false) (hv : s.ctx.trapvec.getLsbD 0 = false) :
    s.takeTrap i = s.endContext s.t.ctx i.cause i.pc i.val (s.trapTime s.t) := by
  unfold State.takeTrap; rw [h, hv]; rfl

/-- What an entered trap changes: the registers that it saves into, the level, the program counter, the record of its park and the
model's count of free stamps; memory and every other record stay. -/
theorem takeTrap_enters (s : State) (i : TrapInfo) (h : s.t.inTrap = false) (hv : s.ctx.trapvec.getLsbD 0 = true) :
    ∃ time parks, s.takeTrap i = { s with
      tick := s.tick + 1
      parks := parks
      t := { s.t with
        trapcause := i.causeWord, trapval := i.val, trappc := i.pc, trapspc := i.spc, traplane := i.laneWord, traptime := time,
        trapstat := (if s.t.level then 1 else 0) ||| 2, level := true, wait := none, woken := false,
        pc := s.ctx.trapvec &&& 0xFFFFFFFFFFFC } } := by
  unfold State.takeTrap State.unpark; simp only [h, hv, Bool.false_eq_true, if_false, Bool.not_true]; exact ⟨_, _, rfl⟩

/-- A copy that takes an entry of its scoreboard changes the records of cores alone (R258). -/
theorem takeScore_cores (s : State) (o : EngineOp) : ∃ core cores, s.takeScore o = { s with core := core, cores := cores } := by
  unfold State.takeScore State.setCore
  dsimp only
  split_ifs <;> exact ⟨_, _, rfl⟩

theorem takeScores_cores (l : List EngineOp) (s : State) : ∃ core cores, l.foldl State.takeScore s = { s with core := core, cores := cores } := by
  induction l generalizing s with
  | nil => exact ⟨_, _, rfl⟩
  | cons o l ih =>
    obtain ⟨c, cs, h⟩ := takeScore_cores s o
    rw [List.foldl_cons, h]
    exact ih { s with core := c, cores := cs }

/-- The end of a context leaves memory as it was. -/
@[simp] theorem endContext_mem (s : State) (n : Nat) (c : Cause) (pc val time : DWord) : (s.endContext n c pc val time).mem = s.mem := by
  unfold State.endContext State.setCtx
  dsimp only
  generalize hu : State.allScores _ = u
  unfold State.allScores at hu
  obtain ⟨a, b, h⟩ := takeScores_cores _ _
  rw [h] at hu
  subst hu
  unfold State.report
  dsimp only
  split <;> rfl

/-- A trap leaves memory as it was. -/
@[simp] theorem takeTrap_mem (s : State) (i : TrapInfo) : (s.takeTrap i).mem = s.mem := by
  unfold State.takeTrap
  split
  · exact endContext_mem ..
  · split
    · exact endContext_mem ..
    · rfl

/-! ### Commit points of deterministic tasks (R429) -/

/-- With no segment open a commit point is passed at once. -/
theorem commitPoint_none {s : State} (h : s.mySegment = none) : s.commitPoint = .ok (.passed, s) := by
  unfold State.commitPoint; rw [h]; simp

theorem nextSegment_none {s : State} (h : s.mySegment = none) : s.nextSegment = s := by
  unfold State.nextSegment; rw [h]

/-- With no segment open a word that is a commit point only takes its own steps. -/
theorem committing_ok {s u : State} {f : State → Run State} (h : s.mySegment = none) (hf : f s = .ok u) (hu : u.mySegment = none) :
    s.committing f = .ok u := by
  unfold State.committing; rw [commitPoint_none h]; simp only [hf, nextSegment_none hu]

theorem committing_trap {s u : State} {f : State → Run State} {c : Cause} {v : DWord} (h : s.mySegment = none)
    (hf : f s = .error (.trap c v, u)) (hu : u.mySegment = none) : s.committing f = .error (.trap c v, u) := by
  unfold State.committing; rw [commitPoint_none h]; simp only [hf, nextSegment_none hu]

theorem committing_wait {s u : State} {f : State → Run State} {w : WaitRec} (h : s.mySegment = none)
    (hf : f s = .error (.wait w, u)) : s.committing f = .error (.wait w, u) := by
  unfold State.committing; rw [commitPoint_none h]; simp only [hf]

/-! ### Scalar accesses (R103, R104, R107) -/

theorem checkScalar_misaligned {a : ScalarAcc} {s : State} (h : a.va.toNat % a.bytes ≠ 0) :
    s.checkScalar a = raise s cause.misaligned a.va := by unfold State.checkScalar; rw [if_pos h]

/-- The check of an aligned access that translates and whose line is good gives it its physical address (R104). -/
theorem checkScalar_ok {s u : State} {a : ScalarAcc} {pa r : Nat} (h : a.va.toNat % a.bytes = 0)
    (ht : s.translate s.agent a.kind.access a.va.toNat = .ok ((pa, r), u)) (hl : u.lineOk (pa / 128) = true) :
    ∃ page, s.checkScalar a = .ok ({ a with pa := pa, page := page }, u) := by
  have hk : u.checkLine s.t.ctx a.kind.consumer a.va.toNat pa = .ok u := by
    unfold State.lineOk at hl
    simp only [Bool.and_eq_true, Bool.not_eq_true', beq_iff_eq] at hl
    unfold State.checkLine
    rw [hl.2, if_neg (by decide), if_pos hl.1]
  unfold State.checkScalar
  rw [if_neg (by simpa using h), ht]
  simp only [hk]
  exact ⟨_, rfl⟩

/-- With no deferral asked for and nothing queued, an access is performed at its word (R107, R241). -/
theorem defers_now {s : State} (k : ScalarKind) (hd : s.ch.deferScalar = false) (hq : s.t.scalars = []) : s.defers k = false := by
  simp [State.defers, hd, hq]

/-- Outside a task the deferral that the machine chooses holds for every access, and behind a queued access for each (R241). -/
theorem defers_later {s : State} (k : ScalarKind) (h : s.ch.deferScalar = true ∧ s.inTask = false ∨ s.t.scalars ≠ []) :
    s.defers k = true := by
  rcases h with ⟨h, i⟩ | h <;> simp [State.defers, *]

/-- A checked access that is not deferred is performed at its word (R107, R241). -/
theorem accessScalar_now {s u : State} {a b : ScalarAcc} (h : s.checkScalar a = .ok (b, u)) (hd : u.ch.deferScalar = false)
    (hq : u.t.scalars = []) (hh : u.scalarHeld b = false) :
    s.accessScalar a = .ok (({ u with t := { u.t with scalarCount := u.t.scalarCount + 1 } } : State).performScalar b) := by
  unfold State.accessScalar
  rw [h]
  simp [hq, hh, defers_now b.kind hd hq]

/-- A checked access that is deferred, or that stands behind another, enters the queue (R243, R244). -/
theorem accessScalar_later {s u : State} {a b : ScalarAcc} (h : s.checkScalar a = .ok (b, u)) (hd : u.defers b.kind = true) :
    s.accessScalar a = .ok (u.queueScalar b) := by
  unfold State.accessScalar
  rw [h]
  simp [hd]

/-- What a cache step leaves of the agent's open segment. -/
theorem segment_cacheStep {s u : State} (h : CacheStep s u) (ag : Agent) : u.segment ag = s.segment ag := by
  obtain ⟨a, b, c, d, rfl⟩ := h; rfl

/-! ### The step -/

/-- What a decoded word does at its turn (R35, R86, R110). -/
theorem runWord_ok {v : Word} {i : Instr} {s : State} (h : decodeWord v = .ok i) (hp : s.pendingBit i = false) (hd : s.mustDrain i = false) :
    runWord v s = exec i s := by
  unfold runWord runDecoded; rw [h]; simp only [hp, hd, Bool.or_self, Bool.false_eq_true, if_false]

end Sys2Proof.Machine
end

