-- ==== Sys2Proof/Laws/PerInstr.lean ====
section
/-! SUPPORT. What holds of each instruction as a term, constructor by constructor. -/

namespace Sys2Proof.Laws.Fits
open Sys2Proof Sys2Proof.Machine

/-- The entries that an instruction takes are no more than a thread's queue has (R218): on an empty queue none waits for room. -/
def Statement (i : Instr) : Prop := entrySlots i ≤ 64

theorem add : ∀ a0 a1 a2, Statement (.add a0 a1 a2) := fun _ _ _ => Nat.le_of_ble_eq_true rfl
theorem sub : ∀ a0 a1 a2, Statement (.sub a0 a1 a2) := fun _ _ _ => Nat.le_of_ble_eq_true rfl
theorem mul : ∀ a0 a1 a2, Statement (.mul a0 a1 a2) := fun _ _ _ => Nat.le_of_ble_eq_true rfl
theorem mulh : ∀ a0 a1 a2, Statement (.mulh a0 a1 a2) := fun _ _ _ => Nat.le_of_ble_eq_true rfl
theorem mulhu : ∀ a0 a1 a2, Statement (.mulhu a0 a1 a2) := fun _ _ _ => Nat.le_of_ble_eq_true rfl
theorem div : ∀ a0 a1 a2, Statement (.div a0 a1 a2) := fun _ _ _ => Nat.le_of_ble_eq_true rfl
theorem divu : ∀ a0 a1 a2, Statement (.divu a0 a1 a2) := fun _ _ _ => Nat.le_of_ble_eq_true rfl
theorem rem : ∀ a0 a1 a2, Statement (.rem a0 a1 a2) := fun _ _ _ => Nat.le_of_ble_eq_true rfl
theorem remu : ∀ a0 a1 a2, Statement (.remu a0 a1 a2) := fun _ _ _ => Nat.le_of_ble_eq_true rfl
theorem sll : ∀ a0 a1 a2, Statement (.sll a0 a1 a2) := fun _ _ _ => Nat.le_of_ble_eq_true rfl
theorem srl : ∀ a0 a1 a2, Statement (.srl a0 a1 a2) := fun _ _ _ => Nat.le_of_ble_eq_true rfl
theorem sra : ∀ a0 a1 a2, Statement (.sra a0 a1 a2) := fun _ _ _ => Nat.le_of_ble_eq_true rfl
theorem and_ : ∀ a0 a1 a2, Statement (.and_ a0 a1 a2) := fun _ _ _ => Nat.le_of_ble_eq_true rfl
theorem or_ : ∀ a0 a1 a2, Statement (.or_ a0 a1 a2) := fun _ _ _ => Nat.le_of_ble_eq_true rfl
theorem xor_ : ∀ a0 a1 a2, Statement (.xor_ a0 a1 a2) := fun _ _ _ => Nat.le_of_ble_eq_true rfl
theorem min_ : ∀ a0 a1 a2, Statement (.min_ a0 a1 a2) := fun _ _ _ => Nat.le_of_ble_eq_true rfl
theorem max_ : ∀ a0 a1 a2, Statement (.max_ a0 a1 a2) := fun _ _ _ => Nat.le_of_ble_eq_true rfl
theorem minu : ∀ a0 a1 a2, Statement (.minu a0 a1 a2) := fun _ _ _ => Nat.le_of_ble_eq_true rfl
theorem maxu : ∀ a0 a1 a2, Statement (.maxu a0 a1 a2) := fun _ _ _ => Nat.le_of_ble_eq_true rfl
theorem andn : ∀ a0 a1 a2, Statement (.andn a0 a1 a2) := fun _ _ _ => Nat.le_of_ble_eq_true rfl
theorem clz : ∀ a0 a1, Statement (.clz a0 a1) := fun _ _ => Nat.le_of_ble_eq_true rfl
theorem ctz : ∀ a0 a1, Statement (.ctz a0 a1) := fun _ _ => Nat.le_of_ble_eq_true rfl
theorem cpop : ∀ a0 a1, Statement (.cpop a0 a1) := fun _ _ => Nat.le_of_ble_eq_true rfl
theorem sextb : ∀ a0 a1, Statement (.sextb a0 a1) := fun _ _ => Nat.le_of_ble_eq_true rfl
theorem sexth : ∀ a0 a1, Statement (.sexth a0 a1) := fun _ _ => Nat.le_of_ble_eq_true rfl
theorem zexth : ∀ a0 a1, Statement (.zexth a0 a1) := fun _ _ => Nat.le_of_ble_eq_true rfl
theorem addi : ∀ a0 a1 a2, Statement (.addi a0 a1 a2) := fun _ _ _ => Nat.le_of_ble_eq_true rfl
theorem slli : ∀ a0 a1 a2, Statement (.slli a0 a1 a2) := fun _ _ _ => Nat.le_of_ble_eq_true rfl
theorem srli : ∀ a0 a1 a2, Statement (.srli a0 a1 a2) := fun _ _ _ => Nat.le_of_ble_eq_true rfl
theorem srai : ∀ a0 a1 a2, Statement (.srai a0 a1 a2) := fun _ _ _ => Nat.le_of_ble_eq_true rfl
theorem andi : ∀ a0 a1 a2, Statement (.andi a0 a1 a2) := fun _ _ _ => Nat.le_of_ble_eq_true rfl
theorem ori : ∀ a0 a1 a2, Statement (.ori a0 a1 a2) := fun _ _ _ => Nat.le_of_ble_eq_true rfl
theorem xori : ∀ a0 a1 a2, Statement (.xori a0 a1 a2) := fun _ _ _ => Nat.le_of_ble_eq_true rfl
theorem lui : ∀ a0 a1, Statement (.lui a0 a1) := fun _ _ => Nat.le_of_ble_eq_true rfl
theorem auipc : ∀ a0 a1, Statement (.auipc a0 a1) := fun _ _ => Nat.le_of_ble_eq_true rfl
theorem ceq : ∀ a0 a1 a2 a3, Statement (.ceq a0 a1 a2 a3) := fun _ _ _ _ => Nat.le_of_ble_eq_true rfl
theorem cne : ∀ a0 a1 a2 a3, Statement (.cne a0 a1 a2 a3) := fun _ _ _ _ => Nat.le_of_ble_eq_true rfl
theorem clt : ∀ a0 a1 a2 a3, Statement (.clt a0 a1 a2 a3) := fun _ _ _ _ => Nat.le_of_ble_eq_true rfl
theorem cge : ∀ a0 a1 a2 a3, Statement (.cge a0 a1 a2 a3) := fun _ _ _ _ => Nat.le_of_ble_eq_true rfl
theorem cltu : ∀ a0 a1 a2 a3, Statement (.cltu a0 a1 a2 a3) := fun _ _ _ _ => Nat.le_of_ble_eq_true rfl
theorem cgeu : ∀ a0 a1 a2 a3, Statement (.cgeu a0 a1 a2 a3) := fun _ _ _ _ => Nat.le_of_ble_eq_true rfl
theorem ccmb : ∀ a0 a1 a2 a3 a4 a5, Statement (.ccmb a0 a1 a2 a3 a4 a5) := fun _ _ _ _ _ _ => Nat.le_of_ble_eq_true rfl
theorem crdx : ∀ a0, Statement (.crdx a0) := fun _ => Nat.le_of_ble_eq_true rfl
theorem cwrx : ∀ a0, Statement (.cwrx a0) := fun _ => Nat.le_of_ble_eq_true rfl
theorem ceqi : ∀ a0 a1 a2 a3, Statement (.ceqi a0 a1 a2 a3) := fun _ _ _ _ => Nat.le_of_ble_eq_true rfl
theorem cnei : ∀ a0 a1 a2 a3, Statement (.cnei a0 a1 a2 a3) := fun _ _ _ _ => Nat.le_of_ble_eq_true rfl
theorem clti : ∀ a0 a1 a2 a3, Statement (.clti a0 a1 a2 a3) := fun _ _ _ _ => Nat.le_of_ble_eq_true rfl
theorem cgei : ∀ a0 a1 a2 a3, Statement (.cgei a0 a1 a2 a3) := fun _ _ _ _ => Nat.le_of_ble_eq_true rfl
theorem cltui : ∀ a0 a1 a2 a3, Statement (.cltui a0 a1 a2 a3) := fun _ _ _ _ => Nat.le_of_ble_eq_true rfl
theorem cgeui : ∀ a0 a1 a2 a3, Statement (.cgeui a0 a1 a2 a3) := fun _ _ _ _ => Nat.le_of_ble_eq_true rfl
theorem cbiti : ∀ a0 a1 a2 a3, Statement (.cbiti a0 a1 a2 a3) := fun _ _ _ _ => Nat.le_of_ble_eq_true rfl
theorem bc : ∀ a0 a1, Statement (.bc a0 a1) := fun _ _ => Nat.le_of_ble_eq_true rfl
theorem bcn : ∀ a0 a1, Statement (.bcn a0 a1) := fun _ _ => Nat.le_of_ble_eq_true rfl
theorem jal : ∀ a0 a1, Statement (.jal a0 a1) := fun _ _ => Nat.le_of_ble_eq_true rfl
theorem jalr : ∀ a0 a1 a2, Statement (.jalr a0 a1 a2) := fun _ _ _ => Nat.le_of_ble_eq_true rfl
theorem loop : ∀ a0 a1, Statement (.loop a0 a1) := fun _ _ => Nat.le_of_ble_eq_true rfl
theorem pref : ∀ a0 a1 a2, Statement (.pref a0 a1 a2) := fun _ _ _ => Nat.le_of_ble_eq_true rfl
theorem lfetch : ∀ a0 a1 a2, Statement (.lfetch a0 a1 a2) := fun _ _ _ => Nat.le_of_ble_eq_true rfl
theorem stop : Statement .stop := Nat.le_of_ble_eq_true rfl
theorem fadd : ∀ a0 a1 a2 a3, Statement (.fadd a0 a1 a2 a3) := fun _ _ _ _ => Nat.le_of_ble_eq_true rfl
theorem fsub : ∀ a0 a1 a2 a3, Statement (.fsub a0 a1 a2 a3) := fun _ _ _ _ => Nat.le_of_ble_eq_true rfl
theorem fmul : ∀ a0 a1 a2 a3, Statement (.fmul a0 a1 a2 a3) := fun _ _ _ _ => Nat.le_of_ble_eq_true rfl
theorem fdiv : ∀ a0 a1 a2 a3, Statement (.fdiv a0 a1 a2 a3) := fun _ _ _ _ => Nat.le_of_ble_eq_true rfl
theorem fsqrt : ∀ a0 a1 a2, Statement (.fsqrt a0 a1 a2) := fun _ _ _ => Nat.le_of_ble_eq_true rfl
theorem fmin : ∀ a0 a1 a2 a3, Statement (.fmin a0 a1 a2 a3) := fun _ _ _ _ => Nat.le_of_ble_eq_true rfl
theorem fmax : ∀ a0 a1 a2 a3, Statement (.fmax a0 a1 a2 a3) := fun _ _ _ _ => Nat.le_of_ble_eq_true rfl
theorem fsgnj : ∀ a0 a1 a2 a3, Statement (.fsgnj a0 a1 a2 a3) := fun _ _ _ _ => Nat.le_of_ble_eq_true rfl
theorem fsgnjn : ∀ a0 a1 a2 a3, Statement (.fsgnjn a0 a1 a2 a3) := fun _ _ _ _ => Nat.le_of_ble_eq_true rfl
theorem fsgnjx : ∀ a0 a1 a2 a3, Statement (.fsgnjx a0 a1 a2 a3) := fun _ _ _ _ => Nat.le_of_ble_eq_true rfl
theorem fcvt : ∀ a0 a1 a2 a3, Statement (.fcvt a0 a1 a2 a3) := fun _ _ _ _ => Nat.le_of_ble_eq_true rfl
theorem fmvxf : ∀ a0 a1 a2, Statement (.fmvxf a0 a1 a2) := fun _ _ _ => Nat.le_of_ble_eq_true rfl
theorem fmvfx : ∀ a0 a1 a2, Statement (.fmvfx a0 a1 a2) := fun _ _ _ => Nat.le_of_ble_eq_true rfl
theorem fclass : ∀ a0 a1 a2, Statement (.fclass a0 a1 a2) := fun _ _ _ => Nat.le_of_ble_eq_true rfl
theorem fceq : ∀ a0 a1 a2 a3 a4, Statement (.fceq a0 a1 a2 a3 a4) := fun _ _ _ _ _ => Nat.le_of_ble_eq_true rfl
theorem fclt : ∀ a0 a1 a2 a3 a4, Statement (.fclt a0 a1 a2 a3 a4) := fun _ _ _ _ _ => Nat.le_of_ble_eq_true rfl
theorem fcle : ∀ a0 a1 a2 a3 a4, Statement (.fcle a0 a1 a2 a3 a4) := fun _ _ _ _ _ => Nat.le_of_ble_eq_true rfl
theorem fmadd : ∀ a0 a1 a2 a3 a4, Statement (.fmadd a0 a1 a2 a3 a4) := fun _ _ _ _ _ => Nat.le_of_ble_eq_true rfl
theorem fmsub : ∀ a0 a1 a2 a3 a4, Statement (.fmsub a0 a1 a2 a3 a4) := fun _ _ _ _ _ => Nat.le_of_ble_eq_true rfl
theorem fnmadd : ∀ a0 a1 a2 a3 a4, Statement (.fnmadd a0 a1 a2 a3 a4) := fun _ _ _ _ _ => Nat.le_of_ble_eq_true rfl
theorem fnmsub : ∀ a0 a1 a2 a3 a4, Statement (.fnmsub a0 a1 a2 a3 a4) := fun _ _ _ _ _ => Nat.le_of_ble_eq_true rfl
theorem lb : ∀ a0 a1 a2, Statement (.lb a0 a1 a2) := fun _ _ _ => Nat.le_of_ble_eq_true rfl
theorem lh : ∀ a0 a1 a2, Statement (.lh a0 a1 a2) := fun _ _ _ => Nat.le_of_ble_eq_true rfl
theorem lw : ∀ a0 a1 a2, Statement (.lw a0 a1 a2) := fun _ _ _ => Nat.le_of_ble_eq_true rfl
theorem ld : ∀ a0 a1 a2, Statement (.ld a0 a1 a2) := fun _ _ _ => Nat.le_of_ble_eq_true rfl
theorem lbu : ∀ a0 a1 a2, Statement (.lbu a0 a1 a2) := fun _ _ _ => Nat.le_of_ble_eq_true rfl
theorem lhu : ∀ a0 a1 a2, Statement (.lhu a0 a1 a2) := fun _ _ _ => Nat.le_of_ble_eq_true rfl
theorem lwu : ∀ a0 a1 a2, Statement (.lwu a0 a1 a2) := fun _ _ _ => Nat.le_of_ble_eq_true rfl
theorem flh : ∀ a0 a1 a2, Statement (.flh a0 a1 a2) := fun _ _ _ => Nat.le_of_ble_eq_true rfl
theorem flw : ∀ a0 a1 a2, Statement (.flw a0 a1 a2) := fun _ _ _ => Nat.le_of_ble_eq_true rfl
theorem fld : ∀ a0 a1 a2, Statement (.fld a0 a1 a2) := fun _ _ _ => Nat.le_of_ble_eq_true rfl
theorem sb : ∀ a0 a1 a2, Statement (.sb a0 a1 a2) := fun _ _ _ => Nat.le_of_ble_eq_true rfl
theorem sh : ∀ a0 a1 a2, Statement (.sh a0 a1 a2) := fun _ _ _ => Nat.le_of_ble_eq_true rfl
theorem sw : ∀ a0 a1 a2, Statement (.sw a0 a1 a2) := fun _ _ _ => Nat.le_of_ble_eq_true rfl
theorem sd : ∀ a0 a1 a2, Statement (.sd a0 a1 a2) := fun _ _ _ => Nat.le_of_ble_eq_true rfl
theorem fsh : ∀ a0 a1 a2, Statement (.fsh a0 a1 a2) := fun _ _ _ => Nat.le_of_ble_eq_true rfl
theorem fsw : ∀ a0 a1 a2, Statement (.fsw a0 a1 a2) := fun _ _ _ => Nat.le_of_ble_eq_true rfl
theorem fsd : ∀ a0 a1 a2, Statement (.fsd a0 a1 a2) := fun _ _ _ => Nat.le_of_ble_eq_true rfl
theorem amoadd : ∀ a0 a1 a2 a3, Statement (.amoadd a0 a1 a2 a3) := fun _ _ _ _ => Nat.le_of_ble_eq_true rfl
theorem amoswap : ∀ a0 a1 a2 a3, Statement (.amoswap a0 a1 a2 a3) := fun _ _ _ _ => Nat.le_of_ble_eq_true rfl
theorem amocas : ∀ a0 a1 a2 a3, Statement (.amocas a0 a1 a2 a3) := fun _ _ _ _ => Nat.le_of_ble_eq_true rfl
theorem amomin : ∀ a0 a1 a2 a3, Statement (.amomin a0 a1 a2 a3) := fun _ _ _ _ => Nat.le_of_ble_eq_true rfl
theorem amomax : ∀ a0 a1 a2 a3, Statement (.amomax a0 a1 a2 a3) := fun _ _ _ _ => Nat.le_of_ble_eq_true rfl
theorem amominu : ∀ a0 a1 a2 a3, Statement (.amominu a0 a1 a2 a3) := fun _ _ _ _ => Nat.le_of_ble_eq_true rfl
theorem amomaxu : ∀ a0 a1 a2 a3, Statement (.amomaxu a0 a1 a2 a3) := fun _ _ _ _ => Nat.le_of_ble_eq_true rfl
theorem amoand : ∀ a0 a1 a2 a3, Statement (.amoand a0 a1 a2 a3) := fun _ _ _ _ => Nat.le_of_ble_eq_true rfl
theorem amoor : ∀ a0 a1 a2 a3, Statement (.amoor a0 a1 a2 a3) := fun _ _ _ _ => Nat.le_of_ble_eq_true rfl
theorem amoxor : ∀ a0 a1 a2 a3, Statement (.amoxor a0 a1 a2 a3) := fun _ _ _ _ => Nat.le_of_ble_eq_true rfl
theorem scall : Statement .scall := Nat.le_of_ble_eq_true rfl
theorem sbrk : Statement .sbrk := Nat.le_of_ble_eq_true rfl
theorem sret : Statement .sret := Nat.le_of_ble_eq_true rfl
theorem wfe : Statement .wfe := Nat.le_of_ble_eq_true rfl
theorem halt : Statement .halt := Nat.le_of_ble_eq_true rfl
theorem atcinv : ∀ a0, Statement (.atcinv a0) := fun _ => Nat.le_of_ble_eq_true rfl
theorem srd : ∀ a0 a1, Statement (.srd a0 a1) := fun _ _ => Nat.le_of_ble_eq_true rfl
theorem swr : ∀ a0 a1, Statement (.swr a0 a1) := fun _ _ => Nat.le_of_ble_eq_true rfl
theorem sset : ∀ a0 a1, Statement (.sset a0 a1) := fun _ _ => Nat.le_of_ble_eq_true rfl
theorem sclr : ∀ a0 a1, Statement (.sclr a0 a1) := fun _ _ => Nat.le_of_ble_eq_true rfl
theorem readVectorStatus : ∀ a0 a1, Statement (.readVectorStatus a0 a1) := fun _ _ => Nat.le_of_ble_eq_true rfl
theorem readTshape : ∀ a0, Statement (.readTshape a0) := fun _ => Nat.le_of_ble_eq_true rfl
theorem writeVectorStatus : ∀ a0 a1 a2, Statement (.writeVectorStatus a0 a1 a2) := fun _ _ _ => Nat.le_of_ble_eq_true rfl
theorem writeFrm : ∀ a0 a1, Statement (.writeFrm a0 a1) := fun _ _ => Nat.le_of_ble_eq_true rfl
theorem writeLoopRegisters : ∀ a0 a1 a2, Statement (.writeLoopRegisters a0 a1 a2) := fun _ _ _ => Nat.le_of_ble_eq_true rfl
theorem writePtbase : ∀ a0 a1, Statement (.writePtbase a0 a1) := fun _ _ => Nat.le_of_ble_eq_true rfl
theorem writeSpbase : ∀ a0 a1, Statement (.writeSpbase a0 a1) := fun _ _ => Nat.le_of_ble_eq_true rfl
theorem writeFrtbase : ∀ a0 a1, Statement (.writeFrtbase a0 a1) := fun _ _ => Nat.le_of_ble_eq_true rfl
theorem writeMarchsel : ∀ a0 a1, Statement (.writeMarchsel a0 a1) := fun _ _ => Nat.le_of_ble_eq_true rfl
theorem writeDigestControl : ∀ a0 a1 a2, Statement (.writeDigestControl a0 a1 a2) := fun _ _ _ => Nat.le_of_ble_eq_true rfl
theorem vsetvl : ∀ a0 a1 a2, Statement (.vsetvl a0 a1 a2) := fun _ _ _ => Nat.le_of_ble_eq_true rfl
theorem vsetvli : ∀ a0 a1 a2, Statement (.vsetvli a0 a1 a2) := fun _ _ _ => Nat.le_of_ble_eq_true rfl
theorem modet : ∀ a0, Statement (.modet a0) := fun _ => Nat.le_of_ble_eq_true rfl
theorem tileAcquire : ∀ a0, Statement (.tileAcquire a0) := fun _ => Nat.le_of_ble_eq_true rfl
theorem modev : Statement .modev := Nat.le_of_ble_eq_true rfl
theorem gdecl : ∀ a0 a1, Statement (.gdecl a0 a1) := fun _ _ => Nat.le_of_ble_eq_true rfl
theorem gtag : ∀ a0 a1, Statement (.gtag a0 a1) := fun _ _ => Nat.le_of_ble_eq_true rfl
theorem vblk : ∀ a0 a1, Statement (.vblk a0 a1) := fun _ _ => Nat.le_of_ble_eq_true rfl
theorem vjoin : Statement .vjoin := Nat.le_of_ble_eq_true rfl
theorem laneGroupIssue : ∀ a0, Statement (.laneGroupIssue a0) := fun _ => Nat.le_of_ble_eq_true rfl
theorem vadd : ∀ a0 a1 a2 a3 a4, Statement (.vadd a0 a1 a2 a3 a4) := fun _ _ _ _ _ => Nat.le_of_ble_eq_true rfl
theorem vsub : ∀ a0 a1 a2 a3 a4, Statement (.vsub a0 a1 a2 a3 a4) := fun _ _ _ _ _ => Nat.le_of_ble_eq_true rfl
theorem vmul : ∀ a0 a1 a2 a3 a4, Statement (.vmul a0 a1 a2 a3 a4) := fun _ _ _ _ _ => Nat.le_of_ble_eq_true rfl
theorem vmulh : ∀ a0 a1 a2 a3 a4, Statement (.vmulh a0 a1 a2 a3 a4) := fun _ _ _ _ _ => Nat.le_of_ble_eq_true rfl
theorem vmulhu : ∀ a0 a1 a2 a3 a4, Statement (.vmulhu a0 a1 a2 a3 a4) := fun _ _ _ _ _ => Nat.le_of_ble_eq_true rfl
theorem vmacc : ∀ a0 a1 a2 a3 a4, Statement (.vmacc a0 a1 a2 a3 a4) := fun _ _ _ _ _ => Nat.le_of_ble_eq_true rfl
theorem vand : ∀ a0 a1 a2 a3 a4, Statement (.vand a0 a1 a2 a3 a4) := fun _ _ _ _ _ => Nat.le_of_ble_eq_true rfl
theorem vor : ∀ a0 a1 a2 a3 a4, Statement (.vor a0 a1 a2 a3 a4) := fun _ _ _ _ _ => Nat.le_of_ble_eq_true rfl
theorem vxor : ∀ a0 a1 a2 a3 a4, Statement (.vxor a0 a1 a2 a3 a4) := fun _ _ _ _ _ => Nat.le_of_ble_eq_true rfl
theorem vsll : ∀ a0 a1 a2 a3 a4, Statement (.vsll a0 a1 a2 a3 a4) := fun _ _ _ _ _ => Nat.le_of_ble_eq_true rfl
theorem vsrl : ∀ a0 a1 a2 a3 a4, Statement (.vsrl a0 a1 a2 a3 a4) := fun _ _ _ _ _ => Nat.le_of_ble_eq_true rfl
theorem vsra : ∀ a0 a1 a2 a3 a4, Statement (.vsra a0 a1 a2 a3 a4) := fun _ _ _ _ _ => Nat.le_of_ble_eq_true rfl
theorem vmin : ∀ a0 a1 a2 a3 a4, Statement (.vmin a0 a1 a2 a3 a4) := fun _ _ _ _ _ => Nat.le_of_ble_eq_true rfl
theorem vmax : ∀ a0 a1 a2 a3 a4, Statement (.vmax a0 a1 a2 a3 a4) := fun _ _ _ _ _ => Nat.le_of_ble_eq_true rfl
theorem vminu : ∀ a0 a1 a2 a3 a4, Statement (.vminu a0 a1 a2 a3 a4) := fun _ _ _ _ _ => Nat.le_of_ble_eq_true rfl
theorem vmaxu : ∀ a0 a1 a2 a3 a4, Statement (.vmaxu a0 a1 a2 a3 a4) := fun _ _ _ _ _ => Nat.le_of_ble_eq_true rfl
theorem vfadd : ∀ a0 a1 a2 a3 a4, Statement (.vfadd a0 a1 a2 a3 a4) := fun _ _ _ _ _ => Nat.le_of_ble_eq_true rfl
theorem vfsub : ∀ a0 a1 a2 a3 a4, Statement (.vfsub a0 a1 a2 a3 a4) := fun _ _ _ _ _ => Nat.le_of_ble_eq_true rfl
theorem vfmul : ∀ a0 a1 a2 a3 a4, Statement (.vfmul a0 a1 a2 a3 a4) := fun _ _ _ _ _ => Nat.le_of_ble_eq_true rfl
theorem vfdiv : ∀ a0 a1 a2 a3 a4, Statement (.vfdiv a0 a1 a2 a3 a4) := fun _ _ _ _ _ => Nat.le_of_ble_eq_true rfl
theorem vfsqrt : ∀ a0 a1 a2, Statement (.vfsqrt a0 a1 a2) := fun _ _ _ => Nat.le_of_ble_eq_true rfl
theorem vfmacc : ∀ a0 a1 a2 a3 a4, Statement (.vfmacc a0 a1 a2 a3 a4) := fun _ _ _ _ _ => Nat.le_of_ble_eq_true rfl
theorem vfnmsac : ∀ a0 a1 a2 a3 a4, Statement (.vfnmsac a0 a1 a2 a3 a4) := fun _ _ _ _ _ => Nat.le_of_ble_eq_true rfl
theorem vfmin : ∀ a0 a1 a2 a3 a4, Statement (.vfmin a0 a1 a2 a3 a4) := fun _ _ _ _ _ => Nat.le_of_ble_eq_true rfl
theorem vfmax : ∀ a0 a1 a2 a3 a4, Statement (.vfmax a0 a1 a2 a3 a4) := fun _ _ _ _ _ => Nat.le_of_ble_eq_true rfl
theorem vfcvt : ∀ a0 a1 a2 a3, Statement (.vfcvt a0 a1 a2 a3) := fun _ _ _ _ => Nat.le_of_ble_eq_true rfl
theorem vfsgnj : ∀ a0 a1 a2 a3 a4, Statement (.vfsgnj a0 a1 a2 a3 a4) := fun _ _ _ _ _ => Nat.le_of_ble_eq_true rfl
theorem vfrsqrte : ∀ a0 a1 a2, Statement (.vfrsqrte a0 a1 a2) := fun _ _ _ => Nat.le_of_ble_eq_true rfl
theorem vfclass : ∀ a0 a1 a2, Statement (.vfclass a0 a1 a2) := fun _ _ _ => Nat.le_of_ble_eq_true rfl
theorem vmix : ∀ a0 a1 a2 a3 a4, Statement (.vmix a0 a1 a2 a3 a4) := fun _ _ _ _ _ => Nat.le_of_ble_eq_true rfl
theorem vfdot4 : ∀ a0 a1 a2 a3 a4, Statement (.vfdot4 a0 a1 a2 a3 a4) := fun _ _ _ _ _ => Nat.le_of_ble_eq_true rfl
theorem vfmerge : ∀ a0 a1 a2 a3 a4, Statement (.vfmerge a0 a1 a2 a3 a4) := fun _ _ _ _ _ => Nat.le_of_ble_eq_true rfl
theorem vstep : ∀ a0 a1 a2 a3, Statement (.vstep a0 a1 a2 a3) := fun _ _ _ _ => Nat.le_of_ble_eq_true rfl
theorem vxch : ∀ a0 a1 a2 a3 a4, Statement (.vxch a0 a1 a2 a3 a4) := fun _ _ _ _ _ => Nat.le_of_ble_eq_true rfl
theorem vslideup : ∀ a0 a1 a2 a3 a4, Statement (.vslideup a0 a1 a2 a3 a4) := fun _ _ _ _ _ => Nat.le_of_ble_eq_true rfl
theorem vslidedn : ∀ a0 a1 a2 a3 a4, Statement (.vslidedn a0 a1 a2 a3 a4) := fun _ _ _ _ _ => Nat.le_of_ble_eq_true rfl
theorem vgather : ∀ a0 a1 a2 a3 a4, Statement (.vgather a0 a1 a2 a3 a4) := fun _ _ _ _ _ => Nat.le_of_ble_eq_true rfl
theorem vcompress : ∀ a0 a1 a2, Statement (.vcompress a0 a1 a2) := fun _ _ _ => Nat.le_of_ble_eq_true rfl
theorem vconf : ∀ a0 a1 a2, Statement (.vconf a0 a1 a2) := fun _ _ _ => Nat.le_of_ble_eq_true rfl
theorem vreds : ∀ a0 a1 a2 a3 a4, Statement (.vreds a0 a1 a2 a3 a4) := fun _ _ _ _ _ => Nat.le_of_ble_eq_true rfl
theorem vfredo : ∀ a0 a1 a2 a3 a4, Statement (.vfredo a0 a1 a2 a3 a4) := fun _ _ _ _ _ => Nat.le_of_ble_eq_true rfl
theorem vredmin : ∀ a0 a1 a2 a3 a4, Statement (.vredmin a0 a1 a2 a3 a4) := fun _ _ _ _ _ => Nat.le_of_ble_eq_true rfl
theorem vredmax : ∀ a0 a1 a2 a3 a4, Statement (.vredmax a0 a1 a2 a3 a4) := fun _ _ _ _ _ => Nat.le_of_ble_eq_true rfl
theorem vmvxs : ∀ a0 a1 a2 a3, Statement (.vmvxs a0 a1 a2 a3) := fun _ _ _ _ => Nat.le_of_ble_eq_true rfl
theorem vmvsx : ∀ a0 a1 a2, Statement (.vmvsx a0 a1 a2) := fun _ _ _ => Nat.le_of_ble_eq_true rfl
theorem vpopc : ∀ a0 a1 a2, Statement (.vpopc a0 a1 a2) := fun _ _ _ => Nat.le_of_ble_eq_true rfl
theorem vfirst : ∀ a0 a1 a2, Statement (.vfirst a0 a1 a2) := fun _ _ _ => Nat.le_of_ble_eq_true rfl
theorem pand : ∀ a0 a1 a2 a3, Statement (.pand a0 a1 a2 a3) := fun _ _ _ _ => Nat.le_of_ble_eq_true rfl
theorem por : ∀ a0 a1 a2 a3, Statement (.por a0 a1 a2 a3) := fun _ _ _ _ => Nat.le_of_ble_eq_true rfl
theorem pxor : ∀ a0 a1 a2 a3, Statement (.pxor a0 a1 a2 a3) := fun _ _ _ _ => Nat.le_of_ble_eq_true rfl
theorem pandn : ∀ a0 a1 a2 a3, Statement (.pandn a0 a1 a2 a3) := fun _ _ _ _ => Nat.le_of_ble_eq_true rfl
theorem pnot : ∀ a0 a1 a2, Statement (.pnot a0 a1 a2) := fun _ _ _ => Nat.le_of_ble_eq_true rfl
theorem pset : ∀ a0 a1, Statement (.pset a0 a1) := fun _ _ => Nat.le_of_ble_eq_true rfl
theorem pclr : ∀ a0 a1, Statement (.pclr a0 a1) := fun _ _ => Nat.le_of_ble_eq_true rfl
theorem vcmpeq : ∀ a0 a1 a2 a3 a4, Statement (.vcmpeq a0 a1 a2 a3 a4) := fun _ _ _ _ _ => Nat.le_of_ble_eq_true rfl
theorem vcmpne : ∀ a0 a1 a2 a3 a4, Statement (.vcmpne a0 a1 a2 a3 a4) := fun _ _ _ _ _ => Nat.le_of_ble_eq_true rfl
theorem vcmplt : ∀ a0 a1 a2 a3 a4, Statement (.vcmplt a0 a1 a2 a3 a4) := fun _ _ _ _ _ => Nat.le_of_ble_eq_true rfl
theorem vcmpltu : ∀ a0 a1 a2 a3 a4, Statement (.vcmpltu a0 a1 a2 a3 a4) := fun _ _ _ _ _ => Nat.le_of_ble_eq_true rfl
theorem vcmpge : ∀ a0 a1 a2 a3 a4, Statement (.vcmpge a0 a1 a2 a3 a4) := fun _ _ _ _ _ => Nat.le_of_ble_eq_true rfl
theorem vfcmpeq : ∀ a0 a1 a2 a3 a4, Statement (.vfcmpeq a0 a1 a2 a3 a4) := fun _ _ _ _ _ => Nat.le_of_ble_eq_true rfl
theorem vfcmplt : ∀ a0 a1 a2 a3 a4, Statement (.vfcmplt a0 a1 a2 a3 a4) := fun _ _ _ _ _ => Nat.le_of_ble_eq_true rfl
theorem vfcmple : ∀ a0 a1 a2 a3 a4, Statement (.vfcmple a0 a1 a2 a3 a4) := fun _ _ _ _ _ => Nat.le_of_ble_eq_true rfl
theorem pmerge : ∀ a0 a1 a2 a3, Statement (.pmerge a0 a1 a2 a3) := fun _ _ _ _ => Nat.le_of_ble_eq_true rfl
theorem vld : ∀ a0 a1 a2 a3, Statement (.vld a0 a1 a2 a3) := fun _ _ _ _ => Nat.le_of_ble_eq_true rfl
theorem vlds : ∀ a0 a1 a2 a3 a4, Statement (.vlds a0 a1 a2 a3 a4) := fun _ _ _ _ _ => Nat.le_of_ble_eq_true rfl
theorem vldx : ∀ a0 a1 a2 a3 a4, Statement (.vldx a0 a1 a2 a3 a4) := fun _ _ _ _ _ => Nat.le_of_ble_eq_true rfl
theorem vldf : ∀ a0 a1 a2, Statement (.vldf a0 a1 a2) := fun _ _ _ => Nat.le_of_ble_eq_true rfl
theorem vldfS : ∀ a0 a1 a2 a3, Statement (.vldfS a0 a1 a2 a3) := fun _ _ _ _ => Nat.le_of_ble_eq_true rfl
theorem vldfX : ∀ a0 a1 a2 a3, Statement (.vldfX a0 a1 a2 a3) := fun _ _ _ _ => Nat.le_of_ble_eq_true rfl
theorem vldr : ∀ a0 a1 a2, Statement (.vldr a0 a1 a2) := fun _ _ _ => Nat.le_of_ble_eq_true rfl
theorem vldrS : ∀ a0 a1 a2 a3, Statement (.vldrS a0 a1 a2 a3) := fun _ _ _ _ => Nat.le_of_ble_eq_true rfl
theorem vldrX : ∀ a0 a1 a2 a3, Statement (.vldrX a0 a1 a2 a3) := fun _ _ _ _ => Nat.le_of_ble_eq_true rfl
theorem vldg : ∀ a0 a1 a2, Statement (.vldg a0 a1 a2) := fun _ _ _ => Nat.le_of_ble_eq_true rfl
theorem vldgS : ∀ a0 a1 a2 a3, Statement (.vldgS a0 a1 a2 a3) := fun _ _ _ _ => Nat.le_of_ble_eq_true rfl
theorem vldgX : ∀ a0 a1 a2 a3, Statement (.vldgX a0 a1 a2 a3) := fun _ _ _ _ => Nat.le_of_ble_eq_true rfl
theorem vldP : ∀ a0 a1, Statement (.vldP a0 a1) := fun _ _ => Nat.le_of_ble_eq_true rfl
theorem texs : ∀ a0 a1 a2 a3, Statement (.texs a0 a1 a2 a3) := fun _ _ _ _ => Nat.le_of_ble_eq_true rfl
theorem vst : ∀ a0 a1 a2 a3, Statement (.vst a0 a1 a2 a3) := fun _ _ _ _ => Nat.le_of_ble_eq_true rfl
theorem vsts : ∀ a0 a1 a2 a3 a4, Statement (.vsts a0 a1 a2 a3 a4) := fun _ _ _ _ _ => Nat.le_of_ble_eq_true rfl
theorem vstx : ∀ a0 a1 a2 a3 a4, Statement (.vstx a0 a1 a2 a3 a4) := fun _ _ _ _ _ => Nat.le_of_ble_eq_true rfl
theorem vstF : ∀ a0 a1 a2, Statement (.vstF a0 a1 a2) := fun _ _ _ => Nat.le_of_ble_eq_true rfl
theorem vstsF : ∀ a0 a1 a2 a3, Statement (.vstsF a0 a1 a2 a3) := fun _ _ _ _ => Nat.le_of_ble_eq_true rfl
theorem vstxF : ∀ a0 a1 a2 a3, Statement (.vstxF a0 a1 a2 a3) := fun _ _ _ _ => Nat.le_of_ble_eq_true rfl
theorem vstr : ∀ a0 a1 a2, Statement (.vstr a0 a1 a2) := fun _ _ _ => Nat.le_of_ble_eq_true rfl
theorem vstrS : ∀ a0 a1 a2 a3, Statement (.vstrS a0 a1 a2 a3) := fun _ _ _ _ => Nat.le_of_ble_eq_true rfl
theorem vstrX : ∀ a0 a1 a2 a3, Statement (.vstrX a0 a1 a2 a3) := fun _ _ _ _ => Nat.le_of_ble_eq_true rfl
theorem vstg : ∀ a0 a1 a2, Statement (.vstg a0 a1 a2) := fun _ _ _ => Nat.le_of_ble_eq_true rfl
theorem vstgS : ∀ a0 a1 a2 a3, Statement (.vstgS a0 a1 a2 a3) := fun _ _ _ _ => Nat.le_of_ble_eq_true rfl
theorem vstgX : ∀ a0 a1 a2 a3, Statement (.vstgX a0 a1 a2 a3) := fun _ _ _ _ => Nat.le_of_ble_eq_true rfl
theorem vstP : ∀ a0 a1, Statement (.vstP a0 a1) := fun _ _ => Nat.le_of_ble_eq_true rfl
theorem vscadd : ∀ a0 a1 a2 a3 a4, Statement (.vscadd a0 a1 a2 a3 a4) := fun _ _ _ _ _ => Nat.le_of_ble_eq_true rfl
theorem vstc : ∀ a0 a1 a2 a3, Statement (.vstc a0 a1 a2 a3) := fun _ _ _ _ => Nat.le_of_ble_eq_true rfl
theorem gp : ∀ a0 a1 a2 a3 a4 a5 a6, Statement (.gp a0 a1 a2 a3 a4 a5 a6) := fun _ _ _ _ _ _ _ => Nat.le_of_ble_eq_true rfl
theorem gwedge : ∀ a0 a1 a2 a3 a4 a5 a6, Statement (.gwedge a0 a1 a2 a3 a4 a5 a6) := fun _ _ _ _ _ _ _ => Nat.le_of_ble_eq_true rfl
theorem gjoin : ∀ a0 a1 a2 a3 a4 a5 a6, Statement (.gjoin a0 a1 a2 a3 a4 a5 a6) := fun _ _ _ _ _ _ _ => Nat.le_of_ble_eq_true rfl
theorem gldot : ∀ a0 a1 a2 a3 a4 a5 a6, Statement (.gldot a0 a1 a2 a3 a4 a5 a6) := fun _ _ _ _ _ _ _ => Nat.le_of_ble_eq_true rfl
theorem gsand : ∀ a0 a1 a2 a3 a4 a5 a6, Statement (.gsand a0 a1 a2 a3 a4 a5 a6) := fun _ _ _ _ _ _ _ => Nat.le_of_ble_eq_true rfl
theorem gcomm : ∀ a0 a1 a2 a3 a4 a5 a6, Statement (.gcomm a0 a1 a2 a3 a4 a5 a6) := fun _ _ _ _ _ _ _ => Nat.le_of_ble_eq_true rfl
theorem gproj : ∀ a0 a1 a2 a3 a4 a5, Statement (.gproj a0 a1 a2 a3 a4 a5) := fun _ _ _ _ _ _ => Nat.le_of_ble_eq_true rfl
theorem grev : ∀ a0 a1 a2 a3 a4, Statement (.grev a0 a1 a2 a3 a4) := fun _ _ _ _ _ => Nat.le_of_ble_eq_true rfl
theorem ginvol : ∀ a0 a1 a2 a3 a4, Statement (.ginvol a0 a1 a2 a3 a4) := fun _ _ _ _ _ => Nat.le_of_ble_eq_true rfl
theorem gdual : ∀ a0 a1 a2 a3 a4, Statement (.gdual a0 a1 a2 a3 a4) := fun _ _ _ _ _ => Nat.le_of_ble_eq_true rfl
theorem gnormsq : ∀ a0 a1 a2 a3 a4, Statement (.gnormsq a0 a1 a2 a3 a4) := fun _ _ _ _ _ => Nat.le_of_ble_eq_true rfl
theorem gnorm : ∀ a0 a1 a2 a3 a4, Statement (.gnorm a0 a1 a2 a3 a4) := fun _ _ _ _ _ => Nat.le_of_ble_eq_true rfl
theorem gnormz : ∀ a0 a1 a2 a3 a4, Statement (.gnormz a0 a1 a2 a3 a4) := fun _ _ _ _ _ => Nat.le_of_ble_eq_true rfl
theorem gexp : ∀ a0 a1 a2 a3 a4, Statement (.gexp a0 a1 a2 a3 a4) := fun _ _ _ _ _ => Nat.le_of_ble_eq_true rfl
theorem glog : ∀ a0 a1 a2 a3 a4, Statement (.glog a0 a1 a2 a3 a4) := fun _ _ _ _ _ => Nat.le_of_ble_eq_true rfl
theorem gsqrt : ∀ a0 a1 a2 a3 a4, Statement (.gsqrt a0 a1 a2 a3 a4) := fun _ _ _ _ _ => Nat.le_of_ble_eq_true rfl
theorem ginv : ∀ a0 a1 a2 a3 a4, Statement (.ginv a0 a1 a2 a3 a4) := fun _ _ _ _ _ => Nat.le_of_ble_eq_true rfl
theorem tzero : ∀ a0, Statement (.tzero a0) := fun _ => Nat.le_of_ble_eq_true rfl
theorem topa : ∀ a0 a1 a2 a3 a4, Statement (.topa a0 a1 a2 a3 a4) := fun _ _ _ _ _ => Nat.le_of_ble_eq_true rfl
theorem topas : ∀ a0 a1 a2 a3 a4, Statement (.topas a0 a1 a2 a3 a4) := fun _ _ _ _ _ => Nat.le_of_ble_eq_true rfl
theorem topasRead : ∀ a0, Statement (.topasRead a0) := fun _ => Nat.le_of_ble_eq_true rfl
theorem tdrain : ∀ a0 a1 a2 a3, Statement (.tdrain a0 a1 a2 a3) := fun _ _ _ _ => Nat.le_of_ble_eq_true rfl
theorem tldz : ∀ a0 a1 a2, Statement (.tldz a0 a1 a2) := fun _ _ _ => Nat.le_of_ble_eq_true rfl
theorem tstz : ∀ a0 a1 a2, Statement (.tstz a0 a1 a2) := fun _ _ _ => Nat.le_of_ble_eq_true rfl
theorem tshape : ∀ a0 a1, Statement (.tshape a0 a1) := fun _ _ => Nat.le_of_ble_eq_true rfl
theorem tfetch : ∀ a0 a1 a2, Statement (.tfetch a0 a1 a2) := fun _ _ _ => Nat.le_of_ble_eq_true rfl
theorem hldh : ∀ a0 a1, Statement (.hldh a0 a1) := fun _ _ => Nat.le_of_ble_eq_true rfl
theorem hsth : ∀ a0 a1, Statement (.hsth a0 a1) := fun _ _ => Nat.le_of_ble_eq_true rfl
theorem hld : ∀ a0 a1 a2, Statement (.hld a0 a1 a2) := fun _ _ _ => Nat.le_of_ble_eq_true rfl
theorem hst : ∀ a0 a1 a2, Statement (.hst a0 a1 a2) := fun _ _ _ => Nat.le_of_ble_eq_true rfl
theorem hstTry : ∀ a0 a1 a2 a3, Statement (.hstTry a0 a1 a2 a3) := fun _ _ _ _ => Nat.le_of_ble_eq_true rfl
theorem hiter : ∀ a0 a1, Statement (.hiter a0 a1) := fun _ _ => Nat.le_of_ble_eq_true rfl
theorem hattach : ∀ a0 a1 a2, Statement (.hattach a0 a1 a2) := fun _ _ _ => Nat.le_of_ble_eq_true rfl
theorem hdetach : ∀ a0 a1 a2, Statement (.hdetach a0 a1 a2) := fun _ _ _ => Nat.le_of_ble_eq_true rfl
theorem hinfo : ∀ a0 a1 a2, Statement (.hinfo a0 a1 a2) := fun _ _ _ => Nat.le_of_ble_eq_true rfl
theorem forkCopy : ∀ a0 a1 a2, Statement (.forkCopy a0 a1 a2) := fun _ _ _ => Nat.le_of_ble_eq_true rfl
theorem forkFold : ∀ a0 a1 a2, Statement (.forkFold a0 a1 a2) := fun _ _ _ => Nat.le_of_ble_eq_true rfl
theorem forkBlend : ∀ a0 a1 a2, Statement (.forkBlend a0 a1 a2) := fun _ _ _ => Nat.le_of_ble_eq_true rfl
theorem forkMarch : ∀ a0 a1 a2, Statement (.forkMarch a0 a1 a2) := fun _ _ _ => Nat.le_of_ble_eq_true rfl
theorem rdv : ∀ a0 a1, Statement (.rdv a0 a1) := fun _ _ => Nat.le_of_ble_eq_true rfl
theorem cpy : ∀ a0 a1 a2 a3, Statement (.cpy a0 a1 a2 a3) := fun _ _ _ _ => Nat.le_of_ble_eq_true rfl
theorem cwait : ∀ a0 a1 a2, Statement (.cwait a0 a1 a2) := fun _ _ _ => Nat.le_of_ble_eq_true rfl
theorem cwaitR : ∀ a0 a1 a2, Statement (.cwaitR a0 a1 a2) := fun _ _ _ => Nat.le_of_ble_eq_true rfl
theorem cwaitTimeout : ∀ a0, Statement (.cwaitTimeout a0) := fun _ => Nat.le_of_ble_eq_true rfl
theorem ctest : ∀ a0 a1, Statement (.ctest a0 a1) := fun _ _ => Nat.le_of_ble_eq_true rfl
theorem publish : ∀ a0 a1, Statement (.publish a0 a1) := fun _ _ => Nat.le_of_ble_eq_true rfl
theorem publishDiscard : ∀ a0 a1, Statement (.publishDiscard a0 a1) := fun _ _ => Nat.le_of_ble_eq_true rfl
theorem msend : ∀ a0 a1 a2 a3, Statement (.msend a0 a1 a2 a3) := fun _ _ _ _ => Nat.le_of_ble_eq_true rfl
theorem mrecv : ∀ a0 a1 a2, Statement (.mrecv a0 a1 a2) := fun _ _ _ => Nat.le_of_ble_eq_true rfl
theorem mrecvTry : ∀ a0 a1 a2, Statement (.mrecvTry a0 a1 a2) := fun _ _ _ => Nat.le_of_ble_eq_true rfl
theorem launch : ∀ a0 a1, Statement (.launch a0 a1) := fun _ _ => Nat.le_of_ble_eq_true rfl
theorem emit : ∀ a0 a1, Statement (.emit a0 a1) := fun _ _ => Nat.le_of_ble_eq_true rfl
theorem emitTry : ∀ a0 a1 a2, Statement (.emitTry a0 a1 a2) := fun _ _ _ => Nat.le_of_ble_eq_true rfl
theorem take : ∀ a0 a1, Statement (.take a0 a1) := fun _ _ => Nat.le_of_ble_eq_true rfl
theorem rcast : ∀ a0 a1 a2, Statement (.rcast a0 a1 a2) := fun _ _ _ => Nat.le_of_ble_eq_true rfl
theorem rresume : ∀ a0 a1 a2, Statement (.rresume a0 a1 a2) := fun _ _ _ => Nat.le_of_ble_eq_true rfl
theorem rquery : ∀ a0 a1, Statement (.rquery a0 a1) := fun _ _ => Nat.le_of_ble_eq_true rfl
theorem fsv : Statement .fsv := Nat.le_of_ble_eq_true rfl
theorem fvs : Statement .fvs := Nat.le_of_ble_eq_true rfl
theorem fvv : Statement .fvv := Nat.le_of_ble_eq_true rfl
theorem barv : ∀ a0 a1 a2, Statement (.barv a0 a1 a2) := fun _ _ _ => Nat.le_of_ble_eq_true rfl
theorem bwait : ∀ a0 a1 a2, Statement (.bwait a0 a1 a2) := fun _ _ _ => Nat.le_of_ble_eq_true rfl
theorem bset : ∀ a0 a1 a2, Statement (.bset a0 a1 a2) := fun _ _ _ => Nat.le_of_ble_eq_true rfl
theorem ifence : ∀ a0 a1 a2, Statement (.ifence a0 a1 a2) := fun _ _ _ => Nat.le_of_ble_eq_true rfl
theorem isync : Statement .isync := Nat.le_of_ble_eq_true rfl
theorem dfence : ∀ a0, Statement (.dfence a0) := fun _ => Nat.le_of_ble_eq_true rfl
theorem park : ∀ a0 a1 a2, Statement (.park a0 a1 a2) := fun _ _ _ => Nat.le_of_ble_eq_true rfl
theorem parkReread : ∀ a0, Statement (.parkReread a0) := fun _ => Nat.le_of_ble_eq_true rfl
theorem wake : ∀ a0 a1 a2 a3, Statement (.wake a0 a1 a2 a3) := fun _ _ _ _ => Nat.le_of_ble_eq_true rfl
theorem wfeWake : ∀ a0, Statement (.wfeWake a0) := fun _ => Nat.le_of_ble_eq_true rfl
theorem vectorAdmit : ∀ a0, Statement (.vectorAdmit a0) := fun _ => Nat.le_of_ble_eq_true rfl
theorem vectorCommit : ∀ a0, Statement (.vectorCommit a0) := fun _ => Nat.le_of_ble_eq_true rfl
theorem vectorElementStep : ∀ a0, Statement (.vectorElementStep a0) := fun _ => Nat.le_of_ble_eq_true rfl
theorem postStep : ∀ a0, Statement (.postStep a0) := fun _ => Nat.le_of_ble_eq_true rfl
theorem postedElementStep : ∀ a0 a1 a2, Statement (.postedElementStep a0 a1 a2) := fun _ _ _ => Nat.le_of_ble_eq_true rfl
theorem engineAccessStep : ∀ a0, Statement (.engineAccessStep a0) := fun _ => Nat.le_of_ble_eq_true rfl
theorem engineWriteStep : ∀ a0, Statement (.engineWriteStep a0) := fun _ => Nat.le_of_ble_eq_true rfl
theorem scoreboardTake : ∀ a0, Statement (.scoreboardTake a0) := fun _ => Nat.le_of_ble_eq_true rfl
theorem copyRetire : ∀ a0, Statement (.copyRetire a0) := fun _ => Nat.le_of_ble_eq_true rfl
theorem automaticPublish : ∀ a0, Statement (.automaticPublish a0) := fun _ => Nat.le_of_ble_eq_true rfl
theorem readyStep : ∀ a0, Statement (.readyStep a0) := fun _ => Nat.le_of_ble_eq_true rfl
theorem finalStep : ∀ a0, Statement (.finalStep a0) := fun _ => Nat.le_of_ble_eq_true rfl
theorem foldRead : ∀ a0, Statement (.foldRead a0) := fun _ => Nat.le_of_ble_eq_true rfl
theorem foldPublish : ∀ a0, Statement (.foldPublish a0) := fun _ => Nat.le_of_ble_eq_true rfl
theorem blendTile : ∀ a0, Statement (.blendTile a0) := fun _ => Nat.le_of_ble_eq_true rfl
theorem rayAdmission : ∀ a0, Statement (.rayAdmission a0) := fun _ => Nat.le_of_ble_eq_true rfl
theorem marchStep : ∀ a0 a1, Statement (.marchStep a0 a1) := fun _ _ => Nat.le_of_ble_eq_true rfl
theorem bvhStep : ∀ a0 a1, Statement (.bvhStep a0 a1) := fun _ _ => Nat.le_of_ble_eq_true rfl
theorem rayReadmit : ∀ a0 a1, Statement (.rayReadmit a0 a1) := fun _ _ => Nat.le_of_ble_eq_true rfl
theorem rayResume : ∀ a0 a1, Statement (.rayResume a0 a1) := fun _ _ => Nat.le_of_ble_eq_true rfl
theorem hitRecordPush : ∀ a0 a1, Statement (.hitRecordPush a0 a1) := fun _ _ => Nat.le_of_ble_eq_true rfl
theorem walkQuery : ∀ a0 a1, Statement (.walkQuery a0 a1) := fun _ _ => Nat.le_of_ble_eq_true rfl
theorem schedulerDecision : ∀ a0, Statement (.schedulerDecision a0) := fun _ => Nat.le_of_ble_eq_true rfl
theorem emitUnblock : ∀ a0, Statement (.emitUnblock a0) := fun _ => Nat.le_of_ble_eq_true rfl
theorem bwaitComplete : ∀ a0, Statement (.bwaitComplete a0) := fun _ => Nat.le_of_ble_eq_true rfl
theorem mrecvDequeue : ∀ a0, Statement (.mrecvDequeue a0) := fun _ => Nat.le_of_ble_eq_true rfl
theorem messageDelivery : ∀ a0, Statement (.messageDelivery a0) := fun _ => Nat.le_of_ble_eq_true rfl
theorem hostMessage : ∀ a0 a1, Statement (.hostMessage a0 a1) := fun _ _ => Nat.le_of_ble_eq_true rfl
theorem frameFault : ∀ a0 a1 a2 a3 a4, Statement (.frameFault a0 a1 a2 a3 a4) := fun _ _ _ _ _ => Nat.le_of_ble_eq_true rfl
theorem define_ : ∀ a0, Statement (.define_ a0) := fun _ => Nat.le_of_ble_eq_true rfl
theorem reside : ∀ a0, Statement (.reside a0) := fun _ => Nat.le_of_ble_eq_true rfl
theorem evict : ∀ a0, Statement (.evict a0) := fun _ => Nat.le_of_ble_eq_true rfl
theorem stopContext : ∀ a0, Statement (.stopContext a0) := fun _ => Nat.le_of_ble_eq_true rfl
theorem grant : ∀ a0 a1 a2 a3, Statement (.grant a0 a1 a2 a3) := fun _ _ _ _ => Nat.le_of_ble_eq_true rfl
theorem release_ : ∀ a0 a1 a2, Statement (.release_ a0 a1 a2) := fun _ _ _ => Nat.le_of_ble_eq_true rfl
theorem remoteWriteRequest : ∀ a0 a1 a2 a3, Statement (.remoteWriteRequest a0 a1 a2 a3) := fun _ _ _ _ => Nat.le_of_ble_eq_true rfl
theorem remoteReadRequest : ∀ a0 a1 a2, Statement (.remoteReadRequest a0 a1 a2) := fun _ _ _ => Nat.le_of_ble_eq_true rfl
theorem remoteWriteAck : ∀ a0 a1, Statement (.remoteWriteAck a0 a1) := fun _ _ => Nat.le_of_ble_eq_true rfl
theorem remoteReadResponse : ∀ a0 a1 a2, Statement (.remoteReadResponse a0 a1 a2) := fun _ _ _ => Nat.le_of_ble_eq_true rfl
theorem pipelineLaunch : ∀ a0, Statement (.pipelineLaunch a0) := fun _ => Nat.le_of_ble_eq_true rfl
theorem remoteWriteLaunch : ∀ a0, Statement (.remoteWriteLaunch a0) := fun _ => Nat.le_of_ble_eq_true rfl
theorem remoteReadLaunch : ∀ a0, Statement (.remoteReadLaunch a0) := fun _ => Nat.le_of_ble_eq_true rfl
theorem parameterCommit : ∀ a0 a1 a2, Statement (.parameterCommit a0 a1 a2) := fun _ _ _ => Nat.le_of_ble_eq_true rfl
theorem gangLaunch : ∀ a0 a1, Statement (.gangLaunch a0 a1) := fun _ _ => Nat.le_of_ble_eq_true rfl
theorem gangAck : ∀ a0 a1, Statement (.gangAck a0 a1) := fun _ _ => Nat.le_of_ble_eq_true rfl
theorem gangTimeoutCheck : ∀ a0, Statement (.gangTimeoutCheck a0) := fun _ => Nat.le_of_ble_eq_true rfl
theorem gangAbort : ∀ a0, Statement (.gangAbort a0) := fun _ => Nat.le_of_ble_eq_true rfl
theorem gangArrive : ∀ a0 a1 a2 a3, Statement (.gangArrive a0 a1 a2 a3) := fun _ _ _ _ => Nat.le_of_ble_eq_true rfl
theorem deliveryFailure : ∀ a0 a1, Statement (.deliveryFailure a0 a1) := fun _ _ => Nat.le_of_ble_eq_true rfl
theorem cxlHostWrite : ∀ a0 a1, Statement (.cxlHostWrite a0 a1) := fun _ _ => Nat.le_of_ble_eq_true rfl
theorem attestationChallenge : ∀ a0 a1, Statement (.attestationChallenge a0 a1) := fun _ _ => Nat.le_of_ble_eq_true rfl
theorem preempt : ∀ a0, Statement (.preempt a0) := fun _ => Nat.le_of_ble_eq_true rfl
theorem restore : ∀ a0, Statement (.restore a0) := fun _ => Nat.le_of_ble_eq_true rfl
theorem powerSample : ∀ a0 a1, Statement (.powerSample a0 a1) := fun _ _ => Nat.le_of_ble_eq_true rfl
theorem thermalEvent : ∀ a0, Statement (.thermalEvent a0) := fun _ => Nat.le_of_ble_eq_true rfl
theorem thermalRestart : Statement .thermalRestart := Nat.le_of_ble_eq_true rfl
theorem telemetryReport : Statement .telemetryReport := Nat.le_of_ble_eq_true rfl
theorem patrolScrub : ∀ a0 a1, Statement (.patrolScrub a0 a1) := fun _ _ => Nat.le_of_ble_eq_true rfl
theorem powerOn : ∀ a0, Statement (.powerOn a0) := fun _ => Nat.le_of_ble_eq_true rfl
theorem sliceReassign : ∀ a0 a1, Statement (.sliceReassign a0 a1) := fun _ _ => Nat.le_of_ble_eq_true rfl
theorem illegalWord : ∀ a0, Statement (.illegalWord a0) := fun _ => Nat.le_of_ble_eq_true rfl
theorem lossOfPower : Statement .lossOfPower := Nat.le_of_ble_eq_true rfl
theorem softError : ∀ a0, Statement (.softError a0) := fun _ => Nat.le_of_ble_eq_true rfl
theorem quarterPowerGate : ∀ a0 a1, Statement (.quarterPowerGate a0 a1) := fun _ _ => Nat.le_of_ble_eq_true rfl
theorem newImageToInactiveBank : ∀ a0 a1, Statement (.newImageToInactiveBank a0 a1) := fun _ _ => Nat.le_of_ble_eq_true rfl

end Sys2Proof.Laws.Fits
end

