-- ==== Sys2Proof/Laws/Queue.lean ====
section
/-! SUPPORT. The vector queue: what a queue with nothing to do does, and what a word does that enters an empty queue and
runs to its end at once. -/

namespace Sys2Proof.Machine

/-- An empty queue has no head to move. -/
theorem drain_nil (s : State) (n : Nat) (h : s.t.queue = []) : s.drain n = s := by
  cases n with
  | zero => rfl
  | succ n => unfold State.drain State.moveHead; rw [h]

/-- A queue whose head is no MODET has none that arrives (R193). -/
theorem headArrives_other {s : State} (h : ∀ e ∈ s.t.queue.head?, ∀ r, e.instr ≠ .modet r) : s.headArrives = s := by
  unfold State.headArrives
  split
  · rename_i e q hq
    split
    · exact absurd ‹e.instr = _› (h e (by rw [hq]; rfl) _)
    · rfl
  · rfl

/-- With an empty queue, an empty posted set and no scalar access left, the vector side has nothing to do. -/
theorem settleQueue_nil (s : State) (h : s.t.queue = []) (hp : s.t.posted = []) (hs : s.t.scalars = []) : s.settleQueue = s := by
  unfold State.settleQueue State.settleGo
  simp only
  rw [drain_nil _ _ h, if_pos ⟨hp, hs⟩]

/-- A queue of one entry that commits with nothing posted is settled by that commit. -/
theorem settleQueue_one (s s' : State) (e : VEntry) (hq : s.t.queue = [e]) (h : s.moveHead none = .moved s')
    (hq' : s'.t.queue = []) (hp : s'.t.posted = []) (hs : s'.t.scalars = []) : s.settleQueue = s' := by
  unfold State.settleQueue State.settleGo
  have hd : s.drain (s.t.queue.length + 1) = s' := by
    rw [hq]
    show s.drain (1 + 1) = s'
    unfold State.drain
    rw [h]
    exact drain_nil s' 1 hq'
  simp only [hd]
  rw [if_pos ⟨hp, hs⟩]

/-- The head of a queue of one entry commits. -/
theorem moveHead_commit (s u : State) (e : VEntry) (hi : s.t.inTrap = false) (hq : s.t.queue = [e]) (ht : s.t.tileSave = [])
    (hr : entryRun none e s = .commit u) : s.moveHead none = .moved (u.commitHead e) := by
  unfold State.moveHead
  rw [hq, hi]
  simp only [Bool.false_eq_true, if_false]
  unfold State.reloadTile
  rw [if_pos ht]
  simp only [hr]

/-- A word that does not hold the scalar stream, on a vector side at rest: it enters, runs to its end and commits. -/
theorem issue_commits {i : Instr} {s u : State} {e : VEntry} (hi : s.t.inTrap = false) (hq : s.t.queue = [])
    (hr : s.ch.runAhead = false) (hh : heldWord i = false) (hie : e.instr = i)
    (hd : s.decodeEntry i = some (e, none)) (hk : issueToken i e s = .ok (e, s)) (hs : entrySlots i ≤ 64)
    (hm : ∀ r, i ≠ .modet r)
    (hde : (decodeEffect i e s.t).inTrap = false) (hts : (decodeEffect i e s.t).tileSave = [])
    (hrun : entryRun none e
      ({ s with t := { decodeEffect i e s.t with queue := [e], chain := none } } : State).advance = .commit u)
    (huq : u.t.queue = [e]) (hup : u.t.posted = []) (hus : u.t.scalars = []) :
    issue i s = .next { u with t := { u.t with queue := [] } } := by
  have hst : s.standing i = false := by unfold State.standing; rw [hh]; rfl
  have hused : s.t.usedSlots = 0 := by unfold Thread.usedSlots; rw [hq]; rfl
  have hcap : ¬ 64 < s.t.usedSlots + entrySlots i := by omega
  unfold issue
  rw [hi, hst, hd]
  simp only [Bool.false_eq_true, if_false]
  rw [if_neg hcap, hk]
  simp only [hh, Bool.false_eq_true, if_false, hq, List.nil_append]
  rw [headArrives_other (by intro x hx r; cases hx; rw [hie]; exact hm r)]
  have hmove := moveHead_commit
    (({ s with t := { decodeEffect i e s.t with queue := [e], chain := none } } : State).advance) u e hde rfl hts hrun
  have hcommit : u.commitHead e = { u with t := { u.t with queue := [] } } := by
    unfold State.commitHead
    rw [hie, hh, huq]
    rfl
  have hset := settleQueue_one _ _ e rfl hmove (by rw [hcommit]) (by rw [hcommit]; exact hup) (by rw [hcommit]; exact hus)
  unfold State.afterIssue
  have hra : (({ s with t := { decodeEffect i e s.t with queue := [e], chain := none } } : State).advance).ch.runAhead = false := hr
  rw [hra]
  simp only [Bool.false_eq_true, if_false]
  rw [hset, hcommit]
  have hst' : ({ u with t := { u.t with queue := [] } } : State).standing i = false := by
    unfold State.standing; rw [hh]; rfl
  rw [hst']
  rfl

/-- A word that holds the scalar stream, on a vector side at rest: it enters, runs to its end, and completes as it
commits (R135, R222). -/
theorem issue_held {i : Instr} {s u : State} {e : VEntry} (hi : s.t.inTrap = false) (hq : s.t.queue = [])
    (ht : s.t.tileSave = []) (hr : s.ch.runAhead = false) (hh : heldWord i = true) (hie : e.instr = i) (hea : e.addr = s.t.pc)
    (hd : s.decodeEntry i = some (e, none)) (hk : issueToken i e s = .ok (e, s)) (hs : entrySlots i ≤ 64)
    (hm : ∀ r, i ≠ .modet r)
    (hde : decodeEffect i e s.t = s.t)
    (hrun : entryRun none e ({ s with t := { s.t with queue := [e], chain := none } } : State) = .commit u)
    (huq : u.t.queue = [e]) (hup : u.t.posted = []) (hus : u.t.scalars = []) (hpc : u.t.pc = s.t.pc) :
    issue i s = .next ({ u with t := { u.t with queue := [] } } : State).advance := by
  have hst : s.standing i = false := by unfold State.standing; rw [hq, hh]; rfl
  have hused : s.t.usedSlots = 0 := by unfold Thread.usedSlots; rw [hq]; rfl
  have hcap : ¬ 64 < s.t.usedSlots + entrySlots i := by omega
  unfold issue
  rw [hi, hst, hd]
  simp only [Bool.false_eq_true, if_false]
  rw [if_neg hcap, hk]
  simp only [hh, if_true, hq, List.nil_append, hde]
  rw [headArrives_other (by intro x hx r; cases hx; rw [hie]; exact hm r)]
  have hmove := moveHead_commit ({ s with t := { s.t with queue := [e], chain := none } } : State) u e hi rfl ht hrun
  have hcommit : u.commitHead e = ({ u with t := { u.t with queue := [] } } : State).advance := by
    have hk : ({ u with t := { u.t with queue := u.t.queue.drop 1 } } : State).headArrives = { u with t := { u.t with queue := [] } } := by
      rw [huq]; rfl
    have hp : (u.t.pc == e.addr) = true := by rw [hpc, hea]; exact beq_self_eq_true _
    unfold State.commitHead
    simp only [hk, hie, hh, Bool.true_and]
    exact if_pos hp
  have hset := settleQueue_one _ _ e rfl hmove (by rw [hcommit]; rfl) (by rw [hcommit]; exact hup) (by rw [hcommit]; exact hus)
  unfold State.afterIssue
  have hra : ({ s with t := { s.t with queue := [e], chain := none } } : State).ch.runAhead = false := hr
  rw [hra]
  simp only [Bool.false_eq_true, if_false]
  rw [hset, hcommit]
  have hst' : (({ u with t := { u.t with queue := [] } } : State).advance).standing i = false := by
    unfold State.standing; rw [hh]; rfl
  rw [hst']
  rfl

end Sys2Proof.Machine
end

