-- ==== Sys2Proof/Laws/Vector.lean ====
section
/-! SUPPORT. Elements of vector registers and bits of predicates: what an element reads after elements were written, and
what an element-wise word leaves (R41, R42, R115 to R118). -/

namespace Sys2Proof.Machine

/-- A bit of a field of a number. -/
theorem testBit_bits (x lo n k : Nat) : (bits x lo n).testBit k = (decide (k < n) && x.testBit (lo + k)) := by
  simp [bits, Nat.testBit_mod_two_pow, Nat.testBit_div_two_pow, Nat.add_comm]

/-- A number as its part above a field, the field, and its part below. -/
theorem split_field (x lo n : Nat) : 2 ^ lo * (2 ^ n * (x / 2 ^ (lo + n)) + bits x lo n) + x % 2 ^ lo = x := by
  unfold bits
  rw [Nat.pow_add, ← Nat.div_div_eq_div_mul, Nat.div_add_mod, Nat.div_add_mod]

/-- A field of a number built from its parts. -/
theorem bits_join {lo n j f c h : Nat} (hlo : n ∣ lo) (hj : n ∣ j) (hf : f < 2 ^ n) (hc : c < 2 ^ lo) :
    bits (2 ^ lo * (2 ^ n * h + f) + c) j n =
      if j = lo then f else if j < lo then bits c j n else bits h (j - lo - n) n := by
  apply Nat.eq_of_testBit_eq
  intro m
  rw [testBit_bits]
  by_cases hm : m < n
  · simp only [hm, decide_true, Bool.true_and]
    rw [Nat.testBit_two_pow_mul_add _ hc]
    obtain ⟨a, rfl⟩ := hlo
    obtain ⟨b, rfl⟩ := hj
    rcases Nat.lt_trichotomy b a with hba | rfl | hba
    · have h1 : n * b + n ≤ n * a := by nlinarith
      rw [if_pos (show n * b + m < n * a by omega), if_neg (show ¬ n * b = n * a by omega), if_pos (show n * b < n * a by omega),
        testBit_bits]
      simp [hm]
    · rw [if_neg (show ¬ n * b + m < n * b by omega), if_pos rfl, show n * b + m - n * b = m by omega,
        Nat.testBit_two_pow_mul_add _ hf, if_pos hm]
    · have h1 : n * a + n ≤ n * b := by nlinarith
      rw [if_neg (show ¬ n * b + m < n * a by omega), if_neg (show ¬ n * b = n * a by omega),
        if_neg (show ¬ n * b < n * a by omega), Nat.testBit_two_pow_mul_add _ hf,
        if_neg (show ¬ n * b + m - n * a < n by omega), testBit_bits]
      simp only [hm, decide_true, Bool.true_and]
      congr 1; omega
  · simp only [hm, decide_false, Bool.false_and]
    split_ifs
    · rw [Nat.testBit_lt_two_pow (lt_of_lt_of_le hf (Nat.pow_le_pow_right (by norm_num) (by omega)))]
    · rw [testBit_bits]; simp [hm]
    · rw [testBit_bits]; simp [hm]

/-- The number of a word with a field replaced. -/
theorem toNat_putField (w : Word) (lo n v : Nat) (hl : lo + n ≤ 32) :
    (putField w lo n v).toNat = 2 ^ lo * (2 ^ n * (w.toNat / 2 ^ (lo + n)) + v % 2 ^ n) + w.toNat % 2 ^ lo := by
  have hs := split_field w.toNat lo n
  have e1 : w.toNat - bits w.toNat lo n * 2 ^ lo + v % 2 ^ n * 2 ^ lo =
      2 ^ lo * (2 ^ n * (w.toNat / 2 ^ (lo + n)) + v % 2 ^ n) + w.toNat % 2 ^ lo := by
    rw [Nat.mul_add] at hs ⊢
    rw [Nat.mul_comm (bits w.toNat lo n), Nat.mul_comm (v % 2 ^ n)]
    omega
  unfold putField
  rw [BitVec.toNat_ofNat, e1, Nat.mod_eq_of_lt]
  have ha : w.toNat / 2 ^ (lo + n) < 2 ^ (32 - (lo + n)) := by
    rw [Nat.div_lt_iff_lt_mul (by positivity), ← Nat.pow_add, show 32 - (lo + n) + (lo + n) = 32 by omega]
    exact w.isLt
  have hb : v % 2 ^ n < 2 ^ n := Nat.mod_lt _ (by positivity)
  have hc : w.toNat % 2 ^ lo < 2 ^ lo := Nat.mod_lt _ (by positivity)
  have h32 : (2 : Nat) ^ 32 = 2 ^ lo * (2 ^ n * 2 ^ (32 - (lo + n))) := by
    rw [← Nat.pow_add, ← Nat.pow_add]; congr 1; omega
  have h1 : 2 ^ n * (w.toNat / 2 ^ (lo + n)) + v % 2 ^ n + 1 ≤ 2 ^ n * 2 ^ (32 - (lo + n)) := by
    have := Nat.mul_le_mul_left (2 ^ n) ha
    rw [Nat.mul_succ] at this
    omega
  have h2 := Nat.mul_le_mul_left (2 ^ lo) h1
  rw [h32]
  rw [Nat.mul_succ] at h2
  omega

/-- A field of a word after a field was put: the new value in its place, and the old one elsewhere. -/
theorem bits_putField (w : Word) (lo n v j : Nat) (hlo : n ∣ lo) (hj : n ∣ j) (hl : lo + n ≤ 32) :
    bits (putField w lo n v).toNat j n = if j = lo then v % 2 ^ n else bits w.toNat j n := by
  have hc : w.toNat % 2 ^ lo < 2 ^ lo := Nat.mod_lt _ (by positivity)
  have hb : ∀ x, bits x lo n < 2 ^ n := fun x => Nat.mod_lt _ (by positivity)
  conv_rhs => rw [← split_field w.toNat lo n]
  rw [toNat_putField w lo n v hl, bits_join hlo hj (Nat.mod_lt _ (by positivity)) hc, bits_join hlo hj (hb _) hc]
  split <;> rfl

/-- A width of an element: 4, 8, 16, 32 or 64 bits. -/
def elemWidth (w : Nat) : Prop := w = 4 ∨ w = 8 ∨ w = 16 ∨ w = 32 ∨ w = 64

theorem vtSew_width (t : DWord) : elemWidth (vtSew t) := by
  unfold vtSew elemWidth; split <;> simp

/-- An element read after one was written (R41, R115). -/
theorem elemGet_elemSet (r : Sparse 32) {lanes : Nat} (w i j v : Nat) (hw : elemWidth w) (hl : 0 < lanes) :
    elemGet (elemSet r lanes w i v) lanes w j = if j = i then v % 2 ^ w else elemGet r lanes w j := by
  have hi := Nat.mod_lt i hl
  have hj := Nat.mod_lt j hl
  have di := Nat.div_add_mod i lanes
  have dj := Nat.div_add_mod j lanes
  have place : ∀ a b : Nat, a * lanes + j % lanes = b * lanes + i % lanes → a = b ∧ j % lanes = i % lanes := by
    intro a b h
    have ha := congrArg (· / lanes) h
    simp only [Nat.mul_comm _ lanes, Nat.mul_add_div hl, Nat.div_eq_of_lt hi, Nat.div_eq_of_lt hj, Nat.add_zero] at ha
    exact ⟨ha, by subst ha; omega⟩
  by_cases h64 : w = 64
  · subst h64
    have e : ∀ a b c : Nat, a * b * lanes + c + lanes = (a * b + 1) * lanes + c := by intros; ring
    simp only [elemGet, elemSet, if_true, sget_sset, e]
    by_cases hji : j = i
    · subst hji
      have hv : v % 2 ^ 64 = v % 2 ^ 32 + 2 ^ 32 * (v / 2 ^ 32 % 2 ^ 32) := by omega
      simp only [if_true, BitVec.toNat_ofNat, hv]
      rw [if_neg]
      · simp
      · intro h; have := (place _ _ h).1; omega
    · have n1 : ¬ 2 * (j / lanes) * lanes + j % lanes = 2 * (i / lanes) * lanes + i % lanes := fun h => by
        have := place _ _ h
        exact hji (by rw [← dj, ← di, show j / lanes = i / lanes by omega, this.2])
      have n2 : ¬ 2 * (j / lanes) * lanes + j % lanes = (2 * (i / lanes) + 1) * lanes + i % lanes := fun h => by
        have := (place _ _ h).1; omega
      have n3 : ¬ (2 * (j / lanes) + 1) * lanes + j % lanes = 2 * (i / lanes) * lanes + i % lanes := fun h => by
        have := (place _ _ h).1; omega
      have n4 : ¬ (2 * (j / lanes) + 1) * lanes + j % lanes = (2 * (i / lanes) + 1) * lanes + i % lanes := fun h => by
        have := place _ _ h
        exact hji (by rw [← dj, ← di, show j / lanes = i / lanes by omega, this.2])
      simp only [n1, n2, n3, n4, hji, if_false]
  · simp only [elemGet, elemSet, if_neg h64, sget_sset]
    obtain ⟨e, he, he0⟩ : ∃ e, 32 = w * e ∧ 32 / w = e ∧ 0 < e := by
      rcases hw with rfl | rfl | rfl | rfl | rfl
      · exact ⟨8, rfl, rfl, by norm_num⟩
      · exact ⟨4, rfl, rfl, by norm_num⟩
      · exact ⟨2, rfl, rfl, by norm_num⟩
      · exact ⟨1, rfl, rfl, by norm_num⟩
      · exact absurd rfl h64
    rw [he0.1]
    have hsub : ∀ q, q % e * w + w ≤ 32 := fun q => by
      have := Nat.mod_lt q he0.2
      rw [he]; nlinarith
    by_cases hp : j / lanes / e * lanes + j % lanes = i / lanes / e * lanes + i % lanes
    · obtain ⟨h1, h2⟩ := place _ _ hp
      rw [if_pos hp, bits_putField _ _ _ _ _ ⟨_, Nat.mul_comm _ _⟩ ⟨_, Nat.mul_comm _ _⟩ (hsub _), ← hp]
      have hw0 : 0 < w := by rcases hw with rfl | rfl | rfl | rfl | rfl <;> norm_num
      by_cases hji : j = i
      · subst hji; simp
      · rw [if_neg hji, if_neg]
        intro h
        have hm := Nat.eq_of_mul_eq_mul_right hw0 h
        have := Nat.div_add_mod (j / lanes) e
        have := Nat.div_add_mod (i / lanes) e
        rw [h1, hm] at *
        exact hji (by rw [← dj, ← di, show j / lanes = i / lanes by omega, h2])
    · rw [if_neg hp, if_neg]
      rintro rfl; exact hp rfl

/-- The value a list of writes leaves at an index: the last one's, if there is one. -/
def lastAt (l : List (Nat × Nat)) (j : Nat) : Option Nat := l.foldl (fun r e => if e.1 = j then some e.2 else r) none

theorem foldl_last (l : List (Nat × Nat)) (j : Nat) (r : Option Nat) :
    l.foldl (fun r e => if e.1 = j then some e.2 else r) r = (lastAt l j).or r := by
  induction l generalizing r with
  | nil => simp [lastAt]
  | cons e l ih =>
    rw [lastAt, List.foldl_cons, List.foldl_cons, ih, ih (if e.1 = j then some e.2 else none)]
    cases lastAt l j <;> simp
    split <;> simp

theorem lastAt_cons (e : Nat × Nat) (l : List (Nat × Nat)) (j : Nat) :
    lastAt (e :: l) j = (lastAt l j).or (if e.1 = j then some e.2 else none) := by
  rw [lastAt, List.foldl_cons, foldl_last]

/-- The last write of a list that writes each index at most once from a function. -/
theorem lastAt_map (l : List Nat) (f : Nat → Nat) (j : Nat) :
    lastAt (l.map fun i => (i, f i)) j = if j ∈ l then some (f j) else none := by
  induction l with
  | nil => rfl
  | cons a l ih =>
    rw [List.map_cons, lastAt_cons, ih]
    by_cases hj : j ∈ l
    · simp [hj]
    · by_cases ha : a = j
      · subst ha; simp [hj]
      · simp [hj, ha, Ne.symm ha]

/-- An element read after a list of elements was written. -/
theorem elemGet_elemSets (r : Sparse 32) {lanes : Nat} (w j : Nat) (l : List (Nat × Nat)) (hw : elemWidth w) (hl : 0 < lanes) :
    elemGet (elemSets r lanes w l) lanes w j = ((lastAt l j).map (· % 2 ^ w)).getD (elemGet r lanes w j) := by
  induction l generalizing r with
  | nil => rfl
  | cons e l ih =>
    obtain ⟨i, v⟩ := e
    rw [elemSets, ih, elemGet_elemSet r w i j v hw hl, lastAt_cons]
    cases lastAt l j <;> simp
    by_cases h : j = i
    · subst h; simp
    · simp [h, Ne.symm h]

@[simp] theorem setElems_lanes (t : Thread) (r w : Nat) (l : List (Nat × Nat)) : (t.setElems r w l).lanes = t.lanes := by
  unfold Thread.setElems; split <;> rfl

/-- An element of a register after elements of a register were written. -/
theorem elem_setElems (t : Thread) (r q w j : Nat) (l : List (Nat × Nat)) (hw : elemWidth w) (hl : 0 < t.lanes) (hr : r < 32) :
    (t.setElems r w l).elem q w j = if q = r then ((lastAt l j).map (· % 2 ^ w)).getD (t.elem r w j) else t.elem q w j := by
  unfold Thread.elem Thread.setElems
  rw [dif_pos hr, dif_pos hr]
  by_cases hq : q < 32
  · rw [dif_pos hq, dif_pos hq]
    have hlanes : ({ t with v := t.v.set r (elemSets t.v[r] t.lanes w l) } : Thread).lanes = t.lanes := rfl
    rw [hlanes]
    by_cases h : q = r
    · subst h; simp [elemGet_elemSets _ _ _ _ hw hl]
    · rw [if_neg h, Vector.getElem_set_ne _ _ (by omega)]
  · rw [dif_neg hq, dif_neg hq, if_neg (by omega)]

@[simp] theorem ungrade_v (t : Thread) (r : Nat) : (t.ungrade r).v = t.v := by unfold Thread.ungrade; split <;> rfl

@[simp] theorem setElems_tags (t : Thread) (r w : Nat) (l : List (Nat × Nat)) : (t.setElems r w l).tags = t.tags := by
  unfold Thread.setElems; split <;> rfl

theorem setElems_v (t : Thread) {r : Nat} (w : Nat) (l : List (Nat × Nat)) (h : r < 32) :
    (t.setElems r w l).v = t.v.set r (elemSets t.v[r] t.lanes w l) := by
  unfold Thread.setElems; rw [dif_pos h]

theorem ungrade_tags (t : Thread) {r : Nat} (h : r < 32) : (t.ungrade r).tags = t.tags.set r 0x7FF := by
  unfold Thread.ungrade; rw [dif_pos h]

/-- What an element-wise word leaves: its elements, the destination ungraded, flags, and nothing else (R115 to R118). -/
theorem writeVector_frame (s : State) (env : VEnv) (vd w : Nat) (l : List (Nat × Nat × Flags)) :
    ∃ v tags fl, s.writeVector env vd w l = { s with t := { s.t with v := v, tags := tags, fflags := fl } } := by
  unfold State.writeVector Thread.setElems Thread.ungrade
  split
  · exact ⟨_, _, _, rfl⟩
  · split <;> exact ⟨_, _, _, rfl⟩

/-- An element after an element-wise word: its value where it was active, and the old one elsewhere. -/
theorem writeVector_elem (s : State) {env : VEnv} {vd w : Nat} (l : List Nat) (f : Nat → Nat × Flags) (q j : Nat)
    (hd : vd < 32) (hw : elemWidth w) (hl : 0 < s.t.lanes) (hv : env.vl ≠ 0) :
    (s.writeVector env vd w (l.map fun i => (i, f i))).t.elem q w j =
      if q = vd ∧ j ∈ l then (f j).1 % 2 ^ w else s.t.elem q w j := by
  have he : (s.writeVector env vd w (l.map fun i => (i, f i))).t.elem q w j =
      (s.t.setElems vd w (l.map fun i => (i, (f i).1))).elem q w j := by
    unfold State.writeVector
    rw [if_neg hv, List.map_map]
    unfold Thread.ungrade
    split <;> rfl
  rw [he, elem_setElems _ _ _ _ _ _ hw hl hd, lastAt_map]
  by_cases hq : q = vd
  · subst hq; by_cases hj : j ∈ l <;> simp [hj]
  · simp [hq]

/-- The words of the other registers after an element-wise word. -/
theorem writeVector_other (s : State) (env : VEnv) (vd r : VReg) (w : Nat) (l : List (Nat × Nat × Flags)) (h : r ≠ vd) :
    (s.writeVector env vd.toNat w l).t.readV r = s.t.readV r := by
  have hd : vd.toNat < 32 := vd.isLt
  have hr : vd.toNat ≠ r.toNat := fun e => h (BitVec.eq_of_toNat_eq e.symm)
  unfold State.writeVector Thread.readV
  split
  · rfl
  · have e := ungrade_v (s.t.setElems vd.toNat w (l.map fun e => (e.1, e.2.1))) vd.toNat
    rw [setElems_v _ _ _ hd] at e
    simp only [e]
    exact Vector.getElem_set_ne _ _ hr

/-- The tags after an element-wise word with VL above 0: the destination is ungraded (R45). -/
theorem writeVector_tag (s : State) {env : VEnv} (vd r : VReg) (w : Nat) (l : List (Nat × Nat × Flags)) (hv : env.vl ≠ 0) :
    (s.writeVector env vd.toNat w l).t.readTag r = if r = vd then 0x7FF else s.t.readTag r := by
  have hd : vd.toNat < 32 := vd.isLt
  unfold State.writeVector Thread.readTag
  rw [if_neg hv]
  have e := ungrade_tags (s.t.setElems vd.toNat w (l.map fun e => (e.1, e.2.1))) hd
  rw [setElems_tags] at e
  simp only [e]
  by_cases h : r = vd
  · subst h; simp
  · have hr : vd.toNat ≠ r.toNat := fun e => h (BitVec.eq_of_toNat_eq e.symm)
    rw [if_neg h]; exact Vector.getElem_set_ne _ _ hr

/-- The flags after an element-wise word with VL above 0 (R63). -/
theorem writeVector_flags (s : State) {env : VEnv} (vd w : Nat) (l : List (Nat × Nat × Flags)) (hv : env.vl ≠ 0) :
    (s.writeVector env vd w l).t.fflags = l.foldl (fun g e => g ||| e.2.2) s.t.fflags := by
  unfold State.writeVector; rw [if_neg hv]

/-- With VL 0 an element-wise word leaves the state as it is. -/
theorem writeVector_zero (s : State) {env : VEnv} (vd w : Nat) (l : List (Nat × Nat × Flags)) (hv : env.vl = 0) :
    s.writeVector env vd w l = s := by
  unfold State.writeVector; rw [if_pos hv]

/-! ### Predicates -/

/-- A bit of a lane's slice after one was written. -/
theorem setBit128_bit (c : BitVec 128) (i j : Nat) (b : Bool) (hi : i < 128) :
    (setBit128 c i b).getLsbD j = if j = i then b else c.getLsbD j := by
  unfold setBit128
  by_cases hj : j = i
  · subst hj; cases b <;> simp [hi]
  · rw [if_neg hj]
    cases b <;> simp
    · intro h1
      have := BitVec.lt_of_getLsbD h1
      omega
    · intro h1 h2 h3
      omega

/-- The value a list of writes of bits leaves at an index. -/
def lastBit (l : List (Nat × Bool)) (j : Nat) : Option Bool := l.foldl (fun r e => if e.1 = j then some e.2 else r) none

theorem foldl_lastBit (l : List (Nat × Bool)) (j : Nat) (r : Option Bool) :
    l.foldl (fun r e => if e.1 = j then some e.2 else r) r = (lastBit l j).or r := by
  induction l generalizing r with
  | nil => simp [lastBit]
  | cons e l ih =>
    rw [lastBit, List.foldl_cons, List.foldl_cons, ih, ih (if e.1 = j then some e.2 else none)]
    cases lastBit l j <;> simp
    split <;> simp

theorem lastBit_cons (e : Nat × Bool) (l : List (Nat × Bool)) (j : Nat) :
    lastBit (e :: l) j = (lastBit l j).or (if e.1 = j then some e.2 else none) := by
  rw [lastBit, List.foldl_cons, foldl_lastBit]

theorem lastBit_map (l : List Nat) (f : Nat → Bool) (j : Nat) :
    lastBit (l.map fun i => (i, f i)) j = if j ∈ l then some (f j) else none := by
  induction l with
  | nil => rfl
  | cons a l ih =>
    rw [List.map_cons, lastBit_cons, ih]
    by_cases hj : j ∈ l
    · simp [hj]
    · by_cases ha : a = j
      · subst ha; simp [hj]
      · simp [hj, ha, Ne.symm ha]

/-- A bit of a predicate's slices after bits were written (R42). -/
theorem predSets_bit (r : Sparse 128) {lanes : Nat} (l : List (Nat × Bool)) (j : Nat)
    (hi : ∀ e ∈ l, e.1 / lanes < 128) :
    (sget (predSets r lanes l) (j % lanes)).getLsbD (j / lanes) =
      (lastBit l j).getD ((sget r (j % lanes)).getLsbD (j / lanes)) := by
  induction l generalizing r with
  | nil => rfl
  | cons e l ih =>
    obtain ⟨i, b⟩ := e
    rw [predSets, ih _ fun e he => hi e (List.mem_cons_of_mem _ he), lastBit_cons]
    cases lastBit l j with
    | some c => simp
    | none =>
      simp only [Option.getD_none, Option.none_or]
      by_cases hij : i = j
      · subst hij
        rw [sget_sset_same, setBit128_bit _ _ _ _ (hi _ List.mem_cons_self)]; simp
      · rw [if_neg hij]
        by_cases hm : j % lanes = i % lanes
        · rw [hm, sget_sset_same, setBit128_bit _ _ _ _ (hi _ List.mem_cons_self), if_neg]
          · rfl
          · intro hd
            exact hij (by rw [← Nat.div_add_mod i lanes, ← Nat.div_add_mod j lanes, hd, hm])
        · rw [sget_sset_other _ _ hm]; rfl

/-- A predicate bit after bits of a predicate were written; p0 reads all-true and a write to it is discarded (R42). -/
theorem pred_setPred (t : Thread) (p q : PReg) (l : List Nat) (f : Nat → Bool) (j : Nat) (hi : ∀ i ∈ l, i / t.lanes < 128) :
    (t.setPred p (l.map fun i => (i, f i))).pred q j = if q = 0 then true else if q = p ∧ j ∈ l then f j else t.pred q j := by
  unfold Thread.pred Thread.setPred
  have hlanes : ({ t with p := t.p.set p.toNat (predSets (t.p[p.toNat]'p.isLt) t.lanes (l.map fun i => (i, f i))) p.isLt } :
    Thread).lanes = t.lanes := rfl
  rw [hlanes]
  by_cases hq : q = 0
  · simp [hq]
  · rw [if_neg hq]
    have hq' : (q == 0) = false := by simpa using hq
    rw [hq', Bool.false_or, Bool.false_or]
    by_cases hp : q = p
    · subst hp
      have hb := predSets_bit (lanes := t.lanes) (t.p[q.toNat]'q.isLt) (l.map fun i => (i, f i)) j (by simpa using hi)
      rw [lastBit_map] at hb
      simp only [Vector.getElem_set_self, true_and]
      rw [hb]
      by_cases hj : j ∈ l <;> simp [hj]
    · have hne : p.toNat ≠ q.toNat := fun e => hp (BitVec.eq_of_toNat_eq e.symm)
      simp only [hp, false_and, if_false]
      rw [Vector.getElem_set_ne _ _ hne]

end Sys2Proof.Machine
end

