-- ==== Sys2Proof/Tests/Slice0.lean ====
section
/-! SUPPORT. Tests: words as the spec writes them, ill-formed terms, single steps, and for every statement with hypotheses a state and
operands that meet them. -/

set_option maxRecDepth 4000
set_option Elab.async false

namespace Sys2Proof.Tests
open Sys2Proof Sys2Proof.Machine

/-! ### Small states -/

/-- A thread at level 1 in a context whose tables map the lowest 1 GiB of its stack. -/
def boot : State := bootImage State.reset

/-- `boot` with its thread changed. -/
def bootT (f : Thread → Thread) : State := { boot with t := f boot.t }

/-- `boot` with values in x registers. -/
def withX (l : List (Reg × DWord)) : State := l.foldl (fun s e => s.setX e.1 e.2) boot

/-- `boot` with a trap handler at 0x2000. -/
def handled : State := { boot with ctx := { boot.ctx with trapvec := 0x2001 } }

/-- A run ends well with a first component. -/
def okWith {ε α β : Type} [DecidableEq α] (r : Except ε (α × β)) (a : α) : Bool :=
  match r with
  | .ok (b, _) => decide (b = a)
  | .error _ => false

theorem okWith_ok {ε α β : Type} [DecidableEq α] {r : Except ε (α × β)} {a : α} (h : okWith r a = true) : ∃ u, r = .ok (a, u) := by
  unfold okWith at h
  split at h
  · exact ⟨_, by rw [of_decide_eq_true h]⟩
  · cases h

/-- A run ends with a trap. -/
def trapWith {α : Type} (r : Run α) (c : Cause) (v : DWord) : Bool :=
  match r with
  | .error (.trap d w, _) => d == c && w == v
  | _ => false

theorem trapWith_trap {α : Type} {r : Run α} {c : Cause} {v : DWord} (h : trapWith r c v = true) : ∃ u, r = .error (.trap c v, u) := by
  unfold trapWith at h
  split at h
  · simp only [Bool.and_eq_true, beq_iff_eq] at h
    exact ⟨_, by rw [h.1, h.2]⟩
  · cases h

/-! ### Hypotheses that are met -/

theorem met_loop_check : (1 < (bootT fun t => { t with lcount := 2, lend := t.pc }).t.lcount.toNat ∧
    (bootT fun t => { t with lcount := 2, lend := t.pc }).t.pc = (bootT fun t => { t with lcount := 2, lend := t.pc }).t.lend) ∧
    (bootT fun t => { t with lcount := 1, lend := t.pc }).t.lcount = 1 ∧ boot.t.lcount = 0 := by decide +kernel

theorem met_jumps : ((withX [(5, 0x2000)]).t.readX 5 + BitVec.ofInt 64 (-4 : BitVec 12).toInt).toNat % 4 = 0 ∧
    ((withX [(5, 0x2000)]).t.readX 5 + BitVec.ofInt 64 (2 : BitVec 12).toInt).toNat % 4 ≠ 0 ∧
    boot.t.readX 5 = 0 ∧ (withX [(5, 1)]).t.readX 5 ≠ 0 := by decide +kernel

theorem met_square_root : f64.value 0x7FF0000000000001 = .nan true ∧ f64.value 0x7FF0000000000000 = .inf false ∧
    f64.value 0x8000000000000000 = .num true 0 ∧ f64.value 0xBFF0000000000000 = .num true (-1) ∧
    f64.value 0x4000000000000000 = .num false 2 ∧ f64.value 0xFFF0000000000000 = .inf true := by decide +kernel

theorem met_rounding : (0 : Rat) ≤ 0 ∧ (0 : Rat) ≤ 5 / 2 := by decide +kernel

theorem met_float_select : f32.value 0x7FC00000 = .nan false ∧ f32.value 0x3F800000 = .num false 1 ∧ f32.value 0x40000000 = .num false 2 ∧
    f32.value 0xFF800000 = .inf true ∧ f32.value 0x80000000 = .num true 0 ∧ (1 : Rat) < 2 := by decide +kernel

theorem met_conversions : (0 : BitVec 5) = 0 ∧ (27 : BitVec 5).toNat = 27 := by decide

theorem met_loads : (withX [(5, 0x8000)]).t.readX 5 + BitVec.ofInt 64 (0 : BitVec 12).toInt = 0x8000 ∧
    okWith ((withX [(5, 0x8000)]).read (withX [(5, 0x8000)]).agent .load 1 0x8000 8) (List.replicate 8 0) = true ∧
    okWith ((withX [(5, 0x8000)]).read (withX [(5, 0x8000)]).agent .load 1 0x8000 1) [0] = true := by decide +kernel

theorem met_stores : boot.segment boot.agent = none ∧ okWith (boot.checkPart boot.agent .store 0x8000 8) 0x8000 = true ∧
    okWith (boot.checkPart boot.agent .store 0x8001 1) 0x8001 = true := by decide +kernel

theorem met_passes : Claim.passes boot boot .load 0x8000 8 0x8000 ∧ Claim.passes boot boot .store 0x8001 1 0x8001 ∧
    Claim.passes boot boot .amo 0x8004 4 0x8004 ∧ Claim.atOnce boot 8 0x8000 :=
  ⟨⟨by decide +kernel, ⟨0, by decide +kernel⟩, by decide +kernel⟩, ⟨by decide +kernel, ⟨0, by decide +kernel⟩, by decide +kernel⟩,
    ⟨by decide +kernel, ⟨0, by decide +kernel⟩, by decide +kernel⟩, by decide +kernel, by decide +kernel, by decide +kernel⟩

/-- `boot` with a store at 0x8000 in the scalar access queue. -/
def storing : State := bootT fun t => { t with scalars := [{ kind := .store, bytes := 4, va := 0x8000, pa := 0x8000, val := 7, page := 16 }] }

theorem met_scalar_queue : storing.t.scalars ≠ [] ∧ storing.held storing.agent 0x8000 4 = false ∧ storing.segment storing.agent = none ∧
    ({ boot with ch := { boot.ch with deferScalar := true } } : State).ch.deferScalar = true ∧ boot.t.scalars = [] := by decide +kernel

/-- `boot` where the machine defers its scalar accesses, and with an access of a kind at the head of its queue. -/
def deferring : State := { boot with ch := { boot.ch with deferScalar := true } }
def heading (k : ScalarKind) (n : Nat) : State := bootT fun t => { t with scalars := [{ kind := k, bytes := n, va := 0x8000, pa := 0x8000, page := 16 }] }

theorem met_deferred : Claim.passes deferring deferring .store 0x8000 64 0x8000 ∧ Claim.passes deferring deferring .load 0x8000 64 0x8000 ∧
    deferring.ch.deferScalar = true ∧ deferring.inTask = false ∧ deferring.mySegment = none ∧ lineParts 0x8000 64 = [(0x8000, 64)] ∧
    deferring.checkPart deferring.agent .store 0x802C 1 = .ok (0x802C, deferring) :=
  ⟨⟨by decide +kernel, ⟨0, by decide +kernel⟩, by decide +kernel⟩, ⟨by decide +kernel, ⟨0, by decide +kernel⟩, by decide +kernel⟩,
    by decide +kernel, by decide +kernel, by decide +kernel, by decide +kernel, by decide +kernel⟩

theorem met_queue_heads : ∀ k ∈ [ScalarKind.resume 0 7, .query 7, .handle {}, .store],
    (heading k 64).t.scalars = { kind := k, bytes := 64, va := 0x8000, pa := 0x8000, page := 16 } :: [] ∧
    (heading k 64).lineOk (0x8000 / 128) = true ∧ (heading k 64).held (heading k 64).agent 0x8000 64 = false ∧ (heading k 64).segment (heading k 64).agent = none := by
  decide +kernel

theorem met_marker_heads : ∀ k ∈ [ScalarKind.ifence 1 true, .wake 1 7],
    (heading k 0).t.scalars = { kind := k, bytes := 0, va := 0x8000, pa := 0x8000, page := 16 } :: [] := by decide +kernel

theorem met_free_line : Claim.lineFree boot 0x100 := by
  intro e he a ha
  have h : boot.allThreads = [(0, boot.t)] ∧ boot.t.scalars = [] := by decide +kernel
  rw [h.1, List.mem_singleton] at he
  rw [he, h.2] at ha
  exact absurd ha (List.not_mem_nil)

/-- `boot` with a line at 0x8000 that does not match its check value. -/
def spoiled : State := { boot with chk := [(0x100, 1)] }

theorem met_bad_line : spoiled.lineOk (0x8000 / 128) = false ∧ okWith (spoiled.translate spoiled.agent .load 0x8000) (0x8000, 0) = true ∧
    (0x8000 : DWord).toNat % 8 = 0 := by decide +kernel

theorem met_access_faults : (0x8004 : DWord).toNat % 8 ≠ 0 ∧ (0x8001 : DWord).toNat % 2 ≠ 0 ∧
    trapWith (boot.read boot.agent .load 1 0x40000000 8) cause.translation 0x40000000 = true ∧
    trapWith (boot.checkPart boot.agent .store 0x40000000 4) cause.translation 0x40000000 = true := by decide +kernel

theorem met_atomics : boot.mySegment = none ∧ okWith (boot.checkPart boot.agent .amo 0x8000 8) 0x8000 = true ∧
    okWith (boot.checkPart boot.agent .amo 0x8004 4) 0x8004 = true ∧ (0x8002 : DWord).toNat % 4 ≠ 0 := by decide +kernel

theorem met_access_checks : okWith (boot.translate boot.agent .load 0x8000) (0x8000, 0) = true ∧
    okWith (boot.checkPart boot.agent .load 0x8000 4) 0x8000 = true ∧ okWith (boot.read boot.agent .load 1 0x8000 2) [0, 0] = true ∧
    okWith (boot.readPart boot.agent .load 1 0x8000 2) [0, 0] = true ∧ boot.segment boot.agent = none := by decide +kernel

/-- Tables with a page of each size: 64 KiB at 0xC000_0000, 2 MiB at 0x8000_0000 and 1 GiB at 0, and entries that are none. -/
def tables : State :=
  let put := fun m (e : Nat × Nat) => putBytes m e.1 (toBytes 8 e.2)
  { boot with mem := [(0x700001010, 0x700002001), (0x700001018, 0x700003001), (0x700002000, 0x1F), (0x700003000, 0x700004001),
      (0x700004000, 0x13), (0x700001020, 0x21)].foldl put boot.mem }

theorem met_page_walk_sound : ∀ line, tables.lineOk line = true := fun _ => rfl

theorem met_page_walk : tables.ch.useCached = false ∧
    (Claim.entry tables 0x700000000, Claim.entry tables 0x700001000, Claim.entry tables 0x700001020, Claim.entry tables 0x700000008) =
      (0x700001001, 0x1F, 0x21, 0) ∧
    (Claim.entry tables 0x700001010, Claim.entry tables 0x700002000, Claim.entry tables 0x700002008) = (0x700002001, 0x1F, 0) ∧
    (Claim.entry tables 0x700003000, Claim.entry tables 0x700004000, Claim.entry tables 0x700004008) = (0x700004001, 0x13, 0) ∧
    okWith (tables.translate tables.agent .load 0x1234) (0x1234, 0) = true ∧
    okWith (tables.translate tables.agent .load 0x80001234) (0x1234, 0) = true ∧
    okWith (tables.translate tables.agent .load 0xC0001234) (0x1234, 0) = true ∧
    trapWith (tables.translate tables.agent .store 0xC0001234) cause.permission 0xC0001234 = true ∧
    (∀ va ∈ [0x80200000, 0xC0010000, 0x100000000, 0x8000000000, 0x1000000000000],
      trapWith (tables.translate tables.agent .load va) cause.translation (BitVec.ofNat 64 va) = true) ∧
    0xC0010000 < boot.ctx.spbase.toNat := by decide +kernel

/-- `boot` with 256 KiB of scratchpad at 0x4000_0000. -/
def padded : State := { boot with core := { boot.core with spcap := 1 }, ctx := { boot.ctx with spbase := 0x40000000 } }

theorem met_scratchpad : padded.ctx.spbase.toNat ≤ 0x4003FFFF ∧ 0x4003FFFF < padded.ctx.spbase.toNat + 2 ^ 21 ∧
    0x4003FFFF - padded.ctx.spbase.toNat < padded.core.spcap * 2 ^ 18 ∧ padded.core.spcap * 2 ^ 18 ≤ 0x40040000 - padded.ctx.spbase.toNat := by
  decide +kernel

theorem met_trap_entry : handled.t.inTrap = false ∧ handled.ctx.trapvec.getLsbD 0 = true := by decide +kernel

theorem met_trap_ends : (bootT fun t => { t with trapstat := 2 }).t.inTrap = true ∧ boot.t.inTrap = false ∧
    boot.ctx.trapvec.getLsbD 0 = false := by decide +kernel

theorem met_return : boot.t.inTrap = false ∧ (bootT fun t => { t with trapstat := 2 }).t.inTrap = true ∧
    (bootT fun t => { t with trapstat := 2 }).t.level = true ∧ (bootT fun t => { t with trapstat := 2, level := false }).t.level = false ∧
    boot.t.queue = [] ∧ boot.t.posted = [] ∧ boot.t.scalars = [] ∧
    ({ boot with ch := { boot.ch with runAhead := true } } : State).ch.runAhead = true := by decide +kernel

theorem met_status_reads : boot.t.level = true ∧ boot.t.queue = [] ∧ (bootT fun t => { t with level := false }).t.level = false ∧
    (bootT fun t => { t with queue := [boot.captureEntry .fsv] }).t.queue ≠ [] ∧ (0x101, boot.ctx.ptbase) ∈ Claim.statusTable boot ∧
    (0x006, boot.t.frm.setWidth 64) ∈ Claim.statusTable boot := by decide +kernel

theorem met_fences : boot.t.queue = [] ∧ boot.t.posted = [] ∧ boot.mySegment = none ∧ boot.ops = [] ∧
    (bootT fun t => { t with queue := [boot.captureEntry .fsv] }).t.queue ≠ [] ∧
    (bootT fun t => { t with trapstat := 2 }).t.inTrap = true ∧ ({ boot with ch := { boot.ch with runAhead := true } } : State).ch.runAhead = true ∧
    boot.t.usedSlots < 64 := by decide +kernel

/-- `boot` with a barrier of a level in use, and a thread that waits in a way. -/
def waits (w : WaitRec) (ev : Bool) : State := bootT fun t => { t with wait := some w, ev := ev }

theorem met_events : boot.t.ev = false ∧ (bootT fun t => { t with ev := true }).t.ev = true ∧
    (waits { kind := .wfe } true).t.wait = some { kind := .wfe } ∧ (waits { kind := .wfe } true).mayRun = true ∧
    (waits { kind := .wfe } true).focus 0 = waits { kind := .wfe } true ∧ (bootT fun t => { t with level := false }).t.level = false := by decide +kernel

theorem boot_threads : boot.allThreads = [(0, boot.t)] := by decide +kernel

/-- `boot` with a load in the vector queue. -/
def loading : State := bootT fun t => { t with queue := [boot.captureEntry (.vld 0 5 .e32 3)] }

theorem met_nothing_left : ¬ Claim.translatedLeft boot 0 none ∧ ¬ Claim.accessQueued boot 0 := by
  have hs : boot.t.scalars = [] ∧ boot.t.posted = [] ∧ boot.t.queue = [] := by decide +kernel
  constructor
  · rintro ⟨e, he, -, -, ⟨a, ha, -⟩ | ⟨o, ho, -⟩⟩ <;> rw [boot_threads, List.mem_singleton] at he <;> subst he
    · rw [hs.1] at ha; cases ha
    · rw [hs.2.1] at ho; cases ho
  · rintro (⟨e, he, -, -, -, w, hw, -⟩ | ⟨e, he, -⟩)
    · rw [boot_threads, List.mem_singleton] at he
      subst he
      rw [hs.2.2] at hw; cases hw
    · have hi : (boot.ctxAt 0).images = [] := by decide +kernel
      rw [hi] at he; cases he

theorem met_something_left : Claim.translatedLeft storing 0 (some 0x8000) ∧ Claim.accessQueued loading 0 := by
  refine ⟨⟨_, List.mem_cons_self, by decide +kernel, by decide +kernel, .inl ⟨_, List.mem_cons_self, by decide +kernel, .inl ?_⟩⟩,
    .inl ⟨_, List.mem_cons_self, by decide +kernel, by decide +kernel, by decide +kernel, _, List.mem_cons_self, by decide +kernel⟩⟩
  intro v hv
  cases hv
  decide +kernel

/-- A task of a deterministic context with a scatter-add queued. -/
def adds : State := { boot with
  ctx := { boot.ctx with det := true }
  t := { boot.t with held := some { stage := 0, node := 0 }, queue := [boot.captureEntry (.vscadd 0 8 5 .e32 3)] } }

theorem met_adds : Claim.addsSettled boot ∧ ¬ Claim.addsSettled adds := by
  refine ⟨.inl (by decide +kernel), ?_⟩
  rintro (h | h | h | ⟨h, -⟩)
  · exact absurd h (by decide +kernel)
  · exact absurd h (by decide +kernel)
  · exact absurd h (by decide +kernel)
  · have hq : adds.t.queue = [] ++ boot.captureEntry (.vscadd 0 8 5 .e32 3) :: [] := by decide +kernel
    exact absurd ((h _ _ _ hq).2 0 8 5 .e32 3 (by decide +kernel)) (by decide +kernel)

/-- A task of a deterministic context with a segment, and bytes in memory. -/
def tasked (g : Segment) (l : List (Nat × Nat × Nat)) : State := { boot with
  ctx := { boot.ctx with det := true }
  t := { boot.t with held := some { stage := 0, node := 0 } }
  mem := l.foldl (fun m e => putBytes m e.1 (toBytes e.2.1 e.2.2)) boot.mem
  segs := [(0, g)] }

/-- A segment that has written a byte and holds an integer add and a checkpoint. -/
def writing : Segment :=
  { shadow := [(0x8000, 7)], lines := [(0x100, 0x8000)], adds := [⟨0, 0, 0, 0, 0x9000, 0x9000, 3, 4, false, 0, 0⟩], checkpoint := boot.t }

theorem met_segments : Claim.openSegment (tasked writing []) writing ∧ Claim.sound (tasked writing []) writing ∧ (tasked writing []).t.queue = [] ∧
    (tasked writing []).t.posted = [] ∧ (tasked writing []).t.scalars = [] ∧ writing.digctl.toNat % 4 = 0 ∧ writing.failed = false ∧ writing.recoverable = true ∧
    boot.pos < slotCount ∧ writing.checkpoint.live = true ∧ writing.checkpoint.ctx = (tasked writing []).t.ctx ∧ adds.t.queue ≠ [] ∧ adds.t.inTrap = false ∧
    { writing with failed := true }.failed = true ∧ { writing with recoverable := false }.recoverable = false := by
  unfold Claim.openSegment Claim.sound; decide +kernel

/-- A segment whose digests are recorded, or checked, in a log at 0x8000; and where its entry lies. -/
def logged (mode : DWord) : Segment := { diglog := 0x8000, digctl := mode }
def logKey : DWord := Claim.key (tasked (logged 1) []).t.taskix 1 ||| 1
def logEntry : Nat := 0x8000 + 16 * (logKey.toNat / 2 % 2 ^ 8)

theorem met_digest_log : (logged 1).digctl.toNat % 4 = 1 ∧ (logged 2).digctl.toNat % 4 = 2 ∧
    (logged 1).diglog.toNat / 16 % 2 ^ 44 * 16 + 16 * (logKey.toNat / 2 % 2 ^ ((logged 1).digctl.toNat / 2 ^ 8 % 16 + 8)) = logEntry ∧
    okWith ((tasked (logged 1) []).order.read (tasked (logged 1) []).logAgent .load 1 logEntry 16) (List.replicate 16 0) = true ∧
    okWith ((tasked (logged 1) []).order.checkPart (tasked (logged 1) []).logAgent .store logEntry 16) logEntry = true ∧
    okWith ((tasked (logged 2) [(logEntry, 8, logKey.toNat), (logEntry + 8, 8, 5)]).order.read (tasked (logged 2) []).logAgent .load 1 logEntry 16)
      (toBytes 8 logKey.toNat ++ toBytes 8 5) = true ∧
    ofBytes (toBytes 8 5) ≠ (tasked (logged 2) []).t.digest.toNat ∧ (tasked (logged 2) []).t.digest = 0 := by decide +kernel

theorem met_segment_store : Claim.passes (tasked writing []) (tasked writing []) .store 0x8000 8 0x8000 ∧ Claim.atOnce (tasked writing []) 8 0x8000 ∧
    (0x8000 / 128 :: writing.shadow.map fun e => e.1 / 128).dedup.length ≤ 4096 :=
  ⟨⟨by decide +kernel, ⟨0, by decide +kernel⟩, by decide +kernel⟩, ⟨by decide +kernel, by decide +kernel, by decide +kernel⟩, by decide +kernel⟩

/-- A segment that has written a byte in each of n lines of the pool. -/
def full (n : Nat) : Segment := { shadow := (List.range n).map fun i => (poolBase + 128 * i, 0) }

theorem full_segment (n : Nat) (hn : 4096 ≤ n) : 4096 < (0x8000 / 128 :: (full n).shadow.map fun e => e.1 / 128).dedup.length ∧ Claim.sound (tasked (full n) []) (full n) ∧
    Claim.openSegment (tasked (full n) []) (full n) := by
  have hl : ((full n).shadow.map fun e => e.1 / 128) = (List.range n).map fun i => poolBase / 128 + i := by
    unfold full poolBase
    rw [List.map_map]
    refine List.map_congr_left fun i _ => ?_
    show (2 ^ 60 + 128 * i) / 128 = 2 ^ 60 / 128 + i
    omega
  refine ⟨?_, ⟨?_, ?_, fun h hh => by cases hh⟩, ⟨by rfl, by rfl, by rfl⟩⟩
  · rw [hl]
    have hd : (0x8000 / 128 :: (List.range n).map fun i => poolBase / 128 + i).Nodup := by
      refine List.nodup_cons.2 ⟨fun h => ?_, (List.nodup_range).map fun a b h => Nat.add_left_cancel h⟩
      obtain ⟨i, -, hi⟩ := List.mem_map.1 h
      unfold poolBase at hi
      omega
    rw [hd.dedup, List.length_cons, List.length_map, List.length_range]
    omega
  · show (((List.range n).map fun i => (poolBase + 128 * i, (0 : Byte))).map fun e => e.1).Pairwise (· < ·)
    rw [List.map_map]
    refine List.pairwise_map.2 (List.pairwise_lt_range.imp fun {a b} h => ?_)
    show poolBase + 128 * a < poolBase + 128 * b
    omega
  · intro e he
    obtain ⟨i, -, rfl⟩ := List.mem_map.1 he
    refine ⟨?_, ?_⟩
    · unfold State.ownsByte
      rw [Bool.or_eq_true]
      exact .inl (decide_eq_true (Nat.le_add_right _ _))
    · have h1 : (tasked (full n) []).chk = [] ∧ (tasked (full n) []).quar = [] := ⟨by rfl, by rfl⟩
      unfold State.lineOk
      rw [h1.1, h1.2]
      rfl

theorem met_full_segment : 4096 < (0x8000 / 128 :: (full 4096).shadow.map fun e => e.1 / 128).dedup.length ∧ Claim.sound (tasked (full 4096) []) (full 4096) ∧
    Claim.openSegment (tasked (full 4096) []) (full 4096) := full_segment 4096 (le_refl _)

/-- The tree of a launch of two children. -/
def family : List TaskNode := [⟨3, 1, 2, 0, 6⟩, ⟨2, 1, 1, 0, 5⟩]

theorem met_launch_digest : [(⟨2, 1, 1, 0, 5⟩ : TaskNode), ⟨3, 1, 2, 0, 6⟩].Perm (family.filter fun m => m.parent == 1) ∧
    ([(⟨2, 1, 1, 0, 5⟩ : TaskNode), ⟨3, 1, 2, 0, 6⟩].map fun m => m.c).Pairwise (· < ·) ∧ (tasked writing []).ctx.det = true ∧
    (tasked writing []).ops = [] ∧ (tasked writing []).ctx.adds = [] ∧ (family.map fun n => n.id).Nodup ∧
    okWith ((tasked writing []).order.read (tasked writing []).logAgent .load 1 0x8000 16) (List.replicate 16 0) = true := by decide +kernel

theorem met_held_adds : (∀ h ∈ [(⟨0, 2, 0, 0, 0x9000, 0x9000, 3, 4, false, 0, 0⟩ : HeldAdd), ⟨0, 3, 0, 0, 0x9000, 0x9000, 3, 4, false, 0, 0⟩],
      boot.ownsByte boot.t.ctx h.pa = true ∧ boot.lineOk (h.pa / 128) = true) ∧ (⟨2, 1, 1, 0, 5⟩ : TaskNode) ∈ family ∧ (⟨3, 1, 2, 0, 6⟩ : TaskNode) ∈ family := by
  decide +kernel

theorem met_line_copies : Claim.lineIn boot true { ctx := 0, va := 0x10000, pa := 0x10000, word := 0 } 0 0 ∧
    Claim.lineIn boot false { ctx := 0, va := 0x10000, pa := 0x10000, word := 0 } 0x10040 8 :=
  ⟨.inl rfl, .inr ⟨0x10040, by decide +kernel, by decide +kernel, .inl ⟨by decide +kernel, by decide +kernel⟩⟩⟩

theorem met_halt : boot.mySegment = none ∧ boot.t.queue = [] ∧ boot.t.posted = [] ∧ boot.t.held = none ∧ boot.t.pipe = none ∧
    boot.pos < slotCount := by decide +kernel

theorem met_context_writes : boot.t.level = true ∧ (boot.t.readX 0) &&& ~~~(0x0000FFFFFFFFFF80 : DWord) = 0 ∧
    (withX [(5, 1)]).t.readX 5 &&& ~~~(0x0000FFFFFFFFFF80 : DWord) ≠ 0 ∧ (withX [(5, 3)]).t.readX 5 &&& 3 = 3 ∧
    ((withX [(5, 2)]).t.readX 5).toNat < 3 ∧ boot.marchPending boot.t.ctx = false ∧ 3 ≤ ((withX [(5, 3)]).t.readX 5).toNat ∧
    (withX [(5, 0x700000000)]).t.readX 5 &&& ~~~(0x0FFFFFFFFFFFF000 : DWord) = 0 ∧ boot.inStack boot.ctx.part 0x700000000 = true ∧
    boot.inStack boot.ctx.part 0x10000000000 = false ∧ boot.copiesPending boot.t.ctx = false ∧
    (bootT fun t => { t with level := false }).t.level = false := by decide +kernel

/-- `boot` with core barrier 0 expecting n threads, of which some have arrived. -/
def barred (n arrived : Nat) : State :=
  { boot with ctx := { boot.ctx with barriers := [(0, { expect := n, arrived := arrived, phase := 5, level := 1 })] } }

theorem met_barriers : boot.mySegment = none ∧ boot.t.queue = [] ∧ boot.t.posted = [] ∧ 0 < boot.ctx.bars.getD (min 1 4 - 1) 0 ∧
    ¬ 4 < boot.ctx.bars.getD (min 1 4 - 1) 0 ∧
    (boot.barrier (Claim.barrierKey 1 0 0)).arrived = 0 ∧ (4 : Nat) ≤ Claim.spans boot 1 ∧ Claim.spans boot 1 < 5 ∧
    ((barred 2 1).barrier (Claim.barrierKey 1 0 0)).arrived = 1 ∧ ((barred 2 1).barrier (Claim.barrierKey 1 0 0)).expect = 2 ∧
    ((barred 2 1).barrier (Claim.barrierKey 1 0 0)).level = 1 ∧ ((barred 2 1).barrier (Claim.barrierKey 1 0 0)).phase = 5 ∧
    ((barred 3 1).barrier (Claim.barrierKey 1 0 0)).arrived + 1 ≠ ((barred 3 1).barrier (Claim.barrierKey 1 0 0)).expect ∧
    (1 : Nat) ≠ 5 := by decide +kernel

/-- A thread parked in BWAIT on core barrier 0 at phase 5. -/
def atBarrier (phase : BitVec 16) : State := { barred 2 1 with t := { boot.t with wait := some (Claim.barrierWait 1 0 phase) } }

theorem met_barrier_wait : ((atBarrier 4).focus 0).t.wait = some (Claim.barrierWait 1 0 4) ∧
    ((atBarrier 5).focus 0).t.wait = some (Claim.barrierWait 1 0 5) ∧ ((atBarrier 5).focus 0).mayRun = true ∧
    0 < ((atBarrier 5).focus 0).ctx.bars.getD (min 1 4 - 1) 0 ∧ (((atBarrier 5).focus 0).barrier (Claim.barrierKey 1 0 0)).level = 1 := by
  decide +kernel

/-- A thread parked on the doubleword at 0x8000. -/
def parked (poked woken : Bool) : State := { boot with
  t := { boot.t with wait := some { kind := .park, addr := 0x8000, rd := 7 } }
  parks := [{ pos := 0, ctx := boot.t.ctx, va := 0x8000, pa := 0x8000, since := 0, poked := poked, woken := woken }] }

theorem met_parks : (withX [(5, 0x8004)]).mySegment = none ∧ ((withX [(5, 0x8004)]).t.readX 5).toNat % 8 ≠ 0 ∧
    ((withX [(5, 0x8000)]).t.readX 5).toNat % 8 = 0 ∧ okWith (boot.translate boot.agent .load 0x8000) (0x8000, 0) = true ∧
    okWith (boot.read boot.agent .load 1 0x8000 8) (List.replicate 8 0) = true ∧ ((parked true false).parks.map fun k => k.pos).Nodup ∧
    (parked true false).focus 0 = parked true false ∧ (parked true false).mayRun = true ∧
    (parked true false).myPark = (parked true false).parks.head? ∧ (parked false false).myPark = (parked false false).parks.head? := by
  decide +kernel

theorem met_park_reads : Claim.parkReads boot 0x8000 0x8000 0 boot :=
  ⟨0, boot, List.replicate 8 0, by rfl, by rfl, by decide⟩

/-- A vector side at rest with a type and a length. -/
def vec (vt : DWord) (vl : BitVec 14) : State := bootT fun t => { t with vtype := vt, dvtype := vt, vl := vl, dvl := vl }

theorem met_calm : Claim.calm (vec 0x02 4) ∧ Claim.calm (vec 0x12 4) ∧ Claim.calm (vec 0x19 0) ∧ Claim.calm (vec 0x20 48) ∧ Claim.calm (vec 0x34 48) := by
  refine ⟨?_, ?_, ?_, ?_, ?_⟩ <;> unfold Claim.calm <;> decide +kernel

theorem met_plain (vt : DWord) (vl : BitVec 14) : Claim.plainAccess (vec vt vl) := ⟨rfl, rfl, rfl⟩

/-- Types of 32-bit integers and floats, 16-bit BF16, and the block formats: each legal. -/
theorem met_types : vtIll 0x02 = false ∧ vtIll 0x12 = false ∧ vtIll 0x19 = false ∧ vtIll 0x20 = false ∧ vtIll 0x34 = false ∧
    vtFmt 0x02 = 0 ∧ vtFmt 0x12 = 2 ∧ vtFmt 0x19 = 3 ∧ vtFmt 0x20 = 4 ∧ vtFmt 0x34 = 6 ∧ vtSew 0x02 = 32 ∧ vtSew 0x34 = 4 ∧ vtSew 0x00 = 8 := by
  decide +kernel

theorem met_active : Claim.active (vec 0x12 4) 0 3 = true ∧ Claim.active (vec 0x12 4) 1 0 = false ∧ (vec 0x12 0).t.vl = 0 ∧
    (vec 0x12 4).t.vl ≠ 0 ∧ Claim.actives (vec 0x12 4) 0 = [0, 1, 2, 3] := by decide +kernel

theorem met_conversions_legal : classLegal (.vfcvt 0 4 4 2) (vec 0x12 4).legalEnv = true ∧ classLegal (.vfcvt 0 4 10 2) (vec 0x02 4).legalEnv = true ∧
    classLegal (.vfcvt 0 4 10 2) (vec 0x20 48).legalEnv = true ∧ classLegal (.vfcvt 0 4 10 2) (vec 0x12 4).legalEnv = false := by decide +kernel

theorem met_conversion_groups : Claim.cvtLegal 2 32 4 0 4 2 ∧ Claim.cvtLegal 0 32 10 0 4 2 ∧ Claim.cvtLegal 4 8 10 0 4 2 ∧ ¬ Claim.cvtLegal 2 32 10 0 4 2 ∧
    ¬ Claim.cvtOutside (vec 0x12 4) 4 4 ∧ Claim.cvtOutside (vec 0x11 400) 11 31 ∧ Claim.cvtLegal 2 16 11 0 31 2 ∧ Claim.calm (vec 0x11 400) := by
  refine ⟨?_, ?_, ?_, ?_, ?_, ?_, ?_, ?_⟩ <;>
    simp -zeta only [Claim.cvtLegal, Claim.cvtOutside, Claim.ownCode, Claim.calm] <;> (try dsimp only) <;> decide +kernel

theorem met_configuration : Claim.legalType 0x12 ∧ ¬ Claim.legalType 0x1A ∧ Claim.legalType 0x34 := by
  unfold Claim.legalType; decide +kernel

theorem met_enters_queue : classLegal (.vadd 0 .vv 1 2 3) (vec 0x02 4).legalEnv = true ∧ Claim.enteringSpecially (.vadd 0 .vv 1 2 3) = false ∧
    tileOnly (.vadd 0 .vv 1 2 3) = false ∧ (vec 0x02 4).standing (.vadd 0 .vv 1 2 3) = false ∧ (vec 0x02 4).t.usedSlots < 64 ∧
    64 ≤ (bootT fun t => { t with queue := List.replicate 64 (boot.captureEntry .fsv) }).t.usedSlots := by decide +kernel

/-- `vec` with an address in x5. -/
def vecAt (vt : DWord) (vl : BitVec 14) (a : DWord) : State := (vec vt vl).setX 5 a

theorem met_vector_loads : classLegal (.vld 0 5 .e32 3) (vecAt 0x12 4 0x8000).legalEnv = true ∧
    classLegal (.vlds 0 6 5 .e32 3) (vecAt 0x12 4 0x8000).legalEnv = true ∧ classLegal (.vldx 0 8 5 .e32 3) (vecAt 0x12 4 0x8000).legalEnv = true ∧
    classLegal (.vld 0 5 .e64 3) (vecAt 0x12 4 0x8000).legalEnv = false ∧
    Claim.address ((vecAt 0x12 4 0x8000).t.readX 5) 12 % 4 = 0 ∧
    okWith ((vecAt 0x12 4 0x8000).read (vecAt 0x12 4 0x8000).agent .load 1 0x800C 4) [0, 0, 0, 0] = true := by decide +kernel

theorem met_readable : Claim.readable (vecAt 0x12 4 0x8000) 0x8000 4 [0, 0, 0, 0] := by
  unfold Claim.readable; decide +kernel

theorem met_first_fault : Claim.active (vecAt 0x12 4 0x3FFFFFFC) 0 1 = true ∧ Claim.active (vecAt 0x12 4 0x3FFFFFFC) 0 0 = true ∧
    Claim.address ((vecAt 0x12 4 0x3FFFFFFC).t.readX 5) 4 = 0x40000000 ∧
    trapWith ((vecAt 0x12 4 0x3FFFFFFC).read (vecAt 0x12 4 0x3FFFFFFC).agent .load 1 0x40000000 4) cause.translation 0x40000000 = true ∧
    okWith ((vecAt 0x12 4 0x3FFFFFFC).read (vecAt 0x12 4 0x3FFFFFFC).agent .load 1 0x3FFFFFFC 4) [0, 0, 0, 0] = true := by decide +kernel

theorem met_multivectors : classLegal (.vldg 0 5 3) (vecAt 0x12 4 0x8000).legalEnv = true ∧ classLegal (.vstg 0 5 3) (vecAt 0x12 4 0x8000).legalEnv = true ∧
    classLegal (.vldf 0 5 3) (vecAt 0x12 4 0x8000).legalEnv = true ∧ classLegal (.vldr 0 5 3) (vecAt 0x20 48 0x8000).legalEnv = true ∧
    classLegal (.vstF 0 5 3) (vecAt 0x12 4 0x8000).legalEnv = true ∧ classLegal (.vstr 0 5 3) (vecAt 0x20 48 0x8000).legalEnv = true ∧
    indexFits (vec 0x12 4).t.lanes (vec 0x12 4).core.rowcap 8 4 = true := by decide +kernel

/-- `vecAt` on a page of region 1, whose entry lies at 0x9000. -/
def regional (vt : DWord) (vl : BitVec 14) (fmt : Nat) : State :=
  let s := vecAt vt vl 0x40000000
  let put := fun m (e : Nat × Nat × Nat) => putBytes m e.1 (toBytes e.2.1 e.2.2)
  { s with
    ctx := { s.ctx with frtbase := 0x9000 }
    mem := [(0x700001008, 8, 0x11F + 2 ^ 30), (0x9020, 8, fmt + 2 ^ 31), (0x9028, 8, 0x40000000), (0x9030, 8, 0x120000), (0x9038, 8, 0x20000000)].foldl put s.mem }

/-- Where a range of the scratchpad of core 0 and context 0 lies. -/
def padPlace (va : Nat) : Nat := scratchBase 0 0 + (va - 0x40000000)

theorem padded_check (m : List Host.Cell) : ({ padded with mem := m } : State).checkPart padded.agent .store 0x40000000 4 =
    .ok (scratchBase 0 0, { padded with mem := m }) := by
  have ht : ({ padded with mem := m } : State).translate padded.agent .store 0x40000000 = .ok ((scratchBase 0 0, 0), { padded with mem := m }) := by
    have h0 : ({ padded with mem := m } : State).ctxAt padded.agent.ctx = padded.ctx := rfl
    have h1 : (if Access.store = .fetch then none else padded.agent.core) = some 0 := by decide +kernel
    have h2 : decide (padded.ctx.spbase.toNat ≤ 0x40000000 ∧ 0x40000000 < padded.ctx.spbase.toNat + 2 ^ 21) = true := by decide +kernel
    have h3 : 0x40000000 - padded.ctx.spbase.toNat < (padded.coreAt 0).spcap * 2 ^ 18 := by decide +kernel
    have h4 : scratchBase 0 padded.agent.ctx + (0x40000000 - padded.ctx.spbase.toNat) = scratchBase 0 0 := by decide +kernel
    unfold State.translate
    rw [if_neg (by decide +kernel)]
    simp only [h0, h1, h2]
    rw [if_pos (show 0x40000000 - padded.ctx.spbase.toNat < (({ padded with mem := m } : State).coreAt 0).spcap * 2 ^ 18 from h3), h4]
  have hh : ({ padded with mem := m } : State).held padded.agent (scratchBase 0 0) 4 = false := by
    change padded.held padded.agent (scratchBase 0 0) 4 = false
    decide +kernel
  unfold State.checkPart State.checkLine
  rw [ht]
  simp only [hh, Bool.false_eq_true, if_false]
  rw [if_neg (by decide), if_neg (by decide +kernel), if_pos (by decide +kernel)]

theorem met_storable : Claim.storable padded padPlace [(0x40000000, 4)] := by
  rintro u ⟨m, rfl, -⟩ x hx e he
  simp only [List.mem_singleton] at hx
  subst hx
  have h : lineParts 0x40000000 4 = [(0x40000000, 4)] := by decide +kernel
  rw [h, List.mem_singleton] at he
  subst he
  exact padded_check m

theorem met_regions : okWith ((regional 0x19 4 3).region (regional 0x19 4 3).agent .load 0x40000000) ⟨1, 3, 0x40000000, 0x120000, 0x20000000⟩ = true := by
  decide +kernel

theorem met_scatters : classLegal (.vscadd 0 8 5 .e32 3) (vecAt 0x02 4 0x8000).legalEnv = true ∧ classLegal (.vstc 0 8 5 3) (vecAt 0x02 4 0x8000).legalEnv = true ∧
    (vecAt 0x02 4 0x8000).mySegment = none ∧ (vecAt 0x02 4 0x8000).ctx.det = false ∧ (vecAt 0x02 4 0x8000).t.live = true ∧
    Claim.address ((vecAt 0x02 4 0x8000).t.readX 5) 0 % 4 = 0 ∧ okWith (boot.translate boot.agent .store 0x8000) (0x8000, 0) = true ∧
    boot.held boot.agent 0x8000 4 = false ∧ boot.lineOk (0x8000 / 128) = true := by decide +kernel

theorem met_texture_class : classLegal (.texs 0 8 5 3) (vecAt 0x12 4 0x8000).legalEnv = true ∧ (0x8000 : DWord).toNat % 64 = 0 ∧
    textureOk [0x10000, 0, 16, 0, 0, 0, 0, 0] = true ∧ (3 : VReg).toNat + 1 ≤ 31 := by decide +kernel

theorem met_graded : classLegal (.gp 0 1 2 false false false 3) (vec 0x12 4).legalEnv = true ∧
    classLegal (.gp 0 1 2 false false false 3) (vec 0x02 4).legalEnv = false ∧ classLegal (.gdecl 0b10101 3) (vec 0x12 4).legalEnv = true ∧
    (vec 0x12 4).t.gmode = false := by decide +kernel

theorem met_real_function : Claim.isReal .exp (fun _ => 0) 0 1 ∧ ((Claim.number (f32.read 0 0) : Rat) : ℝ) = 0 := by
  refine ⟨?_, ?_⟩
  · show Claim.isExp (fun _ => 0) 0 1
    simp [Claim.isExp]
  · have : Claim.number (f32.read 0 0) = 0 := by decide +kernel
    rw [this]; norm_num

theorem met_apart (h : ℝ) (hh : Claim.halfStep f32 h) (hn : h ≠ 1) :
    (2 : ℝ) ^ (-2300 : Int) * (1 + ((Claim.readsOf .exp).map fun _ => |(0 : ℝ)|).sum) ^ 6 ≤ |1 - h| := by
  obtain ⟨m, e, -, he, rfl⟩ := hh
  have hb : (f32.bias : Int) = 127 ∧ (f32.mb : Int) = 23 := by decide
  obtain ⟨n, rfl⟩ : ∃ n : Nat, e = n - 151 := ⟨(e + 151).toNat, by omega⟩
  have hk : 1 - (m : ℝ) * 2 ^ ((n : Int) - 151) = ((2 ^ 151 - m * 2 ^ n : Int) : ℝ) * 2 ^ (-151 : Int) := by
    push_cast
    rw [zpow_sub₀ two_ne_zero, zpow_neg, zpow_natCast, sub_mul]
    field_simp; norm_num
  have hz : (2 ^ 151 - m * 2 ^ n : Int) ≠ 0 := by
    intro h0
    rw [h0] at hk
    rw [Int.cast_zero, zero_mul, sub_eq_zero] at hk
    exact hn hk.symm
  rw [hk, abs_mul, abs_of_pos (a := (2 : ℝ) ^ (-151 : Int)) (by positivity)]
  have h1 : (1 : ℝ) ≤ |((2 ^ 151 - m * 2 ^ n : Int) : ℝ)| := by exact_mod_cast Int.one_le_abs hz
  have h2 : (2 : ℝ) ^ (-2300 : Int) ≤ 2 ^ (-151 : Int) := zpow_le_zpow_right₀ (by norm_num) (by norm_num)
  have h3 : (1 + ((Claim.readsOf .exp).map fun _ => |(0 : ℝ)|).sum) ^ 6 = 1 := by simp [Claim.readsOf]
  rw [h3, mul_one]
  calc _ ≤ (2 : ℝ) ^ (-151 : Int) := h2
    _ = 1 * 2 ^ (-151 : Int) := (one_mul _).symm
    _ ≤ _ := mul_le_mul_of_nonneg_right h1 (by positivity)
theorem met_blocks : ((vec 0x12 4).t.readX 0 + (0x100 : BitVec 12).signExtend 64).toNat % 4 = 0 ∧
    ((vec 0x12 4).t.readX 0 + (2 : BitVec 12).signExtend 64).toNat % 4 ≠ 0 := by decide +kernel

/-- A block of one word and STOP at 0x100. -/
def blocked : State :=
  let put := fun m (e : Nat × Nat) => putBytes m e.1 (toBytes 4 e.2)
  { vec 0x02 4 with mem := [(0x100, (encode (.vadd 0 .vv 1 2 3)).toNat), (0x104, (encode .stop).toNat)].foldl put boot.mem }

theorem met_block_words : okWith (blocked.fetch 0x100) (encode (.vadd 0 .vv 1 2 3)) = true ∧ okWith (blocked.fetch 0x104) (encode .stop) = true := by
  decide +kernel

/-- The tile unit held, with a type and a shape. -/
def tiled (vt : DWord) (m n k : Nat) : State :=
  let sh := shapeWord m n k
  { vec vt 96 with
    core := { boot.core with tileOwner := some 0 }
    t := { (vec vt 96).t with tile := true, tshape := sh, dtshape := sh } }

theorem met_calm_tile : Claim.calmTile (tiled 0x12 2 2 1) ∧ Claim.calmTile (tiled 0x12 0 2 1) := by
  unfold Claim.calmTile; decide +kernel

/-- A TDRAIN with a chain of one word, and the word behind it. -/
def chained (ready : Bool) : State :=
  let s := tiled 0x12 2 2 1
  let e := s.captureEntry (.tdrain 1 0 5 3)
  let c := { s.captureEntry (.vadd 0 .vv 3 3 4) with chain := some { left := 1, n := 2, flush := 0, widths := [], stored := false } }
  { s with t := { s.t with queue := if ready then [e, c] else [e] } }

theorem met_chain : ((chained true).t.queue.map fun e => e.instr) = [.tdrain 1 0 5 3, .vadd 0 .vv 3 3 4] ∧ (chained false).t.queue.length = 1 ∧
    (chained true).t.inTrap = false ∧ (chained true).t.tileSave = [] ∧ (chained false).t.wait = none ∧ (Claim.shape (chained true)).2.1 ≤ 96 ∧
    ((chained true).t.queue.drop 1).all (fun c => c.chain.isSome && !chainStore c.instr) = true := by decide +kernel

theorem met_tile : (vec 0x12 4).core.tileOwner = none ∧ (vec 0x12 4).core.tileWaiters = [] ∧ (tiled 0x12 2 2 1).core.tileOwner = some 0 ∧
    (0 : ZReg).toNat < boot.core.tilecapZn ∧ ¬ (3 : ZReg).toNat ≥ boot.core.tilecapZn ∧ Claim.shape (tiled 0x12 2 3 4) = (2, 3, 4) ∧
    classLegal (.topa true false 4 2 0) (tiled 0x12 2 2 1).legalEnv = true ∧ classLegal (.topas true false 1 2 0) (tiled 0x12 2 2 1).legalEnv = true ∧
    classLegal (.tdrain 0 0 5 3) (tiled 0x12 2 2 1).legalEnv = true ∧ classLegal (.tldz 6 5 0) (tiled 0x12 2 2 1).legalEnv = true ∧
    classLegal (.tstz 6 5 0) (tiled 0x12 2 2 1).legalEnv = true ∧ classLegal (.tfetch 1 5 3) (tiled 0x12 2 2 1).legalEnv = true := by decide +kernel


/-! ### Handles -/

/-- `boot` with bytes in memory and a tensor handle in h1. -/
def filled (l : List (Nat × Nat × Nat)) (h : Handle) : State :=
  { boot with
    mem := l.foldl (fun m e => putBytes m e.1 (toBytes e.2.1 e.2.2)) boot.mem
    t := (boot.setX 5 0x8000).t.writeH 1 h }

/-- An FP32 tensor of two rows and three columns, of the levels given. -/
def tensor (levels : Nat) (list : DWord) : Handle :=
  { d0 := BitVec.ofNat 64 (1 + 16 * levels + 2 ^ 12 + 2 ^ 31), d1 := BitVec.ofNat 64 (2 + 3 * 2 ^ 32), d4 := 0x8200, d7 := list
    d5 := if levels = 0 then 0 else 0x8000, d6 := if levels = 0 then 0 else 0x8100 }

theorem met_well_formed : Claim.wellFormed (tensor 0 0x8400) ∧ Claim.wellFormed (tensor 4 0) ∧ Claim.wellFormed (tensor 9 0) ∧
    Claim.wellFormed { tensor 12 0 with d1 := BitVec.ofNat 64 (48 + 96 * 2 ^ 32) } ∧ ¬ Claim.wellFormed (tensor 1 0) := by
  refine ⟨?_, ?_, ?_, ?_, ?_⟩ <;> unfold Claim.wellFormed <;> dsimp only <;> decide +kernel

theorem met_handle_words : Claim.readable boot 0x8000 64 (List.replicate 64 0) ∧
    (handleOf (List.replicate 64 0)).d0.getLsbD 31 = false ∧
    handleOf ([tensor 0 0].flatMap fun h => [h.d0, h.d1, h.d2, h.d3, h.d4, h.d5, h.d6, h.d7].flatMap fun d => toBytes 8 d.toNat) = tensor 0 0 ∧
    boot.checkPart boot.agent .store 0x8000 64 = .ok (0x8000, boot) := by
  unfold Claim.readable; decide +kernel

theorem met_entries : Claim.readable (filled [(0x8004, 4, 1), (0x8008, 4, 2), (0x8104, 4, 2)] (tensor 4 0)) 0x8008 4 (toBytes 4 2) ∧
    Claim.readable (filled [(0x8004, 4, 1), (0x8100, 4, 1), (0x8104, 4, 2)] (tensor 9 0)) 0x8100 8 (toBytes 4 1 ++ toBytes 4 2) ∧
    Claim.readable (filled [(0x8400, 8, 7)] (tensor 0 0x8400)) 0x8400 64 (toBytes 8 7 ++ List.replicate 56 0) := by
  unfold Claim.readable; decide +kernel

theorem met_amendment_lists : Claim.readable (filled [(0x8000, 8, 6)] {}) 0x8000 64 (toBytes 8 6 ++ List.replicate 56 0) ∧
    Claim.layerOk (fun k => [BitVec.ofNat 64 (1 + 48 * 2 ^ 32), 0, 4, 4, 0, 0, 0, 0].getD k 0) ∧
    ¬ Claim.layerOk (fun k => [BitVec.ofNat 64 (1 + 49 * 2 ^ 32), 0, 4, 4, 0, 0, 0, 0].getD k 0) ∧
    (∀ e ∈ lineParts 0x8000 8, boot.checkPart boot.agent .store e.1 e.2 = .ok (e.1, boot)) ∧
    (∀ e ∈ lineParts 0x81C0 64, boot.checkPart boot.agent .store e.1 e.2 = .ok (e.1, boot)) := by
  unfold Claim.readable Claim.layerOk; decide +kernel

/-- A layer of rank 1 with its arrays at 0x8800 and 0x8900. -/
def lowLayer : Layer := ⟨true, false, 1, 0x3F800000, 0x8800, 0x8900, []⟩

/-- A tensor of FP32 with a low-rank layer. -/
def tensorOf (pat : Pattern) (levels : Nat) (layers : List Layer) : Tensor :=
  { h := tensor levels 0, pat := pat, ag := boot.agent, kind := 1, efmt := 2, region := none, layers := layers, fold := false }

theorem met_tensor_search : Tensor.rd boot.agent 1 (filled [(0x8004, 4, 1)] {}) 0x8004 4 = .ok (toBytes 4 1, filled [(0x8004, 4, 1)] {}) ∧
    Tensor.rd boot.agent 1 boot 0x8100 4 = .ok (toBytes 4 0, boot) ∧ (tensorOf .rows 4 []).pat = .rows := by decide +kernel

theorem met_tensor_value : (tensorOf .dense 0 [lowLayer]).locate 1 2 boot = .ok (some 5, boot) ∧
    (tensorOf .dense 0 [lowLayer]).stored 5 boot = .ok (.num false 0, boot) ∧
    Tensor.rd boot.agent 1 boot 0x8804 4 = .ok (toBytes 4 0, boot) ∧ Tensor.rd boot.agent 1 boot 0x8908 4 = .ok (toBytes 4 0, boot) ∧
    f32.value (ofBytes (toBytes 4 0)) = .num false 0 := by decide +kernel

theorem met_tensor_region : okWith ((regional 0x19 4 3).regionItem boot.agent .load ⟨1, 3, 0x40000000, 0x120000, 0x20000000⟩ 5 0 2) 0x4000000A = true := by
  decide +kernel

/-- `vec` at FP32 and four elements, with the handle h1, a window width of 3 in x5 and a cursor. -/
def handling (h : Handle) : State :=
  let s := (vec 0x12 4).setX 5 3
  { s with t := s.t.writeH 1 h }

theorem met_handle_loads (u : State) (_ : Claim.like (handling (tensor 0 0)) u) : Claim.calm (handling (tensor 0 0)) ∧
    openTensor (tensor 0 0) (handling (tensor 0 0)).agent 1 u = .ok (tensorOf .dense 0 [], u) ∧
    (∀ j < 4, (tensorOf .dense 0 []).value (2 + j / 3) (j % 3) u = .ok ((.num false 0, 0), u)) ∧
    (tensorOf .dense 0 []).limits 2 4 0 3 u = .ok u := by
  refine ⟨by unfold Claim.calm; decide +kernel, rfl, ?_, rfl⟩
  intro j hj
  unfold Tensor.value
  have hr : (tensorOf .dense 0 []).h.fr = 2 := by decide +kernel
  rw [if_pos (Or.inl (by omega))]

/-- `regional` with a handle of a block tensor in its region, with or without a layer, whose window lies below its rows. -/
def blocks (layered : Bool) : State :=
  let s := regional 0x20 48 4
  let put := fun (m : List Host.Cell) (e : Nat × Nat × Nat) => putBytes m e.1 (toBytes e.2.1 e.2.2)
  let l := if layered then [(0x8400, 8, 1), (0x8440, 8, 1 + 2 ^ 32), (0x8448, 8, 0x3F800000), (0x8450, 8, 0x8800), (0x8458, 8, 0x8900)] else []
  { s with mem := l.foldl put s.mem }
def below (h : Handle) : Handle := { h with d2 := 7 }
def blockTensor (list : DWord) : Handle := below { tensor 0 list with d0 := BitVec.ofNat 64 (1 + 2 ^ 31), d4 := 0x40000000 }

theorem met_panels : openTensor (below (tensor 0 0)) boot.portAgent 1 boot = .ok ({ tensorOf .dense 0 [] with h := below (tensor 0 0), ag := boot.portAgent }, boot) ∧
    vtFmt 0x12 = 2 ∧ (tensorOf .dense 0 []).efmt = 2 ∧ (tensorOf .dense 0 []).efmt ≠ vtFmt 0x20 ∧
    okWith (((openTensor (blockTensor 0) (blocks false).portAgent 1 (blocks false)).map fun r => ((r.1.efmt, r.1.block, r.1.layers == []), r.2)))
      (vtFmt 0x20, some (vtBlockFmt 0x20), true) = true ∧
    okWith (((openTensor (blockTensor 0x8400) (blocks true).portAgent 1 (blocks true)).map fun r => ((r.1.efmt, r.1.block, r.1.layers == []), r.2)))
      (vtFmt 0x20, some (vtBlockFmt 0x20), false) = true := by decide +kernel

theorem met_panel_reads (T : Tensor) (r c : Nat) (s : State) (h : T.h.fr ≤ r) : T.value r c s = .ok ((.num false 0, 0), s) := by
  unfold Tensor.value
  rw [if_pos (Or.inl h)]

theorem met_panel_window : (blockTensor 0).fr ≤ (blockTensor 0).orow ∧ (below (tensor 0 0)).fr ≤ (below (tensor 0 0)).orow ∧
    ({ tensorOf .dense 0 [] with h := below (tensor 0 0) } : Tensor).limits 7 9 0 3 boot = .ok boot := ⟨by decide +kernel, by decide +kernel, rfl⟩

theorem met_handle_stores : Claim.takes (handling (tensor 0 0)) 0 ∧ (handling (tensor 0 0)).t.live = true ∧ (handling (tensor 0 0)).ctx.det = false ∧
    Claim.noSegment (handling (tensor 0 0)) ∧ Claim.takes (bootT fun t => t.setToken 0 { st := 1 }) 1 ∧
    (∀ j < 64, ((bootT fun t => { t with tokens := Vector.replicate 64 { st := 1 } }).t.token j).st ≠ 0) := by
  unfold Claim.takes Claim.noSegment; decide +kernel

theorem met_window : Claim.meetsWindow { boot with ctx := { boot.ctx with spbase := 0x40000000 } } (0x401FFFFE, 4) ∧ boot.ctx.spbase.toNat < 2 ^ 48 := by
  unfold Claim.meetsWindow; decide +kernel

theorem met_publishable : Claim.publishable (handling (tensor 0 0)) id [(0x8200, 4), (0x8000, 12)] := by
  intro x hx e he
  have h : ∀ e, (e = (0x8200, 4) ∨ e = (0x8000, 12)) →
      (∃ r, (handling (tensor 0 0)).translate (handling (tensor 0 0)).agent .store e.1 = .ok ((e.1, r), handling (tensor 0 0))) ∧ e.1 < 2 ^ 62 ∧
      ¬ Claim.meetsWindow (handling (tensor 0 0)) e ∧
      ∀ i < e.2, (handling (tensor 0 0)).held (handling (tensor 0 0)).agent (e.1 + i) 1 = false ∧ (handling (tensor 0 0)).lineOk ((e.1 + i) / 128) = true ∧
        (poolBase ≤ e.1 + i ∨ (handling (tensor 0 0)).inStack (handling (tensor 0 0)).ctx.part (e.1 + i) = true) := by
    rintro e (rfl | rfl)
    · exact ⟨⟨0, by decide +kernel⟩, by decide, by unfold Claim.meetsWindow; decide +kernel, by decide +kernel⟩
    · exact ⟨⟨0, by decide +kernel⟩, by decide, by unfold Claim.meetsWindow; decide +kernel, by decide +kernel⟩
  have hp : lineParts 0x8200 4 = [(0x8200, 4)] ∧ lineParts 0x8000 12 = [(0x8000, 12)] := by decide +kernel
  simp only [List.mem_cons, List.not_mem_nil, or_false] at hx
  obtain rfl | rfl := hx
  · exact h e (.inl (by simpa [hp.1] using he))
  · exact h e (.inr (by simpa [hp.2] using he))

/-! ### Engine operations -/

/-- `boot` with bytes in memory, x5 pointing at them and an operation in progress. -/
def working (l : List (Nat × Nat × Nat)) (o : EngineOp) : State :=
  { boot with mem := l.foldl (fun m e => putBytes m e.1 (toBytes e.2.1 e.2.2)) boot.mem, t := (boot.setX 5 0x8000).t, ops := [o], nextOp := 1 }

/-- An operation of the thread in focus. -/
def ofKind (k : EngineKind) (words : List DWord) (phase : EnginePhase) : EngineOp :=
  { id := 1, kind := k, issuer := 0, ctx := 0, level := true, words := words, phase := phase }

theorem met_issuing_words : Claim.noSegment (working [] (ofKind .copy [] .queued)) ∧ Claim.takes (working [] (ofKind .copy [] .queued)) 0 ∧
    Claim.room (working [] (ofKind .copy [] .queued)) .copy ∧ Claim.room boot .fold ∧
    ¬ Claim.room ({ boot with ops := List.replicate 32 (ofKind .copy [] .queued) } : State) .copy ∧
    boot.read boot.agent .load 1 0x8000 48 = .ok (List.replicate 48 0, boot) := by
  unfold Claim.noSegment Claim.takes Claim.room; decide +kernel

theorem met_no_other_issuer : Claim.noOtherIssuer boot := by
  intro e he hp
  have h : boot.allThreads = [(0, boot.t)] := by decide +kernel
  rw [h, List.mem_singleton] at he
  exact absurd (by rw [he]; decide +kernel) hp

/-- The thread's slot 1 with a state. -/
def slotted (st : BitVec 4) : State := bootT fun t => t.setToken 1 { st := st, gen := 5 }

theorem met_tokens : Claim.tokenOf (slotted 1) 1 = 0x50001 ∧ Claim.stale (slotted 1) 0x40001 ∧ ¬ Claim.stale (slotted 1) 0x50001 ∧
    ((slotted 1).t.token 1).st = 1 ∧ Claim.isFinal ((slotted 3).t.token 1) ∧ ¬ Claim.isFinal ((slotted 2).t.token 1) ∧ Claim.stale boot 0 := by
  unfold Claim.tokenOf Claim.stale Claim.isFinal; decide +kernel

theorem met_token_timeout : Claim.waiting (bootT fun t => { (slotted 1).t with
    wait := some { kind := .cwait, addr := 0x50001, cycles := 9 }, lastVector := t.lastVector }) { kind := .cwait, addr := 0x50001, cycles := 9 } := by
  unfold Claim.waiting; decide +kernel

theorem met_publish : (let s := { slotted 2 with ops := [{ ofKind .copy [] .ready with slot := 1, gen := 5, explicit := true, shadow := [⟨0x8000, 0x8000, 7, 0xFF, 0⟩] }] };
    (s.readyAt 1).isSome = true ∧ Claim.soundPuts s s.t.ctx [⟨0x8000, 0x8000, 7, 0xFF, 0⟩] ∧ (List.range 64).filter (fun j => (2 : DWord).getLsbD j) = [1]) := by
  unfold Claim.soundPuts; decide +kernel

theorem met_block_writable (s : State) (ph : Nat → Nat) (o : EngineOp) (n : Nat) (h : o.block = none) : Claim.blockWritable s ph o n := by
  intro b hb
  rw [h] at hb
  cases hb

theorem met_copy : (working [] (ofKind .copy [0x8000, 0x9000, 16, 2, 16, 16] .queued)).op 1 = some (ofKind .copy [0x8000, 0x9000, 16, 2, 16, 16] .queued) ∧
    lineParts 0x9000 16 = [(0x9000, 16)] ∧ lineParts 0x9010 16 = [(0x9010, 16)] ∧
    boot.translate (ofKind .copy [] .queued).agent .dest 0x9000 = .ok ((0x9000, 0), boot) ∧
    boot.read (ofKind .copy [] .queued).agent .source 4 0x8000 16 = .ok (List.replicate 16 0, boot) ∧
    trapWith (boot.translate (ofKind .copy [] .queued).agent .dest 0x40000000) cause.translation 0x40000000 = true ∧
    boot.coreAt 0 = boot.core ∧ boot.core.scoreboard = [] ∧ boot.ctx.holdsBay 0 = true := by decide +kernel

/-- A list that has one layer, at 0x8400. -/
def oneLayer : List (Nat × Nat × Nat) := [(0x8400, 8, 1), (0x8440, 8, 1 + 2 ^ 32), (0x8448, 8, 0x3F800000), (0x8450, 8, 0x8800), (0x8458, 8, 0x8900)]

/-- A dense tensor under a list, at 0x8000. -/
def based : List (Nat × Nat × Nat) :=
  let h := tensor 0 0x8400
  [(0x8000, 8, h.d0.toNat), (0x8008, 8, h.d1.toNat), (0x8020, 8, h.d4.toNat), (0x8038, 8, h.d7.toNat)] ++ oneLayer

/-- The state in which a fold starts. -/
def folding : State := working based (ofKind .fold [0x8000, 0, 0, 0, 0, 0] .queued)

theorem met_fold : folding.read (ofKind .fold [] .queued).agent .source 4 0x8000 64 =
      .ok ([tensor 0 0x8400].flatMap (fun h => [h.d0, h.d1, h.d2, h.d3, h.d4, h.d5, h.d6, h.d7].flatMap fun d => toBytes 8 d.toNat), folding) ∧
    openTensor (tensor 0 0x8400) (ofKind .fold [] .queued).agent 4 folding =
      .ok ({ tensorOf .dense 0 [lowLayer] with h := tensor 0 0x8400, ag := (ofKind .fold [] .queued).agent, kind := 4 }, folding) ∧
    (∀ e ∈ lineParts 0x8400 8, folding.checkPart (ofKind .fold [] .queued).agent .dest e.1 e.2 = .ok (e.1, folding)) := by decide +kernel

/-- A ready fold of slot 1 of one layer, with its list at 0x8400. -/
def folded : State := { working [(0x8400, 8, 9), (0x8440, 8, 1 + 2 ^ 32), (0x8448, 8, 0x3F800000)]
    { ofKind .fold [0x8000, 0, 0, 0, 0, 0, 0x8400] .ready with slot := 1, gen := 5, explicit := true, result := 1, progress := 1, shadow := [⟨0x8200, 0x8200, 7, 0xFF, 0⟩] } with
  t := ((slotted 2).setX 5 2).t }

theorem met_fold_publish : Claim.noSegment folded ∧ folded.ch.fillCache = false ∧ (folded.t.readX 5).toNat = 2 ^ 1 ∧ (folded.t.token 1).st = 2 ∧
    (folded.readyAt 1).map (fun o => (o.kind, o.result.toNat, o.progress, o.words.getD 6 0, o.block)) = some (.fold, 1, 1, 0x8400, none) ∧
    okWith (folded.read (ofKind .fold [] .ready).agent .source 4 0x8400 512)
      ((Claim.listWord 1 true ++ List.replicate 56 0) ++ (toBytes 8 (1 + 2 ^ 32) ++ toBytes 8 0x3F800000 ++ List.replicate 432 0)) = true ∧
    (∀ e ∈ lineParts 0x8400 8 ++ lineParts 0x8440 64, folded.checkPart (ofKind .fold [] .ready).agent .dest e.1 e.2 = .ok (e.1, folded)) ∧
    Claim.soundPuts folded 0 [⟨0x8200, 0x8200, 7, 0xFF, 0⟩] := by
  unfold Claim.noSegment Claim.soundPuts; decide +kernel

theorem met_splats : f32.value 0 = .num false 0 ∧ (List.replicate 48 (0 : Byte)).length = 48 ∧
    (∀ k < 10, Claim.wordNumber (Claim.wordIn (List.replicate 48 0) k) = some 0) ∧ f32.value 0x3F800000 = .num false 1 := by decide +kernel

theorem met_fold_value : ({ tensorOf .dense 0 [lowLayer] with h := tensor 0 0x8400, ag := (ofKind .fold [] .queued).agent, kind := 4 } : Tensor).value 1 2 folding =
    .ok ((.num false 0, 0), folding) := by decide +kernel

theorem met_blend : (working [] (ofKind .blend [0x8000, 1, 0x9000, 0x100, 0, 0, 0x3B800000] .queued)).op 1 =
      some (ofKind .blend [0x8000, 1, 0x9000, 0x100, 0, 0, 0x3B800000] .queued) ∧
    lineParts 0x9F00 256 = [(0x9F00, 128), (0x9F80, 128)] ∧
    boot.translate (ofKind .blend [] .queued).agent .dest 0x9F80 = .ok ((0x9F80, 0), boot) ∧
    boot.read (ofKind .blend [] .queued).agent .source 4 0x8000 48 = .ok (List.replicate 48 0, boot) := by decide +kernel

/-! ### The marcher -/

/-- A descriptor of two stages: stage 0 pushes to stage 1, whose records are 80 bytes long and whose queue holds one. -/
def descriptor : List DWord := [0x10000, 1, 0, 0, 0, 0, 0, 0, 0x10000, BitVec.ofNat 64 (2 + 2 ^ 32 + 2 ^ 50), 0, 0,
  0x10000, BitVec.ofNat 64 (4 * 2 ^ 16 + 2 ^ 32 + 2 ^ 50), 0, 0]

/-- Its pipeline in bay 0. -/
def pipe : Pipe := { launch := 3, ctx := 0, bay := 0, desc := descriptor }

/-- A ray along x, at cell 0 of a mesh at 0x8100. -/
def ray : Handle :=
  { d2 := 0x3F800000, d3 := BitVec.ofNat 64 (0x40000000 * 2 ^ 32), d4 := BitVec.ofNat 64 (5 * 2 ^ 32)
    d5 := BitVec.ofNat 64 (2 ^ 32 + 15 * 2 ^ 36 + 2 ^ 40), d7 := 0x8100 }

/-- Its operation. -/
def casting (d : Handle) (st : BitVec 4) : EngineOp :=
  { ofKind .rcast [0x8000, 1] .running with launch := 3, stage := some 0, rays := [{ idx := 0, addr := 0x8000, status := st, d := d }] }

/-- A mesh of one polyhedral cell, bounded at x = 1. -/
def meshed (o : EngineOp) : State :=
  let s := working [(0x8100, 8, 0x8400), (0x8120, 8, 1), (0x8128, 8, 1), (0x8400, 4, 0xBF800000), (0x8404, 4, 0x3F800000),
    (0x8480, 4, 2 ^ 32 - 1), (0x84AC, 1, 1)] o
  { s with pipes := [pipe], ctx := { s.ctx with marchsel := 1 } }

/-- A hierarchy of one leaf with one opaque triangle. -/
def boxed (o : EngineOp) : State :=
  let s := working [(0x8100, 8, 0x8400), (0x8108, 8, 0x8800), (0x8120, 8, 1 + 2 ^ 32), (0x8128, 8, 2), (0x840C, 4, 0x3F800000), (0x8410, 4, 0x3F800000),
    (0x8414, 4, 0x3F800000), (0x8418, 4, 2 ^ 32 - 1), (0x841C, 4, 2 ^ 31), (0x8824, 1, 1)] o
  { s with pipes := [pipe], ctx := { s.ctx with marchsel := 2 } }

theorem met_marcher_words : Claim.room boot .rcast ∧ boot.rayAt 0 0x8000 = none ∧
    boot.read boot.agent .load 1 0x8000 64 = .ok (List.replicate 64 0, boot) ∧
    (meshed (casting ray 3)).rayAt 0 0x8000 = some (casting ray 3, ⟨0, 0x8000, 3, false, ray, false, none, 0, 0⟩) ∧
    Claim.rayStatus { ray with d5 := BitVec.ofNat 64 (3 * 2 ^ 32) } = 3 ∧ boot.segment boot.agent = none ∧
    boot.checkPart boot.agent .store 0x802C 1 = .ok (0x802C, boot) := by
  unfold Claim.room; decide +kernel

theorem met_marching : (meshed (casting ray 1)).castPipe (casting ray 1) ray 80 = some pipe ∧
    readMesh (casting ray 1) 0x8100 (meshed (casting ray 1)) = .ok (⟨1, 0x8400, 0, 0, 1, 0, 1⟩, meshed (casting ray 1)) ∧
    (readCell (casting ray 1) ⟨1, 0x8400, 0, 0, 1, 0, 1⟩ false 0 (meshed (casting ray 1)) =
      .ok (⟨[⟨-1, ⟨1, 0, 0⟩⟩], [2 ^ 32 - 1], [], ⟨0, 0, 0⟩, [], false⟩, meshed (casting ray 1))) ∧
    readFields (casting ray 1) ⟨1, 0x8400, 0, 0, 1, 0, 1⟩ 0 ⟨[⟨-1, ⟨1, 0, 0⟩⟩], [2 ^ 32 - 1], [], ⟨0, 0, 0⟩, [], false⟩ (meshed (casting ray 1)) =
      .ok ([], meshed (casting ray 1)) ∧
    (crossCell ⟨1, 0x8400, 0, 0, 1, 0, 1⟩ ⟨[⟨-1, ⟨1, 0, 0⟩⟩], [2 ^ 32 - 1], [], ⟨0, 0, 0⟩, [], false⟩ [] ⟨0, 0x8000, 1, false, ray, false, none, 0, 0⟩).isSome = true ∧
    pipe.room 1 = true ∧ (meshed (casting ray 1)).checkPart (casting ray 1).agent .dest 0x8000 64 = .ok (0x8000, meshed (casting ray 1)) := by
  decide +kernel

/-- A mesh at 0x8000, of one cell at 0x8400. -/
def cellOf (kind : Nat) : Mesh := ⟨kind, 0x8400, 0x8800, 0, 1, 1, 1⟩

theorem met_mesh_layout : Claim.marcherReads (casting ray 1) boot 0x8000 64 (List.replicate 64 0) ∧ 1 ∈ (meshed (casting ray 1)).loadedModes ∧
    Claim.marcherReads (casting ray 1) boot 0x8400 32 (List.replicate 32 0) ∧ Claim.marcherReads (casting ray 1) boot 0x8400 192 (List.replicate 192 0) ∧
    Claim.marcherReads (casting ray 1) boot 0x8800 12 (List.replicate 12 0) ∧ (∀ k < 3, Claim.wordNumber (Claim.wordIn (List.replicate 12 0) k) = some 0) ∧
    Claim.marcherReads (casting ray 1) boot 0x8800 16 (List.replicate 16 0) ∧ (0 : Nat) < (cellOf 0).ncell ∧ (cellOf 0).fields = 0 ∧
    Claim.marcherReads (casting ray 1) (meshed (casting ray 1)) 0x8100 64
      ([0x8400, 0, 0, 0, 1, 1, 0, 0].flatMap fun (d : Nat) => toBytes 8 d) := by
  unfold Claim.marcherReads; decide +kernel

theorem met_hierarchy_layout : Claim.marcherReads (casting ray 1) boot 0x8400 32 (List.replicate 32 0) ∧ Claim.marcherReads (casting ray 1) boot 0x8800 48 (List.replicate 48 0) ∧
    (∀ j < 9, Claim.wordNumber (Claim.wordIn (List.replicate 48 0) j) = some 0) ∧ Claim.wordNumber 0x7FC00000 = none ∧
    ((Vec3.sub ⟨1, 1, 0⟩ ⟨1, 0, 0⟩).cross (Vec3.sub ⟨1, 0, 1⟩ ⟨1, 0, 0⟩)).dot ⟨1, 0, 0⟩ ≠ 0 ∧
    Vec3.add ⟨0, 0, 0⟩ (Vec3.scale 1 ⟨1, 0, 0⟩) = (Vec3.scale 1 ⟨1, 0, 0⟩).add ((Vec3.scale 0 ⟨1, 1, 0⟩).add (Vec3.scale 0 ⟨1, 0, 1⟩)) := by
  unfold Claim.marcherReads; decide +kernel

theorem met_hits_wait : Claim.hitsWait (casting ray 1) ∧ Claim.hitsWait { casting ray 1 with
      hits := [⟨1, 0, 0x8000, 0, 0, 0, 1⟩], rays := [⟨0, 0x8000, 1, false, ray, false, none, 0, 0⟩, ⟨1, 0x8040, 1, false, ray, false, none, 0, 0⟩] } :=
  ⟨fun h => absurd rfl h, fun _ => by decide +kernel⟩

theorem met_marching_state : (meshed (casting ray 1)).op 1 = some (casting ray 1) ∧ (casting ray 1).block = none ∧ (meshed (casting ray 1)).ch.fillCache = false ∧
    ((meshed (casting ray 1)).ctxAt 0).holdsBay 0 = true := by decide +kernel

theorem met_traversal : (boxed (casting ray 1)).castPipe (casting ray 1) ray 32 = some pipe ∧
    readMesh (casting ray 1) 0x8100 (boxed (casting ray 1)) = .ok (⟨2, 0x8400, 0x8800, 0, 1, 1, 1⟩, boxed (casting ray 1)) ∧
    readNode (casting ray 1) ⟨2, 0x8400, 0x8800, 0, 1, 1, 1⟩ 0 (boxed (casting ray 1)) =
      .ok (⟨⟨0, 0, 0⟩, ⟨1, 1, 1⟩, 2 ^ 32 - 1, 2 ^ 31⟩, boxed (casting ray 1)) ∧
    readTriangle (casting ray 1) ⟨2, 0x8400, 0x8800, 0, 1, 1, 1⟩ 0 (boxed (casting ray 1)) =
      .ok ((1, [⟨0, 0, 0⟩, ⟨0, 0, 0⟩, ⟨0, 0, 0⟩]), boxed (casting ray 1)) ∧
    rayValues ray = some (vecOf [0, 0, 0], vecOf [1, 0, 0], 0, 2) ∧
    meetsBox ⟨⟨0, 0, 0⟩, ⟨1, 1, 1⟩, 2 ^ 32 - 1, 2 ^ 31⟩ (vecOf [0, 0, 0]) (vecOf [1, 0, 0]) 0 2 ≠ none ∧
    triangleHit ⟨1, 0, 0⟩ ⟨1, 1, 0⟩ ⟨1, 0, 1⟩ (vecOf [0, 0, 0]) (vecOf [1, 0, 0]) = some 1 := by decide +kernel

/-- A walk of one query whose point and start cell are zero. -/
def walking : EngineOp := ofKind .walk [0x8100, 0x8000, BitVec.ofNat 64 (1 + 2 ^ 32), 0, 0, 0] .queued

theorem met_walk : (meshed walking).op 1 = some walking ∧ (meshed walking).read walking.agent .source 4 0x8000 32 = .ok (List.replicate 32 0, meshed walking) ∧
    walkRun walking [0, 0, 0] 0 (meshed walking) = .ok (⟨5, some 0, 0, 0⟩, meshed walking) ∧
    (meshed walking).checkPart walking.agent .dest 0x8010 10 = .ok (0x8010, meshed walking) := by decide +kernel

/-- The cell of `meshed`. -/
def wall : Cell := ⟨[⟨-1, ⟨1, 0, 0⟩⟩], [2 ^ 32 - 1], [], ⟨0, 0, 0⟩, [], false⟩

theorem met_walk_completes : readMesh walking 0x8100 (meshed walking) = .ok (⟨1, 0x8400, 0, 0, 1, 0, 1⟩, meshed walking) ∧
    (∀ c < 1, readCell walking ⟨1, 0x8400, 0, 0, 1, 0, 1⟩ false c (meshed walking) = .ok (wall, meshed walking) ∧
      readNeighbours walking ⟨1, 0x8400, 0, 0, 1, 0, 1⟩ c (meshed walking) = .ok ([2 ^ 32 - 1], meshed walking)) ∧
    readCell walking ⟨1, 0x8400, 0, 0, 1, 0, 1⟩ true 0 (meshed walking) = .ok (wall, meshed walking) ∧
    (∀ j < 3, Claim.wordNumber ([0, 0, 0].getD j 0) = ([0, 0, 0] : List Rat)[j]?) ∧
    readCell walking ⟨1, 0x8400, 0, 0, 1, 0, 1⟩ true 1 (meshed walking) = .error (.fault cause.engine, meshed walking) ∧
    1 ∈ (meshed walking).loadedModes ∧ (meshed walking).bvhMode 0 = false := by decide +kernel


/-! ### Pipelines -/

/-- A thread of the pipeline with a record of stage 0, and x6 naming stage 1. -/
def piped (p : Pipe) : State :=
  { boot with
    pipes := [p]
    t := { ((boot.setX 5 0x8000).setX 6 1).t with pipe := some { launch := 3, bay := 0, stage := some 0 }, held := some { stage := 0, node := 0 } } }

/-- A record. -/
def record : StageRecord := { bytes := List.replicate 16 7, key := 9, node := 0, takeable := true, byPos := 0 }

theorem met_emit : (piped pipe).t.held = some { stage := 0, node := 0 } ∧ (piped pipe).myPipe = some pipe ∧ 1 ≤ Claim.lastStage pipe.desc ∧
    Claim.succ pipe.desc 0 1 ∧ ¬ Claim.succ pipe.desc 0 2 ∧ Claim.recordBytes pipe.desc 1 = 80 ∧ (pipe.queue 1).length < Claim.cap pipe.desc 1 ∧
    ¬ ((pipe.push 1 record).queue 1).length < Claim.cap pipe.desc 1 ∧
    (piped pipe).read (piped pipe).agent .load 1 0x8000 80 = .ok (List.replicate 80 0, piped pipe) ∧
    trapWith ((piped pipe).read (piped pipe).agent .load 1 0x40000000 80) cause.translation 0x40000000 = true := by
  unfold Claim.succ; decide +kernel

theorem met_emitter (s : State) (st : Nat) (e : Nat × Thread) (w : WaitRec) (h : s = piped pipe) : ¬ Claim.emitter s pipe st e w := by
  rintro ⟨he, hp, -⟩
  have : s.allThreads = [(0, (piped pipe).t)] := by rw [h]; decide +kernel
  rw [this, List.mem_singleton] at he
  exact hp (by rw [he, h]; decide +kernel)

theorem met_emit_waits : Claim.waiting { piped pipe with t := { (piped pipe).t with wait := some { kind := .emit, addr := 0x8000, arg := 1 } } }
    { kind := .emit, addr := 0x8000, arg := 1 } := by
  unfold Claim.waiting; decide +kernel

/-- A thread of the pipeline in TAKE. -/
def taking (p : Pipe) (w : WaitRec) : State := { piped p with t := { (piped p).t with held := none, wait := some w } }

theorem met_take : (piped pipe).checkStore (piped pipe).agent 0x8000 256 = .ok (piped pipe) ∧ boot.myPipe = none ∧
    Claim.serves (piped pipe) pipe (piped pipe).t 0 = true ∧ Claim.serves (piped pipe) pipe (piped pipe).t 1 = false ∧
    (pipe.push 0 record).queue 0 = [] ++ record :: [] ∧ Claim.isReserved (piped pipe).t = true := by decide +kernel

theorem no_line (s : State) (p : Pipe) (h : s.allThreads = [(0, s.t)]) (h0 : s.pos = 0) : Claim.line s p [] := by
  refine ⟨List.Pairwise.nil, fun e => ⟨fun he => absurd he (List.not_mem_nil), fun he => ?_⟩⟩
  rw [h, List.mem_singleton] at he
  exact absurd (by rw [he.1, h0]) he.2.1

theorem met_candidate : Claim.candidate (piped (pipe.push 0 record)) (pipe.push 0 record) 0 :=
  ⟨by decide +kernel, by decide +kernel, [], _, no_line _ _ (by decide +kernel) (by decide +kernel), rfl, record, by decide +kernel, rfl⟩

theorem met_no_candidate (st : Nat) : ¬ Claim.candidate (piped pipe) pipe st := by
  have hs : (piped pipe).allThreads = [(0, (piped pipe).t)] ∧ (piped pipe).pos = 0 := by decide +kernel
  rintro ⟨-, -, l, q, hl, hb, r, hr, -⟩
  have h0 : l = [] := List.eq_nil_iff_forall_not_mem.2 fun e he => by
    obtain ⟨h1, h2, -⟩ := (hl.2 e).1 he
    rw [hs.1, List.mem_singleton] at h1
    exact h2 (by rw [h1, hs.2])
  subst h0
  have hq : q = pipe := hb
  subst hq
  exact absurd hr (List.not_mem_nil)

theorem met_bad_record : (piped (pipe.push 0 { record with check := 1 })).myPipe = some (pipe.push 0 { record with check := 1 }) ∧
    (pipe.push 0 { record with check := 1 }).queue 0 = [] ++ { record with check := 1 } :: [] ∧ ({ record with check := 1 } : StageRecord).check ≠ 0 ∧
    ((piped pipe).threads.map fun e => e.1).Pairwise (· < ·) := by decide +kernel

theorem met_decision : Claim.given (taking pipe { kind := .take, words := [0] }).t = some 0 ∧ Claim.given (taking pipe { kind := .take }).t = none ∧
    Claim.due (taking pipe { kind := .take, arg := 1 }).t pipe = true ∧ Claim.due (taking pipe { kind := .take }).t pipe = false ∧
    (taking pipe { kind := .take }).mySegment = none ∧ { record with check := 1 }.check ≠ 0 ∧ record.check = 0 ∧
    (taking (pipe.push 0 record) { kind := .take }).myPipe = some (pipe.push 0 record) := by decide +kernel

/-! ### Launches -/

/-- A descriptor of one stage. -/
def single : List DWord := [0x10000, 0, 0, 0, 0, 0, 0, 0, 0x10000, BitVec.ofNat 64 (2 ^ 32 + 2 ^ 50), 0, 0] ++ List.replicate 60 0

theorem met_descriptor : Claim.goodDescriptor single 32 := by
  have hs : ∀ st ≤ Claim.lastStage single, ∀ j < 16, (Claim.stageWord single st 1).getLsbD j = false := by decide +kernel
  refine ⟨by decide +kernel, by decide +kernel, ?_, by decide +kernel, by decide +kernel, ?_, by decide +kernel⟩
  · intro k h1 h2
    have : ∀ k < 8, 2 ≤ k → single.getD k 0 = 0 := by decide +kernel
    exact this k h2 h1
  · intro st h
    have hst : st = 0 := by have : Claim.lastStage single = 0 := by decide +kernel
                            omega
    subst hst
    refine ⟨by decide +kernel, by decide +kernel, by decide +kernel, by decide +kernel, by decide +kernel, ?_, by decide +kernel⟩
    intro j hj
    rw [Claim.succ, hs 0 (by decide +kernel) j hj.1] at hj
    cases hj.2

theorem met_places : Claim.places (Claim.usable boot 0 fun _ => true) 0 (Claim.plan single) (Claim.standing boot 0 fun _ => true) [⟨4, 1, some 0⟩] := by
  have hp : Claim.plan single = [(some 0, 1)] := by decide +kernel
  have hs : Claim.standing boot 0 (fun _ => true) = [(0, 1)] := by decide +kernel
  rw [hp, hs]
  refine ⟨_, [], rfl, rfl, by decide +kernel, by decide +kernel, by decide +kernel, rfl⟩

/-- A pipeline launch of one bay with its descriptor at 0x8000 and no root record. -/
def launching : EngineOp := ofKind .pipeline [0, 0x8000, 0, BitVec.ofNat 64 (2 ^ 16), 0x8800, 0] .queued

theorem met_pipeline : (working [(0x8000, 8, 0x10000)] launching).read launching.agent .source 4 0x8800 0 = .ok ([], working [(0x8000, 8, 0x10000)] launching) ∧
    (((boot.owners.filter fun e => e.2 == boot.ctx.part).flatMap fun e => (List.range 8).map fun b => 8 * e.1 + b).drop 0).take 1 = [0] ∧
    boot.ctx.resident = true := by decide +kernel

theorem met_pipeline_descriptor : okWith (boot.read launching.agent .source 4 0x8000 576) (List.replicate 576 0) = true ∧
    trapWith (boot.read launching.agent .source 4 0x40000000 576) cause.translation 0x40000000 = true := by decide +kernel

/-- A remote launch to member 0 of its own package, of eight bytes. -/
def remote (k : EngineKind) (phase : EnginePhase) (progress : Nat) : EngineOp :=
  { ofKind k [1, 0, 0x9000, BitVec.ofNat 64 (8 * 2 ^ 32), 0x8000, 0] phase with progress := progress }

theorem met_remote : boot.read (remote .remoteWrite .running 0).agent .source 4 0x8000 8 = .ok (List.replicate 8 0, boot) ∧
    boot.ctx.gang = none ∧ boot.ctx.pkgid = 0 ∧ (working [] (remote .remoteRead .running 1)).op 1 = some (remote .remoteRead .running 1) ∧
    boot.translate (remote .remoteRead .running 1).agent .dest 0x8000 = .ok ((0x8000, 0), boot) := by decide +kernel

theorem met_requests : boot.ready = true ∧ (boot.ctxAt 0).defined = true ∧ (boot.ctxAt 0).ended = false ∧
    boot.checkPart { core := none, bay := 0, level := true, ctx := 0 } .store 0x8000 8 = .ok (0x8000, boot) ∧
    trapWith (boot.checkPart { core := none, bay := 0, level := true, ctx := 0 } .store 0x40000000 8) cause.translation 0x40000000 = true ∧
    boot.read (ofKind .inboundRead [8] .queued).agent .source 8 0x8000 8 = .ok (List.replicate 8 0, boot) ∧ (working [] (ofKind .inboundWrite [8] .written)).op 0 = none := by
  decide +kernel

/-! ### Messages -/

/-- A message in queue 0 of the context. -/
def mailed : State := { boot with
  t := ((boot.setX 5 0x8000).setX 6 0).t, ctx := { boot.ctx with queues := [(0, [⟨0, 0, 7, List.replicate 16 1, 0, false⟩])] } }

theorem met_messages : mailed.ctx.queue 0 = [⟨0, 0, 7, List.replicate 16 1, 0, false⟩] ∧ boot.ctx.queue 0 = [] ∧ Claim.capacity boot.ctx 0 = 16 ∧ Claim.capacity boot.ctx 1 = 0 ∧
    mailed.checkStore mailed.agent 0x8000 256 = .ok mailed ∧ mailed.checkPart mailed.agent .store 0x8000 16 = .ok (0x8000, mailed) ∧
    lineParts 0x8000 16 = [(0x8000, 16)] ∧ boot.read boot.agent .load 1 0x8000 16 = .ok (List.replicate 16 0, boot) := by decide +kernel

/-- A message from op 1 on its way to queue 0. -/
def posted : State := { working [] { ofKind .message [] .queued with addr := 0 } with net := [⟨1, 0, 0, 0, 0, List.replicate 16 1, 0⟩] }

theorem met_message_events : posted.op 1 = some { ofKind .message [] .queued with addr := 0 } ∧ ((posted.ctxAt 0).queue 0).length < Claim.capacity (posted.ctxAt 0) 0 ∧
    Claim.accepted boot { stamp := 0, src := 0xFFFF, ctx := 0, queue := 0, reserved := 0, op := 0, cls := 1 } ∧ ({ mailed with ctx := { mailed.ctx with queues := [(0, [⟨0, 0, 7, List.replicate 16 1, 1, false⟩])] } } : State).ctx.queue 0 =
      [⟨0, 0, 7, List.replicate 16 1, 1, false⟩] ∧ (⟨0, 0, 7, List.replicate 16 1, 1, false⟩ : Message).check ≠ 0 := by
  unfold Claim.accepted; decide +kernel

/-- `boot` whose context has encode engine 0, which reads a frame. -/
def framed : State := { boot with units := [(0, { ctx := some 0, active := true })] }

theorem met_frames : (framed.unitAt 0).ctx = some 0 ∧ (framed.unitAt 0).active = true ∧ Claim.unitNamed framed 0 1 0 0 ∧ ((0 : Nat), 0) ∈ framed.owners ∧
    (framed.ctxAt 0).defined = true ∧ (framed.ctxAt 0).ended = false ∧ framed.ch.fillCache = false ∧
    framed.read { core := none, bay := 0, level := true, ctx := 0 } .source 4 0x8000 64 = .ok (List.replicate 64 0, framed) ∧
    trapWith (framed.read { core := none, bay := 0, level := true, ctx := 0 } .source 4 0x40000000 64) cause.translation 0x40000000 = true := by
  refine ⟨by decide +kernel, by decide +kernel, .inl ⟨rfl, by decide +kernel⟩, ?_⟩
  decide +kernel

/-- A header of a message from the context's host. -/
def header (cls op : BitVec 4) : DerporHeader := { stamp := 0, src := 0xFFFF, ctx := 0, queue := 0, reserved := 0, op := op, cls := cls }

theorem met_headers : (header 0 1).reserved = 0 ∧ boot.management = 0 ∧ (boot.ctxAt 0).host = 0 ∧ Claim.messageKind boot (.reside 0) = some (0, 1, some 0) ∧
    (boot.ctxAt 0).defined = true ∧ (header 0 1).cls.toNat = 0 ∧ (header 0 1).op.toNat = 1 ∧ Claim.messageKind boot (.add 1 2 3) = none ∧
    ({ header 0 1 with src := 3 } : DerporHeader).src ≠ 0xFFFF := by decide +kernel

/-! ### Contexts, gangs and the package -/

theorem met_orderly : Claim.orderly boot ∧ Claim.orderly State.reset := by
  unfold Claim.orderly; decide +kernel

/-- A DEFINE body of context 5 in partition 0, with 32 slots and a queue of 16. -/
def defining : DefineRequest := ⟨5, 0, BitVec.ofNat 64 (32 * 2 ^ 34), 16, 0, 0, 0, 0x10000⟩

theorem met_define : Claim.bits defining.d2 34 6 = 32 ∧ Claim.bits defining.d3 0 12 = 16 ∧
    boot.ownerOf defining.d6.toNat = some 0 ∧ (boot.ctxAt 5).defined = false ∧ Claim.onDie boot 0 0 = true ∧ Claim.barsHeld boot 0 (fun p => p = 0) = 4 := by
  decide +kernel

/-- Context 5 defined. -/
noncomputable def defined : State :=
  match exec (.define_ defining) boot with
  | .next s => { s with t := {} }
  | _ => boot

theorem met_reside : (defined.ctxAt 5).defined = true ∧ (defined.ctxAt 5).started = false ∧ (defined.ctxAt 5).resident = false ∧
    defined.owners.filter (fun e => e.2 == 0) = (0, 0) :: [] ∧ (defined.threadAt 0).live = false ∧
    Claim.usable defined 5 (fun _ => true) 0 = true ∧ Claim.idle (Claim.everyone defined) 0 1 = true := by decide +kernel

theorem met_preempt (p : Nat) (h : (boot.threadAt p).live = true) :
    (boot.threadAt p).posted = [] ∧ (boot.threadAt p).scalars = [] ∧ (boot.focus p).midGroup = false := by
  by_cases hp : p = 0
  · subst hp; decide +kernel
  · exfalso
    have h0 : boot.threads = [] ∧ boot.pos = 0 := by decide +kernel
    have : boot.threadAt p = kget {} boot.threads p := if_neg (by rw [h0.2]; exact hp)
    rw [this, h0.1] at h
    cases h

/-- The context switched out with one image, of slot 0. -/
def resting : State := { boot with t := {}, ctx := { boot.ctx with resident := false, images := [(0, boot.t)] } }

theorem met_restore : resting.ctx.started = true ∧ resting.ctx.resident = false ∧
    Claim.returned (fun k => Claim.usable resting 0 (fun _ => true) k && resting.owners.any fun e => e.1 == k / 64 && e.2 == resting.ctx.part) resting.ctx.images (Claim.everyone resting) [1] := by
  refine ⟨by decide +kernel, by decide +kernel, ?_⟩
  have hi : resting.ctx.images = [(0, boot.t)] := by decide +kernel
  have he : Claim.everyone resting = [] := by decide +kernel
  rw [hi, he]
  exact ⟨_, [], rfl, by decide +kernel, by decide +kernel, by unfold Claim.lowest; decide +kernel, rfl⟩

theorem met_partitions : (∃ e ∈ boot.owners, e.2 = 0) ∧ boot.extents = [] ∧ boot.usableSlices.getLsbD 17 = true ∧ (0, 0) ∈ boot.owners ∧
    (boot.owners.find? fun e => e.1 == 17) = none := by decide +kernel

/-- A gang of two of which the other member has not answered. -/
def ganged (arrivals : List (Nat × Nat)) (acks : List Nat) : State :=
  { boot with ctx := { boot.ctx with gang := some ⟨7, 2, 9, acks, false, arrivals, []⟩, barriers := [(Claim.barrierKey 5 0 0, ⟨1, 1, 0, 5⟩)] } }

theorem met_gang : (boot.ctxAt 0).gang = none ∧ ((ganged [] [0]).ctxAt 0).gang = some ⟨7, 2, 9, [0], false, [], []⟩ ∧
    Claim.gangBarrier (ganged [] [0, 1]).ctx 0 = ⟨1, 1, 0, 5⟩ ∧ ¬ (∀ m < 2, m ∈ [0]) := by decide +kernel

theorem met_gang_ready : Claim.gangReady (ganged [(1, 0)] [0, 1]).ctx 0 := by
  refine ⟨by decide +kernel, by decide +kernel, by decide +kernel, ?_, ?_⟩
  · intro g hg; cases hg; decide
  · intro g hg m hm
    cases hg
    interval_cases m
    · exact .inl (by decide +kernel)
    · exact .inr (by decide)

theorem met_lost : (working [] { remote .remoteWrite .written 0 with words := [1, 0, 0x9000, BitVec.ofNat 64 (8 * 2 ^ 32 + 2 ^ 16), 0x8000, 0] }).op 1 =
    some { remote .remoteWrite .written 0 with words := [1, 0, 0x9000, BitVec.ofNat 64 (8 * 2 ^ 32 + 2 ^ 16), 0x8000, 0] } ∧
    Claim.bits (BitVec.ofNat 64 (8 * 2 ^ 32 + 2 ^ 16)) 16 12 ≠ boot.ctx.pkgid := by decide +kernel

theorem met_records (r : Record RepairMap) : (Record.of r.a.val).a.crc = 0 ∧ ((Record.of r.a.val).b.crc ≠ 0 ∨ (Record.of r.a.val).b.seq ≤ (Record.of r.a.val).a.seq) ∧
    ({ Record.of r.a.val with a := { r.a with crc := 1 } } : Record RepairMap).b.crc = 0 := ⟨rfl, .inr (le_refl _), rfl⟩

/-- An image that Benulty has signed, of some version. -/
def signedImage (m : Mram) (n : Nat) : MramImage :=
  { controlStore := none, version := n, payload := [], signature := List.replicate 18469 0, signer := some m.cfg.firmwareRoot }

theorem signed_accepted (m : Mram) (n : Nat) (h : m.count.firmware ≤ n) : Claim.accepts m (signedImage m n) :=
  ⟨rfl, h, List.length_replicate, rfl⟩

theorem met_boots (m : Mram) (ha : m.bankA.read = some (some (signedImage m m.count.firmware))) (hb : m.bankB.read = some none) :
    Claim.boots m (some (signedImage m m.count.firmware)) := by
  have good := signed_accepted m m.count.firmware (le_refl _)
  refine ⟨fun h _ => absurd ⟨_, by rw [ha]; rfl, good⟩ h, fun _ _ => by rw [ha]; rfl, fun h _ => absurd ⟨_, by rw [ha]; rfl, good⟩ h, fun a b _ h => ?_⟩
  rw [hb] at h; cases h

theorem met_no_boot (m : Mram) (ha : m.bankA.read = none) (hb : m.bankB.read = some none) : Claim.boots m none := by
  refine ⟨fun _ _ => rfl, fun hg _ => ?_, fun _ hg => ?_, fun a b h => ?_⟩
  · obtain ⟨i, hi, -⟩ := hg; rw [ha] at hi; cases hi
  · obtain ⟨i, hi, -⟩ := hg; rw [hb] at hi; cases hi
  · rw [ha] at h; cases h

/-- A package without power whose die 0 has a signed image in bank A. -/
noncomputable def dark : State :=
  let m : Mram := {}
  { boot with powered := false, ready := false, mram := [(0, { m with bankA := .of (some (signedImage m m.count.firmware)) })] }

theorem met_power_up : dark.powered = false ∧ (⟨0x1FF, 3, 0xFF, 0xFF, [5], [], []⟩ : BringUp).dies.getLsbD 0 = true ∧
    Claim.boots (Claim.mram dark 0) (some (signedImage (Claim.mram dark 0) (Claim.mram dark 0).count.firmware)) :=
  ⟨rfl, by decide, met_boots _ rfl rfl⟩

theorem met_regulator : boot.powered = true ∧ boot.ready = true ∧ (List.replicate 32 (0 : Byte)).length = 32 ∧ (Claim.mram boot 0).ident.next < 2 ^ 40 ∧ (0 : Nat) < 9 := by
  refine ⟨by decide +kernel, by decide +kernel, rfl, ?_, by decide⟩
  have h : boot.mram = [] := by decide +kernel
  unfold Claim.mram
  rw [h]
  decide

/-- A decoder of 256 MiB on two ports. -/
def decoder : HdmDecoder := { base := 0, size := 2 ^ 28, ways := 2, granularity := 256, ports := [0, 1] }

theorem met_pool : (2 : Nat) ^ 60 ≤ 128 * 2 ^ 53 ∧ ({ boot with chk := [(2 ^ 53, 1)] } : State).lineOk (2 ^ 53) = false ∧ boot.lineOk (2 ^ 53) = true ∧
    decoder.base % 2 ^ 28 = 0 ∧ decoder.size % 2 ^ 28 = 0 ∧ decoder.ways ∈ [1, 2, 4, 8] ∧ decoder.granularity ∈ [256, 1024, 4096, 16384] ∧
    decoder.ports.length = decoder.ways ∧ (∀ p ∈ decoder.ports, p < 8) ∧ ({ boot with hdm := [(0, decoder)] } : State).hdm = [] ++ (0, decoder) :: [] := by decide +kernel

theorem met_health : ({ boot with extents := [⟨0, 0x1000, 0x100, true⟩] } : State).extents = [⟨0, 0x1000, 0x100, true⟩] ∧
    (0x1000 + 128 ≤ 0x1000 + 0x100) ∧ (0x1000 % 128 + 128 ≤ 128) ∧ (boot.ctxAt 0).defined = true := by decide +kernel

/-! ### The vector side and the step -/

/-- `vec` with an addition at the head of the queue, admitted. -/
def queued : State := { vec 0x02 4 with t := { (vec 0x02 4).t with queue := [{ (vec 0x02 4).captureEntry (.vadd 0 .vv 1 2 3) with admitted := true }] } }

theorem met_vector_side : (queued.focus 0).t.queue.map (fun e => (e.instr, e.admitted, e.chain, e.prog)) = [(.vadd 0 .vv 1 2 3, true, none, 0)] ∧
    (queued.focus 0).t.inTrap = false ∧ (queued.focus 0).t.tileSave = [] ∧ vtIll (queued.focus 0).t.vtype = false ∧ 0 < (queued.focus 0).t.lanes ∧
    (queued.focus 0).mayRun = true ∧ (queued.focus 0).t.scalars = [] ∧ (queued.focus 0).t.fgbase = 0 := by
  decide +kernel

/-- `vec` with two additions in the queue: admitted, the first a group further on, or the second waiting for its admission. -/
def queuedTwo (second : Bool) : State := { vec 0x02 4 with t := { (vec 0x02 4).t with queue := [
  { (vec 0x02 4).captureEntry (.vadd 0 .vv 1 2 3) with admitted := true, prog := 4 },
  { (vec 0x02 4).captureEntry (.vadd 0 .vv 3 2 4) with admitted := second }] } }

theorem met_ahead : ((queuedTwo true).focus 0).t.queue.map (fun e => (e.instr, e.admitted, e.prog)) = [(.vadd 0 .vv 1 2 3, true, 4), (.vadd 0 .vv 3 2 4, true, 0)] ∧
    ((queuedTwo true).focus 0).t.vl.toNat ≤ 4 ∧ ((queuedTwo true).focus 0).mayRun = true ∧ ((queuedTwo false).focus 0).t.queue.map (fun e => e.admitted) = [true, false] := by
  decide +kernel

/-- A posted addition of one element. -/
def adding : State := bootT fun t => { t with posted := [⟨1, .addInt, 4, false, 0, 0, [⟨0, 0x8000, 0x8000, 3, 0, []⟩], 0, none, 0, []⟩] }

theorem met_posted : (adding.focus 0).t.posted[0]? = some ⟨1, .addInt, 4, false, 0, 0, [⟨0, 0x8000, 0x8000, 3, 0, []⟩], 0, none, 0, []⟩ ∧
    (adding.focus 0).held (adding.focus 0).agent 0x8000 4 = false ∧ (adding.focus 0).lineOk (0x8000 / 128) = true ∧
    (adding.focus 0).mySegment = none ∧ (adding.focus 0).mayRun = true := by decide +kernel

/-- A walk of the context of `boot`. -/
def walkOf : WalkRec := { die := 0, ctx := 0, page := 1, level := 4, table := 0, bays := [0], va := 0x12345 }

theorem met_schedule : ({ boot with sched := [.scalar 0] } : State).sched = .scalar 0 :: [] ∧ (storing.focus 0).mayRun = true ∧ (boot.focus 0).walks = [] ∧
    ({ boot with walks := [walkOf] } : State).walks[0]? = some walkOf ∧
    walkOf.page = 0x12345 / 2 ^ 16 ∧ boot.translate boot.agent .fetch (0x10040 / 128 * 128) = .ok ((0x10000, 0), boot) := by decide +kernel

theorem met_fetch : boot.translate boot.agent .fetch 0x10000 = .ok ((0x10000, 0), boot) ∧ boot.lineOk (0x10000 / 128) = true ∧
    boot.ch.staleFetch = false ∧ boot.ch.keepFetched = false := by decide +kernel

theorem met_turn : boot.sched = [] ∧ boot.t.wait = none ∧ boot.mayRun = true ∧ boot.fetch boot.t.pc = .ok (0, boot) ∧
    trapWith ((bootT fun t => { t with pc := 0x40000000 }).fetch 0x40000000) cause.translation 0x40000000 = true ∧
    boot.t.live = true ∧ boot.midGroup = false ∧ boot.t.waiting = none := by decide +kernel

theorem met_cause : Claim.meetsCause handled (match Claim.traps handled cause.illegal 0 with | .next t => t | _ => handled) ∧ ¬ Claim.meetsCause boot boot := by
  unfold Claim.meetsCause; decide +kernel

/-! ### Words, bit by bit from the opcode table's fixed bits and fields (R13 to R34) -/

/-- Each word decodes to its instruction. -/
noncomputable def decodes (l : List (Word × Instr)) : Bool := l.all fun e =>
  match decodeWord e.1 with
  | .ok i => decide (i = e.2)
  | .error _ => false

theorem test_words_03 : decodes [
    (0x7FC30483, .lb 0x7fc 6 9), (0x7FC31483, .lh 0x7fc 6 9), (0x7FC32483, .lw 0x7fc 6 9), (0x7FC33483, .ld 0x7fc 6 9), (0x7FC34483, .lbu 0x7fc 6 9),
    (0x7FC35483, .lhu 0x7fc 6 9), (0x7FC36483, .lwu 0x7fc 6 9)] = true := by
  decide +kernel

theorem test_words_07 : decodes [
    (0x7FC30487, .flh 0x7fc 6 9), (0x7FC31487, .flw 0x7fc 6 9), (0x7FC32487, .fld 0x7fc 6 9)] = true := by
  decide +kernel

theorem test_words_0b_a : decodes [
    (0x0000010B, .tzero 2), (0x0697110B, .topa true true 9 14 2), (0x0661210B, .topas true true 6 2 2), (0x0814B70B, .tdrain 4 1 9 14),
    (0x00B3418B, .tldz 11 6 3), (0x00B3518B, .tstz 11 6 3), (0x00B3600B, .tshape 11 6), (0x0033748B, .tfetch 3 6 9), (0x4005828B, .hldh 11 5),
    (0x4033100B, .hsth 3 6), (0x4033248B, .hld 3 6 9), (0x4033348B, .hst 3 6 9), (0x4A54B70B, .hstTry 2 5 9 14), (0x4030430B, .hiter 3 6),
    (0x40B3548B, .hattach 11 6 9), (0x40B3648B, .hdetach 11 6 9)] = true := by
  decide +kernel

theorem test_words_0b_b : decodes [
    (0x4034F48B, .hinfo 3 9 9)] = true := by
  decide +kernel

theorem test_words_0f : decodes [
    (0x7FC3000F, .loop 0x7fc 6), (0x7FC3108F, .pref 0x7fc 6 1), (0x7FC3248F, .lfetch 0x7fc 6 9), (0x0000300F, .stop)] = true := by
  decide +kernel

theorem test_words_13 : decodes [
    (0x7FC30493, .addi 0x7fc 6 9), (0x02131493, .slli 33 6 9), (0x02132493, .srli 33 6 9), (0x02133493, .srai 33 6 9), (0x7FC34493, .andi 0x7fc 6 9),
    (0x7FC35493, .ori 0x7fc 6 9), (0x7FC36493, .xori 0x7fc 6 9)] = true := by
  decide +kernel

theorem test_words_17 : decodes [
    (0xABCDE317, .auipc 0xabcde 6)] = true := by
  decide +kernel

theorem test_words_1b : decodes [
    (0x7FC30A1B, .ceqi 0x7fc 6 .or 4), (0x7FC31A1B, .cnei 0x7fc 6 .or 4), (0x7FC32A1B, .clti 0x7fc 6 .or 4), (0x7FC33A1B, .cgei 0x7fc 6 .or 4),
    (0x7FC34A1B, .cltui 0x7fc 6 .or 4), (0x7FC35A1B, .cgeui 0x7fc 6 .or 4), (0x02136A1B, .cbiti 33 6 .or 4)] = true := by
  decide +kernel

theorem test_words_1f : decodes [
    (0x3C97059F, .vadd 3 .vi 9 14 11), (0x3C97159F, .vsub 3 .vi 9 14 11), (0x3C97259F, .vmul 3 .vi 9 14 11), (0x3497359F, .vmulh 3 .vx 9 14 11),
    (0x3497459F, .vmulhu 3 .vx 9 14 11), (0x3C97559F, .vmacc 3 .vi 9 14 11), (0x3C97659F, .vand 3 .vi 9 14 11), (0x3C97759F, .vor 3 .vi 9 14 11),
    (0x3E97059F, .vxor 3 .vi 9 14 11), (0x3E97159F, .vsll 3 .vi 9 14 11), (0x3E97259F, .vsrl 3 .vi 9 14 11), (0x3E97359F, .vsra 3 .vi 9 14 11),
    (0x3E97459F, .vmin 3 .vi 9 14 11), (0x3E97559F, .vmax 3 .vi 9 14 11), (0x3E97659F, .vminu 3 .vi 9 14 11),
    (0x3E97759F, .vmaxu 3 .vi 9 14 11)] = true := by
  decide +kernel

theorem test_words_23 : decodes [
    (0xFEB304A3, .sb 11 6 4073), (0xFEB314A3, .sh 11 6 4073), (0xFEB324A3, .sw 11 6 4073), (0xFEB334A3, .sd 11 6 4073)] = true := by
  decide +kernel

theorem test_words_27 : decodes [
    (0xFEB304A7, .fsh 11 6 4073), (0xFEB314A7, .fsw 11 6 4073), (0xFEB324A7, .fsd 11 6 4073)] = true := by
  decide +kernel

theorem test_words_2b_a : decodes [
    (0x100304AB, .forkCopy true 6 9), (0x120304AB, .forkFold true 6 9), (0x140304AB, .forkBlend true 6 9), (0x160304AB, .forkMarch true 6 9),
    (0x0005932B, .rdv 11 6), (0x0264A72B, .cpy true 6 9 14), (0x00B334AB, .cwait 11 6 9), (0x02B334AB, .cwaitR 11 6 9), (0x0005C2AB, .ctest 11 5),
    (0x0005D32B, .publish 11 6), (0x0205D32B, .publishDiscard 11 6), (0x0664E72B, .msend 3 6 9 14), (0x00B374AB, .mrecv 11 6 9),
    (0x02B374AB, .mrecvTry 11 6 9), (0x4005832B, .launch 11 6), (0x40B3102B, .emit 11 6)] = true := by
  decide +kernel

theorem test_words_2b_b : decodes [
    (0x4A64902B, .emitTry 2 6 9), (0x4005A2AB, .take 11 5), (0x40B334AB, .rcast 11 6 9), (0x40B344AB, .rresume 11 6 9),
    (0x4005D32B, .rquery 11 6)] = true := by
  decide +kernel

theorem test_words_2f : decodes [
    (0x00B3372F, .amoadd 11 6 true 14), (0x08B3372F, .amoswap 11 6 true 14), (0x10B3372F, .amocas 11 6 true 14), (0x18B3372F, .amomin 11 6 true 14),
    (0x20B3372F, .amomax 11 6 true 14), (0x28B3372F, .amominu 11 6 true 14), (0x30B3372F, .amomaxu 11 6 true 14), (0x38B3372F, .amoand 11 6 true 14),
    (0x40B3372F, .amoor 11 6 true 14), (0x48B3372F, .amoxor 11 6 true 14)] = true := by
  decide +kernel

theorem test_words_33_a : decodes [
    (0x00B304B3, .add 11 6 9), (0x00B314B3, .sub 11 6 9), (0x00B324B3, .mul 11 6 9), (0x00B334B3, .mulh 11 6 9), (0x00B344B3, .mulhu 11 6 9),
    (0x00B354B3, .div 11 6 9), (0x00B364B3, .divu 11 6 9), (0x00B374B3, .rem 11 6 9), (0x02B304B3, .remu 11 6 9), (0x02B314B3, .sll 11 6 9),
    (0x02B324B3, .srl 11 6 9), (0x02B334B3, .sra 11 6 9), (0x02B344B3, .and_ 11 6 9), (0x02B354B3, .or_ 11 6 9), (0x02B364B3, .xor_ 11 6 9),
    (0x02B374B3, .min_ 11 6 9)] = true := by
  decide +kernel

theorem test_words_33_b : decodes [
    (0x04B304B3, .max_ 11 6 9), (0x04B314B3, .minu 11 6 9), (0x04B324B3, .maxu 11 6 9), (0x04B334B3, .andn 11 6 9), (0x0405C333, .clz 11 6),
    (0x0405D333, .ctz 11 6), (0x0405E333, .cpop 11 6), (0x0405F333, .sextb 11 6), (0x06058333, .sexth 11 6), (0x06059333, .zexth 11 6)] = true := by
  decide +kernel

theorem test_words_37 : decodes [
    (0xABCDE337, .lui 0xabcde 6)] = true := by
  decide +kernel

theorem test_words_3b : decodes [
    (0x00B30A3B, .ceq 11 6 .or 4), (0x00B31A3B, .cne 11 6 .or 4), (0x00B32A3B, .clt 11 6 .or 4), (0x00B33A3B, .cge 11 6 .or 4),
    (0x00B34A3B, .cltu 11 6 .or 4), (0x00B35A3B, .cgeu 11 6 .or 4), (0x00E1EABB, .ccmb .or 5 true 6 false 3), (0x000075BB, .crdx 11),
    (0x0205803B, .cwrx 11)] = true := by
  decide +kernel

theorem test_words_43 : decodes [
    (0x5C9705C3, .fmadd 11 .h 9 14 11), (0x5C9715C3, .fmsub 11 .h 9 14 11), (0x5C9725C3, .fnmadd 11 .h 9 14 11),
    (0x5C9735C3, .fnmsub 11 .h 9 14 11)] = true := by
  decide +kernel

theorem test_words_47 : decodes [
    (0x00B304C7, .vsetvl 11 6 9), (0x401314C7, .vsetvli 0x401 6 9), (0x13402047, .modet 0x134), (0x00003047, .modev), (0x00B04347, .gdecl 11 6),
    (0x0005D347, .gtag 11 6), (0x7FC36047, .vblk 0x7fc 6), (0x00007047, .vjoin)] = true := by
  decide +kernel

theorem test_words_4b : decodes [
    (0x3003274B, .vld 3 6 .e32 14), (0x3464A5CB, .vlds 3 6 9 .e32 11), (0x3864A5CB, .vldx 3 6 9 .e32 11), (0x300344CB, .vldf 3 6 9),
    (0x3464C74B, .vldfS 3 6 9 14), (0x3864C74B, .vldfX 3 6 9 14), (0x320344CB, .vldr 3 6 9), (0x3664C74B, .vldrS 3 6 9 14),
    (0x3A64C74B, .vldrX 3 6 9 14), (0x300354CB, .vldg 3 6 9), (0x3464D74B, .vldgS 3 6 9 14), (0x3864D74B, .vldgX 3 6 9 14), (0x0C0582CB, .vldP 11 5),
    (0x3C64E74B, .texs 3 6 9 14)] = true := by
  decide +kernel

theorem test_words_4f : decodes [
    (0x3003274F, .vst 3 6 .e32 14), (0x3464A5CF, .vsts 3 6 9 .e32 11), (0x3864A5CF, .vstx 3 6 9 .e32 11), (0x300344CF, .vstF 3 6 9),
    (0x3464C74F, .vstsF 3 6 9 14), (0x3864C74F, .vstxF 3 6 9 14), (0x320344CF, .vstr 3 6 9), (0x3664C74F, .vstrS 3 6 9 14),
    (0x3A64C74F, .vstrX 3 6 9 14), (0x300354CF, .vstg 3 6 9), (0x3464D74F, .vstgS 3 6 9 14), (0x3864D74F, .vstgX 3 6 9 14), (0x0C0582CF, .vstP 11 5),
    (0x3C64A5CF, .vscadd 3 6 9 .e32 11), (0x3C64E74F, .vstc 3 6 9 14)] = true := by
  decide +kernel

theorem test_words_53_a : decodes [
    (0x04648753, .fadd .h 6 9 14), (0x0C648753, .fsub .h 6 9 14), (0x14648753, .fmul .h 6 9 14), (0x1C648753, .fdiv .h 6 9 14),
    (0x240304D3, .fsqrt .h 6 9), (0x2C648753, .fmin .h 6 9 14), (0x34648753, .fmax .h 6 9 14), (0x3C648753, .fsgnj .h 6 9 14),
    (0x44648753, .fsgnjn .h 6 9 14), (0x4C648753, .fsgnjx .h 6 9 14), (0x55848753, .fcvt .h 24 9 14), (0x5C0304D3, .fmvxf .h 6 9),
    (0x640304D3, .fmvfx .h 6 9), (0x6C0304D3, .fclass .h 6 9), (0x74648953, .fceq .h 6 9 .or 2), (0x7C648953, .fclt .h 6 9 .or 2)] = true := by
  decide +kernel

theorem test_words_53_b : decodes [
    (0x84648953, .fcle .h 6 9 .or 2)] = true := by
  decide +kernel

theorem test_words_57 : decodes [
    (0x389705D7, .vfadd 3 .vf 9 14 11), (0x389715D7, .vfsub 3 .vf 9 14 11), (0x389725D7, .vfmul 3 .vf 9 14 11), (0x389735D7, .vfdiv 3 .vf 9 14 11),
    (0x306044D7, .vfsqrt 3 6 9), (0x389755D7, .vfmacc 3 .vf 9 14 11), (0x389765D7, .vfnmsac 3 .vf 9 14 11), (0x389775D7, .vfmin 3 .vf 9 14 11),
    (0x3A9705D7, .vfmax 3 .vf 9 14 11), (0x32649757, .vfcvt 3 6 9 14), (0x3A9725D7, .vfsgnj 3 .vf 9 14 11), (0x326034D7, .vfrsqrte 3 6 9),
    (0x326044D7, .vfclass 3 6 9), (0x3E9755D7, .vmix 3 .vi 9 14 11), (0x3A6765D7, .vfdot4 3 .vf 6 14 11),
    (0x329775D7, .vfmerge 3 .vv 9 14 11)] = true := by
  decide +kernel

theorem test_words_5b : decodes [
    (0x0000005B, .fsv), (0x0000105B, .fvs), (0x0000205B, .fvv), (0x0A0334DB, .barv 5 6 9), (0x0264C05B, .bwait 1 6 9), (0x0664D05B, .bset 3 6 9),
    (0x0864E05B, .ifence 4 6 9), (0x0000705B, .isync), (0x4C00005B, .dfence 6), (0x40B314DB, .park 11 6 9), (0x4864A75B, .wake 4 6 9 14)] = true := by
  decide +kernel

theorem test_words_5f : decodes [
    (0x3C04875F, .vstep 3 .vi 9 14), (0x3C9715DF, .vxch 3 .vi 9 14 11), (0x3C9725DF, .vslideup 3 .vi 9 14 11), (0x3C9735DF, .vslidedn 3 .vi 9 14 11),
    (0x3C9745DF, .vgather 3 .vi 9 14 11), (0x306054DF, .vcompress 3 6 9), (0x306064DF, .vconf 3 6 9), (0x389775DF, .vreds 3 .vf 9 14 11),
    (0x3A9705DF, .vfredo 3 .vf 9 14 11), (0x3A9715DF, .vredmin 3 .vf 9 14 11), (0x3A9725DF, .vredmax 3 .vf 9 14 11), (0x0E64B75F, .vmvxs .vi 6 9 14),
    (0x0A0344DF, .vmvsx .vf 6 9), (0x325054DF, .vpopc 3 5 9), (0x325064DF, .vfirst 3 5 9)] = true := by
  decide +kernel

theorem test_words_63 : decodes [
    (0x81403C63, .bc 4 265221), (0x81403463, .bcn 4 265221)] = true := by
  decide +kernel

theorem test_words_67 : decodes [
    (0x7FC304E7, .jalr 0x7fc 6 9)] = true := by
  decide +kernel

theorem test_words_6b_a : decodes [
    (0x3064F4EB, .gp 3 6 9 true true true 9), (0x3264F4EB, .gwedge 3 6 9 true true true 9), (0x3464F4EB, .gjoin 3 6 9 true true true 9),
    (0x3664F4EB, .gldot 3 6 9 true true true 9), (0x3864F4EB, .gsand 3 6 9 true true true 9), (0x3A64F4EB, .gcomm 3 6 9 true true true 9),
    (0x3C64D36B, .gproj 3 6 9 true true 6), (0x3E0355EB, .grev 3 6 true true 11), (0x3E1355EB, .ginvol 3 6 true true 11),
    (0x3E2355EB, .gdual 3 6 true true 11), (0x3E3355EB, .gnormsq 3 6 true true 11), (0x3E4355EB, .gnorm 3 6 true true 11),
    (0x3E5355EB, .gnormz 3 6 true true 11), (0x3E6355EB, .gexp 3 6 true true 11), (0x3E7355EB, .glog 3 6 true true 11),
    (0x3E8355EB, .gsqrt 3 6 true true 11)] = true := by
  decide +kernel

theorem test_words_6b_b : decodes [
    (0x3E9355EB, .ginv 3 6 true true 11)] = true := by
  decide +kernel

theorem test_words_6f : decodes [
    (0x405814EF, .jal 9 132865)] = true := by
  decide +kernel

theorem test_words_73 : decodes [
    (0x00000073, .scall), (0x00100073, .sbrk), (0x00200073, .sret), (0x00300073, .wfe), (0x00400073, .halt), (0x00558073, .atcinv 11),
    (0x13101373, .srd 0x131 6), (0x11832073, .swr 0x118 6), (0x00333073, .sset 0x3 6), (0x00534073, .sclr 0x5 6)] = true := by
  decide +kernel

theorem test_words_77 : decodes [
    (0x30530177, .pand 3 5 6 2), (0x30531177, .por 3 5 6 2), (0x30532177, .pxor 3 5 6 2), (0x30533177, .pandn 3 5 6 2), (0x30504377, .pnot 3 5 6),
    (0x300052F7, .pset 3 5), (0x300062F7, .pclr 3 5), (0x3C9771F7, .vcmpeq 3 .vi 9 14 3), (0x3E9701F7, .vcmpne 3 .vi 9 14 3),
    (0x3E9711F7, .vcmplt 3 .vi 9 14 3), (0x3E9721F7, .vcmpltu 3 .vi 9 14 3), (0x3E9731F7, .vcmpge 3 .vi 9 14 3), (0x3A9741F7, .vfcmpeq 3 .vf 9 14 3),
    (0x3A9751F7, .vfcmplt 3 .vf 9 14 3), (0x3A9761F7, .vfcmple 3 .vf 9 14 3), (0x32537177, .pmerge 3 5 6 2)] = true := by
  decide +kernel


/-- Words that are no instruction: a major opcode that the map leaves free, bits that are not fixed as they must be, a form that the description does not
admit, a destination p0, an illegal register, selector, level or scope (R31, R33, R34). -/
theorem test_refused_words : [0x00000000, 0xFFFFFFFF, 0x00000032, 0x0100603B, 0x7FF00263, 0x0800001F, 0x30000077, 0x7FE3000F, 0x0000000F, 0x50000073,
    0x00007003].all (fun w => match decodeWord w with | .ok _ => false | .error _ => true) = true := by
  decide +kernel

/-- An ill-formed term for each check of `wellFormed` is refused, beside the well-formed one. -/
theorem test_ill_formed : [Instr.loop 2 5, .loop 0 5, .loop 2048 5, .pref 0 5 3, .fcvt .h 2 1 1, .fcvt .s 12 1 1, .fcvt .s 28 1 1, .srd 0x017 5, .srd 0x132 5, .swr 0x000 5,
    .sset 0x100 5, .sclr 0x117 5, .modet 0x13, .modet 0x1B4, .modet 0x212, .vadd 0 .vf 1 2 3, .vmulh 0 .vi 1 2 3, .vfadd 0 .vx 1 2 3, .vfdot4 0 .vv 1 2 3,
    .vfdot4 0 .vv 2 1 3, .vstep 0 .vv 2 3, .vmvxs .vv 3 1 5, .vmvsx .vi 5 3, .pand 0 1 2 0, .vcmpeq 0 .vv 1 2 0, .vfcmplt 0 .vi 1 2 3, .vldP 5 0, .vscadd 0 1 5 .e8 3,
    .tdrain 5 0 5 3, .hinfo 1 10 5, .barv 0 5 6, .bwait 6 5 6, .bset 7 5 6, .ifence 5 5 6, .dfence 7, .wake 0 5 6 7, .wake 5 5 6 7, .tileAcquire 0, .thermalRestart,
    .illegalWord 0].all (fun i => !i.wellFormed) = true ∧
    [Instr.loop 4 5, .loop 2044 5, .pref 0 5 2, .fcvt .h 0 1 1, .fcvt .s 11 1 1, .fcvt .s 27 1 1, .srd 0x016 5, .srd 0x131 5, .swr 0x003 5, .sset 0x118 5, .modet 0x134,
    .vadd 0 .vi 1 2 3, .vmulh 0 .vx 1 2 3, .vfadd 0 .vf 1 2 3, .vfdot4 0 .vv 2 4 3, .vstep 0 .vi 2 3, .vmvxs .vv 3 0 5, .vmvsx .vf 5 3, .pand 0 1 2 15, .vldP 5 1,
    .vscadd 0 1 5 .e16 3, .tdrain 4 0 5 3, .hinfo 1 9 5, .barv 5 5 6, .bset 1 5 6, .ifence 4 5 6, .dfence 6, .wake 4 5 6 7].all (fun i => i.wellFormed) = true := by
  decide +kernel

/-! ### Single steps -/

/-- What a step of a word placed in `boot` leaves, as a test of its next state. -/
noncomputable def after (l : List (Reg × DWord)) (w : Nat) (f : State → Bool) : Bool :=
  match step ((withX l).withFetchWord 32 w) with
  | .next t => f t
  | _ => false

/-- ADD wraps at the top, and moves the pc by four (R83). -/
theorem test_add_wraps : after [(5, 0xFFFFFFFFFFFFFFFF), (6, 2)] 0x006283B3 (fun t => t.t.readX 7 == 1 && t.t.pc == 0x10004) = true := by decide +kernel

/-- A write of x0 is discarded (R39). -/
theorem test_x0 : after [(5, 7)] 0x00028033 (fun t => t.t.readX 0 == 0 && t.t.pc == 0x10004) = true := by decide +kernel

/-- DIV by zero and of the most negative number by −1 (R83, R84). -/
theorem test_div : after [(5, 0x8000000000000000), (6, 0xFFFFFFFFFFFFFFFF)] (encode (.div 6 5 7)).toNat (fun t => t.t.readX 7 == 0x8000000000000000) = true ∧
    after [(5, 9)] (encode (.div 6 5 7)).toNat (fun t => t.t.readX 7 == 0xFFFFFFFFFFFFFFFF) = true := by
  constructor <;> decide +kernel

/-- LW extends the sign of what stands in memory, and SB changes one byte (R102). -/
theorem test_memory : after [(5, 0x10000)] (encode (.lw 0 5 5)).toNat (fun t => t.t.readX 5 == ((encode (.lw 0 5 5)).toNat : DWord).signExtend 64) = true ∧
    after [(5, 0x8001), (6, 0x1FF)] (encode (.sb 6 5 0xFFF)).toNat (fun t => Claim.byte t 0x8000 == 0xFF && Claim.byte t 0x8001 == 0) = true := by
  constructor <;> decide +kernel

/-- An LD at an address that is not a multiple of eight traps: its cause and address are saved and the pc is the handler's (R102, R385). -/
theorem test_misaligned : (match exec (.ld 1 0 5) handled with
    | .next t => t.t.pc == 0x2000 && t.t.trappc == 0x10000 && t.t.inTrap && t.t.level
    | _ => false) = true := by decide +kernel

/-- A word that is no instruction traps with illegal-instruction in the step that fetches it (R35). -/
theorem test_illegal_step : (match step ({ handled with t := { handled.t with pc := 0x8000 } } : State) with
    | .next t => t.t.pc == 0x2000 && t.t.trappc == 0x8000 && t.t.inTrap
    | _ => false) = true := by decide +kernel

/-- From reset, with nothing defined, no thread takes a word. -/
theorem test_reset_idle : State.reset.mayRun = false := by decide +kernel

end Sys2Proof.Tests
end

section
namespace Sys2Proof.Machine

/-! # Every step keeps the state orderly

`Claim.orderly` reads six parts of the state. A function of the model that gives a state has one lemma here, which says that the state it
gives is orderly where the state it was given is, and is named `_keeps` after `State.Keeps`. The one step that needs more is the
pre-emption of a context: the threads whose images it takes are those that it found live before it let their work run on. So a function
that this work can reach has a stronger lemma instead, `_stands` (`State.Stands`) or `_holds` (`State.Holds`), which also says what
becomes of threads that are watched.

A function of a few plain branches is closed by `grind` from the lemmas of the functions it calls. No such fact is arithmetic, and with
its arithmetic solvers `grind` would take several times as long on each, so they are off. -/

/-! ### The form of the state -/

/-- `Claim.orderly` as a predicate of the parts of the state that it reads. -/
structure OrderlyAs (mem : List Host.Cell) (threads : List (Nat × Thread)) (cores : List (Nat × CoreState))
    (bays : List (Nat × BayState)) (ctxs : List (Nat × Context)) (images : List (Nat × Thread)) : Prop where
  memCanonical : Memory.wf mem = true
  threadKeys : (threads.map fun e => e.1).Pairwise (· < ·)
  coreKeys : (cores.map fun e => e.1).Pairwise (· < ·)
  bayKeys : (bays.map fun e => e.1).Pairwise (· < ·)
  ctxKeys : (ctxs.map fun e => e.1).Pairwise (· < ·)
  focusImages : ∀ e ∈ images, e.2.live = true
  ctxImages : ∀ c ∈ ctxs, ∀ e ∈ c.2.images, e.2.live = true

/-- The state is orderly. -/
abbrev State.Orderly (s : State) : Prop := OrderlyAs s.mem s.threads s.cores s.bays s.ctxs s.ctx.images

theorem orderly_iff (s : State) : Claim.orderly s ↔ s.Orderly :=
  ⟨fun ⟨hm, ht, hc, hb, hk, hf, hl⟩ => ⟨hm, ht, hc, hb, hk, hf, hl⟩, fun h =>
    ⟨h.memCanonical, h.threadKeys, h.coreKeys, h.bayKeys, h.ctxKeys, h.focusImages, h.ctxImages⟩⟩

/-- What is watched while steps are taken: that some slots hold live threads of a context, as long as it is resident. A strict watch
also requires that it is resident. -/
structure Watch where
  ctx : Nat
  slots : List Nat
  strict : Bool

/-- `State.Watched` as a predicate of the parts of the state that it reads. -/
def WatchedAs (w : Watch) (pos : Nat) (live : Bool) (tctx : Nat) (threads : List (Nat × Thread)) (resident : Bool)
    (ctxs : List (Nat × Context)) : Prop :=
  let r := if w.ctx = tctx then resident else (kget {} ctxs w.ctx).resident
  (w.strict = true → r = true) ∧ (r = true → ∀ p ∈ w.slots,
    if p = pos then live = true ∧ tctx = w.ctx else (kget {} threads p).live = true ∧ (kget {} threads p).ctx = w.ctx)

/-- The state is as the watch requires. -/
abbrev State.Watched (w : Watch) (s : State) : Prop := WatchedAs w s.pos s.t.live s.t.ctx s.threads s.ctx.resident s.ctxs

theorem watched_iff (w : Watch) (s : State) :
    s.Watched w ↔ (w.strict = true → (s.ctxAt w.ctx).resident = true) ∧
      ((s.ctxAt w.ctx).resident = true → ∀ p ∈ w.slots, (s.threadAt p).live = true ∧ (s.threadAt p).ctx = w.ctx) := by
  unfold State.Watched WatchedAs State.ctxAt State.threadAt
  grind

/-! ### What a function of the state keeps -/

/-- If s is orderly, so is u. -/
def State.Keeps (s u : State) : Prop := s.Orderly → u.Orderly

/-- If s is orderly, so is u; and every watch that is not strict and holds in s holds in u. -/
def State.Stands (s u : State) : Prop := (s.Orderly → u.Orderly) ∧ ∀ w : Watch, w.strict = false → s.Watched w → u.Watched w

/-- If s is orderly, so is u; and every watch that holds in s holds in u. -/
def State.Holds (s u : State) : Prop := (s.Orderly → u.Orderly) ∧ ∀ w, s.Watched w → u.Watched w

/-- The state in which a computation ends, or stops, is one of p. -/
def Ends {ε : Type} (r : Except (ε × State) State) (p : State → Prop) : Prop :=
  match r with
  | .ok u => p u
  | .error e => p e.2

/-- The state that a computation leaves beside its result, or stops at, is one of p. -/
def Gives {ε α : Type} (r : Except (ε × State) (α × State)) (p : State → Prop) : Prop :=
  match r with
  | .ok a => p a.2
  | .error e => p e.2

/-- The state, if there is one, is one of p. -/
def May (r : Option State) (p : State → Prop) : Prop :=
  match r with
  | some u => p u
  | none => True

/-- The state that is left beside a result, if there is one, is one of p. -/
def MayGive {α : Type} (r : Option (α × State)) (p : State → Prop) : Prop :=
  match r with
  | some a => p a.2
  | none => True

/-- The next state, if there is one, is one of p. -/
def Leads (r : Out) (p : State → Prop) : Prop :=
  match r with
  | .next u => p u
  | .fault _ => True
  | .refused _ => True

/-- The state in which a vector-side word is left is one of p. -/
def VRes.Leaves (r : VRes) (p : State → Prop) : Prop :=
  match r with
  | .commit u => p u
  | .progress _ u => p u
  | .blocked _ u => p u
  | .trap _ _ _ _ _ _ u => p u
  | .commitTrap _ _ u => p u

/-- The state in which the head of a queue is left is one of p. -/
def HeadRes.Leaves (r : HeadRes) (p : State → Prop) : Prop :=
  match r with
  | .moved u => p u
  | .stuck u => p u

/-- The state in which a group of lanes is left is one of p. -/
def GroupRes.Leaves (r : GroupRes) (p : State → Prop) : Prop :=
  match r with
  | .next _ u => p u
  | .wait _ u => p u

/-- The state in which a graded word is left, if it meets no violation, is one of p. -/
def GradedRes.Leaves (r : GradedRes) (p : State → Prop) : Prop :=
  match r with
  | .done u => p u
  | .violation _ => True

theorem stands_refl (s : State) : s.Stands s := ⟨id, fun _ _ => id⟩

theorem stands_trans {s u v : State} (h : s.Stands u) (k : u.Stands v) : s.Stands v :=
  ⟨k.1 ∘ h.1, fun w hw => k.2 w hw ∘ h.2 w hw⟩

theorem holds_refl (s : State) : s.Holds s := ⟨id, fun _ => id⟩

theorem holds_trans {s u v : State} (h : s.Holds u) (k : u.Holds v) : s.Holds v :=
  ⟨k.1 ∘ h.1, fun w => k.2 w ∘ h.2 w⟩

theorem State.Stands.keeps {s u : State} (h : s.Stands u) : s.Keeps u := h.1

theorem State.Holds.keeps {s u : State} (h : s.Holds u) : s.Keeps u := h.1

theorem State.Holds.stands {s u : State} (h : s.Holds u) : s.Stands u := ⟨h.1, fun w _ => h.2 w⟩

theorem foldl_keeps {α : Type} {f : State → α → State} (h : ∀ (s : State) a, s.Keeps (f s a)) (l : List α) (s : State) :
    s.Keeps (l.foldl f s) := by
  induction l generalizing s with
  | nil => exact id
  | cons a l ih => exact ih (f s a) ∘ h s a

theorem foldl_stands {α : Type} {f : State → α → State} (h : ∀ (s : State) a, s.Stands (f s a)) (l : List α) (s : State) :
    s.Stands (l.foldl f s) := by
  induction l generalizing s with
  | nil => exact stands_refl s
  | cons a l ih => exact stands_trans (h s a) (ih (f s a))

theorem foldl_holds {α : Type} {f : State → α → State} (h : ∀ (s : State) a, s.Holds (f s a)) (l : List α) (s : State) :
    s.Holds (l.foldl f s) := by
  induction l generalizing s with
  | nil => exact holds_refl s
  | cons a l ih => exact holds_trans (h s a) (ih (f s a))

theorem getD_keeps {s : State} {r : Option State} (h : May r s.Keeps) : s.Keeps (r.getD s) := by
  match r, h with
  | some _, h => exact h
  | none, _ => exact id

theorem May.keeps {s : State} {r : Option State} (h : May r s.Stands) : May r s.Keeps := by
  match r, h with
  | some _, h => exact State.Stands.keeps h
  | none, _ => trivial

theorem May.trans {s u : State} {r : Option State} (h : s.Keeps u) (k : May r u.Keeps) : May r s.Keeps := by
  match r, k with
  | some _, k => exact k ∘ h
  | none, _ => trivial

theorem Leads.trans {s u : State} {r : Out} (h : s.Keeps u) (k : Leads r u.Keeps) : Leads r s.Keeps := by
  match r, k with
  | .next _, k => exact k ∘ h
  | .fault _, _ => trivial
  | .refused _, _ => trivial

theorem VRes.Leaves.trans {s u : State} {r : VRes} (h : s.Stands u) (k : r.Leaves u.Stands) : r.Leaves s.Stands := by
  cases r <;> exact stands_trans h k

/-! ### The parts of the state replaced -/

theorem State.setCore_holds (s : State) (k c) : s.Holds (s.setCore k c) := by
  unfold State.setCore
  split
  · exact holds_refl s
  · exact ⟨fun h => { h with coreKeys := keys_kset _ _ h.coreKeys }, fun _ => id⟩

theorem State.setBay_holds (s : State) (k b) : s.Holds (s.setBay k b) := by
  unfold State.setBay
  split
  · exact holds_refl s
  · exact ⟨fun h => { h with bayKeys := keys_kset _ _ h.bayKeys }, fun _ => id⟩

theorem State.mapCores_holds (s : State) (f) : s.Holds (s.mapCores f) :=
  ⟨fun h => { h with coreKeys := (keys_map f s.cores).symm ▸ h.coreKeys }, fun _ => id⟩

theorem State.mapBays_holds (s : State) (f) : s.Holds (s.mapBays f) :=
  ⟨fun h => { h with bayKeys := (keys_map f s.bays).symm ▸ h.bayKeys }, fun _ => id⟩

theorem State.physWrite_holds (s : State) (pa bs) : s.Holds (s.physWrite pa bs) :=
  ⟨fun h => { h with memCanonical := putBytes_wf _ _ _ h.memCanonical }, fun _ => id⟩

theorem State.mapThreads_keeps (s : State) (f) : s.Keeps (s.mapThreads f) :=
  fun h => { h with threadKeys := (keys_map f s.threads).symm ▸ h.threadKeys }

theorem State.setThread_keeps (s : State) (p t) : s.Keeps (s.setThread p t) := by
  unfold State.setThread
  split
  · exact id
  · exact fun h => { h with threadKeys := keys_kset _ _ h.threadKeys }

theorem State.setThread_holds (s : State) (p t) (h : t.live = (s.threadAt p).live ∧ t.ctx = (s.threadAt p).ctx) :
    s.Holds (s.setThread p t) := by
  refine ⟨State.setThread_keeps s p t, fun w => ?_⟩
  grind [State.setThread, WatchedAs, State.threadAt, kget_kset]

/-! ### Contexts, and the thread in focus -/

/-- Every image of the contexts of a list is a live thread. -/
abbrev ImagesLive (l : List (Nat × Context)) : Prop := ∀ c ∈ l, ∀ e ∈ c.2.images, e.2.live = true

theorem kget_images_live {l : List (Nat × Context)} (h : ImagesLive l) (n : Nat) : ∀ e ∈ (kget {} l n).images, e.2.live = true := by
  rcases kget_mem {} l n with hn | hn
  · rw [hn]; exact fun e he => absurd he List.not_mem_nil
  · exact h _ hn

theorem kset_images_live {l : List (Nat × Context)} (h : ImagesLive l) (n : Nat) {x : Context} (hx : ∀ e ∈ x.images, e.2.live = true) :
    ImagesLive (kset n x l) := by
  intro c hc
  rcases mem_kset hc with rfl | hc
  · exact hx
  · exact h c hc

theorem ctxAt_images_live {s : State} (h : s.Orderly) (n : Nat) : ∀ e ∈ (s.ctxAt n).images, e.2.live = true := by
  unfold State.ctxAt
  split
  · exact h.focusImages
  · exact kget_images_live h.ctxImages n

theorem State.setCtx_keeps_of_live (s : State) (n x) (h : s.Orderly → ∀ e ∈ x.images, e.2.live = true) : s.Keeps (s.setCtx n x) := by
  intro hs
  unfold State.setCtx
  split
  · exact { hs with focusImages := h hs }
  · exact { hs with ctxKeys := keys_kset _ _ hs.ctxKeys, ctxImages := kset_images_live hs.ctxImages n (h hs) }

theorem State.setCtx_keeps (s : State) (n x) (h : x.images = (s.ctxAt n).images ∨ x.images = []) : s.Keeps (s.setCtx n x) :=
  State.setCtx_keeps_of_live s n x fun hs => by
    rcases h with h | h
    · exact h ▸ ctxAt_images_live hs n
    · simp [h]

theorem threadAt_setCtx (s : State) (n x p) : (s.setCtx n x).threadAt p = s.threadAt p := by
  unfold State.setCtx
  split <;> rfl

theorem State.setCtx_watched (s : State) (n x) (h : x.resident = (s.ctxAt n).resident) (w) : s.Watched w → (s.setCtx n x).Watched w := by
  have hr : ((s.setCtx n x).ctxAt w.ctx).resident = (s.ctxAt w.ctx).resident := by
    rw [ctxAt_setCtx]
    split
    · next hw => rw [hw, h]
    · rfl
  simp only [watched_iff, threadAt_setCtx, hr, imp_self]

theorem State.focus_keeps (s : State) (p) : s.Keeps (s.focus p) := by
  intro h
  unfold State.focus
  split
  · exact h
  · have hx := kset_images_live h.ctxImages s.t.ctx h.focusImages
    exact {
      memCanonical := h.memCanonical
      threadKeys := keys_kdrop _ (keys_kset _ _ h.threadKeys)
      coreKeys := keys_kdrop _ (keys_kset _ _ h.coreKeys)
      bayKeys := keys_kdrop _ (keys_kset _ _ h.bayKeys)
      ctxKeys := keys_kdrop _ (keys_kset _ _ h.ctxKeys)
      focusImages := kget_images_live hx _
      ctxImages := fun c hc => hx c (mem_kdrop hc).1 }

theorem State.focus_holds (s : State) (p) : s.Holds (s.focus p) :=
  ⟨State.focus_keeps s p, fun w => by simp [watched_iff]⟩

theorem State.during_keeps (s : State) (p) {f : State → State} (h : ∀ s : State, s.Keeps (f s)) : s.Keeps (s.during p f) :=
  State.focus_keeps _ _ ∘ h _ ∘ State.focus_keeps s p

theorem State.during_stands (s : State) (p) {f : State → State} (h : ∀ s : State, s.Stands (f s)) : s.Stands (s.during p f) :=
  stands_trans (State.focus_holds s p).stands (stands_trans (h _) (State.focus_holds _ _).stands)

theorem State.placeThread_keeps (s : State) (p t) : s.Keeps (s.placeThread p t) := by
  intro h
  unfold State.placeThread
  split
  · have hx := kset_images_live h.ctxImages s.t.ctx h.focusImages
    exact {
      h with
      ctxKeys := keys_kdrop _ (keys_kset _ _ h.ctxKeys)
      focusImages := kget_images_live hx _
      ctxImages := fun c hc => hx c (mem_kdrop hc).1 }
  · exact { h with threadKeys := keys_kset _ _ h.threadKeys }

/-! ### Threads by their slots -/

theorem kget_map {α : Type} (d : α) (f : Nat → α → α) (k : Nat) (h : f k d = d) (l : List (Nat × α)) :
    kget d (l.map fun e => (e.1, f e.1 e.2)) k = f k (kget d l k) := by
  induction l with
  | nil => exact h.symm
  | cons e r ih => grind [kget]

theorem kget_of_mem {α : Type} (d : α) {l : List (Nat × α)} (h : (l.map fun e => e.1).Pairwise (· < ·)) {e : Nat × α}
    (he : e ∈ l) : kget d l e.1 = e.2 := by
  induction l with
  | nil => cases he
  | cons a r ih =>
    obtain ⟨ha, hr⟩ := List.pairwise_cons.mp h
    rcases List.mem_cons.mp he with rfl | he
    · simp [kget]
    · have hlt : a.1 < e.1 := ha _ (List.mem_map_of_mem he)
      have := ih hr he
      grind [kget]

theorem threadAt_of_mem {s : State} (h : s.Orderly) {e : Nat × Thread} (he : e ∈ s.allThreads) : s.threadAt e.1 = e.2 := by
  unfold State.threadAt
  rcases List.mem_cons.mp he with rfl | he
  · exact if_pos rfl
  · obtain ⟨he, hp⟩ := List.mem_filter.mp he
    rw [if_neg (by simpa using hp), kget_of_mem {} h.threadKeys he]

theorem slots_nodup {s : State} (h : s.Orderly) (q : Nat × Thread → Bool) : ((s.allThreads.filter q).map fun e => e.1).Nodup := by
  refine List.Nodup.sublist (List.filter_sublist.map _) (List.nodup_cons.mpr ⟨by simp, ?_⟩)
  exact (keys_filter _ h.threadKeys).imp Nat.ne_of_lt

/-- The live threads of a context that are found now stand in their slots. -/
theorem watched_of_filter {s : State} (h : s.Orderly) (n : Nat) {q : Nat × Thread → Bool}
    (hq : ∀ e, q e = true → e.2.live = true ∧ e.2.ctx = n) : s.Watched ⟨n, (s.allThreads.filter q).map fun e => e.1, false⟩ := by
  refine (watched_iff _ s).mpr ⟨by simp, fun _ p hp => ?_⟩
  obtain ⟨e, he, rfl⟩ := List.mem_map.mp hp
  obtain ⟨he, hl⟩ := List.mem_filter.mp he
  rw [threadAt_of_mem h he]
  exact hq e hl

theorem t_focus (s : State) (p : Nat) : (s.focus p).t = s.threadAt p := by
  have h := threadAt_focus s p p
  rwa [State.threadAt, if_pos (focus_pos s p).symm] at h

/-! ### Threads -/

/-- The thread u serves the context of t, and is live if t is. -/
abbrev Thread.Stays (t u : Thread) : Prop := u.live = t.live ∧ u.ctx = t.ctx

theorem writeX_stays (t : Thread) (r v) : t.Stays (t.writeX r v) := by
  unfold Thread.writeX; split <;> exact ⟨rfl, rfl⟩

theorem writeC_stays (t : Thread) (r b) : t.Stays (t.writeC r b) := by
  unfold Thread.writeC; split <;> exact ⟨rfl, rfl⟩

theorem writeTag_stays (t : Thread) (r v) : t.Stays (t.writeTag r v) := ⟨rfl, rfl⟩

theorem setElems_stays (t : Thread) (r sew l) : t.Stays (t.setElems r sew l) := by
  unfold Thread.setElems; split <;> exact ⟨rfl, rfl⟩

theorem ungrade_stays (t : Thread) (r) : t.Stays (t.ungrade r) := by
  unfold Thread.ungrade; split <;> exact ⟨rfl, rfl⟩

theorem setPred_stays (t : Thread) (p l) : t.Stays (t.setPred p l) := ⟨rfl, rfl⟩

theorem setToken_stays (t : Thread) (k v) : t.Stays (t.setToken k v) := by
  unfold Thread.setToken; split <;> exact ⟨rfl, rfl⟩

theorem settle_stays (k gen stamp st c result) (t : Thread) : t.Stays (t.settle k gen stamp st c result) := by
  unfold Thread.settle
  dsimp only
  split
  · exact ⟨rfl, rfl⟩
  · exact setToken_stays t k _

theorem foldl_ungrade_stays (t : Thread) (l : List Nat) : t.Stays (l.foldl (fun t r => t.ungrade r) t) := by
  induction l generalizing t with
  | nil => exact ⟨rfl, rfl⟩
  | cons r l ih => grind [!ungrade_stays]

theorem putLoaded_stays (t : Thread) (l) : t.Stays (putLoaded t l) := by
  induction l generalizing t with
  | nil => exact ⟨rfl, rfl⟩
  | cons e l ih => grind [putLoaded, !setElems_stays, !setPred_stays]

/-! ### Shared operations -/

theorem State.orFlags_stands (s : State) (fl) : s.Stands (s.orFlags fl) := stands_refl _

theorem State.order_holds (s : State) : s.Holds s.order := holds_refl _

theorem State.orderThread_stands (s : State) : s.Stands s.orderThread := stands_refl _

theorem State.orderVector_stands (s : State) : s.Stands s.orderVector := stands_refl _

theorem State.report_holds (s : State) (r) : s.Holds (s.report r) := holds_refl _

theorem State.send_keeps (s : State) (ctx queue m) : s.Keeps (s.send ctx queue m) := id

theorem State.drop_keeps (s : State) : s.Keeps s.drop := id

theorem State.complete_stands (s : State) (n) : s.Stands (s.complete n) := stands_refl _

theorem State.advance_stands (s : State) : s.Stands s.advance := stands_refl _

theorem State.takeScore_holds (s : State) (o) : s.Holds (s.takeScore o) := by
  grind -ring -linarith -lia -order [State.takeScore, !State.setCore_holds, State.Holds]

theorem State.takeScores_holds (s : State) (core) : s.Holds (s.takeScores core) := foldl_holds (fun s o => by
    split
    · exact s.takeScore_holds o
    · exact holds_refl s) s.ops s

theorem State.allScores_stands (s : State) : s.Stands s.allScores := foldl_stands (fun s o => (s.takeScore_holds o).stands) s.ops s

theorem State.clearThreads_keeps (s : State) (n) : s.Keeps (s.clearThreads n) := by
  grind -ring -linarith -lia -order [State.clearThreads, !State.mapThreads_keeps, !State.mapCores_holds, !State.mapBays_holds,
    State.Keeps, State.Holds]

theorem threadAt_clearThreads (s : State) (n p) :
    (s.clearThreads n).threadAt p =
      if (s.threadAt p).live && (s.threadAt p).ctx == n then idleThread (s.threadAt p) else s.threadAt p := by
  show (if p = s.pos then _ else
    kget {} (s.threads.map fun e => (e.1, if e.2.live && e.2.ctx == n then idleThread e.2 else e.2)) p) = _
  unfold State.threadAt
  split
  · rfl
  · exact kget_map {} (fun _ t => if t.live && t.ctx == n then idleThread t else t) p rfl s.threads

theorem ctxAt_clearThreads (s : State) (n k) : (s.clearThreads n).ctxAt k = s.ctxAt k := by
  have hc : (s.clearThreads n).t.ctx = s.t.ctx := by
    show (if s.t.live && s.t.ctx == n then idleThread s.t else s.t).ctx = s.t.ctx
    split <;> rfl
  unfold State.ctxAt
  rw [hc]
  rfl

/-- The threads of every other context are left as they stand. -/
theorem State.clearThreads_watched (s : State) (n) (w : Watch) (hw : w.ctx ≠ n) : s.Watched w → (s.clearThreads n).Watched w := by
  simp only [watched_iff, ctxAt_clearThreads, threadAt_clearThreads]
  grind

/-- A watch that is not strict holds for a context that is no longer resident. -/
theorem setCtx_away_watched (s : State) (n x) (hx : x.resident = false) (w : Watch) (hw : w.strict = false)
    (h : w.ctx ≠ n → s.Watched w) : (s.setCtx n x).Watched w := by
  simp only [watched_iff, threadAt_setCtx, ctxAt_setCtx] at *
  grind

/-- The watched threads of the context that ends go idle, but it is no longer resident, and no watch on it that is not strict asks more. -/
theorem State.endContext_stands (s : State) (n c pc val time) : s.Stands (s.endContext n c pc val time) := by
  have hc : ∀ x : Context, x.images = [] → x.resident = false → s.Stands ((s.clearThreads n).setCtx n x) := fun x hi hr =>
    ⟨State.setCtx_keeps _ n x (.inr hi) ∘ s.clearThreads_keeps n,
      fun w hw h => setCtx_away_watched _ n x hr w hw fun hn => s.clearThreads_watched n w hn h⟩
  grind -ring -linarith -lia -order [State.endContext, !State.allScores_stands, !State.report_holds, State.Stands, State.Holds]

theorem State.unpark_stands (s : State) (woken) : s.Stands (s.unpark woken) := stands_refl _

theorem State.takeTrap_stands (s : State) (i) : s.Stands (s.takeTrap i) := by
  grind -ring -linarith -lia -order [State.takeTrap, !State.endContext_stands, !State.unpark_stands, State.Stands]

/-- A word ends completed, with its trap taken, or waiting. -/
theorem finish_keeps {s : State} {r : Run State} (h : Ends r s.Keeps) : Leads (finish r) s.Keeps := by
  match r, h with
  | .ok _, h => exact h
  | .error (.trap _ _, u), h => exact (u.takeTrap_stands _).keeps ∘ h
  | .error (.wait _, _), h => exact h

theorem State.leaveTrap_keeps (s : State) : s.Keeps s.leaveTrap := id

/-! ### Memory -/

theorem State.programHdm_keeps (s : State) (k d) : s.Keeps (s.programHdm k d) := by
  unfold State.programHdm
  split <;> exact id

theorem State.setMram_holds (s : State) (die m) : s.Holds (s.setMram die m) := holds_refl _

theorem State.logEvent_holds (s : State) (die e) : s.Holds (s.logEvent die e) := holds_refl _

theorem State.quarantine_holds (s : State) (ctx kind va line pa) : s.Holds (s.quarantine ctx kind va line pa) := holds_refl _

theorem State.checkLine_holds (s : State) (ctx kind va pa) : Ends (s.checkLine ctx kind va pa) s.Holds := by
  grind -ring -linarith -lia -order [State.checkLine, raise, !State.quarantine_holds, !State.order_holds, Ends, State.Holds]

theorem State.badEntry_keeps (s : State) (ctx seen) : s.Keeps (s.badEntry ctx seen) := by
  unfold State.badEntry
  split <;> exact id

theorem State.walkRead_holds (s : State) (ctx va a) : Gives (s.walkRead ctx va a) s.Holds := by
  grind -ring -linarith -lia -order [State.walkRead, raise, !State.quarantine_holds, !State.order_holds, Gives, State.Holds]

theorem walkLevel_holds (s : State) (ctx part va level table) : Gives (walkLevel s ctx part va level table) s.Holds := by
  grind -ring -linarith -lia -order [walkLevel, raise, !State.walkRead_holds, Gives, State.Holds]

theorem walk_holds (s : State) (ctx part va n k) : Gives (walk s ctx part va n k) s.Holds := by
  fun_induction walk s ctx part va n k <;> grind -ring -linarith -lia -order [walk, raise, !walkLevel_holds, Gives.eq_def,
    State.Holds]

theorem State.fill_holds (s : State) (ag e) : s.Holds (s.fill ag e) := by
  grind -ring -linarith -lia -order [State.fill, !State.setCore_holds, !State.setBay_holds, State.Holds]

theorem State.leafFor_holds (s : State) (ag va) : Gives (s.leafFor ag va) s.Holds := by
  grind -ring -linarith -lia -order [State.leafFor, !walk_holds, Gives, State.Holds]

theorem State.translate_holds (s : State) (ag acc va) : Gives (s.translate ag acc va) s.Holds := by
  grind -ring -linarith -lia -order [State.translate, raise, !State.leafFor_holds, !State.fill_holds, Gives, State.Holds]

theorem State.walkStart_keeps (s : State) (va) : s.Keeps (s.walkStart va) := by
  grind -ring -linarith -lia -order [State.walkStart, State.Keeps]

theorem State.fillBays_keeps (s : State) (e bays) : s.Keeps (s.fillBays e bays) :=
  foldl_keeps (fun s k => (s.setBay_holds k _).keeps) bays s

theorem State.walkStep_keeps (s : State) (k) : s.Keeps (s.walkStep k) := by
  grind -ring -linarith -lia -order [State.walkStep, !walkLevel_holds, !State.order_holds, !State.fillBays_keeps, Gives,
    State.Holds, State.Keeps]

theorem State.readPart_stands (s : State) (ag acc kind va n) : Gives (s.readPart ag acc kind va n) s.Stands := by
  grind -ring -linarith -lia -order [State.readPart, hold, !State.translate_holds, !State.checkLine_holds, Ends, Gives,
    State.Holds, State.Stands]

theorem State.readParts_stands (s : State) (ag acc kind l) : Gives (s.readParts ag acc kind l) s.Stands := by
  fun_induction State.readParts s ag acc kind l <;> grind -ring -linarith -lia -order [State.readParts, !State.readPart_stands,
    Gives, State.Stands]

theorem State.read_stands (s : State) (ag acc kind va n) : Gives (s.read ag acc kind va n) s.Stands :=
  State.readParts_stands _ _ _ _ _

theorem foldl_physWrite_holds (l : List Put) (s : State) :
    s.Holds (l.foldl (fun s p => s.physWrite p.pa [p.over (sget (w := 8) s.mem p.pa)]) s) :=
  foldl_holds (fun s p => s.physWrite_holds p.pa [p.over (sget (w := 8) s.mem p.pa)]) l s

theorem State.publishLine_holds (s : State) (ctx l line) : s.Holds (s.publishLine ctx l line) := by
  grind -ring -linarith -lia -order [State.publishLine, !foldl_physWrite_holds, !State.quarantine_holds, State.Holds]

theorem State.publishPuts_holds (s : State) (ctx l) : s.Holds (s.publishPuts ctx l) :=
  foldl_holds (fun s line => s.publishLine_holds ctx _ line) _ s

theorem State.publish_holds (s : State) (ctx g) : s.Holds (s.publish ctx g) := State.publishPuts_holds _ _ _

theorem State.setSegment_holds (s : State) (p g) : s.Holds (s.setSegment p g) := holds_refl _

theorem State.checkAdd_holds (s : State) (ctx h) : s.Holds (s.checkAdd ctx h).2 := by
  grind -ring -linarith -lia -order [State.checkAdd, !State.quarantine_holds, State.Holds]

theorem State.applyAdd_holds (s : State) (h) : s.Holds (s.applyAdd h) := by
  grind -ring -linarith -lia -order [State.applyAdd, !State.checkAdd_holds, !State.physWrite_holds, State.Holds]

theorem State.overflowPublish_holds (s : State) (p g) : s.Holds (s.overflowPublish p g) := by
  have ha := foldl_holds State.applyAdd_holds g.adds (s.order.publish s.t.ctx g)
  grind -ring -linarith -lia -order [State.overflowPublish, !State.order_holds, !State.publish_holds, !State.setSegment_holds,
    State.Holds]

theorem State.digested_holds (s : State) (ag va bs) : s.Holds (s.digested ag va bs) := by
  unfold State.digested
  split <;> exact holds_refl _

theorem State.commitWrite_holds (s : State) (ag va pa bs) : s.Holds (s.commitWrite ag va pa bs) := by
  grind -ring -linarith -lia -order [State.commitWrite, !State.digested_holds, !State.overflowPublish_holds,
    !State.setSegment_holds, !State.physWrite_holds, State.Holds]

theorem State.checkPart_holds (s : State) (ag acc va n) : Gives (s.checkPart ag acc va n) s.Holds := by
  grind -ring -linarith -lia -order [State.checkPart, hold, !State.translate_holds, !State.checkLine_holds, Ends, Gives,
    State.Holds]

theorem State.checkParts_holds (s : State) (ag acc l) : Gives (s.checkParts ag acc l) s.Holds := by
  fun_induction State.checkParts s ag acc l <;> grind -ring -linarith -lia -order [State.checkParts, !State.checkPart_holds, Gives,
    State.Holds]

theorem State.putParts_holds (s : State) (ag l r) : s.Holds (s.putParts ag l r) := by
  fun_induction State.putParts s ag l r <;> grind -ring -linarith -lia -order [State.putParts, !State.commitWrite_holds,
    State.Holds]

theorem State.write_holds (s : State) (ag acc va bs) : Ends (s.write ag acc va bs) s.Holds := by
  grind -ring -linarith -lia -order [State.write, !State.checkParts_holds, !State.putParts_holds, Ends, Gives, State.Holds]

theorem State.checkLoad_keeps (s : State) (ag va n) : Ends (s.checkLoad ag va n) s.Keeps := by
  grind -ring -linarith -lia -order [State.checkLoad, !State.read_stands, Ends, Gives, State.Keeps, State.Stands]

theorem State.checkStore_keeps (s : State) (ag va n) : Ends (s.checkStore ag va n) s.Keeps := by
  grind -ring -linarith -lia -order [State.checkStore, !State.checkParts_holds, Ends, Gives, State.Holds, State.Keeps]

theorem State.fetch_stands (s : State) (va block) : Gives (s.fetch va block) s.Stands := by
  grind -ring -linarith -lia -order [State.fetch, raise, !State.translate_holds, !State.checkLine_holds, Ends.eq_def, Gives.eq_def,
    State.Holds, State.Stands]

theorem State.fetchLine_keeps (s : State) (va) : May (s.fetchLine va) s.Keeps := by
  grind -ring -linarith -lia -order [State.fetchLine, !State.translate_holds, Gives, May, State.Holds, State.Keeps]

/-! ### Segment -/

theorem State.beginSegment_keeps (s : State) (number) : s.Keeps (s.beginSegment number) := id

theorem State.restoreTiles_keeps (s : State) (g) : s.Keeps (s.restoreTiles g) := by
  grind -ring -linarith -lia -order [State.restoreTiles, State.Keeps]

theorem State.nextSegment_keeps (s : State) : s.Keeps s.nextSegment := by
  grind -ring -linarith -lia -order [State.nextSegment, !State.beginSegment_keeps, State.Keeps]

theorem State.probe_keeps (s : State) (diglog digctl key record n k) : s.Keeps (s.probe diglog digctl key record n k).2 := by
  fun_induction State.probe s diglog digctl key record n k <;> grind -ring -linarith -lia -order [State.probe, !State.read_stands,
    !State.order_holds, Gives, State.Holds, State.Keeps, State.Stands]

theorem State.checkDigest_keeps (s : State) (diglog digctl key digest) : s.Keeps (s.checkDigest diglog digctl key digest).2 := by
  grind -ring -linarith -lia -order [State.checkDigest, !State.write_holds, !State.order_holds, !State.probe_keeps, Ends,
    State.Holds, State.Keeps]

theorem State.stir_holds (s : State) (b) : s.Holds (s.stir b) := by
  unfold State.stir
  split <;> exact holds_refl _

theorem State.commitSegment_keeps (s : State) (g) : s.Keeps (s.commitSegment g) := by
  have ha := foldl_holds State.applyAdd_holds g.adds (s.order.publish s.t.ctx g)
  grind -ring -linarith -lia -order [State.commitSegment, !State.order_holds, !State.publish_holds, !State.stir_holds,
    !State.setSegment_holds, State.Holds, State.Keeps]

theorem State.rollback_keeps (s : State) (g key) : s.Keeps (s.rollback g key) := by
  grind -ring -linarith -lia -order [State.rollback, !State.endContext_stands, !State.restoreTiles_keeps, !State.setSegment_holds,
    State.Holds, State.Keeps, State.Stands]

theorem State.commitPoint_keeps (s : State) : Gives s.commitPoint s.Keeps := by
  grind -ring -linarith -lia -order [State.commitPoint, hold, !State.checkDigest_keeps, !State.commitSegment_keeps,
    !State.rollback_keeps, Gives, State.Keeps]

theorem State.committing_keeps (s : State) {body} (h : ∀ u : State, Ends (body u) u.Keeps) : Ends (s.committing body) s.Keeps := by
  grind -ring -linarith -lia -order [State.committing, !State.commitPoint_keeps, !State.nextSegment_keeps, Ends, Gives,
    State.Keeps, State.Stands]

/-! ### Operands -/

theorem State.setX_stands (s : State) (r v) : s.Stands (s.setX r v) := by
  grind -ring -linarith -lia -order [State.setX, !writeX_stays, State.Stands]

theorem State.setF_stands (s : State) (r v) : s.Stands (s.setF r v) := stands_refl _

theorem State.setC_stands (s : State) (r b) : s.Stands (s.setC r b) := by
  grind -ring -linarith -lia -order [State.setC, !writeC_stays, State.Stands]

theorem scalarRead_keeps (s : State) (ea n) : Gives (scalarRead ea n s) s.Keeps := by
  grind -ring -linarith -lia -order [scalarRead, !State.read_stands, !State.orderThread_stands, Gives, State.Keeps, State.Stands]

theorem scalarWrite_keeps (s : State) (ea bs) : Ends (scalarWrite ea bs s) s.Keeps := by
  grind -ring -linarith -lia -order [scalarWrite, !State.write_holds, !State.orderThread_stands, Ends, State.Holds, State.Keeps,
    State.Stands]

/-! ### Lanes -/

theorem State.writeVector_stands (s : State) (env vd sew l) : s.Stands (s.writeVector env vd sew l) := by
  grind -ring -linarith -lia -order [State.writeVector, !setElems_stays, !ungrade_stays, State.Stands]

/-! ### Vector arithmetic -/

theorem vecInt_stands (s : State) (f p form vs2 s1 vd b env) : s.Stands (vecInt f p form vs2 s1 vd b env s) :=
  State.writeVector_stands _ _ _ _ _

theorem vecFp_stands (s : State) (f p form vs2 s1 vd e env) : s.Stands (vecFp f p form vs2 s1 vd e env s) :=
  State.writeVector_stands _ _ _ _ _

theorem vecMinMax_stands (s : State) (max p form vs2 s1 vd e env) : s.Stands (vecMinMax max p form vs2 s1 vd e env s) :=
  State.writeVector_stands _ _ _ _ _

theorem vecSgnj_stands (s : State) (p form vs2 s1 vd e env) : s.Stands (vecSgnj p form vs2 s1 vd e env s) :=
  State.writeVector_stands _ _ _ _ _

theorem vecClass_stands (s : State) (p vs2 vd env) : s.Stands (vecClass p vs2 vd env s) := State.writeVector_stands _ _ _ _ _

theorem vecRsqrte_stands (s : State) (p vs2 vd env) : s.Stands (vecRsqrte p vs2 vd env s) := State.writeVector_stands _ _ _ _ _

theorem vecMix_stands (s : State) (p form vs2 s1 vd b env) : s.Stands (vecMix p form vs2 s1 vd b env s) :=
  State.writeVector_stands _ _ _ _ _

theorem vecDot4_stands (s : State) (p form vs2 s1 vd e env) : s.Stands (vecDot4 p form vs2 s1 vd e env s) :=
  State.writeVector_stands _ _ _ _ _

theorem vecMerge_stands (s : State) (p form vs2 s1 vd b env) : s.Stands (vecMerge p form vs2 s1 vd b env s) :=
  State.writeVector_stands _ _ _ _ _

theorem vecCvt_stands (s : State) (p vs2 code vd e env rowcap) : s.Stands (vecCvt p vs2 code vd e env rowcap s) := by
  grind -ring -linarith -lia -order [vecCvt, !State.orFlags_stands, !State.writeVector_stands, !setElems_stays, !ungrade_stays,
    State.Stands]

theorem predOp_stands (s : State) (f p ps2 ps1 pd env) : s.Stands (predOp f p ps2 ps1 pd env s) := stands_refl _

theorem predMerge_stands (s : State) (p ps2 ps1 pd env) : s.Stands (predMerge p ps2 ps1 pd env s) := stands_refl _

theorem vecCompare_stands (s : State) (f p form vs2 s1 pd b env) : s.Stands (vecCompare f p form vs2 s1 pd b env s) := stands_refl _

theorem vecFpCompare_stands (s : State) (k p form vs2 s1 pd e env) : s.Stands (vecFpCompare k p form vs2 s1 pd e env s) :=
  stands_refl _

theorem vecPermute_stands (s : State) (f p vd env) : s.Stands (vecPermute f p vd env s) := State.writeVector_stands _ _ _ _ _

theorem vecStep_stands (s : State) (p vd b env) : s.Stands (vecStep p vd b env s) := vecPermute_stands _ _ _ _ _

theorem vecXch_stands (s : State) (p vs2 vd d env) : s.Stands (vecXch p vs2 vd d env s) := vecPermute_stands _ _ _ _ _

theorem vecSlideUp_stands (s : State) (p vs2 vd d env) : s.Stands (vecSlideUp p vs2 vd d env s) := vecPermute_stands _ _ _ _ _

theorem vecSlideDn_stands (s : State) (p vs2 vd d env) : s.Stands (vecSlideDn p vs2 vd d env s) := vecPermute_stands _ _ _ _ _

theorem vecGather_stands (s : State) (p form vs2 s1 vd b env) : s.Stands (vecGather p form vs2 s1 vd b env s) :=
  vecPermute_stands _ _ _ _ _

theorem vecCompress_stands (s : State) (p vs2 vd env) : s.Stands (vecCompress p vs2 vd env s) := State.writeVector_stands _ _ _ _ _

theorem vecConf_stands (s : State) (p vs2 vd env) : s.Stands (vecConf p vs2 vd env s) := vecPermute_stands _ _ _ _ _

theorem vecToX_stands (s : State) (form vs2 rd b env) : s.Stands (vecToX form vs2 rd b env s) := by
  unfold vecToX
  split
  · exact stands_refl _
  · exact State.setX_stands _ _ _

theorem vecFromScalar_stands (s : State) (vd b env) : s.Stands (vecFromScalar vd b env s) := State.writeVector_stands _ _ _ _ _

theorem vecPopc_stands (s : State) (p ps2 rd env) : s.Stands (vecPopc p ps2 rd env s) := by
  unfold vecPopc
  split
  · exact stands_refl _
  · exact State.setX_stands _ _ _

theorem vecFirst_stands (s : State) (p ps2 rd env) : s.Stands (vecFirst p ps2 rd env s) := by
  unfold vecFirst
  split
  · exact stands_refl _
  · exact State.setX_stands _ _ _

theorem vecReduce_stands (s : State) (fi ff p form vs2 s1 vd e env) : s.Stands (vecReduce fi ff p form vs2 s1 vd e env s) :=
  State.writeVector_stands _ _ _ _ _

theorem vecRedo_stands (s : State) (limit p form vs2 s1 vd e env) : s.Stands (vecRedo limit p form vs2 s1 vd e env s).2.2 := by
  grind -ring -linarith -lia -order [vecRedo, State.onThread, !State.writeVector_stands, State.Stands]

/-! ### Records -/

theorem State.setOp_holds (s : State) (o) : s.Holds (s.setOp o) := holds_refl _

/-! ### Vector memory -/

theorem State.readEntry_stands (s : State) (ag frn fault) : Gives (s.readEntry ag frn fault) s.Stands := by
  grind -ring -linarith -lia -order [State.readEntry, raise, !State.read_stands, Gives, State.Stands]

theorem State.region_stands (s : State) (ag acc a) : Gives (s.region ag acc a) s.Stands := by
  unfold State.region
  split <;> grind -ring -linarith -lia -order [raise, !State.translate_holds, !State.readEntry_stands, Gives, State.Holds,
    State.Stands]

theorem State.checkRegion_stands (s : State) (ag acc r va l) : Ends (s.checkRegion ag acc r va l) s.Stands := by
  fun_induction State.checkRegion s ag acc r va l <;> grind -ring -linarith -lia -order [State.checkRegion, raise,
    !State.translate_holds, Ends.eq_def, Gives.eq_def, State.Holds, State.Stands]

theorem State.regionItem_stands (s : State) (ag acc r n off bytes) : Gives (s.regionItem ag acc r n off bytes) s.Stands := by
  grind -ring -linarith -lia -order [State.regionItem, raise, !State.checkRegion_stands, Ends, Gives, State.Stands]

theorem State.readPair_stands (s : State) (ag r j va) : Gives (s.readPair ag r j va) s.Stands := by
  grind -ring -linarith -lia -order [State.readPair, raise, !State.read_stands, Gives, State.Stands]

theorem State.readTap_stands (s : State) (d x y) : Gives (s.readTap d x y) s.Stands := by
  grind -ring -linarith -lia -order [State.readTap, !State.read_stands, !State.orderVector_stands, Gives, State.Stands]

theorem State.sampleTexel_stands (s : State) (w vc e env i) : Gives (s.sampleTexel w vc e env i) s.Stands := by
  grind -ring -linarith -lia -order [State.sampleTexel, !State.readTap_stands, Gives, State.Stands]

theorem textureRead_stands (s : State) (w e) : Gives (textureRead w e s) s.Stands := by
  grind -ring -linarith -lia -order [textureRead, raise, illegalAt, !State.read_stands, !State.orderVector_stands, Gives,
    State.Stands]

theorem memPrep_stands (s : State) (w e env) : Gives (memPrep w e env s) s.Stands := by
  grind -ring -linarith -lia -order [memPrep, illegalAt, raise, !State.region_stands, !textureRead_stands, Gives, State.Stands]

theorem loadItem_stands (s : State) (w e env pr k) : Gives (loadItem w e env pr k s) s.Stands := by
  unfold loadItem
  dsimp only
  repeat' split
  all_goals grind -ring -linarith -lia -order [raise, !State.read_stands, !State.orderVector_stands, !State.sampleTexel_stands,
    !State.regionItem_stands, !State.readPair_stands, Gives, State.Stands]

theorem State.writeItem_stands (s : State) (va bs) : Ends (s.writeItem va bs) s.Stands := by
  grind -ring -linarith -lia -order [State.writeItem, raise, !State.write_holds, !State.orderVector_stands, Ends, State.Holds,
    State.Stands]

theorem State.pairParts_stands (s : State) (pa va) : Gives (s.pairParts pa va) s.Stands := by
  grind -ring -linarith -lia -order [State.pairParts, raise, !State.checkParts_holds, Gives.eq_def, State.Holds, State.Stands]

theorem State.writeBlock_stands (s : State) (r j va codes pair) : Ends (s.writeBlock r j va codes pair) s.Stands := by
  grind -ring -linarith -lia -order [State.writeBlock, raise, !State.pairParts_stands, !State.checkParts_holds,
    !State.putParts_holds, !State.orderVector_stands, Ends.eq_def, Gives.eq_def, State.Holds, State.Stands]

theorem storeItem_stands (s : State) (w e env pr k) : Gives (storeItem w e env pr k s) s.Stands := by
  unfold storeItem
  split <;> grind -ring -linarith -lia -order [raise, !State.writeItem_stands, !State.regionItem_stands, !State.writeBlock_stands,
    Ends.eq_def, Gives.eq_def, State.Stands]

theorem commitLoad_stands (s : State) (w e env) : s.Stands (commitLoad w e env s) := by
  grind -ring -linarith -lia -order [commitLoad, !State.orFlags_stands, !putLoaded_stays, !foldl_ungrade_stays, State.Stands]

theorem shortenVl_stands (s : State) (k) : s.Stands (shortenVl k s) := stands_refl _

theorem emptyPrep_stands (s : State) (w e env) : Gives (emptyPrep w e env s) s.Stands := by
  grind -ring -linarith -lia -order [emptyPrep, illegalAt, raise, !memPrep_stands, Gives, State.Stands]

theorem memReady_stands (s : State) (w e env) : Gives (memReady w e env s) s.Stands := by
  grind -ring -linarith -lia -order [memReady, !emptyPrep_stands, !memPrep_stands, Gives, State.Stands]

theorem memStop_stands (s : State) (w env pr items prep e st) : VRes.Leaves (memStop w env pr items prep e st s) s.Stands := by
  unfold memStop
  split <;> grind -ring -linarith -lia -order [!shortenVl_stands, !commitLoad_stands, State.Stands, VRes.Leaves]

theorem memGo_stands (s : State) (w env pr items n v) : VRes.Leaves (memGo w env pr items n v s) s.Stands := by
  fun_induction memGo w env pr items n v s <;> grind -ring -linarith -lia -order [memGo, !State.orFlags_stands, !commitLoad_stands,
    !storeItem_stands, !memStop_stands, !loadItem_stands, Gives.eq_def, State.Stands, VRes.Leaves.eq_def]

theorem memRun_stands (s : State) (w limit e) : VRes.Leaves (memRun w limit e s) s.Stands := by
  grind -ring -linarith -lia -order [memRun, !memReady_stands, !memStop_stands, !memGo_stands, Gives.eq_def, State.Stands,
    VRes.Leaves.eq_def]

theorem postChecks_stands (s : State) (w e env l r x) : s.Stands (postChecks w e env l r x s).2 := by
  fun_induction postChecks w e env l r x s <;> grind -ring -linarith -lia -order [postChecks, !State.translate_holds, Gives,
    State.Holds, State.Stands]

theorem State.post_stands (s : State) (o) : s.Stands (s.post o) := by
  unfold State.post
  split <;> exact stands_refl _

theorem State.holdAdds_stands (s : State) (o) : s.Stands (s.holdAdds o) := by
  grind -ring -linarith -lia -order [State.holdAdds, !State.setSegment_holds, State.Holds, State.Stands]

theorem State.postAll_stands (s : State) (o n) : ∀ r, s.postAll o n = some r → Ends r s.Stands := by
  grind -ring -linarith -lia -order [State.postAll, raise, !State.orFlags_stands, !State.holdAdds_stands, !State.post_stands, Ends,
    State.Stands]

theorem postRun_stands (s : State) (w e) : VRes.Leaves (postRun w e s) s.Stands := by
  unfold postRun
  extract_lets env act items rc addr r l o u n
  have hu : s.Stands u := by
    grind -ring -linarith -lia -order [!postChecks_stands, State.Stands]
  have hp := u.postAll_stands
  clear_value u
  repeat' split
  all_goals grind -ring -linarith -lia -order [!State.orderVector_stands, VRes.Leaves, Ends.eq_def, State.Stands]

theorem State.dropPosted_stands (s : State) (x) : s.Stands (s.dropPosted x) := by
  unfold State.dropPosted
  split <;> exact stands_refl _

theorem State.performPosted_stands (s : State) (o x) : s.Stands (s.performPosted o x).2 := by
  grind -ring -linarith -lia -order [State.performPosted, !State.dropPosted_stands, !State.physWrite_holds,
    !State.commitWrite_holds, State.Holds, State.Stands]

theorem State.faultGroup_stands (s : State) (ag c isStore spans) : s.Stands (s.faultGroup ag c isStore spans).2 := by
  grind -ring -linarith -lia -order [State.faultGroup, !State.write_holds, !State.orderVector_stands, Ends, State.Holds,
    State.Stands]

/-! ### Graded -/

theorem gradedWrite_stands (s : State) (p vd inf comp e env) : GradedRes.Leaves (gradedWrite p vd inf comp e env s) s.Stands := by
  grind -ring -linarith -lia -order [gradedWrite, !State.orFlags_stands, !writeTag_stays, !setElems_stays, GradedRes.Leaves,
    State.Stands]

theorem gradedBinary_stands (s : State) (op p vs2 vs1 neg inv rev vd e env) :
    GradedRes.Leaves (gradedBinary op p vs2 vs1 neg inv rev vd e env s) s.Stands := gradedWrite_stands _ _ _ _ _ _ _

theorem gradedSand_stands (s : State) (p vs2 vs1 neg inv rev vd e env) :
    GradedRes.Leaves (gradedSand p vs2 vs1 neg inv rev vd e env s) s.Stands := gradedWrite_stands _ _ _ _ _ _ _

theorem gradedMove_stands (s : State) (row odd inf p vs1 neg rev vd e env) :
    GradedRes.Leaves (gradedMove row odd inf p vs1 neg rev vd e env s) s.Stands := gradedWrite_stands _ _ _ _ _ _ _

theorem gradedUnary_stands (s : State) (inf comp p vs1 rev vd e env) :
    GradedRes.Leaves (gradedUnary inf comp p vs1 rev vd e env s) s.Stands := gradedWrite_stands _ _ _ _ _ _ _

theorem gradedDeclare_stands (s : State) (mask vd e env) : GradedRes.Leaves (gradedDeclare mask vd e env s) s.Stands := by
  grind -ring -linarith -lia -order [gradedDeclare, !State.orFlags_stands, !writeTag_stays, !setElems_stays, GradedRes.Leaves,
    State.Stands]

theorem gradedRun_stands (s : State) (i e env) : ∀ r, gradedRun i e env s = some r → GradedRes.Leaves r s.Stands := by
  unfold gradedRun
  split <;> grind -ring -linarith -lia -order [!gradedBinary_stands, !gradedSand_stands, !gradedMove_stands, !gradedUnary_stands,
    !gradedDeclare_stands, GradedRes.Leaves, State.Stands]

/-! ### Tokens -/

theorem State.onCheckpoint_holds (s : State) (k f) : s.Holds (s.onCheckpoint k f) := holds_refl _

/-- A change that leaves a thread live and in its context may be made in an image or in a slot. -/
theorem State.onIssuer_holds (s : State) (ctx pos) {f : Thread → Thread} (h : ∀ t : Thread, t.Stays (f t)) :
    s.Holds (s.onIssuer ctx pos f) := by
  unfold State.onIssuer
  dsimp only
  split
  · refine holds_trans ⟨State.setCtx_keeps_of_live s _ _ fun hs e he => ?_, State.setCtx_watched s _ _ (by rfl)⟩
      (State.onCheckpoint_holds _ _ _)
    obtain ⟨a, ha, rfl⟩ := List.mem_map.mp he
    have hl := ctxAt_images_live hs ctx a ha
    split
    · rw [(h a.2).1, hl]
    · exact hl
  · split
    · exact holds_trans (s.setThread_holds pos _ (h _)) (State.onCheckpoint_holds _ _ _)
    · exact holds_refl s

theorem State.settle_holds (s : State) (ctx pos k gen st c result) : s.Holds (s.settle ctx pos k gen st c result) :=
  s.onIssuer_holds ctx pos fun t => settle_stays k gen s.stamp st c result t

theorem State.setEvents_keeps (s : State) (ctx) : s.Keeps (s.setEvents ctx) := by
  grind -ring -linarith -lia -order [State.setEvents, !State.mapThreads_keeps, State.Keeps]

theorem State.deliver_holds (s : State) (ctx pos fl) : s.Holds (s.deliver ctx pos fl) :=
  s.onIssuer_holds ctx pos fun _ => ⟨rfl, rfl⟩

/-! ### Handles -/

theorem Tensor.rd_stands (s : State) (ag kind a n) : Gives (Tensor.rd ag kind s a n) s.Stands := State.read_stands _ _ _ _ _ _

theorem readLayers_stands (s : State) (ag kind list n k) : Gives (readLayers ag kind list n k s) s.Stands := by
  fun_induction readLayers ag kind list n k s <;> grind -ring -linarith -lia -order [readLayers, raise, !Tensor.rd_stands, Gives,
    State.Stands]

theorem readList_stands (s : State) (ag kind list) : Gives (readList ag kind list s) s.Stands := by
  unfold readList
  repeat' split
  all_goals grind -ring -linarith -lia -order [!Tensor.rd_stands, !readLayers_stands, raise, Gives, State.Stands]

theorem openTensor_stands (s : State) (h ag kind) : Gives (openTensor h ag kind s) s.Stands := by
  unfold openTensor
  split <;> grind -ring -linarith -lia -order [raise, !State.region_stands, !readList_stands, Gives, State.Stands]

theorem Tensor.limits_stands (s : State) (t r0 r1 c0 c1) : Ends (Tensor.limits t r0 r1 c0 c1 s) s.Stands := by
  grind -ring -linarith -lia -order [Tensor.limits, raise, Ends, State.Stands]

theorem Tensor.rd32_stands (s : State) (t a) : Gives (Tensor.rd32 t s a) s.Stands := by
  grind -ring -linarith -lia -order [Tensor.rd32, !Tensor.rd_stands, Gives, State.Stands]

theorem Tensor.search_stands (s : State) (t b w want) : Gives (Tensor.search t s b w want) s.Stands := by
  unfold Tensor.search
  split <;> grind -ring -linarith -lia -order [!Tensor.rd32_stands, !Tensor.rd_stands, Gives, State.Stands]

theorem Tensor.locate_stands (s : State) (t row col) : Gives (Tensor.locate t row col s) s.Stands := by
  grind -ring -linarith -lia -order [Tensor.locate, !Tensor.search_stands, Gives, State.Stands]

theorem Tensor.code_stands (s : State) (t r f m) : Gives (Tensor.code t r f m s) s.Stands := by
  unfold Tensor.code
  dsimp only
  split <;> grind -ring -linarith -lia -order [onBase, onFrame, !State.regionItem_stands, !Tensor.rd_stands,
    !State.readPair_stands, Gives.eq_def, State.Stands]

theorem Tensor.codeAt_stands (s : State) (t row col) : Gives (Tensor.codeAt t row col s) s.Stands := by
  unfold Tensor.codeAt
  split <;> grind -ring -linarith -lia -order [onFrame, !Tensor.locate_stands, !Tensor.code_stands, Gives.eq_def, State.Stands]

theorem Tensor.stored_stands (s : State) (t n) : Gives (Tensor.stored t n s) s.Stands := by
  unfold Tensor.stored
  split <;> grind -ring -linarith -lia -order [onBase, !Tensor.rd_stands, !State.regionItem_stands, !Tensor.code_stands,
    Gives.eq_def, State.Stands]

theorem Layer.read_stands (s : State) (l t a) : Gives (Layer.read l t s a) s.Stands := by
  grind -ring -linarith -lia -order [Layer.read, !Tensor.rd_stands, Gives, State.Stands]

theorem lowTerms_stands (s : State) (l t row col n k) : Gives (lowTerms l t row col n k s) s.Stands := by
  fun_induction lowTerms l t row col n k s <;> grind -ring -linarith -lia -order [lowTerms, !Layer.read_stands, Gives, State.Stands]

theorem deltaTerms_stands (s : State) (l t r) : Gives (deltaTerms l t r s) s.Stands := by
  fun_induction deltaTerms l t r s <;> grind -ring -linarith -lia -order [deltaTerms, !Layer.read_stands, Gives, State.Stands]

theorem addLayers_stands (s : State) (t row col l x) : Gives (addLayers t row col l x s) s.Stands := by
  fun_induction addLayers t row col l x s <;> grind -ring -linarith -lia -order [addLayers, !lowTerms_stands, !deltaTerms_stands,
    Gives.eq_def, State.Stands]

theorem Tensor.value_stands (s : State) (t row col) : Gives (Tensor.value t row col s) s.Stands := by
  unfold Tensor.value
  dsimp only
  repeat' split
  all_goals grind -ring -linarith -lia -order [onFrame, !Tensor.locate_stands, !Tensor.stored_stands, !addLayers_stands,
    Gives.eq_def, State.Stands]

theorem Tensor.values_stands (s : State) (t l) : Gives (Tensor.values t l s) s.Stands := by
  fun_induction Tensor.values t l s <;> grind -ring -linarith -lia -order [Tensor.values, !Tensor.value_stands, Gives, State.Stands]

theorem Tensor.codes_stands (s : State) (t l) : Gives (Tensor.codes t l s) s.Stands := by
  fun_induction Tensor.codes t l s <;> grind -ring -linarith -lia -order [Tensor.codes, !Tensor.codeAt_stands, Gives, State.Stands]

theorem hldValues_stands (s : State) (t w n k l) : Gives (hldValues t w n k l s) s.Stands := by
  fun_induction hldValues t w n k l s <;> grind -ring -linarith -lia -order [hldValues, raise, !Tensor.value_stands, Gives.eq_def,
    State.Stands]

theorem tensorTrap_stands (s : State) (e c v spans) : VRes.Leaves (tensorTrap e c v spans s) s.Stands := stands_refl _

theorem hldRun_stands (s : State) (vd e) : VRes.Leaves (hldRun vd e s) s.Stands := by
  unfold hldRun
  split <;> grind -ring -linarith -lia -order [!openTensor_stands, !tensorTrap_stands, !Tensor.limits_stands, !hldValues_stands,
    !State.orderVector_stands, !State.orFlags_stands, !shortenVl_stands, !setElems_stays, !ungrade_stays, Ends.eq_def,
    Gives.eq_def, State.Stands, VRes.Leaves.eq_def]

/-! ### Handle stores -/

theorem putParts_stands (s : State) (ag base value mask l) : Gives (putParts s ag base value mask l) s.Stands := by
  fun_induction putParts s ag base value mask l <;> grind -ring -linarith -lia -order [putParts, raise, !State.translate_holds,
    Gives, State.Holds, State.Stands]

theorem rangePuts_stands (s : State) (ag va n value mask) : Gives (rangePuts s ag va n value mask) s.Stands :=
  putParts_stands _ _ _ _ _ _

theorem putWhole_stands (s : State) (ag va bs) : Gives (putWhole s ag va bs) s.Stands := rangePuts_stands _ _ _ _ _ _

theorem putCode_stands (s : State) (ag r f m code pair) : Gives (putCode s ag r f m code pair) s.Stands := by
  unfold putCode
  dsimp only
  split <;> grind -ring -linarith -lia -order [raise, !State.regionItem_stands, !rangePuts_stands, Gives.eq_def, State.Stands]

theorem Tensor.put_stands (s : State) (t n c) : Gives (Tensor.put t n c s) s.Stands := by
  unfold Tensor.put
  split <;> grind -ring -linarith -lia -order [!putWhole_stands, !State.regionItem_stands, !putCode_stands, Gives.eq_def,
    State.Stands]

theorem densePosts_stands (s : State) (t w l) : Gives (densePosts t w l s) s.Stands := by
  fun_induction densePosts t w l s <;> grind -ring -linarith -lia -order [densePosts, !Tensor.put_stands, Gives, State.Stands]

theorem putValues_stands (s : State) (t l n) : Gives (putValues t l n s) s.Stands := by
  fun_induction putValues t l n s <;> grind -ring -linarith -lia -order [putValues, !Tensor.put_stands, Gives, State.Stands]

theorem sparsePosts_stands (s : State) (t l n) : Gives (sparsePosts t l n s) s.Stands := by
  fun_induction sparsePosts t l n s <;> grind -ring -linarith -lia -order [sparsePosts, !putValues_stands, Gives, State.Stands]

theorem State.publishHandle_stands (s : State) (l slot gen) : s.Stands (s.publishHandle l slot gen) := by
  have hw : s.orderVector.Stands
      (l.foldl (fun s p => s.commitWrite s.agent p.va.toNat p.pa [p.over (s.byteFor s.agent p.pa)]) s.orderVector) :=
    foldl_stands (fun s p => (s.commitWrite_holds _ _ _ _).stands) l _

  unfold State.publishHandle
  dsimp only
  split <;> split <;> grind -ring -linarith -lia -order [!State.orderVector_stands, !State.publishPuts_holds, !State.settle_holds,
    State.Stands, State.Holds]

theorem State.postHandle_stands (s : State) (e l es) : s.Stands (s.postHandle e l es) := by
  unfold State.postHandle
  split
  · exact State.publishHandle_stands _ _ _ _
  · exact State.post_stands _ _

theorem openStore_stands (s : State) (h ag) : Gives (openStore h ag s) s.Stands := by
  grind -ring -linarith -lia -order [openStore, raise, !State.region_stands, Gives, State.Stands]

theorem hstCheck_stands (s : State) (vs3 e env) : Gives (hstCheck vs3 e env s) s.Stands := by
  unfold hstCheck
  dsimp only
  repeat' split
  all_goals grind -ring -linarith -lia -order [raise, !openStore_stands, !densePosts_stands, !putWhole_stands, !sparsePosts_stands,
    Gives, State.Stands]

theorem hstRun_stands (s : State) (vs3 try_ e) : VRes.Leaves (hstRun vs3 try_ e s) s.Stands := by
  unfold hstRun
  split <;> grind -ring -linarith -lia -order [!State.setC_stands, !State.settle_holds, !State.orderVector_stands,
    !hstCheck_stands, !State.orFlags_stands, !State.postHandle_stands, Gives, State.Holds, State.Stands, VRes.Leaves]

theorem State.performHandle_stands (s : State) (o x last) : s.Stands (s.performHandle o x last) := by
  unfold State.performHandle
  split
  · exact State.publishHandle_stands _ _ _ _
  · exact stands_refl _

/-! ### Tile -/

theorem State.setAcc_stands (s : State) (z v) : s.Stands (s.setAcc z v) := stands_refl _

theorem State.takeUnit_stands (s : State) : May s.takeUnit s.Stands := by
  grind -ring -linarith -lia -order [State.takeUnit, May, State.Stands]

theorem State.queueForUnit_stands (s : State) : s.Stands s.queueForUnit := by
  grind -ring -linarith -lia -order [State.queueForUnit, State.Stands]

theorem State.reloadTile_stands (s : State) : May s.reloadTile s.Stands := by
  grind -ring -linarith -lia -order [State.reloadTile, !State.takeUnit_stands, May, State.Stands]

theorem modetRun_stands (s : State) (req e) : VRes.Leaves (modetRun req e s) s.Stands := by
  grind -ring -linarith -lia -order [modetRun, !State.takeUnit_stands, !State.queueForUnit_stands, May, State.Stands, VRes.Leaves]

theorem modevRun_stands (s : State) : VRes.Leaves (modevRun s) s.Stands := stands_refl _

theorem tshapeRun_stands (s : State) (e) : VRes.Leaves (tshapeRun e s) s.Stands := stands_refl _

theorem tzeroRun_stands (s : State) (z) : VRes.Leaves (tzeroRun z s) s.Stands := stands_refl _

theorem topaRun_stands (s : State) (set neg vb va z e) : VRes.Leaves (topaRun set neg vb va z e s) s.Stands := by
  grind -ring -linarith -lia -order [topaRun, !State.orFlags_stands, !State.setAcc_stands, State.Stands, VRes.Leaves]

theorem panelRow_stands (s : State) (t vt row col count) : Gives (panelRow t vt row col count s) s.Stands := by
  grind -ring -linarith -lia -order [panelRow, !Tensor.codes_stands, !Tensor.values_stands, Gives, State.Stands]

theorem panelRows_stands (s : State) (t vt col count n k) : Gives (panelRows t vt col count n k s) s.Stands := by
  fun_induction panelRows t vt col count n k s <;> grind -ring -linarith -lia -order [panelRows, !panelRow_stands, Gives,
    State.Stands]

theorem readPanel_stands (s : State) (h vt rows count) : Gives (readPanel h vt rows count s) s.Stands := by
  unfold readPanel
  split <;> grind -ring -linarith -lia -order [raise, plainRun, !openTensor_stands, !Tensor.limits_stands, !panelRows_stands,
    Ends.eq_def, Gives.eq_def, State.Stands]

theorem topasRun_stands (s : State) (set neg z e) : VRes.Leaves (topasRun set neg z e s) s.Stands := by
  unfold topasRun
  dsimp only
  repeat' split
  all_goals grind -ring -linarith -lia -order [!readPanel_stands, !tensorTrap_stands, !State.orFlags_stands, !State.setAcc_stands,
    !State.orderVector_stands, Gives.eq_def, State.Stands, VRes.Leaves.eq_def]

theorem tfetchRun_stands (s : State) (va e) : VRes.Leaves (tfetchRun va e s) s.Stands := by
  unfold tfetchRun
  split <;> grind -ring -linarith -lia -order [plainRun, !openTensor_stands, !tensorTrap_stands, !Tensor.limits_stands,
    !Tensor.values_stands, !State.orderVector_stands, !State.orFlags_stands, !setElems_stays, !ungrade_stays, Ends.eq_def,
    Gives.eq_def, State.Stands, VRes.Leaves.eq_def]

theorem tldzGo_stands (s : State) (z n total k v) : VRes.Leaves (tldzGo z n total k v s) s.Stands := by
  fun_induction tldzGo z n total k v s <;> grind -ring -linarith -lia -order [tldzGo, !State.setAcc_stands, !State.read_stands,
    !State.orderVector_stands, Gives.eq_def, State.Stands, VRes.Leaves.eq_def]

theorem tldzRun_stands (s : State) (z limit e) : VRes.Leaves (tldzRun z limit e s) s.Stands := tldzGo_stands _ _ _ _ _ _

theorem tstzGo_stands (s : State) (z n total k v) : VRes.Leaves (tstzGo z n total k v s) s.Stands := by
  fun_induction tstzGo z n total k v s <;> grind -ring -linarith -lia -order [tstzGo, !State.writeItem_stands, Ends.eq_def,
    State.Stands, VRes.Leaves.eq_def]

theorem tstzRun_stands (s : State) (z limit e) : VRes.Leaves (tstzRun z limit e s) s.Stands := tstzGo_stands _ _ _ _ _ _

theorem tdrainWrite_stands (s : State) (z vd e) : s.Stands (tdrainWrite z vd e s) := by
  grind -ring -linarith -lia -order [tdrainWrite, !setElems_stays, !ungrade_stays, State.Stands]

/-! ### Vector effects -/

theorem chainConvert_stands (s : State) (p vs2 code vd e env) : s.Stands (chainConvert p vs2 code vd e env s) :=
  State.writeVector_stands _ _ _ _ _

theorem intEffect_stands (s : State) (i e env) : May (intEffect i e env s) s.Stands := by
  unfold intEffect
  split <;> grind -ring -linarith -lia -order [!vecInt_stands, May, State.Stands]

theorem fpEffect_stands (s : State) (i e env) : May (fpEffect i e env s) s.Stands := by
  unfold fpEffect
  split <;> grind -ring -linarith -lia -order [!vecFp_stands, !vecMinMax_stands, !chainConvert_stands, !vecCvt_stands,
    !vecSgnj_stands, !vecRsqrte_stands, !vecClass_stands, !vecMix_stands, !vecDot4_stands, !vecMerge_stands, May, State.Stands]

theorem predEffect_stands (s : State) (i e env) : May (predEffect i e env s) s.Stands := by
  unfold predEffect
  split <;> grind -ring -linarith -lia -order [!predOp_stands, !predMerge_stands, !vecCompare_stands, !vecFpCompare_stands, May,
    State.Stands]

theorem permEffect_stands (s : State) (i e env) : May (permEffect i e env s) s.Stands := by
  unfold permEffect
  split <;> grind -ring -linarith -lia -order [!vecStep_stands, !vecXch_stands, !vecSlideUp_stands, !vecSlideDn_stands,
    !vecGather_stands, !vecCompress_stands, !vecConf_stands, !vecReduce_stands, !vecToX_stands, !vecFromScalar_stands,
    !vecPopc_stands, !vecFirst_stands, May, State.Stands]

theorem vectorEffect_stands (s : State) (i e env) : May (vectorEffect i e env s) s.Stands := by
  grind -ring -linarith -lia -order [vectorEffect, !intEffect_stands, !fpEffect_stands, !predEffect_stands, !permEffect_stands,
    May, State.Stands]

/-! ### Lane mode -/

theorem State.performElement_stands (s : State) (oi xi) : May (s.performElement oi xi) s.Stands := by
  grind -ring -linarith -lia -order [State.performElement, !State.orderVector_stands, !State.performHandle_stands,
    !State.performPosted_stands, !State.deliver_holds, May, State.Holds, State.Stands]

theorem State.performSome_stands (s : State) (n) : s.Stands (State.performSome n s) := by
  fun_induction State.performSome n s <;> grind -ring -linarith -lia -order [State.performSome, !State.performElement_stands, May,
    State.Stands]

theorem State.performAll_stands (s : State) : s.Stands s.performAll := State.performSome_stands _ _

theorem fetchBlock_stands (s : State) (le n x l) : s.Stands (fetchBlock le n x l s).2 := by
  fun_induction fetchBlock le n x l s <;> grind -ring -linarith -lia -order [fetchBlock, !State.fetch_stands, Gives, State.Stands]

theorem groupMemory_stands (s : State) (w e g) : GroupRes.Leaves (groupMemory w e g s) s.Stands := by
  unfold groupMemory
  dsimp only
  split <;> grind -ring -linarith -lia -order [!memReady_stands, !commitLoad_stands, !storeItem_stands, !loadItem_stands, Gives,
    GroupRes.Leaves, State.Stands]

theorem groupChecks_stands (s : State) (w e env l x r) : MayGive (groupChecks w e env l x r s) s.Stands := by
  fun_induction groupChecks w e env l x r s <;> grind -ring -linarith -lia -order [groupChecks, !postChecks_stands, MayGive.eq_def,
    State.Stands]

theorem groupPost_stands (s : State) (w e g) : GroupRes.Leaves (groupPost w e g s) s.Stands := by
  unfold groupPost
  dsimp only
  split
  · exact stands_refl s
  · next g l u hc =>
    have hu : s.Stands u := by
      split at hc <;> grind -ring -linarith -lia -order [!groupChecks_stands, State.Stands, MayGive]
    have hp := u.postAll_stands
    split <;> grind -ring -linarith -lia -order [!State.orderVector_stands, GroupRes.Leaves, Ends.eq_def, State.Stands]

theorem groupEffect_stands (s : State) (e g) : GroupRes.Leaves (groupEffect e g s) s.Stands := by
  grind -ring -linarith -lia -order [groupEffect, !vectorEffect_stands, GroupRes.Leaves, May, State.Stands]

theorem groupStep_stands (s : State) (v g) : ∀ r, groupStep v g s = some r → GroupRes.Leaves r s.Stands := by
  grind -ring -linarith -lia -order [groupStep, !groupMemory_stands, !groupPost_stands, !groupEffect_stands, GroupRes.Leaves,
    State.Stands]

theorem startGroup_stands (s : State) (v a ls) : s.Stands (startGroup v a ls s).2 := by
  grind -ring -linarith -lia -order [startGroup, !fetchBlock_stands, State.Stands]

theorem endGroup_stands (s : State) (v g) : s.Stands (endGroup v g s).2 := stands_refl _

theorem laneOutcome_stands (s : State) (v) : VRes.Leaves (laneOutcome v s) s.Stands := by
  unfold laneOutcome
  split <;> exact stands_refl _

theorem vblkGo_stands (s : State) (n v) : VRes.Leaves (vblkGo n v s) s.Stands := by
  fun_induction vblkGo n v s with
  | case1 v s => exact laneOutcome_stands s v
  | case2 v s => exact stands_refl s
  | case3 n v s g hg hs r ih => exact .trans (endGroup_stands s v g) ih
  | case4 n v s g hg g' u hs ih => exact .trans (groupStep_stands s v g _ hs) ih
  | case5 n v s g hg g' u hs => exact groupStep_stands s v g _ hs
  | case6 n v s a ls hg hn r ih => exact .trans (startGroup_stands s v _ _) ih
  | case7 n v s => exact laneOutcome_stands s v

theorem vblkRun_stands (s : State) (imm limit v) : VRes.Leaves (vblkRun imm limit v s) s.Stands := by
  grind -ring -linarith -lia -order [vblkRun, !vblkGo_stands, State.Stands, VRes.Leaves]

/-! ### The scalar queue -/

theorem State.amoWrite_stands (s : State) (va pa n operand new) : s.Stands (s.amoWrite va pa n operand new) :=
  stands_trans (State.digested_holds _ _ _ _).stands (State.physWrite_holds _ _ _).stands

theorem State.ifenceStep_stands (s : State) (scope range) : s.Stands (State.ifenceStep scope range s) :=
  stands_trans (State.orderThread_stands _) (State.mapCores_holds _ _).stands

theorem State.wakeSelect_stands (s : State) (scope ea pa n rd) : s.Stands (State.wakeSelect scope ea pa n rd s) :=
  stands_trans (State.orderThread_stands _) (State.setX_stands _ _ _)

theorem State.queryStep_stands (s : State) (a bs rd) : s.Stands (State.queryStep a bs rd s) :=
  stands_trans (State.orderThread_stands _) (State.setX_stands _ _ _)

theorem State.holdRay_stands (s : State) (a r d) : s.Stands (State.holdRay a r d s) := by
  unfold State.holdRay
  split <;> exact stands_refl _

theorem State.resumeAt_stands (s : State) (a pa bs d rd) : s.Stands (State.resumeAt a pa bs d rd s) := by
  grind -ring -linarith -lia -order [State.resumeAt, !State.setX_stands, !State.orderThread_stands, !State.holdRay_stands,
    !State.commitWrite_holds, State.Holds, State.Stands]

theorem State.performScalar_stands (s : State) (a) : s.Stands (s.performScalar a) := by
  grind -ring -linarith -lia -order [State.performScalar, !State.setX_stands, !State.orderThread_stands, !State.setF_stands,
    !State.commitWrite_holds, !State.amoWrite_stands, !State.ifenceStep_stands, !State.wakeSelect_stands, !State.queryStep_stands,
    !State.resumeAt_stands, State.Holds, State.Stands]

theorem State.checkScalar_keeps (s : State) (a) : Gives (s.checkScalar a) s.Keeps := by
  grind -ring -linarith -lia -order [State.checkScalar, raise, !State.translate_holds, !State.checkLine_holds, Ends, Gives,
    State.Holds, State.Keeps]

theorem State.checkPieces_keeps (s : State) (l) : Gives (s.checkPieces l) s.Keeps := by
  fun_induction State.checkPieces s l <;> grind -ring -linarith -lia -order [State.checkPieces, !State.translate_holds,
    !State.checkLine_holds, Ends, Gives, State.Holds, State.Keeps]

theorem State.queueScalar_keeps (s : State) (a) : s.Keeps (s.queueScalar a) := id

theorem State.scalarStep_stands (s : State) : May s.scalarStep s.Stands := by
  grind -ring -linarith -lia -order [State.scalarStep, !State.performScalar_stands, May, State.Stands]

theorem State.scalarGo_stands (s : State) (n) : s.Stands (State.scalarGo n s) := by
  fun_induction State.scalarGo n s <;> grind -ring -linarith -lia -order [State.scalarGo, !State.scalarStep_stands, May,
    State.Stands]

theorem State.flushScalars_stands (s : State) : s.Stands s.flushScalars := State.scalarGo_stands _ _

theorem State.accessScalar_keeps (s : State) (a) : Ends (s.accessScalar a) s.Keeps := by
  grind -ring -linarith -lia -order [State.accessScalar, hold, !State.checkScalar_keeps, !State.queueScalar_keeps,
    !State.performScalar_stands, Ends, Gives, State.Keeps, State.Stands]

theorem State.settleLine_keeps (s : State) (line) : s.Keeps (s.settleLine line) := by
  refine foldl_keeps (fun s e => ?_) _ s
  split
  · exact id
  · refine s.during_keeps e.1 fun u => ?_
    split
    · exact (u.scalarGo_stands _).keeps
    · exact id

theorem State.beforeError_keeps (s : State) (line) {f} (h : ∀ u : State, u.Keeps (f u)) : s.Keeps (s.beforeError line f) := by
  have hl := s.settleLine_keeps line
  have hu := h (s.settleLine line)
  grind -ring -linarith -lia -order [State.beforeError, State.Keeps]

/-! ### Queue -/

theorem chainRun_stands (s : State) (l) : s.Stands (chainRun l s) := by
  fun_induction chainRun l s <;> grind -ring -linarith -lia -order [chainRun, !vectorEffect_stands, May.eq_def, State.Stands]

theorem tdrainRun_stands (s : State) (n z vd e) : VRes.Leaves (tdrainRun n z vd e s) s.Stands := by
  grind -ring -linarith -lia -order [tdrainRun, !chainRun_stands, !tdrainWrite_stands, State.Stands, VRes.Leaves]

theorem elementGroups_stands (s : State) (limit e) : MayGive (elementGroups limit e s) s.Stands := by
  unfold elementGroups
  split <;> grind -ring -linarith -lia -order [!vectorEffect_stands, May.eq_def, MayGive.eq_def, State.Stands]

theorem effectRun_stands (s : State) (limit e) : ∀ r, effectRun limit e s = some r → VRes.Leaves r s.Stands := by
  grind -ring -linarith -lia -order [effectRun, !State.orFlags_stands, !elementGroups_stands, !vectorEffect_stands, May.eq_def,
    MayGive.eq_def, State.Stands, VRes.Leaves.eq_def]

theorem redoRun_stands (s : State) (limit p f vs2 s1 vd e) : VRes.Leaves (redoRun limit p f vs2 s1 vd e s) s.Stands := by
  unfold redoRun
  split <;> grind -ring -linarith -lia -order [!vecRedo_stands, State.Stands, VRes.Leaves]

theorem gradedHead_stands (s : State) (e) : VRes.Leaves (gradedHead e s) s.Stands := by
  have hg := gradedRun_stands s e.instr e s.t.env
  unfold gradedHead
  split
  · next u hu => exact hg _ hu
  · exact stands_refl s
  · exact stands_refl s

/-- The run of a word that `entryRun` does not name: a memory word, a scatter, an effect on registers, or a graded word. -/
def otherRun (i : Instr) (limit : Option Nat) (e : VEntry) (s : State) : VRes :=
  match memWord i, postWord i (entryEnv s.t e) with
  | some w, _ => memRun w limit e s
  | none, some w => postRun w e s
  | none, none => match effectRun limit e s with
    | some r => r
    | none => gradedHead e s

theorem otherRun_stands (s : State) (i limit e) : VRes.Leaves (otherRun i limit e s) s.Stands := by
  have heff := effectRun_stands s limit e
  unfold otherRun
  split
  · exact memRun_stands s _ limit e
  · exact postRun_stands s _ e
  · split
    · next r hr => exact heff r hr
    · exact gradedHead_stands s e

theorem entryRun_stands (s : State) (limit e) : VRes.Leaves (entryRun limit e s) s.Stands := by
  unfold entryRun
  cases hi : e.instr with
  | vsetvl | vsetvli => exact stands_refl s
  | modet => exact modetRun_stands s _ e
  | modev => exact modevRun_stands s
  | fsv | fvv => dsimp only; split <;> exact stands_refl s
  | vblk => exact vblkRun_stands s _ limit e
  | tzero => exact tzeroRun_stands s _
  | topa => exact topaRun_stands s _ _ _ _ _ e
  | topas => exact topasRun_stands s _ _ _ e
  | tdrain => exact tdrainRun_stands s _ _ _ e
  | tldz => exact tldzRun_stands s _ limit e
  | tstz => exact tstzRun_stands s _ limit e
  | tshape => exact tshapeRun_stands s e
  | tfetch => exact tfetchRun_stands s _ e
  | hld => exact hldRun_stands s _ e
  | hst => exact hstRun_stands s _ none e
  | hstTry => exact hstRun_stands s _ (some _) e
  | vfredo => exact redoRun_stands s limit _ _ _ _ _ e
  | vfcvt =>
    dsimp only
    split
    · exact stands_refl s
    · have heff := effectRun_stands s limit e
      cases hr : effectRun limit e s with
      | none => exact stands_refl s
      | some r => exact heff r hr
  | _ =>
    have hr := otherRun_stands s e.instr limit e
    rw [hi] at hr
    exact hr

theorem State.headArrives_stands (s : State) : s.Stands s.headArrives := by
  grind -ring -linarith -lia -order [State.headArrives, !State.queueForUnit_stands, State.Stands]

theorem State.commitHead_stands (s : State) (e) : s.Stands (State.commitHead e s) := by
  grind -ring -linarith -lia -order [State.commitHead, !State.headArrives_stands, !State.advance_stands, State.Stands]

theorem State.keepHead_stands (s : State) (e) : s.Stands (State.keepHead e s) := stands_refl _

theorem State.headTrap_stands (s : State) (e c val lane group) : s.Stands (State.headTrap e c val lane group s) :=
  State.takeTrap_stands _ _

theorem State.moveHead_stands (s : State) (limit) : HeadRes.Leaves (State.moveHead limit s) s.Stands := by
  unfold State.moveHead
  split <;> grind -ring -linarith -lia -order [!State.reloadTile_stands, !State.queueForUnit_stands, !entryRun_stands,
    !State.commitHead_stands, !State.keepHead_stands, !State.flushScalars_stands, !State.faultGroup_stands, !State.headTrap_stands,
    HeadRes.Leaves.eq_def, May.eq_def, State.Stands, VRes.Leaves.eq_def]

theorem State.stepAhead_keeps (s : State) (k) : May (State.stepAhead k s) s.Keeps := by
  grind [State.stepAhead, !elementGroups_stands, May.eq_def, MayGive.eq_def, State.Keeps, State.Stands]

theorem State.drain_keeps (s : State) (n) : s.Keeps (State.drain n s) := by
  fun_induction State.drain n s <;> grind -ring -linarith -lia -order [State.drain, !State.moveHead_stands, HeadRes.Leaves,
    State.Keeps, State.Stands]

theorem State.settleGo_keeps (s : State) (n) : s.Keeps (State.settleGo n s) := by
  fun_induction State.settleGo n s <;> grind -ring -linarith -lia -order [State.settleGo, !State.drain_keeps,
    !State.performAll_stands, !State.flushScalars_stands, State.Keeps, State.Stands]

theorem State.settleQueue_keeps (s : State) : s.Keeps s.settleQueue := State.settleGo_keeps _ _

theorem State.boundaryGo_stands (s : State) (n) : s.Stands (State.boundaryGo n s) := by
  fun_induction State.boundaryGo n s <;> grind -ring -linarith -lia -order [State.boundaryGo, !State.moveHead_stands,
    HeadRes.Leaves, State.Stands]

theorem State.toBoundary_stands (s : State) : s.Stands s.toBoundary := State.boundaryGo_stands _ _

theorem takeHstToken_keeps (s : State) (rd e) : Gives (takeHstToken rd e s) s.Keeps := by
  unfold takeHstToken
  split <;> exact id

theorem issueToken_keeps (s : State) (i e) : Gives (issueToken i e s) s.Keeps := by
  unfold issueToken
  split <;> grind -ring -linarith -lia -order [!takeHstToken_keeps, Gives, State.Keeps]

theorem State.afterIssue_keeps (s : State) (i) : s.Keeps (State.afterIssue i s) := by
  grind -ring -linarith -lia -order [State.afterIssue, !State.settleQueue_keeps, State.Keeps]

theorem issue_keeps (s : State) (i) : Leads (issue i s) s.Keeps := by
  unfold issue
  split
  · split
    · exact s.advance_stands.keeps
    · exact finish_keeps id
  · split
    · exact s.afterIssue_keeps i
    · split
      · exact finish_keeps id
      · next e chain _ =>
        split
        · exact finish_keeps id
        · have hi := issueToken_keeps s i e
          split
          · next x hx =>
            rw [hx] at hi
            exact finish_keeps hi
          · next e u hx =>
            rw [hx] at hi
            dsimp only
            grind -ring -linarith -lia -order [!State.advance_stands, !State.headArrives_stands, !State.afterIssue_keeps, Leads,
              Gives, State.Keeps, State.Stands]

theorem State.stand_keeps (s : State) : s.Keeps s.stand := id

theorem State.precise_keeps (s : State) {try_ : State → Out} (h : ∀ u : State, Leads (try_ u) u.Keeps) :
    Leads (s.precise try_) s.Keeps := by
  have hs := h s
  have hu := h s.toBoundary
  grind -ring -linarith -lia -order [State.precise, !State.stand_keeps, !State.toBoundary_stands, Leads.eq_def, State.Keeps,
    State.Stands]

/-! ### Sync -/

theorem execFvs_keeps (s : State) : Leads (execFvs s) s.Keeps := by
  unfold execFvs
  split <;> exact id

theorem execFvv_keeps (s : State) : Leads (execFvv s) s.Keeps := by
  unfold execFvv
  split
  · exact finish_keeps id
  · split
    · have hc := s.commitPoint_keeps
      split <;> grind -ring -linarith -lia -order [!finish_keeps, !issue_keeps, !State.nextSegment_keeps, Leads.eq_def, Gives,
        Ends, State.Keeps]
    · exact issue_keeps s .fvv

theorem dfenceStep_keeps (s : State) (scope) : Ends (dfenceStep scope s) s.Keeps := by
  unfold dfenceStep
  split <;> exact id

theorem execDfence_keeps (s : State) (scope) : Leads (execDfence scope s) s.Keeps := by
  refine finish_keeps ?_
  split
  · exact s.committing_keeps (dfenceStep_keeps · scope)
  · split
    · exact id
    · exact dfenceStep_keeps s scope

theorem execIfence_keeps (s : State) (scope rs2 rs1) : Leads (execIfence scope rs2 rs1 s) s.Keeps := by
  grind -ring -linarith -lia -order [execIfence, !State.advance_stands, !State.queueScalar_keeps, !State.performScalar_stands,
    Leads, State.Keeps, State.Stands]

theorem execIsync_keeps (s : State) : Leads (execIsync s) s.Keeps := id

theorem State.setBarrierOf_keeps (s : State) (n k b) : s.Keeps (s.setBarrierOf n k b) := State.setCtx_keeps _ _ _ (.inl (by rfl))

theorem State.setBarrier_keeps (s : State) (k b) : s.Keeps (s.setBarrier k b) := State.setBarrierOf_keeps _ _ _ _

theorem State.releaseBarrier_keeps (s : State) (n k) : s.Keeps (s.releaseBarrier n k) :=
  (State.setEvents_keeps _ _) ∘ (State.setBarrierOf_keeps _ _ _ _)

theorem State.releaseGang_keeps (s : State) (n b) : s.Keeps (s.releaseGang n b) := by
  unfold State.releaseGang
  dsimp only
  split
  · exact State.releaseBarrier_keeps _ _ _ ∘ State.setCtx_keeps _ _ _ (.inl (by rfl))
  · exact id

theorem execBset_keeps (s : State) (level rs2 rs1) : Leads (execBset level rs2 rs1 s) s.Keeps := by
  grind -ring -linarith -lia -order [execBset, finish, barrierFault, raise, !State.takeTrap_stands, !State.advance_stands,
    !State.setBarrier_keeps, !State.orderThread_stands, Leads.eq_def, State.Keeps, State.Stands]

theorem State.arrive_keeps (s : State) (l b k rd) : s.Keeps (s.arrive l b k rd) := by
  grind -ring -linarith -lia -order [State.arrive, !State.advance_stands, !State.setX_stands, !State.setBarrier_keeps,
    !State.order_holds, !State.send_keeps, !State.releaseGang_keeps, !State.releaseBarrier_keeps, State.Holds, State.Keeps,
    State.Stands]

theorem barvStep_keeps (s : State) (level rs1 rd) : Ends (barvStep level rs1 rd s) s.Keeps := by
  grind -ring -linarith -lia -order [barvStep, hold, barrierFault, raise, !State.arrive_keeps, Ends, State.Keeps]

theorem bwaitStep_keeps (s : State) (l b phase) : Ends (bwaitStep l b phase s) s.Keeps := by
  grind -ring -linarith -lia -order [bwaitStep, barrierFault, raise, !State.advance_stands, Ends, State.Keeps, State.Stands]

theorem bwaitResume_keeps (s : State) (w) : Ends (bwaitResume w s) s.Keeps := bwaitStep_keeps _ _ _ _

theorem parkRead_keeps (s : State) (rd ea expected woken) : Ends (parkRead rd ea expected woken s) s.Keeps := by
  grind -ring -linarith -lia -order [parkRead, hold, !State.translate_holds, !scalarRead_keeps, !State.advance_stands,
    !State.setX_stands, Ends, Gives, State.Holds, State.Keeps, State.Stands]

theorem parkStep_keeps (s : State) (rs2 rs1 rd) : Ends (parkStep rs2 rs1 rd s) s.Keeps := by
  grind -ring -linarith -lia -order [parkStep, raise, !parkRead_keeps, Ends, State.Keeps]

theorem parkResume_keeps (s : State) (w) : Ends (parkResume w s) s.Keeps := by
  grind -ring -linarith -lia -order [parkResume, !parkRead_keeps, Ends, State.Keeps]

theorem wakeStep_keeps (s : State) (scope rs2 rs1 rd) : Ends (wakeStep scope rs2 rs1 rd s) s.Keeps := by
  grind -ring -linarith -lia -order [wakeStep, raise, !State.translate_holds, !State.advance_stands, !State.queueScalar_keeps,
    !State.performScalar_stands, Ends, Gives, State.Holds, State.Keeps, State.Stands]

/-! ### Engines -/

theorem State.dropOp_holds (s : State) (o) : s.Holds (s.dropOp o) := by
  grind -ring -linarith -lia -order [State.dropOp, !State.takeScores_holds, !State.setCore_holds, State.Holds]

theorem State.addNode_keeps (s : State) (ctx parent c key) : s.Keeps (s.addNode ctx parent c key).1 := by
  unfold State.addNode
  dsimp only
  split
  · split
    · exact id
    · exact State.setCtx_keeps { s with nextOp := s.nextOp + 1 } ctx _ (.inl rfl)
  · exact id

theorem State.newChild_keeps (s : State) : s.Keeps (s.newChild).1 := by
  grind -ring -linarith -lia -order [State.newChild, !State.addNode_keeps, State.Keeps]

theorem enterOp_keeps (s : State) (i) : Ends (enterOp i s) s.Keeps := by
  grind -ring -linarith -lia -order [enterOp, raise, !State.orderThread_stands, !State.newChild_keeps, !State.advance_stands,
    !State.setX_stands, !State.takeScore_holds, Ends, State.Holds, State.Keeps, State.Stands]

theorem engineResume_keeps (s : State) (w) : Ends (engineResume w s) s.Keeps := enterOp_keeps _ _

theorem readBlock_keeps (s : State) (c) : Gives (readBlock c s) s.Keeps := by
  grind -ring -linarith -lia -order [readBlock, raise, !scalarRead_keeps, Gives, State.Keeps]

theorem fork_keeps (s : State) (k explicit rs1 rd) : Leads (fork k explicit rs1 rd s) s.Keeps := by
  refine finish_keeps (s.committing_keeps fun u => ?_)
  grind -ring -linarith -lia -order [!readBlock_keeps, !enterOp_keeps, Ends.eq_def, Gives, State.Keeps, State.Stands]

theorem execCpy_keeps (s : State) (explicit rs2 rs1 rd) : Leads (execCpy explicit rs2 rs1 rd s) s.Keeps :=
  finish_keeps (s.committing_keeps fun u => enterOp_keeps u _)

theorem State.writeStatusBlock_holds (s : State) (o st c result) : s.Holds (s.writeStatusBlock o st c result) := by
  grind -ring -linarith -lia -order [State.writeStatusBlock, !State.write_holds, Ends, State.Holds]

theorem State.closeOp_holds (s : State) (o st c result) : s.Holds (s.closeOp o st c result) := by
  grind -ring -linarith -lia -order [State.closeOp, !State.deliver_holds, !State.settle_holds, !State.dropOp_holds,
    !State.writeStatusBlock_holds, State.Holds]

theorem State.finalOp_keeps (s : State) (o st c result) : s.Keeps (s.finalOp o st c result) :=
  (State.closeOp_holds _ _ _ _ _).keeps ∘ (State.order_holds _).keeps

theorem State.failOp_keeps (s : State) (o c a) : s.Keeps (s.failOp o c a) := id

theorem State.stopOp_keeps (s : State) (o x acc parts) : s.Keeps (s.stopOp o x acc parts) := by
  unfold State.stopOp
  split <;> exact id

theorem State.autoPublish_keeps (s : State) (o) : May (s.autoPublish o) s.Keeps := by
  grind -ring -linarith -lia -order [State.autoPublish, !State.setOp_holds, !State.publishPuts_holds, !State.order_holds, May,
    State.Holds, State.Keeps]

theorem State.readyOp_keeps (s : State) (o) : May (s.readyOp o) s.Keeps := by
  grind -ring -linarith -lia -order [State.readyOp, !State.order_holds, !State.deliver_holds, !State.settle_holds,
    !State.setOp_holds, !State.writeStatusBlock_holds, May, State.Holds, State.Keeps]

theorem State.finishOp_keeps (s : State) (o) : May (s.finishOp o) s.Keeps := by
  grind -ring -linarith -lia -order [State.finishOp, !State.finalOp_keeps, May, State.Keeps]

theorem State.destParts_keeps (s : State) (ag l) : Gives (s.destParts ag l) s.Keeps := by
  fun_induction State.destParts s ag l <;> grind -ring -linarith -lia -order [State.destParts, !State.translate_holds, Gives,
    State.Holds, State.Keeps]

theorem State.startCopy_keeps (s : State) (o) : May (s.startCopy o) s.Keeps := by
  grind -ring -linarith -lia -order [State.startCopy, !State.failOp_keeps, !State.setOp_holds, !State.destParts_keeps,
    !State.stopOp_keeps, Gives, May, State.Holds, State.Keeps]

theorem State.copyRead_keeps (s : State) (o) : May (s.copyRead o) s.Keeps := by
  grind -ring -linarith -lia -order [State.copyRead, !State.read_stands, !State.stopOp_keeps, !State.setOp_holds,
    !State.order_holds, Gives, May, State.Holds, State.Keeps, State.Stands]

theorem State.copyAccess_keeps (s : State) (o) : May (s.copyAccess o) s.Keeps := by
  grind -ring -linarith -lia -order [State.copyAccess, !State.startCopy_keeps, !State.copyRead_keeps, May, State.Keeps]

theorem State.copyWrite_keeps (s : State) (o) : May (s.copyWrite o) s.Keeps := by
  grind -ring -linarith -lia -order [State.copyWrite, !State.setOp_holds, !State.order_holds, May, State.Holds, State.Keeps]

theorem State.retireCopy_keeps (s : State) (o) : May (s.retireCopy o) s.Keeps := by
  grind -ring -linarith -lia -order [State.retireCopy, !State.order_holds, !State.closeOp_holds, !State.publishPuts_holds,
    !State.quarantine_holds, May, State.Holds, State.Keeps]

theorem execRdv_keeps (s : State) (rs1 rd) : Leads (execRdv rs1 rd s) s.Keeps := by
  grind -ring -linarith -lia -order [execRdv, finish, hold, !State.advance_stands, !State.setX_stands, Leads, State.Keeps,
    State.Stands]

theorem cwaitStep_keeps (s : State) (result token rd limit) : Ends (cwaitStep result token rd limit s) s.Keeps := by
  grind -ring -linarith -lia -order [cwaitStep, !State.advance_stands, !State.setX_stands, Ends, State.Keeps, State.Stands]

theorem State.cwaitExpire_keeps (s : State) : May s.cwaitExpire s.Keeps := by
  grind -ring -linarith -lia -order [State.cwaitExpire, !State.advance_stands, !State.setX_stands, May, State.Keeps, State.Stands]

theorem cwaitResume_keeps (s : State) (w) : Ends (cwaitResume w s) s.Keeps := by
  grind -ring -linarith -lia -order [cwaitResume, !State.cwaitExpire_keeps, !cwaitStep_keeps, Ends, May, State.Keeps]

theorem execCtest_keeps (s : State) (rs1 cd) : Leads (execCtest rs1 cd s) s.Keeps := id

/-! ### Message -/

theorem State.enqueue_keeps (s : State) (ctx q src cls payload check) : s.Keeps (s.enqueue ctx q src cls payload check) :=
  State.setEvents_keeps _ _ ∘ State.setCtx_keeps _ _ _ (.inl (by rfl)) ∘ s.order_holds.keeps

theorem State.sendOut_keeps (s : State) (o) : s.Keeps (s.sendOut o) := id

theorem sendMessage_keeps (s : State) (dest payload rd) : Ends (sendMessage dest payload rd s) s.Keeps := by
  grind -ring -linarith -lia -order [sendMessage, raise, !State.sendOut_keeps, !State.advance_stands, !State.setX_stands, Ends,
    State.Keeps, State.Stands]

theorem execMsend_keeps (s : State) (len rs2 rs1 rd) : Leads (execMsend len rs2 rs1 rd s) s.Keeps := by
  refine finish_keeps (s.committing_keeps fun u => ?_)
  grind -ring -linarith -lia -order [raise, !scalarRead_keeps, !sendMessage_keeps, Ends.eq_def, Gives, State.Keeps]

theorem dequeue_keeps (s : State) (b q rd) : Ends (dequeue b q rd s) s.Keeps := by
  unfold dequeue
  split
  · exact id
  · split
    · exact State.badEntry_keeps _ _ _ ∘ (id : s.Keeps { s with ctx := _ })
    · grind -ring -linarith -lia -order [Context.setQueue, !scalarWrite_keeps, !State.setX_stands, !State.advance_stands,
      Ends.eq_def, State.Keeps, State.Stands]

theorem mrecvStep_keeps (s : State) (try_ rs2 rs1 rd) : Ends (mrecvStep try_ rs2 rs1 rd s) s.Keeps := by
  grind -ring -linarith -lia -order [mrecvStep, raise, !State.checkStore_keeps, !State.advance_stands, !State.setX_stands,
    !dequeue_keeps, Ends.eq_def, State.Keeps, State.Stands]

theorem mrecvResume_keeps (s : State) (w) : Ends (mrecvResume w s) s.Keeps := dequeue_keeps _ _ _ _

theorem State.messageDone_keeps (s : State) (m) : s.Keeps (s.messageDone m) := by
  unfold State.messageDone
  split
  · exact (State.dropOp_holds _ _).keeps ∘ (State.settle_holds _ _ _ _ _ _ _ _).keeps
  · exact id

theorem State.deliverAt_keeps (s : State) (i) : May (s.deliverAt i) s.Keeps := by
  grind -ring -linarith -lia -order [State.deliverAt, !State.messageDone_keeps, !State.order_holds, !State.enqueue_keeps, May,
    State.Holds, State.Keeps]

theorem execMessageDelivery_keeps (s : State) (msg) : Leads (execMessageDelivery msg s) s.Keeps := by
  grind -ring -linarith -lia -order [execMessageDelivery, !State.deliverAt_keeps, Leads.eq_def, May.eq_def, State.Keeps]

theorem State.passStamp_keeps (s : State) (n) : s.Keeps (s.passStamp n) := id

theorem execHostMessage_keeps (s : State) (header payload) : Leads (execHostMessage header payload s) s.Keeps := by
  grind -ring -linarith -lia -order [execHostMessage, !State.drop_keeps, !State.enqueue_keeps, !State.report_holds,
    !State.order_holds, !State.passStamp_keeps, Leads, State.Holds, State.Keeps]

/-! ### Pipelines -/

theorem State.startThread_keeps (s : State) (pos cls t) : s.Keeps (s.startThread pos cls t) :=
  (State.placeThread_keeps _ _ _) ∘ (State.setCore_holds _ _ _).keeps

theorem State.setPipe_keeps (s : State) (p) : s.Keeps (s.setPipe p) := id

theorem pushStep_keeps (s : State) (p st a) : Ends (pushStep p st a s) s.Keeps := by
  grind -ring -linarith -lia -order [pushStep, !scalarRead_keeps, !State.newChild_keeps, !State.setPipe_keeps, Ends, Gives,
    State.Keeps]

theorem emitCheck_keeps (s : State) (rs2 rs1) : Gives (emitCheck rs2 rs1 s) s.Keeps := by
  grind -ring -linarith -lia -order [emitCheck, raise, !State.checkLoad_keeps, Ends, Gives, State.Keeps]

theorem execEmit_keeps (s : State) (rs2 rs1) : Leads (execEmit rs2 rs1 s) s.Keeps := by
  refine finish_keeps ?_
  grind -ring -linarith -lia -order [!emitCheck_keeps, !pushStep_keeps, !State.advance_stands, Ends.eq_def, Gives, State.Keeps,
    State.Stands]

theorem execEmitTry_keeps (s : State) (cd rs2 rs1) : Leads (execEmitTry cd rs2 rs1 s) s.Keeps := by
  refine finish_keeps ?_
  grind -ring -linarith -lia -order [!emitCheck_keeps, !pushStep_keeps, !State.setC_stands, !State.advance_stands, Ends.eq_def,
    Gives, State.Keeps, State.Stands]

theorem emitResume_keeps (s : State) (w) : Ends (emitResume w s) s.Keeps := by
  grind -ring -linarith -lia -order [emitResume, !pushStep_keeps, !State.advance_stands, Ends, State.Keeps, State.Stands]

theorem State.release_keeps (s : State) : s.Keeps s.release := by
  grind -ring -linarith -lia -order [State.release, !State.stir_holds, State.Holds, State.Keeps]

theorem State.resize_keeps (s : State) (width) : s.Keeps (s.resize width) := id

theorem State.beginTask_keeps (s : State) (st r) : s.Keeps (s.beginTask st r) := id

theorem takeStep_keeps (s : State) (p st b cd w) : Ends (takeStep p st b cd w s) s.Keeps := by
  grind -ring -linarith -lia -order [takeStep, raise, !State.badEntry_keeps, !State.setPipe_keeps, !scalarWrite_keeps,
    !State.resize_keeps, !State.complete_stands, !State.setC_stands, !State.beginTask_keeps, !State.beginSegment_keeps, Ends,
    State.Keeps, State.Stands]

theorem takeDecide_keeps (s : State) (w) : Ends (takeDecide w s) s.Keeps := by
  unfold takeDecide
  split <;> grind -ring -linarith -lia -order [!State.advance_stands, !State.setC_stands, !takeStep_keeps, !State.setPipe_keeps,
    Ends.eq_def, State.Keeps, State.Stands]

theorem takeBody_keeps (s : State) (rs1 cd) : Ends (takeBody rs1 cd s) s.Keeps := by
  grind -ring -linarith -lia -order [takeBody, raise, !State.checkStore_keeps, !takeDecide_keeps, !State.release_keeps,
    Ends.eq_def, State.Keeps]

theorem takeResume_keeps (s : State) (w) : Ends (takeResume w s) s.Keeps := by
  grind -ring -linarith -lia -order [takeResume, !takeDecide_keeps, !takeStep_keeps, Ends, State.Keeps]

theorem State.performHeld_keeps (s : State) (ctx a) : s.Keeps (s.performHeld ctx a).2 := by
  grind -ring -linarith -lia -order [State.performHeld, !State.checkAdd_holds, !State.physWrite_holds, State.Holds, State.Keeps]

theorem State.performAdds_keeps (s : State) (ctx launch) : s.Keeps (s.performAdds ctx launch).2 := by
  have hr : ∀ (l : List HeldAdd) (x : Flags × State),
      x.2.Keeps (l.foldl (fun (x : Flags × State) a => let y := x.2.performHeld ctx a; (x.1 ||| y.1, y.2)) x).2 := by
    intro l
    induction l with
    | nil => exact fun _ => id
    | cons a l ih => exact fun x => ih (x.1 ||| (x.2.performHeld ctx a).1, (x.2.performHeld ctx a).2) ∘ x.2.performHeld_keeps ctx a
  exact State.setCtx_keeps _ _ _ (.inl (by rfl)) ∘ hr _ (0, s)

theorem State.rayNodes_keeps (s : State) (o) : s.Keeps (s.rayNodes o) := by
  unfold State.rayNodes
  split
  · exact foldl_keeps (fun s i => s.addNode_keeps o.ctx o.node (i + 1) (rayKey o i)) _ s
  · exact id

theorem State.queuedRays_keeps (s : State) (launch) : s.Keeps (s.queuedRays launch) := foldl_keeps State.rayNodes_keeps _ s

theorem State.endLaunch_keeps (s : State) (o) : s.Keeps (s.endLaunch o) := by
  grind -ring -linarith -lia -order [State.endLaunch, !State.queuedRays_keeps, !State.performAdds_keeps, !State.order_holds,
    !State.deliver_holds, !State.checkDigest_keeps, !State.finalOp_keeps, !State.endContext_stands, State.Holds, State.Keeps,
    State.Stands]

theorem State.orphan_keeps (s : State) : s.Keeps s.orphan := id

theorem State.endThread_keeps (s : State) : s.Keeps s.endThread := by
  grind -ring -linarith -lia -order [State.endThread, !State.orphan_keeps, !State.release_keeps, !State.order_holds,
    !State.endLaunch_keeps, !State.report_holds, State.Holds, State.Keeps]

theorem haltStep_keeps (s : State) : Ends (haltStep s) s.Keeps := by
  unfold haltStep
  split
  · exact id
  · exact State.endThread_keeps _

theorem execHalt_keeps (s : State) : Leads (execHalt s) s.Keeps := by
  refine finish_keeps ?_
  grind -ring -linarith -lia -order [!State.commitPoint_keeps, !haltStep_keeps, Ends.eq_def, Gives, State.Keeps]

/-! ### Mesh -/

theorem meshRead_keeps (s : State) (o a n) : Gives (meshRead o a n s) s.Keeps := by
  grind -ring -linarith -lia -order [meshRead, !State.read_stands, Gives, State.Keeps, State.Stands]

theorem readMesh_keeps (s : State) (o a) : Gives (readMesh o a s) s.Keeps := by
  grind -ring -linarith -lia -order [readMesh, !meshRead_keeps, Gives, State.Keeps]

theorem readRows_keeps (s : State) (o n l) : Gives (readRows o n l s) s.Keeps := by
  fun_induction readRows o n l s <;> grind -ring -linarith -lia -order [readRows, !meshRead_keeps, Gives, State.Keeps]

theorem readCellBytes_keeps (s : State) (o m c) : Gives (readCellBytes o m c s) s.Keeps := by
  grind -ring -linarith -lia -order [readCellBytes, !meshRead_keeps, Gives, State.Keeps]

theorem readNeighbours_keeps (s : State) (o m c) : Gives (readNeighbours o m c s) s.Keeps := by
  grind -ring -linarith -lia -order [readNeighbours, !readCellBytes_keeps, Gives, State.Keeps]

theorem readCell_keeps (s : State) (o m needCentroid c) : Gives (readCell o m needCentroid c s) s.Keeps := by
  grind -ring -linarith -lia -order [readCell, !readCellBytes_keeps, !readRows_keeps, Gives, State.Keeps]

theorem readFields_keeps (s : State) (o m c cell) : Gives (readFields o m c cell s) s.Keeps := by
  grind -ring -linarith -lia -order [readFields, !readRows_keeps, Gives, State.Keeps]

/-! ### Blend -/

theorem State.startBlend_keeps (s : State) (o) : May (s.startBlend o) s.Keeps := by
  grind -ring -linarith -lia -order [State.startBlend, !State.failOp_keeps, !State.destParts_keeps, !State.stopOp_keeps,
    !State.setOp_holds, Gives, May, State.Holds, State.Keeps]

theorem State.splatRead_keeps (s : State) (o) : May (s.splatRead o) s.Keeps := by
  grind -ring -linarith -lia -order [State.splatRead, !State.read_stands, !State.stopOp_keeps, !State.setOp_holds,
    !State.order_holds, Gives, May, State.Holds, State.Keeps, State.Stands]

theorem State.blendAccess_keeps (s : State) (o) : May (s.blendAccess o) s.Keeps := by
  grind -ring -linarith -lia -order [State.blendAccess, !State.startBlend_keeps, !State.splatRead_keeps, May, State.Keeps]

theorem State.blendTile_keeps (s : State) (o) : May (s.blendTile o) s.Keeps := by
  grind -ring -linarith -lia -order [State.blendTile, !State.failOp_keeps, !State.setOp_holds, !State.order_holds, May,
    State.Holds, State.Keeps]

/-! ### Launch -/

theorem launchStep_keeps (s : State) (rs1 rd) : Ends (launchStep rs1 rd s) s.Keeps := by
  grind -ring -linarith -lia -order [launchStep, !readBlock_keeps, !enterOp_keeps, Ends.eq_def, Gives.eq_def, State.Keeps]

theorem State.launchAccess_keeps (s : State) (o) : May (s.launchAccess o) s.Keeps := by
  grind -ring -linarith -lia -order [State.launchAccess, !State.failOp_keeps, !State.read_stands, !State.stopOp_keeps,
    !State.setOp_holds, !State.order_holds, Gives, May, State.Holds, State.Keeps, State.Stands]

theorem rootRecords_keeps (s : State) (o n k m l) : s.Keeps (rootRecords o n k m l s).2 := by
  fun_induction rootRecords o n k m l s <;> grind -ring -linarith -lia -order [rootRecords, !State.addNode_keeps, State.Keeps]

theorem State.startAll_keeps (s : State) (o bay l) : s.Keeps (s.startAll o bay l) :=
  foldl_keeps (fun s _ => s.startThread_keeps _ _ _) l s

theorem State.pipelineLaunch_keeps (s : State) (o) : May (s.pipelineLaunch o) s.Keeps := by
  unfold State.pipelineLaunch
  split
  · trivial
  · split
    · trivial
    · next places hp =>
      have hr := s.read_stands o.agent .source 4 (o.word 4).toNat (stageBytes o.desc 0 * o.nroot)
      extract_lets n
      split
      · trivial
      · grind -ring -linarith -lia -order [!State.stopOp_keeps, Gives, May, State.Keeps, State.Stands]
      · next bs u hu =>
        rw [hu] at hr
        extract_lets r v w
        have hw : s.Keeps w := rootRecords_keeps u.order o n o.nroot 0 bs ∘ u.order_holds.keeps ∘ hr.keeps
        exact (State.setOp_holds _ _).keeps ∘
          foldl_keeps (fun (s : State) (b : Nat × List Placed) => s.startAll_keeps o b.1 b.2) places w ∘ hw

theorem State.enterInbound_keeps (s : State) (k ctx from_ a body len) : s.Keeps (s.enterInbound k ctx from_ a body len) := id

theorem execRemoteWriteRequest_keeps (s : State) (ctx stamp address body) :
    Leads (execRemoteWriteRequest ctx stamp address body s) s.Keeps := by
  unfold execRemoteWriteRequest
  split <;> exact id

theorem execRemoteReadRequest_keeps (s : State) (ctx address length) :
    Leads (execRemoteReadRequest ctx address length s) s.Keeps := by
  unfold execRemoteReadRequest
  split <;> exact id

theorem State.readAnswer_keeps (s : State) (o c a body) : s.Keeps (s.readAnswer o c a body) := by
  grind -ring -linarith -lia -order [State.readAnswer, !State.finalOp_keeps, !State.destParts_keeps, !State.stopOp_keeps,
    !State.setOp_holds, !State.order_holds, Gives, State.Holds, State.Keeps]

theorem State.writeAnswer_keeps (s : State) (o c a) : s.Keeps (s.writeAnswer o c a) := by
  unfold State.writeAnswer
  split <;> exact State.finalOp_keeps _ _ _ _ _

theorem State.answer_keeps (s : State) (o c a body) : s.Keeps (s.answer o c a body) := by
  grind -ring -linarith -lia -order [State.answer, !State.dropOp_holds, !State.writeAnswer_keeps, !State.readAnswer_keeps,
    !State.send_keeps, State.Holds, State.Keeps]

theorem State.refuseInbound_keeps (s : State) (o x acc parts) : May (s.refuseInbound o x acc parts) s.Keeps := by
  unfold State.refuseInbound
  split <;> grind -ring -linarith -lia -order [!State.answer_keeps, May, State.Keeps]

theorem State.inboundWrite_keeps (s : State) (o) : May (s.inboundWrite o) s.Keeps := by
  grind -ring -linarith -lia -order [State.inboundWrite, !State.destParts_keeps, !State.refuseInbound_keeps, !State.setOp_holds,
    !State.order_holds, Gives.eq_def, May.eq_def, State.Holds, State.Keeps]

theorem State.inboundPublish_keeps (s : State) (o) : May (s.inboundPublish o) s.Keeps := by
  grind -ring -linarith -lia -order [State.inboundPublish, !State.answer_keeps, !State.publishPuts_holds, !State.order_holds, May,
    State.Holds, State.Keeps]

theorem State.inboundRead_keeps (s : State) (o) : May (s.inboundRead o) s.Keeps := by
  grind -ring -linarith -lia -order [State.inboundRead, !State.read_stands, !State.refuseInbound_keeps, !State.setOp_holds,
    !State.order_holds, Gives.eq_def, May.eq_def, State.Holds, State.Keeps, State.Stands]

theorem State.inboundAnswer_keeps (s : State) (o) : May (s.inboundAnswer o) s.Keeps := by
  grind -ring -linarith -lia -order [State.inboundAnswer, !State.answer_keeps, May, State.Keeps]

theorem State.startRemote_keeps (s : State) (o) : May (s.startRemote o) s.Keeps := by
  grind -ring -linarith -lia -order [State.startRemote, !State.failOp_keeps, !State.setOp_holds, May, State.Holds, State.Keeps]

theorem State.remoteAccess_keeps (s : State) (o) : May (s.remoteAccess o) s.Keeps := by
  grind -ring -linarith -lia -order [State.remoteAccess, !State.startRemote_keeps, !State.read_stands, !State.stopOp_keeps,
    !State.setOp_holds, !State.order_holds, Gives, May, State.Holds, State.Keeps, State.Stands]

theorem State.sendWrite_keeps (s : State) (o) : May (s.sendWrite o) s.Keeps := by
  grind -ring -linarith -lia -order [State.sendWrite, !State.setOp_holds, !State.order_holds, !State.enterInbound_keeps,
    !State.send_keeps, May, State.Holds, State.Keeps]

theorem State.sendRead_keeps (s : State) (o) : May (s.sendRead o) s.Keeps := by
  grind -ring -linarith -lia -order [State.sendRead, !State.setOp_holds, !State.order_holds, !State.enterInbound_keeps,
    !State.send_keeps, May, State.Holds, State.Keeps]

theorem State.readPublish_keeps (s : State) (o) : May (s.readPublish o) s.Keeps := by
  grind -ring -linarith -lia -order [State.readPublish, !State.closeOp_holds, !State.publishPuts_holds, !State.order_holds, May,
    State.Holds, State.Keeps]

theorem execRemoteWriteAck_keeps (s : State) (op answer) : Leads (execRemoteWriteAck op answer s) s.Keeps := by
  grind -ring -linarith -lia -order [execRemoteWriteAck, !State.drop_keeps, !State.writeAnswer_keeps, Leads, State.Keeps]

theorem execRemoteReadResponse_keeps (s : State) (op answer body) : Leads (execRemoteReadResponse op answer body s) s.Keeps := by
  grind -ring -linarith -lia -order [execRemoteReadResponse, !State.drop_keeps, !State.readAnswer_keeps, Leads, State.Keeps]

theorem execParameterCommit_keeps (s : State) (ctx header version) : Leads (execParameterCommit ctx header version s) s.Keeps := by
  grind -ring -linarith -lia -order [execParameterCommit, !State.send_keeps, !State.drop_keeps, !State.checkPart_holds,
    !State.physWrite_holds, !State.order_holds, Gives, Leads, State.Holds, State.Keeps]

/-! ### Marcher -/

theorem readRecord_keeps (s : State) (o a) : Gives (readRecord o a s) s.Keeps := by
  grind -ring -linarith -lia -order [readRecord, !State.read_stands, Gives, State.Keeps, State.Stands]

theorem writeRecord_holds (s : State) (o a d) : Ends (writeRecord o a d s) s.Holds := by
  grind -ring -linarith -lia -order [writeRecord, !State.checkPart_holds, !State.physWrite_holds, Ends, Gives, State.Holds]

theorem State.settleCast_holds (s : State) (o) : s.Holds (s.settleCast o) := by
  grind -ring -linarith -lia -order [State.settleCast, !State.setOp_holds, !State.stir_holds, !State.closeOp_holds, State.Holds]

theorem State.storeRay_holds (s : State) (o r d st) : s.Holds (s.storeRay o r d st) := by
  grind -ring -linarith -lia -order [State.storeRay, !State.order_holds, !writeRecord_holds, !State.settleCast_holds, Ends,
    State.Holds]

theorem State.faultRay_keeps (s : State) (o r c) : s.Keeps (s.faultRay o r c) := (State.storeRay_holds _ _ _ _ _).keeps

theorem State.stopRay_keeps (s : State) (o r x) : May (s.stopRay o r x) s.Keeps := by
  unfold State.stopRay
  split <;> grind -ring -linarith -lia -order [!State.faultRay_keeps, !State.storeRay_holds, May, State.Holds, State.Keeps]

theorem rcastStep_keeps (s : State) (rs2 rs1 rd) : Ends (rcastStep rs2 rs1 rd s) s.Keeps := by
  grind -ring -linarith -lia -order [rcastStep, raise, !State.newChild_keeps, !State.orderThread_stands, !State.advance_stands,
    !State.setX_stands, !enterOp_keeps, Ends, State.Keeps, State.Stands]

theorem admitOne_keeps (s : State) (o held i) : s.Keeps (admitOne o held i s).2 := by
  grind -ring -linarith -lia -order [admitOne, !readRecord_keeps, !writeRecord_holds, Ends, Gives, State.Holds, State.Keeps]

theorem admitAll_keeps (s : State) (o n k m l) : s.Keeps (admitAll o n k m l s).2 := by
  fun_induction admitAll o n k m l s <;> grind -ring -linarith -lia -order [admitAll, !admitOne_keeps, State.Keeps]

theorem State.admission_keeps (s : State) (o) : May (s.admission o) s.Keeps := by
  grind -ring -linarith -lia -order [State.admission, !State.stir_holds, !State.finalOp_keeps, !admitAll_keeps, !State.order_holds,
    !State.rayNodes_keeps, !State.settleCast_holds, May, State.Holds, State.Keeps]

theorem State.readmit_keeps (s : State) (o i) : May (s.readmit o i) s.Keeps := by
  unfold State.readmit
  split <;> grind -ring -linarith -lia -order [!State.order_holds, !readRecord_keeps, !State.settleCast_holds, !writeRecord_holds,
    !State.setOp_holds, Ends, Gives, May, State.Holds, State.Keeps]

theorem State.pushRay_keeps (s : State) (o p st i n bs) : s.Keeps (s.pushRay o p st i n bs) :=
  (State.addNode_keeps _ _ _ _ _) ∘ (State.addNode_keeps _ _ _ _ _)

theorem State.enterCell_keeps (s : State) (o m r c) : May (s.enterCell o m r c) s.Keeps := by
  grind -ring -linarith -lia -order [State.enterCell, !State.storeRay_holds, !readNeighbours_keeps, !State.stopRay_keeps,
    !State.setOp_holds, Gives.eq_def, May.eq_def, State.Holds, State.Keeps]

theorem State.marchStep_keeps (s : State) (o i) : May (s.marchStep o i) s.Keeps := by
  unfold State.marchStep
  dsimp only
  repeat' split
  all_goals grind -ring -linarith -lia -order [!State.faultRay_keeps, !readMesh_keeps, !State.stopRay_keeps, !State.storeRay_holds,
    !readCell_keeps, !readFields_keeps, !State.setOp_holds, !State.pushRay_keeps, !State.order_holds, !State.enterCell_keeps,
    Gives.eq_def, May.eq_def, State.Holds, State.Keeps]

theorem readNode_keeps (s : State) (o m n) : Gives (readNode o m n s) s.Keeps := by
  grind -ring -linarith -lia -order [readNode, !meshRead_keeps, Gives, State.Keeps]

theorem readTriangle_keeps (s : State) (o m p) : Gives (readTriangle o m p s) s.Keeps := by
  grind -ring -linarith -lia -order [readTriangle, !meshRead_keeps, Gives, State.Keeps]

theorem State.parkHit_keeps (s : State) (o r kind prim t) : s.Keeps (s.parkHit o r kind prim t) := by
  grind -ring -linarith -lia -order [State.parkHit, !State.order_holds, !writeRecord_holds, !State.settleCast_holds,
    !State.setOp_holds, Ends, State.Holds, State.Keeps]

theorem State.triangleStep_keeps (s : State) (o m n r v) : May (s.triangleStep o m n r v) s.Keeps := by
  grind -ring -linarith -lia -order [State.triangleStep, !State.setOp_holds, !State.order_holds, !readTriangle_keeps,
    !State.stopRay_keeps, !State.parkHit_keeps, Gives.eq_def, May.eq_def, State.Holds, State.Keeps]

theorem State.nodeStep_keeps (s : State) (o n r v) : s.Keeps (s.nodeStep o n r v) := by
  grind -ring -linarith -lia -order [State.nodeStep, !State.setOp_holds, !State.order_holds, State.Holds, State.Keeps]

theorem State.bvhStep_keeps (s : State) (o i) : May (s.bvhStep o i) s.Keeps := by
  unfold State.bvhStep
  repeat' split
  all_goals grind -ring -linarith -lia -order [readMesh_keeps, readNode_keeps, State.stopRay_keeps, State.storeRay_holds,
    !State.faultRay_keeps, State.triangleStep_keeps, State.nodeStep_keeps, Gives, May.eq_def, State.Keeps, State.Holds]

theorem State.pushHits_keeps (s : State) (o st) : May (s.pushHits o st) s.Keeps := by
  grind -ring -linarith -lia -order [State.pushHits, !State.pushRay_keeps, !State.order_holds, !State.settleCast_holds, May,
    State.Holds, State.Keeps]

theorem rresumeStep_keeps (s : State) (rs2 rs1 rd) : Ends (rresumeStep rs2 rs1 rd s) s.Keeps := by
  grind -ring -linarith -lia -order [rresumeStep, raise, hold, !State.advance_stands, !State.setX_stands, !State.checkScalar_keeps,
    !State.checkPart_holds, !State.queueScalar_keeps, !State.read_stands, !State.orderThread_stands, !State.write_holds,
    !State.holdRay_stands, Ends, Gives, State.Holds, State.Keeps, State.Stands]

theorem execRquery_keeps (s : State) (rs1 rd) : Leads (execRquery rs1 rd s) s.Keeps := by
  refine finish_keeps ?_
  dsimp only
  repeat' split
  all_goals grind -ring -linarith -lia -order [!State.checkPieces_keeps, !State.queryStep_stands, !State.read_stands,
    !State.queueScalar_keeps, !State.setX_stands, !State.advance_stands, !State.orderThread_stands, Ends, Gives, State.Keeps,
    State.Stands]

theorem parkedHit_keeps (s : State) (o m d p) : Gives (parkedHit o m d p s) s.Keeps := by
  grind -ring -linarith -lia -order [parkedHit, !readTriangle_keeps, Gives, State.Keeps]

theorem State.afterDecision_keeps (s : State) (o r d ends) : May (s.afterDecision o r d ends) s.Keeps := by
  unfold State.afterDecision
  split <;> grind -ring -linarith -lia -order [!State.storeRay_holds, !State.setOp_holds, !State.order_holds, !readMesh_keeps,
    !State.stopRay_keeps, !readNode_keeps, Gives.eq_def, May.eq_def, State.Holds, State.Keeps]

theorem State.resumeRay_keeps (s : State) (o i) : May (s.resumeRay o i) s.Keeps := by
  unfold State.resumeRay
  dsimp only
  repeat' split
  all_goals grind -ring -linarith -lia -order [!State.afterDecision_keeps, !readMesh_keeps, !State.stopRay_keeps, !readNode_keeps,
    !parkedHit_keeps, Gives.eq_def, May.eq_def, State.Keeps]

theorem walkGo_keeps (s : State) (o m target org dir n k i j) : Gives (walkGo o m target org dir n k i j s) s.Keeps := by
  fun_induction walkGo o m target org dir n k i j s <;> grind -ring -linarith -lia -order [walkGo, !readCell_keeps,
    !readNeighbours_keeps, Gives.eq_def, State.Keeps]

theorem walkRun_keeps (s : State) (o target start) : Gives (walkRun o target start s) s.Keeps := by
  unfold walkRun
  split <;> grind -ring -linarith -lia -order [!readMesh_keeps, !readCell_keeps, !walkGo_keeps, Gives.eq_def, State.Keeps]

theorem State.walkQuery_keeps (s : State) (o q) : May (s.walkQuery o q) s.Keeps := by
  unfold State.walkQuery
  dsimp only
  repeat' split
  all_goals grind -ring -linarith -lia -order [!State.finalOp_keeps, !State.read_stands, !walkRun_keeps, !State.write_holds,
    !State.setOp_holds, !State.order_holds, Ends, Gives, May, State.Holds, State.Keeps, State.Stands]

/-! ### Handle words -/

theorem execHldh_keeps (s : State) (rs1 hd) : Leads (execHldh rs1 hd s) s.Keeps := by
  refine finish_keeps ?_
  grind -ring -linarith -lia -order [raise, !scalarRead_keeps, !State.advance_stands, Ends.eq_def, Gives, State.Keeps, State.Stands]

theorem execHsth_keeps (s : State) (rs1 hs) : Leads (execHsth rs1 hs s) s.Keeps := by
  refine finish_keeps ?_
  grind -ring -linarith -lia -order [!State.accessScalar_keeps, !State.advance_stands, Ends.eq_def, State.Keeps, State.Stands]

theorem readEntry_keeps (s : State) (a) : Gives (readEntry a s) s.Keeps := by
  grind -ring -linarith -lia -order [readEntry, !scalarRead_keeps, Gives, State.Keeps]

theorem storedEntries_keeps (s : State) (h) : Gives (storedEntries h s) s.Keeps := by
  grind -ring -linarith -lia -order [storedEntries, !readEntry_keeps, Gives, State.Keeps]

theorem listCount_keeps (s : State) (h) : Gives (listCount h s) s.Keeps := by
  grind -ring -linarith -lia -order [listCount, raise, !scalarRead_keeps, Gives, State.Keeps]

theorem execHinfo_keeps (s : State) (hs sel rd) : Leads (execHinfo hs sel rd s) s.Keeps := by
  refine finish_keeps ?_
  grind -ring -linarith -lia -order [raise, illegalAt, !storedEntries_keeps, !listCount_keeps, !State.setX_stands,
    !State.advance_stands, Ends.eq_def, Gives, State.Keeps, State.Stands]

theorem findRow_keeps (s : State) (h k n m i) : Gives (findRow h k n m i s) s.Keeps := by
  fun_induction findRow h k n m i s <;> grind -ring -linarith -lia -order [findRow, !readEntry_keeps, Gives.eq_def, State.Keeps]

theorem iterate_keeps (s : State) (h pat) : Gives (iterate h pat s) s.Keeps := by
  unfold iterate
  dsimp only
  repeat' split
  all_goals grind -ring -linarith -lia -order [!readEntry_keeps, !scalarRead_keeps, !findRow_keeps, Gives, State.Keeps]

theorem execHiter_keeps (s : State) (hs rd) : Leads (execHiter hs rd s) s.Keeps := by
  refine finish_keeps ?_
  split
  · split
    · exact id
    · grind -ring -linarith -lia -order [!iterate_keeps, !State.setX_stands, !State.advance_stands, Ends.eq_def, Gives,
      State.Keeps, State.Stands]
  · exact id

theorem attachHeader_keeps (s : State) (list) : Gives (attachHeader list s) s.Keeps := by
  grind -ring -linarith -lia -order [attachHeader, raise, !State.read_stands, Gives, State.Keeps, State.Stands]

theorem attachWrite_keeps (s : State) (list count fold slot bs) : Ends (attachWrite list count fold slot bs s) s.Keeps := by
  grind -ring -linarith -lia -order [attachWrite, !State.checkParts_holds, !State.orderThread_stands, !State.putParts_holds, Ends,
    Gives, State.Holds, State.Keeps, State.Stands]

theorem hattachStep_keeps (s : State) (rs2 rs1 rd) : Ends (hattachStep rs2 rs1 rd s) s.Keeps := by
  unfold hattachStep
  dsimp only
  split <;> grind -ring -linarith -lia -order [raise, !scalarRead_keeps, !attachHeader_keeps, !attachWrite_keeps,
    !State.advance_stands, !State.setX_stands, Ends, Gives, State.Keeps, State.Stands]

theorem hdetachStep_keeps (s : State) (rs2 rs1 rd) : Ends (hdetachStep rs2 rs1 rd s) s.Keeps := by
  unfold hdetachStep
  dsimp only
  split <;> grind -ring -linarith -lia -order [raise, !attachHeader_keeps, !State.read_stands, !attachWrite_keeps,
    !State.advance_stands, !State.setX_stands, !State.orderThread_stands, Ends, Gives, State.Keeps, State.Stands]

/-! ### Fold -/

theorem writeHeader_keeps (s : State) (ag list count fold) : Ends (writeHeader ag list count fold s) s.Keeps := by
  grind -ring -linarith -lia -order [writeHeader, !State.write_holds, Ends.eq_def, State.Holds, State.Keeps]

theorem foldBody_keeps (s : State) (o) : Gives (foldBody o s) s.Keeps := by
  unfold foldBody
  dsimp only
  repeat' split
  all_goals grind -ring -linarith -lia -order [raise, plainRun, !State.read_stands, !openTensor_stands, !Tensor.values_stands,
    !State.order_holds, !writeHeader_keeps, !putValues_stands, Ends.eq_def, Gives.eq_def, State.Holds, State.Keeps, State.Stands]

theorem State.foldRead_keeps (s : State) (o) : May (s.foldRead o) s.Keeps := by
  grind -ring -linarith -lia -order [State.foldRead, !State.failOp_keeps, !foldBody_keeps, !State.setOp_holds, Gives, May,
    State.Holds, State.Keeps]

theorem State.foldWrite_keeps (s : State) (o) : May (s.foldWrite o) s.Keeps := by
  grind -ring -linarith -lia -order [State.foldWrite, !State.setOp_holds, !State.order_holds, May, State.Holds, State.Keeps]

theorem State.clearFold_keeps (s : State) (o) : s.Keeps (s.clearFold o) := by
  grind -ring -linarith -lia -order [State.clearFold, !State.read_stands, !writeHeader_keeps, Ends, Gives, State.Keeps,
    State.Stands]

theorem publishFold_keeps (s : State) (o) : Gives (publishFold o s) s.Keeps := by
  unfold publishFold
  split <;> grind -ring -linarith -lia -order [raise, !State.read_stands, !State.checkParts_holds, !State.putParts_holds,
    !State.publishPuts_holds, Gives, State.Holds, State.Keeps, State.Stands]

theorem State.foldPublish_keeps (s : State) (o) : May (s.foldPublish o) s.Keeps := by
  grind -ring -linarith -lia -order [State.foldPublish, !publishFold_keeps, !State.order_holds, !State.failOp_keeps,
    !State.setOp_holds, Gives, May, State.Holds, State.Keeps]

theorem State.unfold_keeps (s : State) (o) : s.Keeps (s.unfold o) := by
  unfold State.unfold
  split
  · exact State.clearFold_keeps _ _
  · exact id

/-! ### Publish -/

theorem State.withDigest_keeps (s : State) (d) : s.Keeps (s.withDigest d) := id

theorem State.publishOne_keeps (s : State) (discard o) : s.Keeps (s.publishOne discard o).2 := by
  grind -ring -linarith -lia -order [State.publishOne, !State.unfold_keeps, !publishFold_keeps, !State.withDigest_keeps,
    !State.publishPuts_holds, Gives, State.Holds, State.Keeps]

theorem State.publishSlot_keeps (s : State) (discard k) : s.Keeps (s.publishSlot discard k) := by
  unfold State.publishSlot
  split
  · exact id
  · exact State.publishOne_keeps _ _ _

theorem State.publishStatus_keeps (s : State) (k) : s.Keeps (s.publishStatus k) := by
  unfold State.publishStatus
  split
  · exact id
  · exact (State.dropOp_holds _ _).keeps ∘ (State.writeStatusBlock_holds _ _ _ _ _).keeps

theorem State.publishSlots_keeps (s : State) (discard l) : s.Keeps (s.publishSlots discard l) :=
  foldl_keeps State.publishStatus_keeps l _ ∘ foldl_keeps (fun s k => s.publishSlot_keeps discard k) l s

theorem publishStep_keeps (s : State) (discard rs1 rd) : Ends (publishStep discard rs1 rd s) s.Keeps := by
  grind -ring -linarith -lia -order [publishStep, hold, !State.publishSlots_keeps, !State.orderThread_stands,
    !State.advance_stands, !State.setX_stands, Ends, State.Keeps, State.Stands]

/-! ### Events -/

theorem State.engineAccess_keeps (s : State) (o) : May (s.engineAccess o) s.Keeps := by
  grind -ring -linarith -lia -order [State.engineAccess, !State.copyAccess_keeps, !State.blendAccess_keeps,
    !State.launchAccess_keeps, !State.remoteAccess_keeps, !State.startRemote_keeps, !State.inboundRead_keeps, May, State.Keeps]

theorem State.engineWrite_keeps (s : State) (o) : May (s.engineWrite o) s.Keeps := by
  grind -ring -linarith -lia -order [State.engineWrite, !State.copyWrite_keeps, !State.foldWrite_keeps, !State.inboundWrite_keeps,
    May, State.Keeps]

theorem State.enginePublish_keeps (s : State) (o) : May (s.enginePublish o) s.Keeps := by
  grind -ring -linarith -lia -order [State.enginePublish, !State.inboundPublish_keeps, !State.readPublish_keeps,
    !State.autoPublish_keeps, May, State.Keeps]

theorem State.engineFinal_keeps (s : State) (o) : May (s.engineFinal o) s.Keeps := by
  grind -ring -linarith -lia -order [State.engineFinal, !State.inboundAnswer_keeps, !State.finishOp_keeps, !State.unfold_keeps,
    May.eq_def, State.Keeps]

theorem State.scoreStep_keeps (s : State) (o) : May (s.scoreStep o) s.Keeps := by
  grind -ring -linarith -lia -order [State.scoreStep, !State.takeScore_holds, May, State.Holds, State.Keeps]

theorem opEvent_keeps (n) {f} (h : ∀ (u : State) o, May (f u o) u.Keeps) (s : State) : Leads (opEvent n f s) s.Keeps := by
  unfold opEvent
  split
  · split
    · exact getD_keeps (h s _)
    · exact id
  · exact id

theorem slotEvent_keeps (pos) {f} (h : ∀ u : State, May (f u) u.Keeps) (s : State) : Leads (slotEvent pos f s) s.Keeps := by
  unfold slotEvent
  split
  · exact id
  · refine State.during_keeps s pos fun u => ?_
    split
    · exact getD_keeps (h u)
    · exact id

theorem State.moveIf_keeps (s : State) (limit p) : May (State.moveIf limit p s) s.Keeps := by
  grind -ring -linarith -lia -order [State.moveIf, !State.moveHead_stands, HeadRes.Leaves, May, State.Keeps, State.Stands]

theorem execVectorAdmit_keeps (s : State) (pos) : Leads (execVectorAdmit pos s) s.Keeps := by
  refine slotEvent_keeps pos (fun u => ?_) s
  split
  · trivial
  · cases admitNext u.t u.core.rowcap [] u.t.queue with
    | none => trivial
    | some q => exact id

theorem execVectorCommit_keeps (s : State) (pos) : Leads (execVectorCommit pos s) s.Keeps := by
  refine slotEvent_keeps pos (fun u => ?_) s
  split
  · exact u.moveIf_keeps _ _
  · trivial

theorem execVectorElementStep_keeps (s : State) (pos) : Leads (execVectorElementStep pos s) s.Keeps := by
  refine slotEvent_keeps pos (fun u => ?_) s
  split
  · exact u.moveIf_keeps _ _
  · trivial

theorem execPostStep_keeps (s : State) (pos) : Leads (execPostStep pos s) s.Keeps := by
  refine slotEvent_keeps pos (fun u => ?_) s
  split
  · exact u.moveIf_keeps _ _
  · trivial

theorem execPostedElementStep_keeps (s : State) (pos op elem) : Leads (execPostedElementStep pos op elem s) s.Keeps := by
  refine slotEvent_keeps pos (fun u => ?_) s
  split
  · trivial
  · exact (u.performElement_stands op elem).keeps

theorem execLaneGroupIssue_keeps (s : State) (pos) : Leads (execLaneGroupIssue pos s) s.Keeps := by
  refine slotEvent_keeps pos (fun u => ?_) s
  split
  · trivial
  · exact u.moveIf_keeps _ _

theorem execTopasRead_keeps (s : State) (pos) : Leads (execTopasRead pos s) s.Keeps :=
  slotEvent_keeps pos (fun u => u.moveIf_keeps _ _) s

theorem execTileAcquire_keeps (s : State) (pos) : Leads (execTileAcquire pos s) s.Keeps :=
  slotEvent_keeps pos (fun u => u.moveIf_keeps _ _) s

/-! ### Background -/

theorem firstStep_keeps {s : State} {l : List (Unit → Option State)} (h : ∀ f ∈ l, May (f ()) s.Keeps) :
    May (firstStep l) s.Keeps := by
  induction l with
  | nil => trivial
  | cons f r ih =>
    have hf := h f List.mem_cons_self
    have hr := ih fun g hg => h g (List.mem_cons_of_mem f hg)
    unfold firstStep
    split
    · next hs => rwa [hs] at hf
    · exact hr

theorem State.rayStep_keeps (s : State) (o r) : May (s.rayStep o r) s.Keeps := by
  refine firstStep_keeps ?_
  simp only [List.forall_mem_cons]
  exact ⟨s.resumeRay_keeps o r.idx, s.readmit_keeps o r.idx, s.marchStep_keeps o r.idx, s.bvhStep_keeps o r.idx, by simp⟩

theorem State.castStep_keeps (s : State) (o) : May (s.castStep o) s.Keeps := by
  refine firstStep_keeps fun f hf => ?_
  rcases List.mem_append.mp hf with hf | hf
  · obtain ⟨r, -, rfl⟩ := List.mem_map.mp hf
    exact s.rayStep_keeps o r
  · obtain ⟨st, -, rfl⟩ := List.mem_map.mp hf
    exact s.pushHits_keeps o st

theorem State.opStep_keeps (s : State) (o) : May (s.opStep o) s.Keeps := by
  unfold State.opStep
  split
  · trivial
  · split
    · exact s.finishOp_keeps o
    · exact s.walkQuery_keeps o _
    · refine firstStep_keeps ?_
      simp only [List.forall_mem_cons]
      exact ⟨s.admission_keeps o, s.castStep_keeps o, by simp⟩
    · refine firstStep_keeps ?_
      simp only [List.forall_mem_cons]
      exact ⟨s.foldRead_keeps o, s.foldWrite_keeps o, s.foldPublish_keeps o, s.readyOp_keeps o, s.engineFinal_keeps o, by simp⟩
    · refine firstStep_keeps ?_
      simp only [List.forall_mem_cons]
      exact ⟨s.launchAccess_keeps o, s.pipelineLaunch_keeps o, s.finishOp_keeps o, by simp⟩
    · refine firstStep_keeps ?_
      simp only [List.forall_mem_cons]
      exact ⟨s.scoreStep_keeps o, s.retireCopy_keeps o, s.engineWrite_keeps o, s.engineAccess_keeps o, s.blendTile_keeps o,
        s.enginePublish_keeps o, s.readyOp_keeps o, s.engineFinal_keeps o, s.sendWrite_keeps o, s.sendRead_keeps o, by simp⟩

theorem State.vectorStep_keeps (s : State) : May s.vectorStep s.Keeps := by
  grind -ring -linarith -lia -order [State.vectorStep, !State.moveHead_stands, !State.scalarStep_stands,
    !State.performElement_stands, HeadRes.Leaves.eq_def, May.eq_def, State.Keeps, State.Stands]

theorem State.background_keeps (s : State) : May s.background s.Keeps := by
  refine firstStep_keeps fun f hf => ?_
  rcases List.mem_append.mp hf with hf | hf
  · rcases List.mem_append.mp hf with hf | hf
    · obtain ⟨e, -, rfl⟩ := List.mem_map.mp hf
      have hv := (s.focus e.1).vectorStep_keeps
      dsimp only
      cases hr : (s.focus e.1).vectorStep with
      | none => trivial
      | some u =>
        rw [hr] at hv
        exact State.focus_keeps u s.pos ∘ hv ∘ State.focus_keeps s e.1
    · obtain ⟨o, -, rfl⟩ := List.mem_map.mp hf
      exact s.opStep_keeps o
  · obtain ⟨i, -, rfl⟩ := List.mem_map.mp hf
    exact s.deliverAt_keeps i

theorem State.rotate_keeps (s : State) : May s.rotate s.Keeps := by
  grind -ring -linarith -lia -order [State.rotate, !State.focus_holds, May, State.Holds, State.Keeps]

/-! ### Atomic -/

theorem amoStep_keeps (s : State) (op rs2 rs1 dw rd) : Ends (amoStep op rs2 rs1 dw rd s) s.Keeps := by
  grind -ring -linarith -lia -order [amoStep, !State.accessScalar_keeps, !State.advance_stands, Ends, State.Keeps, State.Stands]

theorem amo_keeps (s : State) (op rs2 rs1 dw rd) : Leads (amo op rs2 rs1 dw rd s) s.Keeps :=
  finish_keeps (s.committing_keeps (amoStep_keeps · op rs2 rs1 dw rd))

/-! ### Branch -/

theorem branch_keeps (s : State) (taken off) : Leads (branch taken off s) s.Keeps := id

theorem execJal_keeps (s : State) (rd off) : Leads (execJal rd off s) s.Keeps := id

theorem execJalr_keeps (s : State) (imm rs1 rd) : Leads (execJalr imm rs1 rd s) s.Keeps := by
  grind -ring -linarith -lia -order [execJalr, finish, raise, !State.takeTrap_stands, !State.complete_stands, !State.setX_stands,
    Leads, State.Keeps, State.Stands]

theorem execLoop_keeps (s : State) (imm rs1) : Leads (execLoop imm rs1 s) s.Keeps := by
  grind -ring -linarith -lia -order [execLoop, !State.complete_stands, !State.advance_stands, Leads, State.Keeps, State.Stands]

/-! ### Compare -/

theorem compareReg_keeps (s : State) (f rs2 rs1 mode cd) : Leads (compareReg f rs2 rs1 mode cd s) s.Keeps := id

theorem compareImm_keeps (s : State) (f imm rs1 mode cd) : Leads (compareImm f imm rs1 mode cd s) s.Keeps := id

theorem execCbiti_keeps (s : State) (bit rs1 mode cd) : Leads (execCbiti bit rs1 mode cd s) s.Keeps := id

theorem execCcmb_keeps (s : State) (mode cd nb cb na ca) : Leads (execCcmb mode cd nb cb na ca s) s.Keeps := id

theorem execCrdx_keeps (s : State) (rd) : Leads (execCrdx rd s) s.Keeps := id

theorem execCwrx_keeps (s : State) (rs1) : Leads (execCwrx rs1 s) s.Keeps := id

/-! ### Frames -/

theorem State.setUnit_keeps (s : State) (u x) : s.Keeps (s.setUnit u x) := id

theorem State.assignUnit_keeps (s : State) (u ctx) : s.Keeps (s.assignUnit u ctx) := by
  unfold State.assignUnit
  split <;> grind -ring -linarith -lia -order [!State.setUnit_keeps, State.Keeps]

theorem State.frameStart_keeps (s : State) (u) : s.Keeps (s.frameStart u) := by
  grind -ring -linarith -lia -order [State.frameStart, !State.setUnit_keeps, State.Keeps]

theorem State.frameEnd_keeps (s : State) (u) : s.Keeps (s.frameEnd u) := id

theorem State.notice_keeps (s : State) (ctx unit number cause address) : s.Keeps (s.notice ctx unit number cause address) := by
  unfold State.notice
  split
  · exact State.enqueue_keeps _ _ _ _ _ _ _
  · exact id

theorem State.frameRead_keeps (s : State) (u va n) : s.Keeps (s.frameRead u va n) := by
  grind -ring -linarith -lia -order [State.frameRead, !State.read_stands, !State.notice_keeps, !State.frameEnd_keeps,
    !State.setUnit_keeps, !State.order_holds, Gives, State.Holds, State.Keeps, State.Stands]

theorem execFrameFault_keeps (s : State) (ctx unit number cause address) :
    Leads (execFrameFault ctx unit number cause address s) s.Keeps := by
  grind -ring -linarith -lia -order [execFrameFault, !State.notice_keeps, !State.frameEnd_keeps, Leads, State.Keeps]

/-! ### Status -/

theorem State.invalidate_keeps (s : State) (ctx va) : s.Keeps (s.invalidate ctx va) := by
  grind -ring -linarith -lia -order [State.invalidate, !State.mapCores_holds, !State.mapBays_holds, !State.mapThreads_keeps,
    State.Holds, State.Keeps]

theorem State.putStatus_keeps (s : State) (n v) : s.Keeps (s.putStatus n v) := by
  unfold State.putStatus
  split <;> grind -ring -linarith -lia -order [!State.invalidate_keeps, !State.order_holds, State.Holds, State.Keeps]

theorem srd_keeps (s : State) (i n rd) : Ends (srd i n rd s) s.Keeps := by
  grind -ring -linarith -lia -order [srd, illegalAt, raise, privilegeAt, hold, !State.advance_stands, !State.setX_stands, Ends,
    State.Keeps, State.Stands]

theorem swr_keeps (s : State) (i k n rs1) : Ends (swr i k n rs1 s) s.Keeps := by
  grind -ring -linarith -lia -order [swr, illegalAt, raise, privilegeAt, hold, !State.advance_stands, !State.putStatus_keeps, Ends,
    State.Keeps, State.Stands]

/-! ### Contexts -/

theorem State.refuse_keeps (s : State) (op reason) : s.Keeps (s.refuse op reason) := id

theorem execDefine_keeps (s : State) (req) : Leads (execDefine req s) s.Keeps := by
  unfold execDefine
  split
  · exact (s.refuse_keeps 0 _)
  · exact s.setCtx_keeps _ _ (.inr rfl)

theorem State.parkRays_holds (s : State) (o) : s.Holds (s.parkRays o) := by
  refine foldl_holds (fun s r => ?_) _ s
  split
  · exact holds_refl s
  · exact s.storeRay_holds _ _ _ _

theorem State.wind_stands (s : State) : s.Stands s.wind :=
  stands_trans (State.toBoundary_stands _) (stands_trans (State.flushScalars_stands _) (State.performAll_stands _))

theorem State.saveThread_keeps (s : State) : s.Keeps (s.saveThread).2 := id

/-- The image of the thread in focus, taken and kept for slot p of a context. -/
def State.keepImage (n p : Nat) (s : State) : State :=
  s.saveThread.2.setCtx n { s.saveThread.2.ctxAt n with images := kset p s.saveThread.1 (s.saveThread.2.ctxAt n).images }

theorem takeImages_cons (n p : Nat) (r : List Nat) (s : State) :
    State.takeImages n (p :: r) s = State.takeImages n r (s.during p (State.keepImage n p)) := rfl

theorem keepImage_keeps (n p : Nat) {s : State} (h : s.t.live = true) : s.Keeps (s.keepImage n p) := by
  refine fun hs => State.setCtx_keeps_of_live _ _ _ (fun hu e he => ?_) (s.saveThread_keeps hs)
  rcases mem_kset he with rfl | he
  · exact h
  · exact ctxAt_images_live hu n e he

theorem threadAt_keepImage (n p : Nat) (s : State) {q : Nat} (hq : q ≠ s.pos) : (s.keepImage n p).threadAt q = s.threadAt q := by
  rw [State.keepImage, threadAt_setCtx, State.threadAt, State.threadAt, if_neg hq]
  exact if_neg hq

theorem State.moveSegs_keeps (s : State) (f) : s.Keeps (s.moveSegs f) := id

theorem evicted_images (s : State) (c : Context) (cores) : (s.evicted c cores).images = c.images := by
  unfold State.evicted
  dsimp only
  split <;> rfl

/-- Each slot is emptied once, so a slot that is still to come holds what it held at first. -/
theorem State.takeImages_keeps (n : Nat) (l : List Nat) (s : State) (hl : l.Nodup) (h : ∀ p ∈ l, (s.threadAt p).live = true) :
    s.Keeps (State.takeImages n l s) := by
  induction l generalizing s with
  | nil => exact id
  | cons p r ih =>
    obtain ⟨hp, hr⟩ := List.nodup_cons.mp hl
    rw [takeImages_cons]
    have hlive : (s.focus p).t.live = true := by rw [t_focus]; exact h p List.mem_cons_self
    have hfirst : s.Keeps (s.during p (State.keepImage n p)) :=
      State.focus_keeps _ _ ∘ keepImage_keeps n p hlive ∘ State.focus_keeps s p
    refine ih _ hr (fun q hq => ?_) ∘ hfirst
    have hne : q ≠ (s.focus p).pos := by rw [focus_pos]; rintro rfl; exact hp hq
    rw [State.during, threadAt_focus, threadAt_keepImage n p _ hne, threadAt_focus]
    exact h q (List.mem_cons_of_mem p hq)

theorem State.loseBays_holds (s : State) (n lost) : s.Holds (s.loseBays n lost) := by
  refine foldl_holds (fun s o => ?_) _ s
  split
  · exact s.parkRays_holds _
  · exact holds_refl s

/-- The threads whose images are taken were live when the pre-emption began. The context is still resident after their work has run on, 
so they are live then (`State.wind_stands`), and the loss of bays leaves them live (`State.loseBays_holds`). -/
theorem State.preempt_keeps (s : State) (n cores) : May (s.preempt n cores) s.Keeps := by
  unfold State.preempt
  extract_lets live lost wound winding imaged
  split
  · trivial
  · have hwound : s.Stands wound := foldl_stands (fun s p => State.during_stands s p State.wind_stands) live s
    split
    · exact hwound.keeps
    · next hw =>
      intro hs
      have hlive : wound.Watched ⟨n, live, true⟩ := by
        have := hwound.2 _ rfl (watched_of_filter hs n (q := fun e => e.2.live && e.2.ctx == n && takesCore cores (coreOf e.1)) (by grind))
        simp only [watched_iff] at *
        grind
      have hlost := wound.loseBays_holds n (lost wound)
      have := (watched_iff _ _).mp (hlost.2 _ hlive)
      have himaged := State.takeImages_keeps n live _ (slots_nodup hs _) (fun p hp => (this.2 (this.1 rfl) p hp).1) (hlost.1 (hwound.1 hs))
      refine State.setCtx_keeps _ _ _ (.inl (evicted_images _ _ _)) ?_
      exact himaged

theorem execPreempt_keeps (s : State) (ctx) : Leads (execPreempt ctx s) s.Keeps := by
  grind -ring -linarith -lia -order [execPreempt, !State.preempt_keeps, Leads.eq_def, May.eq_def, State.Keeps]

theorem execEvict_keeps (s : State) (ctx) : Leads (execEvict ctx s) s.Keeps := by
  grind -ring -linarith -lia -order [execEvict, !State.refuse_keeps, !State.drop_keeps, !State.preempt_keeps, Leads.eq_def,
    May.eq_def, State.Keeps]

theorem State.rejoin_keeps (s : State) : s.Keeps s.rejoin := by
  unfold State.rejoin
  split
  · exact (State.queueForUnit_stands _).keeps
  · exact (State.headArrives_stands _).keeps

theorem State.placeImages_keeps (s : State) (n cls l) : May (State.placeImages n cls l s) s.Keeps := by
  fun_induction State.placeImages n cls l s with
  | case1 s => exact id
  | case2 => trivial
  | case3 p t r s idle width h u ih =>
    have hu : s.Keeps (u.during p State.rejoin) := u.during_keeps p State.rejoin_keeps ∘ s.startThread_keeps p cls _
    exact ih.trans hu

theorem State.nominal_keeps (s : State) (n) : s.Keeps (s.nominal n) := by
  unfold State.nominal
  split <;> exact id

theorem State.restore_keeps (s : State) (n) : May (s.restore n) s.Keeps := by
  grind -ring -linarith -lia -order [State.restore, !State.placeImages_keeps, !State.moveSegs_keeps, !State.nominal_keeps,
    !State.setCtx_keeps, May, State.Keeps]

theorem execRestore_keeps (s : State) (ctx) : Leads (execRestore ctx s) s.Keeps := by
  grind -ring -linarith -lia -order [execRestore, !State.restore_keeps, Leads.eq_def, May.eq_def, State.Keeps]

theorem State.startDispatcher_keeps (s : State) (n) : May (s.startDispatcher n) s.Keeps := by
  grind -ring -linarith -lia -order [State.startDispatcher, !State.startThread_keeps, !State.nominal_keeps, !State.setCtx_keeps,
    May, State.Keeps]

theorem execReside_keeps (s : State) (ctx) : Leads (execReside ctx s) s.Keeps := by
  grind -ring -linarith -lia -order [execReside, !State.refuse_keeps, !State.drop_keeps, !State.restore_keeps,
    !State.startDispatcher_keeps, Leads.eq_def, May.eq_def, State.Keeps]

theorem execStopContext_keeps (s : State) (ctx) : Leads (execStopContext ctx s) s.Keeps := by
  grind -ring -linarith -lia -order [execStopContext, !State.refuse_keeps, !State.drop_keeps, !State.setCtx_keeps,
    !State.endContext_stands, !State.order_holds, Leads, State.Holds, State.Keeps, State.Stands]

theorem execGrant_keeps (s : State) (part base size shared) : Leads (execGrant part base size shared s) s.Keeps := by
  grind -ring -linarith -lia -order [execGrant, !State.refuse_keeps, !State.order_holds, Leads, State.Holds, State.Keeps]

theorem execRelease_keeps (s : State) (part base size) : Leads (execRelease part base size s) s.Keeps := by
  unfold execRelease
  split
  · exact s.refuse_keeps 5 1
  · split
    · exact s.refuse_keeps 5 11
    · split
      · exact id
      · exact foldl_keeps (fun s n => s.invalidate_keeps n none) _ _ ∘ s.order_holds.keeps

theorem State.scrubSlice_keeps (s : State) (k) : s.Keeps (s.scrubSlice k) := by
  unfold State.scrubSlice
  extract_lets inside scratch t u
  have hu : s.Keeps u := (State.mapBays_holds _ _).keeps ∘ (s.mapCores_holds _).keeps
  exact fun hs => { hu hs with memCanonical := filter_wf _ hs.memCanonical }

theorem State.applyRepairs_keeps (s : State) (k) : s.Keeps (s.applyRepairs k) := (State.mapCores_holds _ _).keeps

theorem execSliceReassign_keeps (s : State) (slice part) : Leads (execSliceReassign slice part s) s.Keeps := by
  unfold execSliceReassign
  split <;> grind -ring -linarith -lia -order [!State.applyRepairs_keeps, !State.scrubSlice_keeps, !State.order_holds, Leads,
    State.Holds, State.Keeps]

/-! ### Gang -/

theorem State.releaseDelayed_keeps (s : State) (n) : s.Keeps (s.releaseDelayed n) := by
  unfold State.releaseDelayed
  split
  · refine foldl_keeps (fun s b => s.releaseGang_keeps n b) _ _ ∘ foldl_keeps (fun s o => ?_) _ s
    exact (State.setOp_holds _ _).keeps ∘ s.sendOut_keeps o
  · exact id

theorem State.gangOp_keeps (s : State) (n block) : s.Keeps (s.gangOp n block) := by
  grind -ring -linarith -lia -order [State.gangOp, !State.addNode_keeps, State.Keeps]

theorem execGangLaunch_keeps (s : State) (ctx gang) : Leads (execGangLaunch ctx gang s) s.Keeps := by
  unfold execGangLaunch
  dsimp only
  split
  · exact s.drop_keeps
  · exact State.releaseDelayed_keeps _ _ ∘ State.send_keeps _ _ _ _ ∘ State.gangOp_keeps _ _ _ ∘
      State.setCtx_keeps _ _ _ (.inl (by rfl)) ∘ s.order_holds.keeps

theorem execGangAck_keeps (s : State) (ctx member) : Leads (execGangAck ctx member s) s.Keeps := by
  unfold execGangAck
  dsimp only
  split
  · exact s.drop_keeps
  · split
    · exact id
    · exact State.releaseDelayed_keeps _ _ ∘ State.setCtx_keeps _ _ _ (.inl (by rfl)) ∘ s.order_holds.keeps

theorem State.abortGang_keeps (s : State) (n) : s.Keeps (s.abortGang n) := by
  grind -ring -linarith -lia -order [State.abortGang, !State.report_holds, !State.send_keeps, !State.order_holds,
    !State.endContext_stands, State.Holds, State.Keeps, State.Stands]

theorem execGangTimeoutCheck_keeps (s : State) (ctx) : Leads (execGangTimeoutCheck ctx s) s.Keeps := by
  unfold execGangTimeoutCheck
  dsimp only
  split
  · exact id
  · split
    · exact id
    · split
      · exact State.setCtx_keeps _ _ _ (.inl (by rfl)) ∘ s.order_holds.keeps
      · exact s.abortGang_keeps ctx

theorem execGangAbort_keeps (s : State) (ctx) : Leads (execGangAbort ctx s) s.Keeps := by
  unfold execGangAbort
  split
  · exact State.abortGang_keeps _ _
  · exact id

theorem execGangArrive_keeps (s : State) (ctx member barrier stamp) :
    Leads (execGangArrive ctx member barrier stamp s) s.Keeps := by
  unfold execGangArrive
  dsimp only
  split
  · exact s.drop_keeps
  · split
    · exact s.drop_keeps
    · exact State.releaseGang_keeps _ _ _ ∘ State.setCtx_keeps _ _ _ (.inl (by rfl)) ∘
        (State.order_holds _).keeps ∘ s.passStamp_keeps stamp

theorem State.loseOp_keeps (s : State) (o) : s.Keeps (s.loseOp o) := by
  grind -ring -linarith -lia -order [State.loseOp, !State.finalOp_keeps, State.Keeps]

theorem execDeliveryFailure_keeps (s : State) (ctx lost) : Leads (execDeliveryFailure ctx lost s) s.Keeps := by
  unfold execDeliveryFailure
  repeat' split
  all_goals grind -ring -linarith -lia -order [!State.abortGang_keeps, !State.loseOp_keeps, Leads, State.Keeps]

/-! ### Health -/

theorem State.putImage_keeps (s : State) (die i w) : s.Keeps (s.putImage die i w) := id

theorem execNewImageToInactiveBank_keeps (s : State) (die image) : Leads (execNewImageToInactiveBank die image s) s.Keeps := by
  unfold execNewImageToInactiveBank
  split <;> exact id

theorem State.repair_keeps (s : State) (die r) : s.Keeps (s.repair die r) := by
  grind -ring -linarith -lia -order [State.repair, !State.setMram_holds, State.Holds, State.Keeps]

theorem State.waitsForever_keeps (s : State) (b) : s.Keeps (s.waitsForever b) :=
  foldl_keeps (fun s d => (s.setMram_holds d _).keeps) _ s

theorem initial_orderly : ({} : State).Orderly := by
  refine ⟨by decide, ?_, ?_, ?_, ?_, ?_, ?_⟩ <;> simp

theorem State.atReady_keeps (s : State) (b) : s.Keeps (s.atReady b) := by
  unfold State.atReady
  extract_lets boots u mask z r t
  have ht : r.Keeps t := foldl_keeps (fun r k => (r.setCore_holds k _).keeps) _ r
  clear_value t
  exact fun _ => ht initial_orderly

theorem execPowerOn_keeps (s : State) (outcome) : Leads (execPowerOn outcome s) s.Keeps := by
  grind -ring -linarith -lia -order [execPowerOn, !State.refuse_keeps, !State.waitsForever_keeps, !State.atReady_keeps, Leads,
    State.Keeps]

theorem State.cutWrite_keeps (s : State) (x) : s.Keeps (s.cutWrite x) := by
  grind -ring -linarith -lia -order [State.cutWrite, !State.putImage_keeps, !State.setMram_holds, State.Holds, State.Keeps]

theorem State.losePower_keeps (s : State) : s.Keeps s.losePower := fun _ => initial_orderly

theorem execLossOfPower_keeps (s : State) : Leads (execLossOfPower s) s.Keeps := State.losePower_keeps _

theorem execAttestationChallenge_keeps (s : State) (nonce ctx) : Leads (execAttestationChallenge nonce ctx s) s.Keeps := by
  grind -ring -linarith -lia -order [execAttestationChallenge, !State.refuse_keeps, !State.drop_keeps, !State.setMram_holds,
    !State.order_holds, !State.send_keeps, Leads, State.Holds, State.Keeps]

theorem State.flip_keeps (s : State) (a f) : s.Keeps (s.flip a f) :=
  fun hs => { hs with memCanonical := sset_wf _ _ _ hs.memCanonical }

theorem State.countUncorrectable_keeps (s : State) (k) : s.Keeps (s.countUncorrectable k) := id

theorem State.countCorrected_keeps (s : State) (k n) : s.Keeps (s.countCorrected k n) := id

theorem State.spoil_keeps (s : State) (l) : s.Keeps (s.spoil l) := id

theorem State.mapRecord_keeps (s : State) (launch bay st i f) : s.Keeps (s.mapRecord launch bay st i f) := by
  unfold State.mapRecord
  split <;> exact id

theorem State.wearCore_keeps (s : State) (k) : s.Keeps (s.wearCore k) := by
  grind -ring -linarith -lia -order [State.wearCore, !State.setCore_holds, !State.repair_keeps, State.Holds, State.Keeps]

theorem State.coreError_keeps (s : State) (n k) : s.Keeps (s.coreError n k) := by
  grind -ring -linarith -lia -order [State.coreError, !State.countUncorrectable_keeps, !State.wearCore_keeps, !State.order_holds,
    !State.endContext_stands, State.Holds, State.Keeps, State.Stands]

theorem execSoftError_keeps (s : State) (upset) : Leads (execSoftError upset s) s.Keeps := by
  unfold execSoftError
  split
  · exact id
  · split
    · exact s.beforeError_keeps _ fun u => u.flip_keeps _ _
    · dsimp only
      refine State.beforeError_keeps _ _ (fun u => u.spoil_keeps _) ∘ ?_
      split
      · exact State.wearCore_keeps _ _ ∘ s.countUncorrectable_keeps _
      · exact s.countUncorrectable_keeps _
    · exact State.setCtx_keeps _ _ _ (.inl (by rfl)) ∘ s.countUncorrectable_keeps _
    · exact State.mapRecord_keeps _ _ _ _ _ _ ∘ s.countUncorrectable_keeps _
    · exact s.coreError_keeps _ _
    · exact (State.setCore_holds _ _ _).keeps ∘ State.wearCore_keeps _ _ ∘ s.countUncorrectable_keeps _
    · exact (State.setBay_holds _ _ _).keeps ∘ s.countUncorrectable_keeps _
    · exact (State.setMram_holds _ _ _).keeps ∘ s.countUncorrectable_keeps _
    · exact s.countCorrected_keeps _ _

theorem execPatrolScrub_keeps (s : State) (die finds) : Leads (execPatrolScrub die finds s) s.Keeps := by
  refine foldl_keeps (fun s f => ?_) finds s
  split
  · next l =>
    exact (State.logEvent_holds _ _ _).keeps ∘ State.beforeError_keeps _ l (fun u => u.spoil_keeps l) ∘ s.countUncorrectable_keeps _
  · dsimp only
    split
    · exact State.repair_keeps _ _ _ ∘ s.countCorrected_keeps _ _
    · exact s.countCorrected_keeps _ _

theorem State.poolWrite_keeps (s : State) (line ctx va) : s.Keeps (s.poolWrite line ctx va) := by
  grind -ring -linarith -lia -order [State.poolWrite, !State.quarantine_holds, !State.order_holds, State.Holds, State.Keeps]

theorem State.poisoned_keeps (s : State) (line) : s.Keeps (s.poisoned line) := by
  unfold State.poisoned
  split
  · exact s.beforeError_keeps line fun u => u.spoil_keeps line
  · exact id

theorem State.throttle_keeps (s : State) (part) : s.Keeps (s.throttle part) := id

theorem State.endDet_keeps (s : State) (watts) : s.Keeps (s.endDet watts) := by
  unfold State.endDet
  dsimp only
  split
  · exact id
  · exact foldl_keeps (fun s n => (s.endContext_stands _ _ _ _ _).keeps) _ _ ∘ s.order_holds.keeps

theorem execPowerSample_keeps (s : State) (watts hot) : Leads (execPowerSample watts hot s) s.Keeps := by
  unfold execPowerSample
  extract_lets limit tel t cold slow u
  have hcold : s.Keeps cold := t.endDet_keeps watts
  have hthrottle : ∀ l (v : State), v.Keeps (List.foldl State.throttle v l) := foldl_keeps State.throttle_keeps
  have hslow : s.Keeps slow := by grind -ring -linarith -lia -order [State.Keeps]
  split <;> exact hslow

theorem State.stopAll_keeps (s : State) : s.Keeps s.stopAll := by
  refine foldl_keeps (fun s n => (s.endContext_stands _ _ _ _ _).keeps) _ _ ∘ ?_
  split
  · exact s.order_holds.keeps
  · exact id

theorem State.keepReading_keeps (s : State) (r) : s.Keeps (s.keepReading r) := by
  grind -ring -linarith -lia -order [State.keepReading, !State.setBay_holds, State.Holds, State.Keeps]

theorem execThermalEvent_keeps (s : State) (reading) : Leads (execThermalEvent reading s) s.Keeps := by
  grind -ring -linarith -lia -order [execThermalEvent, !State.keepReading_keeps, !State.report_holds, !State.stopAll_keeps,
    !State.logEvent_holds, !State.endDet_keeps, !State.throttle_keeps, Leads, State.Holds, State.Keeps]

theorem execThermalRestart_keeps (s : State) : Leads (execThermalRestart s) s.Keeps := by
  grind -ring -linarith -lia -order [execThermalRestart, Leads, State.Keeps]

theorem execTelemetryReport_keeps (s : State) : Leads (execTelemetryReport s) s.Keeps := by
  unfold execTelemetryReport
  split <;> exact id

theorem execQuarterPowerGate_keeps (s : State) (core on) : Leads (execQuarterPowerGate core on s) s.Keeps :=
  (State.setCore_holds _ _ _).keeps

theorem execCxlHostWrite_keeps (s : State) (address body) : Leads (execCxlHostWrite address body s) s.Keeps := by
  unfold execCxlHostWrite
  split
  · exact (State.physWrite_holds _ _ _).keeps
  · exact id

/-! ### Integer -/

theorem regOp_keeps (s : State) (f rs2 rs1 rd) : Leads (regOp f rs2 rs1 rd s) s.Keeps := id

theorem unaryOp_keeps (s : State) (f rs1 rd) : Leads (unaryOp f rs1 rd s) s.Keeps := id

theorem execLui_keeps (s : State) (imm rd) : Leads (execLui imm rd s) s.Keeps := id

theorem execAuipc_keeps (s : State) (imm rd) : Leads (execAuipc imm rd s) s.Keeps := id

/-! ### Scalar floating point -/

theorem writeFp_keeps (s : State) (rd r) : Leads (writeFp rd r s) s.Keeps := id

theorem fpBinary_keeps (s : State) (op fmt rs2 rs1 rd) : Leads (fpBinary op fmt rs2 rs1 rd s) s.Keeps := id

theorem fpMinMax_keeps (s : State) (max fmt rs2 rs1 rd) : Leads (fpMinMax max fmt rs2 rs1 rd s) s.Keeps := id

theorem signInject_keeps (s : State) (f fmt rs2 rs1 rd) : Leads (signInject f fmt rs2 rs1 rd s) s.Keeps := id

theorem execFmvxf_keeps (s : State) (fmt rs1 rd) : Leads (execFmvxf fmt rs1 rd s) s.Keeps := id

theorem execFmvfx_keeps (s : State) (fmt rs1 rd) : Leads (execFmvfx fmt rs1 rd s) s.Keeps := id

theorem execFclass_keeps (s : State) (fmt rs1 rd) : Leads (execFclass fmt rs1 rd s) s.Keeps := id

theorem execFcvt_keeps (s : State) (fmt sel rs1 rd) : Leads (execFcvt fmt sel rs1 rd s) s.Keeps := by
  grind -ring -linarith -lia -order [execFcvt, !writeFp_keeps, !State.advance_stands, !State.orFlags_stands, !State.setX_stands,
    Leads, State.Keeps, State.Stands]

theorem fpCompareWord_keeps (s : State) (k fmt rs2 rs1 mode cd) : Leads (fpCompareWord k fmt rs2 rs1 mode cd s) s.Keeps := id

theorem fusedWord_keeps (s : State) (np nc rs3 fmt rs2 rs1 rd) : Leads (fusedWord np nc rs3 fmt rs2 rs1 rd s) s.Keeps := id

/-! ### Scalar memory -/

theorem accessWord_keeps (s : State) (k n v rs1 imm) : Leads (accessWord k n v rs1 imm s) s.Keeps := by
  refine finish_keeps ?_
  grind -ring -linarith -lia -order [!State.accessScalar_keeps, !State.advance_stands, Ends, State.Keeps, State.Stands]

theorem loadX_keeps (s : State) (n signed imm rs1 rd) : Leads (loadX n signed imm rs1 rd s) s.Keeps := by
  unfold loadX
  split
  · exact id
  · exact (accessWord_keeps _ _ _ _ _ _)

theorem loadF_keeps (s : State) (n imm rs1 rd) : Leads (loadF n imm rs1 rd s) s.Keeps := accessWord_keeps _ _ _ _ _ _

theorem storeWord_keeps (s : State) (n v rs1 imm) : Leads (storeWord n v rs1 imm s) s.Keeps := accessWord_keeps _ _ _ _ _ _

/-! ### System -/

theorem srdRow_keeps (s : State) (group reg rd) : Leads (srdRow group reg rd s) s.Keeps := by
  unfold srdRow
  split
  · exact finish_keeps (srd_keeps s _ _ rd)
  · exact id

theorem swrRow_keeps (s : State) (group k reg rs1) : Leads (swrRow group k reg rs1 s) s.Keeps := by
  unfold swrRow
  split
  · exact finish_keeps (swr_keeps s _ k _ rs1)
  · exact id

theorem execIllegalWord_keeps (s : State) (w) : Leads (execIllegalWord w s) s.Keeps := finish_keeps id

theorem execSret_keeps (s : State) : Leads (execSret s) s.Keeps := by
  grind -ring -linarith -lia -order [execSret, finish, illegalAt, raise, privilegeAt, !State.takeTrap_stands,
    !State.headArrives_stands, !State.leaveTrap_keeps, !State.settleQueue_keeps, Leads, State.Keeps, State.Stands]

theorem execWfe_keeps (s : State) : Leads (execWfe s) s.Keeps := by
  unfold execWfe
  split <;> exact id

theorem execAtcinv_keeps (s : State) (rs1) : Leads (execAtcinv rs1 s) s.Keeps := by
  grind -ring -linarith -lia -order [execAtcinv, finish, privilegeAt, raise, hold, !State.takeTrap_stands, !State.advance_stands,
    !State.invalidate_keeps, !State.orderThread_stands, Leads, State.Keeps, State.Stands]

/-! ### Vector configuration -/

theorem configWord_keeps (s : State) (i req rs1 rd) : Leads (configWord i req rs1 rd s) s.Keeps := by
  grind -ring -linarith -lia -order [configWord, finish, illegalAt, raise, hold, !State.takeTrap_stands, !State.afterIssue_keeps,
    !State.advance_stands, !State.setX_stands, Leads, State.Keeps, State.Stands]

theorem execGtag_keeps (s : State) (vs rd) : Leads (execGtag vs rd s) s.Keeps := by
  grind -ring -linarith -lia -order [execGtag, finish, illegalAt, raise, hold, !State.takeTrap_stands, !State.advance_stands,
    !State.setX_stands, Leads, State.Keeps, State.Stands]

theorem execVjoin_keeps (s : State) : Leads (execVjoin s) s.Keeps := by
  unfold execVjoin
  split <;> exact id

/-! ### Waits -/

theorem wfeResume_keeps (s : State) (w) : Ends (wfeResume w s) s.Keeps := by
  unfold wfeResume
  split <;> exact id

theorem resumeWait_keeps (s : State) (w) : Ends (resumeWait w s) s.Keeps := by
  unfold resumeWait
  split
  · exact s.committing_keeps (parkResume_keeps · w)
  · exact emitResume_keeps s w
  · exact s.committing_keeps (takeResume_keeps · w)
  · exact cwaitResume_keeps s w
  · exact wfeResume_keeps s w
  · exact s.committing_keeps (mrecvResume_keeps · w)
  · exact bwaitResume_keeps s w
  · exact s.committing_keeps (engineResume_keeps · w)
  · exact id

theorem State.retry_keeps (s : State) : s.Keeps s.retry := by
  unfold State.retry
  split
  · exact id
  · next w _ =>
    have h := s.precise_keeps fun u => finish_keeps (resumeWait_keeps u w)
    split
    · next hu => rwa [hu] at h
    · exact id

theorem wakeUp_keeps (s : State) (k pos) : Leads (wakeUp k pos s) s.Keeps := by
  unfold wakeUp
  split
  · exact id
  · refine s.during_keeps pos fun u => ?_
    split
    · exact u.retry_keeps
    · exact id

theorem execCwaitTimeout_keeps (s : State) (pos) : Leads (execCwaitTimeout pos s) s.Keeps := by
  unfold execCwaitTimeout
  split
  · exact id
  · refine s.during_keeps pos fun u => ?_
    split
    · exact getD_keeps u.cwaitExpire_keeps
    · exact id

/-! ### Dispatch -/

/-- Every instruction and event of the table. Most words issue, end a scalar step, or take a step of an operation or a slot. -/
theorem exec_keeps (s : State) (i) : Leads (exec i s) s.Keeps := by
  unfold exec
  cases i with
  | add | sub | mul | mulh | mulhu | div | divu | rem | remu | sll | srl | sra | and_ | or_ | xor_ | min_ | max_ | minu
  | maxu | andn => exact regOp_keeps s _ _ _ _
  | clz | ctz | cpop | sextb | sexth | zexth | addi | slli | srli | srai | andi | ori | xori => exact unaryOp_keeps s _ _ _
  | lui => exact execLui_keeps s _ _
  | auipc => exact execAuipc_keeps s _ _
  | ceq | cne | clt | cge | cltu | cgeu => exact compareReg_keeps s _ _ _ _ _
  | ccmb => exact execCcmb_keeps s _ _ _ _ _ _
  | crdx => exact execCrdx_keeps s _
  | cwrx => exact execCwrx_keeps s _
  | ceqi | cnei | clti | cgei | cltui | cgeui => exact compareImm_keeps s _ _ _ _ _
  | cbiti => exact execCbiti_keeps s _ _ _ _
  | bc | bcn => exact branch_keeps s _ _
  | jal => exact execJal_keeps s _ _
  | jalr => exact execJalr_keeps s _ _ _
  | loop => exact execLoop_keeps s _ _
  | pref => exact s.advance_stands.keeps
  | lfetch | stop | scall | sbrk => exact finish_keeps id
  | fadd | fsub | fmul | fdiv => exact fpBinary_keeps s _ _ _ _ _
  | fsqrt => exact writeFp_keeps s _ _
  | fmin | fmax => exact fpMinMax_keeps s _ _ _ _ _
  | fsgnj | fsgnjn | fsgnjx => exact signInject_keeps s _ _ _ _ _
  | fcvt => exact execFcvt_keeps s _ _ _ _
  | fmvxf => exact execFmvxf_keeps s _ _ _
  | fmvfx => exact execFmvfx_keeps s _ _ _
  | fclass => exact execFclass_keeps s _ _ _
  | fceq | fclt | fcle => exact fpCompareWord_keeps s _ _ _ _ _ _
  | fmadd | fmsub | fnmadd | fnmsub => exact fusedWord_keeps s _ _ _ _ _ _ _
  | lb | lh | lw | ld | lbu | lhu | lwu => exact loadX_keeps s _ _ _ _ _
  | flh | flw | fld => exact loadF_keeps s _ _ _ _
  | sb | sh | sw | sd | fsh | fsw | fsd => exact storeWord_keeps s _ _ _ _
  | amoadd | amoswap | amocas | amomin | amomax | amominu | amomaxu | amoand | amoor | amoxor => exact amo_keeps s _ _ _ _ _
  | sret => exact execSret_keeps s
  | wfe => exact execWfe_keeps s
  | halt => exact execHalt_keeps s
  | atcinv => exact execAtcinv_keeps s _
  | srd => exact finish_keeps (srd_keeps s _ _ _)
  | swr | sset | sclr => exact finish_keeps (swr_keeps s _ _ _ _)
  | readVectorStatus | readTshape => exact srdRow_keeps s _ _ _
  | writeVectorStatus | writeFrm | writeLoopRegisters | writePtbase | writeSpbase | writeFrtbase | writeMarchsel
  | writeDigestControl => exact swrRow_keeps s _ _ _ _
  | vsetvl | vsetvli => exact configWord_keeps s _ _ _ _
  | modet | modev | gdecl | vblk | vadd | vsub | vmul | vmulh | vmulhu | vmacc | vand | vor | vxor | vsll | vsrl | vsra
  | vmin | vmax | vminu | vmaxu | vfadd | vfsub | vfmul | vfdiv | vfsqrt | vfmacc | vfnmsac | vfmin | vfmax | vfcvt
  | vfsgnj | vfrsqrte | vfclass | vmix | vfdot4 | vfmerge | vstep | vxch | vslideup | vslidedn | vgather | vcompress
  | vconf | vreds | vfredo | vredmin | vredmax | vmvxs | vmvsx | vpopc | vfirst | pand | por | pxor | pandn | pnot
  | pset | pclr | vcmpeq | vcmpne | vcmplt | vcmpltu | vcmpge | vfcmpeq | vfcmplt | vfcmple | pmerge | vld | vlds
  | vldx | vldf | vldfS | vldfX | vldr | vldrS | vldrX | vldg | vldgS | vldgX | vldP | texs | vst | vsts | vstx | vstF
  | vstsF | vstxF | vstr | vstrS | vstrX | vstg | vstgS | vstgX | vstP | vscadd | vstc | gp | gwedge | gjoin | gldot
  | gsand | gcomm | gproj | grev | ginvol | gdual | gnormsq | gnorm | gnormz | gexp | glog | gsqrt | ginv | tzero
  | topa | topas | tdrain | tldz | tstz | tshape | tfetch | hld | hst | hstTry | fsv => exact issue_keeps s _
  | tileAcquire => exact execTileAcquire_keeps s _
  | gtag => exact execGtag_keeps s _ _
  | vjoin => exact execVjoin_keeps s
  | laneGroupIssue => exact execLaneGroupIssue_keeps s _
  | topasRead => exact execTopasRead_keeps s _
  | hldh => exact execHldh_keeps s _ _
  | hsth => exact execHsth_keeps s _ _
  | hiter => exact execHiter_keeps s _ _
  | hattach => exact finish_keeps (s.committing_keeps fun u => hattachStep_keeps u _ _ _)
  | hdetach => exact finish_keeps (s.committing_keeps fun u => hdetachStep_keeps u _ _ _)
  | hinfo => exact execHinfo_keeps s _ _ _
  | forkCopy | forkFold | forkBlend | forkMarch => exact fork_keeps s _ _ _ _
  | rdv => exact execRdv_keeps s _ _
  | cpy => exact execCpy_keeps s _ _ _ _
  | cwait | cwaitR => exact finish_keeps (cwaitStep_keeps s _ _ _ _)
  | cwaitTimeout => exact execCwaitTimeout_keeps s _
  | ctest => exact execCtest_keeps s _ _
  | publish | publishDiscard => exact finish_keeps (s.committing_keeps fun u => publishStep_keeps u _ _ _)
  | msend => exact execMsend_keeps s _ _ _ _
  | mrecv | mrecvTry => exact finish_keeps (s.committing_keeps fun u => mrecvStep_keeps u _ _ _ _)
  | launch => exact finish_keeps (s.committing_keeps fun u => launchStep_keeps u _ _)
  | emit => exact execEmit_keeps s _ _
  | emitTry => exact execEmitTry_keeps s _ _ _
  | take => exact finish_keeps (s.committing_keeps fun u => takeBody_keeps u _ _)
  | rcast => exact finish_keeps (s.committing_keeps fun u => rcastStep_keeps u _ _ _)
  | rresume => exact finish_keeps (s.committing_keeps fun u => rresumeStep_keeps u _ _ _)
  | rquery => exact execRquery_keeps s _ _
  | fvs => exact execFvs_keeps s
  | fvv => exact execFvv_keeps s
  | barv => exact finish_keeps (s.committing_keeps fun u => barvStep_keeps u _ _ _)
  | bwait => exact finish_keeps (bwaitStep_keeps s _ _ _)
  | bset => exact execBset_keeps s _ _ _
  | ifence => exact execIfence_keeps s _ _ _
  | isync => exact execIsync_keeps s
  | dfence => exact execDfence_keeps s _
  | park => exact finish_keeps (s.committing_keeps fun u => parkStep_keeps u _ _ _)
  | parkReread | wfeWake | schedulerDecision | emitUnblock | bwaitComplete | mrecvDequeue => exact wakeUp_keeps s _ _
  | wake => exact finish_keeps (s.committing_keeps fun u => wakeStep_keeps u _ _ _ _)
  | vectorAdmit => exact execVectorAdmit_keeps s _
  | vectorCommit => exact execVectorCommit_keeps s _
  | vectorElementStep => exact execVectorElementStep_keeps s _
  | postStep => exact execPostStep_keeps s _
  | postedElementStep => exact execPostedElementStep_keeps s _ _ _
  | engineAccessStep => exact opEvent_keeps _ State.engineAccess_keeps s
  | engineWriteStep => exact opEvent_keeps _ State.engineWrite_keeps s
  | scoreboardTake => exact opEvent_keeps _ State.scoreStep_keeps s
  | copyRetire => exact opEvent_keeps _ State.retireCopy_keeps s
  | automaticPublish => exact opEvent_keeps _ State.enginePublish_keeps s
  | readyStep => exact opEvent_keeps _ State.readyOp_keeps s
  | finalStep => exact opEvent_keeps _ State.engineFinal_keeps s
  | foldRead => exact opEvent_keeps _ State.foldRead_keeps s
  | foldPublish => exact opEvent_keeps _ State.foldPublish_keeps s
  | blendTile => exact opEvent_keeps _ State.blendTile_keeps s
  | rayAdmission => exact opEvent_keeps _ State.admission_keeps s
  | marchStep => exact opEvent_keeps _ (fun u o => u.marchStep_keeps o _) s
  | bvhStep => exact opEvent_keeps _ (fun u o => u.bvhStep_keeps o _) s
  | rayReadmit => exact opEvent_keeps _ (fun u o => u.readmit_keeps o _) s
  | rayResume => exact opEvent_keeps _ (fun u o => u.resumeRay_keeps o _) s
  | hitRecordPush => exact opEvent_keeps _ (fun u o => u.pushHits_keeps o _) s
  | walkQuery => exact opEvent_keeps _ (fun u o => u.walkQuery_keeps o _) s
  | messageDelivery => exact execMessageDelivery_keeps s _
  | hostMessage => exact execHostMessage_keeps s _ _
  | frameFault => exact execFrameFault_keeps s _ _ _ _ _
  | define_ => exact execDefine_keeps s _
  | reside => exact execReside_keeps s _
  | evict => exact execEvict_keeps s _
  | stopContext => exact execStopContext_keeps s _
  | grant => exact execGrant_keeps s _ _ _ _
  | release_ => exact execRelease_keeps s _ _ _
  | remoteWriteRequest => exact execRemoteWriteRequest_keeps s _ _ _ _
  | remoteReadRequest => exact execRemoteReadRequest_keeps s _ _ _
  | remoteWriteAck => exact execRemoteWriteAck_keeps s _ _
  | remoteReadResponse => exact execRemoteReadResponse_keeps s _ _ _
  | pipelineLaunch => exact opEvent_keeps _ State.pipelineLaunch_keeps s
  | remoteWriteLaunch => exact opEvent_keeps _ State.sendWrite_keeps s
  | remoteReadLaunch => exact opEvent_keeps _ State.sendRead_keeps s
  | parameterCommit => exact execParameterCommit_keeps s _ _ _
  | gangLaunch => exact execGangLaunch_keeps s _ _
  | gangAck => exact execGangAck_keeps s _ _
  | gangTimeoutCheck => exact execGangTimeoutCheck_keeps s _
  | gangAbort => exact execGangAbort_keeps s _
  | gangArrive => exact execGangArrive_keeps s _ _ _ _
  | deliveryFailure => exact execDeliveryFailure_keeps s _ _
  | cxlHostWrite => exact execCxlHostWrite_keeps s _ _
  | attestationChallenge => exact execAttestationChallenge_keeps s _ _
  | preempt => exact execPreempt_keeps s _
  | restore => exact execRestore_keeps s _
  | powerSample => exact execPowerSample_keeps s _ _
  | thermalEvent => exact execThermalEvent_keeps s _
  | thermalRestart => exact execThermalRestart_keeps s
  | telemetryReport => exact execTelemetryReport_keeps s
  | patrolScrub => exact execPatrolScrub_keeps s _ _
  | powerOn => exact execPowerOn_keeps s _
  | sliceReassign => exact execSliceReassign_keeps s _ _
  | illegalWord => exact execIllegalWord_keeps s _
  | lossOfPower => exact execLossOfPower_keeps s
  | softError => exact execSoftError_keeps s _
  | quarterPowerGate => exact execQuarterPowerGate_keeps s _ _
  | newImageToInactiveBank => exact execNewImageToInactiveBank_keeps s _ _

/-! ### Derpor -/

theorem takeDerpor_keeps (s : State) (sender h i) : Leads (takeDerpor sender h i s) s.Keeps := by
  grind -ring -linarith -lia -order [takeDerpor, !State.drop_keeps, !exec_keeps, !State.passStamp_keeps, Leads.eq_def, State.Keeps]

/-! ### Turn -/

theorem runDecoded_keeps (s : State) (d v) : Leads (runDecoded d v s) s.Keeps := by
  unfold runDecoded
  split <;> grind -ring -linarith -lia -order [finish, hold, !exec_keeps, !execIllegalWord_keeps, Leads, State.Keeps]

theorem runWord_keeps (s : State) (v) : Leads (runWord v s) s.Keeps := runDecoded_keeps _ _ _

theorem fetchRun_keeps (s : State) : Leads (fetchRun s) s.Keeps := by
  have hf := s.fetch_stands s.t.pc false
  unfold fetchRun
  split
  · next hr =>
    rw [hr] at hf
    exact finish_keeps hf.keeps
  · next w u hr =>
    rw [hr] at hf
    exact Leads.trans hf.keeps (runWord_keeps u w)

theorem takeTurn_keeps (s : State) : Leads (takeTurn s) s.Keeps := by
  unfold takeTurn
  split
  · exact finish_keeps (resumeWait_keeps s _)
  · exact fetchRun_keeps s

theorem turn_keeps (s : State) : Leads (turn s) s.Keeps := by
  unfold turn
  split
  · exact id
  · exact s.precise_keeps takeTurn_keeps

theorem defaultStep_keeps (s : State) : Leads (defaultStep s) s.Keeps := by
  grind -ring -linarith -lia -order [defaultStep, !turn_keeps, !State.background_keeps, !State.rotate_keeps, Leads.eq_def,
    May.eq_def, State.Keeps]

theorem hiddenStep_keeps (s : State) (a) : s.Keeps (hiddenStep a s) := by
  have hslot : ∀ (pos : Nat) {f : State → Option State}, (∀ u : State, May (f u) u.Keeps) →
      s.Keeps (if slotCount ≤ pos then s else s.during pos fun s => if s.mayRun then (f s).getD s else s) :=
    fun pos _ h => slotEvent_keeps pos h s
  unfold hiddenStep
  split
  · exact hslot _ fun u => u.scalarStep_stands.keeps
  · exact hslot _ fun u => u.stepAhead_keeps _
  · exact hslot _ fun u => u.walkStart_keeps _
  · exact s.walkStep_keeps _
  · exact hslot _ fun u => u.fetchLine_keeps _
  · split
    · exact s.poolWrite_keeps _ _ _
    · exact id
  · split
    · exact s.poisoned_keeps _
    · exact id
  · exact s.programHdm_keeps _ _
  · exact s.assignUnit_keeps _ _
  · exact s.frameStart_keeps _
  · exact s.frameRead_keeps _ _ _
  · exact s.frameEnd_keeps _
  · exact getD_keeps (s.preempt_keeps _ _)
  · exact State.losePower_keeps _ ∘ s.cutWrite_keeps _
  all_goals exact id

theorem nextStep_keeps (s : State) : Leads (nextStep s) s.Keeps := by
  grind -ring -linarith -lia -order [nextStep, !defaultStep_keeps, !turn_keeps, !State.focus_holds, !exec_keeps, !takeDerpor_keeps,
    !hiddenStep_keeps, Leads.eq_def, State.Holds, State.Keeps]

/-- Settles O58: every step keeps the state in its form. Of the records, the images are the hard part: an image is taken only in a
pre-emption, and `State.preempt_keeps` says why its thread is live by then. -/
theorem everyStepKeepsTheStateOrderly : Obligations.EveryStepKeepsTheStateOrderly := by
  intro s t hs ht
  have h := nextStep_keeps s
  rw [show nextStep s = .next t from ht] at h
  exact (orderly_iff t).mpr (h ((orderly_iff s).mp hs))

end Sys2Proof.Machine
end

section
namespace Sys2Proof

/-! # Words and the instructions that they encode (R13 to R34) -/

/-! ### Fields of a word -/

theorem fld_lt (w lo n : Nat) : fld w lo n < 2 ^ n := Nat.mod_lt _ (by positivity)

/-- A field is its lower `m` bits and the `k` bits above them. -/
theorem fld_add (w lo m k : Nat) : fld w lo (m + k) = fld w lo m + 2 ^ m * fld w (lo + m) k := by
  simp only [fld, pow_add, Nat.mod_mul, Nat.div_div_eq_div_mul]

/-- Adjacent fields of a word from bit `lo` up, by their widths, put together again. -/
def fieldSum (w lo : Nat) : List Nat → Nat
  | [] => 0
  | n :: ns => fld w lo n + 2 ^ n * fieldSum w (lo + n) ns

/-- A field may be cut into fields of any widths. -/
theorem fld_eq_fieldSum (w lo n : Nat) (ns : List Nat) (hn : ns.sum = n) : fld w lo n = fieldSum w lo ns := by
  induction ns generalizing lo n with
  | nil => rw [← hn, fieldSum, fld, List.sum_nil, pow_zero, Nat.mod_one]
  | cons m ns ih => rw [← hn, List.sum_cons, fld_add, fieldSum, ih _ _ rfl]

/-- A word is its fields, wherever it is cut. -/
theorem eq_fieldSum {w : Nat} (hw : w < 2 ^ 32) (ns : List Nat) (hn : ns.sum = 32) : w = fieldSum w 0 ns := by
  rw [← fld_eq_fieldSum w 0 32 ns hn, fld, pow_zero, Nat.div_one, Nat.mod_eq_of_lt hw]

/-! ### Operands read from fields, and their codes -/

@[simp] theorem toNat_ofNat_fld (w lo n : Nat) : (BitVec.ofNat n (fld w lo n)).toNat = fld w lo n := by
  rw [BitVec.toNat_ofNat, Nat.mod_eq_of_lt (fld_lt w lo n)]

@[simp] theorem formCode_formOf_fld (w lo : Nat) : formCode (formOf (fld w lo 2)) = fld w lo 2 := by
  have h := fld_lt w lo 2
  interval_cases fld w lo 2 <;> rfl

@[simp] theorem ffmtCode_ffmtOf_fld (w lo : Nat) : ffmtCode (ffmtOf (fld w lo 2)) = fld w lo 2 := by
  have h := fld_lt w lo 2
  interval_cases fld w lo 2 <;> rfl

@[simp] theorem combineCode_combineOf_fld (w lo : Nat) : combineCode (combineOf (fld w lo 2)) = fld w lo 2 := by
  have h := fld_lt w lo 2
  interval_cases fld w lo 2 <;> rfl

@[simp] theorem ewCode_ewOf_fld (w lo : Nat) : ewCode (ewOf (fld w lo 2)) = fld w lo 2 := by
  have h := fld_lt w lo 2
  interval_cases fld w lo 2 <;> rfl

@[simp] theorem boolCode_boolOf_fld (w lo : Nat) : boolCode (boolOf (fld w lo 1)) = fld w lo 1 := by
  have h := fld_lt w lo 1
  interval_cases fld w lo 1 <;> rfl

/-- The immediate of a store is put together from two fields and cut into them again (R17). -/
theorem storeImm_fields (w : Nat) (imm : BitVec 12) (h : imm = .ofNat 12 (fld w 25 7 * 32 + fld w 7 5)) :
    fld imm.toNat 5 7 = fld w 25 7 ∧ fld imm.toNat 0 5 = fld w 7 5 := by
  have h7 := fld_lt w 25 7
  have h5 := fld_lt w 7 5
  rw [h, BitVec.toNat_ofNat, Nat.mod_eq_of_lt (by omega)]
  generalize fld w 25 7 = a at *
  generalize fld w 7 5 = b at *
  unfold fld
  omega

/-- The offset of a branch or a jump is put together from four fields and cut into them again (R22). -/
theorem jumpOffset_fields (w : Nat) (off : BitVec 19)
    (h : off = .ofNat 19 (fld w 31 1 * 262144 + fld w 12 8 * 1024 + fld w 20 1 * 512 + fld w 22 9)) :
    fld off.toNat 18 1 = fld w 31 1 ∧ fld off.toNat 10 8 = fld w 12 8 ∧ fld off.toNat 9 1 = fld w 20 1 ∧
      fld off.toNat 0 9 = fld w 22 9 := by
  have h31 := fld_lt w 31 1
  have h12 := fld_lt w 12 8
  have h20 := fld_lt w 20 1
  have h22 := fld_lt w 22 9
  rw [h, BitVec.toNat_ofNat, Nat.mod_eq_of_lt (by omega)]
  generalize fld w 31 1 = a at *
  generalize fld w 12 8 = b at *
  generalize fld w 20 1 = c at *
  generalize fld w 22 9 = d at *
  unfold fld
  omega

/-! ### Encoding inverts decoding: from a word to its instruction and back -/

/-- Whatever instruction is read is well formed, and encodes to the word (R31). -/
def ReadsBack (w : Nat) (r : Except DecodeError Instr) : Prop := ∀ i, r = .ok i → i.wellFormed = true ∧ encodeNat i = w

theorem readsBack_error (w : Nat) (e : DecodeError) : ReadsBack w (.error e) := fun _ h => nomatch h

theorem readsBack_admitWord {w : Nat} {i : Instr} (h : encodeNat i = w) : ReadsBack w (admitWord i) := by
  intro j hj
  unfold admitWord at hj
  split at hj
  · cases hj
    exact ⟨‹_›, h⟩
  · cases hj

/-- A row of a decoder reads back if the fields that it tests and those that it hands on are all of the word. -/
theorem readsBack_row {w : Nat} {c : Prop} [Decidable c] {i : Instr} {r : Except DecodeError Instr} (hr : ReadsBack w r)
    (h : c → encodeNat i = w) : ReadsBack w (if c then admitWord i else r) := by
  split
  · exact readsBack_admitWord (h ‹c›)
  · exact hr

theorem decodeLd_readsBack {w : Nat} (hw : w < 2 ^ 32) (hop : fld w 0 7 = 0x03) : ReadsBack w (decodeLd w) := by
  have h := eq_fieldSum hw [7, 5, 3, 5, 12] rfl
  simp only [fieldSum, Nat.reduceAdd, Nat.reducePow] at h
  unfold decodeLd
  repeat refine readsBack_row ?_ fun hrow => ?_
  · exact readsBack_error w _
  all_goals
    unfold encodeNat
    simp only [toNat_ofNat_fld]
    omega

theorem decodeLdf_readsBack {w : Nat} (hw : w < 2 ^ 32) (hop : fld w 0 7 = 0x07) : ReadsBack w (decodeLdf w) := by
  have h := eq_fieldSum hw [7, 5, 3, 5, 12] rfl
  simp only [fieldSum, Nat.reduceAdd, Nat.reducePow] at h
  unfold decodeLdf
  repeat refine readsBack_row ?_ fun hrow => ?_
  · exact readsBack_error w _
  all_goals
    unfold encodeNat
    simp only [toNat_ofNat_fld]
    omega

theorem decodeTensor_readsBack {w : Nat} (hw : w < 2 ^ 32) (hop : fld w 0 7 = 0x0B) : ReadsBack w (decodeTensor w) := by
  have h := eq_fieldSum hw [7, 5, 3, 5, 5, 2, 5] rfl
  have h1 := fld_eq_fieldSum w 7 5 [2, 3] rfl
  have h2 := fld_eq_fieldSum w 7 5 [4, 1] rfl
  have h3 := fld_eq_fieldSum w 15 5 [4, 1] rfl
  have h4 := fld_eq_fieldSum w 20 5 [4, 1] rfl
  have h5 := fld_eq_fieldSum w 20 5 [2, 3] rfl
  have h6 := fld_eq_fieldSum w 25 2 [1, 1] rfl
  have h7 := fld_eq_fieldSum w 25 3 [2, 1] rfl
  have h8 := fld_eq_fieldSum w 26 3 [1, 1, 1] rfl
  have h9 := fld_eq_fieldSum w 27 5 [1, 4] rfl
  have h10 := fld_eq_fieldSum w 28 4 [1, 3] rfl
  simp only [fieldSum, Nat.reduceAdd, Nat.reducePow] at h h1 h2 h3 h4 h5 h6 h7 h8 h9 h10
  unfold decodeTensor
  repeat refine readsBack_row ?_ fun hrow => ?_
  · exact readsBack_error w _
  all_goals
    unfold encodeNat
    simp only [toNat_ofNat_fld, boolCode_boolOf_fld]
    omega

theorem decodeMisc_readsBack {w : Nat} (hw : w < 2 ^ 32) (hop : fld w 0 7 = 0x0F) : ReadsBack w (decodeMisc w) := by
  have h := eq_fieldSum hw [7, 5, 3, 5, 12] rfl
  have h1 := fld_eq_fieldSum w 7 5 [2, 3] rfl
  have h2 := fld_eq_fieldSum w 20 12 [5, 2, 5] rfl
  simp only [fieldSum, Nat.reduceAdd, Nat.reducePow] at h h1 h2
  unfold decodeMisc
  repeat refine readsBack_row ?_ fun hrow => ?_
  · exact readsBack_error w _
  all_goals
    unfold encodeNat
    simp only [toNat_ofNat_fld]
    omega

theorem decodeOpi_readsBack {w : Nat} (hw : w < 2 ^ 32) (hop : fld w 0 7 = 0x13) : ReadsBack w (decodeOpi w) := by
  have h := eq_fieldSum hw [7, 5, 3, 5, 12] rfl
  have h1 := fld_eq_fieldSum w 20 12 [6, 1, 5] rfl
  simp only [fieldSum, Nat.reduceAdd, Nat.reducePow] at h h1
  unfold decodeOpi
  repeat refine readsBack_row ?_ fun hrow => ?_
  · exact readsBack_error w _
  all_goals
    unfold encodeNat
    simp only [toNat_ofNat_fld]
    omega

theorem decodeAuipc_readsBack {w : Nat} (hw : w < 2 ^ 32) (hop : fld w 0 7 = 0x17) : ReadsBack w (decodeAuipc w) := by
  have h := eq_fieldSum hw [7, 5, 20] rfl
  simp only [fieldSum, Nat.reduceAdd, Nat.reducePow] at h
  unfold decodeAuipc
  refine readsBack_admitWord ?_
  unfold encodeNat
  simp only [toNat_ofNat_fld]
  omega

theorem decodeCmpi_readsBack {w : Nat} (hw : w < 2 ^ 32) (hop : fld w 0 7 = 0x1B) : ReadsBack w (decodeCmpi w) := by
  have h := eq_fieldSum hw [7, 3, 2, 3, 5, 12] rfl
  have h1 := fld_eq_fieldSum w 20 12 [6, 1, 5] rfl
  simp only [fieldSum, Nat.reduceAdd, Nat.reducePow] at h h1
  unfold decodeCmpi
  repeat refine readsBack_row ?_ fun hrow => ?_
  · exact readsBack_error w _
  all_goals
    unfold encodeNat
    simp only [toNat_ofNat_fld, combineCode_combineOf_fld]
    omega

theorem decodeVopi_readsBack {w : Nat} (hw : w < 2 ^ 32) (hop : fld w 0 7 = 0x1F) : ReadsBack w (decodeVopi w) := by
  have h := eq_fieldSum hw [7, 5, 3, 5, 5, 1, 2, 4] rfl
  simp only [fieldSum, Nat.reduceAdd, Nat.reducePow] at h
  unfold decodeVopi
  repeat refine readsBack_row ?_ fun hrow => ?_
  · exact readsBack_error w _
  all_goals
    unfold encodeNat
    simp only [toNat_ofNat_fld, formCode_formOf_fld]
    omega

theorem decodeSt_readsBack {w : Nat} (hw : w < 2 ^ 32) (hop : fld w 0 7 = 0x23) : ReadsBack w (decodeSt w) := by
  have h := eq_fieldSum hw [7, 5, 3, 5, 5, 7] rfl
  simp only [fieldSum, Nat.reduceAdd, Nat.reducePow] at h
  unfold decodeSt
  repeat refine readsBack_row ?_ fun hrow => ?_
  · exact readsBack_error w _
  all_goals
    unfold encodeNat
    simp only [toNat_ofNat_fld, storeImm_fields w _ rfl]
    omega

theorem decodeStf_readsBack {w : Nat} (hw : w < 2 ^ 32) (hop : fld w 0 7 = 0x27) : ReadsBack w (decodeStf w) := by
  have h := eq_fieldSum hw [7, 5, 3, 5, 5, 7] rfl
  simp only [fieldSum, Nat.reduceAdd, Nat.reducePow] at h
  unfold decodeStf
  repeat refine readsBack_row ?_ fun hrow => ?_
  · exact readsBack_error w _
  all_goals
    unfold encodeNat
    simp only [toNat_ofNat_fld, storeImm_fields w _ rfl]
    omega

theorem decodeMessage_readsBack {w : Nat} (hw : w < 2 ^ 32) (hop : fld w 0 7 = 0x2B) : ReadsBack w (decodeMessage w) := by
  have h := eq_fieldSum hw [7, 5, 3, 5, 5, 2, 5] rfl
  have h1 := fld_eq_fieldSum w 7 5 [3, 2] rfl
  have h2 := fld_eq_fieldSum w 25 2 [1, 1] rfl
  have h3 := fld_eq_fieldSum w 25 4 [2, 1, 1] rfl
  have h4 := fld_eq_fieldSum w 26 3 [1, 1, 1] rfl
  have h5 := fld_eq_fieldSum w 27 5 [1, 1, 3] rfl
  simp only [fieldSum, Nat.reduceAdd, Nat.reducePow] at h h1 h2 h3 h4 h5
  unfold decodeMessage
  repeat refine readsBack_row ?_ fun hrow => ?_
  · exact readsBack_error w _
  all_goals
    unfold encodeNat
    simp only [toNat_ofNat_fld, boolCode_boolOf_fld]
    omega

theorem decodeAmo_readsBack {w : Nat} (hw : w < 2 ^ 32) (hop : fld w 0 7 = 0x2F) : ReadsBack w (decodeAmo w) := by
  have h := eq_fieldSum hw [7, 5, 1, 2, 5, 5, 2, 5] rfl
  simp only [fieldSum, Nat.reduceAdd, Nat.reducePow] at h
  unfold decodeAmo
  repeat refine readsBack_row ?_ fun hrow => ?_
  · exact readsBack_error w _
  all_goals
    unfold encodeNat
    simp only [toNat_ofNat_fld, boolCode_boolOf_fld]
    omega

theorem decodeOp_readsBack {w : Nat} (hw : w < 2 ^ 32) (hop : fld w 0 7 = 0x33) : ReadsBack w (decodeOp w) := by
  have h := eq_fieldSum hw [7, 5, 3, 5, 5, 2, 5] rfl
  simp only [fieldSum, Nat.reduceAdd, Nat.reducePow] at h
  unfold decodeOp
  repeat refine readsBack_row ?_ fun hrow => ?_
  · exact readsBack_error w _
  all_goals
    unfold encodeNat
    simp only [toNat_ofNat_fld]
    omega

theorem decodeLui_readsBack {w : Nat} (hw : w < 2 ^ 32) (hop : fld w 0 7 = 0x37) : ReadsBack w (decodeLui w) := by
  have h := eq_fieldSum hw [7, 5, 20] rfl
  simp only [fieldSum, Nat.reduceAdd, Nat.reducePow] at h
  unfold decodeLui
  refine readsBack_admitWord ?_
  unfold encodeNat
  simp only [toNat_ofNat_fld]
  omega

theorem decodeCmp_readsBack {w : Nat} (hw : w < 2 ^ 32) (hop : fld w 0 7 = 0x3B) : ReadsBack w (decodeCmp w) := by
  have h := eq_fieldSum hw [7, 5, 3, 5, 5, 2, 5] rfl
  have h1 := fld_eq_fieldSum w 7 5 [3, 2] rfl
  have h2 := fld_eq_fieldSum w 15 5 [3, 1, 1] rfl
  have h3 := fld_eq_fieldSum w 20 5 [3, 1, 1] rfl
  simp only [fieldSum, Nat.reduceAdd, Nat.reducePow] at h h1 h2 h3
  unfold decodeCmp
  repeat refine readsBack_row ?_ fun hrow => ?_
  · exact readsBack_error w _
  all_goals
    unfold encodeNat
    simp only [toNat_ofNat_fld, combineCode_combineOf_fld, boolCode_boolOf_fld]
    omega

theorem decodeFmaf_readsBack {w : Nat} (hw : w < 2 ^ 32) (hop : fld w 0 7 = 0x43) : ReadsBack w (decodeFmaf w) := by
  have h := eq_fieldSum hw [7, 5, 3, 5, 5, 2, 5] rfl
  simp only [fieldSum, Nat.reduceAdd, Nat.reducePow] at h
  unfold decodeFmaf
  repeat refine readsBack_row ?_ fun hrow => ?_
  · exact readsBack_error w _
  all_goals
    unfold encodeNat
    simp only [toNat_ofNat_fld, ffmtCode_ffmtOf_fld]
    omega

theorem decodeVcfg_readsBack {w : Nat} (hw : w < 2 ^ 32) (hop : fld w 0 7 = 0x47) : ReadsBack w (decodeVcfg w) := by
  have h := eq_fieldSum hw [7, 5, 3, 5, 12] rfl
  have h1 := fld_eq_fieldSum w 20 12 [5, 2, 5] rfl
  have h2 := fld_eq_fieldSum w 20 12 [11, 1] rfl
  simp only [fieldSum, Nat.reduceAdd, Nat.reducePow] at h h1 h2
  unfold decodeVcfg
  repeat refine readsBack_row ?_ fun hrow => ?_
  · exact readsBack_error w _
  all_goals
    unfold encodeNat
    simp only [toNat_ofNat_fld]
    omega

theorem decodeVld_readsBack {w : Nat} (hw : w < 2 ^ 32) (hop : fld w 0 7 = 0x4B) : ReadsBack w (decodeVld w) := by
  have h := eq_fieldSum hw [7, 5, 3, 5, 5, 2, 1, 4] rfl
  have h1 := fld_eq_fieldSum w 7 5 [4, 1] rfl
  have h2 := fld_eq_fieldSum w 12 3 [2, 1] rfl
  have h3 := fld_eq_fieldSum w 27 5 [1, 4] rfl
  simp only [fieldSum, Nat.reduceAdd, Nat.reducePow] at h h1 h2 h3
  unfold decodeVld
  repeat refine readsBack_row ?_ fun hrow => ?_
  · exact readsBack_error w _
  all_goals
    unfold encodeNat
    simp only [toNat_ofNat_fld, ewCode_ewOf_fld]
    omega

theorem decodeVst_readsBack {w : Nat} (hw : w < 2 ^ 32) (hop : fld w 0 7 = 0x4F) : ReadsBack w (decodeVst w) := by
  have h := eq_fieldSum hw [7, 5, 3, 5, 5, 2, 1, 4] rfl
  have h1 := fld_eq_fieldSum w 7 5 [4, 1] rfl
  have h2 := fld_eq_fieldSum w 12 3 [2, 1] rfl
  have h3 := fld_eq_fieldSum w 27 5 [1, 4] rfl
  simp only [fieldSum, Nat.reduceAdd, Nat.reducePow] at h h1 h2 h3
  unfold decodeVst
  repeat refine readsBack_row ?_ fun hrow => ?_
  · exact readsBack_error w _
  all_goals
    unfold encodeNat
    simp only [toNat_ofNat_fld, ewCode_ewOf_fld]
    omega

theorem decodeOpf_readsBack {w : Nat} (hw : w < 2 ^ 32) (hop : fld w 0 7 = 0x53) : ReadsBack w (decodeOpf w) := by
  have h := eq_fieldSum hw [7, 5, 3, 5, 5, 2, 5] rfl
  have h1 := fld_eq_fieldSum w 7 5 [3, 2] rfl
  simp only [fieldSum, Nat.reduceAdd, Nat.reducePow] at h h1
  unfold decodeOpf
  repeat refine readsBack_row ?_ fun hrow => ?_
  · exact readsBack_error w _
  all_goals
    unfold encodeNat
    simp only [toNat_ofNat_fld, ffmtCode_ffmtOf_fld, combineCode_combineOf_fld]
    omega

theorem decodeVopf_readsBack {w : Nat} (hw : w < 2 ^ 32) (hop : fld w 0 7 = 0x57) : ReadsBack w (decodeVopf w) := by
  have h := eq_fieldSum hw [7, 5, 3, 5, 5, 1, 2, 4] rfl
  have h1 := fld_eq_fieldSum w 25 2 [1, 1] rfl
  have h2 := fld_eq_fieldSum w 26 2 [1, 1] rfl
  simp only [fieldSum, Nat.reduceAdd, Nat.reducePow] at h h1 h2
  unfold decodeVopf
  repeat refine readsBack_row ?_ fun hrow => ?_
  · exact readsBack_error w _
  all_goals
    unfold encodeNat
    simp only [toNat_ofNat_fld, formCode_formOf_fld]
    omega

theorem decodeSync_readsBack {w : Nat} (hw : w < 2 ^ 32) (hop : fld w 0 7 = 0x5B) : ReadsBack w (decodeSync w) := by
  have h := eq_fieldSum hw [7, 5, 3, 5, 5, 3, 4] rfl
  have h1 := fld_eq_fieldSum w 25 3 [2, 1] rfl
  have h2 := fld_eq_fieldSum w 27 5 [1, 4] rfl
  simp only [fieldSum, Nat.reduceAdd, Nat.reducePow] at h h1 h2
  unfold decodeSync
  repeat refine readsBack_row ?_ fun hrow => ?_
  · exact readsBack_error w _
  all_goals
    unfold encodeNat
    simp only [toNat_ofNat_fld]
    omega

theorem decodeVperm_readsBack {w : Nat} (hw : w < 2 ^ 32) (hop : fld w 0 7 = 0x5F) : ReadsBack w (decodeVperm w) := by
  have h := eq_fieldSum hw [7, 5, 3, 5, 5, 1, 2, 4] rfl
  have h1 := fld_eq_fieldSum w 20 5 [4, 1] rfl
  have h2 := fld_eq_fieldSum w 25 2 [1, 1] rfl
  have h3 := fld_eq_fieldSum w 26 2 [1, 1] rfl
  simp only [fieldSum, Nat.reduceAdd, Nat.reducePow] at h h1 h2 h3
  unfold decodeVperm
  repeat refine readsBack_row ?_ fun hrow => ?_
  · exact readsBack_error w _
  all_goals
    unfold encodeNat
    simp only [toNat_ofNat_fld, formCode_formOf_fld]
    omega

theorem decodeBc_readsBack {w : Nat} (hw : w < 2 ^ 32) (hop : fld w 0 7 = 0x63) : ReadsBack w (decodeBc w) := by
  have h := eq_fieldSum hw [7, 1, 3, 1, 8, 1, 1, 9, 1] rfl
  simp only [fieldSum, Nat.reduceAdd, Nat.reducePow] at h
  unfold decodeBc
  repeat refine readsBack_row ?_ fun hrow => ?_
  · exact readsBack_error w _
  all_goals
    unfold encodeNat
    simp only [toNat_ofNat_fld, jumpOffset_fields w _ rfl]
    omega

theorem decodeJalr_readsBack {w : Nat} (hw : w < 2 ^ 32) (hop : fld w 0 7 = 0x67) : ReadsBack w (decodeJalr w) := by
  have h := eq_fieldSum hw [7, 5, 3, 5, 12] rfl
  simp only [fieldSum, Nat.reduceAdd, Nat.reducePow] at h
  unfold decodeJalr
  repeat refine readsBack_row ?_ fun hrow => ?_
  · exact readsBack_error w _
  all_goals
    unfold encodeNat
    simp only [toNat_ofNat_fld]
    omega

theorem decodeGraded_readsBack {w : Nat} (hw : w < 2 ^ 32) (hop : fld w 0 7 = 0x6B) : ReadsBack w (decodeGraded w) := by
  have h := eq_fieldSum hw [7, 5, 1, 1, 1, 5, 5, 2, 1, 4] rfl
  simp only [fieldSum, Nat.reduceAdd, Nat.reducePow] at h
  unfold decodeGraded
  repeat refine readsBack_row ?_ fun hrow => ?_
  · exact readsBack_error w _
  all_goals
    unfold encodeNat
    simp only [toNat_ofNat_fld, boolCode_boolOf_fld]
    omega

theorem decodeJal_readsBack {w : Nat} (hw : w < 2 ^ 32) (hop : fld w 0 7 = 0x6F) : ReadsBack w (decodeJal w) := by
  have h := eq_fieldSum hw [7, 5, 8, 1, 1, 9, 1] rfl
  simp only [fieldSum, Nat.reduceAdd, Nat.reducePow] at h
  unfold decodeJal
  repeat refine readsBack_row ?_ fun hrow => ?_
  · exact readsBack_error w _
  all_goals
    unfold encodeNat
    simp only [toNat_ofNat_fld, jumpOffset_fields w _ rfl]
    omega

theorem decodeSystem_readsBack {w : Nat} (hw : w < 2 ^ 32) (hop : fld w 0 7 = 0x73) : ReadsBack w (decodeSystem w) := by
  have h := eq_fieldSum hw [7, 5, 3, 5, 12] rfl
  have h1 := fld_eq_fieldSum w 20 12 [5, 2, 5] rfl
  simp only [fieldSum, Nat.reduceAdd, Nat.reducePow] at h h1
  unfold decodeSystem
  repeat refine readsBack_row ?_ fun hrow => ?_
  · exact readsBack_error w _
  all_goals
    unfold encodeNat
    simp only [toNat_ofNat_fld]
    omega

theorem decodeVpred_readsBack {w : Nat} (hw : w < 2 ^ 32) (hop : fld w 0 7 = 0x77) : ReadsBack w (decodeVpred w) := by
  have h := eq_fieldSum hw [7, 5, 3, 5, 5, 1, 2, 4] rfl
  have h1 := fld_eq_fieldSum w 7 5 [4, 1] rfl
  have h2 := fld_eq_fieldSum w 15 5 [4, 1] rfl
  have h3 := fld_eq_fieldSum w 20 5 [4, 1] rfl
  have h4 := fld_eq_fieldSum w 25 2 [1, 1] rfl
  have h5 := fld_eq_fieldSum w 26 2 [1, 1] rfl
  simp only [fieldSum, Nat.reduceAdd, Nat.reducePow] at h h1 h2 h3 h4 h5
  unfold decodeVpred
  repeat refine readsBack_row ?_ fun hrow => ?_
  · exact readsBack_error w _
  all_goals
    unfold encodeNat
    simp only [toNat_ofNat_fld, formCode_formOf_fld]
    omega

/-- The major opcode chooses the decoder (R24), and each decoder reads back. -/
theorem decodeOther_readsBack (v : Word) : ReadsBack v.toNat (decodeOther v) := by
  have hv := v.isLt
  unfold decodeOther
  dsimp only
  split
  · exact decodeLd_readsBack hv ‹_›
  · exact decodeLdf_readsBack hv ‹_›
  · exact decodeTensor_readsBack hv ‹_›
  · exact decodeMisc_readsBack hv ‹_›
  · exact decodeOpi_readsBack hv ‹_›
  · exact decodeAuipc_readsBack hv ‹_›
  · exact decodeCmpi_readsBack hv ‹_›
  · exact decodeVopi_readsBack hv ‹_›
  · exact decodeSt_readsBack hv ‹_›
  · exact decodeStf_readsBack hv ‹_›
  · exact decodeMessage_readsBack hv ‹_›
  · exact decodeAmo_readsBack hv ‹_›
  · exact decodeCmp_readsBack hv ‹_›
  · exact decodeFmaf_readsBack hv ‹_›
  · exact decodeVcfg_readsBack hv ‹_›
  · exact decodeVld_readsBack hv ‹_›
  · exact decodeVst_readsBack hv ‹_›
  · exact decodeOpf_readsBack hv ‹_›
  · exact decodeVopf_readsBack hv ‹_›
  · exact decodeSync_readsBack hv ‹_›
  · exact decodeVperm_readsBack hv ‹_›
  · exact decodeBc_readsBack hv ‹_›
  · exact decodeJalr_readsBack hv ‹_›
  · exact decodeGraded_readsBack hv ‹_›
  · exact decodeJal_readsBack hv ‹_›
  · exact decodeSystem_readsBack hv ‹_›
  · exact decodeVpred_readsBack hv ‹_›
  · split <;> exact readsBack_error _ _

theorem decodeWord_readsBack (v : Word) : ReadsBack v.toNat (decodeWord v) := by
  unfold decodeWord
  split
  · exact decodeOp_readsBack v.isLt ‹_›
  · split
    · exact decodeLui_readsBack v.isLt ‹_›
    · exact decodeOther_readsBack v

end Sys2Proof

namespace Sys2Proof.Machine

/-- Settles O54: in each row of the decoder the fields that are tested and those that become operands are all 32 bits of the word. -/
theorem encodingInvertsDecoding : Obligations.EncodingInvertsDecoding := by
  intro v i h
  obtain ⟨hi, hw⟩ := decodeWord_readsBack v i h
  exact ⟨hi, by rw [encode, hw, BitVec.ofNat_toNat, BitVec.setWidth_eq]⟩

end Sys2Proof.Machine
end

section
namespace Sys2Proof.Machine

/-- Settles O55, each word by evaluating the decoder on it. -/
theorem decodedWords : Obligations.DecodedWords := by
  unfold Obligations.DecodedWords
  decide +kernel

/-! ### The fetch -/

/-- A sound line passes its check (R449). -/
theorem checkLine_of_lineOk {s : State} {ctx kind va pa : Nat} (h : s.lineOk (pa / 128) = true) :
    s.checkLine ctx kind va pa = .ok s := by
  unfold State.lineOk at h
  simp only [Bool.and_eq_true, Bool.not_eq_true', beq_iff_eq] at h
  obtain ⟨hchk, hquar⟩ := h
  rw [State.checkLine, hquar, if_neg Bool.false_ne_true, if_pos hchk]

/-- Without stale fetches no copy of a word is used (R237). -/
theorem fetchCopy_fresh {s : State} (h : s.ch.staleFetch = false) (block : Bool) (va : DWord) (pa : Nat) :
    s.fetchCopy block va pa = none := by
  rw [State.fetchCopy, h]
  rfl

theorem fetch_misaligned {s : State} {va : DWord} (h : va.toNat % 4 ≠ 0) (block : Bool) :
    s.fetch va block = .error (.trap cause.misalignedFetch va, s) := by
  rw [State.fetch, if_pos h]
  rfl

/-- A fetch that translates, on a sound line and with no copy used, reads memory (R371). What it keeps of the word is a copy in the core
and the thread. -/
theorem fetch_memory {s : State} {va : DWord} {pa r : Nat} (ha : va.toNat % 4 = 0) (hf : s.ch.staleFetch = false)
    (ht : s.translate s.agent .fetch va.toNat = .ok ((pa, r), s)) (hl : s.lineOk (pa / 128) = true) (block : Bool) :
    ∃ t, s.fetch va block = .ok ((s.copyOf va pa).word, t) ∧ t.mem = s.mem ∧ (s.ch.keepFetched = false → t = s) := by
  rw [State.fetch, if_neg (not_not.mpr ha), ht]
  dsimp only
  rw [fetchCopy_fresh hf, checkLine_of_lineOk hl]
  refine ⟨_, rfl, ?_, fun hk => ?_⟩
  · split <;> rfl
  · rw [hk]
    rfl

/-- The fetch of O59. -/
theorem fetchReadsMemory : Claim.FetchReadsMemory :=
  fun _ _ _ _ => ⟨fun block h => fetch_misaligned h block, fun ha hf ht hl block => fetch_memory ha hf ht hl block⟩

/-! ### A turn -/

/-- A word that the decoder refuses, that it reads, or that has to wait, comes to what R35, R86 and R107 say. -/
theorem fetchRun_wordRuns (y : State) : Claim.wordRuns y (fetchRun y) := by
  refine ⟨fun w u hf => ⟨fun i hi => ⟨fun hp hd => ?_, fun hw => ?_⟩, fun e he => ?_⟩, fun c v u hf => ?_⟩
  · rw [fetchRun, hf]
    exact runWord_ok hi hp hd
  · have hor : (u.pendingBit i || u.mustDrain i) = true := by simpa using hw
    rw [fetchRun, hf]
    dsimp only
    rw [runWord, hi, runDecoded, if_pos hor]
    rfl
  · rw [fetchRun, hf]
    dsimp only
    rw [runWord, he]
    rfl
  · rw [fetchRun, hf]
    rfl

/-- A thread that waits for no more than its start fetches its next word at its turn. -/
theorem takeTurn_unwaiting {s : State} (h : s.t.waiting = none) : takeTurn s = fetchRun s := by
  rw [takeTurn, h]

theorem waiting_none {t : Thread} (h : t.wait = none ∨ ∃ x, t.wait = some x ∧ x.kind = .hold) : t.waiting = none := by
  obtain h | ⟨x, h, hx⟩ := h
  · rw [Thread.waiting, h]
  · rw [Thread.waiting, h]
    exact if_pos hx

theorem trapped_iff (s r : State) : trapped s r = true ↔ Claim.meetsCause s r := by
  simp [trapped, Claim.meetsCause, and_assoc]

theorem stand_eq (s : State) : s.stand = { s with t := { s.t with wait := some (s.t.wait.getD { kind := .hold }) } } := by
  unfold State.stand
  split <;> simp [*]

/-- A try of a word ends as R35 and R223 say: it stands, or its trap waits for earlier accesses and for the head's boundary. -/
theorem precise_turnEnds {y : State} (hw : y.t.waiting = none) : Claim.turnEnds y (y.precise takeTurn) := by
  refine ⟨fetchRun y, fetchRun_wordRuns y, fun r hr => ?_⟩
  rw [State.precise, takeTurn_unwaiting hw, hr]
  simp only [← trapped_iff, ← stand_eq]
  refine ⟨?_, fun hm hs => ?_, fun hm hs hg => ?_⟩
  · rintro (hm | ⟨hs, hg⟩)
    · simp [hm]
    · simp [hs, hg]
  · simp [hm, hs]
  · simp only [hm, hs, hg, Bool.not_true, Bool.false_eq_true, if_false, ne_eq, not_true_eq_false, if_true]
    refine ⟨fun hb => ?_, fun hb hc => ?_, fun hb hi hl hn => ?_⟩
    · simp [hb]
    · simp [hb, hc]
    · simp only [hb, hi, hl, Bool.not_true, Bool.or_self, Bool.false_eq_true, if_false]
      rw [takeTurn_unwaiting hn]
      exact fetchRun_wordRuns _

theorem turn_held {y : State} (h : y.mayRun = false) : turn y = .next y := by
  rw [turn, h]
  rfl

theorem turn_runs {y : State} (h : y.mayRun = true) : turn y = y.precise takeTurn := by
  rw [turn, h]
  rfl

/-- The step of O59: a turn is one try of a word. -/
theorem stepRunsTheDecodedWord : Claim.StepRunsTheDecodedWord := by
  intro s p ch r i runs
  have hruns : ∀ y, step s = turn y → runs y := fun y hs => by
    refine ⟨fun hm => hs.trans (turn_held hm), fun hm hw => ?_⟩
    rw [hs, turn_runs hm]
    exact precise_turnEnds (waiting_none hw)
  refine ⟨fun hs => hruns _ ?_, fun hs hl hw => hruns _ ?_, fun hs => ?_⟩
  · rw [step, nextStep, hs]
  · rw [step, nextStep, hs, defaultStep, hl, hw]
    rfl
  · rw [step, nextStep, hs]

/-- Settles O59, from the fetch and from the step of a turn. -/
theorem fetchAndStepRunTheDecodedWord : Obligations.FetchAndStepRunTheDecodedWord :=
  ⟨fetchReadsMemory, stepRunsTheDecodedWord⟩

end Sys2Proof.Machine
end

section
namespace Sys2Proof.Machine

/-! # Every instruction goes on

Most rows of the opcode table end with the state that they leave, or end as a word of the scalar stream does (`finish_next`). The lemmas
here are for the rows that choose between the two. -/

/-- A vector-side word is refused, is held, or enters the queue (R218 to R223). -/
theorem issue_next (i : Instr) (s : State) : ∃ t, issue i s = .next t := by
  unfold issue
  split
  · split
    · exact ⟨_, rfl⟩
    · exact finish_next _
  split
  · exact ⟨_, rfl⟩
  split
  · exact finish_next _
  split
  · exact finish_next _
  split
  · exact finish_next _
  · exact ⟨_, rfl⟩

theorem configWord_next (i : Instr) (req : DWord) (rs1 rd : Reg) (s : State) : ∃ t, configWord i req rs1 rd s = .next t := by
  unfold configWord
  split
  · exact finish_next _
  split
  · exact finish_next _
  split
  · exact finish_next _
  · exact ⟨_, rfl⟩

theorem execFvv_next (s : State) : ∃ t, execFvv s = .next t := by
  unfold execFvv
  split
  · exact finish_next _
  split
  · split
    · exact finish_next _
    · exact ⟨_, rfl⟩
    · next u _ =>
      obtain ⟨t, ht⟩ := issue_next .fvv u
      rw [ht]
      exact ⟨_, rfl⟩
  · exact issue_next .fvv s

theorem loadX_next (n : Nat) (signed : Bool) (imm : BitVec 12) (rs1 rd : Reg) (s : State) : ∃ t, loadX n signed imm rs1 rd s = .next t := by
  unfold loadX
  split
  · exact ⟨_, rfl⟩
  · exact finish_next _

theorem execFcvt_next (fmt : FFmt) (sel : BitVec 5) (rs1 rd : Reg) (s : State) : ∃ t, execFcvt fmt sel rs1 rd s = .next t := by
  unfold execFcvt
  dsimp only
  split
  · exact ⟨_, rfl⟩
  split <;> exact ⟨_, rfl⟩

theorem srdRow_next (group : List Nat) (reg : BitVec 12) (rd : Reg) (s : State) : ∃ t, srdRow group reg rd s = .next t := by
  unfold srdRow
  split
  · exact finish_next _
  · exact ⟨_, rfl⟩

theorem swrRow_next (group : List Nat) (k : StatusOp) (reg : BitVec 12) (rs1 : Reg) (s : State) :
    ∃ t, swrRow group k reg rs1 s = .next t := by
  unfold swrRow
  split
  · exact finish_next _
  · exact ⟨_, rfl⟩

theorem execJalr_next (imm : BitVec 12) (rs1 rd : Reg) (s : State) : ∃ t, execJalr imm rs1 rd s = .next t := by
  unfold execJalr
  dsimp only
  split
  · exact finish_next _
  · exact ⟨_, rfl⟩

theorem execLoop_next (imm : BitVec 12) (rs1 : Reg) (s : State) : ∃ t, execLoop imm rs1 s = .next t := by
  unfold execLoop
  dsimp only
  split <;> exact ⟨_, rfl⟩

theorem execSret_next (s : State) : ∃ t, execSret s = .next t := by
  unfold execSret
  split
  · exact finish_next _
  split
  · exact finish_next _
  · exact ⟨_, rfl⟩

/-- Settles O57: a word enters the queue, is finished, or leaves a state, and every event leaves a state. -/
theorem everyInstructionGoesOn : Obligations.EveryInstructionGoesOn := by
  intro i s
  unfold exec
  cases i with
  | modet | modev | gdecl | vblk | vadd | vsub | vmul | vmulh | vmulhu | vmacc | vand | vor | vxor | vsll | vsrl | vsra
  | vmin | vmax | vminu | vmaxu | vfadd | vfsub | vfmul | vfdiv | vfsqrt | vfmacc | vfnmsac | vfmin | vfmax | vfcvt
  | vfsgnj | vfrsqrte | vfclass | vmix | vfdot4 | vfmerge | vstep | vxch | vslideup | vslidedn | vgather | vcompress
  | vconf | vreds | vfredo | vredmin | vredmax | vmvxs | vmvsx | vpopc | vfirst | pand | por | pxor | pandn | pnot
  | pset | pclr | vcmpeq | vcmpne | vcmplt | vcmpltu | vcmpge | vfcmpeq | vfcmplt | vfcmple | pmerge | vld | vlds
  | vldx | vldf | vldfS | vldfX | vldr | vldrS | vldrX | vldg | vldgS | vldgX | vldP | texs | vst | vsts | vstx | vstF
  | vstsF | vstxF | vstr | vstrS | vstrX | vstg | vstgS | vstgX | vstP | vscadd | vstc | gp | gwedge | gjoin | gldot
  | gsand | gcomm | gproj | grev | ginvol | gdual | gnormsq | gnorm | gnormz | gexp | glog | gsqrt | ginv | tzero
  | topa | topas | tdrain | tldz | tstz | tshape | tfetch | hld | hst | hstTry | fsv => exact issue_next _ s
  | fvv => exact execFvv_next s
  | vsetvl | vsetvli => exact configWord_next _ _ _ _ s
  | lb | lh | lw | ld | lbu | lhu | lwu => exact loadX_next _ _ _ _ _ s
  | fcvt => exact execFcvt_next _ _ _ _ s
  | readVectorStatus => exact srdRow_next _ _ _ s
  | writeVectorStatus | writeFrm | writeLoopRegisters | writeDigestControl => exact swrRow_next _ _ _ _ s
  | jalr => exact execJalr_next _ _ _ s
  | loop => exact execLoop_next _ _ s
  | sret => exact execSret_next s
  | flh | flw | fld | sb | sh | sw | sd | fsh | fsw | fsd | amoadd | amoswap | amocas | amomin | amomax | amominu
  | amomaxu | amoand | amoor | amoxor | wfe | halt | atcinv | srd | swr | sset | sclr | readTshape | writePtbase | writeSpbase
  | writeFrtbase | writeMarchsel | gtag | vjoin | hldh | hsth | hiter | hattach | hdetach | hinfo | forkCopy | forkFold
  | forkBlend | forkMarch | rdv | cpy | cwait | cwaitR | publish | publishDiscard | msend | mrecv | mrecvTry | launch
  | emit | emitTry | take | rcast | rresume | rquery | fvs | barv | bwait | bset | dfence | park | wake => exact finish_next _
  | _ => exact ⟨_, rfl⟩

end Sys2Proof.Machine
end

section
namespace Sys2Proof

/-! ### A word laid out: fixed bits, and operands in the gaps that they leave -/

/-- What a field holds: a value of the field's width. -/
structure Operand where
  width : Nat
  value : Nat
  fits : value < 2 ^ width

theorem formCode_lt (f : Form) : formCode f < 2 ^ 2 := by cases f <;> decide

theorem ffmtCode_lt (f : FFmt) : ffmtCode f < 2 ^ 2 := by cases f <;> decide

theorem combineCode_lt (m : Combine) : combineCode m < 2 ^ 2 := by cases m <;> decide

theorem ewCode_lt (w : EW) : ewCode w < 2 ^ 2 := by cases w <;> decide

theorem boolCode_lt (b : Bool) : boolCode b < 2 ^ 1 := by cases b <;> decide

@[simp] def Operand.bits {n : Nat} (x : BitVec n) : Operand := ⟨n, x.toNat, x.isLt⟩

@[simp] def Operand.form (f : Form) : Operand := ⟨2, formCode f, formCode_lt f⟩

@[simp] def Operand.ffmt (f : FFmt) : Operand := ⟨2, ffmtCode f, ffmtCode_lt f⟩

@[simp] def Operand.combine (m : Combine) : Operand := ⟨2, combineCode m, combineCode_lt m⟩

@[simp] def Operand.ew (w : EW) : Operand := ⟨2, ewCode w, ewCode_lt w⟩

@[simp] def Operand.bool (b : Bool) : Operand := ⟨1, boolCode b, boolCode_lt b⟩

/-- Bits `lo` to `lo + n - 1` of an immediate that is split over a word. -/
@[simp] def Operand.part {m : Nat} (x : BitVec m) (lo n : Nat) : Operand := ⟨n, fld x.toNat lo n, fld_lt _ lo n⟩

/-- The word of fixed bits `k` and of operands at fields, each given by its lowest bit and its width. -/
def wordOf (k : Nat) : List (Nat × Nat) → List Operand → Nat
  | q :: ps, o :: l => wordOf k ps l + o.value * 2 ^ q.1
  | _, _ => k

/-- Two fields have no bit in common. -/
def apart (p q : Nat × Nat) : Bool := (p.1 + p.2).ble q.1 || (q.1 + q.2).ble p.1

/-- Every field lies within 32 bits, where the fixed bits are zero and no other field lies. -/
def layoutOk (k : Nat) : List (Nat × Nat) → Bool
  | [] => true
  | q :: ps => (q.1 + q.2).ble 32 && (fld k q.1 q.2).beq 0 && ps.all (apart q) && layoutOk k ps

/-- What the fields of a word hold. -/
@[simp] def Holds (w : Nat) : List (Nat × Nat) → List Operand → Prop
  | q :: ps, o :: l => fld w q.1 q.2 = o.value ∧ Holds w ps l
  | _, _ => True

theorem apart_comm (p q : Nat × Nat) : apart p q = apart q p := Bool.or_comm _ _

/-- A value in bits that are clear stands between the bits below it and the bits above it. -/
theorem add_shifted {a lo n : Nat} (h : fld a lo n = 0) (v : Nat) :
    a + v * 2 ^ lo = a % 2 ^ lo + 2 ^ lo * (v + 2 ^ n * (a / 2 ^ lo / 2 ^ n)) := by
  have hn : 2 ^ n * (a / 2 ^ lo / 2 ^ n) = a / 2 ^ lo := Nat.mul_div_cancel' (Nat.dvd_of_mod_eq_zero h)
  rw [hn, mul_add, add_comm (2 ^ lo * v), ← add_assoc, Nat.mod_add_div, mul_comm v]

theorem fld_add_shifted {a lo n v : Nat} (h : fld a lo n = 0) (hv : v < 2 ^ n) : fld (a + v * 2 ^ lo) lo n = v := by
  rw [add_shifted h, fld, Nat.add_mul_div_left _ _ (Nat.two_pow_pos lo), Nat.div_eq_of_lt (Nat.mod_lt _ (Nat.two_pow_pos lo)),
    zero_add, Nat.add_mul_mod_self_left, Nat.mod_eq_of_lt hv]

/-- A field within the lowest `m` bits. -/
theorem fld_mod_pow {w lo n m : Nat} (h : lo + n ≤ m) : fld (w % 2 ^ m) lo n = fld w lo n := by
  have hw : ∀ x, fld x lo n = x % 2 ^ (lo + n) / 2 ^ lo := fun x => by rw [pow_add, Nat.mod_mul_right_div_self, fld]
  rw [hw, hw, Nat.mod_mod_of_dvd _ (pow_dvd_pow 2 h)]

/-- A field above the lowest `lo + n` bits. -/
theorem fld_eq_div {w lo n p m : Nat} (h : lo + n ≤ p) : fld w p m = w / 2 ^ lo / 2 ^ n / 2 ^ (p - (lo + n)) % 2 ^ m := by
  rw [Nat.div_div_eq_div_mul, Nat.div_div_eq_div_mul, ← pow_add, ← pow_add, ← add_assoc, Nat.add_sub_cancel' h, fld]

theorem fld_add_apart {a v : Nat} {p q : Nat × Nat} (h : fld a q.1 q.2 = 0) (hv : v < 2 ^ q.2) (hp : apart p q = true) :
    fld (a + v * 2 ^ q.1) p.1 p.2 = fld a p.1 p.2 := by
  simp only [apart, Bool.or_eq_true, Nat.ble_eq] at hp
  obtain hp | hp := hp
  · rw [← fld_mod_pow hp, Nat.add_mul_mod_self_right, fld_mod_pow hp]
  · rw [fld_eq_div hp, fld_eq_div hp, add_shifted h, Nat.add_mul_div_left _ _ (Nat.two_pow_pos _),
      Nat.div_eq_of_lt (Nat.mod_lt _ (Nat.two_pow_pos _)), zero_add, Nat.add_mul_div_left _ _ (Nat.two_pow_pos _),
      Nat.div_eq_of_lt hv, zero_add]

/-- What is added in a field leaves the fields apart from it. -/
theorem holds_add {a v : Nat} {q : Nat × Nat} (h : fld a q.1 q.2 = 0) (hv : v < 2 ^ q.2) {ps : List (Nat × Nat)} {l : List Operand}
    (hp : ps.all (apart q) = true) (hl : Holds a ps l) : Holds (a + v * 2 ^ q.1) ps l := by
  induction ps generalizing l with
  | nil => trivial
  | cons p ps ih =>
    cases l with
    | nil => trivial
    | cons o l =>
      simp only [List.all_cons, Bool.and_eq_true] at hp
      rw [apart_comm] at hp
      exact ⟨(fld_add_apart h hv hp.1).trans hl.1, ih hp.2 hl.2⟩

/-- In a word that is laid out every field holds its operand, and bits that no field has are the fixed bits. -/
theorem wordOf_holds {k : Nat} {ps : List (Nat × Nat)} {l : List Operand} (hk : layoutOk k ps = true)
    (hl : l.map Operand.width = ps.map Prod.snd) :
    Holds (wordOf k ps l) ps l ∧ ∀ p : Nat × Nat, ps.all (apart p) = true → fld (wordOf k ps l) p.1 p.2 = fld k p.1 p.2 := by
  induction ps generalizing l with
  | nil => exact ⟨trivial, fun _ _ => rfl⟩
  | cons q ps ih =>
    obtain _ | ⟨o, l⟩ := l
    · cases hl
    · simp only [layoutOk, Bool.and_eq_true, Nat.ble_eq, Nat.beq_eq] at hk
      obtain ⟨⟨⟨-, hq⟩, hps⟩, hk⟩ := hk
      simp only [List.map_cons, List.cons.injEq] at hl
      obtain ⟨hw, hl⟩ := hl
      obtain ⟨hholds, hfixed⟩ := ih hk hl
      have hclear := (hfixed q hps).trans hq
      have hfits : o.value < 2 ^ q.2 := hw ▸ o.fits
      refine ⟨⟨fld_add_shifted hclear hfits, holds_add hclear hfits hps hholds⟩, fun p hp => ?_⟩
      simp only [List.all_cons, Bool.and_eq_true] at hp
      exact (fld_add_apart hclear hfits hp.1).trans (hfixed p hp.2)

theorem holds_mod {w k : Nat} {ps : List (Nat × Nat)} {l : List Operand} (hk : layoutOk k ps = true) (h : Holds w ps l) :
    Holds (w % 2 ^ 32) ps l := by
  induction ps generalizing l with
  | nil => trivial
  | cons q ps ih =>
    cases l with
    | nil => trivial
    | cons o l =>
      simp only [layoutOk, Bool.and_eq_true, Nat.ble_eq, Nat.beq_eq] at hk
      obtain ⟨⟨⟨hq, -⟩, -⟩, hk⟩ := hk
      exact ⟨(fld_mod_pow hq).trans h.1, ih hk h.2⟩

/-! ### Decoding inverts encoding: from an instruction to its word and back -/

/-- The decoder reads the instruction from its word, if it is well formed. -/
def RoundTrips (i : Instr) : Prop := i.wellFormed = true → decodeWord (encode i) = .ok i

/-- An instruction round-trips if the decoder comes to its row at every word of its layout: where the fields `fs` hold the fixed bits `k`
and the fields `ps` the operands `l`. -/
theorem roundTrips_of_layout {i : Instr} {k : Nat} (fs ps : List (Nat × Nat)) (l : List Operand) (h : encodeNat i = wordOf k ps l)
    (hk : layoutOk k ps = true) (hl : l.map Operand.width = ps.map Prod.snd)
    (hf : (fs.all fun p => (p.1 + p.2).ble 32 && ps.all (apart p)) = true)
    (hd : ∀ v : Word, (fs.Forall fun p => fld v.toNat p.1 p.2 = k / 2 ^ p.1 % 2 ^ p.2) → Holds v.toNat ps l → decodeWord v = admitWord i) :
    RoundTrips i := by
  obtain ⟨hholds, hfixed⟩ := wordOf_holds hk hl
  have hv : (encode i).toNat = wordOf k ps l % 2 ^ 32 := by rw [encode, h, BitVec.toNat_ofNat]
  intro hw
  rw [hd (encode i), admitWord, if_pos hw]
  · refine List.forall_iff_forall_mem.mpr fun p hp => ?_
    have hc := List.all_eq_true.mp hf p hp
    simp only [Bool.and_eq_true, Nat.ble_eq] at hc
    rw [hv, fld_mod_pow hc.1, hfixed p hc.2, fld]
  · rw [hv]
    exact holds_mod hk hholds

@[simp] theorem formOf_formCode (f : Form) : formOf (formCode f) = f := by cases f <;> rfl

@[simp] theorem ffmtOf_ffmtCode (f : FFmt) : ffmtOf (ffmtCode f) = f := by cases f <;> rfl

@[simp] theorem combineOf_combineCode (m : Combine) : combineOf (combineCode m) = m := by cases m <;> rfl

@[simp] theorem ewOf_ewCode (w : EW) : ewOf (ewCode w) = w := by cases w <;> rfl

@[simp] theorem boolOf_boolCode (b : Bool) : boolOf (boolCode b) = b := by cases b <;> rfl

/-! ### The decoder's choice by the major opcode -/

@[simp] theorem decodeWord_op {v : Word} (h : fld v.toNat 0 7 = 0x33) : decodeWord v = decodeOp v.toNat := by
  rw [decodeWord, if_pos h]

@[simp] theorem decodeWord_lui {v : Word} (h : fld v.toNat 0 7 = 0x37) : decodeWord v = decodeLui v.toNat := by
  simp [decodeWord, h]

@[simp] theorem decodeWord_ld {v : Word} (h : fld v.toNat 0 7 = 0x03) : decodeWord v = decodeLd v.toNat := by
  simp [decodeWord, decodeOther, h]

@[simp] theorem decodeWord_ldf {v : Word} (h : fld v.toNat 0 7 = 0x07) : decodeWord v = decodeLdf v.toNat := by
  simp [decodeWord, decodeOther, h]

@[simp] theorem decodeWord_tensor {v : Word} (h : fld v.toNat 0 7 = 0x0B) : decodeWord v = decodeTensor v.toNat := by
  simp [decodeWord, decodeOther, h]

@[simp] theorem decodeWord_misc {v : Word} (h : fld v.toNat 0 7 = 0x0F) : decodeWord v = decodeMisc v.toNat := by
  simp [decodeWord, decodeOther, h]

@[simp] theorem decodeWord_opi {v : Word} (h : fld v.toNat 0 7 = 0x13) : decodeWord v = decodeOpi v.toNat := by
  simp [decodeWord, decodeOther, h]

@[simp] theorem decodeWord_auipc {v : Word} (h : fld v.toNat 0 7 = 0x17) : decodeWord v = decodeAuipc v.toNat := by
  simp [decodeWord, decodeOther, h]

@[simp] theorem decodeWord_cmpi {v : Word} (h : fld v.toNat 0 7 = 0x1B) : decodeWord v = decodeCmpi v.toNat := by
  simp [decodeWord, decodeOther, h]

@[simp] theorem decodeWord_vopi {v : Word} (h : fld v.toNat 0 7 = 0x1F) : decodeWord v = decodeVopi v.toNat := by
  simp [decodeWord, decodeOther, h]

@[simp] theorem decodeWord_st {v : Word} (h : fld v.toNat 0 7 = 0x23) : decodeWord v = decodeSt v.toNat := by
  simp [decodeWord, decodeOther, h]

@[simp] theorem decodeWord_stf {v : Word} (h : fld v.toNat 0 7 = 0x27) : decodeWord v = decodeStf v.toNat := by
  simp [decodeWord, decodeOther, h]

@[simp] theorem decodeWord_message {v : Word} (h : fld v.toNat 0 7 = 0x2B) : decodeWord v = decodeMessage v.toNat := by
  simp [decodeWord, decodeOther, h]

@[simp] theorem decodeWord_amo {v : Word} (h : fld v.toNat 0 7 = 0x2F) : decodeWord v = decodeAmo v.toNat := by
  simp [decodeWord, decodeOther, h]

@[simp] theorem decodeWord_cmp {v : Word} (h : fld v.toNat 0 7 = 0x3B) : decodeWord v = decodeCmp v.toNat := by
  simp [decodeWord, decodeOther, h]

@[simp] theorem decodeWord_fmaf {v : Word} (h : fld v.toNat 0 7 = 0x43) : decodeWord v = decodeFmaf v.toNat := by
  simp [decodeWord, decodeOther, h]

@[simp] theorem decodeWord_vcfg {v : Word} (h : fld v.toNat 0 7 = 0x47) : decodeWord v = decodeVcfg v.toNat := by
  simp [decodeWord, decodeOther, h]

@[simp] theorem decodeWord_vld {v : Word} (h : fld v.toNat 0 7 = 0x4B) : decodeWord v = decodeVld v.toNat := by
  simp [decodeWord, decodeOther, h]

@[simp] theorem decodeWord_vst {v : Word} (h : fld v.toNat 0 7 = 0x4F) : decodeWord v = decodeVst v.toNat := by
  simp [decodeWord, decodeOther, h]

@[simp] theorem decodeWord_opf {v : Word} (h : fld v.toNat 0 7 = 0x53) : decodeWord v = decodeOpf v.toNat := by
  simp [decodeWord, decodeOther, h]

@[simp] theorem decodeWord_vopf {v : Word} (h : fld v.toNat 0 7 = 0x57) : decodeWord v = decodeVopf v.toNat := by
  simp [decodeWord, decodeOther, h]

@[simp] theorem decodeWord_sync {v : Word} (h : fld v.toNat 0 7 = 0x5B) : decodeWord v = decodeSync v.toNat := by
  simp [decodeWord, decodeOther, h]

@[simp] theorem decodeWord_vperm {v : Word} (h : fld v.toNat 0 7 = 0x5F) : decodeWord v = decodeVperm v.toNat := by
  simp [decodeWord, decodeOther, h]

@[simp] theorem decodeWord_bc {v : Word} (h : fld v.toNat 0 7 = 0x63) : decodeWord v = decodeBc v.toNat := by
  simp [decodeWord, decodeOther, h]

@[simp] theorem decodeWord_jalr {v : Word} (h : fld v.toNat 0 7 = 0x67) : decodeWord v = decodeJalr v.toNat := by
  simp [decodeWord, decodeOther, h]

@[simp] theorem decodeWord_graded {v : Word} (h : fld v.toNat 0 7 = 0x6B) : decodeWord v = decodeGraded v.toNat := by
  simp [decodeWord, decodeOther, h]

@[simp] theorem decodeWord_jal {v : Word} (h : fld v.toNat 0 7 = 0x6F) : decodeWord v = decodeJal v.toNat := by
  simp [decodeWord, decodeOther, h]

@[simp] theorem decodeWord_system {v : Word} (h : fld v.toNat 0 7 = 0x73) : decodeWord v = decodeSystem v.toNat := by
  simp [decodeWord, decodeOther, h]

@[simp] theorem decodeWord_vpred {v : Word} (h : fld v.toNat 0 7 = 0x77) : decodeWord v = decodeVpred v.toNat := by
  simp [decodeWord, decodeOther, h]

@[simp] theorem ofNat_storeImm (imm : BitVec 12) : BitVec.ofNat 12 (fld imm.toNat 5 7 * 32 + fld imm.toNat 0 5) = imm := by
  have h : imm.toNat = fld imm.toNat 5 7 * 32 + fld imm.toNat 0 5 := by
    have := imm.isLt
    unfold fld
    omega
  rw [← h, BitVec.ofNat_toNat, BitVec.setWidth_eq]

@[simp] theorem ofNat_jumpOffset (off : BitVec 19) :
    BitVec.ofNat 19 (fld off.toNat 18 1 * 262144 + fld off.toNat 10 8 * 1024 + fld off.toNat 9 1 * 512 + fld off.toNat 0 9) = off := by
  have h : off.toNat = fld off.toNat 18 1 * 262144 + fld off.toNat 10 8 * 1024 + fld off.toNat 9 1 * 512 + fld off.toNat 0 9 := by
    have := off.isLt
    unfold fld
    omega
  rw [← h, BitVec.ofNat_toNat, BitVec.setWidth_eq]

/-! ### Round trips, by the layout of the word -/

/-- The words of three registers. -/
theorem roundTrips_threeRegisters (rs2 rs1 rd : Reg) :
    List.Forall RoundTrips [
      .add rs2 rs1 rd, .sub rs2 rs1 rd, .mul rs2 rs1 rd, .mulh rs2 rs1 rd, .mulhu rs2 rs1 rd, .div rs2 rs1 rd, .divu rs2 rs1 rd,
      .rem rs2 rs1 rd, .remu rs2 rs1 rd, .sll rs2 rs1 rd, .srl rs2 rs1 rd, .sra rs2 rs1 rd, .and_ rs2 rs1 rd, .or_ rs2 rs1 rd,
      .xor_ rs2 rs1 rd, .min_ rs2 rs1 rd, .max_ rs2 rs1 rd, .minu rs2 rs1 rd, .maxu rs2 rs1 rd, .andn rs2 rs1 rd, .vsetvl rs2 rs1 rd,
      .hattach rs2 rs1 rd, .hdetach rs2 rs1 rd, .cwait rs2 rs1 rd, .cwaitR rs2 rs1 rd, .mrecv rs2 rs1 rd, .mrecvTry rs2 rs1 rd,
      .rcast rs2 rs1 rd, .rresume rs2 rs1 rd, .park rs2 rs1 rd] := by
  simp only [List.forall_cons]
  and_intros
  on_goal -1 => trivial
  all_goals
    refine roundTrips_of_layout [(0, 7), (12, 3), (25, 1), (25, 2), (26, 1), (27, 1), (27, 5), (28, 4), (29, 3)] [(7, 5), (15, 5), (20, 5)]
      [.bits rd, .bits rs1, .bits rs2] rfl rfl rfl rfl fun v hf ho => ?_
    simp_all [decodeOp, decodeVcfg, decodeTensor, decodeMessage, decodeSync]

/-- The words of two registers. -/
theorem roundTrips_twoRegisters (rs1 rd : Reg) :
    List.Forall RoundTrips [
      .clz rs1 rd, .ctz rs1 rd, .cpop rs1 rd, .sextb rs1 rd, .sexth rs1 rd, .zexth rs1 rd, .rdv rs1 rd, .publish rs1 rd,
      .publishDiscard rs1 rd, .launch rs1 rd, .rquery rs1 rd] := by
  simp only [List.forall_cons]
  and_intros
  on_goal -1 => trivial
  all_goals
    refine roundTrips_of_layout [(0, 7), (12, 3), (20, 5), (25, 1), (25, 2), (26, 1), (27, 1), (27, 5), (29, 3)] [(7, 5), (15, 5)]
      [.bits rd, .bits rs1] rfl rfl rfl rfl fun v hf ho => ?_
    simp_all [decodeOp, decodeMessage]

/-- The words of two registers and an immediate of 12 bits. -/
theorem roundTrips_registerImmediate (imm : BitVec 12) (rs1 rd : Reg) :
    List.Forall RoundTrips [
      .addi imm rs1 rd, .andi imm rs1 rd, .ori imm rs1 rd, .xori imm rs1 rd, .jalr imm rs1 rd, .lb imm rs1 rd, .lh imm rs1 rd,
      .lw imm rs1 rd, .ld imm rs1 rd, .lbu imm rs1 rd, .lhu imm rs1 rd, .lwu imm rs1 rd, .flh imm rs1 rd, .flw imm rs1 rd,
      .fld imm rs1 rd] := by
  simp only [List.forall_cons]
  and_intros
  on_goal -1 => trivial
  all_goals
    refine roundTrips_of_layout [(0, 7), (12, 3)] [(7, 5), (15, 5), (20, 12)] [.bits rd, .bits rs1, .bits imm]
      rfl rfl rfl rfl fun v hf ho => ?_
    simp_all [decodeOpi, decodeJalr, decodeLd, decodeLdf]

/-- The words without operands. -/
theorem roundTrips_noOperand :
    List.Forall RoundTrips [
      .stop, .scall, .sbrk, .sret, .wfe, .halt, .modev, .vjoin, .fsv, .fvs, .fvv, .isync] := by
  simp only [List.forall_cons]
  and_intros
  on_goal -1 => trivial
  all_goals
    refine roundTrips_of_layout [(0, 7), (7, 5), (9, 3), (12, 3), (15, 5), (20, 5), (25, 2), (27, 5), (28, 4), (31, 1)] [] []
      rfl rfl rfl rfl fun v hf ho => ?_
    simp_all [decodeMisc, decodeSystem, decodeVcfg, decodeSync]

/-- The floating-point words of two sources and a format. -/
theorem roundTrips_floatBinary (fmt : FFmt) (rs2 rs1 rd : Reg) :
    List.Forall RoundTrips [
      .fadd fmt rs2 rs1 rd, .fsub fmt rs2 rs1 rd, .fmul fmt rs2 rs1 rd, .fdiv fmt rs2 rs1 rd, .fmin fmt rs2 rs1 rd, .fmax fmt rs2 rs1 rd,
      .fsgnj fmt rs2 rs1 rd, .fsgnjn fmt rs2 rs1 rd, .fsgnjx fmt rs2 rs1 rd] := by
  simp only [List.forall_cons]
  and_intros
  on_goal -1 => trivial
  all_goals
    refine roundTrips_of_layout [(0, 7), (12, 3), (27, 5)] [(7, 5), (15, 5), (20, 5), (25, 2)] [.bits rd, .bits rs1, .bits rs2, .ffmt fmt]
      rfl rfl rfl rfl fun v hf ho => ?_
    simp_all [decodeOpf]

/-- The atomic words: `dw` chooses the width. -/
theorem roundTrips_amo (rs2 rs1 : Reg) (dw : Bool) (rd : Reg) :
    List.Forall RoundTrips [
      .amoadd rs2 rs1 dw rd, .amoswap rs2 rs1 dw rd, .amocas rs2 rs1 dw rd, .amomin rs2 rs1 dw rd, .amomax rs2 rs1 dw rd,
      .amominu rs2 rs1 dw rd, .amomaxu rs2 rs1 dw rd, .amoand rs2 rs1 dw rd, .amoor rs2 rs1 dw rd, .amoxor rs2 rs1 dw rd] := by
  simp only [List.forall_cons]
  and_intros
  on_goal -1 => trivial
  all_goals
    refine roundTrips_of_layout [(0, 7), (13, 2), (25, 2), (27, 5)] [(7, 5), (12, 1), (15, 5), (20, 5)]
      [.bits rd, .bool dw, .bits rs1, .bits rs2] rfl rfl rfl rfl fun v hf ho => ?_
    simp_all [decodeAmo]

/-- The vector words with a form, a predicate and three registers. -/
theorem roundTrips_vectorForm (p : PReg) (form : Form) (vs2 : VReg) (s1 : Reg) (vd : VReg) :
    List.Forall RoundTrips [
      .vadd p form vs2 s1 vd, .vsub p form vs2 s1 vd, .vmul p form vs2 s1 vd, .vmulh p form vs2 s1 vd, .vmulhu p form vs2 s1 vd,
      .vmacc p form vs2 s1 vd, .vand p form vs2 s1 vd, .vor p form vs2 s1 vd, .vxor p form vs2 s1 vd, .vsll p form vs2 s1 vd,
      .vsrl p form vs2 s1 vd, .vsra p form vs2 s1 vd, .vmin p form vs2 s1 vd, .vmax p form vs2 s1 vd, .vminu p form vs2 s1 vd,
      .vmaxu p form vs2 s1 vd, .vfadd p form vs2 s1 vd, .vfsub p form vs2 s1 vd, .vfmul p form vs2 s1 vd, .vfdiv p form vs2 s1 vd,
      .vfmacc p form vs2 s1 vd, .vfnmsac p form vs2 s1 vd, .vfmin p form vs2 s1 vd, .vfmax p form vs2 s1 vd, .vfsgnj p form vs2 s1 vd,
      .vmix p form vs2 s1 vd, .vfdot4 p form vs2 s1 vd, .vfmerge p form vs2 s1 vd, .vxch p form vs2 s1 vd, .vslideup p form vs2 s1 vd,
      .vslidedn p form vs2 s1 vd, .vgather p form vs2 s1 vd, .vreds p form vs2 s1 vd, .vfredo p form vs2 s1 vd, .vredmin p form vs2 s1 vd,
      .vredmax p form vs2 s1 vd] := by
  simp only [List.forall_cons]
  and_intros
  on_goal -1 => trivial
  all_goals
    refine roundTrips_of_layout [(0, 7), (12, 3), (25, 1)] [(7, 5), (15, 5), (20, 5), (26, 2), (28, 4)]
      [.bits vd, .bits s1, .bits vs2, .form form, .bits p] rfl rfl rfl rfl fun v hf ho => ?_
    simp_all [decodeVopi, decodeVopf, decodeVperm]

/-- The vector words with a predicate, two registers and a code or a register in the field of the first source. -/
theorem roundTrips_vectorAndCode (p : PReg) (vs2 : VReg) (code : Reg) (vd : VReg) :
    List.Forall RoundTrips [
      .vfcvt p vs2 code vd, .vldfX p vs2 code vd, .vldrX p vs2 code vd, .vldgX p vs2 code vd, .texs p vs2 code vd, .vstxF p vs2 code vd,
      .vstrX p vs2 code vd, .vstgX p vs2 code vd, .vstc p vs2 code vd] := by
  simp only [List.forall_cons]
  and_intros
  on_goal -1 => trivial
  all_goals
    refine roundTrips_of_layout [(0, 7), (12, 3), (14, 1), (25, 1), (25, 2), (27, 1)] [(7, 5), (15, 5), (20, 5), (28, 4)]
      [.bits vd, .bits code, .bits vs2, .bits p] rfl rfl rfl rfl fun v hf ho => ?_
    simp_all [decodeVopf, decodeVld, decodeVst]

/-- The graded words of one source. -/
theorem roundTrips_gradedUnary (p : PReg) (vs1 : VReg) (neg rev : Bool) (vd : VReg) :
    List.Forall RoundTrips [
      .grev p vs1 neg rev vd, .ginvol p vs1 neg rev vd, .gdual p vs1 neg rev vd, .gnormsq p vs1 neg rev vd, .gnorm p vs1 neg rev vd,
      .gnormz p vs1 neg rev vd, .gexp p vs1 neg rev vd, .glog p vs1 neg rev vd, .gsqrt p vs1 neg rev vd, .ginv p vs1 neg rev vd] := by
  simp only [List.forall_cons]
  and_intros
  on_goal -1 => trivial
  all_goals
    refine roundTrips_of_layout [(0, 7), (13, 1), (20, 5), (25, 2), (27, 1)] [(7, 5), (12, 1), (14, 1), (15, 5), (28, 4)]
      [.bits vd, .bool rev, .bool neg, .bits vs1, .bits p] rfl rfl rfl rfl fun v hf ho => ?_
    simp_all [decodeGraded]

/-- The rows are grouped by layout: what fields hold which operands, and what other fields the decoder reads on its way to the row. -/
theorem roundTrips (i : Instr) : RoundTrips i := by
  cases i with
  | add rs2 rs1 rd | sub rs2 rs1 rd | mul rs2 rs1 rd | mulh rs2 rs1 rd | mulhu rs2 rs1 rd | div rs2 rs1 rd | divu rs2 rs1 rd
  | rem rs2 rs1 rd | remu rs2 rs1 rd | sll rs2 rs1 rd | srl rs2 rs1 rd | sra rs2 rs1 rd | and_ rs2 rs1 rd | or_ rs2 rs1 rd | xor_ rs2 rs1 rd
  | min_ rs2 rs1 rd | max_ rs2 rs1 rd | minu rs2 rs1 rd | maxu rs2 rs1 rd | andn rs2 rs1 rd | vsetvl rs2 rs1 rd | hattach rs2 rs1 rd
  | hdetach rs2 rs1 rd | cwait rs2 rs1 rd | cwaitR rs2 rs1 rd | mrecv rs2 rs1 rd | mrecvTry rs2 rs1 rd | rcast rs2 rs1 rd
  | rresume rs2 rs1 rd | park rs2 rs1 rd =>
    exact List.forall_iff_forall_mem.mp (roundTrips_threeRegisters rs2 rs1 rd) _ (by simp only [List.mem_cons, true_or, or_true])
  | clz rs1 rd | ctz rs1 rd | cpop rs1 rd | sextb rs1 rd | sexth rs1 rd | zexth rs1 rd | rdv rs1 rd | publish rs1 rd
  | publishDiscard rs1 rd | launch rs1 rd | rquery rs1 rd =>
    exact List.forall_iff_forall_mem.mp (roundTrips_twoRegisters rs1 rd) _ (by simp only [List.mem_cons, true_or, or_true])
  | addi imm rs1 rd | andi imm rs1 rd | ori imm rs1 rd | xori imm rs1 rd | jalr imm rs1 rd | lb imm rs1 rd | lh imm rs1 rd | lw imm rs1 rd
  | ld imm rs1 rd | lbu imm rs1 rd | lhu imm rs1 rd | lwu imm rs1 rd | flh imm rs1 rd | flw imm rs1 rd | fld imm rs1 rd =>
    exact List.forall_iff_forall_mem.mp (roundTrips_registerImmediate imm rs1 rd) _ (by simp only [List.mem_cons, true_or, or_true])
  | slli sh rs1 rd | srli sh rs1 rd | srai sh rs1 rd =>
    refine roundTrips_of_layout [(0, 7), (12, 3), (26, 1), (27, 5)] [(7, 5), (15, 5), (20, 6)] [.bits rd, .bits rs1, .bits sh]
      rfl rfl rfl rfl fun v hf ho => ?_
    simp_all [decodeOpi]
  | lui imm rd | auipc imm rd =>
    refine roundTrips_of_layout [(0, 7)] [(7, 5), (12, 20)] [.bits rd, .bits imm] rfl rfl rfl rfl fun v hf ho => ?_
    simp_all [decodeLui, decodeAuipc]
  | ceq rs2 rs1 mode cd | cne rs2 rs1 mode cd | clt rs2 rs1 mode cd | cge rs2 rs1 mode cd | cltu rs2 rs1 mode cd | cgeu rs2 rs1 mode cd =>
    refine roundTrips_of_layout [(0, 7), (12, 3), (25, 2), (27, 5)] [(7, 3), (10, 2), (15, 5), (20, 5)]
      [.bits cd, .combine mode, .bits rs1, .bits rs2] rfl rfl rfl rfl fun v hf ho => ?_
    simp_all [decodeCmp]
  | ccmb mode cd nb cb na ca =>
    refine roundTrips_of_layout [(0, 7), (12, 3), (19, 1), (24, 1), (25, 2), (27, 5)] [(15, 3), (18, 1), (20, 3), (23, 1), (7, 3), (10, 2)]
      [.bits ca, .bool na, .bits cb, .bool nb, .bits cd, .combine mode] rfl rfl rfl rfl fun v hf ho => ?_
    simp_all [decodeCmp]
  | crdx rd =>
    refine roundTrips_of_layout [(0, 7), (12, 3), (15, 5), (19, 1), (20, 5), (24, 1), (25, 2), (27, 5)] [(7, 5)] [.bits rd]
      rfl rfl rfl rfl fun v hf ho => ?_
    simp_all [decodeCmp]
  | cwrx rs1 | atcinv rs1 =>
    refine roundTrips_of_layout [(0, 7), (7, 5), (12, 3), (20, 5), (24, 1), (25, 2), (27, 5)] [(15, 5)] [.bits rs1]
      rfl rfl rfl rfl fun v hf ho => ?_
    simp_all [decodeCmp, decodeSystem]
  | ceqi imm rs1 mode cd | cnei imm rs1 mode cd | clti imm rs1 mode cd | cgei imm rs1 mode cd | cltui imm rs1 mode cd
  | cgeui imm rs1 mode cd =>
    refine roundTrips_of_layout [(0, 7), (12, 3)] [(7, 3), (10, 2), (15, 5), (20, 12)] [.bits cd, .combine mode, .bits rs1, .bits imm]
      rfl rfl rfl rfl fun v hf ho => ?_
    simp_all [decodeCmpi]
  | cbiti bit rs1 mode cd =>
    refine roundTrips_of_layout [(0, 7), (12, 3), (26, 1), (27, 5)] [(7, 3), (10, 2), (15, 5), (20, 6)]
      [.bits cd, .combine mode, .bits rs1, .bits bit] rfl rfl rfl rfl fun v hf ho => ?_
    simp_all [decodeCmpi]
  | bc cond off | bcn cond off =>
    refine roundTrips_of_layout [(0, 7), (7, 1), (11, 1), (21, 1)] [(22, 9), (20, 1), (12, 8), (31, 1), (8, 3)]
      [.part off 0 9, .part off 9 1, .part off 10 8, .part off 18 1, .bits cond] rfl rfl rfl rfl fun v hf ho => ?_
    simp_all [decodeBc]
  | jal rd off =>
    refine roundTrips_of_layout [(0, 7), (21, 1)] [(22, 9), (20, 1), (12, 8), (31, 1), (7, 5)]
      [.part off 0 9, .part off 9 1, .part off 10 8, .part off 18 1, .bits rd] rfl rfl rfl rfl fun v hf ho => ?_
    simp_all [decodeJal]
  | loop imm rs1 | swr imm rs1 | sset imm rs1 | sclr imm rs1 | vblk imm rs1 =>
    refine roundTrips_of_layout [(0, 7), (7, 5), (12, 3)] [(15, 5), (20, 12)] [.bits rs1, .bits imm] rfl rfl rfl rfl fun v hf ho => ?_
    simp_all [decodeMisc, decodeSystem, decodeVcfg]
  | pref imm rs1 lvl =>
    refine roundTrips_of_layout [(0, 7), (9, 3), (12, 3)] [(7, 2), (15, 5), (20, 12)] [.bits lvl, .bits rs1, .bits imm]
      rfl rfl rfl rfl fun v hf ho => ?_
    simp_all [decodeMisc]
  | lfetch imm rs1 vi =>
    refine roundTrips_of_layout [(0, 7), (12, 3)] [(7, 5), (15, 5), (20, 12)] [.bits vi, .bits rs1, .bits imm]
      rfl rfl rfl rfl fun v hf ho => ?_
    simp_all [decodeMisc]
  | stop | scall | sbrk | sret | wfe | halt | modev | vjoin | fsv | fvs | fvv | isync =>
    exact List.forall_iff_forall_mem.mp roundTrips_noOperand _ (by simp only [List.mem_cons, true_or, or_true])
  | fadd fmt rs2 rs1 rd | fsub fmt rs2 rs1 rd | fmul fmt rs2 rs1 rd | fdiv fmt rs2 rs1 rd | fmin fmt rs2 rs1 rd | fmax fmt rs2 rs1 rd
  | fsgnj fmt rs2 rs1 rd | fsgnjn fmt rs2 rs1 rd | fsgnjx fmt rs2 rs1 rd =>
    exact List.forall_iff_forall_mem.mp (roundTrips_floatBinary fmt rs2 rs1 rd) _ (by simp only [List.mem_cons, true_or, or_true])
  | fsqrt fmt rs1 rd | fmvxf fmt rs1 rd | fmvfx fmt rs1 rd | fclass fmt rs1 rd =>
    refine roundTrips_of_layout [(0, 7), (12, 3), (20, 5), (27, 5)] [(7, 5), (15, 5), (25, 2)] [.bits rd, .bits rs1, .ffmt fmt]
      rfl rfl rfl rfl fun v hf ho => ?_
    simp_all [decodeOpf]
  | fcvt fmt sel rs1 rd =>
    refine roundTrips_of_layout [(0, 7), (12, 3), (27, 5)] [(7, 5), (15, 5), (20, 5), (25, 2)] [.bits rd, .bits rs1, .bits sel, .ffmt fmt]
      rfl rfl rfl rfl fun v hf ho => ?_
    simp_all [decodeOpf]
  | fceq fmt rs2 rs1 mode cd | fclt fmt rs2 rs1 mode cd | fcle fmt rs2 rs1 mode cd =>
    refine roundTrips_of_layout [(0, 7), (12, 3), (27, 5)] [(7, 3), (10, 2), (15, 5), (20, 5), (25, 2)]
      [.bits cd, .combine mode, .bits rs1, .bits rs2, .ffmt fmt] rfl rfl rfl rfl fun v hf ho => ?_
    simp_all [decodeOpf]
  | fmadd rs3 fmt rs2 rs1 rd | fmsub rs3 fmt rs2 rs1 rd | fnmadd rs3 fmt rs2 rs1 rd | fnmsub rs3 fmt rs2 rs1 rd =>
    refine roundTrips_of_layout [(0, 7), (12, 3)] [(7, 5), (15, 5), (20, 5), (25, 2), (27, 5)]
      [.bits rd, .bits rs1, .bits rs2, .ffmt fmt, .bits rs3] rfl rfl rfl rfl fun v hf ho => ?_
    simp_all [decodeFmaf]
  | sb rs2 rs1 imm | sh rs2 rs1 imm | sw rs2 rs1 imm | sd rs2 rs1 imm | fsh rs2 rs1 imm | fsw rs2 rs1 imm | fsd rs2 rs1 imm =>
    refine roundTrips_of_layout [(0, 7), (12, 3)] [(7, 5), (25, 7), (15, 5), (20, 5)] [.part imm 0 5, .part imm 5 7, .bits rs1, .bits rs2]
      rfl rfl rfl rfl fun v hf ho => ?_
    simp_all [decodeSt, decodeStf]
  | amoadd rs2 rs1 dw rd | amoswap rs2 rs1 dw rd | amocas rs2 rs1 dw rd | amomin rs2 rs1 dw rd | amomax rs2 rs1 dw rd
  | amominu rs2 rs1 dw rd | amomaxu rs2 rs1 dw rd | amoand rs2 rs1 dw rd | amoor rs2 rs1 dw rd | amoxor rs2 rs1 dw rd =>
    exact List.forall_iff_forall_mem.mp (roundTrips_amo rs2 rs1 dw rd) _ (by simp only [List.mem_cons, true_or, or_true])
  | srd reg rd =>
    refine roundTrips_of_layout [(0, 7), (12, 3), (15, 5)] [(7, 5), (20, 12)] [.bits rd, .bits reg] rfl rfl rfl rfl fun v hf ho => ?_
    simp_all [decodeSystem]
  | vsetvli req rs1 rd =>
    refine roundTrips_of_layout [(0, 7), (12, 3), (31, 1)] [(7, 5), (15, 5), (20, 11)] [.bits rd, .bits rs1, .bits req]
      rfl rfl rfl rfl fun v hf ho => ?_
    simp_all [decodeVcfg]
  | modet req =>
    refine roundTrips_of_layout [(0, 7), (7, 5), (12, 3), (15, 5), (31, 1)] [(20, 11)] [.bits req] rfl rfl rfl rfl fun v hf ho => ?_
    simp_all [decodeVcfg]
  | gdecl mask vd =>
    refine roundTrips_of_layout [(0, 7), (12, 3), (15, 5), (25, 2), (27, 5), (31, 1)] [(7, 5), (20, 5)] [.bits vd, .bits mask]
      rfl rfl rfl rfl fun v hf ho => ?_
    simp_all [decodeVcfg]
  | gtag vs rd =>
    refine roundTrips_of_layout [(0, 7), (12, 3), (20, 5), (25, 2), (27, 5), (31, 1)] [(7, 5), (15, 5)] [.bits rd, .bits vs]
      rfl rfl rfl rfl fun v hf ho => ?_
    simp_all [decodeVcfg]
  | vadd p form vs2 s1 vd | vsub p form vs2 s1 vd | vmul p form vs2 s1 vd | vmulh p form vs2 s1 vd | vmulhu p form vs2 s1 vd
  | vmacc p form vs2 s1 vd | vand p form vs2 s1 vd | vor p form vs2 s1 vd | vxor p form vs2 s1 vd | vsll p form vs2 s1 vd
  | vsrl p form vs2 s1 vd | vsra p form vs2 s1 vd | vmin p form vs2 s1 vd | vmax p form vs2 s1 vd | vminu p form vs2 s1 vd
  | vmaxu p form vs2 s1 vd | vfadd p form vs2 s1 vd | vfsub p form vs2 s1 vd | vfmul p form vs2 s1 vd | vfdiv p form vs2 s1 vd
  | vfmacc p form vs2 s1 vd | vfnmsac p form vs2 s1 vd | vfmin p form vs2 s1 vd | vfmax p form vs2 s1 vd | vfsgnj p form vs2 s1 vd
  | vmix p form vs2 s1 vd | vfdot4 p form vs2 s1 vd | vfmerge p form vs2 s1 vd | vxch p form vs2 s1 vd | vslideup p form vs2 s1 vd
  | vslidedn p form vs2 s1 vd | vgather p form vs2 s1 vd | vreds p form vs2 s1 vd | vfredo p form vs2 s1 vd | vredmin p form vs2 s1 vd
  | vredmax p form vs2 s1 vd =>
    exact List.forall_iff_forall_mem.mp (roundTrips_vectorForm p form vs2 s1 vd) _ (by simp only [List.mem_cons, true_or, or_true])
  | vfsqrt p vs2 vd | vfrsqrte p vs2 vd | vfclass p vs2 vd | vcompress p vs2 vd | vconf p vs2 vd =>
    refine roundTrips_of_layout [(0, 7), (12, 3), (15, 5), (25, 1), (25, 2), (27, 1)] [(7, 5), (20, 5), (28, 4)]
      [.bits vd, .bits vs2, .bits p] rfl rfl rfl rfl fun v hf ho => ?_
    simp_all [decodeVopf, decodeVperm]
  | vfcvt p vs2 code vd | vldfX p vs2 code vd | vldrX p vs2 code vd | vldgX p vs2 code vd | texs p vs2 code vd | vstxF p vs2 code vd
  | vstrX p vs2 code vd | vstgX p vs2 code vd | vstc p vs2 code vd =>
    exact List.forall_iff_forall_mem.mp (roundTrips_vectorAndCode p vs2 code vd) _ (by simp only [List.mem_cons, true_or, or_true])
  | vstep p form s1 vd =>
    refine roundTrips_of_layout [(0, 7), (12, 3), (20, 5), (25, 1)] [(7, 5), (15, 5), (26, 2), (28, 4)]
      [.bits vd, .bits s1, .form form, .bits p] rfl rfl rfl rfl fun v hf ho => ?_
    simp_all [decodeVperm]
  | vmvxs form vs2 s1 rd =>
    refine roundTrips_of_layout [(0, 7), (12, 3), (25, 1), (28, 4)] [(7, 5), (15, 5), (20, 5), (26, 2)]
      [.bits rd, .bits s1, .bits vs2, .form form] rfl rfl rfl rfl fun v hf ho => ?_
    simp_all [decodeVperm]
  | vmvsx form s1 vd =>
    refine roundTrips_of_layout [(0, 7), (12, 3), (20, 5), (25, 1), (28, 4)] [(7, 5), (15, 5), (26, 2)] [.bits vd, .bits s1, .form form]
      rfl rfl rfl rfl fun v hf ho => ?_
    simp_all [decodeVperm]
  | vpopc p ps2 rd | vfirst p ps2 rd =>
    refine roundTrips_of_layout [(0, 7), (12, 3), (15, 5), (24, 1), (25, 1), (25, 2), (27, 1)] [(7, 5), (20, 4), (28, 4)]
      [.bits rd, .bits ps2, .bits p] rfl rfl rfl rfl fun v hf ho => ?_
    simp_all [decodeVperm]
  | pand p ps2 ps1 pd | por p ps2 ps1 pd | pxor p ps2 ps1 pd | pandn p ps2 ps1 pd | pmerge p ps2 ps1 pd =>
    refine roundTrips_of_layout [(0, 7), (11, 1), (12, 3), (19, 1), (24, 1), (25, 1), (25, 2), (27, 1)] [(7, 4), (15, 4), (20, 4), (28, 4)]
      [.bits pd, .bits ps1, .bits ps2, .bits p] rfl rfl rfl rfl fun v hf ho => ?_
    simp_all [decodeVpred]
  | pnot p ps2 pd =>
    refine roundTrips_of_layout [(0, 7), (11, 1), (12, 3), (15, 5), (19, 1), (24, 1), (25, 2), (27, 1)] [(7, 4), (20, 4), (28, 4)]
      [.bits pd, .bits ps2, .bits p] rfl rfl rfl rfl fun v hf ho => ?_
    simp_all [decodeVpred]
  | pset p pd | pclr p pd =>
    refine roundTrips_of_layout [(0, 7), (11, 1), (12, 3), (15, 5), (19, 1), (20, 5), (24, 1), (25, 2), (27, 1)] [(7, 4), (28, 4)]
      [.bits pd, .bits p] rfl rfl rfl rfl fun v hf ho => ?_
    simp_all [decodeVpred]
  | vcmpeq p form vs2 s1 pd | vcmpne p form vs2 s1 pd | vcmplt p form vs2 s1 pd | vcmpltu p form vs2 s1 pd | vcmpge p form vs2 s1 pd
  | vfcmpeq p form vs2 s1 pd | vfcmplt p form vs2 s1 pd | vfcmple p form vs2 s1 pd =>
    refine roundTrips_of_layout [(0, 7), (11, 1), (12, 3), (25, 1)] [(7, 4), (15, 5), (20, 5), (26, 2), (28, 4)]
      [.bits pd, .bits s1, .bits vs2, .form form, .bits p] rfl rfl rfl rfl fun v hf ho => ?_
    have h25 := fld_add v.toNat 25 1 1
    simp_all [decodeVpred]
  | vld p rs1 w vd | vst p rs1 w vd =>
    refine roundTrips_of_layout [(0, 7), (14, 1), (20, 5), (25, 2), (27, 1)] [(7, 5), (12, 2), (15, 5), (28, 4)]
      [.bits vd, .ew w, .bits rs1, .bits p] rfl rfl rfl rfl fun v hf ho => ?_
    simp_all [decodeVld, decodeVst]
  | vlds p rs2 rs1 w vd | vsts p rs2 rs1 w vd =>
    refine roundTrips_of_layout [(0, 7), (14, 1), (25, 2), (27, 1)] [(7, 5), (12, 2), (15, 5), (20, 5), (28, 4)]
      [.bits vd, .ew w, .bits rs1, .bits rs2, .bits p] rfl rfl rfl rfl fun v hf ho => ?_
    simp_all [decodeVld, decodeVst]
  | vldx p vs2 rs1 w vd | vstx p vs2 rs1 w vd =>
    refine roundTrips_of_layout [(0, 7), (14, 1), (25, 2), (27, 1)] [(7, 5), (12, 2), (15, 5), (20, 5), (28, 4)]
      [.bits vd, .ew w, .bits rs1, .bits vs2, .bits p] rfl rfl rfl rfl fun v hf ho => ?_
    simp_all [decodeVld, decodeVst]
  | vscadd p vs2 rs1 w vs3 =>
    refine fun hw => roundTrips_of_layout [(0, 7), (14, 1), (25, 2), (27, 1)] [(7, 5), (12, 2), (15, 5), (20, 5), (28, 4)]
      [.bits vs3, .ew w, .bits rs1, .bits vs2, .bits p] rfl rfl rfl rfl (fun v hf ho => ?_) hw
    -- The width code 0 would be read in the row of the predicate store `vstP`; well-formedness excludes it
    have hne : w ≠ .e8 := bne_iff_ne.mp hw
    have h12 := fld_add v.toNat 12 2 1
    cases w <;> simp_all [decodeVst, ewCode, ewOf]
  | vldf p rs1 vd | vldr p rs1 vd | vldg p rs1 vd | vstF p rs1 vd | vstr p rs1 vd | vstg p rs1 vd =>
    refine roundTrips_of_layout [(0, 7), (12, 3), (14, 1), (20, 5), (25, 2), (27, 1)] [(7, 5), (15, 5), (28, 4)]
      [.bits vd, .bits rs1, .bits p] rfl rfl rfl rfl fun v hf ho => ?_
    simp_all [decodeVld, decodeVst]
  | vldfS p rs2 rs1 vd | vldrS p rs2 rs1 vd | vldgS p rs2 rs1 vd | vstsF p rs2 rs1 vd | vstrS p rs2 rs1 vd | vstgS p rs2 rs1 vd =>
    refine roundTrips_of_layout [(0, 7), (12, 3), (14, 1), (25, 2), (27, 1)] [(7, 5), (15, 5), (20, 5), (28, 4)]
      [.bits vd, .bits rs1, .bits rs2, .bits p] rfl rfl rfl rfl fun v hf ho => ?_
    simp_all [decodeVld, decodeVst]
  | vldP rs1 pd | vstP rs1 pd =>
    refine roundTrips_of_layout [(0, 7), (11, 1), (12, 3), (14, 1), (20, 5), (25, 2), (27, 1), (27, 5)] [(7, 4), (15, 5)]
      [.bits pd, .bits rs1] rfl rfl rfl rfl fun v hf ho => ?_
    simp_all [decodeVld, decodeVst]
  | gp p vs2 vs1 neg inv rev vd | gwedge p vs2 vs1 neg inv rev vd | gjoin p vs2 vs1 neg inv rev vd | gldot p vs2 vs1 neg inv rev vd
  | gsand p vs2 vs1 neg inv rev vd | gcomm p vs2 vs1 neg inv rev vd =>
    refine roundTrips_of_layout [(0, 7), (25, 2), (27, 1)] [(7, 5), (12, 1), (13, 1), (14, 1), (15, 5), (20, 5), (28, 4)]
      [.bits vd, .bool rev, .bool inv, .bool neg, .bits vs1, .bits vs2, .bits p] rfl rfl rfl rfl fun v hf ho => ?_
    simp_all [decodeGraded]
  | gproj p mask vs1 neg rev vd =>
    refine roundTrips_of_layout [(0, 7), (13, 1), (25, 2), (27, 1)] [(7, 5), (12, 1), (14, 1), (15, 5), (20, 5), (28, 4)]
      [.bits vd, .bool rev, .bool neg, .bits vs1, .bits mask, .bits p] rfl rfl rfl rfl fun v hf ho => ?_
    simp_all [decodeGraded]
  | grev p vs1 neg rev vd | ginvol p vs1 neg rev vd | gdual p vs1 neg rev vd | gnormsq p vs1 neg rev vd | gnorm p vs1 neg rev vd
  | gnormz p vs1 neg rev vd | gexp p vs1 neg rev vd | glog p vs1 neg rev vd | gsqrt p vs1 neg rev vd | ginv p vs1 neg rev vd =>
    exact List.forall_iff_forall_mem.mp (roundTrips_gradedUnary p vs1 neg rev vd) _ (by simp only [List.mem_cons, true_or, or_true])
  | tzero z =>
    refine roundTrips_of_layout [(0, 7), (9, 3), (12, 3), (15, 5), (20, 5), (25, 2), (27, 5)] [(7, 2)] [.bits z]
      rfl rfl rfl rfl fun v hf ho => ?_
    simp_all [decodeTensor]
  | topa set neg vb va z =>
    refine roundTrips_of_layout [(0, 7), (9, 3), (12, 3), (27, 5)] [(7, 2), (15, 5), (20, 5), (25, 1), (26, 1)]
      [.bits z, .bits va, .bits vb, .bool neg, .bool set] rfl rfl rfl rfl fun v hf ho => ?_
    simp_all [decodeTensor]
  | topas set neg hb ha z =>
    refine roundTrips_of_layout [(0, 7), (9, 3), (12, 3), (19, 1), (24, 1), (27, 5)] [(7, 2), (15, 4), (20, 4), (25, 1), (26, 1)]
      [.bits z, .bits ha, .bits hb, .bool neg, .bool set] rfl rfl rfl rfl fun v hf ho => ?_
    simp_all [decodeTensor]
  | tdrain n z rs1 vd =>
    refine roundTrips_of_layout [(0, 7), (12, 3), (22, 3), (24, 1), (28, 4)] [(7, 5), (15, 5), (20, 2), (25, 3)]
      [.bits vd, .bits rs1, .bits z, .bits n] rfl rfl rfl rfl fun v hf ho => ?_
    simp_all [decodeTensor]
  | tldz rs2 rs1 z | tstz rs2 rs1 z =>
    refine roundTrips_of_layout [(0, 7), (9, 3), (12, 3), (25, 2), (27, 5), (28, 4)] [(7, 2), (15, 5), (20, 5)]
      [.bits z, .bits rs1, .bits rs2] rfl rfl rfl rfl fun v hf ho => ?_
    simp_all [decodeTensor]
  | tshape rs2 rs1 | emit rs2 rs1 =>
    refine roundTrips_of_layout [(0, 7), (7, 5), (9, 3), (10, 2), (12, 3), (25, 2), (26, 1), (27, 1), (27, 5), (28, 4), (29, 3)]
      [(15, 5), (20, 5)] [.bits rs1, .bits rs2] rfl rfl rfl rfl fun v hf ho => ?_
    simp_all [decodeTensor, decodeMessage]
  | tfetch hs rs1 va | hld hs rs1 va =>
    refine roundTrips_of_layout [(0, 7), (12, 3), (24, 1), (25, 2), (27, 5), (28, 4)] [(7, 5), (15, 5), (20, 4)]
      [.bits va, .bits rs1, .bits hs] rfl rfl rfl rfl fun v hf ho => ?_
    simp_all [decodeTensor]
  | hldh rs1 hd =>
    refine roundTrips_of_layout [(0, 7), (11, 1), (12, 3), (20, 5), (22, 3), (24, 1), (25, 2), (27, 5), (28, 4)] [(7, 4), (15, 5)]
      [.bits hd, .bits rs1] rfl rfl rfl rfl fun v hf ho => ?_
    simp_all [decodeTensor]
  | hsth hs rs1 =>
    refine roundTrips_of_layout [(0, 7), (7, 5), (9, 3), (11, 1), (12, 3), (24, 1), (25, 2), (27, 5), (28, 4)] [(15, 5), (20, 4)]
      [.bits rs1, .bits hs] rfl rfl rfl rfl fun v hf ho => ?_
    simp_all [decodeTensor]
  | hst hs vs3 rd =>
    refine roundTrips_of_layout [(0, 7), (12, 3), (24, 1), (25, 2), (27, 5), (28, 4)] [(7, 5), (15, 5), (20, 4)]
      [.bits rd, .bits vs3, .bits hs] rfl rfl rfl rfl fun v hf ho => ?_
    simp_all [decodeTensor]
  | hstTry cd hs vs3 rd =>
    refine roundTrips_of_layout [(0, 7), (12, 3), (24, 1), (25, 1), (29, 3)] [(7, 5), (15, 5), (20, 4), (26, 3)]
      [.bits rd, .bits vs3, .bits hs, .bits cd] rfl rfl rfl rfl fun v hf ho => ?_
    have h25 := fld_add v.toNat 25 1 1
    have h28 := fld_add v.toNat 28 1 3
    simp_all [decodeTensor]
  | hiter hs rd =>
    refine roundTrips_of_layout [(0, 7), (12, 3), (15, 5), (19, 1), (24, 1), (25, 1), (25, 2), (27, 5), (28, 4), (29, 3)] [(7, 5), (20, 4)]
      [.bits rd, .bits hs] rfl rfl rfl rfl fun v hf ho => ?_
    simp_all [decodeTensor]
  | hinfo hs sel rd =>
    refine roundTrips_of_layout [(0, 7), (12, 3), (24, 1), (25, 1), (25, 2), (27, 5), (28, 4), (29, 3)] [(7, 5), (15, 5), (20, 4)]
      [.bits rd, .bits sel, .bits hs] rfl rfl rfl rfl fun v hf ho => ?_
    simp_all [decodeTensor]
  | forkCopy explicit rs1 rd | forkFold explicit rs1 rd | forkBlend explicit rs1 rd | forkMarch explicit rs1 rd =>
    refine roundTrips_of_layout [(0, 7), (12, 3), (20, 5), (25, 2), (27, 1), (29, 3)] [(7, 5), (15, 5), (28, 1)]
      [.bits rd, .bits rs1, .bool explicit] rfl rfl rfl rfl fun v hf ho => ?_
    simp_all [decodeMessage]
  | cpy explicit rs2 rs1 rd =>
    refine roundTrips_of_layout [(0, 7), (12, 3), (26, 1), (27, 1), (27, 5), (29, 3)] [(7, 5), (15, 5), (20, 5), (25, 1)]
      [.bits rd, .bits rs1, .bits rs2, .bool explicit] rfl rfl rfl rfl fun v hf ho => ?_
    simp_all [decodeMessage]
  | ctest rs1 cd | take rs1 cd =>
    refine roundTrips_of_layout [(0, 7), (10, 2), (12, 3), (20, 5), (25, 1), (25, 2), (26, 1), (27, 1), (27, 5), (29, 3)] [(7, 3), (15, 5)]
      [.bits cd, .bits rs1] rfl rfl rfl rfl fun v hf ho => ?_
    simp_all [decodeMessage]
  | msend len rs2 rs1 rd =>
    refine roundTrips_of_layout [(0, 7), (12, 3), (29, 3)] [(7, 5), (15, 5), (20, 5), (25, 4)] [.bits rd, .bits rs1, .bits rs2, .bits len]
      rfl rfl rfl rfl fun v hf ho => ?_
    simp_all [decodeMessage]
  | emitTry cd rs2 rs1 =>
    refine roundTrips_of_layout [(0, 7), (7, 5), (10, 2), (12, 3), (25, 1), (29, 3)] [(15, 5), (20, 5), (26, 3)]
      [.bits rs1, .bits rs2, .bits cd] rfl rfl rfl rfl fun v hf ho => ?_
    have h25 := fld_add v.toNat 25 1 1
    simp_all [decodeMessage]
  | barv level rs1 rd =>
    refine roundTrips_of_layout [(0, 7), (12, 3), (20, 5), (28, 4)] [(7, 5), (15, 5), (25, 3)] [.bits rd, .bits rs1, .bits level]
      rfl rfl rfl rfl fun v hf ho => ?_
    simp_all [decodeSync]
  | bwait level rs2 rs1 | bset level rs2 rs1 | ifence level rs2 rs1 =>
    refine roundTrips_of_layout [(0, 7), (7, 5), (12, 3), (28, 4)] [(15, 5), (20, 5), (25, 3)] [.bits rs1, .bits rs2, .bits level]
      rfl rfl rfl rfl fun v hf ho => ?_
    simp_all [decodeSync]
  | dfence scope =>
    refine roundTrips_of_layout [(0, 7), (7, 5), (12, 3), (15, 5), (20, 5), (28, 4)] [(25, 3)] [.bits scope]
      rfl rfl rfl rfl fun v hf ho => ?_
    have h27 := fld_add v.toNat 27 1 4
    simp_all [decodeSync]
  | wake scope rs2 rs1 rd =>
    refine roundTrips_of_layout [(0, 7), (12, 3), (28, 4)] [(7, 5), (15, 5), (20, 5), (25, 3)] [.bits rd, .bits rs1, .bits rs2, .bits scope]
      rfl rfl rfl rfl fun v hf ho => ?_
    have h27 := fld_add v.toNat 27 1 4
    simp_all [decodeSync]
  | _ => exact fun h => absurd h Bool.false_ne_true

/-! ### The bytes of a word -/

theorem toBytes_succ (n x : Nat) : toBytes (n + 1) x = BitVec.ofNat 8 x :: toBytes n (x / 256) := by
  simp [toBytes, List.range_succ_eq_map, Function.comp_def, Nat.pow_succ', Nat.div_div_eq_div_mul]

theorem ofBytes_toBytes (n x : Nat) : ofBytes (toBytes n x) = x % 256 ^ n := by
  induction n generalizing x with
  | zero => simp [toBytes, ofBytes, Nat.mod_one]
  | succ n ih => rw [toBytes_succ, ofBytes, ih, BitVec.toNat_ofNat, pow_succ' 256 n, Nat.mod_mul]

theorem decodeBytes_toBytes {v : Word} {i : Instr} (rest : List Byte) (h : decodeWord v = .ok i) :
    decodeBytes (toBytes 4 v.toNat ++ rest) = .ok (i, rest) := by
  have hv : BitVec.ofNat 32 (ofBytes (toBytes 4 v.toNat)) = v := by
    rw [ofBytes_toBytes, show v.toNat % 256 ^ 4 = v.toNat from Nat.mod_eq_of_lt v.isLt, BitVec.ofNat_toNat, BitVec.setWidth_eq]
  simp only [toBytes_succ] at hv ⊢
  simp only [List.cons_append, decodeBytes]
  rw [show toBytes 0 (v.toNat / 256 / 256 / 256 / 256) = [] from rfl] at hv
  rw [hv, h]
  rfl

namespace Machine

/-- Settles O53, layout by layout: the operands of a word lie in fields apart from each other and from the fixed bits, so the decoder reads each
back. -/
theorem decodingInvertsEncoding : Obligations.DecodingInvertsEncoding := by
  unfold Obligations.DecodingInvertsEncoding
  intro i rest hw
  have hi := roundTrips i hw
  exact ⟨hi, decodeBytes_toBytes rest hi⟩

end Machine

end Sys2Proof

end

section
namespace Sys2Proof.Machine

/-- A bit of a byte after one was replaced. -/
theorem setBit8_bit (c : BitVec 8) (i j : Nat) (b : Bool) (hi : i < 8) :
    (setBit8 c i b).getLsbD j = if j = i then b else c.getLsbD j := by
  unfold setBit8
  by_cases hj : j = i
  · subst hj; cases b <;> simp [hi]
  · rw [if_neg hj]
    cases b <;> simp
    · intro h1
      have := BitVec.lt_of_getLsbD h1
      omega
    · omega

/-- c0 keeps no value (R39). -/
@[simp] theorem setC_zero (s : State) (b : Bool) : s.setC 0 b = s := rfl

/-- A condition bit after a write of one (R39). -/
theorem readC_setC (s : State) (c d : CReg) (b : Bool) :
    (s.setC c b).t.readC d = if d = 0 then true else if d = c then b else s.t.readC d := by
  by_cases hd : d = 0
  · rw [hd, readC_zero, if_pos rfl]
  rw [if_neg hd]
  by_cases hc : c = 0
  · rw [hc, setC_zero, if_neg hd]
  · unfold State.setC Thread.writeC Thread.readC
    simp only [if_neg hd, if_neg hc, setBit8_bit _ _ _ _ c.isLt, BitVec.toNat_inj]

/-- A write of an x register as an update of the file alone. -/
theorem setX_eq (s : State) (r : Reg) (v : DWord) : s.setX r v = { s with t := { s.t with x := (s.t.writeX r v).x } } := by
  unfold State.setX Thread.writeX; split <;> rfl

theorem writeX_x (t : Thread) (r : Reg) (v : DWord) : (t.writeX r v).x = if r = 0 then t.x else t.x.set r.toNat v r.isLt := by
  unfold Thread.writeX; split <;> rfl

theorem setX_frame (s : State) (r : Reg) (v : DWord) : ∃ x, s.setX r v = { s with t := { s.t with x := x } } := ⟨_, setX_eq s r v⟩

theorem setC_frame (s : State) (c : CReg) (b : Bool) : ∃ k, s.setC c b = { s with t := { s.t with c := k } } := by
  unfold State.setC Thread.writeC; split <;> exact ⟨_, rfl⟩

/-- At the last address of a hardware loop with more than one pass left, execution goes back to its first (R94). -/
theorem complete_loops (s : State) (h : 1 < s.t.lcount.toNat) (hpc : s.t.pc = s.t.lend) :
    s.complete (s.t.pc + 4) = { s with t := { s.t with lcount := s.t.lcount - 1, pc := s.t.lstart, wait := none } } := by
  have hc : s.t.lcount ≠ 0 := by rintro e; simp [e] at h
  unfold State.complete loopCheck
  rw [if_pos ⟨hc, hpc, rfl⟩, if_pos h]

/-- The last pass of a hardware loop ends at its last address (R94). -/
theorem complete_leaves (s : State) (h : s.t.lcount = 1) (hpc : s.t.pc = s.t.lend) :
    s.complete (s.t.pc + 4) = { s with t := { s.t with lcount := 0, pc := s.t.pc + 4, wait := none } } := by
  have hc : s.t.lcount ≠ 0 := by rw [h]; decide
  have h1 : ¬ s.t.lcount.toNat > 1 := by rw [h]; decide
  unfold State.complete loopCheck
  rw [if_pos ⟨hc, hpc, rfl⟩, if_neg h1]

theorem scalarRegisterFiles : Claim.ScalarRegisterFiles := fun s r q v c d b n =>
  ⟨readX_zero _, readC_zero _, setX_zero s v, setC_zero s b, readX_setX s r q v, readC_setC s c d b, readF_setF s r q n,
    setX_frame s r v, setC_frame s c b, _, rfl⟩

theorem completionRunsLoopCheck : Claim.CompletionRunsLoopCheck := by
  intro s n
  refine ⟨complete_plain s n, ?_, ?_, rfl⟩
  · rintro h hpc rfl
    exact complete_loops s h hpc
  · rintro h hpc rfl
    exact complete_leaves s h hpc

/-- Settles O1: the reads of each register file after a write, and the three cases of the loop check. -/
theorem scalarRegistersAndCompletion : Obligations.ScalarRegistersAndCompletion :=
  ⟨scalarRegisterFiles, completionRunsLoopCheck⟩

end Sys2Proof.Machine
end

section
namespace Sys2Proof.Machine

/-- The package at reset holds nothing (R439). -/
theorem reset_blank : Claim.blank State.reset := by
  refine ⟨rfl, fun n => ?_, fun p => ?_, rfl, rfl, rfl, rfl, rfl, rfl, rfl, rfl, rfl, rfl⟩
  · unfold State.ctxAt; split <;> rfl
  · unfold State.threadAt; split <;> rfl

/-- Every x register of a thread that starts is zero (R39). -/
theorem readX_start (r : Reg) : ({} : Thread).readX r = 0 := by
  unfold Thread.readX; split
  · rfl
  · exact Vector.getElem_replicate ..

/-- Every condition bit of a thread that starts is zero but c0 (R39; assumption 1). -/
theorem readC_start (c : CReg) : ({} : Thread).readC c = decide (c = 0) := by decide +revert

/-- Every token slot of a thread that starts is free. -/
theorem token_start (k : Nat) : (({} : Thread).token k).st = 0 := by
  unfold Thread.token; split
  · rw [Vector.getElem_replicate]
  · rfl

/-- Settles O56: the form of the state at reset, what the package holds, and the registers of a thread that starts. -/
theorem resetState : Obligations.ResetState :=
  ⟨Tests.met_orderly.2, reset_blank, rfl, rfl, rfl, readX_start, readC_start, rfl, rfl, rfl, rfl, rfl, rfl, rfl, rfl, token_start⟩

end Sys2Proof.Machine
end

section
namespace Sys2Proof.Machine

/-! # Status registers (R46, R369, R382, R389, R433) -/

/-! ### What SRD comes to -/

theorem srd_unnamed {i : Instr} {n : Nat} {rd : Reg} {s : State} (h : statusNamed n = false) : srd i n rd s = illegalAt i s := by
  unfold srd; rw [h]; rfl

theorem srd_unprivileged {i : Instr} {n : Nat} {rd : Reg} {s : State} (h : statusNamed n = true) (hn : 0x100 ≤ n)
    (hl : s.t.level = false) : srd i n rd s = privilegeAt i s := by
  unfold srd; rw [h, if_neg (by decide), if_pos ⟨hn, by rw [hl]; rfl⟩]

/-- A register that may be read at the thread's level, past its wait for the queue. -/
theorem srd_named {i : Instr} {n : Nat} {rd : Reg} {s : State} (h : statusNamed n = true) (hl : 0x100 ≤ n → s.t.level = true) :
    srd i n rd s = if s.readHolds n then hold s else .ok (({ s with tick := s.tick + 1 } : State).setX rd (s.readStatus n)).advance := by
  have hp : ¬ (0x100 ≤ n ∧ !s.t.level) := by rintro ⟨hn, h⟩; simp [hl hn] at h
  unfold srd; rw [h, if_neg (by decide), if_neg hp]

/-- The registers of the table have the numbers that name a register, and read as the table says. -/
theorem statusTable_reads (s : State) :
    ∀ e ∈ Claim.statusTable s, statusNamed e.1 = true ∧ (BitVec.ofNat 12 e.1).toNat = e.1 ∧ s.readStatus e.1 = e.2 := by
  unfold Claim.statusTable
  simp only [List.forall_mem_cons]
  repeat refine ⟨⟨rfl, rfl, rfl⟩, ?_⟩
  exact List.forall_mem_nil _

/-- SRD of a register of the table that it need not wait for (R389). -/
theorem srd_table {i : Instr} {rd : Reg} {s : State} {e : Nat × DWord} (he : e ∈ Claim.statusTable s)
    (hl : 0x100 ≤ e.1 → s.t.level = true) (hq : e.1 ∈ Claim.waitsForQueue → s.t.queue = [] ∨ s.t.inTrap = true) :
    srd i e.1 rd s = .ok (({ s with tick := s.tick + 1 } : State).setX rd e.2).advance := by
  obtain ⟨hn, -, hr⟩ := statusTable_reads s e he
  have hh : s.readHolds e.1 = false := by
    unfold State.readHolds Thread.queueDone
    by_cases hw : e.1 ∈ Claim.waitsForQueue
    · rcases hq hw with h | h <;> simp [h]
    · rw [show [0x000, 0x001, 0x003, 0x004, 0x005, 0x008].contains e.1 = false from by
        rw [List.contains_eq_mem]; exact decide_eq_false hw]
      rfl
  rw [srd_named hn hl, hh, hr]
  rfl


theorem exec_srd (reg : BitVec 12) (rd : Reg) (s : State) : exec (.srd reg rd) s = finish (srd (.srd reg rd) reg.toNat rd s) := rfl

/-- A row that reads a group of registers does what SRD does with one of them. -/
theorem srdRow_mem {group : List Nat} {reg : BitVec 12} {rd : Reg} {s : State} (h : reg.toNat ∈ group) :
    srdRow group reg rd s = exec (.srd reg rd) s := by
  unfold srdRow; rw [if_pos (by rw [List.contains_eq_mem]; exact decide_eq_true h)]; rfl

/-- LTIME is a time at or after the last step of the thread (R265). -/
theorem timeOf_after (s : State) (t : Thread) : ∃ n, t.lastStamp ≤ n ∧ s.timeOf t = BitVec.ofNat 64 n :=
  ⟨_, Nat.le_add_right _ _, rfl⟩

/-- The numbers that name no status register. -/
theorem statusNamed_gap {n : Nat} (h : 0x17 ≤ n ∧ n < 0x100 ∨ 0x106 ≤ n ∧ n < 0x110 ∨ 0x119 ≤ n ∧ n < 0x120 ∨ 0x125 ≤ n ∧ n < 0x130 ∨
    0x132 ≤ n ∧ n < 0x1000) : statusNamed n = false ∧ (BitVec.ofNat 12 n).toNat = n := by
  refine ⟨?_, Nat.mod_eq_of_lt (by omega)⟩
  simp only [statusNamed, Bool.or_eq_false_iff, Bool.and_eq_false_iff, decide_eq_false_iff_not, beq_eq_false_iff_ne]
  omega

/-- A register whose read waits for the queue names a register and needs no level. -/
theorem waitsForQueue_named {n : Nat} (h : n ∈ Claim.waitsForQueue) :
    statusNamed n = true ∧ n < 0x100 ∧ (BitVec.ofNat 12 n).toNat = n := by
  revert h; revert n; unfold Claim.waitsForQueue; decide

theorem statusRegisterReads : Claim.StatusRegisterReads := by
  intro rd s
  refine ⟨fun e he hl hq => ?_, ?_, fun e he hn hl => ?_, fun n hn => ?_, fun n hn hq hi => ?_⟩
  · have hc := (statusTable_reads s e he).2.1
    have hs : exec (.srd (BitVec.ofNat 12 e.1) rd) s = .next (({ s with tick := s.tick + 1 } : State).setX rd e.2).advance := by
      rw [exec_srd, hc, srd_table he hl hq, finish_ok]
    refine ⟨hs, fun hv => ?_, fun hv => ?_⟩
    · exact (srdRow_mem (by rw [hc]; exact hv)).trans hs
    · rw [hv] at hs
      exact (srdRow_mem (List.mem_singleton.mpr rfl)).trans hs
  · obtain ⟨n, hn, ht⟩ := timeOf_after s s.t
    refine ⟨n, hn, ?_⟩
    rw [← ht]; rfl
  · obtain ⟨hm, hc, -⟩ := statusTable_reads s e he
    rw [exec_srd, hc, srd_unprivileged hm hn hl]; rfl
  · obtain ⟨hm, hc⟩ := statusNamed_gap hn
    rw [exec_srd, hc, srd_unnamed hm]; rfl
  · obtain ⟨hm, hl, hc⟩ := waitsForQueue_named hn
    have hh : s.readHolds n = true := by
      unfold State.readHolds Thread.queueDone
      rw [show [0x000, 0x001, 0x003, 0x004, 0x005, 0x008].contains n = true from by rw [List.contains_eq_mem]; exact decide_eq_true hn, hi]
      simp [hq]
    rw [exec_srd, hc, srd_named hm fun h => absurd h (by omega), hh]; rfl

/-! ### What SWR, SSET and SCLR come to -/

theorem exec_statusInstr (k : StatusOp) (reg : BitVec 12) (rs1 : Reg) (s : State) :
    exec (statusInstr k reg rs1) s = finish (swr (statusInstr k reg rs1) k reg.toNat rs1 s) := by cases k <;> rfl

/-- A row that writes a group of registers does what the status write does with one of them. -/
theorem swrRow_mem {group : List Nat} {k : StatusOp} {reg : BitVec 12} {rs1 : Reg} {s : State} (h : reg.toNat ∈ group) :
    swrRow group k reg rs1 s = exec (statusInstr k reg rs1) s := by
  unfold swrRow; rw [if_pos (by rw [List.contains_eq_mem]; exact decide_eq_true h), exec_statusInstr]

theorem swr_readOnly {i : Instr} {k : StatusOp} {n : Nat} {rs1 : Reg} {s : State} (h : statusWritable n = false) :
    swr i k n rs1 s = illegalAt i s := by
  unfold swr; rw [h]; rfl

theorem swr_unprivileged {i : Instr} {k : StatusOp} {n : Nat} {rs1 : Reg} {s : State} (h : statusWritable n = true) (hn : 0x100 ≤ n)
    (hl : s.t.level = false) : swr i k n rs1 s = privilegeAt i s := by
  unfold swr; rw [h, if_neg (by decide), if_pos ⟨hn, by rw [hl]; rfl⟩]

/-- A register that may be written at the thread's level: the value is refused, or waited for, or taken. -/
theorem swr_writable {i : Instr} {k : StatusOp} {n : Nat} {rs1 : Reg} {s : State} (h : statusWritable n = true)
    (hl : 0x100 ≤ n → s.t.level = true) :
    swr i k n rs1 s =
      if s.statusRefused n (statusValue k (s.readStatus n) (s.t.readX rs1)) then raise s cause.permission (BitVec.ofNat 64 n)
      else if s.writeHolds n then hold s
      else .ok (s.putStatus n (statusValue k (s.readStatus n) (s.t.readX rs1))).advance := by
  have hp : ¬ (0x100 ≤ n ∧ !s.t.level) := by rintro ⟨hn, h⟩; simp [hl hn] at h
  unfold swr; rw [h, if_neg (by decide), if_neg hp]

/-- The three status writes of a register. -/
theorem statusWrites_mem {n : Nat} {rs1 : Reg} {old x : DWord} {e : Instr × DWord} (h : e ∈ Claim.statusWrites n rs1 old x) :
    ∃ k, e = (statusInstr k (BitVec.ofNat 12 n) rs1, statusValue k old x) := by
  simp only [Claim.statusWrites, List.mem_cons, List.not_mem_nil, or_false] at h
  rcases h with rfl | rfl | rfl
  exacts [⟨.swr, rfl⟩, ⟨.sset, rfl⟩, ⟨.sclr, rfl⟩]

/-! ### The registers that take their value at once -/

/-- The register `n` of the thread in state `s` takes each value at once, as `f` says. -/
structure TakesAtOnce (s : State) (n : Nat) (f : DWord → Thread) : Prop where
  writable : statusWritable n = true
  code : (BitVec.ofNat 12 n).toNat = n
  accepted : ∀ v, s.statusRefused n v = false
  holds : (n ∈ [3, 4, 5] → s.t.queue = [] ∨ s.t.inTrap = true) → s.writeHolds n = false
  puts : ∀ v, s.putStatus n v = { s with t := f v }

theorem TakesAtOnce.exec {s : State} {n : Nat} {f : DWord → Thread} (h : TakesAtOnce s n f) (k : StatusOp) (rs1 : Reg)
    (hl : 0x100 ≤ n → s.t.level = true) (hq : n ∈ [3, 4, 5] → s.t.queue = [] ∨ s.t.inTrap = true) :
    exec (statusInstr k (BitVec.ofNat 12 n) rs1) s =
      .next ({ s with t := f (statusValue k (s.readStatus n) (s.t.readX rs1)) } : State).advance := by
  rw [exec_statusInstr, h.code, swr_writable h.writable hl, h.accepted, h.holds hq, h.puts]; rfl

/-- The write of a queue status register waits until the queue is done, or goes on in a handler (R49, R469). -/
theorem queueDone_of {t : Thread} (h : t.queue = [] ∨ t.inTrap = true) : t.queueDone = true := by
  unfold Thread.queueDone; rcases h with h | h <;> simp [h]

theorem takes_vrsi (s : State) : TakesAtOnce s 0x003 fun v => { s.t with vrsi := v &&& 0x3FFF } :=
  ⟨rfl, rfl, fun _ => rfl, fun hq => by simp [State.writeHolds, queueDone_of (hq (by decide))], fun _ => rfl⟩

theorem takes_vrss (s : State) : TakesAtOnce s 0x004 fun v => { s.t with vrss := v } :=
  ⟨rfl, rfl, fun _ => rfl, fun hq => by simp [State.writeHolds, queueDone_of (hq (by decide))], fun _ => rfl⟩

theorem takes_fflags (s : State) : TakesAtOnce s 0x005 fun v => { s.t with fflags := v.setWidth 6 } :=
  ⟨rfl, rfl, fun _ => rfl, fun hq => by simp [State.writeHolds, queueDone_of (hq (by decide))], fun _ => rfl⟩

/-- An FRM of 5 to 7 leaves the register as it was (R46). -/
theorem takes_frm (s : State) :
    TakesAtOnce s 0x006 fun v => if v.toNat % 8 ≤ 4 then { s.t with frm := v.setWidth 3 } else s.t := by
  refine ⟨rfl, rfl, fun _ => rfl, fun _ => rfl, fun v => ?_⟩
  have hv : (v.setWidth 3 : BitVec 3).toNat = v.toNat % 8 := by simp
  change (if 4 < (v.setWidth 3 : BitVec 3).toNat then s else { s with t := { s.t with frm := v.setWidth 3 } }) = _
  rw [hv]
  by_cases h : v.toNat % 8 ≤ 4
  · rw [if_pos h, if_neg (by omega)]
  · rw [if_neg h, if_pos (by omega)]

/-- A write of LEND below the program counter, into the running pass, leaves one pass (R95). -/
theorem takes_lend (s : State) : TakesAtOnce s 0x00B fun v =>
    { s.t with lend := v, lcount := if s.t.lcount ≠ 0 ∧ s.t.lstart.toNat ≤ v.toNat ∧ v.toNat < s.t.pc.toNat then 1 else s.t.lcount } := by
  refine ⟨rfl, rfl, fun _ => rfl, fun _ => rfl, fun v => ?_⟩
  change ({ s with t := s.t.writeLend v } : State) = _
  unfold Thread.writeLend
  simp only [Bool.and_eq_true, bne_iff_ne, decide_eq_true_eq, and_assoc]

theorem takes_gmode (s : State) : TakesAtOnce s 0x007 fun v => { s.t with gmode := v.getLsbD 0 } :=
  ⟨rfl, rfl, fun _ => rfl, fun _ => rfl, fun _ => rfl⟩

theorem takes_lcount (s : State) : TakesAtOnce s 0x009 fun v => { s.t with lcount := v } :=
  ⟨rfl, rfl, fun _ => rfl, fun _ => rfl, fun _ => rfl⟩

theorem takes_lstart (s : State) : TakesAtOnce s 0x00A fun v => { s.t with lstart := v } :=
  ⟨rfl, rfl, fun _ => rfl, fun _ => rfl, fun _ => rfl⟩

theorem takes_lbypass (s : State) : TakesAtOnce s 0x00C fun v => { s.t with lbypass := v } :=
  ⟨rfl, rfl, fun _ => rfl, fun _ => rfl, fun _ => rfl⟩

theorem takes_sthresh (s : State) : TakesAtOnce s 0x016 fun v => { s.t with sthresh := v.setWidth 32 } :=
  ⟨rfl, rfl, fun _ => rfl, fun _ => rfl, fun _ => rfl⟩

theorem takes_trapspc (s : State) : TakesAtOnce s 0x114 fun v => { s.t with trapspc := v } :=
  ⟨rfl, rfl, fun _ => rfl, fun _ => rfl, fun _ => rfl⟩

theorem takes_trapscr (s : State) : TakesAtOnce s 0x118 fun v => { s.t with trapscr := v } :=
  ⟨rfl, rfl, fun _ => rfl, fun _ => rfl, fun _ => rfl⟩

theorem takes_trapstat (s : State) : TakesAtOnce s 0x116 fun v => { s.t with trapstat := (s.t.trapstat &&& 2) ||| (v &&& 13) } :=
  ⟨rfl, rfl, fun _ => rfl, fun _ => rfl, fun _ => rfl⟩

/-- The numbers that no status write may name: those of the registers that are read only, and those that name no register. -/
theorem statusWritable_not {n : Nat} (h : n ∈ [0x000, 0x001, 0x002, 0x008, 0x00D, 0x00E, 0x00F, 0x010, 0x011, 0x012, 0x013, 0x014, 0x015,
      0x100, 0x111, 0x112, 0x113, 0x115, 0x117, 0x120, 0x121, 0x122, 0x123, 0x124] ∨
    0x17 ≤ n ∧ n < 0x100 ∨ 0x106 ≤ n ∧ n < 0x110 ∨ 0x119 ≤ n ∧ n < 0x120 ∨ 0x125 ≤ n ∧ n < 0x130 ∨ 0x132 ≤ n ∧ n < 0x1000) :
    statusWritable n = false ∧ (BitVec.ofNat 12 n).toNat = n := by
  rcases h with h | h
  · revert n; decide
  · refine ⟨?_, Nat.mod_eq_of_lt (by omega)⟩
    rw [statusWritable, List.contains_eq_mem, decide_eq_false_iff_not]
    simp only [List.mem_cons, List.not_mem_nil, or_false]
    omega

theorem statusRegisterWrites : Claim.StatusRegisterWrites := by
  intro rs1 s t x to_ row lend frm
  have hto : ∀ {n : Nat} {f : DWord → Thread}, TakesAtOnce s n f → to_ n (s.readStatus n) f := by
    intro n f h hl hq e he
    obtain ⟨k, rfl⟩ := statusWrites_mem he
    exact h.exec k rs1 hl hq
  have hrow : ∀ {n : Nat} {f : DWord → Thread} (mk : StatusOp → Instr) (group : List Nat), TakesAtOnce s n f → n < 0x100 →
      n ∈ group → (∀ k, exec (mk k) s = swrRow group k (BitVec.ofNat 12 n) rs1 s) → row n (s.readStatus n) f mk := by
    intro n f mk group h hn hg hm hq
    have hx : ∀ k, exec (mk k) s = .next ({ s with t := f (statusValue k (s.readStatus n) x) } : State).advance := fun k => by
      rw [hm, swrRow_mem (by rw [h.code]; exact hg), h.exec k rs1 (fun h => absurd h (by omega)) hq]
    exact ⟨hx .swr, hx .sset, hx .sclr⟩
  refine ⟨hto (takes_vrsi s), hto (takes_vrss s), hto (takes_fflags s), hto (takes_frm s), hto (takes_gmode s), hto (takes_lcount s),
    hto (takes_lstart s), hto (takes_lend s), hto (takes_lbypass s), hto (takes_sthresh s), hto (takes_trapspc s), hto (takes_trapscr s),
    hto (takes_trapstat s), fun n hn e he => ?_,
    hrow (fun k => .writeVectorStatus k 3 rs1) [3, 4, 5] (takes_vrsi s) (by decide) (by decide) fun _ => rfl,
    hrow (fun k => .writeVectorStatus k 4 rs1) [3, 4, 5] (takes_vrss s) (by decide) (by decide) fun _ => rfl,
    hrow (fun k => .writeVectorStatus k 5 rs1) [3, 4, 5] (takes_fflags s) (by decide) (by decide) fun _ => rfl,
    hrow (fun k => .writeFrm k rs1) [6] (takes_frm s) (by decide) (by decide) fun _ => rfl,
    hrow (fun k => .writeLoopRegisters k 9 rs1) [9, 10, 11] (takes_lcount s) (by decide) (by decide) fun _ => rfl,
    hrow (fun k => .writeLoopRegisters k 10 rs1) [9, 10, 11] (takes_lstart s) (by decide) (by decide) fun _ => rfl,
    hrow (fun k => .writeLoopRegisters k 11 rs1) [9, 10, 11] (takes_lend s) (by decide) (by decide) fun _ => rfl⟩
  obtain ⟨hw, hc⟩ := statusWritable_not hn
  obtain ⟨k, rfl⟩ := statusWrites_mem he
  rw [exec_statusInstr, hc, swr_readOnly hw]; rfl

/-! ### What the write of a register of the context waits for (R370, R380) -/

theorem samePage_iff (va : Option Nat) (size a : Nat) : samePage va size a = true ↔ Claim.pageNamed va size a := by
  unfold samePage Claim.pageNamed
  cases va <;> simp

theorem scalarAcc_through_iff (va : Option Nat) (a : ScalarAcc) : a.through va = true ↔
    a.page ≠ 0 ∧ (Claim.pageNamed va a.page a.va.toNat ∨ a.more ≠ [] ∧ 2 ^ 16 - 64 < a.va.toNat % 2 ^ 16) := by
  simp only [ScalarAcc.through, Bool.and_eq_true, Bool.or_eq_true, bne_iff_ne, samePage_iff, decide_eq_true_eq]

theorem postedOp_through_iff (va : Option Nat) (o : PostedOp) : o.through va = true ↔
    if o.kind = .handle then
      (∃ p ∈ o.shadow, Claim.pageNamed va p.page p.va.toNat) ∨ ∃ x ∈ o.elems, ∃ p ∈ x.puts, Claim.pageNamed va p.page p.va.toNat
    else ∃ x ∈ o.elems, Claim.pageNamed va x.page x.va.toNat := by
  unfold PostedOp.through
  split <;> simp only [Bool.or_eq_true, List.any_eq_true, Put.through, samePage_iff]

/-- The accesses that a write of a base register waits for. -/
theorem accessesPending_iff (s : State) (ctx : Nat) (va : Option Nat) :
    s.accessesPending ctx va = true ↔ Claim.translatedLeft s ctx va := by
  simp only [State.accessesPending, Claim.translatedLeft, List.any_eq_true, Bool.and_eq_true, Bool.or_eq_true, beq_iff_eq,
    scalarAcc_through_iff, postedOp_through_iff, and_assoc]

/-- The queued words that a write of PTBASE or SPBASE waits for. -/
theorem accessesQueued_iff (s : State) (ctx : Nat) : s.accessesQueued ctx = true ↔ Claim.accessQueued s ctx := by
  simp only [State.accessesQueued, Claim.accessQueued, List.any_eq_true, Bool.and_eq_true, Bool.or_eq_true, beq_iff_eq,
    Bool.not_eq_true', ← Bool.not_eq_true, and_assoc]

/-! ### The registers of the context -/

/-- No translation of a context is left once they have all been removed (R370, R379, R380). -/
theorem invalidate_tlb (s : State) (ctx k : Nat) :
    (∀ e ∈ ((s.invalidate ctx none).coreAt k).tlb, e.ctx ≠ ctx) ∧ ∀ e ∈ ((s.invalidate ctx none).bayAt k).tlb, e.ctx ≠ ctx := by
  have hcore : (s.invalidate ctx none).coreAt k =
      { s.coreAt k with tlb := (s.coreAt k).tlb.filter fun e => !staleEntry ctx none e } := by
    change (if k = coreOf s.pos then _ else kget ({} : CoreState) (s.cores.map _) k) = _
    rw [State.coreAt]
    split
    · rfl
    · exact kget_map {} (fun _ (c : CoreState) => { c with tlb := c.tlb.filter fun e => !staleEntry ctx none e }) k rfl s.cores
  have hbay : (s.invalidate ctx none).bayAt k =
      { s.bayAt k with tlb := (s.bayAt k).tlb.filter fun e => !staleEntry ctx none e } := by
    change (if k = bayOf s.pos then _ else kget ({} : BayState) (s.bays.map _) k) = _
    rw [State.bayAt]
    split
    · rfl
    · exact kget_map {} (fun _ (b : BayState) => { b with tlb := b.tlb.filter fun e => !staleEntry ctx none e }) k rfl s.bays
  rw [hcore, hbay]
  simp [staleEntry]

/-- A base register at its new value, the translations of its context removed at a step (R370). -/
theorem invalidate_rebased (s : State) (x : Context) :
    Claim.rebased s (({ s with ctx := x } : State).order.invalidate s.t.ctx none).advance x := by
  have ht : (({ s with ctx := x } : State).order.invalidate s.t.ctx none).t =
      { s.t with queue := s.t.queue.map VEntry.anew } := if_pos rfl
  refine ⟨rfl, ?_, rfl, ?_, ?_, fun k => ?_, fun w hw => ?_⟩
  · change s.stamp < s.stamp + 1 + _; omega
  · rw [advance_t_x, ht]
  · rw [advance_t_f, ht]
  · exact invalidate_tlb ({ s with ctx := x } : State).order s.t.ctx k
  · simpa using (List.mem_filter.mp hw).2

/-- A status write at level 1: the value is refused, or waited for, or taken. -/
theorem exec_levelOne {k : StatusOp} {n : Nat} {rs1 : Reg} {s : State} (h : statusWritable n = true) (hc : (BitVec.ofNat 12 n).toNat = n)
    (hl : s.t.level = true) : exec (statusInstr k (BitVec.ofNat 12 n) rs1) s =
      if s.statusRefused n (statusValue k (s.readStatus n) (s.t.readX rs1)) then Claim.traps s cause.permission (BitVec.ofNat 64 n)
      else if s.writeHolds n then Claim.held s
      else .next (s.putStatus n (statusValue k (s.readStatus n) (s.t.readX rs1))).advance := by
  rw [exec_statusInstr, hc, swr_writable h fun _ => hl]
  split_ifs <;> rfl

theorem reservedSet_iff (v mask : DWord) : reservedSet v mask = true ↔ ¬ v &&& ~~~mask = 0 := by simp [reservedSet]

theorem reservedSet_eq_false_iff (v mask : DWord) : reservedSet v mask = false ↔ v &&& ~~~mask = 0 := by simp [reservedSet]

/-- No bit above the lowest two is set in the numbers below 4. -/
theorem above_two_bits_iff (v : DWord) : v &&& ~~~3 = 0 ↔ v.toNat < 4 := by
  constructor
  · intro h
    have hv : v = v &&& 3 := by
      have := BitVec.and_or_distrib_left (x := v) (y := 3) (z := ~~~3)
      rwa [h, BitVec.or_not_self, BitVec.and_allOnes, show v &&& 3 ||| 0 = v &&& 3 from BitVec.or_zero] at this
    rw [hv, BitVec.toNat_and]
    exact Nat.lt_succ_of_le Nat.and_le_right
  · intro h
    have hv : v = 0 ∨ v = 1 ∨ v = 2 ∨ v = 3 := by bv_omega
    rcases hv with rfl | rfl | rfl | rfl <;> decide

/-- A value of MARCHSEL is refused where it is no mode (R370). -/
theorem marchsel_refused_iff (s : State) (v : DWord) : s.statusRefused 0x104 v = true ↔ 3 ≤ v.toNat := by
  change (reservedSet v 3 || v == 3) = true ↔ _
  rw [Bool.or_eq_true, reservedSet_iff, beq_iff_eq, above_two_bits_iff]
  bv_omega

/-- The words of a register of the context at level 1, by what becomes of the value: each row of the table does what the plain status
write does. -/
theorem contextWrite_cases {k : StatusOp} {n : Nat} {rs1 : Reg} {s : State} {is : List Instr} (hw : statusWritable n = true)
    (hc : (BitVec.ofNat 12 n).toNat = n) (hl : s.t.level = true)
    (his : ∀ i ∈ is, exec i s = exec (statusInstr k (BitVec.ofNat 12 n) rs1) s) :
    let v := statusValue k (s.readStatus n) (s.t.readX rs1)
    (s.statusRefused n v = true → ∀ i ∈ is, exec i s = Claim.traps s cause.permission (BitVec.ofNat 64 n)) ∧
    (s.statusRefused n v = false →
      (s.writeHolds n = true → ∀ i ∈ is, exec i s = Claim.held s) ∧
      (s.writeHolds n = false → ∀ i ∈ is, exec i s = .next (s.putStatus n v).advance)) := by
  have hx : ∀ i ∈ is, exec i s = _ := fun i hi => (his i hi).trans (exec_levelOne hw hc hl)
  refine ⟨fun hr i hi => ?_, fun hr => ⟨fun hh i hi => ?_, fun hh i hi => ?_⟩⟩
  · rw [hx i hi, if_pos hr]
  · rw [hx i hi, hr, hh]; rfl
  · rw [hx i hi, hr, hh]; rfl

/-- A value of DIGCTL is refused where a reserved bit is set or its mode is 3 (R433). -/
theorem digctl_refused_iff (s : State) (v : DWord) : s.statusRefused 0x131 v = true ↔ ¬ v &&& ~~~0xF03 = 0 ∨ v &&& 3 = 3 := by
  change (reservedSet v 0xF03 || v &&& 3 == 3) = true ↔ _
  rw [Bool.or_eq_true, reservedSet_iff, beq_iff_eq]

/-- A value of PTBASE is refused where a reserved bit is set or it lies out of the partition's stack (R370). -/
theorem ptbase_refused_iff (s : State) (v : DWord) :
    s.statusRefused 0x101 v = true ↔ ¬ v &&& ~~~0x0FFFFFFFFFFFF000 = 0 ∨ s.inStack s.ctx.part v.toNat = false := by
  change (reservedSet v 0x0FFFFFFFFFFFF000 || !s.inStack s.ctx.part v.toNat) = true ↔ _
  rw [Bool.or_eq_true, reservedSet_iff, Bool.not_eq_true']

theorem ptbase_holds_iff (s : State) :
    s.writeHolds 0x101 = true ↔ Claim.translatedLeft s s.t.ctx none ∨ Claim.accessQueued s s.t.ctx := by
  change (s.accessesPending s.t.ctx none || s.accessesQueued s.t.ctx) = true ↔ _
  rw [Bool.or_eq_true, accessesPending_iff, accessesQueued_iff]

theorem frtbase_holds_iff (s : State) : s.writeHolds 0x102 = true ↔ Claim.translatedLeft s s.t.ctx none :=
  accessesPending_iff s s.t.ctx none

theorem spbase_holds_iff (s : State) : s.writeHolds 0x103 = true ↔
    Claim.translatedLeft s s.t.ctx none ∨ Claim.accessQueued s s.t.ctx ∨ s.copiesPending s.t.ctx = true := by
  change (s.accessesPending s.t.ctx none || s.accessesQueued s.t.ctx || s.copiesPending s.t.ctx) = true ↔ _
  rw [Bool.or_eq_true, Bool.or_eq_true, accessesPending_iff, accessesQueued_iff, or_assoc]

theorem contextRegisterWrites : Claim.ContextRegisterWrites := by
  intro rs1 k s c x value word clear sets moves refused idle waits
  have hvalue : value = fun old => statusValue k old x := funext fun old => by cases k <;> rfl
  have hword : word = fun n => statusInstr k (BitVec.ofNat 12 n) rs1 := funext fun n => by cases k <;> rfl
  clear_value value word
  subst hvalue hword
  refine ⟨fun hl => ?_, fun hl n hn => ?_⟩
  · have one : ∀ n, ∀ i ∈ [statusInstr k (BitVec.ofNat 12 n) rs1], exec i s = exec (statusInstr k (BitVec.ofNat 12 n) rs1) s :=
      fun n => List.forall_mem_singleton.mpr rfl
    have two : ∀ {n : Nat} (group : List Nat) (j : Instr), (BitVec.ofNat 12 n).toNat ∈ group →
        exec j s = swrRow group k (BitVec.ofNat 12 n) rs1 s →
        ∀ i ∈ [statusInstr k (BitVec.ofNat 12 n) rs1, j], exec i s = exec (statusInstr k (BitVec.ofNat 12 n) rs1) s :=
      fun _ _ hg hj => List.forall_mem_cons.mpr ⟨rfl, List.forall_mem_singleton.mpr (hj.trans (swrRow_mem hg))⟩
    have trapvec := contextWrite_cases (n := 0x110) rfl rfl hl (one _)
    have fgbase := contextWrite_cases (n := 0x105) rfl rfl hl (one _)
    have diglog := contextWrite_cases (n := 0x130) rfl rfl hl (two [0x130, 0x131] (.writeDigestControl k 0x130 rs1) (by decide) rfl)
    have digctl := contextWrite_cases (n := 0x131) rfl rfl hl (two [0x130, 0x131] (.writeDigestControl k 0x131 rs1) (by decide) rfl)
    have marchsel := contextWrite_cases (n := 0x104) rfl rfl hl (two [0x104] (.writeMarchsel k rs1) (by decide) rfl)
    have ptbase := contextWrite_cases (n := 0x101) rfl rfl hl (two [0x101] (.writePtbase k rs1) (by decide) rfl)
    have frtbase := contextWrite_cases (n := 0x102) rfl rfl hl (two [0x102] (.writeFrtbase k rs1) (by decide) rfl)
    have spbase := contextWrite_cases (n := 0x103) rfl rfl hl (two [0x103] (.writeSpbase k rs1) (by decide) rfl)
    have accept : ∀ {v mask : DWord}, v &&& ~~~mask = 0 → reservedSet v mask = false := (reservedSet_eq_false_iff _ _).mpr
    have reject : ∀ {v mask : DWord}, ¬ v &&& ~~~mask = 0 → reservedSet v mask = true := (reservedSet_iff _ _).mpr
    have no : ∀ {b : Bool} {p : Prop}, (b = true ↔ p) → ¬ p → b = false := fun h hp => Bool.eq_false_iff.mpr (mt h.mp hp)
    have rebases : ∀ {i : Instr} {y : Context}, exec i s = .next (({ s with ctx := y } : State).order.invalidate s.t.ctx none).advance →
        ∃ t, exec i s = .next t ∧ Claim.rebased s t y := fun h => ⟨_, h, invalidate_rebased s _⟩
    refine ⟨(trapvec.2 rfl).2 rfl, fun h => (fgbase.2 (accept h)).2 rfl _ (List.mem_singleton_self _), fun h => fgbase.1 (reject h),
      fun h => (diglog.2 (accept h)).2 rfl, fun h => diglog.1 (reject h),
      fun h h' => (digctl.2 (no (digctl_refused_iff s _) (not_or.mpr ⟨not_not.mpr h, h'⟩))).2 rfl,
      fun h => digctl.1 ((digctl_refused_iff s _).mpr h),
      fun h h' => (marchsel.2 (no (marchsel_refused_iff s _) (Nat.not_le.mpr h))).2 h',
      fun h => marchsel.1 ((marchsel_refused_iff s _).mpr h), fun h h' => ?_, fun h => ptbase.1 ((ptbase_refused_iff s _).mpr h),
      fun h => ?_, fun h => frtbase.1 (reject h), fun h => ?_, fun h => spbase.1 (reject h)⟩
    · have hp := ptbase.2 (no (ptbase_refused_iff s _) (not_or.mpr ⟨not_not.mpr h, fun e => Bool.noConfusion (h'.symm.trans e)⟩))
      exact ⟨fun hi hq i hm => rebases (hp.2 (no (ptbase_holds_iff s) (not_or.mpr ⟨hi, hq⟩)) i hm),
        fun hi => hp.1 ((ptbase_holds_iff s).mpr (hi.imp_left not_not.mp))⟩
    · have hp := frtbase.2 (accept h)
      exact ⟨fun hi i hm => rebases (hp.2 (no (frtbase_holds_iff s) hi) i hm),
        fun hi => hp.1 ((frtbase_holds_iff s).mpr (not_not.mp hi))⟩
    · have hp := spbase.2 (accept h)
      exact ⟨fun hi hq hc i hm => rebases (hp.2 (no (spbase_holds_iff s) (not_or.mpr ⟨hi, not_or.mpr ⟨hq, by rw [hc]; decide⟩⟩)) i hm),
        fun hi => hp.1 ((spbase_holds_iff s).mpr (hi.imp_left not_not.mp))⟩
  · have hw : statusWritable n = true ∧ 0x100 ≤ n ∧ (BitVec.ofNat 12 n).toNat = n := by revert n; decide
    obtain ⟨hw, h100, hc⟩ := hw
    change exec (statusInstr k (BitVec.ofNat 12 n) rs1) s = _
    rw [exec_statusInstr, hc, swr_unprivileged hw h100 hl]; rfl

/-- Settles O8: what `srd` and `swr` come to in each case, the table of the registers, and the waits of the base registers. -/
theorem statusRegisters : Obligations.StatusRegisters :=
  ⟨statusRegisterReads, statusRegisterWrites, contextRegisterWrites⟩

end Sys2Proof.Machine
end

section
namespace Sys2Proof.Machine

/-! # Vector configuration, and how a word enters the queue (R111 to R114, R188, R218 to R222) -/

/-! ### Words that enter the queue as they are -/

/-- A word that VTYPE and VL admit, and that does nothing of its own as it enters the queue, is one that enters the queue. -/
theorem exec_eq_issue {i : Instr} {e : LegalEnv} (h : classLegal i e = true) (hs : Claim.enteringSpecially i = false) (s : State) :
    exec i s = issue i s := by
  cases i with
  | modev | gdecl | vadd | vsub | vmul | vmulh | vmulhu | vmacc | vand | vor | vxor | vsll | vsrl | vsra
  | vmin | vmax | vminu | vmaxu | vfadd | vfsub | vfmul | vfdiv | vfsqrt | vfmacc | vfnmsac | vfmin | vfmax | vfcvt
  | vfsgnj | vfrsqrte | vfclass | vmix | vfdot4 | vfmerge | vstep | vxch | vslideup | vslidedn | vgather | vcompress
  | vconf | vreds | vfredo | vredmin | vredmax | vmvxs | vmvsx | vpopc | vfirst | pand | por | pxor | pandn | pnot
  | pset | pclr | vcmpeq | vcmpne | vcmplt | vcmpltu | vcmpge | vfcmpeq | vfcmplt | vfcmple | pmerge | vld | vlds
  | vldx | vldf | vldfS | vldfX | vldr | vldrS | vldrX | vldg | vldgS | vldgX | vldP | texs | vst | vsts | vstx | vstF
  | vstsF | vstxF | vstr | vstrS | vstrX | vstg | vstgS | vstgX | vstP | vscadd | vstc | gp | gwedge | gjoin | gldot
  | gsand | gcomm | gproj | grev | ginvol | gdual | gnormsq | gnorm | gnormz | gexp | glog | gsqrt | ginv | tzero
  | topa | topas | tdrain | tldz | tstz | tshape | tfetch => rfl
  | modet | vblk | hld | hst | hstTry | fsv | fvv | vsetvl | vsetvli => exact Bool.noConfusion hs
  | _ => exact Bool.noConfusion (Bool.and_eq_true_iff.mp h).2

/-- What a word captures of its own are operands and descriptors. -/
theorem operands_frame (t : Thread) (i : Instr) (e : VEntry) :
    ∃ a b h1 h2, t.operands i e = { e with a := a, b := b, h1 := h1, h2 := h2 } := by
  unfold Thread.operands
  split <;> exact ⟨_, _, _, _, rfl⟩

/-- The entry of a word: its address, and the modes of the thread (R219). -/
theorem captureEntry_frame (s : State) (i : Instr) : ∃ a b h1 h2, s.captureEntry i =
    { addr := s.t.pc, instr := i, frm := s.t.frm, gmode := s.t.gmode, sthresh := s.t.sthresh, lbypass := s.t.lbypass
      seq := s.t.scalarCount, a := a, b := b, h1 := h1, h2 := h2 } :=
  operands_frame _ _ _

/-- A MODET at the head of its queue waits for the unit. -/
theorem headArrives_eq (s : State) : s.headArrives = Claim.arrived s := by
  unfold State.headArrives Claim.arrived Claim.modetFirst State.queueForUnit
  cases s.t.queue with
  | nil => rfl
  | cons e r =>
    rcases e with ⟨⟨-, i⟩⟩
    dsimp only
    cases i with
    | modet => by_cases h : s.pos % 4 ∈ s.core.tileWaiters <;> simp [h]
    | _ => simp

@[simp] theorem arrived_t (s : State) : (Claim.arrived s).t = s.t := by unfold Claim.arrived; split <;> rfl

@[simp] theorem arrived_ch (s : State) : (Claim.arrived s).ch = s.ch := by unfold Claim.arrived; split <;> rfl

/-- The wait of the stream does not matter to what arrives at the head of the queue. -/
theorem arrived_wait (s : State) (w : Option WaitRec) :
    ({ Claim.arrived s with t := { (Claim.arrived s).t with wait := w } } : State) =
      Claim.arrived { s with t := { s.t with wait := w } } := by
  unfold Claim.arrived; split <;> rfl

theorem isMarker_plain {i : Instr} (hs : Claim.enteringSpecially i = false) : isMarker i = false := by
  unfold isMarker
  split
  · exact Bool.noConfusion hs
  · exact Bool.noConfusion hs
  · rfl

theorem issueToken_plain {i : Instr} (hs : Claim.enteringSpecially i = false) (e : VEntry) (s : State) : issueToken i e s = .ok (e, s) := by
  unfold issueToken
  split
  · exact Bool.noConfusion hs
  · exact Bool.noConfusion hs
  · rfl

theorem entrySlots_plain {i : Instr} (hs : Claim.enteringSpecially i = false) : entrySlots i = 1 := by
  unfold entrySlots
  split
  · exact Bool.noConfusion hs
  · rfl

theorem captureLegal_plain {i : Instr} (hs : Claim.enteringSpecially i = false) (ht : tileOnly i = false) (e : VEntry) (s : State) :
    captureLegal i e s = true := by
  unfold captureLegal
  split
  · exact Bool.noConfusion hs
  · exact Bool.noConfusion hs
  · exact Bool.noConfusion hs
  · exact Bool.noConfusion ht
  · exact Bool.noConfusion ht
  · rfl

theorem decodeEffect_plain {i : Instr} (hs : Claim.enteringSpecially i = false) (ht : tileOnly i = false) (e : VEntry) (t : Thread) :
    decodeEffect i e t = t := by
  unfold decodeEffect
  split
  · exact Bool.noConfusion hs
  · exact Bool.noConfusion ht
  · exact Bool.noConfusion ht
  · rfl

/-- In vector mode and outside a chain, a word that VTYPE and VL admit is decoded into its entry (R36, R195). -/
theorem decodeEntry_plain {i : Instr} {s : State} (hl : classLegal i s.legalEnv = true) (hs : Claim.enteringSpecially i = false)
    (hc : s.t.chain = none) (hm : s.t.tile = false) (ht : tileOnly i = false) : s.decodeEntry i = some (s.captureEntry i, none) := by
  have ha : modeAdmits s.t.tile i = true := by rw [modeAdmits, hm, ht, isMarker_plain hs]; rfl
  unfold State.decodeEntry
  simp only [hc, ite_self, ha, hl, captureLegal_plain hs ht, Bool.and_self, if_true]
  cases i with
  | vblk => exact Bool.noConfusion hs
  | tdrain => exact Bool.noConfusion ht
  | _ => rfl

theorem heldWord_eq (i : Instr) : heldWord i = Claim.holds i := by
  cases i <;> rfl

/-- In vector mode, outside a handler and a chain, a word that VTYPE and VL admit waits for a free entry, or enters behind the others
(R218, R219). -/
theorem issue_plain {i : Instr} {s : State} (hl : classLegal i s.legalEnv = true) (hs : Claim.enteringSpecially i = false)
    (hi : s.t.inTrap = false) (hc : s.t.chain = none) (hm : s.t.tile = false) (ht : tileOnly i = false) (hst : s.standing i = false) :
    issue i s = if 64 ≤ s.t.usedSlots then Claim.held s else
      let u : State := { s with t := { s.t with queue := s.t.queue ++ [s.captureEntry i] } }
      .next ((if heldWord i then u else u.advance).headArrives.afterIssue i) := by
  have he : ({ s with t := { s.t with queue := s.t.queue ++ [s.captureEntry i], chain := none } } : State) =
      { s with t := { s.t with queue := s.t.queue ++ [s.captureEntry i] } } := by rw [← hc]
  unfold issue
  simp only [hi, hst, Bool.false_eq_true, if_false, decodeEntry_plain hl hs hc hm ht, entrySlots_plain hs, issueToken_plain hs,
    decodeEffect_plain hs ht, he]
  by_cases h : 64 ≤ s.t.usedSlots
  · rw [if_pos h, if_pos (by omega)]; rfl
  · rw [if_neg h, if_neg (by omega)]

/-- Where the machine lets a queue stand, a word that has just entered is left there, and the scalar stream waits for one that holds it
(R222, R241). -/
theorem afterIssue_ahead {i : Instr} {s : State} (hr : s.ch.runAhead = true) :
    s.afterIssue i = if s.standing i then { s with t := { s.t with wait := some { kind := .hold } } } else s := by
  unfold State.afterIssue; rw [hr]; rfl

theorem standing_of_not_held {i : Instr} (h : heldWord i = false) (s : State) : s.standing i = false := by
  unfold State.standing; rw [h]; rfl

theorem vectorWordsEnterTheQueue : Claim.VectorWordsEnterTheQueue := by
  intro i s hl hs
  rw [exec_eq_issue hl hs, Claim.refused, exec_eq_issue hl hs]
  refine ⟨fun hi => ?_, fun hi hc hm ht hr hst => ?_⟩
  · unfold issue
    rw [if_pos hi, isMarker_plain hs]; rfl
  · rw [issue_plain hl hs hi hc hm ht hst]
    refine ⟨fun hu => if_pos hu, fun hu => ?_⟩
    obtain ⟨a, b, h1, h2, he⟩ := captureEntry_frame s i
    refine ⟨s.captureEntry i, by rw [he], by rw [he], by rw [he], by rw [he], by rw [he], by rw [he], by rw [he], by rw [he], by rw [he], ?_⟩
    rw [if_neg (by omega), ← heldWord_eq]
    dsimp only
    rw [headArrives_eq]
    cases hh : heldWord i with
    | true =>
      have hst : (Claim.arrived { s with t := { s.t with queue := s.t.queue ++ [s.captureEntry i] } }).standing i = true := by
        simp [State.standing, hh, he]
      rw [if_pos rfl, if_pos rfl, afterIssue_ahead (by rw [arrived_ch]; exact hr), if_pos hst, arrived_wait]
    | false =>
      simp only [Bool.false_eq_true, if_false]
      rw [afterIssue_ahead (by rw [arrived_ch]; exact hr), standing_of_not_held hh]
      rfl

/-! ### Configuration words -/

/-- The requests that are legal types (R111, R112). -/
theorem typeLegal_iff (req : DWord) : typeLegal req = true ↔ Claim.legalType req := by
  have h7 : req.toNat % 128 = req.toNat % 8 + 8 * (req.toNat / 8 % 16) := by omega
  have hp : ∀ (e : Fin 8) (k : Fin 16), typePairs.contains (e.val + 8 * k.val) = true ↔
      k.val ≤ 1 ∧ e.val ≤ 3 ∨ k.val = 2 ∧ 1 ≤ e.val ∧ e.val ≤ 3 ∨ k.val = 3 ∧ e.val = 1 ∨ (k.val = 4 ∨ k.val = 5) ∧ e.val = 0 ∨
        k.val = 6 ∧ e.val = 4 := by decide
  unfold typeLegal Claim.legalType field bits
  simp only [Bool.and_eq_true, decide_eq_true_eq, bne_iff_ne, beq_iff_eq, pow_zero, Nat.div_one]
  rw [show req.toNat % 2 ^ 7 = req.toNat % 8 + 8 * (req.toNat / 8 % 16) from h7, hp ⟨_, Nat.mod_lt _ (by decide)⟩ ⟨_, Nat.mod_lt _ (by decide)⟩]
  tauto

theorem vtSew_eq_sew (req : DWord) : vtSew req = Claim.sew req := by
  have h : ∀ n < 8, (match n with | 0 => 8 | 1 => 16 | 2 => 32 | 3 => 64 | _ => 4 : Nat) =
      if n = 0 then 8 else if n = 1 then 16 else if n = 2 then 32 else if n = 3 then 64 else 4 := by decide
  have hn : field req 0 3 = req.toNat % 8 := by unfold field bits; rw [pow_zero, Nat.div_one]; rfl
  unfold vtSew Claim.sew
  rw [hn]
  exact h _ (Nat.mod_lt _ (by decide))

/-- A word of the configuration. -/
def isConfig : Instr → Prop
  | .vsetvl _ _ _ | .vsetvli _ _ _ => True
  | _ => False

/-- At the head of the queue a configuration word sets VL and VTYPE (R113). -/
theorem entryRun_config {e : VEntry} (h : isConfig e.instr) (limit : Option Nat) (s : State) :
    entryRun limit e s = .commit { s with t := { s.t with vl := e.a.setWidth 14, vtype := e.b } } := by
  rcases e with ⟨⟨_, i⟩⟩
  cases i with
  | vsetvl | vsetvli => rfl
  | _ => exact h.elim

/-- A configuration word on a vector side with nothing to do sets what it computes, at once (R113, R114). -/
theorem configWord_alone {i : Instr} (h : isConfig i) {s : State} (req : DWord) (rs1 rd : Reg) (hi : s.t.inTrap = false)
    (hq : s.t.queue = []) (hp : s.t.posted = []) (hs : s.t.scalars = []) (hts : s.t.tileSave = []) (ht : s.t.tile = false)
    (hr : s.ch.runAhead = false) :
    configWord i req rs1 rd s =
      let r := configure req rs1 rd s
      .next (({ s with t := { s.t with vl := r.1, vtype := r.2.1, dvl := r.1, dvtype := r.2.1 } } : State).setX rd r.2.2).advance := by
  obtain ⟨hm, hh, hmt⟩ : modeAdmits s.t.tile i = true ∧ heldWord i = false ∧ ∀ r, i ≠ .modet r := by
    rw [ht]
    cases i with
    | vsetvl | vsetvli => exact ⟨rfl, rfl, fun _ => Instr.noConfusion⟩
    | _ => exact h.elim
  have hused : s.t.usedSlots = 0 := by unfold Thread.usedSlots; rw [hq]; rfl
  obtain ⟨a, b, h1, h2, he⟩ := captureEntry_frame s i
  unfold configWord
  rw [hi, hm, hq, hused]
  generalize configure req rs1 rd s = r
  obtain ⟨vl, vt, v⟩ := r
  simp only [Bool.not_true, Bool.or_self, Bool.false_eq_true, if_false, List.any_nil, and_false, List.nil_append]
  rw [if_neg (by decide)]
  let e : VEntry := { s.captureEntry i with a := vl.setWidth 64, b := vt }
  let w : State := (({ s with t := { s.t with queue := [e], dvl := vl, dvtype := vt } } : State).setX rd v).advance
  let u : State := { w with t := { w.t with vl := e.a.setWidth 14, vtype := e.b } }
  have hie : e.instr = i := congrArg (fun c : VEntry => c.instr) he
  have hwq : w.t.queue = [e] := setX_t_queue ..
  have hrun : entryRun none e w = .commit u := entryRun_config (hie ▸ h) none w
  have hmove := moveHead_commit w u e ((congrArg (fun x : DWord => x.getLsbD 1) (setX_t_trapstat ..)).trans hi) hwq ((setX_t_tileSave ..).trans hts) hrun
  have hcommit : u.commitHead e = { u with t := { u.t with queue := [] } } := by
    unfold State.commitHead
    rw [hie, hh, show u.t.queue = [e] from hwq]
    rfl
  have hset := settleQueue_one w _ e hwq hmove (by rw [hcommit]) (by rw [hcommit]; exact (setX_t_posted ..).trans hp)
    (by rw [hcommit]; exact (setX_t_scalars ..).trans hs)
  change Host.Outcome.next (w.afterIssue i) = _
  unfold State.afterIssue
  rw [show w.ch.runAhead = false from hr]
  simp only [Bool.false_eq_true, if_false]
  rw [hset, standing_of_not_held hh, hcommit]
  have hvl : (vl.setWidth 64).setWidth 14 = vl := by simp
  simp only [Bool.false_eq_true, if_false, u, w, e, hvl]
  simp only [setX_eq, writeX_x, State.advance, State.complete, loopCheck]
  rw [hq]

/-- What a configuration word gives, by its request (R113). -/
theorem configure_cases (req : DWord) (rs1 rd : Reg) (s : State) (hq : s.t.queue = []) :
    let cap := s.t.lanes * s.core.rowcap * 32 / Claim.sew req
    let got := fun (n : Nat) => configure req rs1 rd s = (BitVec.ofNat 14 n, req, BitVec.ofNat 64 n)
    let ill := configure req rs1 rd s = (0, 0x80000000, 0)
    (¬ Claim.legalType req → ill) ∧
    (Claim.legalType req → rs1 ≠ 0 → got (min (s.t.readX rs1).toNat cap)) ∧
    (Claim.legalType req → rs1 = 0 → rd ≠ 0 → got cap) ∧
    (Claim.legalType req → rs1 = 0 → rd = 0 → (cap < s.t.vl.toNat → ill) ∧ (s.t.vl.toNat ≤ cap → got s.t.vl.toNat)) := by
  have hk : s.t.keptVl = s.t.vl.toNat := by unfold Thread.keptVl; rw [hq]; rfl
  have hlegal : Claim.legalType req → configure req rs1 rd s =
      let m := s.t.lanes * s.core.rowcap * 32 / Claim.sew req
      let set := fun (n : Nat) => (BitVec.ofNat 14 n, req, BitVec.ofNat 64 n)
      if rs1 ≠ 0 then set (min (s.t.readX rs1).toNat m) else if rd ≠ 0 then set m
      else if m < s.t.vl.toNat then (0, vtypeIll, 0) else set s.t.vl.toNat := by
    intro h
    unfold configure vlmax
    rw [(typeLegal_iff req).mpr h, vtSew_eq_sew, hk]; rfl
  refine ⟨fun h => ?_, fun h h1 => ?_, fun h h1 hd => ?_, fun h h1 hd => ⟨fun hv => ?_, fun hv => ?_⟩⟩
  · unfold configure
    rw [Bool.eq_false_iff.mpr (mt (typeLegal_iff req).mp h)]; rfl
  · exact (hlegal h).trans (if_pos h1)
  · exact (hlegal h).trans ((if_neg (not_not.mpr h1)).trans (if_pos hd))
  · exact (hlegal h).trans ((if_neg (not_not.mpr h1)).trans ((if_neg (not_not.mpr hd)).trans (if_pos hv)))
  · exact (hlegal h).trans ((if_neg (not_not.mpr h1)).trans ((if_neg (not_not.mpr hd)).trans (if_neg (Nat.not_lt.mpr hv))))

/-- In a handler and in tile mode a configuration word is illegal (R195, R386). -/
theorem configWord_refused {i : Instr} (h : isConfig i) {s : State} (req : DWord) (rs1 rd : Reg) (hs : s.t.inTrap = true ∨ s.t.tile = true) :
    configWord i req rs1 rd s = Claim.traps s cause.illegal ((encode i).setWidth 64) := by
  have hm : modeAdmits true i = false := by
    cases i with
    | vsetvl | vsetvli => rfl
    | _ => exact h.elim
  unfold configWord
  rw [if_pos]
  · rfl
  · rcases hs with hs | hs <;> simp [hs, hm]

theorem vectorConfigurationWords : Claim.VectorConfigurationWords := by
  intro rs2 rs1 rd imm vs s
  refine ⟨fun ⟨_, hq, _, _, _, _, _, _, hvt, _, hill, _⟩ => ?_, fun hi hq hp hs hts ht hr => ?_, fun h => ?_⟩
  · change finish (if vtIll s.t.dvtype then _ else if !s.t.inTrap && s.t.queue.any _ then _ else _) = _
    rw [hvt, hill, hq, List.any_nil, Bool.and_false]; rfl
  · intro does
    have hdoes : ∀ {i : Instr} {req : DWord}, isConfig i → exec i s = configWord i req rs1 rd s → does i req := by
      intro i req h he
      have hx := he.trans (configWord_alone h req rs1 rd hi hq hp hs hts ht hr)
      obtain ⟨h1, h2, h3, h4⟩ := configure_cases req rs1 rd s hq
      refine ⟨fun h => ?_, fun h a => ?_, fun h a b => ?_, fun h a b => ⟨fun c => ?_, fun c => ?_⟩⟩
      · rw [hx, h1 h]
      · rw [hx, h2 h a]
      · rw [hx, h3 h a b]
      · rw [hx, (h4 h a b).1 c]
      · rw [hx, (h4 h a b).2 c]
    exact ⟨hdoes (i := .vsetvl rs2 rs1 rd) trivial rfl, hdoes (i := .vsetvli imm rs1 rd) trivial rfl⟩
  · exact ⟨configWord_refused (i := .vsetvl rs2 rs1 rd) trivial _ _ _ h, configWord_refused (i := .vsetvli imm rs1 rd) trivial _ _ _ h⟩

/-- Settles O17: a configuration word alone in its queue runs at once, and any other word that the thread's configuration admits is
queued as `issue` says. -/
theorem vectorConfigurationAndQueue : Obligations.VectorConfigurationAndQueue :=
  ⟨vectorConfigurationWords, vectorWordsEnterTheQueue⟩

end Sys2Proof.Machine
end

section
namespace Sys2Proof.Machine

/-! # Errors of the arrays, and lines of the pool (R417 to R420, R448 to R455) -/

/-! ### Records of MRAM and of the repair map (R443, R444, R455) -/

@[simp] theorem Record.read_write {α : Type} (r : Record α) (v : α) : (r.write v).read = some v := by simp [Record.write, Record.read]

theorem mramOf_eq (s : State) (d : Nat) : s.mramOf d = Claim.mram s d := rfl

/-- The MRAM of a die after one was replaced. -/
theorem mram_setMram (s : State) (d k : Nat) (m : Mram) : Claim.mram (s.setMram d m) k = if k = d then m else Claim.mram s k :=
  kget_kset _ _ _ _ _

/-- An entry stands in the repair map once it has been added. -/
theorem RepairMap.mem_add (x : RepairMap) (r : Repair) : r ∈ (x.add r).repairs := by
  unfold RepairMap.add
  split
  · rename_i h; simpa using h
  · simp

theorem repair_frame (s : State) (die : Nat) (r : Repair) : ∃ m, s.repair die r = { s with mram := m } := by
  unfold State.repair; dsimp only; split <;> exact ⟨_, rfl⟩

theorem repair_mem (s : State) (die : Nat) (r : Repair) : r ∈ (Claim.mram (s.repair die r) die).map.repairs := by
  unfold State.repair; dsimp only
  rw [mramOf_eq]
  split
  · rename_i h; simpa using h
  · rw [mram_setMram, if_pos rfl]
    simp [Mram.map, RepairMap.mem_add]

/-- An entry of the event log stands in it. -/
theorem logEvent_mem (s : State) (die : Nat) (e : MramEvent) : e ∈ (Claim.mram (s.logEvent die e) die).log := by
  have h : ∀ m : Mram, (Claim.mram (s.setMram die m) die).log = m.log := fun m => by rw [mram_setMram, if_pos rfl]
  have hm : ∀ (m : Mram) (l : List MramEvent), e ∈ ({ m with events := m.events.write (l ++ [e]) } : Mram).log := fun m l => by
    simp [Mram.log]
  rw [State.logEvent, h]
  exact hm _ _

/-! ### Counts and worn cores (R455, R458) -/

theorem countErrors_eq (k : ArrayKind) (n : Nat) (l : List (ArrayKind × Nat)) : countErrors k n l = Claim.errorCounted k n l := by
  unfold countErrors Claim.errorCounted
  refine List.map_congr_left fun e _ => ?_
  split
  · rename_i h; rw [h]
  · rfl

theorem setCore_frame (s : State) (k : Nat) (c : CoreState) : ∃ core cores, s.setCore k c = { s with core := core, cores := cores } := by
  unfold State.setCore; split <;> exact ⟨_, _, rfl⟩

theorem setBay_frame (s : State) (k : Nat) (b : BayState) : ∃ bay bays, s.setBay k b = { s with bay := bay, bays := bays } := by
  unfold State.setBay; split <;> exact ⟨_, _, rfl⟩

theorem setCtx_frame (s : State) (n : Nat) (c : Context) : ∃ ctx ctxs, s.setCtx n c = { s with ctx := ctx, ctxs := ctxs } := by
  unfold State.setCtx; split <;> exact ⟨_, _, rfl⟩

theorem wearCore_frame (s : State) (k : Nat) : ∃ core cores m, s.wearCore k = { s with core := core, cores := cores, mram := m } := by
  unfold State.wearCore; dsimp only
  obtain ⟨core, cores, hc⟩ := setCore_frame s k (Claim.worn s k)
  change ∃ core cores m, (if 16 ≤ (Claim.worn s k).uncorrectable.length then (s.setCore k (Claim.worn s k)).repair (k / 128) (.core k)
    else s.setCore k (Claim.worn s k)) = { s with core := core, cores := cores, mram := m }
  rw [hc]
  split
  · obtain ⟨m, hm⟩ := repair_frame { s with core := core, cores := cores } (k / 128) (.core k)
    exact ⟨core, cores, m, hm⟩
  · exact ⟨core, cores, _, rfl⟩

/-- A core that has met an uncorrectable error remembers it (R455). -/
theorem coreAt_wearCore (s : State) (k j : Nat) : (s.wearCore k).coreAt j = if j = k then Claim.worn s k else s.coreAt j := by
  change (if 16 ≤ (Claim.worn s k).uncorrectable.length then (s.setCore k (Claim.worn s k)).repair (k / 128) (.core k)
    else s.setCore k (Claim.worn s k)).coreAt j = _
  split
  · obtain ⟨m, hm⟩ := repair_frame (s.setCore k (Claim.worn s k)) (k / 128) (.core k)
    rw [hm]; exact coreAt_setCore s k j _
  · exact coreAt_setCore s k j _

/-- The sixteenth error of an hour puts the core into the repair map, and no other does (R455). -/
theorem wears_wearCore (s : State) (k : Nat) : Claim.wears s (s.wearCore k) k := by
  have hw : s.wearCore k = if 16 ≤ (Claim.worn s k).uncorrectable.length then (s.setCore k (Claim.worn s k)).repair (k / 128) (.core k)
      else s.setCore k (Claim.worn s k) := rfl
  refine ⟨fun h => ?_, fun h => ?_⟩
  · rw [hw, if_pos h]; exact repair_mem _ _ _
  · rw [hw, if_neg (by omega)]
    obtain ⟨core, cores, hc⟩ := setCore_frame s k (Claim.worn s k)
    rw [hc]

/-! ### Lines that go bad (R449, R452) -/

theorem touches_iff (a : ScalarAcc) (line : Nat) :
    a.touches line = false ↔ ∀ p ∈ (a.pa, a.bytes) :: a.more, p.2 ≠ 0 → p.1 / 128 ≠ line := by
  unfold ScalarAcc.touches
  rw [List.any_eq_false]
  refine forall₂_congr fun p _ => ?_
  simp

theorem lineFree_iff (s : State) (line : Nat) : s.lineFree line = true ↔ Claim.lineFree s line := by
  unfold State.lineFree Claim.lineFree
  simp only [List.all_eq_true, Bool.not_eq_true', List.any_eq_false, Bool.not_eq_true, touches_iff]

/-- An error on a line that no queued access touches strikes at once. -/
theorem beforeError_free {s : State} {line : Nat} (h : Claim.lineFree s line) (f : State → State) : s.beforeError line f = f s := by
  unfold State.beforeError; rw [if_pos ((lineFree_iff s line).mpr h)]

theorem lineOk_of_chk {s : State} {l : Nat} (h : sget (w := 32) s.chk l ≠ 0) : s.lineOk l = false := by
  unfold State.lineOk; rw [beq_eq_false_iff_ne.mpr h]; rfl

/-- A line that an array delivers uncorrected does not match, and no other check value changes (R452). -/
theorem spoil_chk (s : State) (l : Nat) :
    sget (w := 32) (s.spoil l).chk l ≠ 0 ∧ ∀ j, j ≠ l → sget (w := 32) (s.spoil l).chk j = sget (w := 32) s.chk j := by
  unfold State.spoil
  by_cases h : sget (w := 32) s.chk l = 0
  · simp only [h, if_true]
    exact ⟨by rw [sget_sset_same]; decide, fun j hj => sget_sset_other _ _ hj⟩
  · simp only [h, if_false]
    exact ⟨h, fun _ _ => trivial⟩

/-! ### The end of a context, as the report of it says (R390) -/

theorem allScores_frame (s : State) : ∃ core cores, s.allScores = { s with core := core, cores := cores } := takeScores_cores s.ops s

/-- A copy that takes an entry of a scoreboard changes no count of errors. -/
theorem uncorrectable_takeScore (s : State) (o : EngineOp) (k : Nat) :
    ((s.takeScore o).coreAt k).uncorrectable = (s.coreAt k).uncorrectable := by
  unfold State.takeScore
  dsimp only
  split
  · rw [coreAt_setCore]
    split
    · rename_i h; rw [h]
    · rfl
  · rfl

theorem uncorrectable_takeScores (l : List EngineOp) (s : State) (k : Nat) :
    ((l.foldl State.takeScore s).coreAt k).uncorrectable = (s.coreAt k).uncorrectable := by
  induction l generalizing s with
  | nil => rfl
  | cons o l ih => rw [List.foldl_cons, ih, uncorrectable_takeScore]

/-- The tile unit leaves the counts of a core alone. -/
theorem uncorrectable_releaseTiles (l : List Nat) (k : Nat) (c : CoreState) :
    (l.foldl (fun c p => if coreOf p = k then c.releaseTile (p % 4) else c) c).uncorrectable = c.uncorrectable := by
  induction l generalizing c with
  | nil => rfl
  | cons p l ih =>
    rw [List.foldl_cons, ih]
    split
    · unfold CoreState.releaseTile; dsimp only; split <;> rfl
    · rfl

/-- A context as its end by a cause leaves it (R390). -/
def Context.over (x : Context) (c : Cause) : Context :=
  { x with
    ended := true, resident := false, queues := [], images := [], away := [], adds := [], nodes := [], gang := none,
    defined := x.defined && c != cause.stopped }

/-- The state without the operations, pipelines, messages and frame units of a context. -/
def State.withoutContext (s : State) (n : Nat) : State :=
  { s with
    ops := s.ops.filter (fun o => o.ctx != n), pipes := s.pipes.filter (fun p => p.ctx != n)
    net := s.net.filter (fun m => m.ctx != n)
    units := s.units.map fun (u : Nat × FrameUnit) => (u.1, if u.2.ctx = some n then {} else u.2) }

theorem endContext_eq (s : State) (n : Nat) (c : Cause) (pc val time : DWord) : s.endContext n c pc val time =
    (((s.clearThreads n).setCtx n ((s.ctxAt n).over c)).withoutContext n).allScores.report (.ended n c pc val time) := by
  rw [← ctxAt_clearThreads s n n]; rfl

/-- What the end of a context leaves, but for the scoreboards of the cores. -/
theorem endContext_frame (s : State) (n : Nat) (c : Cause) (pc val time : DWord) : ∃ core cores,
    s.endContext n c pc val time = { ((s.clearThreads n).setCtx n ((s.ctxAt n).over c)).withoutContext n with
      core := core, cores := cores, reports := s.reports ++ [(Claim.headed s 0 6 n, .ended n c pc val time)] } := by
  have hpkg := congrArg Context.pkgid (ctxAt_setCtx (s.clearThreads n) n n ((s.ctxAt n).over c))
  rw [if_pos rfl] at hpkg
  rw [endContext_eq]
  obtain ⟨ctx, ctxs, hx⟩ := setCtx_frame (s.clearThreads n) n ((s.ctxAt n).over c)
  rw [hx] at hpkg ⊢
  obtain ⟨core, cores, hs⟩ := allScores_frame (({ s.clearThreads n with ctx := ctx, ctxs := ctxs } : State).withoutContext n)
  have hh : ({ ({ s.clearThreads n with ctx := ctx, ctxs := ctxs } : State).withoutContext n with
      core := core, cores := cores } : State).reportHeader (.ended n c pc val time) = Claim.headed s 0 6 n := by
    unfold State.reportHeader Claim.headed
    rw [show (s.ctxAt n).pkgid = _ from hpkg.symm]; rfl
  refine ⟨core, cores, ?_⟩
  rw [hs, State.report, hh]
  rfl

/-- What the end of a context by a cause comes to (R390). -/
theorem endContext_ended (s : State) (n : Nat) (c : Cause) (pc val time : DWord) : Claim.ended s (s.endContext n c pc val time) n c pc val := by
  obtain ⟨core, cores, h⟩ := endContext_frame s n c pc val time
  obtain ⟨ctx, ctxs, hx⟩ := setCtx_frame (s.clearThreads n) n ((s.ctxAt n).over c)
  have hn := ctxAt_setCtx (s.clearThreads n) n n ((s.ctxAt n).over c)
  rw [if_pos rfl] at hn
  have hc : (s.endContext n c pc val time).ctxAt n = (s.ctxAt n).over c := by rw [h]; exact hn
  rw [Claim.ended, hc]
  refine ⟨rfl, rfl, rfl, ?_, ?_, ?_, ?_, endContext_mem .., time, by rw [h]⟩
  · rw [h, hx]; exact clearThreads_gone s n
  · rw [h]; intro o ho; simpa using (List.mem_filter.mp ho).2
  · rw [h]; intro o ho; simpa using (List.mem_filter.mp ho).2
  · rw [h]; intro o ho; simpa using (List.mem_filter.mp ho).2

theorem endContext_telemetry (s : State) (n : Nat) (c : Cause) (pc val time : DWord) :
    (s.endContext n c pc val time).telemetry = s.telemetry := by
  obtain ⟨core, cores, h⟩ := endContext_frame s n c pc val time
  obtain ⟨ctx, ctxs, hx⟩ := setCtx_frame (s.clearThreads n) n ((s.ctxAt n).over c)
  rw [h, hx]; rfl

theorem endContext_mram (s : State) (n : Nat) (c : Cause) (pc val time : DWord) : (s.endContext n c pc val time).mram = s.mram := by
  obtain ⟨core, cores, h⟩ := endContext_frame s n c pc val time
  obtain ⟨ctx, ctxs, hx⟩ := setCtx_frame (s.clearThreads n) n ((s.ctxAt n).over c)
  rw [h, hx]; rfl

/-- What a change of every record leaves as it was in each, it leaves as it was in the record of a number. -/
theorem kget_map_keeps {α β : Type} (g : α → β) (d : α) (f : Nat → α → α) (h : ∀ k x, g (f k x) = g x) (l : List (Nat × α)) (k : Nat) :
    g (kget d (l.map fun e => (e.1, f e.1 e.2)) k) = g (kget d l k) := by
  induction l with
  | nil => rfl
  | cons e r ih => simp only [List.map_cons, kget]; split <;> simp [h, ih]

theorem uncorrectable_mapCores (s : State) (f : Nat → CoreState → CoreState) (h : ∀ k c, (f k c).uncorrectable = c.uncorrectable) (k : Nat) :
    ((s.mapCores f).coreAt k).uncorrectable = (s.coreAt k).uncorrectable := by
  unfold State.coreAt State.mapCores
  dsimp only
  split
  · rename_i hk; rw [h]
  · exact kget_map_keeps CoreState.uncorrectable {} f h _ _

/-- A core as the end of a context's threads leaves it. -/
def State.clearedCore (s : State) (n k : Nat) (c : CoreState) : CoreState :=
  let gone := (s.allThreads.filter fun e => e.2.live && e.2.ctx == n).map fun e => e.1
  let ops := (s.ops.filter fun o => o.ctx == n).map fun o => o.id
  let c := gone.foldl (fun c p => if coreOf p = k then c.releaseTile (p % 4) else c) c
  { c with
    scoreboard := c.scoreboard.filter fun e => !ops.contains e.op, tlb := c.tlb.filter fun e => e.ctx != n
    icache := c.icache.filter fun e => e.ctx != n }

theorem coreAt_clearThreads (s : State) (n k : Nat) : (s.clearThreads n).coreAt k = (s.mapCores (s.clearedCore n)).coreAt k := rfl

theorem uncorrectable_clearThreads (s : State) (n k : Nat) :
    ((s.clearThreads n).coreAt k).uncorrectable = (s.coreAt k).uncorrectable := by
  rw [coreAt_clearThreads]
  exact uncorrectable_mapCores s (s.clearedCore n) (fun j c => uncorrectable_releaseTiles _ j c) k

/-- The end of a context changes no core's count of errors. -/
theorem endContext_uncorrectable (s : State) (n : Nat) (c : Cause) (pc val time : DWord) (k : Nat) :
    ((s.endContext n c pc val time).coreAt k).uncorrectable = (s.coreAt k).uncorrectable := by
  obtain ⟨ctx, ctxs, hx⟩ := setCtx_frame (s.clearThreads n) n ((s.ctxAt n).over c)
  rw [endContext_eq]
  refine (uncorrectable_takeScores _ _ k).trans ?_
  rw [hx]
  exact uncorrectable_clearThreads s n k

/-! ### SOFT_ERROR (R452, R453, R455) -/

/-- The count of an uncorrectable error. -/
theorem countUncorrectable_eq (s : State) (k : ArrayKind) :
    s.countUncorrectable k = { s with telemetry := { s.telemetry with uncorr := Claim.errorCounted k 1 s.telemetry.uncorr } } := by
  rw [← countErrors_eq]; rfl

/-- Bits flipped in memory leave the check value of their line behind. -/
theorem flip_spec (s : State) (a : Nat) (f : Byte) :
    (∀ b, Claim.byte (s.flip a f) b = if b = a then Claim.byte s a ^^^ f else Claim.byte s b) ∧
    (∀ j, sget (w := 32) (s.flip a f).chk j = if j = a / 128 then
        sget (w := 32) s.chk j ^^^ crc32c ((List.range 128).map fun i => Claim.byte s (128 * (a / 128) + i)) ^^^
          crc32c ((List.range 128).map fun i => Claim.byte (s.flip a f) (128 * (a / 128) + i))
      else sget (w := 32) s.chk j) := by
  refine ⟨fun b => sget_sset _ _ _ _, fun j => (sget_sset _ _ _ _).trans ?_⟩
  split
  · rename_i h; rw [h]; rfl
  · rfl

/-- An uncorrectable line, on a core or not. -/
theorem softError_line (s : State) (kind : ArrayKind) (l : Nat) (core : Option Nat) (hp : s.powered = true) (hf : Claim.lineFree s l) :
    ∃ t, exec (.softError (.uncorrectableLine kind l core)) s = .next t ∧ t.lineOk l = false ∧
      (∀ j, j ≠ l → sget (w := 32) t.chk j = sget (w := 32) s.chk j) ∧
      t = { s with
        chk := t.chk, telemetry := { s.telemetry with uncorr := Claim.errorCounted kind 1 s.telemetry.uncorr },
        core := t.core, cores := t.cores, mram := t.mram } ∧
      (∀ j, t.coreAt j = if core = some j then Claim.worn s j else s.coreAt j) ∧ (core = none → t.mram = s.mram) ∧
      ∀ c, core = some c → Claim.wears s t c := by
  obtain ⟨hl, ho⟩ := spoil_chk s l
  cases core with
  | none =>
    refine ⟨(s.countUncorrectable kind).spoil l, ?_, lineOk_of_chk hl, ho, ?_, fun j => rfl, fun _ => rfl, fun c h => nomatch h⟩
    · change Host.Outcome.next (if !s.powered then s else (s.countUncorrectable kind).beforeError l fun s => s.spoil l) = _
      rw [hp, beforeError_free (by exact hf)]; rfl
    · rw [countUncorrectable_eq]; rfl
  | some c =>
    obtain ⟨a, b, m, hw⟩ := wearCore_frame (s.countUncorrectable kind) c
    have hc : ∀ j, (((s.countUncorrectable kind).wearCore c).spoil l).coreAt j = if j = c then Claim.worn s c else s.coreAt j :=
      coreAt_wearCore (s.countUncorrectable kind) c
    have hx : ((s.countUncorrectable kind).wearCore c).spoil l = { s with
        chk := (s.spoil l).chk, telemetry := { s.telemetry with uncorr := Claim.errorCounted kind 1 s.telemetry.uncorr },
        core := a, cores := b, mram := m } := by rw [hw, countUncorrectable_eq]; rfl
    refine ⟨((s.countUncorrectable kind).wearCore c).spoil l, ?_, ?_, ?_, ?_, ?_, (fun h => nomatch h), ?_⟩
    · change Host.Outcome.next (if !s.powered then s else ((s.countUncorrectable kind).wearCore c).beforeError l fun s => s.spoil l) = _
      rw [hp, beforeError_free (by rw [hw]; exact hf)]; rfl
    · exact lineOk_of_chk (by rw [hx]; exact hl)
    · rw [hx]; exact ho
    · rw [hx]
    · intro j
      rw [hc]
      by_cases h : j = c
      · subst h; simp
      · rw [if_neg h, if_neg fun e => h (Option.some.inj e).symm]
    · intro d hd; cases hd; exact wears_wearCore (s.countUncorrectable kind) c

/-- An error in an entry of queue memory. -/
theorem softError_message (s : State) (n q i : Nat) (x : Message) (hp : s.powered = true) (hx : ((s.ctxAt n).queue q)[i]? = some x) :
    ∃ t, exec (.softError (.message n q i)) s = .next t ∧
      t = { s with ctx := t.ctx, ctxs := t.ctxs, telemetry := { s.telemetry with uncorr := Claim.errorCounted .sram 1 s.telemetry.uncorr } } ∧
      ((t.ctxAt n).queue q)[i]? = some { x with check := 0xFFFFFFFF } ∧ ∀ j, j ≠ i → ((t.ctxAt n).queue q)[j]? = ((s.ctxAt n).queue q)[j]? := by
  obtain ⟨ctx, ctxs, hc⟩ := setCtx_frame (s.countUncorrectable .sram) n
    ((s.ctxAt n).setQueue q (((s.ctxAt n).queue q).modify i fun m => { m with check := 0xFFFFFFFF }))
  have hn := ctxAt_setCtx (s.countUncorrectable .sram) n n
    ((s.ctxAt n).setQueue q (((s.ctxAt n).queue q).modify i fun m => { m with check := 0xFFFFFFFF }))
  rw [if_pos rfl] at hn
  have hq : ∀ l : List Message, ((s.ctxAt n).setQueue q l).queue q = l := fun l => (kget_kset _ _ _ _ _).trans (if_pos rfl)
  refine ⟨_, congrArg Host.Outcome.next (if_neg (by simp [hp])), ?_, ?_, fun j hj => ?_⟩
  · dsimp only; rw [hc, countUncorrectable_eq]
  · dsimp only; rw [hn, hq, List.getElem?_modify_eq, hx]; rfl
  · dsimp only; rw [hn, hq, List.getElem?_modify_ne _ _ (Ne.symm hj)]

/-- A pipeline that was replaced is the one found. -/
theorem pipeOf_setPipe {s : State} {l k : Nat} {p p' : Pipe} (h : s.pipeOf l k = some p) (hl : p'.launch = p.launch) (hk : p'.bay = p.bay) :
    (s.setPipe p').pipeOf l k = some p' := by
  have hq : p.launch = l ∧ p.bay = k := by simpa using List.find?_some h
  obtain ⟨rfl, rfl⟩ := hq
  unfold State.pipeOf State.setPipe at *
  dsimp only
  rw [hl, hk, List.find?_map]
  have hc : ((fun q : Pipe => q.launch == p.launch && q.bay == p.bay) ∘ fun q => if q.launch = p.launch ∧ q.bay = p.bay then p' else q) =
      fun q => q.launch == p.launch && q.bay == p.bay := by
    funext q
    dsimp only [Function.comp]
    split
    · rename_i h; simp [h, hl, hk]
    · rfl
  rw [hc, h]
  simp

/-- An error in a record of a stage queue. -/
theorem softError_stageRecord (s : State) (l k q i : Nat) (p : Pipe) (x : StageRecord) (hp : s.powered = true) (hl : s.pipeOf l k = some p)
    (hx : (p.queue q)[i]? = some x) :
    ∃ t p', exec (.softError (.stageRecord l k q i)) s = .next t ∧
      t = { s with pipes := t.pipes, telemetry := { s.telemetry with uncorr := Claim.errorCounted .sram 1 s.telemetry.uncorr } } ∧
      t.pipeOf l k = some p' ∧ (p'.queue q)[i]? = some { x with check := 0xFFFFFFFF } ∧ ∀ j, j ≠ i → (p'.queue q)[j]? = (p.queue q)[j]? := by
  have hq : ∀ l, (p.setRecords q l).queue q = l := fun l => (kget_kset _ _ _ _ _).trans (if_pos rfl)
  have hm : (s.countUncorrectable .sram).mapRecord l k q i (fun r => { r with check := 0xFFFFFFFF }) =
      (s.countUncorrectable .sram).setPipe (p.setRecords q ((p.queue q).modify i fun r => { r with check := 0xFFFFFFFF })) := by
    unfold State.mapRecord
    rw [show (s.countUncorrectable .sram).pipeOf l k = some p from hl]
  refine ⟨_, p.setRecords q ((p.queue q).modify i fun r => { r with check := 0xFFFFFFFF }), congrArg Host.Outcome.next (if_neg (by simp [hp])), ?_, ?_, ?_,
    fun j hj => ?_⟩
  · dsimp only; rw [hm, countUncorrectable_eq]; rfl
  · dsimp only; rw [hm]; exact pipeOf_setPipe (s := s.countUncorrectable .sram) hl rfl rfl
  · rw [hq, List.getElem?_modify_eq, hx]; rfl
  · rw [hq, List.getElem?_modify_ne _ _ (Ne.symm hj)]

/-- The state of an error of a core's registers before the context ends. -/
def State.struckCore (s : State) (k : Nat) : State :=
  (if s.ready then (s.countUncorrectable .core).order else s.countUncorrectable .core).wearCore k

/-- An error of a core's registers counts, takes a stamp once the machine is ready, and wears the core. -/
theorem struckCore_spec (s : State) (k : Nat) : (∃ core cores m stamp tick, s.struckCore k = { s with
      telemetry := { s.telemetry with uncorr := Claim.errorCounted .core 1 s.telemetry.uncorr }
      core := core, cores := cores, mram := m, stamp := stamp, tick := tick } ∧ (s.ready = true → s.stamp < stamp)) ∧
    (s.struckCore k).coreAt k = Claim.worn s k ∧ Claim.wears s (s.struckCore k) k := by
  unfold State.struckCore
  split
  · obtain ⟨a, b, m, hw⟩ := wearCore_frame (s.countUncorrectable .core).order k
    refine ⟨⟨a, b, m, _, _, by rw [hw, countUncorrectable_eq]; rfl, fun _ => ?_⟩, (coreAt_wearCore _ k k).trans (if_pos rfl), wears_wearCore (s.countUncorrectable .core).order k⟩
    change s.stamp < s.stamp + 1 + _; omega
  · rename_i hr
    obtain ⟨a, b, m, hw⟩ := wearCore_frame (s.countUncorrectable .core) k
    refine ⟨⟨a, b, m, s.stamp, s.tick, by rw [hw, countUncorrectable_eq], fun h => absurd h hr⟩, (coreAt_wearCore _ k k).trans (if_pos rfl), wears_wearCore (s.countUncorrectable .core) k⟩

/-- An error of a core's registers ends the context that is being run (R452). -/
theorem softError_register (s : State) (n k : Nat) (hp : s.powered = true) :
    ∃ t, exec (.softError (.register n k)) s = .next t ∧ (t.coreAt k).uncorrectable = (Claim.worn s k).uncorrectable ∧
      t.telemetry = { s.telemetry with uncorr := Claim.errorCounted .core 1 s.telemetry.uncorr } ∧ Claim.wears s t k ∧
      ((s.ctxAt n).defined = true → (s.ctxAt n).ended = false →
        ∃ u, Claim.ended u t n cause.integrity 0 0 ∧ u.mem = s.mem ∧ u.reports = s.reports ∧ (s.ready = true → s.stamp < u.stamp)) ∧
      ((s.ctxAt n).defined = false ∨ (s.ctxAt n).ended = true → t.t = s.t ∧ t.mem = s.mem ∧ t.reports = s.reports ∧ ∀ j, t.ctxAt j = s.ctxAt j) := by
  obtain ⟨⟨a, b, m, st, tk, hu, hst⟩, hcore, hwears⟩ := struckCore_spec s k
  have hx : (s.struckCore k).ctxAt n = s.ctxAt n := by rw [hu]; rfl
  have he : exec (.softError (.register n k)) s = .next (if (s.ctxAt n).defined && !(s.ctxAt n).ended then
      (s.struckCore k).endContext n cause.integrity 0 0 (stampWord (s.struckCore k).stamp) else s.struckCore k) := by
    rw [← hx]; exact congrArg Host.Outcome.next (if_neg (by simp [hp]))
  rw [he]
  refine ⟨_, rfl, ?_⟩
  split
  · rename_i h
    have hd : (s.ctxAt n).defined = true ∧ (s.ctxAt n).ended = false := by simpa using h
    refine ⟨by rw [endContext_uncorrectable, hcore], by rw [endContext_telemetry, hu], ?_, fun _ _ => ⟨s.struckCore k, endContext_ended .., ?_, ?_, ?_⟩, ?_⟩
    · unfold Claim.wears Claim.mram at hwears ⊢; rw [endContext_mram]; exact hwears
    · rw [hu]
    · rw [hu]
    · rw [hu]; exact hst
    · simp [hd.1, hd.2]
  · rename_i h
    refine ⟨by rw [hcore], by rw [hu], hwears, fun hd hn => absurd (by simp [hd, hn]) h, fun _ => ?_⟩
    rw [hu]
    exact ⟨rfl, rfl, rfl, fun _ => rfl⟩

/-- A cache of a core drops the entry that failed. -/
theorem softError_cache (s : State) (k i : Nat) (fetch : Bool) (hp : s.powered = true) :
    ∃ t, exec (.softError (.cache k fetch i)) s = .next t ∧
      t.telemetry = { s.telemetry with uncorr := Claim.errorCounted .cache 1 s.telemetry.uncorr } ∧ Claim.wears s t k ∧
      t = { s with core := t.core, cores := t.cores, telemetry := t.telemetry, mram := t.mram } ∧
      ∀ j, t.coreAt j = if j = k then (if fetch then { Claim.worn s k with icache := (s.coreAt k).icache.eraseIdx i }
        else { Claim.worn s k with tlb := (s.coreAt k).tlb.eraseIdx i }) else s.coreAt j := by
  obtain ⟨a, b, m, hw⟩ := wearCore_frame (s.countUncorrectable .cache) k
  have hk : ((s.countUncorrectable .cache).wearCore k).coreAt k = Claim.worn s k := (coreAt_wearCore _ k k).trans (if_pos rfl)
  have hj : ∀ j, j ≠ k → ((s.countUncorrectable .cache).wearCore k).coreAt j = s.coreAt j := fun j h => (coreAt_wearCore _ k j).trans (if_neg h)
  have hwears : Claim.wears s ((s.countUncorrectable .cache).wearCore k) k := wears_wearCore (s.countUncorrectable .cache) k
  obtain ⟨a', b', hc⟩ := setCore_frame ((s.countUncorrectable .cache).wearCore k) k
    (if fetch then { Claim.worn s k with icache := (s.coreAt k).icache.eraseIdx i } else { Claim.worn s k with tlb := (s.coreAt k).tlb.eraseIdx i })
  have he : exec (.softError (.cache k fetch i)) s = .next (((s.countUncorrectable .cache).wearCore k).setCore k
      (if fetch then { Claim.worn s k with icache := (s.coreAt k).icache.eraseIdx i } else { Claim.worn s k with tlb := (s.coreAt k).tlb.eraseIdx i })) := by
    rw [← hk]
    refine (congrArg Host.Outcome.next (if_neg (by simp [hp]))).trans ?_
    dsimp only
    rw [hk]; rfl
  refine ⟨_, he, ?_, ?_, ?_, fun j => ?_⟩
  · rw [hc, hw, countUncorrectable_eq]
  · rw [hc]; exact hwears
  · rw [hc, hw, countUncorrectable_eq]
  · rw [coreAt_setCore]
    split
    · rfl
    · rename_i h; exact hj j h

/-- A cache of a bay drops the entry that failed. -/
theorem softError_bayCache (s : State) (k i : Nat) (hp : s.powered = true) :
    ∃ t, exec (.softError (.bayCache k i)) s = .next t ∧
      t.telemetry = { s.telemetry with uncorr := Claim.errorCounted .cache 1 s.telemetry.uncorr } ∧
      t = { s with bay := t.bay, bays := t.bays, telemetry := t.telemetry } ∧
      ∀ j, t.bayAt j = if j = k then { s.bayAt k with tlb := (s.bayAt k).tlb.eraseIdx i } else s.bayAt j := by
  obtain ⟨a, b, hb⟩ := setBay_frame (s.countUncorrectable .cache) k { s.bayAt k with tlb := (s.bayAt k).tlb.eraseIdx i }
  refine ⟨_, congrArg Host.Outcome.next (if_neg (by simp [hp])), ?_, ?_, fun j => bayAt_setBay ..⟩
  · dsimp only; rw [hb, countUncorrectable_eq]
  · dsimp only; rw [hb]; rfl

/-- A record of MRAM loses a copy. -/
theorem softError_mram (s : State) (die : Nat) (rec : MramRecord) (second : Bool) (hp : s.powered = true) :
    ∃ t, exec (.softError (.mram die rec second)) s = .next t ∧
      t = { s with mram := t.mram, telemetry := { s.telemetry with uncorr := Claim.errorCounted .mram 1 s.telemetry.uncorr } } ∧
      (∀ d, d ≠ die → Claim.mram t d = Claim.mram s d) ∧
      (rec = .repair → let r := (Claim.mram s die).repair
        Claim.mram t die = { Claim.mram s die with repair := (Claim.mram t die).repair } ∧
        (second = true → (Claim.mram t die).repair.a = r.a ∧ (Claim.mram t die).repair.b.crc ≠ 0) ∧
        (second = false → (Claim.mram t die).repair.b = r.b ∧ (Claim.mram t die).repair.a.crc ≠ 0)) := by
  have hd : ∀ (m : Mram) (d : Nat), Claim.mram ((s.countUncorrectable .mram).setMram die m) d = if d = die then m else Claim.mram s d :=
    fun m d => mram_setMram _ _ _ _
  refine ⟨(s.countUncorrectable .mram).setMram die ((Claim.mram s die).upset rec second), congrArg Host.Outcome.next (if_neg (by simp [hp])), ?_,
    fun d h => by rw [hd, if_neg h], ?_⟩
  · rw [countUncorrectable_eq]; rfl
  · rintro rfl
    rw [hd, if_pos rfl]
    generalize Claim.mram s die = x
    refine ⟨rfl, ?_, ?_⟩
    · rintro rfl; exact ⟨rfl, by change (1 : Word) ≠ 0; decide⟩
    · rintro rfl; exact ⟨rfl, by change (1 : Word) ≠ 0; decide⟩

/-! ### The patrol, the lanes, and other hosts (R55, R255, R420, R453) -/

theorem patrolScrub_cons (die : Nat) (find : PatrolFind) (finds : List PatrolFind) (s : State) :
    ∃ t, exec (.patrolScrub die [find]) s = .next t ∧ exec (.patrolScrub die (find :: finds)) s = exec (.patrolScrub die finds) t ∧
      t = match find with
        | .uncorrectable l => ((s.countUncorrectable .stack).beforeError l fun s => s.spoil l).logEvent die (.patrol l s.stamp)
        | .correctedRow r n => if 4 ≤ n then (s.countCorrected .stack n).repair die (.row die r) else s.countCorrected .stack n :=
  ⟨_, rfl, rfl, by cases find <;> rfl⟩

/-- A patrol counts what it finds (R453, R458), one find after another. -/
theorem patrolScrub_spec (die l row n : Nat) (find : PatrolFind) (finds : List PatrolFind) (s : State)
    (hf : ∀ l, find = .uncorrectable l → Claim.lineFree s l) :
    ∃ t, exec (.patrolScrub die [find]) s = .next t ∧ exec (.patrolScrub die (find :: finds)) s = exec (.patrolScrub die finds) t ∧
      t = { s with mram := t.mram, chk := t.chk, telemetry := t.telemetry } ∧
      (find = .uncorrectable l → t.telemetry = { s.telemetry with uncorr := Claim.errorCounted .stack 1 s.telemetry.uncorr } ∧
        t.lineOk l = false ∧ .patrol l s.stamp ∈ (Claim.mram t die).log) ∧
      (find = .correctedRow row n → t.chk = s.chk ∧ t.telemetry = { s.telemetry with corr := Claim.errorCounted .stack n s.telemetry.corr } ∧
        (4 ≤ n → .row die row ∈ (Claim.mram t die).map.repairs) ∧ (n < 4 → t.mram = s.mram)) := by
  obtain ⟨t, h1, h2, h3⟩ := patrolScrub_cons die find finds s
  refine ⟨t, h1, h2, ?_⟩
  clear h1 h2
  cases find with
  | uncorrectable l' =>
    dsimp only at h3
    rw [beforeError_free (by exact hf l' rfl), countUncorrectable_eq] at h3
    refine ⟨by rw [h3]; rfl, ?_, fun h => nomatch h⟩
    rintro ⟨⟩
    exact ⟨by rw [h3]; rfl, by rw [h3]; exact lineOk_of_chk (spoil_chk s l).1, by rw [h3]; exact logEvent_mem _ _ _⟩
  | correctedRow r m =>
    dsimp only at h3
    have hc : s.countCorrected .stack m = { s with telemetry := { s.telemetry with corr := Claim.errorCounted .stack m s.telemetry.corr } } := by
      rw [← countErrors_eq]; rfl
    rw [hc] at h3
    obtain ⟨x, hr⟩ := repair_frame { s with telemetry := { s.telemetry with corr := Claim.errorCounted .stack m s.telemetry.corr } } die (.row die r)
    have hm := repair_mem { s with telemetry := { s.telemetry with corr := Claim.errorCounted .stack m s.telemetry.corr } } die (.row die r)
    by_cases hn : 4 ≤ m
    · rw [if_pos hn] at h3
      refine ⟨by rw [h3, hr], (fun h => nomatch h), ?_⟩
      rintro ⟨⟩
      exact ⟨by rw [h3, hr], by rw [h3, hr], fun _ => by rw [h3]; exact hm, fun h => absurd hn (by omega)⟩
    · rw [if_neg hn] at h3
      refine ⟨by rw [h3], (fun h => nomatch h), ?_⟩
      rintro ⟨⟩
      exact ⟨by rw [h3], by rw [h3], fun h => absurd h hn, fun _ => by rw [h3]⟩

/-- A bit of the union of sets of quarters. -/
theorem getLsbD_foldl_or (l : List (BitVec 4)) (a : BitVec 4) (q : Nat) :
    (l.foldl (fun a b => a ||| b) a).getLsbD q = true ↔ a.getLsbD q = true ∨ ∃ b ∈ l, b.getLsbD q = true := by
  induction l generalizing a with
  | nil => simp
  | cons b l ih => rw [List.foldl_cons, ih]; simp [or_assoc]

/-- The quarters of lanes of a core that stay on. -/
def State.lanesKept (s : State) (k : Nat) : BitVec 4 :=
  ((s.allThreads.filter fun e => e.2.live && coreOf e.1 == k).map fun e => e.2.quarters).foldl (fun a b => a ||| b) 0

theorem lanesKept_bit (s : State) (k q : Nat) : (s.lanesKept k).getLsbD q = true ↔
    ∃ e ∈ s.allThreads, e.2.live = true ∧ e.1 / 4 = k ∧ e.2.quarters.getLsbD q = true := by
  unfold State.lanesKept coreOf
  rw [getLsbD_foldl_or]
  simp [and_assoc]

/-- A quarter of a live thread stays powered (R55). -/
theorem quarterPowerGate_spec (k : Nat) (on : BitVec 4) (s : State) :
    ∃ t, exec (.quarterPowerGate k on) s = .next t ∧ t = { s with core := t.core, cores := t.cores } ∧ (∀ j, j ≠ k → t.coreAt j = s.coreAt j) ∧
      t.coreAt k = { s.coreAt k with lanecap := (t.coreAt k).lanecap } ∧
      ∀ q < 4, (t.coreAt k).lanecap.getLsbD q = true ↔ on.getLsbD q = true ∨
        ∃ e ∈ s.allThreads, e.2.live = true ∧ e.1 / 4 = k ∧ e.2.quarters.getLsbD q = true := by
  obtain ⟨a, b, h⟩ := setCore_frame s k { s.coreAt k with lanecap := on ||| s.lanesKept k }
  have hk := coreAt_setCore s k k { s.coreAt k with lanecap := on ||| s.lanesKept k }
  rw [if_pos rfl] at hk
  refine ⟨s.setCore k { s.coreAt k with lanecap := on ||| s.lanesKept k }, rfl, by rw [h], fun j hj => ?_, by rw [hk], fun q _ => ?_⟩
  · rw [coreAt_setCore, if_neg hj]
  · rw [hk, ← lanesKept_bit]; simp

theorem inShared_iff (s : State) (a n : Nat) : s.inShared a n = true ↔ ∃ e ∈ s.extents, e.shared = true ∧ e.base ≤ a ∧ a + n ≤ e.base + e.size := by
  unfold State.inShared; simp [and_assoc]

/-- Another host's write of a shared line is one step, and any other is dropped (R255, R420). -/
theorem cxlHostWrite_spec (a : Nat) (body : List Byte) (s : State) :
    let shared := (∃ e ∈ s.extents, e.shared = true ∧ e.base ≤ a ∧ a + body.length ≤ e.base + e.size) ∧ a % 128 + body.length ≤ 128
    (¬ shared → exec (.cxlHostWrite a body) s = .next s) ∧
    (shared → ∃ t, exec (.cxlHostWrite a body) s = .next t ∧ s.stamp < t.stamp ∧ (∀ b, Claim.byte t b = Claim.put (Claim.byte s) (2 ^ 60 + a) body b) ∧
      t = { s with mem := t.mem, parks := t.parks, chk := t.chk, quar := t.quar, stamp := t.stamp, tick := t.tick }) := by
  intro shared
  have hs : (s.inShared a body.length && decide (a % 128 + body.length ≤ 128)) = true ↔ shared := by
    rw [Bool.and_eq_true, inShared_iff, decide_eq_true_iff]
  refine ⟨fun h => congrArg Host.Outcome.next (if_neg (mt hs.mp h)), fun h => ⟨_, congrArg Host.Outcome.next (if_pos (hs.mpr h)), ?_, ?_, rfl⟩⟩
  · change s.stamp < s.stamp + 1 + _; omega
  · exact fun b => physWrite_byte s.order (poolBase + a) b body

/-! ### Lines of the pool (R417, R418, R449, R450) -/

theorem covers_iff (d : HdmDecoder) (a : Nat) : d.covers a = true ↔ d.base ≤ a ∧ a < d.base + d.size := by
  unfold HdmDecoder.covers; simp

theorem ok_iff (d : HdmDecoder) : d.ok = true ↔ d.base % 2 ^ 28 = 0 ∧ d.size % 2 ^ 28 = 0 ∧ d.ways ∈ [1, 2, 4, 8] ∧
    d.granularity ∈ [256, 1024, 4096, 16384] ∧ d.ports.length = d.ways ∧ ∀ p ∈ d.ports, p < 8 := by
  unfold HdmDecoder.ok
  simp only [Bool.and_eq_true, beq_iff_eq, List.contains_iff_mem, List.all_eq_true, decide_eq_true_iff, and_assoc]

/-- The decoder of an address is the first that covers it. -/
theorem decoderOf_first {s : State} {a : Nat} {l r : List (Nat × HdmDecoder)} {e : Nat × HdmDecoder} (hs : s.hdm = l ++ e :: r)
    (hl : ∀ x ∈ l, ¬ (x.2.base ≤ a ∧ a < x.2.base + x.2.size)) (he : e.2.base ≤ a ∧ a < e.2.base + e.2.size) : s.decoderOf a = some e.2 := by
  have h : s.hdm.find? (fun e => e.2.covers a) = some e :=
    List.find?_eq_some_iff_append.mpr ⟨(covers_iff _ _).mpr he, l, r, hs, fun x hx => by
      rw [Bool.not_eq_true', Bool.eq_false_iff]; exact mt (covers_iff _ _).mp (hl x hx)⟩
  unfold State.decoderOf
  rw [h]; rfl

/-- A line of the pool that does not match, as the quarantine takes it (R450). -/
def State.poolBad (s : State) (line ctx : Nat) (va : DWord) : State :=
  if s.quar.contains line then s else s.order.quarantine ctx 9 (va.toNat / 128 * 128) line (128 * line)

/-- The quarantine takes a line once, with its report and a step (R450). -/
theorem poolBad_spec (s : State) (line ctx : Nat) (va : DWord) :
    line ∈ (s.poolBad line ctx va).quar ∧ (s.poolBad line ctx va).mem = s.mem ∧ (s.poolBad line ctx va).hdm = s.hdm ∧
    (s.poolBad line ctx va).out = s.out ∧ (line ∈ s.quar → s.poolBad line ctx va = s) ∧
    (line ∉ s.quar → s.stamp < (s.poolBad line ctx va).stamp ∧
      (Claim.headed (s.poolBad line ctx va) 0 6 ctx, .integrity ctx 9 (va.toNat / 128 * 128) (128 * line)) ∈ (s.poolBad line ctx va).reports) := by
  unfold State.poolBad
  by_cases h : line ∈ s.quar
  · rw [if_pos (by simpa using h)]
    exact ⟨h, rfl, rfl, rfl, fun _ => rfl, fun hn => absurd h hn⟩
  · rw [if_neg (by simpa using h)]
    refine ⟨List.mem_cons_self, rfl, rfl, rfl, fun hn => absurd hn h, fun _ => ⟨?_, ?_⟩⟩
    · change s.stamp < s.stamp + 1 + _; omega
    · exact List.mem_append_right _ (List.mem_singleton.mpr rfl)

theorem poolWrite_bad {s : State} {line : Nat} (ctx : Nat) (va : DWord) (hp : 2 ^ 60 ≤ 128 * line) (hl : s.lineOk line = false) :
    s.poolWrite line ctx va = match s.decoderOf (128 * line - 2 ^ 60) with
      | some d => { s.poolBad line ctx va with out := s.out ++ [.cxlPoison (d.port (128 * line - 2 ^ 60)) line] }
      | none => s.poolBad line ctx va := by
  obtain ⟨-, -, hh, ho, -⟩ := poolBad_spec s line ctx va
  have hd : (s.poolBad line ctx va).decoderOf (128 * line - 2 ^ 60) = s.decoderOf (128 * line - 2 ^ 60) := by unfold State.decoderOf; rw [hh]
  have hn : ¬ (128 * line < poolBase ∨ s.lineOk line = true) := by
    rw [hl]; exact not_or.mpr ⟨Nat.not_lt.mpr hp, Bool.false_ne_true⟩
  rw [← hd, ← ho]
  exact if_neg hn

theorem poolLines : Claim.PoolLines := by
  intro line ctx k va d s a inside ok
  refine ⟨fun hp hf => ?_, fun h => if_pos h, fun hp hl => ?_, fun hk ho => ⟨_, rfl, ?_, ?_⟩, fun h => if_neg ?_⟩
  · have h : s.poisoned line = s.spoil line := (if_pos hp).trans (beforeError_free hf _)
    rw [h]
    exact ⟨lineOk_of_chk (spoil_chk s line).1, rfl⟩
  · obtain ⟨hq, hm, hh, ho, hin, hnew⟩ := poolBad_spec s line ctx va
    dsimp only
    rw [poolWrite_bad ctx va hp hl]
    refine ⟨?_, ?_, fun h => ?_, fun h => ?_, fun l e r hs hx he => ?_⟩
    · split <;> exact hq
    · split <;> exact hm
    · rw [hin h]; split <;> rfl
    · split <;> exact hnew h
    · rw [decoderOf_first hs hx he]; rfl
  · rw [State.programHdm, if_pos ⟨hk, (ok_iff d).mpr ho⟩]
  · intro j; rw [State.programHdm, if_pos ⟨hk, (ok_iff d).mpr ho⟩]; exact kget_kset _ _ _ _ _
  · rw [ok_iff]; rintro ⟨hk, ho⟩
    exact h.elim (by omega) (fun hn => hn ho)

/-- SOFT_ERROR of memory. -/
theorem softError_memory (s : State) (a : Nat) (f : Byte) (hp : s.powered = true) (hf : Claim.lineFree s (a / 128)) :
    exec (.softError (.memory a f)) s = .next (s.flip a f) :=
  congrArg Host.Outcome.next ((if_neg (by simp [hp])).trans (beforeError_free hf _))

theorem softError_unpowered (s : State) (u : Upset) (hp : s.powered = false) : exec (.softError u) s = .next s :=
  congrArg Host.Outcome.next (if_pos (by simp [hp]))

theorem softError_corrected (s : State) (kind : ArrayKind) (hp : s.powered = true) :
    exec (.softError (.corrected kind)) s = .next { s with telemetry := { s.telemetry with corr := Claim.errorCounted kind 1 s.telemetry.corr } } := by
  rw [← countErrors_eq]; exact congrArg Host.Outcome.next (if_neg (by simp [hp]))

theorem errorsAndScrubs : Claim.ErrorsAndScrubs := by
  intro a n k l q i die row f kind find finds on body rec second fetch u s line error bytes counts
  refine ⟨softError_unpowered s u, fun hp => ⟨fun hf => ?_, fun core hf => softError_line s kind l core hp hf, fun x hx => softError_message s n q i x hp hx,
    fun p x hl hx => softError_stageRecord s l k q i p x hp hl hx, softError_register s n k hp, softError_cache s k i fetch hp,
    softError_bayCache s k i hp, softError_mram s die rec second hp, softError_corrected s kind hp⟩, rfl,
    patrolScrub_spec die l row n find finds s, quarterPowerGate_spec k on s, cxlHostWrite_spec a body s⟩
  obtain ⟨hb, hc⟩ := flip_spec s a f
  exact ⟨_, softError_memory s a f hp hf, hb, hc, rfl⟩

/-- Settles O50: one lemma per event and kind of error, over what wearing a core, spoiling a line and ending a context come to. -/
theorem healthEvents : Obligations.HealthEvents := ⟨errorsAndScrubs, poolLines⟩

end Sys2Proof.Machine
end

section
namespace Sys2Proof.Machine

/-! # The steps of the vector side, of posted elements and of the scalar queue (R50 to R52, R157, R220 to R223, R240) -/

/-! ### Events of a slot -/

theorem slotEvent_ends {pos : Nat} (hp : pos < slotCount) (f : State → Option State) (s : State) :
    slotEvent pos f s = .next ((if (s.focus pos).mayRun then (f (s.focus pos)).getD (s.focus pos) else s.focus pos).focus s.pos) :=
  congrArg Host.Outcome.next (if_neg (by omega))

/-- An event that leaves a state as it is where it can be taken. -/
theorem slotEvent_rests {pos : Nat} {f : State → Option State} {s : State} (hp : pos < slotCount)
    (h : (s.focus pos).mayRun = true → f (s.focus pos) = none ∨ f (s.focus pos) = some (s.focus pos)) :
    slotEvent pos f s = .next ((s.focus pos).focus s.pos) := by
  rw [slotEvent_ends hp]
  split
  · rename_i hm
    rcases h hm with h | h <;> rw [h] <;> rfl
  · rfl

/-- An event that moves a slot's thread. -/
theorem slotEvent_moves {pos : Nat} {f : State → Option State} {s t : State} (hp : pos < slotCount) (hm : (s.focus pos).mayRun = true)
    (h : f (s.focus pos) = some t) : slotEvent pos f s = .next (t.focus s.pos) := by
  rw [slotEvent_ends hp, if_pos hm, h]; rfl

/-- The state that a try of the head leaves. -/
def HeadRes.left : HeadRes → State
  | .moved s | .stuck s => s

theorem moveIf_nil {s : State} (h : s.t.queue = []) (limit : Option Nat) (p : Instr → Bool) : s.moveIf limit p = none := by
  unfold State.moveIf State.headWord; rw [h]; rfl

theorem moveIf_cons {s : State} {e : VEntry} {r : List VEntry} (h : s.t.queue = e :: r) (limit : Option Nat) (p : Instr → Bool) :
    s.moveIf limit p = if p e.instr then some (s.moveHead limit).left else none := by
  unfold State.moveIf State.headWord
  rw [h]
  dsimp only [List.head?, Option.map]
  split
  · split
    · rename_i hm; rw [hm]; rfl
    · rename_i hm; rw [hm]; rfl
  · rfl

theorem headAdmitted_cons {s : State} {e : VEntry} {r : List VEntry} (h : s.t.queue = e :: r) : s.headAdmitted = e.admitted := by
  unfold State.headAdmitted; rw [h]

theorem groupRuns_cons {s : State} {e : VEntry} {r : List VEntry} (h : s.t.queue = e :: r) : s.groupRuns = e.group.isSome := by
  unfold State.groupRuns; rw [h]

/-- In a trap handler the head does not move. -/
theorem moveHead_inTrap {s : State} (h : s.t.inTrap = true) (limit : Option Nat) : (s.moveHead limit).left = s := by
  unfold State.moveHead
  split
  · rfl
  · rw [h]; rfl

theorem moveIf_rests {s : State} (h : s.t.queue = [] ∨ s.t.inTrap = true) (limit : Option Nat) (p : Instr → Bool) :
    s.moveIf limit p = none ∨ s.moveIf limit p = some s := by
  cases hq : s.t.queue with
  | nil => exact .inl (moveIf_nil hq _ _)
  | cons e r =>
    have ht : s.t.inTrap = true := h.resolve_left (by rw [hq]; exact List.cons_ne_nil _ _)
    rw [moveIf_cons hq, moveHead_inTrap ht]
    split
    · exact .inr rfl
    · exact .inl rfl

/-- A head that commits frees its entry, and the scalar word that it held completes. -/
theorem commitHead_eq (e : VEntry) (z : State) : z.commitHead e = Claim.headDone e z := by
  have ha : ({ z with t := { z.t with queue := z.t.queue.drop 1 } } : State).headArrives = Claim.arrived (Claim.headGone z) := headArrives_eq _
  have hp : (Claim.arrived (Claim.headGone z)).t.pc = z.t.pc := by rw [arrived_t]; rfl
  unfold State.commitHead Claim.headDone
  dsimp only
  rw [ha, hp, heldWord_eq]
  by_cases h : Claim.holds e.instr = true ∧ z.t.pc = e.addr
  · rw [if_pos h, if_pos (by simp [h.1, h.2])]
  · rw [if_neg h, if_neg (by simpa using h)]

/-- What a try of the head leaves, by what its word comes to (R220, R222, R223, R385). -/
theorem moveHead_moves {limit : Option Nat} {e : VEntry} {r : List VEntry} {y : State} (ends : State → Prop) (hq : y.t.queue = e :: r)
    (hi : y.t.inTrap = false) (ht : y.t.tileSave = []) (h : ends (y.moveHead limit).left) :
    Claim.headMoves e y (entryRun limit e y) ends := by
  have hm : y.moveHead limit = match entryRun limit e y with
      | .commit s => .moved (s.commitHead e)
      | .progress e s => .moved (s.keepHead e)
      | .blocked e s => .stuck (s.keepHead e)
      | .trap e c v lane isStore spans u =>
        if y.t.scalars ≠ [] then .stuck y.flushScalars
        else .moved (((u.faultGroup (wordAgent e.instr u) c isStore spans).2.keepHead e).headTrap e c v lane
          (u.faultGroup (wordAgent e.instr u) c isStore spans).1)
      | .commitTrap c v u =>
        if y.t.scalars ≠ [] then .stuck y.flushScalars else .moved ((u.commitHead e).headTrap e c v none false) := by
    unfold State.moveHead
    rw [hq]
    dsimp only
    rw [hi, if_neg Bool.false_ne_true, State.reloadTile, if_pos ht] <;> rfl
  rw [hm] at h
  generalize entryRun limit e y = w at h ⊢
  refine ⟨?_, ?_, ?_, ?_⟩
  · rintro z rfl
    rw [← commitHead_eq]; exact h
  · rintro e' z (rfl | rfl)
    · exact h
    · exact h
  · rintro e' c v lane store spans z rfl
    refine ⟨fun hs ha hf => ?_, fun hs => ?_⟩
    · dsimp only at h
      rw [if_neg (not_not.mpr hs)] at h
      have hg : z.faultGroup (wordAgent e'.instr z) c store spans = (false, z) := by
        unfold State.faultGroup; rw [if_pos (.inl hf)]
      rw [hg] at h
      rw [← ha]; exact h
    · dsimp only at h
      rw [if_pos hs] at h; exact h
  · rintro c v z rfl
    refine ⟨fun hs => ?_, fun hs => ?_⟩
    · dsimp only at h
      rw [if_neg (not_not.mpr hs)] at h
      rw [← commitHead_eq]; exact h
    · dsimp only at h
      rw [if_pos hs] at h; exact h

/-! ### Additions of elements, by element groups (R115 to R118, R121, R221) -/

theorem foldl_or_zero {α : Type} (l : List α) : l.foldl (fun (g : Flags) _ => g ||| 0) 0 = 0 := by
  induction l with
  | nil => rfl
  | cons a l ih => exact ih

/-- Elements of an addition of two registers between two places, under the governing predicate. -/
theorem elementGroups_vadd {y : State} {e : VEntry} {p : PReg} {vs2 vd : VReg} {s1 : Reg} (limit : Option Nat)
    (hi : e.instr = .vadd p .vv vs2 s1 vd) (hc : e.chain = none) (hl : 0 < y.t.lanes) :
    let w := vtSew y.t.vtype
    let stop := match limit with
      | none => y.t.vl.toNat
      | some n => e.prog + n * redoGroup y.t.lanes w
    ∃ u, elementGroups limit e y = some ({ e with prog := min stop y.t.vl.toNat }, u) ∧
      (∀ k, u.t.elem vd.toNat w k = if e.prog ≤ k ∧ k < stop ∧ Claim.active y p k = true then
        (y.t.elem vs2.toNat w k + y.t.elem s1.toNat w k) % 2 ^ w else y.t.elem vd.toNat w k) ∧
      (∀ q, q ≠ vd → u.t.readV q = y.t.readV q) ∧ u = { y with t := { y.t with v := u.t.v, tags := u.t.tags } } := by
  intro w stop
  have henv : entryEnv y.t e = y.t.env := by unfold entryEnv; rw [hc]
  let z : State := { y with t := { y.t with fflags := 0 } }
  let part : VEnv := { y.t.env with dom := (List.range y.t.vl.toNat).filter fun i => decide (e.prog ≤ i) && decide (i < stop) }
  let l := part.active z.t p
  let f : Nat → Nat × Flags := fun i => ((y.t.elem vs2.toNat w i + y.t.elem s1.toNat w i) % 2 ^ w, 0)
  let r := z.writeVector part vd.toNat w (l.map fun i => (i, f i))
  have hr : elementGroups limit e y = some ({ e with prog := min stop y.t.vl.toNat, flags := e.flags ||| r.t.fflags },
      { r with t := { r.t with fflags := y.t.fflags } }) := by
    unfold elementGroups
    rw [henv, hi]
    cases limit <;> rfl
  obtain ⟨v, tags, fl, hv⟩ := writeVector_frame z part vd.toNat w (l.map fun i => (i, f i))
  have hfl : r.t.fflags = 0 := by
    by_cases h0 : part.vl = 0
    · exact congrArg (fun s : State => s.t.fflags) (writeVector_zero z _ _ _ h0)
    · refine (writeVector_flags z _ _ _ h0).trans ?_
      rw [List.foldl_map]
      exact foldl_or_zero l
  rw [hfl] at hr
  refine ⟨{ r with t := { r.t with fflags := y.t.fflags } }, hr.trans ?_, fun k => ?_, fun q hq => ?_, ?_⟩
  · simp
  · change r.t.elem vd.toNat w k = _
    have hm : k ∈ l ↔ e.prog ≤ k ∧ k < stop ∧ Claim.active y p k = true := by
      change k ∈ List.filter _ (List.filter _ (List.range _)) ↔ _
      rw [List.mem_filter, List.mem_filter, List.mem_range, Claim.active, Bool.and_eq_true, Bool.and_eq_true, decide_eq_true_iff, decide_eq_true_iff,
        decide_eq_true_iff]
      change (k < _ ∧ _ ∧ _) ∧ y.t.pred p k = true ↔ _
      tauto
    by_cases h0 : part.vl = 0
    · have hz : r = z := writeVector_zero z _ _ _ h0
      have hk : ¬ (e.prog ≤ k ∧ k < stop ∧ Claim.active y p k = true) := by
        rintro ⟨-, -, h⟩
        rw [Claim.active, Bool.and_eq_true, decide_eq_true_iff] at h
        have : y.t.vl.toNat = 0 := h0
        omega
      rw [hz, if_neg hk]; rfl
    · refine (writeVector_elem z l f vd.toNat k vd.isLt (vtSew_width _) hl h0).trans ?_
      simp only [true_and, hm]
      split
      · exact Nat.mod_mod _ _
      · rfl
  · exact writeVector_other z part vd q w _ hq
  · have : r = { z with t := { z.t with v := v, tags := tags, fflags := fl } } := hv
    rw [this]

/-- An addition of two registers is element-wise and meets no memory. -/
theorem entryRun_vadd {limit : Option Nat} {e : VEntry} {y : State} {p : PReg} {f : Form} {vs2 vd : VReg} {s1 : Reg}
    (hi : e.instr = .vadd p f vs2 s1 vd) {r : VEntry × State} (hr : elementGroups limit e y = some r) (hv : (entryEnv y.t e).vl ≤ r.1.prog) :
    entryRun limit e y = .commit (r.2.orFlags r.1.flags) := by
  have he : effectRun limit e y = some (.commit (r.2.orFlags r.1.flags)) := by
    unfold effectRun
    rw [if_pos (by rw [hi]; rfl), hr]
    dsimp only [Option.map]
    rw [if_pos hv]
  unfold entryRun
  rw [hi]
  dsimp only [memWord, postWord]
  rw [he]

/-- An addition at the head writes its active elements and no others, and commits. -/
theorem entryRun_vadd_whole {y : State} {e : VEntry} {p : PReg} {vs2 vd : VReg} {s1 : Reg}
    (hi : e.instr = .vadd p .vv vs2 s1 vd) (hc : e.chain = none) (hl : 0 < y.t.lanes) (h0 : e.prog = 0) :
    ∃ z, entryRun none e y = .commit z ∧
      (∀ k, z.t.elem vd.toNat (vtSew y.t.vtype) k = if Claim.active y p k then
        (y.t.elem vs2.toNat (vtSew y.t.vtype) k + y.t.elem s1.toNat (vtSew y.t.vtype) k) % 2 ^ vtSew y.t.vtype
        else y.t.elem vd.toNat (vtSew y.t.vtype) k) ∧ (∀ q, q ≠ vd → z.t.readV q = y.t.readV q) ∧
      z = { y with t := { y.t with v := z.t.v, tags := z.t.tags, fflags := y.t.fflags ||| e.flags } } := by
  obtain ⟨u, hu, hk, hq, hs⟩ := elementGroups_vadd none hi hc hl
  refine ⟨u.orFlags e.flags, entryRun_vadd hi hu ?_, fun k => (hk k).trans ?_, hq, ?_⟩
  · unfold entryEnv; rw [hc]; exact le_of_eq (Nat.min_self _).symm
  · have : e.prog ≤ k ∧ k < y.t.vl.toNat ∧ Claim.active y p k = true ↔ Claim.active y p k = true := by
      rw [h0]
      exact ⟨fun h => h.2.2, fun h => ⟨Nat.zero_le _, by rw [Claim.active, Bool.and_eq_true, decide_eq_true_iff] at h; exact h.1, h⟩⟩
    simp only [this]
  · rw [hs]; rfl

/-! ### The events of the vector side -/

/-- An event that tries the head of a slot's queue where a condition on the head holds, and otherwise does nothing. -/
theorem headEvent {pos : Nat} {i : Instr} {f : State → Option State} {limit : Option Nat} {e : VEntry} {r : List VEntry} {s : State} {c : Prop}
    (hp : pos < slotCount) (he : exec i s = slotEvent pos f s) (hm : (s.focus pos).mayRun = true) (hq : (s.focus pos).t.queue = e :: r)
    (ht : (s.focus pos).t.inTrap = false) (hs : (s.focus pos).t.tileSave = [])
    (hyes : c → f (s.focus pos) = some ((s.focus pos).moveHead limit).left) (hno : ¬ c → f (s.focus pos) = none) :
    (c → Claim.headMoves e (s.focus pos) (entryRun limit e (s.focus pos)) fun t => exec i s = .next (t.focus s.pos)) ∧
    (¬ c → exec i s = .next ((s.focus pos).focus s.pos)) := by
  rw [he]
  exact ⟨fun h => moveHead_moves _ hq ht hs (slotEvent_moves hp hm (hyes h)), fun h => slotEvent_rests hp fun _ => .inl (hno h)⟩

theorem isTopas_iff (i : Instr) : isTopas i = true ↔ ∃ a b c d z, i = .topas a b c d z := by
  constructor
  · intro h
    unfold isTopas at h
    split at h
    · exact ⟨_, _, _, _, _, rfl⟩
    · exact absurd h Bool.false_ne_true
  · rintro ⟨a, b, c, d, z, rfl⟩; rfl

theorem isVblk_iff (i : Instr) : isVblk i = true ↔ ∃ imm r, i = .vblk imm r := by
  constructor
  · intro h
    unfold isVblk at h
    split at h
    · exact ⟨_, _, rfl⟩
    · exact absurd h Bool.false_ne_true
  · rintro ⟨imm, r, rfl⟩; rfl

theorem isModet_iff (i : Instr) : isModet i = true ↔ ∃ q, i = .modet q := by
  constructor
  · intro h
    unfold isModet at h
    split at h
    · exact ⟨_, rfl⟩
    · exact absurd h Bool.false_ne_true
  · rintro ⟨q, rfl⟩; rfl

/-- Where the first entries are admitted and the next is not, that one takes a slot, if one is free and what it waits for has committed. -/
theorem admitNext_first (t : Thread) (rowcap : Nat) (before l m : List VEntry) (x : VEntry) (hl : ∀ z ∈ l, z.admitted = true) (hx : x.admitted = false) :
    admitNext t rowcap before (l ++ x :: m) =
      if (before ++ l).length < 4 && !(before ++ l).any (awaits (configured t (before ++ l)) rowcap x) then
        some (l ++ { x with admitted := true } :: m) else none := by
  induction l generalizing before with
  | nil =>
    rw [List.nil_append, List.append_nil, admitNext, hx, if_neg Bool.false_ne_true]
    rfl
  | cons a l ih =>
    rw [List.cons_append, admitNext, hl a List.mem_cons_self, if_pos rfl, ih _ fun z hz => hl z (List.mem_cons_of_mem _ hz), List.append_assoc,
      List.singleton_append]
    split <;> rfl

/-- Where nothing may move, no event of the vector side changes a state (R385, R435). -/
theorem vectorSide_rests {pos : Nat} {s : State} (hp : pos < slotCount)
    (h : (s.focus pos).t.queue = [] ∨ (s.focus pos).t.inTrap = true ∨ (s.focus pos).mayRun = false) :
    ∀ i ∈ [Instr.vectorAdmit pos, .vectorCommit pos, .vectorElementStep pos, .postStep pos, .laneGroupIssue pos, .topasRead pos, .tileAcquire pos],
      exec i s = .next ((s.focus pos).focus s.pos) := by
  have hr : (s.focus pos).mayRun = true → (s.focus pos).t.queue = [] ∨ (s.focus pos).t.inTrap = true := fun hm => by simpa [hm] using h
  have hif : ∀ (c : Prop) [Decidable c] (limit : Option Nat) (p : Instr → Bool), (s.focus pos).mayRun = true →
      (if c then (s.focus pos).moveIf limit p else none) = none ∨ (if c then (s.focus pos).moveIf limit p else none) = some (s.focus pos) := by
    intro c _ limit p hm
    split
    · exact moveIf_rests (hr hm) _ _
    · exact .inl rfl
  simp only [List.forall_mem_cons]
  refine ⟨slotEvent_rests hp fun hm => .inl ?_, slotEvent_rests hp (hif _ _ _), slotEvent_rests hp (hif _ _ _), slotEvent_rests hp (hif _ _ _),
    slotEvent_rests hp fun hm => ?_, slotEvent_rests hp fun hm => moveIf_rests (hr hm) _ _, slotEvent_rests hp fun hm => moveIf_rests (hr hm) _ _,
    List.forall_mem_nil _⟩
  · rcases hr hm with hq | ht
    · rw [hq]; split <;> rfl
    · rw [if_pos ht]
  · split
    · exact .inl rfl
    · exact moveIf_rests (hr hm) _ _

theorem vectorSideSteps : Claim.VectorSideSteps := by
  intro pos s e r hp y ends posting vblk topas tile i events
  have hpost : ∀ j, isPosting j = true ↔ posting j := by
    intro j
    dsimp only [posting]
    unfold isPosting
    split <;> simp
  have htopas : isTopas i = true ↔ topas i := isTopas_iff i
  have hvblk : isVblk i = true ↔ vblk i := isVblk_iff i
  have htile : (isModet i || tileOnly i) = true ↔ tile i := by rw [Bool.or_eq_true, isModet_iff]
  refine ⟨fun h => ?_, fun hm hq ht hs => ?_, fun l m x hm hq ht hl hx => ?_, ?_⟩
  · have hr := vectorSide_rests hp h
    simp only [List.forall_mem_cons] at hr
    obtain ⟨h1, h2, h3, h4, h5, h6, h7, -⟩ := hr
    refine ⟨h1, ?_⟩
    simp only [events, List.forall_mem_cons]
    exact ⟨h2, h3, h4, h5, h6, h7, List.forall_mem_nil _⟩
  · have ha := headAdmitted_cons hq
    have hg := groupRuns_cons hq
    have hstep : (!isTopas i && (!isVblk i || e.group.isSome)) = true ↔ ¬ topas i ∧ (vblk i → e.group.isSome = true) := by
      rw [← htopas, ← hvblk]
      cases isTopas i <;> cases isVblk i <;> simp
    simp only [events, List.forall_mem_cons]
    refine ⟨headEvent hp rfl hm hq ht hs (fun h => ?_) (fun h => ?_), headEvent hp rfl hm hq ht hs (fun h => ?_) (fun h => ?_),
      headEvent hp rfl hm hq ht hs (fun h => ?_) (fun h => ?_), headEvent hp rfl hm hq ht hs (fun h => ?_) (fun h => ?_),
      headEvent hp rfl hm hq ht hs (fun h => ?_) (fun h => ?_), headEvent hp rfl hm hq ht hs (fun h => ?_) (fun h => ?_), List.forall_mem_nil _⟩
    · rw [ha, if_pos h, moveIf_cons hq, if_pos rfl]
    · rw [ha, if_neg h]
    · rw [ha, if_pos h.1, moveIf_cons hq, hg, if_pos (hstep.mpr h.2)]
    · by_cases he : e.admitted = true
      · rw [ha, if_pos he, moveIf_cons hq, hg, if_neg fun k => h ⟨he, hstep.mp k⟩]
      · rw [ha, if_neg he]
    · rw [ha, if_pos h.1, moveIf_cons hq, if_pos ((hpost i).mpr h.2)]
    · by_cases he : e.admitted = true
      · rw [ha, if_pos he, moveIf_cons hq, if_neg fun k => h ⟨he, (hpost i).mp k⟩]
      · rw [ha, if_neg he]
    · rw [hg, h.2, if_neg (by decide), moveIf_cons hq, if_pos (hvblk.mpr h.1)]
    · by_cases hn : e.group = none
      · rw [hg, hn, if_neg (by decide), moveIf_cons hq, if_neg fun k => h ⟨hvblk.mp k, hn⟩]
      · rw [hg, if_pos (Option.isSome_iff_ne_none.mpr hn)]
    · rw [moveIf_cons hq, if_pos (htopas.mpr h)]
    · rw [moveIf_cons hq, if_neg (mt htopas.mp h)]
    · rw [moveIf_cons hq, if_pos (htile.mpr h)]
    · rw [moveIf_cons hq, if_neg (mt htile.mp h)]
  · have hadm : exec (.vectorAdmit pos) s = slotEvent pos (fun s => if s.t.inTrap then none
        else (admitNext s.t s.core.rowcap [] s.t.queue).map fun q => { s with t := { s.t with queue := q } }) s := rfl
    have hnext := admitNext_first y.t y.core.rowcap [] l m x hl hx
    rw [List.nil_append] at hnext
    have hfree : (l.length < 4 ∧ ∀ z ∈ l, awaits (configured y.t l) y.core.rowcap x z = false) ↔
        (decide (l.length < 4) && !l.any (awaits (configured y.t l) y.core.rowcap x)) = true := by simp
    refine ⟨fun h => hadm.trans (slotEvent_moves hp hm ?_), fun h => hadm.trans (slotEvent_rests hp fun _ => .inl ?_)⟩
    · dsimp only
      rw [if_neg (by rw [ht]; exact Bool.false_ne_true), hq, hnext, if_pos (hfree.mp h)]; rfl
    · dsimp only
      rw [if_neg (by rw [ht]; exact Bool.false_ne_true), hq, hnext, if_neg (mt hfree.mpr h)]; rfl
  · intro p vs2 s1 vd hm hq ht hs hadm h0 hi hc _ _ hl _ _ w
    obtain ⟨z, hz, hk, ho, hf⟩ := entryRun_vadd_whole hi hc hl h0
    have hcommit : ends (.vectorCommit pos) ((y.moveHead none).left) :=
      slotEvent_moves hp hm (by rw [headAdmitted_cons hq, if_pos hadm, moveIf_cons hq, if_pos rfl])
    have hends := (moveHead_moves (ends (.vectorCommit pos)) hq ht hs hcommit).1 z hz
    have hheld : ¬ (Claim.holds e.instr = true ∧ z.t.pc = e.addr) := by
      rw [show e.instr = _ from hi]; exact fun h => Bool.false_ne_true h.1
    rw [Claim.headDone, if_neg hheld] at hends
    refine ⟨Claim.headGone z, hends, hk, ho, ?_⟩
    rw [Claim.headGone, hf, hq]; rfl

/-! ### What a word waits for (R52, R145) -/

theorem configured_append (t : Thread) (l m : List VEntry) : configured t (l ++ m) = configured (configured t l) m := by
  induction l generalizing t with
  | nil => rfl
  | cons a l ih => exact ih _

theorem configured_vsetvl {t : Thread} {z : VEntry} {rs2 rs1 rd : Reg} (h : z.instr = .vsetvl rs2 rs1 rd) :
    configured t [z] = { t with vl := z.a.setWidth 14, vtype := z.b } := by
  simp only [configured, h]

theorem configured_vadd {t : Thread} {z : VEntry} {p : PReg} {f : Form} {a b d : VReg} (h : z.instr = .vadd p f a b d) :
    configured t [z] = t := by
  simp only [configured, h]

/-- A word that reads across lanes waits for a word before it that writes a register that it reads. -/
theorem awaits_crossLane {t : Thread} {rowcap : Nat} {x z : VEntry} (r : VReg) (hx : crossLane t rowcap x.instr = true)
    (hr : r ∈ readRegs t rowcap x.instr) (hz : writesReg z.instr r = true) : awaits t rowcap x z = true := by
  unfold awaits
  rw [hx, List.any_eq_true.mpr ⟨r, hr, hz⟩]
  rfl

/-- A word waits for a load before it that writes a register that it reads. -/
theorem awaits_load {t : Thread} {rowcap : Nat} {x z : VEntry} (r : VReg) (hz : isLoad z.instr = true)
    (hr : r ∈ readRegs t rowcap x.instr) (hw : writesReg z.instr r = true) : awaits t rowcap x z = true := by
  unfold awaits
  rw [hz, List.any_eq_true.mpr ⟨r, hr, hw⟩]
  simp

/-- A word waits for a load before it that writes a predicate that it reads. -/
theorem awaits_loadedPred {t : Thread} {rowcap : Nat} {x z : VEntry} (p : PReg) (hz : isLoad z.instr = true)
    (hr : p ∈ readPreds x.instr) (hw : writesPred z.instr p = true) : awaits t rowcap x z = true := by
  unfold awaits
  rw [hz, List.any_eq_true.mpr ⟨p, hr, hw⟩]
  simp

/-- A word that reads by lanes waits for no word but a load. -/
theorem awaits_elementWise {t : Thread} {rowcap : Nat} {x z : VEntry} (hx : crossLane t rowcap x.instr = false)
    (hz : isLoad z.instr = false) : awaits t rowcap x z = false := by
  unfold awaits; rw [hx, hz]; rfl

/-- A word that reads by lanes waits for no load that writes nothing that it reads. -/
theorem awaits_apart {t : Thread} {rowcap : Nat} {x z : VEntry} (hx : crossLane t rowcap x.instr = false)
    (hr : ∀ r ∈ readRegs t rowcap x.instr, writesReg z.instr r = false) (hp : ∀ p ∈ readPreds x.instr, writesPred z.instr p = false) :
    awaits t rowcap x z = false := by
  unfold awaits
  have h1 : (readRegs t rowcap x.instr).any (writesReg z.instr) = false := List.any_eq_false.mpr fun r h => by simp [hr r h]
  have h2 : (readPreds x.instr).any (writesPred z.instr) = false := List.any_eq_false.mpr fun p h => by simp [hp p h]
  rw [hx, h1, h2]
  simp

theorem writesReg_vadd (p : PReg) (f : Form) (a b d : VReg) : writesReg (.vadd p f a b d) d = true := beq_self_eq_true d

theorem writesReg_vld (p : PReg) (rs : Reg) (w : EW) (d r : VReg) : writesReg (.vld p rs w d) r = (r.toNat == d.toNat) := rfl

theorem awaited : Claim.Awaited := by
  intro t rowcap x z p q a b c d r rs rd f w
  refine ⟨fun l => ⟨rfl, fun h => ?_⟩, fun hz h => ?_, fun hz hx => ?_, fun hz hx => ?_, fun hz hx => ?_, fun hz hx => ?_, fun hz hx => ?_,
    fun hz hx ha hb => ?_, fun a' b' d' hz hx => ?_⟩
  · rw [configured_append]
    rcases h with h | h
    · rw [configured_vsetvl h, if_pos h]
    · rw [configured_vadd h, if_neg (by rw [h]; exact fun k => nomatch k)]
  · refine awaits_loadedPred p (by rw [hz]; rfl) ?_ (by rw [hz]; exact beq_self_eq_true p)
    rcases h with h | h <;> rw [h] <;> simp [readPreds]
  · exact awaits_crossLane d (by rw [hx]; rfl) (by rw [hx]; exact List.mem_singleton.mpr rfl) (by rw [hz]; exact writesReg_vadd ..)
  · exact awaits_crossLane d (by rw [hx]; rfl) (by rw [hx]; exact List.mem_singleton.mpr rfl) (by rw [hz]; exact writesReg_vadd ..)
  · exact awaits_crossLane d (by rw [hx]; rfl) (by rw [hx]; exact List.mem_cons_self) (by rw [hz]; exact writesReg_vadd ..)
  · exact awaits_crossLane d (by rw [hx]; rfl) (by rw [hx]; exact List.mem_singleton.mpr rfl) (by rw [hz]; exact writesReg_vadd ..)
  · exact awaits_load d (by rw [hz]; rfl) (by rw [hx]; simp [readRegs, formRegs]) (by rw [hz, writesReg_vld]; exact beq_self_eq_true _)
  · refine awaits_apart (by rw [hx]; rfl) ?_ (by rw [hz]; exact fun _ _ => rfl)
    rw [hx, hz]
    have hne : ∀ r : VReg, r ≠ d → (r.toNat == d.toNat) = false := fun r h => by
      rw [beq_eq_false_iff_ne]; exact fun e => h (BitVec.eq_of_toNat_eq e)
    intro r hr
    rw [writesReg_vld]
    rcases List.mem_cons.mp hr with rfl | hr
    · exact hne _ ha
    · rw [List.mem_singleton.mp hr]; exact hne _ hb
  · exact awaits_elementWise (by rw [hx]; rfl) (by rw [hz]; rfl)

/-! ### A sum of two values (R61, R62, R64, R65) -/

theorem nv_nan (x : Bool) : (FVal.nan x).nv = Claim.nv x false := by cases x <;> rfl

theorem zeroSign_pair (rm : BitVec 3) (m n : Bool) (p q : Rat) :
    zeroSign rm [.num m p, .num n q] = (rm == 2 || m && n && p == 0 && q == 0) := by
  simp only [zeroSign, List.all_cons, List.all_nil, FVal.neg, FVal.rat, Bool.and_true]
  cases m <;> cases n <;> simp

theorem nv_inf (n : Bool) : (FVal.inf n).nv = 0 := rfl

theorem nv_num (n : Bool) (q : Rat) : (FVal.num n q).nv = 0 := rfl

/-- A sum that holds a NaN is the canonical NaN, with NV for a signalling one. -/
theorem sum_nan (f : Fmt) (rm : BitVec 3) (fl : BitVec 2) {a b : FVal} (h : a.isNan = true ∨ b.isNan = true) :
    f.sum rm fl 0 [a, b] = (f.nan, a.nv ||| b.nv) := by
  have hn : [a, b].any FVal.isNan = true := by simpa using h
  simp [Fmt.sum, exactSum, hn, Fmt.round]

/-- The sum of two values rounded once. -/
theorem sum_pair (f : Fmt) (rm : BitVec 3) (fl : BitVec 2) (a b : FVal) : f.sum rm fl 0 [a, b] = Claim.sum f rm fl a b := by
  cases a with
  | nan x =>
    rw [sum_nan f rm fl (.inl rfl)]
    cases b with
    | nan y => cases x <;> cases y <;> rfl
    | inf n => simp [nv_nan, nv_inf, Claim.sum]
    | num n q => simp [nv_nan, nv_num, Claim.sum]
  | inf m =>
    cases b with
    | nan y => rw [sum_nan f rm fl (.inr rfl)]; simp [nv_nan, nv_inf, Claim.sum]
    | inf n => cases m <;> cases n <;> rfl
    | num n q => cases m <;> simp [Fmt.sum, exactSum, Claim.sum, FVal.isNan, FVal.isInf, FVal.nv, Fmt.round]
  | num m p =>
    cases b with
    | nan y => rw [sum_nan f rm fl (.inr rfl)]; simp [nv_nan, nv_num, Claim.sum]
    | inf n => cases n <;> simp [Fmt.sum, exactSum, Claim.sum, FVal.isNan, FVal.isInf, FVal.nv, Fmt.round]
    | num n q =>
      have he : exactSum [.num m p, .num n q] = (.num false (p + q), 0) := by
        simp [exactSum, FVal.isNan, FVal.isInf, FVal.nv, FVal.rat]
      have hs : f.sum rm fl 0 [.num m p, .num n q] =
          ((f.round rm fl (zeroSign rm [.num m p, .num n q]) (.num false (p + q))).1,
            0 ||| 0 ||| (f.round rm fl (zeroSign rm [.num m p, .num n q]) (.num false (p + q))).2) := by rw [Fmt.sum, he]
      have h0 : ∀ x : Flags, 0 ||| 0 ||| x = x := fun x => by simp
      rw [hs, zeroSign_pair, h0]
      rfl

/-! ### Posted elements (R157 to R160, R240, R283, R450) -/

theorem segment_none {s : State} (h : s.mySegment = none) : s.segment s.agent = none := by
  have hn : s.segs.find? (fun e => e.1 == s.pos) = none := by
    unfold State.mySegment at h; simpa using h
  have : s.segs.find? (fun e => e.1 == s.pos && !e.2.closed) = none := by
    rw [List.find?_eq_none] at hn ⊢
    exact fun e he k => hn e he (Bool.and_eq_true _ _ ▸ k).1
  unfold State.segment State.agent
  dsimp only
  rw [this]; rfl

theorem addElem_eq (bytes : Nat) (isBf16 : Bool) (frm : BitVec 3) (flush : BitVec 2) (old val : Nat) :
    addElem bytes isBf16 frm flush old val = Claim.sum (addFmt bytes isBf16) frm flush
      ((addFmt bytes isBf16).read flush old) ((addFmt bytes isBf16).read flush val) := sum_pair ..

/-- What a posted element writes over bytes that read as a number, and its flags (R159, R160). -/
def PostedOp.result (o : PostedOp) (x : PostedElem) (old : Nat) : Nat × Flags :=
  if o.kind = .addInt then (old + x.val.toNat, 0)
  else if o.kind = .addFloat then Claim.sum (addFmt o.bytes o.bf16) o.frm o.flush ((addFmt o.bytes o.bf16).read o.flush old)
    ((addFmt o.bytes o.bf16).read o.flush x.val.toNat)
  else (x.val.toNat, 0)

/-- A posted element on a good line is written at one step, and nothing else changes but the thread's digest, what the parked see and
the line's check. -/
theorem performPosted_good {s : State} {o : PostedOp} {x : PostedElem} (hk : o.kind ≠ .handle) (hseg : s.mySegment = none)
    (hl : s.lineOk (x.pa / 128) = true) :
    ∃ d, s.performPosted o x = ((o.result x (ofBytes (bytesAt s.mem x.pa o.bytes))).2, ({ s with t := { s.t with digest := d } } : State).physWrite x.pa
      (toBytes o.bytes (o.result x (ofBytes (bytesAt s.mem x.pa o.bytes))).1)) := by
  have hd : ∃ d, (if s.ctx.det then ({ s with t := { s.t with digest := foldDigests s.t.digest x.va (toBytes o.bytes x.val.toNat) } } : State) else s) =
      { s with t := { s.t with digest := d } } := by split <;> exact ⟨_, rfl⟩
  obtain ⟨d, hd⟩ := hd
  unfold State.performPosted PostedOp.result
  rw [hl]
  dsimp only
  rw [if_neg (by decide), hd]
  cases h : o.kind with
  | addInt => exact ⟨d, rfl⟩
  | addFloat =>
    refine ⟨d, ?_⟩
    rw [if_neg (by decide), if_pos rfl, ← addElem_eq]
  | store =>
    obtain ⟨d', hd'⟩ := digested_eq s s.agent x.va.toNat (toBytes o.bytes x.val.toNat)
    refine ⟨d', ?_⟩
    rw [if_neg (by decide), if_neg (by decide), ← hd', ← commitWrite_plain _ _ _ _ _ (segment_none hseg)]
  | handle => exact absurd h hk

/-- A posted element on a bad line is dropped, and the line is in quarantine. -/
theorem performPosted_bad {s : State} {o : PostedOp} {x : PostedElem} (hl : s.lineOk (x.pa / 128) = false) :
    ∃ quar tel rep m, s.performPosted o x = (0, { s with quar := quar, telemetry := tel, reports := rep, mram := m }) ∧ x.pa / 128 ∈ quar := by
  unfold State.performPosted
  rw [hl]
  dsimp only
  rw [if_pos (by decide)]
  unfold State.dropPosted
  split
  · rename_i h; exact ⟨_, _, _, _, rfl, by simpa using h⟩
  · exact ⟨_, _, _, _, rfl, List.mem_cons_self⟩

/-- What a posted element leaves, its line good or bad. -/
theorem performPosted_spec {s : State} {o : PostedOp} {x : PostedElem} (hk : o.kind ≠ .handle) (hseg : s.mySegment = none) :
    ∃ d mem parks chk quar tel rep m,
      s.performPosted o x = (if s.lineOk (x.pa / 128) then (o.result x (ofBytes (bytesAt s.mem x.pa o.bytes))).2 else 0, { s with
        t := { s.t with digest := d }, mem := mem, parks := parks, chk := chk, quar := quar, telemetry := tel, reports := rep, mram := m }) ∧
      (s.lineOk (x.pa / 128) = true → ∀ a, sget (w := 8) mem a =
        Claim.put (Claim.byte s) x.pa (toBytes o.bytes (o.result x (ofBytes (bytesAt s.mem x.pa o.bytes))).1) a) ∧
      (s.lineOk (x.pa / 128) = false → mem = s.mem ∧ x.pa / 128 ∈ quar) := by
  cases hl : s.lineOk (x.pa / 128) with
  | true =>
    obtain ⟨d, hd⟩ := performPosted_good hk hseg hl
    refine ⟨d, _, _, _, _, _, _, _, hd, fun _ a => ?_, fun h => absurd h (by decide)⟩
    exact physWrite_byte s x.pa a _
  | false =>
    obtain ⟨quar, tel, rep, m, hd, hq⟩ := performPosted_bad (o := o) hl
    exact ⟨s.t.digest, _, _, _, _, _, _, _, hd, fun h => absurd h (by decide), fun _ => ⟨rfl, hq⟩⟩

/-- The flags of a live thread's own work reach it (R283). -/
theorem deliver_live {s : State} (fl : Flags) (hl : s.t.live = true) (hp : s.pos < slotCount) (hi : ∀ e ∈ s.ctx.images, e.1 ≠ s.pos) :
    ∃ segs, s.deliver s.t.ctx s.pos fl = { s with t := { s.t with fflags := s.t.fflags ||| fl }, segs := segs } := by
  have hx : s.ctxAt s.t.ctx = s.ctx := if_pos rfl
  have ht : s.threadAt s.pos = s.t := if_pos rfl
  have hn : (s.ctx.images.any fun e => e.1 == s.pos) = false := List.any_eq_false.mpr fun e he => by simpa using hi e he
  unfold State.deliver State.onIssuer
  dsimp only
  rw [hx, ht, hn, if_neg Bool.false_ne_true, if_pos ⟨hp, hl, rfl⟩, State.setThread, if_pos rfl]
  exact ⟨_, rfl⟩

/-- The posted set once an element of an operation was performed: the operation gone, or with the elements and flags that it has left. -/
def PostedOp.rest (o : PostedOp) (left : List PostedElem) (fl : Flags) (l : List PostedOp) : List PostedOp :=
  if left = [] then l.filter fun p => p.id != o.id else l.map fun p => if p.id = o.id then { p with elems := left, flags := fl } else p

theorem performElement_eq {y : State} {j k : Nat} {o : PostedOp} {x : PostedElem} (ho : y.t.posted[j]? = some o) (hx : o.elems[k]? = some x)
    (hk : o.kind ≠ .handle) (hh : y.held y.agent x.pa o.bytes = false) {fl : Flags} {z : State} (hz : y.orderVector.performPosted o x = (fl, z)) :
    y.performElement j k = some (
      let left := o.elems.eraseIdx k
      let u : State := { z with t := { z.t with posted := o.rest left (o.flags ||| fl) z.t.posted } }
      if left = [] then u.deliver u.t.ctx u.pos (o.flags ||| fl) else u) := by
  have he : y.elemHeld o x = false := by unfold State.elemHeld; rw [if_neg hk]; exact hh
  unfold State.performElement PostedOp.rest
  rw [ho]
  dsimp only
  rw [hx]
  dsimp only
  rw [he, if_neg Bool.false_ne_true, if_neg hk, hz]
  dsimp only
  by_cases hl : o.elems.eraseIdx k = []
  · rw [hl]; rfl
  · rw [if_neg hl, if_neg hl, if_neg (by simpa using hl), if_neg (by simpa using hl)]

/-- The last element of an operation delivers its flags. -/
theorem performElement_last {y : State} {j k : Nat} {o : PostedOp} {x : PostedElem} (ho : y.t.posted[j]? = some o) (hx : o.elems[k]? = some x)
    (hk : o.kind ≠ .handle) (hh : y.held y.agent x.pa o.bytes = false) {fl : Flags} {z : State} (hz : y.orderVector.performPosted o x = (fl, z))
    (hl : o.elems.eraseIdx k = []) (hlive : z.t.live = true) (hp : z.pos < slotCount) (hi : ∀ e ∈ z.ctx.images, e.1 ≠ z.pos) :
    ∃ segs, y.performElement j k = some { z with
      t := { z.t with posted := o.rest [] (o.flags ||| fl) z.t.posted, fflags := z.t.fflags ||| (o.flags ||| fl) }, segs := segs } := by
  obtain ⟨segs, hd⟩ := deliver_live (s := { z with t := { z.t with posted := o.rest [] (o.flags ||| fl) z.t.posted } }) (o.flags ||| fl) hlive hp hi
  refine ⟨segs, (performElement_eq ho hx hk hh hz).trans ?_⟩
  dsimp only
  rw [hl, if_pos rfl]
  exact congrArg some hd

theorem performElement_none {y : State} {j k : Nat} (h : y.t.posted[j]? = none) : y.performElement j k = none := by
  unfold State.performElement; rw [h]

theorem performElement_held {y : State} {j k : Nat} {o : PostedOp} {x : PostedElem} (ho : y.t.posted[j]? = some o) (hx : o.elems[k]? = some x)
    (hk : o.kind ≠ .handle) (hh : y.held y.agent x.pa o.bytes = true) : y.performElement j k = none := by
  have he : y.elemHeld o x = true := by unfold State.elemHeld; rw [if_neg hk]; exact hh
  unfold State.performElement
  rw [ho]
  dsimp only
  rw [hx]
  dsimp only
  rw [he, if_pos rfl]

theorem postedElements : Claim.PostedElements := by
  intro pos j k s o x hp y step old f sum left
  have hstep : step = slotEvent pos (fun s => if s.ctx.det && (j != 0 || k != 0) then none else s.performElement j k) s := rfl
  have hrest : (y.mayRun = true → y.ctx.det = false ∨ j = 0 ∧ k = 0 → y.performElement j k = none) → step = .next (y.focus s.pos) := fun h => by
    refine hstep.trans (slotEvent_rests hp fun hm => .inl ?_)
    by_cases hd : (y.ctx.det && (j != 0 || k != 0)) = true
    · exact if_pos hd
    · exact (if_neg hd).trans (h hm (by simpa [or_iff_not_imp_left] using hd))
  refine ⟨fun hd hjk => hrest fun _ h => ?_, fun hm => hrest fun h => absurd hm (by rw [h]; decide), fun hn => hrest fun _ _ => performElement_none hn,
    fun hm hd ho hx hk => ⟨fun hh => hrest fun _ _ => performElement_held ho hx hk hh, fun hh hseg _ hi => ?_⟩⟩
  · rcases h with h | h
    · exact absurd (hd.symm.trans h) (by decide)
    · exact absurd hjk (by simp [h.1, h.2])
  obtain ⟨d, mem, parks, chk, quar, tel, rep, m, hz, hgood, hbad⟩ := performPosted_spec (s := y.orderVector) (o := o) (x := x) hk hseg
  have hev := fun {t : State} (ht : y.performElement j k = some t) =>
    hstep.trans (slotEvent_moves hp hm ((if_neg (by simpa [or_iff_not_imp_left] using hd)).trans ht))
  have hstamp : y.stamp < y.orderVector.stamp := by change y.stamp < y.stamp + 1 + _; omega
  by_cases hl : left = []
  · have hlive : y.t.live = true := by
      unfold State.mayRun at hm; rw [Bool.and_eq_true, Bool.and_eq_true] at hm; exact hm.1.1
    obtain ⟨segs, hlast⟩ := performElement_last ho hx hk hh hz hl hlive (by exact (focus_pos s pos).symm ▸ hp) hi
    refine ⟨_, hev hlast, hstamp, ?_, ?_, rfl, rfl, rfl, hgood, hbad⟩
    · rw [if_pos hl]; rfl
    · rw [if_pos hl]; rfl
  · have hperf := performElement_eq ho hx hk hh hz
    dsimp only at hperf
    rw [if_neg hl] at hperf
    refine ⟨_, hev hperf, hstamp, ?_, ?_, rfl, rfl, rfl, hgood, hbad⟩
    · rw [if_neg hl]; exact if_neg hl
    · rw [if_neg hl]; rfl

/-! ### The steps of a slot that are no events of the table -/

/-- A step that the schedule holds for a slot, as an event of the slot. -/
theorem step_scalar {s : State} {p : Nat} {r : List Action} (h : s.sched = .scalar p :: r) :
    step s = slotEvent p State.scalarStep { s with sched := r } := by
  unfold step nextStep; rw [h]; rfl

theorem step_ahead {s : State} {p k : Nat} {r : List Action} (h : s.sched = .ahead p k :: r) :
    step s = slotEvent p (State.stepAhead k) { s with sched := r } := by
  unfold step nextStep; rw [h]; rfl

theorem step_walkStart {s : State} {p va : Nat} {r : List Action} (h : s.sched = .walkStart p va :: r) :
    step s = slotEvent p (fun s => some (s.walkStart va)) { s with sched := r } := by
  unfold step nextStep; rw [h]; rfl

theorem step_fetchLine {s : State} {p va : Nat} {r : List Action} (h : s.sched = .fetchLine p va :: r) :
    step s = slotEvent p (fun s => s.fetchLine va) { s with sched := r } := by
  unfold step nextStep; rw [h]; rfl

theorem step_walkRead {s : State} {k : Nat} {r : List Action} (h : s.sched = .walkRead k :: r) :
    step s = .next (({ s with sched := r } : State).walkStep k) := by
  unfold step nextStep; rw [h]; rfl

/-! ### The scalar access queue -/

theorem scalarStep_nil {y : State} (h : y.t.scalars = []) : y.scalarStep = none := by
  unfold State.scalarStep; rw [h]

theorem scalarStep_waits {y : State} {a : ScalarAcc} {l : List ScalarAcc} (h : y.t.scalars = a :: l) (hb : a.bytes ≠ 0)
    (hw : y.held y.agent a.pa a.bytes = true ∨ y.lineOk (a.pa / 128) = false) : y.scalarStep = none := by
  have hr : y.scalarReady a = false := by
    unfold State.scalarReady State.scalarHeld ScalarAcc.pieces
    rcases hw with hw | hw <;> simp [hb, hw]
  unfold State.scalarStep
  rw [h]
  dsimp only
  rw [hr, if_neg Bool.false_ne_true]

theorem scalarStep_performs {y : State} {a : ScalarAcc} {l : List ScalarAcc} (h : y.t.scalars = a :: l) (hh : y.held y.agent a.pa a.bytes = false)
    (hl : y.lineOk (a.pa / 128) = true) (hm : a.more = []) (hk : ∀ d r, a.kind ≠ .resume d r) :
    y.scalarStep = some (({ y with t := { y.t with scalars := l } } : State).performScalar a) := by
  have hr : y.scalarReady a = true := by
    unfold State.scalarReady State.scalarHeld ScalarAcc.pieces
    rw [hm]
    simp [hh, hl]
  unfold State.scalarStep
  rw [h]
  dsimp only
  rw [hr, if_pos rfl]

/-! ### An element group ahead of the head (R52, R221) -/

theorem elementWise_vadd {e : VEntry} {p : PReg} {f : Form} {a b c : VReg} (h : e.instr = .vadd p f a b c) : elementWise e.instr = true := by
  rw [h]; rfl

/-- The second entry's group may run only behind the head by a group. -/
theorem stepAhead_second {y : State} {q q' : PReg} {a b c a' b' c' : VReg} {d e : VEntry} {l : List VEntry} (ht : y.t.inTrap = false)
    (hs : y.t.tileSave = []) (hq : y.t.queue = d :: e :: l) (hd : d.instr = .vadd q .vv a b c) (he : e.instr = .vadd q' .vv a' b' c')
    (had : d.admitted = true) (hae : e.admitted = true) (hcd : d.chain = none) (hce : e.chain = none) :
    y.stepAhead 1 = if e.prog + redoGroup y.t.lanes (vtSew y.t.vtype) ≤ d.prog ∨ y.t.vl.toNat ≤ d.prog then
      (elementGroups (some 1) e y).map fun r => { r.2 with t := { r.2.t with queue := r.2.t.queue.set 1 r.1 } } else none := by
  have hed : entryEnv y.t d = y.t.env := by unfold entryEnv; rw [hcd]
  have hee : entryEnv y.t e = y.t.env := by unfold entryEnv; rw [hce]
  unfold State.stepAhead
  rw [hq]
  dsimp only [List.getElem?_cons_succ, List.getElem?_cons_zero]
  have hed' : (entryEnv y.t d).vl = y.t.vl.toNat := by rw [hed]; rfl
  have hg : groupSize y.t (entryEnv y.t e) = redoGroup y.t.lanes (vtSew y.t.vtype) := by rw [hee]; rfl
  by_cases h : e.prog + redoGroup y.t.lanes (vtSew y.t.vtype) ≤ d.prog ∨ y.t.vl.toNat ≤ d.prog
  · rw [if_pos h]
    refine if_neg ?_
    simp [hed', hg, ht, had, hae, elementWise_vadd hd, elementWise_vadd he, hs]
    omega
  · rw [if_neg h]
    refine if_pos ?_
    simp [hed', hg, ht, had, hae, elementWise_vadd hd, elementWise_vadd he, hs]
    omega

/-- The group that runs ahead adds its active elements and no others. -/
theorem stepAhead_vadd {y : State} {q' : PReg} {a' b' c' : VReg} {d e : VEntry} {l : List VEntry}
    (hq : y.t.queue = d :: e :: l) (he : e.instr = .vadd q' .vv a' b' c') (hce : e.chain = none) (hl : 0 < y.t.lanes)
    (hstep : y.stepAhead 1 = (elementGroups (some 1) e y).map fun r => { r.2 with t := { r.2.t with queue := r.2.t.queue.set 1 r.1 } }) :
    let w := vtSew y.t.vtype
    let g := redoGroup y.t.lanes w
    ∃ t, y.stepAhead 1 = some t ∧
      (∀ j, t.t.elem c'.toNat w j = if e.prog ≤ j ∧ j < e.prog + g ∧ Claim.active y q' j = true then (y.t.elem a'.toNat w j + y.t.elem b'.toNat w j) % 2 ^ w
        else y.t.elem c'.toNat w j) ∧ (∀ v, v ≠ c' → t.t.readV v = y.t.readV v) ∧
      t = { y with t := { y.t with queue := d :: { e with prog := min (e.prog + g) y.t.vl.toNat } :: l, v := t.t.v, tags := t.t.tags } } := by
  intro w g
  obtain ⟨u, hu, hk, ho, hf⟩ := elementGroups_vadd (some 1) he hce hl
  rw [hu, Option.map_some] at hstep
  simp only [Nat.one_mul] at hstep hk
  refine ⟨_, hstep, hk, ho, ?_⟩
  dsimp only
  rw [hf]
  dsimp only
  rw [hq]
  rfl

/-! ### Walks (R376, R377) -/

theorem walkStart_new {y : State} {va : Nat} (hl : y.t.live = true) (hv : va < 2 ^ 48)
    (hn : ∀ x ∈ y.walks, ¬ (x.die = bayOf y.pos / 16 ∧ x.ctx = y.t.ctx ∧ x.page = va / 2 ^ 16)) :
    y.walkStart va = if 64 ≤ (y.walks.filter fun x => x.die == bayOf y.pos / 16).length then y else { y with walks := y.walks ++
      [{ die := bayOf y.pos / 16, ctx := y.t.ctx, page := va / 2 ^ 16, level := 4, table := Claim.bits y.ctx.ptbase 12 48 * 4096, bays := [bayOf y.pos], va := va }] } := by
  have h1 : ¬ ((!y.t.live) = true ∨ 2 ^ 48 ≤ va) := by rw [hl]; simp; omega
  have h2 : (y.walks.any fun w => w.die == y.agent.die && w.ctx == y.agent.ctx && w.page == va / 2 ^ 16) = false :=
    List.any_eq_false.mpr fun x hx => by
      have := hn x hx
      simpa [and_assoc, Agent.die, State.agent] using this
  unfold State.walkStart
  dsimp only
  rw [if_neg h1, h2, if_neg Bool.false_ne_true]
  rfl

theorem walkStart_joins {y : State} {va : Nat} {x : WalkRec} (hl : y.t.live = true) (hv : va < 2 ^ 48) (hw : y.walks = [x])
    (hx : x.die = bayOf y.pos / 16 ∧ x.ctx = y.t.ctx ∧ x.page = va / 2 ^ 16) :
    y.walkStart va = { y with walks := [{ x with bays := x.bays.filter (fun b => b != bayOf y.pos) ++ [bayOf y.pos] }] } := by
  have h1 : ¬ ((!y.t.live) = true ∨ 2 ^ 48 ≤ va) := by rw [hl]; simp; omega
  have h2 : (x.die == y.agent.die && x.ctx == y.agent.ctx && x.page == va / 2 ^ 16) = true := by
    simpa [and_assoc, Agent.die, State.agent] using hx
  unfold State.walkStart
  dsimp only
  rw [if_neg h1, hw, List.any_cons, h2, Bool.true_or, if_pos rfl, List.map_singleton, if_pos h2]
  rfl

/-! ### The next table read of a walk (R372, R373, R375, R377) -/

theorem ofBytes_lt (l : List Byte) : ofBytes l < 256 ^ l.length := by
  induction l with
  | nil => simp [ofBytes]
  | cons b l ih =>
    rw [ofBytes, List.length_cons, Nat.pow_succ]
    have := b.isLt
    omega

theorem entry_lt (s : State) (a : Nat) : Claim.entry s a < 2 ^ 64 := by
  have h := ofBytes_lt (bytesAt s.mem a 8)
  simpa [Claim.entry, bytesAt] using h

theorem walkLevel_outside {s : State} {ctx part va level table : Nat} (h : s.inStack part table = false) :
    walkLevel s ctx part va level table = raise s cause.translation (BitVec.ofNat 64 va) := by
  unfold walkLevel; rw [h]; rfl

/-- The place of a walk's entry in its table (R372). -/
def walkIndex (level va : Nat) : Nat := if level = 1 then va / 2 ^ 16 % 32 else va / 2 ^ (3 + 9 * level) % 512

/-- A table read of a walk whose table and line are good, by the entry that it finds. -/
theorem walkLevel_entry {s : State} {ctx part va level table : Nat} (h : s.inStack part table = true)
    (hl : s.lineOk ((table + 8 * walkIndex level va) / 128) = true) :
    walkLevel s ctx part va level table =
      if bits (Claim.entry s (table + 8 * walkIndex level va)) 0 1 = 0 then raise s cause.translation (BitVec.ofNat 64 va)
      else if bits (Claim.entry s (table + 8 * walkIndex level va)) 1 3 = 0 then
        if tableOk s part level (Claim.entry s (table + 8 * walkIndex level va)) then
          .ok (.table (bits (Claim.entry s (table + 8 * walkIndex level va)) 8 52 * 256), s)
        else raise s cause.translation (BitVec.ofNat 64 va)
      else if leafOk level (Claim.entry s (table + 8 * walkIndex level va)) then .ok (.leaf (Claim.entry s (table + 8 * walkIndex level va)), s)
      else raise s cause.translation (BitVec.ofNat 64 va) := by
  have hr : s.walkRead ctx va (table + 8 * walkIndex level va) = .ok (BitVec.ofNat 64 (Claim.entry s (table + 8 * walkIndex level va)), s) := by
    unfold State.walkRead; rw [hl]; rfl
  have hn : (BitVec.ofNat 64 (Claim.entry s (table + 8 * walkIndex level va))).toNat = Claim.entry s (table + 8 * walkIndex level va) := by
    rw [BitVec.toNat_ofNat, Nat.mod_eq_of_lt (entry_lt _ _)]
  have hi : (if level = 1 then bits va 16 5 else bits va (3 + 9 * level) 9) = walkIndex level va := rfl
  unfold walkLevel
  dsimp only
  rw [hi, h, hr]
  dsimp only
  rw [hn]
  rfl

theorem walkRead_error {s u : State} {ctx va a : Nat} {w : Stop} (h : s.walkRead ctx va a = .error (w, u)) : u.mem = s.mem := by
  simp only [State.walkRead, raise] at h
  split at h
  · cases h
  · split at h <;> (cases h; rfl)

/-- A table read of a walk that meets a cause changes no memory. -/
theorem walkLevel_error {s u : State} {ctx part va level table : Nat} {w : Stop} (h : walkLevel s ctx part va level table = .error (w, u)) :
    u.mem = s.mem := by
  simp only [walkLevel, raise] at h
  split at h
  · cases h; rfl
  · generalize hw : s.walkRead _ _ _ = r at h
    rcases r with ⟨x, z⟩ | ⟨v, t⟩
    · cases h; exact walkRead_error hw
    · obtain rfl := walkRead_ok hw
      dsimp only at h
      split_ifs at h <;> (cases h; rfl)

theorem fillBays_frame (e : TlbEntry) (l : List Nat) (s : State) : ∃ bay bays, s.fillBays e l = { s with bay := bay, bays := bays } := by
  unfold State.fillBays
  induction l generalizing s with
  | nil => exact ⟨_, _, rfl⟩
  | cons k l ih =>
    obtain ⟨b, bs, hb⟩ : ∃ bay bays, s.setBay k { s.bayAt k with tlb := (e :: (s.bayAt k).tlb).take 4096 } = { s with bay := bay, bays := bays } := by
      unfold State.setBay; split <;> exact ⟨_, _, rfl⟩
    obtain ⟨b', bs', h⟩ := ih { s with bay := b, bays := bs }
    rw [List.foldl_cons]
    exact ⟨b', bs', by rw [hb]; exact h⟩

theorem walkStep_none {s : State} {k : Nat} (h : s.walks[k]? = none) : s.walkStep k = s := by
  unfold State.walkStep; rw [h]

/-- What the next table read of a walk comes to, by what its level comes to. -/
theorem walkStep_error {s u : State} {k : Nat} {x : WalkRec} {w : Stop} (hx : s.walks[k]? = some x)
    (h : walkLevel s.order x.ctx (s.ctxAt x.ctx).part x.va x.level x.table = .error (w, u)) :
    s.walkStep k = { u with walks := u.walks.eraseIdx k } := by
  unfold State.walkStep
  rw [hx]
  dsimp only
  rw [h]

theorem walkStep_table {s u : State} {k t : Nat} {x : WalkRec} (hx : s.walks[k]? = some x)
    (h : walkLevel s.order x.ctx (s.ctxAt x.ctx).part x.va x.level x.table = .ok (.table t, u)) :
    s.walkStep k = { s.order with walks := s.walks.set k { x with level := x.level - 1, table := t } } := by
  obtain rfl := walkLevel_ok h
  unfold State.walkStep
  rw [hx]
  dsimp only
  rw [h]
  rfl

theorem walkStep_leaf {s u : State} {k e : Nat} {x : WalkRec} (hx : s.walks[k]? = some x)
    (h : walkLevel s.order x.ctx (s.ctxAt x.ctx).part x.va x.level x.table = .ok (.leaf e, u)) :
    ∃ bay bays, s.walkStep k = { s.order with walks := s.walks.eraseIdx k, bay := bay, bays := bays } := by
  obtain rfl := walkLevel_ok h
  unfold State.walkStep
  rw [hx]
  dsimp only
  rw [h]
  dsimp only
  split
  · obtain ⟨bay, bays, hf⟩ := fillBays_frame _ x.bays { s.order with walks := s.order.walks.eraseIdx k }
    exact ⟨bay, bays, hf⟩
  · exact ⟨_, _, rfl⟩

/-- The next table read of a walk changes no memory. -/
theorem walkStep_mem (s : State) (k : Nat) : (s.walkStep k).mem = s.mem := by
  cases hx : s.walks[k]? with
  | none => rw [walkStep_none hx]
  | some x =>
    rcases hw : walkLevel s.order x.ctx (s.ctxAt x.ctx).part x.va x.level x.table with ⟨w, u⟩ | ⟨r, u⟩
    · rw [walkStep_error hx hw]
      change u.mem = s.order.mem
      exact walkLevel_error hw
    · cases r with
      | table t => rw [walkStep_table hx hw]; rfl
      | leaf e =>
        obtain ⟨bay, bays, h⟩ := walkStep_leaf hx hw
        rw [h]; rfl

/-- A well-formed table entry (R373, R375), as the walk checks it above the lowest level. -/
theorem isTable_ok {s : State} {part level e : Nat} (hl : 2 ≤ level) (h : Claim.isTable s part e (if level = 2 then 256 else 4096)) :
    bits e 0 1 ≠ 0 ∧ bits e 1 3 = 0 ∧ tableOk s part level e = true := by
  obtain ⟨h0, h1, h2, h3, h4⟩ := h
  refine ⟨by simp [bits, h0], ?_, ?_⟩
  · have : e / 2 ^ 1 % 2 ^ 3 = e / 2 % 2 ^ 7 % 2 ^ 3 := by omega
    rw [bits, this, h1, Nat.zero_mod]
  · have hb : bits e 60 4 = 0 := by rw [bits, h2, Nat.zero_mod]
    have hc : bits e 1 7 = 0 := h1
    unfold tableOk
    rw [hb, hc, show bits e 8 52 = e / 2 ^ 8 % 2 ^ 52 from rfl, h3, h4]
    simp; omega

theorem walkStep_spec {s : State} {k : Nat} {x : WalkRec} (hx : s.walks[k]? = some x) :
    let part := (s.ctxAt x.ctx).part
    let e := Claim.entry s (x.table + 8 * walkIndex x.level x.va)
    let t := s.walkStep k
    (s.inStack part x.table = false → t.walks = s.walks.eraseIdx k) ∧
    (s.inStack part x.table = true → s.lineOk ((x.table + 8 * walkIndex x.level x.va) / 128) = true → s.stamp < t.stamp ∧
      (2 ≤ x.level → Claim.isTable s part e (if x.level = 2 then 256 else 4096) →
        t.walks = s.walks.set k { x with level := x.level - 1, table := e / 2 ^ 8 % 2 ^ 52 * 256 }) ∧
      (e % 2 = 0 → t.walks = s.walks.eraseIdx k ∧ t = { s with stamp := t.stamp, tick := t.tick, walks := t.walks })) := by
  intro part e t
  have hstamp : s.stamp < s.order.stamp := by change s.stamp < s.stamp + 1 + _; omega
  refine ⟨fun h => ?_, fun h hl => ⟨?_, fun h2 ht => ?_, fun he => ?_⟩⟩
  · have hw := walkLevel_outside (s := s.order) (ctx := x.ctx) (part := part) (va := x.va) (level := x.level) (table := x.table) h
    exact congrArg State.walks (walkStep_error hx hw)
  · have hw := walkLevel_entry (s := s.order) (ctx := x.ctx) (part := part) (va := x.va) (level := x.level) (table := x.table) h hl
    rcases hr : walkLevel s.order x.ctx part x.va x.level x.table with ⟨w, u⟩ | ⟨r, u⟩
    · have hu : u = s.order := by
        rw [hw] at hr
        simp only [raise] at hr
        split_ifs at hr <;> (cases hr; rfl)
      rw [show t = _ from walkStep_error hx hr, hu]; exact hstamp
    · cases r with
      | table a => rw [show t = _ from walkStep_table hx hr]; exact hstamp
      | leaf a =>
        obtain ⟨bay, bays, hf⟩ := walkStep_leaf hx hr
        rw [show t = _ from hf]; exact hstamp
  · have hw := walkLevel_entry (s := s.order) (ctx := x.ctx) (part := part) (va := x.va) (level := x.level) (table := x.table) h hl
    obtain ⟨h0, h1, hok⟩ := isTable_ok h2 ht
    rw [if_neg (by exact h0), if_pos (by exact h1), if_pos (by exact hok)] at hw
    exact congrArg State.walks (walkStep_table hx hw)
  · have hw := walkLevel_entry (s := s.order) (ctx := x.ctx) (part := part) (va := x.va) (level := x.level) (table := x.table) h hl
    rw [if_pos (by have : Claim.entry s.order (x.table + 8 * walkIndex x.level x.va) % 2 = 0 := he; simpa [bits] using this)] at hw
    have hs := walkStep_error hx hw
    refine ⟨congrArg State.walks hs, ?_⟩
    rw [show t = _ from hs]; rfl

/-- A line of instructions copied into the core's cache before any fetch of it (R238). -/
theorem fetchLine_copies {y u : State} {va pa x : Nat} (ht : y.translate y.agent .fetch (va / 128 * 128) = .ok ((pa, x), u)) (hl : u.lineOk (pa / 128) = true) :
    y.fetchLine va = some { u with core := { u.core with icache := ((List.range 32).map fun j =>
      { ctx := u.t.ctx, va := BitVec.ofNat 64 (va / 128 * 128 + 4 * j), pa := pa + 4 * j,
        word := BitVec.ofNat 32 (ofBytes ((List.range 4).map fun i => Claim.byte u (pa + 4 * j + i))) }) ++ u.core.icache } } := by
  unfold State.fetchLine
  dsimp only
  rw [ht]
  dsimp only
  rw [hl, if_pos rfl]
  rfl

theorem scheduleSteps : Claim.ScheduleSteps := by
  intro p k va s r hp y ends
  have hnext : ∀ {f : State → Option State} {t : State}, y.mayRun = true → f y = some t →
      slotEvent p f { s with sched := r } = .next (t.focus s.pos) := fun hm h => slotEvent_moves (s := { s with sched := r }) hp hm h
  have hrest : ∀ {f : State → Option State}, (y.mayRun = true → f y = none ∨ f y = some y) →
      slotEvent p f { s with sched := r } = .next (y.focus s.pos) := fun h => slotEvent_rests (s := { s with sched := r }) hp h
  have hpos : y.pos = p := focus_pos _ p
  refine ⟨fun hm => ?_, fun hm => ⟨fun h hs => ?_, fun a l h => ⟨fun hb hw hs => ?_, fun hh hl hmore hk hs => ?_⟩⟩, ?_, ?_, fun hs => ?_,
    fun pa x u hm ht hl hs => ?_⟩
  · have hno : ∀ {f : State → Option State}, slotEvent p f { s with sched := r } = .next (y.focus s.pos) :=
      hrest fun h => absurd (hm.symm.trans h) (by decide)
    exact ⟨fun h => (step_scalar h).trans hno, fun h => (step_ahead h).trans hno, fun h => (step_walkStart h).trans hno,
      fun h => (step_fetchLine h).trans hno⟩
  · exact (step_scalar hs).trans (hrest fun _ => .inl (scalarStep_nil h))
  · exact (step_scalar hs).trans (hrest fun _ => .inl (scalarStep_waits h hb hw))
  · exact (step_scalar hs).trans (hnext hm (scalarStep_performs h hh hl hmore hk))
  · intro q q' a b c a' b' c' d e l hm ht hts hq hd he had hae hcd hce _ _ hl _ w g
    have hstep := stepAhead_second ht hts hq hd he had hae hcd hce
    refine ⟨fun h1 h2 hs => ?_, fun h => ?_⟩
    · refine (step_ahead hs).trans (hrest fun _ => .inl (hstep.trans (if_neg ?_)))
      change ¬ (e.prog + g ≤ d.prog ∨ _)
      omega
    · obtain ⟨t, hs, hk, ho, hf⟩ := stepAhead_vadd hq he hce hl (hstep.trans (if_pos h))
      exact ⟨t, fun h => (step_ahead h).trans (hnext hm hs), hk, ho, hf⟩
  · intro die same hm hlive hva
    have hn : (∀ x ∈ y.walks, ¬ same x) → y.walkStart va = _ := fun h => walkStart_new hlive hva (by rw [hpos]; exact h)
    refine ⟨fun h hf hs => (step_walkStart hs).trans (hnext hm (congrArg some ((hn h).trans ?_))),
      fun h hf hs => (step_walkStart hs).trans (hrest fun _ => .inr (congrArg some ((hn h).trans ?_))),
      fun x hw hx hs => (step_walkStart hs).trans (hnext hm (congrArg some ((walkStart_joins hlive hva hw (by rw [hpos]; exact hx)).trans ?_)))⟩
    · rw [hpos]; exact if_neg (Nat.not_le.mpr hf)
    · rw [hpos]; exact if_pos hf
    · rw [hpos]
  · refine ⟨_, step_walkRead hs, walkStep_mem _ k, fun h => walkStep_none h, fun x hx => ?_⟩
    exact walkStep_spec (s := { s with sched := r }) hx
  · exact (step_fetchLine hs).trans (hnext hm (fetchLine_copies ht hl))

/-- Settles O52: an event of a slot tries the head of its queue, and a step that the schedule holds is an event of its slot. -/
theorem vectorStepsAndPostedElements : Obligations.VectorStepsAndPostedElements :=
  ⟨vectorSideSteps, awaited, postedElements, scheduleSteps⟩

end Sys2Proof.Machine
end

section
namespace Sys2Proof.Machine

/-! # Region, multivector and predicate loads (R43, R148, R152 to R156) -/

/-! ### Reads of a state that differs in its clocks and in what the thread runs -/

/-- The states differ at most in the clocks, and in where the thread stands. -/
def Like (s z : State) : Prop :=
  ∃ stamp tick queue chain lcount pc wait lastVector, z = { s with
    stamp := stamp, tick := tick,
    t := { s.t with queue := queue, chain := chain, lcount := lcount, pc := pc, wait := wait, lastVector := lastVector } }

theorem Like.advance {s : State} (queue : List VEntry) : Like s ({ s with t := { s.t with queue := queue, chain := none } } : State).advance :=
  ⟨_, _, _, _, _, _, _, _, rfl⟩

theorem Like.orderVector {s z : State} (h : Like s z) : Like s z.orderVector := by
  obtain ⟨_, _, _, _, _, _, _, _, rfl⟩ := h
  exact ⟨_, _, _, _, _, _, _, _, rfl⟩

theorem Like.agent {s z : State} (h : Like s z) : z.agent = s.agent := by
  obtain ⟨_, _, _, _, _, _, _, _, rfl⟩ := h; rfl

theorem Like.lineOk {s z : State} (h : Like s z) (l : Nat) : z.lineOk l = s.lineOk l := by
  obtain ⟨_, _, _, _, _, _, _, _, rfl⟩ := h; rfl

theorem Like.inStack {s z : State} (h : Like s z) (part pa : Nat) : z.inStack part pa = s.inStack part pa := by
  obtain ⟨_, _, _, _, _, _, _, _, rfl⟩ := h; rfl

theorem Like.ctxAt {s z : State} (h : Like s z) (n : Nat) : z.ctxAt n = s.ctxAt n := by
  obtain ⟨_, _, _, _, _, _, _, _, rfl⟩ := h; rfl

theorem Like.coreAt {s z : State} (h : Like s z) (n : Nat) : z.coreAt n = s.coreAt n := by
  obtain ⟨_, _, _, _, _, _, _, _, rfl⟩ := h; rfl

theorem Like.ch {s z : State} (h : Like s z) : z.ch = s.ch := by
  obtain ⟨_, _, _, _, _, _, _, _, rfl⟩ := h; rfl

theorem Like.held {s z : State} (h : Like s z) (ag : Agent) (pa n : Nat) : z.held ag pa n = s.held ag pa n := by
  obtain ⟨_, _, _, _, _, _, _, _, rfl⟩ := h; rfl

theorem Like.bytesFor {s z : State} (h : Like s z) (ag : Agent) (pa n : Nat) : z.bytesFor ag pa n = s.bytesFor ag pa n := by
  obtain ⟨_, _, _, _, _, _, _, _, rfl⟩ := h; rfl

theorem Like.inPool {s z : State} (h : Like s z) (part pa : Nat) (b : Bool) : z.inPool part pa b = s.inPool part pa b := by
  obtain ⟨_, _, _, _, _, _, _, _, rfl⟩ := h; rfl

theorem Like.leafAllows {s z : State} (h : Like s z) (part : Nat) (level : Bool) (acc : Access) (e pa : Nat) :
    leafAllows z part level acc e pa = leafAllows s part level acc e pa := by
  unfold Machine.leafAllows
  simp only [h.inStack, h.inPool]

theorem Like.tableOk {s z : State} (h : Like s z) (part level e : Nat) : tableOk z part level e = tableOk s part level e := by
  unfold Machine.tableOk
  rw [h.inStack]

theorem Like.walkRead {s z u : State} (h : Like s z) {ctx va a : Nat} {v : DWord} (hr : s.walkRead ctx va a = .ok (v, u)) :
    z.walkRead ctx va a = .ok (v, z) := by
  have hm : z.mem = s.mem := by obtain ⟨_, _, _, _, _, _, _, _, rfl⟩ := h; rfl
  unfold State.walkRead at hr ⊢
  rw [h.lineOk, hm]
  split at hr
  · rename_i hl
    rw [if_pos hl]
    simp only [Except.ok.injEq, Prod.mk.injEq] at hr ⊢
    exact ⟨hr.1, trivial⟩
  · simp [raise] at hr

theorem Like.walkLevel {s z u : State} (h : Like s z) {ctx part va level table : Nat} {r : WalkNext}
    (hr : walkLevel s ctx part va level table = .ok (r, u)) : walkLevel z ctx part va level table = .ok (r, z) := by
  unfold Machine.walkLevel at hr ⊢
  simp only [raise] at hr ⊢
  rw [h.inStack]
  split at hr
  · cases hr
  · rename_i hin
    rw [if_neg hin]
    generalize hw : s.walkRead _ _ _ = x at hr
    rcases x with x | ⟨v, t⟩
    · cases hr
    · rw [h.walkRead hw]
      obtain rfl := walkRead_ok hw
      dsimp only at hr ⊢
      rw [h.tableOk]
      split_ifs at hr ⊢ <;> (cases hr; rfl)

theorem Like.walk {s z u : State} (h : Like s z) {ctx part va n table : Nat} {r : Nat × Nat}
    (hr : walk s ctx part va n table = .ok (r, u)) : walk z ctx part va n table = .ok (r, z) := by
  induction n generalizing table with
  | zero => simp [Machine.walk, raise] at hr
  | succ n ih =>
    simp only [Machine.walk] at hr ⊢
    split at hr
    · cases hr
    · rename_i hw
      obtain rfl := walkLevel_ok hw
      rw [h.walkLevel hw]
      exact ih hr
    · rename_i hw
      rw [h.walkLevel hw]
      cases hr; rfl

theorem cached_none {s : State} (hu : s.ch.useCached = false) (ag : Agent) (va : Nat) : s.cached ag va = none := by
  unfold State.cached; rw [hu]; rfl

theorem fill_none {s : State} (hf : s.ch.fillCache = false) (ag : Agent) (e : TlbEntry) : s.fill ag e = s := by
  unfold State.fill; rw [hf]; rfl

/-- The machine neither uses nor keeps cached translations, and no segment is open. -/
theorem Like.plain {s z : State} (h : Like s z) (hp : Claim.plainAccess s) : Claim.plainAccess z := by
  obtain ⟨_, _, _, _, _, _, _, _, rfl⟩ := h; exact hp

theorem Like.leafFor {s z u : State} (h : Like s z) (hp : Claim.plainAccess s) {ag : Agent} {va : Nat} {r : Nat × Nat}
    (hr : s.leafFor ag va = .ok (r, u)) : z.leafFor ag va = .ok (r, z) := by
  unfold State.leafFor at hr ⊢
  rw [cached_none hp.2.1] at hr
  rw [cached_none (h.plain hp).2.1]
  dsimp only at hr ⊢
  rw [h.ctxAt]
  split at hr
  · cases hr
  · rename_i hw
    rw [h.walk hw]
    cases hr; rfl

/-- A translation that no cache serves or takes. -/
theorem Like.translate {s z u : State} (h : Like s z) (hp : Claim.plainAccess s) {ag : Agent} {acc : Access}
    {va : Nat} {r : Nat × Nat} (hr : s.translate ag acc va = .ok (r, u)) : z.translate ag acc va = .ok (r, z) := by
  unfold State.translate at hr ⊢
  simp only [raise] at hr ⊢
  rw [h.ctxAt]
  split at hr
  · cases hr
  · rename_i hva
    rw [if_neg hva]
    split at hr
    · rw [h.coreAt]
      split_ifs at hr ⊢
      cases hr; rfl
    · split at hr
      · cases hr
      · rename_i hl
        obtain rfl := leafFor_ok hl
        rw [h.leafFor hp hl]
        dsimp only at hr ⊢
        rw [fill_none hp.1] at hr
        rw [h.leafAllows, fill_none (h.plain hp).1]
        split_ifs at hr ⊢
        cases hr; rfl

theorem Like.checkLine {s z u : State} (h : Like s z) {ctx kind va pa : Nat} (hr : s.checkLine ctx kind va pa = .ok u) :
    z.checkLine ctx kind va pa = .ok z := by
  have hq : z.quar = s.quar ∧ z.chk = s.chk := by obtain ⟨_, _, _, _, _, _, _, _, rfl⟩ := h; exact ⟨rfl, rfl⟩
  unfold State.checkLine raise at hr ⊢
  rw [hq.1, hq.2]
  split at hr
  · cases hr
  · rename_i h1
    rw [if_neg h1]
    split_ifs at hr ⊢
    rfl

theorem Like.readPart {s z u : State} (h : Like s z) (hp : Claim.plainAccess s) {ag : Agent} {acc : Access} {kind va n : Nat}
    {bs : List Byte} (hr : s.readPart ag acc kind va n = .ok (bs, u)) : z.readPart ag acc kind va n = .ok (bs, z) := by
  unfold State.readPart at hr ⊢
  split at hr
  · cases hr
  · rename_i ht
    obtain rfl := (translate_ok ht).2 hp.1
    rw [h.translate hp ht]
    dsimp only [hold] at hr ⊢
    rw [h.held]
    split at hr
    · cases hr
    · rename_i h1
      rw [if_neg h1]
      split at hr
      · cases hr
      · rename_i hc
        obtain rfl := checkLine_ok hc
        rw [h.checkLine hc]
        cases hr
        dsimp only
        rw [h.bytesFor]

theorem readPart_same {s u : State} (hp : Claim.plainAccess s) {ag : Agent} {acc : Access} {kind va n : Nat} {bs : List Byte}
    (hr : s.readPart ag acc kind va n = .ok (bs, u)) : u = s := by
  obtain ⟨pa, r, ht, -⟩ := readPart_ok hr
  exact (translate_ok ht).2 hp.1

/-- A read that no cache serves or takes. -/
theorem Like.read {s z u : State} (h : Like s z) (hp : Claim.plainAccess s) {ag : Agent} {acc : Access} {kind va n : Nat}
    {bs : List Byte} (hr : s.read ag acc kind va n = .ok (bs, u)) : z.read ag acc kind va n = .ok (bs, z) := by
  unfold State.read at hr ⊢
  generalize lineParts va n = l at hr ⊢
  induction l generalizing bs with
  | nil => simp only [State.readParts] at hr ⊢; cases hr; rfl
  | cons e l ih =>
    simp only [State.readParts] at hr ⊢
    split at hr
    · cases hr
    · rename_i h1
      obtain rfl := readPart_same hp h1
      rw [h.readPart hp h1]
      dsimp only
      split at hr
      · cases hr
      · rename_i h2
        cases hr
        rw [ih h2]

/-- A scale pair that no cache serves or takes. -/
theorem Like.readPair {s z u : State} (h : Like s z) (hp : Claim.plainAccess s) {ag : Agent} {r : Region} {j va v : Nat}
    (hr : s.readPair ag r j va = .ok (v, u)) : z.readPair ag r j va = .ok (v, z) := by
  unfold State.readPair at hr ⊢
  split at hr
  · simp only [raise] at hr; split_ifs at hr
  · cases hr
  · rename_i h1
    rw [h.read hp h1]
    cases hr; rfl

theorem Like.checkRegion {s z u : State} (h : Like s z) (hp : Claim.plainAccess s) {ag : Agent} {acc : Access} {r : Region} {va : Nat}
    {l : List (Nat × Nat)} (hr : s.checkRegion ag acc r va l = .ok u) : z.checkRegion ag acc r va l = .ok z := by
  induction l with
  | nil => rfl
  | cons e l ih =>
    simp only [State.checkRegion, raise] at hr ⊢
    split at hr
    · cases hr
    · cases hr
    · rename_i h1
      obtain rfl := (translate_ok h1).2 hp.1
      rw [h.translate hp h1]
      dsimp only
      split_ifs at hr ⊢
      exact ih hr

theorem Like.regionItem {s z u : State} (h : Like s z) (hp : Claim.plainAccess s) {ag : Agent} {acc : Access} {r : Region} {n : Int}
    {off bytes va : Nat} (hr : s.regionItem ag acc r n off bytes = .ok (va, u)) : z.regionItem ag acc r n off bytes = .ok (va, z) := by
  unfold State.regionItem at hr ⊢
  simp only [raise] at hr ⊢
  split at hr
  · cases hr
  · rename_i h1
    rw [if_neg h1]
    split at hr
    · cases hr
    · rename_i h2
      rw [h.checkRegion hp h2]
      cases hr; rfl

theorem Like.readEntry {s z u : State} (h : Like s z) (hp : Claim.plainAccess s) {ag : Agent} {frn fault : Nat} {bs : List Byte}
    (hr : s.readEntry ag frn fault = .ok (bs, u)) : z.readEntry ag frn fault = .ok (bs, z) := by
  have ha : z.entryAddress ag.ctx frn = s.entryAddress ag.ctx frn := by unfold State.entryAddress; rw [h.ctxAt]
  unfold State.readEntry at hr ⊢
  rw [ha]
  split at hr
  · simp only [raise] at hr; split_ifs at hr
  · rw [h.read hp hr]

/-- The region that a page names, where no cache serves or takes its entry. -/
theorem Like.region {s z u : State} (h : Like s z) (hp : Claim.plainAccess s) {ag : Agent} {acc : Access} {a : Nat} {r : Region}
    (hr : s.region ag acc a = .ok (r, u)) : z.region ag acc a = .ok (r, z) := by
  have hn : ∀ y : State, Claim.plainAccess y → y.heldEntry ag a = none := fun y hy => by
    unfold State.heldEntry; rw [cached_none hy.2.1]
  unfold State.region at hr ⊢
  simp only [raise] at hr ⊢
  rw [hn s hp] at hr
  rw [hn z (h.plain hp)]
  split at hr
  · cases hr
  · rename_i h1
    obtain rfl := (translate_ok h1).2 hp.1
    rw [h.translate hp h1]
    dsimp only at hr ⊢
    split at hr
    · cases hr
    · rename_i h2
      rw [if_neg h2]
      split at hr
      · cases hr
      · rename_i h3
        rw [h.readEntry hp h3]
        dsimp only
        split at hr
        · cases hr; rfl
        · cases hr

/-! ### A load that meets no cause -/

/-- The state some steps of the vector side later. -/
def Later (z u : State) : Prop :=
  z.stamp ≤ u.stamp ∧ ∃ stamp tick lastVector, u = { z with
    stamp := stamp, tick := tick, t := { z.t with lastVector := lastVector } }

theorem Later.refl (z : State) : Later z z := ⟨le_rfl, _, _, _, rfl⟩

theorem Later.orderVector {z u : State} (h : Later z.orderVector u) : Later z u := by
  obtain ⟨hs, a, b, c, hu⟩ := h
  refine ⟨le_trans ?_ hs, a, b, c, hu⟩
  show z.stamp ≤ z.stamp + 1 + _
  omega

theorem Like.t {s z : State} (h : Like s z) : ∃ queue chain lcount pc wait lastVector, z.t = { s.t with
    queue := queue, chain := chain, lcount := lcount, pc := pc, wait := wait, lastVector := lastVector } := by
  obtain ⟨_, _, _, _, _, _, _, _, rfl⟩ := h; exact ⟨_, _, _, _, _, _, rfl⟩

theorem Like.core {s z : State} (h : Like s z) : z.core = s.core := by
  obtain ⟨_, _, _, _, _, _, _, _, rfl⟩ := h; rfl

/-- Every item of a load word can be read, and gives these values and flags. -/
def Delivers (w : MemWord) (e : VEntry) (env : VEnv) (pr : Prep) (s : State) (items : List Nat) (vals : Nat → List Loaded)
    (fls : Nat → Flags) : Prop :=
  ∀ k ∈ items, ∀ (e' : VEntry) (z : State), Like s z → e'.a = e.a → e'.b = e.b → e'.frm = e.frm →
    loadItem w e' env pr k z = .ok (.values (vals k) (fls k), z.orderVector)

/-- The state that a load of VL above 0 leaves, by what it has read. -/
def writeLoaded (regs : List Nat) (got : List Loaded) (fl : Flags) (s : State) : State :=
  ({ s with t := regs.foldl (fun t r => t.ungrade r) (putLoaded s.t got) } : State).orFlags fl

/-- A load whose items can all be read commits with what they give (R147). -/
theorem memGo_delivers {w : MemWord} {e : VEntry} {env : VEnv} {pr : Prep} {s : State} {items : List Nat} {vals : Nat → List Loaded}
    {fls : Nat → Flags} (hst : w.store = false) (hd : Delivers w e env pr s items vals fls) (ks : List Nat) :
    ∀ (fuel : Nat) (e' : VEntry) (z : State), Like s z → e'.a = e.a → e'.b = e.b → e'.frm = e.frm → items.drop e'.prog = ks →
      ks.length < fuel → ∃ (e'' : VEntry) (u : State), Later z u ∧ memGo w env pr items fuel e' z = .commit (commitLoad w e'' env u) ∧
        e''.got = e'.got ++ ks.flatMap vals ∧ e''.flags = ks.foldl (fun g k => g ||| fls k) e'.flags ∧ (ks = [] → u = z) := by
  induction ks with
  | nil =>
    intro fuel e' z _ _ _ _ hk hf
    obtain ⟨fuel, rfl⟩ : ∃ n, fuel = n + 1 := ⟨fuel - 1, by simp at hf; omega⟩
    have hn : items[e'.prog]? = none := by
      rw [List.getElem?_eq_none_iff]; exact List.drop_eq_nil_iff.mp hk
    refine ⟨e', z, Later.refl z, ?_, by simp, rfl, fun _ => rfl⟩
    rw [memGo, hn]
    simp [hst]
  | cons k ks ih =>
    intro fuel e' z hz ha hb hr hk hf
    obtain ⟨fuel, rfl⟩ : ∃ n, fuel = n + 1 := ⟨fuel - 1, by simp at hf; omega⟩
    have hn : items[e'.prog]? = some k := by
      rw [← List.head?_drop, hk]; rfl
    have hks : items.drop (e'.prog + 1) = ks := by
      rw [← List.tail_drop, hk]; rfl
    obtain ⟨e'', u, hu, hgo, hgot, hfl, -⟩ := ih fuel
      { e' with prog := e'.prog + 1, got := e'.got ++ vals k, flags := e'.flags ||| fls k, taps := [] } z.orderVector hz.orderVector
      ha hb hr hks (by simp at hf; omega)
    refine ⟨e'', u, hu.orderVector, ?_, by rw [hgot]; simp, hfl, fun h => nomatch h⟩
    rw [memGo, hn]
    simp only [hst, Bool.false_eq_true, if_false]
    rw [hd k (List.mem_of_getElem? hn) e' z hz ha hb hr]
    exact hgo

/-- A word whose access is one of R140 runs as one. -/
theorem entryRun_mem {e : VEntry} {w : MemWord} (h : memWord e.instr = some w) (limit : Option Nat) (s : State) :
    entryRun limit e s = memRun w limit e s := by
  rcases e with ⟨⟨_, i⟩⟩
  change memWord i = some w at h
  cases i with
  | vld | vlds | vldx | vldf | vldfS | vldfX | vldr | vldrS | vldrX | vldg | vldgS | vldgX | vldP | texs
  | vst | vsts | vstx | vstF | vstsF | vstxF | vstr | vstrS | vstrX | vstg | vstgS | vstgX | vstP =>
    obtain rfl := Option.some.inj h; rfl
  | _ => cases h

/-- A vector load does nothing of its own as it enters the queue, and is no word of tile mode or of a held result. -/
theorem memWord_plain {i : Instr} {w : MemWord} (h : memWord i = some w) :
    Claim.enteringSpecially i = false ∧ tileOnly i = false ∧ heldWord i = false ∧ ∀ r, i ≠ .modet r := by
  cases i with
  | vld | vlds | vldx | vldf | vldfS | vldfX | vldr | vldrS | vldrX | vldg | vldgS | vldgX | vldP | texs
  | vst | vsts | vstx | vstF | vstsF | vstxF | vstr | vstrS | vstrX | vstg | vstgS | vstgX | vstP =>
    exact ⟨rfl, rfl, rfl, fun _ => Instr.noConfusion⟩
  | _ => cases h

/-- A load word on a vector side at rest comes to what it comes to at the head of its queue. -/
theorem exec_load {i : Instr} {w : MemWord} {s u : State} (hc : Claim.calm s) (hl : classLegal i s.legalEnv = true)
    (hw : memWord i = some w)
    (hrun : memRun w none (s.captureEntry i)
      ({ s with t := { s.t with queue := [s.captureEntry i], chain := none } } : State).advance = .commit u)
    (huq : u.t.queue = [s.captureEntry i]) (hup : u.t.posted = s.t.posted) (hus : u.t.scalars = s.t.scalars) :
    exec i s = .next { u with t := { u.t with queue := [] } } := by
  obtain ⟨hi, hq, hp, hs, hch, ht, hts, hr, -⟩ := hc
  obtain ⟨hes, hto, hh, hm⟩ := memWord_plain hw
  obtain ⟨a, b, h1, h2, he⟩ := captureEntry_frame s i
  have hie : (s.captureEntry i).instr = i := by rw [he]
  have hde : decodeEffect i (s.captureEntry i) s.t = s.t := decodeEffect_plain hes hto _ _
  rw [exec_eq_issue hl hes]
  refine issue_commits (e := s.captureEntry i) hi hq hr hh hie (decodeEntry_plain hl hes hch ht hto) (issueToken_plain hes _ _)
    (by rw [entrySlots_plain hes]; decide) hm (by rw [hde]; exact hi) (by rw [hde]; exact hts) ?_ huq (hup.trans hp) (hus.trans hs)
  rw [hde, entryRun_mem (by rw [hie]; exact hw)]
  exact hrun

/-! ### What loaded values leave -/

theorem putLoaded_frame (t : Thread) (ls : List Loaded) : ∃ v p, putLoaded t ls = { t with v := v, p := p } := by
  induction ls generalizing t with
  | nil => exact ⟨_, _, rfl⟩
  | cons l ls ih =>
    rw [putLoaded]
    obtain ⟨v, p, h⟩ := ih (if l.reg < 32 then t.setElems l.reg l.sew [(l.idx, l.val)]
      else t.setPred (BitVec.ofNat 4 (l.reg - 32)) [(l.idx, l.val == 1)])
    rw [h]
    split
    · unfold Thread.setElems; split <;> exact ⟨_, _, rfl⟩
    · exact ⟨_, _, rfl⟩

theorem putLoaded_p (t : Thread) {ls : List Loaded} (h : ∀ l ∈ ls, l.reg < 32) : (putLoaded t ls).p = t.p := by
  induction ls generalizing t with
  | nil => rfl
  | cons l ls ih =>
    rw [putLoaded, ih _ fun x hx => h x (List.mem_cons_of_mem _ hx), if_pos (h l List.mem_cons_self)]
    unfold Thread.setElems; split <;> rfl

@[simp] theorem putLoaded_lanes (t : Thread) (ls : List Loaded) : (putLoaded t ls).lanes = t.lanes := by
  obtain ⟨v, p, h⟩ := putLoaded_frame t ls
  rw [h]; rfl

theorem putLoaded_queue (t : Thread) (q : List VEntry) (ls : List Loaded) :
    putLoaded { t with queue := q } ls = { putLoaded t ls with queue := q } := by
  induction ls generalizing t with
  | nil => rfl
  | cons l ls ih =>
    rw [putLoaded, putLoaded, ← ih]
    congr 1
    split
    · unfold Thread.setElems; split <;> rfl
    · rfl

theorem ungrades_frame (t : Thread) (rs : List Nat) : ∃ tags, rs.foldl (fun t r => t.ungrade r) t = { t with tags := tags } := by
  induction rs generalizing t with
  | nil => exact ⟨_, rfl⟩
  | cons r rs ih =>
    obtain ⟨tags, h⟩ := ih (t.ungrade r)
    rw [List.foldl_cons, h]
    unfold Thread.ungrade; split <;> exact ⟨_, rfl⟩

theorem ungrades_queue (t : Thread) (q : List VEntry) (rs : List Nat) :
    rs.foldl (fun t r => t.ungrade r) { t with queue := q } = { rs.foldl (fun t r => t.ungrade r) t with queue := q } := by
  induction rs generalizing t with
  | nil => rfl
  | cons r rs ih =>
    rw [List.foldl_cons, List.foldl_cons, ← ih]
    congr 1
    unfold Thread.ungrade; split <;> rfl

theorem ungrades_tag (t : Thread) (q : VReg) (rs : List Nat) (h : ∀ r ∈ rs, r < 32) :
    (rs.foldl (fun t r => t.ungrade r) t).readTag q = if q.toNat ∈ rs then 0x7FF else t.readTag q := by
  induction rs generalizing t with
  | nil => simp
  | cons r rs ih =>
    have hr := h r List.mem_cons_self
    rw [List.foldl_cons, ih _ fun x hx => h x (List.mem_cons_of_mem _ hx)]
    by_cases hq : q.toNat ∈ rs
    · simp [hq]
    · have he : (t.ungrade r).readTag q = if q.toNat = r then 0x7FF else t.readTag q := by
        unfold Thread.readTag
        simp only [ungrade_tags t hr]
        by_cases he : q.toNat = r
        · subst he; rw [if_pos rfl]; exact Vector.getElem_set_self _
        · rw [if_neg he]; exact Vector.getElem_set_ne _ _ (Ne.symm he)
      simp [hq, he]

/-- An element of another register than the one whose elements were written. -/
theorem elem_setElems_other (t : Thread) {r q : Nat} (w w' j : Nat) (l : List (Nat × Nat)) (h : q ≠ r) :
    (t.setElems r w' l).elem q w j = t.elem q w j := by
  unfold Thread.setElems
  split
  · unfold Thread.elem
    split
    · simp only
      rw [Vector.getElem_set_ne _ _ (Ne.symm h)]
      rfl
    · rfl
  · rfl

/-- An element that none of the loaded values is for. -/
theorem elem_putLoaded_other (t : Thread) {q w j : Nat} (hw : elemWidth w) (hl : 0 < t.lanes) {ls : List Loaded}
    (hr : ∀ l ∈ ls, l.reg < 32) (hs : ∀ l ∈ ls, l.reg = q → l.sew = w ∧ l.idx ≠ j) : (putLoaded t ls).elem q w j = t.elem q w j := by
  induction ls generalizing t with
  | nil => rfl
  | cons l ls ih =>
    rw [putLoaded, if_pos (hr l List.mem_cons_self), ih _ (by rw [setElems_lanes]; exact hl)
      (fun x hx => hr x (List.mem_cons_of_mem _ hx)) (fun x hx => hs x (List.mem_cons_of_mem _ hx))]
    by_cases hq : l.reg = q
    · obtain ⟨hsew, hidx⟩ := hs l List.mem_cons_self hq
      rw [hsew, ← hq, elem_setElems _ _ _ _ _ _ hw hl (hr l List.mem_cons_self), if_pos rfl]
      simp [lastAt, hidx]
    · exact elem_setElems_other t _ _ _ _ (Ne.symm hq)

/-- An element that some of the loaded values are for, all of them the same. -/
theorem elem_putLoaded_same (t : Thread) {q w j v : Nat} (hw : elemWidth w) (hl : 0 < t.lanes) {ls : List Loaded}
    (hr : ∀ l ∈ ls, l.reg < 32) (hs : ∀ l ∈ ls, l.reg = q → l.sew = w ∧ (l.idx = j → l.val = v)) (he : ∃ l ∈ ls, l.reg = q ∧ l.idx = j) :
    (putLoaded t ls).elem q w j = v % 2 ^ w := by
  induction ls generalizing t with
  | nil => obtain ⟨_, h, -⟩ := he; cases h
  | cons l ls ih =>
    have hr' : ∀ x ∈ ls, x.reg < 32 := fun x hx => hr x (List.mem_cons_of_mem _ hx)
    have hs' : ∀ x ∈ ls, x.reg = q → x.sew = w ∧ (x.idx = j → x.val = v) := fun x hx => hs x (List.mem_cons_of_mem _ hx)
    have hlt := hr l List.mem_cons_self
    rw [putLoaded, if_pos hlt]
    by_cases htail : ∃ x ∈ ls, x.reg = q ∧ x.idx = j
    · exact ih _ (by rw [setElems_lanes]; exact hl) hr' hs' htail
    · obtain ⟨x, hx, hxq, hxj⟩ := he
      obtain rfl : x = l := (List.mem_cons.mp hx).resolve_right fun h => htail ⟨x, h, hxq, hxj⟩
      obtain ⟨hsew, hval⟩ := hs x List.mem_cons_self hxq
      rw [elem_putLoaded_other _ hw (by rw [setElems_lanes]; exact hl) hr' fun y hy hyq =>
        ⟨(hs' y hy hyq).1, fun hyj => htail ⟨y, hy, hyq, hyj⟩⟩]
      rw [hsew, ← hxq, elem_setElems _ _ _ _ _ _ hw hl hlt, if_pos rfl]
      simp [lastAt, hxj, hval hxj]

theorem readV_putLoaded_other (t : Thread) (q : VReg) {ls : List Loaded} (hs : ∀ l ∈ ls, l.reg < 32 ∧ l.reg ≠ q.toNat) :
    (putLoaded t ls).readV q = t.readV q := by
  induction ls generalizing t with
  | nil => rfl
  | cons l ls ih =>
    obtain ⟨hlt, hne⟩ := hs l List.mem_cons_self
    rw [putLoaded, if_pos hlt, ih _ fun x hx => hs x (List.mem_cons_of_mem _ hx)]
    unfold Thread.readV
    simp only [setElems_v _ _ _ hlt]
    exact Vector.getElem_set_ne _ _ hne

/-! ### What a load word leaves -/

theorem calm_lanes {s : State} (h : Claim.calm s) : 0 < s.t.lanes := by
  obtain ⟨-, -, -, -, -, -, -, -, -, -, -, hl, -⟩ := h; exact hl

theorem advance_queue (s : State) (q : List VEntry) (hch : s.t.chain = none) :
    ({ s with t := { s.t with queue := q, chain := none } } : State).advance = { s.advance with t := { s.advance.t with queue := q } } := by
  have h : ({ s with t := { s.t with queue := q, chain := none } } : State) = { s with t := { s.t with queue := q } } := by rw [← hch]
  rw [h]; rfl

theorem queue_empty {s : State} (h : s.t.queue = []) : ({ s with t := { s.t with queue := [] } } : State) = s := by rw [← h]

/-- The registers that a load other than TEXS writes. -/
def loadedRegs (w : MemWord) (vt : DWord) : List Nat :=
  match w.kind with
  | .bits => []
  | .raw => if vtBlock vt then [w.reg, w.reg + 1] else [w.reg]
  | _ => [w.reg]

theorem loadRegs_eq {w : MemWord} (h : w.kind ≠ .texture) (e : VEntry) (env : VEnv) : loadRegs w e env = loadedRegs w env.vt := by
  unfold loadRegs loadedRegs
  split
  · rw [‹w.kind = _›]
  · rw [‹w.kind = _›]
  · exact absurd ‹w.kind = _› h
  · split
    · exact absurd ‹w.kind = _› ‹w.kind ≠ _›
    · exact absurd ‹w.kind = _› ‹w.kind ≠ _›
    · rfl

/-- What a load commits, behind what stood in the queue. -/
theorem commitLoad_queue {w : MemWord} (hk : w.kind ≠ .texture) (e : VEntry) (env : VEnv) (s : State) (q : List VEntry) :
    commitLoad w e env ({ s with t := { s.t with queue := q } } : State) =
      let u := if env.vl = 0 then s else writeLoaded (loadedRegs w env.vt) e.got e.flags s
      { u with t := { u.t with queue := q } } := by
  unfold commitLoad writeLoaded
  rw [loadRegs_eq hk]
  split
  · rfl
  · simp only [putLoaded_queue, ungrades_queue]
    rfl

/-- What a load writes leaves the posted set, the scalar accesses and the queue. -/
theorem writeLoaded_frame (regs : List Nat) (got : List Loaded) (fl : Flags) (s : State) : ∃ v p tags,
    writeLoaded regs got fl s = { s with t := { s.t with v := v, p := p, tags := tags, fflags := s.t.fflags ||| fl } } := by
  unfold writeLoaded
  obtain ⟨v, p, h⟩ := putLoaded_frame s.t got
  obtain ⟨tags, h'⟩ := ungrades_frame (putLoaded s.t got) regs
  rw [h', h]
  exact ⟨_, _, _, rfl⟩

/-- A load whose items can all be read, on a vector side at rest (R145, R147): some steps of the vector side behind its own completion,
and with VL above 0 what it has read in its registers. -/
theorem exec_delivers {i : Instr} {w : MemWord} {s : State} {pr : Prep} {items : List Nat} {vals : Nat → List Loaded} {fls : Nat → Flags}
    (hc : Claim.calm s) (hl : classLegal i s.legalEnv = true) (hw : memWord i = some w) (hst : w.store = false) (hk : w.kind ≠ .texture)
    (hready : ∀ z, Like s z → memReady w (s.captureEntry i) s.t.env z = .ok ((s.captureEntry i, pr, items), z))
    (hd : Delivers w (s.captureEntry i) s.t.env pr s items vals fls) :
    ∃ u, Later s.advance u ∧ (items = [] → u = s.advance) ∧ exec i s = .next (if s.t.vl = 0 then u
      else writeLoaded (loadedRegs w s.t.vtype) (items.flatMap vals) (items.foldl (fun g k => g ||| fls k) 0) u) := by
  obtain ⟨-, hq, -, -, hch, -⟩ := id hc
  obtain ⟨a, b, h1, h2, he⟩ := captureEntry_frame s i
  obtain ⟨hprog, hgot, hfl, hxs, hec⟩ : (s.captureEntry i).prog = 0 ∧ (s.captureEntry i).got = [] ∧ (s.captureEntry i).flags = 0 ∧
      (s.captureEntry i).xs = [] ∧ (s.captureEntry i).chain = none := by rw [he]; exact ⟨rfl, rfl, rfl, rfl, rfl⟩
  generalize hz : ({ s with t := { s.t with queue := [s.captureEntry i], chain := none } } : State).advance = z at *
  have hlike : Like s z := hz ▸ Like.advance _
  have henv : entryEnv z.t (s.captureEntry i) = s.t.env := by
    unfold entryEnv; rw [hec, ← hz]; rfl
  obtain ⟨e', u, hu, hgo, hgot', hfl', hnil⟩ := memGo_delivers hst hd items (items.length + 2) (s.captureEntry i) z hlike rfl rfl rfl
    (by rw [hprog]; rfl) (by omega)
  have hrun : memRun w none (s.captureEntry i) z = .commit (commitLoad w e' s.t.env u) := by
    have hsteps : prepSteps (s.captureEntry i) (s.captureEntry i) = 0 := if_neg fun h => h.2 h.1
    unfold memRun
    simp only [henv, hready z hlike, itemSteps, if_neg hk, hprog, hsteps, Option.getD_none, Nat.sub_zero]
    exact hgo
  obtain ⟨hstamp, stamp, tick, lastVector, hu⟩ := hu
  have hz' := (advance_queue s [s.captureEntry i] hch).symm.trans hz
  let u' : State := { s.advance with stamp := stamp, tick := tick, t := { s.advance.t with lastVector := lastVector } }
  have hu' : u = { u' with t := { u'.t with queue := [s.captureEntry i] } } := by rw [hu, ← hz']
  let r : State := if s.t.vl = 0 then u' else writeLoaded (loadedRegs w s.t.vtype) e'.got e'.flags u'
  have hr : ∃ v p tags fl, r = { u' with t := { u'.t with v := v, p := p, tags := tags, fflags := fl } } := by
    by_cases hv : s.t.vl = 0
    · exact ⟨_, _, _, _, if_pos hv⟩
    · obtain ⟨v, p, tags, h⟩ := writeLoaded_frame (loadedRegs w s.t.vtype) e'.got e'.flags u'
      exact ⟨_, _, _, _, (if_neg hv).trans h⟩
  have hcommit : commitLoad w e' s.t.env u = { r with t := { r.t with queue := [s.captureEntry i] } } := by
    rw [hu', commitLoad_queue hk]
    by_cases hv : s.t.vl = 0
    · rw [show r = u' from if_pos hv]
      simp only
      rw [if_pos (show s.t.env.vl = 0 from congrArg BitVec.toNat hv)]
    · rw [show r = _ from if_neg hv]
      simp only
      rw [if_neg fun h : s.t.env.vl = 0 => hv (BitVec.eq_of_toNat_eq h)]
      rfl
  have hrq : ({ r with t := { r.t with queue := [] } } : State) = r := by
    obtain ⟨v, p, tags, fl, hr⟩ := hr
    exact queue_empty (by rw [hr]; exact hq)
  rw [hcommit, ← hz] at hrun
  refine ⟨u', ⟨?_, _, _, _, rfl⟩, fun hi => ?_, (exec_load hc hl hw hrun rfl ?_ ?_).trans ?_⟩
  · rw [hu', ← hz'] at hstamp; exact hstamp
  · have h := hnil hi
    rw [hu', ← hz'] at h
    have h' := congrArg (fun y : State => ({ y with t := { y.t with queue := [] } } : State)) h
    have he : ∀ y : State, y.t.queue = [] → y = { y with t := { y.t with queue := [] } } := fun y hy => (queue_empty hy).symm
    exact (he u' hq).trans (h'.trans (he s.advance hq).symm)
  · obtain ⟨v, p, tags, fl, hr⟩ := hr
    rw [hr]; rfl
  · obtain ⟨v, p, tags, fl, hr⟩ := hr
    rw [hr]; rfl
  · rw [hgot] at hgot'
    rw [hfl] at hfl'
    rw [← List.nil_append (List.flatMap _ _), ← hgot', ← hfl']
    exact congrArg Host.Outcome.next hrq

/-! ### The claim of a load, from the values that its items give -/

/-- The values loaded are those of the claim: each is for a register of the list, at that register's width, and each element that the
claim gives is one of them. -/
def Gathers (got : List Loaded) (vds : List (Nat × Nat × (Nat → Option Nat))) : Prop :=
  (∀ l ∈ got, ∃ d ∈ vds, l.reg = d.1) ∧
  (∀ d ∈ vds, d.1 < 32 ∧ elemWidth d.2.1) ∧
  (∀ d ∈ vds, ∀ l ∈ got, l.reg = d.1 → l.sew = d.2.1 ∧ d.2.2 l.idx = some l.val) ∧
  ∀ d ∈ vds, ∀ i v, d.2.2 i = some v → ∃ l ∈ got, l.reg = d.1 ∧ l.idx = i

/-- What a load writes, as the claim has it. -/
theorem loaded_writeLoaded {s u : State} {regs : List Nat} {got : List Loaded} {fl : Flags} {vds : List (Nat × Nat × (Nat → Option Nat))}
    (hl : 0 < s.t.lanes) (hu : Later s.advance u) (h0 : s.t.vl = 0 → u = s.advance) (hregs : regs = vds.map fun d => d.1)
    (hg : s.t.vl ≠ 0 → Gathers got vds) :
    Claim.loaded s (if s.t.vl = 0 then u else writeLoaded regs got fl u) vds fl := by
  refine ⟨fun hv => (if_pos hv).trans (h0 hv), fun hv => ?_⟩
  rw [if_neg hv]
  obtain ⟨hin, hd, hval, hsome⟩ := hg hv
  obtain ⟨hstamp, stamp, tick, lastVector, rfl⟩ := hu
  have hlt : ∀ l ∈ got, l.reg < 32 := fun l h => by
    obtain ⟨d, hd', he⟩ := hin l h
    rw [he]; exact (hd d hd').1
  have hregs' : ∀ r ∈ regs, r < 32 := fun r hr => by
    rw [hregs] at hr
    obtain ⟨d, hd', rfl⟩ := List.mem_map.mp hr
    exact (hd d hd').1
  let t0 : Thread := { s.advance.t with lastVector := lastVector }
  obtain ⟨tags, htags⟩ := ungrades_frame (putLoaded t0 got) regs
  obtain ⟨v, p, hput⟩ := putLoaded_frame t0 got
  have hp : p = s.t.p := by
    have := putLoaded_p t0 hlt
    rw [hput] at this; exact this
  refine ⟨fun d hd' i => ?_, fun r hr => ?_, fun r => ?_, ?_, ?_⟩
  · change (regs.foldl (fun t r => t.ungrade r) (putLoaded t0 got)).elem d.1 d.2.1 i = _
    rw [htags]
    change (putLoaded t0 got).elem d.1 d.2.1 i = _
    cases hx : d.2.2 i with
    | none =>
      exact elem_putLoaded_other t0 (hd d hd').2 hl hlt fun l h hr =>
        ⟨(hval d hd' l h hr).1, fun e => by rw [← e, (hval d hd' l h hr).2] at hx; cases hx⟩
    | some v =>
      exact elem_putLoaded_same t0 (hd d hd').2 hl hlt
        (fun l h hr => ⟨(hval d hd' l h hr).1, fun e => by rw [← e, (hval d hd' l h hr).2] at hx; exact Option.some.inj hx⟩)
        (hsome d hd' i v hx)
  · change (regs.foldl (fun t r => t.ungrade r) (putLoaded t0 got)).readV r = _
    rw [htags]
    exact readV_putLoaded_other t0 r fun l h => ⟨hlt l h, fun e => by
      obtain ⟨d, hd', he⟩ := hin l h
      exact hr d hd' (e.symm.trans he)⟩
  · change (regs.foldl (fun t r => t.ungrade r) (putLoaded t0 got)).readTag r = _
    rw [ungrades_tag _ _ _ hregs', hput]
    have hiff : r.toNat ∈ regs ↔ ∃ d ∈ vds, r.toNat = d.1 := by
      rw [hregs, List.mem_map]
      exact ⟨fun ⟨d, h, e⟩ => ⟨d, h, e.symm⟩, fun ⟨d, h, e⟩ => ⟨d, h, e.symm⟩⟩
    by_cases h : r.toNat ∈ regs
    · rw [if_pos h, if_pos (hiff.mp h)]
    · rw [if_neg h, if_neg (mt hiff.mpr h)]; rfl
  · exact hstamp
  · unfold writeLoaded
    change ({ ({ s.advance with stamp := stamp, tick := tick, t := t0 } : State) with
      t := regs.foldl (fun t r => t.ungrade r) (putLoaded t0 got) } : State).orFlags fl = _
    rw [htags, hput, hp]
    rfl

/-- The active elements of a word. -/
theorem active_env (s : State) (p : PReg) : s.t.env.active s.t p = (List.range s.t.vl.toNat).filter fun i => Claim.active s p i := by
  unfold VEnv.active Thread.env Claim.active
  exact List.filter_congr fun i hi => by simp [List.mem_range.mp hi]

theorem mem_active {s : State} {p : PReg} {i : Nat} : i ∈ s.t.env.active s.t p ↔ Claim.active s p i = true := by
  rw [active_env, List.mem_filter, List.mem_range]
  exact ⟨fun h => h.2, fun h => ⟨by simpa using (Bool.and_eq_true_iff.mp h).1, h⟩⟩

/-- The flags of the active elements. -/
theorem flags_active (s : State) (p : PReg) (fls : Nat → Flags) :
    (s.t.env.active s.t p).foldl (fun g k => g ||| fls k) 0 =
      (List.range s.t.vl.toNat).foldl (fun g i => if Claim.active s p i then g ||| fls i else g) 0 := by
  rw [active_env, List.foldl_filter]

/-! ### What the items of a load see -/

theorem Like.elem {s z : State} (h : Like s z) (r w i : Nat) : z.t.elem r w i = s.t.elem r w i := by
  obtain ⟨_, _, _, _, _, _, ht⟩ := h.t; rw [ht]; rfl

theorem Like.lanes {s z : State} (h : Like s z) : z.t.lanes = s.t.lanes := by
  obtain ⟨_, _, _, _, _, _, ht⟩ := h.t; rw [ht]; rfl

theorem Like.memItems {s z : State} (h : Like s z) (w : MemWord) (env : VEnv) (pr : Prep) :
    memItems z.t w env pr = memItems s.t w env pr := by
  obtain ⟨_, _, _, _, _, _, ht⟩ := h.t; rw [ht]; rfl

theorem Like.itemOffset {s z : State} (h : Like s z) (mode : VMode) {e e' : VEntry} (hb : e'.b = e.b) (size k : Nat) :
    itemOffset z.t z.core.rowcap mode e' size k = itemOffset s.t s.core.rowcap mode e size k := by
  unfold Machine.itemOffset indexAt
  simp only [h.core, h.elem, h.lanes, hb]

theorem Like.regionFits {s z : State} (h : Like s z) (w : MemWord) (env : VEnv) (r : Region) :
    regionFits w env r z = regionFits w env r s := by
  unfold Machine.regionFits
  simp only [h.core, h.lanes]

theorem Like.itemAddress {s z : State} (h : Like s z) (mode : VMode) {e e' : VEntry} (ha : e'.a = e.a) (hb : e'.b = e.b) (size k : Nat) :
    itemAddress z.t z.core.rowcap mode e' size k = itemAddress s.t s.core.rowcap mode e size k := by
  unfold Machine.itemAddress
  rw [h.itemOffset mode hb, ha]

/-- A load that no preparation goes before (R141). -/
theorem memReady_plain {w : MemWord} (hk : w.kind = .multi ∨ w.kind = .bits) (e : VEntry) {s z : State} (hz : Like s z)
    (h0 : s.t.vl = 0 → memItems s.t w s.t.env none = []) :
    memReady w e s.t.env z = .ok ((e, none, memItems s.t w s.t.env none), z) := by
  unfold memReady
  rw [hz.memItems]
  split
  · rename_i hv
    rw [h0 (BitVec.eq_of_toNat_eq hv)]
  · have he : emptyPrep w e s.t.env z = .ok (e, z) ∧ memPrep w e s.t.env z = .ok ((e, none), z) := by
      unfold emptyPrep memPrep
      rcases hk with hk | hk <;> simp only [hk, and_self]
    rw [he.1, he.2]
    split
    · rename_i hi; rw [hi]
    · simp only [hz.memItems]

/-- A decoding or raw load that finds its region at x[rs1], and an element to load (R78, R152, R155). -/
theorem memReady_region {w : MemWord} (hk : w.kind = .coded ∨ w.kind = .raw) (hst : w.store = false) {e : VEntry} {s z : State} (hz : Like s z)
    (hp : Claim.plainAccess s) {r : Region} {n0 : Int} (hr : Claim.startsAt s .load e.a r n0) (hfit : regionFits w s.t.env r s = true)
    (hraw : w.kind = .raw → r.fmt = vtFmt s.t.vtype) (hv : s.t.vl ≠ 0) (hi : memItems s.t w s.t.env none ≠ []) :
    memReady w e s.t.env z = .ok ((e, some (r, n0), memItems s.t w s.t.env none), z) := by
  obtain ⟨hreg, hstart⟩ := hr
  have hsize : (0 : Int) < r.size := by
    have : 0 < r.size := by
      unfold Region.size Region.block
      split <;> rename_i h
      · split at h <;> simp at h <;> subst h <;> decide
      · decide
    exact_mod_cast this
  have hs : r.start e.a.toNat = some n0 := by
    have hd : (e.a.toNat : Int) - r.base = n0 * r.size := by omega
    unfold Region.start
    simp only [hd]
    rw [if_pos (Int.mul_emod_left _ _), Int.mul_ediv_cancel _ (ne_of_gt hsize)]
  have hprep : memPrep w e s.t.env z = .ok ((e, some (r, n0)), z) := by
    have hregz := hz.region hp hreg
    rw [← hz.agent] at hregz
    have hfmt : ¬ (w.kind = .raw ∧ r.fmt ≠ rawFmt s.t.env.vt) := fun h => h.2 (hraw h.1)
    have hno : ¬ (w.kind = .coded ∧ w.store ∧ r.block.isSome ∧ w.p ≠ 0) := fun h => by simp [hst] at h
    unfold memPrep
    rcases hk with hk | hk
    all_goals
      simp only [hk, hst, Bool.false_eq_true, if_false, hregz, hz.regionFits, hfit, Bool.not_true, hs] at hfmt hno ⊢
      rw [if_neg hfmt, if_neg hno]
  have hsame : memItems s.t w s.t.env (some (r, n0)) = memItems s.t w s.t.env none := by
    have : blockwise w s.t.env (some (r, n0)) = blockwise w s.t.env none := by
      unfold blockwise; rcases hk with hk | hk <;> simp [hk, hst]
    unfold memItems; rw [this]
  unfold memReady
  rw [if_neg (fun h : s.t.env.vl = 0 => hv (BitVec.eq_of_toNat_eq h)), hz.memItems, if_neg hi, hprep]
  simp only [hz.memItems, hsame]

/-- A region that an access finds has the format of BF16 or of a block (R76). -/
theorem region_fmt {s u : State} {ag : Agent} {acc : Access} {a : Nat} {r : Region} (h : s.region ag acc a = .ok (r, u)) :
    3 ≤ r.fmt ∧ r.fmt ≤ 6 := by
  have hof : ∀ {n : Nat} {bs : List Byte} {r : Region}, regionOf n bs = some r → 3 ≤ r.fmt ∧ r.fmt ≤ 6 := by
    intro n bs r h
    unfold regionOf at h
    simp only at h
    split at h
    · rename_i hb
      obtain rfl := Option.some.inj h
      simp only [Bool.and_eq_true, decide_eq_true_eq] at hb
      exact ⟨hb.1.1.1.1.2, hb.1.1.1.2⟩
    · cases h
  unfold State.region at h
  simp only [raise] at h
  split at h
  · cases h
  · split at h
    · cases h
    · split at h
      · cases h
      · split at h
        · rename_i hr; cases h; exact hof hr
        · cases h

/-! ### Loads of elements -/

/-- The word loads its active elements with these values and flags. -/
def LoadsElements (s : State) (i : Instr) (w : MemWord) (val : Nat → Nat × Flags) : Prop :=
  ∃ t, exec i s = .next t ∧ Claim.loaded s t
    [(w.reg, vtSew s.t.vtype, fun i => if Claim.active s w.p i then some (val i).1 else none)]
    ((List.range s.t.vl.toNat).foldl (fun g i => if Claim.active s w.p i then g ||| (val i).2 else g) 0)

/-- A load whose items are the active elements, each read for its own element (R145, R147). -/
theorem exec_elements {i : Instr} {w : MemWord} {s : State} {pr : Prep} {val : Nat → Nat × Flags} (hc : Claim.calm s)
    (hl : classLegal i s.legalEnv = true) (hw : memWord i = some w) (hst : w.store = false) (hk : w.kind ≠ .texture)
    (hregs : loadedRegs w s.t.vtype = [w.reg]) (hlt : w.reg < 32)
    (hready : ∀ z, Like s z → memReady w (s.captureEntry i) s.t.env z = .ok ((s.captureEntry i, pr, s.t.env.active s.t w.p), z))
    (hd : Delivers w (s.captureEntry i) s.t.env pr s (s.t.env.active s.t w.p)
      (fun k => [⟨w.reg, vtSew s.t.vtype, k, (val k).1⟩]) fun k => (val k).2) :
    LoadsElements s i w val := by
  obtain ⟨u, hu, hnil, he⟩ := exec_delivers hc hl hw hst hk hready hd
  have h0 : s.t.vl = 0 → u = s.advance := fun h => hnil (by rw [active_env, h]; rfl)
  rw [flags_active s w.p fun k => (val k).2] at he
  refine ⟨_, he, loaded_writeLoaded (calm_lanes hc) hu h0 hregs fun _ => ?_⟩
  have hin : ∀ l ∈ (s.t.env.active s.t w.p).flatMap fun k => [(⟨w.reg, vtSew s.t.vtype, k, (val k).1⟩ : Loaded)],
      ∃ k, Claim.active s w.p k = true ∧ l = ⟨w.reg, vtSew s.t.vtype, k, (val k).1⟩ := by
    intro l hl
    obtain ⟨k, hk, hl⟩ := List.mem_flatMap.mp hl
    exact ⟨k, mem_active.mp hk, List.mem_singleton.mp hl⟩
  refine ⟨fun l h => ?_, ?_, fun d hd l h hr => ?_, fun d hd i v hx => ?_⟩
  · obtain ⟨k, -, rfl⟩ := hin l h
    exact ⟨_, List.mem_singleton_self _, rfl⟩
  · rintro d hd
    obtain rfl := List.mem_singleton.mp hd
    exact ⟨hlt, vtSew_width _⟩
  · obtain rfl := List.mem_singleton.mp hd
    obtain ⟨k, hk, rfl⟩ := hin l h
    exact ⟨rfl, if_pos hk⟩
  · obtain rfl := List.mem_singleton.mp hd
    have ha : Claim.active s w.p i = true := by
      by_contra hn
      simp [hn] at hx
    exact ⟨_, List.mem_flatMap.mpr ⟨i, mem_active.mpr ha, List.mem_singleton_self _⟩, rfl, rfl⟩

/-! ### Multivectors -/

/-- The components of multivectors that a thread's registers hold lie apart (R43, R44). -/
theorem multiElem_inj {vt : DWord} {lanes m c m' c' : Nat} (hl : 0 < lanes) (hg : vtFmt vt = 3 ∨ m < lanes ∧ m' < lanes)
    (hc : c < 16) (hc' : c' < 16) (h : multiElem vt lanes m c = multiElem vt lanes m' c') : m = m' ∧ c = c' := by
  have place : ∀ a b x y : Nat, x < lanes → y < lanes → a * lanes + x = b * lanes + y → a = b ∧ x = y := by
    intro a b x y hx hy h
    have ha := congrArg (· / lanes) h
    simp only [Nat.mul_comm _ lanes, Nat.mul_add_div hl, Nat.div_eq_of_lt hx, Nat.div_eq_of_lt hy, Nat.add_zero] at ha
    exact ⟨ha, by subst ha; omega⟩
  unfold multiElem at h
  by_cases hf : vtFmt vt = 3
  · simp only [hf, if_true] at h
    obtain ⟨h1, h2⟩ := place _ _ _ _ (Nat.mod_lt _ hl) (Nat.mod_lt _ hl) h
    have hd : m / lanes = m' / lanes := by omega
    exact ⟨by rw [← Nat.div_add_mod m lanes, ← Nat.div_add_mod m' lanes, hd, h2], by omega⟩
  · simp only [hf, if_false] at h
    obtain ⟨hm, hm'⟩ := hg.resolve_left hf
    obtain ⟨h1, h2⟩ := place _ _ _ _ hm hm' h
    exact ⟨h2, h1⟩

/-- The first of the values loaded for an element. -/
def firstAt (got : List Loaded) (i : Nat) : Option Nat := (got.find? fun l => l.idx == i).map fun l => l.val

theorem firstAt_some {got : List Loaded} {i v : Nat} (h : firstAt got i = some v) : ∃ l ∈ got, l.idx = i ∧ l.val = v := by
  unfold firstAt at h
  obtain ⟨l, hl, hv⟩ := Option.map_eq_some_iff.mp h
  exact ⟨l, List.mem_of_find?_eq_some hl, by simpa using List.find?_some hl, hv⟩

theorem firstAt_none {got : List Loaded} {i : Nat} (h : firstAt got i = none) : ∀ l ∈ got, l.idx ≠ i := by
  unfold firstAt at h
  intro l hl
  simpa using List.find?_eq_none.mp (Option.map_eq_none_iff.mp h) l hl

/-- The values that a multivector gives: its components, each for its place (R43, R148). -/
def multiValues (s : State) (reg : Nat) (bs : Nat → List Byte) (m : Nat) : List Loaded :=
  (List.range 16).map fun c => ⟨reg, vtSew s.t.vtype, multiElem s.t.vtype s.t.lanes m c,
    bits (ofBytes (bs m)) (c * vtSew s.t.vtype) (vtSew s.t.vtype)⟩

theorem mem_multiValues {s : State} {reg m : Nat} {bs : Nat → List Byte} {l : Loaded} : l ∈ multiValues s reg bs m ↔
    ∃ c < 16, l = ⟨reg, vtSew s.t.vtype, multiElem s.t.vtype s.t.lanes m c,
      bits (ofBytes (bs m)) (c * vtSew s.t.vtype) (vtSew s.t.vtype)⟩ := by
  unfold multiValues
  simp only [List.mem_map, List.mem_range, eq_comm (a := l)]

/-- Where a multivector word is legal, the active multivectors lie within the lanes (R44). -/
theorem graded_lanes {s : State} (hc : Claim.calm s) (hg : s.legalEnv.graded = true) {p : PReg} {m : Nat}
    (hm : Claim.active s p m = true) : vtFmt s.t.vtype = 3 ∨ m < s.t.lanes := by
  obtain ⟨-, -, -, -, -, -, -, -, hvt, hvl, -⟩ := hc
  have hlt : m < s.t.vl.toNat := of_decide_eq_true (Bool.and_eq_true_iff.mp hm).1
  obtain ⟨hg, -⟩ := Bool.and_eq_true_iff.mp hg
  obtain ⟨hty, hlim⟩ := Bool.and_eq_true_iff.mp hg
  change (vtF32 s.t.dvtype || vtFmt s.t.dvtype == 3) = true at hty
  change decide (s.t.dvl.toNat ≤ gradedLimit s.t.dvtype s.t.lanes) = true at hlim
  rw [hvt] at hty hlim
  rw [hvl] at hlim
  by_cases hf : vtFmt s.t.vtype = 3
  · exact .inl hf
  · right
    have h32 : vtF32 s.t.vtype = true := by simpa [hf] using hty
    have := of_decide_eq_true hlim
    rw [gradedLimit, if_pos h32] at this
    omega

/-- A multivector load whose active multivectors are aligned and can be read (R43, R148). -/
theorem exec_multi {i : Instr} {w : MemWord} {s : State} {bs : Nat → List Byte} {a : Nat → Nat} (hc : Claim.calm s) (hp : Claim.plainAccess s)
    (hl : classLegal i s.legalEnv = true) (hg : s.legalEnv.graded = true) (hw : memWord i = some w) (hst : w.store = false)
    (hk : w.kind = .multi) (hlt : w.reg < 32)
    (ha : ∀ k, itemAddress s.t s.core.rowcap w.mode (s.captureEntry i) (multiBytes s.t.vtype) k = a k)
    (hr : ∀ k, Claim.active s w.p k = true → a k % multiBytes s.t.vtype = 0 ∧ Claim.readable s (a k) (multiBytes s.t.vtype) (bs k)) :
    ∃ (t : State) (x : Nat → Option Nat), exec i s = .next t ∧ Claim.loaded s t [(w.reg, vtSew s.t.vtype, x)] 0 ∧
      (∀ m c, c < 16 → Claim.active s w.p m = true → x (multiElem s.t.vtype s.t.lanes m c) =
        some (ofBytes (bs m) / 2 ^ (c * vtSew s.t.vtype) % 2 ^ vtSew s.t.vtype)) ∧
      ∀ i, (∀ m c, c < 16 → Claim.active s w.p m = true → i ≠ multiElem s.t.vtype s.t.lanes m c) → x i = none := by
  have hlanes := calm_lanes hc
  have hnt : w.kind ≠ .texture := by rw [hk]; exact MemKind.noConfusion
  have hitems : memItems s.t w s.t.env none = s.t.env.active s.t w.p := by
    unfold memItems blockwise; simp [hk]
  have hd : Delivers w (s.captureEntry i) s.t.env none s (s.t.env.active s.t w.p) (multiValues s w.reg bs) fun _ => 0 := by
    intro k hk' e z hz hea heb _
    obtain ⟨h1, h2⟩ := hr k (mem_active.mp hk')
    have hread := hz.read hp h2
    rw [← hz.agent] at hread
    unfold loadItem
    simp only [hk]
    rw [hz.itemAddress w.mode hea heb, show s.t.env.vt = s.t.vtype from rfl, ha, if_neg (not_not.mpr h1), hread]
    unfold multiValues
    rw [hz.lanes]
    rfl
  obtain ⟨u, hu, hnil, he⟩ := exec_delivers hc hl hw hst hnt
    (fun z hz => by
      have := memReady_plain (.inl hk) (s.captureEntry i) hz fun h => by rw [hitems, active_env, h]; rfl
      rwa [hitems] at this) hd
  let got := (s.t.env.active s.t w.p).flatMap (multiValues s w.reg bs)
  have hgot : ∀ l ∈ got, ∃ m c, Claim.active s w.p m = true ∧ c < 16 ∧ l = ⟨w.reg, vtSew s.t.vtype,
      multiElem s.t.vtype s.t.lanes m c, bits (ofBytes (bs m)) (c * vtSew s.t.vtype) (vtSew s.t.vtype)⟩ := by
    intro l hl
    obtain ⟨m, hm, hl⟩ := List.mem_flatMap.mp hl
    obtain ⟨c, hc, hl⟩ := mem_multiValues.mp hl
    exact ⟨m, c, mem_active.mp hm, hc, hl⟩
  have hmem : ∀ m c, c < 16 → Claim.active s w.p m = true → (⟨w.reg, vtSew s.t.vtype,
      multiElem s.t.vtype s.t.lanes m c, bits (ofBytes (bs m)) (c * vtSew s.t.vtype) (vtSew s.t.vtype)⟩ : Loaded) ∈ got :=
    fun m c hc hm => List.mem_flatMap.mpr ⟨m, mem_active.mpr hm, mem_multiValues.mpr ⟨c, hc, rfl⟩⟩
  have hfirst : ∀ l ∈ got, firstAt got l.idx = some l.val := by
    intro l hl
    cases hx : firstAt got l.idx with
    | none => exact absurd rfl (firstAt_none hx l hl)
    | some v =>
      obtain ⟨l', hl', hi, rfl⟩ := firstAt_some hx
      obtain ⟨m, c, hm, hc16, rfl⟩ := hgot l hl
      obtain ⟨m', c', hm', hc16', rfl⟩ := hgot l' hl'
      have hapart : vtFmt s.t.vtype = 3 ∨ m' < s.t.lanes ∧ m < s.t.lanes := by
        rcases graded_lanes hc hg hm with h | h
        · exact .inl h
        · exact (graded_lanes hc hg hm').imp_right fun h' => ⟨h', h⟩
      obtain ⟨rfl, rfl⟩ := multiElem_inj hlanes hapart hc16' hc16 hi
      rfl
  rw [foldl_or_zero] at he
  refine ⟨_, firstAt got, he, loaded_writeLoaded hlanes hu (fun h => hnil (by rw [active_env, h]; rfl))
    (by unfold loadedRegs; simp [hk]) fun _ => ?_, fun m c hc16 hm => hfirst _ (hmem m c hc16 hm), fun i hi => ?_⟩
  · refine ⟨fun l h => ?_, fun d hd => ?_, fun d hd l h _ => ?_, fun d hd i v hx => ?_⟩
    · obtain ⟨m, c, -, -, rfl⟩ := hgot l h
      exact ⟨_, List.mem_singleton_self _, rfl⟩
    · obtain rfl := List.mem_singleton.mp hd
      exact ⟨hlt, vtSew_width _⟩
    · obtain rfl := List.mem_singleton.mp hd
      refine ⟨?_, hfirst l h⟩
      obtain ⟨m, c, -, -, rfl⟩ := hgot l h
      rfl
    · obtain rfl := List.mem_singleton.mp hd
      obtain ⟨l, hl, hi, -⟩ := firstAt_some hx
      refine ⟨l, hl, ?_, hi⟩
      obtain ⟨m, c, -, -, rfl⟩ := hgot l hl
      rfl
  · cases hx : firstAt got i with
    | none => rfl
    | some v =>
      obtain ⟨l, hl, rfl, -⟩ := firstAt_some hx
      obtain ⟨m, c, hm, hc16, rfl⟩ := hgot l hl
      exact absurd rfl (hi m c hc16 hm)

/-! ### Decoding and raw loads -/

/-- A value rounded once keeps the sign of its zero. -/
theorem round_once (f : Fmt) (rm : BitVec 3) (fl : BitVec 2) (v : FVal) : f.round rm fl v.neg v = Claim.once f rm fl v := by
  cases v <;> rfl

/-- BF16 widens to f32 and f64, and not to f16 (R68). -/
theorem bf16_widens {vt : DWord} (h : vtFmt vt ≠ 3) : Claim.widens bf16 (vtIeeeFmt vt) = bf16.widens (vtIeeeFmt vt) := by
  unfold vtIeeeFmt
  rw [if_neg h]
  split <;> decide

/-- What a BF16 item converts to (R68, R153). -/
theorem convertTo_eq {s : State} (h : vtFmt s.t.vtype ≠ 3) (v : FVal) :
    bf16.convertTo (vtIeeeFmt s.t.vtype) s.t.frm (vtFlush s.t.vtype) v = Claim.narrow s bf16 (vtIeeeFmt s.t.vtype) v := by
  have hnv : v.nv = if v = .nan true then flagNV else 0 := by
    cases v with
    | nan b => cases b <;> rfl
    | inf => rfl
    | num => rfl
  unfold Fmt.convertTo Fmt.convert Claim.narrow
  rw [round_once, bf16_widens h, hnv]

section
variable {i : Instr} {w : MemWord} {s : State} {r : Region} {n0 : Int} {off : Nat → Int} {bs : Nat → List Byte} {va : Nat → Nat}

/-- The frame of a decoding or raw load: it is legal, has its region, and its items lie at these offsets. -/
structure RegionLoad (i : Instr) (w : MemWord) (s : State) (r : Region) (n0 : Int) (off : Nat → Int) : Prop where
  calm : Claim.calm s
  plain : Claim.plainAccess s
  legal : classLegal i s.legalEnv = true
  word : memWord i = some w
  load : w.store = false
  kind : w.kind = .coded ∨ w.kind = .raw
  reg : w.reg < 32
  fits : regionFits w s.t.env r s = true
  nonempty : ∃ k, Claim.active s w.p k = true
  starts : Claim.startsAt s .load (s.captureEntry i).a r n0
  fmt : w.kind = .raw → r.fmt = vtFmt s.t.vtype
  offset : ∀ k, itemOffset s.t s.core.rowcap w.mode (s.captureEntry i) 1 k = off k

theorem RegionLoad.vl (h : RegionLoad i w s r n0 off) : s.t.vl ≠ 0 := by
  obtain ⟨k, hk⟩ := h.nonempty
  have hlt : k < s.t.vl.toNat := of_decide_eq_true (Bool.and_eq_true_iff.mp hk).1
  intro hv
  rw [hv] at hlt
  exact absurd hlt (Nat.not_lt_zero k)

theorem RegionLoad.notTexture (h : RegionLoad i w s r n0 off) : w.kind ≠ .texture := by
  rcases h.kind with h | h <;> rw [h] <;> exact MemKind.noConfusion

/-- Where the word counts in elements, its items are the active ones. -/
theorem RegionLoad.ready (h : RegionLoad i w s r n0 off) (hb : blockwise w s.t.env none = false) (z : State) (hz : Like s z) :
    memReady w (s.captureEntry i) s.t.env z = .ok ((s.captureEntry i, some (r, n0), s.t.env.active s.t w.p), z) := by
  have hitems : memItems s.t w s.t.env none = s.t.env.active s.t w.p := by
    have hk : w.kind ≠ .bits := by rcases h.kind with h | h <;> rw [h] <;> exact MemKind.noConfusion
    unfold memItems; rw [if_neg hk, hb]; rfl
  obtain ⟨k, hk⟩ := h.nonempty
  rw [← hitems]
  refine memReady_region h.kind h.load hz h.plain h.starts h.fits h.fmt h.vl ?_
  rw [hitems]
  exact List.ne_nil_of_mem (mem_active.mpr hk)

theorem RegionLoad.item (h : RegionLoad i w s r n0 off) {z : State} (hz : Like s z) {e : VEntry} (hb : e.b = (s.captureEntry i).b) (k : Nat) :
    itemOffset z.t z.core.rowcap w.mode e 1 k = off k := (hz.itemOffset w.mode hb 1 k).trans (h.offset k)

/-- A load from a region of BF16 elements (R153, R155). -/
theorem RegionLoad.elements (h : RegionLoad i w s r n0 off) (hb : r.block = none) (hbw : blockwise w s.t.env none = false)
    (hregs : loadedRegs w s.t.vtype = [w.reg])
    (hr : ∀ k, Claim.active s w.p k = true → Claim.item s .load r (n0 + off k) 0 2 (va k) ∧ Claim.readable s (va k) 2 (bs k)) :
    let val := fun k => if vtFmt s.t.vtype = 3 then (ofBytes (bs k), 0)
      else Claim.narrow s bf16 (vtIeeeFmt s.t.vtype) (bf16.read (vtFlush s.t.vtype) (ofBytes (bs k)))
    LoadsElements s i w val := by
  intro val
  refine exec_elements h.calm h.legal h.word h.load h.notTexture hregs h.reg (h.ready hbw) fun k hk e z hz _ heb hef => ?_
  obtain ⟨hitem, hread⟩ := hr k (mem_active.mp hk)
  have hitem' := hz.regionItem h.plain hitem
  have hread' := hz.read h.plain hread
  rw [← hz.agent] at hitem' hread'
  have hfrm : e.frm = s.t.frm := by
    obtain ⟨a, b, h1, h2, he⟩ := captureEntry_frame s i
    rw [hef, he]
  have hval : (if vtFmt s.t.env.vt = 3 then (ofBytes (bs k), 0) else
      bf16.convertTo (vtIeeeFmt s.t.env.vt) e.frm s.t.env.flush (bf16.read s.t.env.flush (ofBytes (bs k)))) = val k := by
    rw [hfrm]
    by_cases h3 : vtFmt s.t.vtype = 3
    · exact (if_pos h3).trans (if_pos h3).symm
    · exact (if_neg h3).trans ((convertTo_eq h3 _).trans (if_neg h3).symm)
  unfold loadItem
  rcases h.kind with hk | hk
  all_goals
    simp only [hk, hb]
    rw [h.item hz heb, hitem']
    simp only
    rw [hread']
    simp only
    rw [hval]
    rfl

/-- A decoding load from a region of blocks (R153). -/
theorem RegionLoad.decoded {pair : Nat → Nat} {g : BFmt} (h : RegionLoad i w s r n0 off) (hk : w.kind = .coded) (hb : r.block = some g)
    (hr : ∀ k, Claim.active s w.p k = true →
      let n := 48 * n0 + off k
      let q := (n % 48).toNat * g.width
      Claim.item s .load r (n / 48) (q / 8) ((q + g.width - 1) / 8 - q / 8 + 1) (va k) ∧
      s.readPair s.agent r (n / 48).toNat (va k) = .ok (pair k, s) ∧
      Claim.readable s (va k) ((q + g.width - 1) / 8 - q / 8 + 1) (bs k)) :
    let val := fun k =>
      let q := ((48 * n0 + off k) % 48).toNat * g.width
      Claim.once (vtIeeeFmt s.t.vtype) s.t.frm (vtFlush s.t.vtype)
        (g.decode (ofBytes (bs k) / 2 ^ (q % 8) % 2 ^ g.width) (pair k))
    LoadsElements s i w val := by
  intro val
  refine exec_elements h.calm h.legal h.word h.load h.notTexture (by unfold loadedRegs; rw [hk]) h.reg
    (h.ready (by unfold blockwise; simp [hk, h.load])) fun k hk' e z hz _ heb hef => ?_
  obtain ⟨hitem, hpair, hread⟩ := hr k (mem_active.mp hk')
  have hitem' := hz.regionItem h.plain hitem
  have hpair' := hz.readPair h.plain hpair
  have hread' := hz.read h.plain hread
  rw [← hz.agent] at hitem' hpair' hread'
  have hfrm : e.frm = s.t.frm := by
    obtain ⟨a, b, h1, h2, he⟩ := captureEntry_frame s i
    rw [hef, he]
  unfold loadItem
  simp only [hk, hb]
  rw [h.item hz heb]
  simp only [codeBytes]
  rw [hitem']
  simp only
  rw [hpair']
  simp only
  rw [if_neg MemKind.noConfusion, hread']
  simp only
  rw [round_once, hfrm]
  rfl

end

/-! ### Raw loads of blocks -/

/-- The values that a block gives: its codes in their containers, and its scale pair (R155). -/
def blockValues (s : State) (reg : Nat) (g : BFmt) (bs : Nat → List Byte) (pair : Nat → Nat) (j : Nat) : List Loaded :=
  ((List.range 48).map fun q => ⟨reg, vtSew s.t.vtype, 48 * j + q,
    containerOf g (s.t.elem reg (vtSew s.t.vtype) (48 * j + q)) (g.codeIn (bs j) q)⟩) ++ [⟨reg + 1, 32, j, pair j⟩]

/-- What an element of a raw register takes: its code, a B6 container's two upper bits staying (R73, R155). -/
def rawValue (s : State) (reg : Nat) (g : BFmt) (bs : Nat → List Byte) (i : Nat) : Nat :=
  (if g.width = 6 then s.t.elem reg (vtSew s.t.vtype) i / 64 * 64 else 0) + ofBytes (bs (i / 48)) / 2 ^ (i % 48 * g.width) % 2 ^ g.width

theorem containerOf_eq (s : State) (reg : Nat) (g : BFmt) (bs : Nat → List Byte) {j q : Nat} (hq : q < 48) :
    containerOf g (s.t.elem reg (vtSew s.t.vtype) (48 * j + q)) (g.codeIn (bs j) q) = rawValue s reg g bs (48 * j + q) := by
  have hd : (48 * j + q) / 48 = j := by omega
  have hm : (48 * j + q) % 48 = q := by omega
  unfold containerOf rawValue
  rw [hd, hm]
  split
  · rfl
  · exact (Nat.zero_add _).symm

/-- A value of a block is the code of one of its elements, or its scale pair. -/
theorem mem_blockValues {s : State} {reg j : Nat} {g : BFmt} {bs : Nat → List Byte} {pair : Nat → Nat} {l : Loaded} :
    l ∈ blockValues s reg g bs pair j ↔
      (∃ q < 48, l = ⟨reg, vtSew s.t.vtype, 48 * j + q, rawValue s reg g bs (48 * j + q)⟩) ∨ l = ⟨reg + 1, 32, j, pair j⟩ := by
  unfold blockValues
  rw [List.mem_append, List.mem_singleton, List.mem_map]
  refine or_congr_left ⟨fun ⟨q, hq, e⟩ => ?_, fun ⟨q, hq, e⟩ => ?_⟩
  · have hq := List.mem_range.mp hq
    exact ⟨q, hq, by rw [← e, containerOf_eq s reg g bs hq]⟩
  · exact ⟨q, List.mem_range.mpr hq, by rw [e, containerOf_eq s reg g bs hq]⟩

/-- Every block of a raw access holds an element. -/
theorem blockItems (s : State) {w : MemWord} (hk : w.kind = .raw) (hb : vtBlock s.t.vtype = true) :
    memItems s.t w s.t.env none = List.range ((s.t.vl.toNat + 47) / 48) := by
  unfold memItems blockwise
  simp only [hk, show vtBlock s.t.env.vt = true from hb, if_true]
  rw [if_neg MemKind.noConfusion]
  refine List.filter_eq_self.mpr fun j hj => List.any_eq_true.mpr ⟨48 * j, ?_, by simp⟩
  have : j < (s.t.vl.toNat + 47) / 48 := List.mem_range.mp hj
  exact List.mem_range.mpr (show 48 * j < s.t.vl.toNat by omega)

section
variable {i : Instr} {w : MemWord} {s : State} {r : Region} {n0 : Int} {off : Nat → Int} {bs : Nat → List Byte} {va pair : Nat → Nat}
  {g : BFmt}

/-- Each block of a raw load gives its codes and its pair. -/
theorem RegionLoad.delivers_blocks (h : RegionLoad i w s r n0 off) (hk : w.kind = .raw) (hb : r.block = some g)
    (hr : ∀ j < (s.t.vl.toNat + 47) / 48, Claim.item s .load r (n0 + off j) 0 (6 * g.width) (va j) ∧
      s.readPair s.agent r (n0 + off j).toNat (va j) = .ok (pair j, s) ∧ Claim.readable s (va j) (6 * g.width) (bs j)) :
    Delivers w (s.captureEntry i) s.t.env (some (r, n0)) s (List.range ((s.t.vl.toNat + 47) / 48)) (blockValues s w.reg g bs pair) fun _ => 0 := by
  intro j hj e z hz _ heb _
  obtain ⟨hitem, hpair, hread⟩ := hr j (List.mem_range.mp hj)
  have hitem' := hz.regionItem h.plain hitem
  have hpair' := hz.readPair h.plain hpair
  have hread' := hz.read h.plain hread
  rw [← hz.agent] at hitem' hpair' hread'
  unfold loadItem
  simp only [hk, hb, if_true]
  rw [h.item hz heb]
  simp only [BFmt.blockBytes]
  rw [hitem']
  simp only
  rw [hpair']
  simp only
  rw [hread']
  simp only [hz.elem]
  rfl

/-- A raw load of blocks (R155). -/
theorem RegionLoad.blocks (h : RegionLoad i w s r n0 off) (hk : w.kind = .raw) (hb : r.block = some g) (hvb : vtBlock s.t.vtype = true)
    (hreg : w.reg + 1 < 32)
    (hr : ∀ j < (s.t.vl.toNat + 47) / 48, Claim.item s .load r (n0 + off j) 0 (6 * g.width) (va j) ∧
      s.readPair s.agent r (n0 + off j).toNat (va j) = .ok (pair j, s) ∧ Claim.readable s (va j) (6 * g.width) (bs j)) :
    ∃ t, exec i s = .next t ∧ Claim.loaded s t
      [(w.reg, vtSew s.t.vtype, fun i => if i / 48 < (s.t.vl.toNat + 47) / 48 then some (rawValue s w.reg g bs i) else none),
       (w.reg + 1, 32, fun j => if j < (s.t.vl.toNat + 47) / 48 then some (pair j) else none)] 0 := by
  have hitems := blockItems s hk hvb
  have hne : memItems s.t w s.t.env none ≠ [] := by
    rw [hitems]
    have hv : s.t.vl.toNat ≠ 0 := fun e => h.vl (BitVec.eq_of_toNat_eq e)
    exact List.ne_nil_of_mem (List.mem_range.mpr (show 0 < _ by omega))
  obtain ⟨u, hu, -, he⟩ := exec_delivers h.calm h.legal h.word h.load h.notTexture (fun z hz => by
    have := memReady_region h.kind h.load hz h.plain h.starts h.fits h.fmt h.vl hne
    rwa [hitems] at this) (h.delivers_blocks hk hb hr)
  rw [foldl_or_zero] at he
  have hin : ∀ l ∈ (List.range ((s.t.vl.toNat + 47) / 48)).flatMap (blockValues s w.reg g bs pair), ∃ j < (s.t.vl.toNat + 47) / 48,
      (∃ q < 48, l = ⟨w.reg, vtSew s.t.vtype, 48 * j + q, rawValue s w.reg g bs (48 * j + q)⟩) ∨ l = ⟨w.reg + 1, 32, j, pair j⟩ := by
    intro l hl
    obtain ⟨j, hj, hl⟩ := List.mem_flatMap.mp hl
    exact ⟨j, List.mem_range.mp hj, mem_blockValues.mp hl⟩
  have hmem : ∀ {j : Nat} {l : Loaded}, j < (s.t.vl.toNat + 47) / 48 → l ∈ blockValues s w.reg g bs pair j →
      l ∈ (List.range ((s.t.vl.toNat + 47) / 48)).flatMap (blockValues s w.reg g bs pair) :=
    fun hj hl => List.mem_flatMap.mpr ⟨_, List.mem_range.mpr hj, hl⟩
  refine ⟨_, he, loaded_writeLoaded (calm_lanes h.calm) hu (fun hv => absurd hv h.vl)
    (by unfold loadedRegs; simp [hk, hvb]) fun _ => ⟨fun l hl => ?_, fun d hd => ?_, fun d hd l hl hlr => ?_, fun d hd i v hx => ?_⟩⟩
  · obtain ⟨j, -, ⟨q, -, rfl⟩ | rfl⟩ := hin l hl
    · exact ⟨_, List.mem_cons_self, rfl⟩
    · exact ⟨_, List.mem_cons_of_mem _ (List.mem_singleton_self _), rfl⟩
  · rcases List.mem_cons.mp hd with rfl | hd
    · exact ⟨h.reg, vtSew_width _⟩
    · obtain rfl := List.mem_singleton.mp hd
      exact ⟨hreg, by simp [elemWidth]⟩
  · rcases List.mem_cons.mp hd with rfl | hd
    · obtain ⟨j, hj, ⟨q, hq, rfl⟩ | rfl⟩ := hin l hl
      · exact ⟨rfl, if_pos (show (48 * j + q) / 48 < _ by omega)⟩
      · exact absurd hlr (Nat.succ_ne_self _)
    · obtain rfl := List.mem_singleton.mp hd
      obtain ⟨j, hj, ⟨q, hq, rfl⟩ | rfl⟩ := hin l hl
      · exact absurd hlr.symm (Nat.succ_ne_self _)
      · exact ⟨rfl, if_pos hj⟩
  · rcases List.mem_cons.mp hd with rfl | hd
    · have hi : i / 48 < (s.t.vl.toNat + 47) / 48 := by
        by_contra hn
        simp [hn] at hx
      exact ⟨_, hmem hi (mem_blockValues.mpr (.inl ⟨i % 48, Nat.mod_lt _ (by decide), rfl⟩)), rfl, Nat.div_add_mod i 48⟩
    · obtain rfl := List.mem_singleton.mp hd
      have hi : i < (s.t.vl.toNat + 47) / 48 := by
        by_contra hn
        simp [hn] at hx
      exact ⟨_, hmem hi (mem_blockValues.mpr (.inr rfl)), rfl, rfl⟩

end

/-! ### Loads of predicate bits -/

theorem putLoaded_pred_frame (t : Thread) {ls : List Loaded} (h : ∀ l ∈ ls, 32 ≤ l.reg) : ∃ p, putLoaded t ls = { t with p := p } := by
  induction ls generalizing t with
  | nil => exact ⟨_, rfl⟩
  | cons l ls ih =>
    obtain ⟨p, hp⟩ := ih (t.setPred (BitVec.ofNat 4 (l.reg - 32)) [(l.idx, l.val == 1)]) fun x hx => h x (List.mem_cons_of_mem _ hx)
    rw [putLoaded, if_neg (Nat.not_lt.mpr (h l List.mem_cons_self)), hp]
    exact ⟨_, rfl⟩

/-- A bit of a predicate after loaded bits were written. -/
theorem pred_putLoaded (t : Thread) (pd q : PReg) (f : Nat → Bool) (i : Nat) {ls : List Loaded}
    (h : ∀ l ∈ ls, l.reg = 32 + pd.toNat ∧ l.idx / t.lanes < 128 ∧ (l.val == 1) = f l.idx) :
    (putLoaded t ls).pred q i = if q = 0 then true else if q = pd ∧ (∃ l ∈ ls, l.idx = i) then f i else t.pred q i := by
  induction ls generalizing t with
  | nil =>
    by_cases hq : q = 0
    · subst hq; rfl
    · rw [if_neg hq]; simp [putLoaded]
  | cons l ls ih =>
    obtain ⟨hreg, hidx, hval⟩ := h l List.mem_cons_self
    have hpd : BitVec.ofNat 4 (l.reg - 32) = pd := by rw [hreg, Nat.add_sub_cancel_left]; simp
    have hset := pred_setPred t pd q [l.idx] f i (by simpa using hidx)
    rw [putLoaded, if_neg (by omega), hpd, hval,
      ih (t.setPred pd [(l.idx, f l.idx)]) fun x hx => h x (List.mem_cons_of_mem _ hx)]
    change (if q = 0 then true else if _ then f i else (t.setPred pd ([l.idx].map fun i => (i, f i))).pred q i) = _
    rw [hset]
    by_cases hq : q = 0
    · rw [if_pos hq, if_pos hq]
    · by_cases hp : q = pd
      · by_cases he : ∃ x ∈ ls, x.idx = i
        · simp [hp, he]
        · by_cases hl : l.idx = i
          · simp [hp, he, hl]
          · simp [hp, he, hl, Ne.symm hl]
      · simp [hp]

/-- The bits that a byte of a predicate gives, of those below VL (R156). -/
def bitValues (s : State) (reg : Nat) (bs : Nat → List Byte) (k : Nat) : List Loaded :=
  (List.range (min 8 (s.t.vl.toNat - 8 * k))).map fun j => ⟨32 + reg, 1, 8 * k + j, bits (ofBytes (bs k)) j 1⟩

theorem mem_bitValues {s : State} {reg k : Nat} {bs : Nat → List Byte} {l : Loaded} : l ∈ bitValues s reg bs k ↔
    ∃ j < 8, 8 * k + j < s.t.vl.toNat ∧ l = ⟨32 + reg, 1, 8 * k + j, bits (ofBytes (bs k)) j 1⟩ := by
  unfold bitValues
  rw [List.mem_map]
  refine ⟨fun ⟨j, hj, e⟩ => ?_, fun ⟨j, h8, hv, e⟩ => ⟨j, List.mem_range.mpr (by omega), e.symm⟩⟩
  have := List.mem_range.mp hj
  exact ⟨j, by omega, by omega, e.symm⟩

theorem bit_eq_one (x j : Nat) : (bits x j 1 == 1) = x.testBit j := by
  rw [Nat.testBit_eq_decide_div_mod_eq]; rfl

/-- A load of predicate bits whose bytes can be read (R156). -/
theorem exec_bits {rs1 : Reg} {pd : PReg} {s : State} {bs : Nat → List Byte} (hc : Claim.calm s) (hp : Claim.plainAccess s)
    (hr : ∀ k < (s.t.vl.toNat + 7) / 8, Claim.readable s (((s.t.readX rs1).toNat + k) % 2 ^ 64) 1 (bs k)) :
    ∃ t, exec (.vldP rs1 pd) s = .next t ∧
      (∀ q i, t.t.pred q i = if q = 0 then true
        else if q = pd ∧ i < s.t.vl.toNat then (ofBytes (bs (i / 8))).testBit (i % 8) else s.t.pred q i) ∧
      t = { s.advance with
        stamp := t.stamp, tick := t.tick, t := { s.advance.t with p := t.t.p, lastVector := t.t.lastVector } } := by
  obtain ⟨-, -, -, -, -, -, -, -, hdvt, -, hill, hlanes, hvl⟩ := id hc
  let w : MemWord := ⟨false, .unit, .bits, 0, pd.toNat⟩
  have hl : classLegal (.vldP rs1 pd) s.legalEnv = true := by
    change (!vtIll s.t.dvtype && true) = true
    rw [hdvt, hill]; rfl
  have hitems : memItems s.t w s.t.env none = List.range ((s.t.vl.toNat + 7) / 8) := rfl
  have hd : Delivers w (s.captureEntry (.vldP rs1 pd)) s.t.env none s (List.range ((s.t.vl.toNat + 7) / 8)) (bitValues s pd.toNat bs)
      fun _ => 0 := by
    intro k hk e z hz hea _ _
    have hread := hz.read hp (hr k (List.mem_range.mp hk))
    rw [← hz.agent] at hread
    have ha : e.a = s.t.readX rs1 := hea
    unfold loadItem
    simp only [w, ha]
    rw [hread]
    rfl
  obtain ⟨u, ⟨-, stamp, tick, lastVector, hu⟩, hnil, he⟩ := exec_delivers (w := w) hc hl rfl rfl MemKind.noConfusion
    (fun z hz => memReady_plain (.inr rfl) _ hz fun h => by rw [hitems, h]; rfl) hd
  rw [hitems] at hnil he
  by_cases hv : s.t.vl = 0
  · rw [if_pos hv] at he
    have hus := hnil (by rw [hv]; rfl)
    refine ⟨u, he, fun q i => ?_, by rw [hus]⟩
    have hno : ¬ (q = pd ∧ i < s.t.vl.toNat) := fun h => by rw [hv] at h; exact Nat.not_lt_zero _ h.2
    rw [if_neg hno, hus]
    by_cases hq : q = 0
    · rw [if_pos hq, hq]; rfl
    · rw [if_neg hq]; rfl
  · rw [if_neg hv] at he
    let got := (List.range ((s.t.vl.toNat + 7) / 8)).flatMap (bitValues s pd.toNat bs)
    have hin : ∀ l ∈ got, ∃ k, ∃ j < 8, 8 * k + j < s.t.vl.toNat ∧ l = ⟨32 + pd.toNat, 1, 8 * k + j, bits (ofBytes (bs k)) j 1⟩ := by
      intro l hl
      obtain ⟨k, -, hl⟩ := List.mem_flatMap.mp hl
      exact ⟨k, mem_bitValues.mp hl⟩
    have hex : ∀ i, (∃ l ∈ got, l.idx = i) ↔ i < s.t.vl.toNat := by
      intro i
      refine ⟨fun ⟨l, hl, hi⟩ => ?_, fun hi => ⟨_, List.mem_flatMap.mpr ⟨i / 8, List.mem_range.mpr (by omega),
        mem_bitValues.mpr ⟨i % 8, Nat.mod_lt _ (by decide), by omega, rfl⟩⟩, Nat.div_add_mod i 8⟩⟩
      obtain ⟨k, j, -, hlt, rfl⟩ := hin l hl
      exact hi ▸ hlt
    have hbits : ∀ l ∈ got, l.reg = 32 + pd.toNat ∧ l.idx / s.t.lanes < 128 ∧ (l.val == 1) = (ofBytes (bs (l.idx / 8))).testBit (l.idx % 8) := by
      intro l hl
      obtain ⟨k, j, hj, hlt, rfl⟩ := hin l hl
      refine ⟨rfl, (Nat.div_lt_iff_lt_mul hlanes).mpr (by dsimp only; omega), ?_⟩
      rw [show (8 * k + j) / 8 = k by omega, show (8 * k + j) % 8 = j by omega]
      exact bit_eq_one _ _
    have hpred := fun q i => pred_putLoaded u.t pd q (fun i => (ofBytes (bs (i / 8))).testBit (i % 8)) i (ls := got)
      (by rw [hu]; exact hbits)
    obtain ⟨p', hput⟩ := putLoaded_pred_frame u.t (ls := got) fun l hl => by rw [(hbits l hl).1]; omega
    rw [foldl_or_zero] at he
    have hres : writeLoaded (loadedRegs w s.t.vtype) got 0 u = { u with t := putLoaded u.t got } := by
      have hfl : u.t.fflags ||| 0 = u.t.fflags := BitVec.or_zero
      change ({ u with t := { putLoaded u.t got with fflags := (putLoaded u.t got).fflags ||| 0 } } : State) = _
      rw [hput, hfl]
    rw [hres] at he
    refine ⟨_, he, fun q i => ?_, ?_⟩
    · refine (hpred q i).trans ?_
      simp only [hex]
      rw [hu]
      rfl
    · rw [hput, hu]

/-! ### The words of each shape -/

/-- What the three addressing modes of a shape share holds of each. -/
theorem forall_modes {s : State} {size : Nat} {vs2 : VReg} {rs2 : Reg} {unit strided indexed : Instr} {P : Instr × (Nat → Int) → Prop}
    (hu : P (unit, fun k => (k * size : Nat))) (hs : P (strided, fun k => k * (s.t.readX rs2).toInt))
    (hi : P (indexed, fun k => (Claim.index s vs2 k : Nat))) : ∀ e ∈ Claim.modes s size vs2 rs2 unit strided indexed, P e := by
  intro e he
  simp only [Claim.modes, List.mem_cons, List.not_mem_nil, or_false] at he
  rcases he with rfl | rfl | rfl
  · exact hu
  · exact hs
  · exact hi

/-- A block format is that of a block region, and BF16 has none (R76). -/
theorem block_some {r : Region} {g : BFmt} (h : r.block = some g) : 4 ≤ r.fmt := by
  unfold Region.block at h
  split at h
  · omega
  · omega
  · omega
  · cases h

theorem block_none {r : Region} (h : r.block = none) (hf : 3 ≤ r.fmt ∧ r.fmt ≤ 6) : r.fmt = 3 := by
  obtain h3 | h4 | h5 | h6 : r.fmt = 3 ∨ r.fmt = 4 ∨ r.fmt = 5 ∨ r.fmt = 6 := by omega
  · exact h3
  · simp [Region.block, h4] at h
  · simp [Region.block, h5] at h
  · simp [Region.block, h6] at h

/-- The pair register of a raw word is one (R146). -/
theorem raw_pair {e : LegalEnv} {p : PReg} {vd : VReg} (h : e.raw p vd = true) : vd.toNat + 1 < 32 := by
  have hne : vd ≠ 31 := by simpa using (Bool.and_eq_true_iff.mp h).2
  have hlt := vd.isLt
  have : vd.toNat ≠ 31 := fun e => hne (BitVec.eq_of_toNat_eq e)
  omega

/-- The index group of a raw word fits its items, whichever they are (R143). -/
theorem rawFits {s : State} {w : MemWord} {vs2 : VReg} {r : Region} {n0 : Int} {a : DWord} (hm : w.mode = .indexed vs2)
    (hx : indexFits s.t.lanes s.core.rowcap vs2 (if vtBlock s.t.vtype then (s.t.vl.toNat + 47) / 48 else s.t.vl.toNat) = true)
    (hs : Claim.startsAt s .load a r n0) (hf : r.fmt = vtFmt s.t.vtype) : regionFits w s.t.env r s = true := by
  have hb : r.block.isSome = vtBlock s.t.vtype := by
    unfold vtBlock
    cases hb : r.block with
    | none => rw [← hf, block_none hb (region_fmt hs.1)]; rfl
    | some g => exact (decide_eq_true (hf ▸ block_some hb)).symm
  unfold regionFits
  rw [hm]
  simp only
  rw [hb]
  exact hx

section
variable {i : Instr} {w : MemWord} {s : State} {r : Region} {n0 : Int} {off : Nat → Int} {bs : Nat → List Byte} {va pair : Nat → Nat}

/-- A decoding load (R153): the region is of BF16, or of blocks and its index group fits. -/
theorem decodingLoad {vs2 : VReg} (hk : w.kind = .coded) (h : regionFits w s.t.env r s = true → RegionLoad i w s r n0 off)
    (hfit : r.block = none → regionFits w s.t.env r s = true)
    (hfits : r.block.isSome → indexFits s.t.lanes s.core.rowcap vs2 ((s.t.vl.toNat + 47) / 48) = true → regionFits w s.t.env r s = true) :
    (r.block = none →
      (∀ k, Claim.active s w.p k = true → Claim.item s .load r (n0 + off k) 0 2 (va k) ∧ Claim.readable s (va k) 2 (bs k)) →
      LoadsElements s i w fun k => let b := ofBytes (bs k)
        if vtFmt s.t.vtype = 3 then (b, 0) else Claim.narrow s bf16 (vtIeeeFmt s.t.vtype) (bf16.read (vtFlush s.t.vtype) b)) ∧
    (∀ g, r.block = some g → indexFits s.t.lanes s.core.rowcap vs2 ((s.t.vl.toNat + 47) / 48) = true →
      (∀ k, Claim.active s w.p k = true →
        let n := 48 * n0 + off k
        let q := (n % 48).toNat * g.width
        Claim.item s .load r (n / 48) (q / 8) ((q + g.width - 1) / 8 - q / 8 + 1) (va k) ∧
        s.readPair s.agent r (n / 48).toNat (va k) = .ok (pair k, s) ∧
        Claim.readable s (va k) ((q + g.width - 1) / 8 - q / 8 + 1) (bs k)) →
      LoadsElements s i w fun k =>
        let q := ((48 * n0 + off k) % 48).toNat * g.width
        let v := g.decode (ofBytes (bs k) / 2 ^ (q % 8) % 2 ^ g.width) (pair k)
        Claim.once (vtIeeeFmt s.t.vtype) s.t.frm (vtFlush s.t.vtype) v) := by
  refine ⟨fun hb hr => ?_, fun g hb hx hr => ?_⟩
  · have hl := h (hfit hb)
    exact hl.elements hb (by unfold blockwise; simp [hk, hl.load]) (by unfold loadedRegs; rw [hk]) hr
  · exact (h (hfits (by rw [hb]; rfl) hx)).decoded hk hb hr

/-- A raw load (R155): of BF16 elements, or of blocks with their pairs. -/
theorem rawLoad (hk : w.kind = .raw) (h : RegionLoad i w s r n0 off) (hreg : w.reg + 1 < 32) :
    (r.block = none →
      (∀ k, Claim.active s w.p k = true → Claim.item s .load r (n0 + off k) 0 2 (va k) ∧ Claim.readable s (va k) 2 (bs k)) →
      LoadsElements s i w fun k => (ofBytes (bs k), 0)) ∧
    (∀ g, r.block = some g → vtBlockFmt s.t.vtype = g →
      (∀ j < (s.t.vl.toNat + 47) / 48, Claim.item s .load r (n0 + off j) 0 (6 * g.width) (va j) ∧
        s.readPair s.agent r (n0 + off j).toNat (va j) = .ok (pair j, s) ∧ Claim.readable s (va j) (6 * g.width) (bs j)) →
      ∃ t, exec i s = .next t ∧ Claim.loaded s t
        [(w.reg, vtSew s.t.vtype, fun i => if i / 48 < (s.t.vl.toNat + 47) / 48 then some (rawValue s w.reg g bs i) else none),
         (w.reg + 1, 32, fun j => if j < (s.t.vl.toNat + 47) / 48 then some (pair j) else none)] 0) := by
  have hfmt := h.fmt hk
  refine ⟨fun hb hr => ?_, fun g hb _ hr => h.blocks hk hb (decide_eq_true (hfmt ▸ block_some hb)) hreg hr⟩
  have h3 : vtFmt s.t.vtype = 3 := hfmt ▸ block_none hb (region_fmt h.starts.1)
  have hvb : vtBlock s.t.vtype = false := by unfold vtBlock; rw [h3]; rfl
  have hl := h.elements hb (by unfold blockwise; rw [hk]; exact hvb) (by unfold loadedRegs; simp [hk, hvb]) hr
  simpa only [if_pos h3] using hl

end

/-- Settles O18: each item of a load reads in every later state what it reads in the first, since nothing that a read sees changes
between its steps. -/
theorem vectorRegionMultivectorAndPredicateLoads : Obligations.VectorRegionMultivectorAndPredicateLoads := by
  intro p vs2 rs2 rs1 vd pd s bs pair va r n0 hc hp w size f fl act flags does
  obtain ⟨-, -, -, -, -, -, -, -, hvt, hvl, -⟩ := id hc
  refine ⟨forall_modes ?_ ?_ ?_, forall_modes ?_ ?_ ?_, forall_modes ?_ ?_ ?_, exec_bits hc hp⟩
  · intro a hl hr
    exact exec_multi (w := ⟨false, .unit, .multi, p, vd.toNat⟩) hc hp hl (Bool.and_eq_true_iff.mp hl).2 rfl rfl rfl vd.isLt (fun _ => rfl) hr
  · intro a hl hr
    exact exec_multi (w := ⟨false, .strided, .multi, p, vd.toNat⟩) hc hp hl (Bool.and_eq_true_iff.mp hl).2 rfl rfl rfl vd.isLt (fun _ => rfl) hr
  · intro a hl hr
    have hg := (Bool.and_eq_true_iff.mp (Bool.and_eq_true_iff.mp hl).2).1
    exact exec_multi (w := ⟨false, .indexed vs2, .multi, p, vd.toNat⟩) hc hp hl hg rfl rfl rfl vd.isLt (fun _ => rfl) hr
  · intro hl hk hs
    exact decodingLoad (w := ⟨false, .unit, .coded, p, vd.toNat⟩) rfl
      (fun hfit => ⟨hc, hp, hl, rfl, rfl, .inl rfl, vd.isLt, hfit, hk, hs, MemKind.noConfusion, fun _ => rfl⟩) (fun _ => rfl) (fun _ _ => rfl)
  · intro hl hk hs
    exact decodingLoad (w := ⟨false, .strided, .coded, p, vd.toNat⟩) rfl
      (fun hfit => ⟨hc, hp, hl, rfl, rfl, .inl rfl, vd.isLt, hfit, hk, hs, MemKind.noConfusion, fun _ => rfl⟩) (fun _ => rfl) (fun _ _ => rfl)
  · intro hl hk hs
    have hx : indexFits s.t.lanes s.core.rowcap vs2 s.t.dvl.toNat = true :=
      (Bool.and_eq_true_iff.mp (Bool.and_eq_true_iff.mp hl).2).2
    rw [hvl] at hx
    refine decodingLoad (w := ⟨false, .indexed vs2, .coded, p, vd.toNat⟩) rfl
      (fun hfit => ⟨hc, hp, hl, rfl, rfl, .inl rfl, vd.isLt, hfit, hk, hs, MemKind.noConfusion, fun _ => rfl⟩) (fun hb => ?_) (fun hb hx => ?_)
    · unfold regionFits; rw [hb]; exact hx
    · unfold regionFits; rw [hb]; exact hx
  · intro hl hk hs hf
    exact rawLoad (w := ⟨false, .unit, .raw, p, vd.toNat⟩) rfl
      ⟨hc, hp, hl, rfl, rfl, .inr rfl, vd.isLt, rfl, hk, hs, fun _ => hf, fun _ => rfl⟩ (raw_pair (Bool.and_eq_true_iff.mp hl).2)
  · intro hl hk hs hf
    exact rawLoad (w := ⟨false, .strided, .raw, p, vd.toNat⟩) rfl
      ⟨hc, hp, hl, rfl, rfl, .inr rfl, vd.isLt, rfl, hk, hs, fun _ => hf, fun _ => rfl⟩ (raw_pair (Bool.and_eq_true_iff.mp hl).2)
  · intro hl hk hs hf
    obtain ⟨hraw, hx⟩ := Bool.and_eq_true_iff.mp (Bool.and_eq_true_iff.mp hl).2
    change indexFits s.t.lanes s.core.rowcap vs2 (if vtBlock s.t.dvtype then (s.t.dvl.toNat + 47) / 48 else s.t.dvl.toNat) = true at hx
    rw [hvt, hvl] at hx
    exact rawLoad (w := ⟨false, .indexed vs2, .raw, p, vd.toNat⟩) rfl
      ⟨hc, hp, hl, rfl, rfl, .inr rfl, vd.isLt, rawFits rfl hx hs hf, hk, hs, fun _ => hf, fun _ => rfl⟩ (raw_pair hraw)

end Sys2Proof.Machine
end

section
namespace Sys2Proof.Machine

/-! # Translation, the checks of an access, and the scratchpad window (R81, R371 to R377, R449) -/

/-! ### Translation caches -/

theorem sameButCaches_refl (s : State) : Claim.sameButCaches s s := rfl

theorem sameButCaches_trans {s u v : State} (h : Claim.sameButCaches s u) (k : Claim.sameButCaches u v) : Claim.sameButCaches s v := by
  unfold Claim.sameButCaches at h k ⊢
  rw [k, h]

/-- Who the thread in focus is does not depend on translation caches. -/
theorem sameButCaches_agent {s u : State} (h : Claim.sameButCaches s u) : u.agent = s.agent := by rw [h]; rfl

theorem sameButCaches_ch {s u : State} (h : Claim.sameButCaches s u) : u.ch = s.ch := by rw [h]

/-- What a thread fills are the caches of its own core and bay (R376). -/
theorem fill_sameButCaches (s : State) (e : TlbEntry) : Claim.sameButCaches s (s.fill s.agent e) := by
  unfold State.fill
  split
  · simp only [State.agent, State.setCore, State.setBay, State.coreAt, State.bayAt, if_true]; rfl
  · exact sameButCaches_refl s

/-- A translation for the thread in focus leaves the state, or fills a translation. -/
theorem translate_sameButCaches {s u : State} {acc : Access} {va pa r : Nat} (h : s.translate s.agent acc va = .ok ((pa, r), u)) :
    Claim.sameButCaches s u := by
  unfold State.translate at h
  simp only [raise] at h
  split at h
  · cases h
  split at h
  · split at h
    · cases h; exact sameButCaches_refl s
    · cases h
  · split at h
    · cases h
    · rename_i hl
      obtain rfl := leafFor_ok hl
      split at h
      · cases h; exact fill_sameButCaches _ _
      · cases h

/-- The checks of a write within a line leave what their translation leaves. -/
theorem checkPart_translate {s u : State} {ag : Agent} {acc : Access} {va n pa : Nat} (h : s.checkPart ag acc va n = .ok (pa, u)) :
    ∃ r, s.translate ag acc va = .ok ((pa, r), u) := by
  unfold State.checkPart at h
  split at h
  · cases h
  · rename_i ht
    simp only [hold] at h
    split_ifs at h
    · cases h; exact ⟨_, ht⟩
    · split at h
      · cases h
      · obtain rfl := checkLine_ok ‹_›
        cases h; exact ⟨_, ht⟩

/-- A read that succeeds for the thread in focus changes at most its translation caches. -/
theorem readParts_sameButCaches {s u : State} {acc : Access} {k : Nat} {l : List (Nat × Nat)} {bs : List Byte}
    (h : s.readParts s.agent acc k l = .ok (bs, u)) : Claim.sameButCaches s u := by
  induction l generalizing s bs with
  | nil => simp only [State.readParts] at h; cases h; exact sameButCaches_refl _
  | cons e l ih =>
    simp only [State.readParts] at h
    split at h
    · cases h
    · rename_i b t hp
      obtain ⟨pa, r, ht, -⟩ := readPart_ok hp
      have hs := translate_sameButCaches ht
      rw [← sameButCaches_agent hs] at h
      split at h
      · cases h
      · cases h
        exact sameButCaches_trans hs (ih ‹_›)

/-! ### The parts of a byte range -/

/-- Part i of a byte range runs from the later of the range's start and line i's to the earlier of their ends: the first n parts together
reach the end of line n - 1, or of the range (R7). -/
theorem lineParts_partial (va len n : Nat) (hn : 0 < n) (hlen : 0 < len) (hk : n ≤ (va % 128 + len + 127) / 128) :
    ((List.range n).map fun i => min (va + len) ((va / 128 + i + 1) * 128) - max va ((va / 128 + i) * 128)).sum =
      min (va + len) ((va / 128 + n) * 128) - va := by
  induction n with
  | zero => omega
  | succ n ih =>
    rw [List.range_succ, List.map_append, List.sum_append, List.map_singleton, List.sum_singleton]
    rcases Nat.eq_zero_or_pos n with rfl | h0
    · simp; omega
    · rw [ih h0 (by omega)]; omega

/-- The parts of a byte range have its length together (R7). -/
theorem lineParts_sum (va n : Nat) : ((lineParts va n).map fun e => e.2).sum = n := by
  unfold lineParts
  rcases Nat.eq_zero_or_pos n with rfl | h0
  · rfl
  · rw [if_neg (by omega), List.map_map]
    refine (lineParts_partial va n _ (by omega) h0 le_rfl).trans ?_
    omega

theorem accessChecksChangeOnlyCaches : Claim.AccessChecksChangeOnlyCaches := by
  intro s u acc k va n pa r bs
  refine ⟨fun h => ⟨translate_sameButCaches h, (translate_ok h).2⟩, fun h => ?_, fun h => ?_, fun h hseg => ?_⟩
  · obtain ⟨r, ht⟩ := checkPart_translate h
    exact ⟨translate_sameButCaches ht, (translate_ok ht).2⟩
  · obtain ⟨-, hfill, hlen⟩ := readParts_ok h
    exact ⟨readParts_sameButCaches h, hfill, hlen.trans (lineParts_sum va n)⟩
  · obtain ⟨pa, r, ht, rfl⟩ := readPart_ok h
    refine ⟨pa, r, u, ht, List.map_congr_left fun i _ => ?_⟩
    have hs := translate_sameButCaches ht
    have hu : u.segment s.agent = none := by rw [hs]; exact hseg
    have hm : u.mem = s.mem := by rw [hs]
    unfold State.byteFor Claim.byte
    rw [hu, hm]

/-! ### The page walk (R372 to R375) -/

/-- A well-formed leaf (R374), as the walk checks it below the root. -/
theorem leafOk_iff {level e : Nat} (hl : level ≠ 4) (he : e < 2 ^ 64) :
    bits e 0 1 ≠ 0 ∧ bits e 1 3 ≠ 0 ∧ leafOk level e = true ↔ Claim.isLeaf e (pageLog level) := by
  have hd : decide (level ≠ 4) = true := decide_eq_true hl
  have h62 : e / 2 ^ 62 % 2 ^ 2 = e / 2 ^ 62 := Nat.mod_eq_of_lt (by omega)
  have h0 : e / 2 ^ 0 % 2 ^ 1 ≠ 0 ↔ e % 2 = 1 := by omega
  unfold leafOk Claim.isLeaf bits
  rw [hd, h62, h0]
  simp only [Bool.true_and, Bool.and_eq_true, beq_iff_eq, bne_iff_ne, and_assoc]
  rfl

/-- A table entry that the walk goes on from is well formed (R373, R375): with `isTable_ok`, such entries and no others. -/
theorem isTable_of_ok {s : State} {part level e : Nat} (he : e < 2 ^ 64) (hv : bits e 0 1 ≠ 0) (hok : tableOk s part level e = true) :
    Claim.isTable s part e (if level = 2 then 256 else 4096) := by
  have h60 : e / 2 ^ 60 % 2 ^ 4 = e / 2 ^ 60 := Nat.mod_eq_of_lt (by omega)
  have hv : e / 2 ^ 0 % 2 ^ 1 ≠ 0 := hv
  simp only [tableOk, Bool.and_eq_true, beq_iff_eq] at hok
  obtain ⟨⟨⟨⟨-, h6⟩, h7⟩, ha⟩, hs⟩ := hok
  exact ⟨by omega, h7, h60.symm.trans h6, ha, hs⟩

/-- The entry that a walk reads in a table at a level (R372). -/
def walkEntry (s : State) (va level table : Nat) : Nat := Claim.entry s (table + 8 * walkIndex level va)

section
variable {s : State} {ctx part va level table : Nat}

/-- A table read that finds a well-formed table entry goes on at its table. -/
theorem walkLevel_table (h : s.inStack part table = true) (hl : ∀ line, s.lineOk line = true) (h2 : 2 ≤ level)
    (ht : Claim.isTable s part (walkEntry s va level table) (if level = 2 then 256 else 4096)) :
    walkLevel s ctx part va level table = .ok (.table (walkEntry s va level table / 2 ^ 8 % 2 ^ 52 * 256), s) := by
  obtain ⟨hv, hx, hok⟩ := isTable_ok h2 ht
  exact (walkLevel_entry h (hl _)).trans ((if_neg hv).trans ((if_pos hx).trans (if_pos hok)))

/-- A table read that finds a well-formed leaf ends the walk there. -/
theorem walkLevel_leaf (h : s.inStack part table = true) (hl : ∀ line, s.lineOk line = true) (h4 : level ≠ 4)
    (hf : Claim.isLeaf (walkEntry s va level table) (pageLog level)) :
    walkLevel s ctx part va level table = .ok (.leaf (walkEntry s va level table), s) := by
  obtain ⟨hv, hx, hok⟩ := (leafOk_iff h4 (entry_lt _ _)).mpr hf
  exact (walkLevel_entry h (hl _)).trans ((if_neg hv).trans ((if_neg hx).trans (if_pos hok)))

/-- A table read that finds neither meets the translation cause. -/
theorem walkLevel_neither (h : s.inStack part table = true) (hl : ∀ line, s.lineOk line = true)
    (ht : level = 1 ∨ ¬ Claim.isTable s part (walkEntry s va level table) (if level = 2 then 256 else 4096))
    (hf : level = 4 ∨ ¬ Claim.isLeaf (walkEntry s va level table) (pageLog level)) :
    walkLevel s ctx part va level table = raise s cause.translation (BitVec.ofNat 64 va) := by
  refine (walkLevel_entry h (hl _)).trans ?_
  change (if bits (walkEntry s va level table) 0 1 = 0 then _ else if bits (walkEntry s va level table) 1 3 = 0 then
    if tableOk s part level (walkEntry s va level table) = true then _ else _
    else if leafOk level (walkEntry s va level table) = true then _ else _) = _
  by_cases hv : bits (walkEntry s va level table) 0 1 = 0
  · exact if_pos hv
  rw [if_neg hv]
  by_cases hx : bits (walkEntry s va level table) 1 3 = 0
  · rw [if_pos hx, if_neg]
    intro hok
    rcases ht with rfl | ht
    · simp [tableOk] at hok
    · exact ht (isTable_of_ok (entry_lt _ _) hv hok)
  · rw [if_neg hx, if_neg]
    intro hok
    rcases hf with rfl | hf
    · simp [leafOk] at hok
    · refine hf ((leafOk_iff ?_ (entry_lt _ _)).mp ⟨hv, hx, hok⟩)
      rintro rfl; simp [leafOk] at hok

theorem walk_table {t : Nat} (h : walkLevel s ctx part va (level + 1) table = .ok (.table t, s)) :
    walk s ctx part va (level + 1) table = walk s ctx part va level t := by
  rw [walk, h]

theorem walk_leaf {e : Nat} (h : walkLevel s ctx part va (level + 1) table = .ok (.leaf e, s)) :
    walk s ctx part va (level + 1) table = .ok ((e, level + 1), s) := by
  rw [walk, h]

theorem walk_raise {c : Cause} {v : DWord} (h : walkLevel s ctx part va (level + 1) table = raise s c v) :
    walk s ctx part va (level + 1) table = raise s c v := by
  rw [walk, h]; rfl

end

/-- The walk from a table at a level above the lowest and below the root's, by the entry there (R372, R373, R375). -/
theorem walk_cases {s : State} {ctx part va level table e align log : Nat} (h : s.inStack part table = true) (hl : ∀ line, s.lineOk line = true)
    (he : walkEntry s va (level + 1) table = e) (ha : (if level + 1 = 2 then 256 else 4096) = align) (hp : pageLog (level + 1) = log) :
    (2 ≤ level + 1 → Claim.isTable s part e align → walk s ctx part va (level + 1) table = walk s ctx part va level (e / 2 ^ 8 % 2 ^ 52 * 256)) ∧
    (level + 1 ≠ 4 → Claim.isLeaf e log → walk s ctx part va (level + 1) table = .ok ((e, level + 1), s)) ∧
    ((level + 1 = 1 ∨ ¬ Claim.isTable s part e align) → (level + 1 = 4 ∨ ¬ Claim.isLeaf e log) →
      walk s ctx part va (level + 1) table = raise s cause.translation (BitVec.ofNat 64 va)) := by
  subst he ha hp
  exact ⟨fun h1 ht => walk_table (walkLevel_table h hl h1 ht), fun h4 hf => walk_leaf (walkLevel_leaf h hl h4 hf),
    fun ht hf => walk_raise (walkLevel_neither h hl ht hf)⟩

/-- The permission of a leaf (R374, R375). -/
theorem leafAllows_iff (s : State) (part : Nat) (level : Bool) (acc : Access) (e pa : Nat) :
    leafAllows s part level acc e pa = true ↔ Claim.permits s part level acc e pa := by
  have hspace : (if bits e 60 2 = 0 then s.inStack part pa else s.inPool part pa (bits e 60 2 == 2)) = true ↔
      if e / 2 ^ 60 % 4 = 0 then s.inStack part pa = true else s.inPool part pa (e / 2 ^ 60 % 4 == 2) = true := by
    change (if e / 2 ^ 60 % 4 = 0 then _ else _) = true ↔ _
    split <;> rfl
  unfold leafAllows Claim.permits
  dsimp only
  rw [Bool.and_eq_true, Bool.and_eq_true, hspace, Bool.or_eq_true, and_assoc]
  refine and_congr_right fun _ => and_congr (by rw [beq_iff_eq]; rfl) ?_
  cases acc <;> simp [bits]

section
variable {s : State} {ag : Agent} {acc : Access} {va : Nat}

/-- An address of more than 48 bits (R371). -/
theorem translate_wide (h : 2 ^ 48 ≤ va) : s.translate ag acc va = raise s cause.translation (BitVec.ofNat 64 va) := by
  unfold State.translate; exact if_pos h

/-- A translation outside the scratchpad window goes by the page that holds the address (R371, R372). -/
theorem translate_paged (hva : va < 2 ^ 48)
    (h : acc = .fetch ∨ ag.core = none ∨ va < (s.ctxAt ag.ctx).spbase.toNat ∨ (s.ctxAt ag.ctx).spbase.toNat + 2 ^ 21 ≤ va) :
    s.translate ag acc va = match s.leafFor ag va with
      | .error e => .error e
      | .ok ((e, size), u) =>
        if leafAllows u (s.ctxAt ag.ctx).part ag.level acc e (leafAddress e size va % poolBase) then
          .ok ((leafAddress e size va, bits e 8 8), u.fill ag (u.entryFor ag va e size))
        else raise u cause.permission (BitVec.ofNat 64 va) := by
  unfold State.translate
  dsimp only
  rw [if_neg (Nat.not_le.mpr hva)]
  split
  · rename_i hk hw
    have hw := of_decide_eq_true hw
    rcases h with h | h | h
    · rw [if_pos h] at hk; cases hk
    · rw [h, ite_self] at hk; cases hk
    · omega
  · rfl

/-- The leaf for an address where no cached translation is used (R372). -/
theorem leafFor_walk (hu : s.ch.useCached = false) : s.leafFor ag va =
    match walk s ag.ctx (s.ctxAt ag.ctx).part va 4 (s.ctxAt ag.ctx).root with
    | .error e => .error e
    | .ok ((e, level), u) => .ok ((e, pageLog level), u) := by
  unfold State.leafFor
  rw [cached_none hu] <;> rfl

/-- What a walk that finds a leaf gives: its page's address and region, or the permission cause (R374, R375). -/
theorem translate_leaf {e level : Nat} (hva : va < 2 ^ 48)
    (h : acc = .fetch ∨ ag.core = none ∨ va < (s.ctxAt ag.ctx).spbase.toNat ∨ (s.ctxAt ag.ctx).spbase.toNat + 2 ^ 21 ≤ va)
    (hu : s.ch.useCached = false) (hw : walk s ag.ctx (s.ctxAt ag.ctx).part va 4 (s.ctxAt ag.ctx).root = .ok ((e, level), s)) :
    let pa := leafAddress e (pageLog level) va
    (Claim.permits s (s.ctxAt ag.ctx).part ag.level acc e (pa % poolBase) → ∃ u, s.translate ag acc va = .ok ((pa, e / 2 ^ 8 % 2 ^ 8), u)) ∧
    (¬ Claim.permits s (s.ctxAt ag.ctx).part ag.level acc e (pa % poolBase) →
      s.translate ag acc va = raise s cause.permission (BitVec.ofNat 64 va)) := by
  intro pa
  have ht := translate_paged hva h
  rw [leafFor_walk hu, hw] at ht
  refine ⟨fun hp => ⟨_, ht.trans (if_pos ((leafAllows_iff ..).mpr hp))⟩, fun hp => ht.trans (if_neg (mt (leafAllows_iff ..).mp hp))⟩

/-- A walk that meets a cause gives it (R373, R375). -/
theorem translate_raise {c : Cause} {v : DWord} (hva : va < 2 ^ 48)
    (h : acc = .fetch ∨ ag.core = none ∨ va < (s.ctxAt ag.ctx).spbase.toNat ∨ (s.ctxAt ag.ctx).spbase.toNat + 2 ^ 21 ≤ va)
    (hu : s.ch.useCached = false) (hw : walk s ag.ctx (s.ctxAt ag.ctx).part va 4 (s.ctxAt ag.ctx).root = raise s c v) :
    s.translate ag acc va = raise s c v := by
  rw [translate_paged hva h, leafFor_walk hu, hw]; rfl

end

theorem pageWalk : Claim.PageWalk := by
  intro s ag acc va hu hl c root e4 e3 e2 e1 no page
  refine ⟨translate_wide, fun hva hwin => ?_⟩
  have hno : walk s ag.ctx c.part va 4 root = raise s cause.translation (BitVec.ofNat 64 va) → no cause.translation :=
    translate_raise hva hwin hu
  have hpage : ∀ {e level log : Nat}, pageLog level = log → walk s ag.ctx c.part va 4 root = .ok ((e, level), s) → page e log := by
    rintro e level log rfl hw
    exact translate_leaf hva hwin hu hw
  have cases4 := fun h => walk_cases (s := s) (ctx := ag.ctx) (part := c.part) (va := va) (level := 3) (table := root) (e := e4) h hl rfl rfl rfl
  have cases3 := fun h => walk_cases (s := s) (ctx := ag.ctx) (part := c.part) (va := va) (level := 2) (table := e4 / 2 ^ 8 % 2 ^ 52 * 256)
    (e := e3) h hl rfl rfl rfl
  have cases2 := fun h => walk_cases (s := s) (ctx := ag.ctx) (part := c.part) (va := va) (level := 1) (table := e3 / 2 ^ 8 % 2 ^ 52 * 256)
    (e := e2) h hl rfl rfl rfl
  have cases1 := fun h => walk_cases (s := s) (ctx := ag.ctx) (part := c.part) (va := va) (level := 0) (table := e2 / 2 ^ 8 % 2 ^ 52 * 256)
    (e := e1) h hl rfl rfl rfl
  refine ⟨fun h => ?_, fun hroot h4 => ?_⟩
  · by_cases hroot : s.inStack c.part root = true
    · have ht : ¬ Claim.isTable s c.part e4 4096 := h.resolve_left fun hf => by rw [hroot] at hf; cases hf
      exact hno ((cases4 hroot).2.2 (.inr ht) (.inl rfl))
    · exact hno (walk_raise (walkLevel_outside (Bool.eq_false_iff.mpr hroot)))
  have hw4 := (cases4 hroot).1 (by decide) h4
  obtain ⟨-, -, -, -, hin3⟩ := h4
  obtain ⟨htable3, hleaf3, hbad3⟩ := cases3 hin3
  refine ⟨fun hf => hpage rfl (hw4.trans (hleaf3 (by decide) hf)), fun ht hf => hno (hw4.trans (hbad3 (.inr ht) (.inr hf))), fun h3 => ?_⟩
  have hw3 := hw4.trans (htable3 (by decide) h3)
  obtain ⟨-, -, -, -, hin2⟩ := h3
  obtain ⟨htable2, hleaf2, hbad2⟩ := cases2 hin2
  refine ⟨fun hf => hpage rfl (hw3.trans (hleaf2 (by decide) hf)), fun ht hf => hno (hw3.trans (hbad2 (.inr ht) (.inr hf))), fun h2 => ?_⟩
  have hw2 := hw3.trans (htable2 (by decide) h2)
  obtain ⟨-, -, -, -, hin1⟩ := h2
  obtain ⟨-, hleaf1, hbad1⟩ := cases1 hin1
  exact ⟨fun hf => hpage rfl (hw2.trans (hleaf1 (by decide) hf)), fun hf => hno (hw2.trans (hbad1 (.inl rfl) (.inr hf)))⟩

/-! ### The scratchpad window (R371) -/

theorem scratchpadWindow : Claim.ScratchpadWindow := by
  intro s acc va hacc hva hlo hhi
  have hctx : s.ctxAt s.agent.ctx = s.ctx := if_pos rfl
  have hcore : s.coreAt (coreOf s.pos) = s.core := if_pos rfl
  have hwin : decide (s.ctx.spbase.toNat ≤ va ∧ va < s.ctx.spbase.toNat + 2 ^ 21) = true := decide_eq_true ⟨hlo, hhi⟩
  have ht : s.translate s.agent acc va = if va - s.ctx.spbase.toNat < s.core.spcap * 2 ^ 18 then
      .ok ((scratchBase (coreOf s.pos) s.t.ctx + (va - s.ctx.spbase.toNat), 0), s)
      else raise s cause.translation (BitVec.ofNat 64 va) := by
    unfold State.translate
    dsimp only
    rw [if_neg (Nat.not_le.mpr hva), hctx, if_neg hacc, hwin]
    change (if va - s.ctx.spbase.toNat < (s.coreAt (coreOf s.pos)).spcap * 2 ^ 18 then _ else _) = _
    rw [hcore]; rfl
  exact ⟨fun h => ht.trans (if_pos h), fun h => ht.trans (if_neg (Nat.not_lt.mpr h))⟩

/-- Settles O7: what a thread's checks change is what its translation fills, the walk goes level by level, and the window is apart from it. -/
theorem translationAndAccessChecks : Obligations.TranslationAndAccessChecks :=
  ⟨accessChecksChangeOnlyCaches, pageWalk, scratchpadWindow⟩

end Sys2Proof.Machine
end

section
namespace Sys2Proof.Machine

/-! # The vector float words (R60 to R65, R119, R122, R123) -/

/-! ### A word that meets no memory, on a vector side at rest -/

/-- A word that VTYPE and VL make illegal is refused (R36). -/
theorem refused_of_illegal {i : Instr} {s : State} (hc : Claim.calm s) (he : exec i s = issue i s) (hm : isMarker i = false)
    (hh : heldWord i = false) (hl : classLegal i s.legalEnv = false) : Claim.refused s i := by
  obtain ⟨hi, -, -, -, hch, -⟩ := hc
  have hd : s.decodeEntry i = none := by
    unfold State.decodeEntry
    simp only [hm, hch, Bool.false_eq_true, if_false, hl, Bool.and_false, Bool.false_and]
  rw [Claim.refused, he]
  unfold issue
  rw [hi, standing_of_not_held hh, hd]
  rfl

/-- What a word that neither holds the stream nor meets memory comes to at the head of its queue, it comes to at once. -/
theorem exec_commits {i : Instr} {s r : State} (hc : Claim.calm s) (hl : classLegal i s.legalEnv = true) (hs : Claim.enteringSpecially i = false)
    (ht : tileOnly i = false) (hh : heldWord i = false) (hm : ∀ q, i ≠ .modet q)
    (hrun : entryRun none (s.captureEntry i) { s.advance with t := { s.advance.t with queue := [s.captureEntry i] } } =
      .commit { r with t := { r.t with queue := [s.captureEntry i] } })
    (hq : r.t.queue = []) (hp : r.t.posted = s.t.posted) (hsc : r.t.scalars = s.t.scalars) : exec i s = .next r := by
  obtain ⟨hi, hsq, hsp, hss, hch, hti, hts, hr, -⟩ := hc
  obtain ⟨a, b, h1, h2, he⟩ := captureEntry_frame s i
  have hde : decodeEffect i (s.captureEntry i) s.t = s.t := decodeEffect_plain hs ht _ _
  rw [exec_eq_issue hl hs]
  rw [← advance_queue s _ hch] at hrun
  have h := issue_commits (u := { r with t := { r.t with queue := [s.captureEntry i] } }) (e := s.captureEntry i) hi hsq hr hh (by rw [he])
    (decodeEntry_plain hl hs hch hti ht) (issueToken_plain hs _ _) (by rw [entrySlots_plain hs]; decide) hm (by rw [hde]; exact hi)
    (by rw [hde]; exact hts) (by rw [hde]; exact hrun) rfl (hp.trans hsp) (hsc.trans hss)
  exact h.trans (congrArg Host.Outcome.next (queue_empty hq))

/-- The state in which an element-wise word takes effect at the head of its queue: its flags are kept apart until it commits. -/
def headState (s : State) (i : Instr) : State :=
  { s.advance with t := { s.advance.t with queue := [s.captureEntry i], fflags := 0 } }

/-- What the word leaves as it commits, by the state that its effect leaves. -/
def afterEffect (s u : State) : State :=
  { s.advance with t := { s.advance.t with v := u.t.v, tags := u.t.tags, fflags := s.t.fflags ||| u.t.fflags } }

/-- The flags of the elements of a list, behind others. -/
theorem foldl_or_start {α : Type} (l : List α) (fl : α → Flags) (g : Flags) :
    l.foldl (fun g i => g ||| fl i) g = g ||| l.foldl (fun g i => g ||| fl i) 0 := by
  induction l generalizing g with
  | nil => simp
  | cons a l ih => rw [List.foldl_cons, List.foldl_cons, ih, ih (0 ||| fl a)]; simp [BitVec.or_assoc]

/-- An element-wise word does nothing of its own as it enters the queue, and is no word of tile mode or of a held result. -/
theorem elementWise_plain {i : Instr} (h : elementWise i = true) :
    Claim.enteringSpecially i = false ∧ tileOnly i = false ∧ heldWord i = false ∧ ∀ q, i ≠ .modet q := by
  cases i with
  | vadd | vsub | vmul | vmulh | vmulhu | vmacc | vand | vor | vxor | vsll | vsrl | vsra | vmin | vmax | vminu | vmaxu | vfadd | vfsub
  | vfmul | vfdiv | vfsqrt | vfmacc | vfnmsac | vfmin | vfmax | vfsgnj | vfrsqrte | vfclass | vmix | vfmerge | pand | por | pxor | pandn
  | pnot | pset | pclr | pmerge | vcmpeq | vcmpne | vcmplt | vcmpltu | vcmpge | vfcmpeq | vfcmplt | vfcmple =>
    exact ⟨rfl, rfl, rfl, fun _ => Instr.noConfusion⟩
  | _ => exact Bool.noConfusion h

/-- An element-wise word meets no memory. -/
theorem entryRun_effect {limit : Option Nat} {e : VEntry} {z : State} {r : VRes} (h : elementWise e.instr = true)
    (hr : effectRun limit e z = some r) : entryRun limit e z = r := by
  rcases e with ⟨⟨_, i⟩⟩
  cases i with
  | vadd | vsub | vmul | vmulh | vmulhu | vmacc | vand | vor | vxor | vsll | vsrl | vsra | vmin | vmax | vminu | vmaxu | vfadd | vfsub
  | vfmul | vfdiv | vfsqrt | vfmacc | vfnmsac | vfmin | vfmax | vfsgnj | vfrsqrte | vfclass | vmix | vfmerge | pand | por | pxor | pandn
  | pnot | pset | pclr | pmerge | vcmpeq | vcmpne | vcmplt | vcmpltu | vcmpge | vfcmpeq | vfcmplt | vfcmple =>
    unfold entryRun
    dsimp only [memWord, postWord]
    rw [hr]
  | _ => exact Bool.noConfusion h

/-- An element-wise word outside a chain that has not begun runs over all its elements, its flags kept apart until it commits (R220, R221). -/
theorem effectRun_whole {e : VEntry} {z : State} (he : elementWise e.instr = true) (hc : e.chain = none) (hp : e.prog = 0) (hf : e.flags = 0) :
    effectRun none e z = (vectorEffect e.instr e z.t.env { z with t := { z.t with fflags := 0 } }).map fun r =>
      .commit { r with t := { r.t with fflags := z.t.fflags ||| r.t.fflags } } := by
  have henv : entryEnv z.t e = z.t.env := by unfold entryEnv; rw [hc]
  have hdom : z.t.env.dom.filter (fun k => decide (0 ≤ k) && decide (k < z.t.env.vl)) = z.t.env.dom :=
    List.filter_eq_self.mpr fun k hk => by
      have : k < z.t.vl.toNat := List.mem_range.mp hk
      simpa using (show k < z.t.env.vl from this)
  unfold effectRun elementGroups
  simp only [henv, he, if_true, hp, hdom]
  cases vectorEffect e.instr e z.t.env _ with
  | none => rfl
  | some r => simp [State.orFlags, hf]

/-- An element-wise word on a vector side at rest (R115 to R118, R220). -/
theorem exec_elementWise {i : Instr} {s : State} {vd : VReg} {w : Nat} {l : List (Nat × Nat × Flags)} (hc : Claim.calm s)
    (hl : classLegal i s.legalEnv = true) (he : elementWise i = true)
    (heff : vectorEffect i (s.captureEntry i) s.t.env (headState s i) = some ((headState s i).writeVector s.t.env vd.toNat w l)) :
    exec i s = .next (afterEffect s ((headState s i).writeVector s.t.env vd.toNat w l)) := by
  obtain ⟨a, b, h1, h2, hent⟩ := captureEntry_frame s i
  obtain ⟨hinstr, hprog, hflags, hchain⟩ : (s.captureEntry i).instr = i ∧ (s.captureEntry i).prog = 0 ∧ (s.captureEntry i).flags = 0 ∧
      (s.captureEntry i).chain = none := by rw [hent]; exact ⟨rfl, rfl, rfl, rfl⟩
  obtain ⟨-, hq, -⟩ := id hc
  obtain ⟨hs, ht, hh, hm⟩ := elementWise_plain he
  refine exec_commits hc hl hs ht hh hm (entryRun_effect (by rw [hinstr]; exact he) ?_) hq rfl rfl
  rw [effectRun_whole (by rw [hinstr]; exact he) hchain hprog hflags, hinstr]
  have hmap := congrArg (Option.map fun r : State =>
    VRes.commit { r with t := { r.t with fflags := s.t.fflags ||| r.t.fflags } }) heff
  refine hmap.trans ?_
  obtain ⟨v, tags, fl, hu⟩ := writeVector_frame (headState s i) s.t.env vd.toNat w l
  rw [hu]
  rfl

@[simp] theorem writeVector_lanes (s : State) (env : VEnv) (vd w : Nat) (l : List (Nat × Nat × Flags)) :
    (s.writeVector env vd w l).t.lanes = s.t.lanes := by
  obtain ⟨v, tags, fl, h⟩ := writeVector_frame s env vd w l
  rw [h]; rfl

theorem elem_afterEffect (s : State) {u : State} (h : u.t.lanes = s.t.lanes) (r w k : Nat) :
    (afterEffect s u).t.elem r w k = u.t.elem r w k := by
  unfold Thread.elem
  rw [h]; rfl

/-- What an element-wise word leaves, by the elements that it writes (R45, R63, R115 to R118). -/
theorem writes_elements {i : Instr} {s : State} {vd : VReg} {w : Nat} {acts : Nat → Bool} {val : Nat → Nat × Flags} (hc : Claim.calm s)
    (hw : elemWidth w) (hacts : ∀ k, acts k = true → k < s.t.vl.toNat)
    (he : exec i s = .next (afterEffect s ((headState s i).writeVector s.t.env vd.toNat w
      (((List.range s.t.vl.toNat).filter acts).map fun k => (k, val k))))) :
    Claim.writes s i vd w acts val := by
  let l := (List.range s.t.vl.toNat).filter acts
  have hmem : ∀ k, k ∈ l ↔ acts k = true := fun k => by
    rw [List.mem_filter, List.mem_range]
    exact ⟨fun h => h.2, fun h => ⟨hacts k h, h⟩⟩
  generalize hu : (headState s i).writeVector s.t.env vd.toNat w (l.map fun k => (k, val k)) = u at he
  refine ⟨_, he, fun h0 => ?_, fun h0 => ?_⟩
  · rw [writeVector_zero _ _ _ _ (show s.t.env.vl = 0 from congrArg BitVec.toNat h0)] at hu
    rw [← hu]
    change ({ s.advance with t := { s.advance.t with fflags := s.t.fflags ||| 0 } } : State) = s.advance
    rw [show s.t.fflags ||| 0 = s.t.fflags from BitVec.or_zero]
    rfl
  · have hv : s.t.env.vl ≠ 0 := fun h => h0 (BitVec.eq_of_toNat_eq h)
    have hlanes : u.t.lanes = s.t.lanes := by rw [← hu, writeVector_lanes]; rfl
    refine ⟨fun k => ?_, fun r hr => ?_, fun r => ?_, ?_⟩
    · have h := writeVector_elem (headState s i) l val vd.toNat k vd.isLt hw (show 0 < s.t.lanes from calm_lanes hc) hv
      rw [hu] at h
      simp only [true_and, hmem] at h
      rw [elem_afterEffect s hlanes, h]
      rfl
    · rw [← show u.t.readV r = s.t.readV r from hu ▸ writeVector_other (headState s i) s.t.env vd r w _ hr]; rfl
    · rw [← show u.t.readTag r = if r = vd then 0x7FF else s.t.readTag r from hu ▸ writeVector_tag (headState s i) vd r w _ hv]; rfl
    · have hf := writeVector_flags (headState s i) vd.toNat w (l.map fun k => (k, val k)) hv
      rw [hu, List.foldl_map] at hf
      have hall : s.t.fflags ||| u.t.fflags = Claim.flagsOf s acts fun k => (val k).2 := by
        rw [hf, Claim.flagsOf, ← List.foldl_filter]
        exact (foldl_or_start l (fun k => (val k).2) s.t.fflags).symm
      unfold afterEffect
      rw [hall]

theorem active_lt {s : State} {p : PReg} {k : Nat} (h : Claim.active s p k = true) : k < s.t.vl.toNat :=
  of_decide_eq_true (Bool.and_eq_true_iff.mp h).1

/-- A word that writes its active elements. -/
theorem writes_active {i : Instr} {s : State} {p : PReg} {vd : VReg} {w : Nat} {val : Nat → Nat × Flags} (hc : Claim.calm s)
    (hl : classLegal i s.legalEnv = true) (he : elementWise i = true) (hw : elemWidth w)
    (heff : vectorEffect i (s.captureEntry i) s.t.env (headState s i) =
      some ((headState s i).writeVector s.t.env vd.toNat w ((s.t.env.active s.t p).map fun k => (k, val k)))) :
    Claim.writes s i vd w (Claim.active s p) val := by
  rw [active_env] at heff
  exact writes_elements hc hw (fun _ => active_lt) (exec_elementWise hc hl he heff)

/-- The claim of a word depends on the values of its elements alone. -/
theorem writes_of_eq {s : State} {i : Instr} {vd : VReg} {w : Nat} {acts : Nat → Bool} {val val' : Nat → Nat × Flags}
    (hw : Claim.writes s i vd w acts val) (h : ∀ k, val' k = val k) : Claim.writes s i vd w acts val' := by
  rw [funext h]; exact hw

/-- An immediate at a width: its sign extended, and cut to the width (R119). -/
theorem signExtend_mod (x : BitVec 5) {w : Nat} (hw : w ≤ 64) : (x.signExtend 64).toNat % 2 ^ w = (x.toInt % 2 ^ w).toNat := by
  have hdvd : ((2 : Int) ^ w) ∣ 2 ^ 64 := pow_dvd_pow 2 hw
  have hpos : (0 : Int) ≤ x.toInt % 2 ^ 64 := Int.emod_nonneg _ (by positivity)
  rw [BitVec.signExtend, BitVec.toNat_ofInt]
  apply Int.ofNat.inj
  change (((x.toInt % (2 ^ 64 : Nat)).toNat % 2 ^ w : Nat) : Int) = ((x.toInt % 2 ^ w).toNat : Int)
  rw [Int.toNat_of_nonneg (Int.emod_nonneg _ (by positivity)), Int.natCast_mod, Int.toNat_of_nonneg (by exact_mod_cast hpos)]
  push_cast
  exact Int.emod_emod_of_dvd _ hdvd

theorem elemWidth_le {w : Nat} (h : elemWidth w) : w ≤ 64 := by unfold elemWidth at h; omega

/-- What a word captures for its second source is that source (R119, R219). -/
theorem secondSource_captured (s : State) (form : Form) (s1 : Reg) (k : Nat) :
    secondSource s.t s.t.env form s1 (captureSecond s.t form s1 false) k = Claim.second s form s1 false (vtSew s.t.vtype) k := by
  cases form with
  | vv | vx | vf => rfl
  | vi => exact signExtend_mod s1 (elemWidth_le (vtSew_width _))

end Sys2Proof.Machine
end

section
namespace Sys2Proof.Machine

/-! ### Sums, products and quotients (R61, R62, R64, R65) -/

theorem negate_eq (v : FVal) : v.negate = Claim.opposite v := by cases v <;> rfl

/-- The exact product of two values, and NV. -/
theorem mul_eq_product (a b : FVal) : a.mul b = Claim.product a b := by
  have hn : ∀ x, (FVal.nan x).nv ||| 0 = Claim.nv x false := fun x => by rw [nv_nan]; exact BitVec.or_zero
  have hm : ∀ x, 0 ||| (FVal.nan x).nv = Claim.nv x false := fun x => by rw [nv_nan]; exact BitVec.zero_or
  cases a with
  | nan x =>
    cases b with
    | nan y => cases x <;> cases y <;> rfl
    | inf n => exact congrArg (Prod.mk _) (hn x)
    | num n q => exact congrArg (Prod.mk _) (hn x)
  | inf m =>
    cases b with
    | nan y => exact congrArg (Prod.mk _) (hm y)
    | inf n => cases m <;> cases n <;> rfl
    | num n q => by_cases h : q = 0 <;> cases m <;> cases n <;> simp [FVal.mul, Claim.product, FVal.nv, h]
  | num m p =>
    cases b with
    | nan y => exact congrArg (Prod.mk _) (hm y)
    | inf n => by_cases h : p = 0 <;> cases m <;> cases n <;> simp [FVal.mul, Claim.product, FVal.nv, h]
    | num n q => cases m <;> cases n <;> simp [FVal.mul, Claim.product, FVal.nv]

/-- A product rounded once: its sign is the XOR of the signs, that of a zero as well (R64). -/
theorem fmul_eq (f : Fmt) (rm : BitVec 3) (fl : BitVec 2) (a b : FVal) :
    f.mul rm fl a b = ((Claim.once f rm fl (Claim.product a b).1).1, (Claim.product a b).2 ||| (Claim.once f rm fl (Claim.product a b).1).2) := by
  have hr : ∀ v, (∀ m q, v = .num m q → (a.neg != b.neg) = m) → f.round rm fl (a.neg != b.neg) v = Claim.once f rm fl v := by
    intro v hv
    cases v with
    | nan x => rfl
    | inf m => rfl
    | num m q => rw [hv m q rfl]; rfl
  have hs : ∀ m q, (Claim.product a b).1 = .num m q → (a.neg != b.neg) = m := by
    intro m q h
    cases a <;> cases b <;> simp only [Claim.product] at h <;> (try split at h) <;> cases h
    rfl
  unfold Fmt.mul
  rw [mul_eq_product]
  dsimp only
  rw [hr _ hs]

/-- The flags of forming the terms of a sum are its own as well. -/
theorem sum_pre (f : Fmt) (rm : BitVec 3) (fl : BitVec 2) (pre : Flags) (l : List FVal) :
    f.sum rm fl pre l = ((f.sum rm fl 0 l).1, pre ||| (f.sum rm fl 0 l).2) := by
  unfold Fmt.sum
  dsimp only
  rw [BitVec.or_assoc, show ∀ x : Flags, 0 ||| x = x from fun x => BitVec.zero_or]

/-- A fused sum of a product and a value (R65). -/
theorem fused_eq (f : Fmt) (rm : BitVec 3) (fl : BitVec 2) (p : FVal × Flags) (c : FVal) : f.sum rm fl p.2 [p.1, c] = Claim.fused f rm fl p c := by
  rw [sum_pre, sum_pair]; rfl

/-- A product with the sign of its first factor changed. -/
theorem product_opposite (a b : FVal) : Claim.product (Claim.opposite a) b = (Claim.opposite (Claim.product a b).1, (Claim.product a b).2) := by
  cases a with
  | nan x => cases b <;> rfl
  | inf m => 
    cases b with
    | nan y => rfl
    | inf n => cases m <;> cases n <;> rfl
    | num n q => by_cases h : q = 0 <;> cases m <;> cases n <;> simp [Claim.product, Claim.opposite, h]
  | num m p =>
    cases b with
    | nan y => rfl
    | inf n => by_cases h : p = 0 <;> cases m <;> cases n <;> simp [Claim.product, Claim.opposite, h]
    | num n q => cases m <;> cases n <;> simp [Claim.product, Claim.opposite]

/-- The quotient of two values (R62). -/
theorem div_eq_quotient (f : Fmt) (rm : BitVec 3) (fl : BitVec 2) (a b : FVal) : f.div rm fl a b = Claim.quotient f rm fl a b := by
  have hn : ∀ x, (FVal.nan x).nv ||| 0 = Claim.nv x false := fun x => by rw [nv_nan]; exact BitVec.or_zero
  have hm : ∀ x, 0 ||| (FVal.nan x).nv = Claim.nv x false := fun x => by rw [nv_nan]; exact BitVec.zero_or
  cases a with
  | nan x =>
    cases b with
    | nan y => cases x <;> cases y <;> rfl
    | inf n => exact congrArg (Prod.mk _) (hn x)
    | num n q => exact congrArg (Prod.mk _) (hn x)
  | inf m =>
    cases b with
    | nan y => exact congrArg (Prod.mk _) (hm y)
    | inf n => rfl
    | num n q => cases m <;> cases n <;> rfl
  | num m p =>
    cases b with
    | nan y => exact congrArg (Prod.mk _) (hm y)
    | inf n => cases m <;> cases n <;> rfl
    | num n q => cases m <;> cases n <;> rfl

/-! ### Patterns as they are read (R60, R119) -/

/-- The zero of a pattern's sign. -/
theorem zero_signOf (f : Fmt) (x : Nat) : f.zero (f.signOf x) = x / 2 ^ (f.width - 1) % 2 * 2 ^ (f.width - 1) := by
  have hw : f.width - 1 = f.eb + f.mb := by unfold Fmt.width; omega
  rw [hw, Fmt.zero, Fmt.signOf, bits, pow_one]
  rcases Nat.mod_two_eq_zero_or_one (x / 2 ^ (f.eb + f.mb)) with h | h <;> rw [h] <;> simp

theorem flushed_eq (f : Fmt) (fl : BitVec 2) (x : Nat) : f.flushed fl x =
    if fl = 2 ∧ x / 2 ^ f.mb % 2 ^ f.eb = 0 then x / 2 ^ (f.width - 1) % 2 * 2 ^ (f.width - 1) else x := by
  rw [← zero_signOf]; rfl

theorem withSign_eq (f : Fmt) (x y : Nat) :
    f.withSign x (f.signOf y) = x % 2 ^ (f.width - 1) + y / 2 ^ (f.width - 1) % 2 * 2 ^ (f.width - 1) := by
  have hw : f.width - 1 = f.eb + f.mb := by unfold Fmt.width; omega
  rw [Fmt.withSign, zero_signOf, hw]

theorem emax_pos {f : Fmt} (he : 1 ≤ f.eb) : 0 < f.emax := by
  have := Nat.pow_le_pow_right (n := 2) (by decide) he
  unfold Fmt.emax; omega

/-- The fields of a zero: its sign alone (R57). -/
theorem value_zero {f : Fmt} (he : 1 ≤ f.eb) (n : Bool) : f.value (f.zero n) = .num n 0 := by
  have hmb : 2 ^ (f.eb + f.mb) % 2 ^ f.mb = 0 := Nat.mod_eq_zero_of_dvd (pow_dvd_pow 2 (by omega))
  have hdiv : 2 ^ (f.eb + f.mb) / 2 ^ f.mb = 2 ^ f.eb := by rw [Nat.pow_add, Nat.mul_div_cancel _ (by positivity)]
  have h0 := (emax_pos he).ne
  cases n <;> simp [Fmt.value, Fmt.zero, bits, hmb, hdiv, h0]

/-- A pattern with exponent field 0 is a number of its own sign (R57). -/
theorem value_subnormal {f : Fmt} (he : 1 ≤ f.eb) {x : Nat} (h : bits x f.mb f.eb = 0) : ∃ q, f.value x = .num (f.signOf x) q := by
  have h0 := (emax_pos he).ne
  unfold Fmt.value
  dsimp only
  rw [h, if_neg h0]
  exact ⟨_, rfl⟩

/-- A pattern as it is read has the value that it is read as (R60, R119). -/
theorem value_flushed {f : Fmt} (he : 1 ≤ f.eb) (fl : BitVec 2) (x : Nat) : f.value (f.flushed fl x) = f.read fl x := by
  unfold Fmt.flushed Fmt.read
  by_cases h : fl = 2 ∧ bits x f.mb f.eb = 0
  · obtain ⟨q, hq⟩ := value_subnormal he h.2
    simp only [if_pos h, value_zero he, hq]
  · simp only [if_neg h]
    cases f.value x <;> rfl

end Sys2Proof.Machine
end

section
namespace Sys2Proof.Machine

/-! ### Powers of two and square roots (R58, R98) -/

theorem pow2_eq (e : Int) : pow2 e = (2 : Rat) ^ e := by
  unfold pow2
  split
  · rename_i h
    obtain ⟨n, rfl⟩ := Int.eq_ofNat_of_zero_le h
    simp
  · rename_i h
    obtain ⟨n, hn⟩ := Int.eq_ofNat_of_zero_le (a := -e) (by omega)
    rw [hn, show e = -(n : Int) by omega]
    simp

/-- A positive rational as the quotient of its numerator and denominator. -/
theorem rat_quotient {q : Rat} (hq : 0 < q) : ∃ n d : Nat, q.num.toNat = n ∧ q.den = d ∧ 0 < n ∧ 0 < d ∧ q = n / d := by
  have hnum : 0 < q.num := Rat.num_pos.mpr hq
  refine ⟨_, _, rfl, rfl, by omega, q.den_pos, ?_⟩
  conv_lhs => rw [← Rat.num_div_den q]
  congr 1
  exact_mod_cast (Int.toNat_of_nonneg hnum.le).symm

/-- A positive rational lies between the power of two of its exponent and the next. -/
theorem ilog2_bounds {q : Rat} (hq : 0 < q) : (2 : Rat) ^ ilog2 q ≤ q ∧ q < (2 : Rat) ^ (ilog2 q + 1) := by
  obtain ⟨n, d, hn, hden, hn0, hd0, hqd⟩ := rat_quotient hq
  have hd : (0 : Rat) < d := by exact_mod_cast hd0
  have hn1 : (2 : Rat) ^ (Nat.log2 n) ≤ n := by exact_mod_cast Nat.log2_self_le hn0.ne'
  have hn2 : (n : Rat) < 2 ^ (Nat.log2 n + 1) := by exact_mod_cast Nat.lt_log2_self
  have hd1 : (2 : Rat) ^ (Nat.log2 d) ≤ d := by exact_mod_cast Nat.log2_self_le hd0.ne'
  have hd2 : (d : Rat) ≤ 2 ^ (Nat.log2 d + 1) := by exact_mod_cast Nat.lt_log2_self.le
  have hup : q < (2 : Rat) ^ ((Nat.log2 n : Int) - Nat.log2 d + 1) := by
    rw [hqd, div_lt_iff₀ hd]
    calc (n : Rat) < 2 ^ (Nat.log2 n + 1) := hn2
      _ = (2 : Rat) ^ ((Nat.log2 n : Int) - Nat.log2 d + 1) * 2 ^ (Nat.log2 d) := by
        rw [← zpow_natCast, ← zpow_natCast, ← zpow_add₀ two_ne_zero]; congr 1; push_cast; ring
      _ ≤ _ := by gcongr
  have hlo : (2 : Rat) ^ ((Nat.log2 n : Int) - Nat.log2 d - 1) ≤ q := by
    rw [hqd, le_div_iff₀ hd]
    calc (2 : Rat) ^ ((Nat.log2 n : Int) - Nat.log2 d - 1) * d
        ≤ (2 : Rat) ^ ((Nat.log2 n : Int) - Nat.log2 d - 1) * 2 ^ (Nat.log2 d + 1) := by gcongr
      _ = 2 ^ (Nat.log2 n) := by
        rw [← zpow_natCast, ← zpow_natCast, ← zpow_add₀ two_ne_zero]; congr 1; push_cast; ring
      _ ≤ n := hn1
  unfold ilog2
  rw [hn, hden]
  dsimp only
  rw [pow2_eq]
  split
  · exact ⟨‹_›, hup⟩
  · refine ⟨hlo, ?_⟩
    rw [sub_add_cancel]
    exact not_le.mp ‹_›

theorem isqrtFrom_spec {n : Nat} (b r : Nat) (h1 : r * r ≤ n) (h2 : n < (r + 2 ^ b) * (r + 2 ^ b)) :
    isqrtFrom n b r * isqrtFrom n b r ≤ n ∧ n < (isqrtFrom n b r + 1) * (isqrtFrom n b r + 1) := by
  induction b generalizing r with
  | zero => exact ⟨h1, h2⟩
  | succ b ih =>
    rw [isqrtFrom]
    split
    · refine ih _ ‹_› ?_
      rw [show r + 2 ^ b + 2 ^ b = r + 2 ^ (b + 1) by ring]
      exact h2
    · exact ih _ h1 (by omega)

/-- The integer square root is the largest number whose square is not above. -/
theorem le_isqrt_iff (n c : Nat) : c ≤ isqrt n ↔ c * c ≤ n := by
  have hn : n < (0 + 2 ^ (Nat.log2 n / 2 + 1)) * (0 + 2 ^ (Nat.log2 n / 2 + 1)) := by
    rw [Nat.zero_add, ← Nat.pow_add]
    exact Nat.lt_log2_self.trans_le (Nat.pow_le_pow_right (by decide) (by omega))
  obtain ⟨hlo, hhi⟩ := isqrtFrom_spec _ 0 (Nat.zero_le n) hn
  exact ⟨fun h => (Nat.mul_le_mul h h).trans hlo, fun h => by
    by_contra hlt
    have hc : isqrt n + 1 ≤ c := by omega
    exact absurd (Nat.mul_le_mul hc hc) (by unfold isqrt; omega)⟩

/-- `sqrtNear` and the root lie on the same side of every multiple of 2⁻ᵏ, its k given by the denominator (R58, R98). -/
theorem le_sqrtNear_iff {q : Rat} (hq : 0 < q) (c : Nat) :
    (c : Rat) / 2 ^ (80 + Nat.log2 q.den) ≤ sqrtNear q ↔ ((c : Rat) / 2 ^ (80 + Nat.log2 q.den)) ^ 2 ≤ q := by
  obtain ⟨p, d, hp, hden, -, hd0, hqd⟩ := rat_quotient hq
  rw [hden]
  generalize hk : 80 + Nat.log2 d = k
  have hd : (0 : Rat) < d := by exact_mod_cast hd0
  have h2 : (0 : Rat) < 2 ^ k := by positivity
  have hsq : ((c : Rat) / 2 ^ k) ^ 2 ≤ q ↔ c ≤ isqrt (p * 4 ^ k / d) := by
    rw [le_isqrt_iff, Nat.le_div_iff_mul_le hd0, hqd, div_pow, div_le_div_iff₀ (by positivity) hd, pow_two (c : Rat),
      show (4 : Nat) ^ k = (2 ^ k) ^ 2 by rw [← pow_mul, Nat.mul_comm k 2, pow_mul]; norm_num]
    exact_mod_cast Iff.rfl
  rw [hsq]
  unfold sqrtNear
  rw [hden, hk, hp]
  dsimp only
  generalize isqrt (p * 4 ^ k / d) = r
  split
  · push_cast
    rw [div_le_div_iff_of_pos_right h2]
    exact_mod_cast Iff.rfl
  · push_cast
    rw [pow_succ, div_le_div_iff₀ h2 (by positivity), show (c : Rat) * (2 ^ k * 2) = (2 * c) * 2 ^ k by ring, mul_le_mul_iff_left₀ h2]
    have : (2 * (c : Rat) ≤ 2 * r + 1) ↔ 2 * c ≤ 2 * r + 1 := by exact_mod_cast Iff.rfl
    rw [this]; omega

/-! ### round_once of a number of the format (R59) -/

/-- A whole number rounds to itself. -/
theorem roundNat_natCast (rm : BitVec 3) (neg : Bool) (n : Nat) : roundNat rm neg n = n := by
  unfold roundNat
  simp

/-- A number of the format in its normal range rounds to itself, and its pattern is that of its exponent and fraction. -/
theorem roundNum_exact {f : Fmt} (rm : BitVec 3) (fl : BitVec 2) {m : Nat} {g : Int} (hm1 : 2 ^ f.mb ≤ m) (hm2 : m < 2 ^ (f.mb + 1))
    (hlo : 1 ≤ g + f.mb + f.bias) (hhi : g + f.mb + f.bias < f.emax) :
    f.roundNum rm fl (m * (2 : Rat) ^ g) = ((g + f.mb + f.bias).toNat * 2 ^ f.mb + (m - 2 ^ f.mb), 0) := by
  have h2g : (0 : Rat) < 2 ^ g := by positivity
  have hm0 : (0 : Rat) < m := by exact_mod_cast (Nat.two_pow_pos _).trans_le hm1
  have hpos : (0 : Rat) < m * 2 ^ g := by positivity
  have hm1' : (2 : Rat) ^ f.mb ≤ m := by exact_mod_cast hm1
  have hm2' : (m : Rat) < 2 ^ (f.mb + 1) := by exact_mod_cast hm2
  obtain ⟨hl1, hl2⟩ := ilog2_bounds hpos
  have hge : (2 : Rat) ^ (g + f.mb) ≤ m * 2 ^ g := by
    rw [zpow_add₀ two_ne_zero, zpow_natCast, mul_comm]; gcongr
  have hlt : (m : Rat) * 2 ^ g < 2 ^ (g + f.mb + 1) := by
    rw [add_assoc, zpow_add₀ two_ne_zero, mul_comm ((2 : Rat) ^ g)]
    gcongr
    exact_mod_cast hm2'
  have hlog : ilog2 ((m : Rat) * 2 ^ g) = g + f.mb := by
    have h1 := (zpow_lt_zpow_iff_right₀ (one_lt_two (α := Rat))).mp (hl1.trans_lt hlt)
    have h2 := (zpow_lt_zpow_iff_right₀ (one_lt_two (α := Rat))).mp (hge.trans_lt hl2)
    omega
  have hround : roundNat rm false ((m : Rat) * 2 ^ g * 2 ^ (-g)) = m := by
    rw [mul_assoc, ← zpow_add₀ two_ne_zero, add_neg_cancel, zpow_zero, mul_one, roundNat_natCast]
  have hbig : ¬ (2 : Rat) ^ ((f.emax : Int) - f.bias) ≤ m * 2 ^ g :=
    not_le.mpr (hlt.trans_le (zpow_le_zpow_right₀ one_le_two (by omega)))
  have hsmall : ¬ (m : Rat) * 2 ^ g < (2 : Rat) ^ (1 - f.bias : Int) :=
    not_lt.mpr ((zpow_le_zpow_right₀ one_le_two (by omega)).trans hge)
  have hpack : f.pack false m g = (g + f.mb + f.bias).toNat * 2 ^ f.mb + (m - 2 ^ f.mb) := by
    simp [Fmt.pack, not_lt.mpr hm1, not_le.mpr hm2]
  unfold Fmt.roundNum
  simp only [if_neg (not_lt.mpr hpos.le), decide_eq_false (not_lt.mpr hpos.le), hlog, add_sub_cancel_right, pow2_eq, hround, ge_iff_le, hbig,
    hsmall, if_false, if_true, hpack]

/-- The value of a pattern with exponent and fraction in the normal range (R57). -/
theorem value_normal {f : Fmt} {e m : Nat} (he1 : 1 ≤ e) (he2 : e < f.emax) (hm1 : 2 ^ f.mb ≤ m) (hm2 : m < 2 ^ (f.mb + 1)) :
    f.value (e * 2 ^ f.mb + (m - 2 ^ f.mb)) = .num false (m * (2 : Rat) ^ ((e : Int) - f.bias - f.mb)) ∧
      e * 2 ^ f.mb + (m - 2 ^ f.mb) < 2 ^ (f.eb + f.mb) := by
  have hp := Nat.two_pow_pos f.mb
  have hf : m - 2 ^ f.mb < 2 ^ f.mb := by rw [Nat.pow_succ] at hm2; omega
  have hdiv : (e * 2 ^ f.mb + (m - 2 ^ f.mb)) / 2 ^ f.mb = e := by
    rw [Nat.mul_comm, Nat.mul_add_div hp, Nat.div_eq_of_lt hf, Nat.add_zero]
  have hmod : (e * 2 ^ f.mb + (m - 2 ^ f.mb)) % 2 ^ f.mb = m - 2 ^ f.mb := by
    rw [Nat.mul_comm, Nat.mul_add_mod, Nat.mod_eq_of_lt hf]
  have hlt : e * 2 ^ f.mb + (m - 2 ^ f.mb) < 2 ^ (f.eb + f.mb) := by
    have he : e + 1 ≤ 2 ^ f.eb := by unfold Fmt.emax at he2; omega
    calc e * 2 ^ f.mb + (m - 2 ^ f.mb) < (e + 1) * 2 ^ f.mb := by rw [Nat.add_mul]; omega
      _ ≤ 2 ^ f.eb * 2 ^ f.mb := Nat.mul_le_mul_right _ he
      _ = _ := (Nat.pow_add ..).symm
  have hexp : bits (e * 2 ^ f.mb + (m - 2 ^ f.mb)) f.mb f.eb = e := by
    unfold Fmt.emax at he2
    rw [bits, hdiv, Nat.mod_eq_of_lt (by omega)]
  have hfrac : bits (e * 2 ^ f.mb + (m - 2 ^ f.mb)) 0 f.mb = m - 2 ^ f.mb := by rw [bits, pow_zero, Nat.div_one, hmod]
  have hsign : bits (e * 2 ^ f.mb + (m - 2 ^ f.mb)) (f.eb + f.mb) 1 = 0 := by rw [bits, Nat.div_eq_of_lt hlt, Nat.zero_mod]
  refine ⟨?_, hlt⟩
  unfold Fmt.value
  simp only [hexp, hfrac, hsign, if_neg he2.ne, if_neg (show e ≠ 0 by omega), pow2_eq]
  rw [Nat.add_sub_cancel' hm1]
  rfl

/-- The magnitude of a pattern that is no infinity and no NaN (R57). -/
def Fmt.magnitude (f : Fmt) (x : Nat) : Rat :=
  if bits x f.mb f.eb = 0 then bits x 0 f.mb * (2 : Rat) ^ (1 - f.bias - f.mb : Int)
  else (2 ^ f.mb + bits x 0 f.mb : Nat) * (2 : Rat) ^ ((bits x f.mb f.eb : Int) - f.bias - f.mb)

theorem magnitude_nonneg (f : Fmt) (x : Nat) : 0 ≤ f.magnitude x := by
  unfold Fmt.magnitude; split <;> positivity

/-- A number is the magnitude of its pattern with the pattern's sign (R57). -/
theorem value_num {f : Fmt} {x : Nat} {n : Bool} {q : Rat} (h : f.value x = .num n q) :
    bits x f.mb f.eb ≠ f.emax ∧ q = if n then -f.magnitude x else f.magnitude x := by
  unfold Fmt.value at h
  simp only [pow2_eq] at h
  split at h
  · split at h <;> cases h
  · cases h
    exact ⟨‹_›, rfl⟩

/-- A positive magnitude lies between the least subnormal and the overflow threshold. -/
theorem magnitude_bounds {f : Fmt} (he : 1 ≤ f.eb) {x : Nat} (hx : bits x f.mb f.eb ≠ f.emax) (hpos : 0 < f.magnitude x) :
    (2 : Rat) ^ (1 - f.bias - f.mb : Int) ≤ f.magnitude x ∧ f.magnitude x < (2 : Rat) ^ ((f.emax : Int) - f.bias) := by
  have hm : bits x 0 f.mb < 2 ^ f.mb := Nat.mod_lt _ (Nat.two_pow_pos _)
  have hm' : (bits x 0 f.mb : Rat) < 2 ^ f.mb := by exact_mod_cast hm
  have hlt : bits x f.mb f.eb < f.emax := by
    have : bits x f.mb f.eb < 2 ^ f.eb := Nat.mod_lt _ (Nat.two_pow_pos _)
    unfold Fmt.emax at hx ⊢; omega
  have hemax := emax_pos he
  have scale : ∀ (k : Nat) (z : Int), (2 : Rat) ^ k * 2 ^ z = 2 ^ (k + z) := fun k z => by rw [zpow_add₀ two_ne_zero, zpow_natCast]
  unfold Fmt.magnitude at hpos ⊢
  split at hpos
  · rename_i h0
    rw [if_pos h0]
    have h1 : 1 ≤ bits x 0 f.mb := Nat.one_le_iff_ne_zero.mpr fun h => by rw [h] at hpos; simp at hpos
    refine ⟨le_mul_of_one_le_left (by positivity) (by exact_mod_cast h1), ?_⟩
    calc (bits x 0 f.mb : Rat) * 2 ^ (1 - f.bias - f.mb : Int) < 2 ^ f.mb * 2 ^ (1 - f.bias - f.mb : Int) := by gcongr
      _ = (2 : Rat) ^ (1 - f.bias : Int) := by rw [scale]; congr 1; ring
      _ ≤ _ := zpow_le_zpow_right₀ one_le_two (by omega)
  · rename_i h0
    rw [if_neg h0]
    generalize bits x f.mb f.eb = e at *
    push_cast
    constructor
    · calc (2 : Rat) ^ (1 - f.bias - f.mb : Int) ≤ (2 : Rat) ^ f.mb * 2 ^ ((e : Int) - f.bias - f.mb) := by
            rw [scale]; exact zpow_le_zpow_right₀ one_le_two (by omega)
        _ ≤ _ := by gcongr; simp
    · calc ((2 : Rat) ^ f.mb + bits x 0 f.mb) * 2 ^ ((e : Int) - f.bias - f.mb) < (2 : Rat) ^ (f.mb + 1) * 2 ^ ((e : Int) - f.bias - f.mb) := by
            gcongr; rw [pow_succ]; linarith
        _ = (2 : Rat) ^ ((e : Int) + 1 - f.bias) := by rw [scale]; congr 1; push_cast; ring
        _ ≤ _ := zpow_le_zpow_right₀ one_le_two (by omega)

/-- A positive number that is read lies between the least subnormal and the overflow threshold (R57, R60). -/
theorem read_bounds {f : Fmt} (he : 1 ≤ f.eb) {fl : BitVec 2} {x : Nat} {n : Bool} {q : Rat} (h : f.read fl x = .num n q) (hq : 0 < q) :
    (2 : Rat) ^ (1 - f.bias - f.mb : Int) ≤ q ∧ q < (2 : Rat) ^ ((f.emax : Int) - f.bias) := by
  have hv : f.value x = .num n q := by
    unfold Fmt.read at h
    split at h
    · split at h
      · cases h; exact absurd hq (lt_irrefl _)
      · rename_i hv _; rw [hv, h]
    · exact h
  obtain ⟨hx, hm⟩ := value_num hv
  have hneg := magnitude_nonneg f x
  cases n with
  | true => rw [if_pos rfl] at hm; linarith
  | false =>
    rw [if_neg Bool.false_ne_true] at hm
    rw [hm] at hq ⊢
    exact magnitude_bounds he hx hq

end Sys2Proof.Machine
end

section
namespace Sys2Proof.Machine

/-! ### The estimate of 1/√a (R123) -/

/-- RTZ gives the whole part (R58). -/
theorem roundNat_rtz {q : Rat} (neg : Bool) (hq : 0 < q) : (roundNat 1 neg q : Rat) ≤ q ∧ q < roundNat 1 neg q + 1 := by
  obtain ⟨n, d, hn, hden, -, hd0, hqd⟩ := rat_quotient hq
  have hr : roundNat 1 neg q = n / d := by
    unfold roundNat
    rw [hn, hden]
    dsimp only
    rw [if_neg]
    split <;> simp
  have hd : (0 : Rat) < d := by exact_mod_cast hd0
  have h1 : n / d * d ≤ n := Nat.div_mul_le_self n d
  have h2 : n < (n / d + 1) * d := Nat.lt_mul_of_div_lt (Nat.lt_succ_self _) hd0
  rw [hr, hqd, le_div_iff₀ hd, div_lt_iff₀ hd]
  exact ⟨by exact_mod_cast h1, by exact_mod_cast h2⟩

/-- `sqrtNear` of 1/q and 1/√q lie on the same side of every multiple of a power of two that is not too small. -/
theorem le_rsqrt_iff {q : Rat} (hq : 0 < q) (m : Nat) {g : Int} (hg : -(80 + Nat.log2 (1 / q).den : Int) ≤ g) :
    (m : Rat) * 2 ^ g ≤ sqrtNear (1 / q) ↔ ((m : Rat) * 2 ^ g) ^ 2 * q ≤ 1 := by
  have h := le_sqrtNear_iff (one_div_pos.mpr hq) (m * 2 ^ (g + (80 + Nat.log2 (1 / q).den : Nat)).toNat)
  have hg' : -((80 + Nat.log2 (1 / q).den : Nat) : Int) ≤ g := by push_cast; exact hg
  generalize 80 + Nat.log2 (1 / q).den = k at *
  have he : ((m * 2 ^ (g + (k : Nat)).toNat : Nat) : Rat) / 2 ^ k = m * 2 ^ g := by
    obtain ⟨j, hj⟩ := Int.eq_ofNat_of_zero_le (show 0 ≤ g + (k : Nat) by omega)
    rw [hj, Int.toNat_natCast, div_eq_iff (by positivity), mul_assoc, ← zpow_natCast (2 : Rat) k, ← zpow_add₀ two_ne_zero, hj]
    push_cast; rfl
  rw [he] at h
  rw [h, le_div_iff₀ hq]

/-- What the estimate needs of a format: at least 8 significant bits, and an exponent range that is even-handed and wider than its precision. -/
def Fmt.estimates (f : Fmt) : Prop := 1 ≤ f.eb ∧ 7 ≤ f.mb ∧ f.mb ≤ f.bias + 1 ∧ 3 ≤ f.bias ∧ f.emax = 2 * f.bias + 1

theorem vtIeeeFmt_estimates (t : DWord) : (vtIeeeFmt t).estimates := by
  unfold vtIeeeFmt Fmt.estimates
  split
  · decide
  · split <;> decide

/-- A positive number is at most the denominator of its reciprocal. -/
theorem le_den_recip {q : Rat} (hq : 0 < q) : q ≤ (1 / q).den := by
  obtain ⟨n, d, -, hden, hn0, hd0, h⟩ := rat_quotient (one_div_pos.mpr hq)
  have hn : (1 : Rat) ≤ n := by exact_mod_cast hn0
  have hd : (0 : Rat) < d := by exact_mod_cast hd0
  rw [div_eq_div_iff hq.ne' hd.ne', one_mul] at h
  rw [hden, h]
  nlinarith

/-- The exponent and the 8 significant bits of 1/√q toward zero (R123): the root lies between them and the next number of 8 bits, and the
exponent is one of a normal number wherever q is a number of the format. -/
theorem rsqrt_digits {f : Fmt} (hf : f.estimates) {q : Rat} (hq : 0 < q) (hlo : (2 : Rat) ^ (1 - f.bias - f.mb : Int) ≤ q)
    (hhi : q < (2 : Rat) ^ ((f.emax : Int) - f.bias)) :
    let e := ilog2 (sqrtNear (1 / q))
    let m := roundNat 1 false (sqrtNear (1 / q) * pow2 (-(e - 7)))
    128 ≤ m ∧ m ≤ 255 ∧ ((m : Rat) * 2 ^ (e - 7)) ^ 2 * q ≤ 1 ∧ 1 < (((m : Rat) + 1) * 2 ^ (e - 7)) ^ 2 * q ∧
      1 - f.bias ≤ e ∧ e ≤ f.bias := by
  obtain ⟨r, hnear⟩ : ∃ r, sqrtNear (1 / q) = r := ⟨_, rfl⟩
  rw [hnear]
  intro e m
  obtain ⟨-, hmb, hmb', hbias, hemax⟩ := hf
  have hmono : ∀ {a b : Int}, (2 : Rat) ^ a < 2 ^ b → a < b := fun h => (zpow_lt_zpow_iff_right₀ one_lt_two).mp h
  have hsquare : ∀ a : Int, ((2 : Rat) ^ a) ^ 2 = 2 ^ (2 * a) := fun a => by rw [← zpow_natCast, ← zpow_mul, mul_comm]; rfl
  obtain ⟨k, hk⟩ : ∃ k : Int, 80 + (Nat.log2 (1 / q).den : Int) = k := ⟨_, rfl⟩
  have hroot : ∀ (m : Nat) {g : Int}, -k ≤ g → ((m : Rat) * 2 ^ g ≤ r ↔ ((m : Rat) * 2 ^ g) ^ 2 * q ≤ 1) :=
    fun m g hg => hnear ▸ le_rsqrt_iff hq m (by rw [hk]; exact hg)
  have hpow : ∀ {a : Int}, -k ≤ a → ((2 : Rat) ^ a ≤ r ↔ (2 : Rat) ^ (2 * a) * q ≤ 1) := fun {a} ha => by
    have := hroot 1 ha
    rwa [Nat.cast_one, one_mul, hsquare] at this
  have hleast : (2 : Rat) ^ (7 - k) ≤ r := by
    have hden : q ≤ (2 : Rat) ^ (2 * (k - 7)) := by
      refine (le_den_recip hq).trans ?_
      calc ((1 / q).den : Rat) ≤ 2 ^ (Nat.log2 (1 / q).den + 1) := by exact_mod_cast Nat.lt_log2_self.le
        _ ≤ _ := by rw [← zpow_natCast]; exact zpow_le_zpow_right₀ one_le_two (by push_cast; omega)
    rw [hpow (by omega)]
    calc (2 : Rat) ^ (2 * (7 - k)) * q ≤ 2 ^ (2 * (7 - k)) * 2 ^ (2 * (k - 7)) := by gcongr
      _ = 1 := by rw [← zpow_add₀ two_ne_zero]; convert zpow_zero _ using 2; ring
  have hr : 0 < r := (by positivity : (0 : Rat) < 2 ^ (7 - k)).trans_le hleast
  obtain ⟨he1, he2⟩ := ilog2_bounds hr
  have hek : 7 - k < e + 1 := hmono (hleast.trans_lt he2)
  have h2g : (0 : Rat) < 2 ^ (e - 7) := by positivity
  have hscale : r * pow2 (-(e - 7)) * 2 ^ (e - 7) = r := by
    rw [pow2_eq, mul_assoc, ← zpow_add₀ two_ne_zero, neg_add_cancel, zpow_zero, mul_one]
  obtain ⟨hm1, hm2⟩ := roundNat_rtz (q := r * pow2 (-(e - 7))) false (by rw [pow2_eq]; positivity)
  change (m : Rat) ≤ _ at hm1
  change _ < (m : Rat) + 1 at hm2
  have hmr : (m : Rat) * 2 ^ (e - 7) ≤ r := hscale ▸ mul_le_mul_of_nonneg_right hm1 h2g.le
  have hrm : r < ((m + 1 : Nat) : Rat) * 2 ^ (e - 7) := by
    push_cast
    exact hscale ▸ mul_lt_mul_of_pos_right hm2 h2g
  have hup : (2 : Rat) ^ e = 128 * 2 ^ (e - 7) := by
    rw [show (128 : Rat) = 2 ^ (7 : Int) by norm_num, ← zpow_add₀ two_ne_zero]; congr 1; ring
  have hup' : (2 : Rat) ^ (e + 1) = 256 * 2 ^ (e - 7) := by
    rw [zpow_add_one₀ two_ne_zero, hup]; ring
  refine ⟨?_, ?_, (hroot m (by omega)).mp hmr, ?_, ?_, ?_⟩
  · have : (128 : Rat) < (m + 1 : Nat) := lt_of_mul_lt_mul_right (hup ▸ he1.trans_lt hrm) h2g.le
    have : 128 < m + 1 := by exact_mod_cast this
    omega
  · have : (m : Rat) < 256 := lt_of_mul_lt_mul_right (hup' ▸ hmr.trans_lt he2) h2g.le
    have : m < 256 := by exact_mod_cast this
    omega
  · have h := mt (hroot (m + 1) (g := e - 7) (by omega)).mpr (not_le.mpr hrm)
    push_cast at h
    exact not_le.mp h
  · have h : 1 < (2 : Rat) ^ (2 * (e + 1)) * q := not_le.mp (mt (hpow (a := e + 1) (by omega)).mpr (not_le.mpr he2))
    have hlt : (2 : Rat) ^ (0 : Int) < 2 ^ (2 * (e + 1) + ((f.emax : Int) - f.bias)) := by
      rw [zpow_zero, zpow_add₀ two_ne_zero]
      exact h.trans (mul_lt_mul_of_pos_left hhi (by positivity))
    have := hmono hlt
    omega
  · have h : (2 : Rat) ^ (2 * e) * q ≤ 1 := (hpow (by omega)).mp he1
    have hle : (2 : Rat) ^ (2 * e + (1 - f.bias - f.mb : Int)) < 2 ^ (1 : Int) := by
      rw [zpow_add₀ two_ne_zero]
      calc _ ≤ (2 : Rat) ^ (2 * e) * q := by gcongr
        _ ≤ 1 := h
        _ < _ := by norm_num
    have := hmono hle
    omega

/-- The estimate of 1/√q is a number of the format with 8 significant bits, and raises nothing (R123). -/
theorem rsqrte_estimate {f : Fmt} (hf : f.estimates) {q : Rat} (n : Bool) (hq : 0 < q) (hlo : (2 : Rat) ^ (1 - f.bias - f.mb : Int) ≤ q)
    (hhi : q < (2 : Rat) ^ ((f.emax : Int) - f.bias)) :
    ∃ w, f.rsqrte (.num n q) = (w, 0) ∧ w < 2 ^ f.width ∧ Claim.estimate f q w := by
  obtain ⟨hm1, hm2, hbelow, habove, he1, he2⟩ := rsqrt_digits hf hq hlo hhi
  obtain ⟨heb, hmb, -, -, hemax⟩ := hf
  have hr : f.rsqrte (.num n q) = ((f.round 1 0 false (.num false ((roundNat 1 false (sqrtNear (1 / q) * pow2 (-(ilog2 (sqrtNear (1 / q)) - 7))) : Rat) *
      pow2 (ilog2 (sqrtNear (1 / q)) - 7)))).1, 0) := by
    simp only [Fmt.rsqrte, if_neg hq.ne', if_neg (not_lt.mpr hq.le)]
  generalize ilog2 (sqrtNear (1 / q)) = e at *
  generalize roundNat 1 false _ = m at *
  have hscale : 2 ^ f.mb = 128 * 2 ^ (f.mb - 7) := by rw [show 128 = 2 ^ 7 from rfl, ← Nat.pow_add]; congr 1; omega
  have hlow : 2 ^ f.mb ≤ m * 2 ^ (f.mb - 7) := by rw [hscale]; exact Nat.mul_le_mul_right _ hm1
  have hhigh : m * 2 ^ (f.mb - 7) < 2 ^ (f.mb + 1) := by
    rw [Nat.pow_succ, hscale]
    have := Nat.two_pow_pos (f.mb - 7)
    nlinarith
  have hv : (m : Rat) * 2 ^ (e - 7) = (m * 2 ^ (f.mb - 7) : Nat) * 2 ^ (e - f.mb) := by
    push_cast
    rw [mul_assoc, ← zpow_natCast (2 : Rat) (f.mb - 7), ← zpow_add₀ two_ne_zero]
    congr 2
    omega
  have hpos : (m : Rat) * 2 ^ (e - 7) ≠ 0 := by
    have : (0 : Rat) < m := by exact_mod_cast (show 0 < m by omega)
    positivity
  have hround := roundNum_exact 1 0 (g := e - f.mb) hlow hhigh (by omega) (by omega)
  obtain ⟨hval, hlt⟩ := value_normal (f := f) (e := (e - f.mb + f.mb + f.bias).toNat) (by omega) (by omega) hlow hhigh
  rw [pow2_eq, Fmt.round, if_neg hpos, hv, hround] at hr
  refine ⟨_, hr, hlt.trans_le (Nat.pow_le_pow_right (by decide) (by unfold Fmt.width; omega)), m, e - 7, by exact_mod_cast hm1, by exact_mod_cast hm2,
    hval.trans ?_, by exact_mod_cast hbelow, by exact_mod_cast habove⟩
  rw [show (((e - f.mb + f.mb + f.bias).toNat : Nat) : Int) - f.bias - f.mb = e - f.mb by omega, ← hv]
  rfl

end Sys2Proof.Machine
end

section
namespace Sys2Proof.Machine

/-! ### The words (R119, R122, R123) -/

/-- Under an IEEE type a VOPF word is legal. -/
theorem ieee_legal {s : State} (hc : Claim.calm s) (h : vtFmt s.t.vtype = 2 ∨ vtFmt s.t.vtype = 3) :
    (!vtIll s.legalEnv.vt && s.legalEnv.ieee) = true := by
  obtain ⟨-, -, -, -, -, -, -, -, hdvt, -, hill, -⟩ := hc
  change (!vtIll s.t.dvtype && vtIeee s.t.dvtype) = true
  rw [hdvt, hill, vtIeee]
  rcases h with h | h <;> rw [h] <;> rfl

theorem not_ieee_illegal {s : State} (hc : Claim.calm s) (h2 : vtFmt s.t.vtype ≠ 2) (h3 : vtFmt s.t.vtype ≠ 3) :
    (!vtIll s.legalEnv.vt && s.legalEnv.ieee) = false := by
  obtain ⟨-, -, -, -, -, -, -, -, hdvt, -⟩ := hc
  change (!vtIll s.t.dvtype && vtIeee s.t.dvtype) = false
  rw [hdvt, vtIeee, beq_false_of_ne h2, beq_false_of_ne h3, Bool.or_self, Bool.and_false]

/-- A word that takes each active element from the elements of its number: of vs2, of the second source, and the old one of vd. -/
theorem writes_elementwise {i : Instr} {s : State} {p : PReg} {form : Form} {vs2 vd : VReg} {s1 : Reg} {g : Nat → Nat → Nat → Nat × Flags}
    (hc : Claim.calm s) (hl : classLegal i s.legalEnv = true) (he : elementWise i = true)
    (hb : (s.captureEntry i).b = captureSecond s.t form s1 false)
    (heff : vectorEffect i (s.captureEntry i) s.t.env (headState s i) = some ((headState s i).writeVector s.t.env vd.toNat (vtSew s.t.vtype)
      ((s.t.env.active s.t p).map fun k => (k, g (s.t.elem vs2.toNat (vtSew s.t.vtype) k)
        (secondSource s.t s.t.env form s1 (s.captureEntry i).b k) (s.t.elem vd.toNat (vtSew s.t.vtype) k))))) :
    Claim.writes s i vd (vtSew s.t.vtype) (Claim.active s p) fun k => g (s.t.elem vs2.toNat (vtSew s.t.vtype) k)
      (Claim.second s form s1 false (vtSew s.t.vtype) k) (s.t.elem vd.toNat (vtSew s.t.vtype) k) := by
  simp only [hb, secondSource_captured] at heff
  exact writes_active hc hl he (vtSew_width _) heff

/-- The estimate of each element (R123). -/
theorem rsqrte_cases {f : Fmt} (hf : f.estimates) (fl : BitVec 2) (x : Nat) : f.rsqrte (f.read fl x) = match f.read fl x with
    | .nan x => (f.nan, Claim.nv x false)
    | .inf m => if m then (f.nan, flagNV) else (f.zero false, 0)
    | .num m q => if q = 0 then (f.inf m, flagDZ) else if q < 0 then (f.nan, flagNV) else ((f.rsqrte (f.read fl x)).1, 0) := by
  generalize hv : f.read fl x = v
  cases v with
  | nan b => exact congrArg (Prod.mk _) (nv_nan b)
  | inf m => rfl
  | num m q =>
    by_cases h0 : q = 0
    · simp [Fmt.rsqrte, h0]
    by_cases hneg : q < 0
    · simp [Fmt.rsqrte, h0, hneg]
    have hq : 0 < q := lt_of_le_of_ne (not_lt.mp hneg) (Ne.symm h0)
    obtain ⟨hlo, hhi⟩ := read_bounds hf.1 hv hq
    obtain ⟨w, hw, -⟩ := rsqrte_estimate hf m hq hlo hhi
    simp only [if_neg h0, if_neg hneg]
    rw [hw]

/-- The half of O14 about VOPF, which holds: O14 fails by its half about VFCVT alone. -/
theorem vectorFloatWords : Claim.VectorFloatWords := by
  intro p form vs2 s1 vd s hc w fl f rm pa pb a b c top flushed does
  refine ⟨fun hty => ?_, fun h2 h3 => ?_⟩
  · have hl := ieee_legal hc hty
    have hf : f.estimates := vtIeeeFmt_estimates _
    have hflushed : ∀ x, f.flushed fl x = flushed x := flushed_eq f fl
    have hvalue : ∀ x, f.value (flushed x) = f.read fl x := fun x => by rw [← hflushed]; exact value_flushed hf.1 fl x
    refine ⟨?_, ?_, ?_, ?_, ?_, ?_, ?_, ?_, ?_, ?_, ?_, fun k => (f.rsqrte (a k)).1, ?_, fun k m q hk hq => ?_⟩
    · exact writes_of_eq (writes_elementwise (form := form) (s1 := s1) (vs2 := vs2)
        (g := fun x y _ => fpAdd false f rm fl (f.read fl x) (f.read fl y)) hc hl rfl rfl rfl) fun k => (sum_pair ..).symm
    · exact writes_of_eq (writes_elementwise (form := form) (s1 := s1) (vs2 := vs2)
        (g := fun x y _ => fpAdd true f rm fl (f.read fl x) (f.read fl y)) hc hl rfl rfl rfl) fun k => by
          rw [← negate_eq]; exact (sum_pair ..).symm
    · exact writes_of_eq (writes_elementwise (form := form) (s1 := s1) (vs2 := vs2)
        (g := fun x y _ => f.mul rm fl (f.read fl x) (f.read fl y)) hc hl rfl rfl rfl) fun k => (fmul_eq ..).symm
    · exact writes_of_eq (writes_elementwise (form := form) (s1 := s1) (vs2 := vs2)
        (g := fun x y _ => f.div rm fl (f.read fl x) (f.read fl y)) hc hl rfl rfl rfl) fun k => (div_eq_quotient ..).symm
    · exact writes_elementwise (form := .vv) (s1 := 0) (vs2 := vs2) (g := fun x _ _ => f.sqrt rm fl (f.read fl x)) hc hl rfl rfl rfl
    · exact writes_of_eq (writes_elementwise (form := form) (s1 := s1) (vs2 := vs2)
        (g := fun x y z => fpMacc false f rm fl (f.read fl x) (f.read fl y) (f.read fl z)) hc hl rfl rfl rfl) fun k => by
          rw [← mul_eq_product]; exact (fused_eq ..).symm
    · exact writes_of_eq (writes_elementwise (form := form) (s1 := s1) (vs2 := vs2)
        (g := fun x y z => fpMacc true f rm fl (f.read fl x) (f.read fl y) (f.read fl z)) hc hl rfl rfl rfl) fun k => by
          rw [product_opposite, ← mul_eq_product, ← negate_eq]; exact (fused_eq f rm fl (_, _) _).symm
    · exact writes_of_eq (writes_elementwise (form := form) (s1 := s1) (vs2 := vs2) (g := fun x y _ =>
        f.minMax false (f.flushed fl x) (f.flushed fl y) (f.value (f.flushed fl x)) (f.value (f.flushed fl y))) hc hl rfl rfl rfl) fun k => by
          simp only [hflushed, hvalue, a, b]; rfl
    · exact writes_of_eq (writes_elementwise (form := form) (s1 := s1) (vs2 := vs2) (g := fun x y _ =>
        f.minMax true (f.flushed fl x) (f.flushed fl y) (f.value (f.flushed fl x)) (f.value (f.flushed fl y))) hc hl rfl rfl rfl) fun k => by
          simp only [hflushed, hvalue, a, b]; rfl
    · exact writes_of_eq (writes_elementwise (form := form) (s1 := s1) (vs2 := vs2) (g := fun x y _ =>
        (f.withSign x (f.signOf y), 0)) hc hl rfl rfl rfl) fun k => by simp only [withSign_eq, top, pa, pb]; rfl
    · exact writes_of_eq (writes_elementwise (form := .vv) (s1 := 0) (vs2 := vs2) (g := fun x _ _ =>
        (f.classMask (f.flushed fl x), 0)) hc hl rfl rfl rfl) fun k => by simp only [hflushed, pa]; rfl
    · exact writes_of_eq (writes_elementwise (form := .vv) (s1 := 0) (vs2 := vs2) (g := fun x _ _ =>
        f.rsqrte (f.read fl x)) hc hl rfl rfl rfl) fun k => (rsqrte_cases hf fl _).symm
    · obtain ⟨hlo, hhi⟩ := read_bounds hf.1 hk hq
      obtain ⟨x, hx, hlt, hest⟩ := rsqrte_estimate hf m hq hlo hhi
      dsimp only
      rw [hk, hx]
      exact ⟨hlt, hest⟩
  · have hl := not_ieee_illegal hc h2 h3
    simp only [List.forall_mem_cons]
    exact ⟨refused_of_illegal hc rfl rfl rfl hl, refused_of_illegal hc rfl rfl rfl hl, refused_of_illegal hc rfl rfl rfl hl,
      refused_of_illegal hc rfl rfl rfl hl, refused_of_illegal hc rfl rfl rfl hl, refused_of_illegal hc rfl rfl rfl hl,
      refused_of_illegal hc rfl rfl rfl hl, refused_of_illegal hc rfl rfl rfl hl, refused_of_illegal hc rfl rfl rfl hl,
      refused_of_illegal hc rfl rfl rfl hl, refused_of_illegal hc rfl rfl rfl hl, refused_of_illegal hc rfl rfl rfl hl,
      List.forall_mem_nil _⟩

end Sys2Proof.Machine
end

section
namespace Sys2Proof.Machine

/-! # Conversions in a slot whose thread is not live (R128, R223, R385, R390)

A trap with no handler enabled ends the context, and that idles the live threads of the context alone. A thread that is not live keeps its
queue, so a word at its head that traps runs again as the queue drains, and traps again. -/

/-- The package at reset, with a type and a length in the slot in focus, whose thread is not live. -/
def deadSlot : State := { State.reset with t := { quarters := 1, vtype := 0x11, dvtype := 0x11, vl := 400, dvl := 400 } }

/-- VFCVT from f64 to f16, whose source group is v31 to v33. -/
def outsideCvt : Instr := .vfcvt 0 31 11 2

theorem deadSlot_calm : Claim.calm deadSlot := by unfold Claim.calm; decide +kernel

theorem deadSlot_unhandled : deadSlot.t.inTrap = false ∧ deadSlot.ctx.trapvec.getLsbD 0 = false := by decide +kernel

theorem outsideCvt_legal : Claim.cvtLegal (vtFmt deadSlot.t.vtype) (vtSew deadSlot.t.vtype) 11 0 31 2 := by
  refine .inl ⟨by decide, by decide, .inl (by decide +kernel), by decide +kernel⟩

theorem outsideCvt_outside : Claim.cvtOutside deadSlot 11 31 := by
  simp -zeta only [Claim.cvtOutside]
  decide +kernel

/-- A trap with no handler enabled sends one report, that of the end of the context (R390). -/
theorem takeTrap_reports {s : State} (i : TrapInfo) (h : s.t.inTrap = false) (hv : s.ctx.trapvec.getLsbD 0 = false) :
    (s.takeTrap i).reports.length = s.reports.length + 1 := by
  rw [takeTrap_ends s i h hv]
  obtain ⟨core, cores, he⟩ := endContext_frame s s.t.ctx i.cause i.pc i.val (s.trapTime s.t)
  rw [he, List.length_append]; rfl

/-- The reports that stand after a step. -/
def reportCount : Out → Nat
  | .next t => t.reports.length
  | _ => 0

/-- In the slot that is not live the word traps twice: two reports stand behind that of READY. -/
theorem outsideCvt_reports : reportCount (exec outsideCvt deadSlot) = 3 := by decide +kernel

/-- Refutes O14: a source group out of the registers does not trap once in every state. In a slot whose thread is not live, with no handler
enabled, the word stays at the head of its queue and traps again, so the end of its context is reported twice. -/
theorem not_vectorFloatAndConversionWords : ¬ Obligations.VectorFloatAndConversionWords := by
  rintro ⟨-, h⟩
  obtain ⟨-, htraps, -⟩ := h 0 31 11 2 deadSlot deadSlot_calm (by decide)
  obtain ⟨e, -, -, he⟩ := htraps outsideCvt_legal outsideCvt_outside
  have hreports := congrArg reportCount he
  rw [show Instr.vfcvt 0 31 11 2 = outsideCvt from rfl, outsideCvt_reports] at hreports
  have htwo : 3 = 2 := hreports.trans (takeTrap_reports _ deadSlot_unhandled.1 deadSlot_unhandled.2)
  exact absurd htwo (by decide)

end Sys2Proof.Machine
end

section
namespace Sys2Proof.Machine

/-! # The words of OP and OP-IMM on numbers, compares, branches, jumps and the hardware loop (R81 to R94, R106) -/

/-! ### Doublewords by their values -/

/-- A doubleword is given by its signed value. -/
theorem eq_ofInt {w : Nat} {x : BitVec w} {n : Int} (h : x.toInt = n) : x = BitVec.ofInt w n := by rw [← h, BitVec.ofInt_toInt]

/-- A doubleword is given by its unsigned value. -/
theorem eq_ofNat {w : Nat} {x : BitVec w} {n : Nat} (h : x.toNat = n) : x = BitVec.ofNat w n := by rw [← h, BitVec.ofNat_toNat, BitVec.setWidth_eq]

theorem add_eq_ofInt {w : Nat} (a b : BitVec w) : a + b = BitVec.ofInt w (a.toInt + b.toInt) := by
  rw [BitVec.ofInt_add, BitVec.ofInt_toInt, BitVec.ofInt_toInt]

theorem sub_eq_ofInt {w : Nat} (a b : BitVec w) : a - b = BitVec.ofInt w (a.toInt - b.toInt) := by
  rw [BitVec.sub_eq_add_neg, Int.sub_eq_add_neg, BitVec.ofInt_add, BitVec.ofInt_neg, BitVec.ofInt_toInt, BitVec.ofInt_toInt]

theorem mul_eq_ofInt {w : Nat} (a b : BitVec w) : a * b = BitVec.ofInt w (a.toInt * b.toInt) := by
  rw [BitVec.ofInt_mul, BitVec.ofInt_toInt, BitVec.ofInt_toInt]

/-- The high half of the signed product is the product's quotient by 2^64, rounded down (R83). -/
theorem mulHigh_eq_ofInt (a b : DWord) : mulHigh a b = BitVec.ofInt 64 (a.toInt * b.toInt / 2 ^ 64) := by
  have hp : a.signExtend 128 * b.signExtend 128 = BitVec.ofInt 128 (a.toInt * b.toInt) := (BitVec.ofInt_mul _ _).symm
  refine BitVec.eq_of_toNat_eq ?_
  rw [mulHigh, hp, BitVec.toNat_setWidth, BitVec.toNat_ushiftRight, BitVec.toNat_ofInt, BitVec.toNat_ofInt, Nat.shiftRight_eq_div_pow]
  generalize a.toInt * b.toInt = p
  omega

theorem mulHighU_eq_ofNat (a b : DWord) : mulHighU a b = BitVec.ofNat 64 (a.toNat * b.toNat / 2 ^ 64) := by
  have hlt : a.toNat * b.toNat < 2 ^ 128 := by have := Nat.mul_lt_mul'' a.isLt b.isLt; omega
  refine BitVec.eq_of_toNat_eq ?_
  rw [mulHighU, BitVec.toNat_setWidth, BitVec.toNat_ushiftRight, BitVec.toNat_mul, BitVec.toNat_setWidth, BitVec.toNat_setWidth, BitVec.toNat_ofNat,
    Nat.shiftRight_eq_div_pow, Nat.mod_eq_of_lt (show a.toNat < 2 ^ 128 by omega), Nat.mod_eq_of_lt (show b.toNat < 2 ^ 128 by omega), Nat.mod_eq_of_lt hlt]

/-- The one signed quotient out of range is that of the least doubleword by −1 (R84). -/
theorem overflows_iff (a b : DWord) : (a = BitVec.intMin 64 ∧ b = BitVec.allOnes 64) ↔ (a.toInt = -2 ^ 63 ∧ b.toInt = -1) := by
  rw [← BitVec.toInt_inj, ← BitVec.toInt_inj, BitVec.toInt_intMin, BitVec.toInt_allOnes]
  rfl

theorem divS_eq (a b : DWord) : divS a b = if b = 0 then 0xFFFFFFFFFFFFFFFF
    else if a.toInt = -2 ^ 63 ∧ b.toInt = -1 then BitVec.ofInt 64 (-2 ^ 63) else BitVec.ofInt 64 (a.toInt.tdiv b.toInt) := by
  unfold divS
  simp only [overflows_iff]
  rfl

theorem remS_eq (a b : DWord) : remS a b = if b = 0 then a
    else if a.toInt = -2 ^ 63 ∧ b.toInt = -1 then 0 else BitVec.ofInt 64 (a.toInt - b.toInt * a.toInt.tdiv b.toInt) := by
  unfold remS
  simp only [overflows_iff, Int.tmod_def]

theorem divU_eq (a b : DWord) : divU a b = if b = 0 then 0xFFFFFFFFFFFFFFFF else BitVec.ofNat 64 (a.toNat / b.toNat) := by
  unfold divU
  rw [← eq_ofNat (BitVec.toNat_udiv (x := a) (y := b))]
  rfl

theorem remU_eq (a b : DWord) : remU a b = if b = 0 then a else BitVec.ofNat 64 (a.toNat % b.toNat) := by
  unfold remU
  rw [← eq_ofNat (BitVec.toNat_umod (x := a) (y := b))]

theorem shiftLeft_eq_ofNat (a : DWord) (k : Nat) : a <<< k = BitVec.ofNat 64 (a.toNat * 2 ^ k) := by
  refine BitVec.eq_of_toNat_eq ?_
  rw [BitVec.toNat_shiftLeft, BitVec.toNat_ofNat, Nat.shiftLeft_eq]

theorem ushiftRight_eq_ofNat (a : DWord) (k : Nat) : a >>> k = BitVec.ofNat 64 (a.toNat / 2 ^ k) :=
  eq_ofNat (by rw [BitVec.toNat_ushiftRight, Nat.shiftRight_eq_div_pow])

theorem sshiftRight_eq_ofInt (a : DWord) (k : Nat) : a.sshiftRight k = BitVec.ofInt 64 (a.toInt / 2 ^ k) :=
  eq_ofInt (by rw [BitVec.toInt_sshiftRight, Int.shiftRight_eq_div_pow]; norm_cast)

theorem slt_eq (a b : DWord) : a.slt b = decide (a.toInt < b.toInt) := rfl

theorem ult_eq (a b : DWord) : a.ult b = decide (a.toNat < b.toNat) := rfl

theorem minS_eq_ofInt (a b : DWord) : minS a b = BitVec.ofInt 64 (min a.toInt b.toInt) := by
  unfold minS
  rw [slt_eq]
  by_cases h : a.toInt < b.toInt
  · rw [if_pos (decide_eq_true h), min_eq_left h.le, BitVec.ofInt_toInt]
  · rw [if_neg (by simpa using h), min_eq_right (not_lt.mp h), BitVec.ofInt_toInt]

theorem maxS_eq_ofInt (a b : DWord) : maxS a b = BitVec.ofInt 64 (max a.toInt b.toInt) := by
  unfold maxS
  rw [slt_eq]
  by_cases h : a.toInt < b.toInt
  · rw [if_pos (decide_eq_true h), max_eq_right h.le, BitVec.ofInt_toInt]
  · rw [if_neg (by simpa using h), max_eq_left (not_lt.mp h), BitVec.ofInt_toInt]

theorem minU_eq_ofNat (a b : DWord) : minU a b = BitVec.ofNat 64 (min a.toNat b.toNat) := by
  unfold minU
  rw [ult_eq]
  by_cases h : a.toNat < b.toNat
  · rw [if_pos (decide_eq_true h), min_eq_left h.le, BitVec.ofNat_toNat, BitVec.setWidth_eq]
  · rw [if_neg (by simpa using h), min_eq_right (not_lt.mp h), BitVec.ofNat_toNat, BitVec.setWidth_eq]

theorem maxU_eq_ofNat (a b : DWord) : maxU a b = BitVec.ofNat 64 (max a.toNat b.toNat) := by
  unfold maxU
  rw [ult_eq]
  by_cases h : a.toNat < b.toNat
  · rw [if_pos (decide_eq_true h), max_eq_right h.le, BitVec.ofNat_toNat, BitVec.setWidth_eq]
  · rw [if_neg (by simpa using h), max_eq_left (not_lt.mp h), BitVec.ofNat_toNat, BitVec.setWidth_eq]

/-! ### Counts of bits (R83) -/

/-- The leading zeros of a doubleword (R83). -/
theorem clz64_spec (a : DWord) : ∃ n ≤ 64, a.toNat < 2 ^ (64 - n) ∧ (n < 64 → 2 ^ (63 - n) ≤ a.toNat) ∧ clz64 a = BitVec.ofNat 64 n := by
  unfold clz64
  by_cases h : a = 0
  · rw [if_pos h, h]
    exact ⟨64, le_rfl, by decide, fun h => absurd h (by decide), rfl⟩
  · have h0 : a.toNat ≠ 0 := fun h0 => h (BitVec.eq_of_toNat_eq h0)
    have hlog : Nat.log2 a.toNat < 64 := (Nat.log2_lt h0).mpr a.isLt
    rw [if_neg h]
    refine ⟨63 - Nat.log2 a.toNat, by omega, ?_, fun _ => ?_, rfl⟩
    · rw [show 64 - (63 - Nat.log2 a.toNat) = Nat.log2 a.toNat + 1 by omega]
      exact Nat.lt_log2_self
    · rw [show 63 - (63 - Nat.log2 a.toNat) = Nat.log2 a.toNat by omega]
      exact Nat.log2_self_le h0

/-- The number of the lowest bit that is set, or 64 (R83). -/
theorem lowest_bit (a : DWord) : ∃ n ≤ 64, ((List.range 64).find? fun i => a.getLsbD i).getD 64 = n ∧ (∀ i < n, a.getLsbD i = false) ∧
    (n < 64 → a.getLsbD n = true) := by
  cases h : (List.range 64).find? fun i => a.getLsbD i with
  | none =>
    refine ⟨64, le_rfl, rfl, fun i hi => ?_, fun h => absurd h (by decide)⟩
    simpa using List.find?_eq_none.mp h i (List.mem_range.mpr hi)
  | some n =>
    obtain ⟨hn, hrange, hbelow⟩ := List.find?_range_eq_some.mp h
    rw [List.mem_range] at hrange
    exact ⟨n, hrange.le, rfl, fun i hi => by simpa using hbelow i hi, fun _ => hn⟩

/-- A power of two divides a number whose bits below it are all zero, and no other. -/
theorem two_pow_dvd_iff_testBit (x n : Nat) : 2 ^ n ∣ x ↔ ∀ i < n, x.testBit i = false := by
  rw [Nat.dvd_iff_mod_eq_zero]
  constructor
  · intro h i hi
    have := Nat.testBit_mod_two_pow x n i
    rw [h, Nat.zero_testBit] at this
    simpa [hi] using this.symm
  · intro h
    refine Nat.eq_of_testBit_eq fun i => ?_
    rw [Nat.testBit_mod_two_pow, Nat.zero_testBit]
    by_cases hi : i < n
    · rw [h i hi, Bool.and_false]
    · rw [decide_eq_false hi, Bool.false_and]

/-- The trailing zeros of a doubleword (R83). -/
theorem ctz64_spec (a : DWord) : ∃ n ≤ 64, 2 ^ n ∣ a.toNat ∧ (n < 64 → ¬ 2 ^ (n + 1) ∣ a.toNat) ∧ ctz64 a = BitVec.ofNat 64 n := by
  obtain ⟨n, hn, hfind, hbelow, hat⟩ := lowest_bit a
  refine ⟨n, hn, (two_pow_dvd_iff_testBit _ _).mpr hbelow, fun h hdvd => ?_, by rw [ctz64, hfind]⟩
  exact Bool.noConfusion ((hat h).symm.trans ((two_pow_dvd_iff_testBit _ _).mp hdvd n (Nat.lt_succ_self n)))

theorem popCount_eq_countP (a : DWord) : popCount a = (List.range 64).countP fun i => a.toNat.testBit i :=
  List.countP_eq_length_filter.symm

/-! ### Extensions and immediates (R16, R32, R83, R85) -/

/-- The low bits of a doubleword, sign-extended. -/
theorem signExtend_setWidth_eq_ofInt (a : DWord) {w : Nat} (hw : w ≤ 64) : (a.setWidth w).signExtend 64 = BitVec.ofInt 64 ((a.toNat : Int).bmod (2 ^ w)) :=
  eq_ofInt (by rw [BitVec.toInt_signExtend_of_le hw, BitVec.toInt_setWidth])

theorem setWidth_setWidth_eq_ofNat (a : DWord) : (a.setWidth 16).setWidth 64 = BitVec.ofNat 64 (a.toNat % 2 ^ 16) :=
  eq_ofNat (by rw [BitVec.toNat_setWidth, BitVec.toNat_setWidth, Nat.mod_eq_of_lt (by omega)])

theorem toInt_imm12 (i : BitVec 12) : (imm12 i).toInt = i.toInt := BitVec.toInt_signExtend_of_le (by decide)

/-- A jump offset counts words of four bytes (R32). -/
theorem jumpOffset_eq_ofInt (o : BitVec 19) : jumpOffset o = BitVec.ofInt 64 (4 * o.toInt) :=
  eq_ofInt (by rw [jumpOffset, BitVec.toInt_signExtend_of_le (by decide), BitVec.toInt_append]; simp)

/-- An upper immediate stands above twelve zero bits (R85). -/
theorem upperImm_eq_ofInt (i : BitVec 20) : upperImm i = BitVec.ofInt 64 (i.toInt * 2 ^ 12) :=
  eq_ofInt (by rw [upperImm, BitVec.toInt_signExtend_of_le (by decide), BitVec.toInt_append]; simp [mul_comm])

theorem addImm_eq_ofInt (a : DWord) (i : BitVec 12) : a + imm12 i = BitVec.ofInt 64 (a.toInt + i.toInt) := by
  rw [add_eq_ofInt, toInt_imm12]

theorem integerRegisterWords : Claim.IntegerRegisterWords := by
  intro rs2 rs1 rd s a b k
  have put : ∀ {v w : DWord}, v = w → Claim.toX s rd v = Claim.toX s rd w := congrArg (Claim.toX s rd)
  exact ⟨put (add_eq_ofInt a b), put (sub_eq_ofInt a b), put (mul_eq_ofInt a b), put (mulHigh_eq_ofInt a b), put (mulHighU_eq_ofNat a b),
    put (divS_eq a b), put (divU_eq a b), put (remS_eq a b), put (remU_eq a b), put (shiftLeft_eq_ofNat a k), put (ushiftRight_eq_ofNat a k),
    put (sshiftRight_eq_ofInt a k), rfl, rfl, rfl, rfl, put (minS_eq_ofInt a b), put (maxS_eq_ofInt a b), put (minU_eq_ofNat a b),
    put (maxU_eq_ofNat a b)⟩

theorem integerUnaryAndImmediateWords : Claim.IntegerUnaryAndImmediateWords := by
  intro rs1 rd imm sh up s a
  have put : ∀ {v w : DWord}, v = w → Claim.toX s rd v = Claim.toX s rd w := congrArg (Claim.toX s rd)
  obtain ⟨n, hn, hlow, hhigh, hclz⟩ := clz64_spec a
  obtain ⟨m, hm, hdvd, hndvd, hctz⟩ := ctz64_spec a
  exact ⟨⟨n, hn, hlow, hhigh, put hclz⟩, ⟨m, hm, hdvd, hndvd, put hctz⟩, put (congrArg _ (popCount_eq_countP a)),
    put (signExtend_setWidth_eq_ofInt a (by decide)), put (signExtend_setWidth_eq_ofInt a (by decide)), put (setWidth_setWidth_eq_ofNat a),
    put (addImm_eq_ofInt a imm), put (shiftLeft_eq_ofNat a _), put (ushiftRight_eq_ofNat a _), put (sshiftRight_eq_ofInt a _),
    rfl, rfl, rfl, put (upperImm_eq_ofInt up), put (congrArg _ (upperImm_eq_ofInt up))⟩

/-! ### Condition bits (R87 to R89) -/

theorem beq_eq_decide_toInt (a b : DWord) : (a == b) = decide (a.toInt = b.toInt) := by
  rw [Bool.beq_eq_decide_eq, decide_eq_decide, BitVec.toInt_inj]

theorem bne_eq_decide_toInt (a b : DWord) : (a != b) = decide (a.toInt ≠ b.toInt) := by
  rw [bne, beq_eq_decide_toInt, decide_not]

theorem not_slt_eq (a b : DWord) : (!a.slt b) = decide (b.toInt ≤ a.toInt) := by
  rw [slt_eq, ← decide_not, decide_eq_decide, not_lt]

theorem not_ult_eq (a b : DWord) : (!a.ult b) = decide (b.toNat ≤ a.toNat) := by
  rw [ult_eq, ← decide_not, decide_eq_decide, not_lt]

/-- The eight condition bits as CRDX reads them (R89): c0 is bit 0, and it is one. -/
theorem condBits_eq_ofNat (c : BitVec 8) : (c ||| 1).setWidth 64 = BitVec.ofNat 64 (c.toNat / 2 * 2 + 1) := by decide +revert

/-- A condition bit as CWRX writes it (R89). -/
theorem readC_cwrx (t : Thread) (a : DWord) {d : CReg} (hd : d ≠ 0) :
    ({ t with c := a.setWidth 8 ||| 1 } : Thread).readC d = a.toNat.testBit d.toNat := by
  have h0 : d.toNat ≠ 0 := fun h => hd (BitVec.eq_of_toNat_eq h)
  have h8 : d.toNat < 8 := d.isLt
  have h1 : (1 : BitVec 8).getLsbD d.toNat = false := by
    rw [show (1 : BitVec 8) = 1#8 from rfl, BitVec.getLsbD_one]; simp [h0]
  unfold Thread.readC
  rw [if_neg hd, BitVec.getLsbD_or, h1, Bool.or_false, BitVec.getLsbD_setWidth, decide_eq_true h8, Bool.true_and]
  rfl

theorem compareWords : Claim.CompareWords := by
  intro rs2 rs1 rd imm bit m cd ca cb na nb s a b i iu
  have put : ∀ {v w : Bool}, v = w → Claim.toC s m cd v = Claim.toC s m cd w := congrArg (Claim.toC s m cd)
  have hi : (imm12 imm).toInt = i := toInt_imm12 imm
  have hx : ∀ x y : Bool, (x != y) = (x ^^ y) := fun x y => by cases x <;> cases y <;> rfl
  refine ⟨put (beq_eq_decide_toInt a b), put (bne_eq_decide_toInt a b), rfl, put (not_slt_eq a b), rfl, put (not_ult_eq a b),
    put (hi ▸ beq_eq_decide_toInt a (imm12 imm)), put (hi ▸ bne_eq_decide_toInt a (imm12 imm)), put (hi ▸ slt_eq a (imm12 imm)),
    put (hi ▸ not_slt_eq a (imm12 imm)), rfl, put (not_ult_eq a (imm12 imm)), rfl, put ?_, ?_, ⟨_, rfl, fun d hd => readC_cwrx s.t a hd⟩, ?_, rfl⟩
  · rw [hx, hx]
  · exact congrArg (Claim.toX s rd) (condBits_eq_ofNat s.t.c)
  · exact fun old t => ⟨rfl, rfl, rfl, hx old t⟩

/-! ### Branches, jumps and the loop (R90 to R93) -/

theorem branchJumpLoopWords : Claim.BranchJumpLoopWords := by
  intro rs1 rd cond off imm lvl s there target last
  have hthere : s.t.pc + jumpOffset off = there := by rw [jumpOffset_eq_ofInt]
  have hjalr : exec (.jalr imm rs1 rd) s = if target.toNat % 4 ≠ 0 then Claim.traps s cause.misalignedFetch target
      else .next ((s.setX rd (s.t.pc + 4)).complete target) := rfl
  have hloop : exec (.loop imm rs1) s = if s.t.readX rs1 = 0 then .next (({ s with t := { s.t with lcount := 0 } } : State).complete (last + 4))
      else .next ({ s with t := { s.t with lcount := s.t.readX rs1, lstart := s.t.pc + 4, lend := last } } : State).advance := rfl
  refine ⟨?_, ?_, ?_, fun h => ?_, fun h => ?_, fun h => ?_, fun h => ?_, rfl⟩
  · rw [← hthere]; rfl
  · rw [← hthere]
    change branch (!s.t.readC cond) off s = _
    unfold branch
    cases s.t.readC cond <;> rfl
  · rw [← hthere]; rfl
  · rw [hjalr, if_neg (by omega)]
  · rw [hjalr, if_pos h]
  · rw [hloop, if_pos h]
  · rw [hloop, if_neg h]

/-- Settles O2: each word of the scalar stream is its function of the registers, and that function is the number which the table names. -/
theorem integerCompareAndBranchWords : Obligations.IntegerCompareAndBranchWords :=
  ⟨integerRegisterWords, integerUnaryAndImmediateWords, compareWords, branchJumpLoopWords⟩

end Sys2Proof.Machine
end

section
namespace Sys2Proof.Machine

/-! # The scalar float words that select, move, compare and convert (R67, R68, R98 to R101) -/

/-! ### Minimum and maximum (R98) -/

/-- A value raises NV where it is a signalling NaN (R62). -/
theorem nv_eq_ite (v : FVal) : v.nv = if v = .nan true then flagNV else 0 := by
  cases v with
  | nan x => cases x <;> rfl
  | inf m => rfl
  | num m q => rfl

/-- Two values raise NV where one of them is a signalling NaN (R62). -/
theorem nv_or_nv (a b : FVal) : a.nv ||| b.nv = if a = .nan true ∨ b = .nan true then flagNV else 0 := by
  rw [nv_eq_ite, nv_eq_ite]
  by_cases ha : a = .nan true <;> by_cases hb : b = .nan true <;> simp [ha, hb]

theorem isNan_iff (v : FVal) : v.isNan = true ↔ ∃ x, v = .nan x := by
  cases v <;> simp [FVal.isNan]

theorem isNan_eq_false {v : FVal} (h : ¬ ∃ x, v = .nan x) : v.isNan = false := by
  rw [← Bool.not_eq_true, isNan_iff]; exact h

theorem nv_number {v : FVal} (h : ¬ ∃ x, v = .nan x) : v.nv = 0 := by
  rw [nv_eq_ite, if_neg fun e => h ⟨true, e⟩]

/-- FMIN and FMAX order −0 below +0 (R98). -/
theorem less_iff_below {a b : FVal} (ha : ¬ ∃ x, a = .nan x) (hb : ¬ ∃ x, b = .nan x) :
    (a.lt b || (a.eq b && a.neg && !b.neg)) = true ↔ Claim.below a b := by
  cases a with
  | nan x => exact absurd ⟨x, rfl⟩ ha
  | inf m =>
    cases b with
    | nan y => exact absurd ⟨y, rfl⟩ hb
    | inf n => cases m <;> cases n <;> simp [FVal.lt, FVal.eq, FVal.neg, Claim.below]
    | num n q => cases m <;> simp [FVal.lt, FVal.eq, Claim.below]
  | num m p =>
    cases b with
    | nan y => exact absurd ⟨y, rfl⟩ hb
    | inf n => simp [FVal.lt, FVal.eq, Claim.below]
    | num n q => simp [FVal.lt, FVal.eq, FVal.neg, Claim.below, and_assoc]

/-- A value that lies below another, or above one, is no NaN. -/
theorem below_numbers {a b : FVal} (h : Claim.below a b) : (¬ ∃ x, a = .nan x) ∧ ¬ ∃ x, b = .nan x := by
  constructor
  · rintro ⟨x, rfl⟩; exact h
  · rintro ⟨x, rfl⟩; cases a <;> exact h

theorem below_asymm {a b : FVal} (h : Claim.below a b) : ¬ Claim.below b a := by
  intro k
  cases a with
  | nan x => exact h
  | inf m => cases b with
    | nan y => exact h
    | inf n => exact Bool.noConfusion (h.1.symm.trans k.2)
    | num n q => exact Bool.noConfusion (Eq.trans (Eq.symm h) k)
  | num m p => cases b with
    | nan y => exact h
    | inf n => exact Bool.noConfusion (Eq.trans (Eq.symm k) h)
    | num n q =>
      rcases h with h | ⟨rfl, hm, hn⟩ <;> rcases k with k | ⟨hk, km, kn⟩
      · exact lt_asymm h k
      · exact h.ne' hk
      · exact lt_irrefl _ k
      · exact Bool.noConfusion (hm.symm.trans kn)

section
variable (f : Fmt) (max : Bool) (pa pb : Nat) {a b : FVal}

theorem minMax_nans (ha : ∃ x, a = .nan x) (hb : ∃ x, b = .nan x) : f.minMax max pa pb a b = (f.nan, a.nv ||| b.nv) := by
  simp [Fmt.minMax, (isNan_iff a).mpr ha, (isNan_iff b).mpr hb]

theorem minMax_left_nan (ha : ∃ x, a = .nan x) (hb : ¬ ∃ x, b = .nan x) : f.minMax max pa pb a b = (pb, a.nv ||| b.nv) := by
  simp [Fmt.minMax, (isNan_iff a).mpr ha, isNan_eq_false hb]

theorem minMax_right_nan (ha : ¬ ∃ x, a = .nan x) (hb : ∃ x, b = .nan x) : f.minMax max pa pb a b = (pa, a.nv ||| b.nv) := by
  simp [Fmt.minMax, isNan_eq_false ha, (isNan_iff b).mpr hb]

/-- The minimum or maximum of two numbers raises nothing. -/
theorem minMax_numbers (ha : ¬ ∃ x, a = .nan x) (hb : ¬ ∃ x, b = .nan x) [Decidable (Claim.below a b)] :
    f.minMax max pa pb a b = (if decide (Claim.below a b) != max then pa else pb, 0) := by
  have hl : (a.lt b || (a.eq b && a.neg && !b.neg)) = decide (Claim.below a b) := by
    rw [Bool.eq_iff_iff, less_iff_below ha hb, decide_eq_true_iff]
  unfold Fmt.minMax
  simp only [isNan_eq_false ha, isNan_eq_false hb, nv_number ha, nv_number hb, hl, Bool.and_self, Bool.false_eq_true, if_false]
  rfl

end

/-! ### Signs and classes (R99) -/

/-- A zero of a sign has that sign in its top bit. -/
theorem zero_eq_mul (f : Fmt) (n : Bool) : f.zero n = n.toNat * 2 ^ (f.width - 1) := by
  have hw : f.width - 1 = f.eb + f.mb := by unfold Fmt.width; omega
  rw [Fmt.zero, hw]
  cases n <;> simp

/-- The sign of a pattern of the format's width is what stands above its other bits. -/
theorem toNat_signOf {f : Fmt} {x : Nat} (hx : x < 2 ^ f.width) : (f.signOf x).toNat = x / 2 ^ (f.width - 1) := by
  have hw : f.width - 1 = f.eb + f.mb := by unfold Fmt.width; omega
  have hlt : x / 2 ^ (f.width - 1) < 2 := by
    rw [Nat.div_lt_iff_lt_mul (Nat.two_pow_pos _), ← Nat.pow_succ']
    exact hx.trans_le (Nat.pow_le_pow_right (by decide) (by omega))
  rw [Fmt.signOf, bits, pow_one, ← hw, Nat.mod_eq_of_lt hlt]
  obtain h | h := Nat.le_one_iff_eq_zero_or_eq_one.mp (Nat.lt_succ_iff.mp hlt)
  all_goals rw [h]; rfl

/-- A pattern with a sign put in the place of its own (R99). -/
theorem withSign_eq_add (f : Fmt) (x : Nat) (n : Bool) : f.withSign x n = x % 2 ^ (f.width - 1) + n.toNat * 2 ^ (f.width - 1) := by
  have hw : f.width - 1 = f.eb + f.mb := by unfold Fmt.width; omega
  rw [Fmt.withSign, zero_eq_mul, hw]

theorem toNat_not (b : Bool) : (!b).toNat = 1 - b.toNat := by cases b <;> rfl

theorem toNat_bne (a b : Bool) : (a != b).toNat = (a.toNat + b.toNat) % 2 := by cases a <;> cases b <;> rfl

/-- The sign of a number's pattern is the number's, that of a zero as well (R57). -/
theorem signOf_of_value {f : Fmt} {x : Nat} {n : Bool} {q : Rat} (h : f.value x = .num n q) : f.signOf x = n := by
  unfold Fmt.value at h
  dsimp only at h
  split at h
  · split at h <;> cases h
  · cases h; rfl

/-- A number other than zero has the sign that it carries. -/
theorem sign_of_value {f : Fmt} {x : Nat} {n : Bool} {q : Rat} (h : f.value x = .num n q) (hq : q ≠ 0) : if n then q < 0 else 0 < q := by
  obtain ⟨-, rfl⟩ := value_num h
  have hm := magnitude_nonneg f x
  cases n with
  | true => exact neg_lt_zero.mpr (lt_of_le_of_ne hm fun e => hq (by rw [if_pos rfl, ← e, neg_zero]))
  | false => exact lt_of_le_of_ne hm (Ne.symm hq)

/-- What FCLASS says of the value `a` of a pattern with exponent field `e`, where bit k alone is set (R99). -/
def classed (a : FVal) (e k : Nat) : Prop :=
  (k = 0 ↔ a = .inf true) ∧ (k = 7 ↔ a = .inf false) ∧ (k = 8 ↔ a = .nan true) ∧ (k = 9 ↔ a = .nan false) ∧
  (k = 3 ↔ a = .num true 0) ∧ (k = 4 ↔ a = .num false 0) ∧
  (k = 1 ∨ k = 2 ↔ ∃ x q, a = .num x q ∧ q < 0) ∧ (k = 5 ∨ k = 6 ↔ ∃ x q, a = .num x q ∧ 0 < q) ∧
  (k = 2 ∨ k = 5 → e = 0) ∧ (k = 1 ∨ k = 6 → e ≠ 0)

theorem classMask_classed (f : Fmt) (x : Nat) : ∃ k ≤ 9, f.classMask x = 2 ^ k ∧ classed (f.value x) (bits x f.mb f.eb) k := by
  unfold Fmt.classMask
  dsimp only
  cases hv : f.value x with
  | nan s => cases s with
    | true => exact ⟨8, by decide, rfl, by simp [classed]⟩
    | false => exact ⟨9, by decide, rfl, by simp [classed]⟩
  | inf n => cases n with
    | true => exact ⟨0, by decide, rfl, by simp [classed]⟩
    | false => exact ⟨7, by decide, rfl, by simp [classed]⟩
  | num n q =>
    rw [signOf_of_value hv]
    dsimp only
    by_cases hq : q = 0
    · subst hq
      cases n with
      | true => exact ⟨3, by decide, by simp, by simp [classed]⟩
      | false => exact ⟨4, by decide, by simp, by simp [classed]⟩
    · have hsign := sign_of_value hv hq
      by_cases he : bits x f.mb f.eb = 0
      · cases n with
        | true =>
          have hlt : q < 0 := hsign
          exact ⟨2, by decide, by simp [hq, he], by simp [classed, hq, he, hlt, hlt.le]⟩
        | false =>
          have hlt : 0 < q := hsign
          exact ⟨5, by decide, by simp [hq, he], by simp [classed, hq, he, hlt, hlt.le]⟩
      · cases n with
        | true =>
          have hlt : q < 0 := hsign
          exact ⟨1, by decide, by simp [hq, he], by simp [classed, hq, he, hlt, hlt.le]⟩
        | false =>
          have hlt : 0 < q := hsign
          exact ⟨6, by decide, by simp [hq, he], by simp [classed, hq, he, hlt, hlt.le]⟩

/-! ### Compares (R101) -/

theorem fpCompare_nan (k : Nat) {a b : FVal} (h : (∃ x, a = .nan x) ∨ ∃ x, b = .nan x) :
    fpCompare k a b = (false, if k = 0 then if a = .nan true ∨ b = .nan true then flagNV else 0 else flagNV) := by
  have hn : (a.isNan || b.isNan) = true := by rw [Bool.or_eq_true, isNan_iff, isNan_iff]; exact h
  unfold fpCompare
  rw [hn, if_pos rfl, nv_or_nv]

/-- FCLE of two numbers of which one is a number or both are (R101). -/
theorem lt_or_eq_num (x y : Bool) (p q : Rat) : ((FVal.num x p).lt (.num y q) || (FVal.num x p).eq (.num y q)) = decide (p ≤ q) := by
  simp only [FVal.lt, FVal.eq, le_iff_lt_or_eq, Bool.decide_or]

theorem lt_or_eq_inf (x y : Bool) : ((FVal.inf x).lt (.inf y) || (FVal.inf x).eq (.inf y)) = (x || !y) := by
  cases x <;> cases y <;> rfl

theorem lt_inf (x y : Bool) : (FVal.inf x).lt (.inf y) = (x && !y) := by cases x <;> cases y <;> rfl

theorem lt_inf_num (x y : Bool) (p : Rat) : (FVal.inf x).lt (.num y p) = x := by cases x <;> rfl

theorem scalarFloatSelectMoveCompareWords : Claim.ScalarFloatSelectMoveCompareWords := by
  intro fmt rs2 rs1 rd m cd s f pa pb a b nan top low nv cmp
  classical
  have hmin : exec (.fmin fmt rs2 rs1 rd) s = Claim.toF s rd (f.minMax false pa pb a b).1 (f.minMax false pa pb a b).2 := rfl
  have hmax : exec (.fmax fmt rs2 rs1 rd) s = Claim.toF s rd (f.minMax true pa pb a b).1 (f.minMax true pa pb a b).2 := rfl
  have hcmp : ∀ k, fpCompareWord k fmt rs2 rs1 m cd s = cmp (fpCompare k a b).1 (fpCompare k a b).2 := fun _ => rfl
  have heq : exec (.fceq fmt rs2 rs1 m cd) s = cmp (fpCompare 0 a b).1 (fpCompare 0 a b).2 := hcmp 0
  have hlt : exec (.fclt fmt rs2 rs1 m cd) s = cmp (fpCompare 1 a b).1 (fpCompare 1 a b).2 := hcmp 1
  have hle : exec (.fcle fmt rs2 rs1 m cd) s = cmp (fpCompare 2 a b).1 (fpCompare 2 a b).2 := hcmp 2
  have hpa : (f.signOf pa).toNat = pa / top := toNat_signOf (Nat.mod_lt _ (Nat.two_pow_pos _))
  have hpb : (f.signOf pb).toNat = pb / top := toNat_signOf (Nat.mod_lt _ (Nat.two_pow_pos _))
  have hsign : ∀ n : Bool, f.withSign pa n = low + n.toNat * top := withSign_eq_add f pa
  have hnv : a.nv ||| b.nv = nv := nv_or_nv a b
  rw [hmin, hmax, heq, hlt, hle]
  refine ⟨fun ha hb => ?_, fun ha hb => ?_, fun ha hb => ?_, fun h => ?_, fun h => ?_, fun ha hb h k => ?_,
    ?_, ?_, ?_, rfl, rfl, ?_, fun h => ?_, ?_, ?_, ?_, ?_⟩
  · rw [minMax_nans f _ pa pb ha hb, minMax_nans f _ pa pb ha hb, hnv]; exact ⟨rfl, rfl⟩
  · rw [minMax_left_nan f _ pa pb ha hb, minMax_left_nan f _ pa pb ha hb, hnv]; exact ⟨rfl, rfl⟩
  · rw [minMax_right_nan f _ pa pb ha hb, minMax_right_nan f _ pa pb ha hb, hnv]; exact ⟨rfl, rfl⟩
  · obtain ⟨ha, hb⟩ := below_numbers h
    rw [minMax_numbers f _ pa pb ha hb, minMax_numbers f _ pa pb ha hb, decide_eq_true h]; exact ⟨rfl, rfl⟩
  · obtain ⟨hb, ha⟩ := below_numbers h
    rw [minMax_numbers f _ pa pb ha hb, minMax_numbers f _ pa pb ha hb, decide_eq_false (below_asymm h)]; exact ⟨rfl, rfl⟩
  · rw [minMax_numbers f _ pa pb ha hb, minMax_numbers f _ pa pb ha hb, decide_eq_false h]
    exact ⟨⟨pb, .inr rfl, rfl⟩, pa, .inl rfl, rfl⟩
  · change Host.Outcome.next (s.setF rd (f.withSign pa (f.signOf pb))).advance = _
    rw [hsign, hpb]
  · change Host.Outcome.next (s.setF rd (f.withSign pa (!f.signOf pb))).advance = _
    rw [hsign, toNat_not, hpb]
  · change Host.Outcome.next (s.setF rd (f.withSign pa (f.signOf pa != f.signOf pb))).advance = _
    rw [hsign, toNat_bne, hpa, hpb]
  · obtain ⟨k, hk, hmask, hclass⟩ := classMask_classed f pa
    exact ⟨k, hk, congrArg (fun v => Claim.toX s rd (BitVec.ofNat 64 v)) hmask, hclass⟩
  · rw [fpCompare_nan 0 h, fpCompare_nan 1 h, fpCompare_nan 2 h]
    exact ⟨rfl, rfl, rfl⟩
  · intro x y p q ha hb
    rw [ha, hb]
    exact ⟨rfl, rfl, congrArg (cmp · 0) (lt_or_eq_num x y p q)⟩
  · intro x y p ha hb
    rw [ha, hb]
    exact ⟨rfl, congrArg (cmp · 0) (lt_inf_num x y p), congrArg (cmp · 0) ((Bool.or_false _).trans (lt_inf_num x y p))⟩
  · intro x y p ha hb
    rw [ha, hb]
    exact ⟨rfl, rfl, congrArg (cmp · 0) (Bool.or_false _)⟩
  · intro x y ha hb
    rw [ha, hb]
    exact ⟨rfl, congrArg (cmp · 0) (lt_inf x y), congrArg (cmp · 0) (lt_or_eq_inf x y)⟩

/-! ### Conversions (R67, R68, R100) -/

theorem convert_eq_once (f : Fmt) (rm : BitVec 3) (fl : BitVec 2) (v : FVal) :
    f.convert rm fl v = ((Claim.once f rm fl v).1, (if v = .nan true then flagNV else 0) ||| (Claim.once f rm fl v).2) := by
  unfold Fmt.convert
  rw [round_once, nv_eq_ite]

theorem ofInteger_eq (f : Fmt) (rm : BitVec 3) (fl : BitVec 2) (n : Int) :
    f.ofInteger rm fl n = (if n = 0 then 0 else (f.roundNum rm fl n).1, if n = 0 then 0 else (f.roundNum rm fl n).2) := by
  unfold Fmt.ofInteger Fmt.round
  by_cases h : n = 0
  · subst h; rfl
  · simp [h]

theorem toInteger_signed (rm : BitVec 3) (w : Nat) (v : FVal) : toInteger rm true w v = Claim.integer rm (-2 ^ (w - 1)) (2 ^ (w - 1) - 1) v := by
  cases v <;> rfl

theorem toInteger_unsigned (rm : BitVec 3) (w : Nat) (v : FVal) : toInteger rm false w v = Claim.integer rm 0 (2 ^ w - 1) v := by
  cases v <;> rfl

/-- A conversion to an integer saturates at the bounds of its width (R67). -/
theorem integer_bounds (rm : BitVec 3) {lo hi : Int} (h : lo ≤ hi) (v : FVal) :
    lo ≤ (Claim.integer rm lo hi v).1 ∧ (Claim.integer rm lo hi v).1 ≤ hi := by
  cases v with
  | nan s => exact ⟨h, le_rfl⟩
  | inf n => cases n with
    | true => exact ⟨le_rfl, h⟩
    | false => exact ⟨h, le_rfl⟩
  | num n q =>
    unfold Claim.integer
    dsimp only
    by_cases h1 : hi < roundInt rm q
    · rw [if_pos h1]; exact ⟨h, le_rfl⟩
    · by_cases h2 : roundInt rm q < lo
      · rw [if_neg h1, if_pos h2]; exact ⟨le_rfl, h⟩
      · rw [if_neg h1, if_neg h2]; exact ⟨not_lt.mp h2, not_lt.mp h1⟩

/-- A signed word stands sign-extended in its register (R100). -/
theorem intResult_signed {n : Int} (h1 : -2 ^ 31 ≤ n) (h2 : n ≤ 2 ^ 31 - 1) : intResult true 32 n = BitVec.ofInt 64 n :=
  eq_ofInt (by
    rw [intResult, if_pos rfl, if_pos rfl, BitVec.toInt_signExtend_of_le (by decide), BitVec.toInt_ofInt]
    exact Int.bmod_eq_of_le (by norm_num; omega) (by norm_num; omega))

/-- An unsigned word stands zero-extended in its register (R100). -/
theorem intResult_unsigned {n : Int} (h1 : 0 ≤ n) (h2 : n ≤ 2 ^ 32 - 1) : intResult false 32 n = BitVec.ofNat 64 n.toNat :=
  eq_ofNat (by
    rw [intResult, if_pos rfl, if_neg Bool.false_ne_true, BitVec.toNat_setWidth, BitVec.toNat_ofInt]
    omega)

theorem scalarConversions : Claim.ScalarConversions := by
  intro fmt sel rs1 rd s f x rm go from_ ofInt toInt toWord
  have hfrom : ∀ g : Fmt, go = writeFp rd (f.convert rm 0 (s.t.fVal g rs1)) s → from_ g := fun g h => by
    rw [convert_eq_once] at h; exact h
  have hint : ∀ n : Int, go = writeFp rd (f.ofInteger rm 0 n) s → ofInt n := fun n h => by
    rw [ofInteger_eq] at h; exact h
  have hto : ∀ (m : BitVec 3) (signed : Bool) (w : Nat) (lo hi : Int),
      go = .next ((s.setX rd (intResult signed w (toInteger m signed w (s.t.fVal f rs1)).1)).orFlags (toInteger m signed w (s.t.fVal f rs1)).2).advance →
      toInteger m signed w (s.t.fVal f rs1) = Claim.integer m lo hi (s.t.fVal f rs1) →
      intResult signed w (Claim.integer m lo hi (s.t.fVal f rs1)).1 = BitVec.ofInt 64 (Claim.integer m lo hi (s.t.fVal f rs1)).1 → toInt m lo hi :=
    fun m signed w lo hi h hi' hr => by rw [hi', hr] at h; exact h
  have hword : ∀ m : BitVec 3,
      go = .next ((s.setX rd (intResult false 32 (toInteger m false 32 (s.t.fVal f rs1)).1)).orFlags (toInteger m false 32 (s.t.fVal f rs1)).2).advance →
      toWord m := fun m h => by
    obtain ⟨h1, h2⟩ := integer_bounds m (show (0 : Int) ≤ 2 ^ 32 - 1 by decide) (s.t.fVal f rs1)
    rw [toInteger_unsigned, intResult_unsigned h1 h2] at h; exact h
  have hsigned : ∀ m : BitVec 3, intResult true 32 (Claim.integer m (-2 ^ 31) (2 ^ 31 - 1) (s.t.fVal f rs1)).1 = _ := fun m =>
    intResult_signed (integer_bounds m (by decide) _).1 (integer_bounds m (by decide) _).2
  refine ⟨?_, ?_, ?_, ?_, ?_, ?_, ?_, ?_, ?_, ?_, ?_, ?_, ?_, ?_, ?_, ?_⟩ <;> intro h
  · exact hfrom f32 (by subst h; rfl)
  · exact hfrom f64 (by subst h; rfl)
  · exact hfrom f16 (by subst h; rfl)
  · exact hfrom bf16 (by subst h; rfl)
  · exact hint _ (by subst h; rfl)
  · exact hint _ (by subst h; rfl)
  · exact hint _ (by rw [← BitVec.toInt_setWidth]; subst h; rfl)
  · exact hint _ (by rw [← BitVec.toNat_setWidth]; subst h; rfl)
  · exact hto rm true 64 _ _ (by subst h; rfl) (toInteger_signed rm 64 _) rfl
  · exact hto rm false 64 _ _ (by subst h; rfl) (toInteger_unsigned rm 64 _) rfl
  · exact hto rm true 32 _ _ (by subst h; rfl) (toInteger_signed rm 32 _) (hsigned rm)
  · exact hword rm (by subst h; rfl)
  · exact hto 1 true 64 _ _ (by subst h; rfl) (toInteger_signed 1 64 _) rfl
  · exact hto 1 false 64 _ _ (by subst h; rfl) (toInteger_unsigned 1 64 _) rfl
  · exact hto 1 true 32 _ _ (by subst h; rfl) (toInteger_signed 1 32 _) (hsigned 1)
  · exact hword 1 (by subst h; rfl)

/-- Settles O4: the cases of the operands' values for the words that select and compare, and the rows of the table of selectors for FCVT. -/
theorem scalarFloatMovesAndConversions : Obligations.ScalarFloatMovesAndConversions :=
  ⟨scalarFloatSelectMoveCompareWords, scalarConversions⟩

end Sys2Proof.Machine
end

section
namespace Sys2Proof.Machine

/-! # Scalar loads and stores, their traps, and the scalar access queue (R103 to R109, R239, R243, R244, R449 to R451) -/

/-! ### Bytes and the registers that take them -/

/-- With no segment open an agent sees memory (R242, R430). -/
theorem bytesFor_memory {s : State} {ag : Agent} (h : s.segment ag = none) (pa n : Nat) :
    s.bytesFor ag pa n = (List.range n).map fun i => Claim.byte s (pa + i) := by
  unfold State.bytesFor State.byteFor
  rw [h]
  rfl

theorem ofNat_eq_ofInt (w v : Nat) : BitVec.ofNat w v = BitVec.ofInt w v := (BitVec.ofInt_natCast w v).symm

/-- A number cut to a width of at most 64 bits and sign-extended. -/
theorem signExtend_ofNat {w : Nat} (hw : w ≤ 64) (v : Nat) : (BitVec.ofNat w v).signExtend 64 = BitVec.ofInt 64 (Int.bmod v (2 ^ w)) :=
  eq_ofInt (by rw [BitVec.toInt_signExtend_of_le hw, ofNat_eq_ofInt, BitVec.toInt_ofInt])

/-- A word of a width as a register takes it, sign-extended (R103, R108). -/
theorem extendBytes_eq_ofInt {n : Nat} (hn : n = 1 ∨ n = 2 ∨ n = 4 ∨ n = 8) (v : Nat) :
    extendBytes n v = BitVec.ofInt 64 (Int.bmod v (2 ^ (8 * n))) := by
  rcases hn with rfl | rfl | rfl | rfl
  · exact signExtend_ofNat (by decide) v
  · exact signExtend_ofNat (by decide) v
  · exact signExtend_ofNat (by decide) v
  · exact eq_ofInt ((congrArg BitVec.toInt (ofNat_eq_ofInt 64 v)).trans (BitVec.toInt_ofInt _))

/-! ### An access at its word (R104, R107) -/

section
variable {s u : State} {a : ScalarAcc} {pa : Nat}

/-- The check of an access passes as its claim says. -/
theorem checkScalar_passes (h : Claim.passes s u a.kind.access a.va a.bytes pa) : ∃ page, s.checkScalar a = .ok ({ a with pa := pa, page := page }, u) :=
  checkScalar_ok h.1 h.2.1.choose_spec h.2.2

/-- An access in one piece is performed at its word. -/
theorem accessScalar_performs (h : Claim.passes s u a.kind.access a.va a.bytes pa) (ho : Claim.atOnce u a.bytes pa) (hm : a.more = []) :
    ∃ page, s.accessScalar a = .ok ((Claim.counted u).performScalar { a with pa := pa, page := page }) := by
  obtain ⟨page, hc⟩ := checkScalar_passes h
  obtain ⟨hd, hq, hh⟩ := ho
  refine ⟨page, accessScalar_now hc hd hq ?_⟩
  simp [State.scalarHeld, ScalarAcc.pieces, hm, hh]

/-- A line that is bad gives data-integrity, and is in quarantine from then on (R449 to R451). -/
theorem checkLine_bad (h : u.lineOk (pa / 128) = false) (ctx kind va : Nat) : u.checkLine ctx kind va pa =
    raise (if u.quar.contains (pa / 128) then u else u.order.quarantine ctx kind (reportVa kind va) (pa / 128) (pa / 128 * 128))
      cause.integrity (BitVec.ofNat 64 (va / 128 * 128)) := by
  unfold State.checkLine
  by_cases hq : u.quar.contains (pa / 128) = true
  · rw [if_pos hq, if_pos hq]
  · have hc : sget u.chk (pa / 128) ≠ 0 := fun hc => by
      rw [Bool.not_eq_true] at hq
      rw [State.lineOk, hc, hq] at h
      exact absurd h (by decide)
    rw [if_neg hq, if_neg hq, if_neg hc]

end

section
variable {s u : State} {k : ScalarKind} {n pa : Nat} {v : DWord} {rs1 rd : Reg} {imm : BitVec 12}

theorem accessWord_performs (h : Claim.passes s u k.access (effective rs1 imm s) n pa) (ho : Claim.atOnce u n pa) : ∃ page,
    accessWord k n v rs1 imm s = .next ((Claim.counted u).performScalar
      { kind := k, bytes := n, va := effective rs1 imm s, pa := pa, val := v, page := page }).advance := by
  obtain ⟨page, ha⟩ := accessScalar_performs (a := { kind := k, bytes := n, va := effective rs1 imm s, pa := 0, val := v }) h ho rfl
  refine ⟨page, ?_⟩
  unfold accessWord
  rw [ha]
  rfl

/-- An access that is deferred, or that stands behind another, enters the queue, and its word completes (R243, R244). -/
theorem accessWord_queues (hk : k.commits = false) (h : Claim.passes s u k.access (effective rs1 imm s) n pa)
    (hd : u.ch.deferScalar = true ∨ u.t.scalars ≠ []) : ∃ page, accessWord k n v rs1 imm s = .next ({ u with t := { (Claim.counted u).t with
      scalars := u.t.scalars ++ [{ kind := k, bytes := n, va := effective rs1 imm s, pa := pa, val := v, page := page }] } } : State).advance := by
  obtain ⟨page, hc⟩ := checkScalar_passes (a := { kind := k, bytes := n, va := effective rs1 imm s, pa := 0, val := v }) h
  have hdefer : u.defers k = true := by
    unfold State.defers
    rcases hd with hd | hd <;> simp [hk, hd]
  refine ⟨page, ?_⟩
  unfold accessWord
  rw [accessScalar_later hc hdefer]
  rfl

theorem accessWord_misaligned (h : (effective rs1 imm s).toNat % n ≠ 0) :
    accessWord k n v rs1 imm s = Claim.traps s cause.misaligned (effective rs1 imm s) := by
  unfold accessWord State.accessScalar
  rw [checkScalar_misaligned h]
  rfl

/-- The cause that the translation of an access meets is raised at its word (R104). -/
theorem accessWord_refused {c : Cause} {w : DWord} (h : (effective rs1 imm s).toNat % n = 0)
    (ht : s.translate s.agent k.access (effective rs1 imm s).toNat = .error (.trap c w, u)) : accessWord k n v rs1 imm s = Claim.traps u c w := by
  unfold accessWord State.accessScalar State.checkScalar
  dsimp only
  rw [if_neg (by simpa using h), ht]
  rfl

theorem accessWord_badLine {r : Nat} (h : (effective rs1 imm s).toNat % n = 0)
    (ht : s.translate s.agent k.access (effective rs1 imm s).toNat = .ok ((pa, r), u)) (hl : u.lineOk (pa / 128) = false) :
    accessWord k n v rs1 imm s = Claim.traps (if u.quar.contains (pa / 128) then u
      else u.order.quarantine s.t.ctx k.consumer (reportVa k.consumer (effective rs1 imm s).toNat) (pa / 128) (pa / 128 * 128))
        cause.integrity (BitVec.ofNat 64 ((effective rs1 imm s).toNat / 128 * 128)) := by
  unfold accessWord State.accessScalar State.checkScalar
  dsimp only
  rw [if_neg (by simpa using h), ht]
  dsimp only
  rw [checkLine_bad hl]
  rfl

theorem loadX_access {signed : Bool} (h : rd ≠ 0) : loadX n signed imm rs1 rd s = accessWord (.loadX rd signed) n 0 rs1 imm s := if_neg h

/-! ### Loads (R103, R105) -/

/-- A signed load completes with the bytes that the thread sees, sign-extended. -/
theorem loadX_signed (hn : n = 1 ∨ n = 2 ∨ n = 4 ∨ n = 8) (hrd : rd ≠ 0) (h : Claim.passes s u .load (effective rs1 imm s) n pa)
    (ho : Claim.atOnce u n pa) : loadX n true imm rs1 rd s =
      .next ((Claim.counted u).orderThread.setX rd (BitVec.ofInt 64 (Int.bmod (ofBytes (u.bytesFor u.agent pa n)) (2 ^ (8 * n))))).advance := by
  obtain ⟨page, ha⟩ := accessWord_performs (k := .loadX rd true) (v := 0) h ho
  rw [loadX_access hrd, ha, ← extendBytes_eq_ofInt hn]
  rfl

/-- An unsigned load, and that of a doubleword, completes with the bytes that the thread sees. -/
theorem loadX_unsigned (hrd : rd ≠ 0) (h : Claim.passes s u .load (effective rs1 imm s) n pa) (ho : Claim.atOnce u n pa) :
    loadX n false imm rs1 rd s = .next ((Claim.counted u).orderThread.setX rd (BitVec.ofInt 64 (ofBytes (u.bytesFor u.agent pa n)))).advance := by
  obtain ⟨page, ha⟩ := accessWord_performs (k := .loadX rd false) (v := 0) h ho
  rw [loadX_access hrd, ha, ← ofNat_eq_ofInt]
  rfl

theorem loadF_performs (h : Claim.passes s u .load (effective rs1 imm s) n pa) (ho : Claim.atOnce u n pa) :
    loadF n imm rs1 rd s = .next ((Claim.counted u).orderThread.setF rd (ofBytes (u.bytesFor u.agent pa n))).advance := by
  obtain ⟨page, ha⟩ := accessWord_performs (k := .loadF rd) (v := 0) h ho
  exact ha

end

theorem scalarLoads : Claim.ScalarLoads := by
  intro imm rs1 rd s u pa ea v can putX putF
  refine ⟨fun n h => bytesFor_memory h pa n, ?_,
    fun hrd => ⟨fun ⟨h, ho⟩ => ?_, fun ⟨h, ho⟩ => ?_, fun ⟨h, ho⟩ => ?_, fun ⟨h, ho⟩ => ?_⟩,
    fun ⟨h, ho⟩ => loadF_performs h ho, fun ⟨h, ho⟩ => loadF_performs h ho, fun ⟨h, ho⟩ => loadF_performs h ho⟩
  · simp only [List.forall_mem_cons, List.not_mem_nil, false_imp_iff, implies_true, and_true]
    exact ⟨rfl, rfl, rfl, rfl, rfl, rfl, rfl⟩
  · exact ⟨loadX_signed (by decide) hrd h ho, loadX_unsigned hrd h ho⟩
  · exact ⟨loadX_signed (by decide) hrd h ho, loadX_unsigned hrd h ho⟩
  · exact ⟨loadX_signed (by decide) hrd h ho, loadX_unsigned hrd h ho⟩
  · exact loadX_unsigned hrd h ho

/-! ### Stores (R103, R104) -/

/-- Bytes written by a word of the thread in focus outside a segment, with its register, as one step; the digest takes the bytes of the
word's operand (R432). -/
theorem stored_write (z : State) (va pa : Nat) (operand bs : List Byte) (r : Reg) (v : DWord) (h : bs.length ≠ 128) :
    Claim.stored z (((z.digested z.agent va operand).physWrite pa bs).orderThread.setX r v).advance pa bs ∧
      (((z.digested z.agent va operand).physWrite pa bs).orderThread.setX r v).advance.t.x = (z.setX r v).t.x := by
  have hplain : z.ctx.det = false → z.digested z.agent va operand = z := fun hd =>
    digested_plain _ _ _ _ ((congrArg Context.det (if_pos rfl)).trans hd)
  obtain ⟨d, hd⟩ := digested_eq z z.agent va operand
  rw [physWrite_part _ _ _ h, hd, setX_eq]
  refine ⟨⟨fun a => sget_putBytes z.mem pa a bs, rfl, fun hdet => ?_⟩, ?_⟩
  · have hsame : d = z.t.digest := congrArg (fun y : State => y.t.digest) (hd.symm.trans (hplain hdet))
    exact hsame
  · exact (writeX_x _ _ _).trans (writeX_x z.t r v).symm

theorem storeWord_stored {s u : State} {n pa : Nat} {v : DWord} {rs1 : Reg} {imm : BitVec 12} (hn : n ≤ 8) (hs : s.segment s.agent = none)
    (h : Claim.passes s u .store (effective rs1 imm s) n pa) (ho : Claim.atOnce u n pa) :
    ∃ t, storeWord n v rs1 imm s = .next t ∧ Claim.stored (Claim.counted u) t pa (toBytes n v.toNat) ∧ t.t.x = s.t.x := by
  obtain ⟨r, ht⟩ := h.2.1
  have hcache := translate_sameButCaches ht
  have hseg : (Claim.counted u).segment (Claim.counted u).agent = none := by rw [hcache]; exact hs
  have hx : u.t.x = s.t.x := by rw [hcache]
  obtain ⟨page, ha⟩ := accessWord_performs (k := .store) (v := v) h ho
  have hw := stored_write (Claim.counted u) (effective rs1 imm s).toNat pa (toBytes n v.toNat) (toBytes n v.toNat) 0 0 (by rw [toBytes_length]; omega)
  rw [← commitWrite_plain _ _ _ _ _ hseg] at hw
  exact ⟨_, ha, hw.1, hw.2.trans hx⟩

theorem scalarStores : Claim.ScalarStores := by
  intro imm rs2 rs1 s u pa ea puts
  exact ⟨storeWord_stored (by decide), storeWord_stored (by decide), storeWord_stored (by decide), storeWord_stored (by decide),
    storeWord_stored (by decide), storeWord_stored (by decide), storeWord_stored (by decide)⟩

/-! ### Traps of an access (R104, R449 to R451) -/

/-- The words of a list make accesses of n bytes at x[rs1] + imm that are checked alike. -/
def Accesses (s : State) (rs1 : Reg) (imm : BitVec 12) (acc : Access) (kind n : Nat) (l : List Instr) : Prop :=
  ∀ i ∈ l, ∃ (k : ScalarKind) (v : DWord), k.access = acc ∧ k.consumer = kind ∧ exec i s = accessWord k n v rs1 imm s

section
variable {s : State} {rs1 : Reg} {imm : BitVec 12} {acc : Access} {kind n : Nat} {l : List Instr}

theorem Accesses.misaligned (hl : Accesses s rs1 imm acc kind n l) (h : (effective rs1 imm s).toNat % n ≠ 0) :
    ∀ i ∈ l, exec i s = Claim.traps s cause.misaligned (effective rs1 imm s) := fun i hi => by
  obtain ⟨k, v, -, -, he⟩ := hl i hi
  rw [he, accessWord_misaligned h]

theorem Accesses.faults (hl : Accesses s rs1 imm acc kind n l) (hk : kind ≠ 11) (h : (effective rs1 imm s).toNat % n = 0) :
    (∀ c v u, s.translate s.agent acc (effective rs1 imm s).toNat = .error (.trap c v, u) → ∀ i ∈ l, exec i s = Claim.traps u c v) ∧
      ∀ pa r u, s.translate s.agent acc (effective rs1 imm s).toNat = .ok ((pa, r), u) → u.lineOk (pa / 128) = false → ∀ i ∈ l,
        exec i s = Claim.traps (if u.quar.contains (pa / 128) then u
          else u.order.quarantine s.t.ctx kind ((effective rs1 imm s).toNat / 128 * 128) (pa / 128) (pa / 128 * 128)) cause.integrity
            (BitVec.ofNat 64 ((effective rs1 imm s).toNat / 128 * 128)) := by
  constructor
  · intro c w u ht i hi
    obtain ⟨k, v, hacc, -, he⟩ := hl i hi
    rw [he, accessWord_refused h (by rw [hacc]; exact ht)]
  · intro pa r u ht hbad i hi
    obtain ⟨k, v, hacc, hkind, he⟩ := hl i hi
    rw [he, accessWord_badLine h (by rw [hacc]; exact ht) hbad, hkind, reportVa, if_neg hk]

theorem Accesses.nil : Accesses s rs1 imm acc kind n [] := fun _ h => absurd h List.not_mem_nil

theorem Accesses.cons {i : Instr} (k : ScalarKind) (v : DWord) (he : exec i s = accessWord k n v rs1 imm s) (hacc : k.access = acc)
    (hkind : k.consumer = kind) (hl : Accesses s rs1 imm acc kind n l) : Accesses s rs1 imm acc kind n (i :: l) :=
  List.forall_mem_cons.mpr ⟨⟨k, v, hacc, hkind, he⟩, hl⟩

end

section
variable (imm : BitVec 12) (rs2 rs1 rd : Reg) (s : State)

theorem accesses_lb_lbu (h : rd ≠ 0) : Accesses s rs1 imm .load 1 1 [.lb imm rs1 rd, .lbu imm rs1 rd] :=
  .cons _ _ (loadX_access h) rfl rfl (.cons _ _ (loadX_access h) rfl rfl .nil)

theorem accesses_lh_lhu (h : rd ≠ 0) : Accesses s rs1 imm .load 1 2 [.lh imm rs1 rd, .lhu imm rs1 rd] :=
  .cons _ _ (loadX_access h) rfl rfl (.cons _ _ (loadX_access h) rfl rfl .nil)

theorem accesses_lw_lwu (h : rd ≠ 0) : Accesses s rs1 imm .load 1 4 [.lw imm rs1 rd, .lwu imm rs1 rd] :=
  .cons _ _ (loadX_access h) rfl rfl (.cons _ _ (loadX_access h) rfl rfl .nil)

theorem accesses_ld (h : rd ≠ 0) : Accesses s rs1 imm .load 1 8 [.ld imm rs1 rd] := .cons _ _ (loadX_access h) rfl rfl .nil

theorem accesses_flh : Accesses s rs1 imm .load 1 2 [.flh imm rs1 rd] := .cons (.loadF rd) 0 rfl rfl rfl .nil

theorem accesses_flw : Accesses s rs1 imm .load 1 4 [.flw imm rs1 rd] := .cons (.loadF rd) 0 rfl rfl rfl .nil

theorem accesses_fld : Accesses s rs1 imm .load 1 8 [.fld imm rs1 rd] := .cons (.loadF rd) 0 rfl rfl rfl .nil

theorem accesses_sb : Accesses s rs1 imm .store 2 1 [.sb rs2 rs1 imm] := .cons .store (s.t.readX rs2) rfl rfl rfl .nil

theorem accesses_sh_fsh : Accesses s rs1 imm .store 2 2 [.sh rs2 rs1 imm, .fsh rs2 rs1 imm] :=
  .cons .store (s.t.readX rs2) rfl rfl rfl (.cons .store (s.t.readF rs2) rfl rfl rfl .nil)

theorem accesses_sw_fsw : Accesses s rs1 imm .store 2 4 [.sw rs2 rs1 imm, .fsw rs2 rs1 imm] :=
  .cons .store (s.t.readX rs2) rfl rfl rfl (.cons .store (s.t.readF rs2) rfl rfl rfl .nil)

theorem accesses_sd_fsd : Accesses s rs1 imm .store 2 8 [.sd rs2 rs1 imm, .fsd rs2 rs1 imm] :=
  .cons .store (s.t.readX rs2) rfl rfl rfl (.cons .store (s.t.readF rs2) rfl rfl rfl .nil)

end

theorem scalarAccessFaults : Claim.ScalarAccessFaults := by
  intro imm rs2 rs1 rd s ea line off bad
  have hfl2 := accesses_flh imm rs1 rd s
  have hfl4 := accesses_flw imm rs1 rd s
  have hfl8 := accesses_fld imm rs1 rd s
  have hst2 := accesses_sh_fsh imm rs2 rs1 s
  have hst4 := accesses_sw_fsw imm rs2 rs1 s
  have hst8 := accesses_sd_fsd imm rs2 rs1 s
  have apart : ∀ {n : Nat} {l m : List Instr}, off n l → off n m → off n (l ++ m) := fun hl hm h i hi =>
    (List.mem_append.mp hi).elim (hl h i) (hm h i)
  refine ⟨apart hfl2.misaligned hst2.misaligned, apart hfl4.misaligned hst4.misaligned, apart hfl8.misaligned hst8.misaligned, fun hrd => ?_,
    hfl2.faults (by decide), hfl4.faults (by decide), hfl8.faults (by decide), (accesses_sb imm rs2 rs1 s).faults (by decide),
    hst2.faults (by decide), hst4.faults (by decide), hst8.faults (by decide)⟩
  exact ⟨(accesses_lh_lhu imm rs1 rd s hrd).misaligned, (accesses_lw_lwu imm rs1 rd s hrd).misaligned, (accesses_ld imm rs1 rd s hrd).misaligned,
    (accesses_lb_lbu imm rs1 rd s hrd).faults (by decide), (accesses_lh_lhu imm rs1 rd s hrd).faults (by decide),
    (accesses_lw_lwu imm rs1 rd s hrd).faults (by decide), (accesses_ld imm rs1 rd s hrd).faults (by decide)⟩

/-! ### The steps of the queue (R81, R107, R240) -/

/-- An access that is performed where no segment is open, and that is no RRESUME, leaves the accesses behind it in the queue. -/
theorem performScalar_scalars {y : State} {a : ScalarAcc} (hs : y.segment y.agent = none) (hk : ∀ d r, a.kind ≠ .resume d r) :
    (y.performScalar a).t.scalars = y.t.scalars := by
  have hwrite : ∀ va pa bs, (y.commitWrite y.agent va pa bs).t.scalars = y.t.scalars := fun va pa bs => by
    obtain ⟨d, hd⟩ := digested_eq y y.agent va bs
    rw [commitWrite_plain _ _ _ _ _ hs, hd]; rfl
  unfold State.performScalar
  split
  · exact setX_t_scalars _ _ _
  · rfl
  · exact hwrite _ _ _
  · obtain ⟨d, hd⟩ := digested_eq y y.agent a.va.toNat (toBytes a.bytes a.val.toNat)
    unfold State.amoWrite
    rw [hd]
    exact setX_t_scalars _ _ _
  · rfl
  · exact setX_t_scalars _ _ _
  · exact hwrite _ _ _
  · exact setX_t_scalars _ _ _
  · exact absurd ‹_› (hk _ _)

/-- A queued store replaces its bytes of memory, and no register (R81, R103). -/
theorem performScalar_store {y : State} {a : ScalarAcc} (hs : y.segment y.agent = none) (hk : a.kind = .store) (hn : a.bytes ≤ 8) :
    (y.performScalar a).t.x = y.t.x ∧ ∀ b, Claim.byte (y.performScalar a) b =
      if a.pa ≤ b ∧ b < a.pa + a.bytes then (toBytes a.bytes a.val.toNat).getD (b - a.pa) 0 else Claim.byte y b := by
  have hw := stored_write y a.va.toNat a.pa (toBytes a.bytes a.val.toNat) (toBytes a.bytes a.val.toNat) 0 0 (by rw [toBytes_length]; omega)
  rw [← commitWrite_plain _ _ _ _ _ hs] at hw
  have hp : y.performScalar a = (y.commitWrite y.agent a.va.toNat a.pa (toBytes a.bytes a.val.toNat)).orderThread := by
    unfold State.performScalar; rw [hk]
  rw [hp]
  exact ⟨hw.2, fun b => (hw.1.1 b).trans (by rw [toBytes_length])⟩

/-- A queued load writes its register with the bytes of memory (R81, R103). -/
theorem performScalar_loadX {y : State} {a : ScalarAcc} {rd : Reg} (hs : y.segment y.agent = none) (hk : a.kind = .loadX rd false) :
    (y.performScalar a).mem = y.mem ∧ (y.performScalar a).t.x =
      (y.setX rd (BitVec.ofNat 64 (ofBytes ((List.range a.bytes).map fun i => Claim.byte y (a.pa + i))))).t.x := by
  have hp : y.performScalar a = y.orderThread.setX rd (BitVec.ofNat 64 (ofBytes (y.bytesFor y.agent a.pa a.bytes))) := by
    unfold State.performScalar; rw [hk]; rfl
  rw [hp, bytesFor_memory hs]
  exact ⟨rfl, (writeX_x _ _ _).trans (writeX_x y.t rd _).symm⟩

theorem scalarQueue : Claim.ScalarQueue := by
  intro imm rs2 rs1 rd s u pa ea later
  refine ⟨fun hrd => ⟨fun h hd => ?_, fun h hd => ?_⟩, accessWord_queues (k := .loadF rd) rfl,
    accessWord_queues (k := .store) (v := s.t.readX rs2) rfl, accessWord_queues (k := .store) (v := s.t.readX rs2) rfl, scalarStep_nil,
    fun a l hq => ⟨scalarStep_waits hq, fun hheld hline hmore hkind hseg hn => ?_⟩⟩
  · obtain ⟨page, ha⟩ := accessWord_queues (k := .loadX rd true) (v := 0) rfl h hd
    exact ⟨page, (loadX_access hrd).trans ha⟩
  · obtain ⟨page, ha⟩ := accessWord_queues (k := .loadX rd false) (v := 0) rfl h hd
    exact ⟨page, (loadX_access hrd).trans ha⟩
  · refine ⟨_, scalarStep_performs hq hheld hline hmore hkind, performScalar_scalars hseg hkind, fun hstore => performScalar_store hseg hstore hn,
      fun rd hload =>
      (performScalar_loadX (y := { s with t := { s.t with scalars := l } }) hseg hload).imp_right fun hx => hx.trans ?_⟩
    exact (writeX_x _ rd _).trans (writeX_x s.t rd _).symm

/-- Settles O6: what an access does at its word, and what the head of the queue does at its step. -/
theorem scalarMemoryWords : Obligations.ScalarMemoryWords :=
  ⟨scalarLoads, scalarStores, scalarAccessFaults, scalarQueue⟩

end Sys2Proof.Machine
end

section
namespace Sys2Proof.Machine

/-! # The scalar float words that round, and round_once (R46, R58 to R65, R97, R98, R102) -/

/-! ### The rounding modes (R46, R58) -/

/-- Whether a mode takes the whole number above n for n + r. -/
def goesUp (rm : BitVec 3) (neg : Bool) (n : Nat) (r : Rat) : Bool :=
  if r = 0 then false
  else match rm.toNat with
    | 0 => decide (r > 1 / 2) || (decide (r = 1 / 2) && n % 2 == 1)
    | 1 => false
    | 2 => neg
    | 3 => !neg
    | _ => decide (r ≥ 1 / 2)

/-- A magnitude is a whole number and a part below one, and rounds to that number or the next. -/
theorem roundNat_parts (rm : BitVec 3) (neg : Bool) {q : Rat} (hq : 0 ≤ q) : ∃ (n : Nat) (r : Rat), q = n + r ∧ 0 ≤ r ∧ r < 1 ∧
    roundNat rm neg q = if goesUp rm neg n r then n + 1 else n := by
  have hfloor : ((q.num.toNat / q.den : Nat) : Rat) ≤ q ∧ q < (q.num.toNat / q.den : Nat) + 1 := by
    rcases hq.eq_or_lt with rfl | hpos
    · simp
    · have h := roundNat_rtz neg hpos
      rwa [show roundNat 1 neg q = q.num.toNat / q.den by simp [roundNat]] at h
  exact ⟨_, q - (q.num.toNat / q.den : Nat), by ring, by linarith, by linarith, rfl⟩

/-- What a mode gives is a neighbour of the value, and the value itself where that is whole. -/
theorem roundNat_neighbour (rm : BitVec 3) (neg : Bool) {q : Rat} (hq : 0 ≤ q) :
    ((roundNat rm neg q : Rat) ≤ q → q < roundNat rm neg q + 1) ∧ (q ≤ (roundNat rm neg q : Rat) → (roundNat rm neg q : Rat) < q + 1) := by
  obtain ⟨n, r, rfl, h0, h1, h⟩ := roundNat_parts rm neg hq
  rw [h]
  split
  · have hr : r ≠ 0 := fun hr => by simp [goesUp, hr] at *
    have hpos : 0 < r := lt_of_le_of_ne h0 hr.symm
    push_cast
    exact ⟨fun _ => by linarith, fun _ => by linarith⟩
  · exact ⟨fun _ => by linarith, fun _ => by linarith⟩

theorem roundNat_down {rm : BitVec 3} {neg : Bool} (h : ∀ n r, goesUp rm neg n r = false) {q : Rat} (hq : 0 ≤ q) : (roundNat rm neg q : Rat) ≤ q := by
  obtain ⟨n, r, rfl, h0, -, he⟩ := roundNat_parts rm neg hq
  rw [he, h, if_neg Bool.false_ne_true]
  linarith

theorem roundNat_up {rm : BitVec 3} {neg : Bool} (h : ∀ n r, r ≠ 0 → goesUp rm neg n r = true) {q : Rat} (hq : 0 ≤ q) :
    q ≤ (roundNat rm neg q : Rat) := by
  obtain ⟨n, r, rfl, -, h1, he⟩ := roundNat_parts rm neg hq
  rw [he]
  by_cases hr : r = 0
  · simp [goesUp, hr]
  · rw [h n r hr, if_pos rfl]
    push_cast
    linarith

/-- RNE: no neighbour is nearer, and of two that are equally near it gives the even one. -/
theorem roundNat_even (neg : Bool) {q : Rat} (hq : 0 ≤ q) : q - roundNat 0 neg q ≤ 1 / 2 ∧ (roundNat 0 neg q : Rat) - q ≤ 1 / 2 ∧
    ((q - roundNat 0 neg q = 1 / 2 ∨ (roundNat 0 neg q : Rat) - q = 1 / 2) → roundNat 0 neg q % 2 = 0) := by
  obtain ⟨n, r, rfl, h0, h1, h⟩ := roundNat_parts 0 neg hq
  have hup : goesUp 0 neg n r = true ↔ 1 / 2 < r ∨ r = 1 / 2 ∧ n % 2 = 1 := by
    unfold goesUp
    by_cases hr : r = 0
    · simp [hr]
    · simp [hr]
  rw [h]
  split
  next hu =>
    push_cast
    rcases hup.mp hu with hr | ⟨hr, hodd⟩
    · exact ⟨by linarith, by linarith, fun ht => by rcases ht with ht | ht <;> linarith⟩
    · exact ⟨by linarith, by linarith, fun _ => by omega⟩
  next hu =>
    have hle : r ≤ 1 / 2 := not_lt.mp fun hr => hu (hup.mpr (.inl hr))
    refine ⟨by linarith, by linarith, fun ht => ?_⟩
    have hr : r = 1 / 2 := by rcases ht with ht | ht <;> linarith
    have hodd : ¬ n % 2 = 1 := fun hodd => hu (hup.mpr (.inr ⟨hr, hodd⟩))
    omega

/-- RMM, and the codes above it: no neighbour is nearer, and of two that are equally near it gives the larger magnitude. -/
theorem roundNat_away {rm : BitVec 3} (hrm : 4 ≤ rm.toNat) (neg : Bool) {q : Rat} (hq : 0 ≤ q) :
    q - roundNat rm neg q < 1 / 2 ∧ (roundNat rm neg q : Rat) - q ≤ 1 / 2 := by
  obtain ⟨n, r, rfl, h0, h1, h⟩ := roundNat_parts rm neg hq
  have hup : goesUp rm neg n r = true ↔ 1 / 2 ≤ r := by
    unfold goesUp
    by_cases hr : r = 0
    · simp [hr]
    · rw [if_neg hr]
      split <;> [omega; omega; omega; omega; simp]
  rw [h]
  split
  next hu => push_cast; constructor <;> linarith [hup.mp hu]
  next hu => constructor <;> linarith [not_le.mp fun hr => hu (hup.mpr hr)]

theorem goesUp_rtz (neg : Bool) (n : Nat) (r : Rat) : goesUp 1 neg n r = false := ite_self _

theorem goesUp_rdn (neg : Bool) (n : Nat) {r : Rat} (hr : r ≠ 0) : goesUp 2 neg n r = neg := if_neg hr

theorem goesUp_rup (neg : Bool) (n : Nat) {r : Rat} (hr : r ≠ 0) : goesUp 3 neg n r = !neg := if_neg hr

theorem goesUp_rdn_positive (n : Nat) (r : Rat) : goesUp 2 false n r = false := ite_self _

theorem goesUp_rup_negative (n : Nat) (r : Rat) : goesUp 3 true n r = false := ite_self _

theorem roundingModes : Claim.RoundingModes := by
  intro neg q hq r
  refine ⟨fun rm => roundNat_neighbour rm neg hq, roundNat_down (goesUp_rtz neg) hq, ?_, ?_, roundNat_even neg hq, roundNat_away (by decide) neg hq⟩
  · cases neg with
    | true => exact roundNat_up (fun n _ hr => goesUp_rdn true n hr) hq
    | false => exact roundNat_down goesUp_rdn_positive hq
  · cases neg with
    | true => exact roundNat_down goesUp_rup_negative hq
    | false => exact roundNat_up (fun n _ hr => goesUp_rup false n hr) hq

/-! ### The words (R97, R98, R102) -/

theorem fma_eq_fused (f : Fmt) (rm : BitVec 3) (fl : BitVec 2) (a b c : FVal) : f.fma rm fl a b c = Claim.fused f rm fl (Claim.product a b) c := by
  rw [← fused_eq, ← mul_eq_product]; rfl

theorem scalarFloatSumsAndProducts : Claim.ScalarFloatSumsAndProducts := by
  intro fmt rs3 rs2 rs1 rd s f rm a b c put
  have hput : ∀ p r : Nat × Flags, p = r → Claim.toF s rd p.1 p.2 = put r := fun p r h => by rw [h]
  refine ⟨hput _ _ (sum_pair ..), hput _ _ ?_, hput _ _ ?_, hput _ _ (div_eq_quotient ..), hput _ _ (fma_eq_fused ..), hput _ _ ?_, hput _ _ ?_,
    hput _ _ ?_⟩
  · rw [← negate_eq]; exact sum_pair ..
  · exact fmul_eq ..
  · rw [← negate_eq]; exact fma_eq_fused ..
  · rw [← negate_eq, ← negate_eq]; exact fma_eq_fused ..
  · rw [← negate_eq]; exact fma_eq_fused ..

/-! # Rounding a value that its cut gives (R58, R59) -/

/-! ### Cuts, and what a mode asks of a number -/

/-- The numbers above a value and those below it. -/
structure Cut (above below : Rat → Prop) : Prop where
  apart : ∀ {x}, below x → ¬ above x
  upward : ∀ {x y}, x < y → ¬ below x → above y

theorem cut_of_rat (v : Rat) : Cut (fun x => v < x) (fun x => x < v) :=
  ⟨fun h k => lt_asymm h k, fun hxy h => (not_lt.mp h).trans_lt hxy⟩

/-- A cut and a number lie on the same side of every multiple of a step. -/
def AgreesAt (above below : Rat → Prop) (a u : Rat) : Prop := ∀ c : Int, (above (c * u) ↔ a < c * u) ∧ (below (c * u) ↔ c * u < a)

theorem agreesAt_rat (a u : Rat) : AgreesAt (fun x => a < x) (fun x => x < a) a u := fun _ => ⟨Iff.rfl, Iff.rfl⟩

/-- The multiples of a step. -/
def Multiple (u r : Rat) : Prop := ∃ m : Int, r = m * u

/-- The even multiples of a step. -/
def EvenMultiple (u r : Rat) : Prop := ∃ m : Int, r = 2 * m * u

/-- The greatest number of G that is not above. -/
def Greatest (G above : Rat → Prop) (r : Rat) : Prop := ¬ above r ∧ ∀ g, G g → ¬ above g → g ≤ r

/-- The least number of G that is not below. -/
def Least (G below : Rat → Prop) (r : Rat) : Prop := ¬ below r ∧ ∀ g, G g → ¬ below g → r ≤ g

/-- A nearest number of G: the value is not beyond the middle of it and any other, and at a middle only as the tie allows. -/
def Nearest (G above below : Rat → Prop) (r : Rat) (upTie downTie : Prop) : Prop := ∀ g, G g →
  (r < g → ¬ below ((r + g) / 2) ∧ (above ((r + g) / 2) ∨ downTie)) ∧ (g < r → ¬ above ((r + g) / 2) ∧ (below ((r + g) / 2) ∨ upTie))

section
variable {G E G' E' above below above' below' : Rat → Prop} {rm : BitVec 3} {neg : Bool} {r : Rat}

theorem rounded_iff : Claim.Rounded G E rm neg above below r ↔ G r ∧ match rm.toNat with
    | 0 => Nearest G above below r (E r) (E r)
    | 1 => if neg then Least G below r else Greatest G above r
    | 2 => Greatest G above r
    | 3 => Least G below r
    | _ => Nearest G above below r (neg = false) (neg = true) := Iff.rfl

/-- A number rounded to one grid is rounded to another where each mode's condition carries over. -/
theorem rounded_imp (h : Claim.Rounded G E rm neg above below r) (hG : G r → G' r) (hE : E r → E' r)
    (hgreatest : Greatest G above r → Greatest G' above' r) (hleast : Least G below r → Least G' below' r)
    (hnearest : ∀ p q, Nearest G above below r p q → Nearest G' above' below' r p q) : Claim.Rounded G' E' rm neg above' below' r := by
  rw [rounded_iff] at h ⊢
  refine ⟨hG h.1, ?_⟩
  have h := h.2
  have hmono : ∀ {p q p' q' : Prop}, (p → p') → (q → q') → Nearest G' above' below' r p q → Nearest G' above' below' r p' q' :=
    fun hp hq hn g hg => ⟨fun hr => ((hn g hg).1 hr).imp_right (Or.imp_right hq), fun hr => ((hn g hg).2 hr).imp_right (Or.imp_right hp)⟩
  split at h
  · exact hmono hE hE (hnearest _ _ h)
  · cases neg with
    | true => exact hleast h
    | false => exact hgreatest h
  · exact hgreatest h
  · exact hleast h
  · exact hnearest _ _ h

end

/-! ### A mode on the multiples of a step -/

section
variable {above below : Rat → Prop} {q u : Rat}

/-- The same of a cut that agrees at the multiples of half a step. -/
theorem AgreesAt.half (h : AgreesAt above below (q * u) (u / 2)) (hu : 0 < u) (c : Int) :
    (above (c * (u / 2)) ↔ 2 * q < c) ∧ (below (c * (u / 2)) ↔ c < 2 * q) := by
  have hscale : ∀ x : Rat, x * (u / 2) = x / 2 * u := fun x => by ring
  rw [(h c).1, (h c).2, hscale, mul_lt_mul_iff_left₀ hu, mul_lt_mul_iff_left₀ hu]
  constructor <;> constructor <;> intro _ <;> linarith

theorem AgreesAt.whole (h : AgreesAt above below (q * u) (u / 2)) (hu : 0 < u) (c : Int) :
    (above (c * u) ↔ q < c) ∧ (below (c * u) ↔ c < q) := by
  have h2 := h.half hu (2 * c)
  rw [show ((2 * c : Int) : Rat) * (u / 2) = c * u by push_cast; ring] at h2
  rw [h2.1, h2.2]
  push_cast
  constructor <;> constructor <;> intro _ <;> linarith

theorem AgreesAt.middle (h : AgreesAt above below (q * u) (u / 2)) (hu : 0 < u) (m k : Int) :
    (above ((m * u + k * u) / 2) ↔ 2 * q < m + k) ∧ (below ((m * u + k * u) / 2) ↔ m + k < 2 * q) := by
  have h2 := h.half hu (m + k)
  rw [show ((m + k : Int) : Rat) * (u / 2) = (m * u + k * u) / 2 by push_cast; ring] at h2
  exact_mod_cast h2

variable {m : Int}

theorem greatest_multiple (h : AgreesAt above below (q * u) (u / 2)) (hu : 0 < u) (h1 : m ≤ q) (h2 : q < m + 1) :
    Greatest (Multiple u) above (m * u) := by
  refine ⟨fun ha => absurd ((h.whole hu m).1.mp ha) (not_lt.mpr h1), ?_⟩
  rintro _ ⟨k, rfl⟩ hk
  have hkq : (k : Rat) ≤ q := not_lt.mp fun hlt => hk ((h.whole hu k).1.mpr hlt)
  have hkm : k < m + 1 := by exact_mod_cast hkq.trans_lt h2
  exact mul_le_mul_of_nonneg_right (by exact_mod_cast Int.lt_add_one_iff.mp hkm) hu.le

theorem least_multiple (h : AgreesAt above below (q * u) (u / 2)) (hu : 0 < u) (h1 : q ≤ m) (h2 : (m : Rat) < q + 1) :
    Least (Multiple u) below (m * u) := by
  refine ⟨fun ha => absurd ((h.whole hu m).2.mp ha) (not_lt.mpr h1), ?_⟩
  rintro _ ⟨k, rfl⟩ hk
  have hkq : q ≤ k := not_lt.mp fun hlt => hk ((h.whole hu k).2.mpr hlt)
  have hkm : m < k + 1 := by exact_mod_cast h2.trans_le (add_le_add_left hkq 1)
  exact mul_le_mul_of_nonneg_right (by exact_mod_cast Int.lt_add_one_iff.mp hkm) hu.le

theorem nearest_multiple (h : AgreesAt above below (q * u) (u / 2)) (hu : 0 < u) {upTie downTie : Prop} (h1 : q - m ≤ 1 / 2) (h2 : m - q ≤ 1 / 2)
    (hdown : q - m = 1 / 2 → downTie) (hup : m - q = 1 / 2 → upTie) : Nearest (Multiple u) above below (m * u) upTie downTie := by
  rintro _ ⟨k, rfl⟩
  obtain ⟨ha, hb⟩ := h.middle hu m k
  rw [ha, hb, mul_lt_mul_iff_left₀ hu, mul_lt_mul_iff_left₀ hu]
  refine ⟨fun hlt => ?_, fun hlt => ?_⟩
  · have hk : (m : Rat) + 1 ≤ k := by exact_mod_cast hlt
    refine ⟨by linarith, ?_⟩
    rcases h1.lt_or_eq with hl | he
    · exact .inl (by linarith)
    · exact .inr (hdown he)
  · have hk : (k : Rat) + 1 ≤ m := by exact_mod_cast hlt
    refine ⟨by linarith, ?_⟩
    rcases h2.lt_or_eq with hl | he
    · exact .inl (by linarith)
    · exact .inr (hup he)

/-- A positive value in steps of u is rounded by a mode to a multiple of u. -/
theorem rounded_multiple (rm : BitVec 3) (h : AgreesAt above below (q * u) (u / 2)) (hu : 0 < u) (hq : 0 ≤ q) :
    Claim.Rounded (Multiple u) (EvenMultiple u) rm false above below (roundNat rm false q * u) := by
  obtain ⟨hnext, hprev⟩ := roundNat_neighbour rm false hq
  rw [rounded_iff, ← Int.cast_natCast]
  refine ⟨⟨_, rfl⟩, ?_⟩
  rw [← Int.cast_natCast] at hnext hprev
  have heven : roundNat 0 false q % 2 = 0 → EvenMultiple u ((roundNat 0 false q : Int) * u) := fun he =>
    ⟨roundNat 0 false q / 2, by
      congr 1
      exact_mod_cast (Nat.mul_div_cancel' (Nat.dvd_of_mod_eq_zero he)).symm⟩
  match hm : rm.toNat with
  | 0 =>
    obtain rfl : rm = 0 := BitVec.eq_of_toNat_eq hm
    obtain ⟨h1, h2, ht⟩ := roundNat_even false hq
    exact nearest_multiple h hu h1 h2 (fun he => heven (ht (.inl he))) fun he => heven (ht (.inr he))
  | 1 =>
    obtain rfl : rm = 1 := BitVec.eq_of_toNat_eq hm
    have hle := roundNat_down (goesUp_rtz false) hq
    exact greatest_multiple h hu hle (hnext hle)
  | 2 =>
    obtain rfl : rm = 2 := BitVec.eq_of_toNat_eq hm
    have hle := roundNat_down goesUp_rdn_positive hq
    exact greatest_multiple h hu hle (hnext hle)
  | 3 =>
    obtain rfl : rm = 3 := BitVec.eq_of_toNat_eq hm
    have hle := roundNat_up (fun n _ hr => goesUp_rup false n hr) hq
    exact least_multiple h hu hle (hprev hle)
  | n + 4 =>
    obtain ⟨h1, h2⟩ := roundNat_away (rm := rm) (by omega) false hq
    exact nearest_multiple h hu h1.le h2 (fun he => absurd he h1.ne) fun _ => rfl

end

/-! ### From the multiples of a step to the numbers of a precision -/

theorem two_zpow_add (a b : Int) : (2 : Rat) ^ a * 2 ^ b = 2 ^ (a + b) := (zpow_add₀ two_ne_zero a b).symm

theorem natPow_mul_zpow (n : Nat) (z : Int) : (2 : Rat) ^ n * 2 ^ z = 2 ^ (n + z) := by rw [← zpow_natCast, two_zpow_add]

/-- Numbers of a precision that are not small against a step are multiples of it. -/
theorem precise_multiple {f : Fmt} {g : Int} {r : Rat} (h : Claim.Precise f r) (hr : (2 : Rat) ^ (f.mb + g) ≤ r) : Multiple (2 ^ g) r := by
  obtain ⟨m, e, hm, rfl⟩ := h
  have hm' : (m : Rat) < 2 ^ (f.mb + 1) := by
    have : m < (2 ^ (f.mb + 1) : Nat) := by omega
    exact_mod_cast this
  have hlt : (2 : Rat) ^ (f.mb + g) < 2 ^ ((f.mb : Int) + 1 + e) := by
    calc (2 : Rat) ^ (f.mb + g) ≤ m * 2 ^ e := hr
      _ < 2 ^ (f.mb + 1) * 2 ^ e := by gcongr
      _ = _ := by rw [natPow_mul_zpow]; push_cast; rfl
  have hge : g ≤ e := by
    have := (zpow_lt_zpow_iff_right₀ (one_lt_two (α := Rat))).mp hlt
    omega
  obtain ⟨j, hj⟩ := Int.eq_ofNat_of_zero_le (sub_nonneg.mpr hge)
  refine ⟨m * 2 ^ j, ?_⟩
  push_cast
  rw [mul_assoc, natPow_mul_zpow, ← hj, sub_add_cancel]

section
variable {f : Fmt} {g : Int} {m : Nat}

theorem precise_of_mul (h1 : 2 ^ f.mb ≤ m) (h2 : m ≤ 2 ^ (f.mb + 1)) : Claim.Precise f (m * (2 : Rat) ^ g) := by
  rcases h2.lt_or_eq with hlt | rfl
  · exact ⟨m, g, by simpa using hlt, by push_cast; rfl⟩
  · refine ⟨(2 ^ f.mb : Nat), g + 1, ?_, ?_⟩
    · rw [Int.natAbs_natCast]; exact Nat.pow_lt_pow_right (by decide) (by omega)
    · push_cast
      rw [natPow_mul_zpow, natPow_mul_zpow]; congr 1; push_cast; ring

theorem evenPrecise_of_mul (hmb : 1 ≤ f.mb) (h1 : 2 ^ f.mb ≤ m) (h2 : m ≤ 2 ^ (f.mb + 1)) (h : EvenMultiple (2 ^ g) (m * (2 : Rat) ^ g)) :
    Claim.EvenPrecise f (m * (2 : Rat) ^ g) := by
  obtain ⟨k, hk⟩ := h
  have hmk : (m : Int) = 2 * k := by exact_mod_cast mul_right_cancel₀ (by positivity) hk
  rcases h2.lt_or_eq with hlt | rfl
  · exact ⟨m, g, by simpa using h1, by simpa using hlt, by omega, by push_cast; rfl⟩
  · refine ⟨(2 ^ f.mb : Nat), g + 1, ?_, ?_, ?_, ?_⟩
    · rw [Int.natAbs_natCast]
    · rw [Int.natAbs_natCast]; exact Nat.pow_lt_pow_right (by decide) (by omega)
    · obtain ⟨j, hj⟩ := Nat.exists_eq_add_of_le hmb
      rw [hj, Nat.pow_add]; omega
    · push_cast
      rw [natPow_mul_zpow, natPow_mul_zpow]; congr 1; push_cast; ring

variable {above below : Rat → Prop}

/-- Where the value is not below the least number of its binade, its rounding to the binade's steps is its rounding to the precision. -/
theorem rounded_precise {rm : BitVec 3} {neg : Bool} (hcut : Cut above below) (hmb : 1 ≤ f.mb) (h1 : 2 ^ f.mb ≤ m) (h2 : m ≤ 2 ^ (f.mb + 1))
    (hlow : ¬ above ((2 : Rat) ^ (f.mb + g)))
    (h : Claim.Rounded (Multiple (2 ^ g)) (EvenMultiple (2 ^ g)) rm neg above below (m * (2 : Rat) ^ g)) :
    Claim.Rounded (Claim.Precise f) (Claim.EvenPrecise f) rm neg above below (m * (2 : Rat) ^ g) := by
  have hstep : Multiple (2 ^ g) ((2 : Rat) ^ (f.mb + g)) := ⟨2 ^ f.mb, by push_cast; rw [natPow_mul_zpow]⟩
  have hle : (2 : Rat) ^ (f.mb + g) ≤ m * (2 : Rat) ^ g := by
    rw [← natPow_mul_zpow]
    exact mul_le_mul_of_nonneg_right (by exact_mod_cast h1) (by positivity)
  have hsplit : ∀ x, Claim.Precise f x → x < (2 : Rat) ^ (f.mb + g) ∨ Multiple (2 ^ g) x := fun x hx =>
    (lt_or_ge x _).imp_right (precise_multiple hx)
  refine rounded_imp h (fun _ => precise_of_mul h1 h2) (evenPrecise_of_mul hmb h1 h2) ?_ ?_ ?_
  · rintro ⟨ha, hmax⟩
    exact ⟨ha, fun x hx hxa => (hsplit x hx).elim (fun hlt => hlt.le.trans hle) fun hm => hmax x hm hxa⟩
  · rintro ⟨hb, hmin⟩
    exact ⟨hb, fun x hx hxb => (hsplit x hx).elim (fun hlt => absurd (hcut.upward hlt hxb) hlow) fun hm => hmin x hm hxb⟩
  · intro p q hn x hx
    rcases hsplit x hx with hlt | hm
    · refine ⟨fun hr => absurd (hr.trans hlt) (not_lt.mpr hle), fun _ => ?_⟩
      have hmid : below ((m * (2 : Rat) ^ g + x) / 2) := by
        by_contra hb
        rcases hle.lt_or_eq with hl | he
        · exact ((hn _ hstep).2 hl).1 (hcut.upward (by linarith) hb)
        · exact hlow (hcut.upward (by rw [← he]; linarith) hb)
      exact ⟨hcut.apart hmid, .inl hmid⟩
    · exact hn x hm

end

/-! ### Both signs -/

/-- The mode of a negative value as a mode of its magnitude: RDN and RUP change places. -/
def magnitudeMode (neg : Bool) (rm : BitVec 3) : BitVec 3 := if neg then (if rm = 2 then 3 else if rm = 3 then 2 else rm) else rm

theorem goesUp_magnitudeMode (rm : BitVec 3) (neg : Bool) (n : Nat) (r : Rat) : goesUp rm neg n r = goesUp (magnitudeMode neg rm) false n r := by
  have hrm : ∀ rm : BitVec 3, rm = 2 ∨ rm = 3 ∨ rm ≠ 2 ∧ rm ≠ 3 := by decide
  cases neg with
  | false => rfl
  | true =>
    rcases hrm rm with rfl | rfl | ⟨h2, h3⟩
    · rfl
    · rfl
    · have hne : rm.toNat ≠ 2 ∧ rm.toNat ≠ 3 := ⟨fun h => h2 (BitVec.eq_of_toNat_eq h), fun h => h3 (BitVec.eq_of_toNat_eq h)⟩
      rw [magnitudeMode, if_pos rfl, if_neg h2, if_neg h3]
      unfold goesUp
      split
      · rfl
      · split
        · rfl
        · rfl
        · exact absurd ‹_› hne.1
        · exact absurd ‹_› hne.2
        · rfl

theorem roundNat_magnitudeMode (rm : BitVec 3) (neg : Bool) (q : Rat) : roundNat rm neg q = roundNat (magnitudeMode neg rm) false q :=
  congrArg (fun b : Bool => if b then q.num.toNat / q.den + 1 else q.num.toNat / q.den)
    (goesUp_magnitudeMode rm neg (q.num.toNat / q.den) (q - (q.num.toNat / q.den : Nat)))

section
variable {G E above below : Rat → Prop} {r : Rat}

theorem Greatest.neg (hG : ∀ x, G (-x) → G x) (h : Greatest G above r) : Least G (fun x => above (-x)) (-r) :=
  ⟨by beta_reduce; rw [neg_neg]; exact h.1, fun g hg hb => neg_le.mp (h.2 (-g) (hG _ (by rwa [neg_neg])) hb)⟩

theorem Least.neg (hG : ∀ x, G (-x) → G x) (h : Least G below r) : Greatest G (fun x => below (-x)) (-r) :=
  ⟨by beta_reduce; rw [neg_neg]; exact h.1, fun g hg hb => le_neg.mp (h.2 (-g) (hG _ (by rwa [neg_neg])) hb)⟩

theorem Nearest.neg (hG : ∀ x, G (-x) → G x) {p q p' q' : Prop} (hp : p → p') (hq : q → q') (h : Nearest G above below r p q) :
    Nearest G (fun x => below (-x)) (fun x => above (-x)) (-r) q' p' := by
  intro g hg
  have hmid : -((-r + g) / 2) = (r + -g) / 2 := by ring
  obtain ⟨h1, h2⟩ := h (-g) (hG _ (by rwa [neg_neg]))
  beta_reduce
  rw [hmid]
  exact ⟨fun hlt => (h2 (neg_lt.mp hlt)).imp_right (Or.imp_right hp), fun hlt => (h1 (lt_neg.mp hlt)).imp_right (Or.imp_right hq)⟩

/-- A magnitude rounded by the mode of the magnitude is the negative value rounded by the mode (R58). -/
theorem rounded_negative {rm : BitVec 3} (hG : ∀ x, G x → G (-x)) (hE : ∀ x, E x → E (-x))
    (h : Claim.Rounded G E (magnitudeMode true rm) false above below r) :
    Claim.Rounded G E rm true (fun x => below (-x)) (fun x => above (-x)) (-r) := by
  have hG' : ∀ x, G (-x) → G x := fun x hx => by simpa using hG _ hx
  rw [rounded_iff] at h ⊢
  refine ⟨hG r h.1, ?_⟩
  have h := h.2
  match hm : rm.toNat with
  | 0 =>
    obtain rfl : rm = 0 := BitVec.eq_of_toNat_eq hm
    exact Nearest.neg hG' (hE r) (hE r) h
  | 1 =>
    obtain rfl : rm = 1 := BitVec.eq_of_toNat_eq hm
    exact Greatest.neg hG' h
  | 2 =>
    obtain rfl : rm = 2 := BitVec.eq_of_toNat_eq hm
    exact Least.neg hG' h
  | 3 =>
    obtain rfl : rm = 3 := BitVec.eq_of_toNat_eq hm
    exact Greatest.neg hG' h
  | n + 4 =>
    have h2 : rm ≠ 2 := fun e => by rw [e] at hm; exact absurd hm (by simp)
    have h3 : rm ≠ 3 := fun e => by rw [e] at hm; exact absurd hm (by simp)
    rw [magnitudeMode, if_pos rfl, if_neg h2, if_neg h3, hm] at h
    exact Nearest.neg hG' (fun _ => rfl) (fun hf => Bool.noConfusion hf) h

end

/-- A magnitude with a sign. -/
def signed (neg : Bool) (x : Rat) : Rat := if neg then -x else x

/-- What lies above a value, of what lies above and below its magnitude. -/
def signedAbove (neg : Bool) (above below : Rat → Prop) : Rat → Prop :=
  match neg with
  | false => above
  | true => fun x => below (-x)

theorem signedAbove_signed {neg : Bool} {above below : Rat → Prop} (r : Rat) :
    ¬ signedAbove neg above below (signed neg r) ∧ ¬ signedAbove neg below above (signed neg r) ↔ ¬ above r ∧ ¬ below r := by
  cases neg with
  | false => rfl
  | true =>
    change ¬ below (-(-r)) ∧ ¬ above (-(-r)) ↔ _
    rw [neg_neg, and_comm]

theorem abs_signed (neg : Bool) {r : Rat} (hr : 0 ≤ r) : |signed neg r| = r := by
  cases neg with
  | false => exact abs_of_nonneg hr
  | true => exact (abs_neg r).trans (abs_of_nonneg hr)

theorem rounded_signed {G E above below : Rat → Prop} {rm : BitVec 3} {neg : Bool} {r : Rat} (hG : ∀ x, G x → G (-x)) (hE : ∀ x, E x → E (-x))
    (h : Claim.Rounded G E (magnitudeMode neg rm) false above below r) :
    Claim.Rounded G E rm neg (signedAbove neg above below) (signedAbove neg below above) (signed neg r) := by
  cases neg with
  | false => exact h
  | true => exact rounded_negative hG hE h

theorem precise_neg (f : Fmt) (x : Rat) (h : Claim.Precise f x) : Claim.Precise f (-x) := by
  obtain ⟨m, e, hm, rfl⟩ := h
  exact ⟨-m, e, by rwa [Int.natAbs_neg], by push_cast; ring⟩

theorem evenPrecise_neg (f : Fmt) (x : Rat) (h : Claim.EvenPrecise f x) : Claim.EvenPrecise f (-x) := by
  obtain ⟨m, e, h1, h2, heven, rfl⟩ := h
  exact ⟨-m, e, by rwa [Int.natAbs_neg], by rwa [Int.natAbs_neg], by omega, by push_cast; ring⟩

theorem multiple_neg (u x : Rat) (h : Multiple u x) : Multiple u (-x) := by
  obtain ⟨m, rfl⟩ := h
  exact ⟨-m, by push_cast; ring⟩

theorem evenMultiple_neg (u x : Rat) (h : EvenMultiple u x) : EvenMultiple u (-x) := by
  obtain ⟨m, rfl⟩ := h
  exact ⟨-m, by push_cast; ring⟩

/-! ### The patterns of results (R57, R59) -/

/-- What round_once needs of a format. -/
def Fmt.rounds (f : Fmt) : Prop := 1 ≤ f.eb ∧ 1 ≤ f.mb ∧ f.mb < f.bias ∧ f.bias < f.emax ∧ f.mb ≤ 52

theorem fmt_rounds : ∀ f ∈ [f16, bf16, f32, f64], f.rounds := by
  simp only [List.forall_mem_cons, List.not_mem_nil, false_imp_iff, implies_true, and_true]
  unfold Fmt.rounds
  decide

section
variable {f : Fmt} (n : Bool) {e x m : Nat} {g : Int}

theorem emax_lt (f : Fmt) : f.emax < 2 ^ f.eb := Nat.sub_lt (Nat.two_pow_pos _) (by decide)

/-- The fields of a pattern of a sign, an exponent and a fraction. -/
theorem pattern_fields (he : e < 2 ^ f.eb) (hx : x < 2 ^ f.mb) :
    let w := f.zero n + (e * 2 ^ f.mb + x)
    (bits w (f.eb + f.mb) 1 == 1) = n ∧ bits w f.mb f.eb = e ∧ bits w 0 f.mb = x ∧ w < 2 ^ f.width := by
  intro w
  have hp := Nat.two_pow_pos f.mb
  have hlow : e * 2 ^ f.mb + x < 2 ^ (f.eb + f.mb) := by
    rw [Nat.pow_add]
    calc e * 2 ^ f.mb + x < (e + 1) * 2 ^ f.mb := by rw [Nat.add_mul]; omega
      _ ≤ _ := Nat.mul_le_mul_right _ he
  have hw : w = n.toNat * 2 ^ (f.eb + f.mb) + (e * 2 ^ f.mb + x) := by
    change f.zero n + _ = _
    rw [zero_eq_mul, show f.width - 1 = f.eb + f.mb by unfold Fmt.width; omega]
  have hsplit : w = (n.toNat * 2 ^ f.eb + e) * 2 ^ f.mb + x := by rw [hw, Nat.pow_add]; ring
  have hn := Bool.toNat_le n
  refine ⟨?_, ?_, ?_, ?_⟩
  · have hs : w / 2 ^ (f.eb + f.mb) = n.toNat := by
      rw [hw, Nat.mul_comm, Nat.mul_add_div (Nat.two_pow_pos _), Nat.div_eq_of_lt hlow, Nat.add_zero]
    rw [bits, hs]
    cases n <;> rfl
  · rw [bits, hsplit, Nat.mul_comm, Nat.mul_add_div hp, Nat.div_eq_of_lt hx, Nat.add_zero, Nat.mul_comm, Nat.mul_add_mod, Nat.mod_eq_of_lt he]
  · rw [bits, hsplit, pow_zero, Nat.div_one, Nat.mul_comm, Nat.mul_add_mod, Nat.mod_eq_of_lt hx]
  · rw [hw, show f.width = f.eb + f.mb + 1 by unfold Fmt.width; omega, Nat.pow_succ]
    have : n.toNat * 2 ^ (f.eb + f.mb) ≤ 1 * 2 ^ (f.eb + f.mb) := Nat.mul_le_mul_right _ hn
    omega

/-- The number of a pattern that is no infinity and no NaN. -/
theorem value_pattern (he : e < f.emax) (hx : x < 2 ^ f.mb) : f.value (f.zero n + (e * 2 ^ f.mb + x)) =
    .num n (signed n (if e = 0 then x * (2 : Rat) ^ (1 - f.bias - f.mb : Int) else (2 ^ f.mb + x : Nat) * (2 : Rat) ^ ((e : Int) - f.bias - f.mb))) := by
  obtain ⟨hs, hexp, hfrac, -⟩ := pattern_fields (f := f) n (he.trans (emax_lt f)) hx
  unfold Fmt.value
  simp only [hs, hexp, hfrac, if_neg he.ne, pow2_eq]
  rfl

theorem value_inf : f.value (f.inf n) = .inf n ∧ f.inf n < 2 ^ f.width := by
  obtain ⟨hs, hexp, hfrac, hw⟩ := pattern_fields (f := f) n (emax_lt f) (Nat.two_pow_pos _)
  rw [show f.inf n = f.zero n + (f.emax * 2 ^ f.mb + 0) from rfl]
  refine ⟨?_, hw⟩
  unfold Fmt.value
  simp only [hs, hexp, hfrac, if_true]

/-- A magnitude on the format's grid, below the overflow threshold, is packed with its sign (R57). -/
theorem pack_value (hf : 0 < f.emax) (hm : m ≤ 2 ^ (f.mb + 1)) (hlo : 2 ^ f.mb ≤ m → (2 : Rat) ^ (1 - f.bias : Int) ≤ m * (2 : Rat) ^ g)
    (hsub : m < 2 ^ f.mb → g = 1 - f.bias - f.mb)    (hhi : m * (2 : Rat) ^ g < (2 : Rat) ^ ((f.emax : Int) - f.bias)) :
    f.value (f.pack n m g) = .num n (signed n (m * (2 : Rat) ^ g)) ∧ f.pack n m g < 2 ^ f.width := by
  have hp := Nat.two_pow_pos f.mb
  have hnormal : ∀ (m : Nat) (g : Int), 2 ^ f.mb ≤ m → m < 2 ^ (f.mb + 1) → (2 : Rat) ^ (1 - f.bias : Int) ≤ m * (2 : Rat) ^ g →
      m * (2 : Rat) ^ g < (2 : Rat) ^ ((f.emax : Int) - f.bias) → f.value (f.pack n m g) = .num n (signed n (m * (2 : Rat) ^ g)) ∧
        f.pack n m g < 2 ^ f.width := by
    intro m g h1 h2 hlo hhi
    have hx : m - 2 ^ f.mb < 2 ^ f.mb := by rw [Nat.pow_succ] at h2; omega
    have hmin : (2 : Rat) ^ (f.mb + g) < 2 ^ ((f.emax : Int) - f.bias) := by
      refine lt_of_le_of_lt ?_ hhi
      rw [← natPow_mul_zpow]
      exact mul_le_mul_of_nonneg_right (by exact_mod_cast h1) (by positivity)
    have hexp := (zpow_lt_zpow_iff_right₀ (one_lt_two (α := Rat))).mp hmin
    have hmax : (2 : Rat) ^ (1 - f.bias : Int) < 2 ^ (((f.mb + 1 : Nat) : Int) + g) := by
      refine hlo.trans_lt ?_
      rw [← natPow_mul_zpow]
      exact mul_lt_mul_of_pos_right (by exact_mod_cast h2) (by positivity)
    have hexp' := (zpow_lt_zpow_iff_right₀ (one_lt_two (α := Rat))).mp hmax
    obtain ⟨e, he⟩ := Int.eq_ofNat_of_zero_le (show 0 ≤ g + f.mb + f.bias by omega)
    have hpack : f.pack n m g = f.zero n + (e * 2 ^ f.mb + (m - 2 ^ f.mb)) := by
      unfold Fmt.pack
      simp only [if_neg (not_lt.mpr h1), if_neg (not_le.mpr h2), he, Int.toNat_natCast]
      exact Nat.add_assoc _ _ _
    rw [hpack]
    refine ⟨?_, (pattern_fields n ((show e < f.emax by omega).trans (emax_lt f)) hx).2.2.2⟩
    rw [value_pattern n (by omega) hx, if_neg (by omega), Nat.add_sub_cancel' h1, show (e : Int) - f.bias - f.mb = g by omega]
  rcases lt_or_ge m (2 ^ f.mb) with h1 | h1
  · obtain rfl := hsub h1
    have hpack : f.pack n m (1 - f.bias - f.mb) = f.zero n + (0 * 2 ^ f.mb + m) := by
      unfold Fmt.pack
      rw [if_pos h1, Nat.zero_mul, Nat.zero_add]; rfl
    rw [hpack]
    exact ⟨(value_pattern n hf h1).trans (by rw [if_pos rfl]), (pattern_fields n (Nat.two_pow_pos _) h1).2.2.2⟩
  · rcases hm.lt_or_eq with h2 | rfl
    · exact hnormal m g h1 h2 (hlo h1) hhi
    · have hv : ((2 ^ (f.mb + 1) : Nat) : Rat) * (2 : Rat) ^ g = (2 ^ f.mb : Nat) * (2 : Rat) ^ (g + 1) := by
        push_cast
        rw [natPow_mul_zpow, natPow_mul_zpow]; congr 1; push_cast; ring
      have hpack : f.pack n (2 ^ (f.mb + 1)) g = f.pack n (2 ^ f.mb) (g + 1) := by
        have h4 : 2 ^ f.mb < 2 ^ (f.mb + 1) := Nat.pow_lt_pow_right (by decide) (by omega)
        have h5 : 2 ^ (f.mb + 1) / 2 = 2 ^ f.mb := by rw [Nat.pow_succ]; omega
        unfold Fmt.pack
        simp only [lt_irrefl, if_false, if_neg (not_lt.mpr h4.le), if_neg (not_le.mpr h4), ge_iff_le, le_refl, if_true, h5]
      have hlo := hlo h1
      rw [hv] at hlo hhi ⊢
      rw [hpack]
      exact hnormal _ _ le_rfl (Nat.pow_lt_pow_right (by decide) (by omega)) hlo hhi

/-- The largest finite magnitude (R57). -/
theorem value_maxFinite (hf : f.rounds) : f.value (f.maxFinite n) =
    .num n (signed n ((2 ^ (f.mb + 1) - 1) * (2 : Rat) ^ (f.emax - 1 - f.bias - f.mb : Int))) ∧ f.maxFinite n < 2 ^ f.width := by
  obtain ⟨-, hmb, hbias, hemax, -⟩ := hf
  have hp := Nat.two_pow_pos f.mb
  have hx : 2 ^ f.mb - 1 < 2 ^ f.mb := by omega
  have hmax : f.maxFinite n = f.zero n + ((f.emax - 1) * 2 ^ f.mb + (2 ^ f.mb - 1)) := by
    obtain ⟨e, he⟩ := Nat.exists_eq_add_of_lt hemax
    have : f.emax * 2 ^ f.mb = (f.emax - 1) * 2 ^ f.mb + 2 ^ f.mb := by
      conv_lhs => rw [show f.emax = f.emax - 1 + 1 by omega, Nat.add_mul, Nat.one_mul]
    unfold Fmt.maxFinite Fmt.zero
    omega
  rw [hmax]
  refine ⟨?_, (pattern_fields n ((show f.emax - 1 < f.emax by omega).trans (emax_lt f)) hx).2.2.2⟩
  rw [value_pattern n (by omega) hx, if_neg (by omega), Nat.cast_sub (show 1 ≤ f.emax by omega),
    show 2 ^ f.mb + (2 ^ f.mb - 1) = 2 ^ (f.mb + 1) - 1 by rw [Nat.pow_succ]; omega, Nat.cast_sub Nat.one_le_two_pow]
  push_cast
  rfl

end

/-! ### round_once of a magnitude and a sign -/

/-- round_once of a positive magnitude and a sign, as the model works it out. -/
def Fmt.roundMagnitude (f : Fmt) (rm : BitVec 3) (fl : BitVec 2) (neg : Bool) (a : Rat) : Nat × Flags :=
  let g := ilog2 a - f.mb
  let m := roundNat rm neg (a * 2 ^ (-g))
  let gmin : Int := 1 - f.bias - f.mb
  let k := roundNat rm neg (a * 2 ^ (-gmin))
  if (2 : Rat) ^ ((f.emax : Int) - f.bias) ≤ m * 2 ^ g then (f.overflow rm neg, flagOF)
  else if (m : Rat) * 2 ^ g < 2 ^ (1 - f.bias : Int) then
    if fl ≠ 0 then (f.zero neg, flagUF) else (f.pack neg k gmin, if (k : Rat) * 2 ^ gmin = a then 0 else flagUF)
  else (f.pack neg m g, if (m : Rat) * 2 ^ g = a then 0 else flagNX)

theorem roundNum_eq_roundMagnitude (f : Fmt) (rm : BitVec 3) (fl : BitVec 2) (v : Rat) :
    f.roundNum rm fl v = f.roundMagnitude rm fl (decide (v < 0)) (if v < 0 then -v else v) := by
  unfold Fmt.roundNum Fmt.roundMagnitude
  simp only [pow2_eq, ge_iff_le]

section
variable {f : Fmt} {m : Nat} {g : Int}

/-- A number of the precision above the largest finite one is at the overflow threshold or above it. -/
theorem top_lt_iff (hmb : 1 ≤ f.mb) (h1 : 2 ^ f.mb ≤ m) (h2 : m ≤ 2 ^ (f.mb + 1)) :
    (2 ^ (f.mb + 1) - 1 : Rat) * (2 : Rat) ^ (f.emax - 1 - f.bias - f.mb : Int) < m * (2 : Rat) ^ g ↔
      (2 : Rat) ^ ((f.emax : Int) - f.bias) ≤ m * (2 : Rat) ^ g := by
  obtain ⟨t, ht⟩ : ∃ t : Int, (f.emax - 1 - f.bias - f.mb : Int) = t := ⟨_, rfl⟩
  have h2t : (0 : Rat) < 2 ^ t := by positivity
  have hpow : (2 : Rat) ^ ((f.emax : Int) - f.bias) = 2 ^ (f.mb + 1) * 2 ^ t := by rw [natPow_mul_zpow]; congr 1; push_cast; omega
  have hhalf : (2 : Rat) ≤ 2 ^ f.mb := by
    calc (2 : Rat) = 2 ^ 1 := (pow_one 2).symm
      _ ≤ _ := pow_le_pow_right₀ one_le_two hmb
  have h1' : (2 : Rat) ^ f.mb ≤ m := by exact_mod_cast h1
  have h2' : (m : Rat) ≤ 2 ^ (f.mb + 1) := by exact_mod_cast h2
  rw [ht, hpow]
  refine ⟨fun h => ?_, fun h => lt_of_lt_of_le (by nlinarith) h⟩
  rcases lt_trichotomy g t with hlt | rfl | hgt
  · have hle : (2 : Rat) ^ g * 2 ≤ 2 ^ t := by
      rw [← zpow_add_one₀ two_ne_zero]; exact zpow_le_zpow_right₀ one_le_two hlt
    have hg : (0 : Rat) < 2 ^ g := by positivity
    have : (m : Rat) * 2 ^ g ≤ (2 ^ (f.mb + 1) - 1) * 2 ^ t := by
      calc (m : Rat) * 2 ^ g ≤ 2 ^ (f.mb + 1) * 2 ^ g := by gcongr
        _ = 2 ^ f.mb * (2 ^ g * 2) := by rw [pow_succ]; ring
        _ ≤ 2 ^ f.mb * 2 ^ t := by gcongr
        _ ≤ _ := by rw [pow_succ]; exact mul_le_mul_of_nonneg_right (by linarith) h2t.le
    exact absurd h (not_lt.mpr this)
  · have hm : (2 ^ (f.mb + 1) - 1 : Rat) < m := lt_of_mul_lt_mul_right h h2t.le
    have hm' : 2 ^ (f.mb + 1) < m + 1 := by
      have : (2 ^ (f.mb + 1) : Rat) < m + 1 := by linarith
      exact_mod_cast this
    have : (2 ^ (f.mb + 1) : Nat) ≤ m := by omega
    exact mul_le_mul_of_nonneg_right (by exact_mod_cast this) h2t.le
  · have hle : (2 : Rat) ^ t * 2 ≤ 2 ^ g := by
      rw [← zpow_add_one₀ two_ne_zero]; exact zpow_le_zpow_right₀ one_le_two hgt
    calc (2 : Rat) ^ (f.mb + 1) * 2 ^ t = 2 ^ f.mb * (2 ^ t * 2) := by rw [pow_succ]; ring
      _ ≤ m * 2 ^ g := by gcongr

/-- A mode keeps a magnitude between whole numbers. -/
theorem roundNat_between (rm : BitVec 3) (neg : Bool) {q : Rat} {a b : Nat} (hq : 0 ≤ q) (h1 : a ≤ q) (h2 : q ≤ b) :
    a ≤ roundNat rm neg q ∧ roundNat rm neg q ≤ b := by
  obtain ⟨hnext, hprev⟩ := roundNat_neighbour rm neg hq
  rcases le_total (roundNat rm neg q : Rat) q with hle | hle
  · have h := h1.trans_lt (hnext hle)
    have h' := hle.trans h2
    exact ⟨Nat.lt_succ_iff.mp (by exact_mod_cast h), by exact_mod_cast h'⟩
  · have h := (hprev hle).trans_le (add_le_add_left h2 1)
    have h' := h1.trans hle
    exact ⟨by exact_mod_cast h', Nat.lt_succ_iff.mp (by exact_mod_cast h)⟩

end

section
variable {f : Fmt} {a : Rat} {above below : Rat → Prop}

theorem AgreesAt.grid {g : Int} (h : AgreesAt above below a (2 ^ (g - 1))) : AgreesAt above below (a * 2 ^ (-g) * 2 ^ g) (2 ^ g / 2) := by
  rwa [mul_assoc, two_zpow_add, neg_add_cancel, zpow_zero, mul_one, div_eq_mul_inv, ← zpow_sub_one₀ two_ne_zero]

/-- A multiple of a step is the value itself just where the cut has it on neither side. -/
theorem AgreesAt.exact_iff {g : Int} (h : AgreesAt above below a (2 ^ (g - 1))) (m : Nat) :
    ¬ above (m * (2 : Rat) ^ g) ∧ ¬ below (m * (2 : Rat) ^ g) ↔ (m : Rat) * (2 : Rat) ^ g = a := by
  have h2 := h (2 * m)
  have hv : ((2 * (m : Int) : Int) : Rat) * 2 ^ (g - 1) = m * 2 ^ g := by
    push_cast
    rw [mul_comm (2 : Rat) m, mul_assoc, ← zpow_one_add₀ two_ne_zero]; congr 2; ring
  rw [hv] at h2
  rw [h2.1, h2.2, not_lt, not_lt]
  exact ⟨fun h => le_antisymm h.1 h.2, fun h => ⟨h.le, h.ge⟩⟩

/-- The significand of a magnitude in its binade. -/
theorem significand_bounds (f : Fmt) (ha : 0 < a) :
    (2 : Rat) ^ f.mb ≤ a * 2 ^ (-(ilog2 a - f.mb : Int)) ∧ a * 2 ^ (-(ilog2 a - f.mb : Int)) ≤ (2 : Rat) ^ (f.mb + 1) := by
  obtain ⟨h1, h2⟩ := ilog2_bounds ha
  have hp : (0 : Rat) < 2 ^ (-(ilog2 a - f.mb : Int)) := by positivity
  constructor
  · calc (2 : Rat) ^ f.mb = 2 ^ ilog2 a * 2 ^ (-(ilog2 a - f.mb : Int)) := by rw [two_zpow_add, ← zpow_natCast]; congr 1; ring
      _ ≤ _ := by gcongr
  · calc a * 2 ^ (-(ilog2 a - f.mb : Int)) ≤ 2 ^ (ilog2 a + 1) * 2 ^ (-(ilog2 a - f.mb : Int)) := by gcongr
      _ = _ := by rw [two_zpow_add, ← zpow_natCast]; congr 1; push_cast; ring

theorem zero_lt_width (f : Fmt) (n : Bool) : f.zero n < 2 ^ f.width := by
  have h := (pattern_fields (f := f) (e := 0) (x := 0) n (Nat.two_pow_pos _) (Nat.two_pow_pos _)).2.2.2
  rwa [Nat.zero_mul] at h

theorem least_le_top (hf : f.rounds) :
    (2 : Rat) ^ (1 - f.bias : Int) ≤ (2 ^ (f.mb + 1) - 1 : Rat) * (2 : Rat) ^ (f.emax - 1 - f.bias - f.mb : Int) := by
  obtain ⟨-, hmb, hbias, hemax, -⟩ := hf
  have hhalf : (2 : Rat) ^ f.mb ≤ 2 ^ (f.mb + 1) - 1 := by
    have : (1 : Rat) ≤ 2 ^ f.mb := one_le_pow₀ one_le_two
    rw [pow_succ]; linarith
  calc (2 : Rat) ^ (1 - f.bias : Int) ≤ 2 ^ f.mb * 2 ^ (f.emax - 1 - f.bias - f.mb : Int) := by
        rw [natPow_mul_zpow]; exact zpow_le_zpow_right₀ one_le_two (by omega)
    _ ≤ _ := mul_le_mul_of_nonneg_right hhalf (by positivity)

/-- The result of an overflow by its mode and sign (R59). -/
theorem value_overflow (rm : BitVec 3) (neg : Bool) (hf : f.rounds) :
    let top : Rat := (2 ^ (f.mb + 1) - 1) * (2 : Rat) ^ (f.emax - 1 - f.bias - f.mb : Int)
    let big := FVal.num neg (if neg then -top else top)
    (f.value (f.overflow rm neg) = match rm.toNat with
      | 1 => big
      | 2 => if neg then .inf true else big
      | 3 => if neg then big else .inf false
      | _ => .inf neg) ∧ f.overflow rm neg < 2 ^ f.width := by
  intro top big
  have hmax : f.value (f.maxFinite neg) = big ∧ f.maxFinite neg < 2 ^ f.width := value_maxFinite neg hf
  have hinf : f.value (f.inf neg) = .inf neg ∧ f.inf neg < 2 ^ f.width := value_inf neg
  unfold Fmt.overflow
  match rm.toNat with
  | 0 => exact hinf
  | 1 => exact hmax
  | 2 =>
    cases neg with
    | true => exact hinf
    | false => exact hmax
  | 3 =>
    cases neg with
    | true => exact hmax
    | false => exact hinf
  | n + 4 => exact hinf

/-- The significand of a magnitude and its rounding, in steps of the last place of its binade (R58). -/
theorem rounded_significand (hmb : 1 ≤ f.mb) (rm : BitVec 3) (neg : Bool) (ha : 0 < a) (hcut : Cut above below) {g : Int} {m : Nat}
    (hg : ilog2 a - f.mb = g) (hm : roundNat rm neg (a * 2 ^ (-g)) = m) (hag : AgreesAt above below a (2 ^ (g - 1))) :
    2 ^ f.mb ≤ m ∧ m ≤ 2 ^ (f.mb + 1) ∧
      Claim.Rounded (Claim.Precise f) (Claim.EvenPrecise f) (magnitudeMode neg rm) false above below (m * (2 : Rat) ^ g) := by
  have hx := significand_bounds f ha
  rw [hg] at hx
  have hq : 0 ≤ a * 2 ^ (-g) := by positivity
  obtain ⟨h1, h2⟩ : 2 ^ f.mb ≤ m ∧ m ≤ 2 ^ (f.mb + 1) := hm ▸ roundNat_between rm neg hq (by exact_mod_cast hx.1) (by exact_mod_cast hx.2)
  have hr := rounded_multiple (magnitudeMode neg rm) hag.grid (by positivity) hq
  rw [← roundNat_magnitudeMode, hm] at hr
  refine ⟨h1, h2, rounded_precise hcut hmb h1 h2 (fun h => ?_) hr⟩
  have hlow := (hag.grid.whole (by positivity) (2 ^ f.mb)).1
  push_cast at hlow
  rw [natPow_mul_zpow] at hlow
  exact absurd (hlow.mp h) (not_lt.mpr hx.1)

/-- A magnitude that rounds to less than the normal numbers lies below them. -/
theorem small_of_rounded (ha : 0 < a) {g : Int} {m : Nat} (hg : ilog2 a - f.mb = g) (h1 : 2 ^ f.mb ≤ m)
    (h : (m : Rat) * 2 ^ g < 2 ^ (1 - f.bias : Int)) : a < (2 : Rat) ^ (1 - f.bias : Int) := by
  by_contra hn
  have hlog : (1 - f.bias : Int) < ilog2 a + 1 := (zpow_lt_zpow_iff_right₀ (one_lt_two (α := Rat))).mp ((not_lt.mp hn).trans_lt (ilog2_bounds ha).2)
  have hle : (2 : Rat) ^ (1 - f.bias : Int) ≤ m * 2 ^ g := by
    calc (2 : Rat) ^ (1 - f.bias : Int) ≤ 2 ^ (f.mb + g) := zpow_le_zpow_right₀ one_le_two (by omega)
      _ = 2 ^ f.mb * 2 ^ g := (natPow_mul_zpow _ _).symm
      _ ≤ _ := mul_le_mul_of_nonneg_right (by exact_mod_cast h1) (by positivity)
  exact absurd h (not_lt.mpr hle)

/-- A magnitude below the normal numbers is rounded to the subnormal grid, and packed with its sign (R59). -/
theorem rounded_subnormal (hf : f.rounds) (rm : BitVec 3) (neg : Bool) (ha : 0 < a) (hsmall : a < (2 : Rat) ^ (1 - f.bias : Int)) {gmin : Int} {k : Nat}
    (hgmin : (1 - f.bias - f.mb : Int) = gmin) (hk : roundNat rm neg (a * 2 ^ (-gmin)) = k) (hag : AgreesAt above below a (2 ^ (gmin - 1))) :
    Claim.Rounded (Claim.OnGrid f) (Claim.EvenOnGrid f) rm neg (signedAbove neg above below) (signedAbove neg below above) (signed neg (k * 2 ^ gmin)) ∧
      f.value (f.pack neg k gmin) = .num neg (signed neg (k * 2 ^ gmin)) ∧ f.pack neg k gmin < 2 ^ f.width := by
  obtain ⟨-, hmb, hbias, hemax, -⟩ := hf
  have hq : 0 ≤ a * 2 ^ (-gmin) := by positivity
  have hleast : (2 : Rat) ^ f.mb * 2 ^ gmin = 2 ^ (1 - f.bias : Int) := by rw [natPow_mul_zpow, ← hgmin]; congr 1; ring
  have hk1 : k ≤ 2 ^ f.mb := by
    refine hk ▸ (roundNat_between (a := 0) rm neg hq (by exact_mod_cast hq) ?_).2
    push_cast
    calc a * 2 ^ (-gmin) ≤ 2 ^ (1 - f.bias : Int) * 2 ^ (-gmin) := by gcongr
      _ = _ := by rw [← hleast, mul_assoc, two_zpow_add, add_neg_cancel, zpow_zero, mul_one]
  have hkv : (k : Rat) * 2 ^ gmin < 2 ^ ((f.emax : Int) - f.bias) := by
    calc (k : Rat) * 2 ^ gmin ≤ 2 ^ f.mb * 2 ^ gmin := by gcongr; exact_mod_cast hk1
      _ = 2 ^ (1 - f.bias : Int) := hleast
      _ < _ := zpow_lt_zpow_right₀ one_lt_two (by omega)
  have hr := rounded_multiple (magnitudeMode neg rm) hag.grid (by positivity) hq
  rw [← roundNat_magnitudeMode, hk] at hr
  refine ⟨?_, pack_value neg (by omega) (hk1.trans (Nat.pow_le_pow_right (by decide) (Nat.le_succ _))) (fun h => ?_) (fun _ => hgmin.symm) hkv⟩
  · rw [← hgmin] at hr ⊢
    exact rounded_signed (multiple_neg _) (evenMultiple_neg _) hr
  · rw [show k = 2 ^ f.mb by omega]
    push_cast
    exact hleast.ge

/-- round_once of a positive number that stands for a cut, with a sign (R59): the number and the cut agree at the halves of the steps that the
rounding takes. -/
theorem roundMagnitude_roundOnce (hf : f.rounds) (rm : BitVec 3) (fl : BitVec 2) (neg : Bool) (ha : 0 < a) (hcut : Cut above below)
    (hag : AgreesAt above below a (2 ^ (ilog2 a - f.mb - 1)))
    (hsub : a < (2 : Rat) ^ (1 - f.bias : Int) → AgreesAt above below a (2 ^ (1 - f.bias - f.mb - 1 : Int))) :
    Claim.RoundOnce f rm fl neg (signedAbove neg above below) (signedAbove neg below above) (f.roundMagnitude rm fl neg a).1
      (f.roundMagnitude rm fl neg a).2 := by
  obtain ⟨g, hg⟩ : ∃ g : Int, ilog2 a - f.mb = g := ⟨_, rfl⟩
  obtain ⟨m, hm⟩ : ∃ m, roundNat rm neg (a * 2 ^ (-g)) = m := ⟨_, rfl⟩
  obtain ⟨gmin, hgmin⟩ : ∃ gmin : Int, (1 - f.bias - f.mb : Int) = gmin := ⟨_, rfl⟩
  obtain ⟨k, hk⟩ : ∃ k, roundNat rm neg (a * 2 ^ (-gmin)) = k := ⟨_, rfl⟩
  rw [hg] at hag
  rw [hgmin] at hsub
  obtain ⟨h1, h2, hprecise⟩ := rounded_significand hf.2.1 rm neg ha hcut hg hm hag
  have hr0 : (0 : Rat) ≤ m * 2 ^ g := by positivity
  have htop := top_lt_iff (f := f) (g := g) hf.2.1 h1 h2
  have hleast := least_le_top hf
  have hres : f.roundMagnitude rm fl neg a = if (2 : Rat) ^ ((f.emax : Int) - f.bias) ≤ m * 2 ^ g then (f.overflow rm neg, flagOF)
      else if (m : Rat) * 2 ^ g < 2 ^ (1 - f.bias : Int) then
        if fl ≠ 0 then (f.zero neg, flagUF) else (f.pack neg k gmin, if (k : Rat) * 2 ^ gmin = a then 0 else flagUF)
      else (f.pack neg m g, if (m : Rat) * 2 ^ g = a then 0 else flagNX) := by
    unfold Fmt.roundMagnitude
    simp only [hg, hm, hgmin, hk]
  suffices h : (f.roundMagnitude rm fl neg a).1 < 2 ^ f.width ∧ _ from
    ⟨h.1, _, rounded_signed (precise_neg f) (evenPrecise_neg f) hprecise, h.2⟩
  rw [abs_signed neg hr0, hres]
  rcases le_or_gt ((2 : Rat) ^ ((f.emax : Int) - f.bias)) (m * 2 ^ g) with hover | hover
  · obtain ⟨hval, hw⟩ := value_overflow rm neg hf
    have hlt := htop.mpr hover
    rw [if_pos hover]
    exact ⟨hw, fun _ => ⟨rfl, hval⟩, fun h => absurd hlt (not_lt.mpr h), fun h => absurd (h.trans_le hleast) (not_lt.mpr hlt.le),
      fun h => absurd (h.trans_le hleast) (not_lt.mpr hlt.le)⟩
  have hnot := mt htop.mp (not_le.mpr hover)
  rw [if_neg (not_le.mpr hover)]
  rcases lt_or_ge ((m : Rat) * 2 ^ g) (2 ^ (1 - f.bias : Int)) with htiny | htiny
  · rw [if_pos htiny]
    by_cases hfl : fl = 0
    · have hsmall := small_of_rounded ha hg h1 htiny
      obtain ⟨hrounded, hval, hw⟩ := rounded_subnormal hf rm neg ha hsmall hgmin hk (hsub hsmall)
      have hexact := (signedAbove_signed (neg := neg) _).trans ((hsub hsmall).exact_iff k)
      rw [if_neg (not_not.mpr hfl)]
      exact ⟨hw, fun h => absurd h hnot, fun _ h => absurd htiny (not_lt.mpr h), fun _ h => absurd hfl h, fun _ _ =>
        ⟨_, hrounded, hval, fun h => if_pos (hexact.mp h), fun h => if_neg (mt hexact.mpr h)⟩⟩
    · rw [if_pos hfl]
      exact ⟨zero_lt_width f neg, fun h => absurd h hnot, fun _ h => absurd htiny (not_lt.mpr h), fun _ _ => ⟨value_zero hf.1 neg, rfl⟩,
        fun _ h => absurd h hfl⟩
  · obtain ⟨hval, hw⟩ := pack_value (f := f) neg (emax_pos hf.1) h2 (fun _ => htiny) (fun h => absurd h (by omega)) hover
    have hexact := (signedAbove_signed (neg := neg) _).trans (hag.exact_iff m)
    rw [if_neg (not_lt.mpr htiny)]
    exact ⟨hw, fun h => absurd h hnot, fun _ _ => ⟨hval, fun h => if_pos (hexact.mp h), fun h => if_neg (mt hexact.mpr h)⟩,
      fun h => absurd h (not_lt.mpr htiny), fun h => absurd h (not_lt.mpr htiny)⟩

end

theorem roundOnceOfNumbers : Claim.RoundOnceOfNumbers := by
  intro f hf rm fl v hv
  rw [roundNum_eq_roundMagnitude]
  by_cases hneg : v < 0
  · have h := roundMagnitude_roundOnce (fmt_rounds f hf) rm fl true (neg_pos.mpr hneg) (cut_of_rat (-v)) (agreesAt_rat _ _) fun _ => agreesAt_rat _ _
    rw [if_pos hneg, decide_eq_true hneg]
    simpa only [signedAbove, neg_lt_neg_iff] using h
  · have h := roundMagnitude_roundOnce (fmt_rounds f hf) rm fl false (lt_of_le_of_ne (not_lt.mp hneg) hv.symm) (cut_of_rat v) (agreesAt_rat _ _)
      fun _ => agreesAt_rat _ _
    rwa [if_neg hneg, decide_eq_false hneg]

/-! # The square root (R98) -/

/-- The root of a value as a cut: of what is positive, the square decides. -/
theorem cut_of_root {q : Rat} : Cut (fun x => 0 < x ∧ q < x * x) (fun x => x < 0 ∨ x * x < q) where
  apart := by
    rintro x (h | h) ⟨h1, h2⟩
    · exact lt_asymm h h1
    · exact lt_asymm h h2
  upward := by
    intro x y hxy h
    rw [not_or, not_lt, not_lt] at h
    obtain ⟨h0, h1⟩ := h
    exact ⟨h0.trans_lt hxy, h1.trans_lt (by nlinarith)⟩

theorem isqrt_mul_self (c : Nat) : isqrt (c * c) = c :=
  le_antisymm (Nat.mul_self_le_mul_self_iff.mp ((le_isqrt_iff _ _).mp le_rfl)) ((le_isqrt_iff _ _).mpr le_rfl)

/-- `sqrtNear` is a multiple of 2⁻ᵏ just where that is the root. -/
theorem eq_sqrtNear_iff {q : Rat} (hq : 0 < q) (c : Nat) :
    (c : Rat) / 2 ^ (80 + Nat.log2 q.den) = sqrtNear q ↔ ((c : Rat) / 2 ^ (80 + Nat.log2 q.den)) ^ 2 = q := by
  obtain ⟨p, d, hp, hden, -, hd0, hqd⟩ := rat_quotient hq
  rw [hden]
  generalize hk : 80 + Nat.log2 d = k
  have hd : (0 : Rat) < d := by exact_mod_cast hd0
  have h2 : (0 : Rat) < 2 ^ k := by positivity
  have hsq : ((c : Rat) / 2 ^ k) ^ 2 = q ↔ c * c * d = p * 4 ^ k := by
    rw [hqd, div_pow, div_eq_div_iff (by positivity) hd.ne', pow_two (c : Rat),
      show ((2 : Rat) ^ k) ^ 2 = 4 ^ k by rw [← pow_mul, Nat.mul_comm k 2, pow_mul]; norm_num]
    exact_mod_cast Iff.rfl
  have hroot : c * c * d = p * 4 ^ k → isqrt (p * 4 ^ k / d) = c ∧ c * c = p * 4 ^ k / d ∧ p * 4 ^ k % d = 0 := fun h => by
    rw [← h, Nat.mul_div_cancel _ hd0, isqrt_mul_self]
    exact ⟨rfl, rfl, Nat.mul_mod_left _ _⟩
  rw [hsq]
  unfold sqrtNear
  rw [hden, hk, hp]
  dsimp only
  split
  next h =>
    push_cast
    rw [div_left_inj' h2.ne']
    refine ⟨fun hc => ?_, fun hc => by rw [(hroot hc).1]⟩
    have hc : c = isqrt (p * 4 ^ k / d) := by exact_mod_cast hc
    rw [hc, h.1]
    exact Nat.div_mul_cancel (Nat.dvd_of_mod_eq_zero h.2)
  next h =>
    refine ⟨fun hc => ?_, fun hc => ?_⟩
    · exfalso
      push_cast at hc
      rw [pow_succ, div_eq_div_iff h2.ne' (by positivity), show (c : Rat) * (2 ^ k * 2) = (2 * c) * 2 ^ k by ring] at hc
      have := mul_right_cancel₀ h2.ne' hc
      have : 2 * c = 2 * isqrt (p * 4 ^ k / d) + 1 := by exact_mod_cast this
      omega
    · obtain ⟨h1, h2, h3⟩ := hroot hc
      exact absurd ⟨by rw [h1, h2], h3⟩ h

section
variable {q : Rat}

theorem sqrtNear_pos (hq : 0 < q) : 0 < sqrtNear q := by
  have hle := (le_sqrtNear_iff hq 0).mpr (by simpa using hq.le)
  have hne := mt (eq_sqrtNear_iff hq 0).mp (by simpa using hq.ne)
  exact lt_of_le_of_ne (by simpa using hle) (by simpa using hne)

/-- The root and `sqrtNear` lie on the same side of the multiples of a power of two that is not too small. -/
theorem sqrtNear_sides (hq : 0 < q) {e : Int} (he : -(80 + Nat.log2 q.den : Int) ≤ e) (c : Nat) :
    ((c : Rat) * 2 ^ e ≤ sqrtNear q ↔ ((c : Rat) * 2 ^ e) ^ 2 ≤ q) ∧ ((c : Rat) * 2 ^ e = sqrtNear q ↔ ((c : Rat) * 2 ^ e) ^ 2 = q) := by
  obtain ⟨j, hj⟩ := Int.eq_ofNat_of_zero_le (show 0 ≤ e + (80 + Nat.log2 q.den : Nat) by push_cast; omega)
  have hv : ((c * 2 ^ j : Nat) : Rat) / 2 ^ (80 + Nat.log2 q.den) = c * 2 ^ e := by
    rw [div_eq_iff (by positivity), mul_assoc, mul_comm (2 ^ e : Rat), natPow_mul_zpow, add_comm, hj]
    push_cast; rfl
  have h1 := le_sqrtNear_iff hq (c * 2 ^ j)
  have h2 := eq_sqrtNear_iff hq (c * 2 ^ j)
  rw [hv] at h1 h2
  exact ⟨h1, h2⟩

theorem pow_le_sqrtNear_iff (hq : 0 < q) {e : Int} (he : -(80 + Nat.log2 q.den : Int) ≤ e) :
    (2 : Rat) ^ e ≤ sqrtNear q ↔ (2 : Rat) ^ (2 * e) ≤ q := by
  have h := (sqrtNear_sides hq he 1).1
  rwa [Nat.cast_one, one_mul, ← zpow_natCast, ← zpow_mul, mul_comm e] at h

theorem sqrtNear_agrees (hq : 0 < q) {e : Int} (he : -(80 + Nat.log2 q.den : Int) ≤ e) :
    AgreesAt (fun x => 0 < x ∧ q < x * x) (fun x => x < 0 ∨ x * x < q) (sqrtNear q) (2 ^ e) := by
  intro c
  have hp : (0 : Rat) < 2 ^ e := by positivity
  have hv := sqrtNear_pos hq
  rcases lt_or_ge c 0 with hc | hc
  · have hx : (c : Rat) * 2 ^ e < 0 := mul_neg_of_neg_of_pos (by exact_mod_cast hc) hp
    exact ⟨iff_of_false (fun h => lt_asymm h.1 hx) fun h => lt_asymm (hx.trans hv) h, iff_of_true (.inl hx) (hx.trans hv)⟩
  · obtain ⟨n, rfl⟩ := Int.eq_ofNat_of_zero_le hc
    obtain ⟨hle, heq⟩ := sqrtNear_sides hq he n
    have hx : (0 : Rat) ≤ n * 2 ^ e := by positivity
    change (0 < (n : Rat) * 2 ^ e ∧ q < (n : Rat) * 2 ^ e * (n * 2 ^ e) ↔ sqrtNear q < (n : Rat) * 2 ^ e) ∧
      ((n : Rat) * 2 ^ e < 0 ∨ (n : Rat) * 2 ^ e * (n * 2 ^ e) < q ↔ (n : Rat) * 2 ^ e < sqrtNear q)
    rw [← pow_two, ← not_le (b := sqrtNear q), hle, lt_iff_le_and_ne (b := sqrtNear q), hle, Ne, heq, not_le]
    generalize (n : Rat) * 2 ^ e = x at *
    refine ⟨⟨fun h => h.2, fun h => ⟨?_, h⟩⟩,
      ⟨fun h => lt_iff_le_and_ne.mp (h.resolve_left (not_lt.mpr hx)), fun h => .inr (lt_iff_le_and_ne.mpr h)⟩⟩
    exact lt_of_le_of_ne hx fun h0 => by rw [← h0] at h; simp at h; exact lt_asymm h hq

/-- The root's exponent is not below that of the steps of `sqrtNear`. -/
theorem ilog2_sqrtNear (hq : 0 < q) {n : Nat} (hn : n ≤ 78) : (n : Int) - (80 + Nat.log2 q.den : Int) ≤ ilog2 (sqrtNear q) := by
  obtain ⟨p, d, -, hden, hp0, hd0, hqd⟩ := rat_quotient hq
  have hle : (2 : Rat) ^ ((n : Int) - (80 + Nat.log2 q.den : Int)) ≤ sqrtNear q := by
    rw [pow_le_sqrtNear_iff hq (by omega), hden]
    conv_rhs => rw [hqd]
    rw [le_div_iff₀ (by exact_mod_cast hd0)]
    have hp : (1 : Rat) ≤ p := by exact_mod_cast hp0
    have hd : (d : Rat) ≤ 2 ^ (Nat.log2 d + 1) := by exact_mod_cast Nat.lt_log2_self.le
    calc (2 : Rat) ^ (2 * ((n : Int) - (80 + Nat.log2 d : Int))) * d
        ≤ 2 ^ (2 * ((n : Int) - (80 + Nat.log2 d : Int))) * 2 ^ (Nat.log2 d + 1) := by gcongr
      _ ≤ 2 ^ (0 : Int) := by
        rw [← zpow_natCast, two_zpow_add]; exact zpow_le_zpow_right₀ one_le_two (by push_cast; omega)
      _ ≤ p := by rwa [zpow_zero]
  have := (zpow_lt_zpow_iff_right₀ (one_lt_two (α := Rat))).mp (hle.trans_lt (ilog2_bounds (sqrtNear_pos hq)).2)
  omega

/-- The root of a number of the format is a normal number. -/
theorem least_le_sqrtNear {f : Fmt} (hf : f.rounds) (hq : 0 < q) (hlo : (2 : Rat) ^ (1 - f.bias - f.mb : Int) ≤ q) :
    (2 : Rat) ^ (1 - f.bias : Int) ≤ sqrtNear q := by
  obtain ⟨-, -, hbias, -, -⟩ := hf
  rcases lt_or_ge (1 - f.bias : Int) (-(80 + Nat.log2 q.den : Int)) with hlt | hge
  · have hlog := ilog2_sqrtNear hq (n := 0) (by decide)
    exact (zpow_le_zpow_right₀ one_le_two (by omega)).trans (ilog2_bounds (sqrtNear_pos hq)).1
  · rw [pow_le_sqrtNear_iff hq hge]
    exact (zpow_le_zpow_right₀ one_le_two (by omega)).trans hlo

theorem sqrt_roundOnce {f : Fmt} (hf : f.rounds) (rm : BitVec 3) (fl : BitVec 2) (hq : 0 < q) (hlo : (2 : Rat) ^ (1 - f.bias - f.mb : Int) ≤ q) :
    Claim.RoundOnce f rm fl false (fun x => 0 < x ∧ q < x * x) (fun x => x < 0 ∨ x * x < q) (f.roundNum rm fl (sqrtNear q)).1
      (f.roundNum rm fl (sqrtNear q)).2 := by
  have hv := sqrtNear_pos hq
  have hlog := ilog2_sqrtNear hq (n := f.mb + 1) (by have := hf.2.2.2.2; omega)
  rw [roundNum_eq_roundMagnitude, if_neg (not_lt.mpr hv.le), decide_eq_false (not_lt.mpr hv.le)]
  exact roundMagnitude_roundOnce hf rm fl false hv cut_of_root (sqrtNear_agrees hq (by push_cast at hlog; omega))
    fun h => absurd h (not_lt.mpr (least_le_sqrtNear hf hq hlo))

end

theorem ffmt_rounds (fmt : FFmt) : fmt.fmt.rounds := by
  cases fmt <;> exact fmt_rounds _ (by decide)

theorem scalarSquareRoot : Claim.ScalarSquareRoot := by
  intro fmt rs1 rd s f a
  have hgo : exec (.fsqrt fmt rs1 rd) s = Claim.toF s rd (f.sqrt s.t.frm 0 a).1 (f.sqrt s.t.frm 0 a).2 := rfl
  have hf : f.rounds := ffmt_rounds fmt
  rw [hgo]
  refine ⟨fun x h => ?_, fun h => ?_, fun m h => ?_, ?_, fun m q h hq => ⟨_, _, rfl, ?_⟩⟩
  · rw [h]; exact congrArg (Claim.toF s rd f.nan) (nv_nan x)
  · rw [h]; rfl
  · rw [h, Fmt.sqrt, if_pos rfl]
  · rintro (h | ⟨m, q, h, hq⟩)
    · rw [h]; rfl
    · rw [h, Fmt.sqrt, if_neg hq.ne, if_pos hq]
  · have hread : f.read 0 (s.t.fBits f rs1) = .num m q := by
      unfold Fmt.read
      rw [show f.value (s.t.fBits f rs1) = .num m q from h]
      rfl
    rw [h, Fmt.sqrt, if_neg hq.ne', if_neg (not_lt.mpr hq.le)]
    exact sqrt_roundOnce hf _ _ hq (read_bounds hf.1 hread hq).1

/-- Settles O3: sums and products are the one rounding of their exact results, the modes give neighbouring integers, and round_once of a
number or of a root is its rounding to the format's precision or, below the normal numbers, to its grid. -/
theorem scalarFloatArithmetic : Obligations.ScalarFloatArithmetic :=
  ⟨scalarFloatSumsAndProducts, scalarSquareRoot, roundingModes, roundOnceOfNumbers⟩

end Sys2Proof.Machine
end

section
namespace Sys2Proof.Machine

/-! # Atomics and the segments of tasks (R108, R109, R159, R429 to R437) -/

/-! ### The words of AMOs (R108) -/

/-- The bytes of a word depend on its low bits alone. -/
theorem toBytes_congr {n x y : Nat} (h : x % 256 ^ n = y % 256 ^ n) : toBytes n x = toBytes n y := by
  induction n generalizing x y with
  | zero => rfl
  | succ n ih =>
    have h8 : x % 256 = y % 256 := by
      have := congrArg (· % 256) h
      simpa only [Nat.mod_mod_of_dvd _ (Dvd.intro_left (256 ^ n) rfl : 256 ∣ 256 ^ (n + 1))] using this
    have hdiv : x / 256 % 256 ^ n = y / 256 % 256 ^ n := by
      have := congrArg (· / 256) h
      simpa only [pow_succ' 256 n, Nat.mod_mul_right_div_self] using this
    rw [toBytes_succ, toBytes_succ, ih hdiv]
    congr 1
    exact BitVec.eq_of_toNat_eq (by simpa using h8)

section
variable {n : Nat}

theorem toInt_extendBytes (hn : n = 4 ∨ n = 8) (v : Nat) : (extendBytes n v).toInt = Int.bmod v (2 ^ (8 * n)) := by
  rcases hn with rfl | rfl
  · exact (BitVec.toInt_signExtend_of_le (by decide)).trans (BitVec.toInt_ofNat ..)
  · exact BitVec.toInt_ofNat ..

/-- The low bits of a sign-extended word are the word's. -/
theorem toNat_extendBytes_mod (hn : n = 4 ∨ n = 8) (v : Nat) : (extendBytes n v).toNat % 2 ^ (8 * n) = v % 2 ^ (8 * n) := by
  have h : ((extendBytes n v).toNat : Int) % (2 ^ (8 * n) : Nat) = (v : Int) % (2 ^ (8 * n) : Nat) := by
    have hb : ((extendBytes n v).toInt : Int) % (2 ^ (8 * n) : Nat) = (v : Int) % (2 ^ (8 * n) : Nat) := by
      rw [toInt_extendBytes hn]; exact Int.bmod_emod ..
    rw [← hb, BitVec.toInt_eq_toNat_bmod]
    have hdvd : ((2 ^ (8 * n) : Nat) : Int) ∣ (2 ^ 64 : Nat) := by rcases hn with rfl | rfl <;> decide
    rw [← Int.emod_emod_of_dvd _ hdvd, ← Int.emod_emod_of_dvd (Int.bmod _ _) hdvd, Int.bmod_emod]
  exact_mod_cast h

theorem extendBytes_inj (hn : n = 4 ∨ n = 8) {v e : Nat} (hv : v < 2 ^ (8 * n)) : extendBytes n v = extendBytes n e ↔ v = e % 2 ^ (8 * n) := by
  constructor
  · intro h
    have := congrArg (fun x : DWord => x.toNat % 2 ^ (8 * n)) h
    simpa only [toNat_extendBytes_mod hn, Nat.mod_eq_of_lt hv] using this
  · intro h
    refine BitVec.eq_of_toInt_eq ?_
    rw [toInt_extendBytes hn, toInt_extendBytes hn, h]
    push_cast
    exact (Int.emod_bmod ..)

theorem extendBytes_mod (hn : n = 4 ∨ n = 8) (v : Nat) : extendBytes n (v % 2 ^ (8 * n)) = extendBytes n v :=
  (extendBytes_inj hn (Nat.mod_lt _ (Nat.two_pow_pos _))).mpr rfl

end

/-- What an AMO leaves of an old word, its operand and the word that AMOCAS expects, on numbers of w bits (R108). -/
def amoValue (w : Nat) (op : AmoOp) (old b e : Nat) : Nat :=
  match op with
  | .add => (old + b) % 2 ^ w
  | .swap => b
  | .cas => if old = e then b else old
  | .min => if Int.bmod old (2 ^ w) < Int.bmod b (2 ^ w) then old else b
  | .max => if Int.bmod old (2 ^ w) < Int.bmod b (2 ^ w) then b else old
  | .minu => min old b
  | .maxu => max old b
  | .and => old &&& b
  | .or => old ||| b
  | .xor => old ^^^ b

section
variable {dw : Bool} {old b : Nat}

theorem amoWidth_cases (dw : Bool) : amoWidth dw = 4 ∨ amoWidth dw = 8 := by cases dw <;> decide

theorem amoUlt_extendBytes (hold : old < 2 ^ (8 * amoWidth dw)) (hb : b < 2 ^ (8 * amoWidth dw)) :
    amoUlt dw (extendBytes (amoWidth dw) old) (extendBytes (amoWidth dw) b) = decide (old < b) := by
  have hlow := toNat_extendBytes_mod (amoWidth_cases dw)
  cases dw with
  | true =>
    have h64 : ∀ v, v < 2 ^ 64 → (extendBytes 8 v).toNat = v := fun v hv => Nat.mod_eq_of_lt hv
    exact decide_eq_decide.mpr ((congrArg₂ (· < ·) (h64 _ hold) (h64 _ hb)).to_iff)
  | false =>
    have h32 : ∀ v, v < 2 ^ 32 → ((extendBytes 4 v).setWidth 32).toNat = v := fun v hv => by
      rw [BitVec.toNat_setWidth]; exact (hlow v).trans (Nat.mod_eq_of_lt hv)
    exact decide_eq_decide.mpr ((congrArg₂ (· < ·) (h32 _ hold) (h32 _ hb)).to_iff)

theorem slt_extendBytes (dw : Bool) (old b : Nat) : (extendBytes (amoWidth dw) old).slt (extendBytes (amoWidth dw) b) =
    decide (Int.bmod old (2 ^ (8 * amoWidth dw)) < Int.bmod b (2 ^ (8 * amoWidth dw))) := by
  rw [BitVec.slt, toInt_extendBytes (amoWidth_cases dw), toInt_extendBytes (amoWidth_cases dw)]

/-- The word that an AMO leaves, as its bytes take it (R108). -/
theorem amo_apply (op : AmoOp) (hold : old < 2 ^ (8 * amoWidth dw)) (hb : b < 2 ^ (8 * amoWidth dw)) (e : Nat) :
    (op.apply dw (extendBytes (amoWidth dw) old) (extendBytes (amoWidth dw) b) (extendBytes (amoWidth dw) e)).toNat % 2 ^ (8 * amoWidth dw) =
      amoValue (8 * amoWidth dw) op old b (e % 2 ^ (8 * amoWidth dw)) % 2 ^ (8 * amoWidth dw) := by
  have hlow := toNat_extendBytes_mod (amoWidth_cases dw)
  have hdvd : 2 ^ (8 * amoWidth dw) ∣ 2 ^ 64 := Nat.pow_dvd_pow 2 (by cases dw <;> decide)
  cases op with
  | add =>
    change ((extendBytes (amoWidth dw) old + extendBytes (amoWidth dw) b).toNat) % _ = _
    rw [BitVec.toNat_add, Nat.mod_mod_of_dvd _ hdvd, Nat.add_mod, hlow, hlow, ← Nat.add_mod]
    exact (Nat.mod_mod _ _).symm
  | swap => exact hlow b
  | cas =>
    simp only [AmoOp.apply, amoValue, extendBytes_inj (amoWidth_cases dw) hold]
    split
    · exact hlow b
    · exact hlow old
  | min =>
    simp only [AmoOp.apply, amoValue, slt_extendBytes, decide_eq_true_eq]
    split
    · exact hlow old
    · exact hlow b
  | max =>
    simp only [AmoOp.apply, amoValue, slt_extendBytes, decide_eq_true_eq]
    split
    · exact hlow b
    · exact hlow old
  | minu =>
    simp only [AmoOp.apply, amoValue, amoUlt_extendBytes hold hb, decide_eq_true_eq]
    split
    · rw [hlow, min_eq_left (by omega)]
    · rw [hlow, min_eq_right (by omega)]
  | maxu =>
    simp only [AmoOp.apply, amoValue, amoUlt_extendBytes hold hb, decide_eq_true_eq]
    split
    · rw [hlow, max_eq_right (by omega)]
    · rw [hlow, max_eq_left (by omega)]
  | and =>
    change (extendBytes (amoWidth dw) old &&& extendBytes (amoWidth dw) b).toNat % _ = _
    rw [BitVec.toNat_and, Nat.and_mod_two_pow, hlow, hlow, ← Nat.and_mod_two_pow]; rfl
  | or =>
    change (extendBytes (amoWidth dw) old ||| extendBytes (amoWidth dw) b).toNat % _ = _
    rw [BitVec.toNat_or, Nat.or_mod_two_pow, hlow, hlow, ← Nat.or_mod_two_pow]; rfl
  | xor =>
    change (extendBytes (amoWidth dw) old ^^^ extendBytes (amoWidth dw) b).toNat % _ = _
    rw [BitVec.toNat_xor, Nat.xor_mod_two_pow, hlow, hlow, ← Nat.xor_mod_two_pow]; rfl

end

/-! ### The step of an AMO (R108, R109) -/

section
variable {s u : State} {pa : Nat} {rs2 rs1 rd : Reg} {dw : Bool}

theorem mySegment_next {t : State} (z : State) (hsegs : t.segs = z.segs) (hpos : t.pos = z.pos) : t.mySegment = z.mySegment := by
  unfold State.mySegment; rw [hsegs, hpos]

/-- An AMO whose access passes its checks and is performed at once completes, its word with its new value and its old word in a register. -/
theorem amo_performs (op : AmoOp) (hs : s.mySegment = none) (h : Claim.passes s u .amo (s.t.readX rs1) (amoWidth dw) pa)
    (ho : Claim.atOnce u (amoWidth dw) pa) :
    let n := amoWidth dw
    let old := ofBytes ((List.range n).map fun i => Claim.byte s (pa + i))
    ∃ t, amo op rs2 rs1 dw rd s = .next t ∧ Claim.stored (Claim.counted u) t pa
        (toBytes n (amoValue (8 * n) op old ((s.t.readX rs2).toNat % 2 ^ (8 * n)) ((s.t.readX rd).toNat % 2 ^ (8 * n)))) ∧
      t.t.x = (u.setX rd (BitVec.ofInt 64 (Int.bmod old (2 ^ (8 * n))))).t.x := by
  intro n old
  obtain ⟨r, ht⟩ := h.2.1
  have hcache := translate_sameButCaches ht
  have hn : n = 4 ∨ n = 8 := amoWidth_cases dw
  have hpow : 256 ^ n = 2 ^ (8 * n) := by rw [show 256 = 2 ^ 8 from rfl, ← Nat.pow_mul]
  have hold : old < 2 ^ (8 * n) := by
    have := ofBytes_lt ((List.range n).map fun i => Claim.byte s (pa + i))
    rwa [List.length_map, List.length_range, hpow] at this
  have hmem : u.mem = s.mem := by rw [hcache]
  have hdw : (n == 8) = dw := by change (amoWidth dw == 8) = dw; cases dw <;> rfl
  obtain ⟨page, ha⟩ := accessScalar_performs
    (a := { kind := .amo op rd, bytes := n, va := s.t.readX rs1, pa := 0, val := s.t.readX rs2, expect := s.t.readX rd }) h ho rfl
  have hval : toBytes n (op.apply (n == 8) (extendBytes n (ofBytes (bytesAt (Claim.counted u).mem pa n))) (extendBytes n (s.t.readX rs2).toNat)
      (extendBytes n (s.t.readX rd).toNat)).toNat =
        toBytes n (amoValue (8 * n) op old ((s.t.readX rs2).toNat % 2 ^ (8 * n)) ((s.t.readX rd).toNat % 2 ^ (8 * n))) := by
    refine toBytes_congr ?_
    rw [hpow, hdw, ← extendBytes_mod hn (s.t.readX rs2).toNat, show ofBytes (bytesAt (Claim.counted u).mem pa n) = old by
      change ofBytes (bytesAt u.mem pa n) = _; rw [hmem]; rfl]
    exact amo_apply op hold (Nat.mod_lt _ (Nat.two_pow_pos _)) _
  have hw := stored_write (Claim.counted u) (s.t.readX rs1).toNat pa (toBytes n (s.t.readX rs2).toNat)
    (toBytes n (amoValue (8 * n) op old ((s.t.readX rs2).toNat % 2 ^ (8 * n)) ((s.t.readX rd).toNat % 2 ^ (8 * n)))) rd
    (BitVec.ofInt 64 (Int.bmod old (2 ^ (8 * n)))) (by rw [toBytes_length]; omega)
  have hstep : amoStep op rs2 rs1 dw rd s = .ok (((((Claim.counted u).digested (Claim.counted u).agent (s.t.readX rs1).toNat
      (toBytes n (s.t.readX rs2).toNat)).physWrite pa
        (toBytes n (amoValue (8 * n) op old ((s.t.readX rs2).toNat % 2 ^ (8 * n)) ((s.t.readX rd).toNat % 2 ^ (8 * n))))).orderThread.setX rd
          (BitVec.ofInt 64 (Int.bmod old (2 ^ (8 * n))))).advance) := by
    unfold amoStep
    rw [ha, ← hval, ← extendBytes_eq_ofInt (hn.elim (fun h => .inr (.inr (.inl h))) fun h => .inr (.inr (.inr h)))]
    dsimp only [State.performScalar, State.amoWrite]
    rw [show ofBytes (bytesAt (Claim.counted u).mem pa n) = old by change ofBytes (bytesAt u.mem pa n) = _; rw [hmem]; rfl]
  refine ⟨_, ?_, hw.1, hw.2.trans ((writeX_x (Claim.counted u).t rd _).trans (writeX_x u.t rd _).symm)⟩
  unfold amo
  rw [committing_ok hs hstep ((mySegment_next s ?_ ?_).trans hs)]
  · rfl
  · exact (congrArg State.segs hw.1.2.1).trans (by rw [hcache]; rfl)
  · exact (congrArg State.pos hw.1.2.1).trans (by rw [hcache]; rfl)

theorem amo_misaligned (op : AmoOp) (hs : s.mySegment = none) (h : (s.t.readX rs1).toNat % amoWidth dw ≠ 0) :
    amo op rs2 rs1 dw rd s = Claim.traps s cause.misaligned (s.t.readX rs1) := by
  have hstep : amoStep op rs2 rs1 dw rd s = .error (.trap cause.misaligned (s.t.readX rs1), s) := by
    unfold amoStep State.accessScalar
    rw [checkScalar_misaligned h]
    rfl
  unfold amo
  rw [committing_trap hs hstep hs]
  rfl

end

theorem atomicSteps : Claim.AtomicSteps := by
  intro rs2 rs1 rd dw s u pa n w ea old b so sb does
  refine ⟨fun h hs => ?_, fun hs h ho => ?_⟩
  · have hmis : ∀ op, amo op rs2 rs1 dw rd s = Claim.traps s cause.misaligned ea := fun op => amo_misaligned op hs h
    simp only [List.forall_mem_cons, List.not_mem_nil, false_imp_iff, implies_true, and_true]
    exact ⟨hmis .add, hmis .swap, hmis .cas, hmis .min, hmis .max, hmis .minu, hmis .maxu, hmis .and, hmis .or, hmis .xor⟩
  · have hdoes : ∀ op, ∃ t, amo op rs2 rs1 dw rd s = .next t ∧ Claim.stored (Claim.counted u) t pa
        (toBytes n (amoValue w op old b ((s.t.readX rd).toNat % 2 ^ w))) ∧ t.t.x = (u.setX rd (BitVec.ofInt 64 so)).t.x :=
      fun op => amo_performs op hs h ho
    exact ⟨hdoes .add, hdoes .swap, hdoes .cas, hdoes .min, hdoes .max, hdoes .minu, hdoes .maxu, hdoes .and, hdoes .or, hdoes .xor⟩

/-! ### Bytes written at one step, and the sound lines about them (R242, R365, R449) -/

/-- A line that is good stays good as bytes are written. -/
theorem lineOk_physWrite {s : State} {l : Nat} (h : s.lineOk l = true) (pa : Nat) (bs : List Byte) : (s.physWrite pa bs).lineOk l = true := by
  obtain ⟨hchk, hquar⟩ := Bool.and_eq_true_iff.mp h
  unfold State.physWrite
  dsimp only
  split
  · refine Bool.and_eq_true_iff.mpr ⟨?_, ?_⟩
    · change (sget (w := 32) (sset s.chk (pa / 128) 0) l == 0) = true
      rw [sget_sset]
      split
      · rfl
      · exact hchk
    · simp only [Bool.not_eq_true', List.contains_eq_mem, decide_eq_false_iff_not, List.mem_filter] at hquar ⊢
      exact fun hm => hquar hm.1
  · exact h

/-- Memory as bytes are written. -/
theorem byte_physWrite (s : State) (pa : Nat) (bs : List Byte) : Claim.byte (s.physWrite pa bs) = Claim.put (Claim.byte s) pa bs :=
  funext fun a => physWrite_byte s pa a bs

theorem checkAdd_sound {s : State} {ctx : Nat} {h : HeldAdd} (ho : s.ownsByte ctx h.pa = true) (hl : s.lineOk (h.pa / 128) = true) :
    s.checkAdd ctx h = (true, s) := by
  unfold State.checkAdd
  rw [ho, hl]
  rfl

/-! ### Held floating-point adds (R159, R437) -/

/-- The sum of a held add over the word that memory m holds at its place, with its flags (R159). -/
def heldSum (m : Nat → Byte) (h : HeldAdd) : Nat × Flags :=
  let f := if h.bf16 then bf16 else if h.bytes = 2 then f16 else if h.bytes = 4 then f32 else f64
  Claim.sum f h.frm h.flush (f.read h.flush (ofBytes ((List.range h.bytes).map fun i => m (h.pa + i)))) (f.read h.flush h.val.toNat)

theorem performHeld_sound {s : State} {ctx : Nat} {h : HeldAdd} (ho : s.ownsByte ctx h.pa = true) (hl : s.lineOk (h.pa / 128) = true) :
    s.performHeld ctx h = ((heldSum (Claim.byte s) h).2, s.physWrite h.pa (toBytes h.bytes (heldSum (Claim.byte s) h).1)) := by
  have hsum : addElem h.bytes h.bf16 h.frm h.flush (ofBytes (bytesAt s.mem h.pa h.bytes)) h.val.toNat = heldSum (Claim.byte s) h := sum_pair ..
  unfold State.performHeld
  rw [checkAdd_sound ho hl]
  dsimp only
  rw [if_pos rfl, hsum]

theorem pathBefore_self (p : List Nat) : pathBefore p p = false := by
  induction p with
  | nil => rfl
  | cons a r ih => rw [pathBefore, if_pos rfl, ih]

theorem pathBefore_append (p q r : List Nat) : pathBefore (p ++ q) (p ++ r) = pathBefore q r := by
  induction p with
  | nil => rfl
  | cons a p ih => rw [List.cons_append, List.cons_append, pathBefore, if_pos rfl, ih]

theorem nodePath_node {nodes : List TaskNode} (hn : (nodes.map fun n => n.id).Nodup) {x : TaskNode} (hx : x ∈ nodes) (n : Nat) :
    nodePath nodes (n + 1) x.id = nodePath nodes n x.parent ++ [x.c] := by
  have hfind : nodes.find? (fun y => y.id == x.id) = some x := by
    rw [List.find?_eq_some_iff_append]
    obtain ⟨l, r, rfl⟩ := List.append_of_mem hx
    refine ⟨beq_self_eq_true _, l, r, rfl, fun y hy => ?_⟩
    rw [List.map_append, List.map_cons, List.nodup_append] at hn
    have := hn.2.2 y.id (List.mem_map_of_mem hy) x.id (List.mem_cons_self ..)
    simpa using this
  rw [nodePath, hfind]

section
variable {nodes : List TaskNode} {a b : HeldAdd}

/-- Adds of one task stand in the order of their words, and those of one word in that of their elements. -/
theorem addBefore_of_node (h : a.node = b.node) (hs : a.seq < b.seq ∨ a.seq = b.seq ∧ a.idx < b.idx) :
    addBefore nodes a b = true ∧ addBefore nodes b a = false := by
  unfold addBefore
  simp only [h, pathBefore_self, Bool.false_or, beq_self_eq_true, Bool.true_and]
  rcases hs with hs | ⟨hs, hi⟩
  · simp [hs, hs.not_gt, hs.ne']
  · simp [hs, hi, hi.le]

/-- Adds of tasks with one parent stand in the order of their numbers. -/
theorem addBefore_of_sibling (hn : (nodes.map fun n => n.id).Nodup) {x y : TaskNode} (hx : x ∈ nodes) (hy : y ∈ nodes) (ha : a.node = x.id)
    (hb : b.node = y.id) (hp : x.parent = y.parent) (hc : x.c < y.c) : addBefore nodes a b = true ∧ addBefore nodes b a = false := by
  have hxy : pathBefore [x.c] [y.c] = true := by rw [pathBefore, if_neg hc.ne, decide_eq_true hc]
  have hyx : pathBefore [y.c] [x.c] = false := by rw [pathBefore, if_neg hc.ne', decide_eq_false hc.not_gt]
  unfold addBefore
  simp only [ha, hb, nodePath_node hn hx, nodePath_node hn hy, hp, pathBefore_append, hxy, hyx, Bool.true_or, Bool.false_or, true_and]
  simp [hc.ne']

theorem sorted_pair (h : addBefore nodes a b = true ∧ addBefore nodes b a = false) {l : List HeldAdd} (hl : l = [a, b] ∨ l = [b, a]) :
    l.foldr (insertAdd nodes) [] = [a, b] := by
  obtain ⟨hab, hba⟩ := h
  rcases hl with rfl | rfl
  · simp [insertAdd, hab]
  · simp [insertAdd, hba]

end

/-- The adds that the context of the focus holds for a launch leave it. -/
theorem settleAdds (w : State) (launch : Nat) {l : List HeldAdd} (h : (w.ctx.adds.filter fun h => h.launch != launch) = l) :
    w.setCtx w.t.ctx { w.ctxAt w.t.ctx with adds := (w.ctxAt w.t.ctx).adds.filter fun h => h.launch != launch } =
      { w with ctx := { w.ctx with adds := l } } := by
  subst h
  simp [State.setCtx, State.ctxAt]

theorem heldFloatAdds : Claim.HeldFloatAdds := by
  intro s launch a b hadds hla hlb hbefore hsound old sum once first r
  have horder : addBefore s.ctx.nodes a b = true ∧ addBefore s.ctx.nodes b a = false := by
    rcases hbefore with ⟨hn, hs⟩ | ⟨hn, x, hx, y, hy, ha, hb, hp, hc⟩
    · exact addBefore_of_node hn hs
    · exact addBefore_of_sibling hn hx hy ha hb hp hc
  have hfilter : (s.ctx.adds.filter fun h => h.launch == launch) = s.ctx.adds := by
    rcases hadds with h | h <;> simp [h, hla, hlb]
  have hnone : (s.ctx.adds.filter fun h => h.launch != launch) = [] := by
    rcases hadds with h | h <;> simp [h, hla, hlb]
  have hl : (s.ctx.adds.filter fun h => h.launch == launch).foldr (insertAdd s.ctx.nodes) [] = [a, b] := by
    rw [hfilter]; exact sorted_pair horder hadds
  obtain ⟨hoa, hla'⟩ := hsound a (List.mem_cons_self ..)
  obtain ⟨hob, hlb'⟩ := hsound b (List.mem_cons_of_mem _ (List.mem_cons_self ..))
  have hr : r = ((heldSum (Claim.byte s) a).2 ||| (heldSum first b).2,
      let w := (s.physWrite a.pa (toBytes a.bytes (heldSum (Claim.byte s) a).1)).physWrite b.pa (toBytes b.bytes (heldSum first b).1)
      { w with ctx := { s.ctx with adds := [] } }) := by
    have hfirst : Claim.byte (s.physWrite a.pa (toBytes a.bytes (heldSum (Claim.byte s) a).1)) = first := byte_physWrite ..
    have hself : s.ctxAt s.t.ctx = s.ctx := if_pos rfl
    change s.performAdds s.t.ctx launch = _
    unfold State.performAdds
    simp only [hself, hl, List.foldl_cons, List.foldl_nil, performHeld_sound hoa hla']
    rw [performHeld_sound (s := s.physWrite a.pa _) (h := b) hob (lineOk_physWrite hlb' _ _), hfirst]
    exact Prod.ext (congrArg (· ||| (heldSum first b).2) BitVec.zero_or) (settleAdds
      ((s.physWrite a.pa (toBytes a.bytes (heldSum (Claim.byte s) a).1)).physWrite b.pa (toBytes b.bytes (heldSum first b).1)) launch hnone)
  rw [hr]
  refine ⟨fun x => ?_, rfl, rfl⟩
  have hsecond : Claim.byte ((s.physWrite a.pa (toBytes a.bytes (heldSum (Claim.byte s) a).1)).physWrite b.pa (toBytes b.bytes (heldSum first b).1)) =
      once first b :=
    (byte_physWrite ..).trans (congrArg (fun m => Claim.put m b.pa (toBytes b.bytes (heldSum first b).1)) (byte_physWrite ..))
  exact congrFun hsecond x

/-! ### Keys and digests on numbers (R124, R428, R432, R436) -/

theorem mix_eq (a k : Word) : mix a k = Claim.mix a k := rfl

theorem lowWord_eq (x : DWord) : (x.setWidth 32 : Word) = BitVec.ofNat 32 x.toNat := BitVec.eq_of_toNat_eq (by simp)

theorem highWord_eq (x : DWord) : ((x >>> 32).setWidth 32 : Word) = BitVec.ofNat 32 (x.toNat / 2 ^ 32) :=
  BitVec.eq_of_toNat_eq (by simp [Nat.shiftRight_eq_div_pow])

theorem words_eq (hi lo : Word) : ((hi ++ lo).setWidth 64 : DWord) = BitVec.ofNat 64 (hi.toNat * 2 ^ 32 + lo.toNat) := by
  refine BitVec.eq_of_toNat_eq ?_
  rw [BitVec.toNat_setWidth, BitVec.toNat_append, Nat.shiftLeft_eq_mul_pow, BitVec.toNat_ofNat, ← Nat.shiftLeft_eq_mul_pow,
    ← Nat.shiftLeft_add_eq_or_of_lt lo.isLt, Nat.shiftLeft_eq_mul_pow]

theorem taskKey_eq (p : DWord) (c : Nat) : taskKey p (BitVec.ofNat 32 c) = Claim.key p c := by
  unfold taskKey Claim.key
  simp only [words_eq, highWord_eq, mix_eq]
  simp only [lowWord_eq]

theorem foldTree_eq (acc x : DWord) : foldTree acc x = Claim.folded acc x := by
  unfold foldTree Claim.folded
  simp only [words_eq, highWord_eq, mix_eq]
  simp only [lowWord_eq]

theorem foldDigest_eq (d a : DWord) (b : Byte) : foldDigest d a b = Claim.digest d a b := by
  have hb : (b.setWidth 32 : Word) = BitVec.ofNat 32 b.toNat := BitVec.eq_of_toNat_eq (by simp)
  have hb' : (BitVec.ofNat 32 b.toNat + 256 : Word) = BitVec.ofNat 32 (b.toNat + 256) := (BitVec.ofNat_add ..).symm
  unfold foldDigest Claim.digest
  simp only [words_eq, highWord_eq, mix_eq, hb]
  simp only [lowWord_eq, hb']

/-- The digest of bytes is that of each byte in turn at its address. -/
theorem foldDigests_eq (d a : DWord) (bs : List Byte) :
    foldDigests d a bs = bs.zipIdx.foldl (fun d b => Claim.digest d (a + BitVec.ofNat 64 b.2) b.1) d := by
  suffices h : ∀ (k : Nat) (d : DWord), foldDigests d (a + BitVec.ofNat 64 k) bs =
      (bs.zipIdx k).foldl (fun d b => Claim.digest d (a + BitVec.ofNat 64 b.2) b.1) d by
    simpa using h 0 d
  induction bs with
  | nil => intro k d; rfl
  | cons b bs ih =>
    intro k d
    rw [foldDigests, List.zipIdx_cons, List.foldl_cons, ← ih, foldDigest_eq, BitVec.ofNat_add, BitVec.add_assoc]
    rfl

/-! ### The log of digests (R434) -/

/-- The first entry that a key probes. -/
def logEntry (diglog digctl key : DWord) : Nat :=
  diglog.toNat / 16 % 2 ^ 44 * 16 + 16 * (key.toNat / 2 % 2 ^ (digctl.toNat / 2 ^ 8 % 16 + 8))

theorem probeAddress_zero (diglog digctl key : DWord) : probeAddress diglog digctl key 0 = logEntry diglog digctl key := by
  unfold probeAddress logEntry
  dsimp only
  rw [Nat.add_zero, Nat.mod_mod]
  rfl

theorem logEntry_aligned (diglog digctl key : DWord) : logEntry diglog digctl key % 16 = 0 := by
  unfold logEntry; omega

theorem lineParts_entry (diglog digctl key : DWord) : lineParts (logEntry diglog digctl key) 16 = [(logEntry diglog digctl key, 16)] := by
  have h := logEntry_aligned diglog digctl key
  generalize logEntry diglog digctl key = a at *
  have h1 : (a % 128 + 16 + 127) / 128 = 1 := by omega
  simp only [lineParts, if_neg (show (16 : Nat) ≠ 0 by decide), h1, List.range_one, List.map_cons, List.map_nil]
  congr 2
  · omega
  · omega

theorem field_mode (digctl : DWord) : field digctl 0 2 = digctl.toNat % 4 := by
  rw [field, bits, pow_zero, Nat.div_one]
  rfl

section
variable {s u : State} {diglog digctl key : DWord} {bs : List Byte}

theorem checkDigest_off (h : digctl.toNat % 4 = 0) (d : DWord) : s.checkDigest diglog digctl key d = (true, s) := by
  unfold State.checkDigest
  rw [field_mode, h]
  rfl

theorem read_length {a n : Nat} {ag : Agent} {acc : Access} {k : Nat} (h : s.read ag acc k a n = .ok (bs, u)) : bs.length = n :=
  (readParts_ok h).2.2.trans (lineParts_sum a n)

/-- The first probe of a key finds it. -/
theorem probe_match (h : s.order.read s.logAgent .load 1 (logEntry diglog digctl key) 16 = .ok (bs, u))
    (hk : ofBytes (bs.take 8) = key.toNat) (record : Bool) : s.probe diglog digctl key record 8 0 =
      (.match_ (logEntry diglog digctl key) (BitVec.ofNat 64 (ofBytes (bs.drop 8))), u) := by
  unfold State.probe
  dsimp only
  rw [probeAddress_zero, h]
  dsimp only
  rw [hk, BitVec.ofNat_toNat, BitVec.setWidth_eq, if_pos rfl]

theorem ofBytes_toNat_drop (hl : bs.length = 16) : (BitVec.ofNat 64 (ofBytes (bs.drop 8))).toNat = ofBytes (bs.drop 8) := by
  have h := ofBytes_lt (bs.drop 8)
  rw [List.length_drop, hl] at h
  rw [BitVec.toNat_ofNat]
  exact Nat.mod_eq_of_lt h

/-- With MODE 2 an entry that holds the key passes with its digest (R434). -/
theorem checkDigest_compare (hm : digctl.toNat % 4 = 2) (h : s.order.read s.logAgent .load 1 (logEntry diglog digctl key) 16 = .ok (bs, u))
    (hk : ofBytes (bs.take 8) = key.toNat) (d : DWord) : s.checkDigest diglog digctl key d = (decide (ofBytes (bs.drop 8) = d.toNat), u) := by
  have hd : (BitVec.ofNat 64 (ofBytes (bs.drop 8)) == d) = decide (ofBytes (bs.drop 8) = d.toNat) := by
    rw [Bool.beq_eq_decide_eq, decide_eq_decide, ← BitVec.toNat_inj, ofBytes_toNat_drop (read_length h)]
  unfold State.checkDigest
  rw [field_mode, hm]
  simp only [probe_match h hk, hd]

end

/-! ### The digest of a launch (R436) -/

/-- A node put into a list in the order of numbers. -/
def insertNode (a : TaskNode) (l : List TaskNode) : List TaskNode :=
  (l.takeWhile fun b => decide (b.c < a.c)) ++ a :: l.dropWhile fun b => decide (b.c < a.c)

theorem insertNode_cons (a b : TaskNode) (l : List TaskNode) : insertNode a (b :: l) = if b.c < a.c then b :: insertNode a l else a :: b :: l := by
  unfold insertNode
  by_cases h : b.c < a.c <;> simp [h]

theorem insertNode_perm (a : TaskNode) (l : List TaskNode) : (insertNode a l).Perm (a :: l) := by
  unfold insertNode
  refine List.perm_middle.trans ?_
  rw [List.takeWhile_append_dropWhile]

theorem insertNode_sorted {a : TaskNode} {l : List TaskNode} (hl : l.Pairwise fun x y => x.c < y.c) (ha : ∀ b ∈ l, b.c ≠ a.c) :
    (insertNode a l).Pairwise fun x y => x.c < y.c := by
  induction l with
  | nil => exact List.pairwise_singleton ..
  | cons b l ih =>
    obtain ⟨hb, hl'⟩ := List.pairwise_cons.mp hl
    rw [insertNode_cons]
    split
    next h =>
      refine List.pairwise_cons.mpr ⟨fun x hx => ?_, ih hl' fun x hx => ha x (List.mem_cons_of_mem _ hx)⟩
      rcases List.mem_cons.mp ((insertNode_perm a l).mem_iff.mp hx) with rfl | hx
      · exact h
      · exact hb x hx
    next h =>
      have hab : a.c < b.c := by have := ha b (List.mem_cons_self ..); omega
      refine List.pairwise_cons.mpr ⟨fun x hx => ?_, hl⟩
      rcases List.mem_cons.mp hx with rfl | hx
      · exact hab
      · exact hab.trans (hb x hx)

theorem sortNodes {m : List TaskNode} (hm : (m.map fun n => n.c).Nodup) :
    (m.foldr insertNode []).Perm m ∧ (m.foldr insertNode []).Pairwise fun x y => x.c < y.c := by
  induction m with
  | nil => exact ⟨.refl _, .nil⟩
  | cons a m ih =>
    obtain ⟨ha, hm'⟩ := List.nodup_cons.mp hm
    obtain ⟨hp, hs⟩ := ih hm'
    refine ⟨(insertNode_perm _ _).trans (hp.cons a), insertNode_sorted hs fun b hb he => ha ?_⟩
    exact List.mem_map.mpr ⟨b, hp.mem_iff.mp hb, he⟩

/-- The children of a node are those of its number as parent, in rising number. -/
theorem childNodes_eq {nodes l : List TaskNode} {id : Nat} (hp : l.Perm (nodes.filter fun m => m.parent == id))
    (hl : (l.map fun m => m.c).Pairwise (· < ·)) : childNodes nodes id = l := by
  have hnodup : ((nodes.filter fun m => m.parent == id).map fun n => n.c).Nodup :=
    (hp.map _).nodup_iff.mp (hl.imp fun h => h.ne)
  obtain ⟨hperm, hsorted⟩ := sortNodes hnodup
  exact (hperm.trans hp.symm).eq_of_pairwise (fun a b _ _ h1 h2 => absurd h1 h2.not_gt) hsorted (List.pairwise_map.mp hl)

theorem treeDigest_eq {nodes l : List TaskNode} {n : TaskNode} (hp : l.Perm (nodes.filter fun m => m.parent == n.id))
    (hl : (l.map fun m => m.c).Pairwise (· < ·)) (k : Nat) :
    treeDigest nodes (k + 1) n = l.foldl (fun acc m => Claim.folded acc (treeDigest nodes k m)) n.digest := by
  rw [treeDigest, childNodes_eq hp hl]
  simp only [foldTree_eq]

/-! ### The end of a launch (R413, R436) -/

theorem queuedRays_none {s : State} (h : ∀ q ∈ s.ops, q.kind ≠ .rcast) (launch : Nat) : s.queuedRays launch = s := by
  have hnil : (s.ops.filter fun o => o.kind == .rcast && o.phase == .queued && o.launch == launch && decide ((o.word 1).toNat ≤ 65536)) = [] := by
    rw [List.filter_eq_nil_iff]
    intro q hq
    simp [h q hq]
  unfold State.queuedRays
  rw [hnil]
  rfl

theorem performAdds_none {s : State} {launch : Nat} (h : ∀ a ∈ s.ctx.adds, a.launch ≠ launch) : s.performAdds s.t.ctx launch = (0, s) := by
  have hself : s.ctxAt s.t.ctx = s.ctx := if_pos rfl
  have hnil : (s.ctx.adds.filter fun a => a.launch == launch) = [] := by
    rw [List.filter_eq_nil_iff]; intro a ha; simpa using h a ha
  have hall : (s.ctx.adds.filter fun a => a.launch != launch) = s.ctx.adds := by
    rw [List.filter_eq_self]; intro a ha; simpa using h a ha
  unfold State.performAdds
  dsimp only
  rw [hself, hnil]
  exact Prod.ext rfl (settleAdds s launch hall)

/-- What the issuer of an operation takes leaves all but threads, contexts and checkpoints. -/
theorem onIssuer_frame (s : State) (ctx pos : Nat) (f : Thread → Thread) : ∃ t threads cx cxs segs,
    s.onIssuer ctx pos f = { s with t := t, threads := threads, ctx := cx, ctxs := cxs, segs := segs } := by
  unfold State.onIssuer
  dsimp only
  split
  · obtain ⟨cx, cxs, h⟩ := setCtx_frame s ctx { s.ctxAt ctx with images := (s.ctxAt ctx).images.map fun e => if e.1 = pos then (e.1, f e.2) else e }
    rw [h]
    exact ⟨_, _, _, _, _, rfl⟩
  · split
    · unfold State.setThread
      split
      · exact ⟨_, _, _, _, _, rfl⟩
      · exact ⟨_, _, _, _, _, rfl⟩
    · exact ⟨_, _, _, _, _, rfl⟩

theorem launchDigests : Claim.LaunchDigests := by
  intro k nodes l n s o
  refine ⟨fun hp hl => treeDigest_eq hp hl k, ?_⟩
  intro hctx hdet hrays hadds key d entry mode done
  have hself : s.ctxAt o.ctx = s.ctx := if_pos hctx
  have hkey : launchKey o.key = key := congrArg (· ||| 1) (taskKey_eq o.key 0xFFFFFFFF)
  have hheld : s.order.performAdds o.ctx o.id = (0, s.order) := hctx ▸ performAdds_none (s := s.order) hadds
  obtain ⟨t, threads, cx, cxs, segs, hw⟩ := onIssuer_frame s.order o.ctx o.issuer fun t => { t with fflags := t.fflags ||| 0 }
  have hdeliver : s.order.deliver o.ctx o.issuer 0 = { s.order with t := t, threads := threads, ctx := cx, ctxs := cxs, segs := segs } := hw
  have hend : ∀ (b : Bool) (u : State), (s.order.deliver o.ctx o.issuer 0).checkDigest s.ctx.diglog s.ctx.digctl key d = (b, u) → s.endLaunch o =
      if b then done u
      else ({ u with pipes := u.pipes.filter fun p => p.launch != o.id } : State).endContext o.ctx cause.digest 0 key (stampWord u.stamp) := by
    intro b u hb
    unfold State.endLaunch
    simp only [queuedRays_none hrays, hself, hheld, hdet, if_true, hkey]
    rw [show treeDigest s.ctx.nodes (s.ctx.nodes.length + 1) { id := o.node, parent := 0, c := 0, key := o.key, digest := 0 } = d from rfl, hb]
  refine ⟨s.order.deliver o.ctx o.issuer 0, by rw [hdeliver]; rfl, by rw [hdeliver]; rfl, by
    rw [hdeliver]
    change s.stamp < s.stamp + 1 + Config.stampGap s.tick
    omega,
    by rw [hdeliver]; rfl, by rw [hdeliver]; rfl, fun hm => ?_, fun bs u hm hread hk => ⟨fun hd => ?_, fun hd => ?_⟩⟩
  · rw [hend true _ (checkDigest_off hm d)]; rfl
  · rw [hend true u (by rw [checkDigest_compare hm hread hk, decide_eq_true hd])]; rfl
  · rw [hend false u (by rw [checkDigest_compare hm hread hk, decide_eq_false hd])]
    exact endContext_ended ({ u with pipes := u.pipes.filter fun p => p.launch != o.id } : State) o.ctx cause.digest 0 key (stampWord u.stamp)

/-! ### What a publish leaves (R242, R245, R430) -/

/-- From s to w bytes of memory have been written: the parked may be marked, lines that were good are good, and nothing else is changed. -/
structure Written (s w : State) : Prop where
  frame : w = { s with mem := w.mem, parks := w.parks, chk := w.chk, quar := w.quar }
  sound : ∀ l, s.lineOk l = true → w.lineOk l = true

theorem Written.refl (s : State) : Written s s := ⟨rfl, fun _ h => h⟩

theorem Written.trans {s u w : State} (h : Written s u) (k : Written u w) : Written s w :=
  ⟨k.frame.trans (by rw [h.frame]), fun l hl => k.sound l (h.sound l hl)⟩

theorem written_physWrite (s : State) (pa : Nat) (bs : List Byte) : Written s (s.physWrite pa bs) := ⟨rfl, fun _ h => lineOk_physWrite h pa bs⟩

/-- A line that has been written in full has a fresh check value and leaves quarantine (R451). -/
theorem Written.renewed {s w : State} (h : Written s w) (line : Nat) :
    Written s { w with chk := sset w.chk line 0, quar := w.quar.filter fun k => k != line } where
  frame := congrArg (fun z : State => { z with chk := sset w.chk line 0, quar := w.quar.filter fun k => k != line }) h.frame
  sound k hk := by
    obtain ⟨hchk, hquar⟩ := Bool.and_eq_true_iff.mp (h.sound k hk)
    refine Bool.and_eq_true_iff.mpr ⟨?_, ?_⟩
    · change (sget (w := 32) (sset w.chk line 0) k == 0) = true
      rw [sget_sset]
      split
      · rfl
      · exact hchk
    · simp only [Bool.not_eq_true', List.contains_eq_mem, decide_eq_false_iff_not, List.mem_filter] at hquar ⊢
      exact fun hm => hquar hm.1

theorem Written.owns {s w : State} (h : Written s w) (ctx a : Nat) : w.ownsByte ctx a = s.ownsByte ctx a := by rw [h.frame]; rfl

/-- Memory m with whole bytes over it. -/
def overlaid (l : List Put) (m : Nat → Byte) : Nat → Byte := fun a => ((l.find? fun p => p.pa == a).map fun p => p.byte).getD (m a)

theorem overlaid_overlaid (l : List Put) (m : Nat → Byte) (a : Nat) : overlaid l (overlaid l m) a = overlaid l m a := by
  unfold overlaid
  cases l.find? fun p => p.pa == a <;> rfl

/-- The bytes of a list of puts written in turn. -/
def State.putBytes (s : State) (l : List Put) : State := l.foldl (fun s p => s.physWrite p.pa [p.over (sget (w := 8) s.mem p.pa)]) s

theorem putBytes_whole {l : List Put} (hn : (l.map fun p => p.pa).Nodup) (hw : ∀ p ∈ l, p.mask = 0xFF) (s : State) :
    Written s (s.putBytes l) ∧ ∀ a, Claim.byte (s.putBytes l) a = overlaid l (Claim.byte s) a := by
  induction l generalizing s with
  | nil => exact ⟨.refl s, fun _ => rfl⟩
  | cons p l ih =>
    obtain ⟨hp, hn'⟩ := List.nodup_cons.mp hn
    have hover : ∀ x, p.over x = p.byte := fun x => by
      rw [Put.over, hw p (List.mem_cons_self ..)]
      rw [show (~~~0xFF : Byte) = 0 from rfl, show (0xFF : Byte) = BitVec.allOnes 8 from rfl, BitVec.and_allOnes]
      exact (congrArg (· ||| p.byte) BitVec.and_zero).trans BitVec.zero_or
    obtain ⟨hwr, hb⟩ := ih hn' (fun q hq => hw q (List.mem_cons_of_mem _ hq)) (s.physWrite p.pa [p.byte])
    have hput : s.putBytes (p :: l) = (s.physWrite p.pa [p.byte]).putBytes l := by
      change (s.physWrite p.pa [p.over _]).putBytes l = _
      rw [hover]
    rw [hput]
    refine ⟨(written_physWrite ..).trans hwr, fun a => ?_⟩
    rw [hb, byte_physWrite]
    unfold overlaid Claim.put
    by_cases ha : p.pa = a
    · have hnone : l.find? (fun q => q.pa == a) = none := by
        rw [List.find?_eq_none]
        intro q hq he
        exact hp (List.mem_map.mpr ⟨q, hq, (show q.pa = a by simpa using he).trans ha.symm⟩)
      subst ha
      simp [hnone]
    · rw [if_neg (show ¬ (p.pa ≤ a ∧ a < p.pa + [p.byte].length) by rw [List.length_singleton]; omega)]
      simp [ha]

section
variable {l : List Put} {s : State}

theorem publishLine_whole (hn : (l.map fun p => p.pa).Nodup) (hw : ∀ p ∈ l, p.mask = 0xFF) {line : Nat} (hl : s.lineOk line = true) (ctx : Nat) :
    Written s (s.publishLine ctx l line) ∧
      ∀ a, Claim.byte (s.publishLine ctx l line) a = if a / 128 = line then overlaid l (Claim.byte s) a else Claim.byte s a := by
  have hsub := (l.filter_sublist (p := fun p => p.pa / 128 == line))
  obtain ⟨hwr, hb⟩ := putBytes_whole (hn.sublist (hsub.map _)) (fun p hp => hw p (List.mem_of_mem_filter hp)) s
  have hpart : ∀ a, overlaid (l.filter fun p => p.pa / 128 == line) (Claim.byte s) a =
      if a / 128 = line then overlaid l (Claim.byte s) a else Claim.byte s a := fun a => by
    unfold overlaid
    rw [List.find?_filter]
    split
    next h =>
      congr 3
      funext p
      by_cases hp : p.pa = a
      · simp [hp, h]
      · simp [hp]
    next h =>
      have hnone : l.find? (fun p => decide (p.pa / 128 == line ∧ p.pa == a)) = none := by
        rw [List.find?_eq_none]
        intro p _ hp
        simp only [beq_iff_eq, decide_eq_true_eq] at hp
        exact h (hp.2 ▸ hp.1)
      rw [hnone]
      rfl
  have hput : ∀ a, Claim.byte (s.putBytes (l.filter fun p => p.pa / 128 == line)) a =
      if a / 128 = line then overlaid l (Claim.byte s) a else Claim.byte s a := fun a => (hb a).trans (hpart a)
  unfold State.publishLine
  dsimp only
  split
  · exact ⟨hwr.renewed line, hput⟩
  · exact ⟨hwr, hput⟩

theorem publishLines_whole (hn : (l.map fun p => p.pa).Nodup) (hw : ∀ p ∈ l, p.mask = 0xFF) (ctx : Nat) (lines : List Nat) :
    ∀ s : State, (∀ k ∈ lines, s.lineOk k = true) → Written s (lines.foldl (fun s k => s.publishLine ctx l k) s) ∧
      ∀ a, Claim.byte (lines.foldl (fun s k => s.publishLine ctx l k) s) a =
        if a / 128 ∈ lines then overlaid l (Claim.byte s) a else Claim.byte s a := by
  induction lines with
  | nil => exact fun s _ => ⟨.refl s, fun a => by simp⟩
  | cons k lines ih =>
    intro s hs
    obtain ⟨hwr, hb⟩ := publishLine_whole hn hw (hs k (List.mem_cons_self ..)) ctx
    obtain ⟨hwr', hb'⟩ := ih (s.publishLine ctx l k) fun j hj => hwr.sound j (hs j (List.mem_cons_of_mem _ hj))
    refine ⟨hwr.trans hwr', fun a => ?_⟩
    rw [List.foldl_cons, hb']
    by_cases hk : a / 128 = k
    · have hput : overlaid l (Claim.byte (s.publishLine ctx l k)) a = overlaid l (Claim.byte s) a := by
        rw [← overlaid_overlaid l (Claim.byte s)]
        unfold overlaid
        rw [hb a, if_pos hk]
        rfl
      rw [hput, hb a, if_pos hk, if_pos (show a / 128 ∈ k :: lines by rw [hk]; exact List.mem_cons_self ..), ite_self]
    · have hsame : Claim.byte (s.publishLine ctx l k) a = Claim.byte s a := (hb a).trans (if_neg hk)
      have hput : overlaid l (Claim.byte (s.publishLine ctx l k)) a = overlaid l (Claim.byte s) a := by
        unfold overlaid; rw [hsame]
      simp only [hput, hsame, List.mem_cons, hk, false_or]

theorem mem_distinct (l r : List Nat) (k : Nat) : k ∈ l.foldl (fun r k => if r.contains k then r else r ++ [k]) r ↔ k ∈ r ∨ k ∈ l := by
  induction l generalizing r with
  | nil => simp
  | cons x l ih =>
    rw [List.foldl_cons, ih]
    by_cases hx : r.contains x = true
    · rw [if_pos hx, List.mem_cons]
      have hx : x ∈ r := by simpa using hx
      constructor
      · rintro (h | h)
        · exact .inl h
        · exact .inr (.inr h)
      · rintro (h | rfl | h)
        · exact .inl h
        · exact .inl hx
        · exact .inr h
    · rw [if_neg hx, List.mem_append, List.mem_singleton, List.mem_cons, or_assoc]

/-- Whole bytes at distinct addresses of sound lines are memory once they are published (R245, R430). -/
theorem publishPuts_whole (hn : (l.map fun p => p.pa).Nodup) (hw : ∀ p ∈ l, p.mask = 0xFF) {ctx : Nat}
    (hs : ∀ p ∈ l, s.ownsByte ctx p.pa = true ∧ s.lineOk (p.pa / 128) = true) :
    Written s (s.publishPuts ctx l) ∧ ∀ a, Claim.byte (s.publishPuts ctx l) a = overlaid l (Claim.byte s) a := by
  have hown : s.ownPuts ctx l = l := List.filter_eq_self.mpr fun p hp => (hs p hp).1
  obtain ⟨hwr, hb⟩ := publishLines_whole hn hw ctx ((l.map fun p => p.pa / 128).foldl (fun r k => if r.contains k then r else r ++ [k]) []) s
    fun k hk => by
      rw [mem_distinct] at hk
      obtain ⟨p, hp, rfl⟩ := List.mem_map.mp (hk.resolve_left (by simp))
      exact (hs p hp).2
  unfold State.publishPuts
  rw [hown]
  refine ⟨hwr, fun a => (hb a).trans ?_⟩
  split
  next => rfl
  next h =>
    have hnone : l.find? (fun p => p.pa == a) = none := by
      rw [List.find?_eq_none]
      intro p hp he
      refine h ((mem_distinct ..).mpr (.inr (List.mem_map.mpr ⟨p, hp, ?_⟩)))
      rw [show p.pa = a by simpa using he]
    unfold overlaid
    rw [hnone]
    rfl

end

/-! ### The publish of a segment, and its held integer adds (R430) -/

section
variable {s : State} {g : Segment}

theorem publish_sound (h : Claim.sound s g) :
    Written s (s.publish s.t.ctx g) ∧ ∀ a, Claim.byte (s.publish s.t.ctx g) a = Claim.shadowed g (Claim.byte s) a := by
  obtain ⟨hsorted, hlines, -⟩ := h
  obtain ⟨hwr, hb⟩ := publishPuts_whole (s := s) (ctx := s.t.ctx) (l := g.shadow.map fun e =>
      { va := kget 0 g.lines (e.1 / 128) + BitVec.ofNat 64 (e.1 % 128), pa := e.1, byte := e.2, mask := 0xFF })
    (by rw [List.map_map]; exact hsorted.imp fun h => h.ne)
    (fun p hp => by obtain ⟨e, -, rfl⟩ := List.mem_map.mp hp; rfl)
    (fun p hp => by obtain ⟨e, he, rfl⟩ := List.mem_map.mp hp; exact hlines e he)
  refine ⟨hwr, fun a => (hb a).trans ?_⟩
  unfold overlaid Claim.shadowed
  rw [List.find?_map, Option.map_map]
  rfl

theorem applyAdd_sound {h : HeldAdd} (ho : s.ownsByte s.t.ctx h.pa = true) (hl : s.lineOk (h.pa / 128) = true) :
    s.applyAdd h = s.physWrite h.pa (toBytes h.bytes (ofBytes ((List.range h.bytes).map fun i => Claim.byte s (h.pa + i)) + h.val.toNat)) := by
  unfold State.applyAdd
  rw [checkAdd_sound ho hl]
  rfl

theorem applyAdds_sound (adds : List HeldAdd) : ∀ s : State, (∀ h ∈ adds, s.ownsByte s.t.ctx h.pa = true ∧ s.lineOk (h.pa / 128) = true) →
    Written s (adds.foldl State.applyAdd s) ∧ Claim.byte (adds.foldl State.applyAdd s) = adds.foldl (fun m h =>
      Claim.put m h.pa (toBytes h.bytes (ofBytes ((List.range h.bytes).map fun i => m (h.pa + i)) + h.val.toNat))) (Claim.byte s) := by
  induction adds with
  | nil => exact fun s _ => ⟨.refl s, rfl⟩
  | cons h adds ih =>
    intro s hs
    obtain ⟨ho, hl⟩ := hs h (List.mem_cons_self ..)
    have hwr := written_physWrite s h.pa (toBytes h.bytes (ofBytes ((List.range h.bytes).map fun i => Claim.byte s (h.pa + i)) + h.val.toNat))
    obtain ⟨hwr', hb⟩ := ih _ fun k hk => (hs k (List.mem_cons_of_mem _ hk)).imp (fun ho => (hwr.owns _ _).trans ho) (hwr.sound _)
    rw [List.foldl_cons, List.foldl_cons, applyAdd_sound ho hl]
    exact ⟨hwr.trans hwr', hb.trans (by rw [byte_physWrite])⟩

/-- The step at which a segment's shadow and integer adds become memory (R430). -/
def State.landed (s : State) (g : Segment) : State := g.adds.foldl State.applyAdd (s.order.publish s.t.ctx g)

theorem landed_sound (h : Claim.sound s g) : Written s.order (s.landed g) ∧ Claim.byte (s.landed g) = Claim.committed g (Claim.byte s) := by
  obtain ⟨hwr, hb⟩ := publish_sound (s := s.order) (g := g) h
  obtain ⟨hwr', hb'⟩ := applyAdds_sound g.adds (s.order.publish s.t.ctx g) fun k hk => by
    have hk := h.2.2 k hk
    rw [show (s.order.publish s.t.ctx g).t = s.t from (congrArg State.t hwr.frame).trans rfl]
    exact ⟨(hwr.owns _ _).trans hk.1, hwr.sound _ hk.2⟩
  refine ⟨hwr.trans hwr', hb'.trans ?_⟩
  rw [show Claim.byte (s.order.publish s.t.ctx g) = Claim.shadowed g (Claim.byte s) from funext hb]
  rfl

end

/-! ### The shadow of an open segment (R430, R432) -/

/-- A record put at a number is what is found there, and no other is changed. -/
theorem find?_kset {α : Type} (k a : Nat) (v : α) (l : List (Nat × α)) :
    (kset k v l).find? (fun e => e.1 == a) = if a = k then some (k, v) else l.find? fun e => e.1 == a := by
  have hcons : ∀ (e : Nat × α) (l : List (Nat × α)), (e :: l).find? (fun e => e.1 == a) = if a = e.1 then some e else l.find? fun e => e.1 == a :=
    fun e l => by
      by_cases h : a = e.1
      · simp [h]
      · simp [h, Ne.symm h]
  induction l with
  | nil => exact hcons (k, v) []
  | cons e l ih =>
    obtain ⟨j, u⟩ := e
    rw [kset, hcons]
    split
    next hjk =>
      rw [hcons, ih]
      by_cases hja : a = j
      · rw [if_pos hja, if_neg (by omega), if_pos hja]
      · rw [if_neg hja, if_neg hja]
    next hjk =>
      split
      next hj => rw [hcons, hj]; split <;> rfl
      next hj => rw [hcons, hcons]

theorem mem_keys_kset {α : Type} (k a : Nat) (v : α) (l : List (Nat × α)) :
    (a ∈ (kset k v l).map fun e => e.1) ↔ a = k ∨ a ∈ l.map fun e => e.1 := by
  have hkey : ∀ l : List (Nat × α), (a ∈ l.map fun e => e.1) ↔ (l.find? fun e => e.1 == a).isSome = true := fun l => by
    simp [List.find?_isSome]
  rw [hkey, hkey, find?_kset]
  split
  next h => simp [h]
  next h => simp [h]

theorem find?_shadowPuts (bs : List Byte) (x : Nat) : ∀ (l : List (Nat × Byte)) (a : Nat), (shadowPuts l a bs).find? (fun e => e.1 == x) =
    if a ≤ x ∧ x < a + bs.length then some (x, bs.getD (x - a) 0) else l.find? fun e => e.1 == x := by
  induction bs with
  | nil => intro l a; rw [shadowPuts, if_neg (by simp)]
  | cons b bs ih =>
    intro l a
    rw [shadowPuts, ih, shadowPut, find?_kset, List.length_cons]
    by_cases hx : x = a
    · subst hx
      rw [if_neg (by omega), if_pos rfl, if_pos (by omega), Nat.sub_self]
      rfl
    · by_cases hin : a + 1 ≤ x ∧ x < a + 1 + bs.length
      · rw [if_pos hin, if_pos (by omega), show x - a = x - (a + 1) + 1 by omega]
        rfl
      · rw [if_neg hin, if_neg hx, if_neg (by omega)]

theorem mem_keys_shadowPuts (bs : List Byte) (x : Nat) : ∀ (l : List (Nat × Byte)) (a : Nat), (x ∈ (shadowPuts l a bs).map fun e => e.1) ↔
    a ≤ x ∧ x < a + bs.length ∨ x ∈ l.map fun e => e.1 := by
  induction bs with
  | nil => intro l a; rw [shadowPuts]; simp
  | cons b bs ih =>
    intro l a
    rw [shadowPuts, ih, shadowPut, mem_keys_kset, List.length_cons, ← or_assoc]
    refine or_congr_left ?_
    omega

theorem distinct_nodup (l r : List Nat) (h : r.Nodup) : (l.foldl (fun r k => if r.contains k then r else r ++ [k]) r).Nodup := by
  induction l generalizing r with
  | nil => exact h
  | cons x l ih =>
    rw [List.foldl_cons]
    refine ih _ ?_
    split
    next => exact h
    next hx =>
      refine List.nodup_append.mpr ⟨h, List.nodup_singleton x, fun a ha b hb => ?_⟩
      rw [List.mem_singleton.mp hb]
      rintro rfl
      exact hx (by simpa using ha)

/-- The lines of a shadow that takes 8 aligned bytes (R430). -/
theorem shadowLines_puts {pa : Nat} (h : pa % 8 = 0) (l : List (Nat × Byte)) {bs : List Byte} (hb : bs.length = 8) :
    (shadowLines (shadowPuts l pa bs)).length = (pa / 128 :: l.map fun e => e.1 / 128).dedup.length := by
  refine List.Perm.length_eq ((List.perm_ext_iff_of_nodup (distinct_nodup _ _ List.nodup_nil) (List.nodup_dedup _)).mpr fun k => ?_)
  have hdiv : ∀ l : List (Nat × Byte), (k ∈ l.map fun e => e.1 / 128) ↔ ∃ x, (x ∈ l.map fun e => e.1) ∧ x / 128 = k := fun l => by
    simp only [List.mem_map]
    exact ⟨fun ⟨e, he, hk⟩ => ⟨e.1, ⟨e, he, rfl⟩, hk⟩, fun ⟨_, ⟨e, he, hx⟩, hk⟩ => ⟨e, he, hx ▸ hk⟩⟩
  rw [mem_distinct, List.mem_dedup, List.mem_cons, hdiv, hdiv]
  simp only [mem_keys_shadowPuts, hb, List.not_mem_nil, false_or]
  constructor
  · rintro ⟨x, hx | hx, rfl⟩
    · exact .inl (by omega)
    · exact .inr ⟨x, hx, rfl⟩
  · rintro (rfl | ⟨x, hx, rfl⟩)
    · exact ⟨pa, .inl (by omega), rfl⟩
    · exact ⟨x, .inr hx, rfl⟩

/-- A segment whose shadow has taken bytes of a line. -/
def Segment.storing (g : Segment) (va pa : Nat) (bs : List Byte) : Segment :=
  { g with shadow := shadowPuts g.shadow pa bs, lines := kset (pa / 128) (BitVec.ofNat 64 (va / 128 * 128)) g.lines }

/-- A segment whose shadow and integer adds were published before its end (R430). -/
def Segment.emptied (g : Segment) : Segment := { g with shadow := [], lines := [], adds := [], recoverable := false }

section
variable {s : State} {g : Segment}

theorem find?_open {l : List (Nat × Segment)} {p : Nat} {e : Nat × Segment} (h : l.find? (fun e => e.1 == p) = some e) (hc : e.2.closed = false) :
    l.find? (fun e => e.1 == p && !e.2.closed) = some e := by
  obtain ⟨hp, l, r, rfl, hfirst⟩ := List.find?_eq_some_iff_append.mp h
  refine List.find?_eq_some_iff_append.mpr ⟨by simp [hp, hc], l, r, rfl, fun x hx => ?_⟩
  have := hfirst x hx
  simp only [Bool.not_eq_true'] at this ⊢
  rw [this, Bool.false_and]

theorem segment_open (h : s.mySegment = some g) (hc : g.closed = false) : s.segment s.agent = some g := by
  obtain ⟨e, he, rfl⟩ := Option.map_eq_some_iff.mp h
  change (s.segs.find? fun e => e.1 == s.pos && !e.2.closed).map (fun e => e.2) = _
  rw [find?_open he hc]
  rfl

theorem segment_setSegment (s : State) {ag : Agent} {p : Nat} (hp : ag.seg = some p) (hc : g.closed = false) :
    (s.setSegment p g).segment ag = some g := by
  have hfind : (kset p g s.segs).find? (fun e => e.1 == p) = some (p, g) := by rw [find?_kset, if_pos rfl]
  unfold State.segment State.setSegment
  rw [hp]
  dsimp only
  rw [find?_open hfind hc]
  rfl

/-- The task reads the shadow's bytes wherever it holds them (R430). -/
theorem byteFor_shadowed (h : s.mySegment = some g) (hc : g.closed = false) (a : Nat) :
    s.byteFor s.agent a = Claim.shadowed g (Claim.byte s) a := by
  unfold State.byteFor Claim.shadowed
  rw [segment_open h hc]
  dsimp only
  cases g.shadow.find? fun e => e.1 == a <;> rfl

theorem mySegment_setSegment (s : State) (g : Segment) : (s.setSegment s.pos g).mySegment = some g := by
  unfold State.mySegment State.setSegment
  dsimp only
  rw [find?_kset, if_pos rfl]
  rfl

theorem shadowed_puts {h : Segment} {pa : Nat} {bs : List Byte} (hs : h.shadow = shadowPuts g.shadow pa bs) (m : Nat → Byte) (a : Nat) :
    Claim.shadowed h m a = Claim.put (Claim.shadowed g m) pa bs a := by
  unfold Claim.shadowed Claim.put
  rw [hs, find?_shadowPuts]
  split
  · rfl
  · rfl

/-- The digest of a task's own write (R432). -/
theorem digested_task (h : s.inTask = true) (va : Nat) (bs : List Byte) :
    s.digested s.agent va bs = { s with t := { s.t with digest := foldDigests s.t.digest (BitVec.ofNat 64 va) bs } } := by
  have hdet : (s.ctxAt s.agent.ctx).det = true := by
    rw [show s.ctxAt s.agent.ctx = s.ctx from if_pos rfl]
    exact (Bool.and_eq_true_iff.mp h).1
  unfold State.digested
  rw [hdet, if_pos (by simp [State.agent])]

/-- A store of an open segment goes to its shadow (R430). -/
theorem commitWrite_fits (h : Claim.openSegment s g) (va : Nat) {pa : Nat} {bs : List Byte}
    (hl : (shadowLines (shadowPuts g.shadow pa bs)).length ≤ 4096) : s.commitWrite s.agent va pa bs =
      (s.digested s.agent va bs).setSegment s.pos (g.storing va pa bs) := by
  have hseg : (s.digested s.agent va bs).segment s.agent = some g := by rw [digested_task h.1]; exact segment_open h.2.1 h.2.2
  unfold State.commitWrite
  dsimp only
  rw [hseg, show s.agent.seg = some s.pos from rfl]
  dsimp only
  rw [if_neg (by omega)]
  rfl

/-- Where a store takes too many lines they are published first (R430). -/
theorem commitWrite_overflows (h : Claim.openSegment s g) (va : Nat) {pa : Nat} {bs : List Byte}
    (hl : 4096 < (shadowLines (shadowPuts g.shadow pa bs)).length) : s.commitWrite s.agent va pa bs =
      ((s.digested s.agent va bs).overflowPublish s.pos g).setSegment s.pos (g.emptied.storing va pa bs) := by
  have hseg : (s.digested s.agent va bs).segment s.agent = some g := by rw [digested_task h.1]; exact segment_open h.2.1 h.2.2
  have hnext : ((s.digested s.agent va bs).overflowPublish s.pos g).segment s.agent =
      some g.emptied := segment_setSegment _ rfl h.2.2
  unfold State.commitWrite
  dsimp only
  rw [hseg, show s.agent.seg = some s.pos from rfl]
  dsimp only
  rw [if_pos hl, hnext]
  rfl

end

theorem put_put (m : Nat → Byte) (pa : Nat) (bs : List Byte) (a : Nat) : Claim.put (Claim.put m pa bs) pa bs a = Claim.put m pa bs a := by
  unfold Claim.put
  split <;> rfl

/-- A task that has stored bytes to its shadow sees them there. -/
theorem shadowed_stored {t : State} {h : Segment} (hs : t.mySegment = some h) (hc : h.closed = false) {l : List (Nat × Byte)} {pa : Nat} {bs : List Byte}
    (hp : h.shadow = shadowPuts l pa bs) (a : Nat) : Claim.shadowed h (Claim.byte t) a = Claim.put (t.byteFor t.agent) pa bs a := by
  have hsee : t.byteFor t.agent = Claim.put (Claim.shadowed { h with shadow := l } (Claim.byte t)) pa bs :=
    funext fun a => (byteFor_shadowed hs hc a).trans (shadowed_puts (g := { h with shadow := l }) hp _ a)
  rw [← byteFor_shadowed hs hc, hsee, put_put]

theorem byte_congr {s u : State} (h : s.mem = u.mem) : Claim.byte s = Claim.byte u :=
  funext fun a => by unfold Claim.byte; rw [h]

/-- What is seen once a segment's record holds a shadow that has taken bytes, and the word of its store has completed. -/
theorem store_lands (x : State) {h : Segment} {l : List (Nat × Byte)} {pa : Nat} {bs : List Byte} (hc : h.closed = false)
    (hs : h.shadow = shadowPuts l pa bs) : let t := (x.setSegment x.pos h).orderThread.advance
    t.mySegment = some h ∧ (∀ a, Claim.shadowed h (Claim.byte t) a = Claim.put (t.byteFor t.agent) pa bs a) ∧ Claim.byte t = Claim.byte x := by
  intro t
  have hmine : t.mySegment = some h := (mySegment_next (x.setSegment x.pos h) rfl rfl).trans (mySegment_setSegment ..)
  exact ⟨hmine, shadowed_stored hmine hc hs, byte_congr rfl⟩

theorem digest_store (d ea : DWord) (bs : List Byte) : foldDigests d (BitVec.ofNat 64 ea.toNat) bs =
    bs.zipIdx.foldl (fun d b => Claim.digest d (ea + BitVec.ofNat 64 b.2) b.1) d := by
  rw [BitVec.ofNat_toNat, BitVec.setWidth_eq]
  exact foldDigests_eq ..

theorem segmentShadow : Claim.SegmentShadow := by
  intro imm rs2 rs1 s u g pa hopen ea bs lines puts
  refine ⟨byteFor_shadowed hopen.2.1 hopen.2.2, fun hpass honce hpa => ?_⟩
  obtain ⟨page, hgo⟩ := accessWord_performs (k := .store) (v := s.t.readX rs2) hpass honce
  have hcounted : Claim.openSegment (Claim.counted u) g := hopen
  have hlines : (shadowLines (shadowPuts g.shadow pa bs)).length = lines := shadowLines_puts hpa _ (toBytes_length ..)
  obtain ⟨d, hd⟩ : ∃ d, bs.zipIdx.foldl (fun d b => Claim.digest d (ea + BitVec.ofNat 64 b.2) b.1) u.t.digest = d := ⟨_, rfl⟩
  obtain ⟨z, hz⟩ : ∃ z, (Claim.counted u).digested (Claim.counted u).agent ea.toNat bs = z := ⟨_, rfl⟩
  have hzt := hz.symm.trans (digested_task hcounted.1 ea.toNat bs)
  rw [show foldDigests (Claim.counted u).t.digest (BitVec.ofNat 64 ea.toNat) bs = d from (digest_store ..).trans hd] at hzt
  have hzbyte : Claim.byte z = Claim.byte u := byte_congr ((congrArg State.mem hzt).trans rfl)
  have hzdigest : z.t.digest = bs.zipIdx.foldl (fun d b => Claim.digest d (ea + BitVec.ofNat 64 b.2) b.1) u.t.digest := by rw [hzt]; exact hd.symm
  have hzpos : z.pos = u.pos := by rw [hzt]; rfl
  have hnext : ∀ (x : State) (h : Segment), (Claim.counted u).commitWrite (Claim.counted u).agent ea.toNat pa bs = x.setSegment u.pos h → x.pos = u.pos →
      exec (.sd rs2 rs1 imm) s = .next (x.setSegment x.pos h).orderThread.advance := fun x h hw hx => by
    rw [hx]
    exact hgo.trans (congrArg (fun y : State => Host.Outcome.next y.orderThread.advance) hw)
  refine ⟨fun hfits => ?_, fun hover hsound => ?_⟩
  · obtain ⟨h, hh⟩ : ∃ h, g.storing ea.toNat pa bs = h := ⟨_, rfl⟩
    have hw := commitWrite_fits hcounted ea.toNat (hlines.le.trans hfits)
    rw [hz, hh] at hw
    have hclosed : h.closed = false := by rw [← hh]; exact hopen.2.2
    have hshadow : h.shadow = shadowPuts g.shadow pa bs := by rw [← hh]; rfl
    obtain ⟨hmine, hseen, hbyte⟩ := store_lands z hclosed hshadow
    refine ⟨_, h, hnext z h hw hzpos, hmine, hclosed, by rw [← hh]; rfl, by rw [← hh]; rfl, by rw [← hh]; rfl, hseen, hzdigest,
      (congrArg State.mem hzt).trans rfl, by rw [← hh]; rfl, by rw [← hh]; rfl, fun a ha => ?_⟩
    rw [byteFor_shadowed hmine hclosed, byteFor_shadowed hopen.2.1 hopen.2.2, shadowed_puts hshadow, hbyte, hzbyte]
    exact if_neg (by rw [show bs.length = 8 from toBytes_length ..]; omega)
  · obtain ⟨h, hh⟩ : ∃ h, g.emptied.storing ea.toNat pa bs = h := ⟨_, rfl⟩
    obtain ⟨x, hx⟩ : ∃ x, z.overflowPublish u.pos g = x := ⟨_, rfl⟩
    have hw := commitWrite_overflows hcounted ea.toNat (hover.trans_eq hlines.symm)
    rw [hz, hh, show z.overflowPublish (Claim.counted u).pos g = x from hx] at hw
    obtain ⟨hwr, hb⟩ := landed_sound (s := z) (g := g) (by rw [hzt]; exact hsound)
    have hxt : x.t = z.t := (congrArg State.t hx).symm.trans ((congrArg State.t hwr.frame).trans rfl)
    have hxpos : x.pos = u.pos := (congrArg State.pos hx).symm.trans ((congrArg State.pos hwr.frame).trans hzpos)
    have hxbyte : Claim.byte x = Claim.committed g (Claim.byte u) := (congrArg Claim.byte hx).symm.trans (hb.trans (by rw [hzbyte]))
    have hclosed : h.closed = false := by rw [← hh]; exact hopen.2.2
    obtain ⟨hmine, hseen, hbyte⟩ := store_lands x (l := []) (pa := pa) (bs := bs) hclosed (by rw [← hh]; rfl)
    exact ⟨_, h, hnext x h hw hxpos, hmine, hclosed, by rw [← hh]; rfl, by rw [← hh]; rfl, by rw [← hh]; rfl, hseen,
      (congrArg Thread.digest hxt).trans hzdigest, congrFun (hbyte.trans hxbyte), by rw [← hh]; rfl, by rw [← hh]; rfl⟩

/-! ### A commit point that waits (R429, R430) -/

/-- An access of the task that its commit point waits for (R430, R469). -/
def State.left (s : State) : Prop := s.t.queue ≠ [] ∧ s.t.inTrap = false ∨ s.t.posted ≠ [] ∨ s.t.scalars ≠ []

section
variable {s w : State} {g : Segment}

theorem commitPoint_left (h : Claim.openSegment s g) (hl : s.left) : s.commitPoint = hold s := by
  obtain ⟨htask, hmine, hopen⟩ := h
  unfold State.commitPoint
  rw [htask, if_pos rfl, hmine]
  dsimp only
  rw [if_neg (by simp [hopen]), if_pos (by simpa [State.left] using hl)]

/-- A commit point with an access left waits with nothing else changed. -/
theorem committing_left (h : Claim.openSegment s g) (hl : s.left) (body : State → Run State) : finish (s.committing body) = Claim.held s := by
  unfold State.committing
  rw [commitPoint_left h hl]
  rfl

theorem halt_left (h : Claim.openSegment s g) (hl : s.left) : exec .halt s = Claim.held s := by
  change execHalt s = _
  unfold execHalt
  rw [commitPoint_left h hl]
  rfl

theorem dfence_committing {scope : BitVec 3} (h : scope ≠ 0) (s : State) : exec (.dfence scope) s = finish (s.committing (dfenceStep scope)) :=
  congrArg finish (if_pos (.inl h))

/-! ### A check that passes: the segment commits (R430, R431) -/

theorem commitPoint_checked {key : DWord} {b : Bool} (h : Claim.openSegment s g) (hl : ¬ s.left) (hk : key = segmentKey s.t.taskix g.number)
    (hc : s.checkDigest g.diglog g.digctl key s.t.digest = (b, w)) :
    s.commitPoint = .ok (if b then (.passed, w.commitSegment g) else (.undone, w.rollback g key)) := by
  obtain ⟨htask, hmine, hopen⟩ := h
  subst hk
  unfold State.commitPoint
  rw [htask, if_pos rfl, hmine]
  dsimp only
  rw [if_neg (by simp [hopen]), if_neg (by simpa [State.left] using hl), hc]
  cases b <;> rfl

/-- What the claims say of a pipeline: which it is, and its queues. -/
def Pipe.held (p : Pipe) : Nat × Nat × Nat × List (Nat × List StageRecord) := (p.ctx, p.launch, p.bay, p.queues)

theorem stir_frame (s : State) (b : Option Binding) : ∃ pipes, s.stir b = { s with pipes := pipes } := by
  cases b <;> exact ⟨_, rfl⟩

theorem held_stir (s : State) (b : Option Binding) : (s.stir b).pipes.map Pipe.held = s.pipes.map Pipe.held := by
  cases b with
  | none => rfl
  | some b =>
    change (s.pipes.map _).map Pipe.held = _
    rw [List.map_map]
    refine List.map_congr_left fun p _ => ?_
    simp only [Function.comp]
    split <;> rfl

theorem held_mapRecords (ctx : Nat) (f : StageRecord → Option StageRecord) (l : List Pipe) : (mapRecords ctx f l).map Pipe.held =
    l.map fun p => (p.ctx, p.launch, p.bay, if p.ctx = ctx then p.queues.map fun q => (q.1, q.2.filterMap f) else p.queues) := by
  unfold mapRecords
  rw [List.map_map]
  refine List.map_congr_left fun p _ => ?_
  simp only [Function.comp]
  split <;> rfl

theorem pushes_of_records {s t : State} {f : StageRecord → Option StageRecord} {h : List StageRecord → List StageRecord}
    (hp : t.pipes.map Pipe.held = (mapRecords s.t.ctx f s.pipes).map Pipe.held) (hf : ∀ l, l.filterMap f = h l) : Claim.pushes s t h := by
  rw [held_mapRecords] at hp
  simp only [hf] at hp
  exact hp

theorem heldBy_iff (r : StageRecord) (p : Nat) : r.heldBy p = true ↔ r.takeable = false ∧ r.byPos = p := by
  simp [StageRecord.heldBy]

/-- A segment that a commit point has closed. -/
def Segment.committed (g : Segment) : Segment := { g with shadow := [], lines := [], adds := [], floats := [], failed := false, closed := true }

/-- What the commit of a segment leaves (R430). -/
theorem commitSegment_sound (h : Claim.sound w g) : let c := w.commitSegment g
    c.t = w.t ∧ c.pos = w.pos ∧ c.core = w.core ∧ c.ctx = { w.ctx with adds := w.ctx.adds ++ g.floats } ∧
      Claim.byte c = Claim.committed g (Claim.byte w) ∧ c.mySegment = some g.committed ∧
      c.pipes.map Pipe.held =
        (mapRecords w.t.ctx (fun r => some (if r.heldBy w.pos then { r with takeable := true } else r)) w.pipes).map Pipe.held := by
  obtain ⟨hwr, hb⟩ := landed_sound h
  obtain ⟨x, hx⟩ : ∃ x, w.landed g = x := ⟨_, rfl⟩
  rw [hx] at hwr hb
  intro c
  obtain ⟨y, hy⟩ : ∃ y : State, { x with
      pipes := mapRecords x.t.ctx (fun r => some (if r.heldBy x.pos then { r with takeable := true } else r)) x.pipes
      ctx := { x.ctx with adds := x.ctx.adds ++ g.floats } } = y := ⟨_, rfl⟩
  have hc : c = (y.stir y.t.pipe).setSegment y.pos g.committed := by rw [← hy, ← hx]; rfl
  obtain ⟨pipes, hstir⟩ := stir_frame y y.t.pipe
  have hpipes : (y.stir y.t.pipe).pipes.map Pipe.held = y.pipes.map Pipe.held := held_stir y y.t.pipe
  rw [hstir] at hc hpipes
  have hxt : x.t = w.t := (congrArg State.t hwr.frame).trans rfl
  have hxpos : x.pos = w.pos := (congrArg State.pos hwr.frame).trans rfl
  have hxcore : x.core = w.core := (congrArg State.core hwr.frame).trans rfl
  have hxctx : x.ctx = w.ctx := (congrArg State.ctx hwr.frame).trans rfl
  have hxpipes : x.pipes = w.pipes := (congrArg State.pipes hwr.frame).trans rfl
  have hmine : c.mySegment = some g.committed := by rw [hc]; exact mySegment_setSegment { y with pipes := pipes } g.committed
  rw [hc] at hmine ⊢
  subst hy
  exact ⟨hxt, hxpos, hxcore, by rw [← hxctx]; rfl, (byte_congr (u := x) rfl).trans hb, hmine, by rw [← hxt, ← hxpos, ← hxpipes]; exact hpipes⟩

/-- The word behind the commit of a segment completes and the next segment begins (R429). -/
theorem commits_next (h : Claim.sound w g) : Claim.commits w ((w.commitSegment g).advance.beginSegment (g.number + 1)) g := by
  obtain ⟨ht, hpos, hcore, hctx, hbyte, -, hpipes⟩ := commitSegment_sound h
  generalize w.commitSegment g = c at *
  have hadvance : c.advance.t = w.advance.t := by
    change ({ c.t with lcount := (loopCheck c.t (c.t.pc + 4)).1, pc := (loopCheck c.t (c.t.pc + 4)).2, wait := none } : Thread) = _
    rw [ht]
    rfl
  refine ⟨hadvance, hpos, fun a => congrFun ((byte_congr rfl).trans hbyte) a, (congrArg Context.adds hctx).trans rfl,
    pushes_of_records hpipes fun l => ?_, ?_⟩
  · rw [← List.filterMap_eq_map]
    refine congrArg (fun f => l.filterMap f) (funext fun r => ?_)
    simp only [heldBy_iff, Function.comp]
  · refine (mySegment_setSegment c.advance _).trans ?_
    have htiles : c.advance.myTiles = if w.core.tileOwner = some (w.pos % 4) then w.core.z.toList else [] := by
      rw [← hcore, ← hpos]; rfl
    have hdiglog : c.advance.ctx.diglog = w.ctx.diglog := (congrArg Context.diglog hctx).trans rfl
    have hdigctl : c.advance.ctx.digctl = w.ctx.digctl := (congrArg Context.digctl hctx).trans rfl
    rw [htiles, hdiglog, hdigctl]
    rfl

/-- DFENCE whose segment's check passes (R429, R430). -/
theorem dfence_commits {scope : BitVec 3} (h0 : scope ≠ 0) (h5 : scope ≠ 5) (h : Claim.openSegment s g) (hl : ¬ s.left)
    (hc : s.checkDigest g.diglog g.digctl (segmentKey s.t.taskix g.number) s.t.digest = (true, w)) (hw : w.t = s.t) (hs : Claim.sound w g) :
    ∃ t, exec (.dfence scope) s = .next t ∧ Claim.commits w t g := by
  obtain ⟨ht, -, -, -, -, hmine, -⟩ := commitSegment_sound hs
  refine ⟨_, ?_, commits_next hs⟩
  have hperformed : (w.commitSegment g).t.allPerformed = true := by
    rw [ht, hw]
    simp only [State.left, not_or, not_and, not_not] at hl
    obtain ⟨hqueue, hposted, -⟩ := hl
    have hdone : s.t.queueDone = true := queueDone_of (by
      by_cases hq : s.t.queue = []
      · exact .inl hq
      · exact .inr (by simpa using hqueue hq))
    rw [Thread.allPerformed, hdone, hposted]
    rfl
  have hstep : dfenceStep scope (w.commitSegment g) = .ok (w.commitSegment g).advance := by
    unfold dfenceStep
    rw [hperformed, beq_false_of_ne h5]
    rfl
  have hnext : (w.commitSegment g).advance.nextSegment = (w.commitSegment g).advance.beginSegment (g.number + 1) := by
    unfold State.nextSegment
    rw [mySegment_next (t := (w.commitSegment g).advance) (w.commitSegment g) rfl rfl, hmine]
    rfl
  rw [dfence_committing h0]
  unfold State.committing
  rw [commitPoint_checked h hl rfl hc, if_pos rfl]
  dsimp only
  rw [hstep]
  dsimp only
  rw [hnext]
  rfl

/-- DFENCE whose segment's check fails (R435). -/
theorem dfence_fails {scope : BitVec 3} (h0 : scope ≠ 0) (h : Claim.openSegment s g) (hl : ¬ s.left)
    (hc : s.checkDigest g.diglog g.digctl (segmentKey s.t.taskix g.number) s.t.digest = (false, w)) :
    exec (.dfence scope) s = .next (w.rollback g (segmentKey s.t.taskix g.number)) := by
  rw [dfence_committing h0]
  unfold State.committing
  rw [commitPoint_checked h hl rfl hc]
  rfl

/-! ### A check that fails (R435) -/

theorem rollback_ends (h : g.failed = true ∨ g.recoverable = false) (key : DWord) :
    Claim.ended w (w.rollback g key) w.t.ctx cause.digest w.t.pc key := by
  unfold State.rollback
  rw [if_pos (by rcases h with h | h <;> simp [h])]
  exact endContext_ended ..

/-- The thread at the checkpoint of a segment whose check failed first, its pushes gone (R435). -/
def State.undone (w : State) (g : Segment) : State :=
  { w with
    pipes := mapRecords w.t.ctx (fun r => if r.heldBy w.pos then none else some r) w.pipes,
    ctx := { w.ctx with nodes := w.ctx.nodes.filter fun n => !(n.parent == w.t.node && decide (g.checkpoint.children < n.c)) },
    t := g.checkpoint }

/-- A segment that runs again. -/
def Segment.again (g : Segment) : Segment := { g with shadow := [], lines := [], adds := [], floats := [], failed := true }

theorem rollback_eq (hf : g.failed = false) (hr : g.recoverable = true) (key : DWord) :
    w.rollback g key = ((w.undone g).restoreTiles g).setSegment ((w.undone g).restoreTiles g).pos g.again := by
  unfold State.rollback
  rw [if_neg (by simp [hf, hr])]
  rfl

theorem releaseTile_owner (c : CoreState) (slot : Nat) : (c.releaseTile slot).tileOwner ≠ some slot := by
  unfold CoreState.releaseTile
  dsimp only
  split
  · exact Option.some_ne_none _ |>.symm
  · assumption

/-- What the checkpoint's tile unit leaves of the state. -/
theorem restoreTiles_frame (w : State) (g : Segment) : ∃ tiles core, w.restoreTiles g = { w with t := { w.t with tileSave := tiles }, core := core } ∧
    (g.tiles = [] ∨ w.core.tileOwner = some (w.pos % 4) → tiles = w.t.tileSave) ∧
    (g.tiles ≠ [] → w.core.tileOwner ≠ some (w.pos % 4) → tiles = g.tiles) ∧
    (g.tiles ≠ [] → w.core.tileOwner = some (w.pos % 4) → ∀ k : Fin 4, core.z[k] = g.tiles.getD k.val []) ∧
    (g.tiles = [] → core.tileOwner ≠ some (w.pos % 4)) := by
  unfold State.restoreTiles
  dsimp only
  split
  next h =>
    exact ⟨w.t.tileSave, w.core.releaseTile (w.pos % 4), rfl, fun _ => rfl, fun hn => absurd h hn, fun hn => absurd h hn, fun _ => releaseTile_owner _ _⟩
  next h =>
    split
    next ho =>
      exact ⟨w.t.tileSave, { w.core with z := Vector.ofFn fun k => g.tiles.getD k.val [] }, rfl, fun _ => rfl, fun _ hn => absurd ho hn,
        fun _ _ k => by simp, fun hn => absurd hn h⟩
    next ho =>
      exact ⟨g.tiles, w.core, rfl, fun hn => (hn.elim h ho).elim, fun _ _ => rfl, fun _ hn => absurd hn ho, fun hn => absurd hn h⟩

/-- No other thread of a context goes on while one of its segments runs again (R435). -/
theorem mayRun_others {t : State} (hp : t.pos < slotCount) (hlive : t.t.live = true) (hmine : t.mySegment = some g) (hfail : g.failed = true)
    {p : Nat} (hne : p ≠ t.pos) (hctx : (t.focus p).t.ctx = t.t.ctx) : (t.focus p).mayRun = false := by
  obtain ⟨e, he, rfl⟩ := Option.map_eq_some_iff.mp hmine
  have hkey : e.1 = t.pos := by simpa using List.find?_some he
  have hself : t.threadAt t.pos = t.t := if_pos rfl
  have hothers : (t.focus p).othersSegment e.1 = true := by
    unfold State.othersSegment
    rw [hkey, if_pos hp, focus_pos, threadAt_focus, hself, hlive, hctx]
    simp [hne.symm]
  have hsegs : (t.focus p).segs = t.segs := by
    obtain ⟨_, _, _, _, _, _, _, _, h⟩ := focus_rest t p
    rw [h]
  have hany : ((t.focus p).segs.any fun e => e.2.failed && (t.focus p).othersSegment e.1) = true := by
    rw [hsegs, List.any_eq_true]
    exact ⟨e, List.mem_of_find?_eq_some he, by rw [hfail, hothers]; rfl⟩
  unfold State.mayRun
  rw [hany]
  simp

theorem rollback_rolledBack (hf : g.failed = false) (hr : g.recoverable = true) (key : DWord) : Claim.rolledBack w (w.rollback g key) g := by
  intro hp hlive hctx owner
  obtain ⟨tiles, core, hz, hsame, hsave, hown, hfree⟩ := restoreTiles_frame (w.undone g) g
  have ht : w.rollback g key = ({ w.undone g with t := { g.checkpoint with tileSave := tiles }, core := core } : State).setSegment w.pos g.again := by
    rw [rollback_eq hf hr, hz]; rfl
  have hmine : (w.rollback g key).mySegment = some g.again := by
    rw [ht]; exact mySegment_setSegment ({ w.undone g with t := { g.checkpoint with tileSave := tiles }, core := core } : State) g.again
  have hrun : ∀ p, p ≠ w.pos → ((w.rollback g key).focus p).t.ctx = w.t.ctx → ((w.rollback g key).focus p).mayRun = false := by
    intro p hne hpc
    refine mayRun_others (g := g.again) ?_ ?_ hmine rfl ?_ ?_
    · rw [ht]; exact hp
    · rw [ht]; exact hlive
    · rw [ht]; exact hne
    · rw [hpc, ht]; exact hctx.symm
  rw [ht] at hmine hrun ⊢
  refine ⟨rfl, rfl, rfl, fun h => ?_, hsave, hown, hfree, hmine, rfl, pushes_of_records rfl fun l => ?_, hrun⟩
  · change ({ g.checkpoint with tileSave := tiles } : Thread) = _
    rw [hsame h]
    rfl
  · induction l with
    | nil => rfl
    | cons r l ih =>
      have hheld : (!(r.takeable == false && r.byPos == w.pos)) = !r.heldBy w.pos := by cases h : r.takeable <;> simp [StageRecord.heldBy, h]
      rw [List.filterMap_cons, List.filter_cons, hheld, ih]
      cases r.heldBy w.pos <;> rfl

end

/-! ### The end of a segment (R429, R430, R434, R435) -/

theorem ofBytes_take_drop (bs : List Byte) (n : Nat) (h : ofBytes bs = 0) : ofBytes (bs.take n) = 0 ∧ ofBytes (bs.drop n) = 0 := by
  induction bs generalizing n with
  | nil => simp [ofBytes]
  | cons b bs ih =>
    rw [ofBytes] at h
    obtain ⟨hb, hbs⟩ : b.toNat = 0 ∧ ofBytes bs = 0 := by omega
    cases n with
    | zero => exact ⟨rfl, by rw [List.drop_zero, ofBytes, hb, hbs]⟩
    | succ n =>
      obtain ⟨ht, hd⟩ := ih n hbs
      exact ⟨by rw [List.take_succ_cons, ofBytes, hb, ht], hd⟩

section
variable {s u v : State} {diglog digctl key : DWord} {bs : List Byte} {pa : Nat}

/-- The first probe of a key finds it, or an empty entry. -/
theorem probe_takes (h : s.order.read s.logAgent .load 1 (logEntry diglog digctl key) 16 = .ok (bs, u))
    (hk : ofBytes (bs.take 8) = key.toNat ∨ ofBytes bs = 0) :
    (∃ d, s.probe diglog digctl key true 8 0 = (.match_ (logEntry diglog digctl key) d, u)) ∨
      s.probe diglog digctl key true 8 0 = (.empty (logEntry diglog digctl key), u) := by
  by_cases hmatch : ofBytes (bs.take 8) = key.toNat
  · exact .inl ⟨_, probe_match h hmatch true⟩
  · obtain ⟨htake, hdrop⟩ := ofBytes_take_drop bs 8 (hk.resolve_left hmatch)
    right
    unfold State.probe
    dsimp only
    rw [probeAddress_zero, h]
    dsimp only
    rw [htake, hdrop, if_neg fun h0 => hmatch (by rw [htake, ← h0]; rfl)]
    rfl

/-- The entry of a key is written within its line. -/
theorem write_entry (h : u.order.checkPart u.logAgent .store (logEntry diglog digctl key) 16 = .ok (pa, v)) {b : List Byte} (hb : b.length = 16) :
    u.order.write u.logAgent .store (logEntry diglog digctl key) b = .ok (v.physWrite pa b) := by
  have hparts : u.order.checkParts u.logAgent .store (lineParts (logEntry diglog digctl key) b.length) = .ok ([(logEntry diglog digctl key, pa, 16)], v) := by
    rw [hb, lineParts_entry]
    unfold State.checkParts
    rw [h]
    rfl
  have hplain : v.commitWrite u.logAgent (logEntry diglog digctl key) pa b = v.physWrite pa b := by
    have hdig : v.digested u.logAgent (logEntry diglog digctl key) b = v := by
      unfold State.digested
      rw [if_neg (by simp [State.logAgent])]
    rw [commitWrite_plain _ _ _ _ _ rfl, hdig]
  unfold State.write
  rw [hparts]
  dsimp only [State.putParts]
  rw [List.take_of_length_le hb.le, hplain]

/-- With MODE 1 an entry of the key, or an empty one, takes the key and the digest (R434). -/
theorem checkDigest_record (hm : digctl.toNat % 4 = 1) (h : s.order.read s.logAgent .load 1 (logEntry diglog digctl key) 16 = .ok (bs, u))
    (hk : ofBytes (bs.take 8) = key.toNat ∨ ofBytes bs = 0)
    (hw : u.order.checkPart u.logAgent .store (logEntry diglog digctl key) 16 = .ok (pa, v)) (d : DWord) :
    s.checkDigest diglog digctl key d = (true, v.physWrite pa (toBytes 8 key.toNat ++ toBytes 8 d.toNat)) := by
  have hput := write_entry hw (b := toBytes 8 key.toNat ++ toBytes 8 d.toNat) (by rw [List.length_append, toBytes_length, toBytes_length])
  unfold State.checkDigest
  rw [field_mode, hm]
  rcases probe_takes h hk with ⟨x, hp⟩ | hp
  · simp only [hp, hput]
  · simp only [hp, hput]

end

theorem cacheStep_t {s u : State} (h : CacheStep s u) : u.t = s.t := by
  obtain ⟨_, _, _, _, rfl⟩ := h; rfl

theorem segmentsCommit : Claim.SegmentsCommit := by
  intro scope scope' level len rs2 rs1 rd cd dw x s u v g bs pa h0 h5 hopen left key entry mode fence
  have hkey : segmentKey s.t.taskix g.number = key := congrArg (· ||| 1) (taskKey_eq s.t.taskix g.number)
  have hread : s.order.read s.logAgent .load 1 entry 16 = .ok (bs, u) → u.t = s.t := fun h => cacheStep_t (s := s.order) (readParts_ok h).1
  refine ⟨fun hl => ?_, fun hl hs hm => ?_, fun hl hr => ⟨?_, fun hm hk => ⟨fun hd hs => ?_, fun hd => ?_⟩⟩⟩
  · have hcommit : ∀ body : State → Run State, finish (s.committing body) = Claim.held s := committing_left hopen hl
    simp only [List.forall_mem_cons, List.not_mem_nil, false_imp_iff, implies_true, and_true]
    exact ⟨(dfence_committing h0 s).trans (hcommit _), hcommit _, hcommit _, hcommit _, hcommit _, hcommit _, hcommit _, hcommit _, hcommit _, hcommit _,
      hcommit _, hcommit _, hcommit _, hcommit _, hcommit _, hcommit _, hcommit _, hcommit _, hcommit _, hcommit _, hcommit _, hcommit _, hcommit _,
      hcommit _, hcommit _, hcommit _, hcommit _, hcommit _, hcommit _, hcommit _, halt_left hopen hl⟩
  · exact dfence_commits h0 h5 hopen hl (checkDigest_off hm _) rfl hs
  · intro hm hk hw w hs
    have ht : w.t = s.t := (cacheStep_t (s := u.order) (checkPart_ok hw).1).trans (hread hr)
    exact dfence_commits h0 h5 hopen hl (by rw [hkey]; exact checkDigest_record hm hr hk hw _) ht hs
  · exact dfence_commits h0 h5 hopen hl (by rw [hkey, checkDigest_compare hm hr hk, decide_eq_true hd]) (hread hr) hs
  · have hfail := dfence_fails h0 hopen hl (w := u) (by rw [hkey, checkDigest_compare hm hr hk, decide_eq_false hd])
    rw [hkey] at hfail
    refine ⟨fun hg => ⟨_, hfail, ?_⟩, fun hf hrec => ⟨_, hfail, rollback_rolledBack hf hrec key⟩⟩
    have hends := rollback_ends (w := u) hg key
    rwa [hread hr] at hends

/-- Settles O5: an AMO is one step on its word; a segment's shadow and integer adds become memory where its check passes, and a failed check
rolls its thread back once; the digest of a launch folds its tree; and held floating-point adds are made in the order of their tasks. -/
theorem atomicWords : Obligations.AtomicWords :=
  ⟨atomicSteps, segmentsCommit, segmentShadow, launchDigests, heldFloatAdds⟩

end Sys2Proof.Machine
end
